-- ==== Sys2Proof/Word.lean ====
section
/-! DEFINITION. The machine's word and byte, and the plainest arithmetic on them (R2, R102). -/

namespace Sys2Proof

/-- A 64-bit scalar register value (R102). -/
abbrev Word := BitVec 64

/-- One byte of memory (R3). -/
abbrev Byte := BitVec 8

/-- A scalar, vector, predicate or index register number as an instruction names it (R292). -/
abbrev Reg := BitVec 7

end Sys2Proof
end

