-- ==== Sys2Proof/Syntax.lean ====
section
/-! DEFINITION. The syntax of every operation of spec/opcode_table.json, one constructor a row.
The 225 Shurra instructions carry their operand fields (spec/12 R292); the 132 device operations and events
carry none: what reaches them (the arguments of a call, a port, a hart, host data) stands in the machine's input latch
`State.inp`, which the step loads from the event queue, and the rest in the machine's registers (spec/95 lists what
each step holds). -/

namespace Sys2Proof

/-- Who issued a Riura call (R54): the control program of an application ID, or the Shurra hart of a context number. -/
inductive Caller where
  | ctl (app : Nat)
  | hart (h : Nat)
deriving DecidableEq, Repr

/-- The two register windows a host-side register write can reach: BAR0 (R42) and the readback window (R35). -/
inductive RegWindow where
  | bar0
  | readback
deriving DecidableEq, Repr

/-- The bring-up step that fails (R33, Table 7), with the stack number for step 5. -/
inductive BringUpFail where
  | fuse
  | bootAuth
  | rail
  | dieLink
  | hbm (stack : BitVec 4)
  | riuraAuth
deriving DecidableEq, Repr

/-- The sensor classes of the alarm policies (R28, R30). -/
inductive AlarmClass where
  | tamper
  | voltage
  | clockGlitch
deriving DecidableEq, Repr

/-- What an SPDM request asks Husk for (R28). -/
inductive SpdmKind where
  | certificates
  | measurements
  | keyExchange
deriving DecidableEq, Repr

/-- The two pool links (R22). -/
inductive PoolLink where
  | a
  | b
deriving DecidableEq, Repr

/-- What the patrol scrub meets at a granule (R193). -/
inductive EccError where
  | none
  | corrected
  | uncorrectable
deriving DecidableEq, Repr

/-- One element of a remote train as it reaches the destination package (R390, R391). -/
structure TrainElem where
  index : Nat
  win : Nat
  off : Nat
  tag : BitVec 6
  bytes : List Byte
deriving DecidableEq, Repr

/-- Every operation of the opcode table. -/
inductive Instr where
  /-- LUI (R315): Loads a sign-extended 20-bit immediate times 4,096. -/
  | lui (d : BitVec 7) (imm : BitVec 20)
  /-- PCHI (R315): Adds a sign-extended 20-bit immediate times 4,096 to the PC. -/
  | pchi (d : BitVec 7) (imm : BitVec 20)
  /-- JAL (R316): Jumps PC-relative and links. -/
  | jal (d : BitVec 7) (imm : BitVec 20)
  /-- JALR (R317): Jumps to register plus offset and links. -/
  | jalr (d : BitVec 7) (a : BitVec 7) (imm : BitVec 12)
  /-- ADDI (R318): Adds an immediate. -/
  | addi (d : BitVec 7) (a : BitVec 7) (imm : BitVec 12)
  /-- ANDI (R318): ANDs with an immediate. -/
  | andi (d : BitVec 7) (a : BitVec 7) (imm : BitVec 12)
  /-- ORI (R318): ORs with an immediate. -/
  | ori (d : BitVec 7) (a : BitVec 7) (imm : BitVec 12)
  /-- XORI (R318): XORs with an immediate. -/
  | xori (d : BitVec 7) (a : BitVec 7) (imm : BitVec 12)
  /-- SLTI (R318): Sets 1 if the register is below the immediate, signed. -/
  | slti (d : BitVec 7) (a : BitVec 7) (imm : BitVec 12)
  /-- SLTNI (R318): Sets 1 if the register is below the immediate, unsigned. -/
  | sltni (d : BitVec 7) (a : BitVec 7) (imm : BitVec 12)
  /-- SHLI (R319): Shifts left by an immediate amount. -/
  | shli (d : BitVec 7) (a : BitVec 7) (n : BitVec 6)
  /-- SHRLI (R319): Shifts right logically by an immediate amount. -/
  | shrli (d : BitVec 7) (a : BitVec 7) (n : BitVec 6)
  /-- SHRAI (R319): Shifts right arithmetically by an immediate amount. -/
  | shrai (d : BitVec 7) (a : BitVec 7) (n : BitVec 6)
  /-- ROTRI (R319): Rotates right by an immediate amount. -/
  | rotri (d : BitVec 7) (a : BitVec 7) (n : BitVec 6)
  /-- ADD (R320): Adds two registers. -/
  | add (d : BitVec 7) (a : BitVec 7) (b : BitVec 7)
  /-- SUB (R320): Subtracts two registers. -/
  | sub (d : BitVec 7) (a : BitVec 7) (b : BitVec 7)
  /-- AND (R320): Bitwise AND. -/
  | and (d : BitVec 7) (a : BitVec 7) (b : BitVec 7)
  /-- OR (R320): Bitwise OR. -/
  | or (d : BitVec 7) (a : BitVec 7) (b : BitVec 7)
  /-- XOR (R320): Bitwise XOR. -/
  | xor (d : BitVec 7) (a : BitVec 7) (b : BitVec 7)
  /-- SHL (R320): Shifts left by a register amount. -/
  | shl (d : BitVec 7) (a : BitVec 7) (b : BitVec 7)
  /-- SHRL (R320): Shifts right logically by a register amount. -/
  | shrl (d : BitVec 7) (a : BitVec 7) (b : BitVec 7)
  /-- SHRA (R320): Shifts right arithmetically by a register amount. -/
  | shra (d : BitVec 7) (a : BitVec 7) (b : BitVec 7)
  /-- SLT (R320): Sets 1 if a is below b, signed. -/
  | slt (d : BitVec 7) (a : BitVec 7) (b : BitVec 7)
  /-- SLTN (R320): Sets 1 if a is below b, unsigned. -/
  | sltn (d : BitVec 7) (a : BitVec 7) (b : BitVec 7)
  /-- MIN (R320): Signed minimum. -/
  | min (d : BitVec 7) (a : BitVec 7) (b : BitVec 7)
  /-- MAX (R320): Signed maximum. -/
  | max (d : BitVec 7) (a : BitVec 7) (b : BitVec 7)
  /-- MINN (R320): Unsigned minimum. -/
  | minn (d : BitVec 7) (a : BitVec 7) (b : BitVec 7)
  /-- MAXN (R320): Unsigned maximum. -/
  | maxn (d : BitVec 7) (a : BitVec 7) (b : BitVec 7)
  /-- ANDN (R320): a AND NOT b. -/
  | andn (d : BitVec 7) (a : BitVec 7) (b : BitVec 7)
  /-- ROTR (R320): Rotates right by a register amount. -/
  | rotr (d : BitVec 7) (a : BitVec 7) (b : BitVec 7)
  /-- MUL (R321): Low 64 bits of the product. -/
  | mul (d : BitVec 7) (a : BitVec 7) (b : BitVec 7)
  /-- MULH (R321): High 64 bits of the unsigned product. -/
  | mulh (d : BitVec 7) (a : BitVec 7) (b : BitVec 7)
  /-- MULHN (R321): High 64 bits of the signed product. -/
  | mulhn (d : BitVec 7) (a : BitVec 7) (b : BitVec 7)
  /-- DIV (R321): Unsigned quotient. -/
  | div (d : BitVec 7) (a : BitVec 7) (b : BitVec 7)
  /-- DIVN (R321): Signed quotient, truncated. -/
  | divn (d : BitVec 7) (a : BitVec 7) (b : BitVec 7)
  /-- REM (R321): Unsigned remainder. -/
  | rem (d : BitVec 7) (a : BitVec 7) (b : BitVec 7)
  /-- REMN (R321): Signed remainder. -/
  | remn (d : BitVec 7) (a : BitVec 7) (b : BitVec 7)
  /-- CLZ (R321): Counts leading zeros. -/
  | clz (d : BitVec 7) (a : BitVec 7)
  /-- CTZ (R321): Counts trailing zeros. -/
  | ctz (d : BitVec 7) (a : BitVec 7)
  /-- POPC (R321): Counts set bits. -/
  | popc (d : BitVec 7) (a : BitVec 7)
  /-- LDB (R322): Loads a byte, sign-extended. -/
  | ldb (d : BitVec 7) (a : BitVec 7) (imm : BitVec 12)
  /-- LDH (R322): Loads a halfword, sign-extended. -/
  | ldh (d : BitVec 7) (a : BitVec 7) (imm : BitVec 12)
  /-- LDW (R322): Loads a word, sign-extended. -/
  | ldw (d : BitVec 7) (a : BitVec 7) (imm : BitVec 12)
  /-- LDD (R322): Loads a doubleword. -/
  | ldd (d : BitVec 7) (a : BitVec 7) (imm : BitVec 12)
  /-- LDBN (R322): Loads a byte, zero-extended. -/
  | ldbn (d : BitVec 7) (a : BitVec 7) (imm : BitVec 12)
  /-- LDHN (R322): Loads a halfword, zero-extended. -/
  | ldhn (d : BitVec 7) (a : BitVec 7) (imm : BitVec 12)
  /-- LDWN (R322): Loads a word, zero-extended. -/
  | ldwn (d : BitVec 7) (a : BitVec 7) (imm : BitVec 12)
  /-- STB (R323): Stores a byte. -/
  | stb (b : BitVec 7) (a : BitVec 7) (imm : BitVec 12)
  /-- STH (R323): Stores a halfword. -/
  | sth (b : BitVec 7) (a : BitVec 7) (imm : BitVec 12)
  /-- STW (R323): Stores a word. -/
  | stw (b : BitVec 7) (a : BitVec 7) (imm : BitVec 12)
  /-- STD (R323): Stores a doubleword. -/
  | std (b : BitVec 7) (a : BitVec 7) (imm : BitVec 12)
  /-- BEQ (R324): Branches if equal. -/
  | beq (a : BitVec 7) (b : BitVec 7) (imm : BitVec 12)
  /-- BNE (R324): Branches if not equal. -/
  | bne (a : BitVec 7) (b : BitVec 7) (imm : BitVec 12)
  /-- BLT (R324): Branches if less, signed. -/
  | blt (a : BitVec 7) (b : BitVec 7) (imm : BitVec 12)
  /-- BGE (R324): Branches if greater or equal, signed. -/
  | bge (a : BitVec 7) (b : BitVec 7) (imm : BitVec 12)
  /-- BLTN (R324): Branches if less, unsigned. -/
  | bltn (a : BitVec 7) (b : BitVec 7) (imm : BitVec 12)
  /-- BGEN (R324): Branches if greater or equal, unsigned. -/
  | bgen (a : BitVec 7) (b : BitVec 7) (imm : BitVec 12)
  /-- SRD (R325): Reads a state register. -/
  | srd (d : BitVec 7) (num : BitVec 12)
  /-- SWR (R325): Writes a state register under R115. -/
  | swr (a : BitVec 7) (num : BitVec 12)
  /-- WINB (R326): Moves the vector window base. -/
  | winb (a : BitVec 7) (imm : BitVec 12)
  /-- ICLOCK (R327): Locks instruction-cache lines and returns the count locked. -/
  | iclock (d : BitVec 7) (a : BitVec 7) (lines : BitVec 12)
  /-- SETVLI (R328): Sets the vector configuration from an immediate and sets VL, opening a strip. -/
  | setvli (d : BitVec 7) (a : BitVec 7) (cfg : BitVec 12)
  /-- SETVL (R328): Sets the vector configuration from a register and sets VL, opening a strip. -/
  | setvl (d : BitVec 7) (a : BitVec 7) (b : BitVec 7)
  /-- ECALL (R329): Drains as FENCE.pkg, breaks links and calls Riura. -/
  | ecall
  /-- TRAPRET (R277): Returns from a first-level handler to TPC. -/
  | trapret
  /-- BRK (R330): Takes the BREAK trap. -/
  | brk (code : BitVec 14)
  /-- WFE (R331): Waits for the wake latch or a time limit. -/
  | wfe (d : BitVec 7) (a : BitVec 7)
  /-- FENCE (R332): Orders all accesses at a scope and triggers STOREPEND. -/
  | fence (scope : BitVec 3)
  /-- DRAINST (R280): Waits for earlier stores, then takes STOREPEND if records are held. -/
  | drainst
  /-- SFRPOP (R281): Pops the oldest store-fault record into four registers. -/
  | sfrpop (d : BitVec 7)
  /-- ICUNLOCK (R327): Releases the hart's instruction-cache locks. -/
  | icunlock
  /-- EXIT (R333): Drains and ends the hart, which keeps its slice until the crew ends. -/
  | exit
  /-- YIELD (R334): Gives up issue for 16 clk. -/
  | yield
  /-- AMOSWAP (R335): Atomic swap. -/
  | amoswap (d : BitVec 7) (a : BitVec 7) (b : BitVec 7)
  /-- AMOADD (R335): Atomic add. -/
  | amoadd (d : BitVec 7) (a : BitVec 7) (b : BitVec 7)
  /-- AMOAND (R335): Atomic AND. -/
  | amoand (d : BitVec 7) (a : BitVec 7) (b : BitVec 7)
  /-- AMOOR (R335): Atomic OR. -/
  | amoor (d : BitVec 7) (a : BitVec 7) (b : BitVec 7)
  /-- AMOXOR (R335): Atomic XOR. -/
  | amoxor (d : BitVec 7) (a : BitVec 7) (b : BitVec 7)
  /-- AMOMIN (R335): Atomic signed minimum. -/
  | amomin (d : BitVec 7) (a : BitVec 7) (b : BitVec 7)
  /-- AMOMAX (R335): Atomic signed maximum. -/
  | amomax (d : BitVec 7) (a : BitVec 7) (b : BitVec 7)
  /-- AMOMINN (R335): Atomic unsigned minimum. -/
  | amominn (d : BitVec 7) (a : BitVec 7) (b : BitVec 7)
  /-- AMOMAXN (R335): Atomic unsigned maximum. -/
  | amomaxn (d : BitVec 7) (a : BitVec 7) (b : BitVec 7)
  /-- AMOCAS (R335): Atomic compare and swap. -/
  | amocas (d : BitVec 7) (a : BitVec 7) (b : BitVec 7)
  /-- FLAGREL (R400): Releases at a scope and writes a flag word. -/
  | flagrel (d : BitVec 7) (a : BitVec 7) (scope : BitVec 3)
  /-- FLAGACQ (R400): Waits until a flag word reaches a value, then acquires. -/
  | flagacq (d : BitVec 7) (a : BitVec 7) (scope : BitVec 3)
  /-- SIGNAL (R401): Optionally adds 1 to a word as a release, then sets the wake latches of crew harts. -/
  | signal (d : BitVec 7) (a : BitVec 7) (scope : BitVec 3)
  /-- BCPOST (R402): Posts the expected bytes of a byte-counting barrier. -/
  | bcpost (d : BitVec 7) (a : BitVec 7) (scope : BitVec 3)
  /-- BCARRIVE (R402): Adds arrived bytes to a byte-counting barrier. -/
  | bcarrive (d : BitVec 7) (a : BitVec 7) (scope : BitVec 3)
  /-- BCWAIT (R402): Waits for a byte-counting barrier to leave PENDING. -/
  | bcwait (d : BitVec 7) (a : BitVec 7) (scope : BitVec 3)
  /-- HANDOFF (R403): Hands listed KV pages to generation and writes the flag in one package-scope event. -/
  | handoff (d : BitVec 7) (a : BitVec 7) (b : BitVec 7)
  /-- STRON (R404): Binds a stream to a register group. -/
  | stron (d : BitVec 7) (a : BitVec 7) (b : BitVec 7)
  /-- STROFF (R404): Unbinds a stream. -/
  | stroff (b : BitVec 7)
  /-- XFER (R406): Memory-to-memory block transfer with conversion. -/
  | xfer (d : BitVec 7) (a : BitVec 7) (b : BitVec 7)
  /-- XFERV (R406): Memory-to-register transfer, optionally de-interleaved or permuted. -/
  | xferv (d : BitVec 7) (a : BitVec 7) (b : BitVec 7)
  /-- XFERVS (R406): Register-to-memory transfer. -/
  | xfervs (d : BitVec 7) (a : BitVec 7) (b : BitVec 7)
  /-- XFERC (R407): Copies a register group into another hart of the crew. -/
  | xferc (d : BitVec 7) (a : BitVec 7) (b : BitVec 7)
  /-- XFERQ (R257): Quantising transfer with a maximum fold. -/
  | xferq (d : BitVec 7) (a : BitVec 7) (b : BitVec 7)
  /-- XWAIT (R409): Waits for and takes the next completion record of a queue. -/
  | xwait (d : BitVec 7) (a : BitVec 7)
  /-- XPOLL (R409): Takes the next completion record if posted, else returns zeros. -/
  | xpoll (d : BitVec 7) (a : BitVec 7)
  /-- XTIER (R408): Moves a page range to another tier through the engine. -/
  | xtier (a : BitVec 7) (b : BitVec 7)
  /-- MLDS (R412): Loads the shadow stationary plane from memory or registers. -/
  | mlds (a : BitVec 7) (h : BitVec 4) (n : BitVec 7)
  /-- MSWAP (R413): Exchanges the active and shadow planes. -/
  | mswap
  /-- MMA (R414): Streams A rows through the plane and accumulates into a tile. -/
  | mma (t : BitVec 3) (a : BitVec 7) (h : BitVec 4) (n : BitVec 7)
  /-- MMAQ (R414): Quad-crew MMA fed by the leader's rows. -/
  | mmaq (t : BitVec 3) (a : BitVec 7) (h : BitVec 4) (n : BitVec 7)
  /-- MZERO (R415): Zeroes a tile and sets its tag. -/
  | mzero (t : BitVec 3) (h : BitVec 4)
  /-- MLDACC (R415): Writes tile rows from registers. -/
  | mldacc (t : BitVec 3) (a : BitVec 7) (h : BitVec 4) (n : BitVec 7)
  /-- MMOVA (R416): Moves tile rows to registers with conversion. -/
  | mmova (t : BitVec 3) (a : BitVec 7) (h : BitVec 4) (n : BitVec 7)
  /-- MDRAIN (R417): Drains tile rows to strided memory. -/
  | mdrain (t : BitVec 3) (a : BitVec 7) (h : BitVec 4) (n : BitVec 7)
  /-- MSOFT (R418): One online-softmax step on a score tile and an output tile. -/
  | msoft (t : BitVec 3) (a : BitVec 7) (h : BitVec 4) (n : BitVec 7)
  /-- MDRAINX (R417): Drains tile rows to indexed addresses. -/
  | mdrainx (t : BitVec 3) (a : BitVec 7) (h : BitVec 4) (n : BitVec 7)
  /-- MLU (R421): LU factorisation with partial pivoting. -/
  | mlu (t : BitVec 3) (a : BitVec 7) (n : BitVec 7)
  /-- MCHOL (R422): Cholesky factorisation. -/
  | mchol (t : BitVec 3) (n : BitVec 7)
  /-- MQR (R423): Householder QR factorisation. -/
  | mqr (t : BitVec 3) (a : BitVec 7) (n : BitVec 7)
  /-- MTRSML (R424): Lower triangular solve. -/
  | mtrsml (t : BitVec 3) (h : BitVec 4) (n : BitVec 7) (unit : BitVec 1)
  /-- MTRSMU (R424): Upper triangular solve. -/
  | mtrsmu (t : BitVec 3) (h : BitVec 4) (n : BitVec 7) (unit : BitVec 1)
  /-- CLAIM (R428): Posts address signatures of items into the crew's claim share. -/
  | claim (a : BitVec 7) (m : BitVec 2)
  /-- WFORM (R428): Writes the admitted wave mask. -/
  | wform (d : BitVec 7) (m : BitVec 2)
  /-- WREL (R428): Removes the hart's items' claims. -/
  | wrel (m : BitVec 2)
  /-- WCLR (R428): Empties the crew's claim share. -/
  | wclr
  /-- FRED (R430): Contributes elements to switch reductions. -/
  | fred (d : BitVec 7) (a : BitVec 7) (b : BitVec 7) (m : BitVec 2)
  /-- FREDWAIT (R431): Waits for the hart's reduction round to be delivered. -/
  | fredwait (d : BitVec 7) (a : BitVec 7)
  /-- VADD (R341): Integer add. -/
  | vadd (d : BitVec 7) (a : BitVec 7) (b : BitVec 7) (m : BitVec 2)
  /-- VSUB (R341): Integer subtract. -/
  | vsub (d : BitVec 7) (a : BitVec 7) (b : BitVec 7) (m : BitVec 2)
  /-- VMUL (R341): Integer multiply, low half. -/
  | vmul (d : BitVec 7) (a : BitVec 7) (b : BitVec 7) (m : BitVec 2)
  /-- VMULH (R341): Integer multiply, high half. -/
  | vmulh (d : BitVec 7) (a : BitVec 7) (b : BitVec 7) (m : BitVec 2)
  /-- VMIN (R341): Signed minimum. -/
  | vmin (d : BitVec 7) (a : BitVec 7) (b : BitVec 7) (m : BitVec 2)
  /-- VMAX (R341): Signed maximum. -/
  | vmax (d : BitVec 7) (a : BitVec 7) (b : BitVec 7) (m : BitVec 2)
  /-- VMINN (R341): Unsigned minimum. -/
  | vminn (d : BitVec 7) (a : BitVec 7) (b : BitVec 7) (m : BitVec 2)
  /-- VMAXN (R341): Unsigned maximum. -/
  | vmaxn (d : BitVec 7) (a : BitVec 7) (b : BitVec 7) (m : BitVec 2)
  /-- VAND (R342): Bitwise AND. -/
  | vand (d : BitVec 7) (a : BitVec 7) (b : BitVec 7) (m : BitVec 2)
  /-- VOR (R342): Bitwise OR. -/
  | vor (d : BitVec 7) (a : BitVec 7) (b : BitVec 7) (m : BitVec 2)
  /-- VXOR (R342): Bitwise XOR. -/
  | vxor (d : BitVec 7) (a : BitVec 7) (b : BitVec 7) (m : BitVec 2)
  /-- VANDN (R342): a AND NOT b. -/
  | vandn (d : BitVec 7) (a : BitVec 7) (b : BitVec 7) (m : BitVec 2)
  /-- VSHL (R343): Shift left. -/
  | vshl (d : BitVec 7) (a : BitVec 7) (b : BitVec 7) (m : BitVec 2)
  /-- VSHRL (R343): Logical shift right. -/
  | vshrl (d : BitVec 7) (a : BitVec 7) (b : BitVec 7) (m : BitVec 2)
  /-- VSHRA (R343): Arithmetic shift right. -/
  | vshra (d : BitVec 7) (a : BitVec 7) (b : BitVec 7) (m : BitVec 2)
  /-- VROTR (R343): Rotate right. -/
  | vrotr (d : BitVec 7) (a : BitVec 7) (b : BitVec 7) (m : BitVec 2)
  /-- VSADD (R341): Signed saturating add. -/
  | vsadd (d : BitVec 7) (a : BitVec 7) (b : BitVec 7) (m : BitVec 2)
  /-- VSSUB (R341): Signed saturating subtract. -/
  | vssub (d : BitVec 7) (a : BitVec 7) (b : BitVec 7) (m : BitVec 2)
  /-- VSADDN (R341): Unsigned saturating add. -/
  | vsaddn (d : BitVec 7) (a : BitVec 7) (b : BitVec 7) (m : BitVec 2)
  /-- VSSUBN (R341): Unsigned saturating subtract. -/
  | vssubn (d : BitVec 7) (a : BitVec 7) (b : BitVec 7) (m : BitVec 2)
  /-- VFADD (R344): Floating add. -/
  | vfadd (d : BitVec 7) (a : BitVec 7) (b : BitVec 7) (m : BitVec 2)
  /-- VFSUB (R344): Floating subtract. -/
  | vfsub (d : BitVec 7) (a : BitVec 7) (b : BitVec 7) (m : BitVec 2)
  /-- VFMUL (R344): Floating multiply. -/
  | vfmul (d : BitVec 7) (a : BitVec 7) (b : BitVec 7) (m : BitVec 2)
  /-- VFDIV (R344): Floating divide. -/
  | vfdiv (d : BitVec 7) (a : BitVec 7) (b : BitVec 7) (m : BitVec 2)
  /-- VFMA (R344): Fused a × b + c. -/
  | vfma (d : BitVec 7) (a : BitVec 7) (b : BitVec 7) (m : BitVec 2)
  /-- VFMS (R344): Fused a × b − c. -/
  | vfms (d : BitVec 7) (a : BitVec 7) (b : BitVec 7) (m : BitVec 2)
  /-- VFNMA (R344): Fused −(a × b) + c. -/
  | vfnma (d : BitVec 7) (a : BitVec 7) (b : BitVec 7) (m : BitVec 2)
  /-- VFNMS (R344): Fused −(a × b) − c. -/
  | vfnms (d : BitVec 7) (a : BitVec 7) (b : BitVec 7) (m : BitVec 2)
  /-- VFMIN (R345): Floating minimum. -/
  | vfmin (d : BitVec 7) (a : BitVec 7) (b : BitVec 7) (m : BitVec 2)
  /-- VFMAX (R345): Floating maximum. -/
  | vfmax (d : BitVec 7) (a : BitVec 7) (b : BitVec 7) (m : BitVec 2)
  /-- VFSQRT (R346): Correctly rounded square root. -/
  | vfsqrt (d : BitVec 7) (a : BitVec 7) (m : BitVec 2)
  /-- VFEXP (R346): Device exponential. -/
  | vfexp (d : BitVec 7) (a : BitVec 7) (m : BitVec 2)
  /-- VCMPEQ (R347): Compare equal into a predicate. -/
  | vcmpeq (d : BitVec 7) (a : BitVec 7) (b : BitVec 7) (m : BitVec 2)
  /-- VCMPNE (R347): Compare not equal into a predicate. -/
  | vcmpne (d : BitVec 7) (a : BitVec 7) (b : BitVec 7) (m : BitVec 2)
  /-- VCMPLT (R347): Compare less than into a predicate. -/
  | vcmplt (d : BitVec 7) (a : BitVec 7) (b : BitVec 7) (m : BitVec 2)
  /-- VCMPLE (R347): Compare less or equal into a predicate. -/
  | vcmple (d : BitVec 7) (a : BitVec 7) (b : BitVec 7) (m : BitVec 2)
  /-- PAND (R349): Predicate AND. -/
  | pand (d : BitVec 7) (a : BitVec 7) (b : BitVec 7) (m : BitVec 2)
  /-- POR (R349): Predicate OR. -/
  | por (d : BitVec 7) (a : BitVec 7) (b : BitVec 7) (m : BitVec 2)
  /-- PXOR (R349): Predicate XOR. -/
  | pxor (d : BitVec 7) (a : BitVec 7) (b : BitVec 7) (m : BitVec 2)
  /-- PANDN (R349): Predicate a AND NOT b. -/
  | pandn (d : BitVec 7) (a : BitVec 7) (b : BitVec 7) (m : BitVec 2)
  /-- PNOT (R349): Predicate NOT. -/
  | pnot (d : BitVec 7) (a : BitVec 7) (m : BitVec 2)
  /-- PFIRST (R350): Index of the first active set bit. -/
  | pfirst (d : BitVec 7) (a : BitVec 7) (m : BitVec 2)
  /-- PCOUNT (R350): Count of active set bits. -/
  | pcount (d : BitVec 7) (a : BitVec 7) (m : BitVec 2)
  /-- MBIND (R351): Binds a mask selector to a predicate. -/
  | mbind (d : BitVec 7) (a : BitVec 7)
  /-- VREDSUM (R352): Integer sum reduction to a scalar. -/
  | vredsum (d : BitVec 7) (a : BitVec 7) (b : BitVec 7) (m : BitVec 2)
  /-- VREDMIN (R352): Minimum reduction. -/
  | vredmin (d : BitVec 7) (a : BitVec 7) (b : BitVec 7) (m : BitVec 2)
  /-- VREDMAX (R352): Maximum reduction. -/
  | vredmax (d : BitVec 7) (a : BitVec 7) (b : BitVec 7) (m : BitVec 2)
  /-- VFREDSUM (R353): Ordered floating sum reduction. -/
  | vfredsum (d : BitVec 7) (a : BitVec 7) (b : BitVec 7) (m : BitVec 2)
  /-- VSLIDEUP (R355): Slides elements up. -/
  | vslideup (d : BitVec 7) (a : BitVec 7) (b : BitVec 7) (m : BitVec 2)
  /-- VSLIDEDN (R355): Slides elements down. -/
  | vslidedn (d : BitVec 7) (a : BitVec 7) (b : BitVec 7) (m : BitVec 2)
  /-- VPERMV (R356): Permutes by an index register. -/
  | vpermv (d : BitVec 7) (a : BitVec 7) (b : BitVec 7) (m : BitVec 2)
  /-- VCOMPRESS (R357): Packs the active elements. -/
  | vcompress (d : BitVec 7) (a : BitVec 7) (m : BitVec 2)
  /-- VMV (R358): Copies a register, keeping its encoding when unmasked. -/
  | vmv (d : BitVec 7) (a : BitVec 7) (m : BitVec 2)
  /-- VSPLAT (R359): Splats a scalar. -/
  | vsplat (d : BitVec 7) (a : BitVec 7) (m : BitVec 2)
  /-- VEXTR (R360): Extracts one element to a scalar. -/
  | vextr (d : BitVec 7) (a : BitVec 7) (b : BitVec 7) (m : BitVec 2)
  /-- VINS (R361): Inserts a scalar at one element. -/
  | vins (d : BitVec 7) (a : BitVec 7) (b : BitVec 7) (m : BitVec 2)
  /-- VCVT (R371): Converts elements to VSTAT.FMT. -/
  | vcvt (d : BitVec 7) (a : BitVec 7) (m : BitVec 2)
  /-- VQUANT (R372): Quantises with a scale, side list or wide channels. -/
  | vquant (d : BitVec 7) (a : BitVec 7) (b : BitVec 7) (m : BitVec 2)
  /-- VDEQUANT (R373): Dequantises with a scale. -/
  | vdequant (d : BitVec 7) (a : BitVec 7) (b : BitVec 7) (m : BitVec 2)
  /-- VAMAX (R374): Largest magnitude as F32 into a scalar. -/
  | vamax (d : BitVec 7) (a : BitVec 7) (m : BitVec 2)
  /-- VENC (R375): Encodes in a named encoding. -/
  | venc (d : BitVec 7) (a : BitVec 7) (b : BitVec 7)
  /-- VDEC (R376): Expands to PLAIN. -/
  | vdec (d : BitVec 7) (a : BitVec 7)
  /-- VENCINFO (R377): Reads a register's descriptor. -/
  | vencinfo (d : BitVec 7) (a : BitVec 7)
  /-- VRUNEND (R378): Writes run-boundary indices and sets VL. -/
  | vrunend (d : BitVec 7) (a : BitVec 7)
  /-- VMERGEIDX (R379): Merges two index lists and sets VL. -/
  | vmergeidx (d : BitVec 7) (a : BitVec 7) (b : BitVec 7) (m : BitVec 2)
  /-- VSORTKV (R380): Stable key-value sort. -/
  | vsortkv (d : BitVec 7) (a : BitVec 7) (b : BitVec 7) (m : BitVec 2)
  /-- VHASH (R381): Element-wise hash. -/
  | vhash (d : BitVec 7) (a : BitVec 7) (b : BitVec 7) (m : BitVec 2)
  /-- VTOPK (R382): Selects the top k values and indices and sets VL. -/
  | vtopk (d : BitVec 7) (a : BitVec 7) (b : BitVec 7) (m : BitVec 2)
  /-- VIDX (R362): Writes ia + i × ib. -/
  | vidx (d : BitVec 7) (ia : BitVec 7) (ib : BitVec 7) (m : BitVec 2)
  /-- VIDXX (R362): Writes ia + floor(i / ib) as RUNS. -/
  | vidxx (d : BitVec 7) (ia : BitVec 7) (ib : BitVec 7) (m : BitVec 2)
  /-- VSEGSUM (R364): Segmented sums. -/
  | vsegsum (d : BitVec 7) (a : BitVec 7) (b : BitVec 7) (m : BitVec 2)
  /-- VSEGMAX (R364): Segmented maxima. -/
  | vsegmax (d : BitVec 7) (a : BitVec 7) (b : BitVec 7) (m : BitVec 2)
  /-- VSCAN (R365): Segmented inclusive scan. -/
  | vscan (d : BitVec 7) (a : BitVec 7) (b : BitVec 7) (m : BitVec 2)
  /-- VSCANX (R365): Segmented exclusive scan. -/
  | vscanx (d : BitVec 7) (a : BitVec 7) (b : BitVec 7) (m : BitVec 2)
  /-- VCHAIN (R426): Runs one query through a chain of key rows. -/
  | vchain (d : BitVec 7) (a : BitVec 7) (b : BitVec 7) (m : BitVec 2)
  /-- VCHAINF (R427): Divides the chain output by the row sums. -/
  | vchainf (d : BitVec 7)
  /-- VLD (R383): Unit-stride vector load. -/
  | vld (d : BitVec 7) (a : BitVec 7) (m : BitVec 2)
  /-- VLDS (R383): Strided vector load. -/
  | vlds (d : BitVec 7) (a : BitVec 7) (b : BitVec 7) (m : BitVec 2)
  /-- VLDX (R383): Indexed vector load. -/
  | vldx (d : BitVec 7) (a : BitVec 7) (b : BitVec 7) (m : BitVec 2)
  /-- VGL (R385): Indexed load that links its lines. -/
  | vgl (d : BitVec 7) (a : BitVec 7) (b : BitVec 7) (m : BitVec 2)
  /-- VLDFF (R384): First-fault unit-stride load. -/
  | vldff (d : BitVec 7) (a : BitVec 7) (m : BitVec 2)
  /-- VLDSFF (R384): First-fault strided load. -/
  | vldsff (d : BitVec 7) (a : BitVec 7) (b : BitVec 7) (m : BitVec 2)
  /-- VLDXFF (R384): First-fault indexed load. -/
  | vldxff (d : BitVec 7) (a : BitVec 7) (b : BitVec 7) (m : BitVec 2)
  /-- NGATHER (R386): Gather through the base-die gather engines. -/
  | ngather (d : BitVec 7) (a : BitVec 7) (b : BitVec 7) (m : BitVec 2)
  /-- VST (R388): Unit-stride vector store. -/
  | vst (d : BitVec 7) (a : BitVec 7) (m : BitVec 2)
  /-- VSTS (R388): Strided vector store. -/
  | vsts (d : BitVec 7) (a : BitVec 7) (b : BitVec 7) (m : BitVec 2)
  /-- VSTX (R388): Indexed vector store. -/
  | vstx (d : BitVec 7) (a : BitVec 7) (b : BitVec 7) (m : BitVec 2)
  /-- VSC (R389): Conditional store on held links. -/
  | vsc (d : BitVec 7) (a : BitVec 7) (b : BitVec 7) (m : BitVec 2)
  /-- VSTXR (R391): Remote store trains to other packages. -/
  | vstxr (d : BitVec 7) (a : BitVec 7) (b : BitVec 7) (m : BitVec 2)
  /-- VAMOADD (R392): Vector atomic add. -/
  | vamoadd (d : BitVec 7) (a : BitVec 7) (b : BitVec 7) (m : BitVec 2)
  /-- VAMOMIN (R392): Vector atomic minimum. -/
  | vamomin (d : BitVec 7) (a : BitVec 7) (b : BitVec 7) (m : BitVec 2)
  /-- VAMOMAX (R392): Vector atomic maximum. -/
  | vamomax (d : BitVec 7) (a : BitVec 7) (b : BitVec 7) (m : BitVec 2)
  /-- VAMOSWAP (R392): Vector atomic swap. -/
  | vamoswap (d : BitVec 7) (a : BitVec 7) (b : BitVec 7) (m : BitVec 2)
  /-- VAMOAND (R392): Vector atomic AND. -/
  | vamoand (d : BitVec 7) (a : BitVec 7) (b : BitVec 7) (m : BitVec 2)
  /-- VAMOOR (R392): Vector atomic OR. -/
  | vamoor (d : BitVec 7) (a : BitVec 7) (b : BitVec 7) (m : BitVec 2)
  /-- VAMOFMAX (R392): Vector atomic floating maximum. -/
  | vamofmax (d : BitVec 7) (a : BitVec 7) (b : BitVec 7) (m : BitVec 2)
  /-- VAMOCAS (R393): Vector atomic compare and swap. -/
  | vamocas (d : BitVec 7) (a : BitVec 7) (b : BitVec 7) (m : BitVec 2)
  /-- VTRANS (R394): Translates token positions to KV row addresses. -/
  | vtrans (d : BitVec 7) (a : BitVec 7) (b : BitVec 7) (m : BitVec 2)
  /-- VTRANSFF (R394): VTRANS that truncates VL at the first unmapped position. -/
  | vtransff (d : BitVec 7) (a : BitVec 7) (b : BitVec 7) (m : BitVec 2)
  /-- VPREF (R395): Samples translations of indexed pages. -/
  | vpref (a : BitVec 7) (b : BitVec 7) (m : BitVec 2)
  /-- VFENCE (R396): Fence at a scope, and a crew barrier arrival with an ID of 1 to 15. -/
  | vfence (id : BitVec 4) (scope : BitVec 3)
  /-- BARWAIT (R397): Waits for the hart's barrier phase. -/
  | barwait (id : BitVec 4)
  /-- VWAIT (R398): Timed wait on a vector of flag words. -/
  | vwait (a : BitVec 7) (b : BitVec 7) (scope : BitVec 3)
  /-- VLDSEG (R387): Loads records de-interleaved into field groups. -/
  | vldseg (d : BitVec 7) (a : BitVec 7) (b : BitVec 7) (nf : BitVec 4)
  /-- APPLOAD (R48): Host command 1: checks the arguments, takes a slot, copies and checks the SCO, chooses the image, places and relocates the sections, maps them and starts the control program. -/
  | appload
  /-- APPKILL (R49): Host command 2: ends the named application with the given exit status. -/
  | appkill
  /-- APPSTAT (R49): Host command 3: returns RUNNING or EXITED with the exit status, and frees the slot on the first EXITED answer. -/
  | appstat
  /-- POWERCAP (R15): Host command 4: rounds down and clamps the requested power cap, sets it and returns it. -/
  | powercap
  /-- TENANTSET (R47): Host command 5: sets a tenant's FEATMASK, or refuses with E_BUSY while any application of that tenant is loaded. -/
  | tenantset
  /-- CMD_RESERVED_CODE (R45): A command started with code 0 or 6 to 255 ends with E_INVAL. -/
  | cmdReservedCode
  /-- MGMT_REGISTER_WRITE (R45): A write to a management or readback register that has no row of its own, such as CMDARG, RBCTL fields or RBADDR. -/
  | mgmtRegisterWrite
  /-- H2D_MESSAGE (R51): Riura finds a host-to-device slot set FULL, and delivers it to a HOSTMSG RECV caller, or drops it when LEN is too large. -/
  | h2dMessage
  /-- D2H_SLOT_RELEASE (R51): The host writes STATE = 0 to a device-to-host slot, which frees it for the next SEND. -/
  | d2hSlotRelease
  /-- READBACK_HART_STATE (R37): GO with SPACE 0 reads a hart's state laid out as its save area, stopping the core first when FREEZE is set. -/
  | readbackHartState
  /-- READBACK_ENGINE_QUEUE (R36): GO with SPACE 1 reads lease rows, claim shares, overflow masks or BTE transfers in flight. -/
  | readbackEngineQueue
  /-- READBACK_SAVE_AREA (R36): GO with SPACE 2 reads registered save areas and crew areas, and ends with STALE while a spill is still writing. -/
  | readbackSaveArea
  /-- READBACK_ERROR_LOG (R36): GO with SPACE 3 reads a die's error log ring. -/
  | readbackErrorLog
  /-- READBACK_LINK_STATUS (R36): GO with SPACE 4 reads Dikeline port, die word and UCIe link status. -/
  | readbackLinkStatus
  /-- READBACK_MEMORY (R36): GO with SPACE 5 reads physical memory decrypted with the key of its frame. -/
  | readbackMemory
  /-- READBACK_ALWAYS_ON_LOG (R36): GO with SPACE 6 reads the always-on log of die 0. -/
  | readbackAlwaysOnLog
  /-- READBACK_BAD_SPACE (R35): GO with a reserved SPACE ends with BADSPACE. -/
  | readbackBadSpace
  /-- READBACK_COMPLETE (R38): A readback read ends, with RBSTAT.CODE and FIRST set and GO cleared. -/
  | readbackComplete
  /-- RIURA_EXIT (R49): Service 0x00: ends the application, cancels its launches, removes its crews, unmaps it and raises MSI-X vector 0. -/
  | riuraExit
  /-- RIURA_LAUNCH (R77): Service 0x01: checks the launch parameter block and queues the launch under a new launch ID. -/
  | riuraLaunch
  /-- RIURA_WAIT (R81): Service 0x02: returns the completion word of a launch, or waits for it up to the timeout. -/
  | riuraWait
  /-- RIURA_WAIT_TIMEOUT (R81): The timeout of a pending WAIT expires, and the call returns E_TIMEOUT. -/
  | riuraWaitTimeout
  /-- RIURA_CANCEL (R82): Service 0x03: removes the unissued work units of a launch. -/
  | riuraCancel
  /-- RIURA_MAP (R183): Service 0x04: maps a range in a tier with an attribute word. -/
  | riuraMap
  /-- RIURA_UNMAP (R185): Service 0x05: removes mappings as one remap event. -/
  | riuraUnmap
  /-- RIURA_PROTECT (R185): Service 0x06: sets the permissions of a range as one remap event. -/
  | riuraProtect
  /-- RIURA_MIGRATE (R186): Service 0x07: moves pages to another tier, requantising them when asked, page by page through open, copy, remap and close. -/
  | riuraMigrate
  /-- MIGRATION_COPY_DONE (R187): A page's copy finishes: the remap event takes effect, parked writes perform on the new frame and the old frame is freed. -/
  | migrationCopyDone
  /-- MIGRATION_COPY_FAIL (R187): A page's copy cannot finish: the mapping is kept, parked writes replay on the old frame, and the failure is returned or logged. -/
  | migrationCopyFail
  /-- RIURA_KVALLOC (R269): Service 0x08: allocates KV pages with an owner and returns a page list. -/
  | riuraKvalloc
  /-- RIURA_KVFREE (R269): Service 0x09: sets the listed KV pages FREE as one remap event. -/
  | riuraKvfree
  /-- QUERY_DEVICE_SHAPE (R59): QUERY item 0x01 writes the device shape and the grants available. -/
  | queryDeviceShape
  /-- QUERY_WEIGHT_STORE (R59): QUERY item 0x02 writes the weight-store window base and the application's share on each die. -/
  | queryWeightStore
  /-- QUERY_ADDRESS (R59): QUERY item 0x03 writes the attribute word and placement word of an address. -/
  | queryAddress
  /-- QUERY_KVWIN (R436): QUERY item 0x10 writes KVWIN. -/
  | queryKvwin
  /-- RIURA_TIME (R56): Service 0x0B: returns the ns since the last cold reset. -/
  | riuraTime
  /-- HOSTMSG_SEND (R57): HOSTMSG SEND writes a device-to-host message and raises its MSI-X vector, or waits for a free slot. -/
  | hostmsgSend
  /-- HOSTMSG_RECV (R57): HOSTMSG RECV takes the next host message, or waits for one. -/
  | hostmsgRecv
  /-- HOSTMSG_TIMEOUT (R57): The timeout of a waiting HOSTMSG expires, and the call returns E_TIMEOUT. -/
  | hostmsgTimeout
  /-- RIURA_CREWEXIT (R74): Service 0x0D from a Shurra hart: ends the whole crew and its work unit with an exit status. -/
  | riuraCrewexit
  /-- RIURA_LOG (R56): Service 0x0E: logs a buffer. -/
  | riuraLog
  /-- RIURA_WSLOAD (R174): Service 0x0F: copies data into the weight-store share of the named dies, and acts as a release at package scope. -/
  | riuraWsload
  /-- COLLECTIVE_CREATE (R60): COLLECTIVE CREATE creates a collective with its member packages. -/
  | collectiveCreate
  /-- COLLECTIVE_ADDWIN (R60): COLLECTIVE ADDWIN registers a memory or reduction window record. -/
  | collectiveAddwin
  /-- COLLECTIVE_ADDBAR (R60): COLLECTIVE ADDBAR ties a byte-counting barrier to the collective. -/
  | collectiveAddbar
  /-- COLLECTIVE_WAIT (R60): COLLECTIVE WAIT waits until every member has ended or the collective is aborted. -/
  | collectiveWait
  /-- COLLECTIVE_WAIT_TIMEOUT (R60): The timeout of a COLLECTIVE WAIT expires, and the call returns E_TIMEOUT. -/
  | collectiveWaitTimeout
  /-- COLLECTIVE_END (R60): COLLECTIVE END ends the package's membership, and the windows close once every member has ended. -/
  | collectiveEnd
  /-- RIURA_TENANT (R437): Service 0x11: writes the tenant record with FEATMASK and share weights. -/
  | riuraTenant
  /-- RIURA_UNKNOWN_SERVICE (R56): A service number above 0x11 returns E_NOSYS. -/
  | riuraUnknownService
  /-- CONTROL_PROGRAM_FAULT (R438): A control program's load, store or AMO; one that faults ends its application with exit status
  0xFFFF_FFFF. -/
  | controlProgramFault
  /-- PCL_GET_VERSION (R61): PCL FID 0 returns the PCL version. -/
  | pclGetVersion
  /-- PCL_GET_FEATURES (R61): PCL FID 1 returns a core's FEATS. -/
  | pclGetFeatures
  /-- PCL_POWER_CAP_SET (R61): PCL FID 2 sets the power cap as R15 states. -/
  | pclPowerCapSet
  /-- PCL_POWER_CAP_GET (R61): PCL FID 3 returns the cap in force. -/
  | pclPowerCapGet
  /-- PCL_CONTEXT_AREA (R61): PCL FID 4 wires a core's save-area base. -/
  | pclContextArea
  /-- PCL_TENANT_KEY_INSTALL (R61): PCL FID 5 with a1 = 0 installs a tenant key through Husk. -/
  | pclTenantKeyInstall
  /-- PCL_TENANT_KEY_WITHDRAW (R61): PCL FID 5 with a1 = 1 withdraws a tenant key. -/
  | pclTenantKeyWithdraw
  /-- PCL_RESET_WARM (R61): PCL FID 6 with a0 = 0 raises a warm reset. -/
  | pclResetWarm
  /-- PCL_RESET_FUNCTION (R61): PCL FID 6 with a0 = 1 raises a function reset. -/
  | pclResetFunction
  /-- PCL_UNSUPPORTED (R61): An FID that PCL does not implement returns SBI_ERR_NOT_SUPPORTED. -/
  | pclUnsupported
  /-- COLD_RESET (R32): Loss of the standby rail or a board power cycle: memory and the log are lost, and keys are reloaded from fuses. -/
  | coldReset
  /-- WARM_RESET (R32): A PCIe fundamental reset, a management command or a Riura fatal error ends every application and keeps HBM4E in self-refresh. -/
  | warmReset
  /-- FUNCTION_RESET (R32): A PCIe function-level reset ends every application and restarts Riura. -/
  | functionReset
  /-- STANDBY_RAIL_GOOD (R33): The standby rail becomes good, and Husk starts its boot ROM. -/
  | standbyRailGood
  /-- BRING_UP (R33): The device runs the bring-up steps in order up to READY, or stops at a failed step with its cause logged. -/
  | bringUp
  /-- RIURA_FATAL_ERROR (R44): Riura reports a fatal error: DSTAT becomes FATAL with cause 0x050, and a warm reset follows. -/
  | riuraFatalError
  /-- POWER_CAP_TAKE_EFFECT (R15): A new power cap takes effect within 1 ms of being set. -/
  | powerCapTakeEffect
  /-- THERMAL_THROTTLE_START (R17): A junction above 100 °C starts throttling. -/
  | thermalThrottleStart
  /-- THERMAL_THROTTLE_END (R17): The hottest sensor falls to 97 °C or less, and throttling ends. -/
  | thermalThrottleEnd
  /-- THERMAL_TRIP (R17): A junction above 110 °C for 1 ms disables the 54 V input and logs the event. -/
  | thermalTrip
  /-- HUSK_ALARM (R30): A tamper, voltage or clock-glitch alarm applies the strongest fused policy: LOG, LOCK or ERASE. -/
  | huskAlarm
  /-- SPDM_REQUEST (R28): Husk answers an SPDM request for certificates, measurements or key exchange. -/
  | spdmRequest
  /-- CXL_MEM_READ (R29): A host CXL.mem read decrypts under the system key, or returns poison beyond the 1 TiB window. -/
  | cxlMemRead
  /-- CXL_MEM_WRITE (R29): A host CXL.mem write encrypts under the system key, or is dropped and logged beyond the window. -/
  | cxlMemWrite
  /-- POOL_LINK_DOWN (R22): A pool link goes down, and tier-2 pages behind it fault on access. -/
  | poolLinkDown
  /-- POOL_LINK_UP (R191): A pool link returns, and accesses proceed. -/
  | poolLinkUp
  /-- FLIT_RECEIVE (R25): A Dikeline flit is received, FEC-corrected and CRC-checked; a failed flit is discarded with all later flits and a NAK is sent. -/
  | flitReceive
  /-- REPLAY_LIMIT (R25): Eight consecutive failed replays of one flit move the port to RETRAIN, or to DOWN after three retrains within 1 s. -/
  | replayLimit
  /-- PORT_ENABLE (R26): Riura enables a DISABLED or DOWN port, which enters DETECT. -/
  | portEnable
  /-- DETECT_DONE (R26): All four lanes detect light, and the port moves to POLARITY. -/
  | detectDone
  /-- DETECT_TIMEOUT (R26): 10 ms pass in DETECT, and the port moves to DISABLED with DETECTFAIL. -/
  | detectTimeout
  /-- POLARITY_DONE (R26): All lanes match the pattern, and the port moves to DESKEW. -/
  | polarityDone
  /-- POLARITY_TIMEOUT (R26): 1 ms passes in POLARITY, and the port moves back to DETECT. -/
  | polarityTimeout
  /-- DESKEW_DONE (R26): Skew falls under 64 UI on all lanes, and the port moves to FECLOCK. -/
  | deskewDone
  /-- DESKEW_TIMEOUT (R26): 1 ms passes in DESKEW, and the port moves back to DETECT. -/
  | deskewTimeout
  /-- FECLOCK_DONE (R26): 64 consecutive codewords decode, and the port moves to CREDIT. -/
  | feclockDone
  /-- FECLOCK_TIMEOUT (R26): 2 ms pass in FECLOCK, and the port moves back to DETECT. -/
  | feclockTimeout
  /-- CREDIT_DONE (R26): Both sides acknowledge their grants, and the port moves to ACTIVE. -/
  | creditDone
  /-- CREDIT_TIMEOUT (R26): 1 ms passes in CREDIT, and the port moves back to DETECT. -/
  | creditTimeout
  /-- RETRAIN_DONE (R26): FECLOCK and CREDIT complete in RETRAIN, and the port replays its unacknowledged flits and returns to ACTIVE. -/
  | retrainDone
  /-- RETRAIN_TIMEOUT (R26): 5 ms pass in RETRAIN, and the port moves to DOWN. -/
  | retrainTimeout
  /-- SCHEDULER_PLACE_CREW (R85): The scheduler places the next work unit's crew on C free slices of one polder, each hart starting with the state of R88. -/
  | schedulerPlaceCrew
  /-- SCHEDULER_PREEMPT (R91): The scheduler chooses lower-class crews to displace for a ready crew that cannot be placed. -/
  | schedulerPreempt
  /-- HART_SWAP (R283): A hart reaches its instruction boundary after a pre-emption request, and its slice swaps banks in 64 clk. -/
  | hartSwap
  /-- CREW_RESUME (R93): A suspended crew resumes on slices of no smaller grant, all its harts together. -/
  | crewResume
  /-- SPILL_DONE (R286): The spill engine finishes writing a context to its save area and sets DONE. -/
  | spillDone
  /-- CONTEXT_FILL_DONE (R283): A context filled from its save area into the shadow bank is ready, and is swapped in. -/
  | contextFillDone
  /-- LEASE_FILL_DONE (R90): The loader finishes filling a core for a launch, and its lease row becomes READY. -/
  | leaseFillDone
  /-- STOREPEND_SKID_LIMIT (R279): The 64th instruction retires after the oldest held record's store, and STOREPEND is taken at the next boundary. -/
  | storependSkidLimit
  /-- TRANSFER_RETIRE (R259): An engine transfer writes its last byte, posts its completion record and adds its flags and counts to the hart. -/
  | transferRetire
  /-- STREAM_REFILL (R250): The stream unit refills a bound stream up to four pops ahead of the reads. -/
  | streamRefill
  /-- WS_REFRESH_WINDOW_OPEN (R175): A weight-store bank's 550 clk refresh window opens on the CYCLE calendar. -/
  | wsRefreshWindowOpen
  /-- WS_REFRESH_WINDOW_CLOSE (R175): A bank's refresh window closes, and waiting reads proceed. -/
  | wsRefreshWindowClose
  /-- PATROL_SCRUB (R193): The patrol scrub visits a granule, correcting and counting its errors. -/
  | patrolScrub
  /-- ECC_UNCORRECTABLE (R193): An uncorrectable error poisons its granule, and the event is logged once and reported to Riura. -/
  | eccUncorrectable
  /-- FLAGACQ_SATISFIED (R400): A waiting FLAGACQ reads a flag value at least the expected value, and completes as an acquire. -/
  | flagacqSatisfied
  /-- BARWAIT_DONE (R218): The phase of a hart's last arrival completes, and BARWAIT completes as an acquire. -/
  | barwaitDone
  /-- BCWAIT_DONE (R402): The barrier object's STATUS leaves PENDING, and BCWAIT returns it as an acquire. -/
  | bcwaitDone
  /-- FREDWAIT_DONE (R431): The merged value of the hart's reduction round performs at the home, and FREDWAIT writes DONE as an acquire. -/
  | fredwaitDone
  /-- XWAIT_DONE (R409): The awaited completion record posts, and XWAIT returns it. -/
  | xwaitDone
  /-- VWAIT_SATISFIED (R225): Every active element of a VWAIT is satisfied, and it ends with p0 clear. -/
  | vwaitSatisfied
  /-- VWAIT_TIMEOUT (R225): WTMO clk pass, and VWAIT ends with p0 marking the unsatisfied elements. -/
  | vwaitTimeout
  /-- WFE_WAKE (R331): The wake latch is set while WFE waits, and WFE clears it and returns 1. -/
  | wfeWake
  /-- WFE_TIMEOUT (R331): The WFE time limit expires, and WFE returns 0. -/
  | wfeTimeout
  /-- FENCE_COMPLETE (R206): Every earlier access has performed at the scope and every earlier transfer has retired, so the fence completes. -/
  | fenceComplete
  /-- DRAINST_COMPLETE (R280): Every earlier store has performed or faulted, and DRAINST ends or takes STOREPEND. -/
  | drainstComplete
  /-- MMAQ_MEET (R239): All four quad harts have issued MMAQ, and the leader's rows feed the four arrays. -/
  | mmaqMeet
  /-- ECALL_RETURN (R54): Riura returns from a Shurra hart's ECALL with its result in x16. -/
  | ecallReturn
  /-- TRAIN_ARRIVE (R221): A remote train performs its elements at the destination, then its tail as a BCARRIVE release. -/
  | trainArrive
  /-- TRAIN_ACK (R221): A destination acknowledges a train, which then counts as performed at fabric scope. -/
  | trainAck
  /-- FRED_ACCEPT (R430): A first-tier switch accepts a FRED contribution into an open round, or faults it. -/
  | fredAccept
  /-- FRED_ROUND_DELIVER (R430): NPART contributions have arrived, and the home switch delivers the merged value as one store. -/
  | fredRoundDeliver
  /-- PEER_KILL_NOTICE (R289): Riura receives a peer-kill notice and writes ABORTED to the collective's tied barriers. -/
  | peerKillNotice
  /-- RELEASE_PERFORM (R210): A waiting FLAGREL, SIGNAL, BCPOST or BCARRIVE finds every earlier access performed at its scope and every earlier transfer retired, and performs its write, add or update. -/
  | releasePerform
  /-- HANDOFF_EVENT (R219): After HANDOFF's wait for the hart's earlier stores to the listed pages, the single package-scope event moves the pages to GEN, removes write permission and writes the flag. -/
  | handoffEvent
  /-- EXIT_WAIT_DONE (R333): EXIT's wait for the hart's earlier stores, atomics and transfers ends, and the hart either takes STOREPEND or ends. -/
  | exitWaitDone
  /-- VECTOR_STORE_PERFORM (R279): The elements of a vector store, vector atomic or tile drain perform or fault after issue, and one SFRQ record is added per faulting page. -/
  | vectorStorePerform
  /-- WSLOAD_RETURN (R174): WSLOAD writes its last byte to every named die and returns as a release at package scope. -/
  | wsloadReturn
  /-- CONFIGURATION_REQUEST (R33): A host configuration request reaches the host link and is answered, with Configuration Request Retry Status from bring-up step 4 until step 7. -/
  | configurationRequest
  /-- DEBUGGER_RELEASE (R276): shdb releases a crew that it holds stopped after a BREAK or a breakpoint, and the crew resumes at TPC. -/
  | debuggerRelease
  /-- CONFINEMENT_SET (R433): shdb sets or removes a confinement set of cores for an application, or detaches, which changes where Riura may place and resume its crews. -/
  | confinementSet
deriving DecidableEq, Repr

end Sys2Proof
end

