-- ==== Sys2Proof/WellFormed.lean ====
section
/-! DEFINITION. The checks that depend on an instruction's word alone (R298, R299): a word that fails one is ILLEGAL
wherever it is fetched. SETVLI's configuration is not among them, since a pending STOREPEND comes before it (R328), nor the
rows of an MMAQ, whose member must still meet the others (R239). Device events carry no word and are well formed by construction. -/

namespace Sys2Proof

/-- Scope codes 5 to 7 are ILLEGAL (R195). -/
def scopeOk (s : BitVec 3) : Bool := decide (s.toNat < 5)

/-- Predicate fields 96 to 127 are ILLEGAL (R108). -/
def predOk (p : Reg) : Bool := decide (p.toNat < 96)

/-- The n field of the M format: 0 means 128 (R292). -/
def rowsOf (n : Reg) : Nat := if n.toNat = 0 then 128 else n.toNat

/-- A row group 16h + r stays within the 256 tile rows (R411). -/
def rowsOk (n : Reg) (h : BitVec 4) : Bool := decide (16 * h.toNat + rowsOf n ≤ 256)

/-- The order of a factorisation is 1 to 96 (R241). -/
def orderOk (n : Reg) : Bool := decide (1 ≤ n.toNat) && decide (n.toNat ≤ 96)

/-- Whether an instruction passes every check that its word alone decides. -/
def Instr.wf : Instr → Bool
  | .lui _ _ => true
  | .pchi _ _ => true
  | .jal _ _ => true
  | .jalr _ _ _ => true
  | .addi _ _ _ => true
  | .andi _ _ _ => true
  | .ori _ _ _ => true
  | .xori _ _ _ => true
  | .slti _ _ _ => true
  | .sltni _ _ _ => true
  | .shli _ _ _ => true
  | .shrli _ _ _ => true
  | .shrai _ _ _ => true
  | .rotri _ _ _ => true
  | .add _ _ _ => true
  | .sub _ _ _ => true
  | .and _ _ _ => true
  | .or _ _ _ => true
  | .xor _ _ _ => true
  | .shl _ _ _ => true
  | .shrl _ _ _ => true
  | .shra _ _ _ => true
  | .slt _ _ _ => true
  | .sltn _ _ _ => true
  | .min _ _ _ => true
  | .max _ _ _ => true
  | .minn _ _ _ => true
  | .maxn _ _ _ => true
  | .andn _ _ _ => true
  | .rotr _ _ _ => true
  | .mul _ _ _ => true
  | .mulh _ _ _ => true
  | .mulhn _ _ _ => true
  | .div _ _ _ => true
  | .divn _ _ _ => true
  | .rem _ _ _ => true
  | .remn _ _ _ => true
  | .clz _ _ => true
  | .ctz _ _ => true
  | .popc _ _ => true
  | .ldb _ _ _ => true
  | .ldh _ _ _ => true
  | .ldw _ _ _ => true
  | .ldd _ _ _ => true
  | .ldbn _ _ _ => true
  | .ldhn _ _ _ => true
  | .ldwn _ _ _ => true
  | .stb _ _ _ => true
  | .sth _ _ _ => true
  | .stw _ _ _ => true
  | .std _ _ _ => true
  | .beq _ _ _ => true
  | .bne _ _ _ => true
  | .blt _ _ _ => true
  | .bge _ _ _ => true
  | .bltn _ _ _ => true
  | .bgen _ _ _ => true
  | .srd _ _ => true
  | .swr _ _ => true
  | .winb _ _ => true
  | .iclock _ _ _ => true
  | .setvli _ _ _ => true
  | .setvl _ _ _ => true
  | .ecall => true
  | .trapret => true
  | .brk _ => true
  | .wfe _ _ => true
  | .fence scope => scopeOk scope
  | .drainst => true
  | .sfrpop d => decide (d.toNat ≤ 124)
  | .icunlock => true
  | .exit => true
  | .yield => true
  | .amoswap _ _ _ => true
  | .amoadd _ _ _ => true
  | .amoand _ _ _ => true
  | .amoor _ _ _ => true
  | .amoxor _ _ _ => true
  | .amomin _ _ _ => true
  | .amomax _ _ _ => true
  | .amominn _ _ _ => true
  | .amomaxn _ _ _ => true
  | .amocas _ _ _ => true
  | .flagrel _ _ scope => scopeOk scope
  | .flagacq _ _ scope => scopeOk scope
  | .signal _ _ scope => scopeOk scope
  | .bcpost _ _ scope => scopeOk scope
  | .bcarrive _ _ scope => scopeOk scope
  | .bcwait _ _ scope => scopeOk scope
  | .handoff _ _ _ => true
  | .stron _ a b => decide (b.toNat < 8) && decide (a.toNat ≤ 125)
  | .stroff b => decide (b.toNat < 8)
  | .xfer _ _ b => decide (b.toNat ≤ 126)
  | .xferv _ _ b => decide (b.toNat ≤ 126)
  | .xfervs _ _ b => decide (b.toNat ≤ 126)
  | .xferc _ _ _ => true
  | .xferq _ _ b => decide (b.toNat ≤ 124)
  | .xwait d a => decide (d.toNat ≤ 126) && decide (a.toNat < 4)
  | .xpoll d a => decide (d.toNat ≤ 126) && decide (a.toNat < 4)
  | .xtier _ b => decide (b.toNat ≤ 126)
  | .mlds a h n => (decide (h.toNat = 0) && decide (n.toNat = 0) && decide (a.toNat ≤ 125)) || (decide (h.toNat = 1) && decide (a.toNat + rowsOf n ≤ 128))
  | .mswap => true
  | .mma _ a h n => decide (a.toNat + rowsOf n ≤ 128) && rowsOk n h
  | .mmaq _ _ _ _ => true
  | .mzero _ h => decide (h.toNat ≤ 1)
  | .mldacc _ a h n => decide (a.toNat + rowsOf n ≤ 128) && rowsOk n h
  | .mmova _ a h n => decide (a.toNat + rowsOf n ≤ 128) && rowsOk n h
  | .mdrain _ a h n => decide (a.toNat ≤ 126) && rowsOk n h
  | .msoft t a h n => decide (h.toNat ≤ 7) && decide (h.toNat ≠ t.toNat) && decide (1 ≤ n.toNat) && decide (n.toNat ≤ 64) && decide (a.toNat ≤ 126)
  | .mdrainx _ _ h n => rowsOk n h
  | .mlu _ _ n => orderOk n
  | .mchol _ n => orderOk n
  | .mqr _ _ n => orderOk n
  | .mtrsml t h n _ => orderOk n && decide (h.toNat ≤ 7) && decide (h.toNat ≠ t.toNat)
  | .mtrsmu t h n _ => orderOk n && decide (h.toNat ≤ 7) && decide (h.toNat ≠ t.toNat)
  | .claim _ _ => true
  | .wform d _ => predOk d
  | .wrel _ => true
  | .wclr => true
  | .fred _ _ _ _ => true
  | .fredwait _ _ => true
  | .vadd _ _ _ _ => true
  | .vsub _ _ _ _ => true
  | .vmul _ _ _ _ => true
  | .vmulh _ _ _ _ => true
  | .vmin _ _ _ _ => true
  | .vmax _ _ _ _ => true
  | .vminn _ _ _ _ => true
  | .vmaxn _ _ _ _ => true
  | .vand _ _ _ _ => true
  | .vor _ _ _ _ => true
  | .vxor _ _ _ _ => true
  | .vandn _ _ _ _ => true
  | .vshl _ _ _ _ => true
  | .vshrl _ _ _ _ => true
  | .vshra _ _ _ _ => true
  | .vrotr _ _ _ _ => true
  | .vsadd _ _ _ _ => true
  | .vssub _ _ _ _ => true
  | .vsaddn _ _ _ _ => true
  | .vssubn _ _ _ _ => true
  | .vfadd _ _ _ _ => true
  | .vfsub _ _ _ _ => true
  | .vfmul _ _ _ _ => true
  | .vfdiv _ _ _ _ => true
  | .vfma _ _ _ _ => true
  | .vfms _ _ _ _ => true
  | .vfnma _ _ _ _ => true
  | .vfnms _ _ _ _ => true
  | .vfmin _ _ _ _ => true
  | .vfmax _ _ _ _ => true
  | .vfsqrt _ _ _ => true
  | .vfexp _ _ _ => true
  | .vcmpeq d _ _ _ => predOk d
  | .vcmpne d _ _ _ => predOk d
  | .vcmplt d _ _ _ => predOk d
  | .vcmple d _ _ _ => predOk d
  | .pand d a b _ => predOk d && predOk a && predOk b
  | .por d a b _ => predOk d && predOk a && predOk b
  | .pxor d a b _ => predOk d && predOk a && predOk b
  | .pandn d a b _ => predOk d && predOk a && predOk b
  | .pnot d a _ => predOk d && predOk a
  | .pfirst _ a _ => predOk a
  | .pcount _ a _ => predOk a
  | .mbind d a => decide (1 ≤ d.toNat) && decide (d.toNat ≤ 3) && predOk a
  | .vredsum _ _ _ _ => true
  | .vredmin _ _ _ _ => true
  | .vredmax _ _ _ _ => true
  | .vfredsum _ _ _ _ => true
  | .vslideup _ _ _ _ => true
  | .vslidedn _ _ _ _ => true
  | .vpermv _ _ _ _ => true
  | .vcompress _ _ _ => true
  | .vmv _ _ _ => true
  | .vsplat _ _ _ => true
  | .vextr _ _ _ _ => true
  | .vins _ _ _ _ => true
  | .vcvt _ _ _ => true
  | .vquant _ _ _ _ => true
  | .vdequant _ _ _ _ => true
  | .vamax _ _ _ => true
  | .venc _ _ _ => true
  | .vdec _ _ => true
  | .vencinfo _ _ => true
  | .vrunend _ _ => true
  | .vmergeidx _ _ _ _ => true
  | .vsortkv _ _ _ _ => true
  | .vhash _ _ _ _ => true
  | .vtopk _ _ _ _ => true
  | .vidx _ _ _ _ => true
  | .vidxx _ _ ib _ => decide (1 ≤ ib.toInt)
  | .vsegsum _ _ b _ => predOk b
  | .vsegmax _ _ b _ => predOk b
  | .vscan _ _ b _ => predOk b
  | .vscanx _ _ b _ => predOk b
  | .vchain d _ _ _ => decide (d.toNat ≤ 125)
  | .vchainf d => decide (d.toNat ≤ 125)
  | .vld _ _ _ => true
  | .vlds _ _ _ _ => true
  | .vldx _ _ _ _ => true
  | .vgl _ _ _ _ => true
  | .vldff _ _ _ => true
  | .vldsff _ _ _ _ => true
  | .vldxff _ _ _ _ => true
  | .ngather _ _ _ _ => true
  | .vst _ _ _ => true
  | .vsts _ _ _ _ => true
  | .vstx _ _ _ _ => true
  | .vsc _ _ _ _ => true
  | .vstxr _ _ _ _ => true
  | .vamoadd _ _ _ _ => true
  | .vamomin _ _ _ _ => true
  | .vamomax _ _ _ _ => true
  | .vamoswap _ _ _ _ => true
  | .vamoand _ _ _ _ => true
  | .vamoor _ _ _ _ => true
  | .vamofmax _ _ _ _ => true
  | .vamocas _ _ _ _ => true
  | .vtrans _ _ _ _ => true
  | .vtransff _ _ _ _ => true
  | .vpref _ _ _ => true
  | .vfence _ scope => scopeOk scope
  | .barwait id => decide (1 ≤ id.toNat)
  | .vwait _ _ scope => scopeOk scope
  | .vldseg _ _ _ nf => decide (nf.toNat ≤ 6)
  | .appload => true
  | .appkill => true
  | .appstat => true
  | .powercap => true
  | .tenantset => true
  | .cmdReservedCode => true
  | .mgmtRegisterWrite => true
  | .h2dMessage => true
  | .d2hSlotRelease => true
  | .readbackHartState => true
  | .readbackEngineQueue => true
  | .readbackSaveArea => true
  | .readbackErrorLog => true
  | .readbackLinkStatus => true
  | .readbackMemory => true
  | .readbackAlwaysOnLog => true
  | .readbackBadSpace => true
  | .readbackComplete => true
  | .riuraExit => true
  | .riuraLaunch => true
  | .riuraWait => true
  | .riuraWaitTimeout => true
  | .riuraCancel => true
  | .riuraMap => true
  | .riuraUnmap => true
  | .riuraProtect => true
  | .riuraMigrate => true
  | .migrationCopyDone => true
  | .migrationCopyFail => true
  | .riuraKvalloc => true
  | .riuraKvfree => true
  | .queryDeviceShape => true
  | .queryWeightStore => true
  | .queryAddress => true
  | .queryKvwin => true
  | .riuraTime => true
  | .hostmsgSend => true
  | .hostmsgRecv => true
  | .hostmsgTimeout => true
  | .riuraCrewexit => true
  | .riuraLog => true
  | .riuraWsload => true
  | .collectiveCreate => true
  | .collectiveAddwin => true
  | .collectiveAddbar => true
  | .collectiveWait => true
  | .collectiveWaitTimeout => true
  | .collectiveEnd => true
  | .riuraTenant => true
  | .riuraUnknownService => true
  | .controlProgramFault => true
  | .pclGetVersion => true
  | .pclGetFeatures => true
  | .pclPowerCapSet => true
  | .pclPowerCapGet => true
  | .pclContextArea => true
  | .pclTenantKeyInstall => true
  | .pclTenantKeyWithdraw => true
  | .pclResetWarm => true
  | .pclResetFunction => true
  | .pclUnsupported => true
  | .coldReset => true
  | .warmReset => true
  | .functionReset => true
  | .standbyRailGood => true
  | .bringUp => true
  | .riuraFatalError => true
  | .powerCapTakeEffect => true
  | .thermalThrottleStart => true
  | .thermalThrottleEnd => true
  | .thermalTrip => true
  | .huskAlarm => true
  | .spdmRequest => true
  | .cxlMemRead => true
  | .cxlMemWrite => true
  | .poolLinkDown => true
  | .poolLinkUp => true
  | .flitReceive => true
  | .replayLimit => true
  | .portEnable => true
  | .detectDone => true
  | .detectTimeout => true
  | .polarityDone => true
  | .polarityTimeout => true
  | .deskewDone => true
  | .deskewTimeout => true
  | .feclockDone => true
  | .feclockTimeout => true
  | .creditDone => true
  | .creditTimeout => true
  | .retrainDone => true
  | .retrainTimeout => true
  | .schedulerPlaceCrew => true
  | .schedulerPreempt => true
  | .hartSwap => true
  | .crewResume => true
  | .spillDone => true
  | .contextFillDone => true
  | .leaseFillDone => true
  | .storependSkidLimit => true
  | .transferRetire => true
  | .streamRefill => true
  | .wsRefreshWindowOpen => true
  | .wsRefreshWindowClose => true
  | .patrolScrub => true
  | .eccUncorrectable => true
  | .flagacqSatisfied => true
  | .barwaitDone => true
  | .bcwaitDone => true
  | .fredwaitDone => true
  | .xwaitDone => true
  | .vwaitSatisfied => true
  | .vwaitTimeout => true
  | .wfeWake => true
  | .wfeTimeout => true
  | .fenceComplete => true
  | .drainstComplete => true
  | .mmaqMeet => true
  | .ecallReturn => true
  | .trainArrive => true
  | .trainAck => true
  | .fredAccept => true
  | .fredRoundDeliver => true
  | .peerKillNotice => true
  | .releasePerform => true
  | .handoffEvent => true
  | .exitWaitDone => true
  | .vectorStorePerform => true
  | .wsloadReturn => true
  | .configurationRequest => true
  | .debuggerRelease => true
  | .confinementSet => true

end Sys2Proof
end

