-- ==== Sys2Proof/Decode.lean ====
section
/-! DEFINITION. The decoder of instruction words (R291 to R298), total on every word, and the encoder written from the
same formats (R292, R293). A word is a natural number below 2^32, bit 0 its least significant bit.
`decodeRaw` reads the fields and refuses reserved majors, reserved function values and non-zero fields that must be zero;
`decode` refuses reserved field values as well. -/

namespace Sys2Proof

/-- Why a word is no instruction (R298). -/
inductive DecodeReject where
  /-- A reserved or illegal major, a reserved function value, or a field that must be zero and is not. -/
  | noInstruction
  /-- A reserved value in a defined field, a predicate number of 96 or more, a register run past its end. -/
  | reservedField
deriving DecidableEq, Repr

/-- Major 0x04, 0x05, 0x06, 0x07 (R297): LUI. -/
def decodeMajor04 (w : Nat) : Option Instr :=
  some (.lui (BitVec.ofNat 7 ((w / 128) % 128)) (BitVec.ofNat 20 ((w / 16384) * 4 + w % 4)))

/-- Major 0x08, 0x09, 0x0A, 0x0B (R297): PCHI. -/
def decodeMajor08 (w : Nat) : Option Instr :=
  some (.pchi (BitVec.ofNat 7 ((w / 128) % 128)) (BitVec.ofNat 20 ((w / 16384) * 4 + w % 4)))

/-- Major 0x0C, 0x0D, 0x0E, 0x0F (R297): JAL. -/
def decodeMajor0C (w : Nat) : Option Instr :=
  some (.jal (BitVec.ofNat 7 ((w / 128) % 128)) (BitVec.ofNat 20 ((w / 16384) * 4 + w % 4)))

/-- Major 0x1E, 0x1F (R297): JALR. -/
def decodeMajor1E (w : Nat) : Option Instr :=
  some (.jalr (BitVec.ofNat 7 ((w / 128) % 128)) (BitVec.ofNat 7 ((w / 16384) % 128)) (BitVec.ofNat 12 ((w / 2097152) * 2 + w % 2)))

/-- Major 0x10, 0x11 (R297): ADDI. -/
def decodeMajor10 (w : Nat) : Option Instr :=
  some (.addi (BitVec.ofNat 7 ((w / 128) % 128)) (BitVec.ofNat 7 ((w / 16384) % 128)) (BitVec.ofNat 12 ((w / 2097152) * 2 + w % 2)))

/-- Major 0x12, 0x13 (R297): ANDI. -/
def decodeMajor12 (w : Nat) : Option Instr :=
  some (.andi (BitVec.ofNat 7 ((w / 128) % 128)) (BitVec.ofNat 7 ((w / 16384) % 128)) (BitVec.ofNat 12 ((w / 2097152) * 2 + w % 2)))

/-- Major 0x14, 0x15 (R297): ORI. -/
def decodeMajor14 (w : Nat) : Option Instr :=
  some (.ori (BitVec.ofNat 7 ((w / 128) % 128)) (BitVec.ofNat 7 ((w / 16384) % 128)) (BitVec.ofNat 12 ((w / 2097152) * 2 + w % 2)))

/-- Major 0x16, 0x17 (R297): XORI. -/
def decodeMajor16 (w : Nat) : Option Instr :=
  some (.xori (BitVec.ofNat 7 ((w / 128) % 128)) (BitVec.ofNat 7 ((w / 16384) % 128)) (BitVec.ofNat 12 ((w / 2097152) * 2 + w % 2)))

/-- Major 0x18, 0x19 (R297): SLTI. -/
def decodeMajor18 (w : Nat) : Option Instr :=
  some (.slti (BitVec.ofNat 7 ((w / 128) % 128)) (BitVec.ofNat 7 ((w / 16384) % 128)) (BitVec.ofNat 12 ((w / 2097152) * 2 + w % 2)))

/-- Major 0x1A, 0x1B (R297): SLTNI. -/
def decodeMajor1A (w : Nat) : Option Instr :=
  some (.sltni (BitVec.ofNat 7 ((w / 128) % 128)) (BitVec.ofNat 7 ((w / 16384) % 128)) (BitVec.ofNat 12 ((w / 2097152) * 2 + w % 2)))

/-- Major 0x1C, 0x1D (R297): SHLI, SHRLI, SHRAI, ROTRI. -/
def decodeMajor1C (w : Nat) : Option Instr :=
  if w / 67108864 = 0 then some (.shli (BitVec.ofNat 7 ((w / 128) % 128)) (BitVec.ofNat 7 ((w / 16384) % 128)) (BitVec.ofNat 6 (((w / 2097152) % 32) * 2 + w % 2)))
  else if w / 67108864 = 1 then some (.shrli (BitVec.ofNat 7 ((w / 128) % 128)) (BitVec.ofNat 7 ((w / 16384) % 128)) (BitVec.ofNat 6 (((w / 2097152) % 32) * 2 + w % 2)))
  else if w / 67108864 = 2 then some (.shrai (BitVec.ofNat 7 ((w / 128) % 128)) (BitVec.ofNat 7 ((w / 16384) % 128)) (BitVec.ofNat 6 (((w / 2097152) % 32) * 2 + w % 2)))
  else if w / 67108864 = 3 then some (.rotri (BitVec.ofNat 7 ((w / 128) % 128)) (BitVec.ofNat 7 ((w / 16384) % 128)) (BitVec.ofNat 6 (((w / 2097152) % 32) * 2 + w % 2)))
  else none

/-- Major 0x50 (R297): ADD, SUB, AND, OR, XOR, SHL, SHRL, SHRA, SLT, SLTN, MIN, MAX, MINN, MAXN, ANDN, ROTR. -/
def decodeMajor50 (w : Nat) : Option Instr :=
  if w / 268435456 = 0 then some (.add (BitVec.ofNat 7 ((w / 128) % 128)) (BitVec.ofNat 7 ((w / 16384) % 128)) (BitVec.ofNat 7 ((w / 2097152) % 128)))
  else if w / 268435456 = 1 then some (.sub (BitVec.ofNat 7 ((w / 128) % 128)) (BitVec.ofNat 7 ((w / 16384) % 128)) (BitVec.ofNat 7 ((w / 2097152) % 128)))
  else if w / 268435456 = 2 then some (.and (BitVec.ofNat 7 ((w / 128) % 128)) (BitVec.ofNat 7 ((w / 16384) % 128)) (BitVec.ofNat 7 ((w / 2097152) % 128)))
  else if w / 268435456 = 3 then some (.or (BitVec.ofNat 7 ((w / 128) % 128)) (BitVec.ofNat 7 ((w / 16384) % 128)) (BitVec.ofNat 7 ((w / 2097152) % 128)))
  else if w / 268435456 = 4 then some (.xor (BitVec.ofNat 7 ((w / 128) % 128)) (BitVec.ofNat 7 ((w / 16384) % 128)) (BitVec.ofNat 7 ((w / 2097152) % 128)))
  else if w / 268435456 = 5 then some (.shl (BitVec.ofNat 7 ((w / 128) % 128)) (BitVec.ofNat 7 ((w / 16384) % 128)) (BitVec.ofNat 7 ((w / 2097152) % 128)))
  else if w / 268435456 = 6 then some (.shrl (BitVec.ofNat 7 ((w / 128) % 128)) (BitVec.ofNat 7 ((w / 16384) % 128)) (BitVec.ofNat 7 ((w / 2097152) % 128)))
  else if w / 268435456 = 7 then some (.shra (BitVec.ofNat 7 ((w / 128) % 128)) (BitVec.ofNat 7 ((w / 16384) % 128)) (BitVec.ofNat 7 ((w / 2097152) % 128)))
  else if w / 268435456 = 8 then some (.slt (BitVec.ofNat 7 ((w / 128) % 128)) (BitVec.ofNat 7 ((w / 16384) % 128)) (BitVec.ofNat 7 ((w / 2097152) % 128)))
  else if w / 268435456 = 9 then some (.sltn (BitVec.ofNat 7 ((w / 128) % 128)) (BitVec.ofNat 7 ((w / 16384) % 128)) (BitVec.ofNat 7 ((w / 2097152) % 128)))
  else if w / 268435456 = 10 then some (.min (BitVec.ofNat 7 ((w / 128) % 128)) (BitVec.ofNat 7 ((w / 16384) % 128)) (BitVec.ofNat 7 ((w / 2097152) % 128)))
  else if w / 268435456 = 11 then some (.max (BitVec.ofNat 7 ((w / 128) % 128)) (BitVec.ofNat 7 ((w / 16384) % 128)) (BitVec.ofNat 7 ((w / 2097152) % 128)))
  else if w / 268435456 = 12 then some (.minn (BitVec.ofNat 7 ((w / 128) % 128)) (BitVec.ofNat 7 ((w / 16384) % 128)) (BitVec.ofNat 7 ((w / 2097152) % 128)))
  else if w / 268435456 = 13 then some (.maxn (BitVec.ofNat 7 ((w / 128) % 128)) (BitVec.ofNat 7 ((w / 16384) % 128)) (BitVec.ofNat 7 ((w / 2097152) % 128)))
  else if w / 268435456 = 14 then some (.andn (BitVec.ofNat 7 ((w / 128) % 128)) (BitVec.ofNat 7 ((w / 16384) % 128)) (BitVec.ofNat 7 ((w / 2097152) % 128)))
  else if w / 268435456 = 15 then some (.rotr (BitVec.ofNat 7 ((w / 128) % 128)) (BitVec.ofNat 7 ((w / 16384) % 128)) (BitVec.ofNat 7 ((w / 2097152) % 128)))
  else none

/-- Major 0x51 (R297): MUL, MULH, MULHN, DIV, DIVN, REM, REMN, CLZ, CTZ, POPC. -/
def decodeMajor51 (w : Nat) : Option Instr :=
  if w / 268435456 = 0 then some (.mul (BitVec.ofNat 7 ((w / 128) % 128)) (BitVec.ofNat 7 ((w / 16384) % 128)) (BitVec.ofNat 7 ((w / 2097152) % 128)))
  else if w / 268435456 = 1 then some (.mulh (BitVec.ofNat 7 ((w / 128) % 128)) (BitVec.ofNat 7 ((w / 16384) % 128)) (BitVec.ofNat 7 ((w / 2097152) % 128)))
  else if w / 268435456 = 2 then some (.mulhn (BitVec.ofNat 7 ((w / 128) % 128)) (BitVec.ofNat 7 ((w / 16384) % 128)) (BitVec.ofNat 7 ((w / 2097152) % 128)))
  else if w / 268435456 = 3 then some (.div (BitVec.ofNat 7 ((w / 128) % 128)) (BitVec.ofNat 7 ((w / 16384) % 128)) (BitVec.ofNat 7 ((w / 2097152) % 128)))
  else if w / 268435456 = 4 then some (.divn (BitVec.ofNat 7 ((w / 128) % 128)) (BitVec.ofNat 7 ((w / 16384) % 128)) (BitVec.ofNat 7 ((w / 2097152) % 128)))
  else if w / 268435456 = 5 then some (.rem (BitVec.ofNat 7 ((w / 128) % 128)) (BitVec.ofNat 7 ((w / 16384) % 128)) (BitVec.ofNat 7 ((w / 2097152) % 128)))
  else if w / 268435456 = 6 then some (.remn (BitVec.ofNat 7 ((w / 128) % 128)) (BitVec.ofNat 7 ((w / 16384) % 128)) (BitVec.ofNat 7 ((w / 2097152) % 128)))
  else if w / 2097152 = 896 then some (.clz (BitVec.ofNat 7 ((w / 128) % 128)) (BitVec.ofNat 7 ((w / 16384) % 128)))
  else if w / 2097152 = 1024 then some (.ctz (BitVec.ofNat 7 ((w / 128) % 128)) (BitVec.ofNat 7 ((w / 16384) % 128)))
  else if w / 2097152 = 1152 then some (.popc (BitVec.ofNat 7 ((w / 128) % 128)) (BitVec.ofNat 7 ((w / 16384) % 128)))
  else none

/-- Major 0x20, 0x21 (R297): LDB. -/
def decodeMajor20 (w : Nat) : Option Instr :=
  some (.ldb (BitVec.ofNat 7 ((w / 128) % 128)) (BitVec.ofNat 7 ((w / 16384) % 128)) (BitVec.ofNat 12 ((w / 2097152) * 2 + w % 2)))

/-- Major 0x22, 0x23 (R297): LDH. -/
def decodeMajor22 (w : Nat) : Option Instr :=
  some (.ldh (BitVec.ofNat 7 ((w / 128) % 128)) (BitVec.ofNat 7 ((w / 16384) % 128)) (BitVec.ofNat 12 ((w / 2097152) * 2 + w % 2)))

/-- Major 0x24, 0x25 (R297): LDW. -/
def decodeMajor24 (w : Nat) : Option Instr :=
  some (.ldw (BitVec.ofNat 7 ((w / 128) % 128)) (BitVec.ofNat 7 ((w / 16384) % 128)) (BitVec.ofNat 12 ((w / 2097152) * 2 + w % 2)))

/-- Major 0x26, 0x27 (R297): LDD. -/
def decodeMajor26 (w : Nat) : Option Instr :=
  some (.ldd (BitVec.ofNat 7 ((w / 128) % 128)) (BitVec.ofNat 7 ((w / 16384) % 128)) (BitVec.ofNat 12 ((w / 2097152) * 2 + w % 2)))

/-- Major 0x28, 0x29 (R297): LDBN. -/
def decodeMajor28 (w : Nat) : Option Instr :=
  some (.ldbn (BitVec.ofNat 7 ((w / 128) % 128)) (BitVec.ofNat 7 ((w / 16384) % 128)) (BitVec.ofNat 12 ((w / 2097152) * 2 + w % 2)))

/-- Major 0x2A, 0x2B (R297): LDHN. -/
def decodeMajor2A (w : Nat) : Option Instr :=
  some (.ldhn (BitVec.ofNat 7 ((w / 128) % 128)) (BitVec.ofNat 7 ((w / 16384) % 128)) (BitVec.ofNat 12 ((w / 2097152) * 2 + w % 2)))

/-- Major 0x2C, 0x2D (R297): LDWN. -/
def decodeMajor2C (w : Nat) : Option Instr :=
  some (.ldwn (BitVec.ofNat 7 ((w / 128) % 128)) (BitVec.ofNat 7 ((w / 16384) % 128)) (BitVec.ofNat 12 ((w / 2097152) * 2 + w % 2)))

/-- Major 0x2E, 0x2F (R297): STB. -/
def decodeMajor2E (w : Nat) : Option Instr :=
  some (.stb (BitVec.ofNat 7 ((w / 2097152) % 128)) (BitVec.ofNat 7 ((w / 16384) % 128)) (BitVec.ofNat 12 ((w / 268435456) * 256 + ((w / 128) % 128) * 2 + w % 2)))

/-- Major 0x30, 0x31 (R297): STH. -/
def decodeMajor30 (w : Nat) : Option Instr :=
  some (.sth (BitVec.ofNat 7 ((w / 2097152) % 128)) (BitVec.ofNat 7 ((w / 16384) % 128)) (BitVec.ofNat 12 ((w / 268435456) * 256 + ((w / 128) % 128) * 2 + w % 2)))

/-- Major 0x32, 0x33 (R297): STW. -/
def decodeMajor32 (w : Nat) : Option Instr :=
  some (.stw (BitVec.ofNat 7 ((w / 2097152) % 128)) (BitVec.ofNat 7 ((w / 16384) % 128)) (BitVec.ofNat 12 ((w / 268435456) * 256 + ((w / 128) % 128) * 2 + w % 2)))

/-- Major 0x34, 0x35 (R297): STD. -/
def decodeMajor34 (w : Nat) : Option Instr :=
  some (.std (BitVec.ofNat 7 ((w / 2097152) % 128)) (BitVec.ofNat 7 ((w / 16384) % 128)) (BitVec.ofNat 12 ((w / 268435456) * 256 + ((w / 128) % 128) * 2 + w % 2)))

/-- Major 0x36, 0x37 (R297): BEQ. -/
def decodeMajor36 (w : Nat) : Option Instr :=
  some (.beq (BitVec.ofNat 7 ((w / 16384) % 128)) (BitVec.ofNat 7 ((w / 2097152) % 128)) (BitVec.ofNat 12 ((w / 268435456) * 256 + ((w / 128) % 128) * 2 + w % 2)))

/-- Major 0x38, 0x39 (R297): BNE. -/
def decodeMajor38 (w : Nat) : Option Instr :=
  some (.bne (BitVec.ofNat 7 ((w / 16384) % 128)) (BitVec.ofNat 7 ((w / 2097152) % 128)) (BitVec.ofNat 12 ((w / 268435456) * 256 + ((w / 128) % 128) * 2 + w % 2)))

/-- Major 0x3A, 0x3B (R297): BLT. -/
def decodeMajor3A (w : Nat) : Option Instr :=
  some (.blt (BitVec.ofNat 7 ((w / 16384) % 128)) (BitVec.ofNat 7 ((w / 2097152) % 128)) (BitVec.ofNat 12 ((w / 268435456) * 256 + ((w / 128) % 128) * 2 + w % 2)))

/-- Major 0x3C, 0x3D (R297): BGE. -/
def decodeMajor3C (w : Nat) : Option Instr :=
  some (.bge (BitVec.ofNat 7 ((w / 16384) % 128)) (BitVec.ofNat 7 ((w / 2097152) % 128)) (BitVec.ofNat 12 ((w / 268435456) * 256 + ((w / 128) % 128) * 2 + w % 2)))

/-- Major 0x3E, 0x3F (R297): BLTN. -/
def decodeMajor3E (w : Nat) : Option Instr :=
  some (.bltn (BitVec.ofNat 7 ((w / 16384) % 128)) (BitVec.ofNat 7 ((w / 2097152) % 128)) (BitVec.ofNat 12 ((w / 268435456) * 256 + ((w / 128) % 128) * 2 + w % 2)))

/-- Major 0x40, 0x41 (R297): BGEN. -/
def decodeMajor40 (w : Nat) : Option Instr :=
  some (.bgen (BitVec.ofNat 7 ((w / 16384) % 128)) (BitVec.ofNat 7 ((w / 2097152) % 128)) (BitVec.ofNat 12 ((w / 268435456) * 256 + ((w / 128) % 128) * 2 + w % 2)))

/-- Major 0x42, 0x43 (R297): SRD. -/
def decodeMajor42 (w : Nat) : Option Instr :=
  if w / 16384 % 128 = 0 then some (.srd (BitVec.ofNat 7 ((w / 128) % 128)) (BitVec.ofNat 12 ((w / 2097152) * 2 + w % 2)))
  else none

/-- Major 0x44, 0x45 (R297): SWR. -/
def decodeMajor44 (w : Nat) : Option Instr :=
  if w / 128 % 128 = 0 then some (.swr (BitVec.ofNat 7 ((w / 16384) % 128)) (BitVec.ofNat 12 ((w / 2097152) * 2 + w % 2)))
  else none

/-- Major 0x46, 0x47 (R297): WINB. -/
def decodeMajor46 (w : Nat) : Option Instr :=
  if w / 128 % 128 = 0 then some (.winb (BitVec.ofNat 7 ((w / 16384) % 128)) (BitVec.ofNat 12 ((w / 2097152) * 2 + w % 2)))
  else none

/-- Major 0x48, 0x49 (R297): ICLOCK. -/
def decodeMajor48 (w : Nat) : Option Instr :=
  some (.iclock (BitVec.ofNat 7 ((w / 128) % 128)) (BitVec.ofNat 7 ((w / 16384) % 128)) (BitVec.ofNat 12 ((w / 2097152) * 2 + w % 2)))

/-- Major 0x4A, 0x4B (R297): SETVLI. -/
def decodeMajor4A (w : Nat) : Option Instr :=
  some (.setvli (BitVec.ofNat 7 ((w / 128) % 128)) (BitVec.ofNat 7 ((w / 16384) % 128)) (BitVec.ofNat 12 ((w / 2097152) * 2 + w % 2)))

/-- Major 0x52 (R297): SETVL. -/
def decodeMajor52 (w : Nat) : Option Instr :=
  if w / 268435456 = 0 then some (.setvl (BitVec.ofNat 7 ((w / 128) % 128)) (BitVec.ofNat 7 ((w / 16384) % 128)) (BitVec.ofNat 7 ((w / 2097152) % 128)))
  else none

/-- Major 0x53 (R297): ECALL, TRAPRET, BRK, WFE, FENCE, DRAINST, SFRPOP, ICUNLOCK, EXIT, YIELD. -/
def decodeMajor53 (w : Nat) : Option Instr :=
  if w / 128 = 0 then some (.ecall)
  else if w / 128 = 2097152 then some (.trapret)
  else if w / 128 % 128 = 0 ∧ w / 268435456 = 2 then some (.brk (BitVec.ofNat 14 ((w / 16384) % 16384)))
  else if w / 2097152 = 384 then some (.wfe (BitVec.ofNat 7 ((w / 128) % 128)) (BitVec.ofNat 7 ((w / 16384) % 128)))
  else if w / 128 % 16384 = 0 ∧ w / 16777216 = 64 then some (.fence (BitVec.ofNat 3 ((w / 2097152) % 8)))
  else if w / 128 = 10485760 then some (.drainst)
  else if w / 16384 = 98304 then some (.sfrpop (BitVec.ofNat 7 ((w / 128) % 128)))
  else if w / 128 = 14680064 then some (.icunlock)
  else if w / 128 = 16777216 then some (.exit)
  else if w / 128 = 18874368 then some (.yield)
  else none

/-- Major 0x54 (R297): AMOSWAP, AMOADD, AMOAND, AMOOR, AMOXOR, AMOMIN, AMOMAX, AMOMINN, AMOMAXN, AMOCAS. -/
def decodeMajor54 (w : Nat) : Option Instr :=
  if w / 268435456 = 0 then some (.amoswap (BitVec.ofNat 7 ((w / 128) % 128)) (BitVec.ofNat 7 ((w / 16384) % 128)) (BitVec.ofNat 7 ((w / 2097152) % 128)))
  else if w / 268435456 = 1 then some (.amoadd (BitVec.ofNat 7 ((w / 128) % 128)) (BitVec.ofNat 7 ((w / 16384) % 128)) (BitVec.ofNat 7 ((w / 2097152) % 128)))
  else if w / 268435456 = 2 then some (.amoand (BitVec.ofNat 7 ((w / 128) % 128)) (BitVec.ofNat 7 ((w / 16384) % 128)) (BitVec.ofNat 7 ((w / 2097152) % 128)))
  else if w / 268435456 = 3 then some (.amoor (BitVec.ofNat 7 ((w / 128) % 128)) (BitVec.ofNat 7 ((w / 16384) % 128)) (BitVec.ofNat 7 ((w / 2097152) % 128)))
  else if w / 268435456 = 4 then some (.amoxor (BitVec.ofNat 7 ((w / 128) % 128)) (BitVec.ofNat 7 ((w / 16384) % 128)) (BitVec.ofNat 7 ((w / 2097152) % 128)))
  else if w / 268435456 = 5 then some (.amomin (BitVec.ofNat 7 ((w / 128) % 128)) (BitVec.ofNat 7 ((w / 16384) % 128)) (BitVec.ofNat 7 ((w / 2097152) % 128)))
  else if w / 268435456 = 6 then some (.amomax (BitVec.ofNat 7 ((w / 128) % 128)) (BitVec.ofNat 7 ((w / 16384) % 128)) (BitVec.ofNat 7 ((w / 2097152) % 128)))
  else if w / 268435456 = 7 then some (.amominn (BitVec.ofNat 7 ((w / 128) % 128)) (BitVec.ofNat 7 ((w / 16384) % 128)) (BitVec.ofNat 7 ((w / 2097152) % 128)))
  else if w / 268435456 = 8 then some (.amomaxn (BitVec.ofNat 7 ((w / 128) % 128)) (BitVec.ofNat 7 ((w / 16384) % 128)) (BitVec.ofNat 7 ((w / 2097152) % 128)))
  else if w / 268435456 = 9 then some (.amocas (BitVec.ofNat 7 ((w / 128) % 128)) (BitVec.ofNat 7 ((w / 16384) % 128)) (BitVec.ofNat 7 ((w / 2097152) % 128)))
  else none

/-- Major 0x55 (R297): FLAGREL, FLAGACQ, SIGNAL, BCPOST, BCARRIVE, BCWAIT, HANDOFF. -/
def decodeMajor55 (w : Nat) : Option Instr :=
  if w / 16777216 = 0 then some (.flagrel (BitVec.ofNat 7 ((w / 128) % 128)) (BitVec.ofNat 7 ((w / 16384) % 128)) (BitVec.ofNat 3 ((w / 2097152) % 8)))
  else if w / 16777216 = 16 then some (.flagacq (BitVec.ofNat 7 ((w / 128) % 128)) (BitVec.ofNat 7 ((w / 16384) % 128)) (BitVec.ofNat 3 ((w / 2097152) % 8)))
  else if w / 16777216 = 32 then some (.signal (BitVec.ofNat 7 ((w / 128) % 128)) (BitVec.ofNat 7 ((w / 16384) % 128)) (BitVec.ofNat 3 ((w / 2097152) % 8)))
  else if w / 16777216 = 48 then some (.bcpost (BitVec.ofNat 7 ((w / 128) % 128)) (BitVec.ofNat 7 ((w / 16384) % 128)) (BitVec.ofNat 3 ((w / 2097152) % 8)))
  else if w / 16777216 = 64 then some (.bcarrive (BitVec.ofNat 7 ((w / 128) % 128)) (BitVec.ofNat 7 ((w / 16384) % 128)) (BitVec.ofNat 3 ((w / 2097152) % 8)))
  else if w / 16777216 = 80 then some (.bcwait (BitVec.ofNat 7 ((w / 128) % 128)) (BitVec.ofNat 7 ((w / 16384) % 128)) (BitVec.ofNat 3 ((w / 2097152) % 8)))
  else if w / 268435456 = 6 then some (.handoff (BitVec.ofNat 7 ((w / 128) % 128)) (BitVec.ofNat 7 ((w / 16384) % 128)) (BitVec.ofNat 7 ((w / 2097152) % 128)))
  else none

/-- Major 0x56 (R297): STRON, STROFF, XFER, XFERV, XFERVS, XFERC, XFERQ, XWAIT, XPOLL, XTIER. -/
def decodeMajor56 (w : Nat) : Option Instr :=
  if w / 268435456 = 0 then some (.stron (BitVec.ofNat 7 ((w / 128) % 128)) (BitVec.ofNat 7 ((w / 16384) % 128)) (BitVec.ofNat 7 ((w / 2097152) % 128)))
  else if w / 128 % 16384 = 0 ∧ w / 268435456 = 1 then some (.stroff (BitVec.ofNat 7 ((w / 2097152) % 128)))
  else if w / 268435456 = 2 then some (.xfer (BitVec.ofNat 7 ((w / 128) % 128)) (BitVec.ofNat 7 ((w / 16384) % 128)) (BitVec.ofNat 7 ((w / 2097152) % 128)))
  else if w / 268435456 = 3 then some (.xferv (BitVec.ofNat 7 ((w / 128) % 128)) (BitVec.ofNat 7 ((w / 16384) % 128)) (BitVec.ofNat 7 ((w / 2097152) % 128)))
  else if w / 268435456 = 4 then some (.xfervs (BitVec.ofNat 7 ((w / 128) % 128)) (BitVec.ofNat 7 ((w / 16384) % 128)) (BitVec.ofNat 7 ((w / 2097152) % 128)))
  else if w / 268435456 = 5 then some (.xferc (BitVec.ofNat 7 ((w / 128) % 128)) (BitVec.ofNat 7 ((w / 16384) % 128)) (BitVec.ofNat 7 ((w / 2097152) % 128)))
  else if w / 268435456 = 6 then some (.xferq (BitVec.ofNat 7 ((w / 128) % 128)) (BitVec.ofNat 7 ((w / 16384) % 128)) (BitVec.ofNat 7 ((w / 2097152) % 128)))
  else if w / 2097152 = 896 then some (.xwait (BitVec.ofNat 7 ((w / 128) % 128)) (BitVec.ofNat 7 ((w / 16384) % 128)))
  else if w / 2097152 = 1024 then some (.xpoll (BitVec.ofNat 7 ((w / 128) % 128)) (BitVec.ofNat 7 ((w / 16384) % 128)))
  else if w / 128 % 128 = 0 ∧ w / 268435456 = 9 then some (.xtier (BitVec.ofNat 7 ((w / 16384) % 128)) (BitVec.ofNat 7 ((w / 2097152) % 128)))
  else none

/-- Major 0x58 (R297): MLDS, MSWAP, MMA, MMAQ, MZERO, MLDACC, MMOVA, MDRAIN, MSOFT, MDRAINX. -/
def decodeMajor58 (w : Nat) : Option Instr :=
  if w / 128 % 128 = 0 then some (.mlds (BitVec.ofNat 7 ((w / 16384) % 128)) (BitVec.ofNat 4 (w / 268435456)) (BitVec.ofNat 7 ((w / 2097152) % 128)))
  else if w / 128 = 8 then some (.mswap)
  else if w / 1024 % 16 = 2 then some (.mma (BitVec.ofNat 3 ((w / 128) % 8)) (BitVec.ofNat 7 ((w / 16384) % 128)) (BitVec.ofNat 4 (w / 268435456)) (BitVec.ofNat 7 ((w / 2097152) % 128)))
  else if w / 1024 % 16 = 3 then some (.mmaq (BitVec.ofNat 3 ((w / 128) % 8)) (BitVec.ofNat 7 ((w / 16384) % 128)) (BitVec.ofNat 4 (w / 268435456)) (BitVec.ofNat 7 ((w / 2097152) % 128)))
  else if w / 1024 % 262144 = 4 then some (.mzero (BitVec.ofNat 3 ((w / 128) % 8)) (BitVec.ofNat 4 (w / 268435456)))
  else if w / 1024 % 16 = 5 then some (.mldacc (BitVec.ofNat 3 ((w / 128) % 8)) (BitVec.ofNat 7 ((w / 16384) % 128)) (BitVec.ofNat 4 (w / 268435456)) (BitVec.ofNat 7 ((w / 2097152) % 128)))
  else if w / 1024 % 16 = 6 then some (.mmova (BitVec.ofNat 3 ((w / 128) % 8)) (BitVec.ofNat 7 ((w / 16384) % 128)) (BitVec.ofNat 4 (w / 268435456)) (BitVec.ofNat 7 ((w / 2097152) % 128)))
  else if w / 1024 % 16 = 7 then some (.mdrain (BitVec.ofNat 3 ((w / 128) % 8)) (BitVec.ofNat 7 ((w / 16384) % 128)) (BitVec.ofNat 4 (w / 268435456)) (BitVec.ofNat 7 ((w / 2097152) % 128)))
  else if w / 1024 % 16 = 8 then some (.msoft (BitVec.ofNat 3 ((w / 128) % 8)) (BitVec.ofNat 7 ((w / 16384) % 128)) (BitVec.ofNat 4 (w / 268435456)) (BitVec.ofNat 7 ((w / 2097152) % 128)))
  else if w / 1024 % 16 = 9 then some (.mdrainx (BitVec.ofNat 3 ((w / 128) % 8)) (BitVec.ofNat 7 ((w / 16384) % 128)) (BitVec.ofNat 4 (w / 268435456)) (BitVec.ofNat 7 ((w / 2097152) % 128)))
  else none

/-- Major 0x59 (R297): MLU, MCHOL, MQR, MTRSML, MTRSMU. -/
def decodeMajor59 (w : Nat) : Option Instr :=
  if w / 1024 % 16 = 0 ∧ w / 268435456 = 0 then some (.mlu (BitVec.ofNat 3 ((w / 128) % 8)) (BitVec.ofNat 7 ((w / 16384) % 128)) (BitVec.ofNat 7 ((w / 2097152) % 128)))
  else if w / 1024 % 2048 = 1 ∧ w / 268435456 = 0 then some (.mchol (BitVec.ofNat 3 ((w / 128) % 8)) (BitVec.ofNat 7 ((w / 2097152) % 128)))
  else if w / 1024 % 16 = 2 ∧ w / 268435456 = 0 then some (.mqr (BitVec.ofNat 3 ((w / 128) % 8)) (BitVec.ofNat 7 ((w / 16384) % 128)) (BitVec.ofNat 7 ((w / 2097152) % 128)))
  else if w / 1024 % 16 = 3 ∧ w / 32768 % 64 = 0 then some (.mtrsml (BitVec.ofNat 3 ((w / 128) % 8)) (BitVec.ofNat 4 (w / 268435456)) (BitVec.ofNat 7 ((w / 2097152) % 128)) (BitVec.ofNat 1 ((w / 16384) % 2)))
  else if w / 1024 % 16 = 4 ∧ w / 32768 % 64 = 0 then some (.mtrsmu (BitVec.ofNat 3 ((w / 128) % 8)) (BitVec.ofNat 4 (w / 268435456)) (BitVec.ofNat 7 ((w / 2097152) % 128)) (BitVec.ofNat 1 ((w / 16384) % 2)))
  else none

/-- Major 0x5A (R297): CLAIM, WFORM, WREL, WCLR. -/
def decodeMajor5A (w : Nat) : Option Instr :=
  if w / 128 % 128 = 0 ∧ w / 2097152 % 128 = 0 ∧ w / 1073741824 = 0 then some (.claim (BitVec.ofNat 7 ((w / 16384) % 128)) (BitVec.ofNat 2 ((w / 268435456) % 4)))
  else if w / 16384 % 16384 = 0 ∧ w / 1073741824 = 1 then some (.wform (BitVec.ofNat 7 ((w / 128) % 128)) (BitVec.ofNat 2 ((w / 268435456) % 4)))
  else if w / 128 % 2097152 = 0 ∧ w / 1073741824 = 2 then some (.wrel (BitVec.ofNat 2 ((w / 268435456) % 4)))
  else if w / 128 = 25165824 then some (.wclr)
  else none

/-- Major 0x5B (R297): FRED, FREDWAIT. -/
def decodeMajor5B (w : Nat) : Option Instr :=
  if w / 1073741824 = 0 then some (.fred (BitVec.ofNat 7 ((w / 128) % 128)) (BitVec.ofNat 7 ((w / 16384) % 128)) (BitVec.ofNat 7 ((w / 2097152) % 128)) (BitVec.ofNat 2 ((w / 268435456) % 4)))
  else if w / 2097152 = 512 then some (.fredwait (BitVec.ofNat 7 ((w / 128) % 128)) (BitVec.ofNat 7 ((w / 16384) % 128)))
  else none

/-- Major 0x60 (R297): VADD, VSUB, VMUL, VMULH. -/
def decodeMajor60 (w : Nat) : Option Instr :=
  if w / 1073741824 = 0 then some (.vadd (BitVec.ofNat 7 ((w / 128) % 128)) (BitVec.ofNat 7 ((w / 16384) % 128)) (BitVec.ofNat 7 ((w / 2097152) % 128)) (BitVec.ofNat 2 ((w / 268435456) % 4)))
  else if w / 1073741824 = 1 then some (.vsub (BitVec.ofNat 7 ((w / 128) % 128)) (BitVec.ofNat 7 ((w / 16384) % 128)) (BitVec.ofNat 7 ((w / 2097152) % 128)) (BitVec.ofNat 2 ((w / 268435456) % 4)))
  else if w / 1073741824 = 2 then some (.vmul (BitVec.ofNat 7 ((w / 128) % 128)) (BitVec.ofNat 7 ((w / 16384) % 128)) (BitVec.ofNat 7 ((w / 2097152) % 128)) (BitVec.ofNat 2 ((w / 268435456) % 4)))
  else if w / 1073741824 = 3 then some (.vmulh (BitVec.ofNat 7 ((w / 128) % 128)) (BitVec.ofNat 7 ((w / 16384) % 128)) (BitVec.ofNat 7 ((w / 2097152) % 128)) (BitVec.ofNat 2 ((w / 268435456) % 4)))
  else none

/-- Major 0x61 (R297): VMIN, VMAX, VMINN, VMAXN. -/
def decodeMajor61 (w : Nat) : Option Instr :=
  if w / 1073741824 = 0 then some (.vmin (BitVec.ofNat 7 ((w / 128) % 128)) (BitVec.ofNat 7 ((w / 16384) % 128)) (BitVec.ofNat 7 ((w / 2097152) % 128)) (BitVec.ofNat 2 ((w / 268435456) % 4)))
  else if w / 1073741824 = 1 then some (.vmax (BitVec.ofNat 7 ((w / 128) % 128)) (BitVec.ofNat 7 ((w / 16384) % 128)) (BitVec.ofNat 7 ((w / 2097152) % 128)) (BitVec.ofNat 2 ((w / 268435456) % 4)))
  else if w / 1073741824 = 2 then some (.vminn (BitVec.ofNat 7 ((w / 128) % 128)) (BitVec.ofNat 7 ((w / 16384) % 128)) (BitVec.ofNat 7 ((w / 2097152) % 128)) (BitVec.ofNat 2 ((w / 268435456) % 4)))
  else if w / 1073741824 = 3 then some (.vmaxn (BitVec.ofNat 7 ((w / 128) % 128)) (BitVec.ofNat 7 ((w / 16384) % 128)) (BitVec.ofNat 7 ((w / 2097152) % 128)) (BitVec.ofNat 2 ((w / 268435456) % 4)))
  else none

/-- Major 0x62 (R297): VAND, VOR, VXOR, VANDN. -/
def decodeMajor62 (w : Nat) : Option Instr :=
  if w / 1073741824 = 0 then some (.vand (BitVec.ofNat 7 ((w / 128) % 128)) (BitVec.ofNat 7 ((w / 16384) % 128)) (BitVec.ofNat 7 ((w / 2097152) % 128)) (BitVec.ofNat 2 ((w / 268435456) % 4)))
  else if w / 1073741824 = 1 then some (.vor (BitVec.ofNat 7 ((w / 128) % 128)) (BitVec.ofNat 7 ((w / 16384) % 128)) (BitVec.ofNat 7 ((w / 2097152) % 128)) (BitVec.ofNat 2 ((w / 268435456) % 4)))
  else if w / 1073741824 = 2 then some (.vxor (BitVec.ofNat 7 ((w / 128) % 128)) (BitVec.ofNat 7 ((w / 16384) % 128)) (BitVec.ofNat 7 ((w / 2097152) % 128)) (BitVec.ofNat 2 ((w / 268435456) % 4)))
  else if w / 1073741824 = 3 then some (.vandn (BitVec.ofNat 7 ((w / 128) % 128)) (BitVec.ofNat 7 ((w / 16384) % 128)) (BitVec.ofNat 7 ((w / 2097152) % 128)) (BitVec.ofNat 2 ((w / 268435456) % 4)))
  else none

/-- Major 0x63 (R297): VSHL, VSHRL, VSHRA, VROTR. -/
def decodeMajor63 (w : Nat) : Option Instr :=
  if w / 1073741824 = 0 then some (.vshl (BitVec.ofNat 7 ((w / 128) % 128)) (BitVec.ofNat 7 ((w / 16384) % 128)) (BitVec.ofNat 7 ((w / 2097152) % 128)) (BitVec.ofNat 2 ((w / 268435456) % 4)))
  else if w / 1073741824 = 1 then some (.vshrl (BitVec.ofNat 7 ((w / 128) % 128)) (BitVec.ofNat 7 ((w / 16384) % 128)) (BitVec.ofNat 7 ((w / 2097152) % 128)) (BitVec.ofNat 2 ((w / 268435456) % 4)))
  else if w / 1073741824 = 2 then some (.vshra (BitVec.ofNat 7 ((w / 128) % 128)) (BitVec.ofNat 7 ((w / 16384) % 128)) (BitVec.ofNat 7 ((w / 2097152) % 128)) (BitVec.ofNat 2 ((w / 268435456) % 4)))
  else if w / 1073741824 = 3 then some (.vrotr (BitVec.ofNat 7 ((w / 128) % 128)) (BitVec.ofNat 7 ((w / 16384) % 128)) (BitVec.ofNat 7 ((w / 2097152) % 128)) (BitVec.ofNat 2 ((w / 268435456) % 4)))
  else none

/-- Major 0x64 (R297): VSADD, VSSUB, VSADDN, VSSUBN. -/
def decodeMajor64 (w : Nat) : Option Instr :=
  if w / 1073741824 = 0 then some (.vsadd (BitVec.ofNat 7 ((w / 128) % 128)) (BitVec.ofNat 7 ((w / 16384) % 128)) (BitVec.ofNat 7 ((w / 2097152) % 128)) (BitVec.ofNat 2 ((w / 268435456) % 4)))
  else if w / 1073741824 = 1 then some (.vssub (BitVec.ofNat 7 ((w / 128) % 128)) (BitVec.ofNat 7 ((w / 16384) % 128)) (BitVec.ofNat 7 ((w / 2097152) % 128)) (BitVec.ofNat 2 ((w / 268435456) % 4)))
  else if w / 1073741824 = 2 then some (.vsaddn (BitVec.ofNat 7 ((w / 128) % 128)) (BitVec.ofNat 7 ((w / 16384) % 128)) (BitVec.ofNat 7 ((w / 2097152) % 128)) (BitVec.ofNat 2 ((w / 268435456) % 4)))
  else if w / 1073741824 = 3 then some (.vssubn (BitVec.ofNat 7 ((w / 128) % 128)) (BitVec.ofNat 7 ((w / 16384) % 128)) (BitVec.ofNat 7 ((w / 2097152) % 128)) (BitVec.ofNat 2 ((w / 268435456) % 4)))
  else none

/-- Major 0x65 (R297): VFADD, VFSUB, VFMUL, VFDIV. -/
def decodeMajor65 (w : Nat) : Option Instr :=
  if w / 1073741824 = 0 then some (.vfadd (BitVec.ofNat 7 ((w / 128) % 128)) (BitVec.ofNat 7 ((w / 16384) % 128)) (BitVec.ofNat 7 ((w / 2097152) % 128)) (BitVec.ofNat 2 ((w / 268435456) % 4)))
  else if w / 1073741824 = 1 then some (.vfsub (BitVec.ofNat 7 ((w / 128) % 128)) (BitVec.ofNat 7 ((w / 16384) % 128)) (BitVec.ofNat 7 ((w / 2097152) % 128)) (BitVec.ofNat 2 ((w / 268435456) % 4)))
  else if w / 1073741824 = 2 then some (.vfmul (BitVec.ofNat 7 ((w / 128) % 128)) (BitVec.ofNat 7 ((w / 16384) % 128)) (BitVec.ofNat 7 ((w / 2097152) % 128)) (BitVec.ofNat 2 ((w / 268435456) % 4)))
  else if w / 1073741824 = 3 then some (.vfdiv (BitVec.ofNat 7 ((w / 128) % 128)) (BitVec.ofNat 7 ((w / 16384) % 128)) (BitVec.ofNat 7 ((w / 2097152) % 128)) (BitVec.ofNat 2 ((w / 268435456) % 4)))
  else none

/-- Major 0x66 (R297): VFMA, VFMS, VFNMA, VFNMS. -/
def decodeMajor66 (w : Nat) : Option Instr :=
  if w / 1073741824 = 0 then some (.vfma (BitVec.ofNat 7 ((w / 128) % 128)) (BitVec.ofNat 7 ((w / 16384) % 128)) (BitVec.ofNat 7 ((w / 2097152) % 128)) (BitVec.ofNat 2 ((w / 268435456) % 4)))
  else if w / 1073741824 = 1 then some (.vfms (BitVec.ofNat 7 ((w / 128) % 128)) (BitVec.ofNat 7 ((w / 16384) % 128)) (BitVec.ofNat 7 ((w / 2097152) % 128)) (BitVec.ofNat 2 ((w / 268435456) % 4)))
  else if w / 1073741824 = 2 then some (.vfnma (BitVec.ofNat 7 ((w / 128) % 128)) (BitVec.ofNat 7 ((w / 16384) % 128)) (BitVec.ofNat 7 ((w / 2097152) % 128)) (BitVec.ofNat 2 ((w / 268435456) % 4)))
  else if w / 1073741824 = 3 then some (.vfnms (BitVec.ofNat 7 ((w / 128) % 128)) (BitVec.ofNat 7 ((w / 16384) % 128)) (BitVec.ofNat 7 ((w / 2097152) % 128)) (BitVec.ofNat 2 ((w / 268435456) % 4)))
  else none

/-- Major 0x67 (R297): VFMIN, VFMAX, VFSQRT, VFEXP. -/
def decodeMajor67 (w : Nat) : Option Instr :=
  if w / 1073741824 = 0 then some (.vfmin (BitVec.ofNat 7 ((w / 128) % 128)) (BitVec.ofNat 7 ((w / 16384) % 128)) (BitVec.ofNat 7 ((w / 2097152) % 128)) (BitVec.ofNat 2 ((w / 268435456) % 4)))
  else if w / 1073741824 = 1 then some (.vfmax (BitVec.ofNat 7 ((w / 128) % 128)) (BitVec.ofNat 7 ((w / 16384) % 128)) (BitVec.ofNat 7 ((w / 2097152) % 128)) (BitVec.ofNat 2 ((w / 268435456) % 4)))
  else if w / 2097152 % 128 = 0 ∧ w / 1073741824 = 2 then some (.vfsqrt (BitVec.ofNat 7 ((w / 128) % 128)) (BitVec.ofNat 7 ((w / 16384) % 128)) (BitVec.ofNat 2 ((w / 268435456) % 4)))
  else if w / 2097152 % 128 = 0 ∧ w / 1073741824 = 3 then some (.vfexp (BitVec.ofNat 7 ((w / 128) % 128)) (BitVec.ofNat 7 ((w / 16384) % 128)) (BitVec.ofNat 2 ((w / 268435456) % 4)))
  else none

/-- Major 0x68 (R297): VCMPEQ, VCMPNE, VCMPLT, VCMPLE. -/
def decodeMajor68 (w : Nat) : Option Instr :=
  if w / 1073741824 = 0 then some (.vcmpeq (BitVec.ofNat 7 ((w / 128) % 128)) (BitVec.ofNat 7 ((w / 16384) % 128)) (BitVec.ofNat 7 ((w / 2097152) % 128)) (BitVec.ofNat 2 ((w / 268435456) % 4)))
  else if w / 1073741824 = 1 then some (.vcmpne (BitVec.ofNat 7 ((w / 128) % 128)) (BitVec.ofNat 7 ((w / 16384) % 128)) (BitVec.ofNat 7 ((w / 2097152) % 128)) (BitVec.ofNat 2 ((w / 268435456) % 4)))
  else if w / 1073741824 = 2 then some (.vcmplt (BitVec.ofNat 7 ((w / 128) % 128)) (BitVec.ofNat 7 ((w / 16384) % 128)) (BitVec.ofNat 7 ((w / 2097152) % 128)) (BitVec.ofNat 2 ((w / 268435456) % 4)))
  else if w / 1073741824 = 3 then some (.vcmple (BitVec.ofNat 7 ((w / 128) % 128)) (BitVec.ofNat 7 ((w / 16384) % 128)) (BitVec.ofNat 7 ((w / 2097152) % 128)) (BitVec.ofNat 2 ((w / 268435456) % 4)))
  else none

/-- Major 0x69 (R297): PAND, POR, PXOR, PANDN. -/
def decodeMajor69 (w : Nat) : Option Instr :=
  if w / 1073741824 = 0 then some (.pand (BitVec.ofNat 7 ((w / 128) % 128)) (BitVec.ofNat 7 ((w / 16384) % 128)) (BitVec.ofNat 7 ((w / 2097152) % 128)) (BitVec.ofNat 2 ((w / 268435456) % 4)))
  else if w / 1073741824 = 1 then some (.por (BitVec.ofNat 7 ((w / 128) % 128)) (BitVec.ofNat 7 ((w / 16384) % 128)) (BitVec.ofNat 7 ((w / 2097152) % 128)) (BitVec.ofNat 2 ((w / 268435456) % 4)))
  else if w / 1073741824 = 2 then some (.pxor (BitVec.ofNat 7 ((w / 128) % 128)) (BitVec.ofNat 7 ((w / 16384) % 128)) (BitVec.ofNat 7 ((w / 2097152) % 128)) (BitVec.ofNat 2 ((w / 268435456) % 4)))
  else if w / 1073741824 = 3 then some (.pandn (BitVec.ofNat 7 ((w / 128) % 128)) (BitVec.ofNat 7 ((w / 16384) % 128)) (BitVec.ofNat 7 ((w / 2097152) % 128)) (BitVec.ofNat 2 ((w / 268435456) % 4)))
  else none

/-- Major 0x6A (R297): PNOT, PFIRST, PCOUNT, MBIND. -/
def decodeMajor6A (w : Nat) : Option Instr :=
  if w / 2097152 % 128 = 0 ∧ w / 1073741824 = 0 then some (.pnot (BitVec.ofNat 7 ((w / 128) % 128)) (BitVec.ofNat 7 ((w / 16384) % 128)) (BitVec.ofNat 2 ((w / 268435456) % 4)))
  else if w / 2097152 % 128 = 0 ∧ w / 1073741824 = 1 then some (.pfirst (BitVec.ofNat 7 ((w / 128) % 128)) (BitVec.ofNat 7 ((w / 16384) % 128)) (BitVec.ofNat 2 ((w / 268435456) % 4)))
  else if w / 2097152 % 128 = 0 ∧ w / 1073741824 = 2 then some (.pcount (BitVec.ofNat 7 ((w / 128) % 128)) (BitVec.ofNat 7 ((w / 16384) % 128)) (BitVec.ofNat 2 ((w / 268435456) % 4)))
  else if w / 2097152 = 1536 then some (.mbind (BitVec.ofNat 7 ((w / 128) % 128)) (BitVec.ofNat 7 ((w / 16384) % 128)))
  else none

/-- Major 0x6B (R297): VREDSUM, VREDMIN, VREDMAX, VFREDSUM. -/
def decodeMajor6B (w : Nat) : Option Instr :=
  if w / 1073741824 = 0 then some (.vredsum (BitVec.ofNat 7 ((w / 128) % 128)) (BitVec.ofNat 7 ((w / 16384) % 128)) (BitVec.ofNat 7 ((w / 2097152) % 128)) (BitVec.ofNat 2 ((w / 268435456) % 4)))
  else if w / 1073741824 = 1 then some (.vredmin (BitVec.ofNat 7 ((w / 128) % 128)) (BitVec.ofNat 7 ((w / 16384) % 128)) (BitVec.ofNat 7 ((w / 2097152) % 128)) (BitVec.ofNat 2 ((w / 268435456) % 4)))
  else if w / 1073741824 = 2 then some (.vredmax (BitVec.ofNat 7 ((w / 128) % 128)) (BitVec.ofNat 7 ((w / 16384) % 128)) (BitVec.ofNat 7 ((w / 2097152) % 128)) (BitVec.ofNat 2 ((w / 268435456) % 4)))
  else if w / 1073741824 = 3 then some (.vfredsum (BitVec.ofNat 7 ((w / 128) % 128)) (BitVec.ofNat 7 ((w / 16384) % 128)) (BitVec.ofNat 7 ((w / 2097152) % 128)) (BitVec.ofNat 2 ((w / 268435456) % 4)))
  else none

/-- Major 0x6C (R297): VSLIDEUP, VSLIDEDN, VPERMV, VCOMPRESS. -/
def decodeMajor6C (w : Nat) : Option Instr :=
  if w / 1073741824 = 0 then some (.vslideup (BitVec.ofNat 7 ((w / 128) % 128)) (BitVec.ofNat 7 ((w / 16384) % 128)) (BitVec.ofNat 7 ((w / 2097152) % 128)) (BitVec.ofNat 2 ((w / 268435456) % 4)))
  else if w / 1073741824 = 1 then some (.vslidedn (BitVec.ofNat 7 ((w / 128) % 128)) (BitVec.ofNat 7 ((w / 16384) % 128)) (BitVec.ofNat 7 ((w / 2097152) % 128)) (BitVec.ofNat 2 ((w / 268435456) % 4)))
  else if w / 1073741824 = 2 then some (.vpermv (BitVec.ofNat 7 ((w / 128) % 128)) (BitVec.ofNat 7 ((w / 16384) % 128)) (BitVec.ofNat 7 ((w / 2097152) % 128)) (BitVec.ofNat 2 ((w / 268435456) % 4)))
  else if w / 2097152 % 128 = 0 ∧ w / 1073741824 = 3 then some (.vcompress (BitVec.ofNat 7 ((w / 128) % 128)) (BitVec.ofNat 7 ((w / 16384) % 128)) (BitVec.ofNat 2 ((w / 268435456) % 4)))
  else none

/-- Major 0x6D (R297): VMV, VSPLAT, VEXTR, VINS. -/
def decodeMajor6D (w : Nat) : Option Instr :=
  if w / 2097152 % 128 = 0 ∧ w / 1073741824 = 0 then some (.vmv (BitVec.ofNat 7 ((w / 128) % 128)) (BitVec.ofNat 7 ((w / 16384) % 128)) (BitVec.ofNat 2 ((w / 268435456) % 4)))
  else if w / 2097152 % 128 = 0 ∧ w / 1073741824 = 1 then some (.vsplat (BitVec.ofNat 7 ((w / 128) % 128)) (BitVec.ofNat 7 ((w / 16384) % 128)) (BitVec.ofNat 2 ((w / 268435456) % 4)))
  else if w / 1073741824 = 2 then some (.vextr (BitVec.ofNat 7 ((w / 128) % 128)) (BitVec.ofNat 7 ((w / 16384) % 128)) (BitVec.ofNat 7 ((w / 2097152) % 128)) (BitVec.ofNat 2 ((w / 268435456) % 4)))
  else if w / 1073741824 = 3 then some (.vins (BitVec.ofNat 7 ((w / 128) % 128)) (BitVec.ofNat 7 ((w / 16384) % 128)) (BitVec.ofNat 7 ((w / 2097152) % 128)) (BitVec.ofNat 2 ((w / 268435456) % 4)))
  else none

/-- Major 0x6E (R297): VCVT, VQUANT, VDEQUANT, VAMAX. -/
def decodeMajor6E (w : Nat) : Option Instr :=
  if w / 2097152 % 128 = 0 ∧ w / 1073741824 = 0 then some (.vcvt (BitVec.ofNat 7 ((w / 128) % 128)) (BitVec.ofNat 7 ((w / 16384) % 128)) (BitVec.ofNat 2 ((w / 268435456) % 4)))
  else if w / 1073741824 = 1 then some (.vquant (BitVec.ofNat 7 ((w / 128) % 128)) (BitVec.ofNat 7 ((w / 16384) % 128)) (BitVec.ofNat 7 ((w / 2097152) % 128)) (BitVec.ofNat 2 ((w / 268435456) % 4)))
  else if w / 1073741824 = 2 then some (.vdequant (BitVec.ofNat 7 ((w / 128) % 128)) (BitVec.ofNat 7 ((w / 16384) % 128)) (BitVec.ofNat 7 ((w / 2097152) % 128)) (BitVec.ofNat 2 ((w / 268435456) % 4)))
  else if w / 2097152 % 128 = 0 ∧ w / 1073741824 = 3 then some (.vamax (BitVec.ofNat 7 ((w / 128) % 128)) (BitVec.ofNat 7 ((w / 16384) % 128)) (BitVec.ofNat 2 ((w / 268435456) % 4)))
  else none

/-- Major 0x6F (R297): VENC, VDEC, VENCINFO, VRUNEND. -/
def decodeMajor6F (w : Nat) : Option Instr :=
  if w / 268435456 = 0 then some (.venc (BitVec.ofNat 7 ((w / 128) % 128)) (BitVec.ofNat 7 ((w / 16384) % 128)) (BitVec.ofNat 7 ((w / 2097152) % 128)))
  else if w / 2097152 = 512 then some (.vdec (BitVec.ofNat 7 ((w / 128) % 128)) (BitVec.ofNat 7 ((w / 16384) % 128)))
  else if w / 2097152 = 1024 then some (.vencinfo (BitVec.ofNat 7 ((w / 128) % 128)) (BitVec.ofNat 7 ((w / 16384) % 128)))
  else if w / 2097152 = 1536 then some (.vrunend (BitVec.ofNat 7 ((w / 128) % 128)) (BitVec.ofNat 7 ((w / 16384) % 128)))
  else none

/-- Major 0x70 (R297): VMERGEIDX, VSORTKV, VHASH, VTOPK. -/
def decodeMajor70 (w : Nat) : Option Instr :=
  if w / 1073741824 = 0 then some (.vmergeidx (BitVec.ofNat 7 ((w / 128) % 128)) (BitVec.ofNat 7 ((w / 16384) % 128)) (BitVec.ofNat 7 ((w / 2097152) % 128)) (BitVec.ofNat 2 ((w / 268435456) % 4)))
  else if w / 1073741824 = 1 then some (.vsortkv (BitVec.ofNat 7 ((w / 128) % 128)) (BitVec.ofNat 7 ((w / 16384) % 128)) (BitVec.ofNat 7 ((w / 2097152) % 128)) (BitVec.ofNat 2 ((w / 268435456) % 4)))
  else if w / 1073741824 = 2 then some (.vhash (BitVec.ofNat 7 ((w / 128) % 128)) (BitVec.ofNat 7 ((w / 16384) % 128)) (BitVec.ofNat 7 ((w / 2097152) % 128)) (BitVec.ofNat 2 ((w / 268435456) % 4)))
  else if w / 1073741824 = 3 then some (.vtopk (BitVec.ofNat 7 ((w / 128) % 128)) (BitVec.ofNat 7 ((w / 16384) % 128)) (BitVec.ofNat 7 ((w / 2097152) % 128)) (BitVec.ofNat 2 ((w / 268435456) % 4)))
  else none

/-- Major 0x71 (R297): VIDX, VIDXX. -/
def decodeMajor71 (w : Nat) : Option Instr :=
  if w / 1073741824 = 0 then some (.vidx (BitVec.ofNat 7 ((w / 128) % 128)) (BitVec.ofNat 7 ((w / 16384) % 128)) (BitVec.ofNat 7 ((w / 2097152) % 128)) (BitVec.ofNat 2 ((w / 268435456) % 4)))
  else if w / 1073741824 = 1 then some (.vidxx (BitVec.ofNat 7 ((w / 128) % 128)) (BitVec.ofNat 7 ((w / 16384) % 128)) (BitVec.ofNat 7 ((w / 2097152) % 128)) (BitVec.ofNat 2 ((w / 268435456) % 4)))
  else none

/-- Major 0x72 (R297): VSEGSUM, VSEGMAX, VSCAN, VSCANX. -/
def decodeMajor72 (w : Nat) : Option Instr :=
  if w / 1073741824 = 0 then some (.vsegsum (BitVec.ofNat 7 ((w / 128) % 128)) (BitVec.ofNat 7 ((w / 16384) % 128)) (BitVec.ofNat 7 ((w / 2097152) % 128)) (BitVec.ofNat 2 ((w / 268435456) % 4)))
  else if w / 1073741824 = 1 then some (.vsegmax (BitVec.ofNat 7 ((w / 128) % 128)) (BitVec.ofNat 7 ((w / 16384) % 128)) (BitVec.ofNat 7 ((w / 2097152) % 128)) (BitVec.ofNat 2 ((w / 268435456) % 4)))
  else if w / 1073741824 = 2 then some (.vscan (BitVec.ofNat 7 ((w / 128) % 128)) (BitVec.ofNat 7 ((w / 16384) % 128)) (BitVec.ofNat 7 ((w / 2097152) % 128)) (BitVec.ofNat 2 ((w / 268435456) % 4)))
  else if w / 1073741824 = 3 then some (.vscanx (BitVec.ofNat 7 ((w / 128) % 128)) (BitVec.ofNat 7 ((w / 16384) % 128)) (BitVec.ofNat 7 ((w / 2097152) % 128)) (BitVec.ofNat 2 ((w / 268435456) % 4)))
  else none

/-- Major 0x73 (R297): VCHAIN, VCHAINF. -/
def decodeMajor73 (w : Nat) : Option Instr :=
  if w / 1073741824 = 0 then some (.vchain (BitVec.ofNat 7 ((w / 128) % 128)) (BitVec.ofNat 7 ((w / 16384) % 128)) (BitVec.ofNat 7 ((w / 2097152) % 128)) (BitVec.ofNat 2 ((w / 268435456) % 4)))
  else if w / 16384 = 65536 then some (.vchainf (BitVec.ofNat 7 ((w / 128) % 128)))
  else none

/-- Major 0x74 (R297): VLD, VLDS, VLDX, VGL. -/
def decodeMajor74 (w : Nat) : Option Instr :=
  if w / 2097152 % 128 = 0 ∧ w / 1073741824 = 0 then some (.vld (BitVec.ofNat 7 ((w / 128) % 128)) (BitVec.ofNat 7 ((w / 16384) % 128)) (BitVec.ofNat 2 ((w / 268435456) % 4)))
  else if w / 1073741824 = 1 then some (.vlds (BitVec.ofNat 7 ((w / 128) % 128)) (BitVec.ofNat 7 ((w / 16384) % 128)) (BitVec.ofNat 7 ((w / 2097152) % 128)) (BitVec.ofNat 2 ((w / 268435456) % 4)))
  else if w / 1073741824 = 2 then some (.vldx (BitVec.ofNat 7 ((w / 128) % 128)) (BitVec.ofNat 7 ((w / 16384) % 128)) (BitVec.ofNat 7 ((w / 2097152) % 128)) (BitVec.ofNat 2 ((w / 268435456) % 4)))
  else if w / 1073741824 = 3 then some (.vgl (BitVec.ofNat 7 ((w / 128) % 128)) (BitVec.ofNat 7 ((w / 16384) % 128)) (BitVec.ofNat 7 ((w / 2097152) % 128)) (BitVec.ofNat 2 ((w / 268435456) % 4)))
  else none

/-- Major 0x75 (R297): VLDFF, VLDSFF, VLDXFF, NGATHER. -/
def decodeMajor75 (w : Nat) : Option Instr :=
  if w / 2097152 % 128 = 0 ∧ w / 1073741824 = 0 then some (.vldff (BitVec.ofNat 7 ((w / 128) % 128)) (BitVec.ofNat 7 ((w / 16384) % 128)) (BitVec.ofNat 2 ((w / 268435456) % 4)))
  else if w / 1073741824 = 1 then some (.vldsff (BitVec.ofNat 7 ((w / 128) % 128)) (BitVec.ofNat 7 ((w / 16384) % 128)) (BitVec.ofNat 7 ((w / 2097152) % 128)) (BitVec.ofNat 2 ((w / 268435456) % 4)))
  else if w / 1073741824 = 2 then some (.vldxff (BitVec.ofNat 7 ((w / 128) % 128)) (BitVec.ofNat 7 ((w / 16384) % 128)) (BitVec.ofNat 7 ((w / 2097152) % 128)) (BitVec.ofNat 2 ((w / 268435456) % 4)))
  else if w / 1073741824 = 3 then some (.ngather (BitVec.ofNat 7 ((w / 128) % 128)) (BitVec.ofNat 7 ((w / 16384) % 128)) (BitVec.ofNat 7 ((w / 2097152) % 128)) (BitVec.ofNat 2 ((w / 268435456) % 4)))
  else none

/-- Major 0x76 (R297): VST, VSTS, VSTX, VSC. -/
def decodeMajor76 (w : Nat) : Option Instr :=
  if w / 2097152 % 128 = 0 ∧ w / 1073741824 = 0 then some (.vst (BitVec.ofNat 7 ((w / 128) % 128)) (BitVec.ofNat 7 ((w / 16384) % 128)) (BitVec.ofNat 2 ((w / 268435456) % 4)))
  else if w / 1073741824 = 1 then some (.vsts (BitVec.ofNat 7 ((w / 128) % 128)) (BitVec.ofNat 7 ((w / 16384) % 128)) (BitVec.ofNat 7 ((w / 2097152) % 128)) (BitVec.ofNat 2 ((w / 268435456) % 4)))
  else if w / 1073741824 = 2 then some (.vstx (BitVec.ofNat 7 ((w / 128) % 128)) (BitVec.ofNat 7 ((w / 16384) % 128)) (BitVec.ofNat 7 ((w / 2097152) % 128)) (BitVec.ofNat 2 ((w / 268435456) % 4)))
  else if w / 1073741824 = 3 then some (.vsc (BitVec.ofNat 7 ((w / 128) % 128)) (BitVec.ofNat 7 ((w / 16384) % 128)) (BitVec.ofNat 7 ((w / 2097152) % 128)) (BitVec.ofNat 2 ((w / 268435456) % 4)))
  else none

/-- Major 0x77 (R297): VSTXR. -/
def decodeMajor77 (w : Nat) : Option Instr :=
  if w / 1073741824 = 0 then some (.vstxr (BitVec.ofNat 7 ((w / 128) % 128)) (BitVec.ofNat 7 ((w / 16384) % 128)) (BitVec.ofNat 7 ((w / 2097152) % 128)) (BitVec.ofNat 2 ((w / 268435456) % 4)))
  else none

/-- Major 0x78 (R297): VAMOADD, VAMOMIN, VAMOMAX, VAMOSWAP. -/
def decodeMajor78 (w : Nat) : Option Instr :=
  if w / 1073741824 = 0 then some (.vamoadd (BitVec.ofNat 7 ((w / 128) % 128)) (BitVec.ofNat 7 ((w / 16384) % 128)) (BitVec.ofNat 7 ((w / 2097152) % 128)) (BitVec.ofNat 2 ((w / 268435456) % 4)))
  else if w / 1073741824 = 1 then some (.vamomin (BitVec.ofNat 7 ((w / 128) % 128)) (BitVec.ofNat 7 ((w / 16384) % 128)) (BitVec.ofNat 7 ((w / 2097152) % 128)) (BitVec.ofNat 2 ((w / 268435456) % 4)))
  else if w / 1073741824 = 2 then some (.vamomax (BitVec.ofNat 7 ((w / 128) % 128)) (BitVec.ofNat 7 ((w / 16384) % 128)) (BitVec.ofNat 7 ((w / 2097152) % 128)) (BitVec.ofNat 2 ((w / 268435456) % 4)))
  else if w / 1073741824 = 3 then some (.vamoswap (BitVec.ofNat 7 ((w / 128) % 128)) (BitVec.ofNat 7 ((w / 16384) % 128)) (BitVec.ofNat 7 ((w / 2097152) % 128)) (BitVec.ofNat 2 ((w / 268435456) % 4)))
  else none

/-- Major 0x79 (R297): VAMOAND, VAMOOR, VAMOFMAX, VAMOCAS. -/
def decodeMajor79 (w : Nat) : Option Instr :=
  if w / 1073741824 = 0 then some (.vamoand (BitVec.ofNat 7 ((w / 128) % 128)) (BitVec.ofNat 7 ((w / 16384) % 128)) (BitVec.ofNat 7 ((w / 2097152) % 128)) (BitVec.ofNat 2 ((w / 268435456) % 4)))
  else if w / 1073741824 = 1 then some (.vamoor (BitVec.ofNat 7 ((w / 128) % 128)) (BitVec.ofNat 7 ((w / 16384) % 128)) (BitVec.ofNat 7 ((w / 2097152) % 128)) (BitVec.ofNat 2 ((w / 268435456) % 4)))
  else if w / 1073741824 = 2 then some (.vamofmax (BitVec.ofNat 7 ((w / 128) % 128)) (BitVec.ofNat 7 ((w / 16384) % 128)) (BitVec.ofNat 7 ((w / 2097152) % 128)) (BitVec.ofNat 2 ((w / 268435456) % 4)))
  else if w / 1073741824 = 3 then some (.vamocas (BitVec.ofNat 7 ((w / 128) % 128)) (BitVec.ofNat 7 ((w / 16384) % 128)) (BitVec.ofNat 7 ((w / 2097152) % 128)) (BitVec.ofNat 2 ((w / 268435456) % 4)))
  else none

/-- Major 0x7A (R297): VTRANS, VTRANSFF, VPREF. -/
def decodeMajor7A (w : Nat) : Option Instr :=
  if w / 1073741824 = 0 then some (.vtrans (BitVec.ofNat 7 ((w / 128) % 128)) (BitVec.ofNat 7 ((w / 16384) % 128)) (BitVec.ofNat 7 ((w / 2097152) % 128)) (BitVec.ofNat 2 ((w / 268435456) % 4)))
  else if w / 1073741824 = 1 then some (.vtransff (BitVec.ofNat 7 ((w / 128) % 128)) (BitVec.ofNat 7 ((w / 16384) % 128)) (BitVec.ofNat 7 ((w / 2097152) % 128)) (BitVec.ofNat 2 ((w / 268435456) % 4)))
  else if w / 128 % 128 = 0 ∧ w / 1073741824 = 2 then some (.vpref (BitVec.ofNat 7 ((w / 16384) % 128)) (BitVec.ofNat 7 ((w / 2097152) % 128)) (BitVec.ofNat 2 ((w / 268435456) % 4)))
  else none

/-- Major 0x7B (R297): VFENCE, BARWAIT, VWAIT. -/
def decodeMajor7B (w : Nat) : Option Instr :=
  if w / 128 % 128 = 0 ∧ w / 131072 % 16 = 0 ∧ w / 33554432 = 0 then some (.vfence (BitVec.ofNat 4 ((w / 2097152) % 16)) (BitVec.ofNat 3 ((w / 16384) % 8)))
  else if w / 128 % 16384 = 0 ∧ w / 33554432 = 32 then some (.barwait (BitVec.ofNat 4 ((w / 2097152) % 16)))
  else if w / 1024 % 16 = 0 ∧ w / 268435456 = 8 then some (.vwait (BitVec.ofNat 7 ((w / 16384) % 128)) (BitVec.ofNat 7 ((w / 2097152) % 128)) (BitVec.ofNat 3 ((w / 128) % 8)))
  else none

/-- Major 0x7C (R297): VLDSEG. -/
def decodeMajor7C (w : Nat) : Option Instr :=
  some (.vldseg (BitVec.ofNat 7 ((w / 128) % 128)) (BitVec.ofNat 7 ((w / 16384) % 128)) (BitVec.ofNat 7 ((w / 2097152) % 128)) (BitVec.ofNat 4 (w / 268435456)))

/-- The fields of a word under its major opcode (R297). -/
def decodeRaw (w : Nat) : Option Instr :=
  match w % 128 with
  | 0x04 => decodeMajor04 w
  | 0x05 => decodeMajor04 w
  | 0x06 => decodeMajor04 w
  | 0x07 => decodeMajor04 w
  | 0x08 => decodeMajor08 w
  | 0x09 => decodeMajor08 w
  | 0x0A => decodeMajor08 w
  | 0x0B => decodeMajor08 w
  | 0x0C => decodeMajor0C w
  | 0x0D => decodeMajor0C w
  | 0x0E => decodeMajor0C w
  | 0x0F => decodeMajor0C w
  | 0x10 => decodeMajor10 w
  | 0x11 => decodeMajor10 w
  | 0x12 => decodeMajor12 w
  | 0x13 => decodeMajor12 w
  | 0x14 => decodeMajor14 w
  | 0x15 => decodeMajor14 w
  | 0x16 => decodeMajor16 w
  | 0x17 => decodeMajor16 w
  | 0x18 => decodeMajor18 w
  | 0x19 => decodeMajor18 w
  | 0x1A => decodeMajor1A w
  | 0x1B => decodeMajor1A w
  | 0x1C => decodeMajor1C w
  | 0x1D => decodeMajor1C w
  | 0x1E => decodeMajor1E w
  | 0x1F => decodeMajor1E w
  | 0x20 => decodeMajor20 w
  | 0x21 => decodeMajor20 w
  | 0x22 => decodeMajor22 w
  | 0x23 => decodeMajor22 w
  | 0x24 => decodeMajor24 w
  | 0x25 => decodeMajor24 w
  | 0x26 => decodeMajor26 w
  | 0x27 => decodeMajor26 w
  | 0x28 => decodeMajor28 w
  | 0x29 => decodeMajor28 w
  | 0x2A => decodeMajor2A w
  | 0x2B => decodeMajor2A w
  | 0x2C => decodeMajor2C w
  | 0x2D => decodeMajor2C w
  | 0x2E => decodeMajor2E w
  | 0x2F => decodeMajor2E w
  | 0x30 => decodeMajor30 w
  | 0x31 => decodeMajor30 w
  | 0x32 => decodeMajor32 w
  | 0x33 => decodeMajor32 w
  | 0x34 => decodeMajor34 w
  | 0x35 => decodeMajor34 w
  | 0x36 => decodeMajor36 w
  | 0x37 => decodeMajor36 w
  | 0x38 => decodeMajor38 w
  | 0x39 => decodeMajor38 w
  | 0x3A => decodeMajor3A w
  | 0x3B => decodeMajor3A w
  | 0x3C => decodeMajor3C w
  | 0x3D => decodeMajor3C w
  | 0x3E => decodeMajor3E w
  | 0x3F => decodeMajor3E w
  | 0x40 => decodeMajor40 w
  | 0x41 => decodeMajor40 w
  | 0x42 => decodeMajor42 w
  | 0x43 => decodeMajor42 w
  | 0x44 => decodeMajor44 w
  | 0x45 => decodeMajor44 w
  | 0x46 => decodeMajor46 w
  | 0x47 => decodeMajor46 w
  | 0x48 => decodeMajor48 w
  | 0x49 => decodeMajor48 w
  | 0x4A => decodeMajor4A w
  | 0x4B => decodeMajor4A w
  | 0x50 => decodeMajor50 w
  | 0x51 => decodeMajor51 w
  | 0x52 => decodeMajor52 w
  | 0x53 => decodeMajor53 w
  | 0x54 => decodeMajor54 w
  | 0x55 => decodeMajor55 w
  | 0x56 => decodeMajor56 w
  | 0x58 => decodeMajor58 w
  | 0x59 => decodeMajor59 w
  | 0x5A => decodeMajor5A w
  | 0x5B => decodeMajor5B w
  | 0x60 => decodeMajor60 w
  | 0x61 => decodeMajor61 w
  | 0x62 => decodeMajor62 w
  | 0x63 => decodeMajor63 w
  | 0x64 => decodeMajor64 w
  | 0x65 => decodeMajor65 w
  | 0x66 => decodeMajor66 w
  | 0x67 => decodeMajor67 w
  | 0x68 => decodeMajor68 w
  | 0x69 => decodeMajor69 w
  | 0x6A => decodeMajor6A w
  | 0x6B => decodeMajor6B w
  | 0x6C => decodeMajor6C w
  | 0x6D => decodeMajor6D w
  | 0x6E => decodeMajor6E w
  | 0x6F => decodeMajor6F w
  | 0x70 => decodeMajor70 w
  | 0x71 => decodeMajor71 w
  | 0x72 => decodeMajor72 w
  | 0x73 => decodeMajor73 w
  | 0x74 => decodeMajor74 w
  | 0x75 => decodeMajor75 w
  | 0x76 => decodeMajor76 w
  | 0x77 => decodeMajor77 w
  | 0x78 => decodeMajor78 w
  | 0x79 => decodeMajor79 w
  | 0x7A => decodeMajor7A w
  | 0x7B => decodeMajor7B w
  | 0x7C => decodeMajor7C w
  | _ => none

/-- The instruction a word stands for, or why it is none. -/
def decodeWord (w : Nat) : Except DecodeReject Instr :=
  match decodeRaw w with
  | none => .error .noInstruction
  | some i => if i.wf then .ok i else .error .reservedField

/-- The instruction a word stands for, if any. -/
def decode (w : Nat) : Option Instr := (decodeWord w).toOption

/-- The word of four little-endian bytes, the first at the lowest address (R291). -/
def wordOfBytes (b0 b1 b2 b3 : Byte) : Nat :=
  b0.toNat + b1.toNat * 256 + b2.toNat * 65536 + b3.toNat * 16777216

/-- The decoder on bytes: the instruction and the bytes left, or why there is none. -/
def decodeBytes : List Byte → Option (Except DecodeReject Instr × List Byte)
  | b0 :: b1 :: b2 :: b3 :: rest => some (decodeWord (wordOfBytes b0 b1 b2 b3), rest)
  | _ => none

/-- The host's question about one row of the opcode table: every Shurra instruction is one 32-bit word (R291). -/
def decodeTableWord (nbits w : Nat) : Option Instr :=
  if nbits ≤ 32 then decode (w % 2 ^ 32) else none

/-- The word of an instruction (R292, R293). A device event has no word; its entry is the word 0, which is ILLEGAL (R298). -/
def encodeNat : Instr → Nat
  | .lui d imm => 0x4 + d.toNat * 128 + (imm.toNat / 4) * 16384 + (imm.toNat % 4)
  | .pchi d imm => 0x8 + d.toNat * 128 + (imm.toNat / 4) * 16384 + (imm.toNat % 4)
  | .jal d imm => 0xc + d.toNat * 128 + (imm.toNat / 4) * 16384 + (imm.toNat % 4)
  | .jalr d a imm => 0x1e + d.toNat * 128 + a.toNat * 16384 + (imm.toNat / 2) * 2097152 + (imm.toNat % 2)
  | .addi d a imm => 0x10 + d.toNat * 128 + a.toNat * 16384 + (imm.toNat / 2) * 2097152 + (imm.toNat % 2)
  | .andi d a imm => 0x12 + d.toNat * 128 + a.toNat * 16384 + (imm.toNat / 2) * 2097152 + (imm.toNat % 2)
  | .ori d a imm => 0x14 + d.toNat * 128 + a.toNat * 16384 + (imm.toNat / 2) * 2097152 + (imm.toNat % 2)
  | .xori d a imm => 0x16 + d.toNat * 128 + a.toNat * 16384 + (imm.toNat / 2) * 2097152 + (imm.toNat % 2)
  | .slti d a imm => 0x18 + d.toNat * 128 + a.toNat * 16384 + (imm.toNat / 2) * 2097152 + (imm.toNat % 2)
  | .sltni d a imm => 0x1a + d.toNat * 128 + a.toNat * 16384 + (imm.toNat / 2) * 2097152 + (imm.toNat % 2)
  | .shli d a n => 0x1c + d.toNat * 128 + a.toNat * 16384 + (n.toNat / 2) * 2097152 + (n.toNat % 2)
  | .shrli d a n => 0x400001c + d.toNat * 128 + a.toNat * 16384 + (n.toNat / 2) * 2097152 + (n.toNat % 2)
  | .shrai d a n => 0x800001c + d.toNat * 128 + a.toNat * 16384 + (n.toNat / 2) * 2097152 + (n.toNat % 2)
  | .rotri d a n => 0xc00001c + d.toNat * 128 + a.toNat * 16384 + (n.toNat / 2) * 2097152 + (n.toNat % 2)
  | .add d a b => 0x50 + d.toNat * 128 + a.toNat * 16384 + b.toNat * 2097152
  | .sub d a b => 0x10000050 + d.toNat * 128 + a.toNat * 16384 + b.toNat * 2097152
  | .and d a b => 0x20000050 + d.toNat * 128 + a.toNat * 16384 + b.toNat * 2097152
  | .or d a b => 0x30000050 + d.toNat * 128 + a.toNat * 16384 + b.toNat * 2097152
  | .xor d a b => 0x40000050 + d.toNat * 128 + a.toNat * 16384 + b.toNat * 2097152
  | .shl d a b => 0x50000050 + d.toNat * 128 + a.toNat * 16384 + b.toNat * 2097152
  | .shrl d a b => 0x60000050 + d.toNat * 128 + a.toNat * 16384 + b.toNat * 2097152
  | .shra d a b => 0x70000050 + d.toNat * 128 + a.toNat * 16384 + b.toNat * 2097152
  | .slt d a b => 0x80000050 + d.toNat * 128 + a.toNat * 16384 + b.toNat * 2097152
  | .sltn d a b => 0x90000050 + d.toNat * 128 + a.toNat * 16384 + b.toNat * 2097152
  | .min d a b => 0xa0000050 + d.toNat * 128 + a.toNat * 16384 + b.toNat * 2097152
  | .max d a b => 0xb0000050 + d.toNat * 128 + a.toNat * 16384 + b.toNat * 2097152
  | .minn d a b => 0xc0000050 + d.toNat * 128 + a.toNat * 16384 + b.toNat * 2097152
  | .maxn d a b => 0xd0000050 + d.toNat * 128 + a.toNat * 16384 + b.toNat * 2097152
  | .andn d a b => 0xe0000050 + d.toNat * 128 + a.toNat * 16384 + b.toNat * 2097152
  | .rotr d a b => 0xf0000050 + d.toNat * 128 + a.toNat * 16384 + b.toNat * 2097152
  | .mul d a b => 0x51 + d.toNat * 128 + a.toNat * 16384 + b.toNat * 2097152
  | .mulh d a b => 0x10000051 + d.toNat * 128 + a.toNat * 16384 + b.toNat * 2097152
  | .mulhn d a b => 0x20000051 + d.toNat * 128 + a.toNat * 16384 + b.toNat * 2097152
  | .div d a b => 0x30000051 + d.toNat * 128 + a.toNat * 16384 + b.toNat * 2097152
  | .divn d a b => 0x40000051 + d.toNat * 128 + a.toNat * 16384 + b.toNat * 2097152
  | .rem d a b => 0x50000051 + d.toNat * 128 + a.toNat * 16384 + b.toNat * 2097152
  | .remn d a b => 0x60000051 + d.toNat * 128 + a.toNat * 16384 + b.toNat * 2097152
  | .clz d a => 0x70000051 + d.toNat * 128 + a.toNat * 16384
  | .ctz d a => 0x80000051 + d.toNat * 128 + a.toNat * 16384
  | .popc d a => 0x90000051 + d.toNat * 128 + a.toNat * 16384
  | .ldb d a imm => 0x20 + d.toNat * 128 + a.toNat * 16384 + (imm.toNat / 2) * 2097152 + (imm.toNat % 2)
  | .ldh d a imm => 0x22 + d.toNat * 128 + a.toNat * 16384 + (imm.toNat / 2) * 2097152 + (imm.toNat % 2)
  | .ldw d a imm => 0x24 + d.toNat * 128 + a.toNat * 16384 + (imm.toNat / 2) * 2097152 + (imm.toNat % 2)
  | .ldd d a imm => 0x26 + d.toNat * 128 + a.toNat * 16384 + (imm.toNat / 2) * 2097152 + (imm.toNat % 2)
  | .ldbn d a imm => 0x28 + d.toNat * 128 + a.toNat * 16384 + (imm.toNat / 2) * 2097152 + (imm.toNat % 2)
  | .ldhn d a imm => 0x2a + d.toNat * 128 + a.toNat * 16384 + (imm.toNat / 2) * 2097152 + (imm.toNat % 2)
  | .ldwn d a imm => 0x2c + d.toNat * 128 + a.toNat * 16384 + (imm.toNat / 2) * 2097152 + (imm.toNat % 2)
  | .stb b a imm => 0x2e + b.toNat * 2097152 + a.toNat * 16384 + (imm.toNat / 256) * 268435456 + (imm.toNat / 2 % 128) * 128 + (imm.toNat % 2)
  | .sth b a imm => 0x30 + b.toNat * 2097152 + a.toNat * 16384 + (imm.toNat / 256) * 268435456 + (imm.toNat / 2 % 128) * 128 + (imm.toNat % 2)
  | .stw b a imm => 0x32 + b.toNat * 2097152 + a.toNat * 16384 + (imm.toNat / 256) * 268435456 + (imm.toNat / 2 % 128) * 128 + (imm.toNat % 2)
  | .std b a imm => 0x34 + b.toNat * 2097152 + a.toNat * 16384 + (imm.toNat / 256) * 268435456 + (imm.toNat / 2 % 128) * 128 + (imm.toNat % 2)
  | .beq a b imm => 0x36 + a.toNat * 16384 + b.toNat * 2097152 + (imm.toNat / 256) * 268435456 + (imm.toNat / 2 % 128) * 128 + (imm.toNat % 2)
  | .bne a b imm => 0x38 + a.toNat * 16384 + b.toNat * 2097152 + (imm.toNat / 256) * 268435456 + (imm.toNat / 2 % 128) * 128 + (imm.toNat % 2)
  | .blt a b imm => 0x3a + a.toNat * 16384 + b.toNat * 2097152 + (imm.toNat / 256) * 268435456 + (imm.toNat / 2 % 128) * 128 + (imm.toNat % 2)
  | .bge a b imm => 0x3c + a.toNat * 16384 + b.toNat * 2097152 + (imm.toNat / 256) * 268435456 + (imm.toNat / 2 % 128) * 128 + (imm.toNat % 2)
  | .bltn a b imm => 0x3e + a.toNat * 16384 + b.toNat * 2097152 + (imm.toNat / 256) * 268435456 + (imm.toNat / 2 % 128) * 128 + (imm.toNat % 2)
  | .bgen a b imm => 0x40 + a.toNat * 16384 + b.toNat * 2097152 + (imm.toNat / 256) * 268435456 + (imm.toNat / 2 % 128) * 128 + (imm.toNat % 2)
  | .srd d num => 0x42 + d.toNat * 128 + (num.toNat / 2) * 2097152 + (num.toNat % 2)
  | .swr a num => 0x44 + a.toNat * 16384 + (num.toNat / 2) * 2097152 + (num.toNat % 2)
  | .winb a imm => 0x46 + a.toNat * 16384 + (imm.toNat / 2) * 2097152 + (imm.toNat % 2)
  | .iclock d a lines => 0x48 + d.toNat * 128 + a.toNat * 16384 + (lines.toNat / 2) * 2097152 + (lines.toNat % 2)
  | .setvli d a cfg => 0x4a + d.toNat * 128 + a.toNat * 16384 + (cfg.toNat / 2) * 2097152 + (cfg.toNat % 2)
  | .setvl d a b => 0x52 + d.toNat * 128 + a.toNat * 16384 + b.toNat * 2097152
  | .ecall => 0x53
  | .trapret => 0x10000053
  | .brk code => 0x20000053 + code.toNat * 16384
  | .wfe d a => 0x30000053 + d.toNat * 128 + a.toNat * 16384
  | .fence scope => 0x40000053 + scope.toNat * 2097152
  | .drainst => 0x50000053
  | .sfrpop d => 0x60000053 + d.toNat * 128
  | .icunlock => 0x70000053
  | .exit => 0x80000053
  | .yield => 0x90000053
  | .amoswap d a b => 0x54 + d.toNat * 128 + a.toNat * 16384 + b.toNat * 2097152
  | .amoadd d a b => 0x10000054 + d.toNat * 128 + a.toNat * 16384 + b.toNat * 2097152
  | .amoand d a b => 0x20000054 + d.toNat * 128 + a.toNat * 16384 + b.toNat * 2097152
  | .amoor d a b => 0x30000054 + d.toNat * 128 + a.toNat * 16384 + b.toNat * 2097152
  | .amoxor d a b => 0x40000054 + d.toNat * 128 + a.toNat * 16384 + b.toNat * 2097152
  | .amomin d a b => 0x50000054 + d.toNat * 128 + a.toNat * 16384 + b.toNat * 2097152
  | .amomax d a b => 0x60000054 + d.toNat * 128 + a.toNat * 16384 + b.toNat * 2097152
  | .amominn d a b => 0x70000054 + d.toNat * 128 + a.toNat * 16384 + b.toNat * 2097152
  | .amomaxn d a b => 0x80000054 + d.toNat * 128 + a.toNat * 16384 + b.toNat * 2097152
  | .amocas d a b => 0x90000054 + d.toNat * 128 + a.toNat * 16384 + b.toNat * 2097152
  | .flagrel d a scope => 0x55 + d.toNat * 128 + a.toNat * 16384 + scope.toNat * 2097152
  | .flagacq d a scope => 0x10000055 + d.toNat * 128 + a.toNat * 16384 + scope.toNat * 2097152
  | .signal d a scope => 0x20000055 + d.toNat * 128 + a.toNat * 16384 + scope.toNat * 2097152
  | .bcpost d a scope => 0x30000055 + d.toNat * 128 + a.toNat * 16384 + scope.toNat * 2097152
  | .bcarrive d a scope => 0x40000055 + d.toNat * 128 + a.toNat * 16384 + scope.toNat * 2097152
  | .bcwait d a scope => 0x50000055 + d.toNat * 128 + a.toNat * 16384 + scope.toNat * 2097152
  | .handoff d a b => 0x60000055 + d.toNat * 128 + a.toNat * 16384 + b.toNat * 2097152
  | .stron d a b => 0x56 + d.toNat * 128 + a.toNat * 16384 + b.toNat * 2097152
  | .stroff b => 0x10000056 + b.toNat * 2097152
  | .xfer d a b => 0x20000056 + d.toNat * 128 + a.toNat * 16384 + b.toNat * 2097152
  | .xferv d a b => 0x30000056 + d.toNat * 128 + a.toNat * 16384 + b.toNat * 2097152
  | .xfervs d a b => 0x40000056 + d.toNat * 128 + a.toNat * 16384 + b.toNat * 2097152
  | .xferc d a b => 0x50000056 + d.toNat * 128 + a.toNat * 16384 + b.toNat * 2097152
  | .xferq d a b => 0x60000056 + d.toNat * 128 + a.toNat * 16384 + b.toNat * 2097152
  | .xwait d a => 0x70000056 + d.toNat * 128 + a.toNat * 16384
  | .xpoll d a => 0x80000056 + d.toNat * 128 + a.toNat * 16384
  | .xtier a b => 0x90000056 + a.toNat * 16384 + b.toNat * 2097152
  | .mlds a h n => 0x58 + a.toNat * 16384 + h.toNat * 268435456 + n.toNat * 2097152
  | .mswap => 0x458
  | .mma t a h n => 0x858 + t.toNat * 128 + a.toNat * 16384 + h.toNat * 268435456 + n.toNat * 2097152
  | .mmaq t a h n => 0xc58 + t.toNat * 128 + a.toNat * 16384 + h.toNat * 268435456 + n.toNat * 2097152
  | .mzero t h => 0x1058 + t.toNat * 128 + h.toNat * 268435456
  | .mldacc t a h n => 0x1458 + t.toNat * 128 + a.toNat * 16384 + h.toNat * 268435456 + n.toNat * 2097152
  | .mmova t a h n => 0x1858 + t.toNat * 128 + a.toNat * 16384 + h.toNat * 268435456 + n.toNat * 2097152
  | .mdrain t a h n => 0x1c58 + t.toNat * 128 + a.toNat * 16384 + h.toNat * 268435456 + n.toNat * 2097152
  | .msoft t a h n => 0x2058 + t.toNat * 128 + a.toNat * 16384 + h.toNat * 268435456 + n.toNat * 2097152
  | .mdrainx t a h n => 0x2458 + t.toNat * 128 + a.toNat * 16384 + h.toNat * 268435456 + n.toNat * 2097152
  | .mlu t a n => 0x59 + t.toNat * 128 + a.toNat * 16384 + n.toNat * 2097152
  | .mchol t n => 0x459 + t.toNat * 128 + n.toNat * 2097152
  | .mqr t a n => 0x859 + t.toNat * 128 + a.toNat * 16384 + n.toNat * 2097152
  | .mtrsml t h n unit => 0xc59 + t.toNat * 128 + h.toNat * 268435456 + n.toNat * 2097152 + unit.toNat * 16384
  | .mtrsmu t h n unit => 0x1059 + t.toNat * 128 + h.toNat * 268435456 + n.toNat * 2097152 + unit.toNat * 16384
  | .claim a m => 0x5a + a.toNat * 16384 + m.toNat * 268435456
  | .wform d m => 0x4000005a + d.toNat * 128 + m.toNat * 268435456
  | .wrel m => 0x8000005a + m.toNat * 268435456
  | .wclr => 0xc000005a
  | .fred d a b m => 0x5b + d.toNat * 128 + a.toNat * 16384 + b.toNat * 2097152 + m.toNat * 268435456
  | .fredwait d a => 0x4000005b + d.toNat * 128 + a.toNat * 16384
  | .vadd d a b m => 0x60 + d.toNat * 128 + a.toNat * 16384 + b.toNat * 2097152 + m.toNat * 268435456
  | .vsub d a b m => 0x40000060 + d.toNat * 128 + a.toNat * 16384 + b.toNat * 2097152 + m.toNat * 268435456
  | .vmul d a b m => 0x80000060 + d.toNat * 128 + a.toNat * 16384 + b.toNat * 2097152 + m.toNat * 268435456
  | .vmulh d a b m => 0xc0000060 + d.toNat * 128 + a.toNat * 16384 + b.toNat * 2097152 + m.toNat * 268435456
  | .vmin d a b m => 0x61 + d.toNat * 128 + a.toNat * 16384 + b.toNat * 2097152 + m.toNat * 268435456
  | .vmax d a b m => 0x40000061 + d.toNat * 128 + a.toNat * 16384 + b.toNat * 2097152 + m.toNat * 268435456
  | .vminn d a b m => 0x80000061 + d.toNat * 128 + a.toNat * 16384 + b.toNat * 2097152 + m.toNat * 268435456
  | .vmaxn d a b m => 0xc0000061 + d.toNat * 128 + a.toNat * 16384 + b.toNat * 2097152 + m.toNat * 268435456
  | .vand d a b m => 0x62 + d.toNat * 128 + a.toNat * 16384 + b.toNat * 2097152 + m.toNat * 268435456
  | .vor d a b m => 0x40000062 + d.toNat * 128 + a.toNat * 16384 + b.toNat * 2097152 + m.toNat * 268435456
  | .vxor d a b m => 0x80000062 + d.toNat * 128 + a.toNat * 16384 + b.toNat * 2097152 + m.toNat * 268435456
  | .vandn d a b m => 0xc0000062 + d.toNat * 128 + a.toNat * 16384 + b.toNat * 2097152 + m.toNat * 268435456
  | .vshl d a b m => 0x63 + d.toNat * 128 + a.toNat * 16384 + b.toNat * 2097152 + m.toNat * 268435456
  | .vshrl d a b m => 0x40000063 + d.toNat * 128 + a.toNat * 16384 + b.toNat * 2097152 + m.toNat * 268435456
  | .vshra d a b m => 0x80000063 + d.toNat * 128 + a.toNat * 16384 + b.toNat * 2097152 + m.toNat * 268435456
  | .vrotr d a b m => 0xc0000063 + d.toNat * 128 + a.toNat * 16384 + b.toNat * 2097152 + m.toNat * 268435456
  | .vsadd d a b m => 0x64 + d.toNat * 128 + a.toNat * 16384 + b.toNat * 2097152 + m.toNat * 268435456
  | .vssub d a b m => 0x40000064 + d.toNat * 128 + a.toNat * 16384 + b.toNat * 2097152 + m.toNat * 268435456
  | .vsaddn d a b m => 0x80000064 + d.toNat * 128 + a.toNat * 16384 + b.toNat * 2097152 + m.toNat * 268435456
  | .vssubn d a b m => 0xc0000064 + d.toNat * 128 + a.toNat * 16384 + b.toNat * 2097152 + m.toNat * 268435456
  | .vfadd d a b m => 0x65 + d.toNat * 128 + a.toNat * 16384 + b.toNat * 2097152 + m.toNat * 268435456
  | .vfsub d a b m => 0x40000065 + d.toNat * 128 + a.toNat * 16384 + b.toNat * 2097152 + m.toNat * 268435456
  | .vfmul d a b m => 0x80000065 + d.toNat * 128 + a.toNat * 16384 + b.toNat * 2097152 + m.toNat * 268435456
  | .vfdiv d a b m => 0xc0000065 + d.toNat * 128 + a.toNat * 16384 + b.toNat * 2097152 + m.toNat * 268435456
  | .vfma d a b m => 0x66 + d.toNat * 128 + a.toNat * 16384 + b.toNat * 2097152 + m.toNat * 268435456
  | .vfms d a b m => 0x40000066 + d.toNat * 128 + a.toNat * 16384 + b.toNat * 2097152 + m.toNat * 268435456
  | .vfnma d a b m => 0x80000066 + d.toNat * 128 + a.toNat * 16384 + b.toNat * 2097152 + m.toNat * 268435456
  | .vfnms d a b m => 0xc0000066 + d.toNat * 128 + a.toNat * 16384 + b.toNat * 2097152 + m.toNat * 268435456
  | .vfmin d a b m => 0x67 + d.toNat * 128 + a.toNat * 16384 + b.toNat * 2097152 + m.toNat * 268435456
  | .vfmax d a b m => 0x40000067 + d.toNat * 128 + a.toNat * 16384 + b.toNat * 2097152 + m.toNat * 268435456
  | .vfsqrt d a m => 0x80000067 + d.toNat * 128 + a.toNat * 16384 + m.toNat * 268435456
  | .vfexp d a m => 0xc0000067 + d.toNat * 128 + a.toNat * 16384 + m.toNat * 268435456
  | .vcmpeq d a b m => 0x68 + d.toNat * 128 + a.toNat * 16384 + b.toNat * 2097152 + m.toNat * 268435456
  | .vcmpne d a b m => 0x40000068 + d.toNat * 128 + a.toNat * 16384 + b.toNat * 2097152 + m.toNat * 268435456
  | .vcmplt d a b m => 0x80000068 + d.toNat * 128 + a.toNat * 16384 + b.toNat * 2097152 + m.toNat * 268435456
  | .vcmple d a b m => 0xc0000068 + d.toNat * 128 + a.toNat * 16384 + b.toNat * 2097152 + m.toNat * 268435456
  | .pand d a b m => 0x69 + d.toNat * 128 + a.toNat * 16384 + b.toNat * 2097152 + m.toNat * 268435456
  | .por d a b m => 0x40000069 + d.toNat * 128 + a.toNat * 16384 + b.toNat * 2097152 + m.toNat * 268435456
  | .pxor d a b m => 0x80000069 + d.toNat * 128 + a.toNat * 16384 + b.toNat * 2097152 + m.toNat * 268435456
  | .pandn d a b m => 0xc0000069 + d.toNat * 128 + a.toNat * 16384 + b.toNat * 2097152 + m.toNat * 268435456
  | .pnot d a m => 0x6a + d.toNat * 128 + a.toNat * 16384 + m.toNat * 268435456
  | .pfirst d a m => 0x4000006a + d.toNat * 128 + a.toNat * 16384 + m.toNat * 268435456
  | .pcount d a m => 0x8000006a + d.toNat * 128 + a.toNat * 16384 + m.toNat * 268435456
  | .mbind d a => 0xc000006a + d.toNat * 128 + a.toNat * 16384
  | .vredsum d a b m => 0x6b + d.toNat * 128 + a.toNat * 16384 + b.toNat * 2097152 + m.toNat * 268435456
  | .vredmin d a b m => 0x4000006b + d.toNat * 128 + a.toNat * 16384 + b.toNat * 2097152 + m.toNat * 268435456
  | .vredmax d a b m => 0x8000006b + d.toNat * 128 + a.toNat * 16384 + b.toNat * 2097152 + m.toNat * 268435456
  | .vfredsum d a b m => 0xc000006b + d.toNat * 128 + a.toNat * 16384 + b.toNat * 2097152 + m.toNat * 268435456
  | .vslideup d a b m => 0x6c + d.toNat * 128 + a.toNat * 16384 + b.toNat * 2097152 + m.toNat * 268435456
  | .vslidedn d a b m => 0x4000006c + d.toNat * 128 + a.toNat * 16384 + b.toNat * 2097152 + m.toNat * 268435456
  | .vpermv d a b m => 0x8000006c + d.toNat * 128 + a.toNat * 16384 + b.toNat * 2097152 + m.toNat * 268435456
  | .vcompress d a m => 0xc000006c + d.toNat * 128 + a.toNat * 16384 + m.toNat * 268435456
  | .vmv d a m => 0x6d + d.toNat * 128 + a.toNat * 16384 + m.toNat * 268435456
  | .vsplat d a m => 0x4000006d + d.toNat * 128 + a.toNat * 16384 + m.toNat * 268435456
  | .vextr d a b m => 0x8000006d + d.toNat * 128 + a.toNat * 16384 + b.toNat * 2097152 + m.toNat * 268435456
  | .vins d a b m => 0xc000006d + d.toNat * 128 + a.toNat * 16384 + b.toNat * 2097152 + m.toNat * 268435456
  | .vcvt d a m => 0x6e + d.toNat * 128 + a.toNat * 16384 + m.toNat * 268435456
  | .vquant d a b m => 0x4000006e + d.toNat * 128 + a.toNat * 16384 + b.toNat * 2097152 + m.toNat * 268435456
  | .vdequant d a b m => 0x8000006e + d.toNat * 128 + a.toNat * 16384 + b.toNat * 2097152 + m.toNat * 268435456
  | .vamax d a m => 0xc000006e + d.toNat * 128 + a.toNat * 16384 + m.toNat * 268435456
  | .venc d a b => 0x6f + d.toNat * 128 + a.toNat * 16384 + b.toNat * 2097152
  | .vdec d a => 0x4000006f + d.toNat * 128 + a.toNat * 16384
  | .vencinfo d a => 0x8000006f + d.toNat * 128 + a.toNat * 16384
  | .vrunend d a => 0xc000006f + d.toNat * 128 + a.toNat * 16384
  | .vmergeidx d a b m => 0x70 + d.toNat * 128 + a.toNat * 16384 + b.toNat * 2097152 + m.toNat * 268435456
  | .vsortkv d a b m => 0x40000070 + d.toNat * 128 + a.toNat * 16384 + b.toNat * 2097152 + m.toNat * 268435456
  | .vhash d a b m => 0x80000070 + d.toNat * 128 + a.toNat * 16384 + b.toNat * 2097152 + m.toNat * 268435456
  | .vtopk d a b m => 0xc0000070 + d.toNat * 128 + a.toNat * 16384 + b.toNat * 2097152 + m.toNat * 268435456
  | .vidx d ia ib m => 0x71 + d.toNat * 128 + ia.toNat * 16384 + ib.toNat * 2097152 + m.toNat * 268435456
  | .vidxx d ia ib m => 0x40000071 + d.toNat * 128 + ia.toNat * 16384 + ib.toNat * 2097152 + m.toNat * 268435456
  | .vsegsum d a b m => 0x72 + d.toNat * 128 + a.toNat * 16384 + b.toNat * 2097152 + m.toNat * 268435456
  | .vsegmax d a b m => 0x40000072 + d.toNat * 128 + a.toNat * 16384 + b.toNat * 2097152 + m.toNat * 268435456
  | .vscan d a b m => 0x80000072 + d.toNat * 128 + a.toNat * 16384 + b.toNat * 2097152 + m.toNat * 268435456
  | .vscanx d a b m => 0xc0000072 + d.toNat * 128 + a.toNat * 16384 + b.toNat * 2097152 + m.toNat * 268435456
  | .vchain d a b m => 0x73 + d.toNat * 128 + a.toNat * 16384 + b.toNat * 2097152 + m.toNat * 268435456
  | .vchainf d => 0x40000073 + d.toNat * 128
  | .vld d a m => 0x74 + d.toNat * 128 + a.toNat * 16384 + m.toNat * 268435456
  | .vlds d a b m => 0x40000074 + d.toNat * 128 + a.toNat * 16384 + b.toNat * 2097152 + m.toNat * 268435456
  | .vldx d a b m => 0x80000074 + d.toNat * 128 + a.toNat * 16384 + b.toNat * 2097152 + m.toNat * 268435456
  | .vgl d a b m => 0xc0000074 + d.toNat * 128 + a.toNat * 16384 + b.toNat * 2097152 + m.toNat * 268435456
  | .vldff d a m => 0x75 + d.toNat * 128 + a.toNat * 16384 + m.toNat * 268435456
  | .vldsff d a b m => 0x40000075 + d.toNat * 128 + a.toNat * 16384 + b.toNat * 2097152 + m.toNat * 268435456
  | .vldxff d a b m => 0x80000075 + d.toNat * 128 + a.toNat * 16384 + b.toNat * 2097152 + m.toNat * 268435456
  | .ngather d a b m => 0xc0000075 + d.toNat * 128 + a.toNat * 16384 + b.toNat * 2097152 + m.toNat * 268435456
  | .vst d a m => 0x76 + d.toNat * 128 + a.toNat * 16384 + m.toNat * 268435456
  | .vsts d a b m => 0x40000076 + d.toNat * 128 + a.toNat * 16384 + b.toNat * 2097152 + m.toNat * 268435456
  | .vstx d a b m => 0x80000076 + d.toNat * 128 + a.toNat * 16384 + b.toNat * 2097152 + m.toNat * 268435456
  | .vsc d a b m => 0xc0000076 + d.toNat * 128 + a.toNat * 16384 + b.toNat * 2097152 + m.toNat * 268435456
  | .vstxr d a b m => 0x77 + d.toNat * 128 + a.toNat * 16384 + b.toNat * 2097152 + m.toNat * 268435456
  | .vamoadd d a b m => 0x78 + d.toNat * 128 + a.toNat * 16384 + b.toNat * 2097152 + m.toNat * 268435456
  | .vamomin d a b m => 0x40000078 + d.toNat * 128 + a.toNat * 16384 + b.toNat * 2097152 + m.toNat * 268435456
  | .vamomax d a b m => 0x80000078 + d.toNat * 128 + a.toNat * 16384 + b.toNat * 2097152 + m.toNat * 268435456
  | .vamoswap d a b m => 0xc0000078 + d.toNat * 128 + a.toNat * 16384 + b.toNat * 2097152 + m.toNat * 268435456
  | .vamoand d a b m => 0x79 + d.toNat * 128 + a.toNat * 16384 + b.toNat * 2097152 + m.toNat * 268435456
  | .vamoor d a b m => 0x40000079 + d.toNat * 128 + a.toNat * 16384 + b.toNat * 2097152 + m.toNat * 268435456
  | .vamofmax d a b m => 0x80000079 + d.toNat * 128 + a.toNat * 16384 + b.toNat * 2097152 + m.toNat * 268435456
  | .vamocas d a b m => 0xc0000079 + d.toNat * 128 + a.toNat * 16384 + b.toNat * 2097152 + m.toNat * 268435456
  | .vtrans d a b m => 0x7a + d.toNat * 128 + a.toNat * 16384 + b.toNat * 2097152 + m.toNat * 268435456
  | .vtransff d a b m => 0x4000007a + d.toNat * 128 + a.toNat * 16384 + b.toNat * 2097152 + m.toNat * 268435456
  | .vpref a b m => 0x8000007a + a.toNat * 16384 + b.toNat * 2097152 + m.toNat * 268435456
  | .vfence id scope => 0x7b + id.toNat * 2097152 + scope.toNat * 16384
  | .barwait id => 0x4000007b + id.toNat * 2097152
  | .vwait a b scope => 0x8000007b + a.toNat * 16384 + b.toNat * 2097152 + scope.toNat * 128
  | .vldseg d a b nf => 0x7c + d.toNat * 128 + a.toNat * 16384 + b.toNat * 2097152 + nf.toNat * 268435456
  | .appload => 0
  | .appkill => 0
  | .appstat => 0
  | .powercap => 0
  | .tenantset => 0
  | .cmdReservedCode => 0
  | .mgmtRegisterWrite => 0
  | .h2dMessage => 0
  | .d2hSlotRelease => 0
  | .readbackHartState => 0
  | .readbackEngineQueue => 0
  | .readbackSaveArea => 0
  | .readbackErrorLog => 0
  | .readbackLinkStatus => 0
  | .readbackMemory => 0
  | .readbackAlwaysOnLog => 0
  | .readbackBadSpace => 0
  | .readbackComplete => 0
  | .riuraExit => 0
  | .riuraLaunch => 0
  | .riuraWait => 0
  | .riuraWaitTimeout => 0
  | .riuraCancel => 0
  | .riuraMap => 0
  | .riuraUnmap => 0
  | .riuraProtect => 0
  | .riuraMigrate => 0
  | .migrationCopyDone => 0
  | .migrationCopyFail => 0
  | .riuraKvalloc => 0
  | .riuraKvfree => 0
  | .queryDeviceShape => 0
  | .queryWeightStore => 0
  | .queryAddress => 0
  | .queryKvwin => 0
  | .riuraTime => 0
  | .hostmsgSend => 0
  | .hostmsgRecv => 0
  | .hostmsgTimeout => 0
  | .riuraCrewexit => 0
  | .riuraLog => 0
  | .riuraWsload => 0
  | .collectiveCreate => 0
  | .collectiveAddwin => 0
  | .collectiveAddbar => 0
  | .collectiveWait => 0
  | .collectiveWaitTimeout => 0
  | .collectiveEnd => 0
  | .riuraTenant => 0
  | .riuraUnknownService => 0
  | .controlProgramFault => 0
  | .pclGetVersion => 0
  | .pclGetFeatures => 0
  | .pclPowerCapSet => 0
  | .pclPowerCapGet => 0
  | .pclContextArea => 0
  | .pclTenantKeyInstall => 0
  | .pclTenantKeyWithdraw => 0
  | .pclResetWarm => 0
  | .pclResetFunction => 0
  | .pclUnsupported => 0
  | .coldReset => 0
  | .warmReset => 0
  | .functionReset => 0
  | .standbyRailGood => 0
  | .bringUp => 0
  | .riuraFatalError => 0
  | .powerCapTakeEffect => 0
  | .thermalThrottleStart => 0
  | .thermalThrottleEnd => 0
  | .thermalTrip => 0
  | .huskAlarm => 0
  | .spdmRequest => 0
  | .cxlMemRead => 0
  | .cxlMemWrite => 0
  | .poolLinkDown => 0
  | .poolLinkUp => 0
  | .flitReceive => 0
  | .replayLimit => 0
  | .portEnable => 0
  | .detectDone => 0
  | .detectTimeout => 0
  | .polarityDone => 0
  | .polarityTimeout => 0
  | .deskewDone => 0
  | .deskewTimeout => 0
  | .feclockDone => 0
  | .feclockTimeout => 0
  | .creditDone => 0
  | .creditTimeout => 0
  | .retrainDone => 0
  | .retrainTimeout => 0
  | .schedulerPlaceCrew => 0
  | .schedulerPreempt => 0
  | .hartSwap => 0
  | .crewResume => 0
  | .spillDone => 0
  | .contextFillDone => 0
  | .leaseFillDone => 0
  | .storependSkidLimit => 0
  | .transferRetire => 0
  | .streamRefill => 0
  | .wsRefreshWindowOpen => 0
  | .wsRefreshWindowClose => 0
  | .patrolScrub => 0
  | .eccUncorrectable => 0
  | .flagacqSatisfied => 0
  | .barwaitDone => 0
  | .bcwaitDone => 0
  | .fredwaitDone => 0
  | .xwaitDone => 0
  | .vwaitSatisfied => 0
  | .vwaitTimeout => 0
  | .wfeWake => 0
  | .wfeTimeout => 0
  | .fenceComplete => 0
  | .drainstComplete => 0
  | .mmaqMeet => 0
  | .ecallReturn => 0
  | .trainArrive => 0
  | .trainAck => 0
  | .fredAccept => 0
  | .fredRoundDeliver => 0
  | .peerKillNotice => 0
  | .releasePerform => 0
  | .handoffEvent => 0
  | .exitWaitDone => 0
  | .vectorStorePerform => 0
  | .wsloadReturn => 0
  | .configurationRequest => 0
  | .debuggerRelease => 0
  | .confinementSet => 0

/-- The word of an instruction as 32 bits. -/
def encode (i : Instr) : BitVec 32 := BitVec.ofNat 32 (encodeNat i)

/-- Whether a constructor stands for a Shurra instruction, one that has a word (R297). -/
def Instr.hasWord : Instr → Bool
  | .lui _ _ => true
  | .pchi _ _ => true
  | .jal _ _ => true
  | .jalr _ _ _ => true
  | .addi _ _ _ => true
  | .andi _ _ _ => true
  | .ori _ _ _ => true
  | .xori _ _ _ => true
  | .slti _ _ _ => true
  | .sltni _ _ _ => true
  | .shli _ _ _ => true
  | .shrli _ _ _ => true
  | .shrai _ _ _ => true
  | .rotri _ _ _ => true
  | .add _ _ _ => true
  | .sub _ _ _ => true
  | .and _ _ _ => true
  | .or _ _ _ => true
  | .xor _ _ _ => true
  | .shl _ _ _ => true
  | .shrl _ _ _ => true
  | .shra _ _ _ => true
  | .slt _ _ _ => true
  | .sltn _ _ _ => true
  | .min _ _ _ => true
  | .max _ _ _ => true
  | .minn _ _ _ => true
  | .maxn _ _ _ => true
  | .andn _ _ _ => true
  | .rotr _ _ _ => true
  | .mul _ _ _ => true
  | .mulh _ _ _ => true
  | .mulhn _ _ _ => true
  | .div _ _ _ => true
  | .divn _ _ _ => true
  | .rem _ _ _ => true
  | .remn _ _ _ => true
  | .clz _ _ => true
  | .ctz _ _ => true
  | .popc _ _ => true
  | .ldb _ _ _ => true
  | .ldh _ _ _ => true
  | .ldw _ _ _ => true
  | .ldd _ _ _ => true
  | .ldbn _ _ _ => true
  | .ldhn _ _ _ => true
  | .ldwn _ _ _ => true
  | .stb _ _ _ => true
  | .sth _ _ _ => true
  | .stw _ _ _ => true
  | .std _ _ _ => true
  | .beq _ _ _ => true
  | .bne _ _ _ => true
  | .blt _ _ _ => true
  | .bge _ _ _ => true
  | .bltn _ _ _ => true
  | .bgen _ _ _ => true
  | .srd _ _ => true
  | .swr _ _ => true
  | .winb _ _ => true
  | .iclock _ _ _ => true
  | .setvli _ _ _ => true
  | .setvl _ _ _ => true
  | .ecall => true
  | .trapret => true
  | .brk _ => true
  | .wfe _ _ => true
  | .fence _ => true
  | .drainst => true
  | .sfrpop _ => true
  | .icunlock => true
  | .exit => true
  | .yield => true
  | .amoswap _ _ _ => true
  | .amoadd _ _ _ => true
  | .amoand _ _ _ => true
  | .amoor _ _ _ => true
  | .amoxor _ _ _ => true
  | .amomin _ _ _ => true
  | .amomax _ _ _ => true
  | .amominn _ _ _ => true
  | .amomaxn _ _ _ => true
  | .amocas _ _ _ => true
  | .flagrel _ _ _ => true
  | .flagacq _ _ _ => true
  | .signal _ _ _ => true
  | .bcpost _ _ _ => true
  | .bcarrive _ _ _ => true
  | .bcwait _ _ _ => true
  | .handoff _ _ _ => true
  | .stron _ _ _ => true
  | .stroff _ => true
  | .xfer _ _ _ => true
  | .xferv _ _ _ => true
  | .xfervs _ _ _ => true
  | .xferc _ _ _ => true
  | .xferq _ _ _ => true
  | .xwait _ _ => true
  | .xpoll _ _ => true
  | .xtier _ _ => true
  | .mlds _ _ _ => true
  | .mswap => true
  | .mma _ _ _ _ => true
  | .mmaq _ _ _ _ => true
  | .mzero _ _ => true
  | .mldacc _ _ _ _ => true
  | .mmova _ _ _ _ => true
  | .mdrain _ _ _ _ => true
  | .msoft _ _ _ _ => true
  | .mdrainx _ _ _ _ => true
  | .mlu _ _ _ => true
  | .mchol _ _ => true
  | .mqr _ _ _ => true
  | .mtrsml _ _ _ _ => true
  | .mtrsmu _ _ _ _ => true
  | .claim _ _ => true
  | .wform _ _ => true
  | .wrel _ => true
  | .wclr => true
  | .fred _ _ _ _ => true
  | .fredwait _ _ => true
  | .vadd _ _ _ _ => true
  | .vsub _ _ _ _ => true
  | .vmul _ _ _ _ => true
  | .vmulh _ _ _ _ => true
  | .vmin _ _ _ _ => true
  | .vmax _ _ _ _ => true
  | .vminn _ _ _ _ => true
  | .vmaxn _ _ _ _ => true
  | .vand _ _ _ _ => true
  | .vor _ _ _ _ => true
  | .vxor _ _ _ _ => true
  | .vandn _ _ _ _ => true
  | .vshl _ _ _ _ => true
  | .vshrl _ _ _ _ => true
  | .vshra _ _ _ _ => true
  | .vrotr _ _ _ _ => true
  | .vsadd _ _ _ _ => true
  | .vssub _ _ _ _ => true
  | .vsaddn _ _ _ _ => true
  | .vssubn _ _ _ _ => true
  | .vfadd _ _ _ _ => true
  | .vfsub _ _ _ _ => true
  | .vfmul _ _ _ _ => true
  | .vfdiv _ _ _ _ => true
  | .vfma _ _ _ _ => true
  | .vfms _ _ _ _ => true
  | .vfnma _ _ _ _ => true
  | .vfnms _ _ _ _ => true
  | .vfmin _ _ _ _ => true
  | .vfmax _ _ _ _ => true
  | .vfsqrt _ _ _ => true
  | .vfexp _ _ _ => true
  | .vcmpeq _ _ _ _ => true
  | .vcmpne _ _ _ _ => true
  | .vcmplt _ _ _ _ => true
  | .vcmple _ _ _ _ => true
  | .pand _ _ _ _ => true
  | .por _ _ _ _ => true
  | .pxor _ _ _ _ => true
  | .pandn _ _ _ _ => true
  | .pnot _ _ _ => true
  | .pfirst _ _ _ => true
  | .pcount _ _ _ => true
  | .mbind _ _ => true
  | .vredsum _ _ _ _ => true
  | .vredmin _ _ _ _ => true
  | .vredmax _ _ _ _ => true
  | .vfredsum _ _ _ _ => true
  | .vslideup _ _ _ _ => true
  | .vslidedn _ _ _ _ => true
  | .vpermv _ _ _ _ => true
  | .vcompress _ _ _ => true
  | .vmv _ _ _ => true
  | .vsplat _ _ _ => true
  | .vextr _ _ _ _ => true
  | .vins _ _ _ _ => true
  | .vcvt _ _ _ => true
  | .vquant _ _ _ _ => true
  | .vdequant _ _ _ _ => true
  | .vamax _ _ _ => true
  | .venc _ _ _ => true
  | .vdec _ _ => true
  | .vencinfo _ _ => true
  | .vrunend _ _ => true
  | .vmergeidx _ _ _ _ => true
  | .vsortkv _ _ _ _ => true
  | .vhash _ _ _ _ => true
  | .vtopk _ _ _ _ => true
  | .vidx _ _ _ _ => true
  | .vidxx _ _ _ _ => true
  | .vsegsum _ _ _ _ => true
  | .vsegmax _ _ _ _ => true
  | .vscan _ _ _ _ => true
  | .vscanx _ _ _ _ => true
  | .vchain _ _ _ _ => true
  | .vchainf _ => true
  | .vld _ _ _ => true
  | .vlds _ _ _ _ => true
  | .vldx _ _ _ _ => true
  | .vgl _ _ _ _ => true
  | .vldff _ _ _ => true
  | .vldsff _ _ _ _ => true
  | .vldxff _ _ _ _ => true
  | .ngather _ _ _ _ => true
  | .vst _ _ _ => true
  | .vsts _ _ _ _ => true
  | .vstx _ _ _ _ => true
  | .vsc _ _ _ _ => true
  | .vstxr _ _ _ _ => true
  | .vamoadd _ _ _ _ => true
  | .vamomin _ _ _ _ => true
  | .vamomax _ _ _ _ => true
  | .vamoswap _ _ _ _ => true
  | .vamoand _ _ _ _ => true
  | .vamoor _ _ _ _ => true
  | .vamofmax _ _ _ _ => true
  | .vamocas _ _ _ _ => true
  | .vtrans _ _ _ _ => true
  | .vtransff _ _ _ _ => true
  | .vpref _ _ _ => true
  | .vfence _ _ => true
  | .barwait _ => true
  | .vwait _ _ _ => true
  | .vldseg _ _ _ _ => true
  | .appload => false
  | .appkill => false
  | .appstat => false
  | .powercap => false
  | .tenantset => false
  | .cmdReservedCode => false
  | .mgmtRegisterWrite => false
  | .h2dMessage => false
  | .d2hSlotRelease => false
  | .readbackHartState => false
  | .readbackEngineQueue => false
  | .readbackSaveArea => false
  | .readbackErrorLog => false
  | .readbackLinkStatus => false
  | .readbackMemory => false
  | .readbackAlwaysOnLog => false
  | .readbackBadSpace => false
  | .readbackComplete => false
  | .riuraExit => false
  | .riuraLaunch => false
  | .riuraWait => false
  | .riuraWaitTimeout => false
  | .riuraCancel => false
  | .riuraMap => false
  | .riuraUnmap => false
  | .riuraProtect => false
  | .riuraMigrate => false
  | .migrationCopyDone => false
  | .migrationCopyFail => false
  | .riuraKvalloc => false
  | .riuraKvfree => false
  | .queryDeviceShape => false
  | .queryWeightStore => false
  | .queryAddress => false
  | .queryKvwin => false
  | .riuraTime => false
  | .hostmsgSend => false
  | .hostmsgRecv => false
  | .hostmsgTimeout => false
  | .riuraCrewexit => false
  | .riuraLog => false
  | .riuraWsload => false
  | .collectiveCreate => false
  | .collectiveAddwin => false
  | .collectiveAddbar => false
  | .collectiveWait => false
  | .collectiveWaitTimeout => false
  | .collectiveEnd => false
  | .riuraTenant => false
  | .riuraUnknownService => false
  | .controlProgramFault => false
  | .pclGetVersion => false
  | .pclGetFeatures => false
  | .pclPowerCapSet => false
  | .pclPowerCapGet => false
  | .pclContextArea => false
  | .pclTenantKeyInstall => false
  | .pclTenantKeyWithdraw => false
  | .pclResetWarm => false
  | .pclResetFunction => false
  | .pclUnsupported => false
  | .coldReset => false
  | .warmReset => false
  | .functionReset => false
  | .standbyRailGood => false
  | .bringUp => false
  | .riuraFatalError => false
  | .powerCapTakeEffect => false
  | .thermalThrottleStart => false
  | .thermalThrottleEnd => false
  | .thermalTrip => false
  | .huskAlarm => false
  | .spdmRequest => false
  | .cxlMemRead => false
  | .cxlMemWrite => false
  | .poolLinkDown => false
  | .poolLinkUp => false
  | .flitReceive => false
  | .replayLimit => false
  | .portEnable => false
  | .detectDone => false
  | .detectTimeout => false
  | .polarityDone => false
  | .polarityTimeout => false
  | .deskewDone => false
  | .deskewTimeout => false
  | .feclockDone => false
  | .feclockTimeout => false
  | .creditDone => false
  | .creditTimeout => false
  | .retrainDone => false
  | .retrainTimeout => false
  | .schedulerPlaceCrew => false
  | .schedulerPreempt => false
  | .hartSwap => false
  | .crewResume => false
  | .spillDone => false
  | .contextFillDone => false
  | .leaseFillDone => false
  | .storependSkidLimit => false
  | .transferRetire => false
  | .streamRefill => false
  | .wsRefreshWindowOpen => false
  | .wsRefreshWindowClose => false
  | .patrolScrub => false
  | .eccUncorrectable => false
  | .flagacqSatisfied => false
  | .barwaitDone => false
  | .bcwaitDone => false
  | .fredwaitDone => false
  | .xwaitDone => false
  | .vwaitSatisfied => false
  | .vwaitTimeout => false
  | .wfeWake => false
  | .wfeTimeout => false
  | .fenceComplete => false
  | .drainstComplete => false
  | .mmaqMeet => false
  | .ecallReturn => false
  | .trainArrive => false
  | .trainAck => false
  | .fredAccept => false
  | .fredRoundDeliver => false
  | .peerKillNotice => false
  | .releasePerform => false
  | .handoffEvent => false
  | .exitWaitDone => false
  | .vectorStorePerform => false
  | .wsloadReturn => false
  | .configurationRequest => false
  | .debuggerRelease => false
  | .confinementSet => false

end Sys2Proof
end

