-- ==== Sys2Proof/Config.lean ====
section
/-! DEFINITION. What an implementation or the outside fixes and the spec leaves open: opaque constants without a body, so
that no proof can see a value. Each is named in the assumption log. -/

namespace Sys2Proof.Config

/-- Further clk a step takes beyond one (timing is free). -/
opaque stallClk : Nat → Nat

/-- Whether the turn passes to another hart before the next instruction (the interleaving is free). -/
opaque passTurn : Nat → Bool

/-- Whether the oldest transfer in flight retires before the next instruction (its time is free). -/
opaque retireNow : Nat → Bool

/-- What the engine does next of a transfer to registers: 1 its last element group arrives before its record is posted, 2 some more
element groups arrive, else it retires (R120). -/
opaque arriveHow : Nat → Nat

/-- How many more element groups than one arrive together. -/
opaque moreGroups : Nat → Nat

/-- Which of the transfers in flight the engine serves next. -/
opaque xferPick : Nat → Nat

/-- Whether one of the jobs under way (a fill, a spill, a copy, a message on its way) comes to its end before the next
instruction, and which one (their times and their order are free). -/
opaque jobNow : Nat → Bool

/-- How many steps may pass without a hart's turn, the end of a job or the retirement of a transfer before the one that has
waited longest must come: the progress that R95 promises has no stated bound. -/
opaque patience : Nat

/-- Which of the jobs under way ends first. -/
opaque jobPick : Nat → Nat

/-- Where Riura starts to look for a physical frame. -/
opaque frameHint : Nat → Nat

/-- Where Riura starts to look for a virtual range. -/
opaque vaHint : Nat → Nat

/-- Whether Riura places a page of tier 2 behind pool link B (R190). -/
opaque poolChoice : Nat → Bool

/-- What Riura adds to its count of crews to form CREWID. -/
opaque crewIdBase : BitVec 32

/-- The policy fuses of the sensor classes (R30). -/
opaque alarmPolicy : AlarmClass → BitVec 2

/-- Which of the 16 control harts runs a control program's thread (R41 makes it invisible except in timing). -/
opaque ctlHart : Nat → Nat

/-- DVER.RIURA (R43). -/
opaque riuraVersion : BitVec 32

/-- DVER.SCOMIN (R43). -/
opaque scoMinor : BitVec 8

/-- The PCL version a Riura image requires (R62), major [31:16], minor [15:0]. -/
opaque riuraNeedsPcl : BitVec 32

/-- A round of the block cipher of memory: round, key, block, half (R29). -/
opaque cipherRound : Nat → Nat → Nat → BitVec 64 → BitVec 64

/-- The bytes of an SPDM answer (R28). -/
opaque spdmByte : Nat → Nat → BitVec 8

/-- Base and size of an application's weight-store share on a die (R173). -/
opaque weightShare : Nat → Nat → Nat

/-- Which polynomial of degree 8 makes the field of the Dikeline code, which of its primitive elements the roots are powers of, and
the power of the first root (R24 gives none of them). -/
opaque rsField : Nat
opaque rsElement : Nat
opaque rsFirst : Nat

/-- The cause that the die word shows for a fuse fault (R36): R44 lists no code for step 1. -/
opaque fuseCause : BitVec 12

/-- The payload of a flit sent (R23 gives no layout). -/
opaque flitPayload : Nat → BitVec 1824

/-- The credits a sent flit returns, and the die, port and virtual channel it names at its destination. -/
opaque flitRoute : Nat → BitVec 20

/-- Which of the ports of the route set takes a flit. -/
opaque routePick : Nat → Nat

/-- The event code of a log record whose code the spec does not give (R36): 0 thermal trip, 1 DETECTFAIL, 2 port DOWN,
3 uncorrectable ECC error, 4 CXL.mem request beyond the window, 5 corrected ECC error. -/
opaque eventCode : Nat → Nat

/-- The bits of a register, area or word that the spec gives no content (log). -/
opaque freeWord : Nat → Nat → BitVec 64

end Sys2Proof.Config
end

