-- ==== Sys2Proof/Machine/Map.lean ====
section
/-! DEFINITION. Sparse data by key in one canonical form: keys strictly rising and no entry equal to the value an
unlisted key reads as, so that equal contents are equal lists. Memory, registers, tiles and tables are held this way. -/

namespace Sys2Proof.Machine

variable {α : Type}

/-- The value at a key, `dflt` where the key is not listed. -/
def mget (dflt : α) : List (Nat × α) → Nat → α
  | [], _ => dflt
  | (k, v) :: m, a => if k = a then v else mget dflt m a

/-- The list with an entry for key `a`, keys kept rising. -/
def mput : List (Nat × α) → Nat → α → List (Nat × α)
  | [], a, v => [(a, v)]
  | (k, w) :: m, a, v =>
    if a < k then (a, v) :: (k, w) :: m
    else if a = k then (a, v) :: m
    else (k, w) :: mput m a v

/-- The list without an entry for key `a`. -/
def mdel : List (Nat × α) → Nat → List (Nat × α)
  | [], _ => []
  | (k, w) :: m, a => if k = a then mdel m a else (k, w) :: mdel m a

/-- Writes a key: writing what an unlisted key reads as removes the entry. -/
def mset [DecidableEq α] (dflt : α) (m : List (Nat × α)) (a : Nat) (v : α) : List (Nat × α) :=
  if v = dflt then mdel m a else mput m a v

/-- Every key of the list is above `a`. -/
def keysAbove (a : Nat) : List (Nat × α) → Bool
  | [] => true
  | (k, _) :: m => decide (a < k) && keysAbove a m

/-- The canonical form. -/
def mwf [DecidableEq α] (dflt : α) : List (Nat × α) → Bool
  | [] => true
  | (k, v) :: m => decide (v ≠ dflt) && keysAbove k m && mwf dflt m

/-- Puts an element before the first that it may precede. -/
def insertBy (le : α → α → Bool) (x : α) : List α → List α
  | [] => [x]
  | y :: ys => if le x y then x :: y :: ys else y :: insertBy le x ys

/-- A stable sort. -/
def sortBy (le : α → α → Bool) : List α → List α
  | [] => []
  | x :: xs => insertBy le x (sortBy le xs)

end Sys2Proof.Machine
end

