-- ==== Sys2Proof/Machine/Num.lean ====
section
/-! DEFINITION. Number formats (R111, R149 to R153), exact values, and the one rounding of the device (R158 to R160).
An exact magnitude is a root of a fraction, so that square roots and the table of the exponential are rounded against
the true value (R158) by comparisons of natural numbers alone. -/

namespace Sys2Proof.Machine

/-- The element formats of R111. -/
inductive Fmt where
  | i8 | i16 | i32 | i64 | n8 | n16 | n32 | n64
  | f16 | bf16 | f32 | f64 | e4m3 | e5m2 | dm8 | i4 | mxf8 | mxf4 | mxi8
deriving DecidableEq, Repr

/-- The element format code of R111. -/
def Fmt.code : Fmt → Nat
  | .i8 => 0x00 | .i16 => 0x01 | .i32 => 0x02 | .i64 => 0x03
  | .n8 => 0x04 | .n16 => 0x05 | .n32 => 0x06 | .n64 => 0x07
  | .f16 => 0x08 | .bf16 => 0x09 | .f32 => 0x0A | .f64 => 0x0B
  | .e4m3 => 0x0C | .e5m2 => 0x0D | .dm8 => 0x0E | .i4 => 0x0F
  | .mxf8 => 0x10 | .mxf4 => 0x11 | .mxi8 => 0x12

/-- The format of a code; codes 0x13 to 0x3F are reserved (R111). -/
def Fmt.ofCode : Nat → Option Fmt
  | 0x00 => some .i8 | 0x01 => some .i16 | 0x02 => some .i32 | 0x03 => some .i64
  | 0x04 => some .n8 | 0x05 => some .n16 | 0x06 => some .n32 | 0x07 => some .n64
  | 0x08 => some .f16 | 0x09 => some .bf16 | 0x0A => some .f32 | 0x0B => some .f64
  | 0x0C => some .e4m3 | 0x0D => some .e5m2 | 0x0E => some .dm8 | 0x0F => some .i4
  | 0x10 => some .mxf8 | 0x11 => some .mxf4 | 0x12 => some .mxi8
  | _ => none

/-- The element width in bits (R111). -/
def Fmt.bits : Fmt → Nat
  | .i8 | .n8 | .e4m3 | .e5m2 | .dm8 | .mxf8 | .mxi8 => 8
  | .i16 | .n16 | .f16 | .bf16 => 16
  | .i32 | .n32 | .f32 => 32
  | .i64 | .n64 | .f64 => 64
  | .i4 | .mxf4 => 4

/-- The signed integer formats of class INT. -/
def Fmt.isI : Fmt → Bool
  | .i8 | .i16 | .i32 | .i64 => true
  | .n8 | .n16 | .n32 | .n64 | .f16 | .bf16 | .f32 | .f64 | .e4m3 | .e5m2 | .dm8 | .i4 | .mxf8 | .mxf4 | .mxi8 => false

/-- The unsigned integer formats. -/
def Fmt.isN : Fmt → Bool
  | .n8 | .n16 | .n32 | .n64 => true
  | .i8 | .i16 | .i32 | .i64 | .f16 | .bf16 | .f32 | .f64 | .e4m3 | .e5m2 | .dm8 | .i4 | .mxf8 | .mxf4 | .mxi8 => false

/-- Class INT of R336. -/
def Fmt.isInt (f : Fmt) : Bool := f.isI || f.isN

/-- The I and N formats, which an index group may carry (R356, R369): I4, for storage, conversion and matrix operands only
(R111), is none of them. -/
def Fmt.isIndex (f : Fmt) : Bool := f.isInt

/-- Class FLT of R336. -/
def Fmt.isFlt : Fmt → Bool
  | .f16 | .bf16 | .f32 | .f64 | .e4m3 | .e5m2 | .dm8 => true
  | .i8 | .i16 | .i32 | .i64 | .n8 | .n16 | .n32 | .n64 | .i4 | .mxf8 | .mxf4 | .mxi8 => false

/-- The MX block formats (R154). -/
def Fmt.isMx : Fmt → Bool
  | .mxf8 | .mxf4 | .mxi8 => true
  | .i8 | .i16 | .i32 | .i64 | .n8 | .n16 | .n32 | .n64 | .f16 | .bf16 | .f32 | .f64 | .e4m3 | .e5m2 | .dm8 | .i4 => false

/-- Class ARITH of R336. -/
def Fmt.isArith (f : Fmt) : Bool := f.isInt || f.isFlt

/-- Class MOVE of R336. -/
def Fmt.isMove (f : Fmt) : Bool := !f.isMx

/-- The formats that admit DELTA (R126). -/
def Fmt.admitsDelta (f : Fmt) : Bool := f.isInt

/-- A signed fraction, `den` never 0. -/
structure Frac where
  num : Int
  den : Nat
deriving DecidableEq, Repr

/-- m × 2^e as a fraction. -/
def Frac.scale2 (m : Int) (e : Int) : Frac :=
  if 0 ≤ e then ⟨m * (2 : Int) ^ e.toNat, 1⟩ else ⟨m, 2 ^ (-e).toNat⟩

/-- The exact sum. -/
def Frac.add (a b : Frac) : Frac :=
  if a.den = b.den then ⟨a.num + b.num, a.den⟩
  else if b.den % a.den = 0 then ⟨a.num * ((b.den / a.den : Nat) : Int) + b.num, b.den⟩
  else if a.den % b.den = 0 then ⟨a.num + b.num * ((a.den / b.den : Nat) : Int), a.den⟩
  else ⟨a.num * (b.den : Int) + b.num * (a.den : Int), a.den * b.den⟩

/-- The exact product. -/
def Frac.mul (a b : Frac) : Frac := ⟨a.num * b.num, a.den * b.den⟩

/-- Negation. -/
def Frac.neg (a : Frac) : Frac := ⟨-a.num, a.den⟩

/-- a < b. -/
def Frac.lt (a b : Frac) : Bool := decide (a.num * (b.den : Int) < b.num * (a.den : Int))

/-- A decoded element or an exact result: a NaN, an infinity, or a number whose sign counts at zero too (R150). -/
inductive Val where
  | nan
  | inf (neg : Bool)
  | fin (neg : Bool) (num den : Nat)
deriving DecidableEq, Repr

/-- A signed integer as a value; zero is +0. -/
def Val.ofInt (i : Int) : Val := .fin (decide (i < 0)) i.natAbs 1

/-- A signed fraction as a value; a zero takes the sign given. -/
def Val.ofFrac (zneg : Bool) (q : Frac) : Val :=
  if q.num = 0 then .fin zneg 0 1 else .fin (decide (q.num < 0)) q.num.natAbs q.den

/-- The signed fraction of a number; 0 for a NaN or an infinity. -/
def Val.frac : Val → Frac
  | .fin true n d => ⟨-(n : Int), d⟩
  | .fin false n d => ⟨(n : Int), d⟩
  | .nan => ⟨0, 1⟩
  | .inf _ => ⟨0, 1⟩

/-- Whether the value is a NaN. -/
def Val.isNan : Val → Bool
  | .nan => true
  | .inf _ => false
  | .fin _ _ _ => false

/-- Whether the value is a zero of either sign. -/
def Val.isZero : Val → Bool
  | .fin _ 0 _ => true
  | .fin _ (_ + 1) _ => false
  | .nan => false
  | .inf _ => false

/-- The value negated; a NaN stays one. -/
def Val.negate : Val → Val
  | .nan => .nan
  | .inf s => .inf (!s)
  | .fin s n d => .fin (!s) n d

/-- The magnitude. -/
def Val.abs : Val → Val
  | .nan => .nan
  | .inf _ => .inf false
  | .fin _ n d => .fin false n d

/-- The sign, set for a negative value; clear for a NaN. -/
def Val.signBit : Val → Bool
  | .nan => false
  | .inf s => s
  | .fin s _ _ => s

/-- a < b by value, −0 equal to +0; false when either is a NaN. -/
def Val.lt : Val → Val → Bool
  | .nan, _ => false
  | _, .nan => false
  | .inf s, .inf t => s && !t
  | .inf s, .fin _ _ _ => s
  | .fin _ _ _, .inf t => !t
  | .fin s n d, .fin t m e => Frac.lt (Val.fin s n d).frac (Val.fin t m e).frac

/-- a = b by value, −0 equal to +0; false when either is a NaN. -/
def Val.eq (a b : Val) : Bool := !a.isNan && !b.isNan && !a.lt b && !b.lt a

/-- a below b in the order of R345 and R380: by value, with −0 below +0; neither operand a NaN. -/
def Val.below (a b : Val) : Bool := a.lt b || (a.eq b && a.signBit && !b.signBit)

/-- The rounding modes of R110 and R158. -/
inductive RM where
  | rne | rtz | rdn | rup | rto | sto | efb
deriving DecidableEq, Repr

/-- The mode of a VSTAT.RM field; 7 is reserved (R110) and never held. -/
def RM.ofField : Nat → RM
  | 0 => .rne | 1 => .rtz | 2 => .rdn | 3 => .rup | 4 => .rto | 5 => .sto | _ => .efb

/-- The mode of an XOPT.XRM field (R116). -/
def RM.ofXrm : Nat → RM
  | 0 => .rne | 1 => .rtz | 2 => .rto | _ => .sto

/-- The sticky flags one operation raises (R162). -/
structure Flags where
  nx : Bool := false
  uf : Bool := false
  of : Bool := false
  dz : Bool := false
  nv : Bool := false
  cl : Bool := false
deriving DecidableEq, Repr

/-- No flag. -/
def Flags.none : Flags := {}

/-- The flags of two operations together. -/
def Flags.or (a b : Flags) : Flags :=
  { nx := a.nx || b.nx, uf := a.uf || b.uf, of := a.of || b.of,
    dz := a.dz || b.dz, nv := a.nv || b.nv, cl := a.cl || b.cl }

/-- An exact magnitude: the `root`-th root of num / den. -/
structure Mag where
  num : Nat
  den : Nat
  root : Nat := 1
deriving DecidableEq, Repr

/-- n / d is at most the magnitude. -/
def Mag.ge (v : Mag) (n d : Nat) : Bool := decide (n ^ v.root * v.den ≤ v.num * d ^ v.root)

/-- n / d is below the magnitude. -/
def Mag.gt (v : Mag) (n d : Nat) : Bool := decide (n ^ v.root * v.den < v.num * d ^ v.root)

/-- How a floating format lists its non-negative magnitudes in rising order (R149, R152). -/
structure Ladder where
  /-- bits that number the ranks -/
  bits : Nat
  /-- rank of the largest finite magnitude -/
  top : Nat
  /-- rank of the smallest normal magnitude (R162) -/
  normal : Nat
  /-- infinity code, if the format has one -/
  inf : Option Nat
  /-- canonical NaN code (0 where the format has none: E2M1 elements are written 0, R156) -/
  nan : Nat
  /-- position of the sign bit -/
  sign : Nat
deriving DecidableEq, Repr

/-- exponent bits, fraction bits and bias of a binary format (R149). -/
def Fmt.layout : Fmt → Nat × Nat × Nat
  | .f64 => (11, 52, 1023) | .f32 => (8, 23, 127) | .f16 => (5, 10, 15) | .bf16 => (8, 7, 127)
  | .e4m3 | .mxf8 => (4, 3, 7) | .e5m2 => (5, 2, 15) | .mxf4 => (2, 1, 1)
  | .i8 | .i16 | .i32 | .i64 | .n8 | .n16 | .n32 | .n64 | .dm8 | .i4 | .mxi8 => (0, 0, 0)

/-- The ladder of a floating format; MX formats give that of their elements (R154). -/
def Fmt.ladder : Fmt → Ladder
  | .f64 => ⟨63, 0x7FEFFFFFFFFFFFFF, 2 ^ 52, some 0x7FF0000000000000, 0x7FF8000000000000, 63⟩
  | .f32 => ⟨31, 0x7F7FFFFF, 2 ^ 23, some 0x7F800000, 0x7FC00000, 31⟩
  | .f16 => ⟨15, 0x7BFF, 2 ^ 10, some 0x7C00, 0x7E00, 15⟩
  | .bf16 => ⟨15, 0x7F7F, 2 ^ 7, some 0x7F80, 0x7FC0, 15⟩
  | .e4m3 | .mxf8 => ⟨7, 0x7E, 2 ^ 3, none, 0x7F, 7⟩
  | .e5m2 => ⟨7, 0x7B, 2 ^ 2, some 0x7C, 0x7E, 7⟩
  | .mxf4 => ⟨3, 7, 2, none, 0, 3⟩
  | .dm8 => ⟨7, 127, 8, none, 0x80, 7⟩
  | .i8 | .i16 | .i32 | .i64 | .n8 | .n16 | .n32 | .n64 | .i4 | .mxi8 => ⟨0, 0, 0, none, 0, 0⟩

/-- The payload of a DM8 rank: decades in rising order (R152). -/
def dm8Payload (r : Nat) : Nat :=
  if r < 8 then r
  else if r < 12 then 0x08 + (r - 8)
  else if r < 20 then 0x10 + (r - 12)
  else if r < 36 then 0x20 + (r - 20)
  else if r < 68 then 0x40 + (r - 36)
  else if r < 100 then 0x60 + (r - 68)
  else if r < 116 then 0x30 + (r - 100)
  else if r < 124 then 0x18 + (r - 116)
  else 0x0C + (r - 124)

/-- (1 + 9 × f / 2^F) × 10^E as a numerator and a denominator (R151). -/
def dm8Value (fbits f : Nat) (e : Int) : Nat × Nat :=
  if 0 ≤ e then ((2 ^ fbits + 9 * f) * 10 ^ e.toNat, 2 ^ fbits)
  else (2 ^ fbits + 9 * f, 2 ^ fbits * 10 ^ (-e).toNat)

/-- The magnitude of a DM8 payload (R151, R152). -/
def dm8Mag (p : Nat) : Nat × Nat :=
  if p < 0x08 then (p, 10 ^ 12)
  else if p < 0x0C then dm8Value 0 0 (-11 + ((p - 0x08 : Nat) : Int))
  else if p < 0x10 then dm8Value 0 0 (7 + ((p - 0x0C : Nat) : Int))
  else if p < 0x18 then dm8Value 1 (p % 2) (-7 + (((p - 0x10) / 2 : Nat) : Int))
  else if p < 0x20 then dm8Value 1 (p % 2) (3 + (((p - 0x18) / 2 : Nat) : Int))
  else if p < 0x30 then dm8Value 3 (p % 8) (-3 + (((p - 0x20) / 8 : Nat) : Int))
  else if p < 0x40 then dm8Value 3 (p % 8) (1 + (((p - 0x30) / 8 : Nat) : Int))
  else if p < 0x60 then dm8Value 5 (p % 32) (-1)
  else dm8Value 5 (p % 32) 0

/-- The magnitude of a binary code without its sign (R149). -/
def binMag (l : Nat × Nat × Nat) (c : Nat) : Nat × Nat :=
  let mb := l.2.1
  let e := c / 2 ^ mb
  let m := c % 2 ^ mb
  let q := if e = 0 then Frac.scale2 (m : Int) (1 - (l.2.2 : Int) - (mb : Int))
           else Frac.scale2 ((2 ^ mb + m : Nat) : Int) ((e : Int) - (l.2.2 : Int) - (mb : Int))
  (q.num.natAbs, q.den)

/-- The code (without sign) of a rank. -/
def Fmt.rankCode (f : Fmt) (r : Nat) : Nat := if f = .dm8 then dm8Payload r else r

/-- The magnitude of a rank. -/
def Fmt.rankMag (f : Fmt) (r : Nat) : Nat × Nat :=
  if f = .dm8 then dm8Mag (dm8Payload r) else binMag f.layout r

/-- The largest rank, up to `top`, whose magnitude is at most v, by bits from the top. -/
def searchRank (f : Fmt) (v : Mag) (top : Nat) : Nat → Nat → Nat
  | 0, acc => acc
  | k + 1, acc =>
    let c := acc + 2 ^ k
    if c ≤ top ∧ v.ge (f.rankMag c).1 (f.rankMag c).2 then searchRank f v top k c else searchRank f v top k acc

/-- Which neighbour a mode takes (R158): true for hi. `half` compares v with the midpoint (`lt`: v below it),
`oddHi` says that hi's code has bit 0 set, `stoHi` is the draw's verdict (R160). -/
def pickHi (rm : RM) (neg : Bool) (half : Ordering) (oddHi stoHi : Bool) : Bool :=
  match rm with
  | .rne | .efb =>
    match half with
    | .lt => false
    | .gt => true
    | .eq => !oddHi
  | .rtz => false
  | .rdn => neg
  | .rup => !neg
  | .rto => oddHi
  | .sto => stoHi

/-- The draw's verdict u < t × 2^32 (R160): lo + (hi − lo) × u / 2^32 lies below v. -/
def stoTakesHi (v : Mag) (lo hi : Nat × Nat) (u : Nat) : Bool :=
  v.gt (lo.1 * hi.2 * (2 ^ 32 - u) + hi.1 * lo.2 * u) (lo.2 * hi.2 * 2 ^ 32)

/-- v compared with the midpoint of lo and hi. -/
def halfCmp (v : Mag) (lo hi : Nat × Nat) : Ordering :=
  let n := lo.1 * hi.2 + hi.1 * lo.2
  let d := 2 * (lo.2 * hi.2)
  if v.gt n d then .gt else if v.ge n d then .eq else .lt

/-- The overflow rule of R159 for a magnitude above the largest finite value: true when the result is an infinity. -/
def overflowsToInf (f : Fmt) (rm : RM) (u : Nat) (neg : Bool) (v : Mag) : Bool :=
  let l := f.ladder
  match l.inf with
  | none => false
  | some _ =>
    let lay := f.layout
    let big := f.rankMag l.top
    -- hi = 2^(emax + 1): the next step of the ladder
    let hi := binMag lay (l.top + 1)
    match rm with
    | .rne | .efb => v.ge (big.1 * hi.2 + hi.1 * big.2) (2 * (big.2 * hi.2))
    | .rtz | .rto => false
    | .rdn => neg
    | .rup => !neg
    | .sto => stoTakesHi v big hi u

/-- A sign and a magnitude code of a floating format; a DM8 zero is 0x00 (R158). -/
def Fmt.withSign (f : Fmt) (neg : Bool) (c : Nat) : Nat :=
  if neg ∧ ¬ (f = .dm8 ∧ c = 0) then c + 2 ^ f.ladder.sign else c

/-- Rounds a magnitude with a sign to a floating format (R158, R159), with the flags of R162. -/
def roundFlt (f : Fmt) (rm : RM) (u : Nat) (neg : Bool) (v : Mag) : Nat × Flags :=
  let l := f.ladder
  let big := f.rankMag l.top
  if v.gt big.1 big.2 then
    let c := if overflowsToInf f rm u neg v then l.inf.getD (f.rankCode l.top) else f.rankCode l.top
    (f.withSign neg c, { of := true, nx := true })
  else
    let r := searchRank f v l.top l.bits 0
    let lo := f.rankMag r
    if v.gt lo.1 lo.2 then
      let hi := f.rankMag (r + 1)
      let up := pickHi rm neg (halfCmp v lo hi) (decide (f.rankCode (r + 1) % 2 = 1)) (stoTakesHi v lo hi u)
      let k := if up then r + 1 else r
      (f.withSign neg (f.rankCode k), { nx := true, uf := decide (k < l.normal) })
    else (f.withSign neg (f.rankCode r), {})

/-- Rounds a magnitude to an integer by the mode (R158): the integer magnitude and whether it is inexact. -/
def roundNat (rm : RM) (u : Nat) (neg : Bool) (n d : Nat) : Nat × Bool :=
  let lo := n / d
  if n % d = 0 then (lo, false)
  else
    let v : Mag := ⟨n, d, 1⟩
    let up := pickHi rm neg (halfCmp v (lo, 1) (lo + 1, 1)) (decide ((lo + 1) % 2 = 1)) (stoTakesHi v (lo, 1) (lo + 1, 1) u)
    (if up then lo + 1 else lo, true)

/-- The least integer of an integer format; MXI8 elements stop at −127 (R156). -/
def Fmt.intMin (f : Fmt) : Int :=
  if f = .mxi8 then -127 else if f.isN then 0 else -((2 ^ (f.bits - 1) : Nat) : Int)

/-- The greatest integer of an integer format. -/
def Fmt.intMax (f : Fmt) : Int :=
  if f.isN then ((2 ^ f.bits : Nat) : Int) - 1 else ((2 ^ (f.bits - 1) : Nat) : Int) - 1

/-- The pattern of an integer in `b` bits. -/
def patInt (b : Nat) (i : Int) : Nat := (i % ((2 ^ b : Nat) : Int)).toNat

/-- A `b`-bit pattern read as signed. -/
def sgn (b : Nat) (x : Nat) : Int :=
  if x % 2 ^ b < 2 ^ (b - 1) then ((x % 2 ^ b : Nat) : Int) else ((x % 2 ^ b : Nat) : Int) - ((2 ^ b : Nat) : Int)

/-- Clamps an integer to a range: the result and whether it was outside. -/
def clampInt (lo hi i : Int) : Int × Bool :=
  if i < lo then (lo, true) else if hi < i then (hi, true) else (i, false)

/-- Converts a value to an integer format (R147): the pattern and the flags, those of an MXI8 element by R159. -/
def roundInt (f : Fmt) (rm : RM) (u : Nat) : Val → Nat × Flags
  | .nan => (0, { nv := true })
  | .inf s => (patInt f.bits (if s then f.intMin else f.intMax), { of := true, nx := decide (f ≠ .mxi8) })
  | .fin s n d =>
    let r := roundNat rm u s n d
    let i : Int := if s then -(r.1 : Int) else (r.1 : Int)
    let c := clampInt f.intMin f.intMax i
    (patInt f.bits c.1, { nx := r.2 || c.2, of := c.2 })

/-- The formats whose elements are integers: INT, I4 and the elements of MXI8. -/
def Fmt.isWhole (f : Fmt) : Bool := f.isInt || f = .i4 || f = .mxi8

/-- Rounds any value to a format (R158, R159, R147): a NaN gives the canonical NaN, or 0 with NV for integers; an
infinity gives the infinity of the format without a flag, else the largest value with OF and NX (R162). -/
def roundVal (f : Fmt) (rm : RM) (u : Nat) (v : Val) : Nat × Flags :=
  if f.isWhole then roundInt f rm u v
  else match v with
    | .nan => (f.ladder.nan, {})
    | .inf s =>
      match f.ladder.inf with
      | some c => (f.withSign s c, {})
      | none => (f.withSign s (f.rankCode f.ladder.top), { of := true, nx := true })
    | .fin s n d => roundFlt f rm u s ⟨n, d, 1⟩

/-- The step that would follow the largest magnitude of a floating format. -/
def Fmt.pastTop (f : Fmt) : Nat × Nat := if f = .dm8 then (10 ^ 11, 1) else binMag f.layout (f.ladder.top + 1)

/-- Whether a number rounds to a value outside the range of a format (R164): one that lies past the largest magnitude and
rounds back to it does not. -/
def Fmt.past (f : Fmt) (rm : RM) (u : Nat) : Val → Bool
  | .nan => false
  | .inf _ => true
  | .fin s n d =>
    if f.isWhole then (roundInt f rm u (.fin s n d)).2.of
    else
      let v : Mag := ⟨n, d, 1⟩
      let lo := f.rankMag f.ladder.top
      let hi := f.pastTop
      v.gt lo.1 lo.2 && (v.ge hi.1 hi.2 ||
        pickHi rm s (halfCmp v lo hi) (decide (f.rankCode f.ladder.top % 2 = 0)) (stoTakesHi v lo hi u))

/-- The value of an element pattern, MX elements without their scale (R147, R149 to R154). -/
def decodeVal (f : Fmt) (x : Nat) : Val :=
  if f.isN then .ofInt ((x % 2 ^ f.bits : Nat) : Int)
  else if f.isI || f = .i4 then .ofInt (sgn f.bits x)
  else if f = .mxi8 then .ofFrac false ⟨sgn 8 x, 64⟩
  else if f = .dm8 then
    if x % 256 = 0x80 then .nan
    else let q := dm8Mag (x % 128); .fin (decide (x / 128 % 2 = 1)) q.1 q.2
  else
    let l := f.ladder
    let c := x % 2 ^ l.sign
    let s := decide (x / 2 ^ l.sign % 2 = 1)
    if c ≤ l.top then let q := binMag f.layout c; .fin s q.1 q.2
    else if l.inf = some c then .inf s
    else .nan

/-- The F32 value of a register's low 32 bits. -/
def f32Val (x : Nat) : Val := decodeVal .f32 (x % 2 ^ 32)

/-- An operation's exact outcome with the flags that do not come from rounding. -/
structure Exact where
  val : Val
  nv : Bool := false
  dz : Bool := false
deriving DecidableEq, Repr

/-- The exact sum (R344): ∞ − ∞ is invalid, an exact zero is +0, −0 under RDN, and a sum of two zeros of one sign keeps it. -/
def Val.add (rdn : Bool) : Val → Val → Exact
  | .nan, _ => ⟨.nan, false, false⟩
  | .inf _, .nan => ⟨.nan, false, false⟩
  | .fin _ _ _, .nan => ⟨.nan, false, false⟩
  | .inf s, .inf t => if s = t then ⟨.inf s, false, false⟩ else ⟨.nan, true, false⟩
  | .inf s, .fin _ _ _ => ⟨.inf s, false, false⟩
  | .fin _ _ _, .inf t => ⟨.inf t, false, false⟩
  | .fin s n d, .fin t m e =>
    ⟨.ofFrac (if n = 0 ∧ m = 0 ∧ s = t then s else rdn) (Frac.add (Val.fin s n d).frac (Val.fin t m e).frac), false, false⟩

/-- The exact product: 0 × ∞ is invalid. -/
def Val.mul : Val → Val → Exact
  | .nan, _ => ⟨.nan, false, false⟩
  | .inf _, .nan => ⟨.nan, false, false⟩
  | .fin _ _ _, .nan => ⟨.nan, false, false⟩
  | .inf s, .inf t => ⟨.inf (s != t), false, false⟩
  | .inf s, .fin t m _ => if m = 0 then ⟨.nan, true, false⟩ else ⟨.inf (s != t), false, false⟩
  | .fin s n _, .inf t => if n = 0 then ⟨.nan, true, false⟩ else ⟨.inf (s != t), false, false⟩
  | .fin s n d, .fin t m e => ⟨.fin (s != t) (n * m) (d * e), false, false⟩

/-- The exact quotient: 0 / 0 and ∞ / ∞ are invalid, a finite non-zero value over zero is an infinity with DZ. -/
def Val.div : Val → Val → Exact
  | .nan, _ => ⟨.nan, false, false⟩
  | .inf _, .nan => ⟨.nan, false, false⟩
  | .fin _ _ _, .nan => ⟨.nan, false, false⟩
  | .inf _, .inf _ => ⟨.nan, true, false⟩
  | .inf s, .fin t _ _ => ⟨.inf (s != t), false, false⟩
  | .fin s _ _, .inf t => ⟨.fin (s != t) 0 1, false, false⟩
  | .fin s n d, .fin t m e =>
    if m = 0 then (if n = 0 then ⟨.nan, true, false⟩ else ⟨.inf (s != t), false, true⟩)
    else ⟨.fin (s != t) (n * e) (d * m), false, false⟩

/-- The fused a × b + c (R344): an invalid product is invalid even when c is a NaN. -/
def Val.fma (rdn : Bool) (a b c : Val) : Exact :=
  let p := Val.mul a b
  if p.nv then p else Val.add rdn p.val c

/-- Rounds an exact outcome to a format with all its flags; an invalid one is the canonical NaN with NV,
a division by zero DZ (a format without infinity saturates it with OF, R344). -/
def Exact.round (f : Fmt) (rm : RM) (u : Nat) (x : Exact) : Nat × Flags :=
  if x.nv then (f.ladder.nan, { nv := true })
  else
    let r := roundVal f rm u x.val
    (r.1, { r.2 with dz := x.dz || r.2.dz })

/-- The square root of a value rounded to a format (R346). -/
def sqrtRound (f : Fmt) (rm : RM) (u : Nat) : Val → Nat × Flags
  | .nan => (f.ladder.nan, {})
  | .inf true => (f.ladder.nan, { nv := true })
  | .inf false => roundVal f rm u (.inf false)
  | .fin s n d =>
    if n = 0 then (f.withSign s 0, {})
    else if s then (f.ladder.nan, { nv := true })
    else roundFlt f rm u false ⟨n, d, 2⟩

/-- F32 RNE of a value. -/
def f32 (v : Val) : Val := decodeVal .f32 (roundVal .f32 .rne 0 v).1

/-- T[j] of R163: 2^(j / 64) rounded to F32 by RNE. -/
def expTable (j : Nat) : Val := decodeVal .f32 (roundFlt .f32 .rne 0 false ⟨2 ^ j, 1, 64⟩).1

/-- F32 RNE of an exact product. -/
def f32Mul (a b : Val) : Val := f32 (Val.mul a b).val

/-- F32 RNE of an exact sum. -/
def f32Add (a b : Val) : Val := f32 (Val.add false a b).val

/-- The nearest even integer of a fraction. -/
def Frac.nearestEven (q : Frac) : Int :=
  let r := (roundNat .rne 0 (decide (q.num < 0)) q.num.natAbs q.den).1
  if q.num < 0 then -(r : Int) else (r : Int)

/-- The exponential of R163: the F32 pattern and the flags. -/
def fexp (x : Val) : Nat × Flags :=
  match x with
  | .nan => (0x7FC00000, {})
  | .inf false => (0x7F800000, {})
  | .inf true => (0, {})
  | .fin s n d =>
    if n = 0 then (0x3F800000, {})
    else if 128 * d < n then
      (if s then (0, { uf := true, nx := true }) else (0x7F800000, { of := true, nx := true }))
    else
      let y := (Val.mul (.fin s n d) (decodeVal .f32 0x3FB8AA3B)).val
      let k := Frac.nearestEven (Frac.mul ⟨64, 1⟩ y.frac)
      let f := f32 (.ofFrac s (Frac.add y.frac ⟨-k, 64⟩))
      let j := (k % 64).toNat
      let m := (k - (j : Int)) / 64
      let p := f32Mul f (decodeVal .f32 0x3D635847)
      let p := f32Mul (f32Add p (decodeVal .f32 0x3E75FDF0)) f
      let p := f32Mul (f32Add p (decodeVal .f32 0x3F317218)) f
      let t := expTable j
      let q := f32Add t (f32Mul t p)
      let r := roundVal .f32 .rne 0 (Val.mul q (.ofFrac false (Frac.scale2 1 m))).val
      (r.1, { r.2 with nx := true })

end Sys2Proof.Machine
end

