-- ==== Sys2Proof/Machine/State.lean ====
section
/-! DEFINITION. The state of the machine as plain data: the hart whose turn it is and all the others, the applications,
launches and crews that Riura keeps, the engines, the memories, and the registers of the device. -/

namespace Sys2Proof.Machine

/-- No step of this machine stops with a fault: every failure the spec describes is a trap, an error code, a record or a
device state, and is taken as such. The type is closed and empty. Safe: a claim can name no fault that does not exist. -/
inductive Fault where
deriving DecidableEq, Repr

/-- Why an operation has no meaning. Raised by `exec` alone; safe: the machine stops where the hardware goes on. -/
inductive Refusal where
  /-- The operation of this mnemonic has no meaning yet. Raised by its arm of `exec`; safe. -/
  | notModelled (mnemonic : String)
deriving DecidableEq, Repr

/-- What one step answers. -/
abbrev Outcome := Host.Outcome

/-- The encodings of a vector register (R123). -/
inductive Enc where
  | plain | runs | dict | delta
deriving DecidableEq, Repr

/-- The descriptor of a vector register (R123), its fields apart. -/
structure Desc where
  enc : Enc := .plain
  fmt : Fmt := .i8
  len : Nat := 0
  cnt : Nat := 0
  wid : Nat := 0
  grec : Nat := 0
  cont : Bool := false
  /-- FMT is 0x3F: the bytes an untyped transfer has written (R253, R406) -/
  untyped : Bool := false
deriving DecidableEq, Repr

/-- A physical vector register: 256 bytes of which VLGRANT count, its descriptor, its scale field (R102, R107). -/
structure VReg where
  data : BitVec 2048 := 0
  desc : Desc := {}
  scale : BitVec 128 := 0
deriving DecidableEq, Repr

/-- Why an access of one element faults (R169, R170, R179, R191 to R194, R268, R278, R312, R369, R386). -/
inductive MemFault where
  /-- unmapped, non-canonical, KV page FREE, or beyond the weight-store share -/
  | unmapped
  /-- the page lacks the permission, or the KV owner forbids the write -/
  | perm
  /-- the page's pool link is down -/
  | link
  /-- the granule, the segment body or its header is poisoned -/
  | poison
  /-- the page carries another format -/
  | fmt
  /-- a strided or indexed element lies in a scale area -/
  | scaleArea
  /-- the segment is malformed -/
  | malformed
  /-- the element address is not a multiple of w / 8 -/
  | align
  /-- a gather element lies outside tier 1 -/
  | tier
  /-- the page is encoded and the store may not write it -/
  | encoded
deriving DecidableEq, Repr

/-- An element a stream has prefetched: its pattern and block scale, or its fault (R250). -/
structure FetchElem where
  val : Nat
  scale : Nat := 0
  fault : Option MemFault := none
deriving DecidableEq, Repr

/-- A bound stream (R248): pattern, elements consumed, recorded format, bound physical register, log2 of the group, and
the elements prefetched from `consumed` on (R250). -/
structure Stream where
  base : Word
  stride : Word
  count : Nat
  consumed : Nat
  fmt : Fmt
  reg : Nat
  g : Nat
  pre : List FetchElem := []
deriving DecidableEq, Repr

/-- A store-fault record (R281). -/
structure SfrqRec where
  pc : Word
  addr : Word
  elem : BitVec 16
  cause : BitVec 8
  kind : BitVec 3
  strip : BitVec 32
  lost : BitVec 16
  /-- instructions retired since the store (the SKID of R286 is that of the oldest record) -/
  age : Nat := 0
deriving DecidableEq, Repr

/-- A completion record (R261): its two words. -/
structure ComplRec where
  w0 : Word
  w1 : Word
deriving DecidableEq, Repr

/-- A completion queue (R260): records reserved, posted and taken, and the posted records by number. -/
structure CQueue where
  reserved : Nat := 0
  posted : Nat := 0
  taken : Nat := 0
  recs : List (Nat × Option ComplRec) := []
deriving DecidableEq, Repr

/-- An accumulator tile (R234): its tag, and its rows of 96 elements of 32 bits, element c at bit 32 c. -/
structure Tile where
  isInt : Bool := false
  rows : List (Nat × BitVec 3072) := []
deriving DecidableEq, Repr

/-- Where a memory-loaded plane came from, and how many rows were asked for (R233). -/
structure PlaneSrc where
  addr : Word
  stride : Word
  scales : Word
  rows : Nat
deriving DecidableEq, Repr

/-- A stationary plane (R230): format (none while empty), rows loaded, rows packed at the format's width, and for the MX
formats the scale row of each block of 32 rows (96 bytes). -/
structure Plane where
  fmt : Option Fmt := none
  rows : Nat := 0
  data : List (Nat × BitVec 3072) := []
  scales : List (Nat × BitVec 768) := []
  src : Option PlaneSrc := none
deriving DecidableEq, Repr

/-- The two pool links' memories, the other memories, and the windows with rules of their own (R171, R268). -/
inductive MemKind where
  | tier1 | tier2 (l : PoolLink) | polder | weight | kv
deriving DecidableEq, Repr

/-- A translation (R179 to R184): the physical address of the 4 KiB page, its attribute word, the memory it lies in,
whether the KV owner rules let this side write (R268), and whether a migration holds the page closed to writes (R187). -/
structure Xlat where
  pa : Nat
  attr : Word
  kind : MemKind
  kvWrite : Bool
  closed : Bool
deriving DecidableEq, Repr

/-- A translation sample of the strip (R182): the page or range entry [lo, hi) it covers, and the translation of its first
4 KiB, none where nothing was mapped. -/
structure Sample where
  lo : Nat
  hi : Nat
  x : Option Xlat
deriving DecidableEq, Repr

/-- An instruction that waits (R226, R314), and the clk at which it issued. -/
structure Wait where
  instr : Instr
  since : Nat
  /-- a VWAIT has issued, and `since` is the clk of it (R225) -/
  issued : Bool := false
deriving DecidableEq, Repr

/-- What a hart context is doing (R74, R283). -/
inductive Run where
  /-- no context -/
  | idle
  /-- resident and issuing -/
  | running
  /-- resident, EXIT executed -/
  | exited
  /-- swapped out -/
  | suspended
  /-- being filled from its save area -/
  | filling
deriving DecidableEq, Repr

/-- A kernel record (R65). -/
structure KInfo where
  name : List Byte := []
  entry : Nat := 0
  crew : Nat := 1
  wspan : Nat := 128
  tiles : Nat := 0
  preds : Nat := 96
  vlgmin : Nat := 0
  feats : Word := 0
  cboff : Nat := 0
  cblen : Nat := 0
deriving DecidableEq, Repr

/-- What a context swapped out was on the slice it left, and the locks it had (R285, R286). -/
structure Outgoing where
  core : Nat
  slice : Nat
  cut : Nat
  strip : BitVec 32
  locks : List Nat
deriving DecidableEq, Repr

/-- A hart and its context (R102). -/
structure Hart where
  /-- context number, the model's own name for it -/
  id : Nat := 0
  run : Run := .idle
  /-- EXIT executed (R74), also while the crew is suspended -/
  ended : Bool := false
  /-- held stopped by shdb (R434) -/
  stopped : Bool := false
  /-- shdb has let it go on from the breakpoint at which it stands -/
  passBreak : Bool := false
  /-- a pre-emption request is pending (R91) -/
  swapReq : Bool := false
  /-- the spill of this suspended context has finished (R286 DONE) -/
  spilled : Bool := false
  wait : Option Wait := none
  /-- the waiting instruction is a store parked by a migration (R188); it stays with the migration at a swap (R284) -/
  parked : Bool := false
  /-- the hart's ECALL has reached Riura and has not returned (R54) -/
  inCall : Bool := false
  /-- package core, slice and the number of slices of the cut (R98) -/
  core : Nat := 0
  slice : Nat := 0
  cut : Nat := 1
  /-- application slot, and the WSPAN and PREDS of the kernel (R104) -/
  app : Nat := 0
  wspan : Nat := 1280
  tilesUsed : Nat := 0
  pc : Word := 0
  x : List (Nat × Word) := []
  v : List (Nat × VReg) := []
  p : List (Nat × BitVec 2048) := []
  tiles : List (Nat × Tile) := []
  active : Plane := {}
  shadow : Plane := {}
  streams : List (Nat × Option Stream) := []
  vl : Nat := 0
  vstat : BitVec 16 := 0
  vlgrant : Nat := 256
  /-- the grant of the slice the hart stands on, in force from the next SETVL (R94) -/
  newGrant : Nat := 256
  wb : BitVec 11 := 0
  vflags : BitVec 6 := 0
  efr : Word := 0
  srseed : Word := 0
  clipc : Word := 0
  elemc : Word := 0
  mkbind : BitVec 21 := 0
  fstep : BitVec 7 := 0
  fstatCode : BitVec 2 := 0
  fstatCol : BitVec 7 := 0
  fstatOpf : BitVec 3 := 0
  fgrow : BitVec 32 := 0
  wfloor : BitVec 32 := 0
  wtmo : BitVec 32 := 0
  headd : BitVec 9 := 0
  xrm : BitVec 2 := 0
  xperm : Bool := false
  xcqBase : BitVec 52 := 0
  crewid : BitVec 32 := 0
  crewrank : BitVec 5 := 0
  crewn : BitVec 6 := 1
  unitid : BitVec 24 := 0
  unitn : BitVec 24 := 0
  launchid : BitVec 32 := 0
  tenant : BitVec 6 := 0
  featmask : Word := 0
  tvec : BitVec 62 := 0
  tcause : BitVec 8 := 0
  tpc : BitVec 62 := 0
  tval : Word := 0
  telem : BitVec 16 := 0
  tsave : Word := 0
  hact : Bool := false
  strip : BitVec 32 := 0
  sfrq : List SfrqRec := []
  /-- instructions retired since the crew began: the age of the stores still in flight (R280) -/
  retired : Nat := 0
  queues : List (Nat × CQueue) := []
  /-- linked 64-byte lines, by physical line number (R216) -/
  links : List Nat := []
  wake : Bool := false
  /-- locked instruction-cache lines, by address / 512 (R287) -/
  locks : List Nat := []
  /-- translation samples of the strip (R182) -/
  samples : List Sample := []
  /-- the elements that the VWAIT under way has found satisfied (R398) -/
  met : List Nat := []
  /-- arrivals at barriers 1 to 15 (R217) -/
  arrivals : List (Nat × Nat) := []
  /-- transfers in flight at a resumption: the hart issues nothing until they have retired (R284) -/
  drain : Bool := false
  /-- the thread block and stack of the hart: address, and pages mapped (R88) -/
  block : Nat := 0
  blockPages : Nat := 0
  /-- core and slice whose shadow bank its spill still occupies, wherever it stands meanwhile (R283) -/
  bank : Option (Nat × Nat) := none
  /-- physical address of its save area while it is suspended, none where its core has no area (R61, R285) -/
  saveAt : Option Nat := none
  /-- what its save area keeps of the slice it left, while it is filled on another (R283) -/
  out : Option Outgoing := none
  /-- latest accepted FRED contribution by remote address: the round's number (R431) -/
  fredRounds : List (Nat × Nat) := []
deriving DecidableEq, Repr

/-- A crew's share of the claim table (R263, R265): pairs (signature, key) and an overflow mask a rank. -/
structure Share where
  pairs : List (Nat × Nat) := []
  ovf : List (Nat × BitVec 256) := []
deriving DecidableEq, Repr

/-- A crew (R74). -/
structure Crew where
  id : Nat
  app : Nat
  lid : Nat
  unit : Nat
  size : Nat
  cls : Nat
  quad : Bool
  grant : Nat
  cluster : Nat
  kernel : KInfo
  share : Option Share
  /-- which of the polder's eight claim shares it holds while it is resident (R36, R263) -/
  shareIdx : Nat := 0
  /-- placement order (R91) -/
  placed : Nat
  suspended : Bool
  /-- held stopped by shdb after a BREAK, with the pc at which it resumes (R276) -/
  debugHeld : Bool
deriving DecidableEq, Repr

/-- A dependence entry (R75): producer and whether its kind is AFTER_START. -/
structure Dep where
  lid : Nat
  afterStart : Bool
deriving DecidableEq, Repr

/-- A launch (R75, R79). -/
structure Launch where
  lid : Nat
  kernel : KInfo
  units : Nat
  crew : Nat
  vlgmin : Nat
  prio : Nat
  cluster : Nat
  quad : Bool
  deps : List Dep
  stack : Nat
  args : Word
  const : Word
  compl : Word
  plane : Word
  plfmt : Nat
  plk : Nat
  /-- work units placed, and the number left to place (less after CANCEL) -/
  issued : Nat
  limit : Nat
  cancelled : Bool
  done : Nat
  nfail : Nat
  firstFail : Nat
  /-- the completion word once the launch has ended (R79) -/
  ended : Option Word
  /-- order of acceptance over all applications (R84) -/
  accept : Nat
deriving DecidableEq, Repr

/-- The state of a mapped page under migration (R187): the target tier code and the format it is converted to. -/
structure Migr where
  /-- which opening it is: the step at which it came about -/
  num : Nat
  tier : Nat
  newFmt : Option Nat
  wait : Bool
  caller : Option Caller
deriving DecidableEq, Repr

/-- A mapped region: `pages` 4 KiB pages from `va` on, contiguous from `pa` on (R180, R183, R184). -/
structure Mapping where
  va : Nat
  pages : Nat
  pa : Nat
  attr : Word
  kind : MemKind
  /-- mapped through a range entry (R180) -/
  range : Bool
  /-- log2 of the page size in bytes (R59) -/
  pageLog : Nat
  migr : Option Migr
deriving DecidableEq, Repr

/-- A KV page (R268): owner 0 FREE, 1 PROMPT, 2 GEN, and its 64 KiB frame. -/
structure KvPage where
  owner : BitVec 2 := 0
  pa : Nat := 0
deriving DecidableEq, Repr

/-- A Riura call that waits (R56, R57, R60, R81), and the clk at which its timeout expires. -/
inductive PendKind where
  | wait (lid : Nat)
  | send (buf len : Word)
  | recv (buf len : Word)
  | collective (cid : Nat)
  | wsload
  | migrate
  /-- a store of the control program parked by a migration: address and bytes (R188, R438) -/
  | store (va : Nat) (bytes : List Nat)
  /-- an AMO of it: address, size, operation number and operand -/
  | amo (va size op : Nat) (operand : Word)
deriving DecidableEq, Repr

/-- A waiting call and its deadline in clk; none waits without limit. -/
structure Pending where
  kind : PendKind
  deadline : Option Nat
deriving DecidableEq, Repr

/-- A window record (R429). -/
structure Window where
  win : Nat
  red : Bool
  home : Nat
  npart : Nat
  base : Nat
  length : Nat
  cid : Nat
deriving DecidableEq, Repr

/-- The status of a collective (R60). -/
inductive CollState where
  | active | done | aborted
deriving DecidableEq, Repr

/-- A collective (R60): its members, who has ended, and the barriers tied to it. -/
structure Coll where
  cid : Nat
  members : List Nat
  ended : List Nat
  state : CollState
  bars : List Nat
deriving DecidableEq, Repr

/-- What an application slot is doing (R45, R49). -/
inductive AppState where
  | unused | running | exited
deriving DecidableEq, Repr

/-- An application slot (R40, R41). -/
structure App where
  state : AppState := .unused
  /-- 26-bit load count (R40) -/
  loads : Nat := 0
  tenant : Nat := 0
  exit : BitVec 32 := 0
  kernels : List KInfo := []
  /-- the chosen image's .text as loaded: address and bytes -/
  text : Nat := 0
  textLen : Nat := 0
  got : Nat := 0
  kconst : Nat := 0
  maps : List Mapping := []
  kvwin : Nat := 0
  kv : List (Nat × KvPage) := []
  /-- weight-store window base, and the share of each die: offset in the die's store and size (R173) -/
  wsWin : Nat := 0
  wsOff : List (Nat × Nat) := []
  wsSize : List (Nat × Nat) := []
  launches : List Launch := []
  nextLid : Nat := 1
  errlog : List (List Byte) := []
  /-- what LOG calls have logged (R56) -/
  logs : List (List Byte) := []
  /-- the control program's entry, its argument registers at start, and the result of its last call in a0 (R41, R54) -/
  ctlEntry : Nat := 0
  /-- the control hart that runs the thread, 0 to 15, four a die (R39, R41), and what its last load or AMO read (R438) -/
  ctlHart : Nat := 0
  ctlRead : Word := 0
  ctlA0 : Word := 0
  ctlA1 : Word := 0
  ctlA2 : Word := 0
  pend : Option Pending := none
  colls : List Coll := []
  windows : List Window := []
  /-- shdb is attached (R276), the confinement set (R433), and the breakpoints: PC and FSTEP (R434) -/
  shdb : Bool := false
  confine : Option (List Nat) := none
  breaks : List (Word × BitVec 7) := []
deriving DecidableEq, Repr

/-- What Riura keeps for a tenant (R437). Shares start at 1 (R437 gives their range and no reset value). -/
structure Tenant where
  featmask : Word := 0
  coreSh : Nat := 1
  hbmSh : List (Nat × Nat) := []
  poolA : Nat := 1
  poolB : Nat := 1
deriving DecidableEq, Repr

/-- A frame that has left an application but still stands under its tenant's key: place, bytes, tenant (R29, R185). -/
structure OldFrame where
  pa : Nat
  len : Nat
  tenant : Nat
deriving DecidableEq, Repr

/-- The states of a lease row (R89). -/
inductive LeaseState where
  | free | held | filling | ready
deriving DecidableEq, Repr

/-- A row of a polder's lease table (R89); SLFREE is computed from the crews. -/
structure Lease where
  st : LeaseState := .free
  cut : Nat := 1
  lid : Nat := 0
  app : Nat := 0
  /-- what the loader has copied to the core (R90): the preload plane, with the instruction lines (address / 512) and the
  constant block it read -/
  plane : Plane := {}
  code : List Nat := []
  const : List Byte := []
deriving DecidableEq, Repr

/-- How a transfer ends: fault code (0 none), DONE, the offsets, and what the hart gains (R254, R259, R261). -/
structure Ending where
  fcode : Nat := 0
  done : Nat := 0
  foff : Nat := 0xFFFFFFFF
  poff : Nat := 0xFFFFFFFF
  flags : Flags := {}
  clipped : Nat := 0
  examined : Nat := 0
deriving DecidableEq, Repr

/-- What a transfer brings to registers: what they will hold, how it will end, and how many bytes of each field have arrived, in
element groups of 64 bytes (R120). -/
structure Arrival where
  regs : List VReg
  ending : Ending
  got : Nat
deriving DecidableEq, Repr

/-- An engine transfer in flight (R252, R253, R260). -/
structure Transfer where
  id : Nat
  hart : Nat
  app : Nat
  /-- ENG function value: 2 XFER, 3 XFERV, 4 XFERVS, 5 XFERC, 6 XFERQ, 9 XTIER -/
  op : Nat
  ctl : Word
  src : Word
  dst : Word
  len : Nat
  scale : Word
  maxw : Word
  recno : Nat
  xrm : BitVec 2
  xperm : Bool
  seed : Word
  /-- cluster of the core that held the issuing hart (R268), and that core's die -/
  gside : Bool
  die : Nat
  /-- physical register of a register destination, target hart of XFERC -/
  reg : Nat
  target : Nat
  /-- register contents read at issue (XFERVS, XFERC) and the permutation indices -/
  regs : List VReg
  perm : List Nat
  grant : Nat
  /-- VSTAT.EP at issue, and the fault code found at issue (R141, R255, R257) -/
  ep : Nat := 0
  early : Nat := 0
  /-- the address ranges held in the RIT, half open, rounded to lines (R121) -/
  rit : List (Nat × Nat)
  /-- physical registers it still writes: hart and half-open range (R120) -/
  fills : Option (Nat × Nat × Nat)
  /-- it has reached a page under migration and performs at the remap event (R188, R227) -/
  parked : Bool := false
  /-- its last element group has arrived in the registers it fills, with the end that its record will tell (R120) -/
  landed : Option Ending := none
  /-- some of its element groups have arrived -/
  came : Option Arrival := none
deriving DecidableEq, Repr

/-- A remote train in flight (R221). -/
structure Train where
  id : Nat
  hart : Nat
  app : Nat
  pkg : Nat
  bar : Word
  elems : List TrainElem
  /-- PC and strip of the VSTXR (R281), and the instructions its hart had retired when it issued (R280) -/
  pc : Word := 0
  strip : BitVec 32 := 0
  at_ : Nat := 0
deriving DecidableEq, Repr

/-- A FRED contribution on its way to its first-tier switch (R430). -/
structure Contrib where
  /-- number of the FRED, its PC and its strip (R281), and the instructions its hart had retired when it issued (R280) -/
  fred : Nat
  pc : Word
  strip : BitVec 32
  at_ : Nat := 0
  hart : Nat
  app : Nat
  index : Nat
  addr : Word
  op : Nat
  tag : Fmt
  val : Nat
deriving DecidableEq, Repr

/-- A round of a reduction word (R430). -/
structure Round where
  num : Nat
  app : Nat
  win : Nat
  off : Nat
  op : Nat
  tag : Fmt
  vals : List Nat
  pkgs : List Nat
  /-- 0 open, 1 performed at its home, 2 on its way to a home in another package, 5 aborted -/
  status : Nat
deriving DecidableEq, Repr

/-- A log record (R36): time in ns, event code, address or port, detail. -/
structure LogRec where
  ns : Nat
  code : Nat
  addr : Nat
  detail : Word
deriving DecidableEq, Repr

/-- The training states of a Dikeline port, in the order of Table 5 (R26, R36). -/
inductive PortState where
  | disabled | detect | polarity | deskew | fecLock | credit | active | retrain | down
deriving DecidableEq, Repr

/-- What a flit of a remote operation carries: a train or a FRED of this package by number, or nothing that waits for it. -/
inductive Cargo where
  | train (id : Nat)
  | fred (id : Nat)
  | other
deriving DecidableEq, Repr

/-- A flit sent and not yet acknowledged (R25). -/
structure SentFlit where
  seq : Nat
  flit : BitVec 2048
  cargo : Cargo
deriving DecidableEq, Repr

/-- A flit that has no port yet: its TYPE, its destination package and its cargo (R23). -/
structure Unsent where
  die : Nat
  typ : Nat
  pkg : Nat
  cargo : Cargo
deriving DecidableEq, Repr

/-- A Dikeline port (R23 to R26). -/
structure Port where
  st : PortState := .disabled
  /-- sequence number of the next flit expected in order -/
  rxSeq : Nat := 0
  /-- set while a discarded flit is being replayed: later flits are discarded -/
  nakSent : Bool := false
  /-- a NAK has yet to go out in a flit -/
  nakDue : Bool := false
  /-- sequence number of the next flit to send -/
  txSeq : Nat := 0
  /-- the replay buffer: at most 256 flits sent and not yet acknowledged, oldest first (R25) -/
  replay : List SentFlit := []
  /-- NAKs in a row that acknowledged nothing: one more than the replays of the oldest that have failed -/
  naks : Nat := 0
  /-- flits taken in order that were for this port, idle ones left out -/
  taken : List (BitVec 2048) := []
  /-- clk of the RETRAIN entries of the last second -/
  retrains : List Nat := []
  replayed : Nat := 0
  /-- clk at which the state was entered (Table 5's limits) -/
  since : Nat := 0
  /-- receive-buffer credits returned by the partner and not yet used -/
  credits : Nat := 0
deriving DecidableEq, Repr

/-- DSTAT.STATE (R43). -/
inductive DevState where
  | boot | ready | stopped | fatal | resetting
deriving DecidableEq, Repr

/-- What reaches a device event from outside the state: the arguments of a call, a port or hart number, host data. -/
structure Input where
  caller : Caller := .ctl 0
  a1 : Word := 0
  a2 : Word := 0
  a3 : Word := 0
  a4 : Word := 0
  n : Nat := 0
  m : Nat := 0
  k : Nat := 0
  flag : Bool := false
  data : List Byte := []
  flit : BitVec 2048 := 0
  nums : Option (List Nat) := none
  elems : List TrainElem := []
  breaks : List (Word × BitVec 7) := []
  win : RegWindow := .bar0
  failAt : Option BringUpFail := none
  alarm : AlarmClass := .tamper
  spdm : SpdmKind := .certificates
  link : PoolLink := .a
  ecc : EccError := .none
deriving DecidableEq, Repr

/-- The registers of the readback window as GO found them (R35, R38). -/
structure RbReq where
  space : BitVec 4 := 0
  freeze : Bool := false
  count : BitVec 7 := 0
  addr : BitVec 52 := 0
deriving DecidableEq, Repr

/-- A placement that the scheduler has chosen by pre-emption and keeps until the displaced crews have swapped, with the class of
its launch (R84, R91). -/
structure Reserve where
  app : Nat
  lid : Nat
  cls : Nat
  slots : List (Nat × Nat × Nat)
deriving DecidableEq, Repr

/-- The state of the device. -/
structure State where
  /-- the hart whose turn it is, and the others in the order of their turns -/
  hart : Hart := {}
  others : List Hart := []
  /-- pending events in the order in which they come about, and the input of the event now taken -/
  events : List (Instr × Input) := []
  /-- what is under way and comes about at a free later time (the model's own, see the log) -/
  jobs : List (Instr × Input) := []
  inp : Input := {}
  /-- the next step belongs to the hart whose turn it is (the model's own, see the log) -/
  keepTurn : Bool := false
  /-- harts whose parked stores perform before anything else, at a remap event (R187, R188) -/
  urgent : List Nat := []
  /-- the step at which each hart last had its turn, the steps since the oldest job became the oldest, and those since a transfer
  last retired: none is held back for ever (R95) -/
  jobAge : Nat := 0
  xferAge : Nat := 0
  turns : List (Nat × Nat) := []
  /-- CYCLE (R116), and the number of steps taken, which numbers the free values -/
  clk : Nat := 0
  tick : Nat := 0
  /-- the number of this package and the packages of its Dikeline domain (R27) -/
  pkg : Nat := 0
  domain : List Nat := [0]
  /-- physical memory (R3, R171), host memory, poisoned granules (R193), segment headers (R140) -/
  mem : List Host.Cell := []
  hostMem : List Host.Cell := []
  poison : List (Nat × Bool) := []
  segHdr : List (Nat × Option Word) := []
  /-- poisoned granules of the header table, by the number of their eight segments (R143, R145) -/
  hdrPoison : List (Nat × Bool) := []
  /-- frames that have left an application and whose key has not yet changed: they are still sampled (R29, R185) -/
  leaving : List OldFrame := []
  apps : List (Nat × App) := []
  tenants : List (Nat × Tenant) := []
  crews : List Crew := []
  leases : List (Nat × Lease) := []
  reserves : List Reserve := []
  nextCrew : Nat := 1
  nextHart : Nat := 1
  nextAccept : Nat := 0
  nextPlaced : Nat := 0
  transfers : List Transfer := []
  nextXfer : Nat := 0
  trains : List Train := []
  nextTrain : Nat := 0
  contribs : List Contrib := []
  rounds : List Round := []
  nextRound : Nat := 1
  /-- what has been put out for other packages: the event that it is there, and its input -/
  outbox : List (Instr × Input) := []
  /-- flits of these that wait for a port with room (R25) -/
  unsent : List Unsent := []
  /-- device status and command block (R43, R45) -/
  dstat : DevState := .boot
  dcause : BitVec 12 := 0
  cmdCode : BitVec 8 := 0
  cmdGo : Bool := false
  cmdArgs : List (Nat × Word) := []
  cmdRes : Word := 0
  cmdDetIndex : BitVec 32 := 0
  cmdDetSect : BitVec 16 := 0
  /-- MSI-X vectors raised, oldest first -/
  msix : List Nat := []
  /-- message slots as 8-byte words by BAR0 offset / 8 (R50), and the next slot of each direction by channel (R51) -/
  chan : List (Nat × Word) := []
  h2dNext : List (Nat × Nat) := []
  d2hNext : List (Nat × Nat) := []
  chanErr : List (Nat × Nat) := []
  /-- readback window (R35) -/
  rbSpace : BitVec 4 := 0
  rbFreeze : Bool := false
  rbCount : BitVec 7 := 0
  rbGo : Bool := false
  rbAddr : BitVec 52 := 0
  rbCode : Nat := 0
  rbFirst : Nat := 0
  rbData : List (Nat × Word) := []
  rbEnd : Option (Nat × Nat) := none
  rbReq : RbReq := {}
  spdmSession : Bool := false
  /-- the answers of Husk and of CXL.mem reads, newest last: bytes, and whether they are marked poisoned -/
  answers : List (List Byte × Bool) := []
  /-- power and thermal state (R15 to R17, R19, R33) -/
  powerCap : Nat := 2800
  capPending : Option Nat := none
  throttled : Bool := false
  tripped : Bool := false
  standbyRail : Bool := false
  huskBooted : Bool := false
  rails : Bool := false
  bringStep : Nat := 0
  /-- step 8 of Table 7 has ended -/
  bringDone : Bool := false
  /-- clk at which step 8 began -/
  bringSince : Nat := 0
  /-- the fuse fault on the standby status pin (R33, step 1) -/
  fuseFault : Bool := false
  pclStarted : Bool := false
  /-- Husk (R28 to R30): tenants whose keys are withdrawn (R61), alarm lock, keys zeroised, device unprovisioned -/
  keysOut : List (Nat × Bool) := []
  locked : Bool := false
  zeroised : Bool := false
  unprovisioned : Bool := false
  /-- whether the lock came from a bring-up stop, which a warm reset leaves too (R44) -/
  bringStopped : Bool := false
  poolADown : Bool := false
  poolBDown : Bool := false
  ports : List (Nat × Port) := []
  /-- always-on log and the error logs of the dies (R36) -/
  alwaysLog : List LogRec := []
  dieLogs : List (Nat × List LogRec) := []
  /-- weight-store bank in its refresh window (R175) -/
  wsOpen : Option Nat := none
  /-- save-area base of each core (R61), result of the last PCL call -/
  ctxArea : List (Nat × Nat) := []
  pclErr : Word := 0
  pclVal : Word := 0
  /-- corrected errors counted in a die's error log (R193) -/
  eccCorrected : List (Nat × Nat) := []
  /-- uncorrectable errors reported to the host: the addresses (R439) -/
  hostErrs : List Nat := []
  /-- answers to configuration requests: true for Configuration Request Retry Status (R33) -/
  cfgAnswers : List Bool := []
  collNotices : List (Nat × Nat) := []
deriving DecidableEq, Repr

/-- The machine right after a cold reset (R32, R33): nothing loaded, nothing running, DSTAT in BOOT, the power cap at
2,800 W (R15), every register of the maps at its reset value. -/
def State.reset : State := {}

end Sys2Proof.Machine
end

