-- ==== Sys2Proof/Machine/Enc.lean ====
section
/-! DEFINITION. Encoded vectors (R123 to R146): layouts, canonical forms, sizes, the choice of a result encoding, the
cut and extension of operands, and the segments of encoded pages. An array of bytes is a natural number, byte j at
bits 8 j to 8 j + 7. -/

namespace Sys2Proof.Machine

/-- a / b rounded up; the layouts of R125 use it with b not 0. -/
def ceilDiv (a b : Nat) : Nat := (a + b - 1) / b

/-- Bits n + w − 1 to n of x. -/
def bitsAt (x n w : Nat) : Nat := x / 2 ^ n % 2 ^ w

/-- Bit n of x. -/
def bitAt (x n : Nat) : Bool := decide (x / 2 ^ n % 2 = 1)

/-- `n` fields of `w` bits from bit `off` on, the first lowest (R125). -/
def unpackAt (w : Nat) (arr : Nat) (off n : Nat) : List Nat :=
  (List.range n).map fun i => bitsAt arr (off + i * w) w

/-- Fields of `w` bits packed from bit 0 up. -/
def packW (w : Nat) : List Nat → Nat
  | [] => 0
  | x :: xs => x % 2 ^ w + packW w xs * 2 ^ w

/-- The elements of an integer format as integers: signed for I formats and I4, unsigned otherwise. -/
def Fmt.toInt (f : Fmt) (x : Nat) : Int := if f.isN then ((x % 2 ^ f.bits : Nat) : Int) else sgn f.bits x

/-- The code of a register's ENC field (R123). -/
def Enc.code : Enc → Nat
  | .plain => 0 | .runs => 1 | .dict => 2 | .delta => 3

/-- The encoding of a code, by its low two bits. -/
def Enc.ofCode (c : Nat) : Enc :=
  match c % 4 with
  | 0 => .plain
  | 1 => .runs
  | 2 => .dict
  | _ => .delta

/-- log2 k of a DICT by its WID field (R123). -/
def dictW (wid : Nat) : Nat :=
  match wid % 4 with
  | 0 => 1
  | 1 => 2
  | 2 => 4
  | _ => 8

/-- Bits of a DELTA by its WID field (R123); 3 is not produced. -/
def deltaW (wid : Nat) : Nat :=
  match wid % 4 with
  | 0 => 4
  | 1 => 8
  | _ => 16

/-- The least WID of a DICT of `cnt` entries (R126). -/
def dictWid (cnt : Nat) : Nat := if cnt ≤ 2 then 0 else if cnt ≤ 4 then 1 else if cnt ≤ 16 then 2 else 3

/-- A vector in one encoding: tag, element patterns, the counts of its descriptor, its byte array, its size in bytes,
and the block scales of an MX vector. -/
structure Vec where
  enc : Enc
  fmt : Fmt
  elems : List Nat
  cnt : Nat
  wid : Nat
  arr : Nat
  size : Nat
  scales : List Nat := []
deriving DecidableEq, Repr

/-- The size P of the PLAIN layout (R125). -/
def plainSize (f : Fmt) (n : Nat) : Nat := ceilDiv (n * f.bits) 8

/-- A vector written PLAIN. -/
def plainVec (f : Fmt) (els : List Nat) (scales : List Nat := []) : Vec :=
  { enc := .plain, fmt := f, elems := els, cnt := 0, wid := 0, arr := packW f.bits els,
    size := plainSize f els.length, scales := scales }

/-- Maximal runs: pairs of a value and its exclusive end (R126). `pos` is the index of the head. -/
def runsOf : List Nat → Nat → List (Nat × Nat)
  | [], _ => []
  | x :: xs, pos =>
    match runsOf xs (pos + 1) with
    | [] => [(x, pos + 1)]
    | (y, e) :: rest => if x = y then (y, e) :: rest else (x, pos + 1) :: (y, e) :: rest

/-- Bytes of the run values, R125's E. -/
def runsE (f : Fmt) (cnt : Nat) : Nat := 2 * ceilDiv (cnt * f.bits) 16

/-- The size of a RUNS vector of `cnt` runs (R125). -/
def runsSize (f : Fmt) (cnt : Nat) : Nat := runsE f cnt + 2 * cnt

/-- A vector in canonical RUNS form. -/
def runsVec (f : Fmt) (els : List Nat) : Vec :=
  let rs := runsOf els 0
  let cnt := rs.length
  { enc := .runs, fmt := f, elems := els, cnt := cnt, wid := 0,
    arr := packW f.bits (rs.map Prod.fst) + packW 16 (rs.map Prod.snd) * 2 ^ (8 * runsE f cnt),
    size := runsSize f cnt }

/-- The distinct patterns in the order of their first occurrence, after those of `seen`. -/
def distinct : List Nat → List Nat → List Nat
  | [], seen => seen
  | x :: xs, seen => if seen.contains x then distinct xs seen else distinct xs (seen ++ [x])

/-- The size of a DICT vector (R125). -/
def dictSize (f : Fmt) (wid n : Nat) : Nat := ceilDiv (2 ^ dictW wid * f.bits) 8 + ceilDiv (n * dictW wid) 8

/-- A vector in canonical DICT form; none when it has more than 256 distinct values. -/
def dictVec (f : Fmt) (els : List Nat) : Option Vec :=
  let ents := distinct els []
  let cnt := ents.length
  if 256 < cnt then none
  else
    let wid := dictWid cnt
    let codes := els.map fun x => ents.idxOf x
    some { enc := .dict, fmt := f, elems := els, cnt := cnt, wid := wid,
           arr := packW f.bits ents + packW (dictW wid) codes * 2 ^ (8 * ceilDiv (2 ^ dictW wid * f.bits) 8),
           size := dictSize f wid els.length }

/-- The size of a DELTA vector (R125). -/
def deltaSize (f : Fmt) (wid n : Nat) : Nat := f.bits / 8 + ceilDiv (n * deltaW wid) 8

/-- The least and the greatest of a list of integers. -/
def spanOf : List Int → Int × Int
  | [] => (0, 0)
  | [x] => (x, x)
  | x :: y :: xs =>
    let r := spanOf (y :: xs)
    (min x r.1, max x r.2)

/-- The base of R126: min + ceil((max − min) / 2). -/
def deltaBase (lo hi : Int) : Int := lo + (hi - lo + 1) / 2

/-- A vector in DELTA form of one width. -/
def deltaVecAt (f : Fmt) (els : List Nat) (wid : Nat) : Vec :=
  let is := els.map f.toInt
  let sp := spanOf is
  let base := deltaBase sp.1 sp.2
  { enc := .delta, fmt := f, elems := els, cnt := 0, wid := wid,
    arr := patInt f.bits base + packW (deltaW wid) (is.map fun i => patInt (deltaW wid) (i - base)) * 2 ^ (8 * (f.bits / 8)),
    size := deltaSize f wid els.length }

/-- Whether a DELTA width holds the span and passes R127 (R126, R130). -/
def deltaOk (f : Fmt) (els : List Nat) (wid : Nat) : Bool :=
  let sp := spanOf (els.map f.toInt)
  decide (deltaW wid < f.bits) && decide (sp.2 - sp.1 ≤ ((2 ^ deltaW wid : Nat) : Int) - 1)
    && decide (deltaSize f wid els.length ≤ plainSize f els.length)

/-- A vector in DELTA form of the smallest width that fits; none when the format or every width refuses (R130). -/
def deltaVec (f : Fmt) (els : List Nat) : Option Vec :=
  if !f.admitsDelta then none
  else if deltaOk f els 0 then some (deltaVecAt f els 0)
  else if deltaOk f els 1 then some (deltaVecAt f els 1)
  else if deltaOk f els 2 then some (deltaVecAt f els 2)
  else none

/-- R124, R127 and R128 at every write: LEN 0, an MX format and a size above P are written PLAIN. -/
def Vec.fit (v : Vec) : Vec :=
  if v.enc = .plain then v
  else if v.elems.isEmpty || v.fmt.isMx || decide (plainSize v.fmt v.elems.length < v.size) then
    plainVec v.fmt v.elems v.scales
  else v

/-- A vector in the named encoding where its values allow it and R127 holds. -/
def encodeAs (e : Enc) (f : Fmt) (els : List Nat) : Option Vec :=
  let keep : Vec → Option Vec := fun v => if v.fit.enc = e then some v else none
  match e with
  | .plain => some (plainVec f els)
  | .runs => keep (runsVec f els)
  | .dict =>
    match dictVec f els with
    | some v => keep v
    | none => none
  | .delta =>
    match deltaVec f els with
    | some v => keep v
    | none => none

/-- How an operand enters the rules of R129: PLAIN or expanded DELTA; a splat; RUNS by its run ends; DICT by the codes of
its elements. -/
inductive Shape where
  | plain
  | splat
  | runs (ends : List Nat)
  | dict (codes : List Nat)
deriving DecidableEq, Repr

/-- The indices i ≥ 1 at which a list differs from its predecessor, `pos` the index of its head. -/
def changes {α : Type} [DecidableEq α] : List α → Nat → List Nat
  | [], _ => []
  | [_], _ => []
  | x :: y :: xs, pos => if x = y then changes (y :: xs) (pos + 1) else (pos + 1) :: changes (y :: xs) (pos + 1)

/-- A number put into a rising list without repeats. -/
def insertUp : List Nat → Nat → List Nat
  | [], x => [x]
  | y :: ys, x => if x < y then x :: y :: ys else if x = y then y :: ys else y :: insertUp ys x

/-- The union of two rising lists. -/
def unionUp (a b : List Nat) : List Nat := b.foldl insertUp a

/-- The exclusive ends of the stretches of equal codes over `n` elements. -/
def codeEnds (codes : List Nat) : List Nat := changes codes 0 ++ [codes.length]

/-- Pairs of codes numbered by first occurrence, and how many occur. -/
def pairCodes (a b : List Nat) : List Nat × Nat :=
  let ps := List.zipWith (fun x y => x * 4096 + y) a b
  let ds := distinct ps []
  (ps.map fun p => ds.idxOf p, ds.length)

/-- R129 for two operands; a DICT with a splat keeps its codes (log: a RUNS of CNT 1 is a splat here). DICT with DICT is
decided by the number of code pairs, before anything is computed (R135). -/
def Shape.combine : Shape → Shape → Shape
  | .plain, _ => .plain
  | .splat, .plain => .plain
  | .runs _, .plain => .plain
  | .dict _, .plain => .plain
  | .splat, .splat => .splat
  | .splat, .runs e => .runs e
  | .runs e, .splat => .runs e
  | .runs e, .runs g => .runs (unionUp e g)
  | .splat, .dict c => .dict c
  | .dict c, .splat => .dict c
  | .runs e, .dict c => .runs (unionUp e (codeEnds c))
  | .dict c, .runs e => .runs (unionUp (codeEnds c) e)
  | .dict c, .dict d =>
    let p := pairCodes c d
    if p.2 ≤ 256 then .dict p.1 else .plain

/-- R136: the mask's changes are boundaries of a RUNS result; `act` lists the activity of the elements. -/
def Shape.masked (act : List Bool) : Shape → Shape
  | .plain => .plain
  | .dict c => .dict c
  | .splat => .runs (unionUp [act.length] (changes act 0))
  | .runs e => .runs (unionUp e (changes act 0))

/-- An operand of an element-wise instruction: its patterns at FMT over VL elements, its shape, and its encoding. -/
structure Opd where
  elems : List Nat
  shape : Shape
  enc : Enc
deriving DecidableEq, Repr

/-- A scalar operand (R129: a splat). -/
def Opd.ofScalar (f : Fmt) (vl : Nat) (x : Nat) : Opd := ⟨List.replicate vl (x % 2 ^ f.bits), .splat, .runs⟩

/-- The combined shape of operands in operand order. -/
def shapeOf : List Opd → Shape
  | [] => .plain
  | [o] => o.shape
  | o :: p :: os => (p :: os).foldl (fun s q => s.combine q.shape) o.shape

/-- Whether a combination has gone through a code-pair pass and the pairs it counted already fail R127 (R135); an intermediate
combination is not asked, for it is not written (log). -/
def pairsFail (f : Fmt) (ops : List Opd) (codes : List Nat) : Bool :=
  decide (1 < ops.countP fun o => decide (o.enc = .dict)) &&
    decide (plainSize f codes.length < dictSize f (dictWid (distinct codes []).length) codes.length)

/-- The AUTO result (R129, R130, R135, R136): `act` is none for an unmasked instruction. -/
def autoVec (f : Fmt) (ops : List Opd) (act : Option (List Bool)) (res : List Nat) : Vec :=
  let n := res.length
  let s0 := shapeOf ops
  let s := match act with
    | none => s0
    | some a => s0.masked a
  let pl := plainVec f res
  if n = 0 || f.isMx then pl
  else match s with
    | .plain =>
      if ops.any (fun o => decide (o.enc = .delta)) then (deltaVec f res).getD pl else pl
    | .splat => if runsSize f 1 ≤ plainSize f n then runsVec f res else pl
    | .runs e => if runsSize f e.length ≤ plainSize f n then runsVec f res else pl
    | .dict c => if pairsFail f ops c then pl else (encodeAs .dict f res).getD pl

/-- The result of an element-wise instruction by the policy VSTAT.EP: 0 AUTO, 1 KEEP, 2 PLAIN (R129 to R131). -/
def resultVec (ep : Nat) (f : Fmt) (ops : List Opd) (act : Option (List Bool)) (res : List Nat) : Vec :=
  if ep = 2 then plainVec f res
  else
    let auto := autoVec f ops act res
    if ep = 1 then
      match ops with
      | [] => auto
      | a :: _ =>
        if a.enc = .plain then plainVec f res
        else if auto.enc = a.enc then auto
        else (encodeAs a.enc f res).getD auto
    else auto

/-- The expansion of runs from index `pos` to `n` (R125). -/
def expandRuns : List (Nat × Nat) → Nat → Nat → List Nat
  | [], pos, n => List.replicate (n - pos) 0
  | (v, e) :: rs, pos, n => List.replicate (min e n - pos) v ++ expandRuns rs (max pos (min e n)) n

/-- The run values and ends of a RUNS array. -/
def runPairs (f : Fmt) (cnt arr : Nat) : List (Nat × Nat) :=
  List.zip (unpackAt f.bits arr 0 cnt) (unpackAt 16 arr (8 * runsE f cnt) cnt)

/-- The codes of a DICT array. -/
def dictCodes (f : Fmt) (wid n arr : Nat) : List Nat :=
  unpackAt (dictW wid) arr (8 * ceilDiv (2 ^ dictW wid * f.bits) 8) n

/-- The elements of an encoded array (R125). -/
def decodeArr (e : Enc) (f : Fmt) (n cnt wid arr : Nat) : List Nat :=
  match e with
  | .plain => unpackAt f.bits arr 0 n
  | .runs => expandRuns (runPairs f cnt arr) 0 n
  | .dict =>
    let ents := unpackAt f.bits arr 0 (2 ^ dictW wid)
    (dictCodes f wid n arr).map fun c => ents.getD c 0
  | .delta =>
    let base := bitsAt arr 0 f.bits
    (unpackAt (deltaW wid) arr (8 * (f.bits / 8)) n).map fun d => patInt f.bits ((base : Int) + sgn (deltaW wid) d)

/-- A list cut or extended by zeros to `n` elements (R108, R137). -/
def fitLen (n : Nat) (l : List Nat) : List Nat := l.take n ++ List.replicate (n - l.length) 0

/-- The ends of a RUNS operand over `vl` elements, zero run included (R137). -/
def runEndsTo (vl len : Nat) (rs : List (Nat × Nat)) : List Nat :=
  if vl ≤ len then ((rs.map Prod.snd).filter fun e => decide (e < vl)) ++ [vl]
  else if (rs.getLast?.map Prod.fst) = some 0 then ((rs.map Prod.snd).filter fun e => decide (e < len)) ++ [vl]
  else rs.map Prod.snd ++ [vl]

/-- The codes of a DICT operand over `vl` elements: the extension takes the code of a zero entry, or a new one (R137). -/
def codesTo (vl : Nat) (ents codes : List Nat) : List Nat :=
  codes.take vl ++ List.replicate (vl - codes.length) (ents.idxOf 0)

/-- The shape of a register operand over `vl` elements; a RUNS whose first run reaches VL is a splat there (log). -/
def shapeIn (e : Enc) (f : Fmt) (vl len cnt wid arr : Nat) : Shape :=
  match e with
  | .plain => .plain
  | .delta => .plain
  | .runs =>
    match runEndsTo vl len (runPairs f cnt arr) with
    | [] => .splat
    | [_] => .splat
    | x :: y :: r => .runs (x :: y :: r)
  | .dict => .dict (codesTo vl (unpackAt f.bits arr 0 cnt) (dictCodes f wid len arr))

/-- The cut of an encoded vector at element j (R138). -/
def cutVec (e : Enc) (f : Fmt) (wid : Nat) (els : List Nat) (scales : List Nat) (j : Nat) : Vec :=
  let t := els.take j
  let pl := plainVec f t (scales.take (ceilDiv j 32))
  if t.isEmpty then pl
  else match e with
    | .plain => pl
    | .runs => (runsVec f t).fit
    | .dict =>
      match dictVec f t with
      | none => pl
      | some v =>
        -- WID is kept: the dictionary keeps its k entries (R138)
        let ents := distinct t []
        ({ v with
            wid := wid,
            arr := packW f.bits ents
              + packW (dictW wid) (t.map fun x => ents.idxOf x) * 2 ^ (8 * ceilDiv (2 ^ dictW wid * f.bits) 8),
            size := dictSize f wid t.length }).fit
    | .delta => (deltaVec f t).getD pl

/-- The vector copied by an unmasked VMV over `vl` elements (R137, R138, R358). -/
def copyVec (e : Enc) (f : Fmt) (wid : Nat) (els : List Nat) (scales : List Nat) (vl : Nat) : Vec :=
  if vl ≤ els.length then cutVec e f wid els scales vl
  else
    let t := fitLen vl els
    let sc := fitLen (ceilDiv vl 32) scales
    if f.isMx then plainVec f t sc
    else (encodeAs e f t).getD (plainVec f t)

/-! ### Segments of encoded pages -/

/-- The header of a fresh segment: RUNS, CNT 1, the page's FMT (R140). -/
def freshHdr (f : Fmt) : Nat := 1 + 2 ^ 4 + f.code * 2 ^ 13

/-- The header word of a segment in a given form (R140). -/
def segHdrOf (v : Vec) : Nat := v.enc.code + v.wid * 2 ^ 2 + v.cnt * 2 ^ 4 + v.fmt.code * 2 ^ 13

/-- A segment as a header describes it: encoding, count, width and its 256 elements. -/
structure Seg where
  enc : Enc
  cnt : Nat
  wid : Nat
  elems : List Nat
deriving DecidableEq, Repr

/-- Whether the end indices of a RUNS body of 256 elements rise to 256. -/
def endsCanon : List Nat → Nat → Bool
  | [], _ => false
  | [e], prev => decide (prev < e) && decide (e = 256)
  | e :: g :: r, prev => decide (prev < e) && endsCanon (g :: r) e

/-- A segment read from its header and its slot, none when malformed: a header that breaks R126 or R140, or names a body that
leaves its slot (log), and end indices or codes out of form (R143); values and bases of a body are taken as they stand. -/
def parseSeg (f : Fmt) (hdr : Nat) (slot : Nat) : Option Seg :=
  let e := Enc.ofCode (bitsAt hdr 0 2)
  let wid := bitsAt hdr 2 2
  let cnt := bitsAt hdr 4 9
  let els := decodeArr e f 256 cnt wid slot
  let cap := plainSize f 256
  let ok := decide (hdr / 2 ^ 19 = 0) && decide (bitsAt hdr 13 6 = f.code) && match e with
    | .plain => decide (cnt = 0) && decide (wid = 0)
    | .runs => decide (1 ≤ cnt) && decide (cnt ≤ 256) && decide (wid = 0) && decide (runsSize f cnt ≤ cap)
        && endsCanon ((runPairs f cnt slot).map Prod.snd) 0
    | .dict => decide (1 ≤ cnt) && decide (cnt ≤ 256) && decide (wid = dictWid cnt) && decide (dictSize f wid 256 ≤ cap)
        && decide (distinct (dictCodes f wid 256 slot) [] = List.range cnt)
    | .delta =>
      decide (cnt = 0) && decide (wid < 3) && f.admitsDelta && decide (deltaW wid < f.bits) && decide (deltaSize f wid 256 ≤ cap)
  if ok then some ⟨e, cnt, wid, els⟩ else none

/-- The smaller vector, the first on a tie. -/
def smaller (a : Vec) (b : Option Vec) : Vec :=
  match b with
  | none => a
  | some w => if w.size < a.size then w else a

/-- The encoding of least size of a stored segment, earliest of RUNS, DICT, DELTA, PLAIN on a tie (R145). -/
def segBest (f : Fmt) (els : List Nat) : Vec :=
  smaller (smaller (smaller (runsVec f els) (dictVec f els)) (deltaVec f els)) (some (plainVec f els))

/-- The encoding that R141's table names for the portions covered. -/
def joinEnc (ep : Nat) (encs : List Enc) : Enc :=
  if ep = 2 then .plain
  else match encs with
    | [] => .plain
    | e :: r => if r.all (fun x => decide (x = e)) then e else .plain

/-- The result of an unmasked load from the portions it covers (R141), R127 and R128 applied. -/
def joinSegs (ep : Nat) (f : Fmt) (encs : List Enc) (els : List Nat) : Vec :=
  (encodeAs (joinEnc ep encs) f els).getD (plainVec f els)

/-- The loaded portion as an operand of the fold of a masked load, before R127 (R141): none where it is PLAIN. -/
def joinOpd (ep : Nat) (f : Fmt) (encs : List Enc) (els : List Nat) : Option Opd :=
  match joinEnc ep encs with
  | .plain => none
  | .runs =>
    let v := runsVec f els
    some ⟨els, shapeIn .runs f els.length els.length v.cnt v.wid v.arr, .runs⟩
  | .dict => (dictVec f els).map fun v => ⟨els, shapeIn .dict f els.length els.length v.cnt v.wid v.arr, .dict⟩
  | .delta => some ⟨els, .plain, .delta⟩

end Sys2Proof.Machine
end

