-- ==== Sys2Proof/Machine/Mem.lean ====
section
/-! DEFINITION. Memory: the physical layout (a model's choice, see the log), bytes and their poison, links, the translation
of an application's addresses (R171 to R184, R268), segments of encoded pages, and the ranges of the RIT. -/

namespace Sys2Proof.Machine

/-- What a byte of memory reads as when nothing has written it (log: DESIGN CHOICE). -/
def unlistedByte : Byte := 0

/-- The canonical form of memory: addresses strictly rising, no byte equal to what an unlisted address reads as. -/
abbrev Memory.wf (m : List Host.Cell) : Bool := mwf unlistedByte m

/-! ### Where things lie (log: the physical layout is the model's) -/

/-- The die of a package core number (R116). -/
def dieOfCore (c : Nat) : Nat := if c < 80 then 0 else if c < 160 then 1 else if c < 208 then 2 else 3

/-- The package number of a core's polder (R183). -/
def polderOfCore (c : Nat) : Nat := c / 8

/-- The first polder of a die (R183). -/
def firstPolder (d : Nat) : Nat :=
  match d with
  | 0 => 0
  | 1 => 10
  | 2 => 20
  | _ => 26

/-- The physical base and size of a die's HBM4E: 384 GiB for the P-die pair, 640 GiB for the G-die pair (R171). -/
def hbmBase (d : Nat) : Nat :=
  match d with
  | 0 => 0
  | 1 => 192 * 2 ^ 30
  | 2 => 384 * 2 ^ 30
  | _ => 704 * 2 ^ 30

/-- The size of a die's HBM4E. -/
def hbmSize (d : Nat) : Nat := if d < 2 then 192 * 2 ^ 30 else 320 * 2 ^ 30

/-- The physical base of a polder store of 16 MiB. -/
def polderBase (p : Nat) : Nat := 2 ^ 40 + p * 2 ^ 24

/-- The physical base of a die's weight store. -/
def weightBase (d : Nat) : Nat := 2 ^ 41 + d * 2 ^ 31

/-- The size of a die's weight store (R171). -/
def weightSize (d : Nat) : Nat := if d < 2 then 2 ^ 31 else 2 ^ 30

/-- The physical base of the tier-2 memory behind a pool link, 8 TiB each of the 16 TiB of R171. -/
def tier2Base (l : PoolLink) : Nat :=
  match l with
  | .a => 2 ^ 44
  | .b => 2 ^ 45

/-- The die whose HBM4E holds a physical address below 2^40. -/
def dieOfHbm (pa : Nat) : Nat :=
  if pa < hbmBase 1 then 0 else if pa < hbmBase 2 then 1 else if pa < hbmBase 3 then 2 else 3

/-! ### Bytes -/

/-- `n` bytes from `pa` up as a number, the byte at `pa` lowest (R3). -/
def readLE (m : List Host.Cell) (pa : Nat) : Nat → Nat
  | 0 => 0
  | n + 1 => (mget unlistedByte m pa).toNat + 256 * readLE m (pa + 1) n

/-- The `n` low bytes of `v` as cells from `pa` up. -/
def cellsLE (pa : Nat) : Nat → Nat → List (Nat × Nat)
  | 0, _ => []
  | n + 1, v => (pa, v % 256) :: cellsLE (pa + 1) n (v / 256)

/-- The cells written in order. -/
def putCells (m : List Host.Cell) : List (Nat × Nat) → List Host.Cell
  | [] => m
  | (a, b) :: cs => putCells (mset unlistedByte m a (BitVec.ofNat 8 b)) cs

/-- Whether the granule of an address is poisoned, or the keys are withheld (R30, R193, R194). -/
def State.poisoned (s : State) (pa : Nat) : Bool := mget false s.poison (pa / 64) || s.locked || s.zeroised

/-- The granules touched by cells that hold poison and that these cells write whole (R194). -/
def wholeGranules (cells : List (Nat × Nat)) (ps : List (Nat × Bool)) : List Nat :=
  (ps.map Prod.fst).filter fun g =>
    (List.range 64).all fun i => cells.any fun c => decide (c.1 = g * 64 + i)

/-- A hart without the links of the lines written; another agent's write sets the wake latch (R216, R331). -/
def Hart.breakLinks (h : Hart) (other : Bool) (lines : List Nat) : Hart :=
  if h.links.any (fun l => lines.contains l) then
    { h with links := h.links.filter (fun l => !lines.contains l), wake := h.wake || other }
  else h

/-- Line `l` holds a byte of the `n` bytes from `lo` on. -/
def touches (lo n l : Nat) : Bool := decide (lo / 64 ≤ l) && decide (l ≤ (lo + n - 1) / 64)

/-- A hart after a write to the `n` bytes from `lo` on: its links to those lines are broken, and a write of another agent
that breaks one sets its wake latch (R216, R331). -/
def Hart.cutLinks (h : Hart) (lo n : Nat) (other : Bool) : Hart :=
  if h.links.any (touches lo n) then
    { h with links := h.links.filter fun l => !touches lo n l, wake := h.wake || other }
  else h

/-- Writes bytes at physical addresses: memory, poison of granules written whole, and links. `own` says that the writer
is the hart whose turn it is. -/
def State.writePhys (s : State) (own : Bool) (cells : List (Nat × Nat)) : State :=
  let lines := cells.map fun c => c.1 / 64
  { s with
    mem := putCells s.mem cells,
    poison := (wholeGranules cells s.poison).foldl mdel s.poison,
    hart := s.hart.breakLinks (!own) lines,
    others := s.others.map fun h => h.breakLinks true lines }

/-- Sets a granule's poison. -/
def State.setPoison (s : State) (g : Nat) (b : Bool) : State := { s with poison := mset false s.poison g b }

/-! ### Translation -/

/-- On which side of the KV window's owners an access stands (R268). -/
inductive Side where
  | p | g | ctl
deriving DecidableEq, Repr

/-- Who accesses: the die of its core, and its side. -/
structure Who where
  die : Nat
  side : Side
deriving DecidableEq, Repr

/-- A hart's place as an accessor. -/
def Hart.who (h : Hart) : Who := ⟨dieOfCore h.core, if h.core < 160 then .p else .g⟩

/-- The control program as an accessor: its window is that of die 0 (log). -/
def ctlWho : Who := ⟨0, .ctl⟩

/-- A canonical virtual address (R179): bits [63:57] all equal to bit 56. -/
def canonicalVa (va : Nat) : Bool := decide (va / 2 ^ 56 % 256 = 0) || decide (va / 2 ^ 56 % 256 = 255)

/-- The FMT field of an attribute word (R184). -/
def attrFmt (a : Word) : Nat := a.toNat % 64

/-- The BLK field. -/
def attrBlk (a : Word) : Nat := a.toNat / 64 % 4

/-- The ENC field. -/
def attrEnc (a : Word) : Nat := a.toNat / 256 % 4

/-- The attribute word of an untyped page with permissions in bits PR, PW, PX. -/
def attrOf (f : Nat) (pr pw px : Bool) : Word :=
  BitVec.ofNat 64 (f + (if pr then 2 ^ 11 else 0) + (if pw then 2 ^ 12 else 0) + (if px then 2 ^ 13 else 0))

/-- The mapping that holds an address. -/
def findMap (ms : List Mapping) (va : Nat) : Option Mapping :=
  ms.find? fun m => decide (m.va ≤ va) && decide (va < m.va + m.pages * 4096)

/-- The bytes of an application's KV window: 2^20 pages of 64 KiB (R268). -/
def kvBytes : Nat := 2 ^ 36

/-- Whether a side may write a KV page of an owner (R268). -/
def kvMayWrite (owner : BitVec 2) (sd : Side) : Bool :=
  match sd with
  | .p => decide (owner = 1)
  | .g => decide (owner = 2)
  | .ctl => false

/-- Whether an address lies in the application's KV window (R268). -/
def App.inKv (a : App) (va : Nat) : Bool := decide (a.kvwin ≠ 0) && decide (a.kvwin ≤ va) && decide (va < a.kvwin + kvBytes)

/-- Whether an address lies in the weight-store window, within the share of the accessor's die (R173). -/
def App.inWs (a : App) (w : Who) (va : Nat) : Bool :=
  decide (a.wsWin ≠ 0) && decide (a.wsWin ≤ va) && decide (va < a.wsWin + mget 0 a.wsSize w.die)

/-- The translation of the page of an address for an accessor; none where nothing is mapped (R171, R173, R179 to R181, R268). -/
def App.lookup (a : App) (w : Who) (va : Nat) : Option Xlat :=
  if !canonicalVa va then none
  else if a.inKv va then
    let p := mget {} a.kv ((va - a.kvwin) / 65536)
    if p.owner = 0 ∨ p.owner = 3 then none
    else some { pa := p.pa + (va - a.kvwin) % 65536 / 4096 * 4096, attr := attrOf 0x3F true true false, kind := .kv,
                kvWrite := kvMayWrite p.owner w.side, closed := false }
  else if a.inWs w va then
    some { pa := weightBase w.die + mget 0 a.wsOff w.die + (va - a.wsWin) / 4096 * 4096,
           attr := attrOf 0x3F true false false, kind := .weight, kvWrite := false, closed := false }
  else match findMap a.maps va with
    | none => none
    | some m => some { pa := m.pa + (va - m.va) / 4096 * 4096, attr := m.attr, kind := m.kind, kvWrite := true,
                       closed := m.migr.isSome }

/-- The end of a region. -/
def Mapping.top (m : Mapping) : Nat := m.va + m.pages * 4096

/-- The unit that is sampled and that moves at an address: a range region whole, else one page (R182, R186, R187). -/
def Mapping.unit (m : Mapping) (va : Nat) : Nat × Nat :=
  if m.range then (m.va, m.top)
  else
    let lo := va / 2 ^ m.pageLog * 2 ^ m.pageLog
    (max m.va lo, min m.top (lo + 2 ^ m.pageLog))

/-- The page or range entry that holds an address: 64 KiB in the KV window, the whole share in the weight-store window, and
4 KiB where nothing is mapped (R180 to R182, R268). -/
def App.entryOf (a : App) (w : Who) (va : Nat) : Nat × Nat :=
  if a.inKv va then
    let lo := a.kvwin + (va - a.kvwin) / 65536 * 65536
    (lo, lo + 65536)
  else if a.inWs w va then (a.wsWin, a.wsWin + mget 0 a.wsSize w.die)
  else match findMap a.maps va with
    | none => (va / 4096 * 4096, va / 4096 * 4096 + 4096)
    | some m => m.unit va

/-- An application slot's record. -/
def State.app (s : State) (k : Nat) : App := mget {} s.apps k

/-- Replaces a slot's record. -/
def State.setApp (s : State) (k : Nat) (a : App) : State := { s with apps := mset {} s.apps k a }

/-- The translation of an address for a hart. -/
def State.xlat (s : State) (h : Hart) (va : Nat) : Option Xlat := (s.app h.app).lookup h.who va

/-- The physical address of a virtual address on a translated page. -/
def Xlat.addr (x : Xlat) (va : Nat) : Nat := x.pa + va % 4096

/-- Whether the page's pool link is down (R191). -/
def State.linkDown (s : State) (k : MemKind) : Bool :=
  match k with
  | .tier2 .a => s.poolADown
  | .tier2 .b => s.poolBDown
  | .tier1 => false
  | .polder => false
  | .weight => false
  | .kv => false

/-- A page as a load may use it. -/
def State.forLoad (s : State) (x : Option Xlat) : Except MemFault Xlat :=
  match x with
  | none => .error .unmapped
  | some x => if !x.attr.getLsbD 11 then .error .perm else if s.linkDown x.kind then .error .link else .ok x

/-- A page as a store may use it (R268, R312). -/
def State.forStore (s : State) (x : Option Xlat) : Except MemFault Xlat :=
  match x with
  | none => .error .unmapped
  | some x =>
    if !x.attr.getLsbD 12 then .error .perm
    else if !x.kvWrite then .error .perm
    else if s.linkDown x.kind then .error .link else .ok x

/-- Whether a page is encoded. -/
def Xlat.encoded (x : Xlat) : Bool := decide (attrEnc x.attr = 1)

/-- The format of a typed page; none for an untyped one (R169). -/
def Xlat.fmt (x : Xlat) : Option Fmt := Fmt.ofCode (attrFmt x.attr)

/-- The page format as a load sees it: an untyped page counts as carrying `dflt` (R368). -/
def Xlat.effFmt (x : Xlat) (dflt : Fmt) : Fmt := (x.fmt).getD dflt

/-! ### Encoded pages -/

/-- Bytes of a slot (R140). -/
def slotBytes (f : Fmt) : Nat := 32 * f.bits

/-- The bytes a segment's body takes by its header (R125). -/
def bodySize (f : Fmt) (hdr : Nat) : Nat :=
  match Enc.ofCode (bitsAt hdr 0 2) with
  | .plain => plainSize f 256
  | .runs => runsSize f (bitsAt hdr 4 9)
  | .dict => dictSize f (bitsAt hdr 2 2) 256
  | .delta => deltaSize f (bitsAt hdr 2 2) 256

/-- The header of the segment whose slot starts at `slot`; one that no mapping has allocated reads as a fresh header. -/
def State.segHeader (s : State) (f : Fmt) (slot : Nat) : Nat :=
  match mget none s.segHdr slot with
  | none => freshHdr f
  | some h => h.toNat

/-- The 64-byte granule of the header table that holds a segment's header, named by the slot of its first segment: eight
segments of one 4 KiB frame (log). -/
def hdrGranule (f : Fmt) (slot : Nat) : Nat := max (slot / (8 * slotBytes f) * (8 * slotBytes f)) (slot / 4096 * 4096)

/-- The segment that holds a physical address on an encoded page of a format (R140 to R143). -/
def State.segAt (s : State) (f : Fmt) (pa : Nat) : Except MemFault Seg :=
  let slot := pa / slotBytes f * slotBytes f
  let hdr := s.segHeader f slot
  let size := min (bodySize f hdr) (slotBytes f)
  if (List.range (ceilDiv size 64)).any (fun i => s.poisoned (slot + 64 * i)) || mget false s.hdrPoison (hdrGranule f slot) then
    .error .poison
  else match parseSeg f hdr (readLE s.mem slot (slotBytes f)) with
    | none => .error .malformed
    | some g => .ok g

/-- The format of an encoded page; MAP refuses an encoded page without one (R140), so I8 is never taken. -/
def Xlat.encFmt (x : Xlat) : Fmt := x.fmt.getD .i8

/-- `n` bytes of a page's plain image at a virtual address that does not leave the page (R141). -/
def State.readImage (s : State) (x : Xlat) (va n : Nat) : Except MemFault Nat :=
  if x.encoded then
    match s.segAt x.encFmt (x.addr va) with
    | .error e => .error e
    | .ok g => .ok (packW x.encFmt.bits g.elems / 2 ^ (8 * (x.addr va % slotBytes x.encFmt)) % 2 ^ (8 * n))
  else if s.poisoned (x.addr va) || s.poisoned (x.addr va + n - 1) then .error .poison
  else .ok (readLE s.mem (x.addr va) n)

/-- Whether the fetch of an instruction-cache line of 512 bytes would succeed (R300, R327). -/
def State.lineFetchable (s : State) (h : Hart) (line : Nat) : Bool :=
  (List.range 8).all fun i =>
    match s.xlat h (line * 512 + 64 * i) with
    | none => false
    | some x => x.attr.getLsbD 13 && !s.linkDown x.kind &&
        (match s.readImage x (line * 512 + 64 * i) 4 with
         | .error _ => false
         | .ok _ => true)

/-! ### Reads and writes by Riura and the engines, byte by byte -/

/-- One byte of an application's memory as an accessor reads it. -/
def State.readByteFor (s : State) (app : Nat) (w : Who) (va : Nat) : Except MemFault Nat :=
  match s.forLoad ((s.app app).lookup w va) with
  | .error e => .error e
  | .ok x => s.readImage x va 1

/-- `n` bytes of an application's memory, none where one cannot be read. -/
def State.readFor (s : State) (app : Nat) (w : Who) (va : Nat) : Nat → Option (List Nat)
  | 0 => some []
  | n + 1 =>
    match s.readByteFor app w va, s.readFor app w (va + 1) n with
    | .ok b, some bs => some (b :: bs)
    | .ok _, none => none
    | .error _, _ => none

/-- Bytes as a number, the first lowest. -/
def leNat : List Nat → Nat
  | [] => 0
  | b :: bs => b % 256 + 256 * leNat bs

/-- An 8-byte word of an application's memory. -/
def State.readWordFor (s : State) (app : Nat) (w : Who) (va : Nat) : Option Nat := (s.readFor app w va 8).map leNat

/-- Whether an accessor may write every byte of a range of plain pages. -/
def State.mayWrite (s : State) (app : Nat) (w : Who) (va n : Nat) : Bool :=
  (List.range n).all fun i =>
    match s.forStore ((s.app app).lookup w (va + i)) with
    | .error _ => false
    | .ok x => !x.encoded

/-- The cells of bytes written at a virtual address, those of writable plain pages alone. -/
def State.cellsFor (s : State) (app : Nat) (w : Who) (va : Nat) : List Nat → List (Nat × Nat)
  | [] => []
  | b :: bs =>
    match s.forStore ((s.app app).lookup w va) with
    | .error _ => s.cellsFor app w (va + 1) bs
    | .ok x => (x.addr va, b) :: s.cellsFor app w (va + 1) bs

/-- Writes bytes into an application's memory on behalf of another agent. -/
def State.writeFor (s : State) (app : Nat) (w : Who) (va : Nat) (bs : List Nat) : State :=
  s.writePhys false (s.cellsFor app w va bs)

/-! ### The control word of a transfer (R253) -/

/-- The format of a code, none for 0x3F and reserved codes. -/
def ctlFmt (c : Word) (at_ : Nat) : Option Fmt := Fmt.ofCode (bitsAt c.toNat at_ 6)

/-- F = NFLD + 1. -/
def ctlFields (c : Word) : Nat := bitsAt c.toNat 12 3 + 1

/-- 2^GRP. -/
def ctlGroup (c : Word) : Nat := 2 ^ bitsAt c.toNat 15 2

/-- A format field as the elements it moves: 0x3F counts as 8 bits. -/
def ctlElem (c : Word) (at_ : Nat) : Fmt := (ctlFmt c at_).getD .n8

/-! ### Ranges held by transfers -/

/-- A byte span rounded outward to lines (R121). -/
def lineSpan (lo hi : Nat) : Nat × Nat := (lo / 64 * 64, (hi + 63) / 64 * 64)

/-- Whether an access to bytes lo to hi − 1 touches a line of a range of one of the hart's transfers (R121). -/
def State.ritHit (s : State) (h : Hart) (lo hi : Nat) : Bool :=
  s.transfers.any fun t => decide (t.hart = h.id) && t.rit.any fun r =>
    decide (lo / 64 * 64 < r.2) && decide (r.1 < (hi + 63) / 64 * 64)

/-- Whether a transfer writes registers: XFERV and XFERC. -/
def Transfer.toRegs (t : Transfer) : Bool := decide (t.op = 3) || decide (t.op = 5)

/-- Whether a transfer fills a physical register of the hart in [lo, hi). -/
def Transfer.fillsAt (t : Transfer) (h : Hart) (lo hi : Nat) : Bool :=
  match t.fills with
  | none => false
  | some f => decide (f.1 = h.id) && decide (lo < f.2.2) && decide (f.2.1 < hi)

/-- Whether a transfer that fills a physical register of the hart in [lo, hi) has yet to retire: nothing else writes it (R120). -/
def State.filling (s : State) (h : Hart) (lo hi : Nat) : Bool := s.transfers.any fun t => t.fillsAt h lo hi

/-- Where in its field the bytes of the j-th register of a transfer begin: each register is a field where there are several, else
all are one (R120, R255). -/
def Transfer.fieldOff (t : Transfer) (j : Nat) : Nat := if t.op = 3 ∧ ctlFields t.ctl ≠ 1 then 0 else j * t.grant

/-- Whether every element group of the registers in [lo, hi) that a transfer fills has arrived. -/
def Transfer.hasCome (t : Transfer) (lo hi : Nat) : Bool :=
  t.landed.isSome ||
  match t.came, t.fills with
  | some a, some f => (List.range (f.2.2 - f.2.1)).all fun j =>
      decide (f.2.1 + j < lo) || decide (hi ≤ f.2.1 + j) || decide (t.fieldOff j + t.grant ≤ a.got)
  | _, _ => false

/-- Whether element groups of such a register have yet to arrive: a read of them waits (R120). -/
def State.arriving (s : State) (h : Hart) (lo hi : Nat) : Bool := s.transfers.any fun t => t.fillsAt h lo hi && !t.hasCome lo hi

/-- The source bytes of a transfer to registers whose destination bytes have arrived (R259). -/
def Transfer.bytesDone (t : Transfer) : Nat :=
  match t.landed, t.came with
  | some e, _ => e.done
  | none, some a =>
    min a.ending.done (if t.op = 3 then a.got * 8 / (ctlElem t.ctl 6).bits * ctlFields t.ctl * (ctlElem t.ctl 0).bits / 8 else a.got)
  | none, none => 0

/-! ### Translation samples of the strip (R182) -/

/-- Whether a sample covers an address. -/
def Sample.covers (p : Sample) (va : Nat) : Bool := decide (p.lo ≤ va) && decide (va < p.hi)

/-- The translation that a sample gives an address it covers: the entry is contiguous. -/
def Sample.at_ (p : Sample) (va : Nat) : Option Xlat := p.x.map fun y => { y with pa := y.pa + (va - p.lo) / 4096 * 4096 }

/-- The hart's sample of the page or range entry that holds an address; the oldest where two cover it. -/
def Hart.sampleOf (h : Hart) (va : Nat) : Option Sample := h.samples.find? fun p => p.covers va

/-- The translation a vector access of the strip uses: the sample, else the translation now. -/
def State.sampled (s : State) (h : Hart) (va : Nat) : Option Xlat :=
  match h.sampleOf va with
  | some p => p.at_ va
  | none => s.xlat h va

/-- A sample of the page or range entry that holds an address. -/
def State.sampleNow (s : State) (h : Hart) (va : Nat) : Sample :=
  let e := (s.app h.app).entryOf h.who va
  ⟨e.1, e.2, s.xlat h e.1⟩

/-- The hart with a sample of the entry of one address, if it has none. -/
def State.takeSample (s : State) (h : Hart) (va : Nat) : Hart :=
  match h.sampleOf va with
  | some _ => h
  | none => { h with samples := h.samples ++ [s.sampleNow h va] }

/-- The hart with samples taken of the entries of the addresses. -/
def State.takeSamples (s : State) (h : Hart) (vas : List Nat) : Hart := vas.foldl s.takeSample h

/-- The hart without its samples of an address. -/
def Hart.dropSamples (h : Hart) (va : Nat) : Hart := { h with samples := h.samples.filter fun p => !p.covers va }

/-- A translation apart from the write protection of an open migration, which makes no newer mapping (R187). -/
def Xlat.mapped (x : Xlat) : Xlat := { x with closed := false }

/-- An access that finds a mapping newer than the sample drops it: a scalar access, and a store of the strip, whose bytes
later loads of the hart must see (R182, R207). -/
def State.dropStale (s : State) (h : Hart) (va : Nat) : Hart :=
  match h.sampleOf va with
  | none => h
  | some p => if (s.xlat h va).map Xlat.mapped = (p.at_ va).map Xlat.mapped then h else h.dropSamples va

/-- The physical ranges of which some hart holds a sample (R185). -/
def State.sampledFrames (s : State) : List (Nat × Nat) :=
  (s.hart :: s.others).flatMap fun h => h.samples.filterMap fun p => p.x.map fun y => (y.pa, y.pa + (p.hi - p.lo))

end Sys2Proof.Machine
end

