-- ==== Sys2Proof/Machine/Sched.lean ====
section
/-! DEFINITION. Launches, crews and the scheduler (R74 to R97): readiness, the order of R84, placement, pre-emption,
resumption, lease rows, crew start, crew and launch end, and what Riura allocates. -/

namespace Sys2Proof.Machine

/-! ### Harts -/

/-- Every hart context there is. -/
def State.harts (s : State) : List Hart := (s.hart :: s.others).filter fun h => decide (h.run ≠ .idle)

/-- The hart of a number. -/
def State.hartOf (s : State) (id : Nat) : Option Hart := s.harts.find? fun h => decide (h.id = id)

/-- Changes the harts that satisfy a test. -/
def State.mapHarts (s : State) (p : Hart → Bool) (f : Hart → Hart) : State :=
  let g : Hart → Hart := fun h => if decide (h.run ≠ .idle) && p h then f h else h
  { s with hart := g s.hart, others := s.others.map g }

/-- Changes the hart of a number. -/
def State.updHart (s : State) (id : Nat) (f : Hart → Hart) : State := s.mapHarts (fun h => decide (h.id = id)) f

/-- Gives the turn to the hart of a number; unchanged when there is none. -/
def State.focus (s : State) (id : Nat) : State :=
  if s.hart.id = id then s
  else match s.others.find? fun h => decide (h.id = id) with
    | none => s
    | some h => { s with hart := h, others := s.hart :: s.others.filter fun g => decide (g.id ≠ id) }

/-- Passes the turn to the next hart. -/
def State.rotate (s : State) : State :=
  match s.others with
  | [] => s
  | h :: hs => { s with hart := h, others := hs ++ [s.hart] }

/-- Whether a context holds a slice (R74, R283). -/
def Run.resident (r : Run) : Bool :=
  match r with
  | .idle => false
  | .running => true
  | .exited => true
  | .suspended => false
  | .filling => true

/-- The harts of a crew. -/
def State.crewHarts (s : State) (cid : Nat) : List Hart := s.harts.filter fun h => decide (h.crewid.toNat = cid)

/-- The crew of a number. -/
def State.crewOf (s : State) (cid : Nat) : Option Crew := s.crews.find? fun c => decide (c.id = cid)

/-- Changes a crew. -/
def State.updCrew (s : State) (cid : Nat) (f : Crew → Crew) : State :=
  { s with crews := s.crews.map fun c => if c.id = cid then f c else c }

/-- Adds a pending event at the end of the queue. -/
def State.post (s : State) (i : Instr) (inp : Input := {}) : State := { s with events := s.events ++ [(i, inp)] }

/-- Puts a pending event before all others. -/
def State.postFront (s : State) (i : Instr) (inp : Input := {}) : State := { s with events := (i, inp) :: s.events }

/-- Puts an event among those that come about at a free later time; one that is there already stays alone. -/
def State.later (s : State) (i : Instr) (inp : Input := {}) : State :=
  if s.jobs.contains (i, inp) then s else { s with jobs := s.jobs ++ [(i, inp)] }

/-- Adds an entry to an application's error log (R81, R97, R187, R261). -/
def State.logApp (s : State) (app : Nat) (msg : List Byte) : State :=
  s.setApp app { s.app app with errlog := (s.app app).errlog ++ [msg] }

/-- What has changed in a saved context is written to its save area too, at once (R54, R259, R284). -/
def State.resave (s : State) (id : Nat) : State :=
  match s.hartOf id with
  | none => s
  | some h => if h.spilled then s.postFront .spillDone { n := id, k := 1 } else s

/-! ### Frames and virtual ranges that Riura assigns -/

/-- `x` rounded up to a multiple of `a`. -/
def roundUp (x a : Nat) : Nat := ceilDiv x a * a

/-- The first place for `size` units in [lo, hi), aligned, clear of the ranges in use, tried from `start` on (log). -/
def firstFit (lo hi size align start : Nat) (used : List (Nat × Nat)) : Option Nat :=
  (((lo + start) :: lo :: used.map Prod.snd).map fun x => roundUp x align).find? fun x =>
    decide (lo ≤ x) && decide (x + size ≤ hi) &&
      used.all fun u => decide (x + size ≤ u.1) || decide (u.2 ≤ x)

/-- The frames under a tenant's key: every mapping, every KV page, and the frames that have left an application and are still
sampled (R29, R185). -/
def State.keyedFrames (s : State) : List OldFrame :=
  (s.apps.flatMap fun a =>
    (a.2.maps.map fun m => ⟨m.pa, m.pages * 4096, a.2.tenant⟩) ++ (a.2.kv.map fun k => ⟨k.2.pa, 65536, a.2.tenant⟩)) ++ s.leaving

/-- The physical ranges in use. -/
def State.usedFrames (s : State) : List (Nat × Nat) := s.keyedFrames.map fun r => (r.pa, r.pa + r.len)

/-- Free bytes of a die's HBM4E. -/
def State.freeHbm (s : State) (d : Nat) : Nat :=
  hbmSize d - (s.usedFrames.map fun u => min u.2 (hbmBase d + hbmSize d) - max u.1 (hbmBase d)).sum

/-- Bytes assigned afresh: they read zero, hold no poison and no segment header, and no link to their lines stands (R29, R140,
R216). -/
def State.scrub (s : State) (pa len : Nat) : State :=
  let out : Nat → Bool := fun a => decide (a < pa) || decide (pa + len ≤ a)
  { s with
    mem := s.mem.filter fun c => out c.1,
    poison := s.poison.filter fun g => out (g.1 * 64),
    segHdr := s.segHdr.filter fun g => out g.1,
    hdrPoison := s.hdrPoison.filter fun g => out g.1,
    hart := s.hart.cutLinks pa len true,
    others := s.others.map fun h => h.cutLinks pa len true }

/-- Whether some hart holds a sample of bytes of a frame. -/
def State.isSampled (s : State) (pa len : Nat) : Bool :=
  s.sampledFrames.any fun u => decide (u.1 < pa + len) && decide (pa < u.2)

/-- A frame leaves an application: its contents are erased, at once or when its last sample closes (R29, R185, R187). -/
def State.release (s : State) (r : OldFrame) : State :=
  if s.isSampled r.pa r.len then { s with leaving := s.leaving ++ [r] } else s.scrub r.pa r.len

/-- The frames of a list of regions leave an application of a tenant. -/
def State.releaseMaps (s : State) (tenant : Nat) (ms : List Mapping) : State :=
  ms.foldl (fun t m => t.release ⟨m.pa, m.pages * 4096, tenant⟩) s

/-- A frame that has left, erased if it is no longer sampled. -/
def State.reapOne (s : State) (r : OldFrame) : State :=
  if s.isSampled r.pa r.len then s else { s.scrub r.pa r.len with leaving := s.leaving.filter fun q => decide (q ≠ r) }

/-- Every frame that has left and is no longer sampled is erased and free again. -/
def State.reap (s : State) : State := s.leaving.foldl State.reapOne s

/-- Takes `size` bytes of frames in [lo, lo + len). -/
def State.takeFrames (s0 : State) (lo len size align : Nat) : Option (Nat × State) :=
  let s := s0.reap
  match firstFit lo (lo + len) size align (Config.frameHint s.tick % (len / 2 + 1) / align * align) s.usedFrames with
  | none => none
  | some pa => some (pa, { s.scrub pa size with tick := s.tick + 1 })

/-- The virtual ranges of an application in use, its windows among them. -/
def App.usedVa (a : App) : List (Nat × Nat) :=
  (a.maps.map fun m => (m.va, m.va + m.pages * 4096)) ++
  (if a.kvwin = 0 then [] else [(a.kvwin, a.kvwin + kvBytes)]) ++
  (if a.wsWin = 0 then [] else [(a.wsWin, a.wsWin + 2 ^ 31)])

/-- A virtual range of Riura's choice, never below 2 MiB (R48, R183). -/
def State.pickVa (s : State) (app size align : Nat) : Option Nat :=
  firstFit (2 ^ 21) (2 ^ 56) size align (Config.vaHint s.tick % 2 ^ 50 / align * align) (s.app app).usedVa

/-- The die with the most free HBM4E, the lowest on a tie (R183). -/
def State.roomiestDie (s : State) : Nat :=
  [1, 2, 3].foldl (fun d e => if s.freeHbm d < s.freeHbm e then e else d) 0

/-! ### Readiness (R83) -/

/-- The launch of an ID. -/
def App.launch (a : App) (lid : Nat) : Option Launch := a.launches.find? fun l => decide (l.lid = lid)

/-- Changes a launch. -/
def State.updLaunch (s : State) (app lid : Nat) (f : Launch → Launch) : State :=
  s.setApp app { s.app app with launches := (s.app app).launches.map fun l => if l.lid = lid then f l else l }

/-- Whether a dependence is satisfied (R83). -/
def App.satisfied (a : App) (d : Dep) : Bool :=
  match a.launch d.lid with
  | none => true
  | some l => l.ended.isSome || (d.afterStart && decide (l.issued = l.units))

/-- Whether a launch is ready and has work units to place. -/
def App.ready (a : App) (l : Launch) : Bool :=
  l.ended.isNone && decide (l.issued < l.limit) && l.deps.all a.satisfied

/-- The ready launches of a tenant and class over all slots, earliest accepted first: (slot, launch). -/
def State.readyOf (s : State) (tenant cls : Nat) : List (Nat × Launch) :=
  let all := s.apps.flatMap fun a =>
    if a.2.tenant = tenant then
      ((a.2.launches.filter fun l => decide (l.prio = cls) && a.2.ready l).map fun l => (a.1, l))
    else []
  sortBy (fun x y => decide (x.2.accept ≤ y.2.accept)) all

/-! ### Placement (R85 to R87, R263, R433) -/

/-- What a crew needs of its slices. -/
structure Need where
  app : Nat
  lid : Nat
  cls : Nat
  size : Nat
  /-- log2 of the least grant in units of 64 bytes -/
  least : Nat
  kernel : KInfo
  cluster : Nat
  quad : Bool
deriving DecidableEq, Repr

/-- The lease row of a core. -/
def State.lease (s : State) (c : Nat) : Lease := mget {} s.leases c

/-- Sets a lease row. -/
def State.setLease (s : State) (c : Nat) (l : Lease) : State := { s with leases := mset {} s.leases c l }

/-- The resident harts of a core, those of the crews in `x` left out. -/
def State.onCore (s : State) (x : List Nat) (c : Nat) : List Hart :=
  s.harts.filter fun h => h.run.resident && decide (h.core = c) && !x.contains h.crewid.toNat

/-- Whether a cut provides every tile of a kernel (R85). -/
def cutHolds (k : KInfo) (cut : Nat) : Bool := decide (k.tiles < 2 ^ (8 / cut))

/-- The largest cut whose grant is at least the least and that holds the tiles (R87). -/
def Need.cut (n : Need) : Nat :=
  let most := 4 / 2 ^ n.least
  if cutHolds n.kernel most then most
  else if cutHolds n.kernel (most / 2) ∧ 1 ≤ most / 2 then most / 2
  else 1

/-- Whether a core may hold the crew at all: its cluster (R75) and the confinement set (R433). -/
def State.coreAllowed (s : State) (n : Need) (c : Nat) : Bool :=
  (match n.cluster with
   | 1 => decide (c < 160)
   | 2 => decide (160 ≤ c)
   | _ => true) &&
  (match (s.app n.app).confine with
   | none => true
   | some cs => cs.contains c)

/-- Whether a placement takes slice j of core c as the core is cut, or the core from it by another cut. -/
def takesSlice (slots : List (Nat × Nat × Nat)) (c j cut : Nat) : Bool :=
  slots.any fun t => decide (t.1 = c) && (decide (t.2.2 ≠ cut) || decide (t.2.1 = j))

/-- Whether a slice is kept for another launch of the same class or a higher one, which a pre-emption under way will place there
(R84, R91). -/
def State.keptFrom (s : State) (n : Need) (c j cut : Nat) : Bool :=
  s.reserves.any fun r => !(decide (r.app = n.app) && decide (r.lid = n.lid)) && decide (n.cls ≤ r.cls) && takesSlice r.slots c j cut

/-- Whether any slice of a core is kept for another launch. -/
def State.coreKept (s : State) (n : Need) (c : Nat) : Bool := s.keptFrom n c 0 0

/-- The free slices of a core under its present cut: for crews of the launch that holds the core, and for any suspended crew
(`resume`; R87, R93). -/
def State.openSlices (s : State) (x : List Nat) (resume : Bool) (n : Need) (c : Nat) : List (Nat × Nat × Nat) :=
  let row := s.lease c
  let hs := s.onCore x c
  if s.coreAllowed n c && decide (row.st = .held) && (resume || (decide (row.app = n.app) && decide (row.lid = n.lid)))
      && cutHolds n.kernel row.cut then
    ((List.range row.cut).filter fun j => hs.all (fun h => decide (h.slice ≠ j)) && !s.keptFrom n c j row.cut).map
      fun j => (c, j, row.cut)
  else []

/-- Whether a core is empty and may be cut afresh for the crew (R87, R90); `resume` for a suspended crew. -/
def State.emptyFor (s : State) (x : List Nat) (resume : Bool) (n : Need) (c : Nat) : Bool :=
  let row := s.lease c
  s.coreAllowed n c && (s.onCore x c).isEmpty && !s.coreKept n c &&
    match row.st with
    | .free => true
    | .filling => false
    | .ready => true
    | .held => resume || (decide (row.app = n.app) && decide (row.lid = n.lid))
        || !(s.onCore [] c).isEmpty

/-- Whether a core may take a cut: its own, or any while no context, swapped out and still being spilled, holds a bank of
it (R87, R283). -/
def State.mayCut (s : State) (c cut : Nat) : Bool :=
  decide ((s.lease c).cut = cut) || !s.harts.any fun h => h.bank.any fun b => decide (b.1 = c)

/-- The slices of a core that carry a grant of 64 × 2^g bytes; `fresh` admits empty cores. -/
def State.slicesAt (s : State) (x : List Nat) (resume : Bool) (n : Need) (g : Nat) (fresh : Bool) (c : Nat) :
    List (Nat × Nat × Nat) :=
  let cut := 4 / 2 ^ g
  let op := (s.openSlices x resume n c).filter fun t => decide (t.2.2 = cut)
  if !op.isEmpty then op
  else if fresh && s.emptyFor x resume n c && s.mayCut c cut && cutHolds n.kernel cut then
    (List.range cut).map fun j => (c, j, cut)
  else []

/-- The claim shares of a polder in use by crews not in `x` (R263). -/
def State.sharesHeld (s : State) (x : List Nat) (p : Nat) : List Nat :=
  (s.crews.filter fun c => c.share.isSome && !x.contains c.id &&
    (s.crewHarts c.id).any fun h => h.run.resident && decide (polderOfCore h.core = p)).map Crew.shareIdx

/-- The lowest claim share of a polder that is free. -/
def State.freeShare (s : State) (p : Nat) : Nat := ((List.range 8).find? fun i => !(s.sharesHeld [] p).contains i).getD 0

/-- Whether the polder meets the share condition of a kernel that requires WAVE. -/
def State.shareFree (s : State) (x : List Nat) (n : Need) (p : Nat) : Bool :=
  !n.kernel.feats.getLsbD 6 || decide ((s.sharesHeld x p).length < 8)

/-- The cores of each polder, in the order in which R87 takes them. -/
def polderCores : List (List Nat) := (List.range 32).map fun p => (List.range 8).map fun k => 8 * p + k

/-- A placement on the cores of one polder at one preference. -/
def State.placeOn (s : State) (x : List Nat) (resume : Bool) (n : Need) (g : Nat) (fresh : Bool) (cs : List Nat) :
    Option (List (Nat × Nat × Nat)) :=
  if !s.shareFree x n (polderOfCore (cs.headD 0)) then none
  else
    let sl := cs.flatMap (s.slicesAt x resume n g fresh)
    if n.size ≤ sl.length then some (sl.take n.size) else none

/-- A quad among the cores of a polder (R86). -/
def State.quadOn (s : State) (x : List Nat) (resume : Bool) (n : Need) (cs : List Nat) : Option (List (Nat × Nat × Nat)) :=
  if !s.shareFree x n (polderOfCore (cs.headD 0)) then none
  else
    ((cs.filter fun c => decide (c % 4 = 0)).find? fun c =>
      (List.range 4).all fun i => s.emptyFor x resume n (c + i) && s.mayCut (c + i) 1).map fun c =>
      (List.range 4).map fun i => (c + i, 0, 1)

/-- The first placement in the preferences of R87, over the cores of some polders: slices at the least grant, at larger
grants, then empty cores. -/
def State.findPlaceIn (s : State) (ps : List (List Nat)) (x : List Nat) (resume : Bool) (n : Need) :
    Option (List (Nat × Nat × Nat)) :=
  if n.quad then ps.findSome? (s.quadOn x resume n)
  else
    let gs := (List.range 3).filter fun g => decide (n.least ≤ g)
    match gs.findSome? fun g => ps.findSome? (s.placeOn x resume n g false) with
    | some r => some r
    | none =>
      let g := match n.cut with
        | 1 => 2
        | 2 => 1
        | _ => 0
      ps.findSome? (s.placeOn x resume n g true)

/-- The first placement anywhere. -/
def State.findPlace (s : State) (x : List Nat) (resume : Bool) (n : Need) : Option (List (Nat × Nat × Nat)) :=
  s.findPlaceIn polderCores x resume n

/-- What a launch's next crew needs. -/
def needOf (app : Nat) (l : Launch) : Need :=
  ⟨app, l.lid, l.prio, l.crew, l.vlgmin, l.kernel, l.cluster, l.quad⟩

/-- What a suspended crew needs: the grant it held at suspension (R93). -/
def needOfCrew (c : Crew) : Need :=
  ⟨c.app, c.lid, c.cls, c.size, (if c.grant = 64 then 0 else if c.grant = 128 then 1 else 2), c.kernel, c.cluster, c.quad⟩

/-- The launches a launch depends on, directly or through others, by `k` rounds (R91). -/
def App.producers (a : App) : Nat → List Nat → List Nat
  | 0, ls => ls
  | k + 1, ls =>
    a.producers k (distinct (ls ++ (a.launches.filter fun l => ls.contains l.lid).flatMap fun l => l.deps.map Dep.lid) [])

/-- Whether a suspended crew of an AFTER_START producer still waits to resume (R95). -/
def State.producerSuspended (s : State) (app : Nat) (l : Launch) : Bool :=
  l.deps.any fun d => d.afterStart && s.crews.any fun c =>
    c.suspended && decide (c.app = app) && decide (c.lid = d.lid)

/-- Whether a slice can take a hart of a new crew now. -/
def State.slotClear (s : State) (n : Need) (t : Nat × Nat × Nat) : Bool :=
  (s.openSlices [] false n t.1).contains t || (s.emptyFor [] false n t.1 && s.mayCut t.1 t.2.2)

/-- The slices kept for a launch. -/
def State.keptFor (s : State) (app lid : Nat) : Option (List (Nat × Nat × Nat)) :=
  (s.reserves.find? fun r => decide (r.app = app) && decide (r.lid = lid)).map Reserve.slots

/-- Where the next crew of a launch can be placed now: on the slices kept for it, once all are clear and the polder has a claim
share where one is needed (R263), else by R87. -/
def State.placeFor (s : State) (app : Nat) (l : Launch) : Option (List (Nat × Nat × Nat)) :=
  if s.producerSuspended app l then none
  else match s.keptFor app l.lid with
    | some sl =>
      if sl.all (s.slotClear (needOf app l)) && s.shareFree [] (needOf app l) (polderOfCore ((sl.head?.map Prod.fst).getD 0)) then some sl
      else none
    | none => s.findPlace [] false (needOf app l)

/-- Every choice of `n` elements, in order. -/
def choose {α : Type} : Nat → List α → List (List α)
  | 0, _ => [[]]
  | _ + 1, [] => []
  | n + 1, x :: xs => (choose n xs).map (x :: ·) ++ choose (n + 1) xs

/-- The crews a ready crew may displace on a polder: resident, of a class at most `k`, not of a launch it depends on,
most recently placed first (R91). -/
def State.displaceable (s : State) (app : Nat) (l : Launch) (k p : Nat) : List Crew :=
  let deps := (s.app app).producers (s.app app).launches.length (l.deps.map Dep.lid)
  sortBy (fun a b => decide (b.placed ≤ a.placed))
    (s.crews.filter fun c => !c.suspended && decide (c.cls ≤ k) && !(decide (c.app = app) && deps.contains c.lid) &&
      (s.crewHarts c.id).any fun h => decide (polderOfCore h.core = p))

/-- What a displacement comes to: the crews, and the placement they give way to. -/
structure Displace where
  crews : List Nat
  slots : List (Nat × Nat × Nat)
deriving DecidableEq, Repr

/-- The first choice of `n` crews of a polder, most recent first, whose displacement makes room, with the latest of their
placements (R91). -/
def State.displaceOn (s : State) (app : Nat) (l : Launch) (k n p : Nat) : Option (Nat × Displace) :=
  (choose n (s.displaceable app l k p)).findSome? fun cs =>
    (s.findPlace (cs.map Crew.id) false (needOf app l)).map fun sl =>
      ((cs.map Crew.placed).foldl max 0, ⟨cs.map Crew.id, sl⟩)

/-- The displacement for a launch's next crew, by the criteria of R91 in order; none when none serves, or while the one chosen
for this launch is under way. -/
def State.preemptFor (s : State) (app : Nat) (l : Launch) : Option Displace :=
  if (s.keptFor app l.lid).isSome || s.producerSuspended app l then none
  else
    (List.range l.prio).findSome? fun k =>
      ((List.range 32).map (· + 1)).findSome? fun n =>
        (((List.range 32).filterMap (s.displaceOn app l k n)).foldl (fun b x =>
          match b with
          | none => some x
          | some y => if y.1 < x.1 then some x else some y) none).map Prod.snd

/-! ### The order of R84 -/

/-- A hart's thread block and stack, mapped read and write: the address of the block, and the pages. -/
def State.giveBlock (s : State) (app stackKiB : Nat) : Option (Nat × Nat × State) :=
  let pages := ceilDiv (64 + stackKiB * 1024) 4096
  let d := s.roomiestDie
  match s.takeFrames (hbmBase d) (hbmSize d) (pages * 4096) 4096 with
  | none => none
  | some (pa, s1) =>
    match s1.pickVa app (pages * 4096) 4096 with
    | none => none
    | some va =>
      some (va, pages, s1.setApp app { s1.app app with
        maps := (s1.app app).maps ++ [{ va := va, pages := pages, pa := pa, attr := attrOf 0x3F true true false,
                                        kind := .tier1, range := false, pageLog := 12, migr := none }] })

/-- Thread blocks and stacks for `n` harts, one after another; none where one finds no frame or no virtual range. -/
def State.giveBlocks (s : State) (app stackKiB : Nat) : Nat → Option State
  | 0 => some s
  | n + 1 => (s.giveBlock app stackKiB).bind fun r => r.2.2.giveBlocks app stackKiB n

/-- Whether the harts of a launch's next crew find thread blocks and stacks. -/
def State.blocksFor (s : State) (app : Nat) (l : Launch) : Bool := (s.giveBlocks app l.stack l.crew).isSome

/-- The ready launches whose next work unit cannot be placed for want of memory for its blocks: slot and launch. R85 names no such
condition; the unit waits like one that finds no slices (log). -/
def State.blocked (s : State) : List (Nat × Nat) :=
  s.apps.flatMap fun a => (a.2.launches.filter fun l => a.2.ready l && !s.blocksFor a.1 l).map fun l => (a.1, l.lid)

/-- What the scheduler does next. -/
inductive Pick where
  | resume (crew : Nat) (at_ : List (Nat × Nat × Nat))
  | place (app lid : Nat) (at_ : List (Nat × Nat × Nat))
  | preempt (app lid : Nat) (d : Displace)
deriving DecidableEq, Repr

/-- Slices that a tenant's resident crews of a class hold. -/
def State.slicesHeld (s : State) (tenant cls : Nat) : Nat :=
  (s.crews.filter fun c => !c.suspended && decide (c.cls = cls) && decide ((s.app c.app).tenant = tenant)).foldl
    (fun n c => n + c.size) 0

/-- The record of a tenant. -/
def State.tenantOf (s : State) (t : Nat) : Tenant := mget {} s.tenants t

/-- The tenants in the order in which a class serves them: lowest ratio of slices to core share, then lowest number. -/
def State.tenantOrder (s : State) (cls : Nat) : List Nat :=
  sortBy (fun a b =>
    let x := s.slicesHeld a cls * (s.tenantOf b).coreSh
    let y := s.slicesHeld b cls * (s.tenantOf a).coreSh
    decide (x < y) || (decide (x = y) && decide (a ≤ b))) (List.range 64)

/-- Whether every hart of a suspended crew may resume: none held back by the debugger's crew hold (R276). -/
def Crew.mayResume (c : Crew) : Bool := c.suspended

/-- A tenant's suspended crews of a class that can resume now, first placed first. -/
def State.resumable (s : State) (tenant cls : Nat) : Option Pick :=
  let cs := sortBy (fun a b => decide (a.placed ≤ b.placed))
    (s.crews.filter fun c => c.mayResume && decide (c.cls = cls) && decide ((s.app c.app).tenant = tenant))
  cs.findSome? fun c => (s.findPlace [] true (needOfCrew c)).map fun r => .resume c.id r

/-- What one tenant and class offer, units of the launches in `blocked` apart. -/
def State.pickOf (s : State) (blocked : List (Nat × Nat)) (tenant cls : Nat) : Option Pick :=
  match s.resumable tenant cls with
  | some p => some p
  | none =>
    match s.readyOf tenant cls with
    | [] => none
    | (app, l) :: _ =>
      if blocked.contains (app, l.lid) then none
      else match s.placeFor app l with
      | some r => some (.place app l.lid r)
      | none => (s.preemptFor app l).map fun d => .preempt app l.lid d

/-- The scheduler's next action (R84), units of the launches in `blocked` apart: classes from 3 down, tenants in order. -/
def State.pickWith (s : State) (blocked : List (Nat × Nat)) : Option Pick :=
  [3, 2, 1, 0].findSome? fun cls => (s.tenantOrder cls).findSome? fun t => s.pickOf blocked t cls

/-- The scheduler's next action. -/
def State.pick (s : State) : Option Pick := s.pickWith s.blocked

/-- The launch that R84 names next among those that may use a core: slot and launch. -/
def State.nextFor (s : State) (c : Nat) : Option (Nat × Launch) :=
  [3, 2, 1, 0].findSome? fun cls => (s.tenantOrder cls).findSome? fun t =>
    (s.readyOf t cls).head?.bind fun r => if s.coreAllowed (needOf r.1 r.2) c then some r else none

/-! ### Lease rows (R89, R90) -/

/-- A row set FILLING for a launch, with the loader's event. -/
def State.fillRow (s : State) (c : Nat) (app : Nat) (l : Launch) : State :=
  (s.setLease c { s.lease c with st := .filling, lid := l.lid, app := app }).later .leaseFillDone { n := c }

/-- Whether a launch still has work units to place. -/
def App.unissued (a : App) (lid : Nat) : Bool := (a.launch lid).any a.ready

/-- Whether a launch has neither ended nor been cancelled. -/
def App.stands (a : App) (lid : Nat) : Bool := (a.launch lid).any fun l => l.ended.isNone && !l.cancelled

/-- The row of a core that no crew holds and that its launch no longer needs: FILLING for the launch that R84 names next for
it, or FREE if none (R90). -/
def State.giveRow (s : State) (c : Nat) : State :=
  match s.nextFor c with
  | some r => s.fillRow c r.1 r.2
  | none => s.setLease c { s.lease c with st := .free, lid := 0, app := 0 }

/-- Whether a core is kept for a pre-emption under way. -/
def State.reservedCore (s : State) (c : Nat) : Bool := s.reserves.any fun r => r.slots.any fun t => decide (t.1 = c)

/-- A row that has changed because a launch became ready, ended, was cancelled or was issued in full (R90): a FILLING or
READY row goes to a launch of a higher class; a READY row whose launch has ended or was cancelled is free; a HELD row without
a crew, whose launch has no work unit left to place there, is given on. -/
def State.refreshRow (s : State) (c : Nat) : State :=
  let row := s.lease c
  let a := s.app row.app
  let higher := (s.nextFor c).filter fun r => decide (((a.launch row.lid).map Launch.prio).getD 0 < r.2.prio)
  match row.st with
  | .free => s
  | .held =>
    if !(s.onCore [] c).isEmpty || s.reservedCore c || a.unissued row.lid then s else s.giveRow c
  | .filling =>
    match higher with
    | some r => s.fillRow c r.1 r.2
    | none => s
  | .ready =>
    if !a.stands row.lid then s.setLease c { row with st := .free, lid := 0, app := 0 }
    else match higher with
      | some r => s.fillRow c r.1 r.2
      | none => s

/-- Every row refreshed. -/
def State.refreshRows (s : State) : State := (s.leases.map Prod.fst).foldl State.refreshRow s

/-- The crews that are to swap. -/
def State.swapping (s : State) : List Nat := distinct ((s.harts.filter fun h => h.swapReq).map fun h => h.crewid.toNat) []

/-- Whether the pre-emption for which slices are kept still stands: its launch is ready, the polder has a claim share for it where
it needs one, its crew finds memory, and every slice is clear of crews but those that are to swap. -/
def State.reserveStands (s : State) (r : Reserve) : Bool :=
  ((s.app r.app).launch r.lid).any fun l => (s.app r.app).ready l && !s.producerSuspended r.app l &&
    s.blocksFor r.app l && s.shareFree s.swapping (needOf r.app l) (polderOfCore ((r.slots.head?.map Prod.fst).getD 0)) &&
    r.slots.all fun t => s.coreAllowed (needOf r.app l) t.1 &&
      (s.onCore [] t.1).all fun h =>
        h.swapReq || (decide (h.cut = t.2.2) && decide (h.slice ≠ t.2.1) && decide (h.launchid.toNat = r.lid) && decide (h.app = r.app))

/-- The slices kept for a pre-emption that no longer stands are given up. -/
def State.dropReserve (s : State) : State := { s with reserves := s.reserves.filter s.reserveStands }

/-- Slices kept for a launch; what they meet of other pre-emptions, of lower classes, is given up. -/
def State.keepSlots (s : State) (r : Reserve) : State :=
  { s with reserves := (s.reserves.filter fun q => !r.slots.any fun t => takesSlice q.slots t.1 t.2.1 t.2.2) ++ [r] }

/-- A launch's kept slices are taken. -/
def State.takeKept (s : State) (app lid : Nat) : State :=
  { s with reserves := s.reserves.filter fun r => !(decide (r.app = app) && decide (r.lid = lid)) }

/-- The scheduler looks for work: its possible actions become pending, and the one that R84 names will act. -/
def State.kick (s : State) : State :=
  ((s.dropReserve.refreshRows.later .crewResume).later .schedulerPlaceCrew).later .schedulerPreempt

/-! ### Planes from memory (R75, R231, R233) -/

/-- `n` bytes from `va` up through a translation, or the fault of the first byte that has one and its offset. -/
def State.readSpan (s : State) (tr : Nat → Option Xlat) (va : Nat) : Nat → Nat → Except (MemFault × Nat) (List Nat)
  | 0, _ => .ok []
  | n + 1, k =>
    match s.forLoad (tr (va % 2 ^ 64)) with
    | .error e => .error (e, k)
    | .ok x =>
      match s.readImage x (va % 2 ^ 64) 1 with
      | .error e => .error (e, k)
      | .ok b =>
        match s.readSpan tr (va + 1) n (k + 1) with
        | .error e => .error e
        | .ok bs => .ok (b :: bs)

/-- A field of `n` bytes as a number, or its fault: poison only where no byte has another fault, poison's cause having the highest
code (R274). -/
def State.readElem (s : State) (tr : Nat → Option Xlat) (va n : Nat) : Except MemFault Nat :=
  match s.readSpan tr va n 0 with
  | .ok bs => .ok (leNat bs)
  | .error e => .error (((List.range n).findSome? fun k =>
      match s.readSpan tr (va + k) 1 0 with
      | .ok _ => none
      | .error f => if f.1 = .poison then none else some f.1).getD e.1)

/-- The bytes of a plane's row (R75). -/
def rowBytes (f : Fmt) : Nat := 96 * f.bits / 8

/-- A fault met while a plane is loaded: why, the element index k × 96 + j, and the address of the element or scale. -/
abbrev PlaneFault := MemFault × Nat × Nat

/-- Rows k, k + 1, … of a plane into a map, stopping at the first fault: the rows, and the fault. No address counts as misaligned
(log). -/
def State.planeRows (s : State) (tr : Nat → Option Xlat) (f : Fmt) (addr stride : Nat) :
    Nat → Nat → List (Nat × BitVec 3072) → List (Nat × BitVec 3072) × Option PlaneFault
  | 0, _, m => (m, none)
  | n + 1, k, m =>
    match s.readSpan tr (addr + k * stride) (rowBytes f) 0 with
    | .error e =>
      let j := e.2 * 8 / f.bits
      let va := addr + k * stride + j * f.bits / 8
      let why := match s.readElem tr va (max 1 (f.bits / 8)) with
        | .error q => q
        | .ok _ => e.1
      (m, some (why, k * 96 + j, va % 2 ^ 64))
    | .ok bs => s.planeRows tr f addr stride n (k + 1) (mset 0 m k (BitVec.ofNat 3072 (leNat bs)))

/-- Scale rows of a plane: 96 bytes for each block of 32 rows. -/
def State.planeScales (s : State) (tr : Nat → Option Xlat) (addr : Nat) :
    Nat → Nat → List (Nat × BitVec 768) → List (Nat × BitVec 768) × Option PlaneFault
  | 0, _, m => (m, none)
  | n + 1, g, m =>
    match s.readSpan tr (addr + g * 96) 96 0 with
    | .error e => (m, some (e.1, g * 32 * 96 + e.2, (addr + g * 96 + e.2) % 2 ^ 64))
    | .ok bs => s.planeScales tr addr n (g + 1) (mset 0 m g (BitVec.ofNat 768 (leNat bs)))

/-- The pages that may hold plane elements of a format (R412): without scales, not encoded, untyped or of that format. -/
def planePage (f : Fmt) (x : Option Xlat) : Option Xlat :=
  x.filter fun y => decide (attrBlk y.attr = 0) && !y.encoded && decide (y.effFmt f = f)

/-- A plane loaded from memory, and its first fault: rows before it are loaded, the rest reads zero (R231, R233); of an element and
its scale the fault of the lower code counts (R274). The row count recorded is the one asked for, after a fault too (log). -/
def State.loadPlane (s : State) (tr : Nat → Option Xlat) (f : Fmt) (rows addr stride scales : Nat) :
    Plane × Option PlaneFault :=
  let r := s.planeRows (fun va => planePage f (tr va)) f addr stride rows 0 []
  let sc := if f.isMx then s.planeScales tr scales (ceilDiv rows 32) 0 [] else ([], none)
  let flt := match r.2, sc.2 with
    | none, x => x
    | some a, none => some a
    | some a, some b =>
      if b.2.1 < a.2.1 || (decide (b.2.1 = a.2.1) && decide (a.1 = .poison) && decide (b.1 ≠ .poison)) then some b else some a
  let keep := match flt with
    | none => rows
    | some e => e.2.1 / 96
  ({ fmt := some f, rows := keep,
     data := r.1.filter fun x => decide (x.1 < keep),
     scales := sc.1.filter fun x => decide (x.1 * 32 < keep),
     src := some ⟨BitVec.ofNat 64 addr, BitVec.ofNat 64 stride, BitVec.ofNat 64 scales, rows⟩ }, flt)

/-- The plane a launch preloads (R75, R88, R97): a faulting row and those after it read zero, and the fault is logged. -/
def State.preload (s : State) (app : Nat) (core : Nat) (l : Launch) : Plane × State :=
  match Fmt.ofCode l.plfmt with
  | none => ({}, s)
  | some f =>
    if l.plane = 0 then ({}, s)
    else
      let w : Who := ⟨dieOfCore core, if core < 160 then .p else .g⟩
      let r := s.loadPlane ((s.app app).lookup w) f l.plk l.plane.toNat (rowBytes f) (l.plane.toNat + l.plk * rowBytes f)
      (r.1, match r.2 with
        | none => s
        | some _ => s.logApp app [1])

/-- The constant block in force (R58, R88). -/
def constBlock (a : App) (l : Launch) : Word :=
  if l.const ≠ 0 then l.const
  else if l.kernel.cblen = 0 then 0 else BitVec.ofNat 64 (a.kconst + l.kernel.cboff)

/-- The bytes of a range that can be read before the first that cannot. -/
def State.readPrefix (s : State) (app : Nat) (w : Who) (va : Nat) : Nat → List Nat
  | 0 => []
  | n + 1 =>
    match s.readByteFor app w va with
    | .error _ => []
    | .ok b => b :: s.readPrefix app w (va + 1) n

/-- What the loader copies of a constant block: the length that .kinfo gives, else 4,096 bytes (log). -/
def State.constBytes (s : State) (app core : Nat) (l : Launch) : List Byte :=
  let a := constBlock (s.app app) l
  if a = 0 then []
  else (s.readPrefix app ⟨dieOfCore core, if core < 160 then .p else .g⟩ a.toNat (if l.const ≠ 0 then 4096 else l.kernel.cblen)).map
    (BitVec.ofNat 8)

/-- The 32 instruction lines that begin with the one that holds the kernel entry, fewer where .text ends first (R90). -/
def codeLines (a : App) (l : Launch) : List Nat :=
  let first := (a.text + l.kernel.entry) / 512
  ((List.range 32).map fun i => first + i).filter fun n => decide (n * 512 < a.text + a.textLen)

/-- The loader's fill of a core's row (R90, R97): the instruction lines, the constant block and the preload plane. -/
def State.fillLease (s : State) (c : Nat) : State :=
  let row := s.lease c
  match (s.app row.app).launch row.lid with
  | none => s.setLease c { row with st := .ready }
  | some l =>
    let r := s.preload row.app c l
    r.2.setLease c { row with st := .ready, plane := r.1, code := codeLines (s.app row.app) l,
                              const := s.constBytes row.app c l }

/-! ### Crew start (R88) -/

/-- The state a hart of a new crew begins with (R88, R116). -/
def startHart (s : State) (app : Nat) (l : Launch) (cid unit rank id va : Nat) (pl : Plane) (pages : Nat)
    (slot : Nat × Nat × Nat) : Hart :=
  let a := s.app app
  let top := va + pages * 4096
  let grant := 256 / slot.2.2
  { id := id, run := .running, core := slot.1, slice := slot.2.1, cut := slot.2.2, app := app,
    wspan := l.kernel.wspan, tilesUsed := l.kernel.tiles,
    pc := BitVec.ofNat 64 (a.text + l.kernel.entry),
    x := [(2, if l.stack = 0 then (0 : Word) else BitVec.ofNat 64 (top / 16 * 16)), (3, BitVec.ofNat 64 a.got),
          (4, BitVec.ofNat 64 va), (16, l.args), (17, constBlock a l)].foldl
            (fun m r => mset (0 : Word) m r.1 r.2) [],
    shadow := pl, vlgrant := grant, newGrant := grant,
    crewid := BitVec.ofNat 32 cid, crewrank := BitVec.ofNat 5 rank, crewn := BitVec.ofNat 6 l.crew,
    unitid := BitVec.ofNat 24 unit, unitn := BitVec.ofNat 24 l.units, launchid := BitVec.ofNat 32 l.lid,
    tenant := BitVec.ofNat 6 a.tenant, featmask := (s.tenantOf a.tenant).featmask,
    block := va, blockPages := pages }

/-- Puts a new context among the harts. -/
def State.addHart (s : State) (h : Hart) : State :=
  if s.hart.run = .idle then { s with hart := h } else { s with others := s.others ++ [h] }

/-- Whether a core is READY for a launch. -/
def State.filledFor (s : State) (app lid core : Nat) : Bool :=
  let row := s.lease core
  decide (row.st = .ready) && decide (row.app = app) && decide (row.lid = lid)

/-- The shadow plane of a new crew's hart: the one that the loader has copied to a core READY for its launch, else one read
now (R88, R90). -/
def State.firstPlane (s : State) (app core : Nat) (l : Launch) : Plane × State :=
  if s.filledFor app l.lid core then ((s.lease core).plane, s) else s.preload app core l

/-- The row of a core on which a new crew is placed (R90). -/
def State.holdRow (s : State) (app lid : Nat) (sl : Nat × Nat × Nat) : State :=
  if s.filledFor app lid sl.1 then s.setLease sl.1 { s.lease sl.1 with st := .held, cut := sl.2.2, plane := {} }
  else s.setLease sl.1 { st := .held, cut := sl.2.2, lid := lid, app := app }

/-- The harts of a new crew on their slices, from rank `rank` on; none when a block cannot be had. -/
def State.startHarts (s : State) (app : Nat) (l : Launch) (cid unit : Nat) : Nat → List (Nat × Nat × Nat) → Option State
  | _, [] => some s
  | rank, sl :: sls =>
    match s.giveBlock app l.stack with
    | none => none
    | some (va, pages, s1) =>
      let pr := s1.firstPlane app sl.1 l
      let h := startHart pr.2 app l cid unit rank pr.2.nextHart va pr.1 pages sl
      let s2 := ({ pr.2 with nextHart := pr.2.nextHart + 1 } : State).addHart h
      (s2.holdRow app l.lid sl).startHarts app l cid unit (rank + 1) sls

/-- Places the next crew of a launch (R84, R85, R88, R90); nothing where its thread blocks and stacks find no memory. -/
def State.placeCrew (s : State) (app lid : Nat) (slots : List (Nat × Nat × Nat)) : State :=
  match (s.app app).launch lid with
  | none => s
  | some l =>
    let cid := (s.nextCrew + Config.crewIdBase.toNat) % 2 ^ 32
    match s.startHarts app l cid l.issued 0 slots with
    | none => s
    | some s1 =>
      let c : Crew := { id := cid, app := app, lid := lid, unit := l.issued, size := l.crew, cls := l.prio, quad := l.quad,
                        grant := 256 / ((slots.head?.map fun t => t.2.2).getD 1), cluster := l.cluster, kernel := l.kernel,
                        share := if l.kernel.feats.getLsbD 6 then some {} else none,
                        shareIdx := s.freeShare (polderOfCore ((slots.head?.map Prod.fst).getD 0)),
                        placed := s1.nextPlaced, suspended := false, debugHeld := false }
      let s2 : State := { s1 with crews := s1.crews ++ [c], nextCrew := s1.nextCrew + 1, nextPlaced := s1.nextPlaced + 1 }
      ((s2.takeKept app lid).updLaunch app lid fun k => { k with issued := k.issued + 1 }).kick

/-! ### Resumption (R93, R94, R283, R284, R288) -/

/-- A hart context that resumes on a slice: a strip opens, links and prefetched elements are gone, the wake latch is set. -/
def Hart.resumeOn (h : Hart) (sl : Nat × Nat × Nat) (fill busy : Bool) : Hart :=
  { h with run := if fill then .filling else .running, core := sl.1, slice := sl.2.1, cut := sl.2.2,
           newGrant := 256 / sl.2.2, strip := h.strip + 1, samples := [], links := [], wake := true, drain := busy,
           saveAt := if fill then h.saveAt else none, bank := if fill then h.bank else none }

/-- The instruction-cache lines that the other resident harts of a core hold locked (R287). -/
def State.locksBeside (s : State) (core id : Nat) : List Nat :=
  distinct ((s.harts.filter fun g => g.run.resident && decide (g.core = core) && decide (g.id ≠ id)).flatMap Hart.locks) []

/-- The lines a hart holds after it has locked a list in order: the core holds at most 64, and a line that cannot be fetched
is left out (R287, R327). -/
def State.lockLines (s : State) (h : Hart) (beside : List Nat) : List Nat → List Nat → List Nat
  | [], own => own
  | l :: ls, own =>
    if 64 ≤ (distinct (beside ++ own) []).length then own
    else if own.contains l then s.lockLines h beside ls own
    else if beside.contains l || s.lineFetchable h l then s.lockLines h beside ls (own ++ [l])
    else s.lockLines h beside ls own

/-- A plane at resumption: one loaded from memory is read again from its source, any other stands (R233). -/
def State.reloadPlane (s : State) (h : Hart) (p : Plane) : Plane × Bool :=
  match p.src, p.fmt with
  | some c, some f =>
    let r := s.loadPlane (s.xlat h) f c.rows c.addr.toNat c.stride.toNat c.scales.toNat
    (r.1, r.2.isSome)
  | some _, none => (p, false)
  | none, _ => (p, false)

/-- Both planes of a hart reloaded; the fault of each is logged (R233). -/
def State.reloadPlanes (s : State) (id : Nat) : State :=
  match s.hartOf id with
  | none => s
  | some h =>
    let a := s.reloadPlane h h.active
    let b := s.reloadPlane h h.shadow
    let s1 := s.updHart id fun g => { g with active := a.1, shadow := b.1 }
    let s2 := if a.2 then s1.logApp h.app [1] else s1
    if b.2 then s2.logApp h.app [1] else s2

/-- The row of a core on which a hart resumes: HELD for its launch, unless crews of another launch hold the core. -/
def State.resumeRow (s : State) (h : Hart) (sl : Nat × Nat × Nat) : State :=
  if decide ((s.lease sl.1).st = .held) && (s.onCore [] sl.1).any (fun g => decide (g.crewid ≠ h.crewid)) then s
  else s.setLease sl.1 { s.lease sl.1 with st := .held, cut := sl.2.2, lid := h.launchid.toNat, app := h.app }

/-- Resumes the harts of a crew one by one on their slices; what the save area of one that is filled tells of the slice it left
stands until it is swapped in. -/
def State.resumeHarts (s : State) (cid : Nat) : List Hart → List (Nat × Nat × Nat) → State
  | h :: hs, sl :: sls =>
    let same := decide (h.core = sl.1) && decide (h.slice = sl.2.1) && decide (h.cut = sl.2.2) && !h.spilled
    let busy := s.transfers.any fun t => decide (t.hart = h.id)
    let s1 := s.updHart h.id fun g =>
      let q := { g.resumeOn sl (!same) busy with out := if same then none else some ⟨g.core, g.slice, g.cut, g.strip, g.locks⟩ }
      let r := { q with locks := s.lockLines q (s.locksBeside sl.1 g.id) g.locks [] }
      if r.ended && r.run = .running then { r with run := .exited } else r
    let s2 := s1.resumeRow h sl
    (if same then s2.reloadPlanes h.id else s2.later .contextFillDone { n := h.id }).resumeHarts cid hs sls
  | _, _ => s

/-- Resumes a suspended crew (R93). -/
def State.resumeCrew (s : State) (cid : Nat) (slots : List (Nat × Nat × Nat)) : State :=
  let hs := sortBy (fun a b => decide (a.crewrank.toNat ≤ b.crewrank.toNat)) (s.crewHarts cid)
  let s1 := s.resumeHarts cid hs slots
  let i := s.freeShare (polderOfCore ((slots.head?.map Prod.fst).getD 0))
  (s1.updCrew cid fun c => { c with suspended := false, shareIdx := i }).kick

/-! ### Completion records (R260, R261) -/

/-- The queue q of a hart. -/
def Hart.queue (h : Hart) (q : Nat) : CQueue := mget {} h.queues q

/-- Replaces a queue. -/
def Hart.setQueue (h : Hart) (q : Nat) (c : CQueue) : Hart := { h with queues := mset {} h.queues q c }

/-- The two words of a record (R261). -/
def recWords (k status op fcode tag done foff poff : Nat) : ComplRec :=
  ⟨BitVec.ofNat 64 ((1 - k / 64 % 2) + status * 2 + op * 16 + fcode * 2 ^ 8 + tag * 2 ^ 16 + done % 2 ^ 32 * 2 ^ 32),
   BitVec.ofNat 64 (foff % 2 ^ 32 + poff % 2 ^ 32 * 2 ^ 32)⟩

/-- Where record `k` of queue `q` of a hart is stored too; none when XCQ.BASE is 0. -/
def Hart.recAddr (h : Hart) (q k : Nat) : Option Nat :=
  if h.xcqBase = 0 then none else some (h.xcqBase.toNat * 4096 + q * 1024 + k % 64 * 16)

/-- Posts record `k` of queue `q` of a hart, to XCQ.BASE too when it is set; a store that would fault is dropped and logged.
The store is an engine write of accessor `w` (R268), after which the hart's samples are no older than the mapping it used (R207). -/
def State.postRec (s : State) (w : Who) (hart q k : Nat) (r : ComplRec) : State :=
  match s.hartOf hart with
  | none => s
  | some h =>
    let c := h.queue q
    let s1 := s.updHart hart fun g =>
      { g.setQueue q { c with posted := c.posted + 1, recs := mset none c.recs k (some r) } with wake := true }
    match h.recAddr q k with
    | none => s1
    | some a =>
      if s1.mayWrite h.app w a 16 then
        let s2 := s1.writeFor h.app w a ((cellsLE 0 8 r.w0.toNat).map Prod.snd ++ (cellsLE 0 8 r.w1.toNat).map Prod.snd)
        s2.updHart hart fun g => s2.dropStale g a
      else s1.logApp h.app [2]

/-- The control word's queue, tag and NOREC (R253). -/
def ctlQueue (c : Word) : Nat := bitsAt c.toNat 17 2

/-- A transfer as an accessor: the die and the cluster of the core that held its hart at issue (R268). -/
def Transfer.who (t : Transfer) : Who := ⟨t.die, if t.gside then .g else .p⟩

/-- Posts a transfer's record unless NOREC is set. -/
def State.postXfer (s : State) (t : Transfer) (status fcode done foff poff : Nat) : State :=
  if t.ctl.getLsbD 19 then s
  else s.postRec t.who t.hart (ctlQueue t.ctl) t.recno (recWords t.recno status t.op fcode (bitsAt t.ctl.toNat 32 16) done foff poff)

/-! ### Crew and launch end (R74, R79, R81, R82, R90, R289) -/

/-- The completion word (R79). -/
def complWord (l : Launch) : Word :=
  let st := if l.units = 0 then 2 else if l.cancelled ∧ l.limit < l.units then 3 else if 0 < l.nfail then 4 else 1
  BitVec.ofNat 64 (st + l.nfail * 2 ^ 8 + (if l.nfail = 0 then 0xFFFFFF else l.firstFail) * 2 ^ 32)

/-- Ends a launch whose work units have all ended: the completion word is written, or its loss logged (R79, R81) in one byte of
the model's own, for which the spec gives no layout (log). A migration that has the word's page open neither parks nor stops the write (log). -/
def State.endLaunch (s : State) (app lid : Nat) : State :=
  match (s.app app).launch lid with
  | none => s
  | some l =>
    if l.ended.isSome ∨ l.issued < l.limit ∨ l.done < l.issued then s
    else
      let w := complWord l
      let s0 := s.updLaunch app lid fun k => { k with ended := some w }
      let s1 := match (s.app app).pend with
        | none => s0
        | some p => if p.kind = .wait lid then s0.later .riuraWait { caller := .ctl app } else s0
      let a := l.compl.toNat
      if a = 0 then s1
      else if s1.mayWrite app ctlWho a 8 then s1.writeFor app ctlWho a ((cellsLE 0 8 w.toNat).map Prod.snd)
      else s1.logApp app [3]

/-- Unmaps a hart's thread block and stack. -/
def State.dropBlock (s : State) (h : Hart) : State :=
  let a := s.app h.app
  (s.setApp h.app { a with maps := a.maps.filter fun m => decide (m.va ≠ h.block) }).releaseMaps a.tenant
    (a.maps.filter fun m => decide (m.va = h.block))

/-- Takes the contexts of a crew away; the turn goes to the next hart. -/
def State.removeHarts (s : State) (cid : Nat) : State :=
  let keep : Hart → Bool := fun h => decide (h.run = .idle) || decide (h.crewid.toNat ≠ cid)
  if keep s.hart then { s with others := s.others.filter keep }
  else match s.others.filter keep with
    | [] => { s with hart := {}, others := [] }
    | h :: hs => { s with hart := h, others := hs }

/-- The cores of some, and then the other cores of their polder. -/
def polderFrom (cores : List Nat) : List Nat :=
  let p := polderOfCore (cores.headD 0)
  cores ++ ((List.range 8).map fun k => 8 * p + k).filter fun c => !cores.contains c

/-- Where the next crew of a launch goes on cores that its last crew has left. -/
def State.placeBack (s : State) (app lid : Nat) (cores : List Nat) : Option (List (Nat × Nat × Nat)) :=
  match (s.app app).launch lid with
  | none => none
  | some l =>
    if (s.app app).ready l && !s.producerSuspended app l then s.findPlaceIn [polderFrom cores] [] false (needOf app l) else none

/-- The suspended crew that R84 names next, if it resumes on one of the cores. -/
def State.resumeHere (s : State) (cores : List Nat) : Option (Nat × List (Nat × Nat × Nat)) :=
  match s.pick with
  | some (.resume k sl) => if sl.any fun t => cores.contains t.1 then some (k, sl) else none
  | some (.place _ _ _) => none
  | some (.preempt _ _ _) => none
  | none => none

/-- What becomes of the rows of cores that their last crew has left (R90): kept for a pre-emption under way; held by the
suspended crew that R84 names next; held by the next crew of the launch; else given on. -/
def State.leaveRows (s : State) (app lid : Nat) (cores : List Nat) : State :=
  let kept := cores.filter s.reservedCore
  let t := kept.foldl (fun u c => u.setLease c { u.lease c with st := .free, lid := 0, app := 0 }) s
  let rest := cores.filter fun c => !s.reservedCore c
  if rest.isEmpty then t
  else match t.resumeHere rest with
    | some r => t.resumeCrew r.1 r.2
    | none =>
      match t.placeBack app lid rest with
      | some sl => t.placeCrew app lid sl
      | none => if (t.app app).unissued lid then t else rest.foldl State.giveRow t

/-- Ends a crew and its work unit (R74, R79, R90). -/
def State.endCrew (s : State) (cid : Nat) (failed : Bool) : State :=
  match s.crewOf cid with
  | none => s
  | some c =>
    let hs := s.crewHarts cid
    let s1 := hs.foldl State.dropBlock s
    let s2 := { s1.removeHarts cid with crews := s1.crews.filter fun k => decide (k.id ≠ cid) }
    let s3 := s2.updLaunch c.app c.lid fun l =>
      { l with done := l.done + 1,
               nfail := if failed then l.nfail + 1 else l.nfail,
               firstFail := if failed then (if l.nfail = 0 then c.unit else min l.firstFail c.unit) else l.firstFail }
    let s4 := s3.endLaunch c.app c.lid
    let cores := distinct ((hs.filter fun h => h.run.resident).map Hart.core) []
    (s4.leaveRows c.app c.lid (cores.filter fun k => (s4.onCore [] k).isEmpty)).kick

/-- The transfers of a hart stop and post ABORTED (R259, R289). -/
def State.abortTransfers (s : State) (hart : Nat) : State :=
  let mine := s.transfers.filter fun t => decide (t.hart = hart)
  let s1 := mine.foldl (fun u t => u.postXfer t 4 0 t.bytesDone 0xFFFFFFFF 0xFFFFFFFF) s
  { s1 with transfers := s1.transfers.filter fun t => decide (t.hart ≠ hart) }

/-- A WAIT on a collective that is pending looks again. -/
def State.lookColl (s : State) (app cid : Nat) : State :=
  match (s.app app).pend with
  | none => s
  | some p => if p.kind = .collective cid then s.later .collectiveWait { caller := .ctl app } else s

/-- The ID of the application in a slot (R40). -/
def State.appId (s : State) (k : Nat) : Nat := k + (s.app k).loads * 64

/-- Peer-kill notices, of the package, application and collective, for the unfinished collectives of which an application is
still a member (R60, R289): one to every member package, this one included. -/
def State.peerKill (s : State) (app : Nat) : State :=
  (s.app app).colls.foldl (fun t c =>
    if c.state = .active ∧ !c.ended.contains s.pkg then
      c.members.foldl (fun u p =>
        let notice : Input := { n := p, m := s.pkg, k := c.cid, a1 := BitVec.ofNat 64 (s.appId app) }
        if p = u.pkg then u.later .peerKillNotice notice
        else { u with outbox := u.outbox ++ [(.peerKillNotice, notice)] }) t
    else t) s

/-- The open rounds to which a killed hart contributed lose that contribution (R289). -/
def State.dropRounds (s : State) (h : Hart) : State :=
  { s with rounds := s.rounds.map fun r =>
      if r.status = 0 ∧ (h.fredRounds.map Prod.snd).contains r.num then
        let keep := (List.zip r.pkgs r.vals).filter fun x => decide (x.1 ≠ s.pkg)
        { r with pkgs := keep.map Prod.fst, vals := keep.map Prod.snd }
      else r }

/-- The trains and FREDs of a hart that still wait for a port. -/
def State.unsentOf (s : State) (h : Hart) : List Cargo :=
  (s.unsent.map Unsent.cargo).filter fun c =>
    match c with
    | .train id => s.trains.any fun t => decide (t.id = id) && decide (t.hart = h.id)
    | .fred id => s.contribs.any fun t => decide (t.fred = id) && decide (t.hart = h.id)
    | .other => false

/-- Drops what a killed hart has in flight: transfers, trains, contributions; what still waits for a port is never sent (R289). -/
def State.dropHart (s : State) (h : Hart) : State :=
  let s1 := (s.abortTransfers h.id).dropRounds h
  let gone := s1.unsentOf h
  { s1 with trains := s1.trains.filter fun t => decide (t.hart ≠ h.id),
            contribs := s1.contribs.filter fun t => decide (t.hart ≠ h.id),
            unsent := s1.unsent.filter fun u => !gone.contains u.cargo,
            outbox := s1.outbox.filter fun o => !(decide (o.1 = .trainArrive) && gone.contains (.train o.2.n)) }

/-- Removes a crew as a killed context at once, with its application; its work unit fails (R49, R289). -/
def State.killCrew (s : State) (cid : Nat) : State :=
  match s.crewOf cid with
  | none => s
  | some c => (((s.crewHarts cid).foldl State.dropHart s).peerKill c.app).endCrew cid true

/-- The harts of a crew issue nothing more. -/
def State.haltCrew (s : State) (cid : Nat) : State :=
  s.mapHarts (fun h => decide (h.crewid.toNat = cid)) fun h =>
    { h with ended := true, run := if h.run = .running then .exited else h.run }

/-- Riura ends the crew of an unresolved trap of the hart whose turn it is, as though that hart had called CREWEXIT with the status of
R276: what is in flight is dropped, but a store that a migration holds back performs first (R80, R188). -/
def State.trapExit (s : State) (status : Nat) : State :=
  let cid := s.hart.crewid.toNat
  match s.crewOf cid with
  | none => s
  | some k =>
    let t := ((s.crewHarts cid).foldl State.dropHart s).peerKill k.app
    if (t.crewHarts cid).any Hart.parked then
      ((t.updHart s.hart.id fun h => { h with inCall := true }).haltCrew cid).later .riuraCrewexit
        { caller := .hart s.hart.id, a1 := BitVec.ofNat 64 status }
    else t.endCrew cid true

/-- shdb stops every crew of an application, each hart at the boundary where it stands (log). -/
def State.shdbStop (s : State) (app : Nat) : State :=
  let t := s.mapHarts (fun h => decide (h.app = app)) fun h => { h with stopped := true }
  { t with crews := t.crews.map fun c => if c.app = app then { c with debugHeld := true } else c }

end Sys2Proof.Machine
end

