-- ==== Sys2Proof/Machine/Ops.lean ====
section
/-! DEFINITION. The named operations over registers and memory: register access, the vector configuration, taking a trap
and returning from one (R274 to R277), waiting, scalar accesses (R312), instruction fetch (R300), releases and fences
(R206, R210), and crew barriers (R217, R218). -/

namespace Sys2Proof.Machine

/-! ### Registers -/

/-- x(n); x0 reads zero (R103). -/
def Hart.rx (h : Hart) (n : Nat) : Word := if n = 0 then 0 else mget 0 h.x n

/-- x(n) := v; a write to x0 is discarded (R103, R311). -/
def Hart.wx (h : Hart) (n : Nat) (v : Word) : Hart := if n = 0 then h else { h with x := mset 0 h.x n v }

/-- x(n) of the hart whose turn it is. -/
def State.rx (s : State) (n : Reg) : Word := s.hart.rx n.toNat

/-- x(n) := v of the hart whose turn it is. -/
def State.wx (s : State) (n : Reg) (v : Word) : State := { s with hart := s.hart.wx n.toNat v }

/-- A 12-bit immediate sign-extended (R312). -/
def imm12 (i : BitVec 12) : Word := i.signExtend 64

/-- Predicate p(n) as a number, element i in bit i. -/
def Hart.pred (h : Hart) (n : Nat) : Nat := (mget 0 h.p n).toNat

/-- p(n) := v. -/
def Hart.setPred (h : Hart) (n : Nat) (v : Nat) : Hart := { h with p := mset 0 h.p n (BitVec.ofNat 2048 v) }

/-! ### The vector configuration (R110, R112) -/

/-- VSTAT.FMT; SETVL never admits a reserved code. -/
def Hart.fmt (h : Hart) : Fmt := (Fmt.ofCode (h.vstat.toNat % 64)).getD .i8

/-- Registers of a group: 1, 2, 4 or 8. -/
def Hart.g (h : Hart) : Nat := 2 ^ (h.vstat.toNat / 64 % 4)

/-- VSTAT.EP. -/
def Hart.ep (h : Hart) : Nat := h.vstat.toNat / 256 % 4

/-- VSTAT.MP: whether inactive elements are zeroed. -/
def Hart.mz (h : Hart) : Bool := h.vstat.getLsbD 10

/-- VSTAT.RM. -/
def Hart.rm (h : Hart) : RM := RM.ofField (h.vstat.toNat / 4096 % 8)

/-- VSTAT.OUTL. -/
def Hart.outl (h : Hart) : Bool := h.vstat.getLsbD 15

/-- R112. -/
def vlmaxOf (grant g : Nat) (f : Fmt) : Nat := grant * g * 8 / f.bits

/-- VLMAX for the current FMT and G. -/
def Hart.vlmax (h : Hart) : Nat := vlmaxOf h.vlgrant h.g h.fmt

/-- Whether a feature of R117 is present and not masked. -/
def Hart.feat (h : Hart) (bit : Nat) : Bool := decide (bit < 10) && !h.featmask.getLsbD bit

/-- Whether the configured format needs a feature that is missing (R117). -/
def Hart.fmtOk (h : Hart) (f : Fmt) : Bool :=
  (!f.isMx || h.feat 0) && (!decide (f = .dm8) || h.feat 1)

/-! ### Traps (R274 to R277) -/

/-- The trap causes. -/
inductive Cause where
  | illegal | opfmt | misalign | loadfault | storefault | storepend | encstore | streamfault | poison | brk
deriving DecidableEq, Repr

/-- TCAUSE codes (R274). -/
def Cause.code : Cause → Nat
  | .illegal => 1 | .opfmt => 2 | .misalign => 3 | .loadfault => 4 | .storefault => 5
  | .storepend => 6 | .encstore => 7 | .streamfault => 8 | .poison => 9 | .brk => 10

/-- Why an instruction does not complete: a precise trap (with no TVAL named, the instruction word), a trap that leaves an
effect (MLDS, R231), or a wait, with what the wait has changed. -/
inductive Stop where
  | trap (c : Cause) (tval : Option Word) (telem : Nat)
  | trapKeep (s : State) (c : Cause) (tval : Word) (telem : Nat)
  | wait (s : State)

/-- ILLEGAL with the instruction word. -/
def Stop.illegal : Stop := .trap .illegal none 0

/-- OPFMT with the instruction word. -/
def Stop.opfmt : Stop := .trap .opfmt none 0

/-- The trap registers written; TPC is the PC of the trapping or triggering instruction (R274, R275). -/
def Hart.trapRegs (h : Hart) (c : Cause) (tval : Word) (telem : Nat) : Hart :=
  { h with tcause := BitVec.ofNat 8 c.code, tpc := BitVec.ofNat 62 (h.pc.toNat / 4), tval := tval,
           telem := BitVec.ofNat 16 telem, wait := none, parked := false }

/-- Opens a strip: the number rises and the samples close (R114, R182). -/
def Hart.openStrip (h : Hart) : Hart := { h with strip := h.strip + 1, samples := [] }

/-- Whether a trap goes to Riura: no handler, or a trap inside one (R276). -/
def Hart.toRiura (h : Hart) : Bool := decide (h.tvec = 0) || h.hact

/-- Trap entry at the first-level handler (R275). -/
def Hart.enter (h : Hart) (c : Cause) (tval : Word) (telem : Nat) : Hart :=
  let t := (h.trapRegs c tval telem).openStrip
  { t with hact := true, links := [], pc := BitVec.ofNat 64 (h.tvec.toNat * 4) }

/-- Takes a trap of the hart whose turn it is: the handler, the debugger, or the end of the crew (R275, R276). -/
def State.takeTrap (s : State) (c : Cause) (tval : Word) (telem : Nat) : State :=
  if s.hart.toRiura then
    let s1 := { s with hart := s.hart.trapRegs c tval telem }
    if c = .brk ∧ (s.app s.hart.app).shdb then
      (s1.mapHarts (fun h => decide (h.crewid = s.hart.crewid)) fun h => { h with stopped := true }).updCrew
        s.hart.crewid.toNat fun k => { k with debugHeld := true }
    else s1.trapExit (0xFFFFFF00 + c.code)
  else { s with hart := s.hart.enter c tval telem }

/-- The return from a handler (R277); HACT is set. -/
def Hart.trapReturn (h : Hart) : Hart :=
  let t := h.openStrip
  { t with hact := false, sfrq := if h.tcause.toNat = Cause.storepend.code then [] else h.sfrq,
           pc := BitVec.ofNat 64 (h.tpc.toNat * 4) }

/-- STOREPEND is due at a trigger: records held and no handler active (R279). -/
def Hart.storepend (h : Hart) : Option Stop :=
  match h.sfrq with
  | [] => none
  | r :: _ => if h.hact then none else some (.trap .storepend (some r.addr) r.elem.toNat)

/-- Instructions retired since the oldest held record's store (R279). -/
def Hart.skid (h : Hart) : Nat :=
  match h.sfrq with
  | [] => 0
  | r :: _ => r.age

/-! ### Ending an instruction -/

/-- The held records of earlier stores, one retired instruction older (R279, R280). -/
def ageFirst : Nat → List SfrqRec → List SfrqRec
  | 0, rs => rs
  | _ + 1, [] => []
  | n + 1, r :: rs => { r with age := r.age + 1 } :: ageFirst n rs

/-- The hart after an instruction has retired, with its next PC; `old` records were held when it issued. -/
def Hart.retire (h : Hart) (old : Nat) (pc : Word) : Hart :=
  { h with pc := pc, wait := none, parked := false, sfrq := ageFirst old h.sfrq, retired := h.retired + 1 }

/-- The instruction waits at its PC, since the clk at which it first stood there, or as it has itself said (R226, R314). -/
def Hart.waitOn (h : Hart) (i : Instr) (clk : Nat) : Hart :=
  { h with wait := some (match h.wait with
      | none => { instr := i, since := clk }
      | some w => if w.instr = i then w else { instr := i, since := clk }) }

/-- What follows an instruction that did not complete. -/
def State.stopped (s : State) (i : Instr) : Stop → State
  | .trap c tval telem => s.takeTrap c (tval.getD ((encode i).zeroExtend 64)) telem
  | .trapKeep t c tval telem => t.takeTrap c tval telem
  | .wait t => { t with hart := t.hart.waitOn i s.clk }

/-- Ends an instruction whose successor is the next word. -/
def complete (i : Instr) (s : State) (r : Except Stop State) : Outcome State Fault Refusal :=
  match r with
  | .ok t => .next { t with hart := t.hart.retire s.hart.sfrq.length (t.hart.pc + 4) }
  | .error e => .next (s.stopped i e)

/-- Ends an instruction that says where it goes. -/
def completeTo (i : Instr) (s : State) (r : Except Stop (State × Word)) : Outcome State Fault Refusal :=
  match r with
  | .ok t => .next { t.1 with hart := t.1.hart.retire s.hart.sfrq.length t.2 }
  | .error e => .next (s.stopped i e)

/-- Ends an instruction that leaves its hart's PC and turn as it has set them. -/
def completeAs (i : Instr) (s : State) (r : Except Stop State) : Outcome State Fault Refusal :=
  match r with
  | .ok t => .next t
  | .error e => .next (s.stopped i e)

/-! ### Scalar accesses (R312) -/

/-- The bytes a scalar load returns, and the hart whose stale sample it drops. -/
def State.loadScalar (s : State) (va n : Nat) : Except Stop (Nat × Hart) :=
  let h := s.hart
  if va % n ≠ 0 then .error (.trap .misalign (some (BitVec.ofNat 64 va)) 0)
  else if s.ritHit h va (va + n) then .error (.wait s)
  else match s.forLoad (s.xlat h va) with
    | .error _ => .error (.trap .loadfault (some (BitVec.ofNat 64 va)) 0)
    | .ok x =>
      match s.readImage x va n with
      | .error .poison => .error (.trap .poison (some (BitVec.ofNat 64 va)) 0)
      | .error _ => .error (.trap .loadfault (some (BitVec.ofNat 64 va)) 0)
      | .ok v => .ok (v, s.dropStale h va)

/-- The page a scalar store or AMO may write, or why not; a page under migration parks the hart (R188, R312). -/
def State.storePage (s : State) (va n : Nat) : Except Stop Xlat :=
  let h := s.hart
  if va % n ≠ 0 then .error (.trap .misalign (some (BitVec.ofNat 64 va)) 0)
  else if s.ritHit h va (va + n) then .error (.wait s)
  else match s.forStore (s.xlat h va) with
    | .error _ => .error (.trap .storefault (some (BitVec.ofNat 64 va)) 0)
    | .ok x =>
      if x.encoded then .error (.trap .encstore (some (BitVec.ofNat 64 va)) 0)
      else if x.closed then .error (.wait { s with hart := { h.dropSamples va with parked := true } })
      else .ok x

/-- Writes the low `n` bytes of `v` at a virtual address of a page. -/
def State.putAt (s : State) (x : Xlat) (va n v : Nat) : State :=
  let s1 := s.writePhys true (cellsLE (x.addr va) n v)
  { s1 with hart := s1.dropStale s1.hart va }

/-- A scalar store of `n` bytes. -/
def State.storeScalar (s : State) (va n v : Nat) : Except Stop State :=
  match s.storePage va n with
  | .error e => .error e
  | .ok x => .ok (s.putAt x va n v)

/-- A scalar read and write of one 8-byte word: `f` gives the new value, none for no write (R335). -/
def State.amo8 (s : State) (va : Nat) (f : Nat → Option Nat) : Except Stop (Nat × State) :=
  match s.storePage va 8 with
  | .error e => .error e
  | .ok x =>
    if s.poisoned (x.addr va) then .error (.trap .poison (some (BitVec.ofNat 64 va)) 0)
    else
      let old := readLE s.mem (x.addr va) 8
      match f old with
      | none => .ok (old, { s with hart := s.dropStale s.hart va })
      | some v => .ok (old, s.putAt x va 8 v)

/-! ### Fetch (R300) -/

/-- The instruction word at the PC, or the fault of its fetch. -/
def State.fetch (s : State) : Except Stop Nat :=
  let pc := s.hart.pc
  match s.xlat s.hart pc.toNat with
  | none => .error (.trap .loadfault (some pc) 0)
  | some x =>
    if !x.attr.getLsbD 13 || s.linkDown x.kind then .error (.trap .loadfault (some pc) 0)
    else match s.readImage x pc.toNat 4 with
      | .error .poison => .error (.trap .poison (some pc) 0)
      | .error _ => .error (.trap .loadfault (some pc) 0)
      | .ok w => .ok w

/-! ### Order (R206, R210, R280) -/

/-- Whether every earlier access of a hart has performed at a scope: its transfers have retired, and at fabric scope its
trains are acknowledged and its contributions accepted. Other accesses of this model perform at issue. -/
def State.drained (s : State) (h : Hart) (scope : Nat) : Bool :=
  !(s.transfers.any fun t => decide (t.hart = h.id)) &&
  (decide (scope ≠ 4) || (!(s.trains.any fun t => decide (t.hart = h.id)) && !(s.contribs.any fun c => decide (c.hart = h.id))))

/-- Waits until the hart's earlier accesses have performed at a scope. -/
def State.waitDrained (s : State) (scope : Nat) : Except Stop Unit :=
  if s.drained s.hart scope then .ok () else .error (.wait s)

/-- Waits until every earlier store, atomic and engine write of the hart has performed or faulted, its trains and
contributions among them (R198, R280, R333). -/
def State.waitStores (s : State) : Except Stop Unit := s.waitDrained 4

/-- Whether the hart's next instruction would be the 64th to retire after a store whose elements have not all performed or
faulted: a train or a contribution in flight (R280). -/
def State.storeBound (s : State) (h : Hart) : Bool :=
  (s.trains.any fun t => decide (t.hart = h.id) && decide (t.at_ + 64 ≤ h.retired)) ||
  (s.contribs.any fun c => decide (c.hart = h.id) && decide (c.at_ + 64 ≤ h.retired))

/-! ### Crew barriers (R217, R218) -/

/-- Arrivals of a hart at barrier b. -/
def Hart.arrived (h : Hart) (b : Nat) : Nat := mget 0 h.arrivals b

/-- Phases of barrier b that a crew has completed: the fewest arrivals among its harts that have not executed EXIT. -/
def State.phases (s : State) (cid b : Nat) : Nat :=
  match ((s.crewHarts cid).filter fun h => !h.ended).map fun h => h.arrived b with
  | [] => 0
  | n :: ns => ns.foldl min n

/-- Whether the phase of the hart's last arrival at b has completed. -/
def State.phaseDone (s : State) (b : Nat) : Bool :=
  decide (s.hart.arrived b ≤ s.phases s.hart.crewid.toNat b)

/-- Sets the wake latches of a crew (R331). -/
def State.wakeCrew (s : State) (cid : Nat) : State := s.mapHarts (fun h => decide (h.crewid.toNat = cid)) fun h => { h with wake := true }

/-- The hart arrives at barrier b; a phase that this completes wakes the crew. -/
def State.arrive (s : State) (b : Nat) : State :=
  let cid := s.hart.crewid.toNat
  let s1 := { s with hart := { s.hart with arrivals := mset 0 s.hart.arrivals b (s.hart.arrived b + 1) } }
  if s.phases cid b < s1.phases cid b then s1.wakeCrew cid else s1

/-! ### Store-fault records (R279, R281) -/

/-- A record put among the held ones in the order in which the stores issued: behind those of the same store and of earlier
ones. -/
def putRec (r : SfrqRec) : List SfrqRec → List SfrqRec
  | [] => [r]
  | q :: qs => if q.age < r.age then r :: q :: qs else q :: putRec r qs

/-- Adds a record; past 16 the last one counts the loss. -/
def Hart.addRec (h : Hart) (r : SfrqRec) : Hart :=
  if h.sfrq.length < 16 then { h with sfrq := putRec r h.sfrq }
  else { h with sfrq := h.sfrq.modify 15 fun q => { q with lost := if q.lost = 0xFFFF then q.lost else q.lost + 1 } }

/-- The bits of VFLAGS (R116). -/
def Flags.bits (f : Flags) : BitVec 6 :=
  BitVec.ofNat 6 (f.nx.toNat + f.uf.toNat * 2 + f.of.toNat * 4 + f.dz.toNat * 8 + f.nv.toNat * 16 + f.cl.toNat * 32)

/-- Flags of an operation made sticky (R162). -/
def Hart.raise (h : Hart) (f : Flags) : Hart := { h with vflags := h.vflags ||| f.bits }

end Sys2Proof.Machine
end

