-- ==== Sys2Proof/Machine/Scalar.lean ====
section
/-! DEFINITION. Scalar arithmetic (R315, R318 to R321). -/

namespace Sys2Proof.Machine

/-- x(d) := v and on to the next word: the common end of the scalar instructions that only write a register. -/
def State.alu (i : Instr) (s : State) (d : Reg) (v : Word) : Outcome State Fault Refusal := complete i s (.ok (s.wx d v))

/-- 1 for true, 0 for false. -/
def boolWord (b : Bool) : Word := if b then 1 else 0

/-- A rotated right by s, s below 64. -/
def rotr64 (a : Word) (n : Nat) : Word := (a >>> n) ||| (a <<< (64 - n))

/-- The smaller, signed. -/
def smin64 (a b : Word) : Word := if a.slt b then a else b

/-- The larger, signed. -/
def smax64 (a b : Word) : Word := if a.slt b then b else a

/-- The smaller, unsigned. -/
def umin64 (a b : Word) : Word := if a < b then a else b

/-- The larger, unsigned. -/
def umax64 (a b : Word) : Word := if a < b then b else a

/-- The shift amount in a register: B mod 64 (R320). -/
def sh64 (b : Word) : Nat := b.toNat % 64

/-- DIV (R148, R321). -/
def udiv64 (a b : Word) : Word := if b = 0 then BitVec.allOnes 64 else a / b

/-- DIVN: truncated; −1 for a divisor of zero; −2^63 / −1 wraps to −2^63. -/
def sdiv64 (a b : Word) : Word := if b = 0 then BitVec.allOnes 64 else BitVec.ofInt 64 (a.toInt.tdiv b.toInt)

/-- REM: the dividend for a divisor of zero. -/
def urem64 (a b : Word) : Word := if b = 0 then a else a % b

/-- REMN: the sign of the dividend; the dividend for a divisor of zero. -/
def srem64 (a b : Word) : Word := if b = 0 then a else BitVec.ofInt 64 (a.toInt.tmod b.toInt)

/-- Zeros above the highest set bit among the low n bits. -/
def clzN : Nat → Nat → Nat
  | 0, _ => 0
  | n + 1, a => if bitAt a n then 0 else clzN n a + 1

/-- Zeros below the lowest set bit from bit k on, n bits left. -/
def ctzN : Nat → Nat → Nat → Nat
  | 0, _, _ => 0
  | n + 1, k, a => if bitAt a k then 0 else ctzN n (k + 1) a + 1

/-- Set bits among the low n. -/
def popN : Nat → Nat → Nat
  | 0, _ => 0
  | n + 1, a => (if bitAt a n then 1 else 0) + popN n a

/-- sext(imm, 20) × 4096 (R315). -/
def upper20 (imm : BitVec 20) : Word := imm.signExtend 64 <<< 12

/-- LUI. -/
def execLui (d : Reg) (imm : BitVec 20) (s : State) : Outcome State Fault Refusal := s.alu (.lui d imm) d (upper20 imm)

/-- PCHI: relative to the PC of the PCHI itself. -/
def execPchi (d : Reg) (imm : BitVec 20) (s : State) : Outcome State Fault Refusal :=
  s.alu (.pchi d imm) d (s.hart.pc + upper20 imm)

/-- ADDI. -/
def execAddi (d a : Reg) (imm : BitVec 12) (s : State) : Outcome State Fault Refusal :=
  s.alu (.addi d a imm) d (s.rx a + imm12 imm)

/-- ANDI. -/
def execAndi (d a : Reg) (imm : BitVec 12) (s : State) : Outcome State Fault Refusal :=
  s.alu (.andi d a imm) d (s.rx a &&& imm12 imm)

/-- ORI. -/
def execOri (d a : Reg) (imm : BitVec 12) (s : State) : Outcome State Fault Refusal :=
  s.alu (.ori d a imm) d (s.rx a ||| imm12 imm)

/-- XORI. -/
def execXori (d a : Reg) (imm : BitVec 12) (s : State) : Outcome State Fault Refusal :=
  s.alu (.xori d a imm) d (s.rx a ^^^ imm12 imm)

/-- SLTI. -/
def execSlti (d a : Reg) (imm : BitVec 12) (s : State) : Outcome State Fault Refusal :=
  s.alu (.slti d a imm) d (boolWord ((s.rx a).slt (imm12 imm)))

/-- SLTNI: the immediate is sign-extended and then read unsigned. -/
def execSltni (d a : Reg) (imm : BitVec 12) (s : State) : Outcome State Fault Refusal :=
  s.alu (.sltni d a imm) d (boolWord ((s.rx a).ult (imm12 imm)))

/-- SHLI. -/
def execShli (d a : Reg) (n : BitVec 6) (s : State) : Outcome State Fault Refusal :=
  s.alu (.shli d a n) d (s.rx a <<< n.toNat)

/-- SHRLI. -/
def execShrli (d a : Reg) (n : BitVec 6) (s : State) : Outcome State Fault Refusal :=
  s.alu (.shrli d a n) d (s.rx a >>> n.toNat)

/-- SHRAI. -/
def execShrai (d a : Reg) (n : BitVec 6) (s : State) : Outcome State Fault Refusal :=
  s.alu (.shrai d a n) d ((s.rx a).sshiftRight n.toNat)

/-- ROTRI. -/
def execRotri (d a : Reg) (n : BitVec 6) (s : State) : Outcome State Fault Refusal :=
  s.alu (.rotri d a n) d (rotr64 (s.rx a) n.toNat)

/-- ADD. -/
def execAdd (d a b : Reg) (s : State) : Outcome State Fault Refusal := s.alu (.add d a b) d (s.rx a + s.rx b)

/-- SUB. -/
def execSub (d a b : Reg) (s : State) : Outcome State Fault Refusal := s.alu (.sub d a b) d (s.rx a - s.rx b)

/-- AND. -/
def execAnd (d a b : Reg) (s : State) : Outcome State Fault Refusal := s.alu (.and d a b) d (s.rx a &&& s.rx b)

/-- OR. -/
def execOr (d a b : Reg) (s : State) : Outcome State Fault Refusal := s.alu (.or d a b) d (s.rx a ||| s.rx b)

/-- XOR. -/
def execXor (d a b : Reg) (s : State) : Outcome State Fault Refusal := s.alu (.xor d a b) d (s.rx a ^^^ s.rx b)

/-- SHL. -/
def execShl (d a b : Reg) (s : State) : Outcome State Fault Refusal := s.alu (.shl d a b) d (s.rx a <<< sh64 (s.rx b))

/-- SHRL. -/
def execShrl (d a b : Reg) (s : State) : Outcome State Fault Refusal := s.alu (.shrl d a b) d (s.rx a >>> sh64 (s.rx b))

/-- SHRA. -/
def execShra (d a b : Reg) (s : State) : Outcome State Fault Refusal :=
  s.alu (.shra d a b) d ((s.rx a).sshiftRight (sh64 (s.rx b)))

/-- SLT. -/
def execSlt (d a b : Reg) (s : State) : Outcome State Fault Refusal :=
  s.alu (.slt d a b) d (boolWord ((s.rx a).slt (s.rx b)))

/-- SLTN. -/
def execSltn (d a b : Reg) (s : State) : Outcome State Fault Refusal :=
  s.alu (.sltn d a b) d (boolWord ((s.rx a).ult (s.rx b)))

/-- MIN. -/
def execMin (d a b : Reg) (s : State) : Outcome State Fault Refusal := s.alu (.min d a b) d (smin64 (s.rx a) (s.rx b))

/-- MAX. -/
def execMax (d a b : Reg) (s : State) : Outcome State Fault Refusal := s.alu (.max d a b) d (smax64 (s.rx a) (s.rx b))

/-- MINN. -/
def execMinn (d a b : Reg) (s : State) : Outcome State Fault Refusal := s.alu (.minn d a b) d (umin64 (s.rx a) (s.rx b))

/-- MAXN. -/
def execMaxn (d a b : Reg) (s : State) : Outcome State Fault Refusal := s.alu (.maxn d a b) d (umax64 (s.rx a) (s.rx b))

/-- ANDN. -/
def execAndn (d a b : Reg) (s : State) : Outcome State Fault Refusal := s.alu (.andn d a b) d (s.rx a &&& ~~~(s.rx b))

/-- ROTR. -/
def execRotr (d a b : Reg) (s : State) : Outcome State Fault Refusal :=
  s.alu (.rotr d a b) d (rotr64 (s.rx a) (sh64 (s.rx b)))

/-- MUL. -/
def execMul (d a b : Reg) (s : State) : Outcome State Fault Refusal := s.alu (.mul d a b) d (s.rx a * s.rx b)

/-- MULH. -/
def execMulh (d a b : Reg) (s : State) : Outcome State Fault Refusal :=
  s.alu (.mulh d a b) d (BitVec.ofNat 64 ((s.rx a).toNat * (s.rx b).toNat / 2 ^ 64))

/-- MULHN. -/
def execMulhn (d a b : Reg) (s : State) : Outcome State Fault Refusal :=
  s.alu (.mulhn d a b) d (BitVec.ofInt 64 ((s.rx a).toInt * (s.rx b).toInt / 2 ^ 64))

/-- DIV. -/
def execDiv (d a b : Reg) (s : State) : Outcome State Fault Refusal := s.alu (.div d a b) d (udiv64 (s.rx a) (s.rx b))

/-- DIVN. -/
def execDivn (d a b : Reg) (s : State) : Outcome State Fault Refusal := s.alu (.divn d a b) d (sdiv64 (s.rx a) (s.rx b))

/-- REM. -/
def execRem (d a b : Reg) (s : State) : Outcome State Fault Refusal := s.alu (.rem d a b) d (urem64 (s.rx a) (s.rx b))

/-- REMN. -/
def execRemn (d a b : Reg) (s : State) : Outcome State Fault Refusal := s.alu (.remn d a b) d (srem64 (s.rx a) (s.rx b))

/-- CLZ. -/
def execClz (d a : Reg) (s : State) : Outcome State Fault Refusal :=
  s.alu (.clz d a) d (BitVec.ofNat 64 (clzN 64 (s.rx a).toNat))

/-- CTZ. -/
def execCtz (d a : Reg) (s : State) : Outcome State Fault Refusal :=
  s.alu (.ctz d a) d (BitVec.ofNat 64 (ctzN 64 0 (s.rx a).toNat))

/-- POPC. -/
def execPopc (d a : Reg) (s : State) : Outcome State Fault Refusal :=
  s.alu (.popc d a) d (BitVec.ofNat 64 (popN 64 (s.rx a).toNat))

end Sys2Proof.Machine
end

