-- ==== Sys2Proof/Machine/Access.lean ====
section
/-! DEFINITION. Scalar loads, stores, jumps, branches and atomics (R312, R316, R317, R322 to R324, R335). -/

namespace Sys2Proof.Machine

/-- The address of a scalar access (R312). -/
def State.ea (s : State) (a : Reg) (imm : BitVec 12) : Word := s.rx a + imm12 imm

/-- A scalar load of `n` bytes, sign- or zero-extended (R322); the access takes place whatever d is. -/
def State.load (i : Instr) (s : State) (d a : Reg) (imm : BitVec 12) (n : Nat) (sx : Bool) : Outcome State Fault Refusal :=
  complete i s (match s.loadScalar (s.ea a imm).toNat n with
    | .error e => .error e
    | .ok r => .ok { s with hart := r.2.wx d.toNat (if sx then BitVec.ofInt 64 (sgn (8 * n) r.1) else BitVec.ofNat 64 r.1) })

/-- LDB. -/
def execLdb (d a : Reg) (imm : BitVec 12) (s : State) : Outcome State Fault Refusal := s.load (.ldb d a imm) d a imm 1 true
/-- LDH. -/
def execLdh (d a : Reg) (imm : BitVec 12) (s : State) : Outcome State Fault Refusal := s.load (.ldh d a imm) d a imm 2 true
/-- LDW. -/
def execLdw (d a : Reg) (imm : BitVec 12) (s : State) : Outcome State Fault Refusal := s.load (.ldw d a imm) d a imm 4 true
/-- LDD. -/
def execLdd (d a : Reg) (imm : BitVec 12) (s : State) : Outcome State Fault Refusal := s.load (.ldd d a imm) d a imm 8 false
/-- LDBN. -/
def execLdbn (d a : Reg) (imm : BitVec 12) (s : State) : Outcome State Fault Refusal := s.load (.ldbn d a imm) d a imm 1 false
/-- LDHN. -/
def execLdhn (d a : Reg) (imm : BitVec 12) (s : State) : Outcome State Fault Refusal := s.load (.ldhn d a imm) d a imm 2 false
/-- LDWN. -/
def execLdwn (d a : Reg) (imm : BitVec 12) (s : State) : Outcome State Fault Refusal := s.load (.ldwn d a imm) d a imm 4 false

/-- A scalar store of `n` bytes (R323). -/
def State.store (i : Instr) (s : State) (b a : Reg) (imm : BitVec 12) (n : Nat) : Outcome State Fault Refusal :=
  complete i s (s.storeScalar (s.ea a imm).toNat n (s.rx b).toNat)

/-- STB. -/
def execStb (b a : Reg) (imm : BitVec 12) (s : State) : Outcome State Fault Refusal := s.store (.stb b a imm) b a imm 1
/-- STH. -/
def execSth (b a : Reg) (imm : BitVec 12) (s : State) : Outcome State Fault Refusal := s.store (.sth b a imm) b a imm 2
/-- STW. -/
def execStw (b a : Reg) (imm : BitVec 12) (s : State) : Outcome State Fault Refusal := s.store (.stw b a imm) b a imm 4
/-- STD. -/
def execStd (b a : Reg) (imm : BitVec 12) (s : State) : Outcome State Fault Refusal := s.store (.std b a imm) b a imm 8

/-- JAL (R316). -/
def execJal (d : Reg) (imm : BitVec 20) (s : State) : Outcome State Fault Refusal :=
  completeTo (.jal d imm) s (.ok (s.wx d (s.hart.pc + 4), s.hart.pc + (imm.signExtend 64 <<< 2)))

/-- JALR (R317): a target that is not a multiple of 4 takes MISALIGN with nothing written. -/
def execJalr (d a : Reg) (imm : BitVec 12) (s : State) : Outcome State Fault Refusal :=
  let t := s.rx a + imm12 imm
  completeTo (.jalr d a imm) s
    (if t.toNat % 4 ≠ 0 then .error (.trap .misalign (some t) 0) else .ok (s.wx d (s.hart.pc + 4), t))

/-- A branch (R324). -/
def State.branch (i : Instr) (s : State) (taken : Bool) (imm : BitVec 12) : Outcome State Fault Refusal :=
  completeTo i s (.ok (s, if taken then s.hart.pc + (imm12 imm <<< 2) else s.hart.pc + 4))

/-- BEQ. -/
def execBeq (a b : Reg) (imm : BitVec 12) (s : State) : Outcome State Fault Refusal :=
  s.branch (.beq a b imm) (decide (s.rx a = s.rx b)) imm
/-- BNE. -/
def execBne (a b : Reg) (imm : BitVec 12) (s : State) : Outcome State Fault Refusal :=
  s.branch (.bne a b imm) (decide (s.rx a ≠ s.rx b)) imm
/-- BLT. -/
def execBlt (a b : Reg) (imm : BitVec 12) (s : State) : Outcome State Fault Refusal :=
  s.branch (.blt a b imm) ((s.rx a).slt (s.rx b)) imm
/-- BGE. -/
def execBge (a b : Reg) (imm : BitVec 12) (s : State) : Outcome State Fault Refusal :=
  s.branch (.bge a b imm) (!(s.rx a).slt (s.rx b)) imm
/-- BLTN. -/
def execBltn (a b : Reg) (imm : BitVec 12) (s : State) : Outcome State Fault Refusal :=
  s.branch (.bltn a b imm) ((s.rx a).ult (s.rx b)) imm
/-- BGEN. -/
def execBgen (a b : Reg) (imm : BitVec 12) (s : State) : Outcome State Fault Refusal :=
  s.branch (.bgen a b imm) (!(s.rx a).ult (s.rx b)) imm

/-- An AMO on the doubleword at x(a) (R335): `f` gives the new value of the old one. -/
def State.amo (i : Instr) (s : State) (d a : Reg) (f : Word → Option Word) : Outcome State Fault Refusal :=
  complete i s (match s.amo8 (s.rx a).toNat fun old => (f (BitVec.ofNat 64 old)).map BitVec.toNat with
    | .error e => .error e
    | .ok r => .ok (r.2.wx d (BitVec.ofNat 64 r.1)))

/-- AMOSWAP. -/
def execAmoswap (d a b : Reg) (s : State) : Outcome State Fault Refusal := s.amo (.amoswap d a b) d a fun _ => some (s.rx b)
/-- AMOADD. -/
def execAmoadd (d a b : Reg) (s : State) : Outcome State Fault Refusal := s.amo (.amoadd d a b) d a fun o => some (o + s.rx b)
/-- AMOAND. -/
def execAmoand (d a b : Reg) (s : State) : Outcome State Fault Refusal := s.amo (.amoand d a b) d a fun o => some (o &&& s.rx b)
/-- AMOOR. -/
def execAmoor (d a b : Reg) (s : State) : Outcome State Fault Refusal := s.amo (.amoor d a b) d a fun o => some (o ||| s.rx b)
/-- AMOXOR. -/
def execAmoxor (d a b : Reg) (s : State) : Outcome State Fault Refusal := s.amo (.amoxor d a b) d a fun o => some (o ^^^ s.rx b)
/-- AMOMIN. -/
def execAmomin (d a b : Reg) (s : State) : Outcome State Fault Refusal :=
  s.amo (.amomin d a b) d a fun o => some (smin64 o (s.rx b))
/-- AMOMAX. -/
def execAmomax (d a b : Reg) (s : State) : Outcome State Fault Refusal :=
  s.amo (.amomax d a b) d a fun o => some (smax64 o (s.rx b))
/-- AMOMINN. -/
def execAmominn (d a b : Reg) (s : State) : Outcome State Fault Refusal :=
  s.amo (.amominn d a b) d a fun o => some (umin64 o (s.rx b))
/-- AMOMAXN. -/
def execAmomaxn (d a b : Reg) (s : State) : Outcome State Fault Refusal :=
  s.amo (.amomaxn d a b) d a fun o => some (umax64 o (s.rx b))
/-- AMOCAS: writes x(b) when the old value is x(d). -/
def execAmocas (d a b : Reg) (s : State) : Outcome State Fault Refusal :=
  s.amo (.amocas d a b) d a fun o => if o = s.rx d then some (s.rx b) else none

end Sys2Proof.Machine
end

