-- ==== Sys2Proof/Machine/Regs.lean ====
section
/-! DEFINITION. The state registers (R115, R116, R175), the vector window (R104, R326) and the vector length (R113, R328). -/

namespace Sys2Proof.Machine

/-! ### The map -/

/-- Polder of a core within its die (R116). -/
def polderInDie (c : Nat) : Nat := polderOfCore c - firstPolder (dieOfCore c)

/-- COREID (R116). -/
def coreId (c : Nat) : Nat :=
  c + c % 8 * 2 ^ 8 + polderInDie c * 2 ^ 11 + dieOfCore c * 2 ^ 15 + (if c < 160 then 0 else 2 ^ 17)

/-- MTILEK (R116). -/
def mtileK (f : Fmt) : Nat :=
  match f with
  | .i4 => 512 | .mxf4 => 512
  | .i8 => 256 | .e4m3 => 256 | .e5m2 => 256 | .dm8 => 256 | .mxf8 => 256 | .mxi8 => 256
  | .bf16 => 128 | .f16 => 128
  | .f32 => 64
  | .i16 => 0 | .i32 => 0 | .i64 => 0 | .n8 => 0 | .n16 => 0 | .n32 => 0 | .n64 => 0 | .f64 => 0

/-- WSCAL at a clk: the weight store's refresh calendar (R175). -/
def wscal (clk : Nat) : Nat :=
  let ph := clk % 70400
  let b := ph / 2200
  if ph - b * 2200 < 550 then b + 2 ^ 5
  else (b + 1) % 32 + ((b + 1) * 2200 - ph) * 2 ^ 16

/-- ns since the last cold reset: a clk of 1,100 MHz is 10 / 11 ns (R116, R175). -/
def timeNs (clk : Nat) : Nat := clk * 10 / 11

/-- The features of R117. -/
def featsWord : Word := 0x3FF

/-- The value that an SRD of a number reads (R115, R116); numbers outside the map read zero. -/
def State.sr (s : State) (n : Nat) : Word :=
  let h := s.hart
  match n with
  | 0x000 => BitVec.ofNat 64 h.vl
  | 0x001 => h.vstat.zeroExtend 64
  | 0x002 => BitVec.ofNat 64 h.vlmax
  | 0x003 => BitVec.ofNat 64 h.vlgrant
  | 0x004 => h.wb.zeroExtend 64
  | 0x005 => h.vflags.zeroExtend 64
  | 0x006 => h.efr
  | 0x007 => h.srseed
  | 0x008 => h.clipc
  | 0x009 => h.elemc
  | 0x00A => h.mkbind.zeroExtend 64
  | 0x010 => BitVec.ofNat 64 (mtileK h.fmt)
  | 0x011 => 96
  | 0x012 => h.fstep.zeroExtend 64
  | 0x013 => BitVec.ofNat 64 (h.fstatCode.toNat + h.fstatCol.toNat * 2 ^ 8 + h.fstatOpf.toNat * 2 ^ 16)
  | 0x014 => h.fgrow.zeroExtend 64
  | 0x018 => h.wfloor.zeroExtend 64
  | 0x019 => h.wtmo.zeroExtend 64
  | 0x01A => h.headd.zeroExtend 64
  | 0x020 => BitVec.ofNat 64 (h.xrm.toNat + h.xperm.toNat * 4)
  | 0x021 => BitVec.ofNat 64 (h.xcqBase.toNat * 4096)
  | 0x030 => BitVec.ofNat 64 (h.core * 4 + h.slice)
  | 0x031 => h.crewid.zeroExtend 64
  | 0x032 => h.crewrank.zeroExtend 64
  | 0x033 => h.crewn.zeroExtend 64
  | 0x034 => h.unitid.zeroExtend 64
  | 0x035 => h.unitn.zeroExtend 64
  | 0x036 => h.launchid.zeroExtend 64
  | 0x037 => h.tenant.zeroExtend 64
  | 0x038 => BitVec.ofNat 64 (coreId h.core)
  | 0x039 => featsWord
  | 0x03A => h.featmask
  | 0x040 => BitVec.ofNat 64 (h.tvec.toNat * 4)
  | 0x041 => h.tcause.zeroExtend 64
  | 0x042 => BitVec.ofNat 64 (h.tpc.toNat * 4)
  | 0x043 => h.tval
  | 0x044 => h.telem.zeroExtend 64
  | 0x045 => h.tsave
  | 0x048 => BitVec.ofNat 64 h.sfrq.length
  | 0x050 => BitVec.ofNat 64 s.clk
  | 0x051 => BitVec.ofNat 64 (timeNs s.clk)
  | 0x052 => BitVec.ofNat 64 (wscal s.clk)
  | _ => 0

/-- Whether a window base obeys R104. -/
def Hart.wbOk (h : Hart) (w : Nat) : Bool := decide (w % 16 = 0) && decide (w ≤ 1152) && decide (w + 128 ≤ h.wspan)

/-- The bits of a value as a field. -/
def Word.field (v : Word) (lo w : Nat) : BitVec w := BitVec.ofNat w (v.toNat / 2 ^ lo)

/-- SWR's effect; none where it takes ILLEGAL (R115, R117, R325). -/
def Hart.swr (h : Hart) (n : Nat) (v : Word) : Option Hart :=
  match n with
  | 0x001 =>
    let rm := bitsAt v.toNat 12 3
    if rm = 7 ∨ (rm = 5 ∧ h.feat 8 = false) then none
    else some { h with vstat := BitVec.ofNat 16 (h.vstat.toNat % 2 ^ 12 + bitsAt v.toNat 12 4 * 2 ^ 12) }
  | 0x004 => if h.wbOk (v.toNat % 2 ^ 11) then some { h with wb := Word.field v 0 11 } else none
  | 0x005 => some { h with vflags := Word.field v 0 6 }
  | 0x006 => some { h with efr := v }
  | 0x007 => some { h with srseed := v }
  | 0x008 => some { h with clipc := v }
  | 0x009 => some { h with elemc := v }
  | 0x00A =>
    if bitsAt v.toNat 0 7 < 96 ∧ bitsAt v.toNat 7 7 < 96 ∧ bitsAt v.toNat 14 7 < 96 then
      some { h with mkbind := Word.field v 0 21 }
    else none
  | 0x012 => if bitsAt v.toNat 0 7 ≤ 96 then some { h with fstep := Word.field v 0 7 } else none
  | 0x013 =>
    if bitsAt v.toNat 0 2 = 3 then none
    else some { h with fstatCode := Word.field v 0 2, fstatCol := Word.field v 8 7, fstatOpf := Word.field v 16 3 }
  | 0x014 => some { h with fgrow := Word.field v 0 32 }
  | 0x018 => some { h with wfloor := Word.field v 0 32 }
  | 0x019 => some { h with wtmo := Word.field v 0 32 }
  | 0x01A => if bitsAt v.toNat 0 9 ≤ 256 then some { h with headd := Word.field v 0 9 } else none
  | 0x020 =>
    if bitsAt v.toNat 0 2 = 3 ∧ h.feat 8 = false then none
    else some { h with xrm := Word.field v 0 2, xperm := v.getLsbD 2 }
  | 0x021 => some { h with xcqBase := Word.field v 12 52 }
  | 0x040 => some { h with tvec := Word.field v 2 62 }
  | 0x041 => some { h with tcause := Word.field v 0 8 }
  | 0x042 => some { h with tpc := Word.field v 2 62 }
  | 0x043 => some { h with tval := v }
  | 0x044 => some { h with telem := Word.field v 0 16 }
  | 0x045 => some { h with tsave := v }
  | _ => none

/-- Whether a transfer of the hart in flight may still add to VFLAGS, CLIPC or ELEMC, which an SRD or SWR then waits for
(R119, R259, R325). -/
def State.countsBusy (s : State) (n : Nat) : Bool :=
  (decide (n = 5) || decide (n = 8) || decide (n = 9)) && s.transfers.any fun t => decide (t.hart = s.hart.id)

/-! ### SRD, SWR, WINB, SETVL, SETVLI -/

/-- SRD (R325). -/
def execSrd (d : Reg) (num : BitVec 12) (s : State) : Outcome State Fault Refusal :=
  complete (.srd d num) s
    (if s.countsBusy num.toNat then .error (.wait s) else .ok (s.wx d (s.sr num.toNat)))

/-- SWR (R325). -/
def execSwr (a : Reg) (num : BitVec 12) (s : State) : Outcome State Fault Refusal :=
  complete (.swr a num) s
    (if s.countsBusy num.toNat then .error (.wait s)
     else match s.hart.swr num.toNat (s.rx a) with
      | none => .error .illegal
      | some h => .ok { s with hart := h })

/-- WINB (R326): the base is x(a), an unsigned 64-bit value, plus the signed immediate, computed exactly. -/
def execWinb (a : Reg) (imm : BitVec 12) (s : State) : Outcome State Fault Refusal :=
  let w : Int := ((s.rx a).toNat : Int) + imm.toInt
  complete (.winb a imm) s
    (if 0 ≤ w ∧ s.hart.wbOk w.toNat = true then .ok { s with hart := { s.hart with wb := BitVec.ofNat 11 w.toNat } }
     else .error .illegal)

/-- The registers once the grant in force changes: the bytes beyond the shorter of the two lengths are zero (R94). -/
def Hart.regrant (h : Hart) : List (Nat × VReg) :=
  if h.vlgrant = h.newGrant then h.v
  else h.v.foldr (fun r m => mset {} m r.1
    { r.2 with data := BitVec.ofNat 2048 (r.2.data.toNat % 2 ^ (8 * min h.vlgrant h.newGrant)) }) []

/-- The new configuration and length: the grant of the slice comes into force, and a strip opens (R94, R113, R114). -/
def Hart.setVl (h : Hart) (cfg : BitVec 12) (avl : Word) : Hart :=
  let h1 : Hart := { h with vstat := BitVec.ofNat 16 (h.vstat.toNat / 2 ^ 12 * 2 ^ 12 + cfg.toNat), v := h.regrant, vlgrant := h.newGrant }
  { h1 with vl := min avl.toNat h1.vlmax }.openStrip

/-- Whether a configuration is one of R110 whose features the tenant may use (R117). -/
def Hart.cfgOk (h : Hart) (cfg : BitVec 12) : Bool :=
  match Fmt.ofCode (cfg.toNat % 64) with
  | none => false
  | some f => decide (bitsAt cfg.toNat 8 2 ≠ 3) && decide (bitsAt cfg.toNat 10 2 < 2) && h.fmtOk f

/-- SETVL and SETVLI (R328). -/
def State.setvlWith (i : Instr) (s : State) (d a : Reg) (cfg : BitVec 12) : Outcome State Fault Refusal :=
  complete i s
    (match s.hart.storepend with
     | some e => .error e
     | none =>
       if s.hart.cfgOk cfg then
         let h := s.hart.setVl cfg (s.rx a)
         .ok { s with hart := h.wx d.toNat (BitVec.ofNat 64 h.vl) }
       else .error .illegal)

/-- SETVLI. -/
def execSetvli (d a : Reg) (cfg : BitVec 12) (s : State) : Outcome State Fault Refusal :=
  s.setvlWith (.setvli d a cfg) d a cfg

/-- SETVL: bits [63:12] of x(b) are ignored. -/
def execSetvl (d a b : Reg) (s : State) : Outcome State Fault Refusal :=
  s.setvlWith (.setvl d a b) d a (Word.field (s.rx b) 0 12)

end Sys2Proof.Machine
end

