-- ==== Sys2Proof/Machine/System.lean ====
section
/-! DEFINITION. System instructions (R277, R280, R281, R287, R327, R329 to R334), and the waits and returns that complete
them. -/

namespace Sys2Proof.Machine

/-! ### Completing a wait -/

/-- The completion of a waiting instruction of the hart that the event names: `f` runs it again and says how it ends; none
where the event does not belong to that instruction. Without such a wait the event does not occur. -/
def State.onWait (s : State) (f : State → Instr → Option (Outcome State Fault Refusal)) : Outcome State Fault Refusal :=
  let t := s.focus s.inp.n
  if t.hart.id ≠ s.inp.n ∨ t.hart.run ≠ .running then .next s
  else match t.hart.wait with
    | none => .next s
    | some w =>
      match f t w.instr with
      | none => .next s
      | some o => o

/-- The STOREPEND check of a trigger before the rest of it (R279). -/
def State.trigger (s : State) (k : Except Stop State) : Except Stop State :=
  match s.hart.storepend with
  | some e => .error e
  | none => k

/-! ### ECALL (R54, R329) -/

/-- The event that a service number and its first argument name (R54, R56). A QUERY item, a HOSTMSG direction or a
COLLECTIVE operation that is none is refused by the event named for it here. -/
def serviceEvent (n a1 : Nat) : Instr :=
  match n with
  | 0x00 => .riuraExit
  | 0x01 => .riuraLaunch
  | 0x02 => .riuraWait
  | 0x03 => .riuraCancel
  | 0x04 => .riuraMap
  | 0x05 => .riuraUnmap
  | 0x06 => .riuraProtect
  | 0x07 => .riuraMigrate
  | 0x08 => .riuraKvalloc
  | 0x09 => .riuraKvfree
  | 0x0A => if a1 = 2 then .queryWeightStore else if a1 = 3 then .queryAddress else if a1 = 0x10 then .queryKvwin
            else .queryDeviceShape
  | 0x0B => .riuraTime
  | 0x0C => if a1 = 0 then .hostmsgSend else .hostmsgRecv
  | 0x0D => .riuraCrewexit
  | 0x0E => .riuraLog
  | 0x0F => .riuraWsload
  | 0x10 => .collectiveCreate
  | 0x11 => .riuraTenant
  | _ => .riuraUnknownService

/-- The arguments of a Shurra hart's call: a1 to a4 are x17 to x20. -/
def Hart.callInput (h : Hart) : Input :=
  { caller := .hart h.id, a1 := h.rx 17, a2 := h.rx 18, a3 := h.rx 19, a4 := h.rx 20 }

/-- ECALL: the trigger, the drain of FENCE.pkg, the links, and the call; the hart stops until Riura returns. -/
def execEcall (s : State) : Outcome State Fault Refusal :=
  completeAs .ecall s (s.trigger
    (match s.waitDrained 3 with
     | .error e => .error e
     | .ok _ =>
       let h := s.hart
       .ok ({ s with hart := { h with links := [], inCall := true, wait := none } }.later
         (serviceEvent (h.rx 16).toNat (h.rx 17).toNat) h.callInput)))

/-- The hart whose call has returned: the result in x16, and on past the ECALL (R54, R329). -/
def Hart.callDone (h : Hart) (r : Word) : Hart := ({ h with inCall := false }.wx 16 r).retire h.sfrq.length (h.pc + 4)

/-- Riura returns from a hart's ECALL (R54), suspended or not: the result goes into a saved context too (R284). -/
def execEcallReturn (s : State) : Outcome State Fault Refusal :=
  .next ((s.mapHarts (fun h => decide (h.id = s.inp.n) && h.inCall) fun h => h.callDone s.inp.a1).resave s.inp.n)

/-! ### Traps -/

/-- TRAPRET (R277). -/
def execTrapret (s : State) : Outcome State Fault Refusal :=
  completeTo .trapret s
    (if s.hart.hact then .ok ({ s with hart := s.hart.trapReturn }, s.hart.trapReturn.pc) else .error .illegal)

/-- BRK (R330): BREAK with the word as TVAL. -/
def execBrk (code : BitVec 14) (s : State) : Outcome State Fault Refusal :=
  complete (.brk code) s (.error (.trap .brk none 0))

/-! ### WFE (R331) -/

/-- WFE: `late` says that the limit has passed. -/
def State.wfe (s : State) (d a : Reg) (late : Bool) : Outcome State Fault Refusal :=
  complete (.wfe d a) s
    (if s.hart.wake then .ok ({ s with hart := { s.hart with wake := false } }.wx d 1)
     else if late then .ok (s.wx d 0)
     else .error (.wait s))

/-- WFE at issue. -/
def execWfe (d a : Reg) (s : State) : Outcome State Fault Refusal := s.wfe d a false

/-- The latch is set while WFE waits. -/
def execWfeWake (s : State) : Outcome State Fault Refusal :=
  s.onWait fun t i =>
    match i with
    | .wfe d a => some (t.wfe d a false)
    | _ => none

/-- The time limit of WFE expires. -/
def execWfeTimeout (s : State) : Outcome State Fault Refusal :=
  s.onWait fun t i =>
    match i with
    | .wfe d a => some (t.wfe d a true)
    | _ => none

/-! ### Fences and DRAINST (R206, R217, R280, R332, R396) -/

/-- FENCE at a scope. -/
def State.fenceAt (s : State) (scope : BitVec 3) : Outcome State Fault Refusal :=
  complete (.fence scope) s (s.trigger
    (match s.waitDrained scope.toNat with
     | .error e => .error e
     | .ok _ => .ok s))

/-- FENCE. -/
def execFence (scope : BitVec 3) (s : State) : Outcome State Fault Refusal := s.fenceAt scope

/-- VFENCE: a fence, and with an ID of 1 to 15 an arrival, which waits for the phase of the hart's last one (R217). -/
def State.vfenceAt (s : State) (id : BitVec 4) (scope : BitVec 3) : Outcome State Fault Refusal :=
  complete (.vfence id scope) s (s.trigger
    (match s.waitDrained scope.toNat with
     | .error e => .error e
     | .ok _ =>
       if id = 0 then .ok s
       else if s.phaseDone id.toNat then .ok (s.arrive id.toNat) else .error (.wait s)))

/-- VFENCE. -/
def execVfence (id : BitVec 4) (scope : BitVec 3) (s : State) : Outcome State Fault Refusal := s.vfenceAt id scope

/-- A waiting fence completes. -/
def execFenceComplete (s : State) : Outcome State Fault Refusal :=
  s.onWait fun t i =>
    match i with
    | .fence sc => some (t.fenceAt sc)
    | .vfence id sc => some (t.vfenceAt id sc)
    | _ => none

/-- BARWAIT (R218). -/
def State.barwaitAt (s : State) (id : BitVec 4) : Outcome State Fault Refusal :=
  complete (.barwait id) s (if s.phaseDone id.toNat then .ok s else .error (.wait s))

/-- BARWAIT. -/
def execBarwait (id : BitVec 4) (s : State) : Outcome State Fault Refusal := s.barwaitAt id

/-- The phase of a waiting hart completes. -/
def execBarwaitDone (s : State) : Outcome State Fault Refusal :=
  s.onWait fun t i =>
    match i with
    | .barwait id => some (t.barwaitAt id)
    | _ => none

/-- DRAINST (R280): first the wait, then STOREPEND. -/
def State.drainstNow (s : State) : Outcome State Fault Refusal :=
  complete .drainst s
    (match s.waitStores with
     | .error e => .error e
     | .ok _ => s.trigger (.ok s))

/-- DRAINST. -/
def execDrainst (s : State) : Outcome State Fault Refusal := s.drainstNow

/-- A waiting DRAINST ends or takes STOREPEND. -/
def execDrainstComplete (s : State) : Outcome State Fault Refusal :=
  s.onWait fun t i =>
    match i with
    | .drainst => some t.drainstNow
    | _ => none

/-- STOREPEND at the boundary after the 64th instruction (R279); TPC is the next instruction. -/
def execStorependSkidLimit (s : State) : Outcome State Fault Refusal :=
  let t := s.focus s.inp.n
  if t.hart.id ≠ s.inp.n ∨ t.hart.run ≠ .running ∨ t.hart.skid < 64 then .next s
  else match t.hart.storepend with
    | none => .next s
    | some e => .next (t.stopped .drainst e)

/-! ### SFRPOP (R281) -/

/-- The four words of a record. -/
def SfrqRec.words (r : SfrqRec) : Word × Word × Word × Word :=
  (r.pc, r.addr,
   BitVec.ofNat 64 (r.elem.toNat + r.cause.toNat * 2 ^ 16 + r.kind.toNat * 2 ^ 24 + r.strip.toNat * 2 ^ 32),
   r.lost.zeroExtend 64)

/-- SFRPOP: with no record, zeros. -/
def Hart.sfrpop (h : Hart) (d : Nat) : Hart :=
  let w := match h.sfrq with
    | [] => ((0 : Word), (0 : Word), (0 : Word), (0 : Word))
    | r :: _ => r.words
  (({ h with sfrq := h.sfrq.tail }.wx d w.1).wx (d + 1) w.2.1).wx (d + 2) w.2.2.1 |>.wx (d + 3) w.2.2.2

/-- SFRPOP. -/
def execSfrpop (d : Reg) (s : State) : Outcome State Fault Refusal :=
  let t := { s with hart := s.hart.sfrpop d.toNat }
  .next { t with hart := t.hart.retire t.hart.sfrq.length (t.hart.pc + 4) }

/-! ### Instruction-cache locks (R287, R327) -/

/-- ICLOCK: x(d) is the number of lines of the range that are locked afterwards, by this or another hart of the core. -/
def execIclock (d a : Reg) (lines : BitVec 12) (s : State) : Outcome State Fault Refusal :=
  let h := s.hart
  let range := (List.range lines.toNat).map fun i => ((s.rx a).toNat / 512 + i) % 2 ^ 55
  let beside := s.locksBeside h.core h.id
  let own := s.lockLines h beside range h.locks
  let n := (range.filter fun l => own.contains l || beside.contains l).length
  complete (.iclock d a lines) s (.ok ({ s with hart := { h with locks := own } }.wx d (BitVec.ofNat 64 n)))

/-- ICUNLOCK: every lock of the hart is released. -/
def execIcunlock (s : State) : Outcome State Fault Refusal :=
  complete .icunlock s (.ok { s with hart := { s.hart with locks := [] } })

/-! ### EXIT (R333) and YIELD (R334) -/

/-- The end of a hart: it keeps its slice and counts as arrived; the last one of a crew ends it. -/
def State.endHart (s : State) : State :=
  let cid := s.hart.crewid.toNat
  let s1 := { s with hart := { s.hart with run := .exited, ended := true, wait := none } }
  if (s1.crewHarts cid).all Hart.ended then s1.endCrew cid false
  else if (List.range 16).any fun b => decide (s.phases cid b < s1.phases cid b) then s1.wakeCrew cid
  else s1

/-- EXIT: the wait for the hart's stores, and STOREPEND if it leaves records. -/
def State.exitNow (s : State) : Outcome State Fault Refusal :=
  completeAs .exit s
    (if s.hart.hact then .error .illegal
     else match s.waitStores with
       | .error e => .error e
       | .ok _ => s.trigger (.ok s.endHart))

/-- EXIT: a trigger before it waits. -/
def execExit (s : State) : Outcome State Fault Refusal :=
  match s.hart.hact, s.hart.storepend with
  | true, _ => s.exitNow
  | false, none => s.exitNow
  | false, some e => completeAs .exit s (.error e)

/-- EXIT's wait ends. -/
def execExitWaitDone (s : State) : Outcome State Fault Refusal :=
  s.onWait fun t i =>
    match i with
    | .exit => some t.exitNow
    | _ => none

/-- YIELD: the hart issues nothing for 16 clk. -/
def execYield (s : State) : Outcome State Fault Refusal :=
  complete .yield s (s.trigger (.ok { s with clk := s.clk + 16 }))

end Sys2Proof.Machine
end

