-- ==== Sys2Proof/Machine/Calls.lean ====
section
/-! DEFINITION. What the Riura services share (R54 to R56): callers, results, error codes, buffers, time limits, and the end
of an application (R49). -/

namespace Sys2Proof.Machine

/-! ### Error codes (R55) -/

/-- A negative result. -/
def err (n : Nat) : Word := BitVec.ofInt 64 (-(n : Int))

/-- E_INVAL. -/
def eInval : Word := err 1
/-- E_NOSYS. -/
def eNosys : Word := err 2
/-- E_PERM. -/
def ePerm : Word := err 3
/-- E_NOMEM. -/
def eNomem : Word := err 4
/-- E_RANGE. -/
def eRange : Word := err 5
/-- E_FORMAT. -/
def eFormat : Word := err 6
/-- E_RELOC. -/
def eReloc : Word := err 7
/-- E_NOIMAGE. -/
def eNoimage : Word := err 8
/-- E_VERSION. -/
def eVersion : Word := err 9
/-- E_BUSY. -/
def eBusy : Word := err 10
/-- E_TIMEOUT. -/
def eTimeout : Word := err 11
/-- E_AGAIN. -/
def eAgain : Word := err 12
/-- E_NOENT. -/
def eNoent : Word := err 13

/-! ### Control harts (R39, R41) -/

/-- The privilege modes: PCL runs in the first, Riura in the second, control programs in the third (R39). -/
inductive CtlMode where
  | machine | supervisor | user
deriving DecidableEq, Repr

/-- The mode in which an application's thread stands: its own, but while Riura serves a call that waits. -/
def App.mode (a : App) : CtlMode := if a.state = .running ∧ a.pend.isNone then .user else .supervisor

/-- A control hart as it stands between events: its die, the applications whose threads it runs, and its mode. -/
structure CtlHart where
  die : Nat
  threads : List Nat
  mode : CtlMode
deriving DecidableEq, Repr

/-- Control hart n of the 16: in M-mode until PCL has started Riura, in U-mode while one of its threads may run. -/
def State.ctlHart (s : State) (n : Nat) : CtlHart :=
  let ts := (s.apps.map Prod.fst).filter fun k => decide ((s.app k).state = .running) && decide ((s.app k).ctlHart = n)
  { die := n / 4, threads := ts,
    mode := if !s.pclStarted then .machine else if ts.any fun k => decide ((s.app k).mode = .user) then .user else .supervisor }

/-! ### Callers (R54) -/

/-- The application of a caller that stands in a call, and as whom its accesses count: a control program in U-mode, or a hart in
ECALL. -/
def State.callerApp (s : State) (c : Caller) : Option (Nat × Who) :=
  match c with
  | .ctl k => if (s.app k).mode = .user then some (k, ctlWho) else none
  | .hart id =>
    match s.hartOf id with
    | none => none
    | some h => if h.inCall then some (h.app, h.who) else none

/-- Whether a control program made the call. -/
def isCtl (c : Caller) : Bool :=
  match c with
  | .ctl _ => true
  | .hart _ => false

/-- The call returns: to a control program in a0, to a hart by ECALL_RETURN. -/
def State.answer (s : State) (c : Caller) (r : Word) : State :=
  match c with
  | .ctl k => s.setApp k { s.app k with ctlA0 := r, pend := none }
  | .hart id => s.later .ecallReturn { n := id, a1 := r }

/-- A service open to control programs (`ctl`) and to harts (`hart`); from the other side E_PERM (R56). A call that nobody
makes does not occur. -/
def State.service (s : State) (ctl hart : Bool) (f : State → Nat → Who → State) : Outcome State Fault Refusal :=
  match s.callerApp s.inp.caller with
  | none => .next s
  | some (k, w) =>
    if (isCtl s.inp.caller && ctl) || (!isCtl s.inp.caller && hart) then .next (f s k w)
    else .next (s.answer s.inp.caller ePerm)

/-- The call returns a result. -/
def State.ret (s : State) (r : Word) : State := s.answer s.inp.caller r

/-- A count as a result. -/
def num (n : Nat) : Word := BitVec.ofNat 64 n

/-! ### Buffers (R56) -/

/-- Whether a call may write a buffer: every byte on a writable plain page and in no poisoned granule. -/
def State.bufOk (s : State) (app : Nat) (w : Who) (va n : Nat) : Bool :=
  s.mayWrite app w va n && (List.range n).all fun i =>
    match (s.app app).lookup w (va + i) with
    | none => false
    | some x => !s.poisoned (x.addr (va + i))

/-- The eight bytes of a word. -/
def wordBytes (w : Nat) : List Nat := (cellsLE 0 8 w).map Prod.snd

/-- Writes words to a buffer of a call and returns their bytes; E_RANGE for a shorter buffer, E_INVAL where it cannot be
written (R59). -/
def State.writeOut (s : State) (k : Nat) (w : Who) (va len : Nat) (ws : List Nat) : State :=
  let bs := ws.flatMap wordBytes
  if len < bs.length then s.ret eRange
  else if s.bufOk k w va bs.length then (s.writeFor k w va bs).ret (num bs.length)
  else s.ret eInval

/-! ### Time limits (R56) -/

/-- The time limit that means none. -/
def forever : Word := 0xFFFFFFFFFFFFFFFF

/-- The call waits, or returns E_AGAIN at once for a limit of 0; a limit in µs is 1,100 clk each. -/
def State.block (s : State) (k : Nat) (p : PendKind) (limit : Word) : State :=
  if limit = 0 then s.ret eAgain
  else s.setApp k { s.app k with pend := some ⟨p, if limit = forever then none else some (s.clk + limit.toNat * 1100)⟩ }

/-- The result of a call whose time limit passes: E_TIMEOUT, or the word of a launch that has ended meanwhile (R81), or the
status of a collective that has (R60). -/
def App.expiredA0 (a : App) (p : PendKind) : Word :=
  match p with
  | .wait lid => ((a.launch lid).bind Launch.ended).getD eTimeout
  | .collective cid =>
    match (a.colls.find? fun c => decide (c.cid = cid)).map Coll.state with
    | some .done => 1
    | some .aborted => 5
    | some .active => eTimeout
    | none => eTimeout
  | _ => eTimeout

/-- The time limit of a pending call of a kind passes (R56). -/
def State.timeOut (s : State) (p : PendKind → Bool) : State :=
  match s.inp.caller with
  | .hart _ => s
  | .ctl k =>
    match (s.app k).pend with
    | none => s
    | some q =>
      match q.deadline with
      | none => s
      | some d => if p q.kind ∧ d ≤ s.clk then s.answer (.ctl k) ((s.app k).expiredA0 q.kind) else s

/-! ### The end of an application (R49, R289) -/

/-- MSI-X vector v is raised. -/
def State.raiseMsix (s : State) (v : Nat) : State := { s with msix := s.msix ++ [v] }

/-- Word index in BAR0 of slot `m` of a direction of channel n (R42, R50). -/
def slotWord (n : Nat) (d2h : Bool) (m : Nat) : Nat := (0x1000000 + n * 0x40000 + (if d2h then 0x20000 else 0) + m * 2048) / 8

/-- The header word that holds LEN and STATE of a slot. -/
def State.slotHdr (s : State) (n : Nat) (d2h : Bool) (m : Nat) : Nat := (mget 0 s.chan (slotWord n d2h m)).toNat

/-- STATE := v of a slot. -/
def State.setSlotState (s : State) (n : Nat) (d2h : Bool) (m v : Nat) : State :=
  { s with chan := mset 0 s.chan (slotWord n d2h m) (BitVec.ofNat 64 (s.slotHdr n d2h m / 256 * 256 + v)) }

/-- The host-to-device messages of a channel discarded. -/
def State.discardH2d (s : State) (n : Nat) : State :=
  (List.range 64).foldl (fun t m => if t.slotHdr n false m % 256 = 1 then t.setSlotState n false m 0 else t) s

/-- What is under way for a control program alone. -/
def isCallJob : Instr → Bool
  | .riuraWait => true
  | .collectiveWait => true
  | .wsloadReturn => true
  | .migrationCopyDone => true
  | _ => false

/-- Drops what is under way for the control program of an application. -/
def State.dropCalls (s : State) (k : Nat) : State :=
  { s with jobs := s.jobs.filter fun j => !(isCallJob j.1 && decide (j.2.caller = .ctl k)) }

/-- The result of a WAIT that is pending when its application ends: ABORTED, with the failures counted so far (R79, R97). -/
def App.abortedA0 (a : App) : Word :=
  match a.pend with
  | none => a.ctlA0
  | some p =>
    match p.kind with
    | .wait lid =>
      match a.launch lid with
      | none => 5
      | some l => BitVec.ofNat 64 (5 + l.nfail * 2 ^ 8 + (if l.nfail = 0 then 0xFFFFFF else l.firstFail) * 2 ^ 32)
    | _ => a.ctlA0

/-- The frames of an application's regions and KV pages leave it. -/
def State.releaseApp (s : State) (a : App) : State :=
  a.kv.foldl (fun t p => t.release ⟨p.2.pa, 65536, a.tenant⟩) (s.releaseMaps a.tenant a.maps)

/-- Ends an application: launches cancelled, crews removed as killed contexts, the address space unmapped, unread messages
discarded, the exit status kept, MSI-X vector 0. -/
def State.endApp (s : State) (k : Nat) (status : BitVec 32) : State :=
  let a := s.app k
  let s1 := s.setApp k { a with launches := [], pend := none, ctlA0 := a.abortedA0, state := .exited, exit := status }
  let s2 := (s1.crews.filter fun c => decide (c.app = k)).foldl (fun t c => t.killCrew c.id) s1
  let s3 := s2.peerKill k
  let b := s3.app k
  let s4 := (s3.setApp k { b with kernels := [], maps := [], kvwin := 0, kv := [], wsWin := 0, wsOff := [], wsSize := [],
                                  launches := [], windows := [], colls := [], shdb := false, confine := none, breaks := [] }).releaseApp b
  (((s4.dropCalls k).discardH2d k).kick).raiseMsix 0

/-- CONTROL_PROGRAM_FAULT's condition (R438): an access of the control program at address n of k bytes faults; `store` for a
store, `load` for a load (both for an AMO). -/
def State.ctlFaults (s : State) (app va bytes : Nat) (load store : Bool) : Bool :=
  (List.range bytes).any fun i =>
    let x := (s.app app).lookup ctlWho (va + i)
    (load && (match s.forLoad x with
      | .error _ => true
      | .ok y => (s.readImage y (va + i) 1).toOption.isNone)) ||
    (store && (match s.forStore x with
      | .error _ => true
      | .ok y => y.encoded))

end Sys2Proof.Machine
end

