-- ==== Sys2Proof/Machine/Colls.lean ====
section
/-! DEFINITION. COLLECTIVE (R60, R429): CREATE, ADDWIN, ADDBAR, WAIT and END. -/

namespace Sys2Proof.Machine

/-! ### The descriptor -/

/-- A collective descriptor read from memory: its eight words. -/
structure CollDesc where
  op : Nat
  cid : Nat
  nmem : Nat
  arg : Nat
  timeout : Nat
  /-- reserved fields are zero, and the fields that the operation does not use -/
  clean : Bool
deriving DecidableEq, Repr

/-- The fields of a descriptor's words. -/
def collDesc (ws : List Nat) : CollDesc :=
  let w : Nat → Nat := fun i => ws.getD i 0
  let op := w 0 % 16
  { op := op, cid := w 1 % 2 ^ 32, nmem := w 2 % 2 ^ 11, arg := w 3, timeout := w 4,
    clean := decide (w 0 / 16 = 0) && decide (w 1 / 2 ^ 32 = 0) && decide (w 2 / 2 ^ 11 = 0) && decide (w 5 = 0) &&
      decide (w 6 = 0) && decide (w 7 = 0) && decide (w 1 % 2 ^ 32 ≠ 0) && (decide (op = 0) || decide (w 2 = 0)) &&
      (decide (op ≤ 2) || decide (w 3 = 0)) && (decide (op = 3) || decide (w 4 = 0)) }

/-- The descriptor at an address; none where it is unaligned or cannot be read. -/
def State.readDesc (s : State) (k va : Nat) : Option CollDesc :=
  if va % 8 ≠ 0 then none
  else (s.readFor k ctlWho va 64).map fun bs => collDesc ((List.range 8).map fun i => leNat ((bs.drop (8 * i)).take 8))

/-- The collective of a number. -/
def App.coll (a : App) (cid : Nat) : Option Coll := a.colls.find? fun c => decide (c.cid = cid)

/-- Whether a feature is masked for an application's tenant (R117). -/
def State.remoteMasked (s : State) (k : Nat) : Bool := (s.tenantOf (s.app k).tenant).featmask.getLsbD 5

/-- A COLLECTIVE call of one operation; a call of another operation is not this event's. `other` takes what has no
operation: a descriptor that cannot be read, or a reserved OP. -/
def State.collective (s : State) (op : Nat) (other : Bool) (f : State → Nat → CollDesc → State) : Outcome State Fault Refusal :=
  match s.inp.caller with
  | .hart _ => if other then s.service true false fun s _ _ => s else .next s
  | .ctl k =>
    match s.readDesc k s.inp.a1.toNat with
    | none => if other then s.service true false fun s _ _ => s.ret eInval else .next s
    | some c =>
      if c.op = op then
        s.service true false fun s k _ => if c.clean then f s k c else s.ret eInval
      else if other && decide (5 ≤ c.op) then s.service true false fun s _ _ => s.ret eInval
      else .next s

/-! ### CREATE -/

/-- The package numbers of a member list; none where it is unaligned or cannot be read. -/
def State.readMembers (s : State) (k va n : Nat) : Option (List Nat) :=
  if va % 2 ≠ 0 then none
  else (s.readFor k ctlWho va (2 * n)).map fun bs => (List.range n).map fun i => leNat ((bs.drop (2 * i)).take 2)

/-- COLLECTIVE CREATE; a list that names a package twice is E_INVAL (log). -/
def execCollectiveCreate (s : State) : Outcome State Fault Refusal :=
  s.collective 0 true fun s k c =>
    if c.nmem = 0 ∨ 1024 < c.nmem then s.ret eRange
    else match s.readMembers k c.arg c.nmem with
      | none => s.ret eInval
      | some ms =>
        if (ms.any fun p => decide (1024 ≤ p)) ∨ (distinct ms []).length ≠ ms.length ∨ !ms.contains s.pkg then s.ret eInval
        else if ms.any fun p => !s.domain.contains p then s.ret eRange
        else if ((s.app k).coll c.cid).isSome then s.ret eBusy
        else if s.remoteMasked k then s.ret ePerm
        else
          let a := s.app k
          (s.setApp k { a with colls := a.colls ++ [{ cid := c.cid, members := ms, ended := [], state := .active, bars := [] }]
                      }).ret (num c.cid)

/-! ### ADDWIN (R429) -/

/-- The window of a record's four words; none where a field is reserved. -/
def windowOf (ws : List Nat) (pkg cid : Nat) : Option Window :=
  let w : Nat → Nat := fun i => ws.getD i 0
  let red := decide (bitsAt (w 0) 6 1 = 1)
  let home := bitsAt (w 0) 16 10
  let np := bitsAt (w 0) 32 11
  let len := bitsAt (w 2) 0 48
  if bitsAt (w 0) 7 9 ≠ 0 ∨ bitsAt (w 0) 26 6 ≠ 0 ∨ bitsAt (w 0) 43 21 ≠ 0 ∨ bitsAt (w 2) 48 16 ≠ 0 ∨ w 3 ≠ 0
      ∨ w 1 % 64 ≠ 0 ∨ len % 64 ≠ 0 ∨ 2 ^ 32 < len ∨ 1024 < np ∨ np = 0 ∨ (!red ∧ home ≠ pkg) then none
  else some { win := bitsAt (w 0) 0 6, red := red, home := home, npart := np, base := w 1, length := len, cid := cid }

/-- The record at an address. -/
def State.readWindow (s : State) (k va cid : Nat) : Option Window :=
  if va % 8 ≠ 0 then none
  else (s.readFor k ctlWho va 32).bind fun bs =>
    windowOf ((List.range 4).map fun i => leNat ((bs.drop (8 * i)).take 8)) s.pkg cid

/-- COLLECTIVE ADDWIN; the flag says that another package has registered another record for the window. -/
def execCollectiveAddwin (s : State) : Outcome State Fault Refusal :=
  s.collective 1 false fun s k c =>
    match s.readWindow k c.arg c.cid with
    | none => s.ret eInval
    | some w =>
      let a := s.app k
      if w.red && s.inp.flag then s.ret eInval
      else if a.windows.any fun x => decide (x.win = w.win) then s.ret eBusy
      else match a.coll c.cid with
        | none => s.ret eNoent
        | some q =>
          if s.remoteMasked k then s.ret ePerm
          else if q.state = .done then s.ret 0
          else (s.setApp k { a with windows := a.windows ++ [w] }).ret 0

/-! ### ADDBAR, WAIT, END -/

/-- Changes a collective. -/
def State.updColl (s : State) (k cid : Nat) (f : Coll → Coll) : State :=
  s.setApp k { s.app k with colls := (s.app k).colls.map fun c => if c.cid = cid then f c else c }

/-- COLLECTIVE ADDBAR. -/
def execCollectiveAddbar (s : State) : Outcome State Fault Refusal :=
  s.collective 2 false fun s k c =>
    if c.arg % 16 ≠ 0 ∨ (s.readFor k ctlWho c.arg 16).isNone then s.ret eInval
    else if ((s.app k).coll c.cid).isNone then s.ret eNoent
    else if s.remoteMasked k then s.ret ePerm
    else (s.updColl k c.cid fun q => { q with bars := q.bars ++ [c.arg] }).ret 0

/-- The result of a WAIT on a collective; none while it is unfinished. -/
def CollState.result : CollState → Option Word
  | .active => none
  | .done => some 1
  | .aborted => some 5

/-- A pending WAIT whose collective has finished returns its status. -/
def State.collAgain (s : State) (k cid : Nat) : State :=
  match ((s.app k).coll cid).bind fun q => q.state.result with
  | none => s
  | some r => s.answer (.ctl k) r

/-- The collective that an application's pending WAIT names. -/
def App.waitsForColl (a : App) : Option Nat :=
  match a.pend with
  | none => none
  | some p =>
    match p.kind with
    | .collective cid => some cid
    | _ => none

/-- COLLECTIVE WAIT: a call, or the look of a pending one. -/
def execCollectiveWait (s : State) : Outcome State Fault Refusal :=
  match s.inp.caller with
  | .hart _ => .next s
  | .ctl k =>
    match (s.app k).waitsForColl with
    | some cid => .next (s.collAgain k cid)
    | none =>
      s.collective 3 false fun s k c =>
        match (s.app k).coll c.cid with
        | none => s.ret eNoent
        | some q =>
          if s.remoteMasked k then s.ret ePerm
          else match q.state.result with
            | some r => s.ret r
            | none => s.block k (.collective c.cid) (BitVec.ofNat 64 c.timeout)

/-- COLLECTIVE_WAIT_TIMEOUT. -/
def execCollectiveWaitTimeout (s : State) : Outcome State Fault Refusal :=
  .next (s.timeOut fun p =>
    match p with
    | .collective _ => true
    | _ => false)

/-- A package's membership ends; with every member's the collective ends and its windows close, those of an aborted one too. -/
def State.endMember (s : State) (k cid pkg : Nat) : State :=
  let t := s.updColl k cid fun q =>
    let e := if q.ended.contains pkg then q.ended else q.ended ++ [pkg]
    { q with ended := e, state := if q.state = .active ∧ q.members.all e.contains then .done else q.state }
  match (t.app k).coll cid with
  | none => t
  | some q =>
    if q.members.all q.ended.contains then
      (t.setApp k { t.app k with windows := (t.app k).windows.filter fun w => decide (w.cid ≠ cid) }).lookColl k cid
    else t

/-- The applications with a collective of a number of which a package is a member: a peer is matched by package and number alone
(R60; log). -/
def State.partners (s : State) (pkg cid : Nat) : List Nat :=
  (s.apps.map Prod.fst).filter fun k => ((s.app k).coll cid).any fun q => q.members.contains pkg

/-- COLLECTIVE END; with the flag, the notice that package m has ended its membership of collective k. -/
def execCollectiveEnd (s : State) : Outcome State Fault Refusal :=
  if s.inp.flag then .next ((s.partners s.inp.m s.inp.k).foldl (fun t k => t.endMember k s.inp.k s.inp.m) s)
  else s.collective 4 false fun s k c =>
    match (s.app k).coll c.cid with
    | none => s.ret eNoent
    | some q =>
      if s.remoteMasked k then s.ret ePerm
      else
        let t := s.endMember k c.cid s.pkg
        let out : List (Instr × Input) := (q.members.filter fun p => decide (p ≠ s.pkg)).map fun p =>
          (.collectiveEnd, { n := p, m := s.pkg, k := c.cid, flag := true })
        ({ t with outbox := t.outbox ++ out } : State).ret 0

end Sys2Proof.Machine
end

