-- ==== Sys2Proof/Machine/Device.lean ====
section
/-! DEFINITION. The device around the cores: logs, power and thermal limits (R15 to R17), resets and bring-up (R32, R33, R44),
Husk (R28 to R31), PCL (R61), CXL.mem and the pool links (R22, R29, R191, R439), refresh windows (R175) and ECC (R193). -/

namespace Sys2Proof.Machine

/-! ### What still comes about when the device is stopped -/

/-- What the standby rail and the outside bring about, whatever the rest of the device does (R17, R28, R33, R34). -/
def onStandby : Instr → Bool
  | .readbackHartState => true
  | .readbackEngineQueue => true
  | .readbackSaveArea => true
  | .readbackErrorLog => true
  | .readbackLinkStatus => true
  | .readbackMemory => true
  | .readbackAlwaysOnLog => true
  | .readbackBadSpace => true
  | .readbackComplete => true
  | .mgmtRegisterWrite => true
  | .coldReset => true
  | .standbyRailGood => true
  | .huskAlarm => true
  | .spdmRequest => true
  | .poolLinkDown => true
  | .poolLinkUp => true
  | .configurationRequest => true
  | _ => false

/-- What comes about without a hart, Shurra or control: resets, power, the engines, the ports, the memories (R30). -/
def withoutHarts : Instr → Bool
  | .warmReset => true
  | .functionReset => true
  | .powerCapTakeEffect => true
  | .thermalThrottleStart => true
  | .thermalThrottleEnd => true
  | .thermalTrip => true
  | .cxlMemRead => true
  | .cxlMemWrite => true
  | .flitReceive => true
  | .replayLimit => true
  | .portEnable => true
  | .detectDone => true
  | .detectTimeout => true
  | .polarityDone => true
  | .polarityTimeout => true
  | .deskewDone => true
  | .deskewTimeout => true
  | .feclockDone => true
  | .feclockTimeout => true
  | .creditDone => true
  | .creditTimeout => true
  | .retrainDone => true
  | .retrainTimeout => true
  | .spillDone => true
  | .contextFillDone => true
  | .leaseFillDone => true
  | .transferRetire => true
  | .streamRefill => true
  | .wsRefreshWindowOpen => true
  | .wsRefreshWindowClose => true
  | .patrolScrub => true
  | .eccUncorrectable => true
  | .trainArrive => true
  | .trainAck => true
  | .fredAccept => true
  | .fredRoundDeliver => true
  | i => onStandby i

/-- Whether an event can come about: without the 54 V input only what the standby rail carries (R17), and with every hart
stopped only what needs none (R30). -/
def State.admits (s : State) (i : Instr) : Bool :=
  if s.tripped then onStandby i else if s.locked then withoutHarts i else true

/-! ### Logs (R36) -/

/-- A record in the always-on log. -/
def State.logAlways (s : State) (code addr : Nat) (detail : Word) : State :=
  { s with alwaysLog := s.alwaysLog ++ [⟨timeNs s.clk, code, addr, detail⟩] }

/-- A record in a die's error log. -/
def State.logDie (s : State) (d code addr : Nat) (detail : Word) : State :=
  { s with dieLogs := mset [] s.dieLogs d (mget [] s.dieLogs d ++ [⟨timeNs s.clk, code, addr, detail⟩]) }

/-- A word the spec gives no content. -/
def State.freeDetail (s : State) : Word := Config.freeWord s.tick 0

/-- DSTAT.STATE (R43). -/
def DevState.code : DevState → Nat
  | .boot => 0 | .ready => 1 | .stopped => 2 | .fatal => 3 | .resetting => 4

/-! ### Thermal limits (R17) -/

/-- THERMAL_THROTTLE_START: the junction is above 100 °C. -/
def execThermalThrottleStart (s : State) : Outcome State Fault Refusal := .next { s with throttled := true }

/-- THERMAL_THROTTLE_END: the hottest sensor reads 97 °C or less. -/
def execThermalThrottleEnd (s : State) : Outcome State Fault Refusal := .next { s with throttled := false }

/-- THERMAL_TRIP: the 54 V input is disabled and the event logged; no Husk policy applies. What the standby rail serves goes
on, a readback under way among it (R34). -/
def execThermalTrip (s : State) : Outcome State Fault Refusal :=
  .next ({ s with tripped := true, rails := false, jobs := s.jobs.filter fun j => onStandby j.1 }.logAlways (Config.eventCode 0) 0 s.freeDetail)

/-! ### Husk (R28, R30, R31) -/

/-- The low bits of an alarm's cause (R44). -/
def alarmIndex : AlarmClass → Nat
  | .tamper => 0
  | .voltage => 1
  | .clockGlitch => 2

/-- Whether a port has left the training states of Table 5, or has not entered them and is not about to. -/
def State.portSettled (s : State) (n : Nat) : Bool :=
  (match (mget {} s.ports n).st with
   | .disabled => !s.jobs.contains (.portEnable, { n := n })
   | .active => true
   | .retrain => true
   | .down => true
   | .detect => false
   | .polarity => false
   | .deskew => false
   | .fecLock => false
   | .credit => false)

/-- Whether bring-up is over: step 8 of Table 7 ends with the last port's training, after 20 ms at most (R33). -/
def State.bringOver (s : State) : Bool :=
  s.bringDone || (decide (s.bringStep = 8) &&
    (decide (s.bringSince + 22000000 ≤ s.clk) || (List.range 64).all s.portSettled))

/-- The device is STOPPED with a cause (R44). -/
def State.stopWith (s : State) (cause : Nat) : State := { s with dstat := .stopped, dcause := BitVec.ofNat 12 cause }

/-- The LOCK actions: harts stopped, keys withheld. A stronger policy renames the cause of a weaker one, and another alarm under
the policy in force keeps it (R44; log). -/
def State.lockDown (s : State) (cause : Nat) : State :=
  let t := { s with locked := true, bringStopped := false }
  if s.locked ∧ !s.bringStopped ∧ cause / 8 ≤ s.dcause.toNat / 8 then t else t.stopWith cause

/-- An alarm under a policy of R30; 0b11 acts as ERASE. Under LOG its record has the code of the same alarm under LOCK (log). ERASE
in bring-up ends the sequence at step 2 (R31). -/
def State.alarm (s : State) (c : AlarmClass) (policy : BitVec 2) : State :=
  match policy.toNat with
  | 0 => s.logAlways (0x030 + alarmIndex c) 0 s.freeDetail
  | 1 => (s.logAlways (0x030 + alarmIndex c) 0 s.freeDetail).lockDown (0x030 + alarmIndex c)
  | _ =>
    let t := (s.logAlways (0x038 + alarmIndex c) 0 s.freeDetail).lockDown (0x038 + alarmIndex c)
    { t with zeroised := true, bringStep := if s.bringOver then s.bringStep else 1 }

/-- HUSK_ALARM, once Husk runs. -/
def execHuskAlarm (s : State) : Outcome State Fault Refusal :=
  .next (if s.huskBooted then s.alarm s.inp.alarm (Config.alarmPolicy s.inp.alarm) else s)

/-- SPDM_REQUEST: an answer; a key exchange opens the session. -/
def execSpdmRequest (s : State) : Outcome State Fault Refusal :=
  .next (if s.huskBooted then
      { s with answers := s.answers ++ [((List.range 64).map fun i => Config.spdmByte s.tick i, false)],
               spdmSession := s.spdmSession || decide (s.inp.spdm = .keyExchange) }
    else s)

/-! ### Resets (R32, R38, R44) -/

/-- COLD_RESET: everything as after power-on, but for what lies outside the device and the fuses; keys erased stay absent. -/
def execColdReset (s : State) : Outcome State Fault Refusal :=
  .next { State.reset with
    events := s.events, tick := s.tick, hostMem := s.hostMem, pkg := s.pkg, domain := s.domain, outbox := s.outbox,
    msix := s.msix, answers := s.answers, cfgAnswers := s.cfgAnswers, hostErrs := s.hostErrs, poolADown := s.poolADown,
    poolBDown := s.poolBDown, unprovisioned := s.unprovisioned || s.zeroised }

/-- What a warm and a function reset share: every application ended, Riura's and the window's registers at their reset
values; memory, keys, logs, save areas, the cap and the readback window kept. The frames of the ended applications keep their
keys until Riura erases them (R29). -/
def State.endAll (s : State) : State :=
  { State.reset with
    events := s.events, clk := s.clk, tick := s.tick, pkg := s.pkg, domain := s.domain, mem := s.mem, hostMem := s.hostMem,
    poison := s.poison, segHdr := s.segHdr, hdrPoison := s.hdrPoison,
    leaving := s.keyedFrames, outbox := s.outbox, dstat := .resetting, dcause := s.dcause, msix := s.msix,
    rbSpace := s.rbSpace, rbFreeze := s.rbFreeze, rbCount := s.rbCount, rbAddr := s.rbAddr, rbCode := s.rbCode,
    rbFirst := s.rbFirst, rbData := s.rbData, spdmSession := s.spdmSession, answers := s.answers, powerCap := s.powerCap,
    throttled := s.throttled, standbyRail := s.standbyRail, huskBooted := s.huskBooted, rails := s.rails,
    keysOut := s.keysOut, zeroised := s.zeroised, unprovisioned := s.unprovisioned || s.zeroised, poolADown := s.poolADown,
    poolBDown := s.poolBDown, alwaysLog := s.alwaysLog, dieLogs := s.dieLogs, wsOpen := s.wsOpen, ctxArea := s.ctxArea,
    eccCorrected := s.eccCorrected, hostErrs := s.hostErrs, cfgAnswers := s.cfgAnswers }

/-- Whether a warm or function reset can occur: Husk runs, and the device is not tripped. -/
def State.canReset (s : State) : Bool := s.huskBooted && !s.tripped

/-- Whether a reset other than a cold one leaves the device stopped (R30, R44). -/
def State.heldStopped (s : State) : Bool := decide (s.dstat = .stopped) && !s.bringStopped

/-- WARM_RESET: bring-up runs again from step 2; a device held by LOCK, ERASE or UNPROVISIONED stays STOPPED. -/
def execWarmReset (s : State) : Outcome State Fault Refusal :=
  .next (if !s.canReset then s
    else if s.heldStopped then { s.endAll with dstat := .stopped, locked := s.locked, bringStep := s.bringStep }
    else { s.endAll with bringStep := 1 }.later .bringUp)

/-- FUNCTION_RESET: Riura is restarted from step 6; a stopped device stays STOPPED, and a FATAL one waits for the warm reset
that the fatal error raises (R44). -/
def execFunctionReset (s : State) : Outcome State Fault Refusal :=
  .next (if !s.canReset || decide (s.dstat = .fatal) then s
    else if s.dstat = .stopped ∨ s.bringStopped ∨ s.bringStep < 5 then
      { s.endAll with dstat := s.dstat, locked := s.locked, bringStep := s.bringStep, bringStopped := s.bringStopped,
                      jobs := s.jobs.filter fun j => decide (j.1 = .bringUp) }
    else { s.endAll with bringStep := 5, ports := s.ports }.later .bringUp)

/-- RIURA_FATAL_ERROR: FATAL with cause 0x050, the detail in die 0's error log, and a warm reset to follow. -/
def execRiuraFatalError (s : State) : Outcome State Fault Refusal :=
  .next (if s.dstat = .ready then
      ({ s with dstat := .fatal, dcause := 0x050 }.logDie 0 0x050 0 s.inp.a1).later .warmReset
    else s)

/-! ### Bring-up (R33, R44) -/

/-- STANDBY_RAIL_GOOD: Husk runs its boot ROM and reads the fuses (step 1); with a fuse fault the device stays dark, and the
standby status pin says so. -/
def execStandbyRailGood (s : State) : Outcome State Fault Refusal :=
  .next (if s.standbyRail then s
    else if s.inp.failAt = some .fuse then
      { s with standbyRail := true, bringStep := 1, bringStopped := true, fuseFault := true }
    else { s with standbyRail := true, huskBooted := true, bringStep := 1 }.later .bringUp)

/-- A bring-up that stops at a step with its cause logged. -/
def State.bringFail (s : State) (cause : Nat) : State :=
  { (s.logAlways cause 0 s.freeDetail).stopWith cause with bringStopped := true }

/-- The step reached, and the next one to come. -/
def State.bringOn (s : State) (k : Nat) : State := { s with bringStep := k }.later .bringUp

/-- Whether PCL 3.0 starts the Riura image (R62). -/
def riuraStarts : Bool := decide (Config.riuraNeedsPcl.toNat ≤ 0x00030000)

/-- Step `k + 1` of Table 7 after step `k`. -/
def State.bringNext (s : State) (f : Option BringUpFail) : State :=
  match s.bringStep with
  | 1 => if f = some .bootAuth then { s.bringFail 0x001 with locked := true } else s.bringOn 2
  | 2 =>
    if f = some .rail then
      { s.logAlways 0x002 0 s.freeDetail with rails := false, dcause := 0x002, bringStopped := true }
    else { s with rails := true }.bringOn 3
  | 3 => if f = some .dieLink then s.bringFail 0x003 else { s with dstat := .boot }.bringOn 4
  | 4 =>
    match f with
    | some (.hbm n) => s.bringFail (0x010 + n.toNat)
    | _ => s.bringOn 5
  | 5 =>
    if f = some .riuraAuth ∨ !riuraStarts then s.bringFail 0x020
    else { s with pclStarted := true, dstat := .boot }.bringOn 6
  | 6 =>
    if s.unprovisioned then { s.stopWith 0x040 with bringStep := 6 }
    else ({ s with dstat := .ready, dcause := 0 } : State).reap.bringOn 7
  | 7 =>
    ((List.range 64).foldl (fun (t : State) p => t.later .portEnable { n := p })
      { s with bringStep := 8, bringSince := s.clk }).later .bringUp
  | 8 => if s.bringOver then { s with bringDone := true } else s.later .bringUp
  | _ => s

/-- BRING_UP: the next step, unless bring-up has stopped. -/
def execBringUp (s : State) : Outcome State Fault Refusal :=
  .next (if s.huskBooted && !s.locked && !s.tripped && !s.bringStopped && decide (s.dstat ≠ .stopped)
      && decide (s.dstat ≠ .fatal) then s.bringNext s.inp.failAt else s)

/-- CONFIGURATION_REQUEST: with Retry Status from step 4 until step 7; before the link trains nothing answers. -/
def execConfigurationRequest (s : State) : Outcome State Fault Refusal :=
  .next (if s.tripped then s
    else if s.dstat = .stopped ∨ 7 ≤ s.bringStep then { s with cfgAnswers := s.cfgAnswers ++ [false] }
    else if 3 ≤ s.bringStep then { s with cfgAnswers := s.cfgAnswers ++ [true] }
    else s)

/-! ### PCL (R61, R62): a0 and a1 of the call stand in a1 and a2 of the input -/

/-- A PCL call returns an error and a value. -/
def State.pclRet (s : State) (e v : Word) : State := { s with pclErr := e, pclVal := v }

/-- SBI_ERR_NOT_SUPPORTED. -/
def sbiNotSupported : Word := BitVec.ofInt 64 (-2)

/-- SBI_ERR_INVALID_PARAM. -/
def sbiInvalid : Word := BitVec.ofInt 64 (-3)

/-- A PCL function: its value, none where an argument is out of range. -/
def State.pcl (s : State) (f : State → Option (State × Word)) : Outcome State Fault Refusal :=
  .next (if !s.pclStarted then s
    else match f s with
      | none => s.pclRet sbiInvalid 0
      | some r => r.1.pclRet 0 r.2)

/-- GET_VERSION: 3.0. -/
def execPclGetVersion (s : State) : Outcome State Fault Refusal := s.pcl fun t => some (t, 0x00030000)

/-- GET_FEATURES. -/
def execPclGetFeatures (s : State) : Outcome State Fault Refusal :=
  s.pcl fun t => if 255 < t.inp.a1.toNat then none else some (t, featsWord)

/-- The cap that a request sets (R15). -/
def capOf (w : Nat) : Nat := min 2800 (max 1200 (w / 25 * 25))

/-- A cap set: it takes effect a little later. -/
def State.setCap (s : State) (w : Nat) : State := ({ s with capPending := some (capOf w) } : State).later .powerCapTakeEffect

/-- POWER_CAP_SET. -/
def execPclPowerCapSet (s : State) : Outcome State Fault Refusal :=
  s.pcl fun t => some (t.setCap t.inp.a1.toNat, BitVec.ofNat 64 (capOf t.inp.a1.toNat))

/-- POWER_CAP_GET. -/
def execPclPowerCapGet (s : State) : Outcome State Fault Refusal := s.pcl fun t => some (t, BitVec.ofNat 64 t.powerCap)

/-- CONTEXT_AREA. -/
def execPclContextArea (s : State) : Outcome State Fault Refusal :=
  s.pcl fun t =>
    if 255 < t.inp.a1.toNat ∨ 2 ^ 52 ≤ t.inp.a2.toNat then none
    else some ({ t with ctxArea := mput t.ctxArea t.inp.a1.toNat t.inp.a2.toNat }, 0)

/-- TENANT_KEY with a1 = 0; an a1 that names no function is out of range. -/
def execPclTenantKeyInstall (s : State) : Outcome State Fault Refusal :=
  if s.inp.a2 = 1 then .next s
  else s.pcl fun t =>
    if 63 < t.inp.a1.toNat ∨ t.inp.a2 ≠ 0 then none
    else some ({ t with keysOut := mset false t.keysOut t.inp.a1.toNat false }, 0)

/-- TENANT_KEY with a1 = 1. -/
def execPclTenantKeyWithdraw (s : State) : Outcome State Fault Refusal :=
  if s.inp.a2 ≠ 1 then .next s
  else s.pcl fun t =>
    if 63 < t.inp.a1.toNat then none
    else some ({ t with keysOut := mset false t.keysOut t.inp.a1.toNat true }, 0)

/-- RESET with a0 = 0 does not return; an a0 that names no reset is out of range. -/
def execPclResetWarm (s : State) : Outcome State Fault Refusal :=
  if s.inp.a1 = 1 then .next s
  else if s.inp.a1 = 0 then .next (if s.pclStarted then s.postFront .warmReset else s)
  else s.pcl fun _ => none

/-- RESET with a0 = 1. -/
def execPclResetFunction (s : State) : Outcome State Fault Refusal :=
  .next (if s.inp.a1 = 1 ∧ s.pclStarted then s.postFront .functionReset else s)

/-- An FID, in n, above 6. -/
def execPclUnsupported (s : State) : Outcome State Fault Refusal :=
  .next (if s.pclStarted ∧ 6 < s.inp.n then s.pclRet sbiNotSupported 0 else s)

/-! ### CXL.mem (R21, R29, R439) -/

/-- Bytes of the device-memory window. -/
def windowBytes : Nat := 2 ^ 40

/-- A request beyond the window, logged and reported. -/
def State.beyondWindow (s : State) (a : Nat) : State :=
  { s.logDie 0 (Config.eventCode 4) a s.freeDetail with hostErrs := s.hostErrs ++ [a] }

/-- Whether a physical address lies in a frame assigned to an application, or in one that has left it and still has its key
(R29). -/
def State.assigned (s : State) (pa : Nat) : Bool := s.usedFrames.any fun u => decide (u.1 ≤ pa) && decide (pa < u.2)

/-- Whether the host link carries CXL.mem requests: under LOCK it keeps only the management window (R30). -/
def State.cxlUp (s : State) : Bool := !s.tripped && !s.locked && decide (7 ≤ s.bringStep)

/-- One round of the memory cipher on the halves of a block, and its inverse. -/
def cipherStep (k a i : Nat) (x : BitVec 64 × BitVec 64) : BitVec 64 × BitVec 64 := (x.2, x.1 ^^^ Config.cipherRound i k a x.2)

/-- The inverse of a round. -/
def cipherBack (k a i : Nat) (y : BitVec 64 × BitVec 64) : BitVec 64 × BitVec 64 := (y.2 ^^^ Config.cipherRound i k a y.1, y.1)

/-- The 16 bytes of block a enciphered under a key: 0 the system key, t + 1 that of tenant t. R29 names AES-256-XTS; what counts here
is that it can be undone and depends on key, place and the whole block, its rounds are free (log). -/
def encipher (k a : Nat) (x : BitVec 64 × BitVec 64) : BitVec 64 × BitVec 64 := [0, 1, 2, 3].foldl (fun y i => cipherStep k a i y) x

/-- The inverse of `encipher`. -/
def decipher (k a : Nat) (x : BitVec 64 × BitVec 64) : BitVec 64 × BitVec 64 := [3, 2, 1, 0].foldl (fun y i => cipherBack k a i y) x

/-- The two halves of 16 bytes. -/
def halvesOf (n : Nat) : BitVec 64 × BitVec 64 := (BitVec.ofNat 64 n, BitVec.ofNat 64 (n / 2 ^ 64))

/-- The 16 bytes of two halves. -/
def ofHalves (x : BitVec 64 × BitVec 64) : Nat := x.1.toNat + x.2.toNat * 2 ^ 64

/-- What a key shows of 16 bytes that stand under another: `k` the key of the bytes, `j` the key of the access. -/
def recipher (k j a n : Nat) : Nat := ofHalves (decipher j a (encipher k a (halvesOf n)))

/-- The tenant whose key a frame has that holds an address (R29). -/
def State.frameTenant (s : State) (pa : Nat) : Option Nat :=
  (s.keyedFrames.find? fun r => decide (r.pa ≤ pa) && decide (pa < r.pa + r.len)).map OldFrame.tenant

/-- The byte that a host reads at an address: that of an application's frame as the system key deciphers it. -/
def State.hostByte (s : State) (pa : Nat) : Nat :=
  match s.frameTenant pa with
  | none => (mget unlistedByte s.mem pa).toNat
  | some t => bitsAt (recipher (t + 1) 0 (pa / 16) (readLE s.mem (pa / 16 * 16) 16)) (8 * (pa % 16)) 8

/-- What memory holds at an address after a host has written bytes from `a` on: in an application's frame the whole block changes, as
its tenant's key deciphers what the system key has enciphered. -/
def State.hostCell (s : State) (a : Nat) (data : List (BitVec 8)) (pa : Nat) : List (Nat × Nat) :=
  let put : Nat → Option Nat := fun p => if a ≤ p then (data[p - a]?).map BitVec.toNat else none
  match s.frameTenant pa with
  | none => (put pa).toList.map fun v => (pa, v)
  | some t =>
    let seen := packW 8 ((List.range 16).map fun i => (put (pa / 16 * 16 + i)).getD (s.hostByte (pa / 16 * 16 + i)))
    [(pa, bitsAt (recipher 0 (t + 1) (pa / 16) seen) (8 * (pa % 16)) 8)]

/-- A host's write of bytes from `a` on, by whole blocks. -/
def State.hostWrite (s : State) (a : Nat) (data : List (BitVec 8)) : State :=
  if data = [] then s
  else s.writePhys false ((List.range (((a + data.length + 15) / 16 - a / 16) * 16)).flatMap fun i =>
    s.hostCell a data (a / 16 * 16 + i))

/-- CXL_MEM_READ of m bytes at n; a request that runs past the window's end counts whole as beyond it (log). -/
def execCxlMemRead (s : State) : Outcome State Fault Refusal :=
  let a := s.inp.n
  .next (if !s.cxlUp then s
    else if windowBytes < a + s.inp.m then
      { s.beyondWindow a with answers := s.answers ++ [(List.replicate s.inp.m 0, true)] }
    else
      { s with answers := s.answers ++
          [((List.range s.inp.m).map fun i => BitVec.ofNat 8 (s.hostByte (a + i)),
            (List.range s.inp.m).any fun i => s.poisoned (a + i))] })

/-- CXL_MEM_WRITE of the input's data at n; a frame of an application receives what its tenant's key makes of them, and a
request that runs past the window's end counts whole as beyond it (log). -/
def execCxlMemWrite (s : State) : Outcome State Fault Refusal :=
  let a := s.inp.n
  .next (if !s.cxlUp then s
    else if windowBytes < a + s.inp.data.length then s.beyondWindow a
    else if s.zeroised then s
    else s.hostWrite a s.inp.data)

/-- POOL_LINK_DOWN (R22, R191). -/
def execPoolLinkDown (s : State) : Outcome State Fault Refusal :=
  .next (match s.inp.link with
    | .a => { s with poolADown := true }
    | .b => { s with poolBDown := true })

/-- POOL_LINK_UP. -/
def execPoolLinkUp (s : State) : Outcome State Fault Refusal :=
  .next (match s.inp.link with
    | .a => { s with poolADown := false }
    | .b => { s with poolBDown := false })

/-! ### Refresh windows (R175) -/

/-- The bank in its refresh window at a clk. -/
def refreshBank (clk : Nat) : Option Nat :=
  let ph := clk % 70400
  if ph % 2200 < 550 then some (ph / 2200) else none

/-- WS_REFRESH_WINDOW_OPEN of bank n. -/
def execWsRefreshWindowOpen (s : State) : Outcome State Fault Refusal :=
  .next (if refreshBank s.clk = some s.inp.n then { s with wsOpen := some s.inp.n } else s)

/-- WS_REFRESH_WINDOW_CLOSE. -/
def execWsRefreshWindowClose (s : State) : Outcome State Fault Refusal :=
  .next (if refreshBank s.clk = s.wsOpen then s else { s with wsOpen := none })

/-! ### ECC (R193, R194) -/

/-- The die whose error log an address belongs to. -/
def dieOfPhys (pa : Nat) : Nat :=
  if pa < 2 ^ 40 then dieOfHbm pa
  else if pa < 2 ^ 41 then
    let p := (pa - 2 ^ 40) / 2 ^ 24
    if p < 10 then 0 else if p < 20 then 1 else if p < 26 then 2 else 3
  else if pa < 2 ^ 44 then min 3 ((pa - 2 ^ 41) / 2 ^ 31)
  else if pa < 2 ^ 45 then 2 else 3

/-- An uncorrectable error poisons the granule of an address; the event is logged once. -/
def State.uncorrectable (s : State) (pa : Nat) : State :=
  if mget false s.poison (pa / 64) then s
  else (s.setPoison (pa / 64) true).logDie (dieOfPhys pa) (Config.eventCode 3) pa s.freeDetail

/-- An uncorrectable error in a granule of the header table, named by the slot of its first segment (R143). -/
def State.headerError (s : State) (slot : Nat) : State :=
  if mget false s.hdrPoison slot then s
  else ({ s with hdrPoison := mset false s.hdrPoison slot true }).logDie (dieOfPhys slot) (Config.eventCode 3) slot s.freeDetail

/-- ECC_UNCORRECTABLE at n; the flag says that n names a granule of the header table. -/
def execEccUncorrectable (s : State) : Outcome State Fault Refusal :=
  .next (if s.inp.flag then s.headerError s.inp.n else s.uncorrectable s.inp.n)

/-- A corrected error at an address: written back, counted, and the count recorded in the die's error log (R193). -/
def State.corrected (s : State) (pa : Nat) : State :=
  let d := dieOfPhys pa
  let n := mget 0 s.eccCorrected d + 1
  ({ s with eccCorrected := mset 0 s.eccCorrected d n }).logDie d (Config.eventCode 5) pa (BitVec.ofNat 64 n)

/-- PATROL_SCRUB of the granule of n. -/
def execPatrolScrub (s : State) : Outcome State Fault Refusal :=
  .next (match s.inp.ecc with
    | .none => s
    | .corrected => s.corrected s.inp.n
    | .uncorrectable => if s.inp.flag then s.headerError s.inp.n else s.uncorrectable s.inp.n)

end Sys2Proof.Machine
end

