-- ==== Sys2Proof/Machine/Pages.lean ====
section
/-! DEFINITION. Placing and moving mapped pages (R180, R181, R183, R185 to R187, R258): page sizes, tiers, splitting a
region, and moving one to new frames. -/

namespace Sys2Proof.Machine

/-- log2 of the largest page size, at most 2^most, that divides every number of the list (R181, log). -/
def pageLogOf (most : Nat) (ns : List Nat) : Nat :=
  ([30, 21, 16].find? fun l => decide (l ≤ most) && ns.all fun n => decide (n % 2 ^ l = 0)).getD 12

/-- Tier code 0x00 as the code of the die it names now: the one with the most free HBM4E (R183); any other code stands. -/
def State.tierCode (s : State) (code : Nat) : Nat := if code = 0 then 0x10 + s.roomiestDie else code

/-- The memory a tier code names: where it lies, its size and the greatest page size (R183); none for another code. -/
def State.tierRange (s : State) (code : Nat) : Option (Nat × Nat × MemKind × Nat) :=
  if s.tierCode code = 1 then
    let l : PoolLink := if Config.poolChoice s.tick then .b else .a
    some (tier2Base l, 2 ^ 43, .tier2 l, 30)
  else if 0x10 ≤ s.tierCode code ∧ s.tierCode code ≤ 0x13 then
    some (hbmBase (s.tierCode code - 0x10), hbmSize (s.tierCode code - 0x10), .tier1, 30)
  else if 0x20 ≤ code ∧ code ≤ 0x3F then some (polderBase (code - 0x20), 2 ^ 24, .polder, 16)
  else none

/-- Frames for a region in the tier that a code names: a second pool link is tried when the chosen one is full. -/
def State.allocTier (s : State) (code size align : Nat) : Option (Nat × MemKind × State) :=
  match s.tierRange code with
  | none => none
  | some (lo, len, k, _) =>
    match s.takeFrames lo len size align with
    | some r => some (r.1, k, r.2)
    | none =>
      match k with
      | .tier2 l =>
        let o : PoolLink := match l with
          | .a => .b
          | .b => .a
        (s.takeFrames (tier2Base o) (2 ^ 43) size align).map fun r => (r.1, .tier2 o, r.2)
      | .tier1 => none
      | .polder => none
      | .weight => none
      | .kv => none

/-- Whether a region already lies where a tier code puts it; code 0x00 is taken as that of the die it names (`tierCode`). -/
def Mapping.inTier (m : Mapping) (code : Nat) : Bool :=
  match m.kind with
  | .tier1 => decide (code = 0x10 + dieOfHbm m.pa)
  | .tier2 _ => decide (code = 1)
  | .polder => decide (code = 0x20 + (m.pa - polderBase 0) / 2 ^ 24)
  | .weight => false
  | .kv => false

/-- The part of a region from a to b. -/
def Mapping.cut (m : Mapping) (a b : Nat) : Mapping :=
  if a = m.va ∧ b = m.top then m
  else { m with va := a, pages := (b - a) / 4096, pa := m.pa + (a - m.va), pageLog := pageLogOf m.pageLog [a, b - a] }

/-- A region from `a` on in the parts that rising cuts make of it. -/
def Mapping.pieces (m : Mapping) : Nat → List Nat → List Mapping
  | a, [] => [m.cut a m.top]
  | a, b :: bs => if a < b ∧ b < m.top then m.cut a b :: m.pieces b bs else m.pieces a bs

/-- Where a bound inside a region cuts it: at the bound, and around the larger page that it splits (R185). -/
def Mapping.cutsAt (m : Mapping) (b : Nat) : List Nat :=
  if m.va < b ∧ b < m.top then [b / 2 ^ m.pageLog * 2 ^ m.pageLog, b, roundUp b (2 ^ m.pageLog)] else []

/-- Every region cut at the bounds of [lo, hi), which splits only the larger pages that a bound lies in (R185). -/
def carve (ms : List Mapping) (lo hi : Nat) : List Mapping :=
  ms.flatMap fun m => m.pieces m.va (sortBy (fun x y => decide (x ≤ y)) (m.cutsAt lo ++ m.cutsAt hi))

/-- Whether [lo, hi) covers part of a range-mapped region and not all of it. -/
def partRange (ms : List Mapping) (lo hi : Nat) : Option Mapping :=
  ms.find? fun m => m.range && decide (lo < m.top) && decide (m.va < hi) && !(decide (lo ≤ m.va) && decide (m.top ≤ hi))

/-- The first 4 KiB page of [va, va + 4096 n) that maps nothing. -/
def firstHole (ms : List Mapping) (va : Nat) : Nat → Option Nat
  | 0 => none
  | n + 1 => if (findMap ms va).isSome then firstHole ms (va + 4096) n else some va

/-- Copies physical bytes, poison and segment headers from one frame to another. -/
def State.copyFrames (s : State) (src dst len : Nat) : State :=
  let inside : Nat → Bool := fun a => decide (src ≤ a) && decide (a < src + len)
  { s with
    mem := (s.mem.filter fun c => inside c.1).foldl (fun m c => mset unlistedByte m (c.1 - src + dst) c.2) s.mem,
    poison := (s.poison.filter fun g => inside (g.1 * 64)).foldl (fun m g => mset false m (g.1 - src / 64 + dst / 64) g.2) s.poison,
    segHdr := (s.segHdr.filter fun g => inside g.1).foldl (fun m g => mset none m (g.1 - src + dst) g.2) s.segHdr,
    hdrPoison := (s.hdrPoison.filter fun g => inside g.1).foldl (fun m g => mset false m (g.1 - src + dst) g.2) s.hdrPoison }

/-- A hart whose links to lines of a frame are broken by another agent. -/
def Hart.breakFrame (h : Hart) (pa len : Nat) : Hart :=
  h.breakLinks true (h.links.filter fun l => decide (pa / 64 ≤ l) && decide (l < (pa + len) / 64))

/-- Breaks every link to lines of a frame. -/
def State.breakFrame (s : State) (pa len : Nat) : State :=
  { s with hart := s.hart.breakFrame pa len, others := s.others.map fun h => h.breakFrame pa len }

/-- Moves one region to the tier of a code: its contents on new frames, the mapping changed in one event, and the old frames
given back; none where the tier has no room, or the link of the pool chosen is down (R187). -/
def State.moveRegion (s : State) (app : Nat) (m : Mapping) (code : Nat) : Option State :=
  let len := m.pages * 4096
  match s.allocTier code len (2 ^ m.pageLog) with
  | none => none
  | some (pa, k, s1) =>
    if s1.linkDown k then none
    else
      let s2 := (s1.copyFrames m.pa pa len).breakFrame m.pa len
      let a := s2.app app
      some ((s2.setApp app { a with maps := a.maps.map fun q =>
        if q = m then { q with pa := pa, kind := k, migr := none,
                               pageLog := if k = .polder then min q.pageLog 16 else q.pageLog } else q }).release ⟨m.pa, len, a.tenant⟩)

/-- Moves regions in order, all or none. -/
def State.moveAll (s : State) (app : Nat) (code : Nat) : List Mapping → Option State
  | [] => some s
  | m :: ms => (s.moveRegion app m code).bind fun t => t.moveAll app code ms

/-! ### The remap event (R187, R188, R227) -/

/-- Whether a delivery that waits in the machine has been held back by a migration: a train marked by its flag, a merged
value marked by k. -/
def isHeldDelivery (j : Instr × Input) : Bool :=
  (decide (j.1 = .trainArrive) && j.2.flag) || (decide (j.1 = .fredRoundDeliver) && !j.2.flag && decide (j.2.k = 1))

/-- Whether a control program's own store or AMO is what it waits for. -/
def App.ctlParked (a : App) : Bool :=
  match a.pend.map Pending.kind with
  | some (.store _ _) => true
  | some (.amo _ _ _ _) => true
  | _ => false

/-- What parked performs now, before anything else: the parked stores of harts, the engine writes and folds, the deliveries
held back, and the parked store or AMO of a control program. -/
def State.replayParked (s : State) : State :=
  let xs := (s.transfers.filter Transfer.parked).map fun t => (Instr.transferRetire, ({ n := t.id } : Input))
  let cs := (s.apps.filter fun p => p.2.ctlParked).map fun p =>
    (Instr.controlProgramFault, ({ caller := .ctl p.1 } : Input))
  { s with
    urgent := (s.harts.filter fun h => h.parked).map Hart.id,
    events := xs ++ s.jobs.filter isHeldDelivery ++ cs ++ s.events,
    jobs := s.jobs.filter fun j => !isHeldDelivery j }

end Sys2Proof.Machine
end

