-- ==== Sys2Proof/Machine/Flags.lean ====
section
/-! DEFINITION. The flags, counters and the stochastic generator that instructions update on the side (R160 to R162, R164). -/

namespace Sys2Proof.Machine

/-- One bit of the generator's feedback x^64 + x^63 + x^61 + x^60 + 1 (R160). -/
def lfsrBit (s : Nat) : Nat := (s / 2 ^ 63 + s / 2 ^ 62 + s / 2 ^ 60 + s / 2 ^ 59) % 2

/-- `k` steps of the generator: the state and the bits drawn so far. -/
def lfsrRun : Nat → Nat × Nat → Nat × Nat
  | 0, p => p
  | k + 1, p => lfsrRun k ((p.1 * 2 + lfsrBit p.1) % 2 ^ 64, p.2 * 2 + lfsrBit p.1)

/-- One draw: the generator's new state and 32 random bits (R160). -/
def draw (seed : Nat) : Nat × Nat := lfsrRun 32 (if seed = 0 then 0x9E3779B97F4A7C15 else seed, 0)

/-- `n` draws discarded. -/
def skipDraws : Nat → Nat → Nat
  | 0, s => s
  | n + 1, s => skipDraws n (draw s).1

/-- What an instruction accumulates beside its elements: flags, the generator, and the counts of R164. -/
structure Side2 where
  flags : Flags := {}
  seed : Nat := 0
  clipped : Nat := 0
  examined : Nat := 0
deriving DecidableEq, Repr

/-- The draw of one element: the bits and the new generator state; 0 where the mode is not STO. -/
def drawIf (rm : RM) (seed : Nat) : Nat × Nat := if rm = .sto then let d := draw seed; (d.2, d.1) else (0, seed)

/-- The state of the generator after `n` draws. -/
def afterDraws : Nat → Nat → Nat
  | 0, seed => seed
  | n + 1, seed => afterDraws n (draw seed).1

/-- A counter that holds at 2^64 − 1 (R116). -/
def holdAdd (c : Word) (n : Nat) : Word := BitVec.ofNat 64 (min (c.toNat + n) (2 ^ 64 - 1))

/-- The side effects of an instruction made part of the hart (R162, R164). -/
def Hart.settle (h : Hart) (x : Side2) : Hart :=
  { h.raise x.flags with srseed := BitVec.ofNat 64 x.seed, clipc := holdAdd h.clipc x.clipped,
                         elemc := holdAdd h.elemc x.examined }

/-- The start of an instruction's side effects: the hart's generator, nothing raised. -/
def Hart.side (h : Hart) : Side2 := { seed := h.srseed.toNat }

end Sys2Proof.Machine
end

