-- ==== Sys2Proof/Machine/Operands.lean ====
section
/-! DEFINITION. Vector operands: register groups as they are read and written (R105 to R108), widening at operand read
(R157), masks, the pop of a bound stream (R249), block geometry (R170), and the element-wise driver (R337, R338). -/

namespace Sys2Proof.Machine

/-! ### Groups of physical registers -/

/-- Physical register w(n). -/
def Hart.vreg (h : Hart) (w : Nat) : VReg := mget {} h.v w

/-- Elements of `bits` bits that one register holds (R105). -/
def perReg (grant bits : Nat) : Nat := grant * 8 / bits

/-- The array of a group's bytes (R124): `g` registers from `w` on. -/
def Hart.groupArr (h : Hart) (w : Nat) : Nat → Nat
  | 0 => 0
  | g + 1 => (h.vreg w).data.toNat % 2 ^ (8 * h.vlgrant) + h.groupArr (w + 1) g * 2 ^ (8 * h.vlgrant)

/-- The elements of one PLAIN register: those at or above LEN read zero (R108). -/
def plainElems (f : Fmt) (per : Nat) (r : VReg) : List Nat :=
  fitLen per (unpackAt f.bits r.data.toNat 0 (min r.desc.len per))

/-- The elements of the PLAIN registers of a group, and the index past the last element that some LEN covers. -/
def plainGroup (f : Fmt) (per : Nat) : List VReg → List Nat × Nat
  | [] => ([], 0)
  | r :: rs =>
    let p := plainGroup f per rs
    (plainElems f per r ++ p.1, if p.2 = 0 then min r.desc.len per else per + p.2)

/-- The block scales that the registers of a group hold (R107). -/
def plainScales (per : Nat) (rs : List VReg) : List Nat :=
  rs.flatMap fun r => unpackAt 8 r.scale.toNat 0 (ceilDiv per 32)

/-- The registers of a group. -/
def Hart.vregs (h : Hart) (w g : Nat) : List VReg := (List.range g).map fun j => h.vreg (w + j)

/-- A PLAIN register of a tag that is no continuation (R106). -/
def VReg.isPlain (r : VReg) (f : Fmt) : Bool :=
  decide (r.desc.enc = .plain) && !r.desc.cont && !r.desc.untyped && decide (r.desc.fmt = f)

/-- log2 of a group size. -/
def log2g (g : Nat) : Nat := if g = 1 then 0 else if g = 2 then 1 else if g = 4 then 2 else 3

/-- A group read as one operand at its own tag over `k` registers (R105, R106): OPFMT for a continuation, mixed members, and an
encoded group recorded under another G than `g`, whose registers its array takes. -/
def Hart.readGroup (h : Hart) (w k : Nat) (g : Nat := h.g) : Except Stop Vec :=
  let r := h.vreg w
  let f := r.desc.fmt
  if r.desc.cont || r.desc.untyped then .error .opfmt
  else if r.desc.enc = .plain then
    let rs := h.vregs w k
    if rs.all fun q => q.isPlain f then
      let per := perReg h.vlgrant f.bits
      let p := plainGroup f per rs
      .ok (plainVec f (p.1.take p.2) (if f.isMx then (plainScales per rs).take (ceilDiv p.2 32) else []))
    else .error .opfmt
  else if r.desc.grec ≠ log2g g then .error .opfmt
  else
    let arr := h.groupArr w g
    .ok { enc := r.desc.enc, fmt := f, elems := decodeArr r.desc.enc f r.desc.len r.desc.cnt r.desc.wid arr,
          cnt := r.desc.cnt, wid := r.desc.wid, arr := arr, size := 0 }

/-- One register of a PLAIN result: the elements that lie in it (R106). -/
def plainMember (f : Fmt) (g : Nat) (els scales : List Nat) : VReg :=
  { data := BitVec.ofNat 2048 (packW f.bits els),
    desc := { enc := .plain, fmt := f, len := els.length, grec := log2g g },
    scale := if f.isMx then BitVec.ofNat 128 (packW 8 (scales.take (ceilDiv els.length 32))) else 0 }

/-- Register j of a group that receives a vector (R106, R124). -/
def memberOf (v : Vec) (grant g j : Nat) : VReg :=
  if v.enc = .plain then
    let per := perReg grant v.fmt.bits
    plainMember v.fmt g ((v.elems.drop (j * per)).take per) (v.scales.drop (j * per / 32))
  else
    { data := BitVec.ofNat 2048 (bitsAt v.arr (8 * grant * j) (8 * grant)),
      desc := if j = 0 then { enc := v.enc, fmt := v.fmt, len := v.elems.length, cnt := v.cnt, wid := v.wid, grec := log2g g }
              else { cont := true },
      scale := 0 }

/-- A vector written to a group of physical registers, PLAIN where R124, R127 or R128 ask for it. -/
def Hart.writeGroup (h : Hart) (w g : Nat) (v : Vec) : Hart :=
  { h with v := (List.range g).foldl (fun m j => mset {} m (w + j) (memberOf v.fit h.vlgrant g j)) h.v }

/-! ### Masks (R108) -/

/-- The predicate number bound to mk1, mk2 or mk3 (R116). -/
def Hart.mkNum (h : Hart) (m : Nat) : Nat := bitsAt h.mkbind.toNat (7 * (m - 1)) 7

/-- Whether element i is selected by mask m. -/
def Hart.sel (h : Hart) (m i : Nat) : Bool := decide (m = 0) || bitAt (h.pred (h.mkNum m)) i

/-- The activity of elements 0 to VL − 1. -/
def Hart.act (h : Hart) (m : Nat) : List Bool := (List.range h.vl).map (h.sel m)

/-- A masked instruction with VL above 2,048 takes ILLEGAL. -/
def Hart.maskOk (h : Hart) (m : Nat) : Bool := decide (m = 0) || decide (h.vl ≤ 2048)

/-! ### Group numbers -/

/-- A run of v registers that an instruction names: number and count. -/
abbrev VRun := Nat × Nat

/-- R105: the number a multiple of the count, the run at or below v127. -/
def VRun.ok (r : VRun) : Bool := decide (r.1 % r.2 = 0) && decide (r.1 + r.2 ≤ 128)

/-- Gt of R105 for a tag of `t` bits. -/
def Hart.gt (h : Hart) (t : Nat) : Nat := if h.g * t / h.fmt.bits = 0 then 1 else h.g * t / h.fmt.bits

/-- The tag at which a register is read: that of the stream it is bound to, which the pop writes, or its own (R249). -/
def Hart.tagOf (h : Hart) (w : Nat) : Fmt :=
  (h.streams.findSome? fun e => e.2.bind fun st =>
    if st.reg ≤ w ∧ w < st.reg + 2 ^ st.g then some st.fmt else none).getD (h.vreg w).desc.fmt

/-- Whether a register has no tag to be read at: it holds untyped bytes, or is a continuation member, and no stream is bound to
it. -/
def Hart.tagless (h : Hart) (w : Nat) : Bool :=
  ((h.vreg w).desc.untyped || (h.vreg w).desc.cont) &&
    !(h.streams.filterMap Prod.snd).any fun st => decide (st.reg ≤ w) && decide (w < st.reg + 2 ^ st.g)

/-- A run whose span is Gt: a Gt above 8 is no legal run. -/
def Hart.tagRun (h : Hart) (n : Nat) : VRun :=
  let k := h.gt (h.tagOf (h.wb.toNat + n)).bits
  (n, if 8 < k then 256 else k)

/-- The group of G registers from v(n). -/
def Hart.gRun (h : Hart) (n : Nat) : VRun := (n, h.g)

/-- The run of a group that an entry reads at its own tag without naming a span; what has no tag is taken over G (R105). -/
def Hart.ownRun (h : Hart) (n : Nat) : VRun := if h.tagless (h.wb.toNat + n) then h.gRun n else h.tagRun n

/-- The run of an old destination that a load reads at its own tag: a tag wider than FMT, which takes OPFMT, over G (R383). -/
def Hart.oldRun (h : Hart) (n : Nat) : VRun :=
  if h.fmt.bits < (h.tagOf (h.wb.toNat + n)).bits then h.gRun n else h.ownRun n

/-- The run that receives VL elements at a tag: G registers, or the Gt that hold them where the tag is wider than FMT (log). -/
def Hart.outRun (h : Hart) (d : Nat) (f : Fmt) : VRun :=
  let k := max h.g (h.gt f.bits)
  (d, if 8 < k then 256 else k)

/-- The run that v(a)'s elements take at v(d): what has no tag is taken over G. -/
def Hart.likeRun (h : Hart) (d a : Reg) : VRun :=
  if h.tagless (h.wb.toNat + a.toNat) then h.gRun d.toNat else h.outRun d.toNat (h.tagOf (h.wb.toNat + a.toNat))

/-- The widening paths of R157. -/
def Fmt.widens (a b : Fmt) : Bool :=
  match a with
  | .i4 => b.isI
  | .i8 => decide (b = .i16) || decide (b = .i32) || decide (b = .i64)
  | .i16 => decide (b = .i32) || decide (b = .i64)
  | .i32 => decide (b = .i64)
  | .n8 => decide (b = .n16) || decide (b = .n32) || decide (b = .n64) || decide (b = .i16) || decide (b = .i32) || decide (b = .i64)
  | .n16 => decide (b = .n32) || decide (b = .n64) || decide (b = .i32) || decide (b = .i64)
  | .n32 => decide (b = .n64) || decide (b = .i64)
  | .e4m3 | .e5m2 => decide (b = .f16) || decide (b = .bf16) || decide (b = .f32) || decide (b = .f64)
  | .f16 | .bf16 => decide (b = .f32) || decide (b = .f64)
  | .f32 => decide (b = .f64)
  | .i64 | .n64 | .f64 | .dm8 | .mxf8 | .mxf4 | .mxi8 => false

/-- A pattern widened exactly (R157). -/
def widenPat (a b : Fmt) (x : Nat) : Nat :=
  if a.isWhole || a.isInt then patInt b.bits (a.toInt x) else (roundVal b .rne 0 (decodeVal a x)).1

/-- The run an operand read at FMT covers: Gt registers when it is widened (R105, R157). -/
def Hart.opRun (h : Hart) (n : Nat) : VRun :=
  if !h.tagless (h.wb.toNat + n) && (h.tagOf (h.wb.toNat + n)).widens h.fmt then h.tagRun n else h.gRun n

/-! ### Block geometry (R170) -/

/-- Data bytes of a frame under BLK = 1. -/
def blkData (f : Fmt) : Nat := if f = .mxf4 then 3840 else 3968

/-- Bytes of a block. -/
def blkBytes (f : Fmt) : Nat := if f = .mxf4 then 16 else 32

/-- The address that a unit-stride access from a block boundary reaches at byte t, stepping over scale areas; an access that
begins in a scale area, which traps, steps over nothing. -/
def blkAddr (f : Fmt) (base t : Nat) : Nat :=
  let u := base % 4096 + t
  if blkData f ≤ base % 4096 then base + t
  else (base / 4096 + u / blkData f) * 4096 + u % blkData f

/-- The address of the scale of the block that holds an address. -/
def blkScale (f : Fmt) (va : Nat) : Nat := va / 4096 * 4096 + blkData f + va % 4096 / blkBytes f

/-- Whether an address begins a block. -/
def blkStart (f : Fmt) (va : Nat) : Bool := decide (va % 4096 < blkData f) && decide (va % 4096 % blkBytes f = 0)

/-- Whether an address lies past the data bytes of its frame. -/
def inScaleArea (f : Fmt) (va : Nat) : Bool := decide (blkData f ≤ va % 4096)

/-- One element of a page format `t` read through a translation; `dflt` is what an untyped page carries, `unit` says that
the access steps over scale areas by itself (R169, R170, R369). Of a 4-bit format the byte that holds the element. -/
def State.loadElem (s : State) (x : Option Xlat) (t dflt : Fmt) (unit : Bool) (va : Nat) : Except MemFault Nat :=
  if va % max 1 (t.bits / 8) ≠ 0 then .error .align
  else match s.forLoad x with
  | .error e => .error e
  | .ok x =>
    if x.effFmt dflt ≠ t then .error .fmt
    else if !unit && decide (attrBlk x.attr = 1) && inScaleArea t va then .error .scaleArea
    else s.readImage x va (max 1 (t.bits / 8))

/-! ### Streams (R248 to R250) -/

/-- The address of element e of a stream. -/
def Stream.addr (st : Stream) (e : Nat) : Nat :=
  if st.fmt.isMx then blkAddr st.fmt st.base.toNat e % 2 ^ 64
  else (st.base + BitVec.ofNat 64 e * st.stride).toNat

/-- Element e of a stream as memory holds it now, with its block's scale where it has one (R248 to R250). The page's format
and the element's alignment play no part outside the MX formats (log). -/
def State.fetchElem (s : State) (st : Stream) (e : Nat) : FetchElem :=
  let va := st.addr e
  let r := s.readElem (s.xlat s.hart) va (max 1 (st.fmt.bits / 8))
  if st.fmt.isMx then
    match s.xlat s.hart va with
    | none => ⟨0, 0, some .unmapped⟩
    | some y =>
      if y.fmt ≠ some st.fmt || attrBlk y.attr ≠ 1 || !blkStart st.fmt st.base.toNat then ⟨0, 0, some .fmt⟩
      else match r, s.readImage y (blkScale st.fmt va) 1 with
        | .ok v, .ok sc => ⟨v, sc, none⟩
        | .error f, _ => ⟨0, 0, some f⟩
        | .ok _, .error f => ⟨0, 0, some f⟩
  else match r with
    | .ok v => ⟨v, 0, none⟩
    | .error f => ⟨0, 0, some f⟩

/-- Element `k` past the consumed ones: prefetched, or read now. -/
def State.streamElem (s : State) (st : Stream) (k : Nat) : FetchElem :=
  match st.pre[k]? with
  | some e => e
  | none => s.fetchElem st (st.consumed + k)

/-- Elements a bound group holds at the recorded format. -/
def State.streamCap (s : State) (st : Stream) : Nat := vlmaxOf s.hart.vlgrant (2 ^ st.g) st.fmt

/-- The elements the next pop asks for; an MX pop that begins partway through a block ends with it (R249). -/
def State.popCount (s : State) (st : Stream) : Nat :=
  let c := min s.hart.vl (min (s.streamCap st) (st.count - st.consumed))
  if st.fmt.isMx ∧ st.consumed % 32 ≠ 0 then min c (32 - st.consumed % 32) else c

/-- The elements of a pop up to the first that faults. -/
def goodElems : List FetchElem → List FetchElem
  | [] => []
  | e :: es => if e.fault.isSome then [] else e :: goodElems es

/-- The scales of the blocks of a popped vector. -/
def blockScales : List FetchElem → List Nat
  | es => (List.range (ceilDiv es.length 32)).map fun b => ((es.drop (32 * b)).head?.map FetchElem.scale).getD 0

/-- The physical run of a stream. -/
def Stream.run (st : Stream) : Nat × Nat := (st.reg, st.reg + 2 ^ st.g)

/-- Pops stream q once: the bound group receives the elements; at element 0 a fault becomes STREAMFAULT, pending beside
the other causes of the instruction (R250, R274). -/
def State.pop (s : State) (q : Nat) (st : Stream) : State × Option Stop :=
  let es := (List.range (s.popCount st)).map (s.streamElem st)
  let good := goodElems es
  let n := good.length
  let st' := { st with consumed := st.consumed + n, pre := st.pre.drop n }
  let h := s.hart.writeGroup st.reg (2 ^ st.g)
    (plainVec st.fmt (good.map FetchElem.val) (if st.fmt.isMx then blockScales good else []))
  let h := if good.any (fun e => st.fmt.isMx && decide (e.scale = 0xFF)) then h.raise { nv := true } else h
  let s1 := { s with hart := { h with streams := mset none h.streams q (some st') } }
  if n = 0 ∧ es ≠ [] then
    (s1, some (.trap .streamfault (some (BitVec.ofNat 64 (st.addr st.consumed))) 0))
  else (s1.later .streamRefill { n := s.hart.id, m := q }, none)

/-- Whether element e of a stream lies in memory that the hart's transfers hold (R119, R121). -/
def State.elemHeld (s : State) (st : Stream) (e : Nat) : Bool :=
  let va := st.addr e
  s.ritHit s.hart va (va + max 1 (st.fmt.bits / 8)) ||
    (st.fmt.isMx && s.ritHit s.hart (blkScale st.fmt va) (blkScale st.fmt va + 1))

/-- Whether a pop would read memory that the hart's transfers hold, elements that are not prefetched, or write registers that a
transfer still fills (R119, R120). -/
def State.popHeld (s : State) (st : Stream) : Bool :=
  s.filling s.hart st.run.1 st.run.2 || (List.range (s.popCount st)).any fun k => decide (st.pre.length ≤ k) && s.elemHeld st (st.consumed + k)

/-- Whether two half-open ranges meet. -/
def meets (a b : Nat × Nat) : Bool := decide (a.1 < b.2) && decide (b.1 < a.2)

/-- The physical range of a run. -/
def Hart.phys (h : Hart) (r : VRun) : Nat × Nat := (h.wb.toNat + r.1, h.wb.toNat + r.1 + r.2)

/-- The physical registers that a read of a run takes in: an encoded group is read whole, over G registers (R106, R124). -/
def Hart.readPhys (h : Hart) (r : VRun) : Nat × Nat :=
  if (h.vreg (h.wb.toNat + r.1)).desc.enc = .plain then h.phys r else h.phys (r.1, max r.2 h.g)

/-- The streams whose groups the operands of an instruction name. -/
def Hart.popped (h : Hart) (reads : List VRun) : List Stream :=
  (h.streams.filterMap Prod.snd).filter fun st => reads.any fun r => meets (h.phys r) st.run

/-- Pops every stream whose group an operand of the instruction names, each once (R249). -/
def State.popAll (s : State) (reads : List VRun) : State × Option Stop :=
  s.hart.streams.foldl (fun a e =>
    match e.2 with
    | none => a
    | some st =>
      if reads.any fun r => meets (s.hart.phys r) st.run then
        let p := a.1.pop e.1 st
        (p.1, match a.2 with
          | none => p.2
          | some x => some x)
      else a) (s, none)

/-- Whether a run meets a bound stream's group. -/
def Hart.bound (h : Hart) (r : VRun) : Bool :=
  h.streams.any fun e =>
    match e.2 with
    | none => false
    | some st => meets (h.phys r) st.run

/-- The code of a stop's cause; a wait comes before all. -/
def Stop.code : Stop → Nat
  | .trap c _ _ => c.code
  | .trapKeep _ c _ _ => c.code
  | .wait _ => 0

/-- A waiting instruction stands before its pops (R226): what they changed is as in `s`. -/
def State.unpop (s u : State) : State :=
  { u with jobs := s.jobs,
           hart := { u.hart with streams := s.hart.streams, v := s.hart.v, vflags := s.hart.vflags } }

/-- Runs the rest of an instruction after its pops, which wait for memory that a transfer holds (R119): of a stream fault and
a later cause the lower code is taken. -/
def State.withPops (s : State) (reads : List VRun) (k : State → Except Stop State) : Except Stop State :=
  let p := s.popAll reads
  if (s.hart.popped reads).any s.popHeld then .error (.wait s)
  else match k p.1, p.2 with
  | .ok t, none => .ok t
  | .ok _, some e => .error e
  | .error (.wait u), _ => .error (.wait (s.unpop u))
  | .error f, none => .error f
  | .error f, some e => if f.code < Cause.streamfault.code then .error f else .error e

/-- What must hold of the registers an instruction names before it issues: legal runs (that of a group whose tag has yet to arrive is
judged when it has), a mask that reaches, no bound destination, no element group still to arrive in what it reads, and no transfer that still fills what it writes (R105, R108, R119,
R120, R249). -/
def State.vecReady (s : State) (reads writes : List VRun) (m : Nat) : Except Stop Unit :=
  let h := s.hart
  if !((reads.filter (fun r => !s.arriving h (h.wb.toNat + r.1) (h.wb.toNat + r.1 + 1)) ++ writes).all VRun.ok) || !h.maskOk m || writes.any h.bound then .error .illegal
  else if (reads.any fun r => s.arriving h (h.readPhys r).1 (h.readPhys r).2) ||
      writes.any fun r => s.filling h (h.phys r).1 (h.phys r).2 then .error (.wait s)
  else .ok ()

/-! ### Operands at FMT -/

/-- The group v(n) read over a run at its own tag. -/
def Hart.readRun (h : Hart) (r : VRun) : Except Stop Vec := h.readGroup (h.wb.toNat + r.1) r.2

/-- A vector as an operand at format f over VL elements; OPFMT where R157 has no path. -/
def Vec.asOpd (v : Vec) (f : Fmt) (vl : Nat) : Except Stop Opd :=
  if v.fmt = f then .ok ⟨fitLen vl v.elems, shapeIn v.enc v.fmt vl v.elems.length v.cnt v.wid v.arr, v.enc⟩
  else if v.fmt.widens f then
    .ok ⟨(fitLen vl v.elems).map (widenPat v.fmt f), shapeIn v.enc v.fmt vl v.elems.length v.cnt v.wid v.arr, v.enc⟩
  else .error .opfmt

/-- The operand v(n) read at FMT (R337). -/
def Hart.operand (h : Hart) (n : Nat) : Except Stop Opd :=
  match h.readRun (h.opRun n) with
  | .error e => .error e
  | .ok v => v.asOpd h.fmt h.vl

/-- The operands v(n) for each n, in order. -/
def Hart.operands (h : Hart) : List Nat → Except Stop (List Opd)
  | [] => .ok []
  | n :: ns =>
    match h.operand n with
    | .error e => .error e
    | .ok o =>
      match h.operands ns with
      | .error e => .error e
      | .ok os => .ok (o :: os)

/-- A group read at its own tag, which must satisfy `p`; its elements over VL (index, position and address groups, R105). -/
def Hart.tagged (h : Hart) (n : Nat) (p : Fmt → Bool) : Except Stop Vec :=
  match h.readRun (h.tagRun n) with
  | .error e => .error e
  | .ok v => if p v.fmt then .ok v else .error .opfmt

/-- The vector written to group v(d). -/
def Hart.writeVec (h : Hart) (d : Nat) (v : Vec) : Hart := h.writeGroup (h.wb.toNat + d) h.g v

/-- A vector written at a tag of its own: an encoding to G registers, where they hold it, else PLAIN over `outRun` (log). -/
def Hart.writeOwn (h : Hart) (d : Nat) (v : Vec) : Hart :=
  let w := v.fit
  if w.enc ≠ .plain ∧ w.size ≤ h.vlgrant * h.g then h.writeVec d w
  else h.writeGroup (h.wb.toNat + d) (h.outRun d v.fmt).2 (plainVec w.fmt w.elems w.scales)

/-! ### The element-wise driver -/

/-- An element function: format, mode, draw, the elements of a, b and the old destination. -/
abbrev ElemFn := Fmt → RM → Nat → Nat → Nat → Nat → Nat × Flags

/-- Elements in ascending order: activity, and the elements of a, b and the old destination (R338). -/
def ewLoop (fn : Nat → Nat → Nat → Nat → Nat × Flags) (rm : RM) (keep : Bool) :
    List (Bool × Nat × Nat × Nat) → Side2 → List Nat × Side2
  | [], x => ([], x)
  | (a, p, q, c) :: rest, x =>
    if a then
      let u := drawIf rm x.seed
      let r := fn u.1 p q c
      let t := ewLoop fn rm keep rest { x with flags := x.flags.or r.2, seed := u.2 }
      (r.1 :: t.1, t.2)
    else
      let t := ewLoop fn rm keep rest x
      ((if keep then c else 0) :: t.1, t.2)

/-- Rows of activity and elements. -/
def ewRows : List Bool → List Nat → List Nat → List Nat → List (Bool × Nat × Nat × Nat)
  | a :: as, p :: ps, q :: qs, c :: cs => (a, p, q, c) :: ewRows as ps qs cs
  | _, _, _, _ => []

/-- The result of an element-wise instruction: `rounds` for one that rounds by VSTAT.RM, PLAIN under STO and EFB (R132, R133, R136, R338). The operands
are those of the rules of R129; `pA`, `pB`, `pC` the elements the function sees. -/
def Hart.ewResult (h : Hart) (m : Nat) (rounds : Bool) (fn : ElemFn) (ops : List Opd) (pA pB pC : List Nat)
    (d : Nat) : Hart :=
  let rm := if rounds then h.rm else .rne
  let act := h.act m
  let r := ewLoop (fn h.fmt rm) rm (!h.mz) (ewRows act pA pB pC) h.side
  let v := if rounds ∧ (h.rm = .sto ∨ h.rm = .efb) then plainVec h.fmt r.1
           else resultVec h.ep h.fmt ops (if m = 0 then none else some act) r.1
  (h.writeVec d v).settle r.2

/-- A zero splat (R136). -/
def Hart.zeroOpd (h : Hart) : Opd := Opd.ofScalar h.fmt h.vl 0

/-- The operand folded in last under a mask (R136): the old destination, or a zero splat. -/
def Hart.maskOpd (h : Hart) (m : Nat) (old : Opd) : List Opd :=
  if m = 0 then [] else if h.mz then [h.zeroOpd] else [old]

/-- A two-operand element-wise instruction v(d) := fn(v(a), v(b)); `fused` adds the old destination as an operand. -/
def State.vec2 (s : State) (cls : Fmt → Bool) (rounds fused : Bool) (fn : ElemFn) (d a b : Reg) (m : BitVec 2) :
    Except Stop State :=
  let h := s.hart
  let useOld := fused || (decide (m ≠ 0) && !h.mz)
  let reads := [h.opRun a.toNat, h.opRun b.toNat] ++ (if useOld then [h.opRun d.toNat] else [])
  if !cls h.fmt then .error .illegal
  else match s.vecReady reads [h.gRun d.toNat] m.toNat with
  | .error e => .error e
  | .ok _ =>
    s.withPops reads fun t =>
      let g := t.hart
      match g.operand a.toNat, g.operand b.toNat, (if useOld then g.operand d.toNat else .ok g.zeroOpd) with
      | .ok x, .ok y, .ok o =>
        let ops := [x, y] ++ (if fused then [o] else []) ++ g.maskOpd m.toNat o
        .ok { t with hart := g.ewResult m.toNat rounds fn ops x.elems y.elems o.elems d.toNat }
      | .error e, _, _ => .error e
      | .ok _, .error e, _ => .error e
      | .ok _, .ok _, .error e => .error e

/-- A one-operand element-wise instruction; its b counts as a splat (R338). -/
def State.vec1 (s : State) (cls : Fmt → Bool) (rounds : Bool) (fn : ElemFn) (d a : Reg) (m : BitVec 2) :
    Except Stop State :=
  let h := s.hart
  let useOld := decide (m ≠ 0) && !h.mz
  let reads := h.opRun a.toNat :: (if useOld then [h.opRun d.toNat] else [])
  if !cls h.fmt then .error .illegal
  else match s.vecReady reads [h.gRun d.toNat] m.toNat with
  | .error e => .error e
  | .ok _ =>
    s.withPops reads fun t =>
      let g := t.hart
      match g.operand a.toNat, (if useOld then g.operand d.toNat else .ok g.zeroOpd) with
      | .ok x, .ok o =>
        let ops := [x, g.zeroOpd] ++ g.maskOpd m.toNat o
        .ok { t with hart := g.ewResult m.toNat rounds fn ops x.elems x.elems o.elems d.toNat }
      | .error e, _ => .error e
      | .ok _, .error e => .error e

/-- A result computed outside the driver, written under the rules that name a PLAIN vector: `els` over VL elements, the
inactive ones by MP (R108); the old destination's elements where they are kept. -/
def mergeMp (mz : Bool) : List Bool → List Nat → List Nat → List Nat
  | a :: as, x :: xs, o :: os => (if a then x else if mz then 0 else o) :: mergeMp mz as xs os
  | _, _, _ => []

end Sys2Proof.Machine
end

