-- ==== Sys2Proof/Machine/VecArith.lean ====
section
/-! DEFINITION. Element-wise vector arithmetic (R341 to R346): integer, logical, shift and floating-point instructions over
the driver of Operands.lean. -/

namespace Sys2Proof.Machine

/-! ### Integer, logical and shift functions on patterns -/

/-- A function without flags of two patterns that needs no rounding. -/
def intFn (g : Fmt → Nat → Nat → Nat) : ElemFn := fun f _ _ a b _ => (g f a b % 2 ^ f.bits, {})

/-- VADD. -/
def addF (f : Fmt) (a b : Nat) : Nat := patInt f.bits (f.toInt a + f.toInt b)
/-- VSUB. -/
def subF (f : Fmt) (a b : Nat) : Nat := patInt f.bits (f.toInt a - f.toInt b)
/-- VMUL. -/
def mulF (f : Fmt) (a b : Nat) : Nat := patInt f.bits (f.toInt a * f.toInt b)
/-- VMULH. -/
def mulhF (f : Fmt) (a b : Nat) : Nat := patInt f.bits (f.toInt a * f.toInt b / ((2 ^ f.bits : Nat) : Int))
/-- VMIN: patterns read as signed. -/
def sminF (f : Fmt) (a b : Nat) : Nat := if sgn f.bits b < sgn f.bits a then b else a
/-- VMAX. -/
def smaxF (f : Fmt) (a b : Nat) : Nat := if sgn f.bits a < sgn f.bits b then b else a
/-- VMINN: patterns read as unsigned. -/
def uminF (_ : Fmt) (a b : Nat) : Nat := if b < a then b else a
/-- VMAXN. -/
def umaxF (_ : Fmt) (a b : Nat) : Nat := if a < b then b else a

/-- A saturating sum or difference in the format's own range (R341): OF and NX when it saturates. -/
def satFn (g : Int → Int → Int) : ElemFn := fun f _ _ a b _ =>
  let c := clampInt f.intMin f.intMax (g (f.toInt a) (f.toInt b))
  (patInt f.bits c.1, { of := c.2, nx := c.2 })

/-- VAND. -/
def andF (_ : Fmt) (a b : Nat) : Nat := a &&& b
/-- VOR. -/
def orF (_ : Fmt) (a b : Nat) : Nat := a ||| b
/-- VXOR. -/
def xorF (_ : Fmt) (a b : Nat) : Nat := a ^^^ b
/-- VANDN: a and not b. -/
def andnF (f : Fmt) (a b : Nat) : Nat := a &&& (2 ^ f.bits - 1 - b % 2 ^ f.bits)
/-- VSHL. -/
def shlF (f : Fmt) (a b : Nat) : Nat := a * 2 ^ (b % f.bits)
/-- VSHRL. -/
def shrlF (f : Fmt) (a b : Nat) : Nat := a / 2 ^ (b % f.bits)
/-- VSHRA. -/
def shraF (f : Fmt) (a b : Nat) : Nat := patInt f.bits (sgn f.bits a / ((2 ^ (b % f.bits) : Nat) : Int))
/-- VROTR. -/
def rotrF (f : Fmt) (a b : Nat) : Nat := a / 2 ^ (b % f.bits) + a * 2 ^ (f.bits - b % f.bits)

/-! ### Floating-point functions -/

/-- Rounds the exact outcome of an operation on decoded operands (R344). -/
def fltFn (g : RM → Val → Val → Val → Exact) : ElemFn := fun f rm u a b c =>
  (g rm (decodeVal f a) (decodeVal f b) (decodeVal f c)).round f rm u

/-- Whether the mode makes an exact zero sum negative. -/
def RM.down (rm : RM) : Bool := decide (rm = .rdn)

/-- VFMIN and VFMAX on patterns (R345): a NaN yields to the other operand, two give the canonical NaN. -/
def fminmax (f : Fmt) (mx : Bool) (a b : Nat) : Nat :=
  let x := decodeVal f a
  let y := decodeVal f b
  if x.isNan then (if y.isNan then f.ladder.nan else b)
  else if y.isNan then a
  else if mx then (if x.below y then b else a) else (if y.below x then b else a)

/-- The exponential at a format (R346): F32 arguments and results, rounded once more to F16 or BF16. -/
def expFn : ElemFn := fun f rm u a _ _ =>
  let r := fexp (decodeVal f a)
  if f = .f32 then r
  else
    let q := roundVal f rm u (decodeVal .f32 r.1)
    (q.1, r.2.or q.2)

/-- The formats of VFEXP (R336). -/
def Fmt.isExp (f : Fmt) : Bool := decide (f = .f16) || decide (f = .bf16) || decide (f = .f32)

/-! ### The instructions -/

/-- VADD (R341). -/
def execVadd (d a b : Reg) (m : BitVec 2) (s : State) : Outcome State Fault Refusal :=
  complete (.vadd d a b m) s (s.vec2 Fmt.isInt false false (intFn addF) d a b m)

/-- VSUB (R341). -/
def execVsub (d a b : Reg) (m : BitVec 2) (s : State) : Outcome State Fault Refusal :=
  complete (.vsub d a b m) s (s.vec2 Fmt.isInt false false (intFn subF) d a b m)

/-- VMUL (R341). -/
def execVmul (d a b : Reg) (m : BitVec 2) (s : State) : Outcome State Fault Refusal :=
  complete (.vmul d a b m) s (s.vec2 Fmt.isInt false false (intFn mulF) d a b m)

/-- VMULH (R341). -/
def execVmulh (d a b : Reg) (m : BitVec 2) (s : State) : Outcome State Fault Refusal :=
  complete (.vmulh d a b m) s (s.vec2 Fmt.isInt false false (intFn mulhF) d a b m)

/-- VMIN (R341). -/
def execVmin (d a b : Reg) (m : BitVec 2) (s : State) : Outcome State Fault Refusal :=
  complete (.vmin d a b m) s (s.vec2 Fmt.isInt false false (intFn sminF) d a b m)

/-- VMAX (R341). -/
def execVmax (d a b : Reg) (m : BitVec 2) (s : State) : Outcome State Fault Refusal :=
  complete (.vmax d a b m) s (s.vec2 Fmt.isInt false false (intFn smaxF) d a b m)

/-- VMINN (R341). -/
def execVminn (d a b : Reg) (m : BitVec 2) (s : State) : Outcome State Fault Refusal :=
  complete (.vminn d a b m) s (s.vec2 Fmt.isInt false false (intFn uminF) d a b m)

/-- VMAXN (R341). -/
def execVmaxn (d a b : Reg) (m : BitVec 2) (s : State) : Outcome State Fault Refusal :=
  complete (.vmaxn d a b m) s (s.vec2 Fmt.isInt false false (intFn umaxF) d a b m)

/-- VSADD (R341). -/
def execVsadd (d a b : Reg) (m : BitVec 2) (s : State) : Outcome State Fault Refusal :=
  complete (.vsadd d a b m) s (s.vec2 Fmt.isI false false (satFn fun x y => x + y) d a b m)

/-- VSSUB (R341). -/
def execVssub (d a b : Reg) (m : BitVec 2) (s : State) : Outcome State Fault Refusal :=
  complete (.vssub d a b m) s (s.vec2 Fmt.isI false false (satFn fun x y => x - y) d a b m)

/-- VSADDN (R341). -/
def execVsaddn (d a b : Reg) (m : BitVec 2) (s : State) : Outcome State Fault Refusal :=
  complete (.vsaddn d a b m) s (s.vec2 Fmt.isN false false (satFn fun x y => x + y) d a b m)

/-- VSSUBN (R341). -/
def execVssubn (d a b : Reg) (m : BitVec 2) (s : State) : Outcome State Fault Refusal :=
  complete (.vssubn d a b m) s (s.vec2 Fmt.isN false false (satFn fun x y => x - y) d a b m)

/-- VAND (R342). -/
def execVand (d a b : Reg) (m : BitVec 2) (s : State) : Outcome State Fault Refusal :=
  complete (.vand d a b m) s (s.vec2 Fmt.isArith false false (intFn andF) d a b m)

/-- VOR (R342). -/
def execVor (d a b : Reg) (m : BitVec 2) (s : State) : Outcome State Fault Refusal :=
  complete (.vor d a b m) s (s.vec2 Fmt.isArith false false (intFn orF) d a b m)

/-- VXOR (R342). -/
def execVxor (d a b : Reg) (m : BitVec 2) (s : State) : Outcome State Fault Refusal :=
  complete (.vxor d a b m) s (s.vec2 Fmt.isArith false false (intFn xorF) d a b m)

/-- VANDN (R342). -/
def execVandn (d a b : Reg) (m : BitVec 2) (s : State) : Outcome State Fault Refusal :=
  complete (.vandn d a b m) s (s.vec2 Fmt.isArith false false (intFn andnF) d a b m)

/-- VSHL (R343). -/
def execVshl (d a b : Reg) (m : BitVec 2) (s : State) : Outcome State Fault Refusal :=
  complete (.vshl d a b m) s (s.vec2 Fmt.isInt false false (intFn shlF) d a b m)

/-- VSHRL (R343). -/
def execVshrl (d a b : Reg) (m : BitVec 2) (s : State) : Outcome State Fault Refusal :=
  complete (.vshrl d a b m) s (s.vec2 Fmt.isInt false false (intFn shrlF) d a b m)

/-- VSHRA (R343). -/
def execVshra (d a b : Reg) (m : BitVec 2) (s : State) : Outcome State Fault Refusal :=
  complete (.vshra d a b m) s (s.vec2 Fmt.isInt false false (intFn shraF) d a b m)

/-- VROTR (R343). -/
def execVrotr (d a b : Reg) (m : BitVec 2) (s : State) : Outcome State Fault Refusal :=
  complete (.vrotr d a b m) s (s.vec2 Fmt.isInt false false (intFn rotrF) d a b m)

/-- VFADD (R344). -/
def execVfadd (d a b : Reg) (m : BitVec 2) (s : State) : Outcome State Fault Refusal :=
  complete (.vfadd d a b m) s (s.vec2 Fmt.isFlt true false (fltFn fun rm x y _ => Val.add rm.down x y) d a b m)

/-- VFSUB (R344). -/
def execVfsub (d a b : Reg) (m : BitVec 2) (s : State) : Outcome State Fault Refusal :=
  complete (.vfsub d a b m) s (s.vec2 Fmt.isFlt true false (fltFn fun rm x y _ => Val.add rm.down x y.negate) d a b m)

/-- VFMUL (R344). -/
def execVfmul (d a b : Reg) (m : BitVec 2) (s : State) : Outcome State Fault Refusal :=
  complete (.vfmul d a b m) s (s.vec2 Fmt.isFlt true false (fltFn fun _ x y _ => Val.mul x y) d a b m)

/-- VFDIV (R344). -/
def execVfdiv (d a b : Reg) (m : BitVec 2) (s : State) : Outcome State Fault Refusal :=
  complete (.vfdiv d a b m) s (s.vec2 Fmt.isFlt true false (fltFn fun _ x y _ => Val.div x y) d a b m)

/-- VFMA (R344). -/
def execVfma (d a b : Reg) (m : BitVec 2) (s : State) : Outcome State Fault Refusal :=
  complete (.vfma d a b m) s (s.vec2 Fmt.isFlt true true (fltFn fun rm x y z => Val.fma rm.down x y z) d a b m)

/-- VFMS (R344). -/
def execVfms (d a b : Reg) (m : BitVec 2) (s : State) : Outcome State Fault Refusal :=
  complete (.vfms d a b m) s (s.vec2 Fmt.isFlt true true (fltFn fun rm x y z => Val.fma rm.down x y z.negate) d a b m)

/-- VFNMA (R344). -/
def execVfnma (d a b : Reg) (m : BitVec 2) (s : State) : Outcome State Fault Refusal :=
  complete (.vfnma d a b m) s (s.vec2 Fmt.isFlt true true (fltFn fun rm x y z => Val.fma rm.down x.negate y z) d a b m)

/-- VFNMS (R344). -/
def execVfnms (d a b : Reg) (m : BitVec 2) (s : State) : Outcome State Fault Refusal :=
  complete (.vfnms d a b m) s (s.vec2 Fmt.isFlt true true (fltFn fun rm x y z => Val.fma rm.down x.negate y z.negate) d a b m)

/-- VFMIN (R345). -/
def execVfmin (d a b : Reg) (m : BitVec 2) (s : State) : Outcome State Fault Refusal :=
  complete (.vfmin d a b m) s (s.vec2 Fmt.isFlt false false (fun f _ _ a b _ => (fminmax f false a b, {})) d a b m)

/-- VFMAX (R345). -/
def execVfmax (d a b : Reg) (m : BitVec 2) (s : State) : Outcome State Fault Refusal :=
  complete (.vfmax d a b m) s (s.vec2 Fmt.isFlt false false (fun f _ _ a b _ => (fminmax f true a b, {})) d a b m)

/-- VFSQRT (R346). -/
def execVfsqrt (d a : Reg) (m : BitVec 2) (s : State) : Outcome State Fault Refusal :=
  complete (.vfsqrt d a m) s (s.vec1 Fmt.isFlt true (fun f rm u a _ _ => sqrtRound f rm u (decodeVal f a)) d a m)

/-- VFEXP (R346): under F32 it rounds nothing by VSTAT.RM, so it draws no bits and keeps encodings (R132, R160, R163). -/
def execVfexp (d a : Reg) (m : BitVec 2) (s : State) : Outcome State Fault Refusal :=
  complete (.vfexp d a m) s (s.vec1 Fmt.isExp (decide (s.hart.fmt ≠ .f32)) expFn d a m)

end Sys2Proof.Machine
end

