-- ==== Sys2Proof/Machine/VecReduce.lean ====
section
/-! DEFINITION. Compares, predicates and mask bindings, reductions, segmented reductions and scans (R347 to R354, R363 to
R366). -/

namespace Sys2Proof.Machine

/-! ### Predicates -/

/-- Bits as a number, the first lowest. -/
def bitsNat : List Bool → Nat
  | [] => 0
  | b :: bs => b.toNat + 2 * bitsNat bs

/-- The bits that a compare or a predicate instruction writes (R347): `new` at active elements, the old bit or 0 at
inactive ones below VL by MP, 0 from VL on. -/
def mergeBits (mz : Bool) : List Bool → List Bool → List Bool → List Bool
  | a :: as, n :: ns, o :: os => (if a then n else if mz then false else o) :: mergeBits mz as ns os
  | _, _, _ => []

/-- Bits 0 to n − 1 of a predicate. -/
def Hart.predBits (h : Hart) (p n : Nat) : List Bool := (List.range n).map (bitAt (h.pred p))

/-- Writes predicate d under mask m by the rule of R347. -/
def Hart.writePred (h : Hart) (d m : Nat) (new : List Bool) : Hart :=
  h.setPred d (bitsNat (mergeBits h.mz (h.act m) new (h.predBits d h.vl)))

/-! ### Compares (R347) -/

/-- a < b at a format: signed, unsigned or by value. -/
def ltAt (f : Fmt) (a b : Nat) : Bool := if f.isInt then decide (f.toInt a < f.toInt b) else (decodeVal f a).lt (decodeVal f b)

/-- a = b at a format. -/
def eqAt (f : Fmt) (a b : Nat) : Bool := if f.isInt then decide (f.toInt a = f.toInt b) else (decodeVal f a).eq (decodeVal f b)

/-- A compare of v(a) with v(b) into p(d). -/
def State.cmp (s : State) (rel : Fmt → Nat → Nat → Bool) (d a b : Reg) (m : BitVec 2) : Except Stop State :=
  let h := s.hart
  let reads := [h.opRun a.toNat, h.opRun b.toNat]
  if !h.fmt.isArith then .error .illegal
  else match s.vecReady reads [] m.toNat with
  | .error e => .error e
  | .ok _ =>
    s.withPops reads fun t =>
      let g := t.hart
      match g.operand a.toNat, g.operand b.toNat with
      | .ok x, .ok y => .ok { t with hart := g.writePred d.toNat m.toNat (List.zipWith (rel g.fmt) x.elems y.elems) }
      | .error e, _ => .error e
      | .ok _, .error e => .error e

/-- VCMPEQ. -/
def execVcmpeq (d a b : Reg) (m : BitVec 2) (s : State) : Outcome State Fault Refusal :=
  complete (.vcmpeq d a b m) s (s.cmp eqAt d a b m)

/-- VCMPNE. -/
def execVcmpne (d a b : Reg) (m : BitVec 2) (s : State) : Outcome State Fault Refusal :=
  complete (.vcmpne d a b m) s (s.cmp (fun f x y => !eqAt f x y) d a b m)

/-- VCMPLT. -/
def execVcmplt (d a b : Reg) (m : BitVec 2) (s : State) : Outcome State Fault Refusal :=
  complete (.vcmplt d a b m) s (s.cmp ltAt d a b m)

/-- VCMPLE. -/
def execVcmple (d a b : Reg) (m : BitVec 2) (s : State) : Outcome State Fault Refusal :=
  complete (.vcmple d a b m) s (s.cmp (fun f x y => ltAt f x y || eqAt f x y) d a b m)

/-! ### Predicate logic and counts (R349, R350, R351) -/

/-- A predicate instruction on p(a) and p(b): VL above 2,048 takes ILLEGAL. -/
def State.plogic (s : State) (g : Bool → Bool → Bool) (d a b : Nat) (m : BitVec 2) : Except Stop State :=
  let h := s.hart
  if 2048 < h.vl then .error .illegal
  else .ok { s with hart := h.writePred d m.toNat (List.zipWith g (h.predBits a h.vl) (h.predBits b h.vl)) }

/-- PAND (R349). -/
def execPand (d a b : Reg) (m : BitVec 2) (s : State) : Outcome State Fault Refusal :=
  complete (.pand d a b m) s (s.plogic (fun x y => x && y) d.toNat a.toNat b.toNat m)

/-- POR (R349). -/
def execPor (d a b : Reg) (m : BitVec 2) (s : State) : Outcome State Fault Refusal :=
  complete (.por d a b m) s (s.plogic (fun x y => x || y) d.toNat a.toNat b.toNat m)

/-- PXOR (R349). -/
def execPxor (d a b : Reg) (m : BitVec 2) (s : State) : Outcome State Fault Refusal :=
  complete (.pxor d a b m) s (s.plogic (fun x y => x != y) d.toNat a.toNat b.toNat m)

/-- PANDN (R349). -/
def execPandn (d a b : Reg) (m : BitVec 2) (s : State) : Outcome State Fault Refusal :=
  complete (.pandn d a b m) s (s.plogic (fun x y => x && !y) d.toNat a.toNat b.toNat m)

/-- PNOT (R349). -/
def execPnot (d a : Reg) (m : BitVec 2) (s : State) : Outcome State Fault Refusal :=
  complete (.pnot d a m) s (s.plogic (fun x _ => !x) d.toNat a.toNat a.toNat m)

/-- The indices below VL of the active set bits of p(a) (R350). -/
def Hart.setBits (h : Hart) (a m : Nat) : List Nat := (List.range h.vl).filter fun i => h.sel m i && bitAt (h.pred a) i

/-- PFIRST: 2^64 − 1 where there is none. -/
def execPfirst (d a : Reg) (m : BitVec 2) (s : State) : Outcome State Fault Refusal :=
  complete (.pfirst d a m) s
    (if 2048 < s.hart.vl then .error .illegal
     else .ok (s.wx d (match s.hart.setBits a.toNat m.toNat with
       | [] => BitVec.allOnes 64
       | i :: _ => BitVec.ofNat 64 i)))

/-- PCOUNT. -/
def execPcount (d a : Reg) (m : BitVec 2) (s : State) : Outcome State Fault Refusal :=
  complete (.pcount d a m) s
    (if 2048 < s.hart.vl then .error .illegal else .ok (s.wx d (BitVec.ofNat 64 (s.hart.setBits a.toNat m.toNat).length)))

/-- MKBIND with one field replaced, n from 1 to 3. -/
def bindMask (b : BitVec 21) (n p : Nat) : BitVec 21 :=
  BitVec.ofNat 21 (b.toNat - bitsAt b.toNat (7 * (n - 1)) 7 * 2 ^ (7 * (n - 1)) + p * 2 ^ (7 * (n - 1)))

/-- MBIND (R351): d, from 1 to 3, names the field. -/
def execMbind (d a : Reg) (s : State) : Outcome State Fault Refusal :=
  complete (.mbind d a) s (.ok { s with hart := { s.hart with mkbind := bindMask s.hart.mkbind d.toNat a.toNat } })

/-! ### Reductions (R352, R353) -/

/-- A `b`-bit result in a scalar register: sign-extended for I formats (R352). -/
def Fmt.extend (f : Fmt) (x : Nat) : Word := if f.isI then BitVec.ofInt 64 (sgn f.bits x) else BitVec.ofNat 64 (x % 2 ^ f.bits)

/-- The elements at active positions. -/
def pickActive : List Bool → List Nat → List Nat
  | a :: as, x :: xs => if a then x :: pickActive as xs else pickActive as xs
  | _, _ => []

/-- A reduction of the active elements of v(a) into x(d). -/
def State.reduce (s : State) (cls : Fmt → Bool) (k : Hart → List Nat → Word × Hart) (d a : Reg) (m : BitVec 2) :
    Except Stop State :=
  let h := s.hart
  if !cls h.fmt then .error .illegal
  else match s.vecReady [h.opRun a.toNat] [] m.toNat with
  | .error e => .error e
  | .ok _ =>
    s.withPops [h.opRun a.toNat] fun t =>
      match t.hart.operand a.toNat with
      | .error e => .error e
      | .ok x =>
        let r := k t.hart (pickActive (t.hart.act m.toNat) x.elems)
        .ok { t with hart := r.2.wx d.toNat r.1 }

/-- The smaller or larger of two patterns at a format (R341, R345, R352). -/
def extremeAt (f : Fmt) (mx : Bool) (a b : Nat) : Nat :=
  if f.isInt then (if mx then (if f.toInt a < f.toInt b then b else a) else (if f.toInt b < f.toInt a then b else a))
  else fminmax f mx a b

/-- VREDSUM. -/
def execVredsum (d a b : Reg) (m : BitVec 2) (s : State) : Outcome State Fault Refusal :=
  complete (.vredsum d a b m) s (s.reduce Fmt.isInt (fun h els =>
    (BitVec.ofInt 64 ((s.rx b).toInt + (els.map h.fmt.toInt).sum), h)) d a m)

/-- VREDMIN. -/
def execVredmin (d a b : Reg) (m : BitVec 2) (s : State) : Outcome State Fault Refusal :=
  complete (.vredmin d a b m) s (s.reduce Fmt.isArith (fun h els =>
    (h.fmt.extend (els.foldl (extremeAt h.fmt false) ((s.rx b).toNat % 2 ^ h.fmt.bits)), h)) d a m)

/-- VREDMAX. -/
def execVredmax (d a b : Reg) (m : BitVec 2) (s : State) : Outcome State Fault Refusal :=
  complete (.vredmax d a b m) s (s.reduce Fmt.isArith (fun h els =>
    (h.fmt.extend (els.foldl (extremeAt h.fmt true) ((s.rx b).toNat % 2 ^ h.fmt.bits)), h)) d a m)

/-- One rounded addition of a running sum, with its draw (R353, R363). -/
def addStep (f : Fmt) (rm : RM) (acc e : Nat) (x : Side2) : Nat × Side2 :=
  let u := drawIf rm x.seed
  let r := (Val.add rm.down (decodeVal f acc) (decodeVal f e)).round f rm u.1
  (r.1, { x with flags := x.flags.or r.2, seed := u.2 })

/-- The ordered sum. -/
def sumSteps (f : Fmt) (rm : RM) : List Nat → Nat → Side2 → Nat × Side2
  | [], acc, x => (acc, x)
  | e :: es, acc, x =>
    let r := addStep f rm acc e x
    sumSteps f rm es r.1 r.2

/-- VFREDSUM. -/
def execVfredsum (d a b : Reg) (m : BitVec 2) (s : State) : Outcome State Fault Refusal :=
  complete (.vfredsum d a b m) s (s.reduce Fmt.isFlt (fun h els =>
    let r := sumSteps h.fmt h.rm els ((s.rx b).toNat % 2 ^ h.fmt.bits) h.side
    (BitVec.ofNat 64 r.1, h.settle r.2)) d a m)

/-! ### Segmented reductions and scans (R363 to R365) -/

/-- The least value of a format (R364). -/
def Fmt.least (f : Fmt) : Nat :=
  if f.isInt then patInt f.bits f.intMin else f.withSign true (f.ladder.inf.getD (f.rankCode f.ladder.top))

/-- One element into a running sum: integers wrap, floating sums round (R363). -/
def segAdd (f : Fmt) (rm : RM) (acc e : Nat) (x : Side2) : Nat × Side2 :=
  if f.isInt then (patInt f.bits (f.toInt acc + f.toInt e), x) else addStep f rm acc e x

/-- A running maximum that has met no element: no pattern of the format. -/
def Fmt.noMax (f : Fmt) : Nat := 2 ^ f.bits

/-- One element into a running maximum; a NaN alone is the canonical NaN (R340, R345). -/
def segMax (f : Fmt) (acc e : Nat) (x : Side2) : Nat × Side2 :=
  (if acc = f.noMax then (if !f.isInt && (decodeVal f e).isNan then f.ladder.nan else e) else extremeAt f true acc e, x)

/-- Walks the elements with their segment starts and activity. The results: the total of each segment in order, and for
each element the running value before and after it. -/
def segWalk (step : Nat → Nat → Side2 → Nat × Side2) (start0 : Nat) :
    List (Bool × Bool × Nat) → Nat → Side2 → List Nat × List (Nat × Nat) × Side2
  | [], acc, x => ([acc], [], x)
  | (start, act, e) :: rest, acc, x =>
    let acc0 := if start then start0 else acc
    let r := if act then step acc0 e x else (acc0, x)
    let t := segWalk step start0 rest r.1 r.2
    (if start then acc :: t.1 else t.1, (acc0, r.1) :: t.2.1, t.2.2)

/-- Elements with their start bits (bit 0 ignored) and activity. -/
def segRows (starts act : List Bool) (els : List Nat) : List (Bool × Bool × Nat) :=
  match List.zip starts (List.zip act els) with
  | [] => []
  | r :: rs => (false, r.2) :: rs

/-- A segmented instruction: `k` makes the result from the totals and the running values, given the old destination. -/
def State.seg (s : State) (useOld : Bool) (step : Fmt → RM → Nat → Nat → Side2 → Nat × Side2) (z : Fmt → Nat)
    (k : Hart → List Nat → List (Nat × Nat) → List Nat → List Nat) (d a b : Reg) (m : BitVec 2) : Except Stop State :=
  let h := s.hart
  let reads := h.opRun a.toNat :: (if useOld then [h.opRun d.toNat] else [])
  if !h.fmt.isArith || decide (2048 < h.vl) then .error .illegal
  else match s.vecReady reads [h.gRun d.toNat] m.toNat with
  | .error e => .error e
  | .ok _ =>
    s.withPops reads fun t =>
      let g := t.hart
      match g.operand a.toNat, (if useOld then g.operand d.toNat else .ok g.zeroOpd) with
      | .ok x, .ok o =>
        let r := segWalk (step g.fmt g.rm) (z g.fmt) (segRows (g.predBits b.toNat g.vl) (g.act m.toNat) x.elems)
          (z g.fmt) g.side
        .ok { t with hart := (g.writeVec d.toNat (plainVec g.fmt (k g r.1 r.2.1 o.elems))).settle r.2.2 }
      | .error e, _ => .error e
      | .ok _, .error e => .error e

/-- The totals, then zeros. -/
def segTotals (h : Hart) (tot : List Nat) (_ : List (Nat × Nat)) (_ : List Nat) : List Nat := fitLen h.vl tot

/-- VSEGSUM. -/
def execVsegsum (d a b : Reg) (m : BitVec 2) (s : State) : Outcome State Fault Refusal :=
  complete (.vsegsum d a b m) s (s.seg false segAdd (fun _ => 0) segTotals d a b m)

/-- The maxima, then zeros; that of no element is the least value. -/
def segMaxima (h : Hart) (tot : List Nat) (_ : List (Nat × Nat)) (_ : List Nat) : List Nat :=
  fitLen h.vl (tot.map fun t => if t = h.fmt.noMax then h.fmt.least else t)

/-- VSEGMAX. -/
def execVsegmax (d a b : Reg) (m : BitVec 2) (s : State) : Outcome State Fault Refusal :=
  complete (.vsegmax d a b m) s (s.seg false (fun f _ => segMax f) Fmt.noMax segMaxima d a b m)

/-- Whether a masked instruction keeps its inactive elements, so that the old destination is read. -/
def Hart.keeps (h : Hart) (m : BitVec 2) : Bool := decide (m ≠ 0) && !h.mz

/-- VSCAN: the running sums with their own element. -/
def execVscan (d a b : Reg) (m : BitVec 2) (s : State) : Outcome State Fault Refusal :=
  complete (.vscan d a b m) s (s.seg (s.hart.keeps m) segAdd (fun _ => 0)
    (fun h _ run old => mergeMp h.mz (h.act m.toNat) (run.map Prod.snd) old) d a b m)

/-- VSCANX: the running sums before their element. -/
def execVscanx (d a b : Reg) (m : BitVec 2) (s : State) : Outcome State Fault Refusal :=
  complete (.vscanx d a b m) s (s.seg (s.hart.keeps m) segAdd (fun _ => 0)
    (fun h _ run old => mergeMp h.mz (h.act m.toNat) (run.map Prod.fst) old) d a b m)

end Sys2Proof.Machine
end

