-- ==== Sys2Proof/Machine/VecMove.lean ====
section
/-! DEFINITION. Slides, permutations, moves, splats, single elements and index vectors (R355 to R362). -/

namespace Sys2Proof.Machine

/-! ### Moves of elements (R355 to R357) -/

/-- The elements of v(n) at FMT, as many as LEN says. -/
def Hart.rawAt (h : Hart) (n : Nat) : Except Stop (List Nat) :=
  match h.readRun (h.opRun n) with
  | .error e => .error e
  | .ok v =>
    if v.fmt = h.fmt then .ok v.elems
    else if v.fmt.widens h.fmt then .ok (v.elems.map (widenPat v.fmt h.fmt))
    else .error .opfmt

/-- A move of elements of v(a) into v(d), PLAIN: `k` gives the new elements from those of a and of the old destination. -/
def State.moveElems (s : State) (useOld : Bool) (more : List VRun) (k : Hart → List Nat → List Nat → Except Stop (List Nat))
    (d a : Reg) (m : BitVec 2) : Except Stop State :=
  let h := s.hart
  let reads := h.opRun a.toNat :: more ++ (if useOld then [h.opRun d.toNat] else [])
  if !h.fmt.isMove then .error .illegal
  else match s.vecReady reads [h.gRun d.toNat] m.toNat with
  | .error e => .error e
  | .ok _ =>
    s.withPops reads fun t =>
      let g := t.hart
      match g.rawAt a.toNat, (if useOld then g.operand d.toNat else .ok g.zeroOpd) with
      | .ok x, .ok o =>
        match k g x o.elems with
        | .error e => .error e
        | .ok r => .ok { t with hart := g.writeVec d.toNat (plainVec g.fmt r) }
      | .error e, _ => .error e
      | .ok _, .error e => .error e

/-- VSLIDEUP: elements below k are kept whatever MP says. -/
def execVslideup (d a b : Reg) (m : BitVec 2) (s : State) : Outcome State Fault Refusal :=
  let k := (s.rx b).toNat
  complete (.vslideup d a b m) s (s.moveElems (s.hart.keeps m || decide (0 < k)) [] (fun h x old =>
    .ok ((List.range h.vl).map fun i =>
      if i < k then old.getD i 0
      else if h.sel m.toNat i then x.getD (i - k) 0
      else if h.mz then 0 else old.getD i 0)) d a m)

/-- VSLIDEDN. -/
def execVslidedn (d a b : Reg) (m : BitVec 2) (s : State) : Outcome State Fault Refusal :=
  let k := (s.rx b).toNat
  complete (.vslidedn d a b m) s (s.moveElems (s.hart.keeps m) [] (fun h x old =>
    .ok (mergeMp h.mz (h.act m.toNat) ((List.range h.vl).map fun i => x.getD (i + k) 0) old)) d a m)

/-- VPERMV: the index group is read unsigned at its own integer tag. -/
def execVpermv (d a b : Reg) (m : BitVec 2) (s : State) : Outcome State Fault Refusal :=
  complete (.vpermv d a b m) s (s.moveElems (s.hart.keeps m) [s.hart.tagRun b.toNat] (fun h x old =>
    match h.tagged b.toNat Fmt.isIndex with
    | .error e => .error e
    | .ok ix => .ok (mergeMp h.mz (h.act m.toNat) ((fitLen h.vl ix.elems).map fun j => x.getD j 0) old)) d a m)

/-- VCOMPRESS: zeros from the number packed on, whatever MP is. -/
def execVcompress (d a : Reg) (m : BitVec 2) (s : State) : Outcome State Fault Refusal :=
  complete (.vcompress d a m) s (s.moveElems false [] (fun h x _ =>
    .ok (fitLen h.vl (pickActive (h.act m.toNat) (fitLen h.vl x)))) d a m)

/-! ### VMV, VSPLAT, VEXTR, VINS (R358 to R361) -/

/-- The identity on elements. -/
def sameFn : ElemFn := fun _ _ _ a _ _ => (a, {})

/-- The hart with the untyped mark of every register of a group turned over: an untyped register then reads as bytes (R406). -/
def Hart.flipTyped (h : Hart) (w g : Nat) : Hart :=
  { h with v := (List.range g).foldl (fun m j =>
      let r := mget {} m (w + j)
      mset {} m (w + j) { r with desc := { r.desc with untyped := !r.desc.untyped } }) h.v }

/-- A group read over a run whatever its tag: untyped registers, all of them, as bytes; and whether they are untyped. -/
def Hart.readAny (h : Hart) (r : VRun) : Except Stop (Vec × Bool) :=
  let w := h.wb.toNat + r.1
  let u := (h.vreg w).desc.untyped
  match (if u then h.flipTyped w r.2 else h).readRun r with
  | .error e => .error e
  | .ok v => .ok (v, u)

/-- VMV without a mask: a copy at the source's tag, its encoding kept; EP PLAIN expands it. -/
def State.copyReg (s : State) (d a : Reg) : Except Stop State :=
  let h := s.hart
  match s.vecReady [h.ownRun a.toNat] [h.likeRun d a] 0 with
  | .error e => .error e
  | .ok _ =>
    s.withPops [h.ownRun a.toNat] fun t =>
      let g := t.hart
      match g.readAny (g.ownRun a.toNat) with
      | .error e => .error e
      | .ok (v, u) =>
        let c := copyVec v.enc v.fmt v.wid v.elems v.scales g.vl
        let w := if g.ep = 2 then plainVec c.fmt c.elems c.scales else c
        .ok { t with hart := if u then (g.writeVec d.toNat w).flipTyped (g.wb.toNat + d.toNat) g.g else g.writeOwn d.toNat w }

/-- VMV. -/
def execVmv (d a : Reg) (m : BitVec 2) (s : State) : Outcome State Fault Refusal :=
  complete (.vmv d a m) s (if m = 0 then s.copyReg d a else s.vec1 Fmt.isMove false sameFn d a m)

/-- An element-wise result from operands that are no registers: `src` beside the old destination under a mask. -/
def State.vec0 (s : State) (cls : Fmt → Bool) (src : Opd) (d : Reg) (m : BitVec 2) : Except Stop State :=
  let h := s.hart
  let reads := if h.keeps m then [h.opRun d.toNat] else []
  if !cls h.fmt then .error .illegal
  else match s.vecReady reads [h.gRun d.toNat] m.toNat with
  | .error e => .error e
  | .ok _ =>
    s.withPops reads fun t =>
      let g := t.hart
      match (if g.keeps m then g.operand d.toNat else .ok g.zeroOpd) with
      | .error e => .error e
      | .ok o => .ok { t with hart := g.ewResult m.toNat false sameFn (src :: g.maskOpd m.toNat o) src.elems src.elems o.elems d.toNat }

/-- VSPLAT. -/
def execVsplat (d a : Reg) (m : BitVec 2) (s : State) : Outcome State Fault Refusal :=
  complete (.vsplat d a m) s (s.vec0 Fmt.isMove (Opd.ofScalar s.hart.fmt s.hart.vl (s.rx a).toNat) d m)

/-- An element pattern in a scalar register (R360). -/
def Fmt.extract (f : Fmt) (x : Nat) : Word :=
  if f.isI || decide (f = .i4) || decide (f = .mxi8) then BitVec.ofInt 64 (sgn f.bits x) else BitVec.ofNat 64 x

/-- VEXTR: the group is read at its own tag; an untyped one holds bytes, which have no sign. -/
def execVextr (d a b : Reg) (m : BitVec 2) (s : State) : Outcome State Fault Refusal :=
  let r := s.hart.ownRun a.toNat
  let k := (s.rx b).toNat
  complete (.vextr d a b m) s
    (match s.vecReady [r] [] m.toNat with
     | .error e => .error e
     | .ok _ => s.withPops [r] fun t =>
       match t.hart.readAny r with
       | .error e => .error e
       | .ok (v, u) => .ok (t.wx d (if k < t.hart.vl ∧ t.hart.sel m.toNat k = true ∧ k < v.elems.length
           then (if u then .n8 else v.fmt : Fmt).extract (v.elems.getD k 0) else 0)))

/-- VINS: a merge of the old destination and a splat under a mask of element k alone. -/
def execVins (d a b : Reg) (m : BitVec 2) (s : State) : Outcome State Fault Refusal :=
  let h := s.hart
  let k := (s.rx b).toNat
  complete (.vins d a b m) s
    (if !h.fmt.isMove then .error .illegal
     else match s.vecReady [h.opRun d.toNat] [h.gRun d.toNat] m.toNat with
     | .error e => .error e
     | .ok _ => s.withPops [h.opRun d.toNat] fun t =>
       let g := t.hart
       match g.operand d.toNat with
       | .error e => .error e
       | .ok o =>
         let x := Opd.ofScalar g.fmt g.vl (s.rx a).toNat
         let act := (List.range g.vl).map fun i => decide (i = k) && g.sel m.toNat i
         let els := mergeMp false act x.elems o.elems
         .ok { t with hart := g.writeVec d.toNat (resultVec g.ep g.fmt [o, x] (some act) els) })

/-! ### Index vectors (R362) -/

/-- VIDX. -/
def execVidx (d ia ib : BitVec 7) (m : BitVec 2) (s : State) : Outcome State Fault Refusal :=
  let f := s.hart.fmt
  complete (.vidx d ia ib m) s (s.vec0 Fmt.isInt
    ⟨(List.range s.hart.vl).map fun i => patInt f.bits (ia.toInt + (i : Int) * ib.toInt), .plain, .plain⟩ d m)

/-- The operand of VIDXX: runs of `n` elements. -/
def stairs (f : Fmt) (vl n : Nat) (ia : Int) : Opd :=
  let els := (List.range vl).map fun i => patInt f.bits (ia + ((i / n : Nat) : Int))
  ⟨els, match changes els 0 with
    | [] => .splat
    | c :: cs => .runs ((c :: cs) ++ [vl]), .runs⟩

/-- VIDXX: ib is at least 1 in every word that decodes. -/
def execVidxx (d ia ib : BitVec 7) (m : BitVec 2) (s : State) : Outcome State Fault Refusal :=
  complete (.vidxx d ia ib m) s
    (if ib.toInt ≤ 0 then .error .illegal
     else s.vec0 Fmt.isInt (stairs s.hart.fmt s.hart.vl ib.toInt.toNat ia.toInt) d m)

end Sys2Proof.Machine
end

