-- ==== Sys2Proof/Machine/VecConv.lean ====
section
/-! DEFINITION. Conversion, quantisation and explicit encoding (R155, R156, R161, R164 to R167, R371 to R378). -/

namespace Sys2Proof.Machine

/-! ### Values of a register at its own tag -/

/-- The value of an MX element under its block scale; a NaN scale makes every element a NaN (R154, R155). -/
def mxVal (f : Fmt) (x sc : Nat) : Val :=
  if sc = 0xFF then .nan else (Val.mul (decodeVal f x) (.ofFrac false (Frac.scale2 1 ((sc : Int) - 127)))).val

/-- An element's value and whether its block's scale is a NaN; from LEN on a zero. -/
def Vec.valAt (v : Vec) (i : Nat) : Val × Bool :=
  match v.elems[i]? with
  | none => (.fin false 0 1, false)
  | some x =>
    if v.fmt.isMx then let sc := v.scales.getD (i / 32) 127; (mxVal v.fmt x sc, decide (sc = 0xFF))
    else (decodeVal v.fmt x, false)

/-- The values of elements 0 to n − 1. -/
def Vec.vals (v : Vec) (n : Nat) : List (Val × Bool) := (List.range n).map v.valAt

/-- A register as the operand that decides a result's encoding: its shape at its own tag. -/
def Vec.selfOpd (v : Vec) (vl : Nat) : Opd :=
  ⟨fitLen vl v.elems, shapeIn v.enc v.fmt vl v.elems.length v.cnt v.wid v.arr, v.enc⟩

/-! ### MX targets (R156) -/

/-- floor(log2 (n / d)), n not 0. -/
def floorLog2 (n d : Nat) : Int :=
  let k : Int := (Nat.log2 n : Int) - (Nat.log2 d : Int)
  let b := Frac.scale2 1 k
  if (n : Int) * (b.den : Int) < b.num * (d : Int) then k - 1 else k

/-- emax of R156. -/
def Fmt.mxEmax (f : Fmt) : Int := if f = .mxf8 then 8 else if f = .mxf4 then 2 else 0

/-- The larger magnitude. -/
def absMax (a b : Val) : Val := if a.abs.lt b.abs then b.abs else a.abs

/-- The scale code of a block of active values, and whether it holds an infinity. -/
def mxScale (f : Fmt) (vs : List Val) : Nat × Bool :=
  let isInf : Val → Bool := fun v =>
    match v with
    | .inf _ => true
    | .nan => false
    | .fin _ _ _ => false
  if vs.any fun v => v.isNan || isInf v then (0xFF, vs.any isInf)
  else
    match vs.foldl absMax (.fin false 0 1) with
    | .fin _ n d =>
      if n = 0 then (0x7F, false) else ((clampInt (-127) 127 (floorLog2 n d - f.mxEmax)).1 + 127 |>.toNat, false)
    | .inf _ => (0xFF, true)
    | .nan => (0xFF, false)

/-- The scale codes of the blocks of a vector's active values, and NV where an infinity stands. -/
def mxScales (f : Fmt) (act : List Bool) (vs : List Val) : List (Nat × Bool) :=
  (List.range (ceilDiv vs.length 32)).map fun b =>
    mxScale f (((List.zip (act.drop (32 * b)) (vs.drop (32 * b))).take 32).filterMap fun x => if x.1 then some x.2 else none)

/-- The values an MX target's elements are rounded from: in a block whose active values are all zeros each is 0, of sign 0
(R156). -/
def mxSource (f : Fmt) (act : List Bool) (vs : List Val) : List Val :=
  if f.isMx then
    let zs := (List.range (ceilDiv vs.length 32)).map fun b =>
      ((List.zip (act.drop (32 * b)) (vs.drop (32 * b))).take 32).all fun x => !x.1 || x.2.isZero
    (List.zip (List.range vs.length) vs).map fun x => if zs.getD (x.1 / 32) false then .fin false 0 1 else x.2
  else vs

/-- Scale bytes that the spec states no value for (log): free. -/
def State.freeScales (s : State) (n : Nat) : List Nat := (List.range n).map fun b => (Config.freeWord s.tick b).toNat % 256

/-! ### Rounding to a target -/

/-- A value times a power of two. -/
def Val.shift (v : Val) (k : Int) : Val := (Val.mul v (.ofFrac false (Frac.scale2 1 k))).val

/-- A value rounded to a target, an MX target under its block's scale code: the pattern, the flags and the value it then
has. The block of a NaN scale holds zeros (R156). -/
def toTarget (f : Fmt) (sc : Nat) (rm : RM) (u : Nat) (y : Val) : Nat × Flags × Val :=
  if f.isMx then
    if sc = 0xFF then (0, {}, .nan)
    else
      let k : Int := 127 - (sc : Int)
      let r := roundVal f rm u (y.shift (if f = .mxi8 then k + 6 else k))
      (r.1, r.2, mxVal f r.1 sc)
  else
    let r := roundVal f rm u y
    (r.1, r.2, decodeVal f r.1)

/-- Whether a number rounds to a value outside a target's range, that of an MX target under its block's scale code. -/
def pastTarget (f : Fmt) (sc : Nat) (rm : RM) (u : Nat) (y : Val) : Bool :=
  if f.isMx then
    decide (sc ≠ 0xFF) && f.past rm u (y.shift (if f = .mxi8 then 127 - (sc : Int) + 6 else 127 - (sc : Int)))
  else f.past rm u y

/-- F64 RNE of a value. -/
def f64 (v : Val) : Val := decodeVal .f64 (roundVal .f64 .rne 0 v).1

/-- Whether a value is a number. -/
def Val.isFin : Val → Bool
  | .fin _ _ _ => true
  | .nan => false
  | .inf _ => false

/-- The value that a chain feeds on, v_i + c (R161), or v_i itself. -/
def fed (chain : Bool) (v c : Val) : Val := if chain then f64 (Val.add false v c).val else v

/-- The residual after a rounding of y to q (R161); it is 0 where q is no number, as in a block of a NaN scale (log). -/
def residual (chain lost : Bool) (c y q : Val) : Val :=
  if !chain then c else if lost || !y.isFin || !q.isFin then .fin false 0 1 else f64 (Val.add false y q.negate).val

/-! ### VCVT (R371) -/

/-- VCVT's loop over rows of activity, value, NaN-scale mark, block scale and kept element. An element counts as saturated where
its rounded value lies outside the target's range (log). -/
def cvtLoop (f : Fmt) (rm : RM) (chain : Bool) : List (Bool × (Val × Bool) × Nat × Nat) → Side2 → Val → List Nat × Side2 × Val
  | [], x, c => ([], x, c)
  | (a, v, sc, old) :: rest, x, c =>
    if a then
      let u := drawIf rm x.seed
      let y := fed chain v.1 c
      let r := toTarget f sc rm u.1 y
      let t := cvtLoop f rm chain rest { x with flags := (x.flags.or r.2.1).or { nv := v.2 }, seed := u.2 }
        (residual chain (pastTarget f sc rm u.1 y) c y r.2.2)
      (r.1 :: t.1, t.2)
    else
      let t := cvtLoop f rm chain rest x c
      (old :: t.1, t.2)

/-- Rows for the loops of this file. -/
def cvtRows (act : List Bool) (vs : List (Val × Bool)) (scs : List Nat) (old : List Nat) : List (Bool × (Val × Bool) × Nat × Nat) :=
  List.zip act (List.zip vs (List.zip ((List.range vs.length).map fun i => scs.getD (i / 32) 127) old))

/-- The F64 pattern of EFR after a chain; without an active element it is unchanged (R161). -/
def Hart.setEfr (h : Hart) (chain : Bool) (act : List Bool) (c : Val) : Hart :=
  if chain && act.any (fun b => b) then { h with efr := BitVec.ofNat 64 (roundVal .f64 .rne 0 c).1 } else h

/-- A conversion's result written: PLAIN where asked, with its scales for an MX target. -/
def Hart.writeConv (h : Hart) (d m : Nat) (plain : Bool) (src : Opd) (old : Opd) (scs els : List Nat) : Hart :=
  h.writeVec d (if plain then plainVec h.fmt els (if h.fmt.isMx then scs else [])
    else resultVec h.ep h.fmt (src :: h.maskOpd m old) (if m = 0 then none else some (h.act m)) els)

/-- The old destination as a conversion keeps it: not under an MX target, whose inactive elements are zero. -/
def Hart.convOld (h : Hart) (d : Reg) (m : BitVec 2) : Except Stop Opd :=
  if h.keeps m && !h.fmt.isMx then h.operand d.toNat else .ok h.zeroOpd

/-- The runs a conversion reads beside its source. -/
def Hart.convReads (h : Hart) (d : Reg) (m : BitVec 2) : List VRun :=
  if h.keeps m && !h.fmt.isMx then [h.opRun d.toNat] else []

/-- VCVT's effect once its operands are read: a format to itself copies the patterns, with a draw for each active element under STO
(R160). -/
def Hart.cvt (h : Hart) (d : Reg) (m : BitVec 2) (v : Vec) (o : Opd) : Hart :=
  let act := h.act m.toNat
  let plain := h.fmt.isMx || decide (h.rm = .sto) || decide (h.rm = .efb)
  let src := v.selfOpd h.vl
  if v.fmt = h.fmt then
    let seed := if h.rm = .sto then afterDraws (act.count true) h.side.seed else h.side.seed
    (h.writeConv d.toNat m.toNat plain src o (fitLen (ceilDiv h.vl 32) v.scales)
      (mergeMp (h.mz || h.fmt.isMx) act src.elems o.elems)).settle { h.side with seed := seed }
  else
    let vs := v.vals h.vl
    let sc := if h.fmt.isMx then mxScales h.fmt act (vs.map Prod.fst) else []
    let chain := decide (h.rm = .efb) && decide (h.fmt.bits < v.fmt.bits)
    let r := cvtLoop h.fmt h.rm chain (cvtRows act (List.zip (mxSource h.fmt act (vs.map Prod.fst)) (vs.map Prod.snd)) (sc.map Prod.fst) (o.elems.map fun e => if h.mz then 0 else e))
      { h.side with flags := { nv := sc.any Prod.snd } } (decodeVal .f64 h.efr.toNat)
    ((h.writeConv d.toNat m.toNat plain src o (sc.map Prod.fst) r.1).settle r.2.1).setEfr chain act r.2.2

/-- VCVT: the source group is read at its own tag over the registers of R105. -/
def execVcvt (d a : Reg) (m : BitVec 2) (s : State) : Outcome State Fault Refusal :=
  let h := s.hart
  let reads := h.tagRun a.toNat :: h.convReads d m
  complete (.vcvt d a m) s
    (match s.vecReady reads [h.gRun d.toNat] m.toNat with
     | .error e => .error e
     | .ok _ => s.withPops reads fun t =>
       match t.hart.readRun (t.hart.tagRun a.toNat), t.hart.convOld d m with
       | .ok v, .ok o => .ok { t with hart := t.hart.cvt d m v o }
       | .error e, _ => .error e
       | .ok _, .error e => .error e)

/-! ### VQUANT (R164 to R166, R372) -/

/-- The targets of VQUANT and the tags of VDEQUANT. -/
def Fmt.isQuant (f : Fmt) : Bool :=
  match f with
  | .i8 => true | .i4 => true | .n8 => true | .e4m3 => true | .e5m2 => true | .dm8 => true
  | .mxf8 => true | .mxf4 => true | .mxi8 => true
  | .i16 => false | .i32 => false | .i64 => false | .n16 => false | .n32 => false | .n64 => false
  | .f16 => false | .bf16 => false | .f32 => false | .f64 => false

/-- The formats that have an escape code (R165). -/
def Fmt.hasEscape (f : Fmt) : Bool := decide (f = .i8) || decide (f = .i4)

/-- The escape code. -/
def Fmt.escape (f : Fmt) : Nat := 2 ^ (f.bits - 1)

/-- What VQUANT accumulates beside Side2: the residual, the side list, and whether a wide channel arose. -/
structure QState where
  side : Side2
  chain : Val
  list : List Nat := []
  wide : List Nat := []
  anyWide : Bool := false

/-- How one element of VQUANT ends: its code, flags, whether it clipped or escaped. -/
structure QElem where
  code : Nat
  flags : Flags := {}
  clipped : Bool := false
  escaped : Bool := false
  val : Val := .nan

/-- The range of an integer target: the escape code is kept free under OUTL = 0 (R165). -/
def quantRange (f : Fmt) (outl : Bool) : Int × Int :=
  (if f.hasEscape && !outl then -f.intMax else f.intMin, f.intMax)

/-- The largest magnitude of a target with a sign. -/
def Fmt.largest (f : Fmt) (neg : Bool) : Nat := f.withSign neg (f.rankCode f.ladder.top)

/-- One element y of VQUANT (R164, R165): a number is clipped where its rounded value lies outside the range; `room` says that the side list has an entry left. An infinity is clipped; it
overflows where R159 says so, which is not in E5M2. -/
def quantElem (f : Fmt) (outl room : Bool) (sc : Nat) (rm : RM) (u : Nat) (y : Val) : QElem :=
  match y with
  | .nan => { code := 0, flags := { nv := true } }
  | .inf sg =>
    if f.isInt || decide (f = .i4) then
      if f.hasEscape && !outl && room then { code := f.escape, escaped := true }
      else
        let r := quantRange f outl
        { code := patInt f.bits (if sg then r.1 else r.2), flags := { of := true, nx := true }, clipped := true }
    else if f.isMx then
      if sc = 0xFF then { code := 0, clipped := true }
      else { code := (roundVal f rm u y).1, flags := { of := true, nx := true }, clipped := true }
    else { code := f.largest sg, flags := { of := decide (f ≠ .e5m2), nx := true }, clipped := true }
  | .fin sg n dd =>
    if f.isInt || decide (f = .i4) then
      let r := roundNat rm u sg n dd
      let i : Int := if sg then -(r.1 : Int) else (r.1 : Int)
      let rg := quantRange f outl
      let c := clampInt rg.1 rg.2 i
      if !c.2 then { code := patInt f.bits i, flags := { nx := r.2 }, val := .ofInt i }
      else if f.hasEscape && !outl && room then { code := f.escape, flags := { nx := r.2 }, escaped := true }
      else { code := patInt f.bits c.1, flags := { of := true, nx := true }, clipped := true }
    else
      let r := toTarget f sc rm u y
      if pastTarget f sc rm u y then
        { code := if f.isMx then r.1 else f.largest sg, flags := r.2.1, clipped := true }
      else { code := r.1, flags := r.2.1, val := r.2.2 }

/-- A row of VQUANT: activity, wide channel, source value, product, NaN-scale mark, block scale, kept element. -/
structure QRow where
  act : Bool
  wide : Bool
  src : Val
  prod : Exact
  nanSc : Bool
  sc : Nat
  old : Nat

/-- VQUANT's loop. -/
def quantLoop (f : Fmt) (outl : Bool) (cap : Nat) (rm : RM) (chain : Bool) : List QRow → QState → List Nat × QState
  | [], q => ([], q)
  | r :: rest, q =>
    if !r.act then
      let t := quantLoop f outl cap rm chain rest { q with wide := q.wide ++ [0] }
      (r.old :: t.1, t.2)
    else
      let u := drawIf rm q.side.seed
      if r.wide then
        let b := roundVal .bf16 .rne 0 r.src
        let t := quantLoop f outl cap rm chain rest { q with
          side := { q.side with flags := (q.side.flags.or b.2).or { nv := r.nanSc }, seed := u.2, examined := q.side.examined + 1 },
          chain := residual chain true q.chain r.src r.src, wide := q.wide ++ [b.1], anyWide := true }
        (0 :: t.1, t.2)
      else
        let y := fed chain r.prod.val q.chain
        let e := quantElem f outl (decide (q.list.length < cap)) r.sc rm u.1 y
        let b := roundVal .f32 .rne 0 r.src
        let fl := (((q.side.flags.or e.flags).or { nv := r.nanSc || r.prod.nv, cl := e.clipped })).or (if e.escaped then b.2 else {})
        let t := quantLoop f outl cap rm chain rest { q with
          side := { flags := fl, seed := u.2, examined := q.side.examined + 1,
                    clipped := if e.clipped then q.side.clipped + 1 else q.side.clipped },
          chain := residual chain (e.clipped || e.escaped) q.chain y e.val,
          list := if e.escaped then q.list ++ [b.1] else q.list, wide := q.wide ++ [0] }
        (e.code :: t.1, t.2)

/-- Whether element i is a wide channel (R166): its bit of the predicate bound to mk3. -/
def Hart.wideAt (h : Hart) (i : Nat) : Bool := h.outl && bitAt (h.pred (h.mkNum 3)) i

/-- Entries of the side list (R165). -/
def Hart.sideCap (h : Hart) : Nat := min 32 (h.vlgrant * h.g / 4)

/-- VQUANT's effect once its operands are read. Of the wide channels, those whose index the following group cannot hold as BF16 are
lost (log). -/
def Hart.quant (h : Hart) (d : Reg) (m : BitVec 2) (scale : Val) (v : Vec) (o : Opd) : Hart :=
  let f := h.fmt
  let act := h.act m.toNat
  let src := v.selfOpd h.vl
  let vs := v.vals h.vl
  let ps := vs.map fun x => Val.mul x.1 scale
  let sc := if f.isMx then mxScales f act (ps.map Exact.val) else []
  let ys := mxSource f act (ps.map Exact.val)
  let chain := decide (h.rm = .efb)
  let rows := (List.range h.vl).map fun i =>
    ({ act := act.getD i false, wide := h.wideAt i, src := (vs.getD i (.nan, false)).1, prod := { ps.getD i ⟨.nan, false, false⟩ with val := ys.getD i .nan },
       nanSc := (vs.getD i (.nan, false)).2, sc := (sc.map Prod.fst).getD (i / 32) 127,
       old := if h.mz || f.isMx then 0 else o.elems.getD i 0 } : QRow)
  let r := quantLoop f h.outl h.sideCap h.rm chain rows
    { side := { h.side with flags := { nv := sc.any Prod.snd } }, chain := decodeVal .f64 h.efr.toNat }
  let plain := f.isMx || decide (h.rm = .sto) || chain || !(decide (v.enc = .runs) || decide (v.enc = .dict))
    || !r.2.list.isEmpty || r.2.anyWide
  let h1 := h.writeConv d.toNat m.toNat plain src o (sc.map Prod.fst) r.1
  let h2 := if h.outl then h1.writeVec (d.toNat + h.g) (plainVec .bf16 r.2.wide)
            else if f.hasEscape then h1.writeVec (d.toNat + h.g) (plainVec .f32 r.2.list) else h1
  (h2.settle r.2.side).setEfr chain act r.2.chain

/-- The runs VQUANT writes: under OUTL = 1, or with an escape code, the following group too. -/
def Hart.quantWrites (h : Hart) (d : Reg) : List VRun :=
  if h.outl || h.fmt.hasEscape then [h.gRun d.toNat, (d.toNat + h.g, h.g)] else [h.gRun d.toNat]

/-- VQUANT. -/
def execVquant (d a b : Reg) (m : BitVec 2) (s : State) : Outcome State Fault Refusal :=
  let h := s.hart
  let reads := h.tagRun a.toNat :: h.convReads d m
  complete (.vquant d a b m) s
    (if !h.fmt.isQuant then .error .illegal
     else match s.vecReady reads (h.quantWrites d) m.toNat with
     | .error e => .error e
     | .ok _ => s.withPops reads fun t =>
       match t.hart.readRun (t.hart.tagRun a.toNat), t.hart.convOld d m with
       | .ok v, .ok o => .ok { t with hart := t.hart.quant d m (f32Val (s.rx b).toNat) v o }
       | .error e, _ => .error e
       | .ok _, .error e => .error e)

/-! ### VDEQUANT (R167, R373) -/

/-- A row of VDEQUANT: activity, escape, wide channel, the exact product, NaN-scale mark, the wide value, kept element. -/
structure DqRow where
  act : Bool
  esc : Bool
  wide : Bool
  prod : Exact
  nanSc : Bool
  wval : Val
  old : Nat

/-- VDEQUANT's loop over the rows and the rest of the side list; an inactive element takes no entry of it (log). -/
def dequantLoop (f : Fmt) (rm : RM) : List DqRow → List Val → Side2 → List Nat × Side2
  | [], _, x => ([], x)
  | r :: rest, side, x =>
    if !r.act then
      let t := dequantLoop f rm rest side x
      (r.old :: t.1, t.2)
    else
      let u := drawIf rm x.seed
      let e : Exact := if r.wide then ⟨r.wval, false, false⟩
        else if r.esc then ⟨(side.head?).getD (.fin false 0 1), false, false⟩ else r.prod
      let q := e.round f rm u.1
      let t := dequantLoop f rm rest (if r.esc && !r.wide then side.tail else side)
        { x with flags := (x.flags.or q.2).or { nv := r.nanSc }, seed := u.2 }
      (q.1 :: t.1, t.2)

/-- VDEQUANT's effect once its operands are read; `extra` is the group that follows the source, where it is read. -/
def Hart.dequant (h : Hart) (d : Reg) (m : BitVec 2) (scale : Val) (v : Vec) (extra : Option Vec) (o : Opd) : Hart :=
  let act := h.act m.toNat
  let vs := v.vals h.vl
  let esc := !h.outl && v.fmt.hasEscape
  let rows := (List.range h.vl).map fun i =>
    ({ act := act.getD i false, esc := esc && decide (v.elems[i]? = some v.fmt.escape), wide := h.wideAt i,
       prod := Val.mul (vs.getD i (.nan, false)).1 scale, nanSc := (vs.getD i (.nan, false)).2,
       wval := match extra with
         | none => .fin false 0 1
         | some w => (w.valAt i).1,
       old := if h.mz then 0 else o.elems.getD i 0 } : DqRow)
  let side := match extra with
    | none => []
    | some w => (w.vals w.elems.length).map Prod.fst
  let r := dequantLoop h.fmt h.rm rows side h.side
  let used := rows.any fun q => q.act && (q.esc || q.wide)
  (h.writeConv d.toNat m.toNat (decide (h.rm = .sto) || decide (h.rm = .efb) || used) (v.selfOpd h.vl) o [] r.1).settle r.2

/-- Whether VDEQUANT reads the group that follows its source. -/
def Hart.dequantExtra (h : Hart) (a : Reg) : Bool := h.outl || (h.tagOf (h.wb.toNat + a.toNat)).hasEscape

/-- The following group, whose tag must be that of its use; its span is G registers whatever the tag's width, for which R167 and
R373 name none (log). -/
def Hart.extraGroup (h : Hart) (a : Reg) : Except Stop (Option Vec) :=
  if h.dequantExtra a then
    match h.readRun (a.toNat + h.g, h.g) with
    | .error e => .error e
    | .ok w => if w.fmt = (if h.outl then .bf16 else .f32) then .ok (some w) else .error .opfmt
  else .ok none

/-- The targets of VDEQUANT. -/
def Fmt.isDequant (f : Fmt) : Bool := decide (f = .f16) || decide (f = .bf16) || decide (f = .f32) || decide (f = .f64)

/-- VDEQUANT. -/
def execVdequant (d a b : Reg) (m : BitVec 2) (s : State) : Outcome State Fault Refusal :=
  let h := s.hart
  let reads := h.tagRun a.toNat :: (if h.dequantExtra a then [(a.toNat + h.g, h.g)] else []) ++ h.convReads d m
  complete (.vdequant d a b m) s
    (if !h.fmt.isDequant then .error .illegal
     else match s.vecReady reads [h.gRun d.toNat] m.toNat with
     | .error e => .error e
     | .ok _ => s.withPops reads fun t =>
       match t.hart.readRun (t.hart.tagRun a.toNat), t.hart.extraGroup a, t.hart.convOld d m with
       | .ok v, .ok w, .ok o =>
         if v.fmt.isQuant then .ok { t with hart := t.hart.dequant d m (f32Val (s.rx b).toNat) v w o } else .error .opfmt
       | .error e, _, _ => .error e
       | .ok _, .error e, _ => .error e
       | .ok _, .ok _, .error e => .error e)

/-- VAMAX (R374). -/
def execVamax (d a : Reg) (m : BitVec 2) (s : State) : Outcome State Fault Refusal :=
  complete (.vamax d a m) s (s.reduce Fmt.isArith (fun h els =>
    let vs := ((els.map (decodeVal h.fmt)).filter fun v => !v.isNan)
    (BitVec.ofNat 64 (if vs.isEmpty then 0 else (roundVal .f32 .rup 0 (vs.foldl absMax (.fin false 0 1))).1), h)) d a m)

/-! ### VENC, VDEC, VENCINFO, VRUNEND (R375 to R378) -/

/-- An instruction on v(a) at its own tag (R105) that writes v(d) over the run `out`: `k` gives the vector and the new VL. -/
def State.reencode (s : State) (out : VRun) (k : Hart → Vec → Vec × Nat) (d a : Reg) : Except Stop State :=
  let h := s.hart
  match s.vecReady [h.ownRun a.toNat] [out] 0 with
  | .error e => .error e
  | .ok _ => s.withPops [h.ownRun a.toNat] fun t =>
    match t.hart.readRun (t.hart.ownRun a.toNat) with
    | .error e => .error e
    | .ok v =>
      let r := k t.hart v
      .ok { t with hart := { t.hart.writeOwn d.toNat r.1 with vl := r.2 } }

/-- A vector expanded over `vl` elements. -/
def Vec.expand (v : Vec) (vl : Nat) : Vec :=
  plainVec v.fmt (fitLen vl v.elems) (if v.fmt.isMx then fitLen (ceilDiv vl 32) v.scales else [])

/-- VENC. -/
def execVenc (d a b : Reg) (s : State) : Outcome State Fault Refusal :=
  complete (.venc d a b) s (s.reencode (s.hart.likeRun d a) (fun h v =>
    let p := v.expand h.vl
    ((encodeAs (Enc.ofCode ((s.rx b).toNat % 4)) v.fmt p.elems).filter (fun e => decide (e.enc ≠ .plain)) |>.getD p, h.vl)) d a)

/-- VDEC. -/
def execVdec (d a : Reg) (s : State) : Outcome State Fault Refusal :=
  complete (.vdec d a) s (s.reencode (s.hart.likeRun d a) (fun h v => (v.expand h.vl, h.vl)) d a)

/-- A descriptor as its 64-bit word (R123). -/
def Desc.word (e : Desc) : Word :=
  BitVec.ofNat 64 (e.enc.code + (if e.untyped then 0x3F else e.fmt.code) * 2 ^ 2 + e.len * 2 ^ 8 + e.cnt * 2 ^ 21 + e.wid * 2 ^ 34 + e.grec * 2 ^ 36
    + e.cont.toNat * 2 ^ 38)

/-- VENCINFO. -/
def execVencinfo (d a : Reg) (s : State) : Outcome State Fault Refusal :=
  complete (.vencinfo d a) s
    (match s.vecReady [(a.toNat, 1)] [] 0 with
     | .error e => .error e
     | .ok _ => .ok (s.wx d (s.hart.vreg (s.hart.wb.toNat + a.toNat)).desc.word))

/-- The index formats of VRUNEND. -/
def Fmt.isRunend (f : Fmt) : Bool :=
  decide (f = .i16) || decide (f = .i32) || decide (f = .i64) || decide (f = .n16) || decide (f = .n32) || decide (f = .n64)

/-- The boundary indices of an operand over `vl` elements. -/
def Vec.boundaries (v : Vec) (vl : Nat) : List Nat :=
  if vl = 0 then []
  else match v.enc with
    | .runs => runEndsTo vl v.elems.length (runPairs v.fmt v.cnt v.arr)
    | .dict => changes (codesTo vl (unpackAt v.fmt.bits v.arr 0 v.cnt) (dictCodes v.fmt v.wid v.elems.length v.arr)) 0 ++ [vl]
    | .plain => changes (fitLen vl v.elems) 0 ++ [vl]
    | .delta => changes (fitLen vl v.elems) 0 ++ [vl]

/-- VRUNEND. -/
def execVrunend (d a : Reg) (s : State) : Outcome State Fault Refusal :=
  complete (.vrunend d a) s
    (if !s.hart.fmt.isRunend then .error .illegal
     else s.reencode (s.hart.gRun d.toNat) (fun h v =>
       let ix := (v.boundaries h.vl).take (h.vlgrant * h.g * 8 / h.fmt.bits)
       (plainVec h.fmt ix, ix.length)) d a)

end Sys2Proof.Machine
end

