-- ==== Sys2Proof/Machine/VecLists.lean ====
section
/-! DEFINITION. Index lists, sorting, hashing and top-k (R379 to R382). -/

namespace Sys2Proof.Machine

/-- The union loop of R379: at most `n` elements, equal ones written once. -/
def mergeLists (lt : Nat → Nat → Bool) : Nat → List Nat → List Nat → List Nat
  | 0, _, _ => []
  | _ + 1, [], [] => []
  | n + 1, x :: xs, [] => x :: mergeLists lt n xs []
  | n + 1, [], y :: ys => y :: mergeLists lt n [] ys
  | n + 1, x :: xs, y :: ys =>
    if lt x y then x :: mergeLists lt n xs (y :: ys)
    else if lt y x then y :: mergeLists lt n (x :: xs) ys
    else x :: mergeLists lt n xs ys

/-- VMERGEIDX: the elements below LEN and VL that are active take part; VL becomes the number written. -/
def execVmergeidx (d a b : Reg) (m : BitVec 2) (s : State) : Outcome State Fault Refusal :=
  let h := s.hart
  let reads := [h.opRun a.toNat, h.opRun b.toNat]
  complete (.vmergeidx d a b m) s
    (if !h.fmt.isInt then .error .illegal
     else match s.vecReady reads [h.gRun d.toNat] m.toNat with
     | .error e => .error e
     | .ok _ => s.withPops reads fun t =>
       let g := t.hart
       match g.rawAt a.toNat, g.rawAt b.toNat with
       | .ok x, .ok y =>
         let act := g.act m.toNat
         let r := mergeLists (fun p q => decide (g.fmt.toInt p < g.fmt.toInt q)) g.vl (pickActive act x) (pickActive act y)
         .ok { t with hart := { g.writeVec d.toNat (plainVec g.fmt r) with vl := r.length } }
       | .error e, _ => .error e
       | .ok _, .error e => .error e)

/-- a may stand before b in the order of R380: integers by value, numbers by value with −0 below +0, NaNs last. -/
def keyLe (f : Fmt) (a b : Nat) : Bool :=
  if f.isInt then decide (f.toInt a ≤ f.toInt b)
  else
    let x := decodeVal f a
    let y := decodeVal f b
    y.isNan || (!x.isNan && !y.below x)

/-- VSORTKV. -/
def execVsortkv (d a b : Reg) (m : BitVec 2) (s : State) : Outcome State Fault Refusal :=
  let h := s.hart
  let reads := [h.opRun a.toNat, h.gRun b.toNat]
  complete (.vsortkv d a b m) s
    (if !h.fmt.isArith then .error .illegal
     else match s.vecReady reads [h.gRun d.toNat, (d.toNat + h.g, h.g)] m.toNat with
     | .error e => .error e
     | .ok _ => s.withPops reads fun t =>
       let g := t.hart
       match g.operand a.toNat, g.readRun (g.gRun b.toNat) with
       | .ok x, .ok v =>
         if v.fmt.bits ≠ g.fmt.bits then .error .opfmt
         else
           let act := g.act m.toNat
           let r := sortBy (fun p q => keyLe g.fmt p.1 q.1)
             (List.zip (pickActive act x.elems) (pickActive act (fitLen g.vl v.elems)))
           let g1 := g.writeVec d.toNat (plainVec g.fmt (fitLen g.vl (r.map Prod.fst)))
           .ok { t with hart := g1.writeVec (d.toNat + g.g) (plainVec v.fmt (fitLen g.vl (r.map Prod.snd))
             (if v.fmt.isMx then t.freeScales (ceilDiv g.vl 32) else [])) }
       | .error e, _ => .error e
       | .ok _, .error e => .error e)

/-- The hash of R381 on patterns of w bits. -/
def hashOf (w x y : Nat) : Nat :=
  let k := if w = 64 then 64 else 32
  let c := if w = 64 then 0x9E3779B97F4A7C15 else 0x9E3779B1
  let t := (x * c % 2 ^ k ^^^ y) * c % 2 ^ k
  t ^^^ t / 2 ^ (k / 2)

/-- VHASH. -/
def execVhash (d a b : Reg) (m : BitVec 2) (s : State) : Outcome State Fault Refusal :=
  complete (.vhash d a b m) s (s.vec2 Fmt.isInt false false (intFn fun f x y => hashOf f.bits x y) d a b m)

/-- VTOPK: values in descending order to v(d), their indices as N32 to v(d + G). -/
def execVtopk (d a b : Reg) (m : BitVec 2) (s : State) : Outcome State Fault Refusal :=
  let h := s.hart
  let reads := [h.opRun a.toNat]
  complete (.vtopk d a b m) s
    (if !h.fmt.isArith then .error .illegal
     else match s.vecReady reads [h.gRun d.toNat, (d.toNat + h.g, h.g)] m.toNat with
     | .error e => .error e
     | .ok _ => s.withPops reads fun t =>
       let g := t.hart
       match g.operand a.toNat with
       | .error e => .error e
       | .ok x =>
         let part := (List.zip x.elems (List.range g.vl)).filter fun p =>
           g.sel m.toNat p.2 && (g.fmt.isInt || !(decodeVal g.fmt p.1).isNan)
         let k := min (s.rx b).toNat (min part.length (g.vlgrant * g.g * 8 / 32))
         let r := (sortBy (fun p q => keyLe g.fmt q.1 p.1) part).take k
         let g1 := g.writeVec d.toNat (plainVec g.fmt (r.map Prod.fst))
         .ok { t with hart := { g1.writeVec (d.toNat + g.g) (plainVec .n32 (r.map Prod.snd)) with vl := k } })

end Sys2Proof.Machine
end

