-- ==== Sys2Proof/Machine/VecLoad.lean ====
section
/-! DEFINITION. Vector loads (R141, R170, R278, R368, R369, R383 to R387) and prefetch (R395). -/

namespace Sys2Proof.Machine

/-! ### Index groups and addresses (R369) -/

/-- The offsets of an index group read at its own integer tag over VL elements: signed for I formats. -/
def Hart.indices (h : Hart) (n : Nat) : Except Stop (List Int) :=
  match h.tagged n Fmt.isIndex with
  | .error e => .error e
  | .ok v => .ok ((fitLen h.vl v.elems).map v.fmt.toInt)

/-- An address plus an offset modulo 2^64. -/
def plusOff (base : Word) (off : Int) : Nat := (base + BitVec.ofInt 64 off).toNat

/-- Whether a translation is of a page with block scales. -/
def isBlk1 (x : Option Xlat) : Bool :=
  match x with
  | none => false
  | some y => decide (attrBlk y.attr = 1)

/-- The address of element i of a unit-stride access that begins on page `x`: that page's BLK and format decide whether the access
steps over scale areas (R170, R369; log). -/
def unitAddr (x : Option Xlat) (f : Fmt) (base : Word) (i : Nat) : Nat :=
  let t := i * f.bits / 8
  (match x with
   | none => base.toNat + t
   | some y => if attrBlk y.attr = 1 then blkAddr (y.effFmt f) base.toNat t else base.toNat + t) % 2 ^ 64

/-- The format of a page as an access sees it: an untyped or unmapped page counts as carrying `dflt` (R368). -/
def pageFmt (x : Option Xlat) (dflt : Fmt) : Fmt :=
  match x with
  | none => dflt
  | some y => y.effFmt dflt

/-- The tag of elements moved without their block scales (R368). -/
def bareTag (f : Fmt) : Fmt := if f = .mxf8 then .e4m3 else if f = .mxi8 then .i8 else f

/-! ### Reading elements -/

/-- The cause of a load's fault at element 0. -/
def MemFault.loadCause : MemFault → Cause
  | .poison => .poison
  | .align => .misalign
  | .unmapped => .loadfault
  | .perm => .loadfault
  | .link => .loadfault
  | .fmt => .loadfault
  | .scaleArea => .loadfault
  | .malformed => .loadfault
  | .tier => .loadfault
  | .encoded => .loadfault

/-- What a load asks for: its form, page format, tag, and the addresses of each element's fields. -/
structure LoadReq where
  unit : Bool := false
  ff : Bool := false
  links : Bool := false
  tier1 : Bool := false
  base : Word
  src : Fmt
  tag : Fmt
  vas : List (List Nat)

/-- Whether block scales may move with a load's elements (R368). -/
def LoadReq.mayScale (q : LoadReq) : Bool := q.unit && q.src.isMx

/-- Whether a page lies in tier 1, where NGATHER reaches (R192, R268). -/
def MemKind.isTier1 : MemKind → Bool
  | .tier1 => true
  | .kv => true
  | .tier2 _ => false
  | .polder => false
  | .weight => false

/-- Whether the translation is one that NGATHER refuses. -/
def offTier1 (x : Option Xlat) : Bool :=
  match x with
  | none => false
  | some y => !y.kind.isTier1

/-- One field of element i; for an MX access its block's scale must be readable too. -/
def State.loadField (s : State) (q : LoadReq) (i va : Nat) : Except MemFault Nat :=
  let x := s.sampled s.hart va
  if va % max 1 (q.src.bits / 8) ≠ 0 then .error .align
  else if q.tier1 && offTier1 x then .error .tier
  else if decide (q.src.bits = 4) && !q.unit then .error .fmt
  else match s.loadElem x q.src s.hart.fmt q.unit va with
    | .error f => .error f
    | .ok v => .ok (if q.src.bits = 4 then v / 16 ^ (i % 2) % 16 else v)

/-- Whether the element at an address has a block scale: its own page is of BLK 1, and the address lies in a block (R170, R368). -/
def State.hasScale (s : State) (q : LoadReq) (va : Nat) : Bool := isBlk1 (s.sampled s.hart va) && !inScaleArea q.src va

/-- The scale byte of the block that holds an address of an MX page with block scales. -/
def State.loadScale (s : State) (q : LoadReq) (va : Nat) : Except MemFault Nat :=
  match s.sampled s.hart va with
  | none => .error .unmapped
  | some x => s.readImage x (blkScale q.src va) 1

/-- The fields of one element, or its fault of the lowest cause with its address (R274). -/
def State.loadFields (s : State) (q : LoadReq) (i : Nat) : List Nat → Except (Nat × MemFault) (List Nat)
  | [] => .ok []
  | va :: vas =>
    match s.loadField q i va, s.loadFields q i vas with
    | .ok v, .ok vs => .ok (v :: vs)
    | .ok _, .error e => .error e
    | .error f, .ok _ => .error (va, f)
    | .error f, .error e => if e.2.loadCause.code < f.loadCause.code then .error e else .error (va, f)

/-- The fields of one element, followed by its block's scale where scales move and it has one. -/
def State.loadRow (s : State) (q : LoadReq) (scaled : Bool) (i : Nat) (vas : List Nat) : Except (Nat × MemFault) (List Nat) :=
  match s.loadFields q i vas with
  | .error e => .error e
  | .ok vs =>
    if scaled && s.hasScale q (vas.headD 0) then
      match s.loadScale q (vas.headD 0) with
      | .error f => .error (vas.headD 0, f)
      | .ok sc => .ok (vs ++ [sc])
    else .ok vs

/-- Elements from index i on, up to the first that faults: their fields (none for an inactive one), and the fault with
its index and address. -/
def State.loadRows (s : State) (q : LoadReq) (scaled : Bool) :
    List (Bool × List Nat) → Nat → List (Option (List Nat)) × Option (Nat × Nat × MemFault)
  | [], _ => ([], none)
  | (a, vas) :: rest, i =>
    if a then
      match s.loadRow q scaled i vas with
      | .error e => ([], some (i, e.1, e.2))
      | .ok vs =>
        let r := s.loadRows q scaled rest (i + 1)
        (some vs :: r.1, r.2)
    else
      let r := s.loadRows q scaled rest (i + 1)
      (none :: r.1, r.2)

/-! ### The result -/

/-- Inactive positions filled with the value before them, so that they add no boundary and no entry. -/
def fillIn : Nat → List (Option Nat) → List Nat
  | _, [] => []
  | _, some v :: r => v :: fillIn v r
  | p, none :: r => p :: fillIn p r

/-- The encoding of the segment portion at an address. -/
def State.portionEnc (s : State) (va : Nat) : Enc :=
  match s.sampled s.hart va with
  | none => .plain
  | some x =>
    if x.encoded then
      match s.segAt x.encFmt (x.addr va) with
      | .error _ => .plain
      | .ok g => g.enc
    else .plain

/-- The values of field f of the elements read. -/
def fieldOf (rows : List (Option (List Nat))) (f : Nat) : List (Option Nat) := rows.map fun r => r.map fun vs => vs.getD f 0

/-- The elements of a load's result: those read, and at inactive positions those kept, or zeros. -/
def keepOld : List (Option Nat) → List Nat → List Nat
  | some v :: r, _ :: os => v :: keepOld r os
  | none :: r, o :: os => o :: keepOld r os
  | some v :: r, [] => v :: keepOld r []
  | none :: r, [] => 0 :: keepOld r []
  | [], _ => []

/-- The scales of an MX result: a block with an element read has the scale of memory, another keeps its old one; where
nothing is kept, or no scale has moved, the byte is free. -/
def State.loadScales (s : State) (rows : List (Option (List Nat))) (old : Option Vec) : List Nat :=
  let free := s.freeScales (ceilDiv rows.length 32)
  (List.range (ceilDiv rows.length 32)).map fun b =>
    let blk := (rows.drop (32 * b)).take 32
    match blk.findSome? (fun r => r.bind fun vs => vs[1]?), old with
    | some sc, _ => sc
    | none, some v => if blk.any Option.isSome then free.getD b 0 else v.scales.getD b 0
    | none, none => free.getD b 0

/-- The PLAIN vector of one field. -/
def State.loadPlain (s : State) (q : LoadReq) (rows : List (Option (List Nat))) (old : Option Vec) (olds : List Nat)
    (f : Nat) : Vec :=
  plainVec q.tag (keepOld (fieldOf rows f) olds) (if q.tag.isMx then s.loadScales rows old else [])

/-- The vector of a unit-stride load: by R141 from encoded portions, with the old destination or a zero splat folded in, R127 last. Of a
truncated DICT result, the width is the smallest for the elements below the truncation (log). -/
def State.loadUnit (s : State) (q : LoadReq) (m : BitVec 2) (rows : List (Option (List Nat))) (old : Option Vec)
    (olds : List Nat) : Vec :=
  let h := s.hart
  let n := rows.length
  let pl := s.loadPlain q rows old olds 0
  let vals := fieldOf rows 0
  let encs := (List.zip vals q.vas).filterMap fun p => p.1.map fun _ => s.portionEnc (p.2.headD 0)
  let els := fillIn ((vals.findSome? id).getD 0) vals
  if m = 0 then
    let lv := joinSegs h.ep q.tag encs els
    if lv.enc = .plain then pl else lv
  else match joinOpd h.ep q.tag encs els with
    | none => pl
    | some a =>
      let o := match old with
        | none => Opd.ofScalar q.tag n 0
        | some v => ⟨fitLen n olds, shapeIn v.enc v.fmt n v.elems.length v.cnt v.wid v.arr, v.enc⟩
      resultVec h.ep q.tag [a, o] (some ((h.act m.toNat).take n)) pl.elems

/-- The old destination at the tag of a masked load under MP = 0 (R383). -/
def Hart.loadOld (h : Hart) (d : Nat) (m : BitVec 2) (tag : Fmt) : Except Stop (Option (Vec × List Nat)) :=
  if !h.keeps m then .ok none
  else match h.readRun (h.oldRun d) with
    | .error e => .error e
    | .ok v =>
      if v.fmt = tag then .ok (some (v, fitLen h.vl v.elems))
      else if v.fmt.widens tag then .ok (some (v, (fitLen h.vl v.elems).map (widenPat v.fmt tag)))
      else .error .opfmt

/-- The addresses of the element at which a load ends, up to the one that faults. -/
def LoadReq.lastVas (q : LoadReq) : Option (Nat × Nat × MemFault) → List Nat
  | none => []
  | some (j, va, _) => (q.vas.getD j []).takeWhile (fun a => decide (a ≠ va)) ++ [va]

/-- The hart after the elements of a load have been read; `last` are the addresses of the one that ended it. NV is set for each NaN
scale that the result carries (R155, log). -/
def State.loadDone (s : State) (q : LoadReq) (d : Nat) (m : BitVec 2) (nf : Nat) (rows : List (Option (List Nat)))
    (old : Option (Vec × List Nat)) (last : List Nat) : Hart :=
  let h := s.hart
  let ov := old.map Prod.fst
  let os := (old.map Prod.snd).getD []
  let read := ((List.zip rows q.vas).filter fun p => p.1.isSome).flatMap Prod.snd
  let w := if q.unit then h.writeVec d (s.loadUnit q m rows ov os)
    else (List.range nf).foldl (fun g f => g.writeVec (d + f * h.g) (s.loadPlain q rows ov os f)) h
  let nan := q.tag.isMx && (s.loadScales rows ov).contains 0xFF
  let w := if nan then w.raise { nv := true } else w
  let w := s.takeSamples w ((if q.unit ∧ h.vl ≠ 0 then q.base.toNat :: read else read) ++ last)
  let lines := distinct (read.filterMap fun va => (s.sampled h va).map fun x => x.addr va / 64) []
  { w with vl := rows.length, links := if q.links then lines.take 256 else w.links }

/-- A load once its addresses are known. -/
def State.loadGo (s : State) (q : LoadReq) (d : Nat) (m : BitVec 2) (nf : Nat) : Except Stop State :=
  let h := s.hart
  let pg := s.sampled h q.base.toNat
  if h.fmt.bits < q.tag.bits then .error .opfmt
  else match h.loadOld d m q.tag with
  | .error e => .error e
  | .ok old =>
    let rows := List.zip (h.act m.toNat) q.vas
    if q.unit && isBlk1 pg && !blkStart q.src q.base.toNat then .error (.trap .misalign (some q.base) 0)
    else if rows.any fun r => r.1 && r.2.any fun va => s.ritHit h va (va + max 1 (q.src.bits / 8)) ||
        (q.mayScale && s.hasScale q va && s.ritHit h (blkScale q.src va) (blkScale q.src va + 1)) then .error (.wait s)
    else
      let r := s.loadRows q q.mayScale rows 0
      match r.2 with
      | some (0, va, f) =>
        if q.ff then .ok { s with hart := s.loadDone q d m nf [] old (q.lastVas r.2) }
        else .error (.trap f.loadCause (some (BitVec.ofNat 64 va)) 0)
      | _ => .ok { s with hart := s.loadDone q d m nf r.1 old (q.lastVas r.2) }

/-- A vector load: `mk` gives its request from the state after the pops. -/
def State.loadVec (s : State) (reads : List VRun) (d nf : Nat) (m : BitVec 2) (mk : State → Except Stop LoadReq) :
    Except Stop State :=
  let h := s.hart
  let all := reads ++ (if h.keeps m then [h.oldRun d] else [])
  match s.vecReady all ((List.range nf).map fun f => (d + f * h.g, h.g)) m.toNat with
  | .error e => .error e
  | .ok _ => s.withPops all fun t =>
    match mk t with
    | .error e => .error e
    | .ok q => t.loadGo q d m nf

/-- The index of the first active element. -/
def firstActive (act : List Bool) : Option Nat := if act.any (fun b => b) then some (act.idxOf true) else none

/-- The request of a unit-stride load. -/
def State.unitReq (s : State) (a : Reg) (ff : Bool) : Except Stop LoadReq :=
  let base := s.rx a
  let pg := s.sampled s.hart base.toNat
  let f := pageFmt pg s.hart.fmt
  .ok { unit := true, ff := ff, base := base, src := f, tag := f,
        vas := (List.range s.hart.vl).map fun i => [unitAddr pg f base i] }

/-- The request of a load whose addresses do not depend on its tag: that of the page of the first active element (R368). -/
def State.farReq (s : State) (a : Reg) (m : BitVec 2) (offs : List Int) : LoadReq :=
  let base := s.rx a
  let vas := offs.map (plusOff base)
  let f := match firstActive (s.hart.act m.toNat) with
    | none => s.hart.fmt
    | some i => pageFmt (s.sampled s.hart (vas.getD i 0)) s.hart.fmt
  { base := base, src := f, tag := bareTag f, vas := vas.map fun va => [va] }

/-- The offsets of a strided access. -/
def strideOffs (vl : Nat) (r : Word) : List Int := (List.range vl).map fun i => (i : Int) * r.toInt

/-- A unit-stride load. -/
def State.loadU (i : Instr) (s : State) (d a : Reg) (m : BitVec 2) (ff : Bool) : Outcome State Fault Refusal :=
  complete i s (s.loadVec [] d.toNat 1 m fun t => t.unitReq a ff)

/-- A strided load. -/
def State.loadS (i : Instr) (s : State) (d a b : Reg) (m : BitVec 2) (ff : Bool) : Outcome State Fault Refusal :=
  complete i s (s.loadVec [] d.toNat 1 m fun t => .ok { t.farReq a m (strideOffs t.hart.vl (s.rx b)) with ff := ff })

/-- An indexed load. -/
def State.loadX (i : Instr) (s : State) (d a b : Reg) (m : BitVec 2) (f : LoadReq → LoadReq) : Outcome State Fault Refusal :=
  complete i s (s.loadVec [s.hart.tagRun b.toNat] d.toNat 1 m fun t =>
    match t.hart.indices b.toNat with
    | .error e => .error e
    | .ok ix => .ok (f (t.farReq a m ix)))

/-- VLD. -/
def execVld (d a : Reg) (m : BitVec 2) (s : State) : Outcome State Fault Refusal := s.loadU (.vld d a m) d a m false
/-- VLDFF (R384). -/
def execVldff (d a : Reg) (m : BitVec 2) (s : State) : Outcome State Fault Refusal := s.loadU (.vldff d a m) d a m true
/-- VLDS. -/
def execVlds (d a b : Reg) (m : BitVec 2) (s : State) : Outcome State Fault Refusal := s.loadS (.vlds d a b m) d a b m false
/-- VLDSFF. -/
def execVldsff (d a b : Reg) (m : BitVec 2) (s : State) : Outcome State Fault Refusal := s.loadS (.vldsff d a b m) d a b m true
/-- VLDX. -/
def execVldx (d a b : Reg) (m : BitVec 2) (s : State) : Outcome State Fault Refusal := s.loadX (.vldx d a b m) d a b m fun q => q
/-- VLDXFF. -/
def execVldxff (d a b : Reg) (m : BitVec 2) (s : State) : Outcome State Fault Refusal :=
  s.loadX (.vldxff d a b m) d a b m fun q => { q with ff := true }
/-- VGL (R385): the hart's links become those of the lines it reads. -/
def execVgl (d a b : Reg) (m : BitVec 2) (s : State) : Outcome State Fault Refusal :=
  s.loadX (.vgl d a b m) d a b m fun q => { q with links := true }
/-- NGATHER (R386): tier 1 alone, under NGATH. -/
def execNgather (d a b : Reg) (m : BitVec 2) (s : State) : Outcome State Fault Refusal :=
  if s.hart.feat 4 then s.loadX (.ngather d a b m) d a b m fun q => { q with tier1 := true }
  else complete (.ngather d a b m) s (.error .illegal)

/-- The request of VLDSEG (R387): `nf` fields, records end to end when b is 0. -/
def State.segReq (s : State) (a b : Reg) (nf : Nat) : LoadReq :=
  let base := s.rx a
  let f := if b = 0 ∨ s.hart.vl ≠ 0 then pageFmt (s.sampled s.hart base.toNat) s.hart.fmt else s.hart.fmt
  let w := bareTag f |>.bits
  let step : Int := if b = 0 then ((nf * w / 8 : Nat) : Int) else (s.rx b).toInt
  { base := base, src := f, tag := bareTag f,
    vas := (List.range s.hart.vl).map fun i => (List.range nf).map fun k => plusOff base ((i : Int) * step + ((k * w / 8 : Nat) : Int)) }

/-- VLDSEG: NF = nf − 2. -/
def execVldseg (d a b : Reg) (nf : BitVec 4) (s : State) : Outcome State Fault Refusal :=
  complete (.vldseg d a b nf) s (s.loadVec [] d.toNat (nf.toNat + 2) 0 fun t => .ok (t.segReq a b (nf.toNat + 2)))

/-- Whether a page's translation would serve a load. -/
def State.loadable (s : State) (va : Nat) : Bool :=
  match s.forLoad (s.xlat s.hart va) with
  | .error _ => false
  | .ok _ => true

/-- VPREF: samples the pages of the active elements that would not fault; an index tag that is no integer, and untyped bytes, do nothing. -/
def execVpref (a b : Reg) (m : BitVec 2) (s : State) : Outcome State Fault Refusal :=
  let run := s.hart.tagRun b.toNat
  let e := (s.hart.vreg (s.hart.wb.toNat + b.toNat)).desc
  let idle := (e.untyped || !e.fmt.isIndex) && !s.hart.bound run
  complete (.vpref a b m) s
    (match s.vecReady (if idle then [] else [run]) [] m.toNat with
     | .error e => .error e
     | .ok _ =>
       if idle then .ok s
       else s.withPops [run] fun t =>
         match t.hart.readRun run with
         | .error e => .error e
         | .ok v =>
           if v.fmt.isIndex then
             let vas := (fitLen t.hart.vl v.elems).map fun e => plusOff (t.rx a) (v.fmt.toInt e)
             .ok { t with hart := t.takeSamples t.hart ((pickActive (t.hart.act m.toNat) vas).filter t.loadable) }
           else .ok t)

end Sys2Proof.Machine
end

