-- ==== Sys2Proof/Machine/VecStore.lean ====
section
/-! DEFINITION. Vector stores (R144, R145, R279, R368, R369, R388), conditional stores (R216, R389), vector atomics (R392,
R393), and the event in which a waiting store performs. -/

namespace Sys2Proof.Machine

/-- One element of a store: its index, address and pattern. -/
structure SElem where
  idx : Nat
  va : Nat
  val : Nat
deriving DecidableEq, Repr

/-- Bytes that an element of a format moves. -/
def Fmt.bytes (f : Fmt) : Nat := max 1 (f.bits / 8)

/-- The active elements of a store. -/
def activeElems : List Bool → Nat → List Nat → List Nat → List SElem
  | a :: as, i, va :: vas, v :: vs => if a then ⟨i, va, v⟩ :: activeElems as (i + 1) vas vs else activeElems as (i + 1) vas vs
  | _, _, _, _ => []

/-! ### Faults of single elements -/

/-- Why one element of a store or atomic faults: the page, or its alignment (R279, R312, R369). -/
def State.storeFault (s : State) (nb va : Nat) : Option MemFault :=
  match s.forStore (s.xlat s.hart va) with
  | .error f => some f
  | .ok _ => if va % nb = 0 then none else some .align

/-- The page of an address, as log2 of its size and its number (R281). -/
def State.pageKey (s : State) (va : Nat) : Nat × Nat :=
  let a := s.app s.hart.app
  let l := if a.kvwin ≠ 0 ∧ a.kvwin ≤ va ∧ va < a.kvwin + kvBytes then 16
    else match findMap a.maps va with
      | none => 12
      | some m => m.pageLog
  (l, va / 2 ^ l)

/-- One record a page, of its first element in the list: index, address, cause code (R279, R281). -/
def State.faultRecs (s : State) (kind : Nat) : List (Nat × Nat × Nat) → List (Nat × Nat) → List SfrqRec
  | [], _ => []
  | (i, va, c) :: es, seen =>
    if seen.contains (s.pageKey va) then s.faultRecs kind es seen
    else { pc := s.hart.pc, addr := BitVec.ofNat 64 va, elem := BitVec.ofNat 16 i, cause := BitVec.ofNat 8 c,
           kind := BitVec.ofNat 3 kind, strip := s.hart.strip, lost := 0 } :: s.faultRecs kind es (s.pageKey va :: seen)

/-- The state with the records of a store's faulting elements. -/
def State.addFaults (s : State) (kind : Nat) (es : List (Nat × Nat × Nat)) : State :=
  { s with hart := (s.faultRecs kind es []).foldl Hart.addRec s.hart }

/-! ### Checks before anything is written -/

/-- Whether a page refuses the tag of a store: typed with another format, or no scale page for an MX tag (R169, R368). -/
def Xlat.refuses (x : Xlat) (t : Fmt) : Bool :=
  (match x.fmt with
   | none => false
   | some f => decide (f ≠ t)) || (t.isMx && decide (attrBlk x.attr ≠ 1))

/-- The first element on a page that satisfies a test. -/
def State.firstOn (s : State) (p : Xlat → Bool) (es : List SElem) : Option SElem :=
  es.find? fun e =>
    match s.xlat s.hart e.va with
    | none => false
    | some x => p x

/-- The precise traps of the pages of a store (R144, R169): OPFMT, then ENCSTORE where `whole` does not admit it. -/
def State.pageTrap (s : State) (t : Fmt) (whole : Bool) (es : List SElem) : Option Stop :=
  match s.firstOn (fun x => x.refuses t) es, s.firstOn Xlat.encoded es with
  | some e, _ => some (.trap .opfmt (some (BitVec.ofNat 64 e.va)) e.idx)
  | none, some e => if whole then none else some (.trap .encstore (some (BitVec.ofNat 64 e.va)) e.idx)
  | none, none => none

/-- Whether a migration holds back a write of the hart at an address that is otherwise admitted (R187). -/
def State.heldBack (s : State) (va : Nat) : Bool :=
  match s.forStore (s.xlat s.hart va) with
  | .error _ => false
  | .ok x => x.closed

/-- A store parks on pages under migration with their samples dropped (R188). -/
def State.park (s : State) (vas : List Nat) : State :=
  { s with hart := { vas.foldl Hart.dropSamples s.hart with parked := true } }

/-- A store waits for ranges of the hart's transfers, those of the scale bytes it writes among them (R121), and parks on a
page under migration (R188). -/
def State.storeWait (s : State) (t : Fmt) (vas : List Nat) : Option Stop :=
  if (vas.any fun va => s.ritHit s.hart va (va + t.bytes)) ||
      (t.isMx && vas.any fun va => s.ritHit s.hart (blkScale t va) (blkScale t va + 1)) then some (.wait s)
  else if (vas.filter s.heldBack).isEmpty then none
  else some (.wait (s.park (vas.filter s.heldBack)))

/-! ### What a store writes -/

/-- The physical address of a mapped virtual one. -/
def State.physOf (s : State) (va : Nat) : Nat := ((s.xlat s.hart va).map fun x => x.addr va).getD 0

/-- The cells written, newest first, with one 4-bit element added: the other half of its byte is kept. -/
def State.putNibble (s : State) (cells : List (Nat × Nat)) (pa : Nat) (odd : Bool) (v : Nat) : List (Nat × Nat) :=
  let old := match cells.find? fun c => decide (c.1 = pa) with
    | some c => c.2
    | none => (mget unlistedByte s.mem pa).toNat
  (pa, if odd then old % 16 + v % 16 * 16 else old / 16 * 16 + v % 16) :: cells

/-- The cells of the elements of a plain store in ascending order (R208). -/
def State.elemCells (s : State) (t : Fmt) (es : List SElem) : List (Nat × Nat) :=
  if t.bits = 4 then (es.foldl (fun c e => s.putNibble c (s.physOf e.va) (decide (e.idx % 2 = 1)) e.val) []).reverse
  else es.flatMap fun e => cellsLE (s.physOf e.va) t.bytes e.val

/-- The scale bytes of the blocks that have an element written (R170, R388); that of a block at or past the register's LEN is 0x00
(log). -/
def State.scaleCells (s : State) (t : Fmt) (scales : List Nat) : List SElem → Option Nat → List (Nat × Nat)
  | [], _ => []
  | e :: es, last =>
    if last = some (e.idx / 32) then s.scaleCells t scales es last
    else (s.physOf (blkScale t e.va), scales.getD (e.idx / 32) 0) :: s.scaleCells t scales es (some (e.idx / 32))

/-- Whether an element lies on an encoded page. -/
def State.onEncoded (s : State) (e : SElem) : Bool :=
  match s.xlat s.hart e.va with
  | none => false
  | some x => x.encoded

/-- Writes whole segments: the elements come 256 to a slot, `n` slots; the header's granule keeps its poison (R145). -/
def State.putSegs (s : State) (t : Fmt) : Nat → List SElem → State
  | 0, _ => s
  | n + 1, es =>
    match es with
    | [] => s
    | e :: _ =>
      let slot := s.physOf e.va
      let v := segBest t ((es.take 256).map SElem.val)
      let s1 := s.writePhys true (cellsLE slot (slotBytes t) v.arr)
      ({ s1 with segHdr := mset none s1.segHdr slot (some (BitVec.ofNat 64 (segHdrOf v))) } : State).putSegs t n (es.drop 256)

/-- The hart without samples that are older than the mapping a write of the strip has just used (R182, R207). -/
def State.dropOld (s : State) (vas : List Nat) : State := { s with hart := vas.foldl s.dropStale s.hart }

/-- Writes the elements of a store that do not fault; plain ones with their scales, encoded ones segment by segment. -/
def State.putElems (s : State) (t : Fmt) (scales : List Nat) (es : List SElem) : State :=
  let enc := es.filter s.onEncoded
  let plain := es.filter fun e => !s.onEncoded e
  let s1 := s.writePhys true (s.elemCells t plain ++ (if t.isMx then s.scaleCells t scales plain none else []))
  (s1.putSegs t (ceilDiv enc.length 256) enc).dropOld (es.map SElem.va)

/-! ### Stores -/

/-- What a store asks for once its operands are read: whether it is a VST, its base, and the elements' addresses. -/
structure StoreReq where
  unit : Bool
  base : Word
  vas : List Nat

/-- The tag check of a store (R368): OPFMT. -/
def Hart.storeTagOk (h : Hart) (t : Fmt) (unit blk1 : Bool) : Bool :=
  decide (t.bits ≤ h.fmt.bits) && (!t.isMx || (unit && blk1)) && (decide (t.bits ≠ 4) || unit)

/-- Whether a VST writes whole segments (R144). -/
def Hart.wholeSegs (h : Hart) (q : StoreReq) (t : Fmt) (m : BitVec 2) : Bool :=
  q.unit && decide (h.vl % 256 = 0) && (h.act m.toNat).all (fun b => b) && decide (q.base.toNat % slotBytes t = 0)

/-- The precise part of a store: its traps and waits, and the active elements it then writes. -/
def State.storeCheck (s : State) (q : StoreReq) (v : Vec) (m : BitVec 2) : Except Stop (List SElem) :=
  let h := s.hart
  let t := v.fmt
  let blk1 := isBlk1 (s.xlat h q.base.toNat)
  let es := activeElems (h.act m.toNat) 0 q.vas (fitLen h.vl v.elems)
  if !h.storeTagOk t q.unit blk1 then .error .opfmt
  else
    let mis : Option Stop := if q.unit && blk1 && !blkStart t q.base.toNat then some (.trap .misalign (some q.base) 0) else none
    match s.pageTrap t (h.wholeSegs q t m) es, mis with
    | some e, none => .error e
    | none, some e => .error e
    | some e, some f => if e.code < f.code then .error e else .error f
    | none, none =>
      match s.storeWait t (es.map SElem.va) with
      | some w => .error w
      | none => .ok es

/-- A store: the elements that do not fault are written, the others recorded (R279). -/
def State.storeGo (s : State) (q : StoreReq) (v : Vec) (m : BitVec 2) : Except Stop State :=
  match s.storeCheck q v m with
  | .error e => .error e
  | .ok es =>
    let bad := es.filter fun e => (s.storeFault v.fmt.bytes e.va).isSome
    let good := es.filter fun e => (s.storeFault v.fmt.bytes e.va).isNone
    .ok ((s.putElems v.fmt v.scales good).addFaults 0 (bad.map fun e => (e.idx, e.va, Cause.storefault.code)))

/-- Reads the operands of a store, its streams popped: the request and the data at its own tag. -/
def State.storeWith (s : State) (more : List VRun) (d : Reg) (m : BitVec 2) (mk : State → Except Stop StoreReq)
    (k : State → StoreReq → Vec → Except Stop State) : Except Stop State :=
  let reads := s.hart.ownRun d.toNat :: more
  match s.vecReady reads [] m.toNat with
  | .error e => .error e
  | .ok _ => s.withPops reads fun t =>
    match t.hart.readRun (t.hart.ownRun d.toNat), mk t with
    | .ok v, .ok q => k t q v
    | .error e, _ => .error e
    | .ok _, .error e => .error e

/-- The request of a VST. -/
def State.vstReq (s : State) (a : Reg) : StoreReq :=
  let base := s.rx a
  ⟨true, base, []⟩

/-- VST. -/
def State.vstAt (s : State) (d a : Reg) (m : BitVec 2) : Outcome State Fault Refusal :=
  complete (.vst d a m) s (s.storeWith [] d m (fun t => .ok (t.vstReq a)) fun t q v =>
    t.storeGo { q with vas := (List.range t.hart.vl).map (unitAddr (t.xlat t.hart q.base.toNat) v.fmt q.base) } v m)

/-- VSTS. -/
def State.vstsAt (s : State) (d a b : Reg) (m : BitVec 2) : Outcome State Fault Refusal :=
  complete (.vsts d a b m) s (s.storeWith [] d m
    (fun t => .ok ⟨false, t.rx a, (strideOffs t.hart.vl (t.rx b)).map (plusOff (t.rx a))⟩) fun t q v => t.storeGo q v m)

/-- The request of an indexed store. -/
def State.indexReq (s : State) (a b : Reg) : Except Stop StoreReq :=
  match s.hart.indices b.toNat with
  | .error e => .error e
  | .ok ix => .ok ⟨false, s.rx a, ix.map (plusOff (s.rx a))⟩

/-- VSTX. -/
def State.vstxAt (s : State) (d a b : Reg) (m : BitVec 2) : Outcome State Fault Refusal :=
  complete (.vstx d a b m) s (s.storeWith [s.hart.tagRun b.toNat] d m (fun t => t.indexReq a b) fun t q v => t.storeGo q v m)

/-- VST (R388). -/
def execVst (d a : Reg) (m : BitVec 2) (s : State) : Outcome State Fault Refusal := s.vstAt d a m
/-- VSTS (R388). -/
def execVsts (d a b : Reg) (m : BitVec 2) (s : State) : Outcome State Fault Refusal := s.vstsAt d a b m
/-- VSTX (R388). -/
def execVstx (d a b : Reg) (m : BitVec 2) (s : State) : Outcome State Fault Refusal := s.vstxAt d a b m

/-! ### VSC (R216, R389) -/

/-- Whether element e succeeds: its line is linked, and no earlier active element names its address. -/
def State.scWins (s : State) (es : List SElem) (e : SElem) : Bool :=
  (s.storeFault 1 e.va).isNone && s.hart.links.contains (s.physOf e.va / 64) &&
    !(es.any fun f => decide (f.idx < e.idx) && decide (f.va = e.va))

/-- VSC: the elements that succeed are written, and p0 says which. -/
def State.scGo (s : State) (q : StoreReq) (v : Vec) (m : BitVec 2) : Except Stop State :=
  match s.storeCheck q v m with
  | .error e => .error e
  | .ok es =>
    let nb := v.fmt.bytes
    let bad := es.filter fun e => (s.storeFault nb e.va).isSome
    let good := es.filter fun e => (s.storeFault nb e.va).isNone && s.scWins es e
    let s1 := (s.putElems v.fmt v.scales good).addFaults 0 (bad.map fun e => (e.idx, e.va, Cause.storefault.code))
    .ok { s1 with hart := s1.hart.setPred 0 ((good.map fun e => 2 ^ e.idx).sum) }

/-- VSC. -/
def State.vscAt (s : State) (d a b : Reg) (m : BitVec 2) : Outcome State Fault Refusal :=
  complete (.vsc d a b m) s (s.storeWith [s.hart.tagRun b.toNat] d m (fun t => t.indexReq a b) fun t q v => t.scGo q v m)

/-- VSC. -/
def execVsc (d a b : Reg) (m : BitVec 2) (s : State) : Outcome State Fault Refusal := s.vscAt d a b m

/-! ### Vector atomics (R392, R393) -/

/-- One atomic element: the new pattern of the old one and the operands, none for no write. -/
abbrev AtomFn := Fmt → Nat → Nat → Nat → Option Nat

/-- What an atomic has done so far: the state, the old values by element, the faults. -/
structure AtomAcc where
  st : State
  olds : List (Nat × Nat) := []
  bad : List (Nat × Nat × Nat) := []

/-- Applies one element of an atomic, in ascending order (R208). Its page must be readable and writable. -/
def AtomAcc.apply (fn : AtomFn) (t : Fmt) (more : List Nat) (r : AtomAcc) (e : SElem) : AtomAcc :=
  let s := r.st
  let nb := t.bytes
  let fault := match s.storeFault nb e.va, s.forLoad (s.xlat s.hart e.va) with
    | some _, _ => some Cause.storefault.code
    | none, .error _ => some Cause.storefault.code
    | none, .ok x => if s.poisoned (x.addr e.va) then some Cause.poison.code else none
  match fault with
  | some c => { r with bad := r.bad ++ [(e.idx, e.va, c)] }
  | none =>
    let pa := s.physOf e.va
    let old := readLE s.mem pa nb
    let st := match fn t old e.val (more.getD e.idx 0) with
      | none => s
      | some v => s.writePhys true (cellsLE pa nb v)
    let st := st.dropOld [e.va]
    { r with st := st, olds := r.olds ++ [(e.idx, old)] }

/-- The elements of the result: old values, zeros where a fault stands, the inactive ones by MP. -/
def atomElems (olds : List (Nat × Nat)) (mz : Bool) : List Bool → Nat → List Nat → List Nat
  | a :: as, i, o :: os => (if a then mget 0 olds i else if mz then 0 else o) :: atomElems olds mz as (i + 1) os
  | _, _, _ => []

/-- A vector atomic on x(a) + idx; `pair` reads the new values of VAMOCAS from v(d + G), a group read at its own tag (R105). -/
def State.atomic (i : Instr) (s : State) (tags : Fmt → Bool) (pair : Bool) (fn : AtomFn) (d a b : Reg) (m : BitVec 2) :
    Outcome State Fault Refusal :=
  let h := s.hart
  let second : List VRun := if pair then [h.ownRun (d.toNat + h.g)] else []
  complete i s
    (match s.vecReady [] [h.gRun d.toNat] m.toNat with
     | .error e => .error e
     | .ok _ => s.storeWith (second ++ [h.tagRun b.toNat]) d m (fun t => t.indexReq a b) fun t q v =>
       let g := t.hart
       match (if pair then g.readRun (g.ownRun (d.toNat + g.g)) else .ok v) with
       | .error e => .error e
       | .ok w =>
         if !tags v.fmt || decide (w.fmt ≠ v.fmt) then .error .opfmt
         else match t.storeCheck q v m with
         | .error e => .error e
         | .ok es =>
           let r := es.foldl (AtomAcc.apply fn v.fmt (fitLen g.vl w.elems)) { st := t }
           let s1 := r.st.addFaults 1 r.bad
           let els := atomElems r.olds g.mz (g.act m.toNat) 0 (fitLen g.vl v.elems)
           .ok { s1 with hart := s1.hart.writeVec d.toNat (plainVec v.fmt els) })

/-- I32, I64, N32 and N64. -/
def Fmt.isWord (f : Fmt) : Bool := f.isInt && decide (32 ≤ f.bits)

/-- Any 32-bit or 64-bit tag. -/
def Fmt.isWide (f : Fmt) : Bool := decide (f.bits = 32) || decide (f.bits = 64)

/-- F32 and F64. -/
def Fmt.isWideFlt (f : Fmt) : Bool := decide (f = .f32) || decide (f = .f64)

/-- VAMOADD. -/
def State.vamoaddAt (s : State) (d a b : Reg) (m : BitVec 2) : Outcome State Fault Refusal :=
  s.atomic (.vamoadd d a b m) Fmt.isWord false (fun t o x _ => some ((o + x) % 2 ^ t.bits)) d a b m
/-- VAMOMIN. -/
def State.vamominAt (s : State) (d a b : Reg) (m : BitVec 2) : Outcome State Fault Refusal :=
  s.atomic (.vamomin d a b m) Fmt.isWord false (fun t o x _ => some (if t.toInt x < t.toInt o then x else o)) d a b m
/-- VAMOMAX. -/
def State.vamomaxAt (s : State) (d a b : Reg) (m : BitVec 2) : Outcome State Fault Refusal :=
  s.atomic (.vamomax d a b m) Fmt.isWord false (fun t o x _ => some (if t.toInt o < t.toInt x then x else o)) d a b m
/-- VAMOSWAP. -/
def State.vamoswapAt (s : State) (d a b : Reg) (m : BitVec 2) : Outcome State Fault Refusal :=
  s.atomic (.vamoswap d a b m) Fmt.isWide false (fun _ _ x _ => some x) d a b m
/-- VAMOAND. -/
def State.vamoandAt (s : State) (d a b : Reg) (m : BitVec 2) : Outcome State Fault Refusal :=
  s.atomic (.vamoand d a b m) Fmt.isWord false (fun _ o x _ => some (o &&& x)) d a b m
/-- VAMOOR. -/
def State.vamoorAt (s : State) (d a b : Reg) (m : BitVec 2) : Outcome State Fault Refusal :=
  s.atomic (.vamoor d a b m) Fmt.isWord false (fun _ o x _ => some (o ||| x)) d a b m
/-- VAMOFMAX. -/
def State.vamofmaxAt (s : State) (d a b : Reg) (m : BitVec 2) : Outcome State Fault Refusal :=
  s.atomic (.vamofmax d a b m) Fmt.isWideFlt false (fun t o x _ => some (extremeAt t true o x)) d a b m
/-- VAMOCAS: v(d) holds the expected values, v(d + G) the new ones. -/
def State.vamocasAt (s : State) (d a b : Reg) (m : BitVec 2) : Outcome State Fault Refusal :=
  s.atomic (.vamocas d a b m) Fmt.isWide true (fun _ o x n => if o = x then some n else none) d a b m

/-- VAMOADD (R392). -/
def execVamoadd (d a b : Reg) (m : BitVec 2) (s : State) : Outcome State Fault Refusal := s.vamoaddAt d a b m
/-- VAMOMIN (R392). -/
def execVamomin (d a b : Reg) (m : BitVec 2) (s : State) : Outcome State Fault Refusal := s.vamominAt d a b m
/-- VAMOMAX (R392). -/
def execVamomax (d a b : Reg) (m : BitVec 2) (s : State) : Outcome State Fault Refusal := s.vamomaxAt d a b m
/-- VAMOSWAP (R392). -/
def execVamoswap (d a b : Reg) (m : BitVec 2) (s : State) : Outcome State Fault Refusal := s.vamoswapAt d a b m
/-- VAMOAND (R392). -/
def execVamoand (d a b : Reg) (m : BitVec 2) (s : State) : Outcome State Fault Refusal := s.vamoandAt d a b m
/-- VAMOOR (R392). -/
def execVamoor (d a b : Reg) (m : BitVec 2) (s : State) : Outcome State Fault Refusal := s.vamoorAt d a b m
/-- VAMOFMAX (R392). -/
def execVamofmax (d a b : Reg) (m : BitVec 2) (s : State) : Outcome State Fault Refusal := s.vamofmaxAt d a b m
/-- VAMOCAS (R393). -/
def execVamocas (d a b : Reg) (m : BitVec 2) (s : State) : Outcome State Fault Refusal := s.vamocasAt d a b m

end Sys2Proof.Machine
end

