-- ==== Sys2Proof/Machine/Engine.lean ====
section
/-! DEFINITION. Block transfers and completion queues (R252 to R262, R405 to R410): what a transfer takes at issue, and what
it does when it retires. -/

namespace Sys2Proof.Machine

/-! ### The control word (R253) -/

/-- Whether a format field holds a format or 0x3F. -/
def ctlFmtOk (c : Word) (at_ : Nat) : Bool := (ctlFmt c at_).isSome || decide (bitsAt c.toNat at_ 6 = 0x3F)

/-- The ILLEGAL cases of a control word and a length for a form (R253, R405): 3 XFERV, 4 XFERVS, 6 XFERQ. -/
def ctlBad (h : Hart) (op : Nat) (c : Word) (n : Nat) : Bool :=
  let sf := ctlElem c 0
  let df := ctlElem c 6
  let f := ctlFields c
  decide (bitsAt c.toNat 27 5 ≠ 0) || decide (bitsAt c.toNat 48 16 ≠ 0) || !ctlFmtOk c 0 || !ctlFmtOk c 6 ||
  decide ((ctlFmt c 0).isSome ≠ (ctlFmt c 6).isSome) || !h.fmtOk sf || !h.fmtOk df ||
  (decide (1 < f) && ((decide (op ≠ 3) && decide (op ≠ 4)) || decide (ctlGroup c ≠ 1) || decide (sf.bits = 4) || decide (df.bits = 4))) ||
  decide (n * 8 % (f * sf.bits) ≠ 0) ||
  (decide (op = 6) && ((ctlFmt c 0).isNone || df.isMx || !df.isQuant))

/-- The registers a form names: F registers, or one group of 2^GRP. -/
def ctlRuns (c : Word) (d : Nat) : List VRun :=
  if ctlFields c = 1 then [(d, ctlGroup c)] else (List.range (ctlFields c)).map fun f => (d + f, 1)

/-! ### Issue -/

/-- Entries of the range table that a hart's transfers hold. -/
def State.ritUsed (s : State) (h : Hart) : Nat := ((s.transfers.filter fun t => decide (t.hart = h.id)).map fun t => t.rit.length).sum

/-- The range of `n` bytes from `lo`, in lines: its lowest to its highest byte, which for an MX format is that of the last
block's scale. A range of no bytes still takes its entry, and holds no line (R121). -/
def ritRange (f : Fmt) (lo n : Nat) : List (Nat × Nat) :=
  if n = 0 then [(0, 0)]
  else if f.isMx then
    let last := blkAddr f lo (n - 1)
    [lineSpan lo (max last (blkScale f last) + 1)]
  else [lineSpan lo (lo + n)]

/-- A transfer of the hart whose turn it is, its ranges and contents still to be filled in. -/
def State.newXfer (s : State) (op : Nat) (c : Word) : Transfer :=
  let h := s.hart
  { id := s.nextXfer, hart := h.id, app := h.app, op := op, ctl := c, src := 0, dst := 0, len := 0, scale := 0, maxw := 0,
    recno := (h.queue (ctlQueue c)).reserved, xrm := h.xrm, xperm := h.xperm, seed := h.srseed, gside := decide (160 ≤ h.core),
    die := dieOfCore h.core, reg := 0, target := 0, regs := [], perm := [], grant := h.vlgrant, rit := [], fills := none,
    ep := h.ep }

/-- A transfer enters the engine: it waits for a free record, for its lines and for range entries; it reserves its record
number, and under STO the hart's generator advances by `draws` (R119, R121, R160, R260). -/
def State.issueXfer (s : State) (t : Transfer) (draws : Nat) : Except Stop State :=
  let h := s.hart
  let q := h.queue (ctlQueue t.ctl)
  let rec_ := !t.ctl.getLsbD 19
  if rec_ && decide (64 ≤ q.reserved - q.taken) then .error (.wait s)
  else if t.rit.any fun r => s.ritHit h r.1 r.2 then .error (.wait s)
  else if t.rit ≠ [] ∧ 64 / h.cut < s.ritUsed h + t.rit.length then .error (.wait s)
  else
    let h1 := if rec_ then h.setQueue (ctlQueue t.ctl) { q with reserved := q.reserved + 1 } else h
    let h2 := if t.xrm = 3 then { h1 with srseed := BitVec.ofNat 64 (skipDraws draws h1.srseed.toNat) } else h1
    .ok { s with hart := h2, transfers := s.transfers ++ [t], nextXfer := s.nextXfer + 1 }

/-- A transfer length: bits [31:0] of its register. -/
def Hart.xlen (h : Hart) (b : Reg) : Nat := (h.rx (b.toNat + 1)).toNat % 2 ^ 32

/-- Why the maximum word of an XFERQ stops it before a byte moves (R257): a fault code, 0 for none. -/
def State.maxFault (s : State) (va : Nat) : Nat :=
  if va % 4 ≠ 0 then 3
  else match s.forStore (s.xlat s.hart va) with
    | .error .link => 0x10
    | .error _ => 5
    | .ok x => if x.encoded then 7 else 0

/-- XFER and XFERQ at issue. -/
def State.xferMem (s : State) (op : Nat) (d a b : Reg) : Except Stop State :=
  let h := s.hart
  let c := s.rx b
  let n := h.xlen b
  let sf := ctlElem c 0
  let df := ctlElem c 6
  let mw := h.rx (b.toNat + 3)
  if ctlBad h op c n then .error .illegal
  else
    let t := { s.newXfer op c with
      src := s.rx a, dst := s.rx d, len := n, scale := h.rx (b.toNat + 2), maxw := mw,
      early := if op = 6 then s.maxFault mw.toNat else 0,
      rit := ritRange sf (s.rx a).toNat n ++ ritRange df (s.rx d).toNat (ceilDiv (n * df.bits) sf.bits)
        ++ (if op = 6 then [lineSpan mw.toNat (mw.toNat + 4)] else []) }
    s.issueXfer t (n * 8 / sf.bits)

/-- XFER. -/
def execXfer (d a b : Reg) (s : State) : Outcome State Fault Refusal := complete (.xfer d a b) s (s.xferMem 2 d a b)

/-- XFERQ. -/
def execXferq (d a b : Reg) (s : State) : Outcome State Fault Refusal := complete (.xferq d a b) s (s.xferMem 6 d a b)

/-- The permutation of XFERV and XFERVS: the elements below the LEN of v(PIDX), read unsigned. -/
def Hart.permOf (h : Hart) (c : Word) : Except Stop (List Nat) :=
  if !h.xperm then .ok []
  else match h.readGroup (h.wb.toNat + bitsAt c.toNat 20 7) 1 1 with
    | .error e => .error e
    | .ok v => if v.fmt.isIndex then .ok v.elems else .error .opfmt

/-- The registers that a permuting transfer reads for its indices. -/
def Hart.permRun (h : Hart) (c : Word) : List VRun := if h.xperm then [(bitsAt c.toNat 20 7, 1)] else []

/-- XFERV. -/
def execXferv (d a b : Reg) (s : State) : Outcome State Fault Refusal :=
  let h := s.hart
  let c := s.rx b
  let n := h.xlen b
  let runs := ctlRuns c d.toNat
  complete (.xferv d a b) s
    (if ctlBad h 3 c n then .error .illegal
     else match s.vecReady (h.permRun c) runs 0 with
     | .error e => .error e
     | .ok _ => s.withPops (h.permRun c) fun t =>
       match t.hart.permOf c with
       | .error e => .error e
       | .ok p =>
         let w := h.wb.toNat + d.toNat
         t.issueXfer { t.newXfer 3 c with
           src := s.rx a, len := n, reg := w, perm := p, rit := ritRange (ctlElem c 0) (s.rx a).toNat n,
           fills := some (h.id, w, w + runs.foldl (fun k r => k + r.2) 0) } (n * 8 / (ctlElem c 0).bits))

/-- Whether a group is one that an instruction may read (R106), registers of untyped bytes counting as of one tag. -/
def Hart.wholeGroup (h : Hart) (w g : Nat) : Bool :=
  let d := (h.vreg w).desc
  !d.cont &&
  (if d.enc = .plain then
    (h.vregs w g).all fun q => decide (q.desc.enc = .plain) && !q.desc.cont && decide (q.desc.untyped = d.untyped) &&
      (d.untyped || decide (q.desc.fmt = d.fmt))
   else decide (d.grec = log2g g))

/-- Whether every group of XFERVS carries SFMT, or bytes are copied (R106, R406). -/
def Hart.srcTags (h : Hart) (c : Word) (runs : List VRun) : Except Stop Unit :=
  match ctlFmt c 0 with
  | none => if runs.all fun r => h.wholeGroup (h.wb.toNat + r.1) r.2 then .ok () else .error .opfmt
  | some f =>
    match runs with
    | [] => .ok ()
    | r :: rs =>
      match h.readGroup (h.wb.toNat + r.1) r.2 r.2 with
      | .error e => .error e
      | .ok v =>
        if v.fmt ≠ f then .error .opfmt
        else if rs.all fun q => (match h.readGroup (h.wb.toNat + q.1) q.2 q.2 with
            | .error _ => false
            | .ok w => decide (w.fmt = f)) then .ok () else .error .opfmt

/-- XFERVS: the registers are read at issue. -/
def execXfervs (d a b : Reg) (s : State) : Outcome State Fault Refusal :=
  let h := s.hart
  let c := s.rx b
  let n := h.xlen b
  let runs := ctlRuns c d.toNat
  let reads := runs ++ h.permRun c
  complete (.xfervs d a b) s
    (if ctlBad h 4 c n then .error .illegal
     else match s.vecReady reads [] 0 with
     | .error e => .error e
     | .ok _ => s.withPops reads fun t =>
       match t.hart.permOf c, t.hart.srcTags c runs with
       | .error e, _ => .error e
       | .ok _, .error e => .error e
       | .ok p, .ok _ =>
         t.issueXfer { t.newXfer 4 c with
           dst := s.rx a, len := n, perm := p,
           regs := runs.flatMap fun r => t.hart.vregs (h.wb.toNat + r.1) r.2,
           rit := ritRange (ctlElem c 6) (s.rx a).toNat (ceilDiv (n * (ctlElem c 6).bits) (ctlElem c 0).bits) }
           (n * 8 / (ctlElem c 0).bits))

/-- The hart that XFERC names, none where the transfer ends with NOTARGET (R256, R407). -/
def State.xferTarget (s : State) (crew rank n g : Nat) : Option Hart :=
  (s.crewHarts crew).find? fun h => decide (h.crewrank.toNat = rank) && decide (rank < h.crewn.toNat) &&
    !h.ended && decide (n + g ≤ h.wspan)

/-- Whether registers of a hart are bound to a stream, so that nothing may write them (R249). -/
def Hart.boundAt (h : Hart) (lo hi : Nat) : Bool := (h.streams.filterMap Prod.snd).any fun st => meets (lo, hi) st.run

/-- Whether an earlier transfer of the hart still fills registers of a target, or any transfer those of the hart itself (R119). -/
def State.fillsTarget (s : State) (g : Option Hart) (lo hi : Nat) : Bool :=
  g.any fun q => s.transfers.any fun t => (decide (t.hart = s.hart.id) || decide (q.id = s.hart.id)) && t.fillsAt q lo hi

/-- XFERC: a bound register of the target takes ILLEGAL, and registers that an earlier transfer of the hart fills are waited for
(R119, R249, R407); it makes no draw (log). -/
def execXferc (d a b : Reg) (s : State) : Outcome State Fault Refusal :=
  let h := s.hart
  let c := s.rx b
  let x := (s.rx a).toNat
  let run : VRun := (d.toNat, ctlGroup c)
  let n := x % 2 ^ 11
  complete (.xferc d a b) s
    (if ctlBad h 5 c 0 || (ctlFmt c 0).isSome || decide (bitsAt c.toNat 20 7 ≠ 0) || decide (bitsAt x 11 5 ≠ 0) ||
        decide (x / 2 ^ 21 ≠ 0) then .error .illegal
     else match s.vecReady [run] [] 0 with
     | .error e => .error e
     | .ok _ => s.withPops [run] fun t =>
       let g := t.xferTarget h.crewid.toNat (bitsAt x 16 5) n run.2
       if g.any fun q => q.boundAt n (n + run.2) then .error .illegal
       else if s.fillsTarget g n (n + run.2) then .error (.wait t)
       else t.issueXfer { t.newXfer 5 c with
         reg := n, target := (g.map Hart.id).getD 0, regs := t.hart.vregs (h.wb.toNat + d.toNat) run.2,
         early := if g.isSome then 0 else 0x12,
         fills := g.map fun q => (q.id, n, n + run.2) } 0)

/-- Whether an XTIER control word and range are admitted (R253, R258, R408). -/
def tierBad (h : Hart) (c : Word) (a n : Nat) : Bool :=
  let code := c.toNat % 256
  decide (bitsAt c.toNat 8 7 ≠ 0) || decide (bitsAt c.toNat 15 2 ≠ 0) || decide (bitsAt c.toNat 20 12 ≠ 0) ||
  decide (bitsAt c.toNat 48 16 ≠ 0) ||
  !(decide (code = 0) || (decide (code = 1) && h.feat 9) || (decide (0x10 ≤ code) && decide (code ≤ 0x13))) ||
  decide (a % 4096 ≠ 0) || decide (n % 4096 ≠ 0)

/-- XTIER; it makes no draw (log). -/
def execXtier (a b : Reg) (s : State) : Outcome State Fault Refusal :=
  let h := s.hart
  let c := s.rx b
  let n := h.xlen b
  let va := (s.rx a).toNat
  complete (.xtier a b) s
    (if tierBad h c va n then .error .illegal
     else s.issueXfer { s.newXfer 9 c with src := s.rx a, len := n, rit := ritRange .n8 va n } 0)

/-! ### Elements in flight -/

/-- One element a transfer has read: its pattern, its block's scale, whether poison fed it or its scale, its draw, and whether poison
fed the scale. -/
structure XElem where
  pat : Nat := 0
  sc : Nat := 127
  poison : Bool := false
  u : Nat := 0
  badScale : Bool := false
deriving DecidableEq, Repr

/-- The translation a transfer uses. -/
def State.xferAt (s : State) (t : Transfer) (va : Nat) : Option Xlat := (s.app t.app).lookup t.who (va % 2 ^ 64)

/-- The fault code of a read (R261). -/
def MemFault.readCode : MemFault → Nat
  | .link => 0x10
  | .unmapped => 4
  | .perm => 4
  | .poison => 4
  | .fmt => 2
  | .scaleArea => 4
  | .malformed => 4
  | .align => 3
  | .tier => 4
  | .encoded => 7

/-- The fault code of a write. -/
def MemFault.writeCode : MemFault → Nat
  | .link => 0x10
  | .unmapped => 5
  | .perm => 5
  | .poison => 5
  | .fmt => 2
  | .scaleArea => 5
  | .malformed => 5
  | .align => 3
  | .tier => 5
  | .encoded => 7

/-- `n` bytes as a transfer reads them: poison reads as zeros and is marked (R194). -/
def State.xferBytes (s : State) (t : Transfer) (va n : Nat) : Except Nat (Nat × Bool) :=
  match s.readElem (s.xferAt t) va n with
  | .ok x => .ok (x, false)
  | .error f => if f = .poison then .ok (0, true) else .error f.readCode

/-- The address of element e of a run of a format from `base` on. -/
def runAddr (f : Fmt) (base e : Nat) : Nat :=
  (if f.isMx then blkAddr f base (e * f.bits / 8) else base + e * f.bits / 8) % 2 ^ 64

/-- Element e of a transfer's source in memory, with draw `u`. -/
def State.srcElem (s : State) (t : Transfer) (f : Fmt) (e u : Nat) : Except Nat XElem :=
  let a := runAddr f t.src.toNat e
  match s.xferBytes t a f.bytes with
  | .error c => .error c
  | .ok r =>
    let pat := if f.bits = 4 then r.1 / 16 ^ (e % 2) % 16 else r.1
    if f.isMx then
      match s.xferAt t a with
      | none => .error 4
      | some x =>
        if x.fmt ≠ some f ∨ attrBlk x.attr ≠ 1 then .error 2
        else if !blkStart f t.src.toNat then .error 3
        else match s.xferBytes t (blkScale f a) 1 with
        | .error c => .error c
        | .ok q => .ok { pat := pat, sc := q.1, poison := r.2 || q.2, u := u, badScale := q.2 }
    else .ok { pat := pat, poison := r.2, u := u }

/-- The elements of a list of element numbers, in order, up to the first that faults: its code and number. -/
def State.srcElems (s : State) (t : Transfer) (f : Fmt) : List (Nat × Nat) → List XElem × Option (Nat × Nat)
  | [] => ([], none)
  | (e, u) :: es =>
    match s.srcElem t f e u with
    | .error c => ([], some (c, e))
    | .ok x =>
      let r := s.srcElems t f es
      (x :: r.1, r.2)

/-- The draws of the first `n` source elements (R160). -/
def drawsOf : Nat → Nat → List Nat
  | 0, _ => []
  | n + 1, seed => let d := draw seed; d.2 :: drawsOf n d.1

/-- The draws of a transfer, zeros where its mode is not STO. -/
def Transfer.draws (t : Transfer) (n : Nat) : List Nat := if t.xrm = 3 then drawsOf n t.seed.toNat else List.replicate n 0

/-- The first source byte of element e that poison touches. -/
def State.poisonOff (s : State) (t : Transfer) (f : Fmt) (e : Nat) : Nat :=
  let k := (List.range f.bytes).find? fun i =>
    match s.xferBytes t ((runAddr f t.src.toNat e + i) % 2 ^ 64) 1 with
    | .error _ => false
    | .ok r => r.2
  e * f.bits / 8 + k.getD 0

/-- An element's value, and whether its block's scale is a NaN. -/
def XElem.val (f : Fmt) (x : XElem) : Val × Bool :=
  if f.isMx then (mxVal f x.pat x.sc, decide (x.sc = 0xFF)) else (decodeVal f x.pat, false)

/-- What a run of elements becomes at the destination: patterns, block scales, flags. -/
structure Conv where
  pats : List Nat := []
  scales : List Nat := []
  flags : Flags := {}

/-- Elements converted from `sf` to `df` (R254), DM8 among them (log): equal formats are copied, an MX
block with the scale of its first element (log); another MX target chooses its scales (R156). -/
def convert (sf df : Fmt) (rm : RM) (es : List XElem) : Conv :=
  if sf = df then
    { pats := es.map XElem.pat,
      scales := (List.range (ceilDiv es.length 32)).map fun b => ((es.drop (32 * b)).head?.map XElem.sc).getD 127 }
  else
    let vs := es.map (XElem.val sf)
    let sc := if df.isMx then mxScales df (es.map fun _ => true) (vs.map Prod.fst) else []
    let ys := List.zip (mxSource df (es.map fun _ => true) (vs.map Prod.fst)) (vs.map Prod.snd)
    let rs := (List.zip (List.range es.length) (List.zip es ys)).map fun x =>
      let r := toTarget df ((sc.map Prod.fst).getD (x.1 / 32) 127) rm x.2.1.u x.2.2.1
      (r.1, r.2.1.or { nv := x.2.2.2 })
    { pats := rs.map Prod.fst, scales := sc.map Prod.fst,
      flags := rs.foldl (fun f r => f.or r.2) { nv := sc.any Prod.snd } }

/-- One element of XFERQ: its code, flags, and whether it clipped (R168, R257). -/
def quantise (sf df : Fmt) (rm : RM) (scale : Val) (x : XElem) : Nat × Flags × Bool :=
  let v := x.val sf
  let p := Val.mul v.1 scale
  let e := quantElem df true false 127 rm x.u p.val
  (e.code, e.flags.or { nv := v.2 || p.nv, cl := e.clipped }, e.clipped)

/-! ### Writing a memory destination (R144, R254, R259) -/

/-- Whether a transfer of n elements to an address writes whole segments: its first element starts a segment, and their number
is a multiple of 256. -/
def wholeDst (f : Fmt) (dst n : Nat) : Bool := decide (dst % slotBytes f = 0) && decide (n % 256 = 0)

/-- Why destination element k faults: a fault code. -/
def State.dstFault (s : State) (t : Transfer) (n k : Nat) : Option Nat :=
  let f := ctlElem t.ctl 6
  let a := runAddr f t.dst.toNat k
  match s.forStore (s.xferAt t a), s.forStore (s.xferAt t (a + f.bytes - 1)) with
  | .error e, _ => some e.writeCode
  | .ok _, .error e => some e.writeCode
  | .ok x, .ok _ =>
    if (match x.fmt with
        | none => f.isMx
        | some p => (ctlFmt t.ctl 6).isNone || decide (p ≠ f) || (f.isMx && decide (attrBlk x.attr ≠ 1))) then some 2
    else if f.isMx && !blkStart f t.dst.toNat then some 3
    else if x.encoded && !wholeDst f t.dst.toNat n then some 7
    else none

/-- Whether a migration holds back a transfer's write at an address that is otherwise admitted (R187). -/
def State.xferShut (s : State) (t : Transfer) (a : Nat) : Bool :=
  match s.forStore (s.xferAt t a) with
  | .error _ => false
  | .ok x => x.closed

/-- Whether a page that XTIER would move is under migration by another call. -/
def State.tierShut (s : State) (t : Transfer) : Bool :=
  let lo := t.src.toNat
  (s.app t.app).maps.any fun m => m.migr.isSome && decide (m.va < lo + t.len) && decide (lo < m.top)

/-- Whether a page that a transfer writes or moves is under migration: that of its destination, of the maximum word of XFERQ, of
XTIER's range, or of its record (R188, R258). -/
def State.parks (s : State) (t : Transfer) (n : Nat) : Bool :=
  ((decide (t.op = 2) || decide (t.op = 4) || decide (t.op = 6)) &&
    (List.range n).any fun k => s.xferShut t (runAddr (ctlElem t.ctl 6) t.dst.toNat k)) ||
  (decide (t.op = 6) && s.xferShut t t.maxw.toNat) || (decide (t.op = 9) && s.tierShut t) ||
  (!t.ctl.getLsbD 19 && (((s.hartOf t.hart).bind fun h => h.recAddr (ctlQueue t.ctl) t.recno).any fun a =>
    s.xferShut t a || s.xferShut t (a + 15)))

/-- The physical address of a transfer's virtual one. -/
def State.xferPhys (s : State) (t : Transfer) (a : Nat) : Nat := ((s.xferAt t a).map fun x => x.addr (a % 2 ^ 64)).getD 0

/-- Whether destination element k lies on an encoded page. -/
def State.dstEncoded (s : State) (t : Transfer) (k : Nat) : Bool :=
  match s.xferAt t (runAddr (ctlElem t.ctl 6) t.dst.toNat k) with
  | none => false
  | some x => x.encoded

/-- The segment of encoded destination slots that begin at the listed elements and are complete. -/
def State.putSlots (s : State) (t : Transfer) (f : Fmt) (pats : List Nat) : List Nat → State
  | [] => s
  | k :: ks =>
    let slot := s.xferPhys t (runAddr f t.dst.toNat k)
    let v := segBest f ((pats.drop k).take 256)
    let s1 := s.writePhys false (cellsLE slot (slotBytes f) v.arr)
    ({ s1 with segHdr := mset none s1.segHdr slot (some (BitVec.ofNat 64 (segHdrOf v))) } : State).putSlots t f pats ks

/-- Marks as poison the granules of the scales of destination blocks that poison fed: a scale that is copied by the scale it is a
copy of, one that is chosen by any element of its block (R193, R194). -/
def State.spreadScales (s : State) (t : Transfer) (f : Fmt) (es : List XElem) : State :=
  if f.isMx then
    ((List.zip (List.range es.length) es).filter fun x => if ctlElem t.ctl 0 = f then x.2.badScale else x.2.poison).foldl
      (fun u x => u.setPoison (u.xferPhys t (blkScale f (runAddr f t.dst.toNat x.1)) / 64) true) s
  else s

/-- Marks as poison the granules of destination elements that poison fed, both where an element lies across two, and of scales. -/
def State.spreadPoison (s : State) (t : Transfer) (f : Fmt) (es : List XElem) : State :=
  (((List.zip (List.range es.length) es).filter fun x => x.2.poison).foldl (fun u x =>
    let a := runAddr f t.dst.toNat x.1
    let pa := u.xferPhys t a
    if u.dstEncoded t x.1 then u.setPoison (pa / slotBytes f * slotBytes f / 64) true
    else (u.setPoison (pa / 64) true).setPoison (u.xferPhys t (a + f.bytes - 1) / 64) true) s).spreadScales t f es

/-- Writes the first `k` destination elements; answers how many of them are written, all but those of a segment cut short. -/
def State.putDst (s : State) (t : Transfer) (c : Conv) (es : List XElem) (k : Nat) : State × Nat :=
  let f := ctlElem t.ctl 6
  let ks := List.range k
  let plain := ks.filter fun i => !s.dstEncoded t i
  let slots := ks.filter fun i => s.dstEncoded t i && decide (runAddr f t.dst.toNat i % slotBytes f = 0) && decide (i + 256 ≤ k)
  let cells :=
    if f.bits = 4 then
      (plain.foldl (fun cs i => s.putNibble cs (s.xferPhys t (runAddr f t.dst.toNat i)) (decide (i % 2 = 1)) (c.pats.getD i 0)) []).reverse
    else plain.flatMap fun i => s.cellsFor t.app t.who (runAddr f t.dst.toNat i) ((cellsLE 0 f.bytes (c.pats.getD i 0)).map Prod.snd)
  let scs := if f.isMx then (plain.filter fun i => decide (i % 32 = 0)).map fun i =>
    (s.xferPhys t (blkScale f (runAddr f t.dst.toNat i)), c.scales.getD (i / 32) 0) else []
  let s1 := (s.writePhys false (cells ++ scs)).putSlots t f c.pats slots
  let done := if k ≠ 0 ∧ s.dstEncoded t (k - 1) then
      (match slots.getLast? with
       | none => (plain.getLast?.map fun i => i + 1).getD 0
       | some i => i + 256)
    else k
  (s1.spreadPoison t f (es.take k), done)

/-! ### Retirement (R259) -/

/-- STATUS of a record (R261). -/
def Ending.status (e : Ending) : Nat := if e.fcode ≠ 0 then 3 else if e.poff ≠ 0xFFFFFFFF then 2 else 1

/-- A transfer leaves the engine: its record is posted, its flags and counts reach the hart, saved or not (R254, R259). -/
def State.finish (s : State) (t : Transfer) (e : Ending) : State :=
  let s1 := { s with transfers := s.transfers.filter fun u => decide (u.id ≠ t.id) }
  let s2 := s1.updHart t.hart fun h =>
    { h.raise e.flags with clipc := holdAdd h.clipc e.clipped, elemc := holdAdd h.elemc e.examined }
  (s2.postXfer t e.status e.fcode e.done e.foff e.poff).resave t.hart

/-- The fold of XFERQ: the largest magnitude rounded to F32 by RUP (R168); none without a number. -/
def foldMax (sf : Fmt) (es : List XElem) : Option Nat :=
  let vs := (es.map fun x => (x.val sf).1).filter fun v => !v.isNan
  if vs = [] then none else some (roundVal .f32 .rup 0 (vs.foldl absMax (.fin false 0 1))).1

/-- Performs the fold of XFERQ, after which the hart's samples are no older than the mapping by which it was written (R182, R207);
or the fault code where the word can no longer be written: its link is down (R191), or UNMAP or PROTECT took it away (R257). On a
poisoned granule the bytes beneath are folded, and it stays poisoned (log). -/
def State.foldWord (s : State) (t : Transfer) (m : Nat) : State × Nat :=
  match s.forStore (s.xferAt t t.maxw.toNat) with
  | .error .link => (s, 0x10)
  | .error _ => (s, 5)
  | .ok x =>
    if x.encoded then (s, 5)
    else
      let pa := x.addr t.maxw.toNat
      let u := s.writePhys false (cellsLE pa 4 (max m (readLE s.mem pa 4)))
      (u.updHart t.hart fun h => u.dropStale h t.maxw.toNat, 0)

/-- The hart of a transfer without samples that are older than the mapping by which it has written (R182, R207). -/
def State.dropWritten (s : State) (t : Transfer) (k : Nat) : State :=
  let vas := (List.range k).map (runAddr (ctlElem t.ctl 6) t.dst.toNat)
  s.updHart t.hart fun h => vas.foldl s.dropStale h

/-- The end of a transfer to memory from the elements it has read, and the fault of its source. -/
def State.retireMem (s : State) (t : Transfer) (n : Nat) (r : List XElem × Option (Nat × Nat)) : State :=
  let sf := ctlElem t.ctl 0
  let df := ctlElem t.ctl 6
  let rm := RM.ofXrm t.xrm.toNat
  let es := r.1
  let qs := if t.op = 6 then es.map (quantise sf df rm (f32Val t.scale.toNat)) else []
  let c : Conv := if t.op = 6 then { pats := qs.map Prod.fst, flags := qs.foldl (fun f q => f.or q.2.1) {} }
    else convert sf df rm es
  let bad := (List.range es.length).findSome? fun k => (s.dstFault t n k).map fun f => (f, k)
  let k := (bad.map Prod.snd).getD es.length
  let w0 := s.putDst t c es k
  let w := (w0.1.dropWritten t k, w0.2)
  let flt := match bad with
    | some b => some b
    | none => r.2
  let po := ((List.zip (List.range es.length) es).find? fun x => x.2.poison).map Prod.fst
  let e : Ending :=
    { fcode := (flt.map Prod.fst).getD 0, done := w.2 * sf.bits / 8,
      foff := match flt with
        | none => 0xFFFFFFFF
        | some f => f.2 * sf.bits / 8,
      poff := match po with
        | none => 0xFFFFFFFF
        | some p => if t.op = 4 then p * sf.bits / 8 else s.poisonOff t sf p,
      flags := c.flags, clipped := (qs.filter fun q => q.2.2).length,
      examined := if t.op = 6 then es.length else 0 }
  match (if t.op = 6 ∧ flt = none then foldMax sf es else none) with
  | none => w.1.finish t e
  | some m =>
    let f := w.1.foldWord t m
    f.1.finish t (if f.2 = 0 then e else { e with fcode := f.2, done := t.len, foff := t.len })

/-- XFER and XFERQ end. -/
def State.retireXfer (s : State) (t : Transfer) : State :=
  let f := ctlElem t.ctl 0
  let n := t.len * 8 / f.bits
  if t.early ≠ 0 then s.finish t { fcode := t.early, foff := 0 }
  else s.retireMem t n (s.srcElems t f (List.zip (List.range n) (t.draws n)))

/-- A hart of the registers that a transfer has read. -/
def Transfer.bank (t : Transfer) : Hart :=
  { vlgrant := t.grant, v := (List.zip (List.range t.regs.length) t.regs).foldl (fun m r => mset {} m r.1 r.2) [] }

/-- The columns of XFERVS: one group for each field, as bytes or at its tag; an element at or past its LEN is zero (R137, R406). -/
def Transfer.columns (t : Transfer) : List (Nat → XElem) :=
  let g := if ctlFields t.ctl = 1 then ctlGroup t.ctl else 1
  (List.range (ctlFields t.ctl)).map fun f =>
    match ctlFmt t.ctl 0 with
    | none =>
      let bytes := t.bank.groupArr (f * g) g
      fun i => { pat := bytes / 256 ^ i % 256 }
    | some _ =>
      match t.bank.readGroup (f * g) g g with
      | .error _ => fun _ => {}
      | .ok v => fun i => if i < v.elems.length then { pat := v.elems.getD i 0, sc := v.scales.getD (i / 32) 127 } else {}

/-- XFERVS ends: record r takes element r of each field, or element idx_r; past the LEN of the index register idx_r is 0 (R137;
log). -/
def State.retireXfervs (s : State) (t : Transfer) : State :=
  let f := ctlFields t.ctl
  let n := t.len * 8 / (ctlElem t.ctl 0).bits
  let cols := t.columns
  let us := t.draws n
  let es := (List.range n).map fun e =>
    let r := e / f
    { (cols.getD (e % f) fun _ => {}) (if t.xperm then t.perm.getD r 0 else r) with u := us.getD e 0 }
  s.retireMem t n (es, none)

/-- Records read for a register destination: their elements, those of a record that faults up to the fault, and the first
fault. -/
def State.srcRecords (s : State) (t : Transfer) (f : Fmt) (nf : Nat) (us : List Nat) :
    List Nat → List (Nat × List XElem) × Option (Nat × Nat)
  | [] => ([], none)
  | r :: rs =>
    let q := s.srcElems t f ((List.range nf).map fun k => (r * nf + k, us.getD (r * nf + k) 0))
    match q.2 with
    | some e => ([(r, q.1)], some e)
    | none =>
      let z := s.srcRecords t f nf us rs
      ((r, q.1) :: z.1, z.2)

/-- Element groups of 64 bytes that poison fed are written as zero (R194). -/
def zeroGroups (bits : Nat) (es : List XElem) (pats : List Nat) : List Nat :=
  let bad := ((List.zip (List.range es.length) es).filter fun x => x.2.poison).map fun x => x.1 * bits / 512
  (List.zip (List.range pats.length) pats).map fun x => if bad.contains (x.1 * bits / 512) then 0 else x.2

/-- The encoding of the portion of a transfer's source at element e. -/
def State.srcEnc (s : State) (t : Transfer) (f : Fmt) (e : Nat) : Enc :=
  let a := runAddr f t.src.toNat e
  match s.xferAt t a with
  | none => .plain
  | some x =>
    if x.encoded then
      match s.segAt x.encFmt (x.addr a) with
      | .error _ => .plain
      | .ok g => g.enc
    else .plain

/-- The vector that one field of XFERV receives, with its flags: an element that was not reached, `none`, keeps the bits that
its place in the register has, `old`. -/
def State.fieldVec (s : State) (t : Transfer) (xs : List (Option XElem)) (old : Nat) (joins : Bool) : Vec × Flags :=
  let sf := ctlElem t.ctl 0
  let df := ctlElem t.ctl 6
  let es := xs.map fun x => x.getD {}
  let c := convert sf df (RM.ofXrm t.xrm.toNat) es
  let pats := (List.zip (List.range xs.length) (List.zip xs (zeroGroups df.bits es c.pats))).map fun y =>
    if y.2.1.isSome then y.2.2 else bitsAt old (y.1 * df.bits) df.bits
  let fl := if df.isMx && c.scales.contains 0xFF then c.flags.or { nv := true } else c.flags
  if joins && !(es.any XElem.poison) then
    (joinSegs t.ep df ((List.range es.length).map (s.srcEnc t df)) pats, fl)
  else (plainVec df pats (if df.isMx then c.scales else []), fl)

/-- The records of XFERV's elements in order, without those past the registers. -/
def Transfer.recordsOf (t : Transfer) (cap total : Nat) : List Nat := if t.xperm then t.perm.take cap else List.range (min total cap)

/-- What the elements of field f have received, up to the last that received anything: zero for a record past the last, none for
one that was not reached (R255, R259). -/
def fieldElems (recs : List (Nat × List XElem)) (total f : Nat) (idx : List Nat) : List (Option XElem) :=
  let xs := idx.map fun r => if total ≤ r then some {} else (mget [] recs r)[f]?
  (xs.reverse.dropWhile Option.isNone).reverse

/-- The registers of a group marked as untyped bytes where an untyped transfer has written them (R406). -/
def Hart.markRaw (h : Hart) (raw : Bool) (w g : Nat) : Hart :=
  if raw then { h with v := (List.range g).foldl (fun m j =>
    let q := mget {} m (w + j)
    mset {} m (w + j) { q with desc := { q.desc with untyped := true } }) h.v } else h

/-- XFERV's last element group arrives: the registers, and how the transfer will end (R120, R255). -/
def State.landXferv (s : State) (t : Transfer) : State × Ending :=
  let sf := ctlElem t.ctl 0
  let df := ctlElem t.ctl 6
  let nf := ctlFields t.ctl
  let g := if nf = 1 then ctlGroup t.ctl else 1
  let total := t.len * 8 / (nf * sf.bits)
  let idx := t.recordsOf (t.grant * g * 8 / df.bits) total
  let need := (sortBy (fun a b => decide (a ≤ b)) (distinct idx [])).filter fun r => decide (r < total)
  let r := s.srcRecords t sf nf (t.draws (total * nf)) need
  let joins := decide (nf = 1) && !t.xperm && (ctlFmt t.ctl 0).isSome && decide (sf = df) && !sf.isMx
  let old (f : Nat) : Nat := ((s.hartOf t.hart).map fun h => h.groupArr (t.reg + f * g) g).getD 0
  let vs := (List.range nf).map fun f => s.fieldVec t (fieldElems r.1 total f idx) (old f) joins
  let s1 := s.updHart t.hart fun h => (List.zip (List.range nf) vs).foldl (fun h v =>
    (h.writeGroup (t.reg + v.1 * g) g v.2.1).markRaw (ctlFmt t.ctl 6).isNone (t.reg + v.1 * g) g) h
  let po := (r.1.flatMap fun x => (List.zip (List.range nf) x.2).map fun y => (x.1 * nf + y.1, y.2)).find? fun x => x.2.poison
  (s1,
    { fcode := (r.2.map Prod.fst).getD 0, done := (r.1.map fun x => x.2.length).sum * sf.bits / 8,
      foff := match r.2 with
        | none => 0xFFFFFFFF
        | some f => f.2 * sf.bits / 8,
      poff := match po with
        | none => 0xFFFFFFFF
        | some p => s.poisonOff t sf p.1,
      flags := vs.foldl (fun f v => f.or v.2) {} })

/-- Whether a register carries a NaN scale (R155). -/
def VReg.nanScale (r : VReg) : Bool :=
  r.desc.fmt.isMx && !r.desc.untyped && (unpackAt 8 r.scale.toNat 0 (ceilDiv r.desc.len 32)).contains 0xFF

/-- XFERC's last element group arrives: the registers reach the target with their descriptors and scales, or nothing is written
(R155, R256). -/
def State.landXferc (s : State) (t : Transfer) : State × Ending :=
  let ok : Bool := match s.hartOf t.target with
    | none => false
    | some h => decide (t.early = 0) && !h.ended
  if ok then
    (s.updHart t.target fun h =>
      { h with v := (List.zip (List.range t.regs.length) t.regs).foldl (fun (m : List (Nat × VReg)) (r : Nat × VReg) => mset {} m (t.reg + r.1) r.2) h.v },
      { done := t.regs.length * t.grant, flags := { nv := t.regs.any VReg.nanScale } })
  else (s, { fcode := 0x12, foff := 0 })

/-- The first poisoned granule of a physical range, by its offset in it (R194). -/
def State.firstPoison (s : State) (pa len : Nat) : Option Nat :=
  if s.locked || s.zeroised then some 0
  else
    let gs := (s.poison.filter fun g => g.2 && decide (pa ≤ g.1 * 64) && decide (g.1 * 64 < pa + len)).map fun g => g.1 * 64 - pa
    match gs with
    | [] => none
    | g :: r => some (r.foldl min g)

/-- Why a region cannot move to a tier: the link of the pool that has room is down, or no room (R187, R191, R258). -/
def State.moveFault (s : State) (m : Mapping) (code : Nat) : Nat :=
  if (s.allocTier code (m.pages * 4096) (2 ^ m.pageLog)).isSome then 0x10 else 0x11

/-- Moves the pages of an XTIER to the tier of a code from `va` on: the fault code and the offset where it stops, if it does, and
the first poisoned offset of what has moved. -/
def State.tierWalk (s : State) (t : Transfer) (code hi : Nat) : Nat → Nat → State × Option (Nat × Nat) × Option Nat
  | 0, _ => (s, none, none)
  | n + 1, va =>
    if hi ≤ va then (s, none, none)
    else
      let off := va - t.src.toNat
      match findMap (s.app t.app).maps va with
      | none => (s, some (4, off), none)
      | some m =>
        let u := m.unit va
        if m.inTier code then s.tierWalk t code hi n (min hi u.2)
        else if s.linkDown m.kind then (s, some (0x10, off), none)
        else
          let lo := max u.1 va
          let top := min u.2 hi
          let a := s.app t.app
          let s1 := s.setApp t.app { a with maps := carve a.maps lo top }
          match findMap (s1.app t.app).maps va with
          | none => (s, some (4, off), none)
          | some q =>
            match s1.moveRegion t.app q code with
            | none => (s, some (s1.moveFault q code, off), none)
            | some s2 =>
              let r := s2.tierWalk t code hi n top
              (r.1, r.2.1, match s.firstPoison q.pa (q.pages * 4096) with
                | some o => some (off + o)
                | none => r.2.2)

/-- What a transfer to registers writes, and how it will end. -/
def State.land (s : State) (t : Transfer) : State × Ending := if t.op = 3 then s.landXferv t else s.landXferc t

/-- A register of which `p` bytes have arrived. -/
def VReg.upTo (old new : VReg) (grant p : Nat) : VReg :=
  if grant ≤ p then new
  else if p = 0 then old
  else { new with data := BitVec.ofNat 2048 (new.data.toNat % 2 ^ (8 * p) + old.data.toNat / 2 ^ (8 * p) * 2 ^ (8 * p)) }

/-- The registers a transfer fills with what has arrived. -/
def State.bringIn (s : State) (t : Transfer) (a : Arrival) : State :=
  match t.fills with
  | none => s
  | some f => s.updHart f.1 fun h => { h with v := (List.zip (List.range a.regs.length) a.regs).foldl (fun m x =>
      mset {} m (f.2.1 + x.1) ((mget {} m (f.2.1 + x.1)).upTo x.2 t.grant (a.got - t.fieldOff x.1))) h.v }

/-- What a transfer to registers brings, read now, of which nothing has arrived; none where it writes nothing. -/
def State.arrival (s : State) (t : Transfer) : Option Arrival :=
  match t.fills with
  | none => none
  | some f =>
    let r := s.land t
    if r.2.fcode = 0x12 then none
    else (r.1.hartOf f.1).map fun h => ⟨(List.range (f.2.2 - f.2.1)).map fun j => h.vreg (f.2.1 + j), r.2, 0⟩

/-- Everything of a transfer to registers has arrived: at once, or the rest. -/
def State.landAll (s : State) (t : Transfer) : State × Ending :=
  match t.came with
  | some a => (s.bringIn t { a with got := t.grant * a.regs.length }, a.ending)
  | none => s.land t

/-- The last element group of a transfer to registers arrives, its record still to come (R120). -/
def State.landNow (s : State) (t : Transfer) : State :=
  if t.toRegs ∧ t.landed = none then
    let r := s.landAll t
    { r.1 with transfers := r.1.transfers.map fun u => if u.id = t.id then { u with landed := some r.2 } else u }
  else s

/-- The next element groups of a transfer to registers arrive, a free number of them in ascending order (R120). -/
def State.arriveNow (s : State) (t : Transfer) : State :=
  if t.toRegs ∧ t.landed = none then
    match (match t.came with
      | some a => some a
      | none => s.arrival t) with
    | none => s
    | some a =>
      let b : Arrival := { a with got := a.got + 64 * (1 + Config.moreGroups s.tick) }
      let u := s.bringIn t b
      { u with transfers := u.transfers.map fun x => if x.id = t.id then { x with came := some b } else x }
  else s

/-- A transfer to registers retires: with what has arrived, or all at once. -/
def State.retireRegs (s : State) (t : Transfer) : State :=
  match t.landed with
  | some e => s.finish t e
  | none => (s.landAll t).1.finish t (s.landAll t).2

/-- XTIER ends (R258, R408): with no length it is DONE at once; code 0x00 names one die for the whole of it (log). -/
def State.retireXtier (s : State) (t : Transfer) : State :=
  let lo := t.src.toNat
  if t.len = 0 then s.finish t {}
  else match partRange (s.app t.app).maps lo (lo + t.len) with
  | some m => s.finish t { fcode := 0x13, foff := max m.va lo - lo }
  | none =>
    let r := s.tierWalk t (s.tierCode (t.ctl.toNat % 256)) (lo + t.len) (t.len / 4096) lo
    let p := r.2.2.getD 0xFFFFFFFF
    match r.2.1 with
    | none => r.1.finish t { done := t.len, poff := p }
    | some e => r.1.finish t { fcode := e.1, done := e.2, foff := e.2, poff := p }

/-- A transfer retires; one that writes or moves a page under migration parks, and performs at the remap (R188). -/
def State.retireOne (s : State) (t : Transfer) : State :=
  if s.parks t (t.len * 8 / (ctlElem t.ctl 0).bits) then
    { s with transfers := s.transfers.map fun u => if u.id = t.id then { u with parked := true } else u }
  else match t.op with
  | 3 => s.retireRegs t
  | 4 => s.retireXfervs t
  | 5 => s.retireRegs t
  | 9 => s.retireXtier t
  | _ => s.retireXfer t

/-- The transfer of a number. -/
def State.xferOf (s : State) (id : Nat) : Option Transfer := s.transfers.find? fun t => decide (t.id = id)

/-- Transfer `n` retires; with k = 1 its last element group arrives first, and it retires later; with k = 2 the next element groups
arrive (R120). -/
def execTransferRetire (s : State) : Outcome State Fault Refusal :=
  match s.xferOf s.inp.n with
  | none => .next s
  | some t => .next (if s.inp.k = 1 then s.landNow t else if s.inp.k = 2 then s.arriveNow t else s.retireOne t)

/-! ### XWAIT and XPOLL (R262, R409) -/

/-- The record that queue q would give: none where it is reserved and not yet posted; zeros where nothing is. -/
def Hart.nextRec (h : Hart) (q : Nat) : Option (ComplRec × Hart) :=
  let c := h.queue q
  if c.reserved ≤ c.taken then some (⟨0, 0⟩, h)
  else match mget none c.recs c.taken with
    | none => none
    | some r => some (r, h.setQueue q { c with taken := c.taken + 1, recs := mset none c.recs c.taken none })

/-- The two words written to x(d) and x(d + 1). -/
def State.takeRec (s : State) (d : Reg) (r : ComplRec × Hart) : State :=
  { s with hart := (r.2.wx d.toNat r.1.w0).wx (d.toNat + 1) r.1.w1 }

/-- XWAIT. -/
def State.xwaitAt (s : State) (d a : Reg) : Outcome State Fault Refusal :=
  complete (.xwait d a) s
    (match s.hart.nextRec a.toNat with
     | none => .error (.wait s)
     | some r => .ok (s.takeRec d r))

/-- XWAIT at issue. -/
def execXwait (d a : Reg) (s : State) : Outcome State Fault Refusal := s.xwaitAt d a

/-- The record of a waiting XWAIT has posted. -/
def execXwaitDone (s : State) : Outcome State Fault Refusal :=
  s.onWait fun t i =>
    match i with
    | .xwait d a => some (t.xwaitAt d a)
    | _ => none

/-- XPOLL: zeros where the record has not posted. -/
def execXpoll (d a : Reg) (s : State) : Outcome State Fault Refusal :=
  complete (.xpoll d a) s (.ok (s.takeRec d ((s.hart.nextRec a.toNat).getD (⟨0, 0⟩, s.hart))))

end Sys2Proof.Machine
end

