-- ==== Sys2Proof/Machine/Sums.lean ====
section
/-! DEFINITION. Arithmetic in F32 by RNE with its flags, the exact sums of R237, and the maximum of R246 and R273. -/

namespace Sys2Proof.Machine

/-- An exact outcome rounded to F32 by RNE, with its flags (R158, R159, R162). -/
def Exact.toF32 (x : Exact) : Val × Flags :=
  let r := x.round .f32 .rne 0
  (decodeVal .f32 r.1, r.2)

/-- The F32 pattern of a value that F32 holds. -/
def Val.f32Bits (v : Val) : Nat := (roundVal .f32 .rne 0 v).1

/-- A fold that gathers flags. -/
def foldF {α β : Type} (f : α → β → α × Flags) : List β → α → Flags → α × Flags
  | [], a, fl => (a, fl)
  | b :: bs, a, fl =>
    let r := f a b
    foldF f bs r.1 (fl.or r.2)

/-- The exact sum of values (R237): NaN with NV for a NaN or infinities of both signs, an infinity for an infinity, and −0
only where every value is −0. -/
def exactSum (vs : List Val) : Exact :=
  if vs.any Val.isNan || (vs.contains (.inf false) && vs.contains (.inf true)) then ⟨.nan, true, false⟩
  else if vs.contains (.inf false) then ⟨.inf false, false, false⟩
  else if vs.contains (.inf true) then ⟨.inf true, false, false⟩
  else ⟨.ofFrac (decide (vs ≠ []) && vs.all Val.signBit) (vs.foldl (fun q v => Frac.add q v.frac) ⟨0, 1⟩), false, false⟩

/-- The exact sum of the products of two lists, element by element; a product 0 × ∞ is a NaN. -/
def dot (xs ys : List Val) : Exact := exactSum (List.zipWith (fun x y => (Val.mul x y).val) xs ys)

/-- The larger of two values, −0 below +0. -/
def Val.larger (a b : Val) : Val := if a.below b then b else a

/-- The maximum of R246 and R273: a NaN anywhere makes it a NaN and sets NV. -/
def maxNan (a : Val) (vs : List Val) : Val × Flags :=
  if a.isNan || vs.any Val.isNan then (.nan, { nv := true }) else (vs.foldl Val.larger a, {})

/-- The exponential of an F32 value (R163), with its flags. -/
def expF (v : Val) : Val × Flags :=
  let r := fexp v
  (decodeVal .f32 r.1, r.2)

/-- The exponential of a difference rounded to F32, with the flags of the exponential alone (R163, R399). -/
def expDiff (a b : Val) : Val × Flags := expF (Val.add false a b.negate).toF32.1

end Sys2Proof.Machine
end

