-- ==== Sys2Proof/Machine/Matrix.lean ====
section
/-! DEFINITION. The matrix array (R228 to R240, R411 to R417): planes, MMA and MMAQ, accumulator tiles and drains. -/

namespace Sys2Proof.Machine

/-! ### Tiles -/

/-- Tile t of a hart. -/
def Hart.tile (h : Hart) (t : Nat) : Tile := mget {} h.tiles t

/-- Replaces a tile. -/
def Hart.setTile (h : Hart) (t : Nat) (x : Tile) : Hart := { h with tiles := mset {} h.tiles t x }

/-- The 96 patterns of a row. -/
def Tile.row (t : Tile) (r : Nat) : List Nat := unpackAt 32 (mget 0 t.rows r).toNat 0 96

/-- Replaces a row. -/
def Tile.setRow (t : Tile) (r : Nat) (ps : List Nat) : Tile := { t with rows := mset 0 t.rows r (BitVec.ofNat 3072 (packW 32 ps)) }

/-- A tile number exists on a core cut s ways below 8 / s (R109). -/
def Hart.tileOk (h : Hart) (t : Nat) : Bool := decide (t < 8 / h.cut)

/-- The value of an element of a tile. -/
def Tile.val (t : Tile) (p : Nat) : Val := if t.isInt then .ofInt (sgn 32 p) else f32Val p

/-- The runs of `n` single registers from v(a) on. -/
def rowRuns (a n : Nat) : List VRun := (List.range n).map fun r => (a + r, 1)

/-- The group 16h + r of `n` rows. -/
def rowNums (h n : Nat) : List Nat := (List.range n).map fun r => 16 * h + r

/-! ### Planes (R230 to R233, R412, R413) -/

/-- The formats of R228. -/
def Fmt.isMatrix (f : Fmt) : Bool := decide (mtileK f ≠ 0)

/-- Element [k][j] of a plane; rows not loaded read zero. -/
def Plane.at (p : Plane) (f : Fmt) (k j : Nat) : Val :=
  let x := bitsAt (mget 0 p.data k).toNat (f.bits * j) f.bits
  if f.isMx then
    if k < p.rows then mxVal f x (bitsAt (mget 0 p.scales (k / 32)).toNat (8 * j) 8) else .fin false 0 1
  else decodeVal f x

/-- MLDS from memory: the operands are x(a) to x(a + 3). -/
def State.mldsMem (s : State) (a : Reg) : Except Stop State :=
  let h := s.hart
  let w := (h.rx (a.toNat + 2)).toNat
  let rows := w / 64 % 1024
  match Fmt.ofCode (w % 64) with
  | none => .error .illegal
  | some f =>
    if !f.isMatrix || !h.fmtOk f || decide (w / 2 ^ 16 ≠ 0) || decide (rows = 0) || decide (mtileK f < rows) ||
        (f.isMx && decide (124 < a.toNat)) then .error .illegal
    else
      let addr := (s.rx a).toNat
      let stride := (h.rx (a.toNat + 1)).toNat
      let scales := (h.rx (a.toNat + 3)).toNat
      let at_ (k : Nat) : Nat := (addr + k * stride) % 2 ^ 64
      let spans := ((List.range rows).map fun k => (at_ k, at_ k + rowBytes f)) ++
        (if f.isMx then [(scales, scales + ceilDiv rows 32 * 96)] else [])
      if spans.any fun r => s.ritHit h r.1 r.2 then .error (.wait s)
      else
        let r := s.loadPlane (s.sampled h) f rows addr stride scales
        let put (g : Hart) : State := { s with hart := { g with shadow := r.1 } }
        match r.2 with
        | some (e, i, va) => .error (.trapKeep (put h) (if e = .poison then .poison else .loadfault) (BitVec.ofNat 64 va) i)
        | none => .ok (put (s.takeSamples h (spans.flatMap fun r => [r.1, (r.2 - 1) % 2 ^ 64])))

/-- The bytes that one register gives a plane (R124, R133): those of a PLAIN register, the expanded elements of another. -/
def Hart.planeBytes (h : Hart) (w : Nat) : Except Stop Nat :=
  let r := h.vreg w
  if r.desc.enc = .plain then .ok (r.data.toNat % 2 ^ (8 * h.vlgrant))
  else match h.readGroup w 1 1 with
    | .error e => .error e
    | .ok v => .ok (packW v.fmt.bits (fitLen (perReg h.vlgrant v.fmt.bits) v.elems))

/-- The array that `n` registers from `w` on give a plane. -/
def Hart.planeArr (h : Hart) (w : Nat) : Nat → Except Stop Nat
  | 0 => .ok 0
  | n + 1 =>
    match h.planeBytes w with
    | .error e => .error e
    | .ok x =>
      match h.planeArr (w + 1) n with
      | .error e => .error e
      | .ok y => .ok (x + y * 2 ^ (8 * h.vlgrant))

/-- MLDS from `n` registers, read as one array of bytes. -/
def State.mldsRegs (s : State) (a n : Nat) : Except Stop State :=
  match s.vecReady (rowRuns a n) [] 0 with
  | .error e => .error e
  | .ok _ => s.withPops (rowRuns a n) fun t =>
    let h := t.hart
    let rs := h.vregs (h.wb.toNat + a) n
    let f := (h.vreg (h.wb.toNat + a)).desc.fmt
    if !(rs.all fun r => decide (r.desc.fmt = f) && !r.desc.cont && !r.desc.untyped) || !f.isMatrix || f.isMx then .error .opfmt
    else match h.planeArr (h.wb.toNat + a) n with
      | .error e => .error e
      | .ok arr =>
        let rows := min (mtileK f) (n * h.vlgrant * 8 / (96 * f.bits))
        let data := (List.range rows).map fun k => (k, BitVec.ofNat 3072 (bitsAt arr (8 * rowBytes f * k) (8 * rowBytes f)))
        .ok { t with hart := { h with shadow := { fmt := some f, rows := rows,
                                                  data := data.foldl (fun m r => mset 0 m r.1 r.2) [] } } }

/-- MLDS: h = 0 from memory, h = 1 from n registers. -/
def execMlds (a : Reg) (h : BitVec 4) (n : Reg) (s : State) : Outcome State Fault Refusal :=
  complete (.mlds a h n) s
    (if s.hart.cut ≠ 1 then .error .illegal
     else if h = 0 then s.mldsMem a
     else s.mldsRegs a.toNat (rowsOf n))

/-- MSWAP. -/
def execMswap (s : State) : Outcome State Fault Refusal :=
  complete .mswap s
    (if s.hart.cut ≠ 1 then .error .illegal
     else .ok { s with hart := { s.hart with active := s.hart.shadow, shadow := s.hart.active } })

/-! ### MMA (R229, R236 to R238, R414) -/

/-- The A rows of an MMA: their format, whether the wide channels of R238 apply, and the values of elements below VL. -/
structure ARows where
  fmt : Fmt
  wide : Bool
  rows : List (List Val)

/-- The vectors of `n` registers from v(a) on, each of one register, an encoded one expanded (R133). -/
def Hart.rowVecs (h : Hart) : Nat → Nat → Except Stop (List Vec)
  | _, 0 => .ok []
  | a, n + 1 =>
    match h.readGroup (h.wb.toNat + a) 1 1 with
    | .error e => .error e
    | .ok v =>
      match h.rowVecs (a + 1) n with
      | .error e => .error e
      | .ok vs => .ok (v :: vs)

/-- A row's values, those of the wide channels from the register of the following group. -/
def Hart.wideRow (h : Hart) (v : Vec) (w : Option Vec) : List Val :=
  (List.range h.vl).map fun k =>
    match w with
    | none => (v.valAt k).1
    | some x => if h.wideAt k then (x.valAt k).1 else (v.valAt k).1

/-- Whether some wide channel lies below VL. -/
def Hart.anyWide (h : Hart) : Bool := (List.range h.vl).any h.wideAt

/-- Reads the A rows: one tag, a matrix operand format. -/
def Hart.aRows (h : Hart) (a n : Nat) : Except Stop ARows :=
  match h.rowVecs a n with
  | .error e => .error e
  | .ok vs =>
    let f := (vs.head?.map Vec.fmt).getD .i8
    let wide := h.outl && (decide (f = .i8) || decide (f = .i4))
    if !(vs.all fun v => decide (v.fmt = f)) || !f.isMatrix then .error .opfmt
    else if wide && h.anyWide then
      match h.rowVecs (a + n) n with
      | .error e => .error e
      | .ok ws =>
        if ws.all fun v => decide (v.fmt = .bf16) then
          .ok ⟨f, true, (List.zip vs ws).map fun x => h.wideRow x.1 (some x.2)⟩
        else .error .opfmt
    else .ok ⟨f, wide, vs.map fun v => h.wideRow v none⟩

/-- Whether the A operand from v(a) on has wide channels (R238). -/
def Hart.wideA (h : Hart) (a : Nat) : Bool :=
  h.outl && (decide (h.tagOf (h.wb.toNat + a) = .i8) || decide (h.tagOf (h.wb.toNat + a) = .i4))

/-- The registers an MMA reads: its rows, and under OUTL = 1 the group of the wide channels. -/
def Hart.aRuns (h : Hart) (a n : Nat) : List VRun :=
  rowRuns a n ++ (if h.wideA a && h.anyWide then rowRuns (a + n) n else [])

/-- The integer that a finite value is. -/
def Val.toInt : Val → Int
  | .fin s n d => if s then -((n / d : Nat) : Int) else ((n / d : Nat) : Int)
  | .nan => 0
  | .inf _ => 0

/-- A list in pieces of 32. -/
def by32 {α : Type} : Nat → List α → List (List α)
  | 0, _ => []
  | n + 1, l => if l.isEmpty then [] else l.take 32 :: by32 n (l.drop 32)

/-- Adds one exact group sum to an I32 accumulator (R237). -/
def accInt (acc : Int) (g : List (Val × Val)) : Int × Flags :=
  let x := acc + ((g.map fun p => p.1.toInt * p.2.toInt).foldl (· + ·) 0)
  (sgn 32 (patInt 32 x), { of := (clampInt (-(2 ^ 31 : Int)) (2 ^ 31 - 1) x).2 })

/-- Adds one exact group sum to an F32 accumulator (R237). -/
def accGroup (acc : Val) (g : List (Val × Val)) : Val × Flags :=
  let s := dot (g.map Prod.fst) (g.map Prod.snd)
  let r := (Val.add false acc s.val).toF32
  (r.1, r.2.or { nv := s.nv })

/-- One fused step of the F32 class (R237). -/
def accFused (acc : Val) (p : Val × Val) : Val × Flags := (Val.fma false p.1 p.2 acc).toF32

/-- The new pattern of one tile element and its flags (R237); without a step it stands as it is. -/
def mmaElem (isInt f32 : Bool) (old : Nat) (ps : List (Val × Val)) : Nat × Flags :=
  if ps.isEmpty then (old, {})
  else if isInt then let r := foldF accInt (by32 ps.length ps) (sgn 32 old) {}; (patInt 32 r.1, r.2)
  else if f32 then let r := foldF accFused ps (f32Val old) {}; (r.1.f32Bits, r.2)
  else let r := foldF accGroup (by32 ps.length ps) (f32Val old) {}; (r.1.f32Bits, r.2)

/-- One row of results: the A row against every column of the plane. -/
def mmaRow (isInt f32 : Bool) (cols : List (List Val)) (olds : List Nat) (row : List Val) : List Nat × Flags :=
  let rs := (List.zip olds cols).map fun x => mmaElem isInt f32 x.1 (List.zip row x.2)
  (rs.map Prod.fst, rs.foldl (fun f r => f.or r.2) {})

/-- The accumulation of A rows into tile t from row 16h on, against the hart's active plane. -/
def Hart.accumulate (h : Hart) (t g : Nat) (a : ARows) : Except Stop Hart :=
  let bf := h.active.fmt.getD a.fmt
  let isInt := !a.wide && decide (a.fmt = bf) && (decide (bf = .i8) || decide (bf = .i4))
  let tl := h.tile t
  if mtileK a.fmt ≠ mtileK bf ∨ tl.isInt ≠ isInt then .error .opfmt
  else
    let vl := (a.rows.headD []).length
    let cols := (List.range 96).map fun j => (List.range vl).map fun k => h.active.at bf k j
    let rs := (List.zip (rowNums g a.rows.length) a.rows).map fun x =>
      (x.1, mmaRow isInt (decide (mtileK bf = 64)) cols (tl.row x.1) x.2)
    .ok ((h.setTile t (rs.foldl (fun q r => q.setRow r.1 r.2.1) tl)).raise (rs.foldl (fun f r => f.or r.2.2) {}))

/-- The checks of an MMA before it reads: VL, registers and the following group of R238 (ILLEGAL, which R299 puts first), and
the transfers that fill them. -/
def State.mmaReady (s : State) (a n : Nat) : Except Stop Unit :=
  if mtileK s.hart.fmt < s.hart.vl ∨ (s.hart.wideA a ∧ 128 < a + 2 * n) then .error .illegal
  else s.vecReady (s.hart.aRuns a n) [] 0

/-- MMA. -/
def execMma (t : BitVec 3) (a : Reg) (h : BitVec 4) (n : Reg) (s : State) : Outcome State Fault Refusal :=
  complete (.mma t a h n) s
    (if s.hart.cut ≠ 1 then .error .illegal
     else match s.mmaReady a.toNat (rowsOf n) with
     | .error e => .error e
     | .ok _ => s.withPops (s.hart.aRuns a.toNat (rowsOf n)) fun u =>
       match u.hart.aRows a.toNat (rowsOf n) with
       | .error e => .error e
       | .ok r =>
         match u.hart.accumulate t.toNat h.toNat r with
         | .error e => .error e
         | .ok g => .ok { u with hart := g })

/-! ### MMAQ (R239) -/

/-- The fields of a member's MMAQ: tile, row group, rows, first register. -/
structure QuadOp where
  instr : Instr
  t : Nat
  g : Nat
  n : Nat
  a : Nat

/-- The MMAQ that an instruction is. -/
def quadOp (i : Instr) : Option QuadOp :=
  match i with
  | .mmaq t a h n => some ⟨i, t.toNat, h.toNat, rowsOf n, a.toNat⟩
  | _ => none

/-- The members of a quad with the MMAQ each has issued, in rank order: that of the hart whose turn it is, and those that
wait; none until all four have issued. -/
def State.quadOps (s : State) (i : Instr) : Option (List (Nat × QuadOp)) :=
  let hs := sortBy (fun a b => decide (a.crewrank.toNat ≤ b.crewrank.toNat)) (s.crewHarts s.hart.crewid.toNat)
  let ops := hs.filterMap fun h =>
    if h.id = s.hart.id then (quadOp i).map fun q => (h.id, q)
    else if h.run = .running then (h.wait.bind fun w => quadOp w.instr).map fun q => (h.id, q)
    else none
  if ops.length = 4 then some ops else none

/-- The A rows of the leader, its streams popped, which wait for memory that its transfers hold (R119); the hart whose turn it is
leads. -/
def State.leaderRows (s : State) (q : QuadOp) : Except Stop (State × ARows) :=
  match s.mmaReady q.a q.n with
  | .error e => .error e
  | .ok _ =>
    let p := s.popAll (s.hart.aRuns q.a q.n)
    if (s.hart.popped (s.hart.aRuns q.a q.n)).any s.popHeld then .error (.wait s)
    else match p.1.hart.aRows q.a q.n, p.2 with
    | .ok r, none => .ok (p.1, r)
    | .ok _, some e => .error e
    | .error f, none => .error f
    | .error f, some e => if f.code < Cause.streamfault.code then .error f else .error e

/-- What a member's MMAQ makes of its hart, or its trap: `r` are the leader's rows or the trap that they made. -/
def Hart.quadDoes (ln : Nat) (r : Except Stop ARows) (h : Hart) (q : QuadOp) : Except Stop Hart :=
  match r with
  | .error e => .error e
  | .ok a => if q.n ≠ ln ∨ 256 < 16 * q.g + q.n then .error .illegal else h.accumulate q.t q.g a

/-- How one member ends. -/
def State.quadMember (ln : Nat) (r : Except Stop ARows) (s : State) (m : Nat × QuadOp) : State :=
  let t := s.focus m.1
  if t.hart.id ≠ m.1 then s
  else match complete m.2.instr t ((t.hart.quadDoes ln r m.2).map fun g => { t with hart := g }) with
    | .next u => u
    | .fault _ => t
    | .refused _ => t

/-- The state in which the members end, `r` the leader's rows and the state after its stream pops: a leader that traps keeps none of
the pops (R274, R299). -/
def State.quadFrom (s : State) (ld : Nat × QuadOp) (r : State × ARows) : State :=
  match r.1.hart.quadDoes ld.2.n (.ok r.2) ld.2 with
  | .ok _ => r.1
  | .error _ => s

/-- MMAQ of the hart whose turn it is: it waits, or all four end together. -/
def State.mmaqAt (s : State) (i : Instr) : Outcome State Fault Refusal :=
  let cid := s.hart.crewid.toNat
  let quad := ((s.crewOf cid).map Crew.quad).getD false
  if s.hart.cut ≠ 1 || !quad || ((s.crewHarts cid).any Hart.ended) then complete i s (.error .illegal)
  else match s.quadOps i with
    | none => complete i s (.error (.wait s))
    | some [] => complete i s (.error (.wait s))
    | some (ld :: ms) =>
      match (s.focus ld.1).leaderRows ld.2 with
      | .error (.wait _) => complete i s (.error (.wait s))
      | .error e => .next (((ld :: ms).foldl (State.quadMember ld.2.n (.error e)) s).focus s.hart.id)
      | .ok r => .next (((ld :: ms).foldl (State.quadMember ld.2.n (.ok r.2)) (s.quadFrom ld r)).focus s.hart.id)

/-- MMAQ. -/
def execMmaq (t : BitVec 3) (a : Reg) (h : BitVec 4) (n : Reg) (s : State) : Outcome State Fault Refusal := s.mmaqAt (.mmaq t a h n)

/-- MMAQ_MEET: a waiting member looks again whether all four have issued theirs. -/
def execMmaqMeet (s : State) : Outcome State Fault Refusal :=
  s.onWait fun t i =>
    match i with
    | .mmaq d a h n => some (t.mmaqAt (.mmaq d a h n))
    | _ => none

/-! ### MZERO, MLDACC, MMOVA (R415, R416) -/

/-- MZERO. -/
def execMzero (t : BitVec 3) (h : BitVec 4) (s : State) : Outcome State Fault Refusal :=
  complete (.mzero t h) s
    (if !s.hart.tileOk t.toNat then .error .illegal
     else .ok { s with hart := s.hart.setTile t.toNat { isInt := decide (h = 1), rows := [] } })

/-- MLDACC. -/
def execMldacc (t : BitVec 3) (a : Reg) (h : BitVec 4) (n : Reg) (s : State) : Outcome State Fault Refusal :=
  let k := rowsOf n
  complete (.mldacc t a h n) s
    (if !s.hart.tileOk t.toNat || decide (96 < s.hart.vl) then .error .illegal
     else match s.vecReady (rowRuns a.toNat k) [] 0 with
     | .error e => .error e
     | .ok _ => s.withPops (rowRuns a.toNat k) fun u =>
       match u.hart.rowVecs a.toNat k with
       | .error e => .error e
       | .ok vs =>
         let f := (vs.head?.map Vec.fmt).getD .i8
         if !(vs.all fun v => decide (v.fmt = f)) || !(decide (f = .f32) || decide (f = .i32)) then .error .opfmt
         else
           let tl : Tile := { u.hart.tile t.toNat with isInt := decide (f = .i32) }
           let tl := (List.zip (rowNums h.toNat k) vs).foldl (fun q r => q.setRow r.1 (fitLen u.hart.vl r.2.elems)) tl
           .ok { u with hart := u.hart.setTile t.toNat tl })

/-- The conversion of one tile row to VSTAT.FMT (R240): the patterns of columns below VL, the block scales, and the side
effects; inactive columns are not converted. -/
def Hart.drainRow (h : Hart) (t : Tile) (act : List Bool) (r : Nat) (x : Side2) : (List Nat × List Nat) × Side2 :=
  let vs := ((t.row r).take h.vl).map fun p => (t.val p, false)
  let sc := if h.fmt.isMx then mxScales h.fmt act (vs.map Prod.fst) else []
  let rm := if h.rm = .efb then RM.rne else h.rm
  let q := cvtLoop h.fmt rm false (cvtRows act ((mxSource h.fmt act (vs.map Prod.fst)).map fun v => (v, false)) (sc.map Prod.fst) (List.replicate h.vl 0))
    { x with flags := x.flags.or { nv := sc.any Prod.snd } } (.fin false 0 1)
  ((q.1, sc.map Prod.fst), q.2.1)

/-- The conversion of rows in order. -/
def Hart.drainRows (h : Hart) (t : Tile) (act : List Bool) : List Nat → Side2 → List (List Nat × List Nat) × Side2
  | [], x => ([], x)
  | r :: rs, x =>
    let p := h.drainRow t act r x
    let q := h.drainRows t act rs p.2
    (p.1 :: q.1, q.2)

/-- MMOVA. -/
def execMmova (t : BitVec 3) (a : Reg) (h : BitVec 4) (n : Reg) (s : State) : Outcome State Fault Refusal :=
  let k := rowsOf n
  let g := s.hart
  complete (.mmova t a h n) s
    (if !g.tileOk t.toNat || decide (96 < g.vl) || decide (vlmaxOf g.vlgrant 1 g.fmt < g.vl) then .error .illegal
     else match s.vecReady [] (rowRuns a.toNat k) 0 with
     | .error e => .error e
     | .ok _ =>
       let r := g.drainRows (g.tile t.toNat) (List.replicate g.vl true) (rowNums h.toNat k) g.side
       let w := (List.zip (List.range k) r.1).foldl (fun (q : Hart) (x : Nat × List Nat × List Nat) =>
         q.writeGroup (q.wb.toNat + a.toNat + x.1) 1 (plainVec q.fmt x.2.1 x.2.2)) g
       .ok { s with hart := w.settle r.2 })

/-! ### MDRAIN, MDRAINX (R240, R417) -/

/-- The rows a drain writes: tile row, address, patterns, scales. -/
abbrev DrainRow := Nat × Nat × List Nat × List Nat

/-- The elements of a drained row: its active columns. -/
def drainElems (f : Fmt) (act : List Bool) (r : DrainRow) : List SElem :=
  (List.zip (List.range r.2.2.1.length) (List.zip act r.2.2.1)).filterMap fun x =>
    if x.2.1 then some ⟨r.1 * 96 + x.1, (r.2.1 + x.1 * f.bits / 8) % 2 ^ 64, x.2.2⟩ else none

/-- Why an element of a drain faults: as any store, and for MX a row off a block boundary or a column in a scale area. -/
def State.drainFault (s : State) (f : Fmt) (row va : Nat) : Bool :=
  (s.storeFault f.bytes va).isSome || (f.isMx && (!blkStart f row || inScaleArea f va))

/-- The scale cells of a drained row: those of the blocks that have an element written. -/
def State.drainScales (s : State) (f : Fmt) (r : DrainRow) (es : List SElem) : List (Nat × Nat) :=
  if f.isMx then (List.range 3).filterMap fun b =>
    (es.find? fun e => decide ((e.idx - r.1 * 96) / 32 = b)).map fun e => (s.physOf (blkScale f e.va), r.2.2.2.getD b 0)
  else []

/-- Drains rows of tile t: `rows` are tile rows with their addresses. -/
def State.drain (s : State) (t : Nat) (rows : List (Nat × Nat)) : Except Stop State :=
  let h := s.hart
  let f := h.fmt
  let act := (List.range h.vl).map (h.sel 1)
  let r := h.drainRows (h.tile t) act (rows.map Prod.fst) h.side
  let rs : List DrainRow := (List.zip rows r.1).map fun x => (x.1.1, x.1.2, x.2.1, x.2.2)
  let es := rs.flatMap (drainElems f act)
  match s.pageTrap f false es, s.storeWait f (es.map SElem.va) with
  | some e, _ => .error e
  | none, some w => .error w
  | none, none =>
    let good (x : DrainRow) : List SElem := (drainElems f act x).filter fun e => !s.drainFault f x.2.1 e.va
    let bad (x : DrainRow) : List SElem := (drainElems f act x).filter fun e => s.drainFault f x.2.1 e.va
    let s1 := s.writePhys true (s.elemCells f (rs.flatMap good) ++ rs.flatMap fun x => s.drainScales f x (good x))
    let s2 := (s1.dropOld ((rs.flatMap good).map SElem.va)).addFaults 2 ((rs.flatMap bad).map fun e => (e.idx, e.va, Cause.storefault.code))
    .ok { s2 with hart := s2.hart.settle r.2 }

/-- MDRAIN. -/
def State.mdrainAt (s : State) (t : BitVec 3) (a : Reg) (h : BitVec 4) (n : Reg) : Outcome State Fault Refusal :=
  let g := s.hart
  complete (.mdrain t a h n) s
    (if !g.tileOk t.toNat || decide (96 < g.vl) then .error .illegal
     else s.drain t.toNat ((List.range (rowsOf n)).map fun r =>
       (16 * h.toNat + r, ((s.rx a) + BitVec.ofNat 64 r * g.rx (a.toNat + 1)).toNat)))

/-- MDRAINX: rows at or above the LEN of the address group are not written. -/
def State.mdrainxAt (s : State) (t : BitVec 3) (a : Reg) (h : BitVec 4) (n : Reg) : Outcome State Fault Refusal :=
  let reads := [s.hart.gRun a.toNat]
  complete (.mdrainx t a h n) s
    (if !s.hart.tileOk t.toNat || decide (96 < s.hart.vl) then .error .illegal
     else match s.vecReady reads [] 0 with
     | .error e => .error e
     | .ok _ => s.withPops reads fun u =>
       match u.hart.readRun (u.hart.gRun a.toNat) with
       | .error e => .error e
       | .ok v =>
         if v.fmt ≠ .n64 then .error .opfmt
         else u.drain t.toNat (List.zip (rowNums h.toNat (rowsOf n)) v.elems))

/-- MDRAIN. -/
def execMdrain (t : BitVec 3) (a : Reg) (h : BitVec 4) (n : Reg) (s : State) : Outcome State Fault Refusal := s.mdrainAt t a h n
/-- MDRAINX. -/
def execMdrainx (t : BitVec 3) (a : Reg) (h : BitVec 4) (n : Reg) (s : State) : Outcome State Fault Refusal := s.mdrainxAt t a h n

/-! ### The event in which a store performs (R279) -/

/-- The store that an instruction is, issued again. -/
def State.storeAgain (s : State) (i : Instr) : Option (Outcome State Fault Refusal) :=
  match i with
  | .vst d a m => some (s.vstAt d a m)
  | .vsts d a b m => some (s.vstsAt d a b m)
  | .vstx d a b m => some (s.vstxAt d a b m)
  | .vsc d a b m => some (s.vscAt d a b m)
  | .vamoadd d a b m => some (s.vamoaddAt d a b m)
  | .vamomin d a b m => some (s.vamominAt d a b m)
  | .vamomax d a b m => some (s.vamomaxAt d a b m)
  | .vamoswap d a b m => some (s.vamoswapAt d a b m)
  | .vamoand d a b m => some (s.vamoandAt d a b m)
  | .vamoor d a b m => some (s.vamoorAt d a b m)
  | .vamofmax d a b m => some (s.vamofmaxAt d a b m)
  | .vamocas d a b m => some (s.vamocasAt d a b m)
  | .mdrain t a h n => some (s.mdrainAt t a h n)
  | .mdrainx t a h n => some (s.mdrainxAt t a h n)
  | _ => none

/-- VECTOR_STORE_PERFORM: a store, atomic or drain that had to wait performs or faults. -/
def execVectorStorePerform (s : State) : Outcome State Fault Refusal := s.onWait State.storeAgain

end Sys2Proof.Machine
end

