-- ==== Sys2Proof/Machine/Factor.lean ====
section
/-! DEFINITION. Tile factorisations and triangular solves (R241 to R244, R419 to R425). One execution of the instruction
performs one column step, the unit of interruption; the PC moves on after the last. -/

namespace Sys2Proof.Machine

/-! ### F32 patterns -/

/-- Quotient by RNE. -/
def div32 (a b : Nat) : Nat × Flags := (Val.div (f32Val a) (f32Val b)).round .f32 .rne 0

/-- Difference by RNE. -/
def sub32 (a b : Nat) : Nat × Flags := (Val.add false (f32Val a) (f32Val b).negate).round .f32 .rne 0

/-- Product by RNE. -/
def mul32 (a b : Nat) : Nat × Flags := (Val.mul (f32Val a) (f32Val b)).round .f32 .rne 0

/-- a × b + c, fused. -/
def fma32 (a b c : Nat) : Nat × Flags := (Val.fma false (f32Val a) (f32Val b) (f32Val c)).round .f32 .rne 0

/-- a − b × c, fused. -/
def fnma32 (a b c : Nat) : Nat × Flags := (Val.fma false (f32Val b).negate (f32Val c) (f32Val a)).round .f32 .rne 0

/-- Square root by RNE. -/
def sqrt32 (a : Nat) : Nat × Flags := sqrtRound .f32 .rne 0 (f32Val a)

/-- The patterns and the gathered flags of a list. -/
def unzipF (l : List (Nat × Flags)) : List Nat × Flags := (l.map Prod.fst, l.foldl (fun f x => f.or x.2) {})

/-! ### The working state -/

/-- What the column steps work on: the rows of tile t and of the right-hand tile, the elements of the permutation or τ
register, FSTAT's code and column, FGROW, and the flags. -/
structure Fac where
  a : List (List Nat)
  b : List (List Nat) := []
  vec : List Nat := []
  code : Nat := 0
  col : Nat := 0
  grow : Nat := 0
  flags : Flags := {}

/-- Element (i, c). -/
def elemAt (m : List (List Nat)) (i c : Nat) : Nat := (m.getD i []).getD c 0

/-- A row built from column 0 on, by a function of the column and the old element. -/
def mapCols (row : List Nat) (f : Nat → Nat → Nat × Flags) : List Nat × Flags :=
  unzipF ((List.zip (List.range row.length) row).map fun x => f x.1 x.2)

/-- Every row built by a function of its number, with the flags. -/
def mapRows (m : List (List Nat)) (f : Nat → List Nat → List Nat × Flags) : List (List Nat) × Flags :=
  let r := (List.zip (List.range m.length) m).map fun x => f x.1 x.2
  (r.map Prod.fst, r.foldl (fun f x => f.or x.2) {})

/-- FSTAT records the first zero pivot or divisor (R243). -/
def Fac.zeroPiv (s : Fac) (j : Nat) : Fac := if s.code = 0 then { s with code := 1, col := j } else s

/-- Whether |x| ranks above |y| (R421). -/
def ranksAbove (x y : Nat) : Bool :=
  let a := f32Val x
  let b := f32Val y
  if b.isNan then false else a.isNan || b.abs.lt a.abs

/-- The largest magnitude of a list, a NaN if any is one (R244). -/
def maxMag (ps : List Nat) : Val :=
  let vs := ps.map f32Val
  if vs.any Val.isNan then .nan else vs.foldl (fun m v => if m.lt v.abs then v.abs else m) (.fin false 0 1)

/-- The column step of each instruction: order, VL, column; the outcome, and whether the instruction stops (MCHOL). -/
abbrev FacStep := Nat → Nat → Nat → Fac → Fac × Bool

/-! ### The steps (R421 to R424) -/

/-- Exchanges rows j and p over columns below n. -/
def swapRows (m : List (List Nat)) (n j p : Nat) : List (List Nat) :=
  let rj := m.getD j []
  let rp := m.getD p []
  (m.set j (rp.take n ++ rj.drop n)).set p (if p = j then rj else rj.take n ++ rp.drop n)

/-- MLU. -/
def stepMlu : FacStep := fun n _ j s =>
  let p := ((List.range n).filter fun i => decide (j < i)).foldl (fun p i =>
    if ranksAbove (elemAt s.a i j) (elemAt s.a p j) then i else p) j
  let a := swapRows s.a n j p
  let s1 : Fac := { s with a := a, vec := s.vec.set j (p + 1) }
  if (f32Val (elemAt a j j)).isZero then (s1.zeroPiv j, false)
  else
    let r := mapRows a fun i row =>
      if j < i ∧ i < n then
        let l := div32 (row.getD j 0) (elemAt a j j)
        let q := mapCols row fun c x =>
          if c = j then l else if j < c ∧ c < n then fnma32 x l.1 (elemAt a j c) else (x, {})
        q
      else (row, {})
    ({ s1 with a := r.1, flags := s1.flags.or r.2 }, false)

/-- MCHOL. -/
def stepMchol : FacStep := fun n _ j s =>
  let d := f32Val (elemAt s.a j j)
  if !((Val.fin false 0 1).lt d) then ({ s with code := 2, col := j }, true)
  else
    let q := sqrt32 (elemAt s.a j j)
    let ls := (List.range n).map fun i => if j < i then div32 (elemAt s.a i j) q.1 else (0, {})
    let r := mapRows s.a fun i row =>
      if i = j then (row.set j q.1, q.2)
      else if j < i ∧ i < n then
        mapCols row fun c x =>
          if c = j then ls.getD i (0, {})
          else if j < c ∧ c ≤ i then fnma32 x (ls.getD i (0, {})).1 (ls.getD c (0, {})).1 else (x, {})
      else (row, {})
    ({ s with a := r.1, flags := s.flags.or r.2 }, false)

/-- Σ over rows j < i < n of x_i × y_i + start, ascending, fused (R423). -/
def fmaDown (ps : List (Nat × Nat)) (start : Nat) : Nat × Flags := foldF (fun w p => fma32 p.1 p.2 w) ps start {}

/-- MQR. -/
def stepMqr : FacStep := fun n _ j s =>
  let below := (List.range n).filter fun i => decide (j < i)
  let al := elemAt s.a j j
  let sg := fmaDown (below.map fun i => (elemAt s.a i j, elemAt s.a i j)) 0
  if (f32Val sg.1).isZero then ({ s with vec := s.vec.set j 0, flags := s.flags.or sg.2 }, false)
  else
    let sq := fma32 al al sg.1
    let nrm := sqrt32 sq.1
    let beta := if (f32Val al).isZero || (Val.fin false 0 1).lt (f32Val al) then (f32Val nrm.1).negate.f32Bits else nrm.1
    let t0 := sub32 beta al
    let tau := div32 t0.1 beta
    let den := sub32 al beta
    let hs := below.map fun i => div32 (elemAt s.a i j) den.1
    let hv := hs.map Prod.fst
    let ws := (List.range n).map fun c =>
      if j < c then
        let w := fmaDown (List.zip hv (below.map fun i => elemAt s.a i c)) (elemAt s.a j c)
        let w2 := mul32 tau.1 w.1
        (w2.1, w.2.or w2.2)
      else (0, {})
    let r := mapRows s.a fun i row =>
      if i = j then
        mapCols row fun c x =>
          if c = j then (beta, {}) else if j < c ∧ c < n then sub32 x (ws.getD c (0, {})).1 else (x, {})
      else if j < i ∧ i < n then
        mapCols row fun c x =>
          if c = j then (hv.getD (i - j - 1) 0, {})
          else if j < c ∧ c < n then fnma32 x (hv.getD (i - j - 1) 0) (ws.getD c (0, {})).1 else (x, {})
      else (row, {})
    let fl := (ws.foldl (fun f x => f.or x.2) (hs.foldl (fun f x => f.or x.2) r.2)).or
      (((sg.2.or sq.2).or (nrm.2.or t0.2)).or (tau.2.or den.2))
    ({ s with a := r.1, vec := s.vec.set j tau.1, flags := s.flags.or fl }, false)

/-- A step of a triangular solve: column j of the triangle, and the rows it updates. -/
def stepSolve (unit : Bool) (upd : Nat → Nat → Bool) : FacStep := fun n vl j s =>
  let dj := elemAt s.a j j
  let s1 := if !unit && (f32Val dj).isZero then s.zeroPiv j else s
  let xs := (List.range vl).map fun c => if unit then (elemAt s.b j c, {}) else div32 (elemAt s.b j c) dj
  let r := mapRows s.b fun i row =>
    if i = j then mapCols row fun c x => if c < vl then xs.getD c (0, {}) else (x, {})
    else if upd i j && decide (i < n) then
      mapCols row fun c x => if c < vl then fnma32 x (elemAt s.a i j) (xs.getD c (0, {})).1 else (x, {})
    else (row, {})
  ({ s1 with b := r.1, flags := s1.flags.or r.2 }, false)

/-! ### The frame (R420) -/

/-- What distinguishes the five instructions. -/
structure FacOp where
  instr : Instr
  f : Nat
  t : Nat
  n : Nat
  /-- right-hand tile of a solve -/
  rhs : Option Nat := none
  /-- permutation or τ register, and its format -/
  reg : Option (Nat × Fmt) := none
  down : Bool := false
  step : FacStep

/-- G' of R419. -/
def facGroup (grant n : Nat) (f : Fmt) : Nat :=
  let need := n * (f.bits / 8)
  if need ≤ grant then 1 else if need ≤ 2 * grant then 2 else if need ≤ 4 * grant then 4 else 8

/-- The run of the permutation or τ register. -/
def Hart.facRuns (h : Hart) (o : FacOp) : List VRun :=
  match o.reg with
  | none => []
  | some (r, f) => [(r, facGroup h.vlgrant o.n f)]

/-- The elements of the permutation or τ register below FSTEP, as bit patterns whatever its tag; zeros above. -/
def Hart.facVec (h : Hart) (o : FacOp) : List Nat :=
  match o.reg with
  | none => []
  | some (r, f) =>
    let g := facGroup h.vlgrant o.n f
    let p := (plainGroup f (perReg h.vlgrant f.bits) (h.vregs (h.wb.toNat + r) g)).1
    fitLen o.n (p.take h.fstep.toNat)

/-- The block's largest magnitude, as FGROW holds it from step 0 on. -/
def Fac.growStart (s : Fac) (n : Nat) : Nat := (maxMag ((s.a.take n).flatMap fun r => r.take n)).f32Bits

/-- FGROW at completion (R244); a NaN comes before an FGROW of 0 (log). -/
def Fac.growEnd (s : Fac) (n : Nat) : Nat × Flags :=
  let u := maxMag ((List.zip (List.range n) (s.a.take n)).flatMap fun x => (x.2.take n).drop x.1)
  let m := f32Val s.grow
  if u.isNan || m.isNan then (Val.nan.f32Bits, {})
  else if m.isZero then (0x3F800000, {})
  else (Val.div u m).round .f32 .rne 0

/-- The working state at the step that FSTEP names. -/
def Hart.facLoad (h : Hart) (o : FacOp) : Fac :=
  let rows (t : Nat) : List (List Nat) := (List.range 96).map (h.tile t).row
  let s : Fac := { a := rows o.t, b := (o.rhs.map rows).getD [], vec := h.facVec o,
                   code := if h.fstep = 0 then 0 else h.fstatCode.toNat, col := if h.fstep = 0 then 0 else h.fstatCol.toNat,
                   grow := h.fgrow.toNat }
  if o.f = 0 ∧ h.fstep = 0 then { s with grow := s.growStart o.n } else s

/-- A tile with its first rows replaced. -/
def Tile.setRows (t : Tile) (rs : List (List Nat)) : Tile :=
  (List.zip (List.range rs.length) rs).foldl (fun q r => q.setRow r.1 r.2) t

/-- The working state put back into the hart. -/
def Hart.facStore (h : Hart) (o : FacOp) (s : Fac) (next : Nat) : Hart :=
  let g := h.setTile o.t ((h.tile o.t).setRows s.a)
  let g := match o.rhs with
    | none => g
    | some t => g.setTile t ((g.tile t).setRows s.b)
  let g := match o.reg with
    | none => g
    | some (r, f) => g.writeGroup (g.wb.toNat + r) (facGroup g.vlgrant o.n f) (plainVec f s.vec)
  { g.raise s.flags with
    fstep := BitVec.ofNat 7 next, fstatCode := BitVec.ofNat 2 s.code, fstatCol := BitVec.ofNat 7 s.col,
    fstatOpf := BitVec.ofNat 3 o.f, fgrow := BitVec.ofNat 32 s.grow }

/-- One column step; whether the instruction has ended. -/
def Hart.facStep (h : Hart) (o : FacOp) : Hart × Bool :=
  let k := h.fstep.toNat
  let r := o.step o.n h.vl (if o.down then o.n - 1 - k else k) (h.facLoad o)
  if r.2 then (h.facStore o r.1 0, true)
  else if k + 1 < o.n then (h.facStore o r.1 (k + 1), false)
  else
    let e := if o.f = 0 then r.1.growEnd o.n else (r.1.grow, {})
    (h.facStore o { r.1 with grow := e.1, flags := r.1.flags.or e.2 } 0, true)

/-- The checks of R241, R242 and R419. -/
def State.facReady (s : State) (o : FacOp) : Except Stop Unit :=
  let h := s.hart
  let solve := o.rhs.isSome
  if !h.feat 2 || !h.tileOk o.t || !((o.rhs.map h.tileOk).getD true) || (solve && decide (96 < h.vl)) ||
      (decide (h.fstep ≠ 0) && (decide (o.n ≤ h.fstep.toNat) || decide (h.fstatOpf.toNat ≠ o.f))) then .error .illegal
  else match s.vecReady [] (h.facRuns o) 0 with
    | .error e => .error e
    | .ok _ => if (h.tile o.t).isInt || ((o.rhs.map fun t => (h.tile t).isInt).getD false) then .error .opfmt else .ok ()

/-- A factorisation: one column step, with the PC kept until the last. -/
def State.factor (s : State) (o : FacOp) : Outcome State Fault Refusal :=
  match s.facReady o with
  | .error e => complete o.instr s (.error e)
  | .ok _ =>
    let r := s.hart.facStep o
    if r.2 then complete o.instr s (.ok { s with hart := r.1 })
    else .next { s with hart := { r.1 with wait := none } }

/-- MLU. -/
def execMlu (t : BitVec 3) (a n : Reg) (s : State) : Outcome State Fault Refusal :=
  s.factor { instr := .mlu t a n, f := 0, t := t.toNat, n := n.toNat, reg := some (a.toNat, .i16), step := stepMlu }

/-- MCHOL. -/
def execMchol (t : BitVec 3) (n : Reg) (s : State) : Outcome State Fault Refusal :=
  s.factor { instr := .mchol t n, f := 1, t := t.toNat, n := n.toNat, step := stepMchol }

/-- MQR. -/
def execMqr (t : BitVec 3) (a n : Reg) (s : State) : Outcome State Fault Refusal :=
  s.factor { instr := .mqr t a n, f := 2, t := t.toNat, n := n.toNat, reg := some (a.toNat, .f32), step := stepMqr }

/-- MTRSML. -/
def execMtrsml (t : BitVec 3) (h : BitVec 4) (n : Reg) (unit : BitVec 1) (s : State) : Outcome State Fault Refusal :=
  s.factor { instr := .mtrsml t h n unit, f := 3, t := t.toNat, n := n.toNat, rhs := some h.toNat,
             step := stepSolve (decide (unit = 1)) fun i j => decide (j < i) }

/-- MTRSMU. -/
def execMtrsmu (t : BitVec 3) (h : BitVec 4) (n : Reg) (unit : BitVec 1) (s : State) : Outcome State Fault Refusal :=
  s.factor { instr := .mtrsmu t h n unit, f := 4, t := t.toNat, n := n.toNat, rhs := some h.toNat, down := true,
             step := stepSolve (decide (unit = 1)) fun i j => decide (i < j) }

end Sys2Proof.Machine
end

