-- ==== Sys2Proof/Machine/Host.lean ====
section
/-! DEFINITION. The host's side: writes to the management and readback windows (R35, R42 to R45), the commands of Table 8
other than APPLOAD (R15, R45, R47, R49), and the message channel (R50 to R53, R57). -/

namespace Sys2Proof.Machine

/-! ### Registers written by bytes -/

/-- A word with some of its bytes replaced: pairs of byte index and value. -/
def mergeBytes (w : Word) : List (Nat × Byte) → Word
  | [] => w
  | (i, b) :: bs =>
    mergeBytes (BitVec.ofNat 64 (w.toNat % 2 ^ (8 * i) + b.toNat * 2 ^ (8 * i) + w.toNat / 2 ^ (8 * i + 8) * 2 ^ (8 * i + 8))) bs

/-- The bytes of a write cut at the words they fall in: word index, and byte index with value. -/
def splitWords (at_ : Nat) (bs : List Byte) : List (Nat × List (Nat × Byte)) :=
  let cells := (List.zip (List.range bs.length) bs).map fun x => (at_ + x.1, x.2)
  (distinct (cells.map fun c => c.1 / 8) []).map fun w =>
    (w, (cells.filter fun c => decide (c.1 / 8 = w)).map fun c => (c.1 % 8, c.2))

/-! ### Commands (R45) -/

/-- The event of a command code. -/
def cmdEvent (code : Nat) : Instr :=
  match code with
  | 1 => .appload
  | 2 => .appkill
  | 3 => .appstat
  | 4 => .powercap
  | 5 => .tenantset
  | _ => .cmdReservedCode

/-- Argument register i of the command block. -/
def State.cmdArg (s : State) (i : Nat) : Nat := (mget 0 s.cmdArgs i).toNat

/-- The command ends with a result and MSI-X vector 0. -/
def State.endCmd (s : State) (r : Word) : State := ({ s with cmdGo := false, cmdRes := r } : State).raiseMsix 0

/-- A write of 1 to GO. -/
def State.startCmd (s : State) : State :=
  let t := { s with cmdGo := true, cmdRes := 0, cmdDetIndex := 0, cmdDetSect := 0 }
  if s.dstat = .ready then t.postFront (cmdEvent s.cmdCode.toNat) else t.endCmd eBusy

/-- A command of the codes that `p` admits acts when it has been started. -/
def State.command (s : State) (p : Nat → Bool) (f : State → State) : Outcome State Fault Refusal :=
  .next (if s.cmdGo && p s.cmdCode.toNat then f s else s)

/-- The slot of an application ID in use (R40). -/
def State.slotOf (s : State) (id : Nat) : Option Nat :=
  let a := s.app (id % 64)
  if a.state ≠ .unused ∧ a.loads = id / 64 then some (id % 64) else none

/-- POWERCAP. -/
def execPowercap (s : State) : Outcome State Fault Refusal :=
  s.command (fun c => decide (c = 4)) fun s => (s.setCap (s.cmdArg 0)).endCmd (num (capOf (s.cmdArg 0)))

/-- POWER_CAP_TAKE_EFFECT. -/
def execPowerCapTakeEffect (s : State) : Outcome State Fault Refusal :=
  match s.capPending with
  | none => .next s
  | some c => .next { s with powerCap := c, capPending := none }

/-- TENANTSET (R47): bits [63:10] of FEATMASK are reserved and read zero (R117); a tenant above 63 is E_INVAL (log). -/
def execTenantset (s : State) : Outcome State Fault Refusal :=
  s.command (fun c => decide (c = 5)) fun s =>
    let t := s.cmdArg 0
    if 63 < t then s.endCmd eInval
    else if s.apps.any fun a => decide (a.2.state ≠ .unused) && decide (a.2.tenant = t) then s.endCmd eBusy
    else ({ s with tenants := mset {} s.tenants t { s.tenantOf t with featmask := BitVec.ofNat 64 ((s.cmdArg 1) % 1024) } } : State).endCmd 0

/-- APPKILL (R49). -/
def execAppkill (s : State) : Outcome State Fault Refusal :=
  s.command (fun c => decide (c = 2)) fun s =>
    match s.slotOf (s.cmdArg 0) with
    | none => s.endCmd eNoent
    | some k => (if (s.app k).state = .running then s.endApp k (BitVec.ofNat 32 (s.cmdArg 1)) else s).endCmd 0

/-- APPSTAT: the first answer EXITED frees the slot. -/
def execAppstat (s : State) : Outcome State Fault Refusal :=
  s.command (fun c => decide (c = 3)) fun s =>
    match s.slotOf (s.cmdArg 0) with
    | none => s.endCmd eNoent
    | some k =>
      let a := s.app k
      if a.state = .running then s.endCmd 1
      else (s.setApp k { loads := a.loads }).endCmd (num (2 + a.exit.toNat * 2 ^ 32))

/-- CMD_RESERVED_CODE. -/
def execCmdReservedCode (s : State) : Outcome State Fault Refusal :=
  s.command (fun c => decide (c = 0) || decide (6 ≤ c)) fun s => s.endCmd eInval

/-! ### Messages (R50 to R53, R57) -/

/-- LEN of a slot. -/
def slotLen (hdr : Nat) : Nat := bitsAt hdr 16 16

/-- Byte i of a slot. -/
def State.slotByte (s : State) (n : Nat) (d2h : Bool) (m i : Nat) : Nat :=
  bitsAt (mget 0 s.chan (slotWord n d2h m + i / 8)).toNat (8 * (i % 8)) 8

/-- The next slot of a direction. -/
def State.nextSlot (s : State) (n : Nat) (d2h : Bool) : Nat := mget 0 (if d2h then s.d2hNext else s.h2dNext) n

/-- The next slot of the host-to-device direction passes on. -/
def State.passH2d (s : State) (n : Nat) : State := { s with h2dNext := mset 0 s.h2dNext n ((s.nextSlot n false + 1) % 64) }

/-- FULL host-to-device slots with a LEN above 2,032 are freed and counted (R52). -/
def State.dropLong (s : State) (n : Nat) : Nat → State
  | 0 => s
  | k + 1 =>
    let m := s.nextSlot n false
    let h := s.slotHdr n false m
    if h % 256 = 1 ∧ 2032 < slotLen h then
      let t := (s.setSlotState n false m 0).passH2d n
      ({ t with chanErr := mset 0 t.chanErr n (mget 0 t.chanErr n + 1) } : State).dropLong n k
    else s

/-- RECV: the next message, a wait, or the error. -/
def State.recv (s : State) (k : Nat) (buf len limit : Word) : State :=
  let t := s.dropLong k 64
  let m := t.nextSlot k false
  let h := t.slotHdr k false m
  if h % 256 ≠ 1 then t.block k (.recv buf len) limit
  else if len.toNat < 8 + slotLen h then t.answer (.ctl k) eRange
  else if t.bufOk k ctlWho buf.toNat (8 + slotLen h) then
    let bs := wordBytes (mget 0 t.chan (slotWord k false m + 1)).toNat ++
      (List.range (slotLen h)).map fun i => t.slotByte k false m (16 + i)
    (((t.writeFor k ctlWho buf.toNat bs).setSlotState k false m 0).passH2d k).answer (.ctl k) (num (slotLen h))
  else t.answer (.ctl k) eInval

/-- The words of a message: header, TAG, payload. -/
def slotWords (bs : List Nat) : List Nat :=
  (1 + (bs.length - 8) * 2 ^ 16) :: ((List.range (ceilDiv bs.length 8)).map fun i => leNat ((bs.drop (8 * i)).take 8))

/-- SEND: the message written, a wait, or the error. -/
def State.send (s : State) (k : Nat) (buf len limit : Word) : State :=
  if 2032 < len.toNat then s.answer (.ctl k) eInval
  else match s.readFor k ctlWho buf.toNat (8 + len.toNat) with
    | none => s.answer (.ctl k) eInval
    | some bs =>
      let m := s.nextSlot k true
      if s.slotHdr k true m % 256 = 1 then s.block k (.send buf len) limit
      else
        let ws := slotWords bs
        let ch := (List.zip (List.range ws.length) ws).foldl (fun c x =>
          mset 0 c (slotWord k true m + x.1) (BitVec.ofNat 64 x.2)) s.chan
        (({ s with chan := ch, d2hNext := mset 0 s.d2hNext k ((m + 1) % 64) } : State).raiseMsix (1 + k)).answer (.ctl k) len

/-- A waiting HOSTMSG looks again; its time limit stands. -/
def State.resumeMsg (s : State) (k : Nat) : State :=
  match (s.app k).pend with
  | none => s
  | some p =>
    let t := s.setApp k { s.app k with pend := none }
    let u := match p.kind with
      | .recv b l => t.recv k b l forever
      | .send b l => t.send k b l forever
      | .wait _ => s
      | .collective _ => s
      | .wsload => s
      | .migrate => s
      | .store _ _ => s
      | .amo _ _ _ _ => s
    if (u.app k).pend.isSome then u.setApp k { u.app k with pend := some p } else u

/-- H2D_MESSAGE: Riura finds a slot FULL, drops those too long, and serves a waiting RECV. -/
def execH2dMessage (s : State) : Outcome State Fault Refusal :=
  let k := s.inp.n % 64
  let t := s.dropLong k 64
  .next (if t.slotHdr k false (t.nextSlot k false) % 256 = 1 then t.resumeMsg k else t)

/-- D2H_SLOT_RELEASE: the slot is free, and a waiting SEND is served. -/
def execD2hSlotRelease (s : State) : Outcome State Fault Refusal :=
  let k := s.inp.n % 64
  .next ((s.setSlotState k true (s.inp.m % 64) 0).resumeMsg k)

/-- HOSTMSG SEND. -/
def execHostmsgSend (s : State) : Outcome State Fault Refusal :=
  s.service true false fun s k _ => if s.inp.a1 = 0 then s.send k s.inp.a2 s.inp.a3 s.inp.a4 else s.ret eInval

/-- HOSTMSG RECV; a direction that is neither is a reserved value. -/
def execHostmsgRecv (s : State) : Outcome State Fault Refusal :=
  s.service true false fun s k _ => if s.inp.a1 = 1 then s.recv k s.inp.a2 s.inp.a3 s.inp.a4 else s.ret eInval

/-- HOSTMSG_TIMEOUT. -/
def execHostmsgTimeout (s : State) : Outcome State Fault Refusal :=
  .next (s.timeOut fun p =>
    match p with
    | .send _ _ => true
    | .recv _ _ => true
    | .wait _ => false
    | .collective _ => false
    | .wsload => false
    | .migrate => false
    | .store _ _ => false
    | .amo _ _ _ _ => false)

/-! ### Register writes -/

/-- The channel and slot of a channel word: channel, direction, slot, word within the slot. -/
def chanPlace (w : Nat) : Option (Nat × Bool × Nat × Nat) :=
  let o := w * 8
  if o < 0x1000000 ∨ 0x1000000 + 64 * 0x40000 ≤ o then none
  else
    let c := o - 0x1000000
    some (c / 0x40000, decide (0x20000 ≤ c % 0x40000), c % 0x20000 / 2048, c % 2048 / 8)

/-- A write to a word of BAR0; one that writes GO while GO reads 1 is ignored whole (R45). A device-to-host STATE other than 1 frees
its slot, and a waiting SEND is served (R51, R52). -/
def State.bar0Write (s : State) (w : Nat) (bs : List (Nat × Byte)) : State :=
  if w = 0x1000 / 8 then
    let t := match bs.find? fun b => decide (b.1 = 0) with
      | none => s
      | some b => { s with cmdCode := b.2 }
    let go := bs.any fun b => decide (b.1 = 7) && b.2.getLsbD 7
    if !go then t else if s.cmdGo then s else t.startCmd
  else if 0x1008 / 8 ≤ w ∧ w ≤ 0x1030 / 8 then
    { s with cmdArgs := mset 0 s.cmdArgs (w - 0x1008 / 8) (mergeBytes (mget 0 s.cmdArgs (w - 0x1008 / 8)) bs) }
  else match chanPlace w with
    | none => s
    | some (n, d2h, m, i) =>
      let t := { s with chan := mset 0 s.chan w (mergeBytes (mget 0 s.chan w) bs) }
      if i = 0 && bs.any fun b => decide (b.1 = 0) then
        if d2h then (if t.slotHdr n true m % 256 ≠ 1 && !t.locked then t.resumeMsg n else t)
        else if t.slotHdr n false m % 256 = 1 then t.later .h2dMessage { n := n, m := m } else t
      else t

/-- The event of a readback space. -/
def rbEvent (space : Nat) : Instr :=
  match space with
  | 0 => .readbackHartState
  | 1 => .readbackEngineQueue
  | 2 => .readbackSaveArea
  | 3 => .readbackErrorLog
  | 4 => .readbackLinkStatus
  | 5 => .readbackMemory
  | 6 => .readbackAlwaysOnLog
  | _ => .readbackBadSpace

/-- A write of 1 to RBCTL.GO starts a read of what the registers now name. -/
def State.startRb (s : State) : State :=
  ({ s with rbGo := true, rbCode := 1, rbFirst := 0, rbEnd := none,
            rbReq := ⟨s.rbSpace, s.rbFreeze, s.rbCount, s.rbAddr⟩ } : State).later (rbEvent s.rbSpace.toNat)

/-- RBCTL but for GO. -/
def State.rbCtl (s : State) : Nat := s.rbSpace.toNat + s.rbFreeze.toNat * 16 + s.rbCount.toNat * 32

/-- A write to a word of the readback window; it answers while the standby rail is good (R34). One that writes GO while GO reads 1
is ignored whole (R38). -/
def State.rbWrite (s : State) (w : Nat) (bs : List (Nat × Byte)) : State :=
  if !s.standbyRail then s
  else if w = 0 then
    let go := bs.any fun b => decide (b.1 = 7) && b.2.getLsbD 7
    let v := mergeBytes (BitVec.ofNat 64 s.rbCtl) bs
    let t := { s with rbSpace := BitVec.ofNat 4 v.toNat, rbFreeze := v.getLsbD 4, rbCount := BitVec.ofNat 7 (v.toNat / 32) }
    if !go then t else if s.rbGo then s else t.startRb
  else if w = 1 then { s with rbAddr := BitVec.ofNat 52 (mergeBytes (s.rbAddr.zeroExtend 64) bs).toNat }
  else s

/-! ### What a read of the windows returns (R35, R42, R43, R45) -/

/-- Whether Riura has reported, which fills the version registers (step 7 of Table 7, log). -/
def State.riuraUp (s : State) : Bool := decide (7 ≤ s.bringStep)

/-- APPMAP. -/
def State.appMap (s : State) : Nat :=
  ((List.range 64).filter fun n => decide ((s.app n).state ≠ .unused)).foldl (fun m n => m + 2 ^ n) 0

/-- The word of BAR0 at an offset of 8 × w; what is not listed reads zero. -/
def State.bar0Read (s : State) (w : Nat) : Word :=
  if w = 0 then BitVec.ofNat 64 (s.dstat.code + s.dcause.toNat * 2 ^ 4)
  else if w = 1 then (if s.riuraUp then BitVec.ofNat 64 (Config.riuraVersion.toNat + 3 * 2 ^ 48) else 0)
  else if w = 2 then (if s.riuraUp then BitVec.ofNat 64 (3 + Config.scoMinor.toNat * 2 ^ 8) else 0)
  else if w = 3 then BitVec.ofNat 64 s.appMap
  else if w = 0x1000 / 8 then BitVec.ofNat 64 (s.cmdCode.toNat + s.cmdGo.toNat * 2 ^ 63)
  else if 0x1008 / 8 ≤ w ∧ w ≤ 0x1030 / 8 then mget 0 s.cmdArgs (w - 0x1008 / 8)
  else if w = 0x1040 / 8 then s.cmdRes
  else if w = 0x1048 / 8 then BitVec.ofNat 64 (s.cmdDetIndex.toNat + s.cmdDetSect.toNat * 2 ^ 32)
  else if (chanPlace w).isSome then mget 0 s.chan w
  else 0

/-- The word of the readback window at an offset of 8 × w. -/
def State.rbRead (s : State) (w : Nat) : Word :=
  if w = 0 then BitVec.ofNat 64 (s.rbCtl + s.rbGo.toNat * 2 ^ 63)
  else if w = 1 then s.rbAddr.zeroExtend 64
  else if w = 2 then BitVec.ofNat 64 (s.rbCode + s.rbFirst % 128 * 2 ^ 4)
  else if 0x40 / 8 ≤ w ∧ w < 0x440 / 8 then mget 0 s.rbData (w - 0x40 / 8)
  else 0

/-- MGMT_REGISTER_WRITE: the input's bytes at offset n of its window. -/
def execMgmtRegisterWrite (s : State) : Outcome State Fault Refusal :=
  .next ((splitWords s.inp.n s.inp.data).foldl (fun t x =>
    match s.inp.win with
    | .bar0 => if t.tripped then t else t.bar0Write x.1 x.2
    | .readback => t.rbWrite x.1 x.2) s)

end Sys2Proof.Machine
end

