-- ==== Sys2Proof/Machine/Kv.lean ====
section
/-! DEFINITION. Token translation (R271, R272, R394), timed waits (R225, R398), the handover of pages (R219, R220, R270,
R403), and the decode chain (R273, R426, R427). -/

namespace Sys2Proof.Machine

/-! ### VTRANS and VTRANSFF -/

/-- A field of memory read through the strip's samples. -/
def State.readField (s : State) (va n : Nat) : Except MemFault Nat := s.readElem (s.sampled s.hart) va n

/-- The header of a block table (R271): NBLK and ROWB, none where a reserved field or ROWB is invalid. -/
def tableHeader (w : Nat) : Option (Nat × Nat) :=
  let rowb := bitsAt w 32 13
  if w / 2 ^ 45 ≠ 0 ∨ rowb < 64 ∨ 4096 < rowb ∨ rowb % 64 ≠ 0 then none else some (w % 2 ^ 32, rowb)

/-- What a position comes to: an address (0 for a token below the floor), nothing mapped, or a fault of its entry. -/
inductive Pos where
  | below
  | at (addr : Nat)
  | unmapped (entry : Nat)
  | faults (entry : Nat) (f : MemFault)

/-- The entry of a block. -/
def entryAddr (tab t : Nat) : Nat := (tab + 16 + 4 * (t / 16)) % 2 ^ 64

/-- Whether a position reads its block's entry. -/
def readsEntry (h : Hart) (nblk t : Nat) : Bool := decide (h.wfloor.toNat ≤ t) && decide (t / 16 < nblk)

/-- The translation of one position (R272). -/
def State.position (s : State) (tab nblk rowb t : Nat) : Pos :=
  let ea := entryAddr tab t
  if t < s.hart.wfloor.toNat then .below
  else if nblk ≤ t / 16 then .unmapped ea
  else match s.readField ea 4 with
  | .error f => .faults ea f
  | .ok p =>
    let a := s.app s.hart.app
    if p = 0xFFFFFFFF ∨ (mget {} a.kv p).owner = 0 then .unmapped ea
    else .at ((a.kvwin + p * 65536 + t % 16 * rowb) % 2 ^ 64)

/-- Elements from index i on: addresses and p0 bits, up to the element that ends the instruction's VL, with the trap of
element 0. `ff` ends at an unmapped position too. -/
def State.positions (s : State) (ff : Bool) (tab nblk rowb : Nat) :
    List (Bool × Nat × Nat) → Nat → Except Stop (List Nat × List Bool)
  | [], _ => .ok ([], [])
  | (act, t, old) :: rest, i =>
    let go (v : Nat) (b : Bool) : Except Stop (List Nat × List Bool) :=
      match s.positions ff tab nblk rowb rest (i + 1) with
      | .error e => .error e
      | .ok r => .ok (v :: r.1, b :: r.2)
    if !act then go old false
    else match s.position tab nblk rowb t with
      | .below => go 0 false
      | .at a => go a true
      | .unmapped ea =>
        if !ff then go 0 false
        else if i = 0 then .error (.trap .loadfault (some (BitVec.ofNat 64 ea)) 0) else .ok ([], [])
      | .faults ea f =>
        if i = 0 then .error (.trap (if f = .poison then .poison else .loadfault) (some (BitVec.ofNat 64 ea)) 0)
        else .ok ([], [])

/-- Rows of activity, positions and old elements. -/
def posRows : List Bool → List Nat → List Nat → List (Bool × Nat × Nat)
  | a :: as, t :: ts, o :: os => (a, t, o) :: posRows as ts os
  | _, _, _ => []

/-- VTRANS and VTRANSFF once their registers are read. -/
def State.transGo (s : State) (ff : Bool) (d b : Reg) (m : BitVec 2) (pos : Vec) (old : List Nat) : Except Stop State :=
  let h := s.hart
  let tab := (s.rx b).toNat
  let ts := fitLen h.vl pos.elems
  let act := h.act m.toNat
  if s.ritHit h tab (tab + 16) then .error (.wait s)
  else match s.readField tab 16 with
  | .error f => .error (.trap (if f = .poison then .poison else .loadfault) (some (s.rx b)) 0)
  | .ok w =>
    match tableHeader w with
    | none => .error (.trap .loadfault (some (s.rx b)) 0)
    | some (nblk, rowb) =>
      let entries := ((pickActive act ts).filter (readsEntry h nblk)).map (entryAddr tab)
      if entries.any fun e => s.ritHit h e (e + 4) then .error (.wait s)
      else match s.positions ff tab nblk rowb (posRows act ts (if h.mz then List.replicate h.vl 0 else old)) 0 with
      | .error e => .error e
      | .ok r =>
        let g := (h.writeVec d.toNat (plainVec .n64 r.1)).setPred 0 (bitsNat r.2)
        .ok { s with hart := { s.takeSamples g (tab :: (tab + 15) % 2 ^ 64 :: entries) with vl := r.1.length } }

/-- VTRANS and VTRANSFF: they need SLUICE and FMT N64; the positions are N32. -/
def State.trans (i : Instr) (s : State) (ff : Bool) (d a b : Reg) (m : BitVec 2) : Outcome State Fault Refusal :=
  let h := s.hart
  let reads := h.tagRun a.toNat :: (if h.keeps m then [h.opRun d.toNat] else [])
  complete i s
    (if !h.feat 7 || decide (h.fmt ≠ .n64) then .error .illegal
     else match s.vecReady reads [h.gRun d.toNat] m.toNat with
     | .error e => .error e
     | .ok _ => s.withPops reads fun t =>
       let g := t.hart
       match g.tagged a.toNat (fun f => decide (f = .n32)), (if g.keeps m then g.operand d.toNat else .ok g.zeroOpd) with
       | .ok p, .ok o => t.transGo ff d b m p o.elems
       | .error e, _ => .error e
       | .ok _, .error e => .error e)

/-- VTRANS. -/
def execVtrans (d a b : Reg) (m : BitVec 2) (s : State) : Outcome State Fault Refusal := s.trans (.vtrans d a b m) false d a b m
/-- VTRANSFF. -/
def execVtransff (d a b : Reg) (m : BitVec 2) (s : State) : Outcome State Fault Refusal :=
  s.trans (.vtransff d a b m) true d a b m

/-! ### VWAIT -/

/-- Whether the 8-byte word at an address is readable and at least `want`. -/
def State.waitMet (s : State) (want va : Nat) : Bool :=
  decide (va % 8 = 0) && match s.forLoad (s.sampled s.hart va) with
    | .error _ => false
    | .ok x =>
      match s.readImage x va 8 with
      | .error _ => false
      | .ok v => decide (want ≤ v)

/-- The elements that the hart's waiting VWAIT has found satisfied: a satisfied element is not read again (R398). -/
def Hart.metOf (h : Hart) (i : Instr) : List Nat :=
  match h.wait with
  | none => []
  | some w => if w.instr = i then h.met else []

/-- The wait of a VWAIT that has issued: the one under way, or one that issues at this clk (R225). -/
def Hart.issuedWait (h : Hart) (i : Instr) (clk : Nat) : Wait :=
  match h.wait with
  | none => ⟨i, clk, true⟩
  | some w => if w.instr = i ∧ w.issued = true then w else ⟨i, clk, true⟩

/-- VWAIT; `late` says that WTMO clk have passed since it issued, and WTMO 0 checks once (R225). -/
def State.vwaitAt (s : State) (a b : Reg) (scope : BitVec 3) (late : Bool) : Outcome State Fault Refusal :=
  let h := s.hart
  let reads := [h.tagRun a.toNat]
  complete (.vwait a b scope) s
    (match s.vecReady reads [] 0 with
     | .error e => .error e
     | .ok _ => s.withPops reads fun t =>
       match t.hart.tagged a.toNat fun f => decide (f = .n64) with
       | .error e => .error e
       | .ok v =>
         let vas := fitLen h.vl v.elems
         let w := h.issuedWait (.vwait a b scope) s.clk
         let known := h.metOf (.vwait a b scope)
         let left := (List.zip (List.range vas.length) vas).filter fun e => !known.contains e.1
         if left.any fun e => t.ritHit h e.2 (e.2 + 8) then .error (.wait t)
         else
           let g := t.takeSamples t.hart ((left.map Prod.snd).filter fun va => canonicalVa va)
           let met := known ++ (left.filter fun e => t.waitMet (t.rx b).toNat e.2).map Prod.fst
           let open_ := (List.range vas.length).map fun i => !met.contains i
           if open_.any (fun x => x) && !(late && decide (h.wait = some w)) && decide (h.wtmo ≠ 0) then
             .error (.wait { t with hart := { g with met := met, wait := some w } })
           else .ok { t with hart := ({ g with met := [] } : Hart).setPred 0 (bitsNat open_) })

/-- VWAIT at issue. -/
def execVwait (a b : Reg) (scope : BitVec 3) (s : State) : Outcome State Fault Refusal := s.vwaitAt a b scope false

/-- Every element of a waiting VWAIT is satisfied. -/
def execVwaitSatisfied (s : State) : Outcome State Fault Refusal :=
  s.onWait fun t i =>
    match i with
    | .vwait a b sc => some (t.vwaitAt a b sc false)
    | _ => none

/-- WTMO clk have passed. -/
def execVwaitTimeout (s : State) : Outcome State Fault Refusal :=
  s.onWait fun t i =>
    match i with
    | .vwait a b sc => some (t.vwaitAt a b sc true)
    | _ => none

/-! ### HANDOFF -/

/-- A field that a scalar access reads now. -/
def State.readNow (s : State) (va n : Nat) : Except MemFault Nat := s.readElem (s.xlat s.hart) va n

/-- The entries of a page list from `va` on (R270, check 6). -/
def State.handPages (s : State) (va : Nat) : Nat → Except Stop (List Nat)
  | 0 => .ok []
  | n + 1 =>
    match s.readNow va 4 with
    | .error _ => .error (.trap .loadfault (some (BitVec.ofNat 64 va)) 0)
    | .ok p =>
      if (mget {} (s.app s.hart.app).kv p).owner ≠ 1 then .error (.trap .storefault (some (BitVec.ofNat 64 va)) 0)
      else match s.handPages ((va + 4) % 2 ^ 64) n with
      | .error e => .error e
      | .ok ps => .ok (p :: ps)

/-- The checks of R270 in their order; the page of the flag and the pages listed. -/
def State.handChecks (s : State) (flag list : Word) : Except Stop (Xlat × List Nat) :=
  let h := s.hart
  let fault (c : Cause) (a : Word) : Except Stop (Xlat × List Nat) := .error (.trap c (some a) 0)
  if flag.toNat % 8 ≠ 0 then fault .misalign flag
  else if 160 ≤ h.core then fault .storefault list
  else match s.forStore (s.xlat h flag.toNat) with
  | .error _ => fault .storefault flag
  | .ok x =>
    if x.encoded then fault .storefault flag
    else if s.ritHit h list.toNat (list.toNat + 8) then .error (.wait s)
    else match s.readNow list.toNat 8 with
    | .error _ => fault .loadfault list
    | .ok n =>
      if 256 < n then fault .storefault list
      else if s.ritHit h (list.toNat + 8) (list.toNat + 8 + 4 * n) then .error (.wait s)
      else match s.handPages ((list.toNat + 8) % 2 ^ 64) n with
      | .error e => .error e
      | .ok ps => .ok (x, ps)

/-- The addresses of a page list's count and entries. -/
def listAddrs (list n : Nat) : List Nat := (list :: (List.range (n + 1)).map fun k => list + 4 + 4 * k).map fun va => va % 2 ^ 64

/-- The event of R219: the pages become GEN, and the flag is written. The hart's samples are no older than the mappings by which the
list was read (R182, R207). -/
def State.handOver (s : State) (x : Xlat) (flag v list : Word) (ps : List Nat) : State :=
  let a := s.app s.hart.app
  let kv := ps.foldl (fun m p => mset {} m p { mget {} m p with owner := 2 }) a.kv
  let t := s.setApp s.hart.app { a with kv := kv }
  ({ t with hart := (listAddrs list.toNat ps.length).foldl s.dropStale t.hart }).putAt x flag.toNat 8 v.toNat

/-- HANDOFF: the trigger, the checks, the wait of a release at package scope, and the event. -/
def State.handoffAt (s : State) (d a b : Reg) : Outcome State Fault Refusal :=
  complete (.handoff d a b) s (s.trigger
    (if !s.hart.feat 7 then .error .illegal
     else match s.handChecks (s.rx a) (s.rx b) with
     | .error e => .error e
     | .ok r =>
       if r.1.closed || s.ritHit s.hart (s.rx a).toNat ((s.rx a).toNat + 8) then .error (.wait s)
       else match s.waitDrained 3 with
       | .error e => .error e
       | .ok _ => .ok (s.handOver r.1 (s.rx a) (s.rx d) (s.rx b) r.2)))

/-- HANDOFF. -/
def execHandoff (d a b : Reg) (s : State) : Outcome State Fault Refusal := s.handoffAt d a b

/-- The event of a waiting HANDOFF. -/
def execHandoffEvent (s : State) : Outcome State Fault Refusal :=
  s.onWait fun t i =>
    match i with
    | .handoff d a b => some (t.handoffAt d a b)
    | _ => none

/-! ### VCHAIN -/

/-- A state register of the chain: F32, or of LEN 0 and then the starting value; elements past LEN read zero. -/
def Hart.chainReg (h : Hart) (n : Nat) (start : Val) (k : Nat) : Except Stop (List Val) :=
  match h.readGroup (h.wb.toNat + n) 1 1 with
  | .error e => .error e
  | .ok v =>
    if v.elems = [] then .ok (List.replicate k start)
    else if v.fmt ≠ .f32 then .error .opfmt
    else .ok ((fitLen k v.elems).map (decodeVal .f32))

/-- The state of one head: its part of O, its maximum and its sum. -/
structure Head where
  o : List Val
  m : Val
  l : Val

/-- One key's step for one head (R273). Its flags are NV for a NaN and those of the exponentials: no other operation sets one (R163,
R399). -/
def Head.step (q ks vs : List Val) (a : Head) : Head × Flags :=
  let s := (dot q ks).toF32.1
  let mx := maxNan a.m [s]
  let al : Val × Flags := if mx.1 = .inf true then (.fin false 1 1, {}) else expDiff a.m mx.1
  let p : Val × Flags := if mx.1 = .inf true then (.fin false 0 1, {}) else expDiff s mx.1
  let l := (Val.add false (Val.mul a.l al.1).toF32.1 p.1).toF32.1
  let os := (List.zip a.o vs).map fun e => (Val.add false (Val.mul e.1 al.1).toF32.1 (Val.mul p.1 e.2).toF32.1).toF32.1
  (⟨os, mx.1, l⟩, (mx.2.or al.2).or p.2)

/-- A list cut into pieces of `n`. -/
def pieces {α : Type} (n : Nat) : Nat → List α → List (List α)
  | 0, _ => []
  | k + 1, l => l.take n :: pieces n k (l.drop n)

/-- One key's step for every head: the row holds the keys, then the values. -/
def chainRow (q : List Val) (vl dd : Nat) (hs : List Head) (row : List Val) : List Head × Flags :=
  let k := hs.length
  let rs := (List.zip hs (List.zip (pieces dd k q) (List.zip (pieces dd k (row.take vl)) (pieces dd k (row.drop vl))))).map
    fun x => Head.step x.2.1 x.2.2.1 x.2.2.2 x.1
  (rs.map Prod.fst, rs.foldl (fun f r => f.or r.2) {})

/-- Elements of a key row, from address `va` on, or the fault of the first that has one; an element on a page of another
format counts as faulting, and alignment plays no part (log). -/
def State.rowElems (s : State) (f : Fmt) (va : Nat) : Nat → Except MemFault (List Val)
  | 0 => .ok []
  | n + 1 =>
    if pageFmt (s.sampled s.hart (va % 2 ^ 64)) f ≠ f then .error .fmt
    else match s.readElem (s.sampled s.hart) (va % 2 ^ 64) f.bytes with
    | .error e => .error e
    | .ok x =>
      match s.rowElems f (va + f.bytes) n with
      | .error e => .error e
      | .ok vs => .ok (decodeVal f x :: vs)

/-- The format of a key row: BF16 on a page of BF16, else F32. -/
def State.rowFmt (s : State) (va : Nat) : Fmt := if pageFmt (s.sampled s.hart va) .f32 = .bf16 then .bf16 else .f32

/-- The rows of the keys that take part, in order; a faulting one is named by the trap. -/
def State.chainRows (s : State) (vl : Nat) : List (Nat × Nat) → Except Stop (List (List Val))
  | [] => .ok []
  | (k, va) :: ks =>
    match s.rowElems (s.rowFmt va) va (2 * vl) with
    | .error f => .error (.trap (if f = .poison then .poison else .loadfault) (some (BitVec.ofNat 64 va)) k)
    | .ok r =>
      match s.chainRows vl ks with
      | .error e => .error e
      | .ok rs => .ok (r :: rs)

/-- Every address of a key row's pages. -/
def State.rowSpan (s : State) (vl va : Nat) : Nat × Nat := (va, va + 2 * vl * (s.rowFmt va).bytes)

/-- The state registers written by VCHAIN. -/
def Hart.putChain (h : Hart) (d : Nat) (hs : List Head) : Hart :=
  let w (g : Hart) (n : Nat) (vs : List Val) : Hart := g.writeGroup (g.wb.toNat + n) 1 (plainVec .f32 (vs.map Val.f32Bits))
  w (w (w h d (hs.flatMap Head.o)) (d + 1) (hs.map Head.m)) (d + 2) (hs.map Head.l)

/-- VCHAIN once its registers are read. -/
def State.chainGo (s : State) (d : Reg) (m : BitVec 2) (dd : Nat) (keys : Vec) (q o mx l : List Val) : Except Stop State :=
  let h := s.hart
  let ks := (List.zip (List.range keys.elems.length) keys.elems).filter fun k => h.sel m.toNat k.1
  if h.vl = 0 ∨ ks = [] then .ok s
  else if ks.any fun k => s.ritHit h (s.rowSpan h.vl k.2).1 (s.rowSpan h.vl k.2).2 then .error (.wait s)
  else match s.chainRows h.vl ks with
  | .error e => .error e
  | .ok rows =>
    let n := h.vl / dd
    let hs := (List.zip (pieces dd n o) (List.zip mx l)).map fun x => (⟨x.1, x.2.1, x.2.2⟩ : Head)
    let r := foldF (chainRow q h.vl dd) rows hs {}
    let g := (h.putChain d.toNat r.1).raise r.2
    let vas := ks.flatMap fun k => [k.2, ((s.rowSpan h.vl k.2).2 - 1) % 2 ^ 64]
    .ok { s with hart := s.takeSamples g vas }

/-- VCHAIN: it needs ATTN, FMT F32, G 1 and a VL that HEADD divides; the addresses are those of register v(a). -/
def execVchain (d a b : Reg) (m : BitVec 2) (s : State) : Outcome State Fault Refusal :=
  let h := s.hart
  let dd := if h.headd = 0 then h.vl else h.headd.toNat
  let st : List VRun := [(d.toNat, 1), (d.toNat + 1, 1), (d.toNat + 2, 1)]
  let reads := [(a.toNat, 1), h.opRun b.toNat]
  complete (.vchain d a b m) s
    (if !h.feat 3 || decide (h.fmt ≠ .f32) || decide (h.g ≠ 1) || decide (h.vl % dd ≠ 0) then .error .illegal
     else match s.vecReady reads st m.toNat with
     | .error e => .error e
     | .ok _ => s.withPops reads fun t =>
       let g := t.hart
       match g.readRun (a.toNat, 1), g.operand b.toNat with
       | .error e, _ => .error e
       | .ok _, .error e => .error e
       | .ok keys, .ok q =>
         if keys.fmt ≠ .n64 then .error .opfmt
         else match g.chainReg d.toNat (.fin false 0 1) h.vl, g.chainReg (d.toNat + 1) (.inf true) (h.vl / dd),
             g.chainReg (d.toNat + 2) (.fin false 0 1) (h.vl / dd) with
         | .ok o, .ok mx, .ok l => t.chainGo d m dd keys (q.elems.map (decodeVal .f32)) o mx l
         | .error e, _, _ => .error e
         | .ok _, .error e, _ => .error e
         | .ok _, .ok _, .error e => .error e)

/-- One element of VCHAINF: +0 for a zero sum, the canonical NaN for a NaN. -/
def chainOut (o l : Val) : Val :=
  if l.isNan then .nan else if l.isZero then .fin false 0 1 else (Val.div o l).toF32.1

/-- VCHAINF; its entry names no flag (R399). -/
def execVchainf (d : Reg) (s : State) : Outcome State Fault Refusal :=
  let h := s.hart
  let dd := if h.headd = 0 then h.vl else h.headd.toNat
  complete (.vchainf d) s
    (if !h.feat 3 then .error .illegal
     else match s.vecReady [(d.toNat + 2, 1)] [(d.toNat, 1)] 0 with
     | .error e => .error e
     | .ok _ => s.withPops [(d.toNat + 2, 1)] fun t =>
       let g := t.hart
       match g.readGroup (g.wb.toNat + d.toNat) 1 1, g.readGroup (g.wb.toNat + (d.toNat + 2)) 1 1 with
       | .error e, _ => .error e
       | .ok _, .error e => .error e
       | .ok o, .ok l =>
         if o.fmt ≠ .f32 ∨ l.fmt ≠ .f32 then .error .opfmt
         else
           let ls := (fitLen h.vl l.elems).map (decodeVal .f32)
           let rs := (List.zip (List.range h.vl) ((fitLen h.vl o.elems).map (decodeVal .f32))).map
             fun e => chainOut e.2 (ls.getD (e.1 / dd) (.fin false 0 1))
           .ok { t with hart := g.writeGroup (g.wb.toNat + d.toNat) 1 (plainVec .f32 (rs.map Val.f32Bits)) })

end Sys2Proof.Machine
end

