-- ==== Sys2Proof/Machine/Wave.lean ====
section
/-! DEFINITION. Claims and waves (R263 to R267, R428). -/

namespace Sys2Proof.Machine

/-- Key of element i of the hart of a rank (R264). -/
def itemKey (unit rank i : Nat) : Nat := unit * 2 ^ 17 + rank * 2 ^ 12 + i

/-- Signature of a write address (R264). -/
def claimSig (a : Nat) : Nat :=
  let l := a / 64
  (l ^^^ (l / 2 ^ 20) ^^^ (l / 2 ^ 40)) % 2 ^ 20

/-- The key of element i of a hart. -/
def Hart.itemKey (h : Hart) (i : Nat) : Nat := Machine.itemKey h.unitid.toNat h.crewrank.toNat i

/-- The overflow mask of a rank. -/
def Share.mask (c : Share) (rank : Nat) : BitVec 256 := mget 0 c.ovf rank

/-- Marks element i of a rank as overflowed; the mask has 256 bits. -/
def Share.overflow (c : Share) (rank i : Nat) : Share :=
  { c with ovf := mset 0 c.ovf rank (c.mask rank ||| BitVec.ofNat 256 (2 ^ i)) }

/-- Posts one pair (R265). -/
def Share.post (c : Share) (p : Nat × Nat) (rank i : Nat) : Share :=
  if c.pairs.contains p then c
  else if c.pairs.length < 512 then { c with pairs := c.pairs ++ [p] }
  else c.overflow rank i

/-- The overflowed keys of a crew's work unit. -/
def Share.ovfKeys (c : Share) (unit : Nat) : List Nat :=
  c.ovf.flatMap fun r => ((List.range 256).filter fun i => r.2.getLsbD i).map fun i => Machine.itemKey unit r.1 i

/-- The lowest of a list, none when it is empty. -/
def lowest : List Nat → Option Nat
  | [] => none
  | n :: ns => some (ns.foldl min n)

/-- OVMIN (R265). -/
def Share.ovmin (c : Share) (unit : Nat) : Option Nat := lowest (c.ovfKeys unit)

/-- The keys of the pending items (R265). -/
def Share.pending (c : Share) (unit : Nat) : List Nat := c.pairs.map Prod.snd ++ c.ovfKeys unit

/-- Whether the item of a key is admitted (R266). -/
def Share.admits (c : Share) (unit k : Nat) : Bool :=
  let ov := c.ovmin unit
  let sigs := (c.pairs.filter fun p => decide (p.2 = k)).map Prod.fst
  !(c.pending unit).contains k ||
  ((match ov with
    | none => true
    | some o => decide (k < o)) && !(c.pairs.any fun p => sigs.contains p.1 && decide (p.2 < k))) ||
  (decide (ov = some k) && !((c.pending unit).any fun q => decide (q < k)))

/-- The active elements below VL. -/
def Hart.items (h : Hart) (m : BitVec 2) : List Nat := (List.range h.vl).filter (h.sel m.toNat)

/-- The share of the hart's crew, where it needs one: ILLEGAL without WAVE, without a share, or past the item range. -/
def State.shareOf (s : State) (m : BitVec 2) : Except Stop Share :=
  let h := s.hart
  if !h.feat 6 || !h.maskOk m.toNat || decide (4096 < h.vl) then .error .illegal
  else match (s.crewOf h.crewid.toNat).bind Crew.share with
    | none => .error .illegal
    | some c => .ok c

/-- The crew's share replaced. -/
def State.setShare (s : State) (c : Share) : State := s.updCrew s.hart.crewid.toNat fun k => { k with share := some c }

/-- CLAIM. -/
def execClaim (a : Reg) (m : BitVec 2) (s : State) : Outcome State Fault Refusal :=
  let reads := [s.hart.gRun a.toNat]
  complete (.claim a m) s
    (match s.shareOf m with
     | .error e => .error e
     | .ok c =>
       match s.vecReady reads [] m.toNat with
       | .error e => .error e
       | .ok _ => s.withPops reads fun t =>
         match t.hart.readRun (t.hart.gRun a.toNat) with
         | .error e => .error e
         | .ok v =>
           if v.fmt ≠ .n64 ∧ v.fmt ≠ .i64 then .error .opfmt
           else
             let h := t.hart
             .ok (t.setShare ((h.items m).foldl (fun q i =>
               q.post (claimSig (v.elems.getD i 0), h.itemKey i) h.crewrank.toNat i) c)))

/-- WFORM. -/
def execWform (d : Reg) (m : BitVec 2) (s : State) : Outcome State Fault Refusal :=
  let h := s.hart
  complete (.wform d m) s
    (match s.shareOf m with
     | .error e => .error e
     | .ok c =>
       let ok := (h.items m).filter fun i => c.admits h.unitid.toNat (h.itemKey i)
       .ok { s with hart := h.setPred d.toNat ((ok.map fun i => 2 ^ i).sum) })

/-- WREL: the pairs and overflow bits of the hart's active elements go (R267). -/
def execWrel (m : BitVec 2) (s : State) : Outcome State Fault Refusal :=
  let h := s.hart
  complete (.wrel m) s
    (match s.shareOf m with
     | .error e => .error e
     | .ok c =>
       let keys := (h.items m).map h.itemKey
       let bits := BitVec.ofNat 256 (((h.items m).map fun i => 2 ^ i).sum)
       .ok (s.setShare { pairs := c.pairs.filter fun p => !keys.contains p.2,
                         ovf := mset 0 c.ovf h.crewrank.toNat (c.mask h.crewrank.toNat &&& ~~~ bits) }))

/-- WCLR. -/
def execWclr (s : State) : Outcome State Fault Refusal :=
  complete .wclr s
    (match s.shareOf 0 with
     | .error e => .error e
     | .ok _ => .ok (s.setShare {}))

end Sys2Proof.Machine
end

