-- ==== Sys2Proof/Machine/Image.lean ====
section
/-! DEFINITION. A hart's state as words laid out as its save area, and a crew's as its crew area (R285, R286); where the areas
of a core lie (R61), and the writing of them by the spill engine. -/

namespace Sys2Proof.Machine

/-- Bytes of a save area (R285). -/
def saveBytes : Nat := 0x12B900

/-- Bytes of a crew area. -/
def crewBytes : Nat := 5248

/-- log2 of a grant in units of 64 bytes. -/
def grantCode (g : Nat) : Nat := if g = 64 then 0 else if g = 128 then 1 else 2

/-- The header (R286). -/
def Hart.headerWord (h : Hart) (done : Bool) (i : Nat) : Nat :=
  match i with
  | 0 => h.pc.toNat
  | 1 => h.hact.toNat + done.toNat * 2 + min h.skid 64 * 4 + grantCode h.vlgrant * 2 ^ 9
  | 2 => h.strip.toNat
  | 3 => h.tilesUsed + h.wspan * 2 ^ 8
  | 4 => h.crewid.toNat
  | _ => 0

/-- A stream's four words. -/
def Hart.streamWord (h : Hart) (i : Nat) : Nat :=
  match mget none h.streams (i / 4) with
  | none => 0
  | some q =>
    match i % 4 with
    | 0 => q.base.toNat
    | 1 => q.stride.toNat
    | 2 => q.count % 2 ^ 32 + q.fmt.code * 2 ^ 32 + q.reg * 2 ^ 38 + q.g * 2 ^ 49 + 2 ^ 51
    | _ => q.consumed % 2 ^ 32

/-- A store-fault record's four words. -/
def Hart.sfrqWord (h : Hart) (i : Nat) : Nat :=
  match h.sfrq[i / 4]? with
  | none => 0
  | some r =>
    match i % 4 with
    | 0 => r.words.1.toNat
    | 1 => r.words.2.1.toNat
    | 2 => r.words.2.2.1.toNat
    | _ => r.words.2.2.2.toNat

/-- A range entry's four words: base, limit, physical offset, attribute word (R180). -/
def App.rangeWord (a : App) (i : Nat) : Nat :=
  match (a.maps.filter Mapping.range)[i / 4]? with
  | none => 0
  | some m =>
    match i % 4 with
    | 0 => m.va
    | 1 => m.va + m.pages * 4096
    | 2 => (2 ^ 64 + m.pa - m.va) % 2 ^ 64
    | _ => m.attr.toNat

/-- Byte j of a plane's packed rows. -/
def Plane.dataByte (p : Plane) (f : Fmt) (j : Nat) : Nat :=
  bitsAt (mget 0 p.data (j / rowBytes f)).toNat (8 * (j % rowBytes f)) 8

/-- Word i of a plane area: the record of a memory-loaded plane; else format, rows, the data from byte 512 and the block
scales from byte 512 + 24,576 on (log). -/
def Plane.areaWord (p : Plane) (i : Nat) : Nat :=
  let code := (p.fmt.map Fmt.code).getD 0
  match p.src with
  | some c =>
    match i with
    | 0 => 1
    | 1 => c.addr.toNat
    | 2 => c.stride.toNat
    | 3 => code
    | 4 => c.rows
    | _ => 0
  | none =>
    if i < 64 then (if i = 3 then code else if i = 4 then p.rows else 0)
    else match p.fmt with
      | none => 0
      | some f =>
        if i < 64 + 3072 then leNat ((List.range 8).map fun b => p.dataByte f ((i - 64) * 8 + b))
        else
          let j := (i - 64 - 3072) * 8
          bitsAt (mget 0 p.scales (j / 96)).toNat (8 * (j % 96)) 64

/-- Word i of a tile. -/
def Tile.areaWord (t : Tile) (i : Nat) : Nat := bitsAt (mget 0 t.rows (i / 48)).toNat (64 * (i % 48)) 64

/-- Word i of a hart's save area. -/
def State.imageWord (s : State) (h : Hart) (done : Bool) (i : Nat) : Nat :=
  let o := i * 8
  let at_ : Nat → Nat := fun base => i - base / 8
  if o < 0x40 then h.headerWord done i
  else if o < 0x440 then (h.rx (at_ 0x40)).toNat
  else if o < 0x740 then (({ s with hart := h } : State).sr (at_ 0x440)).toNat
  else if o < 0x840 then h.streamWord (at_ 0x740)
  else if o < 0xA40 then h.sfrqWord (at_ 0x840)
  else if o < 0xE40 then (s.app h.app).rangeWord (at_ 0xA40)
  else if o < 0xE60 then (h.queue (at_ 0xE40)).posted % 2 ^ 32 + (h.queue (at_ 0xE40)).taken % 2 ^ 32 * 2 ^ 32
  else if o < 0xE80 then 0
  else if o < 0x1080 then h.locks.getD (at_ 0xE80) 0 * 512
  else if o < 0x1100 then 0
  else if o < 0x7100 then bitsAt (h.pred (at_ 0x1100 / 32)) (64 * (at_ 0x1100 % 32)) 64
  else if o < 0x9900 then (h.vreg (at_ 0x7100)).desc.word.toNat
  else if o < 0xE900 then bitsAt (h.vreg (at_ 0x9900 / 2)).scale.toNat (64 * (at_ 0x9900 % 2)) 64
  else if o < 0x15100 then h.active.areaWord (at_ 0xE900)
  else if o < 0x1B900 then h.shadow.areaWord (at_ 0x15100)
  else if o < 0xDB900 then (mget {} h.tiles (at_ 0x1B900 / 12288)).areaWord (at_ 0x1B900 % 12288)
  else if at_ 0xDB900 % 32 * 8 < h.vlgrant then
    bitsAt (h.vreg (at_ 0xDB900 / 32)).data.toNat (64 * (at_ 0xDB900 % 32)) 64
  else 0

/-- A key with its valid bit. -/
def ovWord (k : Option Nat) : Nat :=
  match k with
  | none => 0
  | some n => n % 2 ^ 41 + 2 ^ 63

/-- A pair of a claim share as its word. -/
def Share.pairWord (c : Share) (i : Nat) : Nat :=
  match c.pairs[i]? with
  | none => 0
  | some p => p.1 % 2 ^ 20 + p.2 % 2 ^ 41 * 2 ^ 20 + 2 ^ 63

/-- Word i of the overflow masks of ranks 0 to 31. -/
def Share.maskWord (c : Share) (i : Nat) : Nat := bitsAt (c.mask (i / 4)).toNat (64 * (i % 4)) 64

/-- Word i of a crew's area. -/
def State.crewWord (s : State) (c : Crew) (i : Nat) : Nat :=
  let q := c.share.getD {}
  if i < 512 then q.pairWord i
  else if i = 512 then ovWord (q.ovmin c.unit)
  else if i < 528 then s.phases c.id (i - 512)
  else q.maskWord (i - 528)

/-! ### Where the areas lie (log: 64 areas a core, each a save area and a crew area) -/

/-- Bytes from one area of a core to the next. -/
def areaPitch : Nat := saveBytes + crewBytes

/-- The area of a number of a core; none where PCL has wired no base. -/
def State.areaOf (s : State) (core i : Nat) : Option Nat :=
  (s.ctxArea.find? fun x => decide (x.1 = core)).map fun x => x.2 + i * areaPitch

/-- The lowest area of a core that no suspended context uses. -/
def State.freeArea (s : State) (core : Nat) : Option Nat :=
  (List.range 64).findSome? fun i => (s.areaOf core i).filter fun a => s.harts.all fun h => decide (h.saveAt ≠ some a)

/-- The word indices of an area that the spill of a hart writes (R286): up to 0x0_E8FF, each plane as its record or its data,
the kernel's tiles, and the registers of its window at the grant. -/
def Hart.spillWords (h : Hart) : List Nat :=
  let plane : Plane → Nat → List Nat := fun p b =>
    (List.range (if p.src.isSome then 8 else 26624 / 8)).map fun i => b / 8 + i
  List.range (0xE900 / 8) ++ plane h.active 0xE900 ++ plane h.shadow 0x15100 ++
    (((List.range 8).filter fun t => h.tilesUsed.testBit t).flatMap fun t =>
      (List.range 12288).map fun i => 0x1B900 / 8 + t * 12288 + i) ++
    ((List.range h.wspan).flatMap fun w => (List.range (h.vlgrant / 8)).map fun i => 0xDB900 / 8 + w * 32 + i)

/-- The spill engine writes a crew's area, behind the save area of its hart of rank 0 (log). -/
def State.writeCrew (s : State) (cid : Nat) : State :=
  match s.crewOf cid, ((s.crewHarts cid).find? fun h => decide (h.crewrank = 0)).bind Hart.saveAt with
  | some c, some a =>
    s.writePhys false ((List.range (crewBytes / 8)).flatMap fun i => cellsLE (a + saveBytes + i * 8) 8 (s.crewWord c i))
  | some _, none => s
  | none, _ => s

/-- A context as its save area holds it: with the slice it left, its strip there and its locks (R283, R285). -/
def Hart.asLeft (h : Hart) : Hart :=
  match h.out with
  | none => h
  | some o => { h with core := o.core, slice := o.slice, cut := o.cut, strip := o.strip, locks := o.locks }

/-- The spill engine writes a hart's save area, and its crew's area as it stands now: the last hart of a crew to swap leaves it as
the crew is suspended. -/
def State.writeImage (s : State) (h : Hart) : State :=
  match h.saveAt with
  | none => s
  | some a =>
    (s.writePhys false (h.spillWords.flatMap fun i => cellsLE (a + i * 8) 8 (s.imageWord h.asLeft true i))).writeCrew h.crewid.toNat

end Sys2Proof.Machine
end

