-- ==== Sys2Proof/Machine/Launchs.lean ====
section
/-! DEFINITION. LAUNCH, WAIT and CANCEL (R75 to R83), the scheduler's events (R84 to R93), the bank swap, spill and fill
(R283, R284), and what the debugger does to crews (R276, R433, R434). -/

namespace Sys2Proof.Machine

/-! ### LAUNCH (R75 to R78) -/

/-- Field [hi:lo] given as (lo, width) of word `i` of a block of words. -/
def wordBits (ws : List Nat) (i lo w : Nat) : Nat := bitsAt (ws.getD i 0) lo w

/-- Bytes as 8-byte words. -/
def wordsOf (bs : List Nat) : List Nat := (List.range (bs.length / 8)).map fun i => leNat ((bs.drop (8 * i)).take 8)

/-- The dependence entries of a block. -/
def blockDeps (ws : List Nat) : List Dep :=
  (List.range (wordBits ws 2 16 4)).map fun i => ⟨wordBits ws (8 + i) 0 32, decide (wordBits ws (8 + i) 32 1 = 1)⟩

/-- Reserved fields zero, CLUSTER not 3, DEPN at most 8. -/
def blockReserved (ws : List Nat) : Bool :=
  decide (wordBits ws 1 32 32 = 0) && decide (wordBits ws 2 6 2 = 0) && decide (wordBits ws 2 15 1 = 0) &&
  decide (wordBits ws 2 20 4 = 0) && decide (wordBits ws 2 40 24 = 0) && decide (wordBits ws 7 16 48 = 0) &&
  decide (wordBits ws 2 12 2 ≠ 3) && decide (wordBits ws 2 16 4 ≤ 8) &&
  (List.range (wordBits ws 2 16 4)).all fun i => decide (wordBits ws (8 + i) 33 31 = 0)

/-- The bytes of a NUL-terminated string at an address, `n` bytes at most with the NUL; none where a byte before the NUL
cannot be read or no NUL comes. -/
def State.readString (s : State) (k : Nat) (w : Who) (va : Nat) : Nat → Option (List Byte)
  | 0 => none
  | n + 1 =>
    match s.readByteFor k w va with
    | .error _ => none
    | .ok b => if b = 0 then some [] else (s.readString k w (va + 1) n).map (BitVec.ofNat 8 b :: ·)

/-- The launch a block describes, for a kernel. -/
def blockLaunch (ws : List Nat) (lid accept : Nat) (i : KInfo) : Launch :=
  let v := wordBits ws 2 8 2
  { lid := lid, kernel := i, units := wordBits ws 1 0 32,
    crew := if wordBits ws 2 0 6 = 0 then i.crew else wordBits ws 2 0 6,
    vlgmin := if v = 3 then i.vlgmin else max v i.vlgmin,
    prio := wordBits ws 2 10 2, cluster := wordBits ws 2 12 2, quad := decide (wordBits ws 2 14 1 = 1),
    deps := blockDeps ws, stack := wordBits ws 2 32 8,
    args := BitVec.ofNat 64 (ws.getD 3 0), const := BitVec.ofNat 64 (ws.getD 4 0), compl := BitVec.ofNat 64 (ws.getD 5 0),
    plane := BitVec.ofNat 64 (ws.getD 6 0), plfmt := wordBits ws 7 0 6, plk := wordBits ws 7 6 10,
    issued := 0, limit := wordBits ws 1 0 32, cancelled := false, done := 0, nfail := 0, firstFail := 0, ended := none,
    accept := accept }

/-- CREW within limits, QUAD only with four harts of 256 bytes, the crew placeable on one polder (R85). -/
def Launch.crewOk (l : Launch) : Bool :=
  decide (1 ≤ l.crew) && decide (l.crew ≤ l.kernel.crew) && decide (l.crew ≤ 32) &&
  (!l.quad || (decide (l.crew = 4) && decide (l.vlgmin = 2))) && decide (l.crew ≤ 8 * (needOf 0 l).cut)

/-- PLANE 0, or PLFMT a matrix operand format, PLK in range and the least VLGRANT 256 bytes. -/
def Launch.planeOk (l : Launch) : Bool :=
  decide (l.plane = 0) ||
  match Fmt.ofCode l.plfmt with
  | none => false
  | some f => decide (1 ≤ l.plk) && decide (l.plk ≤ mtileK f) && decide (l.vlgmin = 2)

/-- COMPL 0, or 8-byte aligned and mapped writable. -/
def State.complOk (s : State) (k : Nat) (l : Launch) : Bool :=
  decide (l.compl = 0) || (decide (l.compl.toNat % 8 = 0) && s.mayWrite k ctlWho l.compl.toNat 8)

/-- The checks of R77 after the block has been read, in order: the launch, or the error. -/
def State.checkLaunch (s : State) (k : Nat) (ws : List Nat) : Except Word Launch :=
  let a := s.app k
  let tn := wordBits ws 2 24 8
  if !blockReserved ws then .error eInval
  else if 2 ^ 24 ≤ wordBits ws 1 0 32 then .error eRange
  else if tn ≠ 255 ∧ tn ≠ a.tenant then .error (if tn < 64 then ePerm else eInval)
  else match s.readString k ctlWho (ws.getD 0 0) 256 with
    | none => .error eInval
    | some name =>
      match a.kernels.find? fun i => decide (i.name = name) with
      | none => .error eNoent
      | some i =>
        let l := blockLaunch ws a.nextLid s.nextAccept i
        if !l.crewOk then .error eInval
        else if !l.planeOk then .error eInval
        else if !s.complOk k l then .error eInval
        else if l.deps.any fun d => decide (d.lid = 0) || decide (a.nextLid ≤ d.lid) then .error eInval
        else if 4096 ≤ (a.launches.filter fun x => x.ended.isNone).length then .error eAgain
        else .ok l

/-- A launch accepted under the next ID. -/
def State.acceptLaunch (s : State) (k : Nat) (l : Launch) : State :=
  let a := s.app k
  let t := { s.setApp k { a with launches := a.launches ++ [l], nextLid := a.nextLid + 1 } with nextAccept := s.nextAccept + 1 }
  ((t.endLaunch k l.lid).kick).answer (.ctl k) (num l.lid)

/-- LAUNCH. -/
def execRiuraLaunch (s : State) : Outcome State Fault Refusal :=
  s.service true false fun s k w =>
    if s.inp.a1.toNat % 8 ≠ 0 then s.ret eInval
    else match s.readFor k w s.inp.a1.toNat 128 with
      | none => s.ret eInval
      | some bs =>
        match s.checkLaunch k (wordsOf bs) with
        | .error e => s.ret e
        | .ok l => s.acceptLaunch k l

/-! ### WAIT and CANCEL (R81, R82) -/

/-- A launch that Riura retains: one that has not ended, or one of the 65,536 latest IDs. -/
def App.retained (a : App) (lid : Word) : Option Launch :=
  (a.launch lid.toNat).filter fun l => l.ended.isNone || decide (a.nextLid ≤ l.lid + 65536)

/-- WAIT at issue: the word of an ended launch, or a wait. -/
def State.waitNow (s : State) (k : Nat) : State :=
  match (s.app k).retained s.inp.a1 with
  | none => s.ret eNoent
  | some l =>
    match l.ended with
    | some w => s.ret w
    | none => s.block k (.wait l.lid) s.inp.a2

/-- A pending WAIT whose launch has ended returns its word. -/
def State.waitAgain (s : State) (k lid : Nat) : State :=
  match ((s.app k).launch lid).bind Launch.ended with
  | none => s
  | some w => s.answer (.ctl k) w

/-- The launch that an application's pending WAIT names. -/
def App.waitsFor (a : App) : Option Nat :=
  match a.pend with
  | none => none
  | some p =>
    match p.kind with
    | .wait lid => some lid
    | _ => none

/-- WAIT: a call, or the look of a pending one. -/
def execRiuraWait (s : State) : Outcome State Fault Refusal :=
  match s.inp.caller with
  | .hart _ => s.service true false fun s k _ => s.waitNow k
  | .ctl k =>
    match (s.app k).waitsFor with
    | some lid => .next (s.waitAgain k lid)
    | none => s.service true false fun s k _ => s.waitNow k

/-- RIURA_WAIT_TIMEOUT. -/
def execRiuraWaitTimeout (s : State) : Outcome State Fault Refusal :=
  .next (s.timeOut fun p =>
    match p with
    | .wait _ => true
    | _ => false)

/-- CANCEL. -/
def execRiuraCancel (s : State) : Outcome State Fault Refusal :=
  s.service true false fun s k _ =>
    match (s.app k).retained s.inp.a1 with
    | none => s.ret eNoent
    | some l =>
      if l.ended.isSome ∨ l.limit ≤ l.issued then s.ret 0
      else
        let t := s.updLaunch k l.lid fun x => { x with limit := x.issued, cancelled := true }
        ((t.endLaunch k l.lid).kick).ret 0

/-! ### The scheduler's events (R84 to R93) -/

/-- SCHEDULER_PLACE_CREW: when R84 names a work unit that can be placed. -/
def execSchedulerPlaceCrew (s : State) : Outcome State Fault Refusal :=
  .next (match s.pick with
    | some (.place app lid at_) => s.placeCrew app lid at_
    | some (.resume _ _) => s
    | some (.preempt _ _ _) => s
    | none => s)

/-- CREW_RESUME: when R84 names a suspended crew that can resume. -/
def execCrewResume (s : State) : Outcome State Fault Refusal :=
  .next (match s.pick with
    | some (.resume c at_) => s.resumeCrew c at_
    | some (.place _ _ _) => s
    | some (.preempt _ _ _) => s
    | none => s)

/-- SCHEDULER_PREEMPT: when R84 and R91 name crews to displace; every hart of theirs gets a request, and the placement is
kept (R84, R91). -/
def execSchedulerPreempt (s : State) : Outcome State Fault Refusal :=
  .next (match s.pick with
    | some (.preempt app lid d) =>
      (s.mapHarts (fun h => h.run.resident && d.crews.contains h.crewid.toNat) fun h => { h with swapReq := true }).keepSlots
        ⟨app, lid, (((s.app app).launch lid).map Launch.prio).getD 0, d.slots⟩
    | some (.place _ _ _) => s
    | some (.resume _ _) => s
    | none => s)

/-- Whether a transfer reads or writes registers of a hart, or was issued by it with registers (R259, R284). -/
def Transfer.onRegs (t : Transfer) (id : Nat) : Bool :=
  (decide (t.hart = id) && (decide (t.op = 3) || decide (t.op = 4) || decide (t.op = 5))) ||
  match t.fills with
  | none => false
  | some f => decide (f.1 = id)

/-- A context as it stands swapped out (R284): prefetched elements, links, samples and range entries are gone; a parked store
stays with its migration; the shadow bank of its slice holds the context until it is spilled (R283). -/
def Hart.swapOut (h : Hart) (area : Option Nat) : Hart :=
  { h with run := .suspended, swapReq := false, spilled := false, wait := if h.parked then h.wait else none, links := [],
           samples := [], drain := false, bank := some (h.core, h.slice), out := none,
           streams := h.streams.map fun q => (q.1, q.2.map fun x => { x with pre := [] }), saveAt := area }

/-- A crew whose last hart has swapped is suspended at its grant, and leaves its cores (R90, R91). -/
def State.suspendCrew (s : State) (cid : Nat) : State :=
  let hs := s.crewHarts cid
  if hs.any fun h => h.run.resident then s
  else match s.crewOf cid with
    | none => s
    | some c =>
      let t := s.updCrew cid fun q => { q with suspended := true, grant := (hs.head?.map Hart.newGrant).getD 256 }
      (t.leaveRows c.app c.lid ((distinct (hs.map Hart.core) []).filter fun k => (t.onCore [] k).isEmpty)).kick

/-- The context whose spill still occupies the shadow bank of a hart's slice, wherever that context resumes (R283). -/
def State.bankSpill (s : State) (h : Hart) : Option Nat :=
  (s.harts.find? fun g => decide (g.id ≠ h.id) && decide (g.bank = some (h.core, h.slice))).map Hart.id

/-- Whether a train or a contribution of a hart is in flight. -/
def State.storesOut (s : State) (id : Nat) : Bool :=
  (s.trains.any fun t => decide (t.hart = id)) || s.contribs.any fun c => decide (c.hart = id)

/-- HART_SWAP of hart n at its boundary: its register transfers retire first, its stores in flight perform or fault, and a spill
of the shadow bank it needs ends (R283, R284). A context that is still being filled is swapped in first. -/
def execHartSwap (s : State) : Outcome State Fault Refusal :=
  .next (match s.hartOf s.inp.n with
    | none => s
    | some h =>
      if !h.swapReq || !h.run.resident || decide (h.run = .filling) || s.storesOut h.id then s
      else match s.transfers.find? (fun t => t.onRegs h.id), s.bankSpill h with
        | some t, _ => s.postFront .transferRetire { n := t.id }
        | none, some g => s.postFront .spillDone { n := g }
        | none, none =>
          let a := s.freeArea h.core
          let s1 := s.updHart h.id fun g => g.swapOut a
          let s2 := match a with
            | none => s1
            | some b => s1.writePhys false (cellsLE (b + 8) 8 0)
          (s2.later .spillDone { n := h.id }).suspendCrew h.crewid.toNat)

/-- SPILL_DONE of hart n: its save area is written, DONE last, and its bank is free, which may let a core be cut afresh; a context
that has swapped back is spilled no further. With k = 1 a saved context that has changed is written again. -/
def execSpillDone (s : State) : Outcome State Fault Refusal :=
  .next (match s.hartOf s.inp.n with
    | none => s
    | some h =>
      if h.spilled then (if s.inp.k = 1 then s.writeImage h else s)
      else if h.run = .suspended ∨ h.run = .filling then
        ((s.updHart h.id fun g => { g with spilled := true, bank := none }).writeImage h).kick
      else s)

/-- CONTEXT_FILL_DONE of hart n: once its own spill has ended, and that of another context in the shadow bank it is filled into,
the filled context is swapped in (R283). -/
def execContextFillDone (s : State) : Outcome State Fault Refusal :=
  .next (match s.hartOf s.inp.n with
    | none => s
    | some h =>
      if h.run ≠ .filling then s
      else if !h.spilled then s.later .contextFillDone { n := h.id }
      else match s.bankSpill h with
      | some g => (s.later .contextFillDone { n := h.id }).postFront .spillDone { n := g }
      | none =>
        (s.updHart h.id fun g =>
          { g with run := if g.ended then .exited else .running, spilled := false, saveAt := none, out := none }).reloadPlanes h.id)

/-- LEASE_FILL_DONE of core n. -/
def execLeaseFillDone (s : State) : Outcome State Fault Refusal :=
  .next (if (s.lease s.inp.n).st = .filling then (s.fillLease s.inp.n).kick else s)

/-! ### The debugger (R276, R433, R434) -/

/-- DEBUGGER_RELEASE of crew n: its harts go on, from the PC they stand at, past a breakpoint there. -/
def execDebuggerRelease (s : State) : Outcome State Fault Refusal :=
  .next (match s.crewOf s.inp.n with
    | none => s
    | some c =>
      if c.debugHeld then
        (s.mapHarts (fun h => decide (h.crewid.toNat = c.id)) fun h => { h with stopped := false, passBreak := true }).updCrew c.id
          fun k => { k with debugHeld := false }
      else s)

/-- CONFINEMENT_SET of application slot n: the cores, none to remove the set; the flag says whether shdb stays attached, with the
breakpoints it then has; k = 1 says that it stops the application's crews now (log). -/
def execConfinementSet (s : State) : Outcome State Fault Refusal :=
  let i := s.inp
  let k := i.n % 64
  .next (if (s.app k).state = .running then
      let t := (s.setApp k { s.app k with shdb := i.flag, confine := if i.flag then i.nums else none,
                                          breaks := if i.flag then i.breaks else [] }).kick
      if i.flag ∧ i.k = 1 then t.shdbStop k else t
    else s)

end Sys2Proof.Machine
end

