-- ==== Sys2Proof/Machine/Memcalls.lean ====
section
/-! DEFINITION. The memory services (R183 to R188, R269): MAP, UNMAP, PROTECT, MIGRATE with its copies, KVALLOC, KVFREE. -/

namespace Sys2Proof.Machine

/-! ### MAP (R169, R170, R183, R184) -/

/-- Permission bits PR, PW, PX in bits 0 to 2: PW needs PR, PX needs PW = 0. -/
def permOk (p : Nat) : Bool := (!p.testBit 1 || p.testBit 0) && (!p.testBit 2 || !p.testBit 1)

/-- Whether a BLK may stand with a format. -/
def blkOk (f b : Nat) : Bool :=
  match b with
  | 0 => true
  | 1 => (Fmt.ofCode f).any Fmt.isMx
  | 2 => (Fmt.ofCode f).any fun g => decide (g = .i8) || decide (g = .i4)
  | _ => false

/-- Whether a page may be encoded. -/
def encOk (f b e : Nat) : Bool :=
  match e with
  | 0 => true
  | 1 => (Fmt.ofCode f).any (fun g => !g.isMx) && decide (b = 0)
  | _ => false

/-- Whether MAP admits an attribute word. -/
def attrOk (a : Word) : Bool :=
  (decide (attrFmt a = 0x3F) || (Fmt.ofCode (attrFmt a)).isSome) && blkOk (attrFmt a) (attrBlk a) &&
    encOk (attrFmt a) (attrBlk a) (attrEnc a) && permOk (bitsAt a.toNat 11 3) && decide (a.toNat < 2 ^ 14)

/-- Whether va to va + len − 1 is canonical and not below 2 MiB. -/
def rangeOk (va len : Nat) : Bool :=
  decide (2 ^ 21 ≤ va) && (decide (va + len ≤ 2 ^ 56) || (decide (2 ^ 64 - 2 ^ 56 ≤ va) && decide (va + len ≤ 2 ^ 64)))

/-- Whether a range meets a used one. -/
def meetsUsed (us : List (Nat × Nat)) (va len : Nat) : Bool := us.any fun u => decide (va < u.2) && decide (u.1 < va + len)

/-- Whether a feature is masked for an application's tenant (R117). -/
def State.masked (s : State) (k bit : Nat) : Bool := (s.tenantOf (s.app k).tenant).featmask.getLsbD bit

/-- Adds a region to an application. -/
def State.addMap (s : State) (k : Nat) (m : Mapping) : State := s.setApp k { s.app k with maps := (s.app k).maps ++ [m] }

/-- One fresh segment of an encoded page: a zero run over its 256 elements, with its header (R125, R140). -/
def State.freshSeg (s : State) (f : Fmt) (slot : Nat) : State :=
  let v := runsVec f (List.replicate 256 0)
  { s with mem := putCells s.mem (cellsLE slot v.size v.arr), segHdr := mset none s.segHdr slot (some (BitVec.ofNat 64 (segHdrOf v))) }

/-- Newly mapped frames as their attribute word has them: an encoded page holds a zero run in every segment (R140). -/
def State.freshPages (s : State) (attr : Word) (pa len : Nat) : State :=
  match (Fmt.ofCode (attrFmt attr)).filter fun _ => decide (attrEnc attr = 1) with
  | none => s
  | some f => (List.range (len / slotBytes f)).foldl (fun t i => t.freshSeg f (pa + i * slotBytes f)) s

/-- Pages for [va, va + len): one contiguous region, or halves of it. -/
def State.mapPieces (s : State) (k tier : Nat) (attr : Word) (most : Nat) : Nat → Nat → Nat → Option State
  | 0, _, _ => none
  | fuel + 1, va, len =>
    let pl := pageLogOf most [va, len]
    match s.allocTier tier len (2 ^ pl) with
    | some (pa, kind, t) =>
      some ((t.freshPages attr pa len).addMap k
        { va := va, pages := len / 4096, pa := pa, attr := attr, kind := kind, range := false, pageLog := pl, migr := none })
    | none =>
      if len ≤ 4096 then none
      else
        let h := roundUp (len / 2) 4096
        (s.mapPieces k tier attr most fuel va h).bind fun t => t.mapPieces k tier attr most fuel (va + h) (len - h)

/-- A range entry for [va, va + len), where one is free and the memory is contiguous (R180, R184). -/
def State.mapRange (s : State) (k tier : Nat) (attr : Word) (va len : Nat) : Option State :=
  if attr.getLsbD 10 ∧ va % 65536 = 0 ∧ len % 65536 = 0 ∧ ((s.app k).maps.filter Mapping.range).length < 32 then
    (s.allocTier tier len 65536).map fun r =>
      (r.2.2.freshPages attr r.1 len).addMap k
        { va := va, pages := len / 4096, pa := r.1, attr := attr, kind := r.2.1, range := true, pageLog := 16, migr := none }
  else none

/-- The region mapped at an address. -/
def State.mapAt (s : State) (k tier : Nat) (attr : Word) (most va len : Nat) : State :=
  let tier := s.tierCode tier
  match s.mapRange k tier attr va len with
  | some t => t.ret (num va)
  | none =>
    match s.mapPieces k tier attr most 64 va len with
    | some t => t.ret (num va)
    | none => s.ret eNomem

/-- log2 of the largest page size that fits a length. -/
def fitLog (most len : Nat) : Nat := ([30, 21, 16].find? fun l => decide (l ≤ most) && decide (2 ^ l ≤ len)).getD 12

/-- MAP. -/
def execRiuraMap (s : State) : Outcome State Fault Refusal :=
  s.service true false fun s k _ =>
    let va := s.inp.a1.toNat
    let len := s.inp.a2.toNat
    match s.tierRange s.inp.a3.toNat with
    | none => s.ret eInval
    | some (_, _, _, most) =>
      if va % 4096 ≠ 0 ∨ len % 4096 ≠ 0 ∨ len = 0 ∨ !attrOk s.inp.a4 then s.ret eInval
      else if va ≠ 0 ∧ ((!rangeOk va len) ∨ meetsUsed (s.app k).usedVa va len) then s.ret eInval
      else if s.inp.a3.toNat = 1 ∧ s.masked k 9 then s.ret ePerm
      else if va ≠ 0 then s.mapAt k s.inp.a3.toNat s.inp.a4 most va len
      else match s.pickVa k len (2 ^ fitLog most len) with
        | none => s.ret eNomem
        | some v => s.mapAt k s.inp.a3.toNat s.inp.a4 most v len

/-! ### UNMAP and PROTECT (R185) -/

/-- Whether a call's range is one of whole pages. -/
def pagesOk (va len : Nat) : Bool := decide (va % 4096 = 0) && decide (len % 4096 = 0) && decide (len ≠ 0)

/-- Whether a region lies inside [lo, hi). -/
def Mapping.within (m : Mapping) (lo hi : Nat) : Bool := decide (lo ≤ m.va) && decide (m.top ≤ hi)

/-- UNMAP. -/
def execRiuraUnmap (s : State) : Outcome State Fault Refusal :=
  s.service true false fun s k _ =>
    let lo := s.inp.a1.toNat
    let hi := lo + s.inp.a2.toNat
    let a := s.app k
    if (!pagesOk lo s.inp.a2.toNat) ∨ (partRange a.maps lo hi).isSome then s.ret eInval
    else
      let ms := carve a.maps lo hi
      ((s.setApp k { a with maps := ms.filter fun m => !m.within lo hi }).releaseMaps a.tenant (ms.filter fun m => m.within lo hi)).ret 0

/-- An attribute word with other permissions. -/
def setPerms (a : Word) (p : Nat) : Word := BitVec.ofNat 64 (a.toNat % 2 ^ 11 + p * 2 ^ 11 + a.toNat / 2 ^ 14 * 2 ^ 14)

/-- PROTECT. -/
def execRiuraProtect (s : State) : Outcome State Fault Refusal :=
  s.service true false fun s k _ =>
    let lo := s.inp.a1.toNat
    let hi := lo + s.inp.a2.toNat
    let a := s.app k
    let p := s.inp.a3.toNat
    if (!pagesOk lo s.inp.a2.toNat) ∨ 7 < p ∨ (!permOk p) ∨ (partRange a.maps lo hi).isSome
        ∨ (firstHole a.maps lo (s.inp.a2.toNat / 4096)).isSome then s.ret eInval
    else
      let f : Mapping → Mapping := fun m => if m.within lo hi then { m with attr := setPerms m.attr p } else m
      (s.setApp k { a with maps := (carve a.maps lo hi).map f }).ret 0

/-! ### MIGRATE (R186, R187) -/

/-- The new format a MIGRATE asks for. -/
def newFmtOf (flags : Word) : Option Nat := if flags.getLsbD 1 then some (bitsAt flags.toNat 8 6) else none

/-- Whether REQ may convert a region: a typed plain page, a format of the same width, and a BLK valid for it. -/
def Mapping.reqOk (m : Mapping) (f : Nat) : Bool :=
  match Fmt.ofCode (attrFmt m.attr), Fmt.ofCode f with
  | some a, some b =>
    decide (a.bits = b.bits) && decide (attrEnc m.attr = 0) && blkOk f (attrBlk m.attr) &&
      decide (b.isMx = decide (attrBlk m.attr = 1))
  | some _, none => false
  | none, _ => false

/-- Data bytes of a frame by BLK. -/
def frameData (f : Fmt) (blk : Nat) : Nat := if blk = 1 then blkData f else if blk = 2 then 3968 else 4096

/-- The values of a frame's elements. -/
def State.frameVals (s : State) (pa blk : Nat) (f : Fmt) : List Val :=
  let n := frameData f blk
  let els := unpackAt f.bits (readLE s.mem pa n) 0 (n * 8 / f.bits)
  (List.zip (List.range els.length) els).map fun x =>
    if f.isMx then
      mxVal f x.2 (if blk = 1 then (mget unlistedByte s.mem (pa + n + x.1 / 32)).toNat
                   else (Config.freeWord s.tick (x.1 / 32)).toNat % 256)
    else decodeVal f x.2

/-- One frame converted in place by RNE (R156, R158, R159). -/
def State.convertFrame (s : State) (blk : Nat) (f g : Fmt) (pa : Nat) : State :=
  let vs := s.frameVals pa blk f
  let n := frameData f blk
  let scs := if g.isMx then (mxScales g (vs.map fun _ => true) vs).map Prod.fst else []
  let els := (List.zip (List.range vs.length) (mxSource g (vs.map fun _ => true) vs)).map fun x => (toTarget g (scs.getD (x.1 / 32) 127) .rne 0 x.2).1
  let cells := cellsLE pa n (packW g.bits els) ++ (List.zip (List.range scs.length) scs).map fun x => (pa + n + x.1, x.2)
  { s with mem := putCells s.mem cells }

/-- A region converted, its attribute word with the new format. -/
def State.convertRegion (s : State) (k va f : Nat) : State :=
  match findMap (s.app k).maps va, Fmt.ofCode f with
  | some m, some g =>
    match Fmt.ofCode (attrFmt m.attr) with
    | none => s
    | some h =>
      let t := (List.range m.pages).foldl (fun u i => u.convertFrame (attrBlk m.attr) h g (m.pa + i * 4096)) s
      t.setApp k { t.app k with maps := (t.app k).maps.map fun q =>
        if q = m then { q with attr := BitVec.ofNat 64 (q.attr.toNat / 64 * 64 + f) } else q }
  | some _, none => s
  | none, _ => s

/-- The next region of [va, hi) that a MIGRATE moves, in ascending order. -/
def App.nextToMove (a : App) (va hi tier : Nat) (req : Bool) : Option Mapping :=
  (sortBy (fun x y : Mapping => decide (x.va ≤ y.va)) a.maps).find? fun m =>
    decide (va < m.top) && decide (m.va < hi) && (req || !m.inTier tier)

/-- The end of a MIGRATE: a waiting caller gets the result. -/
def State.endMigrate (s : State) (k : Nat) (flags : Word) (r : Word) : State :=
  if flags.getLsbD 0 && decide ((s.app k).pend = some ⟨.migrate, none⟩) then s.answer (.ctl k) r else s

/-- The next unit of a MIGRATE from `va` on opens; with none left the call ends. One that another MIGRATE moves is looked
at again later. -/
def State.migrNext (s : State) (k va hi tier : Nat) (flags : Word) : State :=
  let req := flags.getLsbD 1
  match (s.app k).nextToMove va hi tier req with
  | none => s.endMigrate k flags 0
  | some m =>
    let u := m.unit (max va m.va)
    let lo := if m.range then u.1 else max u.1 va
    let top := if m.range then u.2 else min u.2 hi
    let job : Input :=
      { caller := .ctl k, m := k, n := top, a1 := num lo, a2 := num hi, a3 := num tier, a4 := flags, k := s.tick }
    if m.migr.isSome then s.later .migrationCopyDone { job with flag := true }
    else
      let a := s.app k
      let mg : Migr := ⟨s.tick, tier, newFmtOf flags, flags.getLsbD 0, some (.ctl k)⟩
      let f : Mapping → Mapping := fun q => if q.within lo top then { q with migr := some mg } else q
      (s.setApp k { a with maps := (carve a.maps lo top).map f }).later .migrationCopyDone job

/-- MIGRATE. -/
def execRiuraMigrate (s : State) : Outcome State Fault Refusal :=
  s.service true false fun s k _ =>
    let lo := s.inp.a1.toNat
    let hi := lo + s.inp.a2.toNat
    let f := s.inp.a4
    let bad : Bool := match newFmtOf f with
      | none => false
      | some n => (s.app k).maps.any fun m => decide (m.va < hi) && decide (lo < m.top) && !m.reqOk n
    if lo % 4096 ≠ 0 ∨ s.inp.a2.toNat % 4096 ≠ 0 ∨ bitsAt f.toNat 2 6 ≠ 0 ∨ f.toNat / 2 ^ 14 ≠ 0
        ∨ (s.tierRange s.inp.a3.toNat).isNone ∨ bad then s.ret eInval
    else if s.inp.a3.toNat = 1 ∧ s.masked k 9 then s.ret ePerm
    else if f.getLsbD 0 then
      (s.setApp k { s.app k with pend := some ⟨.migrate, none⟩ }).migrNext k lo hi (s.tierCode s.inp.a3.toNat) f
    else (s.ret 0).migrNext k lo hi (s.tierCode s.inp.a3.toNat) f

/-- The regions of the unit that a copy's event names, by the number of its opening: one, or the parts that PROTECT and UNMAP have
left of it meanwhile. -/
def State.copying (s : State) : List Mapping :=
  (s.app s.inp.m).maps.filter fun m => m.within s.inp.a1.toNat s.inp.n && m.migr.any fun g => decide (g.num = s.inp.k)

/-- The unit moved to the tier of its event, none where the copy cannot finish: a pool link down, or no room (R187). -/
def State.copied (s : State) : Option State :=
  if s.copying.any fun m => s.linkDown m.kind then none else s.moveAll s.inp.m s.inp.a3.toNat s.copying

/-- Its parts converted as the flags ask. -/
def State.converted (s : State) (k : Nat) (flags : Word) (ms : List Mapping) : State :=
  match newFmtOf flags with
  | none => s
  | some f => ms.foldl (fun t m => t.convertRegion k m.va f) s

/-- MIGRATION_COPY_DONE: the unit moves, converted as asked, what parked on it performs, and the next one opens. -/
def execMigrationCopyDone (s : State) : Outcome State Fault Refusal :=
  let k := s.inp.m
  let hi := s.inp.a2.toNat
  let tier := s.inp.a3.toNat
  .next (if s.inp.flag then s.migrNext k s.inp.a1.toNat hi tier s.inp.a4
    else match s.copied with
      | none => s.postFront .migrationCopyFail { s.inp with flag := true }
      | some t => ((t.converted k s.inp.a4 s.copying).migrNext k s.inp.n hi tier s.inp.a4).replayParked)

/-- MIGRATION_COPY_FAIL: the mapping stays, what parked performs on the old frames, and the failure is returned or logged. It comes
of a copy that has failed (the event's flag), or of one that cannot finish now. -/
def execMigrationCopyFail (s : State) : Outcome State Fault Refusal :=
  let k := s.inp.m
  .next (if s.copying.isEmpty || (!s.inp.flag && s.copied.isSome) then s
    else
      let a := s.app k
      let t := s.setApp k { a with maps := a.maps.map fun q => if s.copying.contains q then { q with migr := none } else q }
      let u := { t with jobs := t.jobs.filter fun j => !(decide (j.1 = Instr.migrationCopyDone) && decide (j.2 = { s.inp with flag := false })) }
      (if s.inp.a4.getLsbD 0 then u.endMigrate k s.inp.a4 eAgain else u.logApp k [4]).replayParked)

/-! ### KVALLOC and KVFREE (R268, R269) -/

/-- KV pages of an application that are FREE, from a start page on. -/
def App.freeKv (a : App) (start : Nat) : List Nat :=
  ((List.range (2 ^ 20)).map fun i => (start + i) % 2 ^ 20).filter fun p => decide ((mget {} a.kv p).owner = 0)

/-- A zeroed frame of a G-die for each page (R268, R435). -/
def State.giveKv (s : State) (k : Nat) (owner : BitVec 2) : List Nat → Option State
  | [] => some s
  | p :: ps =>
    let d := if s.freeHbm 2 < s.freeHbm 3 then 3 else 2
    match s.takeFrames (hbmBase d) (hbmSize d) 65536 65536 with
    | none => none
    | some (pa, t) => (t.setApp k { t.app k with kv := mput (t.app k).kv p ⟨owner, pa⟩ }).giveKv k owner ps

/-- The bytes of a page list. -/
def kvList (ps : List Nat) : List Nat := wordBytes ps.length ++ ps.flatMap fun p => (cellsLE 0 4 p).map Prod.snd

/-- A read-only page list at an address of Riura's choice. -/
def State.giveList (s : State) (k : Nat) (ps : List Nat) : Option (Nat × State) :=
  let bs := kvList ps
  let len := roundUp bs.length 4096
  match s.pickVa k len 4096 with
  | none => none
  | some va =>
    (s.allocTier 0 len 4096).map fun r =>
      (va, (r.2.2.writePhys false ((List.zip (List.range bs.length) bs).map fun x => (r.1 + x.1, x.2))).addMap k
        { va := va, pages := len / 4096, pa := r.1, attr := attrOf 0x3F true false false, kind := r.2.1, range := false,
          pageLog := 12, migr := none })

/-- KVALLOC. -/
def execRiuraKvalloc (s : State) : Outcome State Fault Refusal :=
  s.service true false fun s k _ =>
    if s.inp.a2 ≠ 1 ∧ s.inp.a2 ≠ 2 then s.ret eInval
    else
      let free := (s.app k).freeKv (Config.vaHint s.tick)
      if free.length < s.inp.a1.toNat then s.ret eNomem
      else
        let ps := free.take s.inp.a1.toNat
        match (s.giveKv k (BitVec.ofNat 2 s.inp.a2.toNat) ps).bind fun t => t.giveList k ps with
        | none => s.ret eNomem
        | some (va, t) => t.ret (num va)

/-- The pages of a list of a count. -/
def State.kvEntries (s : State) (k va n : Nat) : Option (List Nat) :=
  (s.readFor k ctlWho (va + 8) (4 * n)).map fun bs => (List.range n).map fun i => leNat ((bs.drop (4 * i)).take 4)

/-- KVFREE: every listed page becomes FREE in one event. -/
def execRiuraKvfree (s : State) : Outcome State Fault Refusal :=
  s.service true false fun s k _ =>
    let va := s.inp.a1.toNat
    match s.readWordFor k ctlWho va with
    | none => s.ret eInval
    | some n =>
      if n ≠ s.inp.a2.toNat ∨ 2 ^ 20 < n then s.ret eInval
      else match s.kvEntries k va n with
        | none => s.ret eInval
        | some ps =>
          let a := s.app k
          if (distinct ps []).length ≠ n ∨ (ps.any fun p => decide (2 ^ 20 ≤ p) || decide ((mget {} a.kv p).owner = 0)) then
            s.ret eInval
          else
            let t := s.setApp k { a with kv := ps.foldl mdel a.kv }
            (ps.foldl (fun u p => u.release ⟨(mget {} a.kv p).pa, 65536, a.tenant⟩) t).ret 0

end Sys2Proof.Machine
end

