-- ==== Sys2Proof/Machine/Loader.lean ====
section
/-! DEFINITION. APPLOAD (R45, R46, R48): the Shurra code object (R63 to R67), its relocations (R68 to R70), and the start of
an application (R41, R88, R173, R268). -/

namespace Sys2Proof.Machine

/-! ### The object as bytes -/

/-- Bytes of a file: how many, and the byte at an offset. -/
structure Sco where
  len : Nat
  byte : Nat → Nat

/-- `n` bytes at an offset as a number. -/
def Sco.le (o : Sco) (off n : Nat) : Nat := leNat ((List.range n).map fun i => o.byte (off + i))

/-- A signed 8-byte word. -/
def Sco.int (o : Sco) (off : Nat) : Int := sgn 64 (o.le off 8)

/-- A NUL-terminated string at an offset, within `n` bytes. -/
def Sco.string (o : Sco) (off : Nat) : Nat → Option (List Byte)
  | 0 => none
  | n + 1 => if o.byte off = 0 then some [] else (o.string (off + 1) n).map (BitVec.ofNat 8 (o.byte off) :: ·)

/-- The part of a file from an offset on. -/
def Sco.sub (o : Sco) (off len : Nat) : Sco := ⟨len, fun i => o.byte (off + i)⟩

/-- What ends a load: the code, CMDDET.INDEX and CMDDET.SECT (R45). -/
structure LoadErr where
  code : Word
  index : Nat := 0
  sect : Nat := 0
deriving DecidableEq, Repr

/-- The first rule of a list that is broken: E_FORMAT at its field. -/
def broken (sect : Nat) (rules : List (Bool × Nat)) : Option LoadErr :=
  (rules.find? fun r => !r.1).map fun r => ⟨eFormat, r.2, sect⟩

/-- The characters of a name. -/
def asciiOf (t : String) : List Byte := t.toList.map fun c => BitVec.ofNat 8 c.toNat

/-- An ELF identification. -/
def elfMagic : Nat := 0x464C457F

/-! ### Headers (R63, R64) -/

/-- A section header. -/
structure Shdr where
  idx : Nat
  name : List Byte
  type : Nat
  addr : Nat
  off : Nat
  size : Nat
deriving DecidableEq, Repr

/-- Program headers. -/
def Sco.phnum (o : Sco) : Nat := o.le 56 2
/-- Section headers. -/
def Sco.shnum (o : Sco) : Nat := o.le 60 2
/-- Offset of program header i. -/
def Sco.ph (o : Sco) (i : Nat) : Nat := o.le 32 8 + 56 * i
/-- Offset of section header i. -/
def Sco.sh (o : Sco) (i : Nat) : Nat := o.le 40 8 + 64 * i

/-- Indices of the PT_LOAD segments. -/
def Sco.loads (o : Sco) : List Nat := (List.range o.phnum).filter fun i => decide (o.le (o.ph i) 4 = 1)

/-- The identification and type fields of the header. -/
def Sco.idRules (o : Sco) (machine : Nat) : List (Bool × Nat) :=
  [(decide (64 ≤ o.len), 0), (decide (o.le 0 4 = elfMagic), 0), (decide (o.byte 4 = 2), 4), (decide (o.byte 5 = 1), 5),
   (decide (o.byte 7 = 0), 7), (decide (o.le 16 2 = 3), 16), (decide (o.le 18 2 = machine), 18)]

/-- The tables lie in the file, and so does every segment. -/
def Sco.tableRules (o : Sco) : List (Bool × Nat) :=
  [(decide (o.ph o.phnum ≤ o.len), 32), (decide (o.sh o.shnum ≤ o.len), 40),
   (decide (o.phnum = 0) || decide (o.le 54 2 = 56), 54), (decide (o.shnum = 0) || decide (o.le 58 2 = 64), 58),
   (decide (o.shnum = 0) || decide (o.le 62 2 < o.shnum), 62)]

/-- Whether `n` bytes from an offset on lie in the file. -/
def Sco.inFile (o : Sco) (off n : Nat) : Bool := decide (n = 0) || decide (off + n ≤ o.len)

/-- The bytes of every segment lie in the file (PT_NULL names none; R48). -/
def Sco.segRules (o : Sco) : List (Bool × Nat) :=
  (List.range o.phnum).map fun i => (decide (o.le (o.ph i) 4 = 0) || o.inFile (o.le (o.ph i + 8) 8) (o.le (o.ph i + 32) 8), o.ph i + 8)

/-- The bytes of the sections in a list lie in the file (SHT_NULL and SHT_NOBITS name none). -/
def Sco.sectRules (o : Sco) (is : List Nat) : List (Bool × Nat) :=
  is.map fun i =>
    let t := o.le (o.sh i + 4) 4
    (decide (t = 0) || decide (t = 8) || o.inFile (o.le (o.sh i + 24) 8) (o.le (o.sh i + 32) 8), o.sh i + 24)

/-- The name of section i. -/
def Sco.sectName (o : Sco) (i : Nat) : Option (List Byte) :=
  let st := o.sh (o.le 62 2)
  let n := o.le (o.sh i) 4
  if o.le (st + 32) 8 ≤ n then none else o.string (o.le (st + 24) 8 + n) (o.le (st + 32) 8 - n)

/-- Every section has a name. -/
def Sco.nameRules (o : Sco) : List (Bool × Nat) := (List.range o.shnum).map fun i => ((o.sectName i).isSome, o.sh i)

/-- The section headers. -/
def Sco.sections (o : Sco) : List Shdr :=
  (List.range o.shnum).map fun i =>
    { idx := i, name := (o.sectName i).getD [], type := o.le (o.sh i + 4) 4, addr := o.le (o.sh i + 16) 8,
      off := o.le (o.sh i + 24) 8, size := o.le (o.sh i + 32) 8 }

/-- Whether a name is .text or .text.n. -/
def isText (n : List Byte) : Bool := decide (n = asciiOf ".text") || decide (n.take 6 = asciiOf ".text.")

/-- The type that R64 gives a section of a name. -/
def sectType (n : List Byte) : Option Nat :=
  if isText n ∨ n = asciiOf ".rodata" ∨ n = asciiOf ".data" ∨ n = asciiOf ".kconst" ∨ n = asciiOf ".got" then some 1
  else if n = asciiOf ".kinfo" then some 0x70000001
  else if n = asciiOf ".image" then some 0x70000002
  else if n = asciiOf ".ctl" then some 0x70000003
  else if n.take 5 = asciiOf ".rela" then some 4
  else if n = asciiOf ".symtab" then some 2
  else if n = asciiOf ".strtab" then some 3
  else none

/-- The rules of R64 for one section. -/
def Sco.kindRules (o : Sco) (h : Shdr) : List (Bool × Nat) :=
  [((sectType h.name).all fun t => decide (h.type = t), o.sh h.idx + 4),
   (!isText h.name || decide (h.addr % 4096 = 0), o.sh h.idx + 16),
   (decide (h.name ≠ asciiOf ".kconst") || decide (h.addr % 64 = 0), o.sh h.idx + 16),
   (decide (h.name ≠ asciiOf ".got") || decide (h.addr % 8 = 0), o.sh h.idx + 16),
   (decide (h.name ≠ asciiOf ".got") || decide (h.size % 8 = 0), o.sh h.idx + 32),
   (decide (h.name ≠ asciiOf ".kinfo") || decide (h.size % 64 = 0), o.sh h.idx + 32),
   (decide (h.name ≠ asciiOf ".image") || decide (h.size % 16 = 0), o.sh h.idx + 32),
   (decide (h.type ≠ 4) || decide (h.size % 24 = 0), o.sh h.idx + 32)]

/-- The section of a name. -/
def sectOf (hs : List Shdr) (n : String) : Option Shdr := hs.find? fun h => decide (h.name = asciiOf n)

/-- The preferred base: the lowest address of a PT_LOAD segment (R63). -/
def Sco.base (o : Sco) : Nat :=
  match o.loads.map fun i => o.le (o.ph i + 16) 8 with
  | [] => 0
  | a :: as => as.foldl min a

/-- The PT_LOAD segment of the lowest p_vaddr. -/
def Sco.lowest (o : Sco) : Nat := (o.loads.find? fun i => decide (o.le (o.ph i + 16) 8 = o.base)).getD 0

/-- There is a PT_LOAD segment (log); the preferred base is 2 MiB-aligned; .ctl is there, and .image exactly in a fat object. -/
def Sco.wholeRules (o : Sco) (hs : List Shdr) : List (Bool × Nat) :=
  [(!o.loads.isEmpty, 56), (decide (o.base % 2 ^ 21 = 0), o.ph o.lowest + 16),
   (decide ((sectOf hs ".image").isSome = (o.le 48 4).testBit 16), 48), ((sectOf hs ".ctl").isSome, 60)]

/-- The version rule of R63. -/
def Sco.versionOk (o : Sco) : Bool :=
  let maj := o.byte 48
  let min_ := o.byte 49
  decide (1 ≤ maj) && decide (maj ≤ 3) && (decide (maj < 3) || decide (min_ ≤ Config.scoMinor.toNat))

/-! ### The control program's image (R64) -/

/-- Indices of the RELA sections of a control image. -/
def Sco.relas (o : Sco) : List Nat := (List.range o.shnum).filter fun i => decide (o.le (o.sh i + 4) 4 = 4)

/-- The records of its RELA sections: offsets in the file. -/
def Sco.relaRecs (o : Sco) : List Nat :=
  o.relas.flatMap fun i => (List.range (o.le (o.sh i + 32) 8 / 24)).map fun k => o.le (o.sh i + 24) 8 + 24 * k

/-- Whether the control image is an RV64 ELF64 position-independent executable with no relocation but R_RISCV_RELATIVE; its
EI_OSABI is asked to be 0 as the object's is (log). -/
def Sco.ctlCheck (o : Sco) (off sect : Nat) : Option LoadErr :=
  let at_ : List (Bool × Nat) → Option LoadErr := fun rs => broken sect (rs.map fun r => (r.1, off + r.2))
  match at_ (o.idRules 243) with
  | some e => some e
  | none =>
    match at_ o.tableRules with
    | some e => some e
    | none =>
      match at_ (o.segRules ++ o.sectRules (List.range o.shnum)) with
      | some e => some e
      | none => at_ (o.relaRecs.map fun r => (decide (o.le (r + 8) 4 = 3), r + 8))

/-! ### Images and kernels (R65 to R67) -/

/-- An image: its required features, its .text section, and its records by first and count. -/
structure Image where
  req : Word
  text : Nat
  first : Nat
  count : Nat
deriving DecidableEq, Repr

/-- The image entries. -/
def Sco.images (o : Sco) (h : Shdr) : List Image :=
  (List.range (h.size / 16)).map fun n =>
    let a := h.off + 16 * n
    ⟨BitVec.ofNat 64 (o.le a 8), o.le (a + 8) 2, o.le (a + 10) 2, o.le (a + 12) 2⟩

/-- The rules of R66 for the image table. -/
def Sco.imageRules (o : Sco) (hs : List Shdr) (h : Shdr) (recs : Nat) : List (Bool × Nat) :=
  (List.range (h.size / 16)).flatMap fun n =>
    let a := h.off + 16 * n
    [(hs.any fun t => decide (t.idx = o.le (a + 8) 2) && isText t.name, a + 8),
     (decide (o.le (a + 10) 2 + o.le (a + 12) 2 ≤ recs), a + 10), (decide (o.le (a + 14) 2 = 0), a + 14)]

/-- Kernel records in the object. -/
def recCount (hs : List Shdr) : Nat := ((sectOf hs ".kinfo").map fun h => h.size / 64).getD 0

/-- Offset of record k. -/
def recOff (hs : List Shdr) (k : Nat) : Nat := ((sectOf hs ".kinfo").map fun h => h.off + 64 * k).getD 0

/-- The image of a non-fat object: every record, and the union of their FEATS; one without a .text section names a section that
is not there. -/
def Sco.soleImage (o : Sco) (hs : List Shdr) : Image :=
  ⟨(List.range (recCount hs)).foldl (fun f k => f ||| BitVec.ofNat 64 (o.le (recOff hs k + 0x18) 8)) 0,
   ((sectOf hs ".text").map Shdr.idx).getD hs.length, 0, recCount hs⟩

/-- How many features a word names. -/
def bitCount (w : Word) : Nat := ((List.range 64).filter fun i => w.getLsbD i).length

/-- The image chosen for a tenant (R67), with its index. -/
def chooseImage (have_ : Word) (is : List Image) : Option (Nat × Image) :=
  (List.zip (List.range is.length) is).foldl (fun (b : Option (Nat × Image)) (x : Nat × Image) =>
    if x.2.req &&& ~~~have_ ≠ 0 then b
    else match b with
      | none => some x
      | some y => if bitCount y.2.req < bitCount x.2.req then some x else b) none

/-- The images of an object: those of its table, or the one of an object that is not fat. -/
def Sco.allImages (o : Sco) (hs : List Shdr) : List Image :=
  match sectOf hs ".image" with
  | some h => o.images h
  | none => [o.soleImage hs]

/-- The sections of the images that are not chosen, code and relocations: nothing of them is checked or loaded (R67). Every code
section but that of the chosen image, or of an object's only one, counts as another image's, one that no entry names too (log). -/
def Sco.others (o : Sco) (have_ : Word) (hs : List Shdr) : List Shdr :=
  let text := match sectOf hs ".image" with
    | some _ => (chooseImage have_ (o.allImages hs)).map fun x => x.2.text
    | none => some (o.soleImage hs).text
  let out := hs.filter fun h => isText h.name && decide (text ≠ some h.idx)
  hs.filter fun h => out.any fun g => decide (h.idx = g.idx) || decide (h.name = asciiOf ".rela" ++ g.name)

/-! ### Step 2 of R48 -/

/-- Every entry of .got is filled by one SHR_ABS64 record (R64); the fault lies at the entry. -/
def Sco.gotCheck (o : Sco) (hs : List Shdr) : Option LoadErr :=
  match sectOf hs ".got" with
  | none => none
  | some g =>
    let places : List Nat := match sectOf hs ".rela.got" with
      | none => []
      | some r => ((List.range (r.size / 24)).filter fun k => decide (o.le (r.off + 24 * k + 8) 4 = 1)).map fun k => o.le (r.off + 24 * k) 8
    broken g.idx ((List.range (g.size / 8)).map fun k =>
      (decide ((places.filter fun p => decide (p = g.addr + 8 * k)).length = 1), g.off + 8 * k))

/-- The header and the section table; what belongs to images that are not chosen is left out. -/
def Sco.check (o : Sco) (have_ : Word) : Option LoadErr :=
  match broken 0 (o.idRules 0x0B5C) with
  | some e => some e
  | none =>
    if !o.versionOk then some ⟨eVersion, 0, 0⟩
    else match broken 0 ((decide (o.le 48 4 < 2 ^ 17), 48) :: o.tableRules ++ o.nameRules) with
      | some e => some e
      | none =>
        let hs := o.sections
        let mine := hs.filter fun h => !(o.others have_ hs).contains h
        match broken 0 (o.segRules ++ o.sectRules (mine.map Shdr.idx)) with
        | some e => some e
        | none =>
          match broken 0 (mine.flatMap o.kindRules ++ o.wholeRules hs) with
          | some e => some e
          | none => o.gotCheck hs

/-- The name of a record's kernel. -/
def Sco.kernelName (o : Sco) (hs : List Shdr) (k : Nat) : Option (List Byte) :=
  match sectOf hs ".strtab" with
  | none => none
  | some t =>
    let n := o.le (recOff hs k) 4
    if t.size ≤ n then none else o.string (t.off + n) (t.size - n)

/-- The kernel record k. -/
def Sco.kernel (o : Sco) (hs : List Shdr) (k : Nat) : KInfo :=
  let a := recOff hs k
  { name := (o.kernelName hs k).getD [], entry := o.le (a + 8) 8, crew := o.le (a + 0x10) 2, wspan := o.le (a + 0x12) 2,
    tiles := o.byte (a + 0x14), preds := o.byte (a + 0x15), vlgmin := o.byte (a + 0x16),
    feats := BitVec.ofNat 64 (o.le (a + 0x18) 8), cboff := o.le (a + 0x20) 4, cblen := o.le (a + 0x24) 4 }

/-- The rules of R65 for record k of an image; `names` are those of the records before it. -/
def Sco.kernelRules (o : Sco) (hs : List Shdr) (img : Nat) (req : Word) (k : Nat) (names : List (List Byte)) :
    List (Bool × Nat) :=
  let a := recOff hs k
  let i := o.kernel hs k
  let kc := ((sectOf hs ".kconst").map Shdr.size).getD 0
  [((o.kernelName hs k).any fun n => !names.contains n, a), (decide (o.le (a + 4) 4 = 0), a + 4),
   (decide (i.entry % 4 = 0), a + 8), (decide (1 ≤ i.crew) && decide (i.crew ≤ 32), a + 0x10),
   (decide (128 ≤ i.wspan) && decide (i.wspan ≤ 1280) && decide (i.wspan % 16 = 0), a + 0x12),
   (decide (1 ≤ i.preds) && decide (i.preds ≤ 96), a + 0x15), (decide (i.vlgmin ≤ 2), a + 0x16),
   (decide (o.byte (a + 0x17) = img), a + 0x17), (decide (i.feats &&& ~~~req = 0), a + 0x18),
   (decide (i.cblen = 0) || (decide (i.cboff % 64 = 0) && decide (i.cboff < kc)), a + 0x20),
   (decide (i.cblen = 0) || (decide (i.cblen % 64 = 0) && decide (i.cblen ≤ 4096) && decide (i.cboff + i.cblen ≤ kc)), a + 0x24),
   (decide (o.le (a + 0x28) 24 = 0), a + 0x28)]

/-- The records of an image checked in order. -/
def Sco.checkKernels (o : Sco) (hs : List Shdr) (img : Nat) (im : Image) : Option LoadErr :=
  let sect := ((sectOf hs ".kinfo").map Shdr.idx).getD 0
  broken sect ((List.range im.count).flatMap fun j =>
    o.kernelRules hs img im.req (im.first + j) ((List.range j).map fun q => (o.kernelName hs (im.first + q)).getD []))

/-! ### Relocations (R68 to R70) -/

/-- Where the parts of a load lie: loaded sections, and what is added to an object address. -/
structure Layout where
  loaded : List Shdr
  delta : Int

/-- A relocation record. -/
structure Rela where
  place : Nat
  type : Nat
  sym : Nat
  addend : Int
deriving DecidableEq, Repr

/-- Record k of a relocation section. -/
def Sco.rela (o : Sco) (h : Shdr) (k : Nat) : Rela :=
  let a := h.off + 24 * k
  ⟨o.le a 8, o.le (a + 8) 4, o.le (a + 12) 4, o.int (a + 16)⟩

/-- The records of a relocation section. -/
def Sco.relaOf (o : Sco) (h : Shdr) : List Rela := (List.range (h.size / 24)).map (o.rela h)

/-- A symbol's section index and value; none where there is no such symbol. -/
def Sco.symbol (o : Sco) (hs : List Shdr) (i : Nat) : Option (Nat × Nat) :=
  match sectOf hs ".symtab" with
  | none => none
  | some t => if t.size < 24 * (i + 1) then none else some (o.le (t.off + 24 * i + 6) 2, o.le (t.off + 24 * i + 8) 8)

/-- S: a symbol's loaded address; none for an undefined symbol, or one of a section that is not loaded. -/
def Sco.symAddr (o : Sco) (hs : List Shdr) (l : Layout) (i : Nat) : Option Int :=
  match o.symbol hs i with
  | none => none
  | some (sec, v) =>
    if sec = 0 then none
    else if sec = 0xFFF1 then some v
    else if l.loaded.any fun h => decide (h.idx = sec) then some (v + l.delta) else none

/-- hi and lo of R68. -/
def relHi (v : Int) : Int := (v + 0x800) / 4096
/-- lo. -/
def relLo (v : Int) : Int := v - relHi v * 4096
/-- Whether hi fits its field. -/
def hiFits (v : Int) : Bool := decide (-0x80000800 ≤ v) && decide (v ≤ 0x7FFFF7FF)

/-- An immediate placed in an I12 word. -/
def putI12 (w imm : Nat) : Nat := w % 2 ^ 21 / 2 * 2 + imm / 2 * 2 ^ 21 + imm % 2
/-- In an S12 word. -/
def putS12 (w imm : Nat) : Nat :=
  w % 2 ^ 28 / 2 ^ 14 * 2 ^ 14 + w % 2 ^ 7 / 2 * 2 + imm / 256 * 2 ^ 28 + imm / 2 % 128 * 2 ^ 7 + imm % 2
/-- In an H20 word. -/
def putH20 (w imm : Nat) : Nat := w % 2 ^ 14 / 4 * 4 + imm / 4 * 2 ^ 14 + imm % 4

/-- G: the loaded address of the .got entry whose record names a symbol with addend 0. -/
def Sco.gotOf (o : Sco) (hs : List Shdr) (l : Layout) (sym : Nat) : Option Int :=
  match sectOf hs ".rela.got", l.loaded.any fun h => decide (h.name = asciiOf ".got") with
  | some r, true =>
    ((o.relaOf r).find? fun x => decide (x.type = 1) && decide (x.sym = sym) && decide (x.addend = 0)).map fun x => x.place + l.delta
  | some _, false => none
  | none, _ => none

/-- The value of a record of type 3 or 6. -/
def Sco.hiValue (o : Sco) (hs : List Shdr) (l : Layout) (r : Rela) : Option Int :=
  (if r.type = 6 then o.gotOf hs l r.sym else o.symAddr hs l r.sym).map fun s => s + r.addend - (r.place + l.delta)

/-- The value of a record of type 4, 5 or 7 by its pair in the same section; its symbol is a label in a loaded section. -/
def Sco.loValue (o : Sco) (hs : List Shdr) (l : Layout) (rs : List Rela) (r : Rela) : Option Int :=
  if r.addend ≠ 0 then none
  else match o.symbol hs r.sym with
    | none => none
    | some (sec, v) =>
      if !(l.loaded.any fun h => decide (h.idx = sec) && decide (h.addr ≤ v) && decide (v < h.addr + h.size)) then none
      else match rs.find? fun q => decide (q.place = v) && decide (q.type = if r.type = 7 then 6 else 3) with
      | none => none
      | some q => o.hiValue hs l q

/-- The bytes of a relocation's place. -/
def Rela.width (r : Rela) : Nat := if r.type = 1 ∨ r.type = 2 then 8 else 4

/-- Whether a place lies in a loaded section, aligned. -/
def Rela.placeOk (r : Rela) (l : Layout) : Bool :=
  decide (r.place % r.width = 0) &&
    l.loaded.any fun h => decide (h.addr ≤ r.place) && decide (r.place + r.width ≤ h.addr + h.size)

/-- The word at a place: as already patched, else as in the object. -/
def Sco.wordAt (o : Sco) (l : Layout) (ps : List (Nat × Nat × Nat)) (r : Rela) : Nat :=
  match ps.reverse.find? fun p => decide (p.1 = r.place) && decide (p.2.1 = 4) with
  | some p => p.2.2
  | none =>
    match l.loaded.find? fun h => decide (h.addr ≤ r.place) && decide (r.place < h.addr + h.size) with
    | none => 0
    | some h => o.le (h.off + (r.place - h.addr)) 4

/-- A value as a field of `b` bits. -/
def immField (b : Nat) (v : Int) : Nat := patInt b v

/-- Whether a record's symbol is defined (R70). -/
def Sco.defined (o : Sco) (hs : List Shdr) (i : Nat) : Bool := (o.symbol hs i).any fun x => decide (x.1 ≠ 0)

/-- One record: the new word of its place, or none where it is rejected. -/
def Sco.relocate (o : Sco) (hs : List Shdr) (l : Layout) (rs : List Rela) (ps : List (Nat × Nat × Nat)) (r : Rela) : Option Nat :=
  if !r.placeOk l || !o.defined hs r.sym then none
  else
    let w := o.wordAt l ps r
    let p := (r.place : Int) + l.delta
    match r.type with
    | 1 => (o.symAddr hs l r.sym).map fun s => immField 64 (s + r.addend)
    | 2 => (o.symAddr hs l r.sym).map fun s => immField 64 (s + r.addend - p)
    | 3 => ((o.hiValue hs l r).filter hiFits).map fun v => putH20 w (immField 20 (relHi v))
    | 4 => (o.loValue hs l rs r).map fun v => putI12 w (immField 12 (relLo v))
    | 5 => (o.loValue hs l rs r).map fun v => putS12 w (immField 12 (relLo v))
    | 6 => ((o.hiValue hs l r).filter hiFits).map fun v => putH20 w (immField 20 (relHi v))
    | 7 => (o.loValue hs l rs r).map fun v => putI12 w (immField 12 (relLo v))
    | 8 =>
      ((o.symAddr hs l r.sym).map fun s => s + r.addend - p).bind fun v =>
        if v % 4 = 0 ∧ -0x200000 ≤ v ∧ v ≤ 0x1FFFFC then some (putH20 w (immField 20 (v / 4))) else none
    | 9 =>
      ((o.symAddr hs l r.sym).map fun s => s + r.addend - p).bind fun v =>
        if v % 4 = 0 ∧ -0x2000 ≤ v ∧ v ≤ 0x1FFC then some (putS12 w (immField 12 (v / 4))) else none
    | _ => none

/-- The records of one section in order: the patches (place, bytes, word), or the first record rejected. -/
def Sco.relocSect (o : Sco) (hs : List Shdr) (l : Layout) (sect : Nat) (all : List Rela) :
    Nat → List Rela → List (Nat × Nat × Nat) → Except LoadErr (List (Nat × Nat × Nat))
  | _, [], ps => .ok ps
  | k, r :: rs, ps =>
    match o.relocate hs l all ps r with
    | none => .error ⟨eReloc, k, sect⟩
    | some w => o.relocSect hs l sect all (k + 1) rs (ps ++ [(r.place, r.width, w)])

/-- Relocation sections in section order. -/
def Sco.relocAll (o : Sco) (hs : List Shdr) (l : Layout) : List Shdr → List (Nat × Nat × Nat) → Except LoadErr (List (Nat × Nat × Nat))
  | [], ps => .ok ps
  | h :: rest, ps =>
    match o.relocSect hs l h.idx (o.relaOf h) 0 (o.relaOf h) ps with
    | .error e => .error e
    | .ok qs => o.relocAll hs l rest qs

/-- The relocation sections but those of images that are not chosen (R67, R70). -/
def relaSects (hs others : List Shdr) : List Shdr := hs.filter fun h => decide (h.type = 4) && !others.contains h

/-! ### Placing (R48, R432) -/

/-- The loaded sections of an image (R64, R67). -/
def loadedOf (hs : List Shdr) (text : Nat) : List Shdr :=
  hs.filter fun h => decide (h.idx = text) || decide (h.name = asciiOf ".rodata") || decide (h.name = asciiOf ".data") ||
    decide (h.name = asciiOf ".kconst") || decide (h.name = asciiOf ".got")

/-- Those of them that have bytes. -/
def filled (ls : List Shdr) : List Shdr := ls.filter fun h => decide (h.size ≠ 0)

/-- Bytes from the preferred base to the end of the loaded sections. -/
def objSpan (base : Nat) (ls : List Shdr) : Nat := roundUp (((ls.map fun h => h.addr + h.size).foldl max base) - base) 4096

/-- Bytes of loaded sections below the preferred base, which is that of the segments alone (R63). -/
def objLow (base : Nat) (ls : List Shdr) : Nat := roundUp (base - (ls.map Shdr.addr).foldl min base) 4096

/-- Whether loaded sections may stand with their base at an address. -/
def fitsAt (b low span : Nat) : Bool := decide (low ≤ b) && rangeOk (b - low) (low + span)

/-- The base of step 5. -/
def baseFor (want pref low span : Nat) : Except LoadErr Nat :=
  let least := roundUp (2 ^ 21 + low) (2 ^ 21)
  if want ≠ 0 then (if want % 2 ^ 21 = 0 ∧ fitsAt want low span then .ok want else .error ⟨eInval, 0, 0⟩)
  else if fitsAt pref low span then .ok pref
  else if fitsAt least low span then .ok least else .error ⟨eNomem, 0, 0⟩

/-- A section's attribute word: FMT 0x3F, BLK 0, ENC 0, .text execute and read, .data read and write, others read. -/
def sectAttr (h : Shdr) : Word :=
  if isText h.name then attrOf 0x3F true false true
  else if h.name = asciiOf ".data" then attrOf 0x3F true true false else attrOf 0x3F true false false

/-- One more region at an address, with frames of tier 1; pages of it that are mapped stay. -/
def State.mapRegion (s : State) (k va len : Nat) (attr : Word) : Option State :=
  let lo := va / 4096 * 4096
  let hi := roundUp (va + len) 4096
  if len = 0 then some s
  else if meetsUsed (s.app k).usedVa lo (hi - lo) then
    (List.range ((hi - lo) / 4096)).foldl (fun (o : Option State) i =>
      o.bind fun t => if (findMap (t.app k).maps (lo + 4096 * i)).isSome then some t
        else t.mapPieces k 0 attr 30 64 (lo + 4096 * i) 4096) (some s)
  else s.mapPieces k 0 attr 30 64 lo (hi - lo)

/-- Riura writes bytes of an application whatever the permissions of their pages. -/
def State.fillBytes (s : State) (k va : Nat) (bs : List Nat) : State :=
  s.writePhys false ((List.zip (List.range bs.length) bs).filterMap fun x =>
    (findMap (s.app k).maps (va + x.1)).map fun m => (m.pa + (va + x.1 - m.va), x.2))

/-- The sections mapped and filled. -/
def State.placeSects (s : State) (k : Nat) (o : Sco) (delta : Int) : List Shdr → Option State
  | [] => some s
  | h :: hs =>
    let va := ((h.addr : Int) + delta).toNat
    (s.mapRegion k va h.size (sectAttr h)).bind fun t =>
      (t.fillBytes k va ((List.range h.size).map fun i => o.byte (h.off + i))).placeSects k o delta hs

/-- The relocated words written. -/
def State.patch (s : State) (k : Nat) (delta : Int) (ps : List (Nat × Nat × Nat)) : State :=
  ps.foldl (fun t p => t.fillBytes k ((p.1 : Int) + delta).toNat ((cellsLE 0 p.2.1 p.2.2).map Prod.snd)) s

/-- A segment's attribute word by its flags. -/
def segAttr (flags : Nat) : Word :=
  attrOf 0x3F (flags.testBit 2 || flags.testBit 1) (flags.testBit 1) (flags.testBit 0 && !flags.testBit 1)

/-- The segments of the control image mapped, filled and relocated at a base. -/
def State.placeCtl (s : State) (k : Nat) (o : Sco) (base : Nat) : Option State :=
  let seg : Option State → Nat → Option State := fun q i =>
    q.bind fun t =>
      let va := base + o.le (o.ph i + 16) 8
      (t.mapRegion k va (o.le (o.ph i + 40) 8) (segAttr (o.le (o.ph i + 4) 4))).map fun u =>
        u.fillBytes k va ((List.range (o.le (o.ph i + 32) 8)).map fun j => o.byte (o.le (o.ph i + 8) 8 + j))
  (o.loads.foldl seg (some s)).map fun t =>
    o.relaRecs.foldl (fun u r =>
      u.fillBytes k (base + o.le r 8) ((cellsLE 0 8 (immField 64 ((base : Int) + o.int (r + 16)))).map Prod.snd)) t

/-- A die's share of the weight store for a new application (log). -/
def State.giveShare (s : State) (k : Nat) (d : Nat) : State :=
  let size := Config.weightShare s.tick d % (weightSize d + 1) / 4096 * 4096
  let used := s.apps.map fun a => (mget 0 a.2.wsOff d, mget 0 a.2.wsOff d + mget 0 a.2.wsSize d)
  match firstFit 0 (weightSize d) size 4096 0 used with
  | none => s
  | some off =>
    let a := s.app k
    s.setApp k { a with wsOff := mset 0 a.wsOff d off, wsSize := mset 0 a.wsSize d size }

/-- The windows of a new application. -/
def State.giveWindows (s : State) (k : Nat) : Option State :=
  (s.pickVa k kvBytes 65536).bind fun kv =>
    let t := s.setApp k { s.app k with kvwin := kv }
    (t.pickVa k (2 ^ 31) (2 ^ 21)).map fun ws =>
      [0, 1, 2, 3].foldl (fun u d => u.giveShare k d) (t.setApp k { t.app k with wsWin := ws })

/-- The argument block copied to an address of Riura's choice; 0 where there is none. -/
def State.giveArgs (s : State) (k : Nat) (bs : List Nat) : Option (Nat × State) :=
  if bs = [] then some (0, s)
  else (s.pickVa k (roundUp bs.length 4096) 4096).bind fun va =>
    (s.mapRegion k va bs.length (attrOf 0x3F true true false)).map fun t => (va, t.fillBytes k va bs)

/-! ### The load (R48) -/

/-- A source byte of an address argument (R46). -/
def State.srcByte (s : State) (a : Nat) : Nat :=
  if a.testBit 63 then (mget unlistedByte s.hostMem (a % 2 ^ 52)).toNat else (mget unlistedByte s.mem a).toNat

/-- Whether the device can read every byte of a source, none of them in a frame of an application (R29). -/
def State.srcOk (s : State) (a n : Nat) : Bool :=
  if n = 0 then true
  else if a.testBit 63 then decide (a % 2 ^ 52 + n ≤ 2 ^ 52)
  else decide (a + n ≤ windowBytes) &&
    (s.usedFrames.all fun u => decide (a + n ≤ u.1) || decide (u.2 ≤ a)) &&
    (s.poison.all fun g => decide (g.1 * 64 + 64 ≤ a) || decide (a + n ≤ g.1 * 64))

/-- What has been decided before anything is mapped. -/
structure Plan where
  sections : List Shdr
  index : Nat
  image : Image
  base : Nat
  delta : Int
  patches : List (Nat × Nat × Nat)

/-- Steps 2 to 6. -/
def Sco.plan (o : Sco) (have_ : Word) (want : Nat) : Except LoadErr Plan :=
  match o.check have_ with
  | some e => .error e
  | none =>
    let hs := o.sections
    let ctl := (sectOf hs ".ctl").map fun h => (o.sub h.off h.size).ctlCheck h.off h.idx
    match ctl.join with
    | some e => .error e
    | none =>
      match (sectOf hs ".image").bind fun h => broken h.idx (o.imageRules hs h (recCount hs)) with
      | some e => .error e
      | none =>
        match chooseImage have_ (o.allImages hs) with
        | none => .error ⟨eNoimage, 0, 0⟩
        | some (n, im) =>
          match o.checkKernels hs n im with
          | some e => .error e
          | none =>
            let ls := loadedOf hs im.text
            match baseFor want o.base (objLow o.base (filled ls)) (objSpan o.base (filled ls)) with
            | .error e => .error e
            | .ok b =>
              let l : Layout := ⟨ls, (b : Int) - o.base⟩
              match o.relocAll hs l (relaSects hs (o.others have_ hs)) [] with
              | .error e => .error e
              | .ok ps => .ok ⟨hs, n, im, b, l.delta, ps⟩

/-- The loaded address of a section of a name, 0 where there is none. -/
def Plan.addrOf (p : Plan) (n : String) : Nat := ((sectOf p.sections n).map fun h => ((h.addr : Int) + p.delta).toNat).getD 0

/-- The application record that a plan gives, its slot taken. -/
def Plan.app (p : Plan) (o : Sco) (loads tenant : Nat) : App :=
  { state := .running, loads := loads, tenant := tenant,
    kernels := (List.range p.image.count).map fun j => o.kernel p.sections (p.image.first + j),
    text := ((p.sections.find? fun h => decide (h.idx = p.image.text)).map fun h => ((h.addr : Int) + p.delta).toNat).getD 0,
    textLen := ((p.sections.find? fun h => decide (h.idx = p.image.text)).map Shdr.size).getD 0,
    got := p.addrOf ".got", kconst := p.addrOf ".kconst" }

/-- Step 7: everything mapped and written; none where memory runs out. -/
def State.mapPlan (s : State) (k : Nat) (o : Sco) (p : Plan) (args : List Nat) : Option (Nat × Nat × State) :=
  (s.placeSects k o p.delta (loadedOf p.sections p.image.text)).bind fun s1 =>
    let s2 := s1.patch k p.delta p.patches
    match sectOf p.sections ".ctl" with
    | none => none
    | some h =>
      let c := o.sub h.off h.size
      let size := roundUp ((c.loads.map fun i => c.le (c.ph i + 16) 8 + c.le (c.ph i + 40) 8).foldl max 4096) 4096
      (s2.pickVa k size 4096).bind fun cb =>
        (s2.placeCtl k c cb).bind fun s3 =>
          (s3.giveArgs k args).bind fun r =>
            (r.2.giveWindows k).map fun s4 => (cb + c.le 24 8, r.1, s4)

/-- The channel of a slot as a new application finds it. -/
def State.freshChannel (s : State) (k : Nat) : State :=
  let lo := slotWord k false 0
  let out : Nat → Bool := fun w => decide (w < lo) || decide (lo + 0x40000 / 8 ≤ w)
  { s with chan := s.chan.filter (fun c => out c.1), h2dNext := mset 0 s.h2dNext k 0, d2hNext := mset 0 s.d2hNext k 0,
           chanErr := mset 0 s.chanErr k 0 }

/-- Step 8: the control program starts. -/
def State.startApp (s : State) (k entry va len : Nat) : State :=
  let a := s.app k
  s.setApp k { a with ctlEntry := entry, ctlHart := Config.ctlHart s.tick % 16, ctlA0 := num va, ctlA1 := num len, ctlA2 := num (s.appId k) }

/-- The command ends with a load's error. -/
def State.failLoad (s : State) (e : LoadErr) : State :=
  ({ s with cmdDetIndex := BitVec.ofNat 32 e.index, cmdDetSect := BitVec.ofNat 16 e.sect } : State).endCmd e.code

/-- The lowest free slot (R48 says a free one; log). -/
def State.freeSlot (s : State) : Option Nat := (List.range 64).find? fun k => decide ((s.app k).state = .unused)

/-- APPLOAD: the lowest free slot is taken (log). -/
def State.appload (s0 : State) : State :=
  let s := s0.reap
  let src := s.cmdArg 0
  let argAt := s.cmdArg 4
  let argLen := s.cmdArg 5
  if 63 < s.cmdArg 2 ∨ 65536 < argLen ∨ !s.srcOk src (s.cmdArg 1) ∨ !s.srcOk argAt argLen then s.endCmd eInval
  else match s.freeSlot with
    | none => s.endCmd eBusy
    | some k =>
      let o : Sco := ⟨s.cmdArg 1, fun i => if i < s.cmdArg 1 then s.srcByte (src + i) else 0⟩
      match o.plan (featsWord &&& ~~~(s.tenantOf (s.cmdArg 2)).featmask) (s.cmdArg 3) with
      | .error e => s.failLoad e
      | .ok p =>
        let loads := ((s.app k).loads + 1) % 2 ^ 26
        let args := (List.range argLen).map fun i => s.srcByte (argAt + i)
        match (s.setApp k (p.app o loads (s.cmdArg 2))).mapPlan k o p args with
        | none => s.endCmd eNomem
        | some (entry, va, t) =>
          ((t.freshChannel k).startApp k entry va argLen).endCmd (num (k + loads * 64))

/-- APPLOAD. -/
def execAppload (s : State) : Outcome State Fault Refusal := s.command (fun c => decide (c = 1)) State.appload

end Sys2Proof.Machine
end

