-- ==== Sys2Proof/Machine/Flits.lean ====
section
/-! DEFINITION. Dikeline flits (R23 to R25): their fields, CRC and FEC, and the sending of what remote operations put out
through the route set of a die. A port is numbered 16 × die + port. -/

namespace Sys2Proof.Machine

/-- A port's record. -/
def State.port (s : State) (n : Nat) : Port := mget {} s.ports n

/-- Replaces a port's record. -/
def State.setPort (s : State) (n : Nat) (p : Port) : State := { s with ports := mset {} s.ports n p }

/-! ### CRC and fields -/

/-- One bit of CRC-32 with the polynomial of R24. -/
def crcBit (c : Nat) (b : Bool) : Nat :=
  let t := c.testBit 31 != b
  (c * 2 % 2 ^ 32) ^^^ (if t then 0x04C11DB7 else 0)

/-- One byte of it, most significant bit first. -/
def crcByte (c v : Nat) : Nat := [7, 6, 5, 4, 3, 2, 1, 0].foldl (fun k i => crcBit k (v.testBit i)) c

/-- The CRC of a flit's header and payload, byte 0 first. -/
def flitCrc (f : Nat) : Nat := (List.range 236).foldl (fun c i => crcByte c (bitsAt f (8 * i) 8)) 0xFFFFFFFF

/-- SEQ of a flit. -/
def flitSeq (f : Nat) : Nat := bitsAt f 52 12
/-- ACK. -/
def flitAck (f : Nat) : Nat := bitsAt f 40 12
/-- NAK. -/
def flitNak (f : Nat) : Bool := decide (bitsAt f 39 1 = 1)
/-- CRED. -/
def flitCred (f : Nat) : Nat := bitsAt f 28 11
/-- TYPE. -/
def flitType (f : Nat) : Nat := bitsAt f 24 4

/-- DEST's package, die and port (log: from bit 23 down, in the order in which R23 names them). -/
def flitPkg (f : Nat) : Nat := bitsAt f 14 10
/-- DEST's die. -/
def flitDie (f : Nat) : Nat := bitsAt f 12 2
/-- DEST's port. -/
def flitPort (f : Nat) : Nat := bitsAt f 8 4

/-- Whether a corrected flit passes: its CRC holds, and its TYPE is not reserved. -/
def flitGood (f : Nat) : Bool := decide (flitCrc f = bitsAt f 1888 32) && decide (flitType f ≤ 5)

/-! ### FEC (R24) -/

/-- Codeword c of a flit: every second byte, 120 of data and then 8 of parity. -/
def flitCodeword (f c : Nat) : Nat := packW 8 ((List.range 128).map fun i => bitsAt f (8 * (2 * i + c)) 8)

/-- The irreducible polynomials of degree 8. -/
def fieldPolys : List Nat :=
  [0x11B, 0x11D, 0x12B, 0x12D, 0x139, 0x13F, 0x14D, 0x15F, 0x163, 0x165, 0x169, 0x171, 0x177, 0x17B, 0x187, 0x18B, 0x18D, 0x19F, 0x1A3,
   0x1A9, 0x1B1, 0x1BD, 0x1C3, 0x1CF, 0x1D7, 0x1DD, 0x1E7, 0x1F3, 0x1F5, 0x1F9]

/-- The product of two symbols in the field of a polynomial. -/
def gfMul (p a b : Nat) : Nat :=
  [7, 6, 5, 4, 3, 2, 1, 0].foldl (fun c i =>
    let d := if c.testBit 7 then (2 * c) ^^^ p else 2 * c
    if b.testBit i then d ^^^ a else d) 0

/-- A power of a symbol. -/
def gfPow (p a : Nat) : Nat → Nat
  | 0 => 1
  | n + 1 => gfMul p (gfPow p a n) a

/-- The primitive elements of the field. -/
def gfPrimitive (p : Nat) : List Nat :=
  (List.range 256).filter fun a => decide (a ≠ 0) && [15, 51, 85].all fun k => decide (gfPow p a k ≠ 1)

/-- The generator of the code with the eight roots e^b to e^(b + 7), highest coefficient first, the leading 1 left out. -/
def rsGenerator (p e b : Nat) : List Nat :=
  ((List.range 8).foldl (fun g j => List.zipWith (· ^^^ ·) (g ++ [0]) (0 :: g.map (gfMul p (gfPow p e (b + j))))) [1]).drop 1

/-- The remainder of a codeword's data, taken as the coefficients of a polynomial from the first symbol down, times x^8. -/
def rsRemainder (p : Nat) (g : List Nat) (d : Nat) : List Nat :=
  (List.range 120).foldl (fun r i =>
    let q := r.headD 0 ^^^ bitsAt d (8 * i) 8
    List.zipWith (· ^^^ ·) (r.drop 1 ++ [0]) (g.map (gfMul p q))) (List.replicate 8 0)

/-- The eight parity symbols of a codeword's data: those of a Reed-Solomon code, whose field and roots are free (log). -/
def rsParity (d : BitVec 960) : BitVec 64 :=
  let p := fieldPolys.getD (Config.rsField % 30) 0x11D
  let e := (gfPrimitive p).getD (Config.rsElement % 128) 2
  BitVec.ofNat 64 (packW 8 (rsRemainder p (rsGenerator p e (Config.rsFirst % 255)) d.toNat))

/-- Whether a codeword's parity is that of its data. -/
def rsValid (w : Nat) : Bool := decide (w / 2 ^ 960 = (rsParity (BitVec.ofNat 960 w)).toNat)

/-- In how many of their 128 symbols two codewords differ. -/
def symbolDiffs (a b : Nat) : Nat := ((List.range 128).filter fun i => decide (bitsAt a (8 * i) 8 ≠ bitsAt b (8 * i) 8)).length

/-- A codeword with symbol i replaced. -/
def setSymbol (w i v : Nat) : Nat := packW 8 ((List.range 128).map fun j => if j = i then v else bitsAt w (8 * j) 8)

/-- Every codeword that at most n replaced symbols make of one, those with fewer first. -/
def symbolBall : Nat → Nat → List Nat
  | 0, w => [w]
  | n + 1, w =>
    let near := symbolBall n w
    near ++ near.flatMap fun x => (List.range 128).flatMap fun i => (List.range 256).map fun v => setSymbol x i v

/-- A codeword corrected: one without an error stands, and one with at most four wrong symbols becomes the valid one it was; none
where it cannot be corrected. -/
def rsCorrect (w : Nat) : Option Nat := if rsValid w then some w else (symbolBall 4 w).find? rsValid

/-- Two codewords interleaved to a flit. -/
def interleave (a b : Nat) : Nat := packW 8 ((List.range 128).flatMap fun i => [bitsAt a (8 * i) 8, bitsAt b (8 * i) 8])

/-- A flit after correction; none where a codeword cannot be corrected. -/
def flitCorrect (f : BitVec 2048) : Option Nat :=
  match rsCorrect (flitCodeword f.toNat 0), rsCorrect (flitCodeword f.toNat 1) with
  | some a, some b => some (interleave a b)
  | some _, none => none
  | none, _ => none

/-- A codeword's data with its parity. -/
def rsEncode (d : Nat) : Nat := d % 2 ^ 960 + (rsParity (BitVec.ofNat 960 d)).toNat * 2 ^ 960

/-- A flit of a header and a payload, with CRC and parity. -/
def flitOf (hdr : Nat) (payload : BitVec 1824) : BitVec 2048 :=
  let body := hdr % 2 ^ 64 + payload.toNat * 2 ^ 64
  let f := body + flitCrc body * 2 ^ 1888
  BitVec.ofNat 2048 (interleave (rsEncode (flitCodeword f 0)) (rsEncode (flitCodeword f 1)))

/-! ### Sending (R23, R25) -/

/-- The flits of a replay buffer that an ACK leaves: those sent after it. -/
def unacked (ack : Nat) (rs : List SentFlit) : List SentFlit := rs.filter fun r => decide ((r.seq + 4096 - ack - 1) % 4096 < 2048)

/-- The header of the next flit of a port: SEQ, the highest number received in order, NAK where one has yet to go out, TYPE and
DEST. -/
def Port.header (p : Port) (typ pkg free : Nat) : Nat :=
  p.txSeq % 4096 * 2 ^ 52 + (p.rxSeq + 4095) % 4096 * 2 ^ 40 + p.nakDue.toNat * 2 ^ 39 + free / 2 ^ 9 % 2 ^ 11 * 2 ^ 28 +
    typ % 16 * 2 ^ 24 + pkg % 2 ^ 10 * 2 ^ 14 + free % 2 ^ 9 * 2 ^ 5

/-- The ports of a die that may take a new flit: ACTIVE, with a credit and room in the replay buffer. -/
def State.routeSet (s : State) (die : Nat) : List Nat :=
  ((List.range 16).map fun i => 16 * die + i).filter fun n =>
    decide ((s.port n).st = .active) && decide (0 < (s.port n).credits) && decide ((s.port n).replay.length < 256)

/-- A flit leaves through port n, and is kept until it is acknowledged. -/
def State.sendOn (s : State) (n : Nat) (u : Unsent) : State :=
  let p := s.port n
  let f := flitOf (p.header u.typ u.pkg (Config.flitRoute s.tick).toNat) (Config.flitPayload s.tick)
  { s.setPort n { p with txSeq := (p.txSeq + 1) % 4096, credits := if u.typ = 0 then p.credits else p.credits - 1,
                         nakDue := false, replay := p.replay ++ [⟨p.txSeq, f, u.cargo⟩] } with tick := s.tick + 1 }

/-- A NAK that has to go out leaves in an idle flit, which takes no credit; while the replay buffer is full that flit takes no
number of its own and is not kept (log). -/
def State.sendNak (s : State) (n : Nat) : State :=
  if (s.port n).nakDue then
    (if (s.port n).replay.length < 256 then s.sendOn n ⟨n / 16 % 4, 0, 0, .other⟩ else s.setPort n { s.port n with nakDue := false })
  else s

/-- A flit leaves through a port of its die's route set, or goes on waiting. -/
def State.sendOne (s : State) (u : Unsent) : State :=
  let ns := s.routeSet u.die
  match ns[Config.routePick s.tick % ns.length]? with
  | none => { s with unsent := s.unsent ++ [u] }
  | some n => s.sendOn n u

/-- Every flit that waits is sent as far as ports have room, oldest first. -/
def State.pump (s : State) : State := s.unsent.foldl State.sendOne { s with unsent := [] }

/-- A flit of a hart's operation is put out on the die of its core. -/
def State.putFlit (s : State) (die typ pkg : Nat) (c : Cargo) : State :=
  ({ s with unsent := s.unsent ++ [⟨die, typ, pkg, c⟩] } : State).pump

/-- Whether an operation's flits still wait for a port. -/
def State.waitsToSend (s : State) (c : Cargo) : Bool := s.unsent.any fun u => decide (u.cargo = c)

end Sys2Proof.Machine
end

