-- ==== Sys2Proof/Machine/Ports.lean ====
section
/-! DEFINITION. Dikeline ports (R23 to R26): flits received, retry, and the training states with their limits. A port is
numbered 16 × die + port. -/

namespace Sys2Proof.Machine

/-- The port enters a state now. -/
def State.enterPort (s : State) (n : Nat) (st : PortState) : State := s.setPort n { s.port n with st := st, since := s.clk }

/-! ### Flits received (R23 to R25) -/

/-- Whether a flit is for port n of this package (log: any other passes on and delivers nothing here). -/
def State.isFor (s : State) (n f : Nat) : Bool :=
  decide (flitPkg f = s.pkg) && decide (flitDie f = n / 16 % 4) && decide (flitPort f = n % 16)

/-- A good flit in order: the sequence advances, acknowledged flits leave the buffer, a NAK replays the rest, and what is for
this port (`mine`) is delivered, an idle flit not. -/
def Port.take (p : Port) (mine : Bool) (f : Nat) : Port :=
  let rest := unacked (flitAck f) p.replay
  let stuck := decide (rest.length = p.replay.length)
  { p with rxSeq := (p.rxSeq + 1) % 4096, nakSent := false, nakDue := false, replay := rest, credits := p.credits + flitCred f,
           naks := if flitNak f then (if stuck then p.naks + 1 else 1) else if stuck then p.naks else 0,
           replayed := if flitNak f then p.replayed + rest.length else p.replayed,
           taken := if mine && decide (flitType f ≠ 0) then p.taken ++ [BitVec.ofNat 2048 f] else p.taken }

/-- What a flit does to an active port: a failed one, or one out of order, is discarded with every later one, and a NAK is to go
out; of the later ones only one that fails itself asks for another (log). -/
def Port.receive (p : Port) (mine : Nat → Bool) (flit : Option Nat) : Port :=
  match flit with
  | none => { p with nakSent := true, nakDue := true }
  | some b =>
    if !flitGood b then { p with nakSent := true, nakDue := true }
    else if flitSeq b = p.rxSeq then p.take (mine b) b
    else { p with nakSent := true, nakDue := p.nakDue || !p.nakSent }

/-- A buffer grant that comes in a TYPE 4 flit while credits are exchanged (Table 5). -/
def Port.grant (p : Port) (flit : Option Nat) : Port :=
  match flit with
  | none => p
  | some b => if flitGood b && decide (flitType b = 4) then { p with credits := p.credits + flitCred b } else p

/-- Eight replays of one flit have failed (R25). -/
def Port.replayLimit (p : Port) : Bool := decide (9 ≤ p.naks)

/-- FLIT_RECEIVE on port n: a NAK it asks for and what it makes room for are sent; the ninth NAK for one flit ends the port's
patience. While buffer grants are exchanged, also again in RETRAIN, it brings grants alone. -/
def execFlitReceive (s : State) : Outcome State Fault Refusal :=
  let n := s.inp.n
  let p := s.port n
  .next (match p.st with
    | .active =>
      let q := p.receive (s.isFor n) (flitCorrect s.inp.flit)
      let t := ((s.setPort n q).sendNak n).pump
      if q.replayLimit then t.postFront .replayLimit { n := n } else t
    | .credit => s.setPort n (p.grant (flitCorrect s.inp.flit))
    | .retrain => s.setPort n (p.grant (flitCorrect s.inp.flit))
    | _ => s)

/-! ### DOWN and RETRAIN (R25, R26) -/

/-- The die of a port. -/
def dieOfPort (n : Nat) : Nat := n / 16 % 4

/-- A remote operation whose flit stands in the replay buffer of a port that goes DOWN completes with LINKDOWN. -/
def State.dropCargo (s : State) (c : Cargo) : State :=
  match c with
  | .train id => s.later .trainAck { n := id }
  | .fred id =>
    let keep (e : Instr × Input) : Bool := !(decide (e.1 = .fredAccept) && decide (e.2.n = id) && !e.2.flag)
    ({ s with jobs := s.jobs.filter keep, events := s.events.filter keep } : State).later .fredAccept { n := id, k := 1 }
  | .other => s

/-- A port goes DOWN, which removes it from the route set; what it held is dropped, and Riura is told. -/
def State.portDown (s : State) (n : Nat) : State :=
  let held := (s.port n).replay.map SentFlit.cargo
  let t := (s.enterPort n .down).logDie (dieOfPort n) (Config.eventCode 2) n s.freeDetail
  held.foldl State.dropCargo (t.setPort n { t.port n with replay := [], naks := 0, credits := 0 })

/-- The RETRAIN entries of a port within the last second, one now among them. -/
def Port.entries (p : Port) (clk : Nat) : List Nat := p.retrains.filter (fun t => decide (clk < t + 1100000000)) ++ [clk]

/-- REPLAY_LIMIT on port n, once eight replays of one flit have failed: RETRAIN, or DOWN at the third time within one second. -/
def execReplayLimit (s : State) : Outcome State Fault Refusal :=
  let n := s.inp.n
  .next (if (s.port n).st = .active ∧ (s.port n).replayLimit = true then
      let es := (s.port n).entries s.clk
      let t := s.setPort n { s.port n with retrains := es, naks := 0, credits := 0 }
      if 3 ≤ es.length then t.portDown n else t.enterPort n .retrain
    else s)

/-- PORT_ENABLE. -/
def execPortEnable (s : State) : Outcome State Fault Refusal :=
  .next (if s.inp.n < 64 ∧ ((s.port s.inp.n).st = .disabled ∨ (s.port s.inp.n).st = .down) then s.enterPort s.inp.n .detect
    else s)

/-- The clk a port may stay in a state (Table 5). -/
def PortState.limit : PortState → Option Nat
  | .disabled => none
  | .detect => some 11000000
  | .polarity => some 1100000
  | .deskew => some 1100000
  | .fecLock => some 2200000
  | .credit => some 1100000
  | .active => none
  | .retrain => some 5500000
  | .down => none

/-- Whether the limit of a port's state has passed. -/
def Port.expired (p : Port) (clk : Nat) : Bool :=
  match p.st.limit with
  | none => false
  | some l => decide (p.since + l ≤ clk)

/-- Port n leaves a state within its limit. -/
def State.trained (s : State) (st : PortState) (f : State → State) : Outcome State Fault Refusal :=
  .next (if (s.port s.inp.n).st = st ∧ (s.port s.inp.n).expired s.clk = false then f s else s)

/-- The limit of a state of port n passes. -/
def State.overdue (s : State) (st : PortState) (f : State → State) : Outcome State Fault Refusal :=
  .next (if (s.port s.inp.n).st = st ∧ (s.port s.inp.n).expired s.clk = true then f s else s)

/-- DETECT_DONE. -/
def execDetectDone (s : State) : Outcome State Fault Refusal := s.trained .detect fun s => s.enterPort s.inp.n .polarity
/-- DETECT_TIMEOUT: DISABLED, with DETECTFAIL logged. -/
def execDetectTimeout (s : State) : Outcome State Fault Refusal :=
  s.overdue .detect fun s =>
    (s.enterPort s.inp.n .disabled).logDie (dieOfPort s.inp.n) (Config.eventCode 1) s.inp.n s.freeDetail
/-- POLARITY_DONE. -/
def execPolarityDone (s : State) : Outcome State Fault Refusal := s.trained .polarity fun s => s.enterPort s.inp.n .deskew
/-- POLARITY_TIMEOUT. -/
def execPolarityTimeout (s : State) : Outcome State Fault Refusal := s.overdue .polarity fun s => s.enterPort s.inp.n .detect
/-- DESKEW_DONE. -/
def execDeskewDone (s : State) : Outcome State Fault Refusal := s.trained .deskew fun s => s.enterPort s.inp.n .fecLock
/-- DESKEW_TIMEOUT. -/
def execDeskewTimeout (s : State) : Outcome State Fault Refusal := s.overdue .deskew fun s => s.enterPort s.inp.n .detect
/-- FECLOCK_DONE: the exchange of grants begins with none. -/
def execFeclockDone (s : State) : Outcome State Fault Refusal :=
  s.trained .fecLock fun s => (s.setPort s.inp.n { s.port s.inp.n with credits := 0 }).enterPort s.inp.n .credit
/-- FECLOCK_TIMEOUT. -/
def execFeclockTimeout (s : State) : Outcome State Fault Refusal := s.overdue .fecLock fun s => s.enterPort s.inp.n .detect
/-- CREDIT_DONE: a link newly trained begins at sequence number 0 with nothing to replay. -/
def execCreditDone (s : State) : Outcome State Fault Refusal :=
  s.trained .credit fun s =>
    (s.setPort s.inp.n { s.port s.inp.n with st := .active, since := s.clk, rxSeq := 0, txSeq := 0, nakSent := false, nakDue := false,
                                             naks := 0, replay := [] }).pump
/-- CREDIT_TIMEOUT. -/
def execCreditTimeout (s : State) : Outcome State Fault Refusal := s.overdue .credit fun s => s.enterPort s.inp.n .detect
/-- RETRAIN_DONE: every unacknowledged flit is replayed, before any new flit and without a further credit (log). -/
def execRetrainDone (s : State) : Outcome State Fault Refusal :=
  s.trained .retrain fun s =>
    let p := s.port s.inp.n
    (s.setPort s.inp.n { p with st := .active, since := s.clk, nakSent := false, nakDue := false,
                                replayed := p.replayed + p.replay.length }).pump
/-- RETRAIN_TIMEOUT. -/
def execRetrainTimeout (s : State) : Outcome State Fault Refusal := s.overdue .retrain fun s => s.portDown s.inp.n

/-- The event in which the limit of a training state passes. -/
def PortState.timeout : PortState → Option Instr
  | .disabled => none
  | .detect => some .detectTimeout
  | .polarity => some .polarityTimeout
  | .deskew => some .deskewTimeout
  | .fecLock => some .feclockTimeout
  | .credit => some .creditTimeout
  | .active => none
  | .retrain => some .retrainTimeout
  | .down => none

/-- The first port whose limit has passed, with its event. -/
def State.portDue (s : State) : Option (Instr × Input) :=
  s.ports.findSome? fun x => if x.2.expired s.clk then x.2.st.timeout.map fun i => (i, { n := x.1 }) else none

end Sys2Proof.Machine
end

