-- ==== Sys2Proof/Machine/Readback.lean ====
section
/-! DEFINITION. The readback window's reads (R34 to R38): each computes its words when it takes place, and ends in
READBACK_COMPLETE. -/

namespace Sys2Proof.Machine

/-- A word as a read finds it: its value, and the code it would end the read with: 0 none, 6 KEYLOST, 7 POISONED, 8 STALE. -/
abbrev RbWord := Nat × Nat

/-- A word that cannot be shown (R38). -/
def rbHidden (code : Nat) : RbWord := (0xFFFFFFFFFFFFFFFF, code)

/-- The words to read. -/
def State.rbWords (s : State) : Nat := s.rbReq.count.toNat + 1

/-- A read ends with a code. -/
def State.rbFail (s : State) (code : Nat) : State := { s with rbEnd := some (code, 0) }.later .readbackComplete

/-- The first word of a list that has a code, with its index; DONE without one. -/
def rbResult (ws : List RbWord) : Nat × Nat :=
  match (List.zip (List.range ws.length) ws).find? fun x => decide (x.2.2 ≠ 0) with
  | none => (2, 0)
  | some x => (x.2.2, x.1)

/-- The words of a read stand in RBDATA. -/
def State.rbGive (s : State) (ws : List RbWord) : State :=
  { s with rbData := (List.zip (List.range ws.length) ws).foldl (fun (m : List (Nat × Word)) (x : Nat × RbWord) =>
             mset 0 m x.1 (BitVec.ofNat 64 x.2.1)) s.rbData,
           rbEnd := some (rbResult ws) }.later .readbackComplete

/-- A read of a space: `region` gives the bounds of the region that an address names, none where there is no such place, and
`word` the word at an address. Without a session only the open spaces are read (R34), which is judged before the address (log).
What is read is what the registers named when GO was written (R38). -/
def State.readback (s : State) (open_ : Bool) (region : Nat → Option (Nat × Nat)) (word : Nat → RbWord) : Outcome State Fault Refusal :=
  let a := s.rbReq.addr.toNat
  .next (if !s.rbGo || s.rbEnd.isSome then s
    else if !open_ && !s.spdmSession then s.rbFail 5
    else if a % 8 ≠ 0 then s.rbFail 4
    else match region a with
      | none => s.rbFail 4
      | some r =>
        if a < r.1 ∨ r.2 < a + 8 * s.rbWords then s.rbFail 4
        else s.rbGive ((List.range s.rbWords).map fun i => word (a + 8 * i)))

/-! ### Space 0: harts (R36, R37) -/

/-- The context of a bank of a slice: the active bank holds the hart that runs there, the shadow bank one that has not yet been
spilled, on the slice it left, or is being filled. -/
def State.bankHart (s : State) (core slice bank : Nat) : Option Hart :=
  let here : Hart → Bool := fun h => decide (h.core = core) && decide (h.slice = slice)
  s.harts.findSome? fun h =>
    let g := if h.spilled then h else h.asLeft
    match h.run with
    | .idle => none
    | .running => if here h && decide (bank = 0) then some h else none
    | .exited => if here h && decide (bank = 0) then some h else none
    | .suspended => if here g && decide (bank = 1) && !h.spilled then some g else none
    | .filling => if here g && decide (bank = 1) then some g else none

/-- READBACK_HART_STATE: a slice at or beyond the core's present cut does not exist (log). -/
def execReadbackHartState (s : State) : Outcome State Fault Refusal :=
  s.readback false
    (fun a =>
      if bitsAt a 21 20 ≠ 0 ∨ (s.lease (bitsAt a 44 8)).cut ≤ bitsAt a 42 2 then none
      else some (a / 2 ^ 21 * 2 ^ 21, a / 2 ^ 21 * 2 ^ 21 + saveBytes))
    (fun a =>
      match s.bankHart (bitsAt a 44 8) (bitsAt a 42 2) (bitsAt a 41 1) with
      | none => (0, 0)
      | some h => (s.imageWord h true (a % 2 ^ 21 / 8), 0))

/-! ### Space 1: engines and queues -/

/-- Polders of a die. -/
def poldersOf (d : Nat) : Nat := if d < 2 then 10 else 6

/-- A lease row's word (R89). -/
def State.leaseWord (s : State) (c : Nat) : Nat :=
  let r := s.lease c
  let st := match r.st with
    | .free => 0
    | .held => 1
    | .filling => 2
    | .ready => 3
  let free := ((List.range r.cut).filter fun j => (s.onCore [] c).all fun h => decide (h.slice ≠ j)).foldl (fun n j => n + 2 ^ j) 0
  st + (if r.cut = 1 then 0 else if r.cut = 2 then 1 else 2) * 2 ^ 2 + free * 2 ^ 4 + r.lid % 2 ^ 32 * 2 ^ 8 + r.app * 2 ^ 40

/-- The crew that holds claim share i of a polder. -/
def State.shareCrew (s : State) (p i : Nat) : Option Crew :=
  s.crews.find? fun c => c.share.isSome && decide (c.shareIdx = i) &&
    (s.crewHarts c.id).any fun h => h.run.resident && decide (polderOfCore h.core = p)

/-- A word of claim share i of a polder. -/
def State.shareWord (s : State) (p i : Nat) (f : Share → Nat) : Nat :=
  match s.shareCrew p i with
  | none => 0
  | some c => f (c.share.getD {})

/-- A word of a transfer in flight on a die's engine. -/
def State.xferWord (s : State) (d n w : Nat) : Nat :=
  match (s.transfers.filter fun t => decide (t.die = d))[n]? with
  | none => 0
  | some t =>
    match w with
    | 0 =>
      match s.hartOf t.hart with
      | none => 0
      | some h => h.core * 4 + h.slice + h.crewid.toNat * 2 ^ 32
    | 1 => t.ctl.toNat
    | 2 => t.len
    | _ => t.bytesDone

/-- READBACK_ENGINE_QUEUE. -/
def execReadbackEngineQueue (s : State) : Outcome State Fault Refusal :=
  s.readback false
    (fun a =>
      let o := a % 2 ^ 46
      let b := a - o
      if poldersOf (bitsAt a 50 2) ≤ bitsAt a 46 4 ∧ o < 0x10000 then none
      else if o < 0x40 then some (b, b + 0x40)
      else if 0x1000 ≤ o ∧ o < 0x9000 then some (b + 0x1000, b + 0x9000)
      else if 0x9000 ≤ o ∧ o < 0xB000 then some (b + 0x9000, b + 0xB000)
      else if 0x10000 ≤ o then some (b + 0x10000, b + 2 ^ 46)
      else none)
    (fun a =>
      let o := a % 2 ^ 46
      let p := firstPolder (bitsAt a 50 2) + bitsAt a 46 4
      (if o < 0x40 then s.leaseWord (8 * p + o / 8)
       else if o < 0x9000 then s.shareWord p ((o - 0x1000) / 4096) fun q => q.pairWord ((o - 0x1000) % 4096 / 8)
       else if o < 0x10000 then s.shareWord p ((o - 0x9000) / 1024) fun q => q.maskWord ((o - 0x9000) % 1024 / 8)
       else s.xferWord (bitsAt a 50 2) ((o - 0x10000) / 32) ((o - 0x10000) % 32 / 8), 0))

/-! ### Spaces 2 and 5: memory -/

/-- Whether a physical address lies in memory under keys: HBM4E or tier 2 (R28, R190). -/
def underKey (pa : Nat) : Bool := decide (pa < 2 ^ 40) || decide (2 ^ 44 ≤ pa)

/-- Whether the key of an address's frame is withheld, withdrawn or zeroised. A word to which several cases of R38 apply shows
the first of KEYLOST, POISONED and STALE (log). -/
def State.keyLost (s : State) (pa : Nat) : Bool :=
  underKey pa && (s.locked || s.zeroised ||
    s.keyedFrames.any fun r => mget false s.keysOut r.tenant && decide (r.pa ≤ pa) && decide (pa < r.pa + r.len))

/-- A word of physical memory; of several cases of R38 the first of KEYLOST, POISONED and STALE shows (log). -/
def State.memWord (s : State) (pa : Nat) : RbWord :=
  if s.keyLost pa then rbHidden 6
  else if mget false s.poison (pa / 64) then rbHidden 7
  else (readLE s.mem pa 8, 0)

/-- The region of physical memory that holds an address. -/
def physRegion (pa : Nat) : Option (Nat × Nat) :=
  [(0, 2 ^ 40), (2 ^ 40, 2 ^ 40 + 32 * 2 ^ 24), (2 ^ 41, 2 ^ 41 + 5 * 2 ^ 30), (2 ^ 41 + 6 * 2 ^ 30, 2 ^ 41 + 7 * 2 ^ 30),
   (2 ^ 44, 2 ^ 44 + 2 ^ 43), (2 ^ 45, 2 ^ 45 + 2 ^ 43)].find? fun r => decide (r.1 ≤ pa) && decide (pa < r.2)

/-- READBACK_MEMORY. -/
def execReadbackMemory (s : State) : Outcome State Fault Refusal := s.readback false physRegion s.memWord

/-- The save area or crew area that holds an address. -/
def State.areaRegion (s : State) (pa : Nat) : Option (Nat × Nat) :=
  s.ctxArea.findSome? fun x =>
    if x.2 ≤ pa ∧ pa < x.2 + 64 * areaPitch then
      let b := x.2 + (pa - x.2) / areaPitch * areaPitch
      some (if pa < b + saveBytes then (b, b + saveBytes) else (b + saveBytes, b + areaPitch))
    else none

/-- Whether a spill into the area at an address is under way. -/
def State.spilling (s : State) (pa : Nat) : Bool :=
  s.harts.any fun h => !h.spilled && (h.saveAt.any fun b => decide (b ≤ pa) && decide (pa < b + areaPitch))

/-- READBACK_SAVE_AREA. -/
def execReadbackSaveArea (s : State) : Outcome State Fault Refusal :=
  s.readback false s.areaRegion fun a =>
    let w := s.memWord a
    if w.2 = 0 ∧ s.spilling a then (w.1, 8) else w

/-! ### Spaces 3 and 6: logs -/

/-- A word of a log kept as a ring of `size` records: the newest record of each place. -/
def ringWord (rs : List LogRec) (size off : Nat) : Nat :=
  let j := off / 32 % size
  let n := rs.length
  if n ≤ j then 0
  else
    let i := j + (n - 1 - j) / size * size
    match rs[i]? with
    | none => 0
    | some r =>
      match off % 32 / 8 with
      | 0 => r.ns
      | 1 => r.code
      | 2 => r.addr
      | _ => r.detail.toNat

/-- READBACK_ERROR_LOG. -/
def execReadbackErrorLog (s : State) : Outcome State Fault Refusal :=
  s.readback false
    (fun a => some (a / 2 ^ 50 * 2 ^ 50, a / 2 ^ 50 * 2 ^ 50 + 4096 * 32))
    (fun a => (ringWord (mget [] s.dieLogs (a / 2 ^ 50 % 4)) 4096 (a % 2 ^ 50), 0))

/-- READBACK_ALWAYS_ON_LOG. -/
def execReadbackAlwaysOnLog (s : State) : Outcome State Fault Refusal :=
  s.readback true (fun _ => some (0, 2048 * 32)) fun a => (ringWord s.alwaysLog 2048 a, 0)

/-! ### Space 4: links and dies -/

/-- A port's state number (Table 5). -/
def PortState.code : PortState → Nat
  | .disabled => 0 | .detect => 1 | .polarity => 2 | .deskew => 3 | .fecLock => 4 | .credit => 5 | .active => 6
  | .retrain => 7 | .down => 8

/-- A port's word. -/
def State.portWord (s : State) (n : Nat) : Nat :=
  let p := s.port n
  p.st.code + min 15 ((p.retrains.filter fun t => decide (s.clk < t + 1100000000)).length) * 2 ^ 4 + p.replayed % 2 ^ 32 * 2 ^ 32

/-- The bring-up step of Table 7 that was last reached: the one under way, or the one in which bring-up stopped or ended. -/
def State.stepReached (s : State) : Nat :=
  if s.fuseFault then 1 else if !s.standbyRail then 0 else min 8 (s.bringStep + 1)

/-- The die word; the cause of a stop at step 1 is free, since R44 lists no code for it (log). -/
def State.dieWord (s : State) : Nat :=
  s.dstat.code + (if s.fuseFault then Config.fuseCause else s.dcause).toNat * 2 ^ 4 + s.stepReached * 2 ^ 16

/-- READBACK_LINK_STATUS. -/
def execReadbackLinkStatus (s : State) : Outcome State Fault Refusal :=
  s.readback true
    (fun a =>
      let o := a % 2 ^ 50
      let b := a - o
      if o < 0x80 then some (b, b + 0x80)
      else if o = 0x100 then some (b + 0x100, b + 0x108)
      else if 0x108 ≤ o ∧ o < 0x138 then some (b + 0x108, b + 0x138)
      else none)
    (fun a =>
      let o := a % 2 ^ 50
      (if o < 0x80 then s.portWord (a / 2 ^ 50 * 16 + o / 8)
       else if o = 0x100 then s.dieWord
       else (Config.freeWord s.tick (o / 8)).toNat, 0))

/-! ### The end of a read -/

/-- READBACK_BAD_SPACE: with or without a session (log). -/
def execReadbackBadSpace (s : State) : Outcome State Fault Refusal :=
  .next (if s.rbGo && s.rbEnd.isNone then s.rbFail 3 else s)

/-- READBACK_COMPLETE. -/
def execReadbackComplete (s : State) : Outcome State Fault Refusal :=
  .next (match s.rbEnd with
    | none => s
    | some e => if s.rbGo then { s with rbGo := false, rbCode := e.1, rbFirst := e.2, rbEnd := none } else s)

end Sys2Proof.Machine
end

