-- ==== Sys2Proof/Machine/Sync.lean ====
section
/-! DEFINITION. Flags, signals and byte-counting barriers (R210, R223, R224, R400 to R402), and the events that complete
their waits. -/

namespace Sys2Proof.Machine

/-! ### Flags (R400) -/

/-- FLAGREL: the store of a release. -/
def State.flagrelAt (s : State) (d a : Reg) (scope : BitVec 3) : Outcome State Fault Refusal :=
  complete (.flagrel d a scope) s
    (match s.waitDrained scope.toNat with
     | .error e => .error e
     | .ok _ => s.storeScalar (s.rx a).toNat 8 (s.rx d).toNat)

/-- FLAGREL. -/
def execFlagrel (d a : Reg) (scope : BitVec 3) (s : State) : Outcome State Fault Refusal := s.flagrelAt d a scope

/-- FLAGACQ: the read that finds the word at least x(d) writes x(d). -/
def State.flagacqAt (s : State) (d a : Reg) (scope : BitVec 3) : Outcome State Fault Refusal :=
  complete (.flagacq d a scope) s
    (match s.loadScalar (s.rx a).toNat 8 with
     | .error e => .error e
     | .ok r =>
       let t := { s with hart := r.2 }
       if (s.rx d).toNat ≤ r.1 then .ok (t.wx d (BitVec.ofNat 64 r.1)) else .error (.wait t))

/-- FLAGACQ. -/
def execFlagacq (d a : Reg) (scope : BitVec 3) (s : State) : Outcome State Fault Refusal := s.flagacqAt d a scope

/-- A waiting FLAGACQ reads again. -/
def execFlagacqSatisfied (s : State) : Outcome State Fault Refusal :=
  s.onWait fun t i =>
    match i with
    | .flagacq d a sc => some (t.flagacqAt d a sc)
    | _ => none

/-! ### SIGNAL (R401) -/

/-- Sets the latches that a target word names: every hart of the crew, or the one of a rank. -/
def State.signalWake (s : State) (target : Word) : State :=
  s.mapHarts (fun h => decide (h.crewid = s.hart.crewid) && !h.ended &&
    (target.getLsbD 63 || decide (h.crewrank.toNat = target.toNat % 32))) fun h => { h with wake := true }

/-- SIGNAL: the add of a release, then the latches. -/
def State.signalAt (s : State) (d a : Reg) (scope : BitVec 3) : Outcome State Fault Refusal :=
  complete (.signal d a scope) s
    (match s.waitDrained scope.toNat with
     | .error e => .error e
     | .ok _ =>
       if s.rx a = 0 then .ok (s.signalWake (s.rx d))
       else match s.amo8 (s.rx a).toNat fun o => some ((o + 1) % 2 ^ 64) with
       | .error e => .error e
       | .ok r => .ok (r.2.signalWake (s.rx d)))

/-- SIGNAL. -/
def execSignal (d a : Reg) (scope : BitVec 3) (s : State) : Outcome State Fault Refusal := s.signalAt d a scope

/-! ### Byte-counting barriers (R223, R224) -/

/-- A barrier object: its two words. -/
structure BarObj where
  w0 : Nat
  w1 : Nat
deriving DecidableEq, Repr

/-- An object by its number: the first word lowest. -/
def BarObj.ofNat (n : Nat) : BarObj := ⟨n % 2 ^ 64, n / 2 ^ 64 % 2 ^ 64⟩

/-- The 16 bytes as a number. -/
def BarObj.toNat (o : BarObj) : Nat := o.w0 + o.w1 * 2 ^ 64

/-- STATUS. -/
def BarObj.status (o : BarObj) : Nat := bitsAt o.w1 60 4

/-- ARRIVED. -/
def BarObj.arrived (o : BarObj) : Nat := o.w1 % 2 ^ 48

/-- EXPECT. -/
def BarObj.expect (o : BarObj) : Nat := o.w0 % 2 ^ 48

/-- POSTED. -/
def BarObj.posted (o : BarObj) : Bool := bitAt o.w0 63

/-- Whether no reserved field or STATUS stands in the object. -/
def BarObj.sound (o : BarObj) : Bool := decide (bitsAt o.w0 48 15 = 0) && decide (bitsAt o.w1 48 12 = 0) && decide (o.status < 4)

/-- The second word. -/
def barWord (arrived status : Nat) : Nat := arrived % 2 ^ 48 + status * 2 ^ 60

/-- The status rule after each operation. -/
def BarObj.judge (o : BarObj) : BarObj :=
  if o.posted && decide (o.status = 0) && decide (o.expect ≤ o.arrived) then
    { o with w1 := barWord o.arrived (if o.arrived = o.expect then 1 else 2) }
  else o

/-- BCARRIVE of `n` bytes; ARRIVED holds at 2^48 − 1. -/
def BarObj.arrive (o : BarObj) (n : Nat) : BarObj :=
  if o.sound then
    ({ o with w1 := barWord (min (o.arrived + n) (2 ^ 48 - 1)) (if o.status = 1 then 2 else o.status) } : BarObj).judge
  else o

/-- BCPOST of `n` expected bytes. -/
def BarObj.post (o : BarObj) (n : Nat) : BarObj :=
  if o.sound && !o.posted then ({ o with w0 := n % 2 ^ 48 + 2 ^ 63 } : BarObj).judge else o

/-- The update of the object at x(a) as one event of a release, with the faults of a store: a poisoned granule takes the bytes and
stays poisoned (R312, R402). -/
def State.barUpdate (s : State) (a : Reg) (scope : BitVec 3) (f : BarObj → BarObj) : Except Stop State :=
  let va := (s.rx a).toNat
  match s.waitDrained scope.toNat with
  | .error e => .error e
  | .ok _ =>
    match s.storePage va 16 with
    | .error e => .error e
    | .ok x => .ok (s.putAt x va 16 (f (BarObj.ofNat (readLE s.mem (x.addr va) 16))).toNat)

/-- BCPOST. -/
def State.bcpostAt (s : State) (d a : Reg) (scope : BitVec 3) : Outcome State Fault Refusal :=
  complete (.bcpost d a scope) s (s.barUpdate a scope fun o => o.post ((s.rx d).toNat % 2 ^ 48))

/-- BCPOST (R402). -/
def execBcpost (d a : Reg) (scope : BitVec 3) (s : State) : Outcome State Fault Refusal := s.bcpostAt d a scope

/-- BCARRIVE. -/
def State.bcarriveAt (s : State) (d a : Reg) (scope : BitVec 3) : Outcome State Fault Refusal :=
  complete (.bcarrive d a scope) s (s.barUpdate a scope fun o => o.arrive ((s.rx d).toNat % 2 ^ 48))

/-- BCARRIVE (R402). -/
def execBcarrive (d a : Reg) (scope : BitVec 3) (s : State) : Outcome State Fault Refusal := s.bcarriveAt d a scope

/-- BCWAIT: the object's second word once STATUS is not PENDING. -/
def State.bcwaitAt (s : State) (d a : Reg) (scope : BitVec 3) : Outcome State Fault Refusal :=
  complete (.bcwait d a scope) s
    (match s.loadScalar (s.rx a).toNat 16 with
     | .error e => .error e
     | .ok r =>
       let o := BarObj.ofNat r.1
       let t := { s with hart := r.2 }
       if o.status = 0 then .error (.wait t) else .ok (t.wx d (BitVec.ofNat 64 o.w1)))

/-- BCWAIT (R402). -/
def execBcwait (d a : Reg) (scope : BitVec 3) (s : State) : Outcome State Fault Refusal := s.bcwaitAt d a scope

/-- A waiting BCWAIT reads again. -/
def execBcwaitDone (s : State) : Outcome State Fault Refusal :=
  s.onWait fun t i =>
    match i with
    | .bcwait d a sc => some (t.bcwaitAt d a sc)
    | _ => none

/-- A waiting release performs (R210). -/
def execReleasePerform (s : State) : Outcome State Fault Refusal :=
  s.onWait fun t i =>
    match i with
    | .flagrel d a sc => some (t.flagrelAt d a sc)
    | .signal d a sc => some (t.signalAt d a sc)
    | .bcpost d a sc => some (t.bcpostAt d a sc)
    | .bcarrive d a sc => some (t.bcarriveAt d a sc)
    | _ => none

end Sys2Proof.Machine
end

