-- ==== Sys2Proof/Machine/Remote.lean ====
section
/-! DEFINITION. Other packages: remote trains (R221, R390, R391), switch reductions (R222, R429 to R431) and peer-kill
notices (R289). -/

namespace Sys2Proof.Machine

/-! ### Remote addresses (R390) -/

/-- PKG. -/
def remPkg (a : Nat) : Nat := bitsAt a 54 10
/-- WIN. -/
def remWin (a : Nat) : Nat := bitsAt a 48 6
/-- OFFSET. -/
def remOff (a : Nat) : Nat := a % 2 ^ 48

/-- The window of a number in an application. -/
def App.window (a : App) (win : Nat) (red : Bool) : Option Window :=
  a.windows.find? fun w => decide (w.win = win) && decide (w.red = red)

/-- The address in its home application of `n` bytes at an offset of a window; none where they lie beyond it or off their
alignment. -/
def Window.addr (w : Window) (off n : Nat) : Option Nat :=
  if off % n = 0 ∧ off + n ≤ w.length then some (w.base + off) else none

/-- The bytes of an element, lowest first. -/
def elemBytes (f : Fmt) (x : Nat) : List Byte := (cellsLE 0 f.bytes x).map fun c => BitVec.ofNat 8 c.2

/-! ### Trains at their destination (R221, R268, R391) -/

/-- The elements of a train. -/
def trainElems (f : Fmt) (es : List SElem) : List TrainElem :=
  es.map fun e => ⟨e.idx, remWin e.va, remOff e.va, BitVec.ofNat 6 f.code, elemBytes f e.val⟩

/-- Where an element of a train is written in an application, or none where it faults; the cluster of the issuing core decides
on a KV page (R268). -/
def State.trainAddr (s : State) (w : Who) (app : Nat) (e : TrainElem) : Option (Nat × Xlat) :=
  match ((s.app app).window e.win false).bind fun w => w.addr e.off e.bytes.length with
  | none => none
  | some va =>
    match s.forStore ((s.app app).lookup w va) with
    | .error _ => none
    | .ok x =>
      if x.encoded || (match x.fmt with
        | none => false
        | some f => decide (f.code ≠ e.tag.toNat)) then none else some (va, x)

/-- One element performed; the indices that fault, and the bytes performed, are kept. `own` says that the issuing hart has the
turn. -/
def State.trainElem (own : Bool) (w : Who) (app : Nat) (r : State × List Nat × Nat) (e : TrainElem) : State × List Nat × Nat :=
  match r.1.trainAddr w app e with
  | none => (r.1, r.2.1 ++ [e.index], r.2.2)
  | some (va, x) =>
    (r.1.writePhys own ((List.zip (List.range e.bytes.length) e.bytes).map fun b => (x.addr va + b.1, b.2.toNat)),
     r.2.1, r.2.2 + e.bytes.length)

/-- The address of the barrier object that a tail names at this destination, and its page, where it can be updated. -/
def State.tailAddr (s : State) (w : Who) (app : Nat) (bar : Word) : Option (Nat × Xlat) :=
  match ((s.app app).window (remWin bar.toNat) false).bind fun w => w.addr (remOff bar.toNat) 16 with
  | none => none
  | some va =>
    match s.forStore ((s.app app).lookup w va) with
    | .error _ => none
    | .ok x => if x.encoded then none else some (va, x)

/-- Updates a barrier object in physical memory. -/
def State.barAt (s : State) (pa : Nat) (f : BarObj → BarObj) : State :=
  s.writePhys false (cellsLE pa 16 (f (BarObj.ofNat (readLE s.mem pa 16))).toNat)

/-- The addresses at which a train meets a page under migration, its tail's among them: it parks there (R188). -/
def State.trainHeld (s : State) (w : Who) (app : Nat) (bar : Word) (es : List TrainElem) : List Nat :=
  let ps := es.filterMap (s.trainAddr w app) ++ (if bar = 0 then [] else (s.tailAddr w app bar).toList)
  (ps.filter fun p => p.2.closed).map Prod.fst

/-- A train performed at this package: the elements, then the tail; with the indices that fault. -/
def State.runTrain (s : State) (own : Bool) (w : Who) (app : Nat) (bar : Word) (es : List TrainElem) : State × List Nat :=
  let r := es.foldl (State.trainElem own w app) (s, [], 0)
  (if bar = 0 then r.1
   else match r.1.tailAddr w app bar with
     | none => r.1
     | some p => r.1.barAt (p.2.addr p.1) fun o => o.arrive r.2.2, r.2.1)

/-! ### VSTXR -/

/-- A train sent to a package: at this one it performs at once, like the hart's other stores, and the acknowledgement is on its
way; to another it leaves through a port of the die; a package outside the domain is no destination, so every element faults. -/
def State.sendTrain (s : State) (f : Fmt) (bar : Word) (es : List SElem) (p : Nat) : State :=
  let h := s.hart
  let t : Train := { id := s.nextTrain, hart := h.id, app := h.app, pkg := p, bar := bar,
                     elems := trainElems f (es.filter fun e => decide (remPkg e.va = p)), pc := h.pc, strip := h.strip, at_ := h.retired }
  let s1 : State := { s with trains := s.trains ++ [t], nextTrain := s.nextTrain + 1 }
  if p = s.pkg then
    let vas := (t.elems.filterMap (s.trainAddr h.who h.app)).map Prod.fst
    let r := s1.runTrain true h.who h.app bar t.elems
    let tail := if bar = 0 then none else (s.tailAddr h.who h.app bar).map Prod.fst
    (r.1.dropOld (vas ++ tail.toList)).later .trainAck { n := t.id, nums := some r.2 }
  else if s.domain.contains p then
    ({ s1 with outbox := s1.outbox ++ [(.trainArrive, { n := t.id, m := t.app, k := s.pkg, a1 := bar, a2 := BitVec.ofNat 64 p,
                                                         a3 := if h.who.side = .g then 1 else 0, elems := t.elems })] } : State).putFlit
      h.who.die 4 p (.train t.id)
  else s1.later .trainAck { n := t.id }

/-- Whether a train of the hart to its own package would write what the hart's transfers hold, with its elements or with its tail
(R119, R121). -/
def State.trainInFlight (s : State) (bar : Word) (es : List TrainElem) : Bool :=
  let h := s.hart
  (es.any fun e => (s.trainAddr h.who h.app e).any fun p => s.ritHit h p.1 (p.1 + e.bytes.length)) ||
    (decide (bar ≠ 0) && (s.tailAddr h.who h.app bar).any fun p => s.ritHit h p.1 (p.1 + 16))

/-- VSTXR. -/
def execVstxr (d a b : Reg) (m : BitVec 2) (s : State) : Outcome State Fault Refusal :=
  complete (.vstxr d a b m) s
    (if !s.hart.feat 5 then .error .illegal
     else s.storeWith [s.hart.tagRun b.toNat] d m (fun t => .ok ⟨false, t.rx a, []⟩) fun t q v =>
       match t.hart.tagged b.toNat fun f => decide (f = .n64) with
       | .error e => .error e
       | .ok w =>
         if !t.hart.storeTagOk v.fmt false false then .error .opfmt
         else if q.base ≠ 0 ∧ remOff q.base.toNat % 16 ≠ 0 then .error (.trap .misalign (some q.base) 0)
         else
           let es := activeElems (t.hart.act m.toNat) 0 (fitLen t.hart.vl w.elems) (fitLen t.hart.vl v.elems)
           let mine := es.filter fun e => decide (remPkg e.va = t.pkg)
           let held := t.trainHeld t.hart.who t.hart.app q.base (trainElems v.fmt mine)
           if mine ≠ [] ∧ t.trainInFlight q.base (trainElems v.fmt mine) then .error (.wait t)
           else if mine ≠ [] ∧ held ≠ [] then .error (.wait (t.park held))
           else .ok ((distinct (es.map fun e => remPkg e.va) []).foldl (State.sendTrain · v.fmt q.base es) t))

/-! ### Trains of other packages -/

/-- TRAIN_ARRIVE: a train of another package performs, and the acknowledgement goes back to it; one that meets a page under
migration is held back, by the flag, until the remap. Trains to this package have performed at issue. -/
def execTrainArrive (s : State) : Outcome State Fault Refusal :=
  let i := s.inp
  let w : Who := ⟨0, if i.a3 = 1 then .g else .p⟩
  if i.k = s.pkg then .next s
  else if s.trainHeld w i.m i.a1 i.elems ≠ [] then .next (s.later .trainArrive { i with flag := true })
  else
    let r := s.runTrain false w i.m i.a1 i.elems
    .next { r.1 with outbox := r.1.outbox ++ [(.trainAck, { n := i.n, a2 := BitVec.ofNat 64 i.k, flag := true, nums := some r.2 })] }

/-- A remote address put together. -/
def remAddr (pkg win off : Nat) : Word := BitVec.ofNat 64 (pkg * 2 ^ 54 + win * 2 ^ 48 + off)

/-- The record of a remote fault (R281) of a store that issued when `at_` instructions had retired: it takes its place among
those of the stores issued since. -/
def Hart.addRemote (h : Hart) (pc : Word) (strip : BitVec 32) (addr : Word) (index at_ : Nat) : Hart :=
  h.addRec { pc := pc, addr := addr, elem := BitVec.ofNat 16 index, cause := BitVec.ofNat 8 Cause.storefault.code, kind := 3,
             strip := strip, lost := 0, age := h.retired - (at_ + 1) }

/-- TRAIN_ACK: the train, once it has been sent, is no longer in flight; its faulting elements, or all where its port went
DOWN, add a record. -/
def execTrainAck (s : State) : Outcome State Fault Refusal :=
  match s.trains.find? fun t => decide (t.id = s.inp.n) && !s.waitsToSend (.train t.id) with
  | none => .next s
  | some t =>
    let s1 : State := { s with trains := s.trains.filter fun q => decide (q.id ≠ t.id) }
    let bad := match s.inp.nums with
      | none => t.elems
      | some ns => t.elems.filter fun e => ns.contains e.index
    match bad with
    | [] => .next s1
    | e :: _ => .next (s1.updHart t.hart fun h => h.addRemote t.pc t.strip (remAddr t.pkg e.win e.off) e.index t.at_)

/-! ### FRED (R430) -/

/-- The tags of each operation. -/
def fredTag (op : Nat) (f : Fmt) : Bool := if op < 3 then f.isWord else f.isWideFlt

/-- FRED. -/
def execFred (d a b : Reg) (m : BitVec 2) (s : State) : Outcome State Fault Refusal :=
  complete (.fred d a b m) s
    (if !s.hart.feat 5 || decide (4 < (s.rx a).toNat) then .error .illegal
     else s.storeWith [s.hart.tagRun b.toNat] d m (fun t => .ok ⟨false, t.rx a, []⟩) fun t q v =>
       match t.hart.tagged b.toNat fun f => decide (f = .n64) with
       | .error e => .error e
       | .ok w =>
         if !fredTag q.base.toNat v.fmt then .error .opfmt
         else
           let h := t.hart
           let es := activeElems (h.act m.toNat) 0 (fitLen h.vl w.elems) (fitLen h.vl v.elems)
           let cs := es.map fun e =>
             ({ fred := t.nextTrain, pc := h.pc, strip := h.strip, at_ := h.retired, hart := h.id, app := h.app, index := e.idx,
                addr := BitVec.ofNat 64 e.va, op := q.base.toNat, tag := v.fmt, val := e.val } : Contrib)
           match es with
           | [] => .ok t
           | e :: _ =>
             .ok ((({ t with contribs := t.contribs ++ cs, nextTrain := t.nextTrain + 1 } : State).putFlit h.who.die 3
               (remPkg e.va) (.fred t.nextTrain)).later .fredAccept { n := t.nextTrain }))

/-- The open round of a word: one that NPART contributions have not yet filled. -/
def State.openRound (s : State) (app win off npart : Nat) : Option Round :=
  s.rounds.find? fun r => decide (r.status = 0) && decide (r.pkgs.length < npart) && decide (r.app = app) &&
    decide (r.win = win) && decide (r.off = off)

/-- A switch takes one contribution of a package: the round it is accepted into, or none where it faults. -/
def State.accept (s : State) (pkg : Nat) (c : Contrib) : Option (Nat × State) :=
  let win := remWin c.addr.toNat
  let off := remOff c.addr.toNat
  match (s.app c.app).window win true with
  | none => none
  | some w =>
    if remPkg c.addr.toNat ≠ w.home ∨ (w.addr off c.tag.bytes).isNone then none
    else
      let go (r : Round) : Nat × State :=
        let q := { r with vals := r.vals ++ [c.val], pkgs := r.pkgs ++ [pkg] }
        let s1 : State := { s with rounds := (s.rounds.filter fun x => decide (x.num ≠ r.num)) ++ [q] }
        (r.num, if q.pkgs.length = w.npart then s1.later .fredRoundDeliver { n := r.num } else s1)
      match s.openRound c.app win off w.npart with
      | some r => if r.pkgs.contains pkg || decide (r.op ≠ c.op) || decide (r.tag ≠ c.tag) then none else some (go r)
      | none =>
        let r := go { num := s.nextRound, app := c.app, win := win, off := off, op := c.op, tag := c.tag, vals := [],
                      pkgs := [], status := 0 }
        some (r.1, { r.2 with nextRound := s.nextRound + 1 })

/-- The contributions of one FRED in ascending element order; the first that faults is kept. A word that an earlier element
named, one of `seen`, is a repeat. -/
def acceptAll (pkg : Nat) (down : Bool) : List Contrib → List Word → State → Option Contrib → State × Option Contrib
  | [], _, s, bad => (s, bad)
  | c :: cs, seen, s, bad =>
    match if down || seen.contains c.addr then none else s.accept pkg c with
    | none => acceptAll pkg down cs (c.addr :: seen) s (some (bad.getD c))
    | some (n, s1) =>
      acceptAll pkg down cs (c.addr :: seen) (if pkg = s.pkg then
        s1.updHart c.hart fun h => { h with fredRounds := mset 0 h.fredRounds c.addr.toNat n } else s1) bad

/-- A contribution of another package as the fabric brings it: the operation in n, the element's tag and bytes. -/
def inboundContribs (i : Input) : List Contrib :=
  i.elems.filterMap fun e => (Fmt.ofCode e.tag.toNat).map fun f =>
    { fred := 0, pc := 0, strip := 0, hart := 0, app := i.m, index := e.index,
      addr := i.a1 + BitVec.ofNat 64 (e.win * 2 ^ 48 + e.off), op := i.n, tag := f, val := leNat (e.bytes.map BitVec.toNat) }

/-- FRED_ACCEPT: the switch takes the contributions of one FRED of this package once they have been sent (none where the port is
DOWN), or those that another package sent. -/
def execFredAccept (s : State) : Outcome State Fault Refusal :=
  if s.inp.flag then .next (acceptAll s.inp.k false (inboundContribs s.inp) [] s none).1
  else if s.waitsToSend (.fred s.inp.n) then .next (s.later .fredAccept s.inp)
  else
    let cs := s.contribs.filter fun c => decide (c.fred = s.inp.n)
    let s1 : State := { s with contribs := s.contribs.filter fun c => decide (c.fred ≠ s.inp.n) }
    let r := acceptAll s.pkg (decide (s.inp.k = 1)) cs [] s1 none
    match r.2 with
    | none => .next r.1
    | some c => .next (r.1.updHart c.hart fun h => h.addRemote c.pc c.strip c.addr c.index c.at_)

/-- The merged value of a round (R430). -/
def Round.merged (r : Round) : Nat :=
  let f := r.tag
  match r.vals with
  | [] => 0
  | v :: vs =>
    match r.op with
    | 0 => (r.vals.foldl (· + ·) 0) % 2 ^ f.bits
    | 1 => vs.foldl (fun o x => if f.toInt x < f.toInt o then x else o) v
    | 2 => vs.foldl (fun o x => if f.toInt o < f.toInt x then x else o) v
    | 3 => ((exactSum (r.vals.map (decodeVal f))).round f .rne 0).1
    | _ => vs.foldl (extremeAt f true) v

/-- The merged value of a word replaces it at its home, this package: its page is judged as for the control program, and a fault
drops the value (log). True where a migration holds the store back (R188). -/
def State.putMerged (s : State) (app va : Nat) (f : Fmt) (v : Nat) : State × Bool :=
  match s.forStore ((s.app app).lookup ctlWho va) with
  | .error _ => (s, false)
  | .ok x => if x.closed then (s, true) else (s.writePhys false (cellsLE (x.addr va) f.bytes v), false)

/-- A round takes a status. -/
def State.setRound (s : State) (num status : Nat) : State :=
  { s with rounds := s.rounds.map fun q => if q.num = num then { q with status := status } else q }

/-- A round of this package's switches is complete: at a home here the value is stored and the round has performed; to a home in
another package it sets out. -/
def State.deliver (s : State) (r : Round) (w : Window) : State :=
  if r.pkgs.length < w.npart then s
  else if w.home ≠ s.pkg then
    let t := s.setRound r.num 2
    { t with outbox := t.outbox ++ [(.fredRoundDeliver, { n := w.home, m := r.app, k := r.tag.code, a1 := remAddr w.home r.win r.off,
                                                          a2 := BitVec.ofNat 64 r.merged, a3 := BitVec.ofNat 64 r.num })] }
  else
    let p := s.putMerged r.app (w.base + r.off) r.tag r.merged
    if p.2 then s.later .fredRoundDeliver { n := r.num, k := 1 } else p.1.setRound r.num 1

/-- A merged value that another package's switch sends to its home here: application m, remote address a1, value a2, and its tag
and package in `nums`; that it has performed goes back with the number of the round. -/
def State.deliverIn (s : State) (i : Input) (tag pkg : Nat) : State :=
  match (s.app i.m).window (remWin i.a1.toNat) true, Fmt.ofCode tag with
  | some w, some f =>
    let p := s.putMerged i.m (w.base + remOff i.a1.toNat) f i.a2.toNat
    if p.2 then s.later .fredRoundDeliver { i with k := 1 }
    else { p.1 with outbox := p.1.outbox ++ [(.fredRoundDeliver, { n := i.n, a2 := BitVec.ofNat 64 pkg, flag := true })] }
  | some _, none => s
  | none, _ => s

/-- FRED_ROUND_DELIVER: round n of this package's switches is delivered; by the flag, the home of round n reports that its value
has performed; or, with a tag and a package, another package's value arrives. -/
def execFredRoundDeliver (s : State) : Outcome State Fault Refusal :=
  let i := s.inp
  .next (if i.flag then
      (if s.rounds.any fun r => decide (r.num = i.n) && decide (r.status = 2) then s.setRound i.n 1 else s)
    else match i.nums with
      | some [tag, pkg] => s.deliverIn i tag pkg
      | some _ => s
      | none =>
        match s.rounds.find? fun r => decide (r.num = i.n) && decide (r.status = 0) with
        | none => s
        | some r =>
          match (s.app r.app).window r.win true with
          | none => s
          | some w => s.deliver r w)

/-- Whether a round has yet to perform. -/
def Round.underWay (r : Round) : Bool := decide (r.status = 0) || decide (r.status = 2)

/-- Whether a contribution of the hart to a remote address is still on its way to its switch. -/
def State.contributing (s : State) (a : Word) : Bool := s.contribs.any fun c => decide (c.hart = s.hart.id) && decide (c.addr = a)

/-- FREDWAIT: the hart's contributions to the word are accepted or fault first, so that its latest is known (R431). -/
def State.fredwaitAt (s : State) (d a : Reg) : Outcome State Fault Refusal :=
  complete (.fredwait d a) s
    (if !s.hart.feat 5 then .error .illegal
     else if s.contributing (s.rx a) then .error (.wait s)
     else
       let n := mget 0 s.hart.fredRounds (s.rx a).toNat
       match s.rounds.find? fun r => decide (r.num = n) with
       | none => .ok (s.wx d 0)
       | some r => if r.underWay then .error (.wait s) else .ok (s.wx d (BitVec.ofNat 64 r.status)))

/-- FREDWAIT (R431). -/
def execFredwait (d a : Reg) (s : State) : Outcome State Fault Refusal := s.fredwaitAt d a

/-- FREDWAIT_DONE: a waiting FREDWAIT looks at its round again. -/
def execFredwaitDone (s : State) : Outcome State Fault Refusal :=
  s.onWait fun t i =>
    match i with
    | .fredwait d a => some (t.fredwaitAt d a)
    | _ => none

/-! ### Peer-kill notices (R289, R290) -/

/-- Writes ABORTED to a barrier object of an application. -/
def State.abortBar (s : State) (app va : Nat) : State :=
  match (s.app app).lookup ctlWho va with
  | none => s
  | some x => s.barAt (x.addr va) fun o => { o with w1 := barWord o.arrived 3 }

/-- Whether a notice of a kill on package `pkg` is about a collective: it is matched by package and number (R60). -/
def Coll.matches (c : Coll) (pkg cid : Nat) : Bool := decide (c.cid = cid) && c.members.contains pkg

/-- An unfinished collective of an application is aborted, with its barriers and rounds; for a finished one the notice is
logged. -/
def State.abortColl (s : State) (app pkg cid : Nat) : State :=
  let a := s.app app
  match a.colls.find? fun c => c.matches pkg cid with
  | none => s
  | some c =>
    if c.state ≠ .active then s.logApp app [4]
    else
      let wins := (a.windows.filter fun w => decide (w.cid = cid)).map Window.win
      let s1 := s.setApp app { a with colls := a.colls.map fun q => if q.cid = cid then { q with state := .aborted } else q }
      let s2 : State := { s1 with rounds := s1.rounds.map fun r =>
        if r.underWay ∧ r.app = app ∧ wins.contains r.win then { r with status := 5 } else r }
      (c.bars.foldl (fun t b => t.abortBar app b) s2).lookColl app cid

/-- The applications that a notice is about: the one it names where the kill was here; else every one with a collective that
matches, a peer being known by package and number (R60; log). -/
def State.notified (s : State) (i : Input) : List Nat :=
  (s.apps.map Prod.fst).filter fun k => decide (i.m ≠ s.pkg) || decide (s.appId k = i.a1.toNat)

/-- PEER_KILL_NOTICE: a context of package m, of the application in a1, was killed, a member of collective k (R289, R290). -/
def execPeerKillNotice (s : State) : Outcome State Fault Refusal :=
  .next ((s.notified s.inp).foldl (fun t app => t.abortColl app s.inp.m s.inp.k) s)

end Sys2Proof.Machine
end

