-- ==== Sys2Proof/Machine/Services.lean ====
section
/-! DEFINITION. Riura services that stand alone (R54 to R56): EXIT, QUERY (R59, R436), TIME, CREWEXIT (R74), LOG, TENANT
(R437), WSLOAD (R174), unknown services, and the faults of a control program (R438). -/

namespace Sys2Proof.Machine

/-- EXIT (R49). -/
def execRiuraExit (s : State) : Outcome State Fault Refusal :=
  s.service true false fun s k _ => s.endApp k (BitVec.ofNat 32 s.inp.a1.toNat)

/-- TIME. -/
def execRiuraTime (s : State) : Outcome State Fault Refusal :=
  s.service true true fun s _ _ => s.ret (num (timeNs s.clk))

/-- LOG: at most 4 KiB. -/
def execRiuraLog (s : State) : Outcome State Fault Refusal :=
  s.service true true fun s k w =>
    if 4096 < s.inp.a2.toNat then s.ret eInval
    else match s.readFor k w s.inp.a1.toNat s.inp.a2.toNat with
      | none => s.ret eInval
      | some bs => (s.setApp k { s.app k with logs := (s.app k).logs ++ [bs.map (BitVec.ofNat 8)] }).ret 0

/-- TENANT (R437). -/
def execRiuraTenant (s : State) : Outcome State Fault Refusal :=
  s.service true false fun s k w =>
    let t := s.tenantOf (s.app k).tenant
    s.writeOut k w s.inp.a1.toNat 72
      ([(s.app k).tenant, t.featmask.toNat, t.coreSh] ++ (List.range 4).map (fun d => mget 1 t.hbmSh d) ++ [t.poolA, t.poolB])

/-- A service number above 0x11. -/
def execRiuraUnknownService (s : State) : Outcome State Fault Refusal :=
  s.service true true fun s _ _ => s.ret eNosys

/-! ### QUERY (R59) -/

/-- A QUERY of an item; the event of another item does not answer it. -/
def State.query (s : State) (item : Word) (f : State → Nat → Who → State) : Outcome State Fault Refusal :=
  if s.inp.a1 = item then s.service true true f else .next s

/-- Item 0x01, and every item that is none. -/
def execQueryDeviceShape (s : State) : Outcome State Fault Refusal :=
  if s.inp.a1 = 2 ∨ s.inp.a1 = 3 ∨ s.inp.a1 = 0x10 then .next s
  else s.service true true fun s k w =>
    if s.inp.a1 = 1 then
      s.writeOut k w s.inp.a2.toNat s.inp.a3.toNat
        [160 + 96 * 2 ^ 16 + 10 * 2 ^ 32 + 6 * 2 ^ 40 + 4 * 2 ^ 48, 7]
    else s.ret eInval

/-- Item 0x02. -/
def execQueryWeightStore (s : State) : Outcome State Fault Refusal :=
  s.query 2 fun s k w =>
    s.writeOut k w s.inp.a2.toNat s.inp.a3.toNat ((s.app k).wsWin :: (List.range 4).map fun d => mget 0 (s.app k).wsSize d)

/-- The memory code and its placement field (R59). -/
def placeField (x : Xlat) : Nat × Nat × Nat :=
  match x.kind with
  | .polder => (0, (x.pa - polderBase 0) / 2 ^ 24, 0)
  | .tier1 => (1, dieOfHbm x.pa, 0)
  | .tier2 .a => (2, 0, 0)
  | .tier2 .b => (2, 0, 1)
  | .weight => (3, 0, 0)
  | .kv => (4, dieOfHbm x.pa, 0)

/-- Whether an address is range-mapped, and log2 of its page or range size: 64 KiB for the KV window, and for the weight
store the largest page its window and share allow (R181). -/
def App.pageOf (a : App) (w : Who) (x : Xlat) (va : Nat) : Bool × Nat :=
  match x.kind with
  | .kv => (false, 16)
  | .weight => (false, if mget 0 a.wsSize w.die % 2 ^ 21 = 0 then 21 else if mget 0 a.wsSize w.die % 2 ^ 16 = 0 then 16 else 12)
  | _ =>
    match findMap a.maps va with
    | none => (false, 12)
    | some m => if m.range then (true, Nat.log2 (m.pages * 4096)) else (false, m.pageLog)

/-- The placement word. -/
def placeWordOf (a : App) (w : Who) (x : Xlat) (va : Nat) : Nat :=
  let f := placeField x
  let p := a.pageOf w x va
  p.1.toNat + f.1 * 2 + f.2.1 * 2 ^ 4 + f.2.2 * 2 ^ 10 + p.2 * 2 ^ 11

/-- Item 0x03: the address stands in the buffer's first 8 bytes. -/
def execQueryAddress (s : State) : Outcome State Fault Refusal :=
  s.query 3 fun s k w =>
    if s.inp.a3.toNat < 16 then s.ret eRange
    else match s.readWordFor k w s.inp.a2.toNat with
      | none => s.ret eInval
      | some va =>
        match (s.app k).lookup w va with
        | none => s.ret eNoent
        | some x => s.writeOut k w s.inp.a2.toNat s.inp.a3.toNat [x.attr.toNat, placeWordOf (s.app k) w x va]

/-- Item 0x10. -/
def execQueryKvwin (s : State) : Outcome State Fault Refusal :=
  s.query 0x10 fun s k w => s.writeOut k w s.inp.a2.toNat s.inp.a3.toNat [(s.app k).kvwin]

/-! ### CREWEXIT (R74, R79, R282) -/

/-- The transfers of a crew in flight that no migration holds back. -/
def State.crewTransfers (s : State) (cid : Nat) : List Nat :=
  (s.transfers.filter fun t => !t.parked && (s.crewHarts cid).any fun h => decide (h.id = t.hart)).map Transfer.id

/-- Whether an access of a crew is still in flight: a transfer, a train, a contribution, or a store that a migration holds
back. -/
def State.crewBusy (s : State) (cid : Nat) : Bool := (s.crewHarts cid).any fun h => !s.drained h 4 || h.parked

/-- CREWEXIT: the crew's transfers retire and its trains and contributions perform, so that the completion word comes after
every store of the crew (R80); then it ends. Its work unit fails unless the status is 0. -/
def execRiuraCrewexit (s : State) : Outcome State Fault Refusal :=
  s.service false true fun s _ _ =>
    match s.inp.caller with
    | .ctl _ => s
    | .hart id =>
      match s.hartOf id with
      | none => s
      | some h =>
        match s.crewTransfers h.crewid.toNat with
        | t :: _ => (s.postFront .riuraCrewexit s.inp).postFront .transferRetire { n := t }
        | [] =>
          if s.crewBusy h.crewid.toNat then (s.haltCrew h.crewid.toNat).later .riuraCrewexit s.inp
          else s.endCrew h.crewid.toNat (decide (s.inp.a1.toNat % 2 ^ 32 ≠ 0))

/-! ### WSLOAD (R174) -/

/-- A byte of WSLOAD's source: none where it is poisoned. -/
def State.wsByte (s : State) (k : Nat) (va : Nat) : Except MemFault (Option Nat) :=
  match s.readByteFor k ctlWho va with
  | .ok b => .ok (some b)
  | .error .poison => .ok none
  | .error e => .error e

/-- The source's bytes; none where one cannot be read for another reason than poison. -/
def State.wsBytes (s : State) (k va : Nat) : Nat → Option (List (Option Nat))
  | 0 => some []
  | n + 1 =>
    match s.wsByte k va, s.wsBytes k (va + 1) n with
    | .ok b, some bs => some (b :: bs)
    | .ok _, none => none
    | .error _, _ => none

/-- The named dies. -/
def diesOf (mask : Nat) : List Nat := (List.range 4).filter fun d => mask.testBit d

/-- The call's arguments obey the limits. -/
def State.wsOk (s : State) (k : Nat) : Bool :=
  let i := s.inp
  decide (i.a2.toNat % 4096 = 0) && decide (i.a3.toNat % 4096 = 0) && decide (i.a4.toNat < 16) &&
    (diesOf i.a4.toNat).all fun d => decide (i.a2.toNat + i.a3.toNat ≤ mget 0 (s.app k).wsSize d)

/-- The bytes written to one die's share; a granule fed from poison is poison. -/
def State.wsWrite (s : State) (k off : Nat) (bs : List (Option Nat)) (d : Nat) : State :=
  let base := weightBase d + mget 0 (s.app k).wsOff d + off
  let cells := List.zip (List.range bs.length) bs
  let t := s.writePhys false (cells.map fun x => (base + x.1, x.2.getD 0))
  cells.foldl (fun u x => if x.2.isNone then u.setPoison ((base + x.1) / 64) true else u) t

/-- WSLOAD: checked, then under way until WSLOAD_RETURN. -/
def execRiuraWsload (s : State) : Outcome State Fault Refusal :=
  s.service true false fun s k _ =>
    if !s.wsOk k then s.ret eInval
    else if (s.app k).launches.any fun l => l.ended.isNone then s.ret eBusy
    else if (s.wsBytes k s.inp.a1.toNat s.inp.a3.toNat).isNone then s.ret eInval
    else (s.setApp k { s.app k with pend := some ⟨.wsload, none⟩ }).later .wsloadReturn s.inp

/-- WSLOAD_RETURN. -/
def execWsloadReturn (s : State) : Outcome State Fault Refusal :=
  .next (match s.inp.caller with
    | .hart _ => s
    | .ctl k =>
      if (s.app k).pend = some ⟨.wsload, none⟩ then
        match s.wsBytes k s.inp.a1.toNat s.inp.a3.toNat with
        | none => s.ret eInval
        | some bs => ((diesOf s.inp.a4.toNat).foldl (fun t d => t.wsWrite k s.inp.a2.toNat bs d) s).ret 0
      else s)

/-! ### The control program's own accesses (R438) -/

/-- The new value of an AMO of the RVA23 profile: 1 swap, 2 add, 3 and, 4 or, 5 xor, 6 min, 7 max, 8 minu, 9 maxu (log). -/
def ctlAmo (op bits old v : Nat) : Nat :=
  match op with
  | 1 => v
  | 2 => old + v
  | 3 => old &&& v
  | 4 => old ||| v
  | 5 => old ^^^ v
  | 6 => if sgn bits v < sgn bits old then v else old
  | 7 => if sgn bits old < sgn bits v then v else old
  | 8 => min old v
  | _ => max old v

/-- Whether a migration holds back a write of n bytes at an address. -/
def State.ctlClosed (s : State) (k va n : Nat) : Bool :=
  (List.range n).any fun i => (((s.app k).lookup ctlWho (va + i)).map Xlat.closed).getD false

/-- Bytes that the control program stores; a poisoned granule stays poisoned (R194). -/
def State.ctlPut (s : State) (k va : Nat) (bs : List Nat) : State :=
  { s.writeFor k ctlWho va bs with poison := s.poison }

/-- A store of the control program: a fault ends the application, and a page under migration parks the thread (R188). -/
def State.ctlStore (s : State) (k va : Nat) (bs : List Nat) : State :=
  let a := s.app k
  if s.ctlFaults k va bs.length false true then s.endApp k 0xFFFFFFFF
  else if s.ctlClosed k va bs.length then s.setApp k { a with pend := some ⟨.store va bs, none⟩ }
  else (s.setApp k { a with pend := none }).ctlPut k va bs

/-- An AMO of it of n bytes: the old value is read and the new one written in one event. -/
def State.ctlAtomic (s : State) (k va n op : Nat) (v : Word) : State :=
  let a := s.app k
  if s.ctlFaults k va n true true then s.endApp k 0xFFFFFFFF
  else if s.ctlClosed k va n then s.setApp k { a with pend := some ⟨.amo va n op v, none⟩ }
  else
    let old := leNat ((s.readFor k ctlWho va n).getD [])
    (s.setApp k { a with pend := none, ctlRead := num old }).ctlPut k va
      ((cellsLE va n (ctlAmo op (8 * n) old (v.toNat % 2 ^ (8 * n)) % 2 ^ (8 * n))).map Prod.snd)

/-- A load of it of n bytes. -/
def State.ctlLoad (s : State) (k va n : Nat) : State :=
  if s.ctlFaults k va n true false then s.endApp k 0xFFFFFFFF
  else s.setApp k { s.app k with ctlRead := num (leNat ((s.readFor k ctlWho va n).getD [])) }

/-- CONTROL_PROGRAM_FAULT: the control program that is not in a call accesses k bytes at n: AMO number m, or with m = 0 a store
by the flag, else a load; the operand is a1. A fault ends its application. A thread that a migration has parked tries again. -/
def execControlProgramFault (s : State) : Outcome State Fault Refusal :=
  let i := s.inp
  .next (match i.caller with
    | .hart _ => s
    | .ctl k =>
      let a := s.app k
      if a.state ≠ .running then s
      else match a.pend.map Pending.kind with
        | none =>
          if i.m ≠ 0 then s.ctlAtomic k i.n i.k i.m i.a1
          else if i.flag then s.ctlStore k i.n ((cellsLE i.n i.k i.a1.toNat).map Prod.snd)
          else s.ctlLoad k i.n i.k
        | some (.store va bs) => s.ctlStore k va bs
        | some (.amo va n op v) => s.ctlAtomic k va n op v
        | some _ => s)

end Sys2Proof.Machine
end

