-- ==== Sys2Proof/Machine/Soft.lean ====
section
/-! DEFINITION. The online-softmax step (R246, R418). -/

namespace Sys2Proof.Machine

/-- What MSOFT makes of one row: the patterns of P and O, the maximum, the sum, and the flags. -/
structure SoftRow where
  p : List Nat
  o : List Nat
  m : Val
  l : Val
  flags : Flags

/-- The exponentials of a row: +0 where the maximum is −∞. -/
def softExps (mn : Val) (ss : List Val) : List (Val × Flags) :=
  ss.map fun x => if mn = .inf true then (.fin false 0 1, {}) else expDiff x mn

/-- Adds the exact sums of groups of 32 to a value, each rounded to F32. -/
def addGroups (l : Val) (ps : List Val) : Val :=
  (by32 ps.length ps).foldl (fun a g => (Val.add false a (exactSum g).val).toF32.1) l

/-- One row of R246: the old maximum and sum, the scores below VL, the output row. Its flags are NV for a NaN and those of the
exponentials: no other operation sets one (R163, R399). -/
def softRow (mo lo : Val) (ss os : List Val) : SoftRow :=
  let mx := maxNan mo ss
  let ps := softExps mx.1 ss
  let al : Val × Flags := if mx.1 = .inf true then (.fin false 1 1, {}) else expDiff mo mx.1
  { p := ps.map fun x => x.1.f32Bits, o := os.map fun x => (Val.mul x al.1).toF32.1.f32Bits, m := mx.1,
    l := addGroups (Val.mul lo al.1).toF32.1 (ps.map Prod.fst),
    flags := (ps.foldl (fun f x => f.or x.2) mx.2).or al.2 }

/-- The step on rows 0 to n − 1 of score tile t and output tile o. -/
def Hart.soft (h : Hart) (t o a n : Nat) (ms ls : List Val) : Hart :=
  let st := h.tile t
  let ot := h.tile o
  let rs := (List.zip (List.range n) (List.zip ms ls)).map fun x =>
    (x.1, softRow x.2.1 x.2.2 (((st.row x.1).take h.vl).map f32Val) ((ot.row x.1).map f32Val))
  let st' := rs.foldl (fun q r => q.setRow r.1 r.2.p) st
  let ot' := rs.foldl (fun q r => q.setRow r.1 r.2.o) ot
  let g := (h.setTile t st').setTile o ot'
  let g := g.writeGroup (g.wb.toNat + a) 1 (plainVec .f32 (rs.map fun r => r.2.m.f32Bits))
  let g := g.writeGroup (g.wb.toNat + a + 1) 1 (plainVec .f32 (rs.map fun r => r.2.l.f32Bits))
  g.raise (rs.foldl (fun f r => f.or r.2.flags) {})

/-- MSOFT: it needs ATTN and an uncut core. -/
def execMsoft (t : BitVec 3) (a : Reg) (h : BitVec 4) (n : Reg) (s : State) : Outcome State Fault Refusal :=
  let g := s.hart
  let k := n.toNat
  let regs : List VRun := [(a.toNat, 1), (a.toNat + 1, 1)]
  complete (.msoft t a h n) s
    (if g.cut ≠ 1 || !g.feat 3 || decide (96 < g.vl) then .error .illegal
     else match s.vecReady [] regs 0 with
     | .error e => .error e
     | .ok _ =>
       match g.chainReg a.toNat (.inf true) k, g.chainReg (a.toNat + 1) (.fin false 0 1) k with
       | .ok ms, .ok ls =>
         if (g.tile t.toNat).isInt || (g.tile h.toNat).isInt then .error .opfmt
         else .ok { s with hart := g.soft t.toNat h.toNat a.toNat k ms ls }
       | .error e, _ => .error e
       | .ok _, .error e => .error e)

end Sys2Proof.Machine
end

