-- ==== Sys2Proof/Machine/Stream.lean ====
section
/-! DEFINITION. Streams (R248 to R251, R404): binding, unbinding and refills. -/

namespace Sys2Proof.Machine

/-- Stream q of a hart. -/
def Hart.stream (h : Hart) (q : Nat) : Option Stream := mget none h.streams q

/-- The hart with a stream bound or unbound. -/
def Hart.setStream (h : Hart) (q : Nat) (st : Option Stream) : Hart := { h with streams := mset none h.streams q st }

/-- STRON: the pattern is x(a), x(a + 1), x(a + 2). -/
def execStron (d a b : Reg) (s : State) : Outcome State Fault Refusal :=
  let h := s.hart
  let q := b.toNat
  let stride := h.rx (a.toNat + 1)
  let count := (h.rx (a.toNat + 2)).toNat
  let free := h.setStream q none
  complete (.stron d a b) s
    (if h.fmt.bits = 4 || decide (2 ^ 32 ≤ count) || (h.fmt.isMx && decide (stride ≠ 1)) || free.bound (h.gRun d.toNat) then
       .error .illegal
     else match s.vecReady [h.gRun d.toNat] [] 0 with
     | .error e => .error e
     | .ok _ =>
       let st : Stream := { base := s.rx a, stride := stride, count := count, consumed := 0, fmt := h.fmt,
                            reg := h.wb.toNat + d.toNat, g := log2g h.g }
       .ok (({ s with hart := free.setStream q (some st) } : State).later .streamRefill { n := h.id, m := q }))

/-- STROFF: the register keeps the last strip it popped. -/
def execStroff (b : Reg) (s : State) : Outcome State Fault Refusal :=
  complete (.stroff b) s (.ok { s with hart := s.hart.setStream b.toNat none })

/-- Elements that the stream unit holds ahead of the reads: those of four pops at most, up to one that faults, and up to one
in memory that the hart's transfers hold, which an engine access waits for (R121, R250). -/
def State.refill (s : State) (st : Stream) : List FetchElem :=
  let n := min (4 * min s.hart.vl (s.streamCap st)) (st.count - st.consumed)
  let es := ((List.range (n - st.pre.length)).map fun k => st.consumed + st.pre.length + k).takeWhile fun e => !s.elemHeld st e
  st.pre ++ goodElems (es.map (s.fetchElem st))

/-- The stream unit refills stream `m` of the running hart `n`. -/
def execStreamRefill (s : State) : Outcome State Fault Refusal :=
  let t := s.focus s.inp.n
  if t.hart.id ≠ s.inp.n ∨ t.hart.run ≠ .running then .next s
  else match t.hart.stream s.inp.m with
    | none => .next s
    | some st => .next { t with hart := t.hart.setStream s.inp.m (some { st with pre := t.refill st }) }

end Sys2Proof.Machine
end

