-- ==== Sys2Proof/Machine/Dispatch.lean ====
section
/-! DEFINITION. The dispatch of every operation to its meaning, one arm a constructor. -/

namespace Sys2Proof.Machine

/-- What an operation does. -/
def exec (i : Instr) (s : State) : Host.Outcome State Fault Refusal :=
  match i with
  | .lui d imm => Sys2Proof.Machine.execLui d imm s
  | .pchi d imm => Sys2Proof.Machine.execPchi d imm s
  | .jal d imm => Sys2Proof.Machine.execJal d imm s
  | .jalr d a imm => Sys2Proof.Machine.execJalr d a imm s
  | .addi d a imm => Sys2Proof.Machine.execAddi d a imm s
  | .andi d a imm => Sys2Proof.Machine.execAndi d a imm s
  | .ori d a imm => Sys2Proof.Machine.execOri d a imm s
  | .xori d a imm => Sys2Proof.Machine.execXori d a imm s
  | .slti d a imm => Sys2Proof.Machine.execSlti d a imm s
  | .sltni d a imm => Sys2Proof.Machine.execSltni d a imm s
  | .shli d a n => Sys2Proof.Machine.execShli d a n s
  | .shrli d a n => Sys2Proof.Machine.execShrli d a n s
  | .shrai d a n => Sys2Proof.Machine.execShrai d a n s
  | .rotri d a n => Sys2Proof.Machine.execRotri d a n s
  | .add d a b => Sys2Proof.Machine.execAdd d a b s
  | .sub d a b => Sys2Proof.Machine.execSub d a b s
  | .and d a b => Sys2Proof.Machine.execAnd d a b s
  | .or d a b => Sys2Proof.Machine.execOr d a b s
  | .xor d a b => Sys2Proof.Machine.execXor d a b s
  | .shl d a b => Sys2Proof.Machine.execShl d a b s
  | .shrl d a b => Sys2Proof.Machine.execShrl d a b s
  | .shra d a b => Sys2Proof.Machine.execShra d a b s
  | .slt d a b => Sys2Proof.Machine.execSlt d a b s
  | .sltn d a b => Sys2Proof.Machine.execSltn d a b s
  | .min d a b => Sys2Proof.Machine.execMin d a b s
  | .max d a b => Sys2Proof.Machine.execMax d a b s
  | .minn d a b => Sys2Proof.Machine.execMinn d a b s
  | .maxn d a b => Sys2Proof.Machine.execMaxn d a b s
  | .andn d a b => Sys2Proof.Machine.execAndn d a b s
  | .rotr d a b => Sys2Proof.Machine.execRotr d a b s
  | .mul d a b => Sys2Proof.Machine.execMul d a b s
  | .mulh d a b => Sys2Proof.Machine.execMulh d a b s
  | .mulhn d a b => Sys2Proof.Machine.execMulhn d a b s
  | .div d a b => Sys2Proof.Machine.execDiv d a b s
  | .divn d a b => Sys2Proof.Machine.execDivn d a b s
  | .rem d a b => Sys2Proof.Machine.execRem d a b s
  | .remn d a b => Sys2Proof.Machine.execRemn d a b s
  | .clz d a => Sys2Proof.Machine.execClz d a s
  | .ctz d a => Sys2Proof.Machine.execCtz d a s
  | .popc d a => Sys2Proof.Machine.execPopc d a s
  | .ldb d a imm => Sys2Proof.Machine.execLdb d a imm s
  | .ldh d a imm => Sys2Proof.Machine.execLdh d a imm s
  | .ldw d a imm => Sys2Proof.Machine.execLdw d a imm s
  | .ldd d a imm => Sys2Proof.Machine.execLdd d a imm s
  | .ldbn d a imm => Sys2Proof.Machine.execLdbn d a imm s
  | .ldhn d a imm => Sys2Proof.Machine.execLdhn d a imm s
  | .ldwn d a imm => Sys2Proof.Machine.execLdwn d a imm s
  | .stb b a imm => Sys2Proof.Machine.execStb b a imm s
  | .sth b a imm => Sys2Proof.Machine.execSth b a imm s
  | .stw b a imm => Sys2Proof.Machine.execStw b a imm s
  | .std b a imm => Sys2Proof.Machine.execStd b a imm s
  | .beq a b imm => Sys2Proof.Machine.execBeq a b imm s
  | .bne a b imm => Sys2Proof.Machine.execBne a b imm s
  | .blt a b imm => Sys2Proof.Machine.execBlt a b imm s
  | .bge a b imm => Sys2Proof.Machine.execBge a b imm s
  | .bltn a b imm => Sys2Proof.Machine.execBltn a b imm s
  | .bgen a b imm => Sys2Proof.Machine.execBgen a b imm s
  | .srd d num => Sys2Proof.Machine.execSrd d num s
  | .swr a num => Sys2Proof.Machine.execSwr a num s
  | .winb a imm => Sys2Proof.Machine.execWinb a imm s
  | .iclock d a lines => Sys2Proof.Machine.execIclock d a lines s
  | .setvli d a cfg => Sys2Proof.Machine.execSetvli d a cfg s
  | .setvl d a b => Sys2Proof.Machine.execSetvl d a b s
  | .ecall => Sys2Proof.Machine.execEcall s
  | .trapret => Sys2Proof.Machine.execTrapret s
  | .brk code => Sys2Proof.Machine.execBrk code s
  | .wfe d a => Sys2Proof.Machine.execWfe d a s
  | .fence scope => Sys2Proof.Machine.execFence scope s
  | .drainst => Sys2Proof.Machine.execDrainst s
  | .sfrpop d => Sys2Proof.Machine.execSfrpop d s
  | .icunlock => Sys2Proof.Machine.execIcunlock s
  | .exit => Sys2Proof.Machine.execExit s
  | .yield => Sys2Proof.Machine.execYield s
  | .amoswap d a b => Sys2Proof.Machine.execAmoswap d a b s
  | .amoadd d a b => Sys2Proof.Machine.execAmoadd d a b s
  | .amoand d a b => Sys2Proof.Machine.execAmoand d a b s
  | .amoor d a b => Sys2Proof.Machine.execAmoor d a b s
  | .amoxor d a b => Sys2Proof.Machine.execAmoxor d a b s
  | .amomin d a b => Sys2Proof.Machine.execAmomin d a b s
  | .amomax d a b => Sys2Proof.Machine.execAmomax d a b s
  | .amominn d a b => Sys2Proof.Machine.execAmominn d a b s
  | .amomaxn d a b => Sys2Proof.Machine.execAmomaxn d a b s
  | .amocas d a b => Sys2Proof.Machine.execAmocas d a b s
  | .flagrel d a scope => Sys2Proof.Machine.execFlagrel d a scope s
  | .flagacq d a scope => Sys2Proof.Machine.execFlagacq d a scope s
  | .signal d a scope => Sys2Proof.Machine.execSignal d a scope s
  | .bcpost d a scope => Sys2Proof.Machine.execBcpost d a scope s
  | .bcarrive d a scope => Sys2Proof.Machine.execBcarrive d a scope s
  | .bcwait d a scope => Sys2Proof.Machine.execBcwait d a scope s
  | .handoff d a b => Sys2Proof.Machine.execHandoff d a b s
  | .stron d a b => Sys2Proof.Machine.execStron d a b s
  | .stroff b => Sys2Proof.Machine.execStroff b s
  | .xfer d a b => Sys2Proof.Machine.execXfer d a b s
  | .xferv d a b => Sys2Proof.Machine.execXferv d a b s
  | .xfervs d a b => Sys2Proof.Machine.execXfervs d a b s
  | .xferc d a b => Sys2Proof.Machine.execXferc d a b s
  | .xferq d a b => Sys2Proof.Machine.execXferq d a b s
  | .xwait d a => Sys2Proof.Machine.execXwait d a s
  | .xpoll d a => Sys2Proof.Machine.execXpoll d a s
  | .xtier a b => Sys2Proof.Machine.execXtier a b s
  | .mlds a h n => Sys2Proof.Machine.execMlds a h n s
  | .mswap => Sys2Proof.Machine.execMswap s
  | .mma t a h n => Sys2Proof.Machine.execMma t a h n s
  | .mmaq t a h n => Sys2Proof.Machine.execMmaq t a h n s
  | .mzero t h => Sys2Proof.Machine.execMzero t h s
  | .mldacc t a h n => Sys2Proof.Machine.execMldacc t a h n s
  | .mmova t a h n => Sys2Proof.Machine.execMmova t a h n s
  | .mdrain t a h n => Sys2Proof.Machine.execMdrain t a h n s
  | .msoft t a h n => Sys2Proof.Machine.execMsoft t a h n s
  | .mdrainx t a h n => Sys2Proof.Machine.execMdrainx t a h n s
  | .mlu t a n => Sys2Proof.Machine.execMlu t a n s
  | .mchol t n => Sys2Proof.Machine.execMchol t n s
  | .mqr t a n => Sys2Proof.Machine.execMqr t a n s
  | .mtrsml t h n unit => Sys2Proof.Machine.execMtrsml t h n unit s
  | .mtrsmu t h n unit => Sys2Proof.Machine.execMtrsmu t h n unit s
  | .claim a m => Sys2Proof.Machine.execClaim a m s
  | .wform d m => Sys2Proof.Machine.execWform d m s
  | .wrel m => Sys2Proof.Machine.execWrel m s
  | .wclr => Sys2Proof.Machine.execWclr s
  | .fred d a b m => Sys2Proof.Machine.execFred d a b m s
  | .fredwait d a => Sys2Proof.Machine.execFredwait d a s
  | .vadd d a b m => Sys2Proof.Machine.execVadd d a b m s
  | .vsub d a b m => Sys2Proof.Machine.execVsub d a b m s
  | .vmul d a b m => Sys2Proof.Machine.execVmul d a b m s
  | .vmulh d a b m => Sys2Proof.Machine.execVmulh d a b m s
  | .vmin d a b m => Sys2Proof.Machine.execVmin d a b m s
  | .vmax d a b m => Sys2Proof.Machine.execVmax d a b m s
  | .vminn d a b m => Sys2Proof.Machine.execVminn d a b m s
  | .vmaxn d a b m => Sys2Proof.Machine.execVmaxn d a b m s
  | .vand d a b m => Sys2Proof.Machine.execVand d a b m s
  | .vor d a b m => Sys2Proof.Machine.execVor d a b m s
  | .vxor d a b m => Sys2Proof.Machine.execVxor d a b m s
  | .vandn d a b m => Sys2Proof.Machine.execVandn d a b m s
  | .vshl d a b m => Sys2Proof.Machine.execVshl d a b m s
  | .vshrl d a b m => Sys2Proof.Machine.execVshrl d a b m s
  | .vshra d a b m => Sys2Proof.Machine.execVshra d a b m s
  | .vrotr d a b m => Sys2Proof.Machine.execVrotr d a b m s
  | .vsadd d a b m => Sys2Proof.Machine.execVsadd d a b m s
  | .vssub d a b m => Sys2Proof.Machine.execVssub d a b m s
  | .vsaddn d a b m => Sys2Proof.Machine.execVsaddn d a b m s
  | .vssubn d a b m => Sys2Proof.Machine.execVssubn d a b m s
  | .vfadd d a b m => Sys2Proof.Machine.execVfadd d a b m s
  | .vfsub d a b m => Sys2Proof.Machine.execVfsub d a b m s
  | .vfmul d a b m => Sys2Proof.Machine.execVfmul d a b m s
  | .vfdiv d a b m => Sys2Proof.Machine.execVfdiv d a b m s
  | .vfma d a b m => Sys2Proof.Machine.execVfma d a b m s
  | .vfms d a b m => Sys2Proof.Machine.execVfms d a b m s
  | .vfnma d a b m => Sys2Proof.Machine.execVfnma d a b m s
  | .vfnms d a b m => Sys2Proof.Machine.execVfnms d a b m s
  | .vfmin d a b m => Sys2Proof.Machine.execVfmin d a b m s
  | .vfmax d a b m => Sys2Proof.Machine.execVfmax d a b m s
  | .vfsqrt d a m => Sys2Proof.Machine.execVfsqrt d a m s
  | .vfexp d a m => Sys2Proof.Machine.execVfexp d a m s
  | .vcmpeq d a b m => Sys2Proof.Machine.execVcmpeq d a b m s
  | .vcmpne d a b m => Sys2Proof.Machine.execVcmpne d a b m s
  | .vcmplt d a b m => Sys2Proof.Machine.execVcmplt d a b m s
  | .vcmple d a b m => Sys2Proof.Machine.execVcmple d a b m s
  | .pand d a b m => Sys2Proof.Machine.execPand d a b m s
  | .por d a b m => Sys2Proof.Machine.execPor d a b m s
  | .pxor d a b m => Sys2Proof.Machine.execPxor d a b m s
  | .pandn d a b m => Sys2Proof.Machine.execPandn d a b m s
  | .pnot d a m => Sys2Proof.Machine.execPnot d a m s
  | .pfirst d a m => Sys2Proof.Machine.execPfirst d a m s
  | .pcount d a m => Sys2Proof.Machine.execPcount d a m s
  | .mbind d a => Sys2Proof.Machine.execMbind d a s
  | .vredsum d a b m => Sys2Proof.Machine.execVredsum d a b m s
  | .vredmin d a b m => Sys2Proof.Machine.execVredmin d a b m s
  | .vredmax d a b m => Sys2Proof.Machine.execVredmax d a b m s
  | .vfredsum d a b m => Sys2Proof.Machine.execVfredsum d a b m s
  | .vslideup d a b m => Sys2Proof.Machine.execVslideup d a b m s
  | .vslidedn d a b m => Sys2Proof.Machine.execVslidedn d a b m s
  | .vpermv d a b m => Sys2Proof.Machine.execVpermv d a b m s
  | .vcompress d a m => Sys2Proof.Machine.execVcompress d a m s
  | .vmv d a m => Sys2Proof.Machine.execVmv d a m s
  | .vsplat d a m => Sys2Proof.Machine.execVsplat d a m s
  | .vextr d a b m => Sys2Proof.Machine.execVextr d a b m s
  | .vins d a b m => Sys2Proof.Machine.execVins d a b m s
  | .vcvt d a m => Sys2Proof.Machine.execVcvt d a m s
  | .vquant d a b m => Sys2Proof.Machine.execVquant d a b m s
  | .vdequant d a b m => Sys2Proof.Machine.execVdequant d a b m s
  | .vamax d a m => Sys2Proof.Machine.execVamax d a m s
  | .venc d a b => Sys2Proof.Machine.execVenc d a b s
  | .vdec d a => Sys2Proof.Machine.execVdec d a s
  | .vencinfo d a => Sys2Proof.Machine.execVencinfo d a s
  | .vrunend d a => Sys2Proof.Machine.execVrunend d a s
  | .vmergeidx d a b m => Sys2Proof.Machine.execVmergeidx d a b m s
  | .vsortkv d a b m => Sys2Proof.Machine.execVsortkv d a b m s
  | .vhash d a b m => Sys2Proof.Machine.execVhash d a b m s
  | .vtopk d a b m => Sys2Proof.Machine.execVtopk d a b m s
  | .vidx d ia ib m => Sys2Proof.Machine.execVidx d ia ib m s
  | .vidxx d ia ib m => Sys2Proof.Machine.execVidxx d ia ib m s
  | .vsegsum d a b m => Sys2Proof.Machine.execVsegsum d a b m s
  | .vsegmax d a b m => Sys2Proof.Machine.execVsegmax d a b m s
  | .vscan d a b m => Sys2Proof.Machine.execVscan d a b m s
  | .vscanx d a b m => Sys2Proof.Machine.execVscanx d a b m s
  | .vchain d a b m => Sys2Proof.Machine.execVchain d a b m s
  | .vchainf d => Sys2Proof.Machine.execVchainf d s
  | .vld d a m => Sys2Proof.Machine.execVld d a m s
  | .vlds d a b m => Sys2Proof.Machine.execVlds d a b m s
  | .vldx d a b m => Sys2Proof.Machine.execVldx d a b m s
  | .vgl d a b m => Sys2Proof.Machine.execVgl d a b m s
  | .vldff d a m => Sys2Proof.Machine.execVldff d a m s
  | .vldsff d a b m => Sys2Proof.Machine.execVldsff d a b m s
  | .vldxff d a b m => Sys2Proof.Machine.execVldxff d a b m s
  | .ngather d a b m => Sys2Proof.Machine.execNgather d a b m s
  | .vst d a m => Sys2Proof.Machine.execVst d a m s
  | .vsts d a b m => Sys2Proof.Machine.execVsts d a b m s
  | .vstx d a b m => Sys2Proof.Machine.execVstx d a b m s
  | .vsc d a b m => Sys2Proof.Machine.execVsc d a b m s
  | .vstxr d a b m => Sys2Proof.Machine.execVstxr d a b m s
  | .vamoadd d a b m => Sys2Proof.Machine.execVamoadd d a b m s
  | .vamomin d a b m => Sys2Proof.Machine.execVamomin d a b m s
  | .vamomax d a b m => Sys2Proof.Machine.execVamomax d a b m s
  | .vamoswap d a b m => Sys2Proof.Machine.execVamoswap d a b m s
  | .vamoand d a b m => Sys2Proof.Machine.execVamoand d a b m s
  | .vamoor d a b m => Sys2Proof.Machine.execVamoor d a b m s
  | .vamofmax d a b m => Sys2Proof.Machine.execVamofmax d a b m s
  | .vamocas d a b m => Sys2Proof.Machine.execVamocas d a b m s
  | .vtrans d a b m => Sys2Proof.Machine.execVtrans d a b m s
  | .vtransff d a b m => Sys2Proof.Machine.execVtransff d a b m s
  | .vpref a b m => Sys2Proof.Machine.execVpref a b m s
  | .vfence id scope => Sys2Proof.Machine.execVfence id scope s
  | .barwait id => Sys2Proof.Machine.execBarwait id s
  | .vwait a b scope => Sys2Proof.Machine.execVwait a b scope s
  | .vldseg d a b nf => Sys2Proof.Machine.execVldseg d a b nf s
  | .appload => Sys2Proof.Machine.execAppload s
  | .appkill => Sys2Proof.Machine.execAppkill s
  | .appstat => Sys2Proof.Machine.execAppstat s
  | .powercap => Sys2Proof.Machine.execPowercap s
  | .tenantset => Sys2Proof.Machine.execTenantset s
  | .cmdReservedCode => Sys2Proof.Machine.execCmdReservedCode s
  | .mgmtRegisterWrite => Sys2Proof.Machine.execMgmtRegisterWrite s
  | .h2dMessage => Sys2Proof.Machine.execH2dMessage s
  | .d2hSlotRelease => Sys2Proof.Machine.execD2hSlotRelease s
  | .readbackHartState => Sys2Proof.Machine.execReadbackHartState s
  | .readbackEngineQueue => Sys2Proof.Machine.execReadbackEngineQueue s
  | .readbackSaveArea => Sys2Proof.Machine.execReadbackSaveArea s
  | .readbackErrorLog => Sys2Proof.Machine.execReadbackErrorLog s
  | .readbackLinkStatus => Sys2Proof.Machine.execReadbackLinkStatus s
  | .readbackMemory => Sys2Proof.Machine.execReadbackMemory s
  | .readbackAlwaysOnLog => Sys2Proof.Machine.execReadbackAlwaysOnLog s
  | .readbackBadSpace => Sys2Proof.Machine.execReadbackBadSpace s
  | .readbackComplete => Sys2Proof.Machine.execReadbackComplete s
  | .riuraExit => Sys2Proof.Machine.execRiuraExit s
  | .riuraLaunch => Sys2Proof.Machine.execRiuraLaunch s
  | .riuraWait => Sys2Proof.Machine.execRiuraWait s
  | .riuraWaitTimeout => Sys2Proof.Machine.execRiuraWaitTimeout s
  | .riuraCancel => Sys2Proof.Machine.execRiuraCancel s
  | .riuraMap => Sys2Proof.Machine.execRiuraMap s
  | .riuraUnmap => Sys2Proof.Machine.execRiuraUnmap s
  | .riuraProtect => Sys2Proof.Machine.execRiuraProtect s
  | .riuraMigrate => Sys2Proof.Machine.execRiuraMigrate s
  | .migrationCopyDone => Sys2Proof.Machine.execMigrationCopyDone s
  | .migrationCopyFail => Sys2Proof.Machine.execMigrationCopyFail s
  | .riuraKvalloc => Sys2Proof.Machine.execRiuraKvalloc s
  | .riuraKvfree => Sys2Proof.Machine.execRiuraKvfree s
  | .queryDeviceShape => Sys2Proof.Machine.execQueryDeviceShape s
  | .queryWeightStore => Sys2Proof.Machine.execQueryWeightStore s
  | .queryAddress => Sys2Proof.Machine.execQueryAddress s
  | .queryKvwin => Sys2Proof.Machine.execQueryKvwin s
  | .riuraTime => Sys2Proof.Machine.execRiuraTime s
  | .hostmsgSend => Sys2Proof.Machine.execHostmsgSend s
  | .hostmsgRecv => Sys2Proof.Machine.execHostmsgRecv s
  | .hostmsgTimeout => Sys2Proof.Machine.execHostmsgTimeout s
  | .riuraCrewexit => Sys2Proof.Machine.execRiuraCrewexit s
  | .riuraLog => Sys2Proof.Machine.execRiuraLog s
  | .riuraWsload => Sys2Proof.Machine.execRiuraWsload s
  | .collectiveCreate => Sys2Proof.Machine.execCollectiveCreate s
  | .collectiveAddwin => Sys2Proof.Machine.execCollectiveAddwin s
  | .collectiveAddbar => Sys2Proof.Machine.execCollectiveAddbar s
  | .collectiveWait => Sys2Proof.Machine.execCollectiveWait s
  | .collectiveWaitTimeout => Sys2Proof.Machine.execCollectiveWaitTimeout s
  | .collectiveEnd => Sys2Proof.Machine.execCollectiveEnd s
  | .riuraTenant => Sys2Proof.Machine.execRiuraTenant s
  | .riuraUnknownService => Sys2Proof.Machine.execRiuraUnknownService s
  | .controlProgramFault => Sys2Proof.Machine.execControlProgramFault s
  | .pclGetVersion => Sys2Proof.Machine.execPclGetVersion s
  | .pclGetFeatures => Sys2Proof.Machine.execPclGetFeatures s
  | .pclPowerCapSet => Sys2Proof.Machine.execPclPowerCapSet s
  | .pclPowerCapGet => Sys2Proof.Machine.execPclPowerCapGet s
  | .pclContextArea => Sys2Proof.Machine.execPclContextArea s
  | .pclTenantKeyInstall => Sys2Proof.Machine.execPclTenantKeyInstall s
  | .pclTenantKeyWithdraw => Sys2Proof.Machine.execPclTenantKeyWithdraw s
  | .pclResetWarm => Sys2Proof.Machine.execPclResetWarm s
  | .pclResetFunction => Sys2Proof.Machine.execPclResetFunction s
  | .pclUnsupported => Sys2Proof.Machine.execPclUnsupported s
  | .coldReset => Sys2Proof.Machine.execColdReset s
  | .warmReset => Sys2Proof.Machine.execWarmReset s
  | .functionReset => Sys2Proof.Machine.execFunctionReset s
  | .standbyRailGood => Sys2Proof.Machine.execStandbyRailGood s
  | .bringUp => Sys2Proof.Machine.execBringUp s
  | .riuraFatalError => Sys2Proof.Machine.execRiuraFatalError s
  | .powerCapTakeEffect => Sys2Proof.Machine.execPowerCapTakeEffect s
  | .thermalThrottleStart => Sys2Proof.Machine.execThermalThrottleStart s
  | .thermalThrottleEnd => Sys2Proof.Machine.execThermalThrottleEnd s
  | .thermalTrip => Sys2Proof.Machine.execThermalTrip s
  | .huskAlarm => Sys2Proof.Machine.execHuskAlarm s
  | .spdmRequest => Sys2Proof.Machine.execSpdmRequest s
  | .cxlMemRead => Sys2Proof.Machine.execCxlMemRead s
  | .cxlMemWrite => Sys2Proof.Machine.execCxlMemWrite s
  | .poolLinkDown => Sys2Proof.Machine.execPoolLinkDown s
  | .poolLinkUp => Sys2Proof.Machine.execPoolLinkUp s
  | .flitReceive => Sys2Proof.Machine.execFlitReceive s
  | .replayLimit => Sys2Proof.Machine.execReplayLimit s
  | .portEnable => Sys2Proof.Machine.execPortEnable s
  | .detectDone => Sys2Proof.Machine.execDetectDone s
  | .detectTimeout => Sys2Proof.Machine.execDetectTimeout s
  | .polarityDone => Sys2Proof.Machine.execPolarityDone s
  | .polarityTimeout => Sys2Proof.Machine.execPolarityTimeout s
  | .deskewDone => Sys2Proof.Machine.execDeskewDone s
  | .deskewTimeout => Sys2Proof.Machine.execDeskewTimeout s
  | .feclockDone => Sys2Proof.Machine.execFeclockDone s
  | .feclockTimeout => Sys2Proof.Machine.execFeclockTimeout s
  | .creditDone => Sys2Proof.Machine.execCreditDone s
  | .creditTimeout => Sys2Proof.Machine.execCreditTimeout s
  | .retrainDone => Sys2Proof.Machine.execRetrainDone s
  | .retrainTimeout => Sys2Proof.Machine.execRetrainTimeout s
  | .schedulerPlaceCrew => Sys2Proof.Machine.execSchedulerPlaceCrew s
  | .schedulerPreempt => Sys2Proof.Machine.execSchedulerPreempt s
  | .hartSwap => Sys2Proof.Machine.execHartSwap s
  | .crewResume => Sys2Proof.Machine.execCrewResume s
  | .spillDone => Sys2Proof.Machine.execSpillDone s
  | .contextFillDone => Sys2Proof.Machine.execContextFillDone s
  | .leaseFillDone => Sys2Proof.Machine.execLeaseFillDone s
  | .storependSkidLimit => Sys2Proof.Machine.execStorependSkidLimit s
  | .transferRetire => Sys2Proof.Machine.execTransferRetire s
  | .streamRefill => Sys2Proof.Machine.execStreamRefill s
  | .wsRefreshWindowOpen => Sys2Proof.Machine.execWsRefreshWindowOpen s
  | .wsRefreshWindowClose => Sys2Proof.Machine.execWsRefreshWindowClose s
  | .patrolScrub => Sys2Proof.Machine.execPatrolScrub s
  | .eccUncorrectable => Sys2Proof.Machine.execEccUncorrectable s
  | .flagacqSatisfied => Sys2Proof.Machine.execFlagacqSatisfied s
  | .barwaitDone => Sys2Proof.Machine.execBarwaitDone s
  | .bcwaitDone => Sys2Proof.Machine.execBcwaitDone s
  | .fredwaitDone => Sys2Proof.Machine.execFredwaitDone s
  | .xwaitDone => Sys2Proof.Machine.execXwaitDone s
  | .vwaitSatisfied => Sys2Proof.Machine.execVwaitSatisfied s
  | .vwaitTimeout => Sys2Proof.Machine.execVwaitTimeout s
  | .wfeWake => Sys2Proof.Machine.execWfeWake s
  | .wfeTimeout => Sys2Proof.Machine.execWfeTimeout s
  | .fenceComplete => Sys2Proof.Machine.execFenceComplete s
  | .drainstComplete => Sys2Proof.Machine.execDrainstComplete s
  | .mmaqMeet => Sys2Proof.Machine.execMmaqMeet s
  | .ecallReturn => Sys2Proof.Machine.execEcallReturn s
  | .trainArrive => Sys2Proof.Machine.execTrainArrive s
  | .trainAck => Sys2Proof.Machine.execTrainAck s
  | .fredAccept => Sys2Proof.Machine.execFredAccept s
  | .fredRoundDeliver => Sys2Proof.Machine.execFredRoundDeliver s
  | .peerKillNotice => Sys2Proof.Machine.execPeerKillNotice s
  | .releasePerform => Sys2Proof.Machine.execReleasePerform s
  | .handoffEvent => Sys2Proof.Machine.execHandoffEvent s
  | .exitWaitDone => Sys2Proof.Machine.execExitWaitDone s
  | .vectorStorePerform => Sys2Proof.Machine.execVectorStorePerform s
  | .wsloadReturn => Sys2Proof.Machine.execWsloadReturn s
  | .configurationRequest => Sys2Proof.Machine.execConfigurationRequest s
  | .debuggerRelease => Sys2Proof.Machine.execDebuggerRelease s
  | .confinementSet => Sys2Proof.Machine.execConfinementSet s

end Sys2Proof.Machine
end

