-- ==== Sys2Proof/Machine/Turn.lean ====
section
/-! DEFINITION. Whose turn it is and what it does with it: time, the free choices of interleaving, waiting harts, the
boundary checks before a fetch, and the placing of a word where the next step fetches. -/

namespace Sys2Proof.Machine

/-- A step takes one clk and a free number of further ones. -/
def State.passTime (s : State) : State :=
  { s with clk := s.clk + 1 + Config.stallClk s.tick, tick := s.tick + 1,
           jobAge := s.jobAge + 1, xferAge := s.xferAge + 1 }

/-- What the turn comes to. -/
inductive Turn where
  /-- nothing more than the state given -/
  | settled (s : State)
  /-- an event -/
  | event (s : State) (i : Instr) (inp : Input)
  /-- the hart waits: its completing event, after which the turn passes on -/
  | waiting (s : State) (i : Instr) (inp : Input)
  /-- the hart fetches -/
  | fetch (s : State)

/-- The event that completes a waiting instruction once its condition holds; the other instructions, held back by a
range, a transfer or a migration, issue again (R119, R121, R188, R226, R314). `late` says that the time limit has passed. -/
def waitEvent (late : Bool) : Instr → Instr
  | .flagacq _ _ _ => .flagacqSatisfied
  | .barwait _ => .barwaitDone
  | .bcwait _ _ _ => .bcwaitDone
  | .fredwait _ _ => .fredwaitDone
  | .xwait _ _ => .xwaitDone
  | .vwait _ _ _ => if late then .vwaitTimeout else .vwaitSatisfied
  | .wfe _ _ => if late then .wfeTimeout else .wfeWake
  | .fence _ => .fenceComplete
  | .vfence _ _ => .fenceComplete
  | .drainst => .drainstComplete
  | .mmaq _ _ _ _ => .mmaqMeet
  | .flagrel _ _ _ => .releasePerform
  | .signal _ _ _ => .releasePerform
  | .bcpost _ _ _ => .releasePerform
  | .bcarrive _ _ _ => .releasePerform
  | .handoff _ _ _ => .handoffEvent
  | .exit => .exitWaitDone
  | .vst _ _ _ => .vectorStorePerform
  | .vsts _ _ _ _ => .vectorStorePerform
  | .vstx _ _ _ _ => .vectorStorePerform
  | .vsc _ _ _ _ => .vectorStorePerform
  | .vamoadd _ _ _ _ => .vectorStorePerform
  | .vamomin _ _ _ _ => .vectorStorePerform
  | .vamomax _ _ _ _ => .vectorStorePerform
  | .vamoswap _ _ _ _ => .vectorStorePerform
  | .vamoand _ _ _ _ => .vectorStorePerform
  | .vamoor _ _ _ _ => .vectorStorePerform
  | .vamofmax _ _ _ _ => .vectorStorePerform
  | .vamocas _ _ _ _ => .vectorStorePerform
  | .mdrain _ _ _ _ => .vectorStorePerform
  | .mdrainx _ _ _ _ => .vectorStorePerform
  | i => i

/-- The clk a waiting instruction may wait at most: WTMO for VWAIT (0 checks once), x(a) for WFE (0 no limit). -/
def Hart.timeLimit (h : Hart) (i : Instr) : Option Nat :=
  match i with
  | .vwait _ _ _ => some h.wtmo.toNat
  | .wfe _ a => if h.rx a.toNat = 0 then none else some (h.rx a.toNat).toNat
  | _ => none

/-- Whether an instruction is VWAIT, whose time runs from its issue (R225). -/
def isVwait : Instr → Bool
  | .vwait _ _ _ => true
  | _ => false

/-- Whether the time limit of a wait has passed. -/
def State.late (s : State) (w : Wait) : Bool :=
  match s.hart.timeLimit w.instr with
  | none => false
  | some n => decide (w.since + n ≤ s.clk) && (w.issued || !isVwait w.instr)

/-- The oldest transfer in flight that no migration has parked. -/
def State.nextXferOf (s : State) : Option Transfer := s.transfers.find? fun t => !t.parked

/-- Whether a hart has transfers in flight. -/
def State.xfersOut (s : State) (id : Nat) : Bool := s.transfers.any fun t => decide (t.hart = id)

/-- The turn counts as this hart's. -/
def State.takeTurn (s : State) : State := { s with turns := mset 0 s.turns s.hart.id s.tick }

/-- Whether a hart stands at a breakpoint of shdb: its PC, and how many steps of a factorisation it has completed (R434). -/
def State.atBreak (s : State) (h : Hart) : Bool :=
  !h.passBreak && (s.app h.app).shdb && (s.app h.app).breaks.contains (h.pc, h.fstep)

/-- What a hart does at an instruction boundary: the trap of the 64th instruction after a faulted store, then a swap (R284,
which takes the trap first), then a breakpoint, then a fetch. It issues nothing while a store of its is 64 instructions old and has not
performed (R280), nor after a resumption until its transfers have retired (R284). -/
def State.boundary (s : State) : Turn :=
  let h := s.hart
  if h.skid = 64 && !h.hact then .event s .storependSkidLimit { n := h.id }
  else if h.swapReq then .event s .hartSwap { n := h.id }
  else if s.atBreak h then .settled (s.shdbStop h.app).rotate
  else if s.storeBound h || (h.drain && s.xfersOut h.id) then .settled s.rotate
  else .fetch { s with hart := { h with drain := false, passBreak := false } }

/-- What the hart whose turn it is does, no event being pending. -/
def State.hartTurn (s0 : State) : Turn :=
  let s := s0.takeTurn
  let h := s.hart
  if h.run ≠ .running || h.stopped || h.inCall then
    if h.swapReq && h.run.resident then .event s .hartSwap { n := h.id } else .settled s.rotate
  else match h.wait with
    | none => s.boundary
    | some w =>
      if h.swapReq then .event s .hartSwap { n := h.id }
      else .waiting { s with hart := { h with parked := false } } (waitEvent (s.late w) w.instr) { n := h.id }

/-! ### What comes about by the clock -/

/-- The event in which a call's time limit passes (R56, R57, R60, R81). -/
def PendKind.timeout : PendKind → Option Instr
  | .wait _ => some .riuraWaitTimeout
  | .send _ _ => some .hostmsgTimeout
  | .recv _ _ => some .hostmsgTimeout
  | .collective _ => some .collectiveWaitTimeout
  | .wsload => none
  | .migrate => none
  | .store _ _ => none
  | .amo _ _ _ _ => none

/-- The time-limit event of an application's pending call, once its deadline has passed. -/
def App.expired (clk k : Nat) (a : App) : Option (Instr × Input) :=
  match a.pend with
  | none => none
  | some p =>
    match p.deadline with
    | none => none
    | some d => if d ≤ clk then p.kind.timeout.map fun i => (i, { caller := .ctl k }) else none

/-- The time limits that have passed: of a call, or of a port's training state. Riura does not run under LOCK (R30). -/
def State.expiries (s : State) : Option (Instr × Input) :=
  match if s.locked then none else s.apps.findSome? fun x => x.2.expired s.clk x.1 with
  | some e => some e
  | none => s.portDue

/-- What the clock brings about now: a refresh window that opens or closes, or a time limit that has passed; nothing after a
thermal trip (R17). -/
def State.due (s : State) : Option (Instr × Input) :=
  if s.tripped then none
  else match s.wsOpen, refreshBank s.clk with
  | none, some b => some (.wsRefreshWindowOpen, { n := b })
  | some _, none => some (.wsRefreshWindowClose, {})
  | some a, some b => if a = b then s.expiries else some (.wsRefreshWindowClose, {})
  | none, none => s.expiries

/-! ### The free choices -/

/-- The jobs under way that can come about, by their places. -/
def State.openJobs (s : State) : List Nat := (List.range s.jobs.length).filter fun k => (s.jobs[k]?).any fun j => s.admits j.1

/-- Job k under way ends; the age is that of the oldest. -/
def State.endJob (s : State) (k : Nat) : Option (State × Instr × Input) :=
  (s.jobs[k]?).map fun j =>
    ({ s with jobs := s.jobs.eraseIdx k, jobAge := if s.openJobs.head? = some k then 0 else s.jobAge }, j)

/-- The job that ends now by free choice, if one does. -/
def State.endingJob (s : State) : Option (State × Instr × Input) :=
  let ks := s.openJobs
  if Config.jobNow s.tick then s.endJob (ks.getD (Config.jobPick s.tick % ks.length) s.jobs.length) else none

/-- Whether some element group of a transfer to registers has yet to arrive. -/
def Transfer.hasMore (t : Transfer) : Bool :=
  match t.came with
  | none => true
  | some a => decide (a.got < t.grant * a.regs.length)

/-- A transfer retires; what goes to registers may arrive there some time before, all of it or some of it (R120). The age is that of
the oldest transfer. -/
def State.retireTurn (s : State) (t : Transfer) : Turn :=
  let how := Config.arriveHow s.tick
  let k := if !t.toRegs || t.landed.isSome then 0 else if how = 1 then 1 else if how = 2 ∧ t.hasMore = true then 2 else 0
  .event { s with xferAge := if s.nextXferOf.map Transfer.id = some t.id then 0 else s.xferAge } .transferRetire { n := t.id, k := k }

/-- The transfer that the engine serves by free choice: any that no migration has parked. -/
def State.pickXfer (s : State) : Option Transfer :=
  let ts := s.transfers.filter fun t => !t.parked
  ts[Config.xferPick s.tick % ts.length]?

/-- The turn of a hart; a device that is stopped runs none (R17, R30). -/
def State.runTurn (s : State) : Turn := if s.tripped || s.locked then .settled s else s.hartTurn

/-- The free choices of the interleaving, then the hart. -/
def State.freeTurn (s : State) : Turn :=
  match s.endingJob with
  | some (u, i, inp) => .event u i inp
  | none =>
    if s.others ≠ [] && Config.passTurn s.tick then .settled s.rotate
    else match s.pickXfer with
      | none => s.runTurn
      | some t => if Config.retireNow s.tick && !s.tripped then s.retireTurn t else s.runTurn

/-- The harts that have something to do. -/
def State.readyHarts (s : State) : List Hart :=
  (s.hart :: s.others).filter fun h => (decide (h.run = .running) && !h.stopped && !h.inCall) || (h.swapReq && h.run.resident)

/-- The hart of them that has waited longest for its turn. -/
def State.longest (s : State) : Option Hart :=
  match s.readyHarts with
  | [] => none
  | h :: hs => some (hs.foldl (fun b g => if mget 0 s.turns g.id < mget 0 s.turns b.id then g else b) h)

/-- What has waited `Config.patience` steps and longest of all comes now: the end of a job, the retirement of a transfer, or the
turn of the hart whose last turn lies furthest back (R95). -/
def State.forcedTurn (s : State) : Option Turn :=
  let job := if s.openJobs.isEmpty then 0 else s.jobAge
  let xfer := if s.tripped then 0 else if s.nextXferOf.isSome then s.xferAge else 0
  let first := if s.tripped || s.locked then none else s.longest
  let run := (first.map fun h => s.tick - mget 0 s.turns h.id).getD 0
  if max run (max job xfer) < Config.patience + 1 then none
  else if job ≤ run && xfer ≤ run then first.map fun h => (s.focus h.id).hartTurn
  else if xfer ≤ job then ((s.openJobs.head?).bind s.endJob).map fun j => .event j.1 j.2.1 j.2.2
  else s.nextXferOf.map s.retireTurn

/-- The turn: kept by request, or what the clock brings, or what has waited too long, or the free choices. -/
def State.turn (s : State) : Turn :=
  if s.keepTurn then ({ s with keepTurn := false } : State).hartTurn
  else match s.due with
    | some (i, inp) => .event s i inp
    | none =>
      match s.forcedTurn with
      | some t => t
      | none => s.freeTurn

/-! ### Parked stores (R187, R188) -/

/-- The parked store that performs before anything else, at the remap of its page: the state in which its hart issues it again,
the instruction, and the hart. -/
def State.front (s : State) : Option (State × Option Instr × Nat) :=
  match s.urgent with
  | [] => none
  | id :: ids =>
    let t := ({ s with urgent := ids } : State).focus id
    if t.hart.id = id && t.hart.parked then
      some ({ t with hart := { t.hart with parked := false } }, t.hart.wait.map Wait.instr, id)
    else some (t, none, id)

/-- An outcome with its next state carried on. -/
def andThen (o : Outcome State Fault Refusal) (f : State → State) : Outcome State Fault Refusal :=
  match o with
  | .next u => .next (f u)
  | .fault e => .fault e
  | .refused r => .refused r

/-! ### Placing a word -/

/-- Whether the hart can fetch at its PC from a plain page. -/
def State.canFetch (s : State) : Bool :=
  decide (s.hart.run ≠ .idle) && decide (s.hart.pc.toNat % 4 = 0) &&
  match s.xlat s.hart s.hart.pc.toNat with
  | none => false
  | some x => x.attr.getLsbD 13 && !x.encoded && !s.linkDown x.kind

/-- The address of the code page that is given where the hart cannot fetch. -/
def codeBase : Nat := 0x40000000

/-- The frame of that page: the last of HBM4E. -/
def codeFrame : Nat := 2 ^ 40 - 4096

/-- One hart of one crew of one work unit of an application of one code page, everything else as R88 leaves it. -/
def State.withCode (s : State) : State :=
  let a : App := { state := .running, text := codeBase, textLen := 4096, nextLid := 2,
                   maps := [{ va := codeBase, pages := 1, pa := codeFrame, attr := attrOf 0x3F true false true,
                              kind := .tier1, range := false, pageLog := 12, migr := none }],
                   launches := [{ lid := 1, kernel := {}, units := 1, crew := 1, vlgmin := 0, prio := 0, cluster := 0,
                                  quad := false, deps := [], stack := 0, args := 0, const := 0, compl := 0, plane := 0,
                                  plfmt := 0, plk := 0, issued := 1, limit := 1, cancelled := false, done := 0, nfail := 0,
                                  firstFail := 0, ended := none, accept := 0 }] }
  let h : Hart := if s.hart.run = .idle then { id := s.nextHart, wspan := 128, crewid := 1, launchid := 1, unitn := 1 } else s.hart
  { s.setApp h.app a with
    hart := { h with pc := BitVec.ofNat 64 codeBase },
    nextHart := if s.hart.run = .idle then s.nextHart + 1 else s.nextHart,
    crews := if s.hart.run = .idle then
        s.crews ++ [{ id := 1, app := 0, lid := 1, unit := 0, size := 1, cls := 0, quad := false, grant := 256, cluster := 0,
                      kernel := {}, share := none, placed := 0, suspended := false, debugHeld := false }]
      else s.crews }

/-- The hart made ready to fetch in the very next step. -/
def Hart.readyToFetch (h : Hart) : Hart :=
  { h with run := .running, ended := false, stopped := false, passBreak := true, swapReq := false, wait := none, parked := false, inCall := false, drain := false,
           sfrq := if h.skid = 64 && !h.hact then [] else h.sfrq }

/-- The word written at the address the hart fetches from. -/
def State.putWord (s : State) (w : Nat) : State :=
  match s.xlat s.hart s.hart.pc.toNat with
  | none => s
  | some x =>
    { s with mem := putCells s.mem (cellsLE (x.addr s.hart.pc.toNat) 4 w),
             poison := mdel s.poison (x.addr s.hart.pc.toNat / 64) }

/-- The state in which the next step fetches and runs the word. -/
def State.placeWord (s : State) (w : Nat) : State :=
  let t := if s.canFetch then s else s.withCode
  let h := t.hart.readyToFetch
  ({ t with hart := { h with retired := if t.storeBound h then 0 else h.retired }, events := [], urgent := [], keepTurn := true,
            locked := false, zeroised := false, tripped := false } : State).putWord w

end Sys2Proof.Machine
end

