-- ==== Sys2Proof/Machine/Step.lean ====
section
/-! DEFINITION. One step of the machine: the pending event, else the hart whose turn it is; and the placing of one
instruction where the next step fetches. -/

namespace Sys2Proof.Machine

/-- One step: time passes; a store parked at a page just remapped performs, else a pending event comes about, else the turn
is taken. -/
def step (s : State) : Host.Outcome State Fault Refusal :=
  let t := s.passTime
  match t.front with
  | some (u, some i, id) => andThen (exec i u) fun v => v.resave id
  | some (u, none, _) => .next u
  | none =>
    match t.events with
    | e :: es =>
      let u : State := { t with events := es }
      if t.admits e.1 then exec e.1 { u with inp := e.2 } else .next u
    | [] =>
      match t.turn with
      | .settled u => .next u
      | .event u i inp => exec i { u with inp := inp }
      | .waiting u i inp => andThen (exec i { u with inp := inp }) State.rotate
      | .fetch u =>
        match u.fetch with
        | .error e => .next (u.stopped .ecall e)
        | .ok w =>
          match decode w with
          | none => .next (u.takeTrap .illegal (BitVec.ofNat 64 w) 0)
          | some i => exec i u

/-- The state with an instruction of `nbits` bits placed where the next step fetches (see the log): the page at the PC if
the hart can fetch there, else one crew of one hart with a code page of its own. -/
def State.withFetchWord (s : State) (nbits w : Nat) : State := s.placeWord (w % 2 ^ nbits)

end Sys2Proof.Machine
end

