-- ==== Sys2Proof/Laws/PerInstr.lean ====
section
/-! SUPPORT. The family RoundTrip: the fields of an instruction, laid into its word by the encoder (R292, R293) and read
back by the decoder's tables (R297), are the fields it had; one lemma a constructor. A device event has no word. -/

set_option Elab.async false

namespace Sys2Proof.Laws.RoundTrip

/-- The decoder's tables read back every operand of an instruction that has a word. -/
def Statement (i : Instr) : Prop := i.hasWord = true → decodeRaw (encode i).toNat = some i

/-! ### The fields of a word: major [6:0], d [13:7], a [20:14], b [27:21], mask or low function [29:28], function [31:30] -/

/-- A word of given fields. -/
def wordOf (M d a b m f : Nat) : Nat := M + d * 128 + a * 16384 + b * 2097152 + m * 268435456 + f * 1073741824

variable {M d a b m f : Nat}

theorem wordOf_lt (hM : M < 128) (hd : d < 2 ^ 7) (ha : a < 2 ^ 7) (hb : b < 2 ^ 7) (hm : m < 2 ^ 2) (hf : f < 4) :
    wordOf M d a b m f < 2 ^ 32 := by unfold wordOf; omega

theorem wordOf_major (hM : M < 128) : wordOf M d a b m f % 128 = M := by unfold wordOf; omega

theorem wordOf_d (hM : M < 128) (hd : d < 2 ^ 7) : wordOf M d a b m f / 128 % 128 = d := by unfold wordOf; omega

theorem wordOf_a (hM : M < 128) (hd : d < 2 ^ 7) (ha : a < 2 ^ 7) : wordOf M d a b m f / 16384 % 128 = a := by
  unfold wordOf; omega

theorem wordOf_b (hM : M < 128) (hd : d < 2 ^ 7) (ha : a < 2 ^ 7) (hb : b < 2 ^ 7) :
    wordOf M d a b m f / 2097152 % 128 = b := by unfold wordOf; omega

theorem wordOf_m (hM : M < 128) (hd : d < 2 ^ 7) (ha : a < 2 ^ 7) (hb : b < 2 ^ 7) (hm : m < 2 ^ 2) :
    wordOf M d a b m f / 268435456 % 4 = m := by unfold wordOf; omega

theorem wordOf_f (hM : M < 128) (hd : d < 2 ^ 7) (ha : a < 2 ^ 7) (hb : b < 2 ^ 7) (hm : m < 2 ^ 2) :
    wordOf M d a b m f / 1073741824 = f := by unfold wordOf; omega

theorem wordOf_mf (hM : M < 128) (hd : d < 2 ^ 7) (ha : a < 2 ^ 7) (hb : b < 2 ^ 7) :
    wordOf M d a b m f / 268435456 = m + 4 * f := by unfold wordOf; omega

theorem wordOf_mod2 (hM : M < 128) :
    wordOf M d a b m f % 2 = M % 2 := by unfold wordOf; omega

theorem wordOf_mod4 (hM : M < 128) :
    wordOf M d a b m f % 4 = M % 4 := by unfold wordOf; omega

theorem wordOf_div128 (hM : M < 128) (hd : d < 2 ^ 7) (ha : a < 2 ^ 7) (hb : b < 2 ^ 7) (hm : m < 2 ^ 2) :
    wordOf M d a b m f / 128 = d + a * 128 + b * 16384 + m * 2097152 + f * 8388608 := by unfold wordOf; omega

theorem wordOf_div1024 (hM : M < 128) (hd : d < 2 ^ 7) (ha : a < 2 ^ 7) (hb : b < 2 ^ 7) (hm : m < 2 ^ 2) :
    wordOf M d a b m f / 1024 = d / 8 + a * 16 + b * 2048 + m * 262144 + f * 1048576 := by unfold wordOf; omega

theorem wordOf_div16384 (hM : M < 128) (hd : d < 2 ^ 7) (ha : a < 2 ^ 7) (hb : b < 2 ^ 7) (hm : m < 2 ^ 2) :
    wordOf M d a b m f / 16384 = a + b * 128 + m * 16384 + f * 65536 := by unfold wordOf; omega

theorem wordOf_div32768 (hM : M < 128) (hd : d < 2 ^ 7) (ha : a < 2 ^ 7) (hb : b < 2 ^ 7) (hm : m < 2 ^ 2) :
    wordOf M d a b m f / 32768 = a / 2 + b * 64 + m * 8192 + f * 32768 := by unfold wordOf; omega

theorem wordOf_div131072 (hM : M < 128) (hd : d < 2 ^ 7) (ha : a < 2 ^ 7) (hb : b < 2 ^ 7) (hm : m < 2 ^ 2) :
    wordOf M d a b m f / 131072 = a / 8 + b * 16 + m * 2048 + f * 8192 := by unfold wordOf; omega

theorem wordOf_div2097152 (hM : M < 128) (hd : d < 2 ^ 7) (ha : a < 2 ^ 7) (hb : b < 2 ^ 7) (hm : m < 2 ^ 2) :
    wordOf M d a b m f / 2097152 = b + m * 128 + f * 512 := by unfold wordOf; omega

theorem wordOf_div16777216 (hM : M < 128) (hd : d < 2 ^ 7) (ha : a < 2 ^ 7) (hb : b < 2 ^ 7) (hm : m < 2 ^ 2) :
    wordOf M d a b m f / 16777216 = b / 8 + m * 16 + f * 64 := by unfold wordOf; omega

theorem wordOf_div33554432 (hM : M < 128) (hd : d < 2 ^ 7) (ha : a < 2 ^ 7) (hb : b < 2 ^ 7) (hm : m < 2 ^ 2) :
    wordOf M d a b m f / 33554432 = b / 16 + m * 8 + f * 32 := by unfold wordOf; omega

theorem wordOf_div67108864 (hM : M < 128) (hd : d < 2 ^ 7) (ha : a < 2 ^ 7) (hb : b < 2 ^ 7) (hm : m < 2 ^ 2) :
    wordOf M d a b m f / 67108864 = b / 32 + m * 4 + f * 16 := by unfold wordOf; omega

theorem wordOf_div268435456 (hM : M < 128) (hd : d < 2 ^ 7) (ha : a < 2 ^ 7) (hb : b < 2 ^ 7) (hm : m < 2 ^ 2) :
    wordOf M d a b m f / 268435456 = m + f * 4 := by unfold wordOf; omega

theorem wordOf_div1073741824 (hM : M < 128) (hd : d < 2 ^ 7) (ha : a < 2 ^ 7) (hb : b < 2 ^ 7) (hm : m < 2 ^ 2) :
    wordOf M d a b m f / 1073741824 = f := by unfold wordOf; omega

/-! ### The major selects the table (R297) -/

theorem decode04 {w : Nat} (h : w % 128 = 4) : decodeRaw w = decodeMajor04 w := by rw [decodeRaw, h]; rfl

theorem decode05 {w : Nat} (h : w % 128 = 5) : decodeRaw w = decodeMajor04 w := by rw [decodeRaw, h]; rfl

theorem decode06 {w : Nat} (h : w % 128 = 6) : decodeRaw w = decodeMajor04 w := by rw [decodeRaw, h]; rfl

theorem decode07 {w : Nat} (h : w % 128 = 7) : decodeRaw w = decodeMajor04 w := by rw [decodeRaw, h]; rfl

theorem decode08 {w : Nat} (h : w % 128 = 8) : decodeRaw w = decodeMajor08 w := by rw [decodeRaw, h]; rfl

theorem decode09 {w : Nat} (h : w % 128 = 9) : decodeRaw w = decodeMajor08 w := by rw [decodeRaw, h]; rfl

theorem decode0A {w : Nat} (h : w % 128 = 10) : decodeRaw w = decodeMajor08 w := by rw [decodeRaw, h]; rfl

theorem decode0B {w : Nat} (h : w % 128 = 11) : decodeRaw w = decodeMajor08 w := by rw [decodeRaw, h]; rfl

theorem decode0C {w : Nat} (h : w % 128 = 12) : decodeRaw w = decodeMajor0C w := by rw [decodeRaw, h]; rfl

theorem decode0D {w : Nat} (h : w % 128 = 13) : decodeRaw w = decodeMajor0C w := by rw [decodeRaw, h]; rfl

theorem decode0E {w : Nat} (h : w % 128 = 14) : decodeRaw w = decodeMajor0C w := by rw [decodeRaw, h]; rfl

theorem decode0F {w : Nat} (h : w % 128 = 15) : decodeRaw w = decodeMajor0C w := by rw [decodeRaw, h]; rfl

theorem decode10 {w : Nat} (h : w % 128 = 16) : decodeRaw w = decodeMajor10 w := by rw [decodeRaw, h]; rfl

theorem decode11 {w : Nat} (h : w % 128 = 17) : decodeRaw w = decodeMajor10 w := by rw [decodeRaw, h]; rfl

theorem decode12 {w : Nat} (h : w % 128 = 18) : decodeRaw w = decodeMajor12 w := by rw [decodeRaw, h]; rfl

theorem decode13 {w : Nat} (h : w % 128 = 19) : decodeRaw w = decodeMajor12 w := by rw [decodeRaw, h]; rfl

theorem decode14 {w : Nat} (h : w % 128 = 20) : decodeRaw w = decodeMajor14 w := by rw [decodeRaw, h]; rfl

theorem decode15 {w : Nat} (h : w % 128 = 21) : decodeRaw w = decodeMajor14 w := by rw [decodeRaw, h]; rfl

theorem decode16 {w : Nat} (h : w % 128 = 22) : decodeRaw w = decodeMajor16 w := by rw [decodeRaw, h]; rfl

theorem decode17 {w : Nat} (h : w % 128 = 23) : decodeRaw w = decodeMajor16 w := by rw [decodeRaw, h]; rfl

theorem decode18 {w : Nat} (h : w % 128 = 24) : decodeRaw w = decodeMajor18 w := by rw [decodeRaw, h]; rfl

theorem decode19 {w : Nat} (h : w % 128 = 25) : decodeRaw w = decodeMajor18 w := by rw [decodeRaw, h]; rfl

theorem decode1A {w : Nat} (h : w % 128 = 26) : decodeRaw w = decodeMajor1A w := by rw [decodeRaw, h]; rfl

theorem decode1B {w : Nat} (h : w % 128 = 27) : decodeRaw w = decodeMajor1A w := by rw [decodeRaw, h]; rfl

theorem decode1C {w : Nat} (h : w % 128 = 28) : decodeRaw w = decodeMajor1C w := by rw [decodeRaw, h]; rfl

theorem decode1D {w : Nat} (h : w % 128 = 29) : decodeRaw w = decodeMajor1C w := by rw [decodeRaw, h]; rfl

theorem decode1E {w : Nat} (h : w % 128 = 30) : decodeRaw w = decodeMajor1E w := by rw [decodeRaw, h]; rfl

theorem decode1F {w : Nat} (h : w % 128 = 31) : decodeRaw w = decodeMajor1E w := by rw [decodeRaw, h]; rfl

theorem decode20 {w : Nat} (h : w % 128 = 32) : decodeRaw w = decodeMajor20 w := by rw [decodeRaw, h]; rfl

theorem decode21 {w : Nat} (h : w % 128 = 33) : decodeRaw w = decodeMajor20 w := by rw [decodeRaw, h]; rfl

theorem decode22 {w : Nat} (h : w % 128 = 34) : decodeRaw w = decodeMajor22 w := by rw [decodeRaw, h]; rfl

theorem decode23 {w : Nat} (h : w % 128 = 35) : decodeRaw w = decodeMajor22 w := by rw [decodeRaw, h]; rfl

theorem decode24 {w : Nat} (h : w % 128 = 36) : decodeRaw w = decodeMajor24 w := by rw [decodeRaw, h]; rfl

theorem decode25 {w : Nat} (h : w % 128 = 37) : decodeRaw w = decodeMajor24 w := by rw [decodeRaw, h]; rfl

theorem decode26 {w : Nat} (h : w % 128 = 38) : decodeRaw w = decodeMajor26 w := by rw [decodeRaw, h]; rfl

theorem decode27 {w : Nat} (h : w % 128 = 39) : decodeRaw w = decodeMajor26 w := by rw [decodeRaw, h]; rfl

theorem decode28 {w : Nat} (h : w % 128 = 40) : decodeRaw w = decodeMajor28 w := by rw [decodeRaw, h]; rfl

theorem decode29 {w : Nat} (h : w % 128 = 41) : decodeRaw w = decodeMajor28 w := by rw [decodeRaw, h]; rfl

theorem decode2A {w : Nat} (h : w % 128 = 42) : decodeRaw w = decodeMajor2A w := by rw [decodeRaw, h]; rfl

theorem decode2B {w : Nat} (h : w % 128 = 43) : decodeRaw w = decodeMajor2A w := by rw [decodeRaw, h]; rfl

theorem decode2C {w : Nat} (h : w % 128 = 44) : decodeRaw w = decodeMajor2C w := by rw [decodeRaw, h]; rfl

theorem decode2D {w : Nat} (h : w % 128 = 45) : decodeRaw w = decodeMajor2C w := by rw [decodeRaw, h]; rfl

theorem decode2E {w : Nat} (h : w % 128 = 46) : decodeRaw w = decodeMajor2E w := by rw [decodeRaw, h]; rfl

theorem decode2F {w : Nat} (h : w % 128 = 47) : decodeRaw w = decodeMajor2E w := by rw [decodeRaw, h]; rfl

theorem decode30 {w : Nat} (h : w % 128 = 48) : decodeRaw w = decodeMajor30 w := by rw [decodeRaw, h]; rfl

theorem decode31 {w : Nat} (h : w % 128 = 49) : decodeRaw w = decodeMajor30 w := by rw [decodeRaw, h]; rfl

theorem decode32 {w : Nat} (h : w % 128 = 50) : decodeRaw w = decodeMajor32 w := by rw [decodeRaw, h]; rfl

theorem decode33 {w : Nat} (h : w % 128 = 51) : decodeRaw w = decodeMajor32 w := by rw [decodeRaw, h]; rfl

theorem decode34 {w : Nat} (h : w % 128 = 52) : decodeRaw w = decodeMajor34 w := by rw [decodeRaw, h]; rfl

theorem decode35 {w : Nat} (h : w % 128 = 53) : decodeRaw w = decodeMajor34 w := by rw [decodeRaw, h]; rfl

theorem decode36 {w : Nat} (h : w % 128 = 54) : decodeRaw w = decodeMajor36 w := by rw [decodeRaw, h]; rfl

theorem decode37 {w : Nat} (h : w % 128 = 55) : decodeRaw w = decodeMajor36 w := by rw [decodeRaw, h]; rfl

theorem decode38 {w : Nat} (h : w % 128 = 56) : decodeRaw w = decodeMajor38 w := by rw [decodeRaw, h]; rfl

theorem decode39 {w : Nat} (h : w % 128 = 57) : decodeRaw w = decodeMajor38 w := by rw [decodeRaw, h]; rfl

theorem decode3A {w : Nat} (h : w % 128 = 58) : decodeRaw w = decodeMajor3A w := by rw [decodeRaw, h]; rfl

theorem decode3B {w : Nat} (h : w % 128 = 59) : decodeRaw w = decodeMajor3A w := by rw [decodeRaw, h]; rfl

theorem decode3C {w : Nat} (h : w % 128 = 60) : decodeRaw w = decodeMajor3C w := by rw [decodeRaw, h]; rfl

theorem decode3D {w : Nat} (h : w % 128 = 61) : decodeRaw w = decodeMajor3C w := by rw [decodeRaw, h]; rfl

theorem decode3E {w : Nat} (h : w % 128 = 62) : decodeRaw w = decodeMajor3E w := by rw [decodeRaw, h]; rfl

theorem decode3F {w : Nat} (h : w % 128 = 63) : decodeRaw w = decodeMajor3E w := by rw [decodeRaw, h]; rfl

theorem decode40 {w : Nat} (h : w % 128 = 64) : decodeRaw w = decodeMajor40 w := by rw [decodeRaw, h]; rfl

theorem decode41 {w : Nat} (h : w % 128 = 65) : decodeRaw w = decodeMajor40 w := by rw [decodeRaw, h]; rfl

theorem decode42 {w : Nat} (h : w % 128 = 66) : decodeRaw w = decodeMajor42 w := by rw [decodeRaw, h]; rfl

theorem decode43 {w : Nat} (h : w % 128 = 67) : decodeRaw w = decodeMajor42 w := by rw [decodeRaw, h]; rfl

theorem decode44 {w : Nat} (h : w % 128 = 68) : decodeRaw w = decodeMajor44 w := by rw [decodeRaw, h]; rfl

theorem decode45 {w : Nat} (h : w % 128 = 69) : decodeRaw w = decodeMajor44 w := by rw [decodeRaw, h]; rfl

theorem decode46 {w : Nat} (h : w % 128 = 70) : decodeRaw w = decodeMajor46 w := by rw [decodeRaw, h]; rfl

theorem decode47 {w : Nat} (h : w % 128 = 71) : decodeRaw w = decodeMajor46 w := by rw [decodeRaw, h]; rfl

theorem decode48 {w : Nat} (h : w % 128 = 72) : decodeRaw w = decodeMajor48 w := by rw [decodeRaw, h]; rfl

theorem decode49 {w : Nat} (h : w % 128 = 73) : decodeRaw w = decodeMajor48 w := by rw [decodeRaw, h]; rfl

theorem decode4A {w : Nat} (h : w % 128 = 74) : decodeRaw w = decodeMajor4A w := by rw [decodeRaw, h]; rfl

theorem decode4B {w : Nat} (h : w % 128 = 75) : decodeRaw w = decodeMajor4A w := by rw [decodeRaw, h]; rfl

theorem decode50 {w : Nat} (h : w % 128 = 80) : decodeRaw w = decodeMajor50 w := by rw [decodeRaw, h]; rfl

theorem decode51 {w : Nat} (h : w % 128 = 81) : decodeRaw w = decodeMajor51 w := by rw [decodeRaw, h]; rfl

theorem decode52 {w : Nat} (h : w % 128 = 82) : decodeRaw w = decodeMajor52 w := by rw [decodeRaw, h]; rfl

theorem decode53 {w : Nat} (h : w % 128 = 83) : decodeRaw w = decodeMajor53 w := by rw [decodeRaw, h]; rfl

theorem decode54 {w : Nat} (h : w % 128 = 84) : decodeRaw w = decodeMajor54 w := by rw [decodeRaw, h]; rfl

theorem decode55 {w : Nat} (h : w % 128 = 85) : decodeRaw w = decodeMajor55 w := by rw [decodeRaw, h]; rfl

theorem decode56 {w : Nat} (h : w % 128 = 86) : decodeRaw w = decodeMajor56 w := by rw [decodeRaw, h]; rfl

theorem decode58 {w : Nat} (h : w % 128 = 88) : decodeRaw w = decodeMajor58 w := by rw [decodeRaw, h]; rfl

theorem decode59 {w : Nat} (h : w % 128 = 89) : decodeRaw w = decodeMajor59 w := by rw [decodeRaw, h]; rfl

theorem decode5A {w : Nat} (h : w % 128 = 90) : decodeRaw w = decodeMajor5A w := by rw [decodeRaw, h]; rfl

theorem decode5B {w : Nat} (h : w % 128 = 91) : decodeRaw w = decodeMajor5B w := by rw [decodeRaw, h]; rfl

theorem decode60 {w : Nat} (h : w % 128 = 96) : decodeRaw w = decodeMajor60 w := by rw [decodeRaw, h]; rfl

theorem decode61 {w : Nat} (h : w % 128 = 97) : decodeRaw w = decodeMajor61 w := by rw [decodeRaw, h]; rfl

theorem decode62 {w : Nat} (h : w % 128 = 98) : decodeRaw w = decodeMajor62 w := by rw [decodeRaw, h]; rfl

theorem decode63 {w : Nat} (h : w % 128 = 99) : decodeRaw w = decodeMajor63 w := by rw [decodeRaw, h]; rfl

theorem decode64 {w : Nat} (h : w % 128 = 100) : decodeRaw w = decodeMajor64 w := by rw [decodeRaw, h]; rfl

theorem decode65 {w : Nat} (h : w % 128 = 101) : decodeRaw w = decodeMajor65 w := by rw [decodeRaw, h]; rfl

theorem decode66 {w : Nat} (h : w % 128 = 102) : decodeRaw w = decodeMajor66 w := by rw [decodeRaw, h]; rfl

theorem decode67 {w : Nat} (h : w % 128 = 103) : decodeRaw w = decodeMajor67 w := by rw [decodeRaw, h]; rfl

theorem decode68 {w : Nat} (h : w % 128 = 104) : decodeRaw w = decodeMajor68 w := by rw [decodeRaw, h]; rfl

theorem decode69 {w : Nat} (h : w % 128 = 105) : decodeRaw w = decodeMajor69 w := by rw [decodeRaw, h]; rfl

theorem decode6A {w : Nat} (h : w % 128 = 106) : decodeRaw w = decodeMajor6A w := by rw [decodeRaw, h]; rfl

theorem decode6B {w : Nat} (h : w % 128 = 107) : decodeRaw w = decodeMajor6B w := by rw [decodeRaw, h]; rfl

theorem decode6C {w : Nat} (h : w % 128 = 108) : decodeRaw w = decodeMajor6C w := by rw [decodeRaw, h]; rfl

theorem decode6D {w : Nat} (h : w % 128 = 109) : decodeRaw w = decodeMajor6D w := by rw [decodeRaw, h]; rfl

theorem decode6E {w : Nat} (h : w % 128 = 110) : decodeRaw w = decodeMajor6E w := by rw [decodeRaw, h]; rfl

theorem decode6F {w : Nat} (h : w % 128 = 111) : decodeRaw w = decodeMajor6F w := by rw [decodeRaw, h]; rfl

theorem decode70 {w : Nat} (h : w % 128 = 112) : decodeRaw w = decodeMajor70 w := by rw [decodeRaw, h]; rfl

theorem decode71 {w : Nat} (h : w % 128 = 113) : decodeRaw w = decodeMajor71 w := by rw [decodeRaw, h]; rfl

theorem decode72 {w : Nat} (h : w % 128 = 114) : decodeRaw w = decodeMajor72 w := by rw [decodeRaw, h]; rfl

theorem decode73 {w : Nat} (h : w % 128 = 115) : decodeRaw w = decodeMajor73 w := by rw [decodeRaw, h]; rfl

theorem decode74 {w : Nat} (h : w % 128 = 116) : decodeRaw w = decodeMajor74 w := by rw [decodeRaw, h]; rfl

theorem decode75 {w : Nat} (h : w % 128 = 117) : decodeRaw w = decodeMajor75 w := by rw [decodeRaw, h]; rfl

theorem decode76 {w : Nat} (h : w % 128 = 118) : decodeRaw w = decodeMajor76 w := by rw [decodeRaw, h]; rfl

theorem decode77 {w : Nat} (h : w % 128 = 119) : decodeRaw w = decodeMajor77 w := by rw [decodeRaw, h]; rfl

theorem decode78 {w : Nat} (h : w % 128 = 120) : decodeRaw w = decodeMajor78 w := by rw [decodeRaw, h]; rfl

theorem decode79 {w : Nat} (h : w % 128 = 121) : decodeRaw w = decodeMajor79 w := by rw [decodeRaw, h]; rfl

theorem decode7A {w : Nat} (h : w % 128 = 122) : decodeRaw w = decodeMajor7A w := by rw [decodeRaw, h]; rfl

theorem decode7B {w : Nat} (h : w % 128 = 123) : decodeRaw w = decodeMajor7B w := by rw [decodeRaw, h]; rfl

theorem decode7C {w : Nat} (h : w % 128 = 124) : decodeRaw w = decodeMajor7C w := by rw [decodeRaw, h]; rfl

theorem group04 {w : Nat} (h : w % 128 / 4 = 1) : decodeRaw w = decodeMajor04 w := by
  rcases (by omega : w % 128 = 4 ∨ w % 128 = 5 ∨ w % 128 = 6 ∨ w % 128 = 7) with q | q | q | q
  · exact decode04 q
  · exact decode05 q
  · exact decode06 q
  · exact decode07 q

theorem group08 {w : Nat} (h : w % 128 / 4 = 2) : decodeRaw w = decodeMajor08 w := by
  rcases (by omega : w % 128 = 8 ∨ w % 128 = 9 ∨ w % 128 = 10 ∨ w % 128 = 11) with q | q | q | q
  · exact decode08 q
  · exact decode09 q
  · exact decode0A q
  · exact decode0B q

theorem group0C {w : Nat} (h : w % 128 / 4 = 3) : decodeRaw w = decodeMajor0C w := by
  rcases (by omega : w % 128 = 12 ∨ w % 128 = 13 ∨ w % 128 = 14 ∨ w % 128 = 15) with q | q | q | q
  · exact decode0C q
  · exact decode0D q
  · exact decode0E q
  · exact decode0F q

theorem group10 {w : Nat} (h : w % 128 / 2 = 8) : decodeRaw w = decodeMajor10 w := by
  rcases (by omega : w % 128 = 16 ∨ w % 128 = 17) with q | q
  · exact decode10 q
  · exact decode11 q

theorem group12 {w : Nat} (h : w % 128 / 2 = 9) : decodeRaw w = decodeMajor12 w := by
  rcases (by omega : w % 128 = 18 ∨ w % 128 = 19) with q | q
  · exact decode12 q
  · exact decode13 q

theorem group14 {w : Nat} (h : w % 128 / 2 = 10) : decodeRaw w = decodeMajor14 w := by
  rcases (by omega : w % 128 = 20 ∨ w % 128 = 21) with q | q
  · exact decode14 q
  · exact decode15 q

theorem group16 {w : Nat} (h : w % 128 / 2 = 11) : decodeRaw w = decodeMajor16 w := by
  rcases (by omega : w % 128 = 22 ∨ w % 128 = 23) with q | q
  · exact decode16 q
  · exact decode17 q

theorem group18 {w : Nat} (h : w % 128 / 2 = 12) : decodeRaw w = decodeMajor18 w := by
  rcases (by omega : w % 128 = 24 ∨ w % 128 = 25) with q | q
  · exact decode18 q
  · exact decode19 q

theorem group1A {w : Nat} (h : w % 128 / 2 = 13) : decodeRaw w = decodeMajor1A w := by
  rcases (by omega : w % 128 = 26 ∨ w % 128 = 27) with q | q
  · exact decode1A q
  · exact decode1B q

theorem group1C {w : Nat} (h : w % 128 / 2 = 14) : decodeRaw w = decodeMajor1C w := by
  rcases (by omega : w % 128 = 28 ∨ w % 128 = 29) with q | q
  · exact decode1C q
  · exact decode1D q

theorem group1E {w : Nat} (h : w % 128 / 2 = 15) : decodeRaw w = decodeMajor1E w := by
  rcases (by omega : w % 128 = 30 ∨ w % 128 = 31) with q | q
  · exact decode1E q
  · exact decode1F q

theorem group20 {w : Nat} (h : w % 128 / 2 = 16) : decodeRaw w = decodeMajor20 w := by
  rcases (by omega : w % 128 = 32 ∨ w % 128 = 33) with q | q
  · exact decode20 q
  · exact decode21 q

theorem group22 {w : Nat} (h : w % 128 / 2 = 17) : decodeRaw w = decodeMajor22 w := by
  rcases (by omega : w % 128 = 34 ∨ w % 128 = 35) with q | q
  · exact decode22 q
  · exact decode23 q

theorem group24 {w : Nat} (h : w % 128 / 2 = 18) : decodeRaw w = decodeMajor24 w := by
  rcases (by omega : w % 128 = 36 ∨ w % 128 = 37) with q | q
  · exact decode24 q
  · exact decode25 q

theorem group26 {w : Nat} (h : w % 128 / 2 = 19) : decodeRaw w = decodeMajor26 w := by
  rcases (by omega : w % 128 = 38 ∨ w % 128 = 39) with q | q
  · exact decode26 q
  · exact decode27 q

theorem group28 {w : Nat} (h : w % 128 / 2 = 20) : decodeRaw w = decodeMajor28 w := by
  rcases (by omega : w % 128 = 40 ∨ w % 128 = 41) with q | q
  · exact decode28 q
  · exact decode29 q

theorem group2A {w : Nat} (h : w % 128 / 2 = 21) : decodeRaw w = decodeMajor2A w := by
  rcases (by omega : w % 128 = 42 ∨ w % 128 = 43) with q | q
  · exact decode2A q
  · exact decode2B q

theorem group2C {w : Nat} (h : w % 128 / 2 = 22) : decodeRaw w = decodeMajor2C w := by
  rcases (by omega : w % 128 = 44 ∨ w % 128 = 45) with q | q
  · exact decode2C q
  · exact decode2D q

theorem group2E {w : Nat} (h : w % 128 / 2 = 23) : decodeRaw w = decodeMajor2E w := by
  rcases (by omega : w % 128 = 46 ∨ w % 128 = 47) with q | q
  · exact decode2E q
  · exact decode2F q

theorem group30 {w : Nat} (h : w % 128 / 2 = 24) : decodeRaw w = decodeMajor30 w := by
  rcases (by omega : w % 128 = 48 ∨ w % 128 = 49) with q | q
  · exact decode30 q
  · exact decode31 q

theorem group32 {w : Nat} (h : w % 128 / 2 = 25) : decodeRaw w = decodeMajor32 w := by
  rcases (by omega : w % 128 = 50 ∨ w % 128 = 51) with q | q
  · exact decode32 q
  · exact decode33 q

theorem group34 {w : Nat} (h : w % 128 / 2 = 26) : decodeRaw w = decodeMajor34 w := by
  rcases (by omega : w % 128 = 52 ∨ w % 128 = 53) with q | q
  · exact decode34 q
  · exact decode35 q

theorem group36 {w : Nat} (h : w % 128 / 2 = 27) : decodeRaw w = decodeMajor36 w := by
  rcases (by omega : w % 128 = 54 ∨ w % 128 = 55) with q | q
  · exact decode36 q
  · exact decode37 q

theorem group38 {w : Nat} (h : w % 128 / 2 = 28) : decodeRaw w = decodeMajor38 w := by
  rcases (by omega : w % 128 = 56 ∨ w % 128 = 57) with q | q
  · exact decode38 q
  · exact decode39 q

theorem group3A {w : Nat} (h : w % 128 / 2 = 29) : decodeRaw w = decodeMajor3A w := by
  rcases (by omega : w % 128 = 58 ∨ w % 128 = 59) with q | q
  · exact decode3A q
  · exact decode3B q

theorem group3C {w : Nat} (h : w % 128 / 2 = 30) : decodeRaw w = decodeMajor3C w := by
  rcases (by omega : w % 128 = 60 ∨ w % 128 = 61) with q | q
  · exact decode3C q
  · exact decode3D q

theorem group3E {w : Nat} (h : w % 128 / 2 = 31) : decodeRaw w = decodeMajor3E w := by
  rcases (by omega : w % 128 = 62 ∨ w % 128 = 63) with q | q
  · exact decode3E q
  · exact decode3F q

theorem group40 {w : Nat} (h : w % 128 / 2 = 32) : decodeRaw w = decodeMajor40 w := by
  rcases (by omega : w % 128 = 64 ∨ w % 128 = 65) with q | q
  · exact decode40 q
  · exact decode41 q

theorem group42 {w : Nat} (h : w % 128 / 2 = 33) : decodeRaw w = decodeMajor42 w := by
  rcases (by omega : w % 128 = 66 ∨ w % 128 = 67) with q | q
  · exact decode42 q
  · exact decode43 q

theorem group44 {w : Nat} (h : w % 128 / 2 = 34) : decodeRaw w = decodeMajor44 w := by
  rcases (by omega : w % 128 = 68 ∨ w % 128 = 69) with q | q
  · exact decode44 q
  · exact decode45 q

theorem group46 {w : Nat} (h : w % 128 / 2 = 35) : decodeRaw w = decodeMajor46 w := by
  rcases (by omega : w % 128 = 70 ∨ w % 128 = 71) with q | q
  · exact decode46 q
  · exact decode47 q

theorem group48 {w : Nat} (h : w % 128 / 2 = 36) : decodeRaw w = decodeMajor48 w := by
  rcases (by omega : w % 128 = 72 ∨ w % 128 = 73) with q | q
  · exact decode48 q
  · exact decode49 q

theorem group4A {w : Nat} (h : w % 128 / 2 = 37) : decodeRaw w = decodeMajor4A w := by
  rcases (by omega : w % 128 = 74 ∨ w % 128 = 75) with q | q
  · exact decode4A q
  · exact decode4B q

/-! ### One lemma a constructor -/

theorem lui (d : BitVec 7) (imm : BitVec 20) : Statement (.lui d imm) := fun _ => by
  have h1 := d.isLt
  have h2 := imm.isLt
  have bM : (4 + imm.toNat % 4) < 128 := by omega
  have bd : d.toNat < 2 ^ 7 := by omega
  have ba : (imm.toNat / 4 % 128) < 2 ^ 7 := by omega
  have bb : (imm.toNat / 512 % 128) < 2 ^ 7 := by omega
  have bm : (imm.toNat / 65536 % 4) < 2 ^ 2 := by omega
  have bf : (imm.toNat / 262144) < 4 := by omega
  have e : encodeNat (.lui d imm) = wordOf (4 + imm.toNat % 4) d.toNat (imm.toNat / 4 % 128) (imm.toNat / 512 % 128) (imm.toNat / 65536 % 4) (imm.toNat / 262144) := show 0x4 + d.toNat * 128 + (imm.toNat / 4) * 16384 + (imm.toNat % 4) = _ by unfold wordOf; omega
  rw [encode, BitVec.toNat_ofNat, e, Nat.mod_eq_of_lt (wordOf_lt bM bd ba bb bm bf), group04 (by rw [wordOf_major bM]; omega), decodeMajor04]
  simp only [wordOf_mod4, wordOf_div128, wordOf_div16384, bM, bd, ba, bb, bm, and_true, true_and]
  congr 2 <;> (apply BitVec.eq_of_toNat_eq; simp only [BitVec.toNat_ofNat]; omega)

theorem pchi (d : BitVec 7) (imm : BitVec 20) : Statement (.pchi d imm) := fun _ => by
  have h1 := d.isLt
  have h2 := imm.isLt
  have bM : (8 + imm.toNat % 4) < 128 := by omega
  have bd : d.toNat < 2 ^ 7 := by omega
  have ba : (imm.toNat / 4 % 128) < 2 ^ 7 := by omega
  have bb : (imm.toNat / 512 % 128) < 2 ^ 7 := by omega
  have bm : (imm.toNat / 65536 % 4) < 2 ^ 2 := by omega
  have bf : (imm.toNat / 262144) < 4 := by omega
  have e : encodeNat (.pchi d imm) = wordOf (8 + imm.toNat % 4) d.toNat (imm.toNat / 4 % 128) (imm.toNat / 512 % 128) (imm.toNat / 65536 % 4) (imm.toNat / 262144) := show 0x8 + d.toNat * 128 + (imm.toNat / 4) * 16384 + (imm.toNat % 4) = _ by unfold wordOf; omega
  rw [encode, BitVec.toNat_ofNat, e, Nat.mod_eq_of_lt (wordOf_lt bM bd ba bb bm bf), group08 (by rw [wordOf_major bM]; omega), decodeMajor08]
  simp only [wordOf_mod4, wordOf_div128, wordOf_div16384, bM, bd, ba, bb, bm, and_true, true_and]
  congr 2 <;> (apply BitVec.eq_of_toNat_eq; simp only [BitVec.toNat_ofNat]; omega)

theorem jal (d : BitVec 7) (imm : BitVec 20) : Statement (.jal d imm) := fun _ => by
  have h1 := d.isLt
  have h2 := imm.isLt
  have bM : (12 + imm.toNat % 4) < 128 := by omega
  have bd : d.toNat < 2 ^ 7 := by omega
  have ba : (imm.toNat / 4 % 128) < 2 ^ 7 := by omega
  have bb : (imm.toNat / 512 % 128) < 2 ^ 7 := by omega
  have bm : (imm.toNat / 65536 % 4) < 2 ^ 2 := by omega
  have bf : (imm.toNat / 262144) < 4 := by omega
  have e : encodeNat (.jal d imm) = wordOf (12 + imm.toNat % 4) d.toNat (imm.toNat / 4 % 128) (imm.toNat / 512 % 128) (imm.toNat / 65536 % 4) (imm.toNat / 262144) := show 0xc + d.toNat * 128 + (imm.toNat / 4) * 16384 + (imm.toNat % 4) = _ by unfold wordOf; omega
  rw [encode, BitVec.toNat_ofNat, e, Nat.mod_eq_of_lt (wordOf_lt bM bd ba bb bm bf), group0C (by rw [wordOf_major bM]; omega), decodeMajor0C]
  simp only [wordOf_mod4, wordOf_div128, wordOf_div16384, bM, bd, ba, bb, bm, and_true, true_and]
  congr 2 <;> (apply BitVec.eq_of_toNat_eq; simp only [BitVec.toNat_ofNat]; omega)

theorem jalr (d : BitVec 7) (a : BitVec 7) (imm : BitVec 12) : Statement (.jalr d a imm) := fun _ => by
  have h1 := d.isLt
  have h2 := a.isLt
  have h3 := imm.isLt
  have bM : (30 + imm.toNat % 2) < 128 := by omega
  have bd : d.toNat < 2 ^ 7 := by omega
  have ba : a.toNat < 2 ^ 7 := by omega
  have bb : (imm.toNat / 2 % 128) < 2 ^ 7 := by omega
  have bm : (imm.toNat / 256 % 4) < 2 ^ 2 := by omega
  have bf : (imm.toNat / 1024) < 4 := by omega
  have e : encodeNat (.jalr d a imm) = wordOf (30 + imm.toNat % 2) d.toNat a.toNat (imm.toNat / 2 % 128) (imm.toNat / 256 % 4) (imm.toNat / 1024) := show 0x1e + d.toNat * 128 + a.toNat * 16384 + (imm.toNat / 2) * 2097152 + (imm.toNat % 2) = _ by unfold wordOf; omega
  rw [encode, BitVec.toNat_ofNat, e, Nat.mod_eq_of_lt (wordOf_lt bM bd ba bb bm bf), group1E (by rw [wordOf_major bM]; omega), decodeMajor1E]
  simp only [wordOf_mod2, wordOf_div128, wordOf_div16384, wordOf_div2097152, bM, bd, ba, bb, bm, and_true, true_and]
  congr 2 <;> (apply BitVec.eq_of_toNat_eq; simp only [BitVec.toNat_ofNat]; omega)

theorem addi (d : BitVec 7) (a : BitVec 7) (imm : BitVec 12) : Statement (.addi d a imm) := fun _ => by
  have h1 := d.isLt
  have h2 := a.isLt
  have h3 := imm.isLt
  have bM : (16 + imm.toNat % 2) < 128 := by omega
  have bd : d.toNat < 2 ^ 7 := by omega
  have ba : a.toNat < 2 ^ 7 := by omega
  have bb : (imm.toNat / 2 % 128) < 2 ^ 7 := by omega
  have bm : (imm.toNat / 256 % 4) < 2 ^ 2 := by omega
  have bf : (imm.toNat / 1024) < 4 := by omega
  have e : encodeNat (.addi d a imm) = wordOf (16 + imm.toNat % 2) d.toNat a.toNat (imm.toNat / 2 % 128) (imm.toNat / 256 % 4) (imm.toNat / 1024) := show 0x10 + d.toNat * 128 + a.toNat * 16384 + (imm.toNat / 2) * 2097152 + (imm.toNat % 2) = _ by unfold wordOf; omega
  rw [encode, BitVec.toNat_ofNat, e, Nat.mod_eq_of_lt (wordOf_lt bM bd ba bb bm bf), group10 (by rw [wordOf_major bM]; omega), decodeMajor10]
  simp only [wordOf_mod2, wordOf_div128, wordOf_div16384, wordOf_div2097152, bM, bd, ba, bb, bm, and_true, true_and]
  congr 2 <;> (apply BitVec.eq_of_toNat_eq; simp only [BitVec.toNat_ofNat]; omega)

theorem andi (d : BitVec 7) (a : BitVec 7) (imm : BitVec 12) : Statement (.andi d a imm) := fun _ => by
  have h1 := d.isLt
  have h2 := a.isLt
  have h3 := imm.isLt
  have bM : (18 + imm.toNat % 2) < 128 := by omega
  have bd : d.toNat < 2 ^ 7 := by omega
  have ba : a.toNat < 2 ^ 7 := by omega
  have bb : (imm.toNat / 2 % 128) < 2 ^ 7 := by omega
  have bm : (imm.toNat / 256 % 4) < 2 ^ 2 := by omega
  have bf : (imm.toNat / 1024) < 4 := by omega
  have e : encodeNat (.andi d a imm) = wordOf (18 + imm.toNat % 2) d.toNat a.toNat (imm.toNat / 2 % 128) (imm.toNat / 256 % 4) (imm.toNat / 1024) := show 0x12 + d.toNat * 128 + a.toNat * 16384 + (imm.toNat / 2) * 2097152 + (imm.toNat % 2) = _ by unfold wordOf; omega
  rw [encode, BitVec.toNat_ofNat, e, Nat.mod_eq_of_lt (wordOf_lt bM bd ba bb bm bf), group12 (by rw [wordOf_major bM]; omega), decodeMajor12]
  simp only [wordOf_mod2, wordOf_div128, wordOf_div16384, wordOf_div2097152, bM, bd, ba, bb, bm, and_true, true_and]
  congr 2 <;> (apply BitVec.eq_of_toNat_eq; simp only [BitVec.toNat_ofNat]; omega)

theorem ori (d : BitVec 7) (a : BitVec 7) (imm : BitVec 12) : Statement (.ori d a imm) := fun _ => by
  have h1 := d.isLt
  have h2 := a.isLt
  have h3 := imm.isLt
  have bM : (20 + imm.toNat % 2) < 128 := by omega
  have bd : d.toNat < 2 ^ 7 := by omega
  have ba : a.toNat < 2 ^ 7 := by omega
  have bb : (imm.toNat / 2 % 128) < 2 ^ 7 := by omega
  have bm : (imm.toNat / 256 % 4) < 2 ^ 2 := by omega
  have bf : (imm.toNat / 1024) < 4 := by omega
  have e : encodeNat (.ori d a imm) = wordOf (20 + imm.toNat % 2) d.toNat a.toNat (imm.toNat / 2 % 128) (imm.toNat / 256 % 4) (imm.toNat / 1024) := show 0x14 + d.toNat * 128 + a.toNat * 16384 + (imm.toNat / 2) * 2097152 + (imm.toNat % 2) = _ by unfold wordOf; omega
  rw [encode, BitVec.toNat_ofNat, e, Nat.mod_eq_of_lt (wordOf_lt bM bd ba bb bm bf), group14 (by rw [wordOf_major bM]; omega), decodeMajor14]
  simp only [wordOf_mod2, wordOf_div128, wordOf_div16384, wordOf_div2097152, bM, bd, ba, bb, bm, and_true, true_and]
  congr 2 <;> (apply BitVec.eq_of_toNat_eq; simp only [BitVec.toNat_ofNat]; omega)

theorem xori (d : BitVec 7) (a : BitVec 7) (imm : BitVec 12) : Statement (.xori d a imm) := fun _ => by
  have h1 := d.isLt
  have h2 := a.isLt
  have h3 := imm.isLt
  have bM : (22 + imm.toNat % 2) < 128 := by omega
  have bd : d.toNat < 2 ^ 7 := by omega
  have ba : a.toNat < 2 ^ 7 := by omega
  have bb : (imm.toNat / 2 % 128) < 2 ^ 7 := by omega
  have bm : (imm.toNat / 256 % 4) < 2 ^ 2 := by omega
  have bf : (imm.toNat / 1024) < 4 := by omega
  have e : encodeNat (.xori d a imm) = wordOf (22 + imm.toNat % 2) d.toNat a.toNat (imm.toNat / 2 % 128) (imm.toNat / 256 % 4) (imm.toNat / 1024) := show 0x16 + d.toNat * 128 + a.toNat * 16384 + (imm.toNat / 2) * 2097152 + (imm.toNat % 2) = _ by unfold wordOf; omega
  rw [encode, BitVec.toNat_ofNat, e, Nat.mod_eq_of_lt (wordOf_lt bM bd ba bb bm bf), group16 (by rw [wordOf_major bM]; omega), decodeMajor16]
  simp only [wordOf_mod2, wordOf_div128, wordOf_div16384, wordOf_div2097152, bM, bd, ba, bb, bm, and_true, true_and]
  congr 2 <;> (apply BitVec.eq_of_toNat_eq; simp only [BitVec.toNat_ofNat]; omega)

theorem slti (d : BitVec 7) (a : BitVec 7) (imm : BitVec 12) : Statement (.slti d a imm) := fun _ => by
  have h1 := d.isLt
  have h2 := a.isLt
  have h3 := imm.isLt
  have bM : (24 + imm.toNat % 2) < 128 := by omega
  have bd : d.toNat < 2 ^ 7 := by omega
  have ba : a.toNat < 2 ^ 7 := by omega
  have bb : (imm.toNat / 2 % 128) < 2 ^ 7 := by omega
  have bm : (imm.toNat / 256 % 4) < 2 ^ 2 := by omega
  have bf : (imm.toNat / 1024) < 4 := by omega
  have e : encodeNat (.slti d a imm) = wordOf (24 + imm.toNat % 2) d.toNat a.toNat (imm.toNat / 2 % 128) (imm.toNat / 256 % 4) (imm.toNat / 1024) := show 0x18 + d.toNat * 128 + a.toNat * 16384 + (imm.toNat / 2) * 2097152 + (imm.toNat % 2) = _ by unfold wordOf; omega
  rw [encode, BitVec.toNat_ofNat, e, Nat.mod_eq_of_lt (wordOf_lt bM bd ba bb bm bf), group18 (by rw [wordOf_major bM]; omega), decodeMajor18]
  simp only [wordOf_mod2, wordOf_div128, wordOf_div16384, wordOf_div2097152, bM, bd, ba, bb, bm, and_true, true_and]
  congr 2 <;> (apply BitVec.eq_of_toNat_eq; simp only [BitVec.toNat_ofNat]; omega)

theorem sltni (d : BitVec 7) (a : BitVec 7) (imm : BitVec 12) : Statement (.sltni d a imm) := fun _ => by
  have h1 := d.isLt
  have h2 := a.isLt
  have h3 := imm.isLt
  have bM : (26 + imm.toNat % 2) < 128 := by omega
  have bd : d.toNat < 2 ^ 7 := by omega
  have ba : a.toNat < 2 ^ 7 := by omega
  have bb : (imm.toNat / 2 % 128) < 2 ^ 7 := by omega
  have bm : (imm.toNat / 256 % 4) < 2 ^ 2 := by omega
  have bf : (imm.toNat / 1024) < 4 := by omega
  have e : encodeNat (.sltni d a imm) = wordOf (26 + imm.toNat % 2) d.toNat a.toNat (imm.toNat / 2 % 128) (imm.toNat / 256 % 4) (imm.toNat / 1024) := show 0x1a + d.toNat * 128 + a.toNat * 16384 + (imm.toNat / 2) * 2097152 + (imm.toNat % 2) = _ by unfold wordOf; omega
  rw [encode, BitVec.toNat_ofNat, e, Nat.mod_eq_of_lt (wordOf_lt bM bd ba bb bm bf), group1A (by rw [wordOf_major bM]; omega), decodeMajor1A]
  simp only [wordOf_mod2, wordOf_div128, wordOf_div16384, wordOf_div2097152, bM, bd, ba, bb, bm, and_true, true_and]
  congr 2 <;> (apply BitVec.eq_of_toNat_eq; simp only [BitVec.toNat_ofNat]; omega)

theorem shli (d : BitVec 7) (a : BitVec 7) (n : BitVec 6) : Statement (.shli d a n) := fun _ => by
  have h1 := d.isLt
  have h2 := a.isLt
  have h3 := n.isLt
  have bM : (28 + n.toNat % 2) < 128 := by omega
  have bd : d.toNat < 2 ^ 7 := by omega
  have ba : a.toNat < 2 ^ 7 := by omega
  have bb : (n.toNat / 2) < 2 ^ 7 := by omega
  have bm : 0 < 2 ^ 2 := by omega
  have bf : 0 < 4 := by omega
  have e : encodeNat (.shli d a n) = wordOf (28 + n.toNat % 2) d.toNat a.toNat (n.toNat / 2) 0 0 := show 0x1c + d.toNat * 128 + a.toNat * 16384 + (n.toNat / 2) * 2097152 + (n.toNat % 2) = _ by unfold wordOf; omega
  rw [encode, BitVec.toNat_ofNat, e, Nat.mod_eq_of_lt (wordOf_lt bM bd ba bb bm bf), group1C (by rw [wordOf_major bM]; omega), decodeMajor1C]
  simp only [wordOf_mod2, wordOf_div128, wordOf_div16384, wordOf_div2097152, wordOf_div67108864, bM, bd, ba, bb, bm, and_true, true_and]
  repeat (first | rw [if_pos (by first | omega | exact True.intro)] | rw [if_neg (by omega)])
  congr 2 <;> (apply BitVec.eq_of_toNat_eq; simp only [BitVec.toNat_ofNat]; omega)

theorem shrli (d : BitVec 7) (a : BitVec 7) (n : BitVec 6) : Statement (.shrli d a n) := fun _ => by
  have h1 := d.isLt
  have h2 := a.isLt
  have h3 := n.isLt
  have bM : (28 + n.toNat % 2) < 128 := by omega
  have bd : d.toNat < 2 ^ 7 := by omega
  have ba : a.toNat < 2 ^ 7 := by omega
  have bb : (32 + n.toNat / 2) < 2 ^ 7 := by omega
  have bm : 0 < 2 ^ 2 := by omega
  have bf : 0 < 4 := by omega
  have e : encodeNat (.shrli d a n) = wordOf (28 + n.toNat % 2) d.toNat a.toNat (32 + n.toNat / 2) 0 0 := show 0x400001c + d.toNat * 128 + a.toNat * 16384 + (n.toNat / 2) * 2097152 + (n.toNat % 2) = _ by unfold wordOf; omega
  rw [encode, BitVec.toNat_ofNat, e, Nat.mod_eq_of_lt (wordOf_lt bM bd ba bb bm bf), group1C (by rw [wordOf_major bM]; omega), decodeMajor1C]
  simp only [wordOf_mod2, wordOf_div128, wordOf_div16384, wordOf_div2097152, wordOf_div67108864, bM, bd, ba, bb, bm, and_true, true_and]
  repeat (first | rw [if_pos (by first | omega | exact True.intro)] | rw [if_neg (by omega)])
  congr 2 <;> (apply BitVec.eq_of_toNat_eq; simp only [BitVec.toNat_ofNat]; omega)

theorem shrai (d : BitVec 7) (a : BitVec 7) (n : BitVec 6) : Statement (.shrai d a n) := fun _ => by
  have h1 := d.isLt
  have h2 := a.isLt
  have h3 := n.isLt
  have bM : (28 + n.toNat % 2) < 128 := by omega
  have bd : d.toNat < 2 ^ 7 := by omega
  have ba : a.toNat < 2 ^ 7 := by omega
  have bb : (64 + n.toNat / 2) < 2 ^ 7 := by omega
  have bm : 0 < 2 ^ 2 := by omega
  have bf : 0 < 4 := by omega
  have e : encodeNat (.shrai d a n) = wordOf (28 + n.toNat % 2) d.toNat a.toNat (64 + n.toNat / 2) 0 0 := show 0x800001c + d.toNat * 128 + a.toNat * 16384 + (n.toNat / 2) * 2097152 + (n.toNat % 2) = _ by unfold wordOf; omega
  rw [encode, BitVec.toNat_ofNat, e, Nat.mod_eq_of_lt (wordOf_lt bM bd ba bb bm bf), group1C (by rw [wordOf_major bM]; omega), decodeMajor1C]
  simp only [wordOf_mod2, wordOf_div128, wordOf_div16384, wordOf_div2097152, wordOf_div67108864, bM, bd, ba, bb, bm, and_true, true_and]
  repeat (first | rw [if_pos (by first | omega | exact True.intro)] | rw [if_neg (by omega)])
  congr 2 <;> (apply BitVec.eq_of_toNat_eq; simp only [BitVec.toNat_ofNat]; omega)

theorem rotri (d : BitVec 7) (a : BitVec 7) (n : BitVec 6) : Statement (.rotri d a n) := fun _ => by
  have h1 := d.isLt
  have h2 := a.isLt
  have h3 := n.isLt
  have bM : (28 + n.toNat % 2) < 128 := by omega
  have bd : d.toNat < 2 ^ 7 := by omega
  have ba : a.toNat < 2 ^ 7 := by omega
  have bb : (96 + n.toNat / 2) < 2 ^ 7 := by omega
  have bm : 0 < 2 ^ 2 := by omega
  have bf : 0 < 4 := by omega
  have e : encodeNat (.rotri d a n) = wordOf (28 + n.toNat % 2) d.toNat a.toNat (96 + n.toNat / 2) 0 0 := show 0xc00001c + d.toNat * 128 + a.toNat * 16384 + (n.toNat / 2) * 2097152 + (n.toNat % 2) = _ by unfold wordOf; omega
  rw [encode, BitVec.toNat_ofNat, e, Nat.mod_eq_of_lt (wordOf_lt bM bd ba bb bm bf), group1C (by rw [wordOf_major bM]; omega), decodeMajor1C]
  simp only [wordOf_mod2, wordOf_div128, wordOf_div16384, wordOf_div2097152, wordOf_div67108864, bM, bd, ba, bb, bm, and_true, true_and]
  repeat (first | rw [if_pos (by first | omega | exact True.intro)] | rw [if_neg (by omega)])
  congr 2 <;> (apply BitVec.eq_of_toNat_eq; simp only [BitVec.toNat_ofNat]; omega)

theorem add (d : BitVec 7) (a : BitVec 7) (b : BitVec 7) : Statement (.add d a b) := fun _ => by
  have e : encodeNat (.add d a b) = wordOf 80 d.toNat a.toNat b.toNat 0 0 := show 0x50 + d.toNat * 128 + a.toNat * 16384 + b.toNat * 2097152 = _ by unfold wordOf; omega
  rw [encode, BitVec.toNat_ofNat, e, Nat.mod_eq_of_lt (wordOf_lt (by decide) d.isLt a.isLt b.isLt (by decide) (by decide)), decode50 (wordOf_major (by decide)), decodeMajor50]
  simp [wordOf_mf, wordOf_d, wordOf_a, wordOf_b, d.isLt, a.isLt, b.isLt]

theorem sub (d : BitVec 7) (a : BitVec 7) (b : BitVec 7) : Statement (.sub d a b) := fun _ => by
  have e : encodeNat (.sub d a b) = wordOf 80 d.toNat a.toNat b.toNat 1 0 := show 0x10000050 + d.toNat * 128 + a.toNat * 16384 + b.toNat * 2097152 = _ by unfold wordOf; omega
  rw [encode, BitVec.toNat_ofNat, e, Nat.mod_eq_of_lt (wordOf_lt (by decide) d.isLt a.isLt b.isLt (by decide) (by decide)), decode50 (wordOf_major (by decide)), decodeMajor50]
  simp [wordOf_mf, wordOf_d, wordOf_a, wordOf_b, d.isLt, a.isLt, b.isLt]

theorem and (d : BitVec 7) (a : BitVec 7) (b : BitVec 7) : Statement (.and d a b) := fun _ => by
  have e : encodeNat (.and d a b) = wordOf 80 d.toNat a.toNat b.toNat 2 0 := show 0x20000050 + d.toNat * 128 + a.toNat * 16384 + b.toNat * 2097152 = _ by unfold wordOf; omega
  rw [encode, BitVec.toNat_ofNat, e, Nat.mod_eq_of_lt (wordOf_lt (by decide) d.isLt a.isLt b.isLt (by decide) (by decide)), decode50 (wordOf_major (by decide)), decodeMajor50]
  simp [wordOf_mf, wordOf_d, wordOf_a, wordOf_b, d.isLt, a.isLt, b.isLt]

theorem or (d : BitVec 7) (a : BitVec 7) (b : BitVec 7) : Statement (.or d a b) := fun _ => by
  have e : encodeNat (.or d a b) = wordOf 80 d.toNat a.toNat b.toNat 3 0 := show 0x30000050 + d.toNat * 128 + a.toNat * 16384 + b.toNat * 2097152 = _ by unfold wordOf; omega
  rw [encode, BitVec.toNat_ofNat, e, Nat.mod_eq_of_lt (wordOf_lt (by decide) d.isLt a.isLt b.isLt (by decide) (by decide)), decode50 (wordOf_major (by decide)), decodeMajor50]
  simp [wordOf_mf, wordOf_d, wordOf_a, wordOf_b, d.isLt, a.isLt, b.isLt]

theorem xor (d : BitVec 7) (a : BitVec 7) (b : BitVec 7) : Statement (.xor d a b) := fun _ => by
  have e : encodeNat (.xor d a b) = wordOf 80 d.toNat a.toNat b.toNat 0 1 := show 0x40000050 + d.toNat * 128 + a.toNat * 16384 + b.toNat * 2097152 = _ by unfold wordOf; omega
  rw [encode, BitVec.toNat_ofNat, e, Nat.mod_eq_of_lt (wordOf_lt (by decide) d.isLt a.isLt b.isLt (by decide) (by decide)), decode50 (wordOf_major (by decide)), decodeMajor50]
  simp [wordOf_mf, wordOf_d, wordOf_a, wordOf_b, d.isLt, a.isLt, b.isLt]

theorem shl (d : BitVec 7) (a : BitVec 7) (b : BitVec 7) : Statement (.shl d a b) := fun _ => by
  have e : encodeNat (.shl d a b) = wordOf 80 d.toNat a.toNat b.toNat 1 1 := show 0x50000050 + d.toNat * 128 + a.toNat * 16384 + b.toNat * 2097152 = _ by unfold wordOf; omega
  rw [encode, BitVec.toNat_ofNat, e, Nat.mod_eq_of_lt (wordOf_lt (by decide) d.isLt a.isLt b.isLt (by decide) (by decide)), decode50 (wordOf_major (by decide)), decodeMajor50]
  simp [wordOf_mf, wordOf_d, wordOf_a, wordOf_b, d.isLt, a.isLt, b.isLt]

theorem shrl (d : BitVec 7) (a : BitVec 7) (b : BitVec 7) : Statement (.shrl d a b) := fun _ => by
  have e : encodeNat (.shrl d a b) = wordOf 80 d.toNat a.toNat b.toNat 2 1 := show 0x60000050 + d.toNat * 128 + a.toNat * 16384 + b.toNat * 2097152 = _ by unfold wordOf; omega
  rw [encode, BitVec.toNat_ofNat, e, Nat.mod_eq_of_lt (wordOf_lt (by decide) d.isLt a.isLt b.isLt (by decide) (by decide)), decode50 (wordOf_major (by decide)), decodeMajor50]
  simp [wordOf_mf, wordOf_d, wordOf_a, wordOf_b, d.isLt, a.isLt, b.isLt]

theorem shra (d : BitVec 7) (a : BitVec 7) (b : BitVec 7) : Statement (.shra d a b) := fun _ => by
  have e : encodeNat (.shra d a b) = wordOf 80 d.toNat a.toNat b.toNat 3 1 := show 0x70000050 + d.toNat * 128 + a.toNat * 16384 + b.toNat * 2097152 = _ by unfold wordOf; omega
  rw [encode, BitVec.toNat_ofNat, e, Nat.mod_eq_of_lt (wordOf_lt (by decide) d.isLt a.isLt b.isLt (by decide) (by decide)), decode50 (wordOf_major (by decide)), decodeMajor50]
  simp [wordOf_mf, wordOf_d, wordOf_a, wordOf_b, d.isLt, a.isLt, b.isLt]

theorem slt (d : BitVec 7) (a : BitVec 7) (b : BitVec 7) : Statement (.slt d a b) := fun _ => by
  have e : encodeNat (.slt d a b) = wordOf 80 d.toNat a.toNat b.toNat 0 2 := show 0x80000050 + d.toNat * 128 + a.toNat * 16384 + b.toNat * 2097152 = _ by unfold wordOf; omega
  rw [encode, BitVec.toNat_ofNat, e, Nat.mod_eq_of_lt (wordOf_lt (by decide) d.isLt a.isLt b.isLt (by decide) (by decide)), decode50 (wordOf_major (by decide)), decodeMajor50]
  simp [wordOf_mf, wordOf_d, wordOf_a, wordOf_b, d.isLt, a.isLt, b.isLt]

theorem sltn (d : BitVec 7) (a : BitVec 7) (b : BitVec 7) : Statement (.sltn d a b) := fun _ => by
  have e : encodeNat (.sltn d a b) = wordOf 80 d.toNat a.toNat b.toNat 1 2 := show 0x90000050 + d.toNat * 128 + a.toNat * 16384 + b.toNat * 2097152 = _ by unfold wordOf; omega
  rw [encode, BitVec.toNat_ofNat, e, Nat.mod_eq_of_lt (wordOf_lt (by decide) d.isLt a.isLt b.isLt (by decide) (by decide)), decode50 (wordOf_major (by decide)), decodeMajor50]
  simp [wordOf_mf, wordOf_d, wordOf_a, wordOf_b, d.isLt, a.isLt, b.isLt]

theorem min (d : BitVec 7) (a : BitVec 7) (b : BitVec 7) : Statement (.min d a b) := fun _ => by
  have e : encodeNat (.min d a b) = wordOf 80 d.toNat a.toNat b.toNat 2 2 := show 0xa0000050 + d.toNat * 128 + a.toNat * 16384 + b.toNat * 2097152 = _ by unfold wordOf; omega
  rw [encode, BitVec.toNat_ofNat, e, Nat.mod_eq_of_lt (wordOf_lt (by decide) d.isLt a.isLt b.isLt (by decide) (by decide)), decode50 (wordOf_major (by decide)), decodeMajor50]
  simp [wordOf_mf, wordOf_d, wordOf_a, wordOf_b, d.isLt, a.isLt, b.isLt]

theorem max (d : BitVec 7) (a : BitVec 7) (b : BitVec 7) : Statement (.max d a b) := fun _ => by
  have e : encodeNat (.max d a b) = wordOf 80 d.toNat a.toNat b.toNat 3 2 := show 0xb0000050 + d.toNat * 128 + a.toNat * 16384 + b.toNat * 2097152 = _ by unfold wordOf; omega
  rw [encode, BitVec.toNat_ofNat, e, Nat.mod_eq_of_lt (wordOf_lt (by decide) d.isLt a.isLt b.isLt (by decide) (by decide)), decode50 (wordOf_major (by decide)), decodeMajor50]
  simp [wordOf_mf, wordOf_d, wordOf_a, wordOf_b, d.isLt, a.isLt, b.isLt]

theorem minn (d : BitVec 7) (a : BitVec 7) (b : BitVec 7) : Statement (.minn d a b) := fun _ => by
  have e : encodeNat (.minn d a b) = wordOf 80 d.toNat a.toNat b.toNat 0 3 := show 0xc0000050 + d.toNat * 128 + a.toNat * 16384 + b.toNat * 2097152 = _ by unfold wordOf; omega
  rw [encode, BitVec.toNat_ofNat, e, Nat.mod_eq_of_lt (wordOf_lt (by decide) d.isLt a.isLt b.isLt (by decide) (by decide)), decode50 (wordOf_major (by decide)), decodeMajor50]
  simp [wordOf_mf, wordOf_d, wordOf_a, wordOf_b, d.isLt, a.isLt, b.isLt]

theorem maxn (d : BitVec 7) (a : BitVec 7) (b : BitVec 7) : Statement (.maxn d a b) := fun _ => by
  have e : encodeNat (.maxn d a b) = wordOf 80 d.toNat a.toNat b.toNat 1 3 := show 0xd0000050 + d.toNat * 128 + a.toNat * 16384 + b.toNat * 2097152 = _ by unfold wordOf; omega
  rw [encode, BitVec.toNat_ofNat, e, Nat.mod_eq_of_lt (wordOf_lt (by decide) d.isLt a.isLt b.isLt (by decide) (by decide)), decode50 (wordOf_major (by decide)), decodeMajor50]
  simp [wordOf_mf, wordOf_d, wordOf_a, wordOf_b, d.isLt, a.isLt, b.isLt]

theorem andn (d : BitVec 7) (a : BitVec 7) (b : BitVec 7) : Statement (.andn d a b) := fun _ => by
  have e : encodeNat (.andn d a b) = wordOf 80 d.toNat a.toNat b.toNat 2 3 := show 0xe0000050 + d.toNat * 128 + a.toNat * 16384 + b.toNat * 2097152 = _ by unfold wordOf; omega
  rw [encode, BitVec.toNat_ofNat, e, Nat.mod_eq_of_lt (wordOf_lt (by decide) d.isLt a.isLt b.isLt (by decide) (by decide)), decode50 (wordOf_major (by decide)), decodeMajor50]
  simp [wordOf_mf, wordOf_d, wordOf_a, wordOf_b, d.isLt, a.isLt, b.isLt]

theorem rotr (d : BitVec 7) (a : BitVec 7) (b : BitVec 7) : Statement (.rotr d a b) := fun _ => by
  have e : encodeNat (.rotr d a b) = wordOf 80 d.toNat a.toNat b.toNat 3 3 := show 0xf0000050 + d.toNat * 128 + a.toNat * 16384 + b.toNat * 2097152 = _ by unfold wordOf; omega
  rw [encode, BitVec.toNat_ofNat, e, Nat.mod_eq_of_lt (wordOf_lt (by decide) d.isLt a.isLt b.isLt (by decide) (by decide)), decode50 (wordOf_major (by decide)), decodeMajor50]
  simp [wordOf_mf, wordOf_d, wordOf_a, wordOf_b, d.isLt, a.isLt, b.isLt]

theorem mul (d : BitVec 7) (a : BitVec 7) (b : BitVec 7) : Statement (.mul d a b) := fun _ => by
  have h1 := d.isLt
  have h2 := a.isLt
  have h3 := b.isLt
  have bM : 81 < 128 := by omega
  have bd : d.toNat < 2 ^ 7 := by omega
  have ba : a.toNat < 2 ^ 7 := by omega
  have bb : b.toNat < 2 ^ 7 := by omega
  have bm : 0 < 2 ^ 2 := by omega
  have bf : 0 < 4 := by omega
  have e : encodeNat (.mul d a b) = wordOf 81 d.toNat a.toNat b.toNat 0 0 := show 0x51 + d.toNat * 128 + a.toNat * 16384 + b.toNat * 2097152 = _ by unfold wordOf; omega
  rw [encode, BitVec.toNat_ofNat, e, Nat.mod_eq_of_lt (wordOf_lt bM bd ba bb bm bf), decode51 (by rw [wordOf_major bM]), decodeMajor51]
  simp only [wordOf_div128, wordOf_div16384, wordOf_div2097152, wordOf_div268435456, bM, bd, ba, bb, bm, and_true, true_and]
  repeat (first | rw [if_pos (by first | omega | exact True.intro)] | rw [if_neg (by omega)])
  congr 2 <;> (apply BitVec.eq_of_toNat_eq; simp only [BitVec.toNat_ofNat]; omega)

theorem mulh (d : BitVec 7) (a : BitVec 7) (b : BitVec 7) : Statement (.mulh d a b) := fun _ => by
  have h1 := d.isLt
  have h2 := a.isLt
  have h3 := b.isLt
  have bM : 81 < 128 := by omega
  have bd : d.toNat < 2 ^ 7 := by omega
  have ba : a.toNat < 2 ^ 7 := by omega
  have bb : b.toNat < 2 ^ 7 := by omega
  have bm : 1 < 2 ^ 2 := by omega
  have bf : 0 < 4 := by omega
  have e : encodeNat (.mulh d a b) = wordOf 81 d.toNat a.toNat b.toNat 1 0 := show 0x10000051 + d.toNat * 128 + a.toNat * 16384 + b.toNat * 2097152 = _ by unfold wordOf; omega
  rw [encode, BitVec.toNat_ofNat, e, Nat.mod_eq_of_lt (wordOf_lt bM bd ba bb bm bf), decode51 (by rw [wordOf_major bM]), decodeMajor51]
  simp only [wordOf_div128, wordOf_div16384, wordOf_div2097152, wordOf_div268435456, bM, bd, ba, bb, bm, and_true, true_and]
  repeat (first | rw [if_pos (by first | omega | exact True.intro)] | rw [if_neg (by omega)])
  congr 2 <;> (apply BitVec.eq_of_toNat_eq; simp only [BitVec.toNat_ofNat]; omega)

theorem mulhn (d : BitVec 7) (a : BitVec 7) (b : BitVec 7) : Statement (.mulhn d a b) := fun _ => by
  have h1 := d.isLt
  have h2 := a.isLt
  have h3 := b.isLt
  have bM : 81 < 128 := by omega
  have bd : d.toNat < 2 ^ 7 := by omega
  have ba : a.toNat < 2 ^ 7 := by omega
  have bb : b.toNat < 2 ^ 7 := by omega
  have bm : 2 < 2 ^ 2 := by omega
  have bf : 0 < 4 := by omega
  have e : encodeNat (.mulhn d a b) = wordOf 81 d.toNat a.toNat b.toNat 2 0 := show 0x20000051 + d.toNat * 128 + a.toNat * 16384 + b.toNat * 2097152 = _ by unfold wordOf; omega
  rw [encode, BitVec.toNat_ofNat, e, Nat.mod_eq_of_lt (wordOf_lt bM bd ba bb bm bf), decode51 (by rw [wordOf_major bM]), decodeMajor51]
  simp only [wordOf_div128, wordOf_div16384, wordOf_div2097152, wordOf_div268435456, bM, bd, ba, bb, bm, and_true, true_and]
  repeat (first | rw [if_pos (by first | omega | exact True.intro)] | rw [if_neg (by omega)])
  congr 2 <;> (apply BitVec.eq_of_toNat_eq; simp only [BitVec.toNat_ofNat]; omega)

theorem div (d : BitVec 7) (a : BitVec 7) (b : BitVec 7) : Statement (.div d a b) := fun _ => by
  have h1 := d.isLt
  have h2 := a.isLt
  have h3 := b.isLt
  have bM : 81 < 128 := by omega
  have bd : d.toNat < 2 ^ 7 := by omega
  have ba : a.toNat < 2 ^ 7 := by omega
  have bb : b.toNat < 2 ^ 7 := by omega
  have bm : 3 < 2 ^ 2 := by omega
  have bf : 0 < 4 := by omega
  have e : encodeNat (.div d a b) = wordOf 81 d.toNat a.toNat b.toNat 3 0 := show 0x30000051 + d.toNat * 128 + a.toNat * 16384 + b.toNat * 2097152 = _ by unfold wordOf; omega
  rw [encode, BitVec.toNat_ofNat, e, Nat.mod_eq_of_lt (wordOf_lt bM bd ba bb bm bf), decode51 (by rw [wordOf_major bM]), decodeMajor51]
  simp only [wordOf_div128, wordOf_div16384, wordOf_div2097152, wordOf_div268435456, bM, bd, ba, bb, bm, and_true, true_and]
  repeat (first | rw [if_pos (by first | omega | exact True.intro)] | rw [if_neg (by omega)])
  congr 2 <;> (apply BitVec.eq_of_toNat_eq; simp only [BitVec.toNat_ofNat]; omega)

theorem divn (d : BitVec 7) (a : BitVec 7) (b : BitVec 7) : Statement (.divn d a b) := fun _ => by
  have h1 := d.isLt
  have h2 := a.isLt
  have h3 := b.isLt
  have bM : 81 < 128 := by omega
  have bd : d.toNat < 2 ^ 7 := by omega
  have ba : a.toNat < 2 ^ 7 := by omega
  have bb : b.toNat < 2 ^ 7 := by omega
  have bm : 0 < 2 ^ 2 := by omega
  have bf : 1 < 4 := by omega
  have e : encodeNat (.divn d a b) = wordOf 81 d.toNat a.toNat b.toNat 0 1 := show 0x40000051 + d.toNat * 128 + a.toNat * 16384 + b.toNat * 2097152 = _ by unfold wordOf; omega
  rw [encode, BitVec.toNat_ofNat, e, Nat.mod_eq_of_lt (wordOf_lt bM bd ba bb bm bf), decode51 (by rw [wordOf_major bM]), decodeMajor51]
  simp only [wordOf_div128, wordOf_div16384, wordOf_div2097152, wordOf_div268435456, bM, bd, ba, bb, bm, and_true, true_and]
  repeat (first | rw [if_pos (by first | omega | exact True.intro)] | rw [if_neg (by omega)])
  congr 2 <;> (apply BitVec.eq_of_toNat_eq; simp only [BitVec.toNat_ofNat]; omega)

theorem rem (d : BitVec 7) (a : BitVec 7) (b : BitVec 7) : Statement (.rem d a b) := fun _ => by
  have h1 := d.isLt
  have h2 := a.isLt
  have h3 := b.isLt
  have bM : 81 < 128 := by omega
  have bd : d.toNat < 2 ^ 7 := by omega
  have ba : a.toNat < 2 ^ 7 := by omega
  have bb : b.toNat < 2 ^ 7 := by omega
  have bm : 1 < 2 ^ 2 := by omega
  have bf : 1 < 4 := by omega
  have e : encodeNat (.rem d a b) = wordOf 81 d.toNat a.toNat b.toNat 1 1 := show 0x50000051 + d.toNat * 128 + a.toNat * 16384 + b.toNat * 2097152 = _ by unfold wordOf; omega
  rw [encode, BitVec.toNat_ofNat, e, Nat.mod_eq_of_lt (wordOf_lt bM bd ba bb bm bf), decode51 (by rw [wordOf_major bM]), decodeMajor51]
  simp only [wordOf_div128, wordOf_div16384, wordOf_div2097152, wordOf_div268435456, bM, bd, ba, bb, bm, and_true, true_and]
  repeat (first | rw [if_pos (by first | omega | exact True.intro)] | rw [if_neg (by omega)])
  congr 2 <;> (apply BitVec.eq_of_toNat_eq; simp only [BitVec.toNat_ofNat]; omega)

theorem remn (d : BitVec 7) (a : BitVec 7) (b : BitVec 7) : Statement (.remn d a b) := fun _ => by
  have h1 := d.isLt
  have h2 := a.isLt
  have h3 := b.isLt
  have bM : 81 < 128 := by omega
  have bd : d.toNat < 2 ^ 7 := by omega
  have ba : a.toNat < 2 ^ 7 := by omega
  have bb : b.toNat < 2 ^ 7 := by omega
  have bm : 2 < 2 ^ 2 := by omega
  have bf : 1 < 4 := by omega
  have e : encodeNat (.remn d a b) = wordOf 81 d.toNat a.toNat b.toNat 2 1 := show 0x60000051 + d.toNat * 128 + a.toNat * 16384 + b.toNat * 2097152 = _ by unfold wordOf; omega
  rw [encode, BitVec.toNat_ofNat, e, Nat.mod_eq_of_lt (wordOf_lt bM bd ba bb bm bf), decode51 (by rw [wordOf_major bM]), decodeMajor51]
  simp only [wordOf_div128, wordOf_div16384, wordOf_div2097152, wordOf_div268435456, bM, bd, ba, bb, bm, and_true, true_and]
  repeat (first | rw [if_pos (by first | omega | exact True.intro)] | rw [if_neg (by omega)])
  congr 2 <;> (apply BitVec.eq_of_toNat_eq; simp only [BitVec.toNat_ofNat]; omega)

theorem clz (d : BitVec 7) (a : BitVec 7) : Statement (.clz d a) := fun _ => by
  have h1 := d.isLt
  have h2 := a.isLt
  have bM : 81 < 128 := by omega
  have bd : d.toNat < 2 ^ 7 := by omega
  have ba : a.toNat < 2 ^ 7 := by omega
  have bb : 0 < 2 ^ 7 := by omega
  have bm : 3 < 2 ^ 2 := by omega
  have bf : 1 < 4 := by omega
  have e : encodeNat (.clz d a) = wordOf 81 d.toNat a.toNat 0 3 1 := show 0x70000051 + d.toNat * 128 + a.toNat * 16384 = _ by unfold wordOf; omega
  rw [encode, BitVec.toNat_ofNat, e, Nat.mod_eq_of_lt (wordOf_lt bM bd ba bb bm bf), decode51 (by rw [wordOf_major bM]), decodeMajor51]
  simp only [wordOf_div128, wordOf_div16384, wordOf_div2097152, wordOf_div268435456, bM, bd, ba, bb, bm, and_true, true_and]
  repeat (first | rw [if_pos (by first | omega | exact True.intro)] | rw [if_neg (by omega)])
  congr 2 <;> (apply BitVec.eq_of_toNat_eq; simp only [BitVec.toNat_ofNat]; omega)

theorem ctz (d : BitVec 7) (a : BitVec 7) : Statement (.ctz d a) := fun _ => by
  have h1 := d.isLt
  have h2 := a.isLt
  have bM : 81 < 128 := by omega
  have bd : d.toNat < 2 ^ 7 := by omega
  have ba : a.toNat < 2 ^ 7 := by omega
  have bb : 0 < 2 ^ 7 := by omega
  have bm : 0 < 2 ^ 2 := by omega
  have bf : 2 < 4 := by omega
  have e : encodeNat (.ctz d a) = wordOf 81 d.toNat a.toNat 0 0 2 := show 0x80000051 + d.toNat * 128 + a.toNat * 16384 = _ by unfold wordOf; omega
  rw [encode, BitVec.toNat_ofNat, e, Nat.mod_eq_of_lt (wordOf_lt bM bd ba bb bm bf), decode51 (by rw [wordOf_major bM]), decodeMajor51]
  simp only [wordOf_div128, wordOf_div16384, wordOf_div2097152, wordOf_div268435456, bM, bd, ba, bb, bm, and_true, true_and]
  repeat (first | rw [if_pos (by first | omega | exact True.intro)] | rw [if_neg (by omega)])
  congr 2 <;> (apply BitVec.eq_of_toNat_eq; simp only [BitVec.toNat_ofNat]; omega)

theorem popc (d : BitVec 7) (a : BitVec 7) : Statement (.popc d a) := fun _ => by
  have h1 := d.isLt
  have h2 := a.isLt
  have bM : 81 < 128 := by omega
  have bd : d.toNat < 2 ^ 7 := by omega
  have ba : a.toNat < 2 ^ 7 := by omega
  have bb : 0 < 2 ^ 7 := by omega
  have bm : 1 < 2 ^ 2 := by omega
  have bf : 2 < 4 := by omega
  have e : encodeNat (.popc d a) = wordOf 81 d.toNat a.toNat 0 1 2 := show 0x90000051 + d.toNat * 128 + a.toNat * 16384 = _ by unfold wordOf; omega
  rw [encode, BitVec.toNat_ofNat, e, Nat.mod_eq_of_lt (wordOf_lt bM bd ba bb bm bf), decode51 (by rw [wordOf_major bM]), decodeMajor51]
  simp only [wordOf_div128, wordOf_div16384, wordOf_div2097152, wordOf_div268435456, bM, bd, ba, bb, bm, and_true, true_and]
  repeat (first | rw [if_pos (by first | omega | exact True.intro)] | rw [if_neg (by omega)])
  congr 2 <;> (apply BitVec.eq_of_toNat_eq; simp only [BitVec.toNat_ofNat]; omega)

theorem ldb (d : BitVec 7) (a : BitVec 7) (imm : BitVec 12) : Statement (.ldb d a imm) := fun _ => by
  have h1 := d.isLt
  have h2 := a.isLt
  have h3 := imm.isLt
  have bM : (32 + imm.toNat % 2) < 128 := by omega
  have bd : d.toNat < 2 ^ 7 := by omega
  have ba : a.toNat < 2 ^ 7 := by omega
  have bb : (imm.toNat / 2 % 128) < 2 ^ 7 := by omega
  have bm : (imm.toNat / 256 % 4) < 2 ^ 2 := by omega
  have bf : (imm.toNat / 1024) < 4 := by omega
  have e : encodeNat (.ldb d a imm) = wordOf (32 + imm.toNat % 2) d.toNat a.toNat (imm.toNat / 2 % 128) (imm.toNat / 256 % 4) (imm.toNat / 1024) := show 0x20 + d.toNat * 128 + a.toNat * 16384 + (imm.toNat / 2) * 2097152 + (imm.toNat % 2) = _ by unfold wordOf; omega
  rw [encode, BitVec.toNat_ofNat, e, Nat.mod_eq_of_lt (wordOf_lt bM bd ba bb bm bf), group20 (by rw [wordOf_major bM]; omega), decodeMajor20]
  simp only [wordOf_mod2, wordOf_div128, wordOf_div16384, wordOf_div2097152, bM, bd, ba, bb, bm, and_true, true_and]
  congr 2 <;> (apply BitVec.eq_of_toNat_eq; simp only [BitVec.toNat_ofNat]; omega)

theorem ldh (d : BitVec 7) (a : BitVec 7) (imm : BitVec 12) : Statement (.ldh d a imm) := fun _ => by
  have h1 := d.isLt
  have h2 := a.isLt
  have h3 := imm.isLt
  have bM : (34 + imm.toNat % 2) < 128 := by omega
  have bd : d.toNat < 2 ^ 7 := by omega
  have ba : a.toNat < 2 ^ 7 := by omega
  have bb : (imm.toNat / 2 % 128) < 2 ^ 7 := by omega
  have bm : (imm.toNat / 256 % 4) < 2 ^ 2 := by omega
  have bf : (imm.toNat / 1024) < 4 := by omega
  have e : encodeNat (.ldh d a imm) = wordOf (34 + imm.toNat % 2) d.toNat a.toNat (imm.toNat / 2 % 128) (imm.toNat / 256 % 4) (imm.toNat / 1024) := show 0x22 + d.toNat * 128 + a.toNat * 16384 + (imm.toNat / 2) * 2097152 + (imm.toNat % 2) = _ by unfold wordOf; omega
  rw [encode, BitVec.toNat_ofNat, e, Nat.mod_eq_of_lt (wordOf_lt bM bd ba bb bm bf), group22 (by rw [wordOf_major bM]; omega), decodeMajor22]
  simp only [wordOf_mod2, wordOf_div128, wordOf_div16384, wordOf_div2097152, bM, bd, ba, bb, bm, and_true, true_and]
  congr 2 <;> (apply BitVec.eq_of_toNat_eq; simp only [BitVec.toNat_ofNat]; omega)

theorem ldw (d : BitVec 7) (a : BitVec 7) (imm : BitVec 12) : Statement (.ldw d a imm) := fun _ => by
  have h1 := d.isLt
  have h2 := a.isLt
  have h3 := imm.isLt
  have bM : (36 + imm.toNat % 2) < 128 := by omega
  have bd : d.toNat < 2 ^ 7 := by omega
  have ba : a.toNat < 2 ^ 7 := by omega
  have bb : (imm.toNat / 2 % 128) < 2 ^ 7 := by omega
  have bm : (imm.toNat / 256 % 4) < 2 ^ 2 := by omega
  have bf : (imm.toNat / 1024) < 4 := by omega
  have e : encodeNat (.ldw d a imm) = wordOf (36 + imm.toNat % 2) d.toNat a.toNat (imm.toNat / 2 % 128) (imm.toNat / 256 % 4) (imm.toNat / 1024) := show 0x24 + d.toNat * 128 + a.toNat * 16384 + (imm.toNat / 2) * 2097152 + (imm.toNat % 2) = _ by unfold wordOf; omega
  rw [encode, BitVec.toNat_ofNat, e, Nat.mod_eq_of_lt (wordOf_lt bM bd ba bb bm bf), group24 (by rw [wordOf_major bM]; omega), decodeMajor24]
  simp only [wordOf_mod2, wordOf_div128, wordOf_div16384, wordOf_div2097152, bM, bd, ba, bb, bm, and_true, true_and]
  congr 2 <;> (apply BitVec.eq_of_toNat_eq; simp only [BitVec.toNat_ofNat]; omega)

theorem ldd (d : BitVec 7) (a : BitVec 7) (imm : BitVec 12) : Statement (.ldd d a imm) := fun _ => by
  have h1 := d.isLt
  have h2 := a.isLt
  have h3 := imm.isLt
  have bM : (38 + imm.toNat % 2) < 128 := by omega
  have bd : d.toNat < 2 ^ 7 := by omega
  have ba : a.toNat < 2 ^ 7 := by omega
  have bb : (imm.toNat / 2 % 128) < 2 ^ 7 := by omega
  have bm : (imm.toNat / 256 % 4) < 2 ^ 2 := by omega
  have bf : (imm.toNat / 1024) < 4 := by omega
  have e : encodeNat (.ldd d a imm) = wordOf (38 + imm.toNat % 2) d.toNat a.toNat (imm.toNat / 2 % 128) (imm.toNat / 256 % 4) (imm.toNat / 1024) := show 0x26 + d.toNat * 128 + a.toNat * 16384 + (imm.toNat / 2) * 2097152 + (imm.toNat % 2) = _ by unfold wordOf; omega
  rw [encode, BitVec.toNat_ofNat, e, Nat.mod_eq_of_lt (wordOf_lt bM bd ba bb bm bf), group26 (by rw [wordOf_major bM]; omega), decodeMajor26]
  simp only [wordOf_mod2, wordOf_div128, wordOf_div16384, wordOf_div2097152, bM, bd, ba, bb, bm, and_true, true_and]
  congr 2 <;> (apply BitVec.eq_of_toNat_eq; simp only [BitVec.toNat_ofNat]; omega)

theorem ldbn (d : BitVec 7) (a : BitVec 7) (imm : BitVec 12) : Statement (.ldbn d a imm) := fun _ => by
  have h1 := d.isLt
  have h2 := a.isLt
  have h3 := imm.isLt
  have bM : (40 + imm.toNat % 2) < 128 := by omega
  have bd : d.toNat < 2 ^ 7 := by omega
  have ba : a.toNat < 2 ^ 7 := by omega
  have bb : (imm.toNat / 2 % 128) < 2 ^ 7 := by omega
  have bm : (imm.toNat / 256 % 4) < 2 ^ 2 := by omega
  have bf : (imm.toNat / 1024) < 4 := by omega
  have e : encodeNat (.ldbn d a imm) = wordOf (40 + imm.toNat % 2) d.toNat a.toNat (imm.toNat / 2 % 128) (imm.toNat / 256 % 4) (imm.toNat / 1024) := show 0x28 + d.toNat * 128 + a.toNat * 16384 + (imm.toNat / 2) * 2097152 + (imm.toNat % 2) = _ by unfold wordOf; omega
  rw [encode, BitVec.toNat_ofNat, e, Nat.mod_eq_of_lt (wordOf_lt bM bd ba bb bm bf), group28 (by rw [wordOf_major bM]; omega), decodeMajor28]
  simp only [wordOf_mod2, wordOf_div128, wordOf_div16384, wordOf_div2097152, bM, bd, ba, bb, bm, and_true, true_and]
  congr 2 <;> (apply BitVec.eq_of_toNat_eq; simp only [BitVec.toNat_ofNat]; omega)

theorem ldhn (d : BitVec 7) (a : BitVec 7) (imm : BitVec 12) : Statement (.ldhn d a imm) := fun _ => by
  have h1 := d.isLt
  have h2 := a.isLt
  have h3 := imm.isLt
  have bM : (42 + imm.toNat % 2) < 128 := by omega
  have bd : d.toNat < 2 ^ 7 := by omega
  have ba : a.toNat < 2 ^ 7 := by omega
  have bb : (imm.toNat / 2 % 128) < 2 ^ 7 := by omega
  have bm : (imm.toNat / 256 % 4) < 2 ^ 2 := by omega
  have bf : (imm.toNat / 1024) < 4 := by omega
  have e : encodeNat (.ldhn d a imm) = wordOf (42 + imm.toNat % 2) d.toNat a.toNat (imm.toNat / 2 % 128) (imm.toNat / 256 % 4) (imm.toNat / 1024) := show 0x2a + d.toNat * 128 + a.toNat * 16384 + (imm.toNat / 2) * 2097152 + (imm.toNat % 2) = _ by unfold wordOf; omega
  rw [encode, BitVec.toNat_ofNat, e, Nat.mod_eq_of_lt (wordOf_lt bM bd ba bb bm bf), group2A (by rw [wordOf_major bM]; omega), decodeMajor2A]
  simp only [wordOf_mod2, wordOf_div128, wordOf_div16384, wordOf_div2097152, bM, bd, ba, bb, bm, and_true, true_and]
  congr 2 <;> (apply BitVec.eq_of_toNat_eq; simp only [BitVec.toNat_ofNat]; omega)

theorem ldwn (d : BitVec 7) (a : BitVec 7) (imm : BitVec 12) : Statement (.ldwn d a imm) := fun _ => by
  have h1 := d.isLt
  have h2 := a.isLt
  have h3 := imm.isLt
  have bM : (44 + imm.toNat % 2) < 128 := by omega
  have bd : d.toNat < 2 ^ 7 := by omega
  have ba : a.toNat < 2 ^ 7 := by omega
  have bb : (imm.toNat / 2 % 128) < 2 ^ 7 := by omega
  have bm : (imm.toNat / 256 % 4) < 2 ^ 2 := by omega
  have bf : (imm.toNat / 1024) < 4 := by omega
  have e : encodeNat (.ldwn d a imm) = wordOf (44 + imm.toNat % 2) d.toNat a.toNat (imm.toNat / 2 % 128) (imm.toNat / 256 % 4) (imm.toNat / 1024) := show 0x2c + d.toNat * 128 + a.toNat * 16384 + (imm.toNat / 2) * 2097152 + (imm.toNat % 2) = _ by unfold wordOf; omega
  rw [encode, BitVec.toNat_ofNat, e, Nat.mod_eq_of_lt (wordOf_lt bM bd ba bb bm bf), group2C (by rw [wordOf_major bM]; omega), decodeMajor2C]
  simp only [wordOf_mod2, wordOf_div128, wordOf_div16384, wordOf_div2097152, bM, bd, ba, bb, bm, and_true, true_and]
  congr 2 <;> (apply BitVec.eq_of_toNat_eq; simp only [BitVec.toNat_ofNat]; omega)

theorem stb (b : BitVec 7) (a : BitVec 7) (imm : BitVec 12) : Statement (.stb b a imm) := fun _ => by
  have h1 := b.isLt
  have h2 := a.isLt
  have h3 := imm.isLt
  have bM : (46 + imm.toNat % 2) < 128 := by omega
  have bd : (imm.toNat / 2 % 128) < 2 ^ 7 := by omega
  have ba : a.toNat < 2 ^ 7 := by omega
  have bb : b.toNat < 2 ^ 7 := by omega
  have bm : (imm.toNat / 256 % 4) < 2 ^ 2 := by omega
  have bf : (imm.toNat / 1024) < 4 := by omega
  have e : encodeNat (.stb b a imm) = wordOf (46 + imm.toNat % 2) (imm.toNat / 2 % 128) a.toNat b.toNat (imm.toNat / 256 % 4) (imm.toNat / 1024) := show 0x2e + b.toNat * 2097152 + a.toNat * 16384 + (imm.toNat / 256) * 268435456 + (imm.toNat / 2 % 128) * 128 + (imm.toNat % 2) = _ by unfold wordOf; omega
  rw [encode, BitVec.toNat_ofNat, e, Nat.mod_eq_of_lt (wordOf_lt bM bd ba bb bm bf), group2E (by rw [wordOf_major bM]; omega), decodeMajor2E]
  simp only [wordOf_mod2, wordOf_div128, wordOf_div16384, wordOf_div2097152, wordOf_div268435456, bM, bd, ba, bb, bm, and_true, true_and]
  congr 2 <;> (apply BitVec.eq_of_toNat_eq; simp only [BitVec.toNat_ofNat]; omega)

theorem sth (b : BitVec 7) (a : BitVec 7) (imm : BitVec 12) : Statement (.sth b a imm) := fun _ => by
  have h1 := b.isLt
  have h2 := a.isLt
  have h3 := imm.isLt
  have bM : (48 + imm.toNat % 2) < 128 := by omega
  have bd : (imm.toNat / 2 % 128) < 2 ^ 7 := by omega
  have ba : a.toNat < 2 ^ 7 := by omega
  have bb : b.toNat < 2 ^ 7 := by omega
  have bm : (imm.toNat / 256 % 4) < 2 ^ 2 := by omega
  have bf : (imm.toNat / 1024) < 4 := by omega
  have e : encodeNat (.sth b a imm) = wordOf (48 + imm.toNat % 2) (imm.toNat / 2 % 128) a.toNat b.toNat (imm.toNat / 256 % 4) (imm.toNat / 1024) := show 0x30 + b.toNat * 2097152 + a.toNat * 16384 + (imm.toNat / 256) * 268435456 + (imm.toNat / 2 % 128) * 128 + (imm.toNat % 2) = _ by unfold wordOf; omega
  rw [encode, BitVec.toNat_ofNat, e, Nat.mod_eq_of_lt (wordOf_lt bM bd ba bb bm bf), group30 (by rw [wordOf_major bM]; omega), decodeMajor30]
  simp only [wordOf_mod2, wordOf_div128, wordOf_div16384, wordOf_div2097152, wordOf_div268435456, bM, bd, ba, bb, bm, and_true, true_and]
  congr 2 <;> (apply BitVec.eq_of_toNat_eq; simp only [BitVec.toNat_ofNat]; omega)

theorem stw (b : BitVec 7) (a : BitVec 7) (imm : BitVec 12) : Statement (.stw b a imm) := fun _ => by
  have h1 := b.isLt
  have h2 := a.isLt
  have h3 := imm.isLt
  have bM : (50 + imm.toNat % 2) < 128 := by omega
  have bd : (imm.toNat / 2 % 128) < 2 ^ 7 := by omega
  have ba : a.toNat < 2 ^ 7 := by omega
  have bb : b.toNat < 2 ^ 7 := by omega
  have bm : (imm.toNat / 256 % 4) < 2 ^ 2 := by omega
  have bf : (imm.toNat / 1024) < 4 := by omega
  have e : encodeNat (.stw b a imm) = wordOf (50 + imm.toNat % 2) (imm.toNat / 2 % 128) a.toNat b.toNat (imm.toNat / 256 % 4) (imm.toNat / 1024) := show 0x32 + b.toNat * 2097152 + a.toNat * 16384 + (imm.toNat / 256) * 268435456 + (imm.toNat / 2 % 128) * 128 + (imm.toNat % 2) = _ by unfold wordOf; omega
  rw [encode, BitVec.toNat_ofNat, e, Nat.mod_eq_of_lt (wordOf_lt bM bd ba bb bm bf), group32 (by rw [wordOf_major bM]; omega), decodeMajor32]
  simp only [wordOf_mod2, wordOf_div128, wordOf_div16384, wordOf_div2097152, wordOf_div268435456, bM, bd, ba, bb, bm, and_true, true_and]
  congr 2 <;> (apply BitVec.eq_of_toNat_eq; simp only [BitVec.toNat_ofNat]; omega)

theorem std (b : BitVec 7) (a : BitVec 7) (imm : BitVec 12) : Statement (.std b a imm) := fun _ => by
  have h1 := b.isLt
  have h2 := a.isLt
  have h3 := imm.isLt
  have bM : (52 + imm.toNat % 2) < 128 := by omega
  have bd : (imm.toNat / 2 % 128) < 2 ^ 7 := by omega
  have ba : a.toNat < 2 ^ 7 := by omega
  have bb : b.toNat < 2 ^ 7 := by omega
  have bm : (imm.toNat / 256 % 4) < 2 ^ 2 := by omega
  have bf : (imm.toNat / 1024) < 4 := by omega
  have e : encodeNat (.std b a imm) = wordOf (52 + imm.toNat % 2) (imm.toNat / 2 % 128) a.toNat b.toNat (imm.toNat / 256 % 4) (imm.toNat / 1024) := show 0x34 + b.toNat * 2097152 + a.toNat * 16384 + (imm.toNat / 256) * 268435456 + (imm.toNat / 2 % 128) * 128 + (imm.toNat % 2) = _ by unfold wordOf; omega
  rw [encode, BitVec.toNat_ofNat, e, Nat.mod_eq_of_lt (wordOf_lt bM bd ba bb bm bf), group34 (by rw [wordOf_major bM]; omega), decodeMajor34]
  simp only [wordOf_mod2, wordOf_div128, wordOf_div16384, wordOf_div2097152, wordOf_div268435456, bM, bd, ba, bb, bm, and_true, true_and]
  congr 2 <;> (apply BitVec.eq_of_toNat_eq; simp only [BitVec.toNat_ofNat]; omega)

theorem beq (a : BitVec 7) (b : BitVec 7) (imm : BitVec 12) : Statement (.beq a b imm) := fun _ => by
  have h1 := a.isLt
  have h2 := b.isLt
  have h3 := imm.isLt
  have bM : (54 + imm.toNat % 2) < 128 := by omega
  have bd : (imm.toNat / 2 % 128) < 2 ^ 7 := by omega
  have ba : a.toNat < 2 ^ 7 := by omega
  have bb : b.toNat < 2 ^ 7 := by omega
  have bm : (imm.toNat / 256 % 4) < 2 ^ 2 := by omega
  have bf : (imm.toNat / 1024) < 4 := by omega
  have e : encodeNat (.beq a b imm) = wordOf (54 + imm.toNat % 2) (imm.toNat / 2 % 128) a.toNat b.toNat (imm.toNat / 256 % 4) (imm.toNat / 1024) := show 0x36 + a.toNat * 16384 + b.toNat * 2097152 + (imm.toNat / 256) * 268435456 + (imm.toNat / 2 % 128) * 128 + (imm.toNat % 2) = _ by unfold wordOf; omega
  rw [encode, BitVec.toNat_ofNat, e, Nat.mod_eq_of_lt (wordOf_lt bM bd ba bb bm bf), group36 (by rw [wordOf_major bM]; omega), decodeMajor36]
  simp only [wordOf_mod2, wordOf_div128, wordOf_div16384, wordOf_div2097152, wordOf_div268435456, bM, bd, ba, bb, bm, and_true, true_and]
  congr 2 <;> (apply BitVec.eq_of_toNat_eq; simp only [BitVec.toNat_ofNat]; omega)

theorem bne (a : BitVec 7) (b : BitVec 7) (imm : BitVec 12) : Statement (.bne a b imm) := fun _ => by
  have h1 := a.isLt
  have h2 := b.isLt
  have h3 := imm.isLt
  have bM : (56 + imm.toNat % 2) < 128 := by omega
  have bd : (imm.toNat / 2 % 128) < 2 ^ 7 := by omega
  have ba : a.toNat < 2 ^ 7 := by omega
  have bb : b.toNat < 2 ^ 7 := by omega
  have bm : (imm.toNat / 256 % 4) < 2 ^ 2 := by omega
  have bf : (imm.toNat / 1024) < 4 := by omega
  have e : encodeNat (.bne a b imm) = wordOf (56 + imm.toNat % 2) (imm.toNat / 2 % 128) a.toNat b.toNat (imm.toNat / 256 % 4) (imm.toNat / 1024) := show 0x38 + a.toNat * 16384 + b.toNat * 2097152 + (imm.toNat / 256) * 268435456 + (imm.toNat / 2 % 128) * 128 + (imm.toNat % 2) = _ by unfold wordOf; omega
  rw [encode, BitVec.toNat_ofNat, e, Nat.mod_eq_of_lt (wordOf_lt bM bd ba bb bm bf), group38 (by rw [wordOf_major bM]; omega), decodeMajor38]
  simp only [wordOf_mod2, wordOf_div128, wordOf_div16384, wordOf_div2097152, wordOf_div268435456, bM, bd, ba, bb, bm, and_true, true_and]
  congr 2 <;> (apply BitVec.eq_of_toNat_eq; simp only [BitVec.toNat_ofNat]; omega)

theorem blt (a : BitVec 7) (b : BitVec 7) (imm : BitVec 12) : Statement (.blt a b imm) := fun _ => by
  have h1 := a.isLt
  have h2 := b.isLt
  have h3 := imm.isLt
  have bM : (58 + imm.toNat % 2) < 128 := by omega
  have bd : (imm.toNat / 2 % 128) < 2 ^ 7 := by omega
  have ba : a.toNat < 2 ^ 7 := by omega
  have bb : b.toNat < 2 ^ 7 := by omega
  have bm : (imm.toNat / 256 % 4) < 2 ^ 2 := by omega
  have bf : (imm.toNat / 1024) < 4 := by omega
  have e : encodeNat (.blt a b imm) = wordOf (58 + imm.toNat % 2) (imm.toNat / 2 % 128) a.toNat b.toNat (imm.toNat / 256 % 4) (imm.toNat / 1024) := show 0x3a + a.toNat * 16384 + b.toNat * 2097152 + (imm.toNat / 256) * 268435456 + (imm.toNat / 2 % 128) * 128 + (imm.toNat % 2) = _ by unfold wordOf; omega
  rw [encode, BitVec.toNat_ofNat, e, Nat.mod_eq_of_lt (wordOf_lt bM bd ba bb bm bf), group3A (by rw [wordOf_major bM]; omega), decodeMajor3A]
  simp only [wordOf_mod2, wordOf_div128, wordOf_div16384, wordOf_div2097152, wordOf_div268435456, bM, bd, ba, bb, bm, and_true, true_and]
  congr 2 <;> (apply BitVec.eq_of_toNat_eq; simp only [BitVec.toNat_ofNat]; omega)

theorem bge (a : BitVec 7) (b : BitVec 7) (imm : BitVec 12) : Statement (.bge a b imm) := fun _ => by
  have h1 := a.isLt
  have h2 := b.isLt
  have h3 := imm.isLt
  have bM : (60 + imm.toNat % 2) < 128 := by omega
  have bd : (imm.toNat / 2 % 128) < 2 ^ 7 := by omega
  have ba : a.toNat < 2 ^ 7 := by omega
  have bb : b.toNat < 2 ^ 7 := by omega
  have bm : (imm.toNat / 256 % 4) < 2 ^ 2 := by omega
  have bf : (imm.toNat / 1024) < 4 := by omega
  have e : encodeNat (.bge a b imm) = wordOf (60 + imm.toNat % 2) (imm.toNat / 2 % 128) a.toNat b.toNat (imm.toNat / 256 % 4) (imm.toNat / 1024) := show 0x3c + a.toNat * 16384 + b.toNat * 2097152 + (imm.toNat / 256) * 268435456 + (imm.toNat / 2 % 128) * 128 + (imm.toNat % 2) = _ by unfold wordOf; omega
  rw [encode, BitVec.toNat_ofNat, e, Nat.mod_eq_of_lt (wordOf_lt bM bd ba bb bm bf), group3C (by rw [wordOf_major bM]; omega), decodeMajor3C]
  simp only [wordOf_mod2, wordOf_div128, wordOf_div16384, wordOf_div2097152, wordOf_div268435456, bM, bd, ba, bb, bm, and_true, true_and]
  congr 2 <;> (apply BitVec.eq_of_toNat_eq; simp only [BitVec.toNat_ofNat]; omega)

theorem bltn (a : BitVec 7) (b : BitVec 7) (imm : BitVec 12) : Statement (.bltn a b imm) := fun _ => by
  have h1 := a.isLt
  have h2 := b.isLt
  have h3 := imm.isLt
  have bM : (62 + imm.toNat % 2) < 128 := by omega
  have bd : (imm.toNat / 2 % 128) < 2 ^ 7 := by omega
  have ba : a.toNat < 2 ^ 7 := by omega
  have bb : b.toNat < 2 ^ 7 := by omega
  have bm : (imm.toNat / 256 % 4) < 2 ^ 2 := by omega
  have bf : (imm.toNat / 1024) < 4 := by omega
  have e : encodeNat (.bltn a b imm) = wordOf (62 + imm.toNat % 2) (imm.toNat / 2 % 128) a.toNat b.toNat (imm.toNat / 256 % 4) (imm.toNat / 1024) := show 0x3e + a.toNat * 16384 + b.toNat * 2097152 + (imm.toNat / 256) * 268435456 + (imm.toNat / 2 % 128) * 128 + (imm.toNat % 2) = _ by unfold wordOf; omega
  rw [encode, BitVec.toNat_ofNat, e, Nat.mod_eq_of_lt (wordOf_lt bM bd ba bb bm bf), group3E (by rw [wordOf_major bM]; omega), decodeMajor3E]
  simp only [wordOf_mod2, wordOf_div128, wordOf_div16384, wordOf_div2097152, wordOf_div268435456, bM, bd, ba, bb, bm, and_true, true_and]
  congr 2 <;> (apply BitVec.eq_of_toNat_eq; simp only [BitVec.toNat_ofNat]; omega)

theorem bgen (a : BitVec 7) (b : BitVec 7) (imm : BitVec 12) : Statement (.bgen a b imm) := fun _ => by
  have h1 := a.isLt
  have h2 := b.isLt
  have h3 := imm.isLt
  have bM : (64 + imm.toNat % 2) < 128 := by omega
  have bd : (imm.toNat / 2 % 128) < 2 ^ 7 := by omega
  have ba : a.toNat < 2 ^ 7 := by omega
  have bb : b.toNat < 2 ^ 7 := by omega
  have bm : (imm.toNat / 256 % 4) < 2 ^ 2 := by omega
  have bf : (imm.toNat / 1024) < 4 := by omega
  have e : encodeNat (.bgen a b imm) = wordOf (64 + imm.toNat % 2) (imm.toNat / 2 % 128) a.toNat b.toNat (imm.toNat / 256 % 4) (imm.toNat / 1024) := show 0x40 + a.toNat * 16384 + b.toNat * 2097152 + (imm.toNat / 256) * 268435456 + (imm.toNat / 2 % 128) * 128 + (imm.toNat % 2) = _ by unfold wordOf; omega
  rw [encode, BitVec.toNat_ofNat, e, Nat.mod_eq_of_lt (wordOf_lt bM bd ba bb bm bf), group40 (by rw [wordOf_major bM]; omega), decodeMajor40]
  simp only [wordOf_mod2, wordOf_div128, wordOf_div16384, wordOf_div2097152, wordOf_div268435456, bM, bd, ba, bb, bm, and_true, true_and]
  congr 2 <;> (apply BitVec.eq_of_toNat_eq; simp only [BitVec.toNat_ofNat]; omega)

theorem srd (d : BitVec 7) (num : BitVec 12) : Statement (.srd d num) := fun _ => by
  have h1 := d.isLt
  have h2 := num.isLt
  have bM : (66 + num.toNat % 2) < 128 := by omega
  have bd : d.toNat < 2 ^ 7 := by omega
  have ba : 0 < 2 ^ 7 := by omega
  have bb : (num.toNat / 2 % 128) < 2 ^ 7 := by omega
  have bm : (num.toNat / 256 % 4) < 2 ^ 2 := by omega
  have bf : (num.toNat / 1024) < 4 := by omega
  have e : encodeNat (.srd d num) = wordOf (66 + num.toNat % 2) d.toNat 0 (num.toNat / 2 % 128) (num.toNat / 256 % 4) (num.toNat / 1024) := show 0x42 + d.toNat * 128 + (num.toNat / 2) * 2097152 + (num.toNat % 2) = _ by unfold wordOf; omega
  rw [encode, BitVec.toNat_ofNat, e, Nat.mod_eq_of_lt (wordOf_lt bM bd ba bb bm bf), group42 (by rw [wordOf_major bM]; omega), decodeMajor42]
  simp only [wordOf_mod2, wordOf_div128, wordOf_div16384, wordOf_div2097152, bM, bd, ba, bb, bm, and_true, true_and]
  repeat (first | rw [if_pos (by first | omega | exact True.intro)] | rw [if_neg (by omega)])
  congr 2 <;> (apply BitVec.eq_of_toNat_eq; simp only [BitVec.toNat_ofNat]; omega)

theorem swr (a : BitVec 7) (num : BitVec 12) : Statement (.swr a num) := fun _ => by
  have h1 := a.isLt
  have h2 := num.isLt
  have bM : (68 + num.toNat % 2) < 128 := by omega
  have bd : 0 < 2 ^ 7 := by omega
  have ba : a.toNat < 2 ^ 7 := by omega
  have bb : (num.toNat / 2 % 128) < 2 ^ 7 := by omega
  have bm : (num.toNat / 256 % 4) < 2 ^ 2 := by omega
  have bf : (num.toNat / 1024) < 4 := by omega
  have e : encodeNat (.swr a num) = wordOf (68 + num.toNat % 2) 0 a.toNat (num.toNat / 2 % 128) (num.toNat / 256 % 4) (num.toNat / 1024) := show 0x44 + a.toNat * 16384 + (num.toNat / 2) * 2097152 + (num.toNat % 2) = _ by unfold wordOf; omega
  rw [encode, BitVec.toNat_ofNat, e, Nat.mod_eq_of_lt (wordOf_lt bM bd ba bb bm bf), group44 (by rw [wordOf_major bM]; omega), decodeMajor44]
  simp only [wordOf_mod2, wordOf_div128, wordOf_div16384, wordOf_div2097152, bM, bd, ba, bb, bm, and_true, true_and]
  repeat (first | rw [if_pos (by first | omega | exact True.intro)] | rw [if_neg (by omega)])
  congr 2 <;> (apply BitVec.eq_of_toNat_eq; simp only [BitVec.toNat_ofNat]; omega)

theorem winb (a : BitVec 7) (imm : BitVec 12) : Statement (.winb a imm) := fun _ => by
  have h1 := a.isLt
  have h2 := imm.isLt
  have bM : (70 + imm.toNat % 2) < 128 := by omega
  have bd : 0 < 2 ^ 7 := by omega
  have ba : a.toNat < 2 ^ 7 := by omega
  have bb : (imm.toNat / 2 % 128) < 2 ^ 7 := by omega
  have bm : (imm.toNat / 256 % 4) < 2 ^ 2 := by omega
  have bf : (imm.toNat / 1024) < 4 := by omega
  have e : encodeNat (.winb a imm) = wordOf (70 + imm.toNat % 2) 0 a.toNat (imm.toNat / 2 % 128) (imm.toNat / 256 % 4) (imm.toNat / 1024) := show 0x46 + a.toNat * 16384 + (imm.toNat / 2) * 2097152 + (imm.toNat % 2) = _ by unfold wordOf; omega
  rw [encode, BitVec.toNat_ofNat, e, Nat.mod_eq_of_lt (wordOf_lt bM bd ba bb bm bf), group46 (by rw [wordOf_major bM]; omega), decodeMajor46]
  simp only [wordOf_mod2, wordOf_div128, wordOf_div16384, wordOf_div2097152, bM, bd, ba, bb, bm, and_true, true_and]
  repeat (first | rw [if_pos (by first | omega | exact True.intro)] | rw [if_neg (by omega)])
  congr 2 <;> (apply BitVec.eq_of_toNat_eq; simp only [BitVec.toNat_ofNat]; omega)

theorem iclock (d : BitVec 7) (a : BitVec 7) (lines : BitVec 12) : Statement (.iclock d a lines) := fun _ => by
  have h1 := d.isLt
  have h2 := a.isLt
  have h3 := lines.isLt
  have bM : (72 + lines.toNat % 2) < 128 := by omega
  have bd : d.toNat < 2 ^ 7 := by omega
  have ba : a.toNat < 2 ^ 7 := by omega
  have bb : (lines.toNat / 2 % 128) < 2 ^ 7 := by omega
  have bm : (lines.toNat / 256 % 4) < 2 ^ 2 := by omega
  have bf : (lines.toNat / 1024) < 4 := by omega
  have e : encodeNat (.iclock d a lines) = wordOf (72 + lines.toNat % 2) d.toNat a.toNat (lines.toNat / 2 % 128) (lines.toNat / 256 % 4) (lines.toNat / 1024) := show 0x48 + d.toNat * 128 + a.toNat * 16384 + (lines.toNat / 2) * 2097152 + (lines.toNat % 2) = _ by unfold wordOf; omega
  rw [encode, BitVec.toNat_ofNat, e, Nat.mod_eq_of_lt (wordOf_lt bM bd ba bb bm bf), group48 (by rw [wordOf_major bM]; omega), decodeMajor48]
  simp only [wordOf_mod2, wordOf_div128, wordOf_div16384, wordOf_div2097152, bM, bd, ba, bb, bm, and_true, true_and]
  congr 2 <;> (apply BitVec.eq_of_toNat_eq; simp only [BitVec.toNat_ofNat]; omega)

theorem setvli (d : BitVec 7) (a : BitVec 7) (cfg : BitVec 12) : Statement (.setvli d a cfg) := fun _ => by
  have h1 := d.isLt
  have h2 := a.isLt
  have h3 := cfg.isLt
  have bM : (74 + cfg.toNat % 2) < 128 := by omega
  have bd : d.toNat < 2 ^ 7 := by omega
  have ba : a.toNat < 2 ^ 7 := by omega
  have bb : (cfg.toNat / 2 % 128) < 2 ^ 7 := by omega
  have bm : (cfg.toNat / 256 % 4) < 2 ^ 2 := by omega
  have bf : (cfg.toNat / 1024) < 4 := by omega
  have e : encodeNat (.setvli d a cfg) = wordOf (74 + cfg.toNat % 2) d.toNat a.toNat (cfg.toNat / 2 % 128) (cfg.toNat / 256 % 4) (cfg.toNat / 1024) := show 0x4a + d.toNat * 128 + a.toNat * 16384 + (cfg.toNat / 2) * 2097152 + (cfg.toNat % 2) = _ by unfold wordOf; omega
  rw [encode, BitVec.toNat_ofNat, e, Nat.mod_eq_of_lt (wordOf_lt bM bd ba bb bm bf), group4A (by rw [wordOf_major bM]; omega), decodeMajor4A]
  simp only [wordOf_mod2, wordOf_div128, wordOf_div16384, wordOf_div2097152, bM, bd, ba, bb, bm, and_true, true_and]
  congr 2 <;> (apply BitVec.eq_of_toNat_eq; simp only [BitVec.toNat_ofNat]; omega)

theorem setvl (d : BitVec 7) (a : BitVec 7) (b : BitVec 7) : Statement (.setvl d a b) := fun _ => by
  have e : encodeNat (.setvl d a b) = wordOf 82 d.toNat a.toNat b.toNat 0 0 := show 0x52 + d.toNat * 128 + a.toNat * 16384 + b.toNat * 2097152 = _ by unfold wordOf; omega
  rw [encode, BitVec.toNat_ofNat, e, Nat.mod_eq_of_lt (wordOf_lt (by decide) d.isLt a.isLt b.isLt (by decide) (by decide)), decode52 (wordOf_major (by decide)), decodeMajor52]
  simp [wordOf_mf, wordOf_d, wordOf_a, wordOf_b, d.isLt, a.isLt, b.isLt]

theorem ecall : Statement .ecall := fun _ => by
  have bM : 83 < 128 := by omega
  have bd : 0 < 2 ^ 7 := by omega
  have ba : 0 < 2 ^ 7 := by omega
  have bb : 0 < 2 ^ 7 := by omega
  have bm : 0 < 2 ^ 2 := by omega
  have bf : 0 < 4 := by omega
  have e : encodeNat .ecall = wordOf 83 0 0 0 0 0 := show 0x53 = _ by unfold wordOf; omega
  rw [encode, BitVec.toNat_ofNat, e, Nat.mod_eq_of_lt (wordOf_lt bM bd ba bb bm bf), decode53 (by rw [wordOf_major bM]), decodeMajor53]
  simp only [wordOf_div128, wordOf_div16384, wordOf_div16777216, wordOf_div2097152, wordOf_div268435456, bM, bd, ba, bb, bm, and_true, true_and]
  repeat (first | rw [if_pos (by first | omega | exact True.intro)] | rw [if_neg (by omega)])

theorem trapret : Statement .trapret := fun _ => by
  have bM : 83 < 128 := by omega
  have bd : 0 < 2 ^ 7 := by omega
  have ba : 0 < 2 ^ 7 := by omega
  have bb : 0 < 2 ^ 7 := by omega
  have bm : 1 < 2 ^ 2 := by omega
  have bf : 0 < 4 := by omega
  have e : encodeNat .trapret = wordOf 83 0 0 0 1 0 := show 0x10000053 = _ by unfold wordOf; omega
  rw [encode, BitVec.toNat_ofNat, e, Nat.mod_eq_of_lt (wordOf_lt bM bd ba bb bm bf), decode53 (by rw [wordOf_major bM]), decodeMajor53]
  simp only [wordOf_div128, wordOf_div16384, wordOf_div16777216, wordOf_div2097152, wordOf_div268435456, bM, bd, ba, bb, bm, and_true, true_and]
  repeat (first | rw [if_pos (by first | omega | exact True.intro)] | rw [if_neg (by omega)])

theorem brk (code : BitVec 14) : Statement (.brk code) := fun _ => by
  have h1 := code.isLt
  have bM : 83 < 128 := by omega
  have bd : 0 < 2 ^ 7 := by omega
  have ba : (code.toNat % 128) < 2 ^ 7 := by omega
  have bb : (code.toNat / 128) < 2 ^ 7 := by omega
  have bm : 2 < 2 ^ 2 := by omega
  have bf : 0 < 4 := by omega
  have e : encodeNat (.brk code) = wordOf 83 0 (code.toNat % 128) (code.toNat / 128) 2 0 := show 0x20000053 + code.toNat * 16384 = _ by unfold wordOf; omega
  rw [encode, BitVec.toNat_ofNat, e, Nat.mod_eq_of_lt (wordOf_lt bM bd ba bb bm bf), decode53 (by rw [wordOf_major bM]), decodeMajor53]
  simp only [wordOf_div128, wordOf_div16384, wordOf_div16777216, wordOf_div2097152, wordOf_div268435456, bM, bd, ba, bb, bm, and_true, true_and]
  repeat (first | rw [if_pos (by first | omega | exact True.intro)] | rw [if_neg (by omega)])
  exact congrArg (fun x => some (Instr.brk x)) (BitVec.eq_of_toNat_eq (by simp only [BitVec.toNat_ofNat]; omega))

theorem wfe (d : BitVec 7) (a : BitVec 7) : Statement (.wfe d a) := fun _ => by
  have h1 := d.isLt
  have h2 := a.isLt
  have bM : 83 < 128 := by omega
  have bd : d.toNat < 2 ^ 7 := by omega
  have ba : a.toNat < 2 ^ 7 := by omega
  have bb : 0 < 2 ^ 7 := by omega
  have bm : 3 < 2 ^ 2 := by omega
  have bf : 0 < 4 := by omega
  have e : encodeNat (.wfe d a) = wordOf 83 d.toNat a.toNat 0 3 0 := show 0x30000053 + d.toNat * 128 + a.toNat * 16384 = _ by unfold wordOf; omega
  rw [encode, BitVec.toNat_ofNat, e, Nat.mod_eq_of_lt (wordOf_lt bM bd ba bb bm bf), decode53 (by rw [wordOf_major bM]), decodeMajor53]
  simp only [wordOf_div128, wordOf_div16384, wordOf_div16777216, wordOf_div2097152, wordOf_div268435456, bM, bd, ba, bb, bm, and_true, true_and]
  repeat (first | rw [if_pos (by first | omega | exact True.intro)] | rw [if_neg (by omega)])
  congr 2 <;> (apply BitVec.eq_of_toNat_eq; simp only [BitVec.toNat_ofNat]; omega)

theorem fence (scope : BitVec 3) : Statement (.fence scope) := fun _ => by
  have h1 := scope.isLt
  have bM : 83 < 128 := by omega
  have bd : 0 < 2 ^ 7 := by omega
  have ba : 0 < 2 ^ 7 := by omega
  have bb : scope.toNat < 2 ^ 7 := by omega
  have bm : 0 < 2 ^ 2 := by omega
  have bf : 1 < 4 := by omega
  have e : encodeNat (.fence scope) = wordOf 83 0 0 scope.toNat 0 1 := show 0x40000053 + scope.toNat * 2097152 = _ by unfold wordOf; omega
  rw [encode, BitVec.toNat_ofNat, e, Nat.mod_eq_of_lt (wordOf_lt bM bd ba bb bm bf), decode53 (by rw [wordOf_major bM]), decodeMajor53]
  simp only [wordOf_div128, wordOf_div16384, wordOf_div16777216, wordOf_div2097152, wordOf_div268435456, bM, bd, ba, bb, bm, and_true, true_and]
  repeat (first | rw [if_pos (by first | omega | exact True.intro)] | rw [if_neg (by omega)])
  congr 2 <;> (apply BitVec.eq_of_toNat_eq; simp only [BitVec.toNat_ofNat]; omega)

theorem drainst : Statement .drainst := fun _ => by
  have bM : 83 < 128 := by omega
  have bd : 0 < 2 ^ 7 := by omega
  have ba : 0 < 2 ^ 7 := by omega
  have bb : 0 < 2 ^ 7 := by omega
  have bm : 1 < 2 ^ 2 := by omega
  have bf : 1 < 4 := by omega
  have e : encodeNat .drainst = wordOf 83 0 0 0 1 1 := show 0x50000053 = _ by unfold wordOf; omega
  rw [encode, BitVec.toNat_ofNat, e, Nat.mod_eq_of_lt (wordOf_lt bM bd ba bb bm bf), decode53 (by rw [wordOf_major bM]), decodeMajor53]
  simp only [wordOf_div128, wordOf_div16384, wordOf_div16777216, wordOf_div2097152, wordOf_div268435456, bM, bd, ba, bb, bm, and_true, true_and]
  repeat (first | rw [if_pos (by first | omega | exact True.intro)] | rw [if_neg (by omega)])

theorem sfrpop (d : BitVec 7) : Statement (.sfrpop d) := fun _ => by
  have h1 := d.isLt
  have bM : 83 < 128 := by omega
  have bd : d.toNat < 2 ^ 7 := by omega
  have ba : 0 < 2 ^ 7 := by omega
  have bb : 0 < 2 ^ 7 := by omega
  have bm : 2 < 2 ^ 2 := by omega
  have bf : 1 < 4 := by omega
  have e : encodeNat (.sfrpop d) = wordOf 83 d.toNat 0 0 2 1 := show 0x60000053 + d.toNat * 128 = _ by unfold wordOf; omega
  rw [encode, BitVec.toNat_ofNat, e, Nat.mod_eq_of_lt (wordOf_lt bM bd ba bb bm bf), decode53 (by rw [wordOf_major bM]), decodeMajor53]
  simp only [wordOf_div128, wordOf_div16384, wordOf_div16777216, wordOf_div2097152, wordOf_div268435456, bM, bd, ba, bb, bm, and_true, true_and]
  repeat (first | rw [if_pos (by first | omega | exact True.intro)] | rw [if_neg (by omega)])
  congr 2 <;> (apply BitVec.eq_of_toNat_eq; simp only [BitVec.toNat_ofNat]; omega)

theorem icunlock : Statement .icunlock := fun _ => by
  have bM : 83 < 128 := by omega
  have bd : 0 < 2 ^ 7 := by omega
  have ba : 0 < 2 ^ 7 := by omega
  have bb : 0 < 2 ^ 7 := by omega
  have bm : 3 < 2 ^ 2 := by omega
  have bf : 1 < 4 := by omega
  have e : encodeNat .icunlock = wordOf 83 0 0 0 3 1 := show 0x70000053 = _ by unfold wordOf; omega
  rw [encode, BitVec.toNat_ofNat, e, Nat.mod_eq_of_lt (wordOf_lt bM bd ba bb bm bf), decode53 (by rw [wordOf_major bM]), decodeMajor53]
  simp only [wordOf_div128, wordOf_div16384, wordOf_div16777216, wordOf_div2097152, wordOf_div268435456, bM, bd, ba, bb, bm, and_true, true_and]
  repeat (first | rw [if_pos (by first | omega | exact True.intro)] | rw [if_neg (by omega)])

theorem exit : Statement .exit := fun _ => by
  have bM : 83 < 128 := by omega
  have bd : 0 < 2 ^ 7 := by omega
  have ba : 0 < 2 ^ 7 := by omega
  have bb : 0 < 2 ^ 7 := by omega
  have bm : 0 < 2 ^ 2 := by omega
  have bf : 2 < 4 := by omega
  have e : encodeNat .exit = wordOf 83 0 0 0 0 2 := show 0x80000053 = _ by unfold wordOf; omega
  rw [encode, BitVec.toNat_ofNat, e, Nat.mod_eq_of_lt (wordOf_lt bM bd ba bb bm bf), decode53 (by rw [wordOf_major bM]), decodeMajor53]
  simp only [wordOf_div128, wordOf_div16384, wordOf_div16777216, wordOf_div2097152, wordOf_div268435456, bM, bd, ba, bb, bm, and_true, true_and]
  repeat (first | rw [if_pos (by first | omega | exact True.intro)] | rw [if_neg (by omega)])

theorem yield : Statement .yield := fun _ => by
  have bM : 83 < 128 := by omega
  have bd : 0 < 2 ^ 7 := by omega
  have ba : 0 < 2 ^ 7 := by omega
  have bb : 0 < 2 ^ 7 := by omega
  have bm : 1 < 2 ^ 2 := by omega
  have bf : 2 < 4 := by omega
  have e : encodeNat .yield = wordOf 83 0 0 0 1 2 := show 0x90000053 = _ by unfold wordOf; omega
  rw [encode, BitVec.toNat_ofNat, e, Nat.mod_eq_of_lt (wordOf_lt bM bd ba bb bm bf), decode53 (by rw [wordOf_major bM]), decodeMajor53]
  simp only [wordOf_div128, wordOf_div16384, wordOf_div16777216, wordOf_div2097152, wordOf_div268435456, bM, bd, ba, bb, bm, and_true, true_and]
  repeat (first | rw [if_pos (by first | omega | exact True.intro)] | rw [if_neg (by omega)])

theorem amoswap (d : BitVec 7) (a : BitVec 7) (b : BitVec 7) : Statement (.amoswap d a b) := fun _ => by
  have e : encodeNat (.amoswap d a b) = wordOf 84 d.toNat a.toNat b.toNat 0 0 := show 0x54 + d.toNat * 128 + a.toNat * 16384 + b.toNat * 2097152 = _ by unfold wordOf; omega
  rw [encode, BitVec.toNat_ofNat, e, Nat.mod_eq_of_lt (wordOf_lt (by decide) d.isLt a.isLt b.isLt (by decide) (by decide)), decode54 (wordOf_major (by decide)), decodeMajor54]
  simp [wordOf_mf, wordOf_d, wordOf_a, wordOf_b, d.isLt, a.isLt, b.isLt]

theorem amoadd (d : BitVec 7) (a : BitVec 7) (b : BitVec 7) : Statement (.amoadd d a b) := fun _ => by
  have e : encodeNat (.amoadd d a b) = wordOf 84 d.toNat a.toNat b.toNat 1 0 := show 0x10000054 + d.toNat * 128 + a.toNat * 16384 + b.toNat * 2097152 = _ by unfold wordOf; omega
  rw [encode, BitVec.toNat_ofNat, e, Nat.mod_eq_of_lt (wordOf_lt (by decide) d.isLt a.isLt b.isLt (by decide) (by decide)), decode54 (wordOf_major (by decide)), decodeMajor54]
  simp [wordOf_mf, wordOf_d, wordOf_a, wordOf_b, d.isLt, a.isLt, b.isLt]

theorem amoand (d : BitVec 7) (a : BitVec 7) (b : BitVec 7) : Statement (.amoand d a b) := fun _ => by
  have e : encodeNat (.amoand d a b) = wordOf 84 d.toNat a.toNat b.toNat 2 0 := show 0x20000054 + d.toNat * 128 + a.toNat * 16384 + b.toNat * 2097152 = _ by unfold wordOf; omega
  rw [encode, BitVec.toNat_ofNat, e, Nat.mod_eq_of_lt (wordOf_lt (by decide) d.isLt a.isLt b.isLt (by decide) (by decide)), decode54 (wordOf_major (by decide)), decodeMajor54]
  simp [wordOf_mf, wordOf_d, wordOf_a, wordOf_b, d.isLt, a.isLt, b.isLt]

theorem amoor (d : BitVec 7) (a : BitVec 7) (b : BitVec 7) : Statement (.amoor d a b) := fun _ => by
  have e : encodeNat (.amoor d a b) = wordOf 84 d.toNat a.toNat b.toNat 3 0 := show 0x30000054 + d.toNat * 128 + a.toNat * 16384 + b.toNat * 2097152 = _ by unfold wordOf; omega
  rw [encode, BitVec.toNat_ofNat, e, Nat.mod_eq_of_lt (wordOf_lt (by decide) d.isLt a.isLt b.isLt (by decide) (by decide)), decode54 (wordOf_major (by decide)), decodeMajor54]
  simp [wordOf_mf, wordOf_d, wordOf_a, wordOf_b, d.isLt, a.isLt, b.isLt]

theorem amoxor (d : BitVec 7) (a : BitVec 7) (b : BitVec 7) : Statement (.amoxor d a b) := fun _ => by
  have e : encodeNat (.amoxor d a b) = wordOf 84 d.toNat a.toNat b.toNat 0 1 := show 0x40000054 + d.toNat * 128 + a.toNat * 16384 + b.toNat * 2097152 = _ by unfold wordOf; omega
  rw [encode, BitVec.toNat_ofNat, e, Nat.mod_eq_of_lt (wordOf_lt (by decide) d.isLt a.isLt b.isLt (by decide) (by decide)), decode54 (wordOf_major (by decide)), decodeMajor54]
  simp [wordOf_mf, wordOf_d, wordOf_a, wordOf_b, d.isLt, a.isLt, b.isLt]

theorem amomin (d : BitVec 7) (a : BitVec 7) (b : BitVec 7) : Statement (.amomin d a b) := fun _ => by
  have e : encodeNat (.amomin d a b) = wordOf 84 d.toNat a.toNat b.toNat 1 1 := show 0x50000054 + d.toNat * 128 + a.toNat * 16384 + b.toNat * 2097152 = _ by unfold wordOf; omega
  rw [encode, BitVec.toNat_ofNat, e, Nat.mod_eq_of_lt (wordOf_lt (by decide) d.isLt a.isLt b.isLt (by decide) (by decide)), decode54 (wordOf_major (by decide)), decodeMajor54]
  simp [wordOf_mf, wordOf_d, wordOf_a, wordOf_b, d.isLt, a.isLt, b.isLt]

theorem amomax (d : BitVec 7) (a : BitVec 7) (b : BitVec 7) : Statement (.amomax d a b) := fun _ => by
  have e : encodeNat (.amomax d a b) = wordOf 84 d.toNat a.toNat b.toNat 2 1 := show 0x60000054 + d.toNat * 128 + a.toNat * 16384 + b.toNat * 2097152 = _ by unfold wordOf; omega
  rw [encode, BitVec.toNat_ofNat, e, Nat.mod_eq_of_lt (wordOf_lt (by decide) d.isLt a.isLt b.isLt (by decide) (by decide)), decode54 (wordOf_major (by decide)), decodeMajor54]
  simp [wordOf_mf, wordOf_d, wordOf_a, wordOf_b, d.isLt, a.isLt, b.isLt]

theorem amominn (d : BitVec 7) (a : BitVec 7) (b : BitVec 7) : Statement (.amominn d a b) := fun _ => by
  have e : encodeNat (.amominn d a b) = wordOf 84 d.toNat a.toNat b.toNat 3 1 := show 0x70000054 + d.toNat * 128 + a.toNat * 16384 + b.toNat * 2097152 = _ by unfold wordOf; omega
  rw [encode, BitVec.toNat_ofNat, e, Nat.mod_eq_of_lt (wordOf_lt (by decide) d.isLt a.isLt b.isLt (by decide) (by decide)), decode54 (wordOf_major (by decide)), decodeMajor54]
  simp [wordOf_mf, wordOf_d, wordOf_a, wordOf_b, d.isLt, a.isLt, b.isLt]

theorem amomaxn (d : BitVec 7) (a : BitVec 7) (b : BitVec 7) : Statement (.amomaxn d a b) := fun _ => by
  have e : encodeNat (.amomaxn d a b) = wordOf 84 d.toNat a.toNat b.toNat 0 2 := show 0x80000054 + d.toNat * 128 + a.toNat * 16384 + b.toNat * 2097152 = _ by unfold wordOf; omega
  rw [encode, BitVec.toNat_ofNat, e, Nat.mod_eq_of_lt (wordOf_lt (by decide) d.isLt a.isLt b.isLt (by decide) (by decide)), decode54 (wordOf_major (by decide)), decodeMajor54]
  simp [wordOf_mf, wordOf_d, wordOf_a, wordOf_b, d.isLt, a.isLt, b.isLt]

theorem amocas (d : BitVec 7) (a : BitVec 7) (b : BitVec 7) : Statement (.amocas d a b) := fun _ => by
  have e : encodeNat (.amocas d a b) = wordOf 84 d.toNat a.toNat b.toNat 1 2 := show 0x90000054 + d.toNat * 128 + a.toNat * 16384 + b.toNat * 2097152 = _ by unfold wordOf; omega
  rw [encode, BitVec.toNat_ofNat, e, Nat.mod_eq_of_lt (wordOf_lt (by decide) d.isLt a.isLt b.isLt (by decide) (by decide)), decode54 (wordOf_major (by decide)), decodeMajor54]
  simp [wordOf_mf, wordOf_d, wordOf_a, wordOf_b, d.isLt, a.isLt, b.isLt]

theorem flagrel (d : BitVec 7) (a : BitVec 7) (scope : BitVec 3) : Statement (.flagrel d a scope) := fun _ => by
  have h1 := d.isLt
  have h2 := a.isLt
  have h3 := scope.isLt
  have bM : 85 < 128 := by omega
  have bd : d.toNat < 2 ^ 7 := by omega
  have ba : a.toNat < 2 ^ 7 := by omega
  have bb : scope.toNat < 2 ^ 7 := by omega
  have bm : 0 < 2 ^ 2 := by omega
  have bf : 0 < 4 := by omega
  have e : encodeNat (.flagrel d a scope) = wordOf 85 d.toNat a.toNat scope.toNat 0 0 := show 0x55 + d.toNat * 128 + a.toNat * 16384 + scope.toNat * 2097152 = _ by unfold wordOf; omega
  rw [encode, BitVec.toNat_ofNat, e, Nat.mod_eq_of_lt (wordOf_lt bM bd ba bb bm bf), decode55 (by rw [wordOf_major bM]), decodeMajor55]
  simp only [wordOf_div128, wordOf_div16384, wordOf_div16777216, wordOf_div2097152, wordOf_div268435456, bM, bd, ba, bb, bm, and_true, true_and]
  repeat (first | rw [if_pos (by first | omega | exact True.intro)] | rw [if_neg (by omega)])
  congr 2 <;> (apply BitVec.eq_of_toNat_eq; simp only [BitVec.toNat_ofNat]; omega)

theorem flagacq (d : BitVec 7) (a : BitVec 7) (scope : BitVec 3) : Statement (.flagacq d a scope) := fun _ => by
  have h1 := d.isLt
  have h2 := a.isLt
  have h3 := scope.isLt
  have bM : 85 < 128 := by omega
  have bd : d.toNat < 2 ^ 7 := by omega
  have ba : a.toNat < 2 ^ 7 := by omega
  have bb : scope.toNat < 2 ^ 7 := by omega
  have bm : 1 < 2 ^ 2 := by omega
  have bf : 0 < 4 := by omega
  have e : encodeNat (.flagacq d a scope) = wordOf 85 d.toNat a.toNat scope.toNat 1 0 := show 0x10000055 + d.toNat * 128 + a.toNat * 16384 + scope.toNat * 2097152 = _ by unfold wordOf; omega
  rw [encode, BitVec.toNat_ofNat, e, Nat.mod_eq_of_lt (wordOf_lt bM bd ba bb bm bf), decode55 (by rw [wordOf_major bM]), decodeMajor55]
  simp only [wordOf_div128, wordOf_div16384, wordOf_div16777216, wordOf_div2097152, wordOf_div268435456, bM, bd, ba, bb, bm, and_true, true_and]
  repeat (first | rw [if_pos (by first | omega | exact True.intro)] | rw [if_neg (by omega)])
  congr 2 <;> (apply BitVec.eq_of_toNat_eq; simp only [BitVec.toNat_ofNat]; omega)

theorem signal (d : BitVec 7) (a : BitVec 7) (scope : BitVec 3) : Statement (.signal d a scope) := fun _ => by
  have h1 := d.isLt
  have h2 := a.isLt
  have h3 := scope.isLt
  have bM : 85 < 128 := by omega
  have bd : d.toNat < 2 ^ 7 := by omega
  have ba : a.toNat < 2 ^ 7 := by omega
  have bb : scope.toNat < 2 ^ 7 := by omega
  have bm : 2 < 2 ^ 2 := by omega
  have bf : 0 < 4 := by omega
  have e : encodeNat (.signal d a scope) = wordOf 85 d.toNat a.toNat scope.toNat 2 0 := show 0x20000055 + d.toNat * 128 + a.toNat * 16384 + scope.toNat * 2097152 = _ by unfold wordOf; omega
  rw [encode, BitVec.toNat_ofNat, e, Nat.mod_eq_of_lt (wordOf_lt bM bd ba bb bm bf), decode55 (by rw [wordOf_major bM]), decodeMajor55]
  simp only [wordOf_div128, wordOf_div16384, wordOf_div16777216, wordOf_div2097152, wordOf_div268435456, bM, bd, ba, bb, bm, and_true, true_and]
  repeat (first | rw [if_pos (by first | omega | exact True.intro)] | rw [if_neg (by omega)])
  congr 2 <;> (apply BitVec.eq_of_toNat_eq; simp only [BitVec.toNat_ofNat]; omega)

theorem bcpost (d : BitVec 7) (a : BitVec 7) (scope : BitVec 3) : Statement (.bcpost d a scope) := fun _ => by
  have h1 := d.isLt
  have h2 := a.isLt
  have h3 := scope.isLt
  have bM : 85 < 128 := by omega
  have bd : d.toNat < 2 ^ 7 := by omega
  have ba : a.toNat < 2 ^ 7 := by omega
  have bb : scope.toNat < 2 ^ 7 := by omega
  have bm : 3 < 2 ^ 2 := by omega
  have bf : 0 < 4 := by omega
  have e : encodeNat (.bcpost d a scope) = wordOf 85 d.toNat a.toNat scope.toNat 3 0 := show 0x30000055 + d.toNat * 128 + a.toNat * 16384 + scope.toNat * 2097152 = _ by unfold wordOf; omega
  rw [encode, BitVec.toNat_ofNat, e, Nat.mod_eq_of_lt (wordOf_lt bM bd ba bb bm bf), decode55 (by rw [wordOf_major bM]), decodeMajor55]
  simp only [wordOf_div128, wordOf_div16384, wordOf_div16777216, wordOf_div2097152, wordOf_div268435456, bM, bd, ba, bb, bm, and_true, true_and]
  repeat (first | rw [if_pos (by first | omega | exact True.intro)] | rw [if_neg (by omega)])
  congr 2 <;> (apply BitVec.eq_of_toNat_eq; simp only [BitVec.toNat_ofNat]; omega)

theorem bcarrive (d : BitVec 7) (a : BitVec 7) (scope : BitVec 3) : Statement (.bcarrive d a scope) := fun _ => by
  have h1 := d.isLt
  have h2 := a.isLt
  have h3 := scope.isLt
  have bM : 85 < 128 := by omega
  have bd : d.toNat < 2 ^ 7 := by omega
  have ba : a.toNat < 2 ^ 7 := by omega
  have bb : scope.toNat < 2 ^ 7 := by omega
  have bm : 0 < 2 ^ 2 := by omega
  have bf : 1 < 4 := by omega
  have e : encodeNat (.bcarrive d a scope) = wordOf 85 d.toNat a.toNat scope.toNat 0 1 := show 0x40000055 + d.toNat * 128 + a.toNat * 16384 + scope.toNat * 2097152 = _ by unfold wordOf; omega
  rw [encode, BitVec.toNat_ofNat, e, Nat.mod_eq_of_lt (wordOf_lt bM bd ba bb bm bf), decode55 (by rw [wordOf_major bM]), decodeMajor55]
  simp only [wordOf_div128, wordOf_div16384, wordOf_div16777216, wordOf_div2097152, wordOf_div268435456, bM, bd, ba, bb, bm, and_true, true_and]
  repeat (first | rw [if_pos (by first | omega | exact True.intro)] | rw [if_neg (by omega)])
  congr 2 <;> (apply BitVec.eq_of_toNat_eq; simp only [BitVec.toNat_ofNat]; omega)

theorem bcwait (d : BitVec 7) (a : BitVec 7) (scope : BitVec 3) : Statement (.bcwait d a scope) := fun _ => by
  have h1 := d.isLt
  have h2 := a.isLt
  have h3 := scope.isLt
  have bM : 85 < 128 := by omega
  have bd : d.toNat < 2 ^ 7 := by omega
  have ba : a.toNat < 2 ^ 7 := by omega
  have bb : scope.toNat < 2 ^ 7 := by omega
  have bm : 1 < 2 ^ 2 := by omega
  have bf : 1 < 4 := by omega
  have e : encodeNat (.bcwait d a scope) = wordOf 85 d.toNat a.toNat scope.toNat 1 1 := show 0x50000055 + d.toNat * 128 + a.toNat * 16384 + scope.toNat * 2097152 = _ by unfold wordOf; omega
  rw [encode, BitVec.toNat_ofNat, e, Nat.mod_eq_of_lt (wordOf_lt bM bd ba bb bm bf), decode55 (by rw [wordOf_major bM]), decodeMajor55]
  simp only [wordOf_div128, wordOf_div16384, wordOf_div16777216, wordOf_div2097152, wordOf_div268435456, bM, bd, ba, bb, bm, and_true, true_and]
  repeat (first | rw [if_pos (by first | omega | exact True.intro)] | rw [if_neg (by omega)])
  congr 2 <;> (apply BitVec.eq_of_toNat_eq; simp only [BitVec.toNat_ofNat]; omega)

theorem handoff (d : BitVec 7) (a : BitVec 7) (b : BitVec 7) : Statement (.handoff d a b) := fun _ => by
  have h1 := d.isLt
  have h2 := a.isLt
  have h3 := b.isLt
  have bM : 85 < 128 := by omega
  have bd : d.toNat < 2 ^ 7 := by omega
  have ba : a.toNat < 2 ^ 7 := by omega
  have bb : b.toNat < 2 ^ 7 := by omega
  have bm : 2 < 2 ^ 2 := by omega
  have bf : 1 < 4 := by omega
  have e : encodeNat (.handoff d a b) = wordOf 85 d.toNat a.toNat b.toNat 2 1 := show 0x60000055 + d.toNat * 128 + a.toNat * 16384 + b.toNat * 2097152 = _ by unfold wordOf; omega
  rw [encode, BitVec.toNat_ofNat, e, Nat.mod_eq_of_lt (wordOf_lt bM bd ba bb bm bf), decode55 (by rw [wordOf_major bM]), decodeMajor55]
  simp only [wordOf_div128, wordOf_div16384, wordOf_div16777216, wordOf_div2097152, wordOf_div268435456, bM, bd, ba, bb, bm, and_true, true_and]
  repeat (first | rw [if_pos (by first | omega | exact True.intro)] | rw [if_neg (by omega)])
  congr 2 <;> (apply BitVec.eq_of_toNat_eq; simp only [BitVec.toNat_ofNat]; omega)

theorem stron (d : BitVec 7) (a : BitVec 7) (b : BitVec 7) : Statement (.stron d a b) := fun _ => by
  have h1 := d.isLt
  have h2 := a.isLt
  have h3 := b.isLt
  have bM : 86 < 128 := by omega
  have bd : d.toNat < 2 ^ 7 := by omega
  have ba : a.toNat < 2 ^ 7 := by omega
  have bb : b.toNat < 2 ^ 7 := by omega
  have bm : 0 < 2 ^ 2 := by omega
  have bf : 0 < 4 := by omega
  have e : encodeNat (.stron d a b) = wordOf 86 d.toNat a.toNat b.toNat 0 0 := show 0x56 + d.toNat * 128 + a.toNat * 16384 + b.toNat * 2097152 = _ by unfold wordOf; omega
  rw [encode, BitVec.toNat_ofNat, e, Nat.mod_eq_of_lt (wordOf_lt bM bd ba bb bm bf), decode56 (by rw [wordOf_major bM]), decodeMajor56]
  simp only [wordOf_div128, wordOf_div16384, wordOf_div2097152, wordOf_div268435456, bM, bd, ba, bb, bm, and_true, true_and]
  repeat (first | rw [if_pos (by first | omega | exact True.intro)] | rw [if_neg (by omega)])
  congr 2 <;> (apply BitVec.eq_of_toNat_eq; simp only [BitVec.toNat_ofNat]; omega)

theorem stroff (b : BitVec 7) : Statement (.stroff b) := fun _ => by
  have h1 := b.isLt
  have bM : 86 < 128 := by omega
  have bd : 0 < 2 ^ 7 := by omega
  have ba : 0 < 2 ^ 7 := by omega
  have bb : b.toNat < 2 ^ 7 := by omega
  have bm : 1 < 2 ^ 2 := by omega
  have bf : 0 < 4 := by omega
  have e : encodeNat (.stroff b) = wordOf 86 0 0 b.toNat 1 0 := show 0x10000056 + b.toNat * 2097152 = _ by unfold wordOf; omega
  rw [encode, BitVec.toNat_ofNat, e, Nat.mod_eq_of_lt (wordOf_lt bM bd ba bb bm bf), decode56 (by rw [wordOf_major bM]), decodeMajor56]
  simp only [wordOf_div128, wordOf_div16384, wordOf_div2097152, wordOf_div268435456, bM, bd, ba, bb, bm, and_true, true_and]
  repeat (first | rw [if_pos (by first | omega | exact True.intro)] | rw [if_neg (by omega)])
  congr 2 <;> (apply BitVec.eq_of_toNat_eq; simp only [BitVec.toNat_ofNat]; omega)

theorem xfer (d : BitVec 7) (a : BitVec 7) (b : BitVec 7) : Statement (.xfer d a b) := fun _ => by
  have h1 := d.isLt
  have h2 := a.isLt
  have h3 := b.isLt
  have bM : 86 < 128 := by omega
  have bd : d.toNat < 2 ^ 7 := by omega
  have ba : a.toNat < 2 ^ 7 := by omega
  have bb : b.toNat < 2 ^ 7 := by omega
  have bm : 2 < 2 ^ 2 := by omega
  have bf : 0 < 4 := by omega
  have e : encodeNat (.xfer d a b) = wordOf 86 d.toNat a.toNat b.toNat 2 0 := show 0x20000056 + d.toNat * 128 + a.toNat * 16384 + b.toNat * 2097152 = _ by unfold wordOf; omega
  rw [encode, BitVec.toNat_ofNat, e, Nat.mod_eq_of_lt (wordOf_lt bM bd ba bb bm bf), decode56 (by rw [wordOf_major bM]), decodeMajor56]
  simp only [wordOf_div128, wordOf_div16384, wordOf_div2097152, wordOf_div268435456, bM, bd, ba, bb, bm, and_true, true_and]
  repeat (first | rw [if_pos (by first | omega | exact True.intro)] | rw [if_neg (by omega)])
  congr 2 <;> (apply BitVec.eq_of_toNat_eq; simp only [BitVec.toNat_ofNat]; omega)

theorem xferv (d : BitVec 7) (a : BitVec 7) (b : BitVec 7) : Statement (.xferv d a b) := fun _ => by
  have h1 := d.isLt
  have h2 := a.isLt
  have h3 := b.isLt
  have bM : 86 < 128 := by omega
  have bd : d.toNat < 2 ^ 7 := by omega
  have ba : a.toNat < 2 ^ 7 := by omega
  have bb : b.toNat < 2 ^ 7 := by omega
  have bm : 3 < 2 ^ 2 := by omega
  have bf : 0 < 4 := by omega
  have e : encodeNat (.xferv d a b) = wordOf 86 d.toNat a.toNat b.toNat 3 0 := show 0x30000056 + d.toNat * 128 + a.toNat * 16384 + b.toNat * 2097152 = _ by unfold wordOf; omega
  rw [encode, BitVec.toNat_ofNat, e, Nat.mod_eq_of_lt (wordOf_lt bM bd ba bb bm bf), decode56 (by rw [wordOf_major bM]), decodeMajor56]
  simp only [wordOf_div128, wordOf_div16384, wordOf_div2097152, wordOf_div268435456, bM, bd, ba, bb, bm, and_true, true_and]
  repeat (first | rw [if_pos (by first | omega | exact True.intro)] | rw [if_neg (by omega)])
  congr 2 <;> (apply BitVec.eq_of_toNat_eq; simp only [BitVec.toNat_ofNat]; omega)

theorem xfervs (d : BitVec 7) (a : BitVec 7) (b : BitVec 7) : Statement (.xfervs d a b) := fun _ => by
  have h1 := d.isLt
  have h2 := a.isLt
  have h3 := b.isLt
  have bM : 86 < 128 := by omega
  have bd : d.toNat < 2 ^ 7 := by omega
  have ba : a.toNat < 2 ^ 7 := by omega
  have bb : b.toNat < 2 ^ 7 := by omega
  have bm : 0 < 2 ^ 2 := by omega
  have bf : 1 < 4 := by omega
  have e : encodeNat (.xfervs d a b) = wordOf 86 d.toNat a.toNat b.toNat 0 1 := show 0x40000056 + d.toNat * 128 + a.toNat * 16384 + b.toNat * 2097152 = _ by unfold wordOf; omega
  rw [encode, BitVec.toNat_ofNat, e, Nat.mod_eq_of_lt (wordOf_lt bM bd ba bb bm bf), decode56 (by rw [wordOf_major bM]), decodeMajor56]
  simp only [wordOf_div128, wordOf_div16384, wordOf_div2097152, wordOf_div268435456, bM, bd, ba, bb, bm, and_true, true_and]
  repeat (first | rw [if_pos (by first | omega | exact True.intro)] | rw [if_neg (by omega)])
  congr 2 <;> (apply BitVec.eq_of_toNat_eq; simp only [BitVec.toNat_ofNat]; omega)

theorem xferc (d : BitVec 7) (a : BitVec 7) (b : BitVec 7) : Statement (.xferc d a b) := fun _ => by
  have h1 := d.isLt
  have h2 := a.isLt
  have h3 := b.isLt
  have bM : 86 < 128 := by omega
  have bd : d.toNat < 2 ^ 7 := by omega
  have ba : a.toNat < 2 ^ 7 := by omega
  have bb : b.toNat < 2 ^ 7 := by omega
  have bm : 1 < 2 ^ 2 := by omega
  have bf : 1 < 4 := by omega
  have e : encodeNat (.xferc d a b) = wordOf 86 d.toNat a.toNat b.toNat 1 1 := show 0x50000056 + d.toNat * 128 + a.toNat * 16384 + b.toNat * 2097152 = _ by unfold wordOf; omega
  rw [encode, BitVec.toNat_ofNat, e, Nat.mod_eq_of_lt (wordOf_lt bM bd ba bb bm bf), decode56 (by rw [wordOf_major bM]), decodeMajor56]
  simp only [wordOf_div128, wordOf_div16384, wordOf_div2097152, wordOf_div268435456, bM, bd, ba, bb, bm, and_true, true_and]
  repeat (first | rw [if_pos (by first | omega | exact True.intro)] | rw [if_neg (by omega)])
  congr 2 <;> (apply BitVec.eq_of_toNat_eq; simp only [BitVec.toNat_ofNat]; omega)

theorem xferq (d : BitVec 7) (a : BitVec 7) (b : BitVec 7) : Statement (.xferq d a b) := fun _ => by
  have h1 := d.isLt
  have h2 := a.isLt
  have h3 := b.isLt
  have bM : 86 < 128 := by omega
  have bd : d.toNat < 2 ^ 7 := by omega
  have ba : a.toNat < 2 ^ 7 := by omega
  have bb : b.toNat < 2 ^ 7 := by omega
  have bm : 2 < 2 ^ 2 := by omega
  have bf : 1 < 4 := by omega
  have e : encodeNat (.xferq d a b) = wordOf 86 d.toNat a.toNat b.toNat 2 1 := show 0x60000056 + d.toNat * 128 + a.toNat * 16384 + b.toNat * 2097152 = _ by unfold wordOf; omega
  rw [encode, BitVec.toNat_ofNat, e, Nat.mod_eq_of_lt (wordOf_lt bM bd ba bb bm bf), decode56 (by rw [wordOf_major bM]), decodeMajor56]
  simp only [wordOf_div128, wordOf_div16384, wordOf_div2097152, wordOf_div268435456, bM, bd, ba, bb, bm, and_true, true_and]
  repeat (first | rw [if_pos (by first | omega | exact True.intro)] | rw [if_neg (by omega)])
  congr 2 <;> (apply BitVec.eq_of_toNat_eq; simp only [BitVec.toNat_ofNat]; omega)

theorem xwait (d : BitVec 7) (a : BitVec 7) : Statement (.xwait d a) := fun _ => by
  have h1 := d.isLt
  have h2 := a.isLt
  have bM : 86 < 128 := by omega
  have bd : d.toNat < 2 ^ 7 := by omega
  have ba : a.toNat < 2 ^ 7 := by omega
  have bb : 0 < 2 ^ 7 := by omega
  have bm : 3 < 2 ^ 2 := by omega
  have bf : 1 < 4 := by omega
  have e : encodeNat (.xwait d a) = wordOf 86 d.toNat a.toNat 0 3 1 := show 0x70000056 + d.toNat * 128 + a.toNat * 16384 = _ by unfold wordOf; omega
  rw [encode, BitVec.toNat_ofNat, e, Nat.mod_eq_of_lt (wordOf_lt bM bd ba bb bm bf), decode56 (by rw [wordOf_major bM]), decodeMajor56]
  simp only [wordOf_div128, wordOf_div16384, wordOf_div2097152, wordOf_div268435456, bM, bd, ba, bb, bm, and_true, true_and]
  repeat (first | rw [if_pos (by first | omega | exact True.intro)] | rw [if_neg (by omega)])
  congr 2 <;> (apply BitVec.eq_of_toNat_eq; simp only [BitVec.toNat_ofNat]; omega)

theorem xpoll (d : BitVec 7) (a : BitVec 7) : Statement (.xpoll d a) := fun _ => by
  have h1 := d.isLt
  have h2 := a.isLt
  have bM : 86 < 128 := by omega
  have bd : d.toNat < 2 ^ 7 := by omega
  have ba : a.toNat < 2 ^ 7 := by omega
  have bb : 0 < 2 ^ 7 := by omega
  have bm : 0 < 2 ^ 2 := by omega
  have bf : 2 < 4 := by omega
  have e : encodeNat (.xpoll d a) = wordOf 86 d.toNat a.toNat 0 0 2 := show 0x80000056 + d.toNat * 128 + a.toNat * 16384 = _ by unfold wordOf; omega
  rw [encode, BitVec.toNat_ofNat, e, Nat.mod_eq_of_lt (wordOf_lt bM bd ba bb bm bf), decode56 (by rw [wordOf_major bM]), decodeMajor56]
  simp only [wordOf_div128, wordOf_div16384, wordOf_div2097152, wordOf_div268435456, bM, bd, ba, bb, bm, and_true, true_and]
  repeat (first | rw [if_pos (by first | omega | exact True.intro)] | rw [if_neg (by omega)])
  congr 2 <;> (apply BitVec.eq_of_toNat_eq; simp only [BitVec.toNat_ofNat]; omega)

theorem xtier (a : BitVec 7) (b : BitVec 7) : Statement (.xtier a b) := fun _ => by
  have h1 := a.isLt
  have h2 := b.isLt
  have bM : 86 < 128 := by omega
  have bd : 0 < 2 ^ 7 := by omega
  have ba : a.toNat < 2 ^ 7 := by omega
  have bb : b.toNat < 2 ^ 7 := by omega
  have bm : 1 < 2 ^ 2 := by omega
  have bf : 2 < 4 := by omega
  have e : encodeNat (.xtier a b) = wordOf 86 0 a.toNat b.toNat 1 2 := show 0x90000056 + a.toNat * 16384 + b.toNat * 2097152 = _ by unfold wordOf; omega
  rw [encode, BitVec.toNat_ofNat, e, Nat.mod_eq_of_lt (wordOf_lt bM bd ba bb bm bf), decode56 (by rw [wordOf_major bM]), decodeMajor56]
  simp only [wordOf_div128, wordOf_div16384, wordOf_div2097152, wordOf_div268435456, bM, bd, ba, bb, bm, and_true, true_and]
  repeat (first | rw [if_pos (by first | omega | exact True.intro)] | rw [if_neg (by omega)])
  congr 2 <;> (apply BitVec.eq_of_toNat_eq; simp only [BitVec.toNat_ofNat]; omega)

theorem mlds (a : BitVec 7) (h : BitVec 4) (n : BitVec 7) : Statement (.mlds a h n) := fun _ => by
  have h1 := a.isLt
  have h2 := h.isLt
  have h3 := n.isLt
  have bM : 88 < 128 := by omega
  have bd : 0 < 2 ^ 7 := by omega
  have ba : a.toNat < 2 ^ 7 := by omega
  have bb : n.toNat < 2 ^ 7 := by omega
  have bm : (h.toNat % 4) < 2 ^ 2 := by omega
  have bf : (h.toNat / 4) < 4 := by omega
  have e : encodeNat (.mlds a h n) = wordOf 88 0 a.toNat n.toNat (h.toNat % 4) (h.toNat / 4) := show 0x58 + a.toNat * 16384 + h.toNat * 268435456 + n.toNat * 2097152 = _ by unfold wordOf; omega
  rw [encode, BitVec.toNat_ofNat, e, Nat.mod_eq_of_lt (wordOf_lt bM bd ba bb bm bf), decode58 (by rw [wordOf_major bM]), decodeMajor58]
  simp only [wordOf_div1024, wordOf_div128, wordOf_div16384, wordOf_div2097152, wordOf_div268435456, bM, bd, ba, bb, bm, and_true, true_and]
  repeat (first | rw [if_pos (by first | omega | exact True.intro)] | rw [if_neg (by omega)])
  congr 2 <;> (apply BitVec.eq_of_toNat_eq; simp only [BitVec.toNat_ofNat]; omega)

theorem mswap : Statement .mswap := fun _ => by
  have bM : 88 < 128 := by omega
  have bd : 8 < 2 ^ 7 := by omega
  have ba : 0 < 2 ^ 7 := by omega
  have bb : 0 < 2 ^ 7 := by omega
  have bm : 0 < 2 ^ 2 := by omega
  have bf : 0 < 4 := by omega
  have e : encodeNat .mswap = wordOf 88 8 0 0 0 0 := show 0x458 = _ by unfold wordOf; omega
  rw [encode, BitVec.toNat_ofNat, e, Nat.mod_eq_of_lt (wordOf_lt bM bd ba bb bm bf), decode58 (by rw [wordOf_major bM]), decodeMajor58]
  simp only [wordOf_div1024, wordOf_div128, wordOf_div16384, wordOf_div2097152, wordOf_div268435456, bM, bd, ba, bb, bm, and_true, true_and]
  repeat (first | rw [if_pos (by first | omega | exact True.intro)] | rw [if_neg (by omega)])

theorem mma (t : BitVec 3) (a : BitVec 7) (h : BitVec 4) (n : BitVec 7) : Statement (.mma t a h n) := fun _ => by
  have h1 := t.isLt
  have h2 := a.isLt
  have h3 := h.isLt
  have h4 := n.isLt
  have bM : 88 < 128 := by omega
  have bd : (16 + t.toNat) < 2 ^ 7 := by omega
  have ba : a.toNat < 2 ^ 7 := by omega
  have bb : n.toNat < 2 ^ 7 := by omega
  have bm : (h.toNat % 4) < 2 ^ 2 := by omega
  have bf : (h.toNat / 4) < 4 := by omega
  have e : encodeNat (.mma t a h n) = wordOf 88 (16 + t.toNat) a.toNat n.toNat (h.toNat % 4) (h.toNat / 4) := show 0x858 + t.toNat * 128 + a.toNat * 16384 + h.toNat * 268435456 + n.toNat * 2097152 = _ by unfold wordOf; omega
  rw [encode, BitVec.toNat_ofNat, e, Nat.mod_eq_of_lt (wordOf_lt bM bd ba bb bm bf), decode58 (by rw [wordOf_major bM]), decodeMajor58]
  simp only [wordOf_div1024, wordOf_div128, wordOf_div16384, wordOf_div2097152, wordOf_div268435456, bM, bd, ba, bb, bm, and_true, true_and]
  repeat (first | rw [if_pos (by first | omega | exact True.intro)] | rw [if_neg (by omega)])
  congr 2 <;> (apply BitVec.eq_of_toNat_eq; simp only [BitVec.toNat_ofNat]; omega)

theorem mmaq (t : BitVec 3) (a : BitVec 7) (h : BitVec 4) (n : BitVec 7) : Statement (.mmaq t a h n) := fun _ => by
  have h1 := t.isLt
  have h2 := a.isLt
  have h3 := h.isLt
  have h4 := n.isLt
  have bM : 88 < 128 := by omega
  have bd : (24 + t.toNat) < 2 ^ 7 := by omega
  have ba : a.toNat < 2 ^ 7 := by omega
  have bb : n.toNat < 2 ^ 7 := by omega
  have bm : (h.toNat % 4) < 2 ^ 2 := by omega
  have bf : (h.toNat / 4) < 4 := by omega
  have e : encodeNat (.mmaq t a h n) = wordOf 88 (24 + t.toNat) a.toNat n.toNat (h.toNat % 4) (h.toNat / 4) := show 0xc58 + t.toNat * 128 + a.toNat * 16384 + h.toNat * 268435456 + n.toNat * 2097152 = _ by unfold wordOf; omega
  rw [encode, BitVec.toNat_ofNat, e, Nat.mod_eq_of_lt (wordOf_lt bM bd ba bb bm bf), decode58 (by rw [wordOf_major bM]), decodeMajor58]
  simp only [wordOf_div1024, wordOf_div128, wordOf_div16384, wordOf_div2097152, wordOf_div268435456, bM, bd, ba, bb, bm, and_true, true_and]
  repeat (first | rw [if_pos (by first | omega | exact True.intro)] | rw [if_neg (by omega)])
  congr 2 <;> (apply BitVec.eq_of_toNat_eq; simp only [BitVec.toNat_ofNat]; omega)

theorem mzero (t : BitVec 3) (h : BitVec 4) : Statement (.mzero t h) := fun _ => by
  have h1 := t.isLt
  have h2 := h.isLt
  have bM : 88 < 128 := by omega
  have bd : (32 + t.toNat) < 2 ^ 7 := by omega
  have ba : 0 < 2 ^ 7 := by omega
  have bb : 0 < 2 ^ 7 := by omega
  have bm : (h.toNat % 4) < 2 ^ 2 := by omega
  have bf : (h.toNat / 4) < 4 := by omega
  have e : encodeNat (.mzero t h) = wordOf 88 (32 + t.toNat) 0 0 (h.toNat % 4) (h.toNat / 4) := show 0x1058 + t.toNat * 128 + h.toNat * 268435456 = _ by unfold wordOf; omega
  rw [encode, BitVec.toNat_ofNat, e, Nat.mod_eq_of_lt (wordOf_lt bM bd ba bb bm bf), decode58 (by rw [wordOf_major bM]), decodeMajor58]
  simp only [wordOf_div1024, wordOf_div128, wordOf_div16384, wordOf_div2097152, wordOf_div268435456, bM, bd, ba, bb, bm, and_true, true_and]
  repeat (first | rw [if_pos (by first | omega | exact True.intro)] | rw [if_neg (by omega)])
  congr 2 <;> (apply BitVec.eq_of_toNat_eq; simp only [BitVec.toNat_ofNat]; omega)

theorem mldacc (t : BitVec 3) (a : BitVec 7) (h : BitVec 4) (n : BitVec 7) : Statement (.mldacc t a h n) := fun _ => by
  have h1 := t.isLt
  have h2 := a.isLt
  have h3 := h.isLt
  have h4 := n.isLt
  have bM : 88 < 128 := by omega
  have bd : (40 + t.toNat) < 2 ^ 7 := by omega
  have ba : a.toNat < 2 ^ 7 := by omega
  have bb : n.toNat < 2 ^ 7 := by omega
  have bm : (h.toNat % 4) < 2 ^ 2 := by omega
  have bf : (h.toNat / 4) < 4 := by omega
  have e : encodeNat (.mldacc t a h n) = wordOf 88 (40 + t.toNat) a.toNat n.toNat (h.toNat % 4) (h.toNat / 4) := show 0x1458 + t.toNat * 128 + a.toNat * 16384 + h.toNat * 268435456 + n.toNat * 2097152 = _ by unfold wordOf; omega
  rw [encode, BitVec.toNat_ofNat, e, Nat.mod_eq_of_lt (wordOf_lt bM bd ba bb bm bf), decode58 (by rw [wordOf_major bM]), decodeMajor58]
  simp only [wordOf_div1024, wordOf_div128, wordOf_div16384, wordOf_div2097152, wordOf_div268435456, bM, bd, ba, bb, bm, and_true, true_and]
  repeat (first | rw [if_pos (by first | omega | exact True.intro)] | rw [if_neg (by omega)])
  congr 2 <;> (apply BitVec.eq_of_toNat_eq; simp only [BitVec.toNat_ofNat]; omega)

theorem mmova (t : BitVec 3) (a : BitVec 7) (h : BitVec 4) (n : BitVec 7) : Statement (.mmova t a h n) := fun _ => by
  have h1 := t.isLt
  have h2 := a.isLt
  have h3 := h.isLt
  have h4 := n.isLt
  have bM : 88 < 128 := by omega
  have bd : (48 + t.toNat) < 2 ^ 7 := by omega
  have ba : a.toNat < 2 ^ 7 := by omega
  have bb : n.toNat < 2 ^ 7 := by omega
  have bm : (h.toNat % 4) < 2 ^ 2 := by omega
  have bf : (h.toNat / 4) < 4 := by omega
  have e : encodeNat (.mmova t a h n) = wordOf 88 (48 + t.toNat) a.toNat n.toNat (h.toNat % 4) (h.toNat / 4) := show 0x1858 + t.toNat * 128 + a.toNat * 16384 + h.toNat * 268435456 + n.toNat * 2097152 = _ by unfold wordOf; omega
  rw [encode, BitVec.toNat_ofNat, e, Nat.mod_eq_of_lt (wordOf_lt bM bd ba bb bm bf), decode58 (by rw [wordOf_major bM]), decodeMajor58]
  simp only [wordOf_div1024, wordOf_div128, wordOf_div16384, wordOf_div2097152, wordOf_div268435456, bM, bd, ba, bb, bm, and_true, true_and]
  repeat (first | rw [if_pos (by first | omega | exact True.intro)] | rw [if_neg (by omega)])
  congr 2 <;> (apply BitVec.eq_of_toNat_eq; simp only [BitVec.toNat_ofNat]; omega)

theorem mdrain (t : BitVec 3) (a : BitVec 7) (h : BitVec 4) (n : BitVec 7) : Statement (.mdrain t a h n) := fun _ => by
  have h1 := t.isLt
  have h2 := a.isLt
  have h3 := h.isLt
  have h4 := n.isLt
  have bM : 88 < 128 := by omega
  have bd : (56 + t.toNat) < 2 ^ 7 := by omega
  have ba : a.toNat < 2 ^ 7 := by omega
  have bb : n.toNat < 2 ^ 7 := by omega
  have bm : (h.toNat % 4) < 2 ^ 2 := by omega
  have bf : (h.toNat / 4) < 4 := by omega
  have e : encodeNat (.mdrain t a h n) = wordOf 88 (56 + t.toNat) a.toNat n.toNat (h.toNat % 4) (h.toNat / 4) := show 0x1c58 + t.toNat * 128 + a.toNat * 16384 + h.toNat * 268435456 + n.toNat * 2097152 = _ by unfold wordOf; omega
  rw [encode, BitVec.toNat_ofNat, e, Nat.mod_eq_of_lt (wordOf_lt bM bd ba bb bm bf), decode58 (by rw [wordOf_major bM]), decodeMajor58]
  simp only [wordOf_div1024, wordOf_div128, wordOf_div16384, wordOf_div2097152, wordOf_div268435456, bM, bd, ba, bb, bm, and_true, true_and]
  repeat (first | rw [if_pos (by first | omega | exact True.intro)] | rw [if_neg (by omega)])
  congr 2 <;> (apply BitVec.eq_of_toNat_eq; simp only [BitVec.toNat_ofNat]; omega)

theorem msoft (t : BitVec 3) (a : BitVec 7) (h : BitVec 4) (n : BitVec 7) : Statement (.msoft t a h n) := fun _ => by
  have h1 := t.isLt
  have h2 := a.isLt
  have h3 := h.isLt
  have h4 := n.isLt
  have bM : 88 < 128 := by omega
  have bd : (64 + t.toNat) < 2 ^ 7 := by omega
  have ba : a.toNat < 2 ^ 7 := by omega
  have bb : n.toNat < 2 ^ 7 := by omega
  have bm : (h.toNat % 4) < 2 ^ 2 := by omega
  have bf : (h.toNat / 4) < 4 := by omega
  have e : encodeNat (.msoft t a h n) = wordOf 88 (64 + t.toNat) a.toNat n.toNat (h.toNat % 4) (h.toNat / 4) := show 0x2058 + t.toNat * 128 + a.toNat * 16384 + h.toNat * 268435456 + n.toNat * 2097152 = _ by unfold wordOf; omega
  rw [encode, BitVec.toNat_ofNat, e, Nat.mod_eq_of_lt (wordOf_lt bM bd ba bb bm bf), decode58 (by rw [wordOf_major bM]), decodeMajor58]
  simp only [wordOf_div1024, wordOf_div128, wordOf_div16384, wordOf_div2097152, wordOf_div268435456, bM, bd, ba, bb, bm, and_true, true_and]
  repeat (first | rw [if_pos (by first | omega | exact True.intro)] | rw [if_neg (by omega)])
  congr 2 <;> (apply BitVec.eq_of_toNat_eq; simp only [BitVec.toNat_ofNat]; omega)

theorem mdrainx (t : BitVec 3) (a : BitVec 7) (h : BitVec 4) (n : BitVec 7) : Statement (.mdrainx t a h n) := fun _ => by
  have h1 := t.isLt
  have h2 := a.isLt
  have h3 := h.isLt
  have h4 := n.isLt
  have bM : 88 < 128 := by omega
  have bd : (72 + t.toNat) < 2 ^ 7 := by omega
  have ba : a.toNat < 2 ^ 7 := by omega
  have bb : n.toNat < 2 ^ 7 := by omega
  have bm : (h.toNat % 4) < 2 ^ 2 := by omega
  have bf : (h.toNat / 4) < 4 := by omega
  have e : encodeNat (.mdrainx t a h n) = wordOf 88 (72 + t.toNat) a.toNat n.toNat (h.toNat % 4) (h.toNat / 4) := show 0x2458 + t.toNat * 128 + a.toNat * 16384 + h.toNat * 268435456 + n.toNat * 2097152 = _ by unfold wordOf; omega
  rw [encode, BitVec.toNat_ofNat, e, Nat.mod_eq_of_lt (wordOf_lt bM bd ba bb bm bf), decode58 (by rw [wordOf_major bM]), decodeMajor58]
  simp only [wordOf_div1024, wordOf_div128, wordOf_div16384, wordOf_div2097152, wordOf_div268435456, bM, bd, ba, bb, bm, and_true, true_and]
  repeat (first | rw [if_pos (by first | omega | exact True.intro)] | rw [if_neg (by omega)])
  congr 2 <;> (apply BitVec.eq_of_toNat_eq; simp only [BitVec.toNat_ofNat]; omega)

theorem mlu (t : BitVec 3) (a : BitVec 7) (n : BitVec 7) : Statement (.mlu t a n) := fun _ => by
  have h1 := t.isLt
  have h2 := a.isLt
  have h3 := n.isLt
  have bM : 89 < 128 := by omega
  have bd : t.toNat < 2 ^ 7 := by omega
  have ba : a.toNat < 2 ^ 7 := by omega
  have bb : n.toNat < 2 ^ 7 := by omega
  have bm : 0 < 2 ^ 2 := by omega
  have bf : 0 < 4 := by omega
  have e : encodeNat (.mlu t a n) = wordOf 89 t.toNat a.toNat n.toNat 0 0 := show 0x59 + t.toNat * 128 + a.toNat * 16384 + n.toNat * 2097152 = _ by unfold wordOf; omega
  rw [encode, BitVec.toNat_ofNat, e, Nat.mod_eq_of_lt (wordOf_lt bM bd ba bb bm bf), decode59 (by rw [wordOf_major bM]), decodeMajor59]
  simp only [wordOf_div1024, wordOf_div128, wordOf_div16384, wordOf_div2097152, wordOf_div268435456, wordOf_div32768, bM, bd, ba, bb, bm, and_true, true_and]
  repeat (first | rw [if_pos (by first | omega | exact True.intro)] | rw [if_neg (by omega)])
  congr 2 <;> (apply BitVec.eq_of_toNat_eq; simp only [BitVec.toNat_ofNat]; omega)

theorem mchol (t : BitVec 3) (n : BitVec 7) : Statement (.mchol t n) := fun _ => by
  have h1 := t.isLt
  have h2 := n.isLt
  have bM : 89 < 128 := by omega
  have bd : (8 + t.toNat) < 2 ^ 7 := by omega
  have ba : 0 < 2 ^ 7 := by omega
  have bb : n.toNat < 2 ^ 7 := by omega
  have bm : 0 < 2 ^ 2 := by omega
  have bf : 0 < 4 := by omega
  have e : encodeNat (.mchol t n) = wordOf 89 (8 + t.toNat) 0 n.toNat 0 0 := show 0x459 + t.toNat * 128 + n.toNat * 2097152 = _ by unfold wordOf; omega
  rw [encode, BitVec.toNat_ofNat, e, Nat.mod_eq_of_lt (wordOf_lt bM bd ba bb bm bf), decode59 (by rw [wordOf_major bM]), decodeMajor59]
  simp only [wordOf_div1024, wordOf_div128, wordOf_div16384, wordOf_div2097152, wordOf_div268435456, wordOf_div32768, bM, bd, ba, bb, bm, and_true, true_and]
  repeat (first | rw [if_pos (by first | omega | exact True.intro)] | rw [if_neg (by omega)])
  congr 2 <;> (apply BitVec.eq_of_toNat_eq; simp only [BitVec.toNat_ofNat]; omega)

theorem mqr (t : BitVec 3) (a : BitVec 7) (n : BitVec 7) : Statement (.mqr t a n) := fun _ => by
  have h1 := t.isLt
  have h2 := a.isLt
  have h3 := n.isLt
  have bM : 89 < 128 := by omega
  have bd : (16 + t.toNat) < 2 ^ 7 := by omega
  have ba : a.toNat < 2 ^ 7 := by omega
  have bb : n.toNat < 2 ^ 7 := by omega
  have bm : 0 < 2 ^ 2 := by omega
  have bf : 0 < 4 := by omega
  have e : encodeNat (.mqr t a n) = wordOf 89 (16 + t.toNat) a.toNat n.toNat 0 0 := show 0x859 + t.toNat * 128 + a.toNat * 16384 + n.toNat * 2097152 = _ by unfold wordOf; omega
  rw [encode, BitVec.toNat_ofNat, e, Nat.mod_eq_of_lt (wordOf_lt bM bd ba bb bm bf), decode59 (by rw [wordOf_major bM]), decodeMajor59]
  simp only [wordOf_div1024, wordOf_div128, wordOf_div16384, wordOf_div2097152, wordOf_div268435456, wordOf_div32768, bM, bd, ba, bb, bm, and_true, true_and]
  repeat (first | rw [if_pos (by first | omega | exact True.intro)] | rw [if_neg (by omega)])
  congr 2 <;> (apply BitVec.eq_of_toNat_eq; simp only [BitVec.toNat_ofNat]; omega)

theorem mtrsml (t : BitVec 3) (h : BitVec 4) (n : BitVec 7) (unit : BitVec 1) : Statement (.mtrsml t h n unit) := fun _ => by
  have h1 := t.isLt
  have h2 := h.isLt
  have h3 := n.isLt
  have h4 := unit.isLt
  have bM : 89 < 128 := by omega
  have bd : (24 + t.toNat) < 2 ^ 7 := by omega
  have ba : unit.toNat < 2 ^ 7 := by omega
  have bb : n.toNat < 2 ^ 7 := by omega
  have bm : (h.toNat % 4) < 2 ^ 2 := by omega
  have bf : (h.toNat / 4) < 4 := by omega
  have e : encodeNat (.mtrsml t h n unit) = wordOf 89 (24 + t.toNat) unit.toNat n.toNat (h.toNat % 4) (h.toNat / 4) := show 0xc59 + t.toNat * 128 + h.toNat * 268435456 + n.toNat * 2097152 + unit.toNat * 16384 = _ by unfold wordOf; omega
  rw [encode, BitVec.toNat_ofNat, e, Nat.mod_eq_of_lt (wordOf_lt bM bd ba bb bm bf), decode59 (by rw [wordOf_major bM]), decodeMajor59]
  simp only [wordOf_div1024, wordOf_div128, wordOf_div16384, wordOf_div2097152, wordOf_div268435456, wordOf_div32768, bM, bd, ba, bb, bm, and_true, true_and]
  repeat (first | rw [if_pos (by first | omega | exact True.intro)] | rw [if_neg (by omega)])
  congr 2 <;> (apply BitVec.eq_of_toNat_eq; simp only [BitVec.toNat_ofNat]; omega)

theorem mtrsmu (t : BitVec 3) (h : BitVec 4) (n : BitVec 7) (unit : BitVec 1) : Statement (.mtrsmu t h n unit) := fun _ => by
  have h1 := t.isLt
  have h2 := h.isLt
  have h3 := n.isLt
  have h4 := unit.isLt
  have bM : 89 < 128 := by omega
  have bd : (32 + t.toNat) < 2 ^ 7 := by omega
  have ba : unit.toNat < 2 ^ 7 := by omega
  have bb : n.toNat < 2 ^ 7 := by omega
  have bm : (h.toNat % 4) < 2 ^ 2 := by omega
  have bf : (h.toNat / 4) < 4 := by omega
  have e : encodeNat (.mtrsmu t h n unit) = wordOf 89 (32 + t.toNat) unit.toNat n.toNat (h.toNat % 4) (h.toNat / 4) := show 0x1059 + t.toNat * 128 + h.toNat * 268435456 + n.toNat * 2097152 + unit.toNat * 16384 = _ by unfold wordOf; omega
  rw [encode, BitVec.toNat_ofNat, e, Nat.mod_eq_of_lt (wordOf_lt bM bd ba bb bm bf), decode59 (by rw [wordOf_major bM]), decodeMajor59]
  simp only [wordOf_div1024, wordOf_div128, wordOf_div16384, wordOf_div2097152, wordOf_div268435456, wordOf_div32768, bM, bd, ba, bb, bm, and_true, true_and]
  repeat (first | rw [if_pos (by first | omega | exact True.intro)] | rw [if_neg (by omega)])
  congr 2 <;> (apply BitVec.eq_of_toNat_eq; simp only [BitVec.toNat_ofNat]; omega)

theorem claim (a : BitVec 7) (m : BitVec 2) : Statement (.claim a m) := fun _ => by
  have h1 := a.isLt
  have h2 := m.isLt
  have bM : 90 < 128 := by omega
  have bd : 0 < 2 ^ 7 := by omega
  have ba : a.toNat < 2 ^ 7 := by omega
  have bb : 0 < 2 ^ 7 := by omega
  have bm : m.toNat < 2 ^ 2 := by omega
  have bf : 0 < 4 := by omega
  have e : encodeNat (.claim a m) = wordOf 90 0 a.toNat 0 m.toNat 0 := show 0x5a + a.toNat * 16384 + m.toNat * 268435456 = _ by unfold wordOf; omega
  rw [encode, BitVec.toNat_ofNat, e, Nat.mod_eq_of_lt (wordOf_lt bM bd ba bb bm bf), decode5A (by rw [wordOf_major bM]), decodeMajor5A]
  simp only [wordOf_div1073741824, wordOf_div128, wordOf_div16384, wordOf_div2097152, wordOf_div268435456, bM, bd, ba, bb, bm, and_true, true_and]
  repeat (first | rw [if_pos (by first | omega | exact True.intro)] | rw [if_neg (by omega)])
  congr 2 <;> (apply BitVec.eq_of_toNat_eq; simp only [BitVec.toNat_ofNat]; omega)

theorem wform (d : BitVec 7) (m : BitVec 2) : Statement (.wform d m) := fun _ => by
  have h1 := d.isLt
  have h2 := m.isLt
  have bM : 90 < 128 := by omega
  have bd : d.toNat < 2 ^ 7 := by omega
  have ba : 0 < 2 ^ 7 := by omega
  have bb : 0 < 2 ^ 7 := by omega
  have bm : m.toNat < 2 ^ 2 := by omega
  have bf : 1 < 4 := by omega
  have e : encodeNat (.wform d m) = wordOf 90 d.toNat 0 0 m.toNat 1 := show 0x4000005a + d.toNat * 128 + m.toNat * 268435456 = _ by unfold wordOf; omega
  rw [encode, BitVec.toNat_ofNat, e, Nat.mod_eq_of_lt (wordOf_lt bM bd ba bb bm bf), decode5A (by rw [wordOf_major bM]), decodeMajor5A]
  simp only [wordOf_div1073741824, wordOf_div128, wordOf_div16384, wordOf_div2097152, wordOf_div268435456, bM, bd, ba, bb, bm, and_true, true_and]
  repeat (first | rw [if_pos (by first | omega | exact True.intro)] | rw [if_neg (by omega)])
  congr 2 <;> (apply BitVec.eq_of_toNat_eq; simp only [BitVec.toNat_ofNat]; omega)

theorem wrel (m : BitVec 2) : Statement (.wrel m) := fun _ => by
  have h1 := m.isLt
  have bM : 90 < 128 := by omega
  have bd : 0 < 2 ^ 7 := by omega
  have ba : 0 < 2 ^ 7 := by omega
  have bb : 0 < 2 ^ 7 := by omega
  have bm : m.toNat < 2 ^ 2 := by omega
  have bf : 2 < 4 := by omega
  have e : encodeNat (.wrel m) = wordOf 90 0 0 0 m.toNat 2 := show 0x8000005a + m.toNat * 268435456 = _ by unfold wordOf; omega
  rw [encode, BitVec.toNat_ofNat, e, Nat.mod_eq_of_lt (wordOf_lt bM bd ba bb bm bf), decode5A (by rw [wordOf_major bM]), decodeMajor5A]
  simp only [wordOf_div1073741824, wordOf_div128, wordOf_div16384, wordOf_div2097152, wordOf_div268435456, bM, bd, ba, bb, bm, and_true, true_and]
  repeat (first | rw [if_pos (by first | omega | exact True.intro)] | rw [if_neg (by omega)])
  congr 2 <;> (apply BitVec.eq_of_toNat_eq; simp only [BitVec.toNat_ofNat]; omega)

theorem wclr : Statement .wclr := fun _ => by
  have bM : 90 < 128 := by omega
  have bd : 0 < 2 ^ 7 := by omega
  have ba : 0 < 2 ^ 7 := by omega
  have bb : 0 < 2 ^ 7 := by omega
  have bm : 0 < 2 ^ 2 := by omega
  have bf : 3 < 4 := by omega
  have e : encodeNat .wclr = wordOf 90 0 0 0 0 3 := show 0xc000005a = _ by unfold wordOf; omega
  rw [encode, BitVec.toNat_ofNat, e, Nat.mod_eq_of_lt (wordOf_lt bM bd ba bb bm bf), decode5A (by rw [wordOf_major bM]), decodeMajor5A]
  simp only [wordOf_div1073741824, wordOf_div128, wordOf_div16384, wordOf_div2097152, wordOf_div268435456, bM, bd, ba, bb, bm, and_true, true_and]
  repeat (first | rw [if_pos (by first | omega | exact True.intro)] | rw [if_neg (by omega)])

theorem fred (d : BitVec 7) (a : BitVec 7) (b : BitVec 7) (m : BitVec 2) : Statement (.fred d a b m) := fun _ => by
  have h1 := d.isLt
  have h2 := a.isLt
  have h3 := b.isLt
  have h4 := m.isLt
  have bM : 91 < 128 := by omega
  have bd : d.toNat < 2 ^ 7 := by omega
  have ba : a.toNat < 2 ^ 7 := by omega
  have bb : b.toNat < 2 ^ 7 := by omega
  have bm : m.toNat < 2 ^ 2 := by omega
  have bf : 0 < 4 := by omega
  have e : encodeNat (.fred d a b m) = wordOf 91 d.toNat a.toNat b.toNat m.toNat 0 := show 0x5b + d.toNat * 128 + a.toNat * 16384 + b.toNat * 2097152 + m.toNat * 268435456 = _ by unfold wordOf; omega
  rw [encode, BitVec.toNat_ofNat, e, Nat.mod_eq_of_lt (wordOf_lt bM bd ba bb bm bf), decode5B (by rw [wordOf_major bM]), decodeMajor5B]
  simp only [wordOf_div1073741824, wordOf_div128, wordOf_div16384, wordOf_div2097152, wordOf_div268435456, bM, bd, ba, bb, bm, and_true, true_and]
  repeat (first | rw [if_pos (by first | omega | exact True.intro)] | rw [if_neg (by omega)])
  congr 2 <;> (apply BitVec.eq_of_toNat_eq; simp only [BitVec.toNat_ofNat]; omega)

theorem fredwait (d : BitVec 7) (a : BitVec 7) : Statement (.fredwait d a) := fun _ => by
  have h1 := d.isLt
  have h2 := a.isLt
  have bM : 91 < 128 := by omega
  have bd : d.toNat < 2 ^ 7 := by omega
  have ba : a.toNat < 2 ^ 7 := by omega
  have bb : 0 < 2 ^ 7 := by omega
  have bm : 0 < 2 ^ 2 := by omega
  have bf : 1 < 4 := by omega
  have e : encodeNat (.fredwait d a) = wordOf 91 d.toNat a.toNat 0 0 1 := show 0x4000005b + d.toNat * 128 + a.toNat * 16384 = _ by unfold wordOf; omega
  rw [encode, BitVec.toNat_ofNat, e, Nat.mod_eq_of_lt (wordOf_lt bM bd ba bb bm bf), decode5B (by rw [wordOf_major bM]), decodeMajor5B]
  simp only [wordOf_div1073741824, wordOf_div128, wordOf_div16384, wordOf_div2097152, wordOf_div268435456, bM, bd, ba, bb, bm, and_true, true_and]
  repeat (first | rw [if_pos (by first | omega | exact True.intro)] | rw [if_neg (by omega)])
  congr 2 <;> (apply BitVec.eq_of_toNat_eq; simp only [BitVec.toNat_ofNat]; omega)

theorem vadd (d : BitVec 7) (a : BitVec 7) (b : BitVec 7) (m : BitVec 2) : Statement (.vadd d a b m) := fun _ => by
  have e : encodeNat (.vadd d a b m) = wordOf 96 d.toNat a.toNat b.toNat m.toNat 0 := show 0x60 + d.toNat * 128 + a.toNat * 16384 + b.toNat * 2097152 + m.toNat * 268435456 = _ by unfold wordOf; omega
  rw [encode, BitVec.toNat_ofNat, e, Nat.mod_eq_of_lt (wordOf_lt (by decide) d.isLt a.isLt b.isLt m.isLt (by decide)), decode60 (wordOf_major (by decide)), decodeMajor60]
  simp [wordOf_f, wordOf_d, wordOf_a, wordOf_b, wordOf_m, d.isLt, a.isLt, b.isLt, m.isLt]

theorem vsub (d : BitVec 7) (a : BitVec 7) (b : BitVec 7) (m : BitVec 2) : Statement (.vsub d a b m) := fun _ => by
  have e : encodeNat (.vsub d a b m) = wordOf 96 d.toNat a.toNat b.toNat m.toNat 1 := show 0x40000060 + d.toNat * 128 + a.toNat * 16384 + b.toNat * 2097152 + m.toNat * 268435456 = _ by unfold wordOf; omega
  rw [encode, BitVec.toNat_ofNat, e, Nat.mod_eq_of_lt (wordOf_lt (by decide) d.isLt a.isLt b.isLt m.isLt (by decide)), decode60 (wordOf_major (by decide)), decodeMajor60]
  simp [wordOf_f, wordOf_d, wordOf_a, wordOf_b, wordOf_m, d.isLt, a.isLt, b.isLt, m.isLt]

theorem vmul (d : BitVec 7) (a : BitVec 7) (b : BitVec 7) (m : BitVec 2) : Statement (.vmul d a b m) := fun _ => by
  have e : encodeNat (.vmul d a b m) = wordOf 96 d.toNat a.toNat b.toNat m.toNat 2 := show 0x80000060 + d.toNat * 128 + a.toNat * 16384 + b.toNat * 2097152 + m.toNat * 268435456 = _ by unfold wordOf; omega
  rw [encode, BitVec.toNat_ofNat, e, Nat.mod_eq_of_lt (wordOf_lt (by decide) d.isLt a.isLt b.isLt m.isLt (by decide)), decode60 (wordOf_major (by decide)), decodeMajor60]
  simp [wordOf_f, wordOf_d, wordOf_a, wordOf_b, wordOf_m, d.isLt, a.isLt, b.isLt, m.isLt]

theorem vmulh (d : BitVec 7) (a : BitVec 7) (b : BitVec 7) (m : BitVec 2) : Statement (.vmulh d a b m) := fun _ => by
  have e : encodeNat (.vmulh d a b m) = wordOf 96 d.toNat a.toNat b.toNat m.toNat 3 := show 0xc0000060 + d.toNat * 128 + a.toNat * 16384 + b.toNat * 2097152 + m.toNat * 268435456 = _ by unfold wordOf; omega
  rw [encode, BitVec.toNat_ofNat, e, Nat.mod_eq_of_lt (wordOf_lt (by decide) d.isLt a.isLt b.isLt m.isLt (by decide)), decode60 (wordOf_major (by decide)), decodeMajor60]
  simp [wordOf_f, wordOf_d, wordOf_a, wordOf_b, wordOf_m, d.isLt, a.isLt, b.isLt, m.isLt]

theorem vmin (d : BitVec 7) (a : BitVec 7) (b : BitVec 7) (m : BitVec 2) : Statement (.vmin d a b m) := fun _ => by
  have e : encodeNat (.vmin d a b m) = wordOf 97 d.toNat a.toNat b.toNat m.toNat 0 := show 0x61 + d.toNat * 128 + a.toNat * 16384 + b.toNat * 2097152 + m.toNat * 268435456 = _ by unfold wordOf; omega
  rw [encode, BitVec.toNat_ofNat, e, Nat.mod_eq_of_lt (wordOf_lt (by decide) d.isLt a.isLt b.isLt m.isLt (by decide)), decode61 (wordOf_major (by decide)), decodeMajor61]
  simp [wordOf_f, wordOf_d, wordOf_a, wordOf_b, wordOf_m, d.isLt, a.isLt, b.isLt, m.isLt]

theorem vmax (d : BitVec 7) (a : BitVec 7) (b : BitVec 7) (m : BitVec 2) : Statement (.vmax d a b m) := fun _ => by
  have e : encodeNat (.vmax d a b m) = wordOf 97 d.toNat a.toNat b.toNat m.toNat 1 := show 0x40000061 + d.toNat * 128 + a.toNat * 16384 + b.toNat * 2097152 + m.toNat * 268435456 = _ by unfold wordOf; omega
  rw [encode, BitVec.toNat_ofNat, e, Nat.mod_eq_of_lt (wordOf_lt (by decide) d.isLt a.isLt b.isLt m.isLt (by decide)), decode61 (wordOf_major (by decide)), decodeMajor61]
  simp [wordOf_f, wordOf_d, wordOf_a, wordOf_b, wordOf_m, d.isLt, a.isLt, b.isLt, m.isLt]

theorem vminn (d : BitVec 7) (a : BitVec 7) (b : BitVec 7) (m : BitVec 2) : Statement (.vminn d a b m) := fun _ => by
  have e : encodeNat (.vminn d a b m) = wordOf 97 d.toNat a.toNat b.toNat m.toNat 2 := show 0x80000061 + d.toNat * 128 + a.toNat * 16384 + b.toNat * 2097152 + m.toNat * 268435456 = _ by unfold wordOf; omega
  rw [encode, BitVec.toNat_ofNat, e, Nat.mod_eq_of_lt (wordOf_lt (by decide) d.isLt a.isLt b.isLt m.isLt (by decide)), decode61 (wordOf_major (by decide)), decodeMajor61]
  simp [wordOf_f, wordOf_d, wordOf_a, wordOf_b, wordOf_m, d.isLt, a.isLt, b.isLt, m.isLt]

theorem vmaxn (d : BitVec 7) (a : BitVec 7) (b : BitVec 7) (m : BitVec 2) : Statement (.vmaxn d a b m) := fun _ => by
  have e : encodeNat (.vmaxn d a b m) = wordOf 97 d.toNat a.toNat b.toNat m.toNat 3 := show 0xc0000061 + d.toNat * 128 + a.toNat * 16384 + b.toNat * 2097152 + m.toNat * 268435456 = _ by unfold wordOf; omega
  rw [encode, BitVec.toNat_ofNat, e, Nat.mod_eq_of_lt (wordOf_lt (by decide) d.isLt a.isLt b.isLt m.isLt (by decide)), decode61 (wordOf_major (by decide)), decodeMajor61]
  simp [wordOf_f, wordOf_d, wordOf_a, wordOf_b, wordOf_m, d.isLt, a.isLt, b.isLt, m.isLt]

theorem vand (d : BitVec 7) (a : BitVec 7) (b : BitVec 7) (m : BitVec 2) : Statement (.vand d a b m) := fun _ => by
  have e : encodeNat (.vand d a b m) = wordOf 98 d.toNat a.toNat b.toNat m.toNat 0 := show 0x62 + d.toNat * 128 + a.toNat * 16384 + b.toNat * 2097152 + m.toNat * 268435456 = _ by unfold wordOf; omega
  rw [encode, BitVec.toNat_ofNat, e, Nat.mod_eq_of_lt (wordOf_lt (by decide) d.isLt a.isLt b.isLt m.isLt (by decide)), decode62 (wordOf_major (by decide)), decodeMajor62]
  simp [wordOf_f, wordOf_d, wordOf_a, wordOf_b, wordOf_m, d.isLt, a.isLt, b.isLt, m.isLt]

theorem vor (d : BitVec 7) (a : BitVec 7) (b : BitVec 7) (m : BitVec 2) : Statement (.vor d a b m) := fun _ => by
  have e : encodeNat (.vor d a b m) = wordOf 98 d.toNat a.toNat b.toNat m.toNat 1 := show 0x40000062 + d.toNat * 128 + a.toNat * 16384 + b.toNat * 2097152 + m.toNat * 268435456 = _ by unfold wordOf; omega
  rw [encode, BitVec.toNat_ofNat, e, Nat.mod_eq_of_lt (wordOf_lt (by decide) d.isLt a.isLt b.isLt m.isLt (by decide)), decode62 (wordOf_major (by decide)), decodeMajor62]
  simp [wordOf_f, wordOf_d, wordOf_a, wordOf_b, wordOf_m, d.isLt, a.isLt, b.isLt, m.isLt]

theorem vxor (d : BitVec 7) (a : BitVec 7) (b : BitVec 7) (m : BitVec 2) : Statement (.vxor d a b m) := fun _ => by
  have e : encodeNat (.vxor d a b m) = wordOf 98 d.toNat a.toNat b.toNat m.toNat 2 := show 0x80000062 + d.toNat * 128 + a.toNat * 16384 + b.toNat * 2097152 + m.toNat * 268435456 = _ by unfold wordOf; omega
  rw [encode, BitVec.toNat_ofNat, e, Nat.mod_eq_of_lt (wordOf_lt (by decide) d.isLt a.isLt b.isLt m.isLt (by decide)), decode62 (wordOf_major (by decide)), decodeMajor62]
  simp [wordOf_f, wordOf_d, wordOf_a, wordOf_b, wordOf_m, d.isLt, a.isLt, b.isLt, m.isLt]

theorem vandn (d : BitVec 7) (a : BitVec 7) (b : BitVec 7) (m : BitVec 2) : Statement (.vandn d a b m) := fun _ => by
  have e : encodeNat (.vandn d a b m) = wordOf 98 d.toNat a.toNat b.toNat m.toNat 3 := show 0xc0000062 + d.toNat * 128 + a.toNat * 16384 + b.toNat * 2097152 + m.toNat * 268435456 = _ by unfold wordOf; omega
  rw [encode, BitVec.toNat_ofNat, e, Nat.mod_eq_of_lt (wordOf_lt (by decide) d.isLt a.isLt b.isLt m.isLt (by decide)), decode62 (wordOf_major (by decide)), decodeMajor62]
  simp [wordOf_f, wordOf_d, wordOf_a, wordOf_b, wordOf_m, d.isLt, a.isLt, b.isLt, m.isLt]

theorem vshl (d : BitVec 7) (a : BitVec 7) (b : BitVec 7) (m : BitVec 2) : Statement (.vshl d a b m) := fun _ => by
  have e : encodeNat (.vshl d a b m) = wordOf 99 d.toNat a.toNat b.toNat m.toNat 0 := show 0x63 + d.toNat * 128 + a.toNat * 16384 + b.toNat * 2097152 + m.toNat * 268435456 = _ by unfold wordOf; omega
  rw [encode, BitVec.toNat_ofNat, e, Nat.mod_eq_of_lt (wordOf_lt (by decide) d.isLt a.isLt b.isLt m.isLt (by decide)), decode63 (wordOf_major (by decide)), decodeMajor63]
  simp [wordOf_f, wordOf_d, wordOf_a, wordOf_b, wordOf_m, d.isLt, a.isLt, b.isLt, m.isLt]

theorem vshrl (d : BitVec 7) (a : BitVec 7) (b : BitVec 7) (m : BitVec 2) : Statement (.vshrl d a b m) := fun _ => by
  have e : encodeNat (.vshrl d a b m) = wordOf 99 d.toNat a.toNat b.toNat m.toNat 1 := show 0x40000063 + d.toNat * 128 + a.toNat * 16384 + b.toNat * 2097152 + m.toNat * 268435456 = _ by unfold wordOf; omega
  rw [encode, BitVec.toNat_ofNat, e, Nat.mod_eq_of_lt (wordOf_lt (by decide) d.isLt a.isLt b.isLt m.isLt (by decide)), decode63 (wordOf_major (by decide)), decodeMajor63]
  simp [wordOf_f, wordOf_d, wordOf_a, wordOf_b, wordOf_m, d.isLt, a.isLt, b.isLt, m.isLt]

theorem vshra (d : BitVec 7) (a : BitVec 7) (b : BitVec 7) (m : BitVec 2) : Statement (.vshra d a b m) := fun _ => by
  have e : encodeNat (.vshra d a b m) = wordOf 99 d.toNat a.toNat b.toNat m.toNat 2 := show 0x80000063 + d.toNat * 128 + a.toNat * 16384 + b.toNat * 2097152 + m.toNat * 268435456 = _ by unfold wordOf; omega
  rw [encode, BitVec.toNat_ofNat, e, Nat.mod_eq_of_lt (wordOf_lt (by decide) d.isLt a.isLt b.isLt m.isLt (by decide)), decode63 (wordOf_major (by decide)), decodeMajor63]
  simp [wordOf_f, wordOf_d, wordOf_a, wordOf_b, wordOf_m, d.isLt, a.isLt, b.isLt, m.isLt]

theorem vrotr (d : BitVec 7) (a : BitVec 7) (b : BitVec 7) (m : BitVec 2) : Statement (.vrotr d a b m) := fun _ => by
  have e : encodeNat (.vrotr d a b m) = wordOf 99 d.toNat a.toNat b.toNat m.toNat 3 := show 0xc0000063 + d.toNat * 128 + a.toNat * 16384 + b.toNat * 2097152 + m.toNat * 268435456 = _ by unfold wordOf; omega
  rw [encode, BitVec.toNat_ofNat, e, Nat.mod_eq_of_lt (wordOf_lt (by decide) d.isLt a.isLt b.isLt m.isLt (by decide)), decode63 (wordOf_major (by decide)), decodeMajor63]
  simp [wordOf_f, wordOf_d, wordOf_a, wordOf_b, wordOf_m, d.isLt, a.isLt, b.isLt, m.isLt]

theorem vsadd (d : BitVec 7) (a : BitVec 7) (b : BitVec 7) (m : BitVec 2) : Statement (.vsadd d a b m) := fun _ => by
  have e : encodeNat (.vsadd d a b m) = wordOf 100 d.toNat a.toNat b.toNat m.toNat 0 := show 0x64 + d.toNat * 128 + a.toNat * 16384 + b.toNat * 2097152 + m.toNat * 268435456 = _ by unfold wordOf; omega
  rw [encode, BitVec.toNat_ofNat, e, Nat.mod_eq_of_lt (wordOf_lt (by decide) d.isLt a.isLt b.isLt m.isLt (by decide)), decode64 (wordOf_major (by decide)), decodeMajor64]
  simp [wordOf_f, wordOf_d, wordOf_a, wordOf_b, wordOf_m, d.isLt, a.isLt, b.isLt, m.isLt]

theorem vssub (d : BitVec 7) (a : BitVec 7) (b : BitVec 7) (m : BitVec 2) : Statement (.vssub d a b m) := fun _ => by
  have e : encodeNat (.vssub d a b m) = wordOf 100 d.toNat a.toNat b.toNat m.toNat 1 := show 0x40000064 + d.toNat * 128 + a.toNat * 16384 + b.toNat * 2097152 + m.toNat * 268435456 = _ by unfold wordOf; omega
  rw [encode, BitVec.toNat_ofNat, e, Nat.mod_eq_of_lt (wordOf_lt (by decide) d.isLt a.isLt b.isLt m.isLt (by decide)), decode64 (wordOf_major (by decide)), decodeMajor64]
  simp [wordOf_f, wordOf_d, wordOf_a, wordOf_b, wordOf_m, d.isLt, a.isLt, b.isLt, m.isLt]

theorem vsaddn (d : BitVec 7) (a : BitVec 7) (b : BitVec 7) (m : BitVec 2) : Statement (.vsaddn d a b m) := fun _ => by
  have e : encodeNat (.vsaddn d a b m) = wordOf 100 d.toNat a.toNat b.toNat m.toNat 2 := show 0x80000064 + d.toNat * 128 + a.toNat * 16384 + b.toNat * 2097152 + m.toNat * 268435456 = _ by unfold wordOf; omega
  rw [encode, BitVec.toNat_ofNat, e, Nat.mod_eq_of_lt (wordOf_lt (by decide) d.isLt a.isLt b.isLt m.isLt (by decide)), decode64 (wordOf_major (by decide)), decodeMajor64]
  simp [wordOf_f, wordOf_d, wordOf_a, wordOf_b, wordOf_m, d.isLt, a.isLt, b.isLt, m.isLt]

theorem vssubn (d : BitVec 7) (a : BitVec 7) (b : BitVec 7) (m : BitVec 2) : Statement (.vssubn d a b m) := fun _ => by
  have e : encodeNat (.vssubn d a b m) = wordOf 100 d.toNat a.toNat b.toNat m.toNat 3 := show 0xc0000064 + d.toNat * 128 + a.toNat * 16384 + b.toNat * 2097152 + m.toNat * 268435456 = _ by unfold wordOf; omega
  rw [encode, BitVec.toNat_ofNat, e, Nat.mod_eq_of_lt (wordOf_lt (by decide) d.isLt a.isLt b.isLt m.isLt (by decide)), decode64 (wordOf_major (by decide)), decodeMajor64]
  simp [wordOf_f, wordOf_d, wordOf_a, wordOf_b, wordOf_m, d.isLt, a.isLt, b.isLt, m.isLt]

theorem vfadd (d : BitVec 7) (a : BitVec 7) (b : BitVec 7) (m : BitVec 2) : Statement (.vfadd d a b m) := fun _ => by
  have e : encodeNat (.vfadd d a b m) = wordOf 101 d.toNat a.toNat b.toNat m.toNat 0 := show 0x65 + d.toNat * 128 + a.toNat * 16384 + b.toNat * 2097152 + m.toNat * 268435456 = _ by unfold wordOf; omega
  rw [encode, BitVec.toNat_ofNat, e, Nat.mod_eq_of_lt (wordOf_lt (by decide) d.isLt a.isLt b.isLt m.isLt (by decide)), decode65 (wordOf_major (by decide)), decodeMajor65]
  simp [wordOf_f, wordOf_d, wordOf_a, wordOf_b, wordOf_m, d.isLt, a.isLt, b.isLt, m.isLt]

theorem vfsub (d : BitVec 7) (a : BitVec 7) (b : BitVec 7) (m : BitVec 2) : Statement (.vfsub d a b m) := fun _ => by
  have e : encodeNat (.vfsub d a b m) = wordOf 101 d.toNat a.toNat b.toNat m.toNat 1 := show 0x40000065 + d.toNat * 128 + a.toNat * 16384 + b.toNat * 2097152 + m.toNat * 268435456 = _ by unfold wordOf; omega
  rw [encode, BitVec.toNat_ofNat, e, Nat.mod_eq_of_lt (wordOf_lt (by decide) d.isLt a.isLt b.isLt m.isLt (by decide)), decode65 (wordOf_major (by decide)), decodeMajor65]
  simp [wordOf_f, wordOf_d, wordOf_a, wordOf_b, wordOf_m, d.isLt, a.isLt, b.isLt, m.isLt]

theorem vfmul (d : BitVec 7) (a : BitVec 7) (b : BitVec 7) (m : BitVec 2) : Statement (.vfmul d a b m) := fun _ => by
  have e : encodeNat (.vfmul d a b m) = wordOf 101 d.toNat a.toNat b.toNat m.toNat 2 := show 0x80000065 + d.toNat * 128 + a.toNat * 16384 + b.toNat * 2097152 + m.toNat * 268435456 = _ by unfold wordOf; omega
  rw [encode, BitVec.toNat_ofNat, e, Nat.mod_eq_of_lt (wordOf_lt (by decide) d.isLt a.isLt b.isLt m.isLt (by decide)), decode65 (wordOf_major (by decide)), decodeMajor65]
  simp [wordOf_f, wordOf_d, wordOf_a, wordOf_b, wordOf_m, d.isLt, a.isLt, b.isLt, m.isLt]

theorem vfdiv (d : BitVec 7) (a : BitVec 7) (b : BitVec 7) (m : BitVec 2) : Statement (.vfdiv d a b m) := fun _ => by
  have e : encodeNat (.vfdiv d a b m) = wordOf 101 d.toNat a.toNat b.toNat m.toNat 3 := show 0xc0000065 + d.toNat * 128 + a.toNat * 16384 + b.toNat * 2097152 + m.toNat * 268435456 = _ by unfold wordOf; omega
  rw [encode, BitVec.toNat_ofNat, e, Nat.mod_eq_of_lt (wordOf_lt (by decide) d.isLt a.isLt b.isLt m.isLt (by decide)), decode65 (wordOf_major (by decide)), decodeMajor65]
  simp [wordOf_f, wordOf_d, wordOf_a, wordOf_b, wordOf_m, d.isLt, a.isLt, b.isLt, m.isLt]

theorem vfma (d : BitVec 7) (a : BitVec 7) (b : BitVec 7) (m : BitVec 2) : Statement (.vfma d a b m) := fun _ => by
  have e : encodeNat (.vfma d a b m) = wordOf 102 d.toNat a.toNat b.toNat m.toNat 0 := show 0x66 + d.toNat * 128 + a.toNat * 16384 + b.toNat * 2097152 + m.toNat * 268435456 = _ by unfold wordOf; omega
  rw [encode, BitVec.toNat_ofNat, e, Nat.mod_eq_of_lt (wordOf_lt (by decide) d.isLt a.isLt b.isLt m.isLt (by decide)), decode66 (wordOf_major (by decide)), decodeMajor66]
  simp [wordOf_f, wordOf_d, wordOf_a, wordOf_b, wordOf_m, d.isLt, a.isLt, b.isLt, m.isLt]

theorem vfms (d : BitVec 7) (a : BitVec 7) (b : BitVec 7) (m : BitVec 2) : Statement (.vfms d a b m) := fun _ => by
  have e : encodeNat (.vfms d a b m) = wordOf 102 d.toNat a.toNat b.toNat m.toNat 1 := show 0x40000066 + d.toNat * 128 + a.toNat * 16384 + b.toNat * 2097152 + m.toNat * 268435456 = _ by unfold wordOf; omega
  rw [encode, BitVec.toNat_ofNat, e, Nat.mod_eq_of_lt (wordOf_lt (by decide) d.isLt a.isLt b.isLt m.isLt (by decide)), decode66 (wordOf_major (by decide)), decodeMajor66]
  simp [wordOf_f, wordOf_d, wordOf_a, wordOf_b, wordOf_m, d.isLt, a.isLt, b.isLt, m.isLt]

theorem vfnma (d : BitVec 7) (a : BitVec 7) (b : BitVec 7) (m : BitVec 2) : Statement (.vfnma d a b m) := fun _ => by
  have e : encodeNat (.vfnma d a b m) = wordOf 102 d.toNat a.toNat b.toNat m.toNat 2 := show 0x80000066 + d.toNat * 128 + a.toNat * 16384 + b.toNat * 2097152 + m.toNat * 268435456 = _ by unfold wordOf; omega
  rw [encode, BitVec.toNat_ofNat, e, Nat.mod_eq_of_lt (wordOf_lt (by decide) d.isLt a.isLt b.isLt m.isLt (by decide)), decode66 (wordOf_major (by decide)), decodeMajor66]
  simp [wordOf_f, wordOf_d, wordOf_a, wordOf_b, wordOf_m, d.isLt, a.isLt, b.isLt, m.isLt]

theorem vfnms (d : BitVec 7) (a : BitVec 7) (b : BitVec 7) (m : BitVec 2) : Statement (.vfnms d a b m) := fun _ => by
  have e : encodeNat (.vfnms d a b m) = wordOf 102 d.toNat a.toNat b.toNat m.toNat 3 := show 0xc0000066 + d.toNat * 128 + a.toNat * 16384 + b.toNat * 2097152 + m.toNat * 268435456 = _ by unfold wordOf; omega
  rw [encode, BitVec.toNat_ofNat, e, Nat.mod_eq_of_lt (wordOf_lt (by decide) d.isLt a.isLt b.isLt m.isLt (by decide)), decode66 (wordOf_major (by decide)), decodeMajor66]
  simp [wordOf_f, wordOf_d, wordOf_a, wordOf_b, wordOf_m, d.isLt, a.isLt, b.isLt, m.isLt]

theorem vfmin (d : BitVec 7) (a : BitVec 7) (b : BitVec 7) (m : BitVec 2) : Statement (.vfmin d a b m) := fun _ => by
  have h1 := d.isLt
  have h2 := a.isLt
  have h3 := b.isLt
  have h4 := m.isLt
  have bM : 103 < 128 := by omega
  have bd : d.toNat < 2 ^ 7 := by omega
  have ba : a.toNat < 2 ^ 7 := by omega
  have bb : b.toNat < 2 ^ 7 := by omega
  have bm : m.toNat < 2 ^ 2 := by omega
  have bf : 0 < 4 := by omega
  have e : encodeNat (.vfmin d a b m) = wordOf 103 d.toNat a.toNat b.toNat m.toNat 0 := show 0x67 + d.toNat * 128 + a.toNat * 16384 + b.toNat * 2097152 + m.toNat * 268435456 = _ by unfold wordOf; omega
  rw [encode, BitVec.toNat_ofNat, e, Nat.mod_eq_of_lt (wordOf_lt bM bd ba bb bm bf), decode67 (by rw [wordOf_major bM]), decodeMajor67]
  simp only [wordOf_div1073741824, wordOf_div128, wordOf_div16384, wordOf_div2097152, wordOf_div268435456, bM, bd, ba, bb, bm, and_true, true_and]
  repeat (first | rw [if_pos (by first | omega | exact True.intro)] | rw [if_neg (by omega)])
  congr 2 <;> (apply BitVec.eq_of_toNat_eq; simp only [BitVec.toNat_ofNat]; omega)

theorem vfmax (d : BitVec 7) (a : BitVec 7) (b : BitVec 7) (m : BitVec 2) : Statement (.vfmax d a b m) := fun _ => by
  have h1 := d.isLt
  have h2 := a.isLt
  have h3 := b.isLt
  have h4 := m.isLt
  have bM : 103 < 128 := by omega
  have bd : d.toNat < 2 ^ 7 := by omega
  have ba : a.toNat < 2 ^ 7 := by omega
  have bb : b.toNat < 2 ^ 7 := by omega
  have bm : m.toNat < 2 ^ 2 := by omega
  have bf : 1 < 4 := by omega
  have e : encodeNat (.vfmax d a b m) = wordOf 103 d.toNat a.toNat b.toNat m.toNat 1 := show 0x40000067 + d.toNat * 128 + a.toNat * 16384 + b.toNat * 2097152 + m.toNat * 268435456 = _ by unfold wordOf; omega
  rw [encode, BitVec.toNat_ofNat, e, Nat.mod_eq_of_lt (wordOf_lt bM bd ba bb bm bf), decode67 (by rw [wordOf_major bM]), decodeMajor67]
  simp only [wordOf_div1073741824, wordOf_div128, wordOf_div16384, wordOf_div2097152, wordOf_div268435456, bM, bd, ba, bb, bm, and_true, true_and]
  repeat (first | rw [if_pos (by first | omega | exact True.intro)] | rw [if_neg (by omega)])
  congr 2 <;> (apply BitVec.eq_of_toNat_eq; simp only [BitVec.toNat_ofNat]; omega)

theorem vfsqrt (d : BitVec 7) (a : BitVec 7) (m : BitVec 2) : Statement (.vfsqrt d a m) := fun _ => by
  have h1 := d.isLt
  have h2 := a.isLt
  have h3 := m.isLt
  have bM : 103 < 128 := by omega
  have bd : d.toNat < 2 ^ 7 := by omega
  have ba : a.toNat < 2 ^ 7 := by omega
  have bb : 0 < 2 ^ 7 := by omega
  have bm : m.toNat < 2 ^ 2 := by omega
  have bf : 2 < 4 := by omega
  have e : encodeNat (.vfsqrt d a m) = wordOf 103 d.toNat a.toNat 0 m.toNat 2 := show 0x80000067 + d.toNat * 128 + a.toNat * 16384 + m.toNat * 268435456 = _ by unfold wordOf; omega
  rw [encode, BitVec.toNat_ofNat, e, Nat.mod_eq_of_lt (wordOf_lt bM bd ba bb bm bf), decode67 (by rw [wordOf_major bM]), decodeMajor67]
  simp only [wordOf_div1073741824, wordOf_div128, wordOf_div16384, wordOf_div2097152, wordOf_div268435456, bM, bd, ba, bb, bm, and_true, true_and]
  repeat (first | rw [if_pos (by first | omega | exact True.intro)] | rw [if_neg (by omega)])
  congr 2 <;> (apply BitVec.eq_of_toNat_eq; simp only [BitVec.toNat_ofNat]; omega)

theorem vfexp (d : BitVec 7) (a : BitVec 7) (m : BitVec 2) : Statement (.vfexp d a m) := fun _ => by
  have h1 := d.isLt
  have h2 := a.isLt
  have h3 := m.isLt
  have bM : 103 < 128 := by omega
  have bd : d.toNat < 2 ^ 7 := by omega
  have ba : a.toNat < 2 ^ 7 := by omega
  have bb : 0 < 2 ^ 7 := by omega
  have bm : m.toNat < 2 ^ 2 := by omega
  have bf : 3 < 4 := by omega
  have e : encodeNat (.vfexp d a m) = wordOf 103 d.toNat a.toNat 0 m.toNat 3 := show 0xc0000067 + d.toNat * 128 + a.toNat * 16384 + m.toNat * 268435456 = _ by unfold wordOf; omega
  rw [encode, BitVec.toNat_ofNat, e, Nat.mod_eq_of_lt (wordOf_lt bM bd ba bb bm bf), decode67 (by rw [wordOf_major bM]), decodeMajor67]
  simp only [wordOf_div1073741824, wordOf_div128, wordOf_div16384, wordOf_div2097152, wordOf_div268435456, bM, bd, ba, bb, bm, and_true, true_and]
  repeat (first | rw [if_pos (by first | omega | exact True.intro)] | rw [if_neg (by omega)])
  congr 2 <;> (apply BitVec.eq_of_toNat_eq; simp only [BitVec.toNat_ofNat]; omega)

theorem vcmpeq (d : BitVec 7) (a : BitVec 7) (b : BitVec 7) (m : BitVec 2) : Statement (.vcmpeq d a b m) := fun _ => by
  have e : encodeNat (.vcmpeq d a b m) = wordOf 104 d.toNat a.toNat b.toNat m.toNat 0 := show 0x68 + d.toNat * 128 + a.toNat * 16384 + b.toNat * 2097152 + m.toNat * 268435456 = _ by unfold wordOf; omega
  rw [encode, BitVec.toNat_ofNat, e, Nat.mod_eq_of_lt (wordOf_lt (by decide) d.isLt a.isLt b.isLt m.isLt (by decide)), decode68 (wordOf_major (by decide)), decodeMajor68]
  simp [wordOf_f, wordOf_d, wordOf_a, wordOf_b, wordOf_m, d.isLt, a.isLt, b.isLt, m.isLt]

theorem vcmpne (d : BitVec 7) (a : BitVec 7) (b : BitVec 7) (m : BitVec 2) : Statement (.vcmpne d a b m) := fun _ => by
  have e : encodeNat (.vcmpne d a b m) = wordOf 104 d.toNat a.toNat b.toNat m.toNat 1 := show 0x40000068 + d.toNat * 128 + a.toNat * 16384 + b.toNat * 2097152 + m.toNat * 268435456 = _ by unfold wordOf; omega
  rw [encode, BitVec.toNat_ofNat, e, Nat.mod_eq_of_lt (wordOf_lt (by decide) d.isLt a.isLt b.isLt m.isLt (by decide)), decode68 (wordOf_major (by decide)), decodeMajor68]
  simp [wordOf_f, wordOf_d, wordOf_a, wordOf_b, wordOf_m, d.isLt, a.isLt, b.isLt, m.isLt]

theorem vcmplt (d : BitVec 7) (a : BitVec 7) (b : BitVec 7) (m : BitVec 2) : Statement (.vcmplt d a b m) := fun _ => by
  have e : encodeNat (.vcmplt d a b m) = wordOf 104 d.toNat a.toNat b.toNat m.toNat 2 := show 0x80000068 + d.toNat * 128 + a.toNat * 16384 + b.toNat * 2097152 + m.toNat * 268435456 = _ by unfold wordOf; omega
  rw [encode, BitVec.toNat_ofNat, e, Nat.mod_eq_of_lt (wordOf_lt (by decide) d.isLt a.isLt b.isLt m.isLt (by decide)), decode68 (wordOf_major (by decide)), decodeMajor68]
  simp [wordOf_f, wordOf_d, wordOf_a, wordOf_b, wordOf_m, d.isLt, a.isLt, b.isLt, m.isLt]

theorem vcmple (d : BitVec 7) (a : BitVec 7) (b : BitVec 7) (m : BitVec 2) : Statement (.vcmple d a b m) := fun _ => by
  have e : encodeNat (.vcmple d a b m) = wordOf 104 d.toNat a.toNat b.toNat m.toNat 3 := show 0xc0000068 + d.toNat * 128 + a.toNat * 16384 + b.toNat * 2097152 + m.toNat * 268435456 = _ by unfold wordOf; omega
  rw [encode, BitVec.toNat_ofNat, e, Nat.mod_eq_of_lt (wordOf_lt (by decide) d.isLt a.isLt b.isLt m.isLt (by decide)), decode68 (wordOf_major (by decide)), decodeMajor68]
  simp [wordOf_f, wordOf_d, wordOf_a, wordOf_b, wordOf_m, d.isLt, a.isLt, b.isLt, m.isLt]

theorem pand (d : BitVec 7) (a : BitVec 7) (b : BitVec 7) (m : BitVec 2) : Statement (.pand d a b m) := fun _ => by
  have e : encodeNat (.pand d a b m) = wordOf 105 d.toNat a.toNat b.toNat m.toNat 0 := show 0x69 + d.toNat * 128 + a.toNat * 16384 + b.toNat * 2097152 + m.toNat * 268435456 = _ by unfold wordOf; omega
  rw [encode, BitVec.toNat_ofNat, e, Nat.mod_eq_of_lt (wordOf_lt (by decide) d.isLt a.isLt b.isLt m.isLt (by decide)), decode69 (wordOf_major (by decide)), decodeMajor69]
  simp [wordOf_f, wordOf_d, wordOf_a, wordOf_b, wordOf_m, d.isLt, a.isLt, b.isLt, m.isLt]

theorem por (d : BitVec 7) (a : BitVec 7) (b : BitVec 7) (m : BitVec 2) : Statement (.por d a b m) := fun _ => by
  have e : encodeNat (.por d a b m) = wordOf 105 d.toNat a.toNat b.toNat m.toNat 1 := show 0x40000069 + d.toNat * 128 + a.toNat * 16384 + b.toNat * 2097152 + m.toNat * 268435456 = _ by unfold wordOf; omega
  rw [encode, BitVec.toNat_ofNat, e, Nat.mod_eq_of_lt (wordOf_lt (by decide) d.isLt a.isLt b.isLt m.isLt (by decide)), decode69 (wordOf_major (by decide)), decodeMajor69]
  simp [wordOf_f, wordOf_d, wordOf_a, wordOf_b, wordOf_m, d.isLt, a.isLt, b.isLt, m.isLt]

theorem pxor (d : BitVec 7) (a : BitVec 7) (b : BitVec 7) (m : BitVec 2) : Statement (.pxor d a b m) := fun _ => by
  have e : encodeNat (.pxor d a b m) = wordOf 105 d.toNat a.toNat b.toNat m.toNat 2 := show 0x80000069 + d.toNat * 128 + a.toNat * 16384 + b.toNat * 2097152 + m.toNat * 268435456 = _ by unfold wordOf; omega
  rw [encode, BitVec.toNat_ofNat, e, Nat.mod_eq_of_lt (wordOf_lt (by decide) d.isLt a.isLt b.isLt m.isLt (by decide)), decode69 (wordOf_major (by decide)), decodeMajor69]
  simp [wordOf_f, wordOf_d, wordOf_a, wordOf_b, wordOf_m, d.isLt, a.isLt, b.isLt, m.isLt]

theorem pandn (d : BitVec 7) (a : BitVec 7) (b : BitVec 7) (m : BitVec 2) : Statement (.pandn d a b m) := fun _ => by
  have e : encodeNat (.pandn d a b m) = wordOf 105 d.toNat a.toNat b.toNat m.toNat 3 := show 0xc0000069 + d.toNat * 128 + a.toNat * 16384 + b.toNat * 2097152 + m.toNat * 268435456 = _ by unfold wordOf; omega
  rw [encode, BitVec.toNat_ofNat, e, Nat.mod_eq_of_lt (wordOf_lt (by decide) d.isLt a.isLt b.isLt m.isLt (by decide)), decode69 (wordOf_major (by decide)), decodeMajor69]
  simp [wordOf_f, wordOf_d, wordOf_a, wordOf_b, wordOf_m, d.isLt, a.isLt, b.isLt, m.isLt]

theorem pnot (d : BitVec 7) (a : BitVec 7) (m : BitVec 2) : Statement (.pnot d a m) := fun _ => by
  have h1 := d.isLt
  have h2 := a.isLt
  have h3 := m.isLt
  have bM : 106 < 128 := by omega
  have bd : d.toNat < 2 ^ 7 := by omega
  have ba : a.toNat < 2 ^ 7 := by omega
  have bb : 0 < 2 ^ 7 := by omega
  have bm : m.toNat < 2 ^ 2 := by omega
  have bf : 0 < 4 := by omega
  have e : encodeNat (.pnot d a m) = wordOf 106 d.toNat a.toNat 0 m.toNat 0 := show 0x6a + d.toNat * 128 + a.toNat * 16384 + m.toNat * 268435456 = _ by unfold wordOf; omega
  rw [encode, BitVec.toNat_ofNat, e, Nat.mod_eq_of_lt (wordOf_lt bM bd ba bb bm bf), decode6A (by rw [wordOf_major bM]), decodeMajor6A]
  simp only [wordOf_div1073741824, wordOf_div128, wordOf_div16384, wordOf_div2097152, wordOf_div268435456, bM, bd, ba, bb, bm, and_true, true_and]
  repeat (first | rw [if_pos (by first | omega | exact True.intro)] | rw [if_neg (by omega)])
  congr 2 <;> (apply BitVec.eq_of_toNat_eq; simp only [BitVec.toNat_ofNat]; omega)

theorem pfirst (d : BitVec 7) (a : BitVec 7) (m : BitVec 2) : Statement (.pfirst d a m) := fun _ => by
  have h1 := d.isLt
  have h2 := a.isLt
  have h3 := m.isLt
  have bM : 106 < 128 := by omega
  have bd : d.toNat < 2 ^ 7 := by omega
  have ba : a.toNat < 2 ^ 7 := by omega
  have bb : 0 < 2 ^ 7 := by omega
  have bm : m.toNat < 2 ^ 2 := by omega
  have bf : 1 < 4 := by omega
  have e : encodeNat (.pfirst d a m) = wordOf 106 d.toNat a.toNat 0 m.toNat 1 := show 0x4000006a + d.toNat * 128 + a.toNat * 16384 + m.toNat * 268435456 = _ by unfold wordOf; omega
  rw [encode, BitVec.toNat_ofNat, e, Nat.mod_eq_of_lt (wordOf_lt bM bd ba bb bm bf), decode6A (by rw [wordOf_major bM]), decodeMajor6A]
  simp only [wordOf_div1073741824, wordOf_div128, wordOf_div16384, wordOf_div2097152, wordOf_div268435456, bM, bd, ba, bb, bm, and_true, true_and]
  repeat (first | rw [if_pos (by first | omega | exact True.intro)] | rw [if_neg (by omega)])
  congr 2 <;> (apply BitVec.eq_of_toNat_eq; simp only [BitVec.toNat_ofNat]; omega)

theorem pcount (d : BitVec 7) (a : BitVec 7) (m : BitVec 2) : Statement (.pcount d a m) := fun _ => by
  have h1 := d.isLt
  have h2 := a.isLt
  have h3 := m.isLt
  have bM : 106 < 128 := by omega
  have bd : d.toNat < 2 ^ 7 := by omega
  have ba : a.toNat < 2 ^ 7 := by omega
  have bb : 0 < 2 ^ 7 := by omega
  have bm : m.toNat < 2 ^ 2 := by omega
  have bf : 2 < 4 := by omega
  have e : encodeNat (.pcount d a m) = wordOf 106 d.toNat a.toNat 0 m.toNat 2 := show 0x8000006a + d.toNat * 128 + a.toNat * 16384 + m.toNat * 268435456 = _ by unfold wordOf; omega
  rw [encode, BitVec.toNat_ofNat, e, Nat.mod_eq_of_lt (wordOf_lt bM bd ba bb bm bf), decode6A (by rw [wordOf_major bM]), decodeMajor6A]
  simp only [wordOf_div1073741824, wordOf_div128, wordOf_div16384, wordOf_div2097152, wordOf_div268435456, bM, bd, ba, bb, bm, and_true, true_and]
  repeat (first | rw [if_pos (by first | omega | exact True.intro)] | rw [if_neg (by omega)])
  congr 2 <;> (apply BitVec.eq_of_toNat_eq; simp only [BitVec.toNat_ofNat]; omega)

theorem mbind (d : BitVec 7) (a : BitVec 7) : Statement (.mbind d a) := fun _ => by
  have h1 := d.isLt
  have h2 := a.isLt
  have bM : 106 < 128 := by omega
  have bd : d.toNat < 2 ^ 7 := by omega
  have ba : a.toNat < 2 ^ 7 := by omega
  have bb : 0 < 2 ^ 7 := by omega
  have bm : 0 < 2 ^ 2 := by omega
  have bf : 3 < 4 := by omega
  have e : encodeNat (.mbind d a) = wordOf 106 d.toNat a.toNat 0 0 3 := show 0xc000006a + d.toNat * 128 + a.toNat * 16384 = _ by unfold wordOf; omega
  rw [encode, BitVec.toNat_ofNat, e, Nat.mod_eq_of_lt (wordOf_lt bM bd ba bb bm bf), decode6A (by rw [wordOf_major bM]), decodeMajor6A]
  simp only [wordOf_div1073741824, wordOf_div128, wordOf_div16384, wordOf_div2097152, wordOf_div268435456, bM, bd, ba, bb, bm, and_true, true_and]
  repeat (first | rw [if_pos (by first | omega | exact True.intro)] | rw [if_neg (by omega)])
  congr 2 <;> (apply BitVec.eq_of_toNat_eq; simp only [BitVec.toNat_ofNat]; omega)

theorem vredsum (d : BitVec 7) (a : BitVec 7) (b : BitVec 7) (m : BitVec 2) : Statement (.vredsum d a b m) := fun _ => by
  have e : encodeNat (.vredsum d a b m) = wordOf 107 d.toNat a.toNat b.toNat m.toNat 0 := show 0x6b + d.toNat * 128 + a.toNat * 16384 + b.toNat * 2097152 + m.toNat * 268435456 = _ by unfold wordOf; omega
  rw [encode, BitVec.toNat_ofNat, e, Nat.mod_eq_of_lt (wordOf_lt (by decide) d.isLt a.isLt b.isLt m.isLt (by decide)), decode6B (wordOf_major (by decide)), decodeMajor6B]
  simp [wordOf_f, wordOf_d, wordOf_a, wordOf_b, wordOf_m, d.isLt, a.isLt, b.isLt, m.isLt]

theorem vredmin (d : BitVec 7) (a : BitVec 7) (b : BitVec 7) (m : BitVec 2) : Statement (.vredmin d a b m) := fun _ => by
  have e : encodeNat (.vredmin d a b m) = wordOf 107 d.toNat a.toNat b.toNat m.toNat 1 := show 0x4000006b + d.toNat * 128 + a.toNat * 16384 + b.toNat * 2097152 + m.toNat * 268435456 = _ by unfold wordOf; omega
  rw [encode, BitVec.toNat_ofNat, e, Nat.mod_eq_of_lt (wordOf_lt (by decide) d.isLt a.isLt b.isLt m.isLt (by decide)), decode6B (wordOf_major (by decide)), decodeMajor6B]
  simp [wordOf_f, wordOf_d, wordOf_a, wordOf_b, wordOf_m, d.isLt, a.isLt, b.isLt, m.isLt]

theorem vredmax (d : BitVec 7) (a : BitVec 7) (b : BitVec 7) (m : BitVec 2) : Statement (.vredmax d a b m) := fun _ => by
  have e : encodeNat (.vredmax d a b m) = wordOf 107 d.toNat a.toNat b.toNat m.toNat 2 := show 0x8000006b + d.toNat * 128 + a.toNat * 16384 + b.toNat * 2097152 + m.toNat * 268435456 = _ by unfold wordOf; omega
  rw [encode, BitVec.toNat_ofNat, e, Nat.mod_eq_of_lt (wordOf_lt (by decide) d.isLt a.isLt b.isLt m.isLt (by decide)), decode6B (wordOf_major (by decide)), decodeMajor6B]
  simp [wordOf_f, wordOf_d, wordOf_a, wordOf_b, wordOf_m, d.isLt, a.isLt, b.isLt, m.isLt]

theorem vfredsum (d : BitVec 7) (a : BitVec 7) (b : BitVec 7) (m : BitVec 2) : Statement (.vfredsum d a b m) := fun _ => by
  have e : encodeNat (.vfredsum d a b m) = wordOf 107 d.toNat a.toNat b.toNat m.toNat 3 := show 0xc000006b + d.toNat * 128 + a.toNat * 16384 + b.toNat * 2097152 + m.toNat * 268435456 = _ by unfold wordOf; omega
  rw [encode, BitVec.toNat_ofNat, e, Nat.mod_eq_of_lt (wordOf_lt (by decide) d.isLt a.isLt b.isLt m.isLt (by decide)), decode6B (wordOf_major (by decide)), decodeMajor6B]
  simp [wordOf_f, wordOf_d, wordOf_a, wordOf_b, wordOf_m, d.isLt, a.isLt, b.isLt, m.isLt]

theorem vslideup (d : BitVec 7) (a : BitVec 7) (b : BitVec 7) (m : BitVec 2) : Statement (.vslideup d a b m) := fun _ => by
  have h1 := d.isLt
  have h2 := a.isLt
  have h3 := b.isLt
  have h4 := m.isLt
  have bM : 108 < 128 := by omega
  have bd : d.toNat < 2 ^ 7 := by omega
  have ba : a.toNat < 2 ^ 7 := by omega
  have bb : b.toNat < 2 ^ 7 := by omega
  have bm : m.toNat < 2 ^ 2 := by omega
  have bf : 0 < 4 := by omega
  have e : encodeNat (.vslideup d a b m) = wordOf 108 d.toNat a.toNat b.toNat m.toNat 0 := show 0x6c + d.toNat * 128 + a.toNat * 16384 + b.toNat * 2097152 + m.toNat * 268435456 = _ by unfold wordOf; omega
  rw [encode, BitVec.toNat_ofNat, e, Nat.mod_eq_of_lt (wordOf_lt bM bd ba bb bm bf), decode6C (by rw [wordOf_major bM]), decodeMajor6C]
  simp only [wordOf_div1073741824, wordOf_div128, wordOf_div16384, wordOf_div2097152, wordOf_div268435456, bM, bd, ba, bb, bm, and_true, true_and]
  repeat (first | rw [if_pos (by first | omega | exact True.intro)] | rw [if_neg (by omega)])
  congr 2 <;> (apply BitVec.eq_of_toNat_eq; simp only [BitVec.toNat_ofNat]; omega)

theorem vslidedn (d : BitVec 7) (a : BitVec 7) (b : BitVec 7) (m : BitVec 2) : Statement (.vslidedn d a b m) := fun _ => by
  have h1 := d.isLt
  have h2 := a.isLt
  have h3 := b.isLt
  have h4 := m.isLt
  have bM : 108 < 128 := by omega
  have bd : d.toNat < 2 ^ 7 := by omega
  have ba : a.toNat < 2 ^ 7 := by omega
  have bb : b.toNat < 2 ^ 7 := by omega
  have bm : m.toNat < 2 ^ 2 := by omega
  have bf : 1 < 4 := by omega
  have e : encodeNat (.vslidedn d a b m) = wordOf 108 d.toNat a.toNat b.toNat m.toNat 1 := show 0x4000006c + d.toNat * 128 + a.toNat * 16384 + b.toNat * 2097152 + m.toNat * 268435456 = _ by unfold wordOf; omega
  rw [encode, BitVec.toNat_ofNat, e, Nat.mod_eq_of_lt (wordOf_lt bM bd ba bb bm bf), decode6C (by rw [wordOf_major bM]), decodeMajor6C]
  simp only [wordOf_div1073741824, wordOf_div128, wordOf_div16384, wordOf_div2097152, wordOf_div268435456, bM, bd, ba, bb, bm, and_true, true_and]
  repeat (first | rw [if_pos (by first | omega | exact True.intro)] | rw [if_neg (by omega)])
  congr 2 <;> (apply BitVec.eq_of_toNat_eq; simp only [BitVec.toNat_ofNat]; omega)

theorem vpermv (d : BitVec 7) (a : BitVec 7) (b : BitVec 7) (m : BitVec 2) : Statement (.vpermv d a b m) := fun _ => by
  have h1 := d.isLt
  have h2 := a.isLt
  have h3 := b.isLt
  have h4 := m.isLt
  have bM : 108 < 128 := by omega
  have bd : d.toNat < 2 ^ 7 := by omega
  have ba : a.toNat < 2 ^ 7 := by omega
  have bb : b.toNat < 2 ^ 7 := by omega
  have bm : m.toNat < 2 ^ 2 := by omega
  have bf : 2 < 4 := by omega
  have e : encodeNat (.vpermv d a b m) = wordOf 108 d.toNat a.toNat b.toNat m.toNat 2 := show 0x8000006c + d.toNat * 128 + a.toNat * 16384 + b.toNat * 2097152 + m.toNat * 268435456 = _ by unfold wordOf; omega
  rw [encode, BitVec.toNat_ofNat, e, Nat.mod_eq_of_lt (wordOf_lt bM bd ba bb bm bf), decode6C (by rw [wordOf_major bM]), decodeMajor6C]
  simp only [wordOf_div1073741824, wordOf_div128, wordOf_div16384, wordOf_div2097152, wordOf_div268435456, bM, bd, ba, bb, bm, and_true, true_and]
  repeat (first | rw [if_pos (by first | omega | exact True.intro)] | rw [if_neg (by omega)])
  congr 2 <;> (apply BitVec.eq_of_toNat_eq; simp only [BitVec.toNat_ofNat]; omega)

theorem vcompress (d : BitVec 7) (a : BitVec 7) (m : BitVec 2) : Statement (.vcompress d a m) := fun _ => by
  have h1 := d.isLt
  have h2 := a.isLt
  have h3 := m.isLt
  have bM : 108 < 128 := by omega
  have bd : d.toNat < 2 ^ 7 := by omega
  have ba : a.toNat < 2 ^ 7 := by omega
  have bb : 0 < 2 ^ 7 := by omega
  have bm : m.toNat < 2 ^ 2 := by omega
  have bf : 3 < 4 := by omega
  have e : encodeNat (.vcompress d a m) = wordOf 108 d.toNat a.toNat 0 m.toNat 3 := show 0xc000006c + d.toNat * 128 + a.toNat * 16384 + m.toNat * 268435456 = _ by unfold wordOf; omega
  rw [encode, BitVec.toNat_ofNat, e, Nat.mod_eq_of_lt (wordOf_lt bM bd ba bb bm bf), decode6C (by rw [wordOf_major bM]), decodeMajor6C]
  simp only [wordOf_div1073741824, wordOf_div128, wordOf_div16384, wordOf_div2097152, wordOf_div268435456, bM, bd, ba, bb, bm, and_true, true_and]
  repeat (first | rw [if_pos (by first | omega | exact True.intro)] | rw [if_neg (by omega)])
  congr 2 <;> (apply BitVec.eq_of_toNat_eq; simp only [BitVec.toNat_ofNat]; omega)

theorem vmv (d : BitVec 7) (a : BitVec 7) (m : BitVec 2) : Statement (.vmv d a m) := fun _ => by
  have h1 := d.isLt
  have h2 := a.isLt
  have h3 := m.isLt
  have bM : 109 < 128 := by omega
  have bd : d.toNat < 2 ^ 7 := by omega
  have ba : a.toNat < 2 ^ 7 := by omega
  have bb : 0 < 2 ^ 7 := by omega
  have bm : m.toNat < 2 ^ 2 := by omega
  have bf : 0 < 4 := by omega
  have e : encodeNat (.vmv d a m) = wordOf 109 d.toNat a.toNat 0 m.toNat 0 := show 0x6d + d.toNat * 128 + a.toNat * 16384 + m.toNat * 268435456 = _ by unfold wordOf; omega
  rw [encode, BitVec.toNat_ofNat, e, Nat.mod_eq_of_lt (wordOf_lt bM bd ba bb bm bf), decode6D (by rw [wordOf_major bM]), decodeMajor6D]
  simp only [wordOf_div1073741824, wordOf_div128, wordOf_div16384, wordOf_div2097152, wordOf_div268435456, bM, bd, ba, bb, bm, and_true, true_and]
  repeat (first | rw [if_pos (by first | omega | exact True.intro)] | rw [if_neg (by omega)])
  congr 2 <;> (apply BitVec.eq_of_toNat_eq; simp only [BitVec.toNat_ofNat]; omega)

theorem vsplat (d : BitVec 7) (a : BitVec 7) (m : BitVec 2) : Statement (.vsplat d a m) := fun _ => by
  have h1 := d.isLt
  have h2 := a.isLt
  have h3 := m.isLt
  have bM : 109 < 128 := by omega
  have bd : d.toNat < 2 ^ 7 := by omega
  have ba : a.toNat < 2 ^ 7 := by omega
  have bb : 0 < 2 ^ 7 := by omega
  have bm : m.toNat < 2 ^ 2 := by omega
  have bf : 1 < 4 := by omega
  have e : encodeNat (.vsplat d a m) = wordOf 109 d.toNat a.toNat 0 m.toNat 1 := show 0x4000006d + d.toNat * 128 + a.toNat * 16384 + m.toNat * 268435456 = _ by unfold wordOf; omega
  rw [encode, BitVec.toNat_ofNat, e, Nat.mod_eq_of_lt (wordOf_lt bM bd ba bb bm bf), decode6D (by rw [wordOf_major bM]), decodeMajor6D]
  simp only [wordOf_div1073741824, wordOf_div128, wordOf_div16384, wordOf_div2097152, wordOf_div268435456, bM, bd, ba, bb, bm, and_true, true_and]
  repeat (first | rw [if_pos (by first | omega | exact True.intro)] | rw [if_neg (by omega)])
  congr 2 <;> (apply BitVec.eq_of_toNat_eq; simp only [BitVec.toNat_ofNat]; omega)

theorem vextr (d : BitVec 7) (a : BitVec 7) (b : BitVec 7) (m : BitVec 2) : Statement (.vextr d a b m) := fun _ => by
  have h1 := d.isLt
  have h2 := a.isLt
  have h3 := b.isLt
  have h4 := m.isLt
  have bM : 109 < 128 := by omega
  have bd : d.toNat < 2 ^ 7 := by omega
  have ba : a.toNat < 2 ^ 7 := by omega
  have bb : b.toNat < 2 ^ 7 := by omega
  have bm : m.toNat < 2 ^ 2 := by omega
  have bf : 2 < 4 := by omega
  have e : encodeNat (.vextr d a b m) = wordOf 109 d.toNat a.toNat b.toNat m.toNat 2 := show 0x8000006d + d.toNat * 128 + a.toNat * 16384 + b.toNat * 2097152 + m.toNat * 268435456 = _ by unfold wordOf; omega
  rw [encode, BitVec.toNat_ofNat, e, Nat.mod_eq_of_lt (wordOf_lt bM bd ba bb bm bf), decode6D (by rw [wordOf_major bM]), decodeMajor6D]
  simp only [wordOf_div1073741824, wordOf_div128, wordOf_div16384, wordOf_div2097152, wordOf_div268435456, bM, bd, ba, bb, bm, and_true, true_and]
  repeat (first | rw [if_pos (by first | omega | exact True.intro)] | rw [if_neg (by omega)])
  congr 2 <;> (apply BitVec.eq_of_toNat_eq; simp only [BitVec.toNat_ofNat]; omega)

theorem vins (d : BitVec 7) (a : BitVec 7) (b : BitVec 7) (m : BitVec 2) : Statement (.vins d a b m) := fun _ => by
  have h1 := d.isLt
  have h2 := a.isLt
  have h3 := b.isLt
  have h4 := m.isLt
  have bM : 109 < 128 := by omega
  have bd : d.toNat < 2 ^ 7 := by omega
  have ba : a.toNat < 2 ^ 7 := by omega
  have bb : b.toNat < 2 ^ 7 := by omega
  have bm : m.toNat < 2 ^ 2 := by omega
  have bf : 3 < 4 := by omega
  have e : encodeNat (.vins d a b m) = wordOf 109 d.toNat a.toNat b.toNat m.toNat 3 := show 0xc000006d + d.toNat * 128 + a.toNat * 16384 + b.toNat * 2097152 + m.toNat * 268435456 = _ by unfold wordOf; omega
  rw [encode, BitVec.toNat_ofNat, e, Nat.mod_eq_of_lt (wordOf_lt bM bd ba bb bm bf), decode6D (by rw [wordOf_major bM]), decodeMajor6D]
  simp only [wordOf_div1073741824, wordOf_div128, wordOf_div16384, wordOf_div2097152, wordOf_div268435456, bM, bd, ba, bb, bm, and_true, true_and]
  repeat (first | rw [if_pos (by first | omega | exact True.intro)] | rw [if_neg (by omega)])
  congr 2 <;> (apply BitVec.eq_of_toNat_eq; simp only [BitVec.toNat_ofNat]; omega)

theorem vcvt (d : BitVec 7) (a : BitVec 7) (m : BitVec 2) : Statement (.vcvt d a m) := fun _ => by
  have h1 := d.isLt
  have h2 := a.isLt
  have h3 := m.isLt
  have bM : 110 < 128 := by omega
  have bd : d.toNat < 2 ^ 7 := by omega
  have ba : a.toNat < 2 ^ 7 := by omega
  have bb : 0 < 2 ^ 7 := by omega
  have bm : m.toNat < 2 ^ 2 := by omega
  have bf : 0 < 4 := by omega
  have e : encodeNat (.vcvt d a m) = wordOf 110 d.toNat a.toNat 0 m.toNat 0 := show 0x6e + d.toNat * 128 + a.toNat * 16384 + m.toNat * 268435456 = _ by unfold wordOf; omega
  rw [encode, BitVec.toNat_ofNat, e, Nat.mod_eq_of_lt (wordOf_lt bM bd ba bb bm bf), decode6E (by rw [wordOf_major bM]), decodeMajor6E]
  simp only [wordOf_div1073741824, wordOf_div128, wordOf_div16384, wordOf_div2097152, wordOf_div268435456, bM, bd, ba, bb, bm, and_true, true_and]
  repeat (first | rw [if_pos (by first | omega | exact True.intro)] | rw [if_neg (by omega)])
  congr 2 <;> (apply BitVec.eq_of_toNat_eq; simp only [BitVec.toNat_ofNat]; omega)

theorem vquant (d : BitVec 7) (a : BitVec 7) (b : BitVec 7) (m : BitVec 2) : Statement (.vquant d a b m) := fun _ => by
  have h1 := d.isLt
  have h2 := a.isLt
  have h3 := b.isLt
  have h4 := m.isLt
  have bM : 110 < 128 := by omega
  have bd : d.toNat < 2 ^ 7 := by omega
  have ba : a.toNat < 2 ^ 7 := by omega
  have bb : b.toNat < 2 ^ 7 := by omega
  have bm : m.toNat < 2 ^ 2 := by omega
  have bf : 1 < 4 := by omega
  have e : encodeNat (.vquant d a b m) = wordOf 110 d.toNat a.toNat b.toNat m.toNat 1 := show 0x4000006e + d.toNat * 128 + a.toNat * 16384 + b.toNat * 2097152 + m.toNat * 268435456 = _ by unfold wordOf; omega
  rw [encode, BitVec.toNat_ofNat, e, Nat.mod_eq_of_lt (wordOf_lt bM bd ba bb bm bf), decode6E (by rw [wordOf_major bM]), decodeMajor6E]
  simp only [wordOf_div1073741824, wordOf_div128, wordOf_div16384, wordOf_div2097152, wordOf_div268435456, bM, bd, ba, bb, bm, and_true, true_and]
  repeat (first | rw [if_pos (by first | omega | exact True.intro)] | rw [if_neg (by omega)])
  congr 2 <;> (apply BitVec.eq_of_toNat_eq; simp only [BitVec.toNat_ofNat]; omega)

theorem vdequant (d : BitVec 7) (a : BitVec 7) (b : BitVec 7) (m : BitVec 2) : Statement (.vdequant d a b m) := fun _ => by
  have h1 := d.isLt
  have h2 := a.isLt
  have h3 := b.isLt
  have h4 := m.isLt
  have bM : 110 < 128 := by omega
  have bd : d.toNat < 2 ^ 7 := by omega
  have ba : a.toNat < 2 ^ 7 := by omega
  have bb : b.toNat < 2 ^ 7 := by omega
  have bm : m.toNat < 2 ^ 2 := by omega
  have bf : 2 < 4 := by omega
  have e : encodeNat (.vdequant d a b m) = wordOf 110 d.toNat a.toNat b.toNat m.toNat 2 := show 0x8000006e + d.toNat * 128 + a.toNat * 16384 + b.toNat * 2097152 + m.toNat * 268435456 = _ by unfold wordOf; omega
  rw [encode, BitVec.toNat_ofNat, e, Nat.mod_eq_of_lt (wordOf_lt bM bd ba bb bm bf), decode6E (by rw [wordOf_major bM]), decodeMajor6E]
  simp only [wordOf_div1073741824, wordOf_div128, wordOf_div16384, wordOf_div2097152, wordOf_div268435456, bM, bd, ba, bb, bm, and_true, true_and]
  repeat (first | rw [if_pos (by first | omega | exact True.intro)] | rw [if_neg (by omega)])
  congr 2 <;> (apply BitVec.eq_of_toNat_eq; simp only [BitVec.toNat_ofNat]; omega)

theorem vamax (d : BitVec 7) (a : BitVec 7) (m : BitVec 2) : Statement (.vamax d a m) := fun _ => by
  have h1 := d.isLt
  have h2 := a.isLt
  have h3 := m.isLt
  have bM : 110 < 128 := by omega
  have bd : d.toNat < 2 ^ 7 := by omega
  have ba : a.toNat < 2 ^ 7 := by omega
  have bb : 0 < 2 ^ 7 := by omega
  have bm : m.toNat < 2 ^ 2 := by omega
  have bf : 3 < 4 := by omega
  have e : encodeNat (.vamax d a m) = wordOf 110 d.toNat a.toNat 0 m.toNat 3 := show 0xc000006e + d.toNat * 128 + a.toNat * 16384 + m.toNat * 268435456 = _ by unfold wordOf; omega
  rw [encode, BitVec.toNat_ofNat, e, Nat.mod_eq_of_lt (wordOf_lt bM bd ba bb bm bf), decode6E (by rw [wordOf_major bM]), decodeMajor6E]
  simp only [wordOf_div1073741824, wordOf_div128, wordOf_div16384, wordOf_div2097152, wordOf_div268435456, bM, bd, ba, bb, bm, and_true, true_and]
  repeat (first | rw [if_pos (by first | omega | exact True.intro)] | rw [if_neg (by omega)])
  congr 2 <;> (apply BitVec.eq_of_toNat_eq; simp only [BitVec.toNat_ofNat]; omega)

theorem venc (d : BitVec 7) (a : BitVec 7) (b : BitVec 7) : Statement (.venc d a b) := fun _ => by
  have h1 := d.isLt
  have h2 := a.isLt
  have h3 := b.isLt
  have bM : 111 < 128 := by omega
  have bd : d.toNat < 2 ^ 7 := by omega
  have ba : a.toNat < 2 ^ 7 := by omega
  have bb : b.toNat < 2 ^ 7 := by omega
  have bm : 0 < 2 ^ 2 := by omega
  have bf : 0 < 4 := by omega
  have e : encodeNat (.venc d a b) = wordOf 111 d.toNat a.toNat b.toNat 0 0 := show 0x6f + d.toNat * 128 + a.toNat * 16384 + b.toNat * 2097152 = _ by unfold wordOf; omega
  rw [encode, BitVec.toNat_ofNat, e, Nat.mod_eq_of_lt (wordOf_lt bM bd ba bb bm bf), decode6F (by rw [wordOf_major bM]), decodeMajor6F]
  simp only [wordOf_div128, wordOf_div16384, wordOf_div2097152, wordOf_div268435456, bM, bd, ba, bb, bm, and_true, true_and]
  repeat (first | rw [if_pos (by first | omega | exact True.intro)] | rw [if_neg (by omega)])
  congr 2 <;> (apply BitVec.eq_of_toNat_eq; simp only [BitVec.toNat_ofNat]; omega)

theorem vdec (d : BitVec 7) (a : BitVec 7) : Statement (.vdec d a) := fun _ => by
  have h1 := d.isLt
  have h2 := a.isLt
  have bM : 111 < 128 := by omega
  have bd : d.toNat < 2 ^ 7 := by omega
  have ba : a.toNat < 2 ^ 7 := by omega
  have bb : 0 < 2 ^ 7 := by omega
  have bm : 0 < 2 ^ 2 := by omega
  have bf : 1 < 4 := by omega
  have e : encodeNat (.vdec d a) = wordOf 111 d.toNat a.toNat 0 0 1 := show 0x4000006f + d.toNat * 128 + a.toNat * 16384 = _ by unfold wordOf; omega
  rw [encode, BitVec.toNat_ofNat, e, Nat.mod_eq_of_lt (wordOf_lt bM bd ba bb bm bf), decode6F (by rw [wordOf_major bM]), decodeMajor6F]
  simp only [wordOf_div128, wordOf_div16384, wordOf_div2097152, wordOf_div268435456, bM, bd, ba, bb, bm, and_true, true_and]
  repeat (first | rw [if_pos (by first | omega | exact True.intro)] | rw [if_neg (by omega)])
  congr 2 <;> (apply BitVec.eq_of_toNat_eq; simp only [BitVec.toNat_ofNat]; omega)

theorem vencinfo (d : BitVec 7) (a : BitVec 7) : Statement (.vencinfo d a) := fun _ => by
  have h1 := d.isLt
  have h2 := a.isLt
  have bM : 111 < 128 := by omega
  have bd : d.toNat < 2 ^ 7 := by omega
  have ba : a.toNat < 2 ^ 7 := by omega
  have bb : 0 < 2 ^ 7 := by omega
  have bm : 0 < 2 ^ 2 := by omega
  have bf : 2 < 4 := by omega
  have e : encodeNat (.vencinfo d a) = wordOf 111 d.toNat a.toNat 0 0 2 := show 0x8000006f + d.toNat * 128 + a.toNat * 16384 = _ by unfold wordOf; omega
  rw [encode, BitVec.toNat_ofNat, e, Nat.mod_eq_of_lt (wordOf_lt bM bd ba bb bm bf), decode6F (by rw [wordOf_major bM]), decodeMajor6F]
  simp only [wordOf_div128, wordOf_div16384, wordOf_div2097152, wordOf_div268435456, bM, bd, ba, bb, bm, and_true, true_and]
  repeat (first | rw [if_pos (by first | omega | exact True.intro)] | rw [if_neg (by omega)])
  congr 2 <;> (apply BitVec.eq_of_toNat_eq; simp only [BitVec.toNat_ofNat]; omega)

theorem vrunend (d : BitVec 7) (a : BitVec 7) : Statement (.vrunend d a) := fun _ => by
  have h1 := d.isLt
  have h2 := a.isLt
  have bM : 111 < 128 := by omega
  have bd : d.toNat < 2 ^ 7 := by omega
  have ba : a.toNat < 2 ^ 7 := by omega
  have bb : 0 < 2 ^ 7 := by omega
  have bm : 0 < 2 ^ 2 := by omega
  have bf : 3 < 4 := by omega
  have e : encodeNat (.vrunend d a) = wordOf 111 d.toNat a.toNat 0 0 3 := show 0xc000006f + d.toNat * 128 + a.toNat * 16384 = _ by unfold wordOf; omega
  rw [encode, BitVec.toNat_ofNat, e, Nat.mod_eq_of_lt (wordOf_lt bM bd ba bb bm bf), decode6F (by rw [wordOf_major bM]), decodeMajor6F]
  simp only [wordOf_div128, wordOf_div16384, wordOf_div2097152, wordOf_div268435456, bM, bd, ba, bb, bm, and_true, true_and]
  repeat (first | rw [if_pos (by first | omega | exact True.intro)] | rw [if_neg (by omega)])
  congr 2 <;> (apply BitVec.eq_of_toNat_eq; simp only [BitVec.toNat_ofNat]; omega)

theorem vmergeidx (d : BitVec 7) (a : BitVec 7) (b : BitVec 7) (m : BitVec 2) : Statement (.vmergeidx d a b m) := fun _ => by
  have e : encodeNat (.vmergeidx d a b m) = wordOf 112 d.toNat a.toNat b.toNat m.toNat 0 := show 0x70 + d.toNat * 128 + a.toNat * 16384 + b.toNat * 2097152 + m.toNat * 268435456 = _ by unfold wordOf; omega
  rw [encode, BitVec.toNat_ofNat, e, Nat.mod_eq_of_lt (wordOf_lt (by decide) d.isLt a.isLt b.isLt m.isLt (by decide)), decode70 (wordOf_major (by decide)), decodeMajor70]
  simp [wordOf_f, wordOf_d, wordOf_a, wordOf_b, wordOf_m, d.isLt, a.isLt, b.isLt, m.isLt]

theorem vsortkv (d : BitVec 7) (a : BitVec 7) (b : BitVec 7) (m : BitVec 2) : Statement (.vsortkv d a b m) := fun _ => by
  have e : encodeNat (.vsortkv d a b m) = wordOf 112 d.toNat a.toNat b.toNat m.toNat 1 := show 0x40000070 + d.toNat * 128 + a.toNat * 16384 + b.toNat * 2097152 + m.toNat * 268435456 = _ by unfold wordOf; omega
  rw [encode, BitVec.toNat_ofNat, e, Nat.mod_eq_of_lt (wordOf_lt (by decide) d.isLt a.isLt b.isLt m.isLt (by decide)), decode70 (wordOf_major (by decide)), decodeMajor70]
  simp [wordOf_f, wordOf_d, wordOf_a, wordOf_b, wordOf_m, d.isLt, a.isLt, b.isLt, m.isLt]

theorem vhash (d : BitVec 7) (a : BitVec 7) (b : BitVec 7) (m : BitVec 2) : Statement (.vhash d a b m) := fun _ => by
  have e : encodeNat (.vhash d a b m) = wordOf 112 d.toNat a.toNat b.toNat m.toNat 2 := show 0x80000070 + d.toNat * 128 + a.toNat * 16384 + b.toNat * 2097152 + m.toNat * 268435456 = _ by unfold wordOf; omega
  rw [encode, BitVec.toNat_ofNat, e, Nat.mod_eq_of_lt (wordOf_lt (by decide) d.isLt a.isLt b.isLt m.isLt (by decide)), decode70 (wordOf_major (by decide)), decodeMajor70]
  simp [wordOf_f, wordOf_d, wordOf_a, wordOf_b, wordOf_m, d.isLt, a.isLt, b.isLt, m.isLt]

theorem vtopk (d : BitVec 7) (a : BitVec 7) (b : BitVec 7) (m : BitVec 2) : Statement (.vtopk d a b m) := fun _ => by
  have e : encodeNat (.vtopk d a b m) = wordOf 112 d.toNat a.toNat b.toNat m.toNat 3 := show 0xc0000070 + d.toNat * 128 + a.toNat * 16384 + b.toNat * 2097152 + m.toNat * 268435456 = _ by unfold wordOf; omega
  rw [encode, BitVec.toNat_ofNat, e, Nat.mod_eq_of_lt (wordOf_lt (by decide) d.isLt a.isLt b.isLt m.isLt (by decide)), decode70 (wordOf_major (by decide)), decodeMajor70]
  simp [wordOf_f, wordOf_d, wordOf_a, wordOf_b, wordOf_m, d.isLt, a.isLt, b.isLt, m.isLt]

theorem vidx (d : BitVec 7) (ia : BitVec 7) (ib : BitVec 7) (m : BitVec 2) : Statement (.vidx d ia ib m) := fun _ => by
  have e : encodeNat (.vidx d ia ib m) = wordOf 113 d.toNat ia.toNat ib.toNat m.toNat 0 := show 0x71 + d.toNat * 128 + ia.toNat * 16384 + ib.toNat * 2097152 + m.toNat * 268435456 = _ by unfold wordOf; omega
  rw [encode, BitVec.toNat_ofNat, e, Nat.mod_eq_of_lt (wordOf_lt (by decide) d.isLt ia.isLt ib.isLt m.isLt (by decide)), decode71 (wordOf_major (by decide)), decodeMajor71]
  simp [wordOf_f, wordOf_d, wordOf_a, wordOf_b, wordOf_m, d.isLt, ia.isLt, ib.isLt, m.isLt]

theorem vidxx (d : BitVec 7) (ia : BitVec 7) (ib : BitVec 7) (m : BitVec 2) : Statement (.vidxx d ia ib m) := fun _ => by
  have e : encodeNat (.vidxx d ia ib m) = wordOf 113 d.toNat ia.toNat ib.toNat m.toNat 1 := show 0x40000071 + d.toNat * 128 + ia.toNat * 16384 + ib.toNat * 2097152 + m.toNat * 268435456 = _ by unfold wordOf; omega
  rw [encode, BitVec.toNat_ofNat, e, Nat.mod_eq_of_lt (wordOf_lt (by decide) d.isLt ia.isLt ib.isLt m.isLt (by decide)), decode71 (wordOf_major (by decide)), decodeMajor71]
  simp [wordOf_f, wordOf_d, wordOf_a, wordOf_b, wordOf_m, d.isLt, ia.isLt, ib.isLt, m.isLt]

theorem vsegsum (d : BitVec 7) (a : BitVec 7) (b : BitVec 7) (m : BitVec 2) : Statement (.vsegsum d a b m) := fun _ => by
  have e : encodeNat (.vsegsum d a b m) = wordOf 114 d.toNat a.toNat b.toNat m.toNat 0 := show 0x72 + d.toNat * 128 + a.toNat * 16384 + b.toNat * 2097152 + m.toNat * 268435456 = _ by unfold wordOf; omega
  rw [encode, BitVec.toNat_ofNat, e, Nat.mod_eq_of_lt (wordOf_lt (by decide) d.isLt a.isLt b.isLt m.isLt (by decide)), decode72 (wordOf_major (by decide)), decodeMajor72]
  simp [wordOf_f, wordOf_d, wordOf_a, wordOf_b, wordOf_m, d.isLt, a.isLt, b.isLt, m.isLt]

theorem vsegmax (d : BitVec 7) (a : BitVec 7) (b : BitVec 7) (m : BitVec 2) : Statement (.vsegmax d a b m) := fun _ => by
  have e : encodeNat (.vsegmax d a b m) = wordOf 114 d.toNat a.toNat b.toNat m.toNat 1 := show 0x40000072 + d.toNat * 128 + a.toNat * 16384 + b.toNat * 2097152 + m.toNat * 268435456 = _ by unfold wordOf; omega
  rw [encode, BitVec.toNat_ofNat, e, Nat.mod_eq_of_lt (wordOf_lt (by decide) d.isLt a.isLt b.isLt m.isLt (by decide)), decode72 (wordOf_major (by decide)), decodeMajor72]
  simp [wordOf_f, wordOf_d, wordOf_a, wordOf_b, wordOf_m, d.isLt, a.isLt, b.isLt, m.isLt]

theorem vscan (d : BitVec 7) (a : BitVec 7) (b : BitVec 7) (m : BitVec 2) : Statement (.vscan d a b m) := fun _ => by
  have e : encodeNat (.vscan d a b m) = wordOf 114 d.toNat a.toNat b.toNat m.toNat 2 := show 0x80000072 + d.toNat * 128 + a.toNat * 16384 + b.toNat * 2097152 + m.toNat * 268435456 = _ by unfold wordOf; omega
  rw [encode, BitVec.toNat_ofNat, e, Nat.mod_eq_of_lt (wordOf_lt (by decide) d.isLt a.isLt b.isLt m.isLt (by decide)), decode72 (wordOf_major (by decide)), decodeMajor72]
  simp [wordOf_f, wordOf_d, wordOf_a, wordOf_b, wordOf_m, d.isLt, a.isLt, b.isLt, m.isLt]

theorem vscanx (d : BitVec 7) (a : BitVec 7) (b : BitVec 7) (m : BitVec 2) : Statement (.vscanx d a b m) := fun _ => by
  have e : encodeNat (.vscanx d a b m) = wordOf 114 d.toNat a.toNat b.toNat m.toNat 3 := show 0xc0000072 + d.toNat * 128 + a.toNat * 16384 + b.toNat * 2097152 + m.toNat * 268435456 = _ by unfold wordOf; omega
  rw [encode, BitVec.toNat_ofNat, e, Nat.mod_eq_of_lt (wordOf_lt (by decide) d.isLt a.isLt b.isLt m.isLt (by decide)), decode72 (wordOf_major (by decide)), decodeMajor72]
  simp [wordOf_f, wordOf_d, wordOf_a, wordOf_b, wordOf_m, d.isLt, a.isLt, b.isLt, m.isLt]

theorem vchain (d : BitVec 7) (a : BitVec 7) (b : BitVec 7) (m : BitVec 2) : Statement (.vchain d a b m) := fun _ => by
  have h1 := d.isLt
  have h2 := a.isLt
  have h3 := b.isLt
  have h4 := m.isLt
  have bM : 115 < 128 := by omega
  have bd : d.toNat < 2 ^ 7 := by omega
  have ba : a.toNat < 2 ^ 7 := by omega
  have bb : b.toNat < 2 ^ 7 := by omega
  have bm : m.toNat < 2 ^ 2 := by omega
  have bf : 0 < 4 := by omega
  have e : encodeNat (.vchain d a b m) = wordOf 115 d.toNat a.toNat b.toNat m.toNat 0 := show 0x73 + d.toNat * 128 + a.toNat * 16384 + b.toNat * 2097152 + m.toNat * 268435456 = _ by unfold wordOf; omega
  rw [encode, BitVec.toNat_ofNat, e, Nat.mod_eq_of_lt (wordOf_lt bM bd ba bb bm bf), decode73 (by rw [wordOf_major bM]), decodeMajor73]
  simp only [wordOf_div1073741824, wordOf_div128, wordOf_div16384, wordOf_div2097152, wordOf_div268435456, bM, bd, ba, bb, bm, and_true, true_and]
  repeat (first | rw [if_pos (by first | omega | exact True.intro)] | rw [if_neg (by omega)])
  congr 2 <;> (apply BitVec.eq_of_toNat_eq; simp only [BitVec.toNat_ofNat]; omega)

theorem vchainf (d : BitVec 7) : Statement (.vchainf d) := fun _ => by
  have h1 := d.isLt
  have bM : 115 < 128 := by omega
  have bd : d.toNat < 2 ^ 7 := by omega
  have ba : 0 < 2 ^ 7 := by omega
  have bb : 0 < 2 ^ 7 := by omega
  have bm : 0 < 2 ^ 2 := by omega
  have bf : 1 < 4 := by omega
  have e : encodeNat (.vchainf d) = wordOf 115 d.toNat 0 0 0 1 := show 0x40000073 + d.toNat * 128 = _ by unfold wordOf; omega
  rw [encode, BitVec.toNat_ofNat, e, Nat.mod_eq_of_lt (wordOf_lt bM bd ba bb bm bf), decode73 (by rw [wordOf_major bM]), decodeMajor73]
  simp only [wordOf_div1073741824, wordOf_div128, wordOf_div16384, wordOf_div2097152, wordOf_div268435456, bM, bd, ba, bb, bm, and_true, true_and]
  repeat (first | rw [if_pos (by first | omega | exact True.intro)] | rw [if_neg (by omega)])
  congr 2 <;> (apply BitVec.eq_of_toNat_eq; simp only [BitVec.toNat_ofNat]; omega)

theorem vld (d : BitVec 7) (a : BitVec 7) (m : BitVec 2) : Statement (.vld d a m) := fun _ => by
  have h1 := d.isLt
  have h2 := a.isLt
  have h3 := m.isLt
  have bM : 116 < 128 := by omega
  have bd : d.toNat < 2 ^ 7 := by omega
  have ba : a.toNat < 2 ^ 7 := by omega
  have bb : 0 < 2 ^ 7 := by omega
  have bm : m.toNat < 2 ^ 2 := by omega
  have bf : 0 < 4 := by omega
  have e : encodeNat (.vld d a m) = wordOf 116 d.toNat a.toNat 0 m.toNat 0 := show 0x74 + d.toNat * 128 + a.toNat * 16384 + m.toNat * 268435456 = _ by unfold wordOf; omega
  rw [encode, BitVec.toNat_ofNat, e, Nat.mod_eq_of_lt (wordOf_lt bM bd ba bb bm bf), decode74 (by rw [wordOf_major bM]), decodeMajor74]
  simp only [wordOf_div1073741824, wordOf_div128, wordOf_div16384, wordOf_div2097152, wordOf_div268435456, bM, bd, ba, bb, bm, and_true, true_and]
  repeat (first | rw [if_pos (by first | omega | exact True.intro)] | rw [if_neg (by omega)])
  congr 2 <;> (apply BitVec.eq_of_toNat_eq; simp only [BitVec.toNat_ofNat]; omega)

theorem vlds (d : BitVec 7) (a : BitVec 7) (b : BitVec 7) (m : BitVec 2) : Statement (.vlds d a b m) := fun _ => by
  have h1 := d.isLt
  have h2 := a.isLt
  have h3 := b.isLt
  have h4 := m.isLt
  have bM : 116 < 128 := by omega
  have bd : d.toNat < 2 ^ 7 := by omega
  have ba : a.toNat < 2 ^ 7 := by omega
  have bb : b.toNat < 2 ^ 7 := by omega
  have bm : m.toNat < 2 ^ 2 := by omega
  have bf : 1 < 4 := by omega
  have e : encodeNat (.vlds d a b m) = wordOf 116 d.toNat a.toNat b.toNat m.toNat 1 := show 0x40000074 + d.toNat * 128 + a.toNat * 16384 + b.toNat * 2097152 + m.toNat * 268435456 = _ by unfold wordOf; omega
  rw [encode, BitVec.toNat_ofNat, e, Nat.mod_eq_of_lt (wordOf_lt bM bd ba bb bm bf), decode74 (by rw [wordOf_major bM]), decodeMajor74]
  simp only [wordOf_div1073741824, wordOf_div128, wordOf_div16384, wordOf_div2097152, wordOf_div268435456, bM, bd, ba, bb, bm, and_true, true_and]
  repeat (first | rw [if_pos (by first | omega | exact True.intro)] | rw [if_neg (by omega)])
  congr 2 <;> (apply BitVec.eq_of_toNat_eq; simp only [BitVec.toNat_ofNat]; omega)

theorem vldx (d : BitVec 7) (a : BitVec 7) (b : BitVec 7) (m : BitVec 2) : Statement (.vldx d a b m) := fun _ => by
  have h1 := d.isLt
  have h2 := a.isLt
  have h3 := b.isLt
  have h4 := m.isLt
  have bM : 116 < 128 := by omega
  have bd : d.toNat < 2 ^ 7 := by omega
  have ba : a.toNat < 2 ^ 7 := by omega
  have bb : b.toNat < 2 ^ 7 := by omega
  have bm : m.toNat < 2 ^ 2 := by omega
  have bf : 2 < 4 := by omega
  have e : encodeNat (.vldx d a b m) = wordOf 116 d.toNat a.toNat b.toNat m.toNat 2 := show 0x80000074 + d.toNat * 128 + a.toNat * 16384 + b.toNat * 2097152 + m.toNat * 268435456 = _ by unfold wordOf; omega
  rw [encode, BitVec.toNat_ofNat, e, Nat.mod_eq_of_lt (wordOf_lt bM bd ba bb bm bf), decode74 (by rw [wordOf_major bM]), decodeMajor74]
  simp only [wordOf_div1073741824, wordOf_div128, wordOf_div16384, wordOf_div2097152, wordOf_div268435456, bM, bd, ba, bb, bm, and_true, true_and]
  repeat (first | rw [if_pos (by first | omega | exact True.intro)] | rw [if_neg (by omega)])
  congr 2 <;> (apply BitVec.eq_of_toNat_eq; simp only [BitVec.toNat_ofNat]; omega)

theorem vgl (d : BitVec 7) (a : BitVec 7) (b : BitVec 7) (m : BitVec 2) : Statement (.vgl d a b m) := fun _ => by
  have h1 := d.isLt
  have h2 := a.isLt
  have h3 := b.isLt
  have h4 := m.isLt
  have bM : 116 < 128 := by omega
  have bd : d.toNat < 2 ^ 7 := by omega
  have ba : a.toNat < 2 ^ 7 := by omega
  have bb : b.toNat < 2 ^ 7 := by omega
  have bm : m.toNat < 2 ^ 2 := by omega
  have bf : 3 < 4 := by omega
  have e : encodeNat (.vgl d a b m) = wordOf 116 d.toNat a.toNat b.toNat m.toNat 3 := show 0xc0000074 + d.toNat * 128 + a.toNat * 16384 + b.toNat * 2097152 + m.toNat * 268435456 = _ by unfold wordOf; omega
  rw [encode, BitVec.toNat_ofNat, e, Nat.mod_eq_of_lt (wordOf_lt bM bd ba bb bm bf), decode74 (by rw [wordOf_major bM]), decodeMajor74]
  simp only [wordOf_div1073741824, wordOf_div128, wordOf_div16384, wordOf_div2097152, wordOf_div268435456, bM, bd, ba, bb, bm, and_true, true_and]
  repeat (first | rw [if_pos (by first | omega | exact True.intro)] | rw [if_neg (by omega)])
  congr 2 <;> (apply BitVec.eq_of_toNat_eq; simp only [BitVec.toNat_ofNat]; omega)

theorem vldff (d : BitVec 7) (a : BitVec 7) (m : BitVec 2) : Statement (.vldff d a m) := fun _ => by
  have h1 := d.isLt
  have h2 := a.isLt
  have h3 := m.isLt
  have bM : 117 < 128 := by omega
  have bd : d.toNat < 2 ^ 7 := by omega
  have ba : a.toNat < 2 ^ 7 := by omega
  have bb : 0 < 2 ^ 7 := by omega
  have bm : m.toNat < 2 ^ 2 := by omega
  have bf : 0 < 4 := by omega
  have e : encodeNat (.vldff d a m) = wordOf 117 d.toNat a.toNat 0 m.toNat 0 := show 0x75 + d.toNat * 128 + a.toNat * 16384 + m.toNat * 268435456 = _ by unfold wordOf; omega
  rw [encode, BitVec.toNat_ofNat, e, Nat.mod_eq_of_lt (wordOf_lt bM bd ba bb bm bf), decode75 (by rw [wordOf_major bM]), decodeMajor75]
  simp only [wordOf_div1073741824, wordOf_div128, wordOf_div16384, wordOf_div2097152, wordOf_div268435456, bM, bd, ba, bb, bm, and_true, true_and]
  repeat (first | rw [if_pos (by first | omega | exact True.intro)] | rw [if_neg (by omega)])
  congr 2 <;> (apply BitVec.eq_of_toNat_eq; simp only [BitVec.toNat_ofNat]; omega)

theorem vldsff (d : BitVec 7) (a : BitVec 7) (b : BitVec 7) (m : BitVec 2) : Statement (.vldsff d a b m) := fun _ => by
  have h1 := d.isLt
  have h2 := a.isLt
  have h3 := b.isLt
  have h4 := m.isLt
  have bM : 117 < 128 := by omega
  have bd : d.toNat < 2 ^ 7 := by omega
  have ba : a.toNat < 2 ^ 7 := by omega
  have bb : b.toNat < 2 ^ 7 := by omega
  have bm : m.toNat < 2 ^ 2 := by omega
  have bf : 1 < 4 := by omega
  have e : encodeNat (.vldsff d a b m) = wordOf 117 d.toNat a.toNat b.toNat m.toNat 1 := show 0x40000075 + d.toNat * 128 + a.toNat * 16384 + b.toNat * 2097152 + m.toNat * 268435456 = _ by unfold wordOf; omega
  rw [encode, BitVec.toNat_ofNat, e, Nat.mod_eq_of_lt (wordOf_lt bM bd ba bb bm bf), decode75 (by rw [wordOf_major bM]), decodeMajor75]
  simp only [wordOf_div1073741824, wordOf_div128, wordOf_div16384, wordOf_div2097152, wordOf_div268435456, bM, bd, ba, bb, bm, and_true, true_and]
  repeat (first | rw [if_pos (by first | omega | exact True.intro)] | rw [if_neg (by omega)])
  congr 2 <;> (apply BitVec.eq_of_toNat_eq; simp only [BitVec.toNat_ofNat]; omega)

theorem vldxff (d : BitVec 7) (a : BitVec 7) (b : BitVec 7) (m : BitVec 2) : Statement (.vldxff d a b m) := fun _ => by
  have h1 := d.isLt
  have h2 := a.isLt
  have h3 := b.isLt
  have h4 := m.isLt
  have bM : 117 < 128 := by omega
  have bd : d.toNat < 2 ^ 7 := by omega
  have ba : a.toNat < 2 ^ 7 := by omega
  have bb : b.toNat < 2 ^ 7 := by omega
  have bm : m.toNat < 2 ^ 2 := by omega
  have bf : 2 < 4 := by omega
  have e : encodeNat (.vldxff d a b m) = wordOf 117 d.toNat a.toNat b.toNat m.toNat 2 := show 0x80000075 + d.toNat * 128 + a.toNat * 16384 + b.toNat * 2097152 + m.toNat * 268435456 = _ by unfold wordOf; omega
  rw [encode, BitVec.toNat_ofNat, e, Nat.mod_eq_of_lt (wordOf_lt bM bd ba bb bm bf), decode75 (by rw [wordOf_major bM]), decodeMajor75]
  simp only [wordOf_div1073741824, wordOf_div128, wordOf_div16384, wordOf_div2097152, wordOf_div268435456, bM, bd, ba, bb, bm, and_true, true_and]
  repeat (first | rw [if_pos (by first | omega | exact True.intro)] | rw [if_neg (by omega)])
  congr 2 <;> (apply BitVec.eq_of_toNat_eq; simp only [BitVec.toNat_ofNat]; omega)

theorem ngather (d : BitVec 7) (a : BitVec 7) (b : BitVec 7) (m : BitVec 2) : Statement (.ngather d a b m) := fun _ => by
  have h1 := d.isLt
  have h2 := a.isLt
  have h3 := b.isLt
  have h4 := m.isLt
  have bM : 117 < 128 := by omega
  have bd : d.toNat < 2 ^ 7 := by omega
  have ba : a.toNat < 2 ^ 7 := by omega
  have bb : b.toNat < 2 ^ 7 := by omega
  have bm : m.toNat < 2 ^ 2 := by omega
  have bf : 3 < 4 := by omega
  have e : encodeNat (.ngather d a b m) = wordOf 117 d.toNat a.toNat b.toNat m.toNat 3 := show 0xc0000075 + d.toNat * 128 + a.toNat * 16384 + b.toNat * 2097152 + m.toNat * 268435456 = _ by unfold wordOf; omega
  rw [encode, BitVec.toNat_ofNat, e, Nat.mod_eq_of_lt (wordOf_lt bM bd ba bb bm bf), decode75 (by rw [wordOf_major bM]), decodeMajor75]
  simp only [wordOf_div1073741824, wordOf_div128, wordOf_div16384, wordOf_div2097152, wordOf_div268435456, bM, bd, ba, bb, bm, and_true, true_and]
  repeat (first | rw [if_pos (by first | omega | exact True.intro)] | rw [if_neg (by omega)])
  congr 2 <;> (apply BitVec.eq_of_toNat_eq; simp only [BitVec.toNat_ofNat]; omega)

theorem vst (d : BitVec 7) (a : BitVec 7) (m : BitVec 2) : Statement (.vst d a m) := fun _ => by
  have h1 := d.isLt
  have h2 := a.isLt
  have h3 := m.isLt
  have bM : 118 < 128 := by omega
  have bd : d.toNat < 2 ^ 7 := by omega
  have ba : a.toNat < 2 ^ 7 := by omega
  have bb : 0 < 2 ^ 7 := by omega
  have bm : m.toNat < 2 ^ 2 := by omega
  have bf : 0 < 4 := by omega
  have e : encodeNat (.vst d a m) = wordOf 118 d.toNat a.toNat 0 m.toNat 0 := show 0x76 + d.toNat * 128 + a.toNat * 16384 + m.toNat * 268435456 = _ by unfold wordOf; omega
  rw [encode, BitVec.toNat_ofNat, e, Nat.mod_eq_of_lt (wordOf_lt bM bd ba bb bm bf), decode76 (by rw [wordOf_major bM]), decodeMajor76]
  simp only [wordOf_div1073741824, wordOf_div128, wordOf_div16384, wordOf_div2097152, wordOf_div268435456, bM, bd, ba, bb, bm, and_true, true_and]
  repeat (first | rw [if_pos (by first | omega | exact True.intro)] | rw [if_neg (by omega)])
  congr 2 <;> (apply BitVec.eq_of_toNat_eq; simp only [BitVec.toNat_ofNat]; omega)

theorem vsts (d : BitVec 7) (a : BitVec 7) (b : BitVec 7) (m : BitVec 2) : Statement (.vsts d a b m) := fun _ => by
  have h1 := d.isLt
  have h2 := a.isLt
  have h3 := b.isLt
  have h4 := m.isLt
  have bM : 118 < 128 := by omega
  have bd : d.toNat < 2 ^ 7 := by omega
  have ba : a.toNat < 2 ^ 7 := by omega
  have bb : b.toNat < 2 ^ 7 := by omega
  have bm : m.toNat < 2 ^ 2 := by omega
  have bf : 1 < 4 := by omega
  have e : encodeNat (.vsts d a b m) = wordOf 118 d.toNat a.toNat b.toNat m.toNat 1 := show 0x40000076 + d.toNat * 128 + a.toNat * 16384 + b.toNat * 2097152 + m.toNat * 268435456 = _ by unfold wordOf; omega
  rw [encode, BitVec.toNat_ofNat, e, Nat.mod_eq_of_lt (wordOf_lt bM bd ba bb bm bf), decode76 (by rw [wordOf_major bM]), decodeMajor76]
  simp only [wordOf_div1073741824, wordOf_div128, wordOf_div16384, wordOf_div2097152, wordOf_div268435456, bM, bd, ba, bb, bm, and_true, true_and]
  repeat (first | rw [if_pos (by first | omega | exact True.intro)] | rw [if_neg (by omega)])
  congr 2 <;> (apply BitVec.eq_of_toNat_eq; simp only [BitVec.toNat_ofNat]; omega)

theorem vstx (d : BitVec 7) (a : BitVec 7) (b : BitVec 7) (m : BitVec 2) : Statement (.vstx d a b m) := fun _ => by
  have h1 := d.isLt
  have h2 := a.isLt
  have h3 := b.isLt
  have h4 := m.isLt
  have bM : 118 < 128 := by omega
  have bd : d.toNat < 2 ^ 7 := by omega
  have ba : a.toNat < 2 ^ 7 := by omega
  have bb : b.toNat < 2 ^ 7 := by omega
  have bm : m.toNat < 2 ^ 2 := by omega
  have bf : 2 < 4 := by omega
  have e : encodeNat (.vstx d a b m) = wordOf 118 d.toNat a.toNat b.toNat m.toNat 2 := show 0x80000076 + d.toNat * 128 + a.toNat * 16384 + b.toNat * 2097152 + m.toNat * 268435456 = _ by unfold wordOf; omega
  rw [encode, BitVec.toNat_ofNat, e, Nat.mod_eq_of_lt (wordOf_lt bM bd ba bb bm bf), decode76 (by rw [wordOf_major bM]), decodeMajor76]
  simp only [wordOf_div1073741824, wordOf_div128, wordOf_div16384, wordOf_div2097152, wordOf_div268435456, bM, bd, ba, bb, bm, and_true, true_and]
  repeat (first | rw [if_pos (by first | omega | exact True.intro)] | rw [if_neg (by omega)])
  congr 2 <;> (apply BitVec.eq_of_toNat_eq; simp only [BitVec.toNat_ofNat]; omega)

theorem vsc (d : BitVec 7) (a : BitVec 7) (b : BitVec 7) (m : BitVec 2) : Statement (.vsc d a b m) := fun _ => by
  have h1 := d.isLt
  have h2 := a.isLt
  have h3 := b.isLt
  have h4 := m.isLt
  have bM : 118 < 128 := by omega
  have bd : d.toNat < 2 ^ 7 := by omega
  have ba : a.toNat < 2 ^ 7 := by omega
  have bb : b.toNat < 2 ^ 7 := by omega
  have bm : m.toNat < 2 ^ 2 := by omega
  have bf : 3 < 4 := by omega
  have e : encodeNat (.vsc d a b m) = wordOf 118 d.toNat a.toNat b.toNat m.toNat 3 := show 0xc0000076 + d.toNat * 128 + a.toNat * 16384 + b.toNat * 2097152 + m.toNat * 268435456 = _ by unfold wordOf; omega
  rw [encode, BitVec.toNat_ofNat, e, Nat.mod_eq_of_lt (wordOf_lt bM bd ba bb bm bf), decode76 (by rw [wordOf_major bM]), decodeMajor76]
  simp only [wordOf_div1073741824, wordOf_div128, wordOf_div16384, wordOf_div2097152, wordOf_div268435456, bM, bd, ba, bb, bm, and_true, true_and]
  repeat (first | rw [if_pos (by first | omega | exact True.intro)] | rw [if_neg (by omega)])
  congr 2 <;> (apply BitVec.eq_of_toNat_eq; simp only [BitVec.toNat_ofNat]; omega)

theorem vstxr (d : BitVec 7) (a : BitVec 7) (b : BitVec 7) (m : BitVec 2) : Statement (.vstxr d a b m) := fun _ => by
  have e : encodeNat (.vstxr d a b m) = wordOf 119 d.toNat a.toNat b.toNat m.toNat 0 := show 0x77 + d.toNat * 128 + a.toNat * 16384 + b.toNat * 2097152 + m.toNat * 268435456 = _ by unfold wordOf; omega
  rw [encode, BitVec.toNat_ofNat, e, Nat.mod_eq_of_lt (wordOf_lt (by decide) d.isLt a.isLt b.isLt m.isLt (by decide)), decode77 (wordOf_major (by decide)), decodeMajor77]
  simp [wordOf_f, wordOf_d, wordOf_a, wordOf_b, wordOf_m, d.isLt, a.isLt, b.isLt, m.isLt]

theorem vamoadd (d : BitVec 7) (a : BitVec 7) (b : BitVec 7) (m : BitVec 2) : Statement (.vamoadd d a b m) := fun _ => by
  have e : encodeNat (.vamoadd d a b m) = wordOf 120 d.toNat a.toNat b.toNat m.toNat 0 := show 0x78 + d.toNat * 128 + a.toNat * 16384 + b.toNat * 2097152 + m.toNat * 268435456 = _ by unfold wordOf; omega
  rw [encode, BitVec.toNat_ofNat, e, Nat.mod_eq_of_lt (wordOf_lt (by decide) d.isLt a.isLt b.isLt m.isLt (by decide)), decode78 (wordOf_major (by decide)), decodeMajor78]
  simp [wordOf_f, wordOf_d, wordOf_a, wordOf_b, wordOf_m, d.isLt, a.isLt, b.isLt, m.isLt]

theorem vamomin (d : BitVec 7) (a : BitVec 7) (b : BitVec 7) (m : BitVec 2) : Statement (.vamomin d a b m) := fun _ => by
  have e : encodeNat (.vamomin d a b m) = wordOf 120 d.toNat a.toNat b.toNat m.toNat 1 := show 0x40000078 + d.toNat * 128 + a.toNat * 16384 + b.toNat * 2097152 + m.toNat * 268435456 = _ by unfold wordOf; omega
  rw [encode, BitVec.toNat_ofNat, e, Nat.mod_eq_of_lt (wordOf_lt (by decide) d.isLt a.isLt b.isLt m.isLt (by decide)), decode78 (wordOf_major (by decide)), decodeMajor78]
  simp [wordOf_f, wordOf_d, wordOf_a, wordOf_b, wordOf_m, d.isLt, a.isLt, b.isLt, m.isLt]

theorem vamomax (d : BitVec 7) (a : BitVec 7) (b : BitVec 7) (m : BitVec 2) : Statement (.vamomax d a b m) := fun _ => by
  have e : encodeNat (.vamomax d a b m) = wordOf 120 d.toNat a.toNat b.toNat m.toNat 2 := show 0x80000078 + d.toNat * 128 + a.toNat * 16384 + b.toNat * 2097152 + m.toNat * 268435456 = _ by unfold wordOf; omega
  rw [encode, BitVec.toNat_ofNat, e, Nat.mod_eq_of_lt (wordOf_lt (by decide) d.isLt a.isLt b.isLt m.isLt (by decide)), decode78 (wordOf_major (by decide)), decodeMajor78]
  simp [wordOf_f, wordOf_d, wordOf_a, wordOf_b, wordOf_m, d.isLt, a.isLt, b.isLt, m.isLt]

theorem vamoswap (d : BitVec 7) (a : BitVec 7) (b : BitVec 7) (m : BitVec 2) : Statement (.vamoswap d a b m) := fun _ => by
  have e : encodeNat (.vamoswap d a b m) = wordOf 120 d.toNat a.toNat b.toNat m.toNat 3 := show 0xc0000078 + d.toNat * 128 + a.toNat * 16384 + b.toNat * 2097152 + m.toNat * 268435456 = _ by unfold wordOf; omega
  rw [encode, BitVec.toNat_ofNat, e, Nat.mod_eq_of_lt (wordOf_lt (by decide) d.isLt a.isLt b.isLt m.isLt (by decide)), decode78 (wordOf_major (by decide)), decodeMajor78]
  simp [wordOf_f, wordOf_d, wordOf_a, wordOf_b, wordOf_m, d.isLt, a.isLt, b.isLt, m.isLt]

theorem vamoand (d : BitVec 7) (a : BitVec 7) (b : BitVec 7) (m : BitVec 2) : Statement (.vamoand d a b m) := fun _ => by
  have e : encodeNat (.vamoand d a b m) = wordOf 121 d.toNat a.toNat b.toNat m.toNat 0 := show 0x79 + d.toNat * 128 + a.toNat * 16384 + b.toNat * 2097152 + m.toNat * 268435456 = _ by unfold wordOf; omega
  rw [encode, BitVec.toNat_ofNat, e, Nat.mod_eq_of_lt (wordOf_lt (by decide) d.isLt a.isLt b.isLt m.isLt (by decide)), decode79 (wordOf_major (by decide)), decodeMajor79]
  simp [wordOf_f, wordOf_d, wordOf_a, wordOf_b, wordOf_m, d.isLt, a.isLt, b.isLt, m.isLt]

theorem vamoor (d : BitVec 7) (a : BitVec 7) (b : BitVec 7) (m : BitVec 2) : Statement (.vamoor d a b m) := fun _ => by
  have e : encodeNat (.vamoor d a b m) = wordOf 121 d.toNat a.toNat b.toNat m.toNat 1 := show 0x40000079 + d.toNat * 128 + a.toNat * 16384 + b.toNat * 2097152 + m.toNat * 268435456 = _ by unfold wordOf; omega
  rw [encode, BitVec.toNat_ofNat, e, Nat.mod_eq_of_lt (wordOf_lt (by decide) d.isLt a.isLt b.isLt m.isLt (by decide)), decode79 (wordOf_major (by decide)), decodeMajor79]
  simp [wordOf_f, wordOf_d, wordOf_a, wordOf_b, wordOf_m, d.isLt, a.isLt, b.isLt, m.isLt]

theorem vamofmax (d : BitVec 7) (a : BitVec 7) (b : BitVec 7) (m : BitVec 2) : Statement (.vamofmax d a b m) := fun _ => by
  have e : encodeNat (.vamofmax d a b m) = wordOf 121 d.toNat a.toNat b.toNat m.toNat 2 := show 0x80000079 + d.toNat * 128 + a.toNat * 16384 + b.toNat * 2097152 + m.toNat * 268435456 = _ by unfold wordOf; omega
  rw [encode, BitVec.toNat_ofNat, e, Nat.mod_eq_of_lt (wordOf_lt (by decide) d.isLt a.isLt b.isLt m.isLt (by decide)), decode79 (wordOf_major (by decide)), decodeMajor79]
  simp [wordOf_f, wordOf_d, wordOf_a, wordOf_b, wordOf_m, d.isLt, a.isLt, b.isLt, m.isLt]

theorem vamocas (d : BitVec 7) (a : BitVec 7) (b : BitVec 7) (m : BitVec 2) : Statement (.vamocas d a b m) := fun _ => by
  have e : encodeNat (.vamocas d a b m) = wordOf 121 d.toNat a.toNat b.toNat m.toNat 3 := show 0xc0000079 + d.toNat * 128 + a.toNat * 16384 + b.toNat * 2097152 + m.toNat * 268435456 = _ by unfold wordOf; omega
  rw [encode, BitVec.toNat_ofNat, e, Nat.mod_eq_of_lt (wordOf_lt (by decide) d.isLt a.isLt b.isLt m.isLt (by decide)), decode79 (wordOf_major (by decide)), decodeMajor79]
  simp [wordOf_f, wordOf_d, wordOf_a, wordOf_b, wordOf_m, d.isLt, a.isLt, b.isLt, m.isLt]

theorem vtrans (d : BitVec 7) (a : BitVec 7) (b : BitVec 7) (m : BitVec 2) : Statement (.vtrans d a b m) := fun _ => by
  have h1 := d.isLt
  have h2 := a.isLt
  have h3 := b.isLt
  have h4 := m.isLt
  have bM : 122 < 128 := by omega
  have bd : d.toNat < 2 ^ 7 := by omega
  have ba : a.toNat < 2 ^ 7 := by omega
  have bb : b.toNat < 2 ^ 7 := by omega
  have bm : m.toNat < 2 ^ 2 := by omega
  have bf : 0 < 4 := by omega
  have e : encodeNat (.vtrans d a b m) = wordOf 122 d.toNat a.toNat b.toNat m.toNat 0 := show 0x7a + d.toNat * 128 + a.toNat * 16384 + b.toNat * 2097152 + m.toNat * 268435456 = _ by unfold wordOf; omega
  rw [encode, BitVec.toNat_ofNat, e, Nat.mod_eq_of_lt (wordOf_lt bM bd ba bb bm bf), decode7A (by rw [wordOf_major bM]), decodeMajor7A]
  simp only [wordOf_div1073741824, wordOf_div128, wordOf_div16384, wordOf_div2097152, wordOf_div268435456, bM, bd, ba, bb, bm, and_true, true_and]
  repeat (first | rw [if_pos (by first | omega | exact True.intro)] | rw [if_neg (by omega)])
  congr 2 <;> (apply BitVec.eq_of_toNat_eq; simp only [BitVec.toNat_ofNat]; omega)

theorem vtransff (d : BitVec 7) (a : BitVec 7) (b : BitVec 7) (m : BitVec 2) : Statement (.vtransff d a b m) := fun _ => by
  have h1 := d.isLt
  have h2 := a.isLt
  have h3 := b.isLt
  have h4 := m.isLt
  have bM : 122 < 128 := by omega
  have bd : d.toNat < 2 ^ 7 := by omega
  have ba : a.toNat < 2 ^ 7 := by omega
  have bb : b.toNat < 2 ^ 7 := by omega
  have bm : m.toNat < 2 ^ 2 := by omega
  have bf : 1 < 4 := by omega
  have e : encodeNat (.vtransff d a b m) = wordOf 122 d.toNat a.toNat b.toNat m.toNat 1 := show 0x4000007a + d.toNat * 128 + a.toNat * 16384 + b.toNat * 2097152 + m.toNat * 268435456 = _ by unfold wordOf; omega
  rw [encode, BitVec.toNat_ofNat, e, Nat.mod_eq_of_lt (wordOf_lt bM bd ba bb bm bf), decode7A (by rw [wordOf_major bM]), decodeMajor7A]
  simp only [wordOf_div1073741824, wordOf_div128, wordOf_div16384, wordOf_div2097152, wordOf_div268435456, bM, bd, ba, bb, bm, and_true, true_and]
  repeat (first | rw [if_pos (by first | omega | exact True.intro)] | rw [if_neg (by omega)])
  congr 2 <;> (apply BitVec.eq_of_toNat_eq; simp only [BitVec.toNat_ofNat]; omega)

theorem vpref (a : BitVec 7) (b : BitVec 7) (m : BitVec 2) : Statement (.vpref a b m) := fun _ => by
  have h1 := a.isLt
  have h2 := b.isLt
  have h3 := m.isLt
  have bM : 122 < 128 := by omega
  have bd : 0 < 2 ^ 7 := by omega
  have ba : a.toNat < 2 ^ 7 := by omega
  have bb : b.toNat < 2 ^ 7 := by omega
  have bm : m.toNat < 2 ^ 2 := by omega
  have bf : 2 < 4 := by omega
  have e : encodeNat (.vpref a b m) = wordOf 122 0 a.toNat b.toNat m.toNat 2 := show 0x8000007a + a.toNat * 16384 + b.toNat * 2097152 + m.toNat * 268435456 = _ by unfold wordOf; omega
  rw [encode, BitVec.toNat_ofNat, e, Nat.mod_eq_of_lt (wordOf_lt bM bd ba bb bm bf), decode7A (by rw [wordOf_major bM]), decodeMajor7A]
  simp only [wordOf_div1073741824, wordOf_div128, wordOf_div16384, wordOf_div2097152, wordOf_div268435456, bM, bd, ba, bb, bm, and_true, true_and]
  repeat (first | rw [if_pos (by first | omega | exact True.intro)] | rw [if_neg (by omega)])
  congr 2 <;> (apply BitVec.eq_of_toNat_eq; simp only [BitVec.toNat_ofNat]; omega)

theorem vfence (id : BitVec 4) (scope : BitVec 3) : Statement (.vfence id scope) := fun _ => by
  have h1 := id.isLt
  have h2 := scope.isLt
  have bM : 123 < 128 := by omega
  have bd : 0 < 2 ^ 7 := by omega
  have ba : scope.toNat < 2 ^ 7 := by omega
  have bb : id.toNat < 2 ^ 7 := by omega
  have bm : 0 < 2 ^ 2 := by omega
  have bf : 0 < 4 := by omega
  have e : encodeNat (.vfence id scope) = wordOf 123 0 scope.toNat id.toNat 0 0 := show 0x7b + id.toNat * 2097152 + scope.toNat * 16384 = _ by unfold wordOf; omega
  rw [encode, BitVec.toNat_ofNat, e, Nat.mod_eq_of_lt (wordOf_lt bM bd ba bb bm bf), decode7B (by rw [wordOf_major bM]), decodeMajor7B]
  simp only [wordOf_div1024, wordOf_div128, wordOf_div131072, wordOf_div16384, wordOf_div2097152, wordOf_div268435456, wordOf_div33554432, bM, bd, ba, bb, bm, and_true, true_and]
  repeat (first | rw [if_pos (by first | omega | exact True.intro)] | rw [if_neg (by omega)])
  congr 2 <;> (apply BitVec.eq_of_toNat_eq; simp only [BitVec.toNat_ofNat]; omega)

theorem barwait (id : BitVec 4) : Statement (.barwait id) := fun _ => by
  have h1 := id.isLt
  have bM : 123 < 128 := by omega
  have bd : 0 < 2 ^ 7 := by omega
  have ba : 0 < 2 ^ 7 := by omega
  have bb : id.toNat < 2 ^ 7 := by omega
  have bm : 0 < 2 ^ 2 := by omega
  have bf : 1 < 4 := by omega
  have e : encodeNat (.barwait id) = wordOf 123 0 0 id.toNat 0 1 := show 0x4000007b + id.toNat * 2097152 = _ by unfold wordOf; omega
  rw [encode, BitVec.toNat_ofNat, e, Nat.mod_eq_of_lt (wordOf_lt bM bd ba bb bm bf), decode7B (by rw [wordOf_major bM]), decodeMajor7B]
  simp only [wordOf_div1024, wordOf_div128, wordOf_div131072, wordOf_div16384, wordOf_div2097152, wordOf_div268435456, wordOf_div33554432, bM, bd, ba, bb, bm, and_true, true_and]
  repeat (first | rw [if_pos (by first | omega | exact True.intro)] | rw [if_neg (by omega)])
  congr 2 <;> (apply BitVec.eq_of_toNat_eq; simp only [BitVec.toNat_ofNat]; omega)

theorem vwait (a : BitVec 7) (b : BitVec 7) (scope : BitVec 3) : Statement (.vwait a b scope) := fun _ => by
  have h1 := a.isLt
  have h2 := b.isLt
  have h3 := scope.isLt
  have bM : 123 < 128 := by omega
  have bd : scope.toNat < 2 ^ 7 := by omega
  have ba : a.toNat < 2 ^ 7 := by omega
  have bb : b.toNat < 2 ^ 7 := by omega
  have bm : 0 < 2 ^ 2 := by omega
  have bf : 2 < 4 := by omega
  have e : encodeNat (.vwait a b scope) = wordOf 123 scope.toNat a.toNat b.toNat 0 2 := show 0x8000007b + a.toNat * 16384 + b.toNat * 2097152 + scope.toNat * 128 = _ by unfold wordOf; omega
  rw [encode, BitVec.toNat_ofNat, e, Nat.mod_eq_of_lt (wordOf_lt bM bd ba bb bm bf), decode7B (by rw [wordOf_major bM]), decodeMajor7B]
  simp only [wordOf_div1024, wordOf_div128, wordOf_div131072, wordOf_div16384, wordOf_div2097152, wordOf_div268435456, wordOf_div33554432, bM, bd, ba, bb, bm, and_true, true_and]
  repeat (first | rw [if_pos (by first | omega | exact True.intro)] | rw [if_neg (by omega)])
  congr 2 <;> (apply BitVec.eq_of_toNat_eq; simp only [BitVec.toNat_ofNat]; omega)

theorem vldseg (d : BitVec 7) (a : BitVec 7) (b : BitVec 7) (nf : BitVec 4) : Statement (.vldseg d a b nf) := fun _ => by
  have h1 := d.isLt
  have h2 := a.isLt
  have h3 := b.isLt
  have h4 := nf.isLt
  have bM : 124 < 128 := by omega
  have bd : d.toNat < 2 ^ 7 := by omega
  have ba : a.toNat < 2 ^ 7 := by omega
  have bb : b.toNat < 2 ^ 7 := by omega
  have bm : (nf.toNat % 4) < 2 ^ 2 := by omega
  have bf : (nf.toNat / 4) < 4 := by omega
  have e : encodeNat (.vldseg d a b nf) = wordOf 124 d.toNat a.toNat b.toNat (nf.toNat % 4) (nf.toNat / 4) := show 0x7c + d.toNat * 128 + a.toNat * 16384 + b.toNat * 2097152 + nf.toNat * 268435456 = _ by unfold wordOf; omega
  rw [encode, BitVec.toNat_ofNat, e, Nat.mod_eq_of_lt (wordOf_lt bM bd ba bb bm bf), decode7C (by rw [wordOf_major bM]), decodeMajor7C]
  simp only [wordOf_div128, wordOf_div16384, wordOf_div2097152, wordOf_div268435456, bM, bd, ba, bb, bm, and_true, true_and]
  congr 2 <;> (apply BitVec.eq_of_toNat_eq; simp only [BitVec.toNat_ofNat]; omega)

theorem appload : Statement .appload := fun h => nomatch h

theorem appkill : Statement .appkill := fun h => nomatch h

theorem appstat : Statement .appstat := fun h => nomatch h

theorem powercap : Statement .powercap := fun h => nomatch h

theorem tenantset : Statement .tenantset := fun h => nomatch h

theorem cmdReservedCode : Statement .cmdReservedCode := fun h => nomatch h

theorem mgmtRegisterWrite : Statement .mgmtRegisterWrite := fun h => nomatch h

theorem h2dMessage : Statement .h2dMessage := fun h => nomatch h

theorem d2hSlotRelease : Statement .d2hSlotRelease := fun h => nomatch h

theorem readbackHartState : Statement .readbackHartState := fun h => nomatch h

theorem readbackEngineQueue : Statement .readbackEngineQueue := fun h => nomatch h

theorem readbackSaveArea : Statement .readbackSaveArea := fun h => nomatch h

theorem readbackErrorLog : Statement .readbackErrorLog := fun h => nomatch h

theorem readbackLinkStatus : Statement .readbackLinkStatus := fun h => nomatch h

theorem readbackMemory : Statement .readbackMemory := fun h => nomatch h

theorem readbackAlwaysOnLog : Statement .readbackAlwaysOnLog := fun h => nomatch h

theorem readbackBadSpace : Statement .readbackBadSpace := fun h => nomatch h

theorem readbackComplete : Statement .readbackComplete := fun h => nomatch h

theorem riuraExit : Statement .riuraExit := fun h => nomatch h

theorem riuraLaunch : Statement .riuraLaunch := fun h => nomatch h

theorem riuraWait : Statement .riuraWait := fun h => nomatch h

theorem riuraWaitTimeout : Statement .riuraWaitTimeout := fun h => nomatch h

theorem riuraCancel : Statement .riuraCancel := fun h => nomatch h

theorem riuraMap : Statement .riuraMap := fun h => nomatch h

theorem riuraUnmap : Statement .riuraUnmap := fun h => nomatch h

theorem riuraProtect : Statement .riuraProtect := fun h => nomatch h

theorem riuraMigrate : Statement .riuraMigrate := fun h => nomatch h

theorem migrationCopyDone : Statement .migrationCopyDone := fun h => nomatch h

theorem migrationCopyFail : Statement .migrationCopyFail := fun h => nomatch h

theorem riuraKvalloc : Statement .riuraKvalloc := fun h => nomatch h

theorem riuraKvfree : Statement .riuraKvfree := fun h => nomatch h

theorem queryDeviceShape : Statement .queryDeviceShape := fun h => nomatch h

theorem queryWeightStore : Statement .queryWeightStore := fun h => nomatch h

theorem queryAddress : Statement .queryAddress := fun h => nomatch h

theorem queryKvwin : Statement .queryKvwin := fun h => nomatch h

theorem riuraTime : Statement .riuraTime := fun h => nomatch h

theorem hostmsgSend : Statement .hostmsgSend := fun h => nomatch h

theorem hostmsgRecv : Statement .hostmsgRecv := fun h => nomatch h

theorem hostmsgTimeout : Statement .hostmsgTimeout := fun h => nomatch h

theorem riuraCrewexit : Statement .riuraCrewexit := fun h => nomatch h

theorem riuraLog : Statement .riuraLog := fun h => nomatch h

theorem riuraWsload : Statement .riuraWsload := fun h => nomatch h

theorem collectiveCreate : Statement .collectiveCreate := fun h => nomatch h

theorem collectiveAddwin : Statement .collectiveAddwin := fun h => nomatch h

theorem collectiveAddbar : Statement .collectiveAddbar := fun h => nomatch h

theorem collectiveWait : Statement .collectiveWait := fun h => nomatch h

theorem collectiveWaitTimeout : Statement .collectiveWaitTimeout := fun h => nomatch h

theorem collectiveEnd : Statement .collectiveEnd := fun h => nomatch h

theorem riuraTenant : Statement .riuraTenant := fun h => nomatch h

theorem riuraUnknownService : Statement .riuraUnknownService := fun h => nomatch h

theorem controlProgramFault : Statement .controlProgramFault := fun h => nomatch h

theorem pclGetVersion : Statement .pclGetVersion := fun h => nomatch h

theorem pclGetFeatures : Statement .pclGetFeatures := fun h => nomatch h

theorem pclPowerCapSet : Statement .pclPowerCapSet := fun h => nomatch h

theorem pclPowerCapGet : Statement .pclPowerCapGet := fun h => nomatch h

theorem pclContextArea : Statement .pclContextArea := fun h => nomatch h

theorem pclTenantKeyInstall : Statement .pclTenantKeyInstall := fun h => nomatch h

theorem pclTenantKeyWithdraw : Statement .pclTenantKeyWithdraw := fun h => nomatch h

theorem pclResetWarm : Statement .pclResetWarm := fun h => nomatch h

theorem pclResetFunction : Statement .pclResetFunction := fun h => nomatch h

theorem pclUnsupported : Statement .pclUnsupported := fun h => nomatch h

theorem coldReset : Statement .coldReset := fun h => nomatch h

theorem warmReset : Statement .warmReset := fun h => nomatch h

theorem functionReset : Statement .functionReset := fun h => nomatch h

theorem standbyRailGood : Statement .standbyRailGood := fun h => nomatch h

theorem bringUp : Statement .bringUp := fun h => nomatch h

theorem riuraFatalError : Statement .riuraFatalError := fun h => nomatch h

theorem powerCapTakeEffect : Statement .powerCapTakeEffect := fun h => nomatch h

theorem thermalThrottleStart : Statement .thermalThrottleStart := fun h => nomatch h

theorem thermalThrottleEnd : Statement .thermalThrottleEnd := fun h => nomatch h

theorem thermalTrip : Statement .thermalTrip := fun h => nomatch h

theorem huskAlarm : Statement .huskAlarm := fun h => nomatch h

theorem spdmRequest : Statement .spdmRequest := fun h => nomatch h

theorem cxlMemRead : Statement .cxlMemRead := fun h => nomatch h

theorem cxlMemWrite : Statement .cxlMemWrite := fun h => nomatch h

theorem poolLinkDown : Statement .poolLinkDown := fun h => nomatch h

theorem poolLinkUp : Statement .poolLinkUp := fun h => nomatch h

theorem flitReceive : Statement .flitReceive := fun h => nomatch h

theorem replayLimit : Statement .replayLimit := fun h => nomatch h

theorem portEnable : Statement .portEnable := fun h => nomatch h

theorem detectDone : Statement .detectDone := fun h => nomatch h

theorem detectTimeout : Statement .detectTimeout := fun h => nomatch h

theorem polarityDone : Statement .polarityDone := fun h => nomatch h

theorem polarityTimeout : Statement .polarityTimeout := fun h => nomatch h

theorem deskewDone : Statement .deskewDone := fun h => nomatch h

theorem deskewTimeout : Statement .deskewTimeout := fun h => nomatch h

theorem feclockDone : Statement .feclockDone := fun h => nomatch h

theorem feclockTimeout : Statement .feclockTimeout := fun h => nomatch h

theorem creditDone : Statement .creditDone := fun h => nomatch h

theorem creditTimeout : Statement .creditTimeout := fun h => nomatch h

theorem retrainDone : Statement .retrainDone := fun h => nomatch h

theorem retrainTimeout : Statement .retrainTimeout := fun h => nomatch h

theorem schedulerPlaceCrew : Statement .schedulerPlaceCrew := fun h => nomatch h

theorem schedulerPreempt : Statement .schedulerPreempt := fun h => nomatch h

theorem hartSwap : Statement .hartSwap := fun h => nomatch h

theorem crewResume : Statement .crewResume := fun h => nomatch h

theorem spillDone : Statement .spillDone := fun h => nomatch h

theorem contextFillDone : Statement .contextFillDone := fun h => nomatch h

theorem leaseFillDone : Statement .leaseFillDone := fun h => nomatch h

theorem storependSkidLimit : Statement .storependSkidLimit := fun h => nomatch h

theorem transferRetire : Statement .transferRetire := fun h => nomatch h

theorem streamRefill : Statement .streamRefill := fun h => nomatch h

theorem wsRefreshWindowOpen : Statement .wsRefreshWindowOpen := fun h => nomatch h

theorem wsRefreshWindowClose : Statement .wsRefreshWindowClose := fun h => nomatch h

theorem patrolScrub : Statement .patrolScrub := fun h => nomatch h

theorem eccUncorrectable : Statement .eccUncorrectable := fun h => nomatch h

theorem flagacqSatisfied : Statement .flagacqSatisfied := fun h => nomatch h

theorem barwaitDone : Statement .barwaitDone := fun h => nomatch h

theorem bcwaitDone : Statement .bcwaitDone := fun h => nomatch h

theorem fredwaitDone : Statement .fredwaitDone := fun h => nomatch h

theorem xwaitDone : Statement .xwaitDone := fun h => nomatch h

theorem vwaitSatisfied : Statement .vwaitSatisfied := fun h => nomatch h

theorem vwaitTimeout : Statement .vwaitTimeout := fun h => nomatch h

theorem wfeWake : Statement .wfeWake := fun h => nomatch h

theorem wfeTimeout : Statement .wfeTimeout := fun h => nomatch h

theorem fenceComplete : Statement .fenceComplete := fun h => nomatch h

theorem drainstComplete : Statement .drainstComplete := fun h => nomatch h

theorem mmaqMeet : Statement .mmaqMeet := fun h => nomatch h

theorem ecallReturn : Statement .ecallReturn := fun h => nomatch h

theorem trainArrive : Statement .trainArrive := fun h => nomatch h

theorem trainAck : Statement .trainAck := fun h => nomatch h

theorem fredAccept : Statement .fredAccept := fun h => nomatch h

theorem fredRoundDeliver : Statement .fredRoundDeliver := fun h => nomatch h

theorem peerKillNotice : Statement .peerKillNotice := fun h => nomatch h

theorem releasePerform : Statement .releasePerform := fun h => nomatch h

theorem handoffEvent : Statement .handoffEvent := fun h => nomatch h

theorem exitWaitDone : Statement .exitWaitDone := fun h => nomatch h

theorem vectorStorePerform : Statement .vectorStorePerform := fun h => nomatch h

theorem wsloadReturn : Statement .wsloadReturn := fun h => nomatch h

theorem configurationRequest : Statement .configurationRequest := fun h => nomatch h

theorem debuggerRelease : Statement .debuggerRelease := fun h => nomatch h

theorem confinementSet : Statement .confinementSet := fun h => nomatch h

end Sys2Proof.Laws.RoundTrip
end

