-- ==== Sys2Proof/Safety.lean ====
section
/-! DEFINITION. The terms in which claims about the machine are stated: a safe run, how an instruction ends, and what it
leaves unchanged. -/

namespace Sys2Proof.Machine

/-- A state from which a step answers a next state. -/
def State.runs (s : State) : Prop := ∃ t, step s = .next t

/-- Memory is in its canonical form. -/
def State.memOk (s : State) : Prop := Memory.wf s.mem = true

/-- How an instruction issued in `s` ends: `t` with the hart at `pc`, no longer waiting, and with every store-fault record
that was held at issue one retired instruction older (R279, R280). -/
def State.ended (s t : State) (pc : Word) : State := { t with hart := t.hart.retire s.hart.sfrq.length pc }

/-- `t` is `s` after an instruction that writes `v` to x(d), goes on at `pc`, and leaves every other register, flag,
special register and byte of memory as it was; a write to x0 is discarded (R103, R311). -/
structure State.WroteX (s t : State) (d : Reg) (v pc : Word) : Prop where
  value : ∀ r : Reg, t.rx r = if r = d ∧ d ≠ 0 then v else s.rx r
  frame : t = s.ended { s with hart := { s.hart with x := t.hart.x } } pc

/-- Instruction `i` issued in `s` writes `v` to x(d) and does nothing else. -/
def State.yieldsX (s : State) (i : Instr) (d : Reg) (v : Word) : Prop :=
  ∃ t, exec i s = .next t ∧ s.WroteX t d v (s.hart.pc + 4)

/-! ### Accesses to memory -/

/-- A scalar load of `n` bytes at `va` meets none of the conditions of R312: aligned, clear of the ranges of the hart's
transfers, on a readable page `x` whose image holds `v` there. -/
def State.loadFits (s : State) (va n : Nat) (x : Xlat) (v : Nat) : Prop :=
  va % n = 0 ∧ s.ritHit s.hart va (va + n) = false ∧ s.xlat s.hart va = some x ∧ x.attr.getLsbD 11 = true ∧
    s.linkDown x.kind = false ∧ s.readImage x va n = .ok v

/-- A scalar store or AMO of `n` bytes at `va` meets none of the conditions of R312: the page `x` may be written, is not
encoded, and is not held by a migration. -/
def State.storeFits (s : State) (va n : Nat) (x : Xlat) : Prop :=
  va % n = 0 ∧ s.ritHit s.hart va (va + n) = false ∧ s.xlat s.hart va = some x ∧ x.attr.getLsbD 12 = true ∧
    x.kvWrite = true ∧ s.linkDown x.kind = false ∧ x.encoded = false ∧ x.closed = false

/-- `t` is `s` after the hart has written the `n` low bytes of `v` at virtual address `va`, physical address `lo` on: those
bytes of memory and no other (poison stays, R194); the links on their lines; a translation sample of the page that is
older than the mapping (R207). -/
structure State.Stored (s t : State) (va lo n v : Nat) : Prop where
  bytes : ∀ p : Nat, mget unlistedByte t.mem p =
    if lo ≤ p ∧ p < lo + n then BitVec.ofNat 8 (v / 256 ^ (p - lo)) else mget unlistedByte s.mem p
  frame : t = { s with
    mem := t.mem,
    hart := { s.hart.cutLinks lo n false with samples := (s.dropStale s.hart va).samples },
    others := s.others.map fun h => h.cutLinks lo n true }

/-- Instruction `i` of destination d is the AMO on the doubleword at x(a) whose new value for the old value `o` is `f o`
(none: nothing is written): it completes wherever the page lets it. -/
def State.amoDoes (s : State) (i : Instr) (d a : Reg) (f : Word → Option Word) : Prop :=
  ∀ x : Xlat, s.storeFits (s.rx a).toNat 8 x → s.poisoned (x.addr (s.rx a).toNat) = false →
    let va := (s.rx a).toNat
    let old := BitVec.ofNat 64 (readLE s.mem (x.addr va) 8)
    match f old with
    | some v => ∃ u, s.Stored u va (x.addr va) 8 v.toNat ∧ exec i s = .next (s.ended (u.wx d old) (s.hart.pc + 4))
    | none => exec i s = .next (s.ended (({ s with hart := s.dropStale s.hart va } : State).wx d old) (s.hart.pc + 4))

/-! ### Triggers, traps and waits -/

/-- No STOREPEND is due: no record is held, or a handler is active (R279). -/
def Hart.quiet (h : Hart) : Prop := h.sfrq = [] ∨ h.hact = true

/-- A trap of the hart whose turn it is goes to its own handler (R275, R276). -/
def Hart.handles (h : Hart) : Prop := h.tvec ≠ 0 ∧ h.hact = false

/-- The hart takes ILLEGAL for instruction `i`: TVAL is its word, TELEM 0 (R274). -/
def State.illegal (s : State) (i : Instr) : State := s.takeTrap .illegal ((encode i).zeroExtend 64) 0

/-- Instruction `i` waits: only the wait is recorded, with the clk at which it first issued (R226, R314). -/
def State.waitsOn (s : State) (i : Instr) : State := { s with hart := s.hart.waitOn i s.clk }

/-! ### Vector instructions -/

/-- An instruction that reads the runs `reads`, writes the runs `writes` and is masked by `m` issues: legal runs, a mask that
reaches, no stream bound to a destination, no transfer still filling a register it names (R105, R108, R120, R249), and none
whose range holds what its stream pops read or which fills a popped group (R119); `t` is the state after those pops, none of which has a fault at its first
element (R249, R250). -/
def State.issues (s : State) (reads writes : List VRun) (m : Nat) (t : State) : Prop :=
  s.vecReady reads writes m = .ok () ∧ (s.hart.popped reads).any s.popHeld = false ∧ s.popAll reads = (t, none)

/-- `t` is `s` after an instruction that ends at the next word and whose hart is then `g`. -/
def State.endsWith (s : State) (i : Instr) (t : State) (g : Hart) : Prop :=
  exec i s = .next (s.ended { t with hart := g } (g.pc + 4))

/-- The elements of a result below VL under a mask: `f` at the selected ones; zero or the old element at the others (R108). -/
def Hart.merged (h : Hart) (m : Nat) (f old : Nat → Nat) : List Nat :=
  (List.range h.vl).map fun i => if h.sel m i then f i else if h.mz then 0 else old i

/-- The mask that decides a result's encoding: none for an unmasked instruction (R136). -/
def Hart.maskBits (h : Hart) (m : Nat) : Option (List Bool) := if m = 0 then none else some (h.act m)

/-- Element i of an operand. -/
def Opd.el (o : Opd) (i : Nat) : Nat := o.elems.getD i 0

/-- The selected indices below `n`. -/
def Hart.chosen (h : Hart) (m n : Nat) : List Nat := (List.range n).filter (h.sel m)

/-- The old destination `o` of an instruction of destination d: read where the instruction keeps elements or accumulates, else
a zero splat. -/
def State.oldOf (s t : State) (fused : Bool) (d : Reg) (m : BitVec 2) (o : Opd) : Prop :=
  if fused || s.hart.keeps m then t.hart.operand d.toNat = .ok o else o = t.hart.zeroOpd

/-- A two-operand instruction issues in `s` and has read x, y and its old destination o. -/
def State.readsTwo (s t : State) (fused : Bool) (d a b : Reg) (m : BitVec 2) (x y o : Opd) : Prop :=
  let h := s.hart
  s.issues ([h.opRun a.toNat, h.opRun b.toNat] ++ (if fused || h.keeps m then [h.opRun d.toNat] else [])) [h.gRun d.toNat]
    m.toNat t ∧
  t.hart.operand a.toNat = .ok x ∧ t.hart.operand b.toNat = .ok y ∧ s.oldOf t fused d m o

/-- A one-operand instruction issues in `s` and has read x and its old destination o. -/
def State.readsOne (s t : State) (d a : Reg) (m : BitVec 2) (x o : Opd) : Prop :=
  let h := s.hart
  s.issues (h.opRun a.toNat :: (if h.keeps m then [h.opRun d.toNat] else [])) [h.gRun d.toNat] m.toNat t ∧
  t.hart.operand a.toNat = .ok x ∧ s.oldOf t false d m o

/-- An instruction without register operands issues in `s` and has read its old destination o. -/
def State.readsNone (s t : State) (d : Reg) (m : BitVec 2) (o : Opd) : Prop :=
  s.issues (if s.hart.keeps m then [s.hart.opRun d.toNat] else []) [s.hart.gRun d.toNat] m.toNat t ∧ s.oldOf t false d m o

/-- Instruction i writes `f p q` for the elements p and q of v(a) and v(b) and raises nothing, at every format of a class; at
another format it takes ILLEGAL (R336 to R338). -/
def State.elementwise (s : State) (cls : Bool) (i : Instr) (d a b : Reg) (m : BitVec 2) (f : Nat → Nat → Nat) : Prop :=
  (cls = false → exec i s = .next (s.illegal i)) ∧
  (cls = true → ∀ (t : State) (x y o : Opd), s.readsTwo t false d a b m x y o →
    s.endsWith i t (t.hart.writeVec d.toNat (resultVec t.hart.ep t.hart.fmt ([x, y] ++ t.hart.maskOpd m.toNat o)
      (t.hart.maskBits m.toNat) (t.hart.merged m.toNat (fun k => f (x.el k) (y.el k)) o.el))))

/-- The random bits that element k of a masked instruction rounds with under STO: one draw for each selected element, in
ascending order (R160, R338). -/
def Hart.drawAt (h : Hart) (m k : Nat) : Nat :=
  if h.rm = .sto then (draw (skipDraws (h.chosen m k).length h.srseed.toNat)).2 else 0

/-- The flags of the selected elements below VL together. -/
def Hart.flagsOf (h : Hart) (m : Nat) (f : Nat → Flags) : Flags := ((h.chosen m h.vl).map f).foldl Flags.or {}

/-- A hart after an element-wise instruction: the vector written, the flags of the selected elements raised, and under STO the
generator advanced by one draw for each of them. -/
def Hart.afterRounding (h : Hart) (m : Nat) (d : Reg) (v : Vec) (f : Nat → Flags) : Hart :=
  let g := (h.writeVec d.toNat v).raise (h.flagsOf m f)
  if h.rm = .sto then { g with srseed := BitVec.ofNat 64 (skipDraws (h.chosen m h.vl).length h.srseed.toNat) } else g

/-- Instruction i rounds `f rm p q c` to FMT for the elements p, q of v(a), v(b) and c of the old destination. -/
def State.roundsTo (s : State) (i : Instr) (fused : Bool) (d a b : Reg) (m : BitVec 2) (f : RM → Val → Val → Val → Exact) : Prop :=
  (s.hart.fmt.isFlt = false → exec i s = .next (s.illegal i)) ∧
  (s.hart.fmt.isFlt = true → ∀ (t : State) (x y o : Opd), s.readsTwo t fused d a b m x y o →
    let h := t.hart
    let r : Nat → Nat × Flags := fun k =>
      (f h.rm (decodeVal h.fmt (x.el k)) (decodeVal h.fmt (y.el k)) (decodeVal h.fmt (o.el k))).round h.fmt h.rm (h.drawAt m.toNat k)
    let els := h.merged m.toNat (fun k => (r k).1) o.el
    let ops := [x, y] ++ (if fused then [o] else []) ++ h.maskOpd m.toNat o
    s.endsWith i t (h.afterRounding m.toNat d
      (if h.rm = .sto ∨ h.rm = .efb then plainVec h.fmt els else resultVec h.ep h.fmt ops (h.maskBits m.toNat) els)
      fun k => (r k).2))

/-- Instruction i moves elements of v(a) into v(d), PLAIN: `f h x o k` is element k of the result, from the elements of v(a)
and of the old destination (R355 to R357). -/
def State.moves (s : State) (i : Instr) (useOld : Bool) (d a : Reg) (m : BitVec 2)
    (f : Hart → (Nat → Nat) → (Nat → Nat) → Nat → Nat) : Prop :=
  (s.hart.fmt.isMove = false → exec i s = .next (s.illegal i)) ∧
  (s.hart.fmt.isMove = true → ∀ (t : State) (x : List Nat) (o : Opd),
    s.issues (s.hart.opRun a.toNat :: (if useOld then [s.hart.opRun d.toNat] else [])) [s.hart.gRun d.toNat] m.toNat t →
    t.hart.rawAt a.toNat = .ok x → (if useOld then t.hart.operand d.toNat = .ok o else o = t.hart.zeroOpd) →
    s.endsWith i t (t.hart.writeVec d.toNat
      (plainVec t.hart.fmt ((List.range t.hart.vl).map (f t.hart (fun k => x.getD k 0) o.el)))))

/-- The segment of element k: how many of bits 1 to k of predicate p are set (R363). -/
def Hart.segment (h : Hart) (p k : Nat) : Nat := ((List.range (k + 1)).filter fun i => decide (1 ≤ i) && bitAt (h.pred p) i).length

/-! ### Vector accesses -/

/-- The request `q` of a load of destination d and `nf` fields passes the checks made before an element is read, and its
elements read as `R`, with the fault `flt` if there is one; `old` is the destination kept under MP = 0 (R278, R368, R383). -/
def State.loadReads (t : State) (q : LoadReq) (d : Nat) (m : BitVec 2) (old : Option (Vec × List Nat))
    (R : List (Option (List Nat))) (flt : Option (Nat × Nat × MemFault)) : Prop :=
  let h := t.hart
  let pg := t.sampled h q.base.toNat
  q.tag.bits ≤ h.fmt.bits ∧ h.loadOld d m q.tag = .ok old ∧
  (q.unit && isBlk1 pg && !blkStart q.src q.base.toNat) = false ∧
  (∀ r ∈ List.zip (h.act m.toNat) q.vas, r.1 = true → ∀ va ∈ r.2, t.ritHit h va (va + max 1 (q.src.bits / 8)) = false ∧
    ((q.mayScale && t.hasScale q va) = true → t.ritHit h (blkScale q.src va) (blkScale q.src va + 1) = false)) ∧
  t.loadRows q q.mayScale (List.zip (h.act m.toNat) q.vas) 0 = (R, flt)

/-- Instruction i is the load of request `q` in `t`, its state after the pops: VL becomes the index of the first element that
faults, or stays, and only the destination, VL, the samples, the links and NV may change; a fault at element 0 traps, or under
a fault-first form leaves VL 0. -/
def State.loadsAs (s t : State) (i : Instr) (q : LoadReq) (d nf : Nat) (m : BitVec 2) : Prop :=
  ∀ (old : Option (Vec × List Nat)) (R : List (Option (List Nat))) (flt : Option (Nat × Nat × MemFault)),
    t.loadReads q d m old R flt →
    ((∀ k va f, flt = some (k, va, f) → k ≠ 0 ∨ q.ff = true) →
      ∃ g : Hart, s.endsWith i t g ∧
        g = t.loadDone q d m nf R old (q.lastVas flt) ∧ g.vl = R.length ∧
        g = { t.hart with v := g.v, vl := g.vl, samples := g.samples, links := g.links, vflags := g.vflags } ∧
        (q.links = false → g.links = t.hart.links) ∧ (∀ k va f, flt = some (k, va, f) → g.vl = k)) ∧
    (∀ va f, flt = some (0, va, f) → q.ff = false → exec i s = .next (s.takeTrap f.loadCause (BitVec.ofNat 64 va) 0))

/-- A store of the elements `es` of format f, scales `sc`, in `t`: those that fault are recorded, the others written (R279). -/
def State.storesAs (t u : State) (f : Fmt) (sc : List Nat) (es : List SElem) : Prop :=
  let bad := es.filter fun e => (t.storeFault f.bytes e.va).isSome
  u = (t.putElems f sc (es.filter fun e => (t.storeFault f.bytes e.va).isNone)).addFaults 0
    (bad.map fun e => (e.idx, e.va, Cause.storefault.code))

/-- Every byte that neither an element of `es` nor the scale of its block covers reads the same in `u` and in `t`. -/
def State.restKept (t u : State) (f : Fmt) (es : List SElem) : Prop :=
  ∀ p : Nat, (∀ e ∈ es, ¬ (t.physOf e.va ≤ p ∧ p < t.physOf e.va + f.bytes) ∧ (f.isMx = true → p ≠ t.physOf (blkScale f e.va))) →
    mget unlistedByte u.mem p = mget unlistedByte t.mem p

/-! ### Transfers -/

/-- A hart once its transfer t has retired with the ending e: the flags raised and the counts added (R254, R259), and unless NOREC
is set the record of its number posted in its queue, with the fields of R261. -/
def Hart.withRecord (h : Hart) (t : Transfer) (e : Ending) : Hart :=
  let g := { h.raise e.flags with clipc := holdAdd h.clipc e.clipped, elemc := holdAdd h.elemc e.examined }
  let c := h.queue (ctlQueue t.ctl)
  if t.ctl.getLsbD 19 then g
  else g.setQueue (ctlQueue t.ctl) { c with
    posted := c.posted + 1,
    recs := mset none c.recs t.recno (some (recWords t.recno e.status t.op e.fcode (bitsAt t.ctl.toNat 32 16) e.done e.foff e.poff)) }

/-- `u` is `s` once transfer t has retired with the ending e: it is gone, its hart has its record, and what else may differ are
memory, registers that it fills, links and samples, and, where a saved context is written again, the event that does it. -/
structure State.Retired (s u : State) (t : Transfer) (e : Ending) : Prop where
  gone : u.transfers = s.transfers.filter fun x => decide (x.id ≠ t.id)
  hart : ∀ h, s.hartOf t.hart = some h → ∃ g, u.hartOf t.hart = some g ∧ (t.ctl.getLsbD 19 = false → g.wake = true) ∧
    g = { h.withRecord t e with v := g.v, links := g.links, wake := g.wake, samples := g.samples }
  others : ∀ j h, j ≠ t.hart → s.hartOf j = some h → ∃ g, u.hartOf j = some g ∧
    g = { h with v := g.v, links := g.links, wake := g.wake }
  events : (∀ h ∈ s.harts, h.spilled = false) → u.events = s.events
  frame : u = { s with transfers := u.transfers, hart := u.hart, others := u.others, apps := u.apps, mem := u.mem, poison := u.poison,
                       segHdr := u.segHdr, hdrPoison := u.hdrPoison, leaving := u.leaving, events := u.events, tick := u.tick }

/-- The registers of every hart are the same in `u` and in `s`. -/
def State.sameRegs (s u : State) : Prop := ∀ j h g, s.hartOf j = some h → u.hartOf j = some g → g.v = h.v

/-- Byte p is one of the record that a transfer stores at XCQ.BASE (R260). -/
def State.recByte (s : State) (t : Transfer) (p : Nat) : Prop :=
  t.ctl.getLsbD 19 = false ∧ ∃ h a, s.hartOf t.hart = some h ∧ h.recAddr (ctlQueue t.ctl) t.recno = some a ∧
    ∃ j < 16, ∃ x, (s.app h.app).lookup t.who (a + j) = some x ∧ p = x.addr (a + j)

/-- Byte p is one of the maximum word of a transfer (R257). -/
def State.maxByte (s : State) (t : Transfer) (p : Nat) : Prop :=
  s.xferPhys t t.maxw.toNat ≤ p ∧ p < s.xferPhys t t.maxw.toNat + 4

/-- Byte p is one of the destination of a transfer of n elements: of an element, of a block's scale, or of a segment that it writes
whole (R144, R254). -/
def State.dstByte (s : State) (t : Transfer) (n p : Nat) : Prop :=
  let f := ctlElem t.ctl 6
  ∃ k < n, let a := runAddr f t.dst.toNat k
    (∃ j < f.bytes, ∃ x, (s.app t.app).lookup t.who (a + j) = some x ∧ p = x.addr (a + j)) ∨ p = s.xferPhys t a ∨
    (f.isMx = true ∧ p = s.xferPhys t (blkScale f a)) ∨
    (s.dstEncoded t k = true ∧ s.xferPhys t a ≤ p ∧ p < s.xferPhys t a + slotBytes f)

/-- Byte p is one that a transfer of n elements may write. -/
def State.xferByte (s : State) (t : Transfer) (n p : Nat) : Prop :=
  (t.op ≠ 3 ∧ t.op ≠ 5 ∧ s.dstByte t n p) ∨ (t.op = 6 ∧ s.maxByte t p) ∨ s.recByte t p

/-- What a transfer to memory makes of the elements it has read (R254, R257). -/
def Transfer.made (t : Transfer) (es : List XElem) : Conv :=
  let sf := ctlElem t.ctl 0
  let df := ctlElem t.ctl 6
  let rm := RM.ofXrm t.xrm.toNat
  if t.op = 6 then
    let qs := es.map (quantise sf df rm (f32Val t.scale.toNat))
    { pats := qs.map Prod.fst, flags := qs.foldl (fun f q => f.or q.2.1) {} }
  else convert sf df rm es

/-- The bytes of memory in `u` that a transfer to plain pages has written from the elements `es`: each byte of an element that no
later one, no scale and neither the maximum word nor the record overlaps, 4-bit elements in their half of a byte; and each block's
scale. -/
def State.xferWrote (s u : State) (t : Transfer) (es : List XElem) : Prop :=
  let f := ctlElem t.ctl 6
  let c := t.made es
  let at_ := fun k => runAddr f t.dst.toNat k
  let clear : Nat → Prop := fun p => (t.op = 6 → ¬ s.maxByte t p) ∧ ¬ s.recByte t p
  let noScale : Nat → Prop := fun p => f.isMx = true → ∀ k < es.length, p ≠ s.xferPhys t (blkScale f (at_ k))
  (f.bits ≠ 4 → ∀ k < es.length, ∀ j < f.bytes, ∀ x, s.forStore ((s.app t.app).lookup t.who (at_ k + j)) = .ok x →
    let p := x.addr (at_ k + j)
    (∀ k' j' y, k < k' ∨ (k = k' ∧ j < j') → k' < es.length → j' < f.bytes → (s.app t.app).lookup t.who (at_ k' + j') = some y →
      y.addr (at_ k' + j') ≠ p) → noScale p → clear p →
    mget unlistedByte u.mem p = BitVec.ofNat 8 (c.pats.getD k 0 / 256 ^ j)) ∧
  (f.bits = 4 → ∀ k < es.length,
    let p := s.xferPhys t (at_ k)
    (∀ k' < es.length, k < k' → k' % 2 = k % 2 → s.xferPhys t (at_ k') ≠ p) → noScale p → clear p →
    (mget unlistedByte u.mem p).toNat / 16 ^ (k % 2) % 16 = c.pats.getD k 0 % 16) ∧
  (f.isMx = true → ∀ b, 32 * b < es.length →
    let p := s.xferPhys t (blkScale f (at_ (32 * b)))
    (∀ b', b < b' → 32 * b' < es.length → s.xferPhys t (blkScale f (at_ (32 * b'))) ≠ p) → clear p →
    mget unlistedByte u.mem p = BitVec.ofNat 8 (c.scales.getD b 0))

/-- What a train of the elements `es` with the tail `bar` has written in `u`, of an application: the bytes of each element that has a
place and that no later one overlaps; its tail, which counts the bytes of those elements; and nothing else (R221, R391). -/
def State.trainWrote (s u : State) (w : Who) (app : Nat) (bar : Word) (es : List TrainElem) : Prop :=
  let covers : TrainElem → Nat → Prop := fun e p =>
    ∃ va x, s.trainAddr w app e = some (va, x) ∧ x.addr va ≤ p ∧ p < x.addr va + e.bytes.length
  let inTail : Nat → Prop := fun p =>
    bar ≠ 0 ∧ ∃ va x, s.tailAddr w app bar = some (va, x) ∧ x.addr va ≤ p ∧ p < x.addr va + 16
  (∀ p, (∀ e ∈ es, ¬ covers e p) → ¬ inTail p → mget unlistedByte u.mem p = mget unlistedByte s.mem p) ∧
  (∀ l e r va x j, es = l ++ e :: r → s.trainAddr w app e = some (va, x) → j < e.bytes.length →
    (∀ q ∈ r, ¬ covers q (x.addr va + j)) → ¬ inTail (x.addr va + j) →
    mget unlistedByte u.mem (x.addr va + j) = e.bytes.getD j 0) ∧
  (∀ va x, bar ≠ 0 → s.tailAddr w app bar = some (va, x) → (∀ p, inTail p → ∀ e ∈ es, ¬ covers e p) →
    readLE u.mem (x.addr va) 16 = ((BarObj.ofNat (readLE s.mem (x.addr va) 16)).arrive
      ((es.filter fun e => (s.trainAddr w app e).isSome).map fun e => e.bytes.length).sum).toNat)

/-! ### Calls of Riura -/

/-- The call that the input describes stands: it comes from the control program of slot k, no call of which waits. -/
def State.ctlCalls (s : State) (k : Nat) : Prop :=
  s.inp.caller = .ctl k ∧ (s.app k).state = .running ∧ (s.app k).pend = none

/-- The call that the input describes stands: hart `h` is in its ECALL. -/
def State.hartCalls (s : State) (h : Hart) : Prop :=
  s.inp.caller = .hart h.id ∧ s.hartOf h.id = some h ∧ h.inCall = true

/-- The control program of slot k receives `r`, no call of it waiting any more. -/
def State.gives (s : State) (k : Nat) (r : Word) : State := s.setApp k { s.app k with ctlA0 := r, pend := none }

/-- The `size` units from `lo` on hold `n` of them in a row, from a multiple of `align` on, that no key covers: a region of that
length and alignment, and of smaller ones, can be had there. -/
def State.hasFrames (s : State) (lo size align n : Nat) : Prop :=
  ∃ x, lo ≤ x ∧ x + n ≤ lo + size ∧ x % align = 0 ∧ ∀ r ∈ s.keyedFrames, r.pa + r.len ≤ x ∨ x + n ≤ r.pa

/-- An application has `n` addresses in a row, from a multiple of `align` on, where Riura may place a mapping (R48, R183). -/
def App.hasRange (a : App) (align n : Nat) : Prop :=
  ∃ v, 2 ^ 21 ≤ v ∧ v + n ≤ 2 ^ 56 ∧ v % align = 0 ∧ meetsUsed a.usedVa v n = false

/-- Instruction i, a call of the control program of slot k whose result is the words `ws` at `va`: E_RANGE for a buffer of
`len` bytes that is too short, E_INVAL for one that cannot be written, else the words written and their bytes counted (R59). -/
def State.fillsBuffer (s : State) (i : Instr) (k : Nat) (va len : Word) (ws : List Nat) : Prop :=
  let n := 8 * ws.length
  (len.toNat < n → exec i s = .next (s.gives k eRange)) ∧
  (n ≤ len.toNat → s.bufOk k ctlWho va.toNat n = false → exec i s = .next (s.gives k eInval)) ∧
  (n ≤ len.toNat → s.bufOk k ctlWho va.toNat n = true →
    exec i s = .next ((s.writeFor k ctlWho va.toNat (ws.flatMap wordBytes)).gives k (BitVec.ofNat 64 n)))

/-! ### Commands of the host -/

/-- The command of code c has been started (R45). -/
def State.started (s : State) (c : Nat) : Prop := s.cmdGo = true ∧ s.cmdCode.toNat = c

/-- A command ends: GO clear, its result, MSI-X vector 0 (R45). -/
def State.commandEnds (s : State) (r : Word) : State := { s with cmdGo := false, cmdRes := r, msix := s.msix ++ [0] }

end Sys2Proof.Machine
end

