-- ==== Sys2Proof/Certificates/Slice0/Obligations.lean ====
section
/-! DEFINITION. The statements for the provers. -/

section
open Sys2Proof Sys2Proof.Machine

/-! ### Encoding -/

/-- Words written out from the spec's examples and tables, one of each family, decode to what they stand for. -/
def Obligations.DecodeWords : Prop :=
  decode 0x01234804 = some (.lui 16 0x1234) ∧ decode 0xFFFFC88B = some (.pchi 17 0xFFFFF) ∧
  decode 0xFFFFC00E = some (.jal 0 0xFFFFE) ∧ decode 0x0000401E = some (.jalr 0 1 0) ∧
  decode 0x0FE44813 = some (.andi 16 17 255) ∧ decode 0x0044081C = some (.shli 16 16 4) ∧
  decode 0x12444850 = some (.sub 16 17 18) ∧ decode 0x42444851 = some (.divn 16 17 18) ∧
  decode 0xFFC4092C = some (.ldwn 18 16 0xFFC) ∧ decode 0x02208232 = some (.stw 17 2 8) ∧
  decode 0x0500_0842 = some (.srd 16 0x050) ∧ decode 0x00014045 = some (.swr 5 1) ∧
  decode 0x12444854 = some (.amoadd 16 17 18) ∧ decode 0x200A8053 = some (.brk 42) ∧
  decode 0x40600053 = some (.fence 3) ∧ decode 0x30014853 = some (.wfe 16 5)

/-- For every instruction that has a word and passes the checks of R298, the decoder gives back what the encoder laid out. -/
def Obligations.DecodeEncode : Prop :=
  ∀ i : Instr, i.hasWord = true → i.wf = true → decode (encode i).toNat = some i

/-- The other direction: a word that decodes is the word of what it decodes to, which is well formed (R298); and the majors
that R298 lists as illegal or reserved hold no instruction. -/
def Obligations.EncodeDecode : Prop :=
  (∀ (w : Nat) (i : Instr), w < 2 ^ 32 → decode w = some i → (encode i).toNat = w ∧ i.wf = true ∧ i.hasWord = true) ∧
  (∀ w : Nat, w % 128 ∈ [0x00, 0x01, 0x02, 0x03, 0x4C, 0x4D, 0x4E, 0x4F, 0x57, 0x5C, 0x5D, 0x5E, 0x5F, 0x7D, 0x7E, 0x7F] →
     decode w = none)

/-! ### The step -/

/-- A step: where the four bytes at the PC of the hart that issues decode to an instruction, the step is that instruction's
meaning, time having passed; a store parked at a page just remapped comes first of all (R187, R188), then a pending event, with
its input in the latch, where the device admits it (R17, R30); a word that is no instruction takes ILLEGAL with TVAL the word
and has no other effect (R298, R299). The order of events and harts, and the drop of an event that the device does not admit,
are the model's choice (log 1, 17). -/
def Obligations.StepRunsDecoded : Prop :=
  ((∀ (s : State) (x : Xlat) (i : Instr),
     s.urgent = [] → s.events = [] → s.keepTurn = true → s.hart.run = .running → s.hart.stopped = false → s.hart.inCall = false →
     s.hart.swapReq = false → s.hart.wait = none → s.hart.drain = false → s.hart.skid ≠ 64 → s.storeBound s.hart = false →
     s.atBreak s.hart = false → s.xlat s.hart s.hart.pc.toNat = some x → x.attr.getLsbD 13 = true → s.linkDown x.kind = false →
     x.encoded = false → s.poisoned (x.addr s.hart.pc.toNat) = false → s.poisoned (x.addr s.hart.pc.toNat + 3) = false →
     decode (readLE s.mem (x.addr s.hart.pc.toNat) 4) = some i →
     step s = exec i { s.passTime with
       keepTurn := false, turns := mset 0 s.turns s.hart.id (s.tick + 1), hart := { s.hart with passBreak := false } }) ∧
   (∀ (s u : State) (w : Nat) (i : Instr), s.urgent = [] → s.events = [] → s.passTime.turn = .fetch u → u.fetch = .ok w →
     decode w = some i → step s = exec i u)) ∧
  (∀ (s : State) (i : Instr) (inp : Input) (es : List (Instr × Input)), s.urgent = [] → s.events = (i, inp) :: es →
     (s.passTime.admits i = true → step s = exec i { s.passTime with events := es, inp := inp }) ∧
     (s.passTime.admits i = false → step s = .next { s.passTime with events := es })) ∧
  (∀ (s v : State) (id : Nat) (ids : List Nat) (w : Wait), s.urgent = id :: ids → s.hart.id = id → s.hart.parked = true →
     s.hart.wait = some w → exec w.instr { s.passTime with urgent := ids, hart := { s.hart with parked := false } } = .next v →
     step s = .next (v.resave id)) ∧
  (∀ (s u : State) (w : Nat), s.urgent = [] → s.events = [] → s.passTime.turn = .fetch u → u.fetch = .ok w → decode w = none →
     u.hart.tvec ≠ 0 → u.hart.hact = false →
     ∃ t, step s = .next t ∧ t.hart.tcause = 1 ∧ t.hart.tval = BitVec.ofNat 64 w ∧ t.hart.telem = 0 ∧
       t.hart.tpc = BitVec.ofNat 62 (u.hart.pc.toNat / 4) ∧
       t = { u with hart := { u.hart with
               tcause := t.hart.tcause, tpc := t.hart.tpc, tval := t.hart.tval, telem := t.hart.telem, wait := none,
               parked := false, hact := true, links := [], strip := u.hart.strip + 1, samples := [],
               pc := BitVec.ofNat 64 (u.hart.tvec.toNat * 4) } })

/-! ### Scalar arithmetic -/

/-- LUI, PCHI, the register-immediate instructions, the shifts and the ALUA group write their result to x(d) and nothing else (R311,
R315, R318 to R320). -/
def Obligations.ScalarArithmetic : Prop :=
  (∀ (s : State) (d a : Reg) (u : BitVec 20) (i : BitVec 12) (n : BitVec 6),
     s.yieldsX (.lui d u) d (BitVec.ofInt 64 (u.toInt * 4096)) ∧
     s.yieldsX (.pchi d u) d (s.hart.pc + BitVec.ofInt 64 (u.toInt * 4096)) ∧
     s.yieldsX (.addi d a i) d (BitVec.ofInt 64 ((s.rx a).toInt + i.toInt)) ∧
     s.yieldsX (.andi d a i) d (s.rx a &&& i.signExtend 64) ∧
     s.yieldsX (.ori d a i) d (s.rx a ||| i.signExtend 64) ∧
     s.yieldsX (.xori d a i) d (s.rx a ^^^ i.signExtend 64) ∧
     s.yieldsX (.slti d a i) d (if (s.rx a).toInt < i.toInt then 1 else 0) ∧
     s.yieldsX (.sltni d a i) d (if (s.rx a).toNat < (i.signExtend 64).toNat then 1 else 0) ∧
     s.yieldsX (.shli d a n) d (BitVec.ofNat 64 ((s.rx a).toNat * 2 ^ n.toNat)) ∧
     s.yieldsX (.shrli d a n) d (BitVec.ofNat 64 ((s.rx a).toNat / 2 ^ n.toNat)) ∧
     s.yieldsX (.shrai d a n) d (BitVec.ofInt 64 ((s.rx a).toInt / 2 ^ n.toNat)) ∧
     s.yieldsX (.rotri d a n) d ((s.rx a).rotateRight n.toNat)) ∧
  (∀ (s : State) (d a b : Reg),
     s.yieldsX (.add d a b) d (BitVec.ofNat 64 ((s.rx a).toNat + (s.rx b).toNat)) ∧
     s.yieldsX (.sub d a b) d (BitVec.ofInt 64 ((s.rx a).toNat - (s.rx b).toNat : Int)) ∧
     s.yieldsX (.and d a b) d (s.rx a &&& s.rx b) ∧
     s.yieldsX (.or d a b) d (s.rx a ||| s.rx b) ∧
     s.yieldsX (.xor d a b) d (s.rx a ^^^ s.rx b) ∧
     s.yieldsX (.shl d a b) d (BitVec.ofNat 64 ((s.rx a).toNat * 2 ^ ((s.rx b).toNat % 64))) ∧
     s.yieldsX (.shrl d a b) d (BitVec.ofNat 64 ((s.rx a).toNat / 2 ^ ((s.rx b).toNat % 64))) ∧
     s.yieldsX (.shra d a b) d (BitVec.ofInt 64 ((s.rx a).toInt / 2 ^ ((s.rx b).toNat % 64))) ∧
     s.yieldsX (.slt d a b) d (if (s.rx a).toInt < (s.rx b).toInt then 1 else 0) ∧
     s.yieldsX (.sltn d a b) d (if (s.rx a).toNat < (s.rx b).toNat then 1 else 0) ∧
     s.yieldsX (.min d a b) d (if (s.rx a).toInt ≤ (s.rx b).toInt then s.rx a else s.rx b) ∧
     s.yieldsX (.max d a b) d (if (s.rx a).toInt ≤ (s.rx b).toInt then s.rx b else s.rx a) ∧
     s.yieldsX (.minn d a b) d (if (s.rx a).toNat ≤ (s.rx b).toNat then s.rx a else s.rx b) ∧
     s.yieldsX (.maxn d a b) d (if (s.rx a).toNat ≤ (s.rx b).toNat then s.rx b else s.rx a) ∧
     s.yieldsX (.andn d a b) d (s.rx a &&& ~~~(s.rx b)) ∧
     s.yieldsX (.rotr d a b) d ((s.rx a).rotateRight ((s.rx b).toNat % 64)))

/-- The ALUM group: products, quotients and remainders with their corner cases, and the bit counts (R148, R321). -/
def Obligations.ScalarMultiplyDivide : Prop :=
  ∀ (s : State) (d a b : Reg),
    s.yieldsX (.mul d a b) d (BitVec.ofNat 64 ((s.rx a).toNat * (s.rx b).toNat)) ∧
    s.yieldsX (.mulh d a b) d (BitVec.ofNat 64 ((s.rx a).toNat * (s.rx b).toNat / 2 ^ 64)) ∧
    s.yieldsX (.mulhn d a b) d (BitVec.ofInt 64 ((s.rx a).toInt * (s.rx b).toInt / 2 ^ 64)) ∧
    s.yieldsX (.div d a b) d (if s.rx b = 0 then BitVec.ofNat 64 (2 ^ 64 - 1)
      else BitVec.ofNat 64 ((s.rx a).toNat / (s.rx b).toNat)) ∧
    s.yieldsX (.divn d a b) d (if s.rx b = 0 then BitVec.ofInt 64 (-1)
      else BitVec.ofInt 64 ((s.rx a).toInt.tdiv (s.rx b).toInt)) ∧
    s.yieldsX (.rem d a b) d (if s.rx b = 0 then s.rx a else BitVec.ofNat 64 ((s.rx a).toNat % (s.rx b).toNat)) ∧
    s.yieldsX (.remn d a b) d (if s.rx b = 0 then s.rx a else BitVec.ofInt 64 ((s.rx a).toInt.tmod (s.rx b).toInt)) ∧
    (∃ n ≤ 64, s.yieldsX (.clz d a) d (BitVec.ofNat 64 n) ∧ (∀ k < n, (s.rx a).getLsbD (63 - k) = false) ∧
      (n < 64 → (s.rx a).getLsbD (63 - n) = true)) ∧
    (∃ n ≤ 64, s.yieldsX (.ctz d a) d (BitVec.ofNat 64 n) ∧ (∀ k < n, (s.rx a).getLsbD k = false) ∧
      (n < 64 → (s.rx a).getLsbD n = true)) ∧
    s.yieldsX (.popc d a) d (BitVec.ofNat 64 ((List.range 64).filter fun k => (s.rx a).getLsbD k).length)

/-! ### Scalar accesses -/

/-- A plain page's image is its bytes in memory, the lowest address least significant; scalar loads write the bytes at
x(a) + imm, sign- or zero-extended, to x(d), and nothing else changes but a translation sample older than its mapping; with
d = 0 the access still takes place (R312). -/
def Obligations.ScalarLoads : Prop :=
  (∀ (s : State) (x : Xlat) (va n k : Nat), x.encoded = false → s.poisoned (x.addr va) = false →
     s.poisoned (x.addr va + n - 1) = false → k < n →
     ∃ v, s.readImage x va n = .ok v ∧ v < 256 ^ n ∧ BitVec.ofNat 8 (v / 256 ^ k) = mget unlistedByte s.mem (x.addr va + k)) ∧
  (∀ (s : State) (d a : Reg) (imm : BitVec 12) (x : Xlat) (v : Nat),
     let va := (s.rx a + imm.signExtend 64).toNat
     let u : State := { s with hart := s.dropStale s.hart va }
     (s.loadFits va 1 x v →
       exec (.ldb d a imm) s = .next (s.ended (u.wx d ((BitVec.ofNat 8 v).signExtend 64)) (s.hart.pc + 4)) ∧
       exec (.ldbn d a imm) s = .next (s.ended (u.wx d (BitVec.ofNat 64 v)) (s.hart.pc + 4))) ∧
     (s.loadFits va 2 x v →
       exec (.ldh d a imm) s = .next (s.ended (u.wx d ((BitVec.ofNat 16 v).signExtend 64)) (s.hart.pc + 4)) ∧
       exec (.ldhn d a imm) s = .next (s.ended (u.wx d (BitVec.ofNat 64 v)) (s.hart.pc + 4))) ∧
     (s.loadFits va 4 x v →
       exec (.ldw d a imm) s = .next (s.ended (u.wx d ((BitVec.ofNat 32 v).signExtend 64)) (s.hart.pc + 4)) ∧
       exec (.ldwn d a imm) s = .next (s.ended (u.wx d (BitVec.ofNat 64 v)) (s.hart.pc + 4))) ∧
     (s.loadFits va 8 x v →
       exec (.ldd d a imm) s = .next (s.ended (u.wx d (BitVec.ofNat 64 v)) (s.hart.pc + 4))))

/-- Scalar stores write the low bytes of x(b) at x(a) + imm; AMOs give the old doubleword to x(d) and the new one to memory,
AMOCAS only where the old value is x(d). Every other byte reads as before, and nothing else changes but the links on the
written lines and a stale sample of the page (R312, R335). -/
def Obligations.ScalarStores : Prop :=
  (∀ (s : State) (b a : Reg) (imm : BitVec 12) (x : Xlat),
     let va := (s.rx a + imm.signExtend 64).toNat
     let does : Nat → Instr → Prop := fun n i => s.storeFits va n x →
       ∃ u, s.Stored u va (x.addr va) n (s.rx b).toNat ∧ exec i s = .next (s.ended u (s.hart.pc + 4))
     does 1 (.stb b a imm) ∧ does 2 (.sth b a imm) ∧ does 4 (.stw b a imm) ∧ does 8 (.std b a imm)) ∧
  (∀ (s : State) (d a b : Reg),
     s.amoDoes (.amoswap d a b) d a (fun _ => some (s.rx b)) ∧
     s.amoDoes (.amoadd d a b) d a (fun o => some (BitVec.ofNat 64 (o.toNat + (s.rx b).toNat))) ∧
     s.amoDoes (.amoand d a b) d a (fun o => some (o &&& s.rx b)) ∧
     s.amoDoes (.amoor d a b) d a (fun o => some (o ||| s.rx b)) ∧
     s.amoDoes (.amoxor d a b) d a (fun o => some (o ^^^ s.rx b)) ∧
     s.amoDoes (.amomin d a b) d a (fun o => some (if o.toInt ≤ (s.rx b).toInt then o else s.rx b)) ∧
     s.amoDoes (.amomax d a b) d a (fun o => some (if o.toInt ≤ (s.rx b).toInt then s.rx b else o)) ∧
     s.amoDoes (.amominn d a b) d a (fun o => some (if o.toNat ≤ (s.rx b).toNat then o else s.rx b)) ∧
     s.amoDoes (.amomaxn d a b) d a (fun o => some (if o.toNat ≤ (s.rx b).toNat then s.rx b else o)) ∧
     s.amoDoes (.amocas d a b) d a (fun o => if o = s.rx d then some (s.rx b) else none))

/-- Where a scalar access traps (R312): a misaligned address, an unmapped one, a page without the permission, an encoded
page under a store, a poisoned granule under a load; the cause of lowest code first. -/
def Obligations.ScalarAccessTraps : Prop :=
  ∀ (s : State) (d a : Reg) (imm : BitVec 12),
    let e := s.rx a + imm.signExtend 64
    (e.toNat % 8 ≠ 0 →
      exec (.ldd d a imm) s = .next (s.takeTrap .misalign e 0) ∧ exec (.std d a imm) s = .next (s.takeTrap .misalign e 0)) ∧
    (e.toNat % 4 ≠ 0 →
      exec (.ldw d a imm) s = .next (s.takeTrap .misalign e 0) ∧ exec (.ldwn d a imm) s = .next (s.takeTrap .misalign e 0) ∧
      exec (.stw d a imm) s = .next (s.takeTrap .misalign e 0)) ∧
    (e.toNat % 2 ≠ 0 →
      exec (.ldh d a imm) s = .next (s.takeTrap .misalign e 0) ∧ exec (.ldhn d a imm) s = .next (s.takeTrap .misalign e 0) ∧
      exec (.sth d a imm) s = .next (s.takeTrap .misalign e 0)) ∧
    (e.toNat % 8 = 0 → s.ritHit s.hart e.toNat (e.toNat + 8) = false →
      (s.xlat s.hart e.toNat = none →
        exec (.ldd d a imm) s = .next (s.takeTrap .loadfault e 0) ∧
        exec (.std d a imm) s = .next (s.takeTrap .storefault e 0)) ∧
      (∀ x, s.xlat s.hart e.toNat = some x →
        (x.attr.getLsbD 11 = false → exec (.ldd d a imm) s = .next (s.takeTrap .loadfault e 0)) ∧
        (x.attr.getLsbD 11 = true → s.linkDown x.kind = false → x.encoded = false →
          s.poisoned (x.addr e.toNat) = true → exec (.ldd d a imm) s = .next (s.takeTrap .poison e 0)) ∧
        (x.attr.getLsbD 12 = false → exec (.std d a imm) s = .next (s.takeTrap .storefault e 0)) ∧
        (x.attr.getLsbD 12 = true → x.kvWrite = true → s.linkDown x.kind = false → x.encoded = true →
          exec (.std d a imm) s = .next (s.takeTrap .encstore e 0))))

/-- Jumps write the link and go to their target, a JALR to one that is no multiple of 4 takes MISALIGN with nothing written;
branches go to PC + imm × 4 where the condition holds, else to the next word, and change nothing else. -/
def Obligations.ControlTransfer : Prop :=
  (∀ (s : State) (d a : Reg) (u : BitVec 20) (i : BitVec 12),
     (∃ t, exec (.jal d u) s = .next t ∧ s.WroteX t d (s.hart.pc + 4) (s.hart.pc + BitVec.ofInt 64 (u.toInt * 4))) ∧
     ((s.rx a + i.signExtend 64).toNat % 4 = 0 →
       ∃ t, exec (.jalr d a i) s = .next t ∧ s.WroteX t d (s.hart.pc + 4) (s.rx a + i.signExtend 64)) ∧
     ((s.rx a + i.signExtend 64).toNat % 4 ≠ 0 →
       exec (.jalr d a i) s = .next (s.takeTrap .misalign (s.rx a + i.signExtend 64) 0))) ∧
  (∀ (s : State) (a b : Reg) (imm : BitVec 12),
     let goesTo : Prop → Word → Prop := fun c pc =>
       (c → pc = s.hart.pc + BitVec.ofInt 64 (imm.toInt * 4)) ∧ (¬ c → pc = s.hart.pc + 4)
     let does : Instr → Prop → Prop := fun i c => ∃ pc, exec i s = .next (s.ended s pc) ∧ goesTo c pc
     does (.beq a b imm) (s.rx a = s.rx b) ∧ does (.bne a b imm) (s.rx a ≠ s.rx b) ∧
     does (.blt a b imm) ((s.rx a).toInt < (s.rx b).toInt) ∧ does (.bge a b imm) ((s.rx b).toInt ≤ (s.rx a).toInt) ∧
     does (.bltn a b imm) ((s.rx a).toNat < (s.rx b).toNat) ∧ does (.bgen a b imm) ((s.rx b).toNat ≤ (s.rx a).toNat))

/-! ### State registers and the vector configuration -/

/-- SRD writes the state register's value to x(d) and nothing else; what each number reads (R115, R116). -/
def Obligations.StateRegisterReads : Prop :=
  ∀ (s : State) (d : Reg),
    let reads : BitVec 12 → Word → Prop := fun n v => s.yieldsX (.srd d n) d v
    let free : Prop := ∀ t ∈ s.transfers, t.hart ≠ s.hart.id
    reads 0x000 (BitVec.ofNat 64 s.hart.vl) ∧ reads 0x001 (s.hart.vstat.zeroExtend 64) ∧
    reads 0x003 (BitVec.ofNat 64 s.hart.vlgrant) ∧ reads 0x004 (s.hart.wb.zeroExtend 64) ∧
    (free → reads 0x005 (s.hart.vflags.zeroExtend 64) ∧ reads 0x008 s.hart.clipc ∧ reads 0x009 s.hart.elemc) ∧
    reads 0x006 s.hart.efr ∧ reads 0x007 s.hart.srseed ∧ reads 0x00A (s.hart.mkbind.zeroExtend 64) ∧
    reads 0x011 96 ∧ reads 0x012 (s.hart.fstep.zeroExtend 64) ∧ reads 0x014 (s.hart.fgrow.zeroExtend 64) ∧
    reads 0x018 (s.hart.wfloor.zeroExtend 64) ∧ reads 0x019 (s.hart.wtmo.zeroExtend 64) ∧
    reads 0x01A (s.hart.headd.zeroExtend 64) ∧ reads 0x031 (s.hart.crewid.zeroExtend 64) ∧
    reads 0x032 (s.hart.crewrank.zeroExtend 64) ∧ reads 0x033 (s.hart.crewn.zeroExtend 64) ∧
    reads 0x034 (s.hart.unitid.zeroExtend 64) ∧ reads 0x035 (s.hart.unitn.zeroExtend 64) ∧
    reads 0x036 (s.hart.launchid.zeroExtend 64) ∧ reads 0x037 (s.hart.tenant.zeroExtend 64) ∧
    reads 0x039 0x3FF ∧ reads 0x03A s.hart.featmask ∧ reads 0x041 (s.hart.tcause.zeroExtend 64) ∧
    reads 0x043 s.hart.tval ∧ reads 0x044 (s.hart.telem.zeroExtend 64) ∧ reads 0x045 s.hart.tsave ∧
    reads 0x048 (BitVec.ofNat 64 s.hart.sfrq.length) ∧ reads 0x050 (BitVec.ofNat 64 s.clk) ∧
    reads 0x002 (BitVec.ofNat 64 (s.hart.vlgrant * 2 ^ (s.hart.vstat.toNat / 64 % 4) * 8 / s.hart.fmt.bits)) ∧
    reads 0x013 ((0 : BitVec 45) ++ s.hart.fstatOpf ++ (0 : BitVec 1) ++ s.hart.fstatCol ++ (0 : BitVec 6) ++
      s.hart.fstatCode) ∧
    reads 0x021 (s.hart.xcqBase ++ (0 : BitVec 12)) ∧ reads 0x030 (BitVec.ofNat 64 (s.hart.core * 4 + s.hart.slice)) ∧
    reads 0x040 (s.hart.tvec ++ (0 : BitVec 2)) ∧ reads 0x042 (s.hart.tpc ++ (0 : BitVec 2)) ∧
    reads 0x051 (BitVec.ofNat 64 (s.clk * 10 / 11)) ∧
    (let f := s.hart.fmt
     (f = .i4 ∨ f = .mxf4 → reads 0x010 512) ∧ (f = .i8 ∨ f = .e4m3 ∨ f = .e5m2 ∨ f = .dm8 ∨ f = .mxf8 ∨ f = .mxi8 → reads 0x010 256) ∧
     (f = .bf16 ∨ f = .f16 → reads 0x010 128) ∧ (f = .f32 → reads 0x010 64) ∧ (f ∈ [.i16, .i32, .i64, .n8, .n16, .n32, .n64, .f64] → reads 0x010 0)) ∧
    reads 0x020 ((0 : BitVec 61) ++ BitVec.ofBool s.hart.xperm ++ s.hart.xrm) ∧
    (let c := s.hart.core
     let die := (if 80 ≤ c then 1 else 0) + (if 160 ≤ c then 1 else 0) + (if 208 ≤ c then 1 else 0)
     let first := if c < 80 then 0 else if c < 160 then 80 else if c < 208 then 160 else 208
     c < 256 → ∃ v : BitVec 64, reads 0x038 v ∧ (v.extractLsb' 0 8).toNat = c ∧ (v.extractLsb' 8 3).toNat = c % 8 ∧
       (v.extractLsb' 11 4).toNat = (c - first) / 8 ∧ (v.extractLsb' 15 2).toNat = die ∧
       (v.extractLsb' 17 1).toNat = (if c < 160 then 0 else 1) ∧ v.extractLsb' 18 46 = 0) ∧
    (let ph := s.clk % 70400
     ∃ v : BitVec 64, reads 0x052 v ∧ v.extractLsb' 6 10 = 0 ∧ v.extractLsb' 28 36 = 0 ∧
       (ph % 2200 < 550 → (v.extractLsb' 0 5).toNat = ph / 2200 ∧ v.getLsbD 5 = true ∧ v.extractLsb' 16 12 = 0) ∧
       (550 ≤ ph % 2200 → (v.extractLsb' 0 5).toNat = (ph / 2200 + 1) % 32 ∧ v.getLsbD 5 = false ∧
         (v.extractLsb' 16 12).toNat = 2200 - ph % 2200)) ∧
    (∀ n : BitVec 12, n.toNat ∉ [0x000, 0x001, 0x002, 0x003, 0x004, 0x005, 0x006, 0x007, 0x008, 0x009, 0x00A, 0x010, 0x011,
      0x012, 0x013, 0x014, 0x018, 0x019, 0x01A, 0x020, 0x021, 0x030, 0x031, 0x032, 0x033, 0x034, 0x035, 0x036, 0x037, 0x038,
      0x039, 0x03A, 0x040, 0x041, 0x042, 0x043, 0x044, 0x045, 0x048, 0x050, 0x051, 0x052] → reads n 0)

/-- SWR writes its register alone, from the bits of x(a) that R116 gives it, and WINB moves the window to x(a) + imm; a number
outside the map or wholly read-only, a reserved value, a value that needs a masked feature, or a window outside R104 takes
ILLEGAL and writes nothing. That FSTAT.COL takes 96 to 127 as any other value is the model's choice (log 56). -/
def Obligations.StateRegisterWrites : Prop :=
  (∀ (s : State) (a : Reg),
     let v := s.rx a
     let h := s.hart
     let sets : BitVec 12 → Hart → Prop := fun n g => exec (.swr a n) s = .next (s.ended { s with hart := g } (h.pc + 4))
     let free : Prop := ∀ t ∈ s.transfers, t.hart ≠ h.id
     ((v.extractLsb' 12 3).toNat ≠ 7 → ((v.extractLsb' 12 3).toNat = 5 → h.feat 8 = true) →
       sets 0x001 { h with vstat := v.extractLsb' 12 4 ++ h.vstat.extractLsb' 0 12 }) ∧
     (let w := (v.extractLsb' 0 11).toNat
      w % 16 = 0 → w ≤ 1152 → w + 128 ≤ h.wspan → sets 0x004 { h with wb := v.extractLsb' 0 11 }) ∧
     (free → sets 0x005 { h with vflags := v.extractLsb' 0 6 } ∧ sets 0x008 { h with clipc := v } ∧
       sets 0x009 { h with elemc := v }) ∧
     sets 0x006 { h with efr := v } ∧ sets 0x007 { h with srseed := v } ∧
     ((v.extractLsb' 0 7).toNat < 96 → (v.extractLsb' 7 7).toNat < 96 → (v.extractLsb' 14 7).toNat < 96 →
       sets 0x00A { h with mkbind := v.extractLsb' 0 21 }) ∧
     ((v.extractLsb' 0 7).toNat ≤ 96 → sets 0x012 { h with fstep := v.extractLsb' 0 7 }) ∧
     ((v.extractLsb' 0 2).toNat ≠ 3 →
       sets 0x013 { h with fstatCode := v.extractLsb' 0 2, fstatCol := v.extractLsb' 8 7, fstatOpf := v.extractLsb' 16 3 }) ∧
     sets 0x014 { h with fgrow := v.extractLsb' 0 32 } ∧ sets 0x018 { h with wfloor := v.extractLsb' 0 32 } ∧
     sets 0x019 { h with wtmo := v.extractLsb' 0 32 } ∧
     ((v.extractLsb' 0 9).toNat ≤ 256 → sets 0x01A { h with headd := v.extractLsb' 0 9 }) ∧
     (((v.extractLsb' 0 2).toNat = 3 → h.feat 8 = true) →
       sets 0x020 { h with xrm := v.extractLsb' 0 2, xperm := v.getLsbD 2 }) ∧
     sets 0x021 { h with xcqBase := v.extractLsb' 12 52 } ∧ sets 0x040 { h with tvec := v.extractLsb' 2 62 } ∧
     sets 0x041 { h with tcause := v.extractLsb' 0 8 } ∧ sets 0x042 { h with tpc := v.extractLsb' 2 62 } ∧
     sets 0x043 { h with tval := v } ∧ sets 0x044 { h with telem := v.extractLsb' 0 16 } ∧ sets 0x045 { h with tsave := v }) ∧
  (∀ (s : State) (a : Reg) (imm : BitVec 12) (w : Nat), ((s.rx a).toNat : Int) + imm.toInt = (w : Int) → w % 16 = 0 →
     w ≤ 1152 → w + 128 ≤ s.hart.wspan →
     exec (.winb a imm) s = .next (s.ended { s with hart := { s.hart with wb := BitVec.ofNat 11 w } } (s.hart.pc + 4))) ∧
  (∀ (s : State) (a : Reg) (imm : BitVec 12),
     let v := s.rx a
     let bad : BitVec 12 → Prop := fun n => exec (.swr a n) s = .next (s.illegal (.swr a n))
     (∀ n : BitVec 12, n.toNat ∉ [0x001, 0x004, 0x005, 0x006, 0x007, 0x008, 0x009, 0x00A, 0x012, 0x013, 0x014, 0x018, 0x019,
       0x01A, 0x020, 0x021, 0x040, 0x041, 0x042, 0x043, 0x044, 0x045] → bad n) ∧
     ((v.extractLsb' 12 3).toNat = 7 → bad 0x001) ∧
     ((v.extractLsb' 12 3).toNat = 5 → s.hart.feat 8 = false → bad 0x001) ∧
     (96 < (v.extractLsb' 0 7).toNat → bad 0x012) ∧ ((v.extractLsb' 0 2).toNat = 3 → bad 0x013) ∧
     (256 < (v.extractLsb' 0 9).toNat → bad 0x01A) ∧ ((∃ k : Nat, k < 3 ∧ 96 ≤ (v.extractLsb' (7 * k) 7).toNat) → bad 0x00A) ∧
     ((v.extractLsb' 0 2).toNat = 3 → s.hart.feat 8 = false → bad 0x020) ∧
     (let w := (v.extractLsb' 0 11).toNat
      w % 16 ≠ 0 ∨ 1152 < w ∨ s.hart.wspan < w + 128 → bad 0x004) ∧
     (let w : Int := (v.toNat : Int) + imm.toInt
      w < 0 ∨ w.toNat % 16 ≠ 0 ∨ 1152 < w.toNat ∨ s.hart.wspan < w.toNat + 128 →
       exec (.winb a imm) s = .next (s.illegal (.winb a imm))))

/-- SETVL and SETVLI: with no STOREPEND due and a configuration the tenant may use, VSTAT[11:0] is the configuration, VL the
lesser of the length asked for and VLMAX = VLGRANT × G × 8 / b, which x(d) receives; a strip opens; nothing else changes
but the grant in force, with which the register bytes beyond the shorter length become zero: R94 says it of a larger grant, and of a
smaller one it is the model's choice (log 49). A configuration of R328 that is none takes ILLEGAL. -/
def Obligations.SetVectorLength : Prop :=
  ∀ (s : State) (d a b : Reg) (cfg : BitVec 12),
    let h := s.hart
    h.quiet →
    (∀ f : Fmt, Fmt.ofCode (cfg.toNat % 64) = some f → cfg.toNat / 256 % 4 ≠ 3 → cfg.toNat / 1024 < 2 →
      (f.isMx = true → h.feat 0 = true) → (f = .dm8 → h.feat 1 = true) →
      let vl := min (s.rx a).toNat (h.newGrant * 2 ^ (cfg.toNat / 64 % 4) * 8 / f.bits)
      ∃ v : List (Nat × VReg), (h.vlgrant = h.newGrant → v = h.v) ∧
        (h.vlgrant ≠ h.newGrant → ∀ w, mget {} v w = { mget {} h.v w with
          data := BitVec.ofNat 2048 ((mget {} h.v w).data.toNat % 2 ^ (8 * min h.vlgrant h.newGrant)) }) ∧
        let t : State := { s with hart := { h with vstat := h.vstat.extractLsb' 12 4 ++ cfg, vlgrant := h.newGrant, vl := vl, v := v,
                                                   strip := h.strip + 1, samples := [] } }
        exec (.setvli d a cfg) s = .next (s.ended (t.wx d (BitVec.ofNat 64 vl)) (h.pc + 4)) ∧
        ((s.rx b).extractLsb' 0 12 = cfg →
          exec (.setvl d a b) s = .next (s.ended (t.wx d (BitVec.ofNat 64 vl)) (h.pc + 4)))) ∧
    (Fmt.ofCode (cfg.toNat % 64) = none ∨ cfg.toNat / 256 % 4 = 3 ∨ 2 ≤ cfg.toNat / 1024 ∨
      (∃ f : Fmt, Fmt.ofCode (cfg.toNat % 64) = some f ∧ ((f.isMx = true ∧ h.feat 0 = false) ∨ (f = .dm8 ∧ h.feat 1 = false))) →
      exec (.setvli d a cfg) s = .next (s.illegal (.setvli d a cfg)) ∧
      ((s.rx b).extractLsb' 0 12 = cfg → exec (.setvl d a b) s = .next (s.illegal (.setvl d a b))))

/-! ### Traps and system instructions -/

/-- Trap entry at the first-level handler (R275): the four trap registers, HACT, no links, a strip opened, PC := TVEC, and
no other register, predicate, tile, descriptor or state register changed. -/
def Obligations.TrapEntry : Prop :=
  ∀ (s : State) (c : Cause) (tval : Word) (telem : Nat), s.hart.handles →
    s.takeTrap c tval telem = { s with hart := { s.hart with
      tcause := BitVec.ofNat 8 c.code, tpc := BitVec.ofNat 62 (s.hart.pc.toNat / 4), tval := tval,
      telem := BitVec.ofNat 16 telem, hact := true, links := [], strip := s.hart.strip + 1, samples := [],
      pc := BitVec.ofNat 64 (s.hart.tvec.toNat * 4), wait := none, parked := false } }

/-- A trap with TVEC 0 or raised in a handler goes to Riura (R276): but for a BREAK while shdb is attached, the crew ends. With no
store of a crew-mate that a migration holds back, its harts are gone at once (a hart of a crew placed in their stead bears a later
number, whatever its crew's); with one, no hart of the crew runs on and CREWEXIT with status 0xFFFFFF00 + TCAUSE stands waiting for
that store (R80, R188). Under a BREAK while shdb is attached every hart of the crew stops where it is. -/
def Obligations.TrapToRiura : Prop :=
  ∀ (s : State) (c : Cause) (tval : Word) (telem : Nat) (k : Crew),
    let u := s.takeTrap c tval telem
    let mate : Hart → Prop := fun g => g.run ≠ .idle ∧ g.crewid = s.hart.crewid
    s.hart.tvec = 0 ∨ s.hart.hact = true → s.hart.run = .running → s.crewOf s.hart.crewid.toNat = some k →
    (¬ (c = .brk ∧ (s.app s.hart.app).shdb = true) →
      ((∀ g ∈ s.others, mate g → g.parked = false) → ∀ g ∈ u.harts, g.crewid = s.hart.crewid → s.nextHart ≤ g.id) ∧
      ((∃ g ∈ s.others, mate g ∧ g.parked = true) →
        (∀ g ∈ u.harts, mate g → g.ended = true ∧ g.run ≠ .running) ∧
        ∃ job, (Instr.riuraCrewexit, job) ∈ u.jobs ∧ job.caller = .hart s.hart.id ∧
          job.a1 = BitVec.ofNat 64 (0xFFFFFF00 + c.code))) ∧
    (c = .brk → (s.app s.hart.app).shdb = true →
      ∀ g ∈ s.harts, mate g → ∃ q ∈ u.harts, q.id = g.id ∧ q.stopped = true ∧ q.pc = g.pc)

/-- TRAPRET clears HACT, discards the records after a STOREPEND, opens a strip and goes to TPC, and takes ILLEGAL without a
handler (R277); BRK takes BREAK with its own word as TVAL, whose
bits [27:14] are its code (R330). -/
def Obligations.TrapReturn : Prop :=
  (∀ s : State,
     (s.hart.hact = true →
       ∃ t, exec .trapret s = .next t ∧
         t.hart.sfrq.map (fun r => (r.pc, r.addr, r.elem, r.cause, r.kind, r.strip, r.lost)) =
           (if s.hart.tcause = 6 then [] else
             s.hart.sfrq.map fun r => (r.pc, r.addr, r.elem, r.cause, r.kind, r.strip, r.lost)) ∧
         t = { s with hart := { s.hart with hact := false, strip := s.hart.strip + 1, samples := [], wait := none,
                                            parked := false, retired := s.hart.retired + 1,
                                            pc := BitVec.ofNat 64 (s.hart.tpc.toNat * 4), sfrq := t.hart.sfrq } }) ∧
     (s.hart.hact = false → exec .trapret s = .next (s.illegal .trapret))) ∧
  (∀ (s : State) (code : BitVec 14), ∃ w : Word, exec (.brk code) s = .next (s.takeTrap .brk w 0) ∧
     w = BitVec.ofNat 64 (encodeNat (.brk code)) ∧ w.extractLsb' 14 14 = code)

/-- STOREPEND is taken before the instruction at every trigger while records are held and no handler is active (R279). -/
def Obligations.StorependTriggers : Prop :=
  ∀ (s : State) (r : SfrqRec) (rs : List SfrqRec) (d a b : Reg) (cfg : BitVec 12) (sc : BitVec 3) (id : BitVec 4),
    s.hart.sfrq = r :: rs → s.hart.hact = false →
    let taken : Outcome State Fault Refusal := .next (s.takeTrap .storepend r.addr r.elem.toNat)
    exec (.setvli d a cfg) s = taken ∧ exec (.setvl d a b) s = taken ∧ exec (.fence sc) s = taken ∧
    exec (.vfence id sc) s = taken ∧ exec (.handoff d a b) s = taken ∧ exec .ecall s = taken ∧ exec .exit s = taken ∧
    exec .yield s = taken ∧ (s.drained s.hart 4 = true → exec .drainst s = taken)

/-- ECALL makes the call of service x16 with x17 to x20 as its arguments, and the hart issues nothing until the return writes
x16 and moves it past the ECALL; EXIT outside a handler, with everything drained, ends the hart, which keeps its slice while
others of its crew run; in a handler it takes ILLEGAL (R54, R74, R280). -/
def Obligations.CallsAndExit : Prop :=
  (∀ s : State,
     (s.hart.quiet → s.drained s.hart 3 = true → s.jobs = [] →
       exec .ecall s = .next { s with
         hart := { s.hart with links := [], inCall := true, wait := none },
         jobs := [(serviceEvent (s.rx 16).toNat (s.rx 17).toNat,
           { caller := .hart s.hart.id, a1 := s.rx 17, a2 := s.rx 18, a3 := s.rx 19, a4 := s.rx 20 })] }) ∧
     (s.hart.id = s.inp.n → s.hart.inCall = true → s.hart.run ≠ .idle → (∀ g ∈ s.others, g.id ≠ s.inp.n) →
       ∃ t, exec .ecallReturn s = .next t ∧ t.rx 16 = s.inp.a1 ∧ (∀ r : Reg, r ≠ 16 → t.rx r = s.rx r) ∧
         t.hart.pc = s.hart.pc + 4 ∧ t.hart.inCall = false ∧
         t.events = (if s.hart.spilled then [(.spillDone, { n := s.inp.n, k := 1 })] else []) ++ s.events ∧
         t = { s with events := t.events,
                      hart := { s.hart with inCall := false, x := t.hart.x, pc := s.hart.pc + 4, wait := none, parked := false,
                                            retired := s.hart.retired + 1, sfrq := t.hart.sfrq } })) ∧
  (∀ s : State,
     (s.hart.hact = true → exec .exit s = .next (s.illegal .exit)) ∧
     (s.hart.hact = false → s.hart.sfrq = [] → s.drained s.hart 4 = true → s.hart.run = .running →
       (∃ g ∈ s.others, g.run ≠ .idle ∧ g.crewid = s.hart.crewid ∧ g.ended = false) →
       ∃ t, exec .exit s = .next t ∧ t.hart.run = .exited ∧ t.hart.ended = true ∧ t.mem = s.mem ∧
         t.hart.core = s.hart.core ∧ t.hart.slice = s.hart.slice ∧ t.crews = s.crews ∧ t.hart.x = s.hart.x))

/-- FENCE, DRAINST, YIELD, WFE with its latch set, ICUNLOCK and ICLOCK end as their entries say; ICLOCK keeps the locks the hart
has, adds lines of the range that can be fetched or are locked beside it, as many as the core's 64 allow, and x(d) counts the lines
of the range that are then locked (R287, R327); SFRPOP removes the oldest
record and writes its four words to x(d) to x(d + 3), zeros with none held (R281). -/
def Obligations.SystemInstructions : Prop :=
  (∀ (s : State) (d a : Reg) (sc : BitVec 3) (n : BitVec 12),
     (s.hart.quiet → s.drained s.hart sc.toNat = true → exec (.fence sc) s = .next (s.ended s (s.hart.pc + 4))) ∧
     (s.hart.quiet → s.drained s.hart 4 = true → exec .drainst s = .next (s.ended s (s.hart.pc + 4))) ∧
     (s.drained s.hart 4 = false → exec .drainst s = .next (s.waitsOn .drainst)) ∧
     (s.hart.quiet → exec .yield s = .next (s.ended { s with clk := s.clk + 16 } (s.hart.pc + 4))) ∧
     (s.hart.wake = true →
       exec (.wfe d a) s = .next (s.ended (({ s with hart := { s.hart with wake := false } } : State).wx d 1) (s.hart.pc + 4))) ∧
     (s.hart.wake = false → exec (.wfe d a) s = .next (s.waitsOn (.wfe d a))) ∧
     exec .icunlock s = .next (s.ended { s with hart := { s.hart with locks := [] } } (s.hart.pc + 4)) ∧
     (let line : Nat → Nat := fun i => ((s.rx a).toNat / 512 + i) % 2 ^ 55
      let beside := s.locksBeside s.hart.core s.hart.id
      let fits : Nat → Bool := fun l => beside.contains l || s.lineFetchable s.hart l
      ∃ own, (let k := ((List.range n.toNat).filter fun i => own.contains (line i) || beside.contains (line i)).length
         exec (.iclock d a n) s = .next (s.ended (({ s with hart := { s.hart with locks := own } } : State).wx d
           (BitVec.ofNat 64 k)) (s.hart.pc + 4))) ∧
        s.hart.locks <+: own ∧
        (∀ l ∈ own, l ∈ s.hart.locks ∨ (fits l = true ∧ ∃ i < n.toNat, l = line i)) ∧
        ((distinct (beside ++ s.hart.locks) []).length ≤ 64 → (distinct (beside ++ own) []).length ≤ 64) ∧
        (∀ i < n.toNat, fits (line i) = true → line i ∉ own → 64 ≤ (distinct (beside ++ own) []).length))) ∧
  (∀ (s : State) (d : Reg), d.toNat ≤ 124 →
     ∃ t, exec (.sfrpop d) s = .next t ∧
       (∀ r : Reg, r.toNat < d.toNat ∨ d.toNat + 3 < r.toNat → t.rx r = s.rx r) ∧
       (let w : Word × Word × Word × Word := match s.hart.sfrq with
          | [] => (0, 0, 0, 0)
          | r :: _ => (r.pc, r.addr, (r.strip ++ (0 : BitVec 5) ++ r.kind ++ r.cause ++ r.elem : BitVec 64),
              r.lost.zeroExtend 64)
        (d ≠ 0 → t.rx d = w.1) ∧ t.rx (d + 1) = w.2.1 ∧ t.rx (d + 2) = w.2.2.1 ∧ t.rx (d + 3) = w.2.2.2) ∧
       t = { s with hart := { s.hart with x := t.hart.x, pc := s.hart.pc + 4, wait := none, parked := false,
                                          retired := s.hart.retired + 1, sfrq := s.hart.sfrq.tail.map fun r => { r with age := r.age + 1 } } })

/-! ### Vector arithmetic -/

/-- Integer, logical and shift instructions and VHASH on patterns p, q of b bits (R341 to R343, R381): what each selected
element becomes, the encoding by the operands, no flag; a format outside the class takes ILLEGAL. The saturating
instructions: the exact sum or difference held to the range of the format; OF and NX where a selected element saturates;
signed formats for VSADD and VSSUB, unsigned ones for VSADDN and VSSUBN. -/
def Obligations.VectorInteger : Prop :=
  (∀ (s : State) (d a b : Reg) (m : BitVec 2),
     let f := s.hart.fmt
     let w := f.bits
     let int : (Reg → Reg → Reg → BitVec 2 → Instr) → (Nat → Nat → Nat) → Prop := fun i g =>
       s.elementwise f.isInt (i d a b m) d a b m fun p q => g p q % 2 ^ w
     let any : (Reg → Reg → Reg → BitVec 2 → Instr) → (Nat → Nat → Nat) → Prop := fun i g =>
       s.elementwise f.isArith (i d a b m) d a b m fun p q => g p q % 2 ^ w
     let sg : Nat → Int := fun p => (BitVec.ofNat w p).toInt
     int .vadd (fun p q => p + q) ∧ int .vsub (fun p q => p + (2 ^ w - q % 2 ^ w)) ∧ int .vmul (fun p q => p * q) ∧
     int .vmulh (fun p q => (BitVec.ofInt w ((if f.isI then sg p * sg q else ((p % 2 ^ w) * (q % 2 ^ w) : Nat)) / 2 ^ w)).toNat) ∧
     int .vmin (fun p q => if sg p ≤ sg q then p else q) ∧ int .vmax (fun p q => if sg p < sg q then q else p) ∧
     int .vminn (fun p q => if p ≤ q then p else q) ∧ int .vmaxn (fun p q => if p < q then q else p) ∧
     any .vand (fun p q => p &&& q) ∧ any .vor (fun p q => p ||| q) ∧ any .vxor (fun p q => p ^^^ q) ∧
     any .vandn (fun p q => (BitVec.ofNat w p &&& ~~~(BitVec.ofNat w q)).toNat) ∧
     int .vshl (fun p q => p * 2 ^ (q % w)) ∧ int .vshrl (fun p q => p / 2 ^ (q % w)) ∧
     int .vshra (fun p q => (BitVec.ofInt w (sg p / 2 ^ (q % w))).toNat) ∧
     int .vrotr (fun p q => p / 2 ^ (q % w) + p * 2 ^ (w - q % w)) ∧
     int .vhash (fun p q =>
       if w = 64 then let t := ((p * 0x9E3779B97F4A7C15 % 2 ^ 64) ^^^ q) * 0x9E3779B97F4A7C15 % 2 ^ 64; t ^^^ (t / 2 ^ 32)
       else let t := ((p * 0x9E3779B1 % 2 ^ 32) ^^^ q) * 0x9E3779B1 % 2 ^ 32; t ^^^ (t / 2 ^ 16))) ∧
  (∀ (s : State) (d a b : Reg) (m : BitVec 2),
     let f := s.hart.fmt
     let does : Bool → Instr → (Int → Int → Int) → Prop := fun cls i g =>
       (cls = false → exec i s = .next (s.illegal i)) ∧
       (cls = true → ∀ (t : State) (x y o : Opd), s.readsTwo t false d a b m x y o →
         let h := t.hart
         let z : Nat → Int := fun k => g (f.toInt (x.el k)) (f.toInt (y.el k))
         let out : Nat → Bool := fun k => decide (z k < f.intMin) || decide (f.intMax < z k)
         let hit := (h.chosen m.toNat h.vl).any out
         s.endsWith i t ((h.writeVec d.toNat (resultVec h.ep f ([x, y] ++ h.maskOpd m.toNat o) (h.maskBits m.toNat)
           (h.merged m.toNat (fun k => (BitVec.ofInt f.bits (max f.intMin (min f.intMax (z k)))).toNat) o.el))).raise
             { of := hit, nx := hit }))
     does f.isI (.vsadd d a b m) (fun p q => p + q) ∧ does f.isI (.vssub d a b m) (fun p q => p - q) ∧
     does f.isN (.vsaddn d a b m) (fun p q => p + q) ∧ does f.isN (.vssubn d a b m) (fun p q => p - q))

/-- The floating instructions: the exact outcome of the operation rounded once by VSTAT.RM, VFMA and its kin with the old
destination as addend; VFMIN and VFMAX choose a pattern; VFSQRT and VFEXP have one operand. A whole number rounded from n
/ d: the neighbour that the mode names, inexact exactly where d does not divide n, and to nearest with ties to even within
one half (R158). That VFEXP under F32 keeps its result's encoding under RM = STO too is the model's choice (log 61). -/
def Obligations.VectorFloating : Prop :=
  (∀ (s : State) (d a b : Reg) (m : BitVec 2),
     let f := s.hart.fmt
     let fma : RM → Val → Val → Val → Exact := fun rm x y z => Val.fma (decide (rm = .rdn)) x y z
     s.roundsTo (.vfadd d a b m) false d a b m (fun rm x y _ => Val.add (decide (rm = .rdn)) x y) ∧
     s.roundsTo (.vfsub d a b m) false d a b m (fun rm x y _ => Val.add (decide (rm = .rdn)) x y.negate) ∧
     s.roundsTo (.vfmul d a b m) false d a b m (fun _ x y _ => Val.mul x y) ∧
     s.roundsTo (.vfdiv d a b m) false d a b m (fun _ x y _ => Val.div x y) ∧
     s.roundsTo (.vfma d a b m) true d a b m fma ∧
     s.roundsTo (.vfms d a b m) true d a b m (fun rm x y z => fma rm x y z.negate) ∧
     s.roundsTo (.vfnma d a b m) true d a b m (fun rm x y z => fma rm x.negate y z) ∧
     s.roundsTo (.vfnms d a b m) true d a b m (fun rm x y z => fma rm x.negate y z.negate) ∧
     (let choose : Bool → Nat → Nat → Nat := fun mx p q =>
        let x := decodeVal f p
        let y := decodeVal f q
        if x.isNan ∧ y.isNan then f.ladder.nan else if x.isNan then q else if y.isNan then p
        else if (if mx then x.below y else y.below x) then q else p
      s.elementwise f.isFlt (.vfmin d a b m) d a b m (choose false) ∧
      s.elementwise f.isFlt (.vfmax d a b m) d a b m (choose true)) ∧
     (let one : Bool → Bool → Instr → (RM → Nat → Nat → Nat × Flags) → Prop := fun cls rnd i g =>
        (cls = false → exec i s = .next (s.illegal i)) ∧
        (cls = true → ∀ (t : State) (x o : Opd), s.readsOne t d a m x o →
          let h := t.hart
          let r : Nat → Nat × Flags := fun k => g h.rm (h.drawAt m.toNat k) (x.el k)
          let els := h.merged m.toNat (fun k => (r k).1) o.el
          let v := resultVec h.ep h.fmt ([x, h.zeroOpd] ++ h.maskOpd m.toNat o) (h.maskBits m.toNat) els
          s.endsWith i t (if rnd then h.afterRounding m.toNat d (if h.rm = .sto ∨ h.rm = .efb then plainVec h.fmt els else v) fun k => (r k).2
            else (h.writeVec d.toNat v).raise (h.flagsOf m.toNat fun k => (r k).2)))
      one f.isFlt true (.vfsqrt d a m) (fun rm u p => sqrtRound f rm u (decodeVal f p)) ∧
      one (decide (f = .f16) || decide (f = .bf16) || decide (f = .f32)) (decide (f ≠ .f32)) (.vfexp d a m) (fun rm u p =>
        let e := fexp (decodeVal f p)
        if f = .f32 then e
        else ((roundVal f rm u (decodeVal .f32 e.1)).1, e.2.or (roundVal f rm u (decodeVal .f32 e.1)).2)))) ∧
  (∀ (rm : RM) (u n d : Nat) (neg : Bool), 0 < d →
     let r := roundNat rm u neg n d
     (r.1 = n / d ∨ r.1 = n / d + 1) ∧ (r.2 = true ↔ n % d ≠ 0) ∧ (n % d = 0 → r.1 = n / d) ∧
     (rm = .rne → 2 * n ≤ 2 * r.1 * d + d ∧ 2 * r.1 * d ≤ 2 * n + d ∧ (2 * (n % d) = d → r.1 % 2 = 0)) ∧
     (rm = .rtz → r.1 = n / d) ∧ (rm = .rup → n % d ≠ 0 → r.1 = if neg then n / d else n / d + 1) ∧
     (rm = .rdn → n % d ≠ 0 → r.1 = if neg then n / d + 1 else n / d))

/-- Compares and predicate instructions: bits below VL by the relation or function at selected elements, cleared or kept at
the others by MP, 0 from VL on; no other predicate and nothing else changes. PFIRST and PCOUNT look at the selected set
bits below VL; MBIND replaces one of the three mask numbers. -/
def Obligations.Predicates : Prop :=
  (∀ (s : State) (d a b : Reg) (m : BitVec 2),
     let f := s.hart.fmt
     let sets : Hart → Hart → (Nat → Bool) → Prop := fun h g r =>
       g = { h with p := g.p } ∧ (∀ k, k ≠ d.toNat → g.pred k = h.pred k) ∧
       ∀ k < 2048, bitAt (g.pred d.toNat) k =
         (decide (k < h.vl) && if h.sel m.toNat k then r k else !h.mz && bitAt (h.pred d.toNat) k)
     let cmp : Instr → (Nat → Nat → Bool) → Prop := fun i r =>
       (f.isArith = false → exec i s = .next (s.illegal i)) ∧
       (f.isArith = true → ∀ (t : State) (x y : Opd), s.issues [s.hart.opRun a.toNat, s.hart.opRun b.toNat] [] m.toNat t →
         t.hart.operand a.toNat = .ok x → t.hart.operand b.toNat = .ok y →
         ∃ g, s.endsWith i t g ∧ sets t.hart g fun k => r (x.el k) (y.el k))
     let logic : Instr → (Bool → Bool → Bool) → Prop := fun i r =>
       (2048 < s.hart.vl → exec i s = .next (s.illegal i)) ∧
       (s.hart.vl ≤ 2048 → ∃ g, s.endsWith i s g ∧
         sets s.hart g fun k => r (bitAt (s.hart.pred a.toNat) k) (bitAt (s.hart.pred b.toNat) k))
     let lt : Nat → Nat → Bool := fun p q => if f.isInt then decide (f.toInt p < f.toInt q) else (decodeVal f p).lt (decodeVal f q)
     let eq : Nat → Nat → Bool := fun p q => if f.isInt then decide (f.toInt p = f.toInt q) else (decodeVal f p).eq (decodeVal f q)
     cmp (.vcmpeq d a b m) eq ∧ cmp (.vcmpne d a b m) (fun p q => !eq p q) ∧ cmp (.vcmplt d a b m) lt ∧
     cmp (.vcmple d a b m) (fun p q => lt p q || eq p q) ∧
     logic (.pand d a b m) (fun x y => x && y) ∧ logic (.por d a b m) (fun x y => x || y) ∧
     logic (.pxor d a b m) (fun x y => x != y) ∧ logic (.pandn d a b m) (fun x y => x && !y) ∧
     logic (.pnot d a m) (fun x _ => !x)) ∧
  (∀ (s : State) (d a : Reg) (m : BitVec 2),
     let h := s.hart
     let hits := (h.chosen m.toNat h.vl).filter fun k => bitAt (h.pred a.toNat) k
     (2048 < h.vl → exec (.pfirst d a m) s = .next (s.illegal (.pfirst d a m)) ∧
       exec (.pcount d a m) s = .next (s.illegal (.pcount d a m))) ∧
     (h.vl ≤ 2048 → s.yieldsX (.pcount d a m) d (BitVec.ofNat 64 hits.length) ∧
       (hits = [] → s.yieldsX (.pfirst d a m) d (BitVec.allOnes 64)) ∧
       (∀ k ∈ hits, (∀ j ∈ hits, k ≤ j) → s.yieldsX (.pfirst d a m) d (BitVec.ofNat 64 k))) ∧
     (1 ≤ d.toNat → d.toNat ≤ 3 →
       ∃ v, s.endsWith (.mbind d a) s { h with mkbind := v } ∧ bitsAt v.toNat (7 * (d.toNat - 1)) 7 = a.toNat ∧
         ∀ n < 3, n ≠ d.toNat - 1 → bitsAt v.toNat (7 * n) 7 = bitsAt h.mkbind.toNat (7 * n) 7))

/-- Reductions of the selected elements into x(d), from a start in x(b) (R352, R353, R374). Segmented reductions and scans:
segments begin at the set bits of p(b) above bit 0; the sums of integer segments, the greatest element of each, and the
running sums with and before each element; past the last segment VSEGMAX writes zeros (R364); that the greatest of NaNs alone is the
canonical NaN is the model's choice (log 67). -/
def Obligations.Reductions : Prop :=
  (∀ (s t : State) (d a b : Reg) (m : BitVec 2) (x : Opd),
     s.issues [s.hart.opRun a.toNat] [] m.toNat t → t.hart.operand a.toNat = .ok x → t.hart.fmt = s.hart.fmt →
     let h := t.hart
     let f := s.hart.fmt
     let els := (h.chosen m.toNat h.vl).map x.el
     let start := (s.rx b).toNat % 2 ^ f.bits
     let yields : Instr → Word → Prop := fun i v => s.endsWith i t (h.wx d.toNat v)
     let wide : Nat → Word := fun v => if f.isI then (BitVec.ofInt 64 (BitVec.ofNat f.bits v).toInt) else BitVec.ofNat 64 (v % 2 ^ f.bits)
     (f.isInt = true →
       yields (.vredsum d a b m) (BitVec.ofInt 64 ((s.rx b).toInt + (els.map f.toInt).sum)) ∧
       (∃ v ∈ start :: els, (∀ e ∈ start :: els, f.toInt v ≤ f.toInt e) ∧ yields (.vredmin d a b m) (wide v)) ∧
       (∃ v ∈ start :: els, (∀ e ∈ start :: els, f.toInt e ≤ f.toInt v) ∧ yields (.vredmax d a b m) (wide v))) ∧
     (f.isFlt = true →
       yields (.vredmin d a b m) (wide (els.foldl (fminmax f false) start)) ∧
       yields (.vredmax d a b m) (wide (els.foldl (fminmax f true) start)) ∧
       ∃ v fl seed, s.endsWith (.vfredsum d a b m) t (({ h.raise fl with srseed := seed } : Hart).wx d.toNat v) ∧
         (h.rm ≠ .sto → seed = h.srseed ∧ v = BitVec.ofNat 64
           (els.foldl (fun acc e => ((Val.add (decide (h.rm = .rdn)) (decodeVal f acc) (decodeVal f e)).round f h.rm 0).1) start)) ∧
         (h.rm = .sto → seed = BitVec.ofNat 64 (skipDraws els.length h.srseed.toNat)) ∧ (els = [] → fl = {})) ∧
     (f.isArith = true →
       let vs := (els.map (decodeVal f)).filter fun v => !v.isNan
       yields (.vamax d a m) (BitVec.ofNat 64 (if vs = [] then 0 else (roundVal .f32 .rup 0 (vs.foldl absMax (.fin false 0 1))).1)))) ∧
  (∀ (s t : State) (d a b : Reg) (m : BitVec 2) (x : Opd),
     let f := s.hart.fmt
     let h := t.hart
     let seg := h.segment b.toNat
     let sumOf : (Nat → Bool) → Nat := fun p => (((h.chosen m.toNat h.vl).filter p).map x.el).sum % 2 ^ f.bits
     let plain : List Nat → Hart := fun els => h.writeVec d.toNat (plainVec f els)
     f.isArith = true → s.hart.vl ≤ 2048 → t.hart.fmt = f → t.hart.operand a.toNat = .ok x →
     (s.issues [s.hart.opRun a.toNat] [s.hart.gRun d.toNat] m.toNat t →
       (f.isInt = true → s.endsWith (.vsegsum d a b m) t (plain ((List.range h.vl).map fun k => sumOf fun j => decide (seg j = k)))) ∧
       (f.isFlt = true → ∃ els g, els.length = h.vl ∧ s.endsWith (.vsegsum d a b m) t g ∧
         g = { plain els with vflags := g.vflags, srseed := g.srseed }) ∧
       ∃ els, els.length = h.vl ∧ s.endsWith (.vsegmax d a b m) t (plain els) ∧
         (∀ k < h.vl, (∀ j < h.vl, seg j < k) → els.getD k 0 = 0) ∧
         (f.isInt = true → ∀ k < h.vl,
           (∀ j ∈ h.chosen m.toNat h.vl, seg j = k → f.toInt (x.el j) ≤ f.toInt (els.getD k 0)) ∧
           ((∃ j ∈ h.chosen m.toNat h.vl, seg j = k ∧ els.getD k 0 = x.el j) ∨ (∀ j < h.vl, seg j < k) ∨
             els.getD k 0 = (BitVec.ofInt f.bits f.intMin).toNat)) ∧
         (f.isFlt = true → ∀ k < h.vl, (∃ j ∈ h.chosen m.toNat h.vl, seg j = k) →
           (∀ j ∈ h.chosen m.toNat h.vl, seg j = k → (decodeVal f (x.el j)).isNan = true) → els.getD k 0 = f.ladder.nan)) ∧
     (∀ o : Opd, s.readsOne t d a m x o →
       (f.isInt = true →
         s.endsWith (.vscan d a b m) t
           (plain (h.merged m.toNat (fun k => sumOf fun j => decide (seg j = seg k) && decide (j ≤ k)) o.el)) ∧
         s.endsWith (.vscanx d a b m) t
           (plain (h.merged m.toNat (fun k => sumOf fun j => decide (seg j = seg k) && decide (j < k)) o.el))) ∧
       (f.isFlt = true → ∀ i ∈ [Instr.vscan d a b m, .vscanx d a b m], ∃ els g, els.length = h.vl ∧ s.endsWith i t g ∧
         g = { plain els with vflags := g.vflags, srseed := g.srseed })))

/-- Moves of elements: slides, the permutation by an index group, and packing; each result is PLAIN. VMV, VSPLAT, VINS, VEXTR
and the index vectors; VMV and VEXTR read v(a) at its own tag (R105) and take an untyped register too. The registers that VMV writes
where that tag is wider than FMT (log 62), and what both read of an untyped register (log 63), are the model's choice. -/
def Obligations.ElementMoves : Prop :=
  (∀ (s : State) (d a b : Reg) (m : BitVec 2),
     let n := (s.rx b).toNat
     s.moves (.vslideup d a b m) (s.hart.keeps m || decide (0 < n)) d a m (fun h x o k =>
       if k < n then o k else if h.sel m.toNat k then x (k - n) else if h.mz then 0 else o k) ∧
     s.moves (.vslidedn d a b m) (s.hart.keeps m) d a m (fun h x o k =>
       if h.sel m.toNat k then x (k + n) else if h.mz then 0 else o k) ∧
     s.moves (.vcompress d a m) false d a m (fun h x _ k =>
       match (h.chosen m.toNat h.vl)[k]? with
       | some j => x j
       | none => 0) ∧
     (s.hart.fmt.isMove = true → ∀ (t : State) (x : List Nat) (ix : Vec) (o : Opd),
       s.issues (s.hart.opRun a.toNat :: s.hart.tagRun b.toNat :: (if s.hart.keeps m then [s.hart.opRun d.toNat] else []))
         [s.hart.gRun d.toNat] m.toNat t →
       t.hart.rawAt a.toNat = .ok x → t.hart.tagged b.toNat Fmt.isIndex = .ok ix → s.oldOf t false d m o →
       s.endsWith (.vpermv d a b m) t (t.hart.writeVec d.toNat
         (plainVec t.hart.fmt (t.hart.merged m.toNat (fun k => x.getD (ix.elems.getD k 0) 0) o.el))))) ∧
  (∀ (s : State) (d a b : Reg) (ia ib : BitVec 7) (m : BitVec 2),
     let f := s.hart.fmt
     let none_ : Bool → Instr → Opd → Prop := fun cls i src =>
       (cls = false → exec i s = .next (s.illegal i)) ∧
       (cls = true → ∀ (t : State) (o : Opd), s.readsNone t d m o →
         s.endsWith i t (t.hart.writeVec d.toNat (resultVec t.hart.ep t.hart.fmt (src :: t.hart.maskOpd m.toNat o)
           (t.hart.maskBits m.toNat) (t.hart.merged m.toNat src.el o.el))))
     (m = 0 → ∀ (t : State) (v : Vec), s.issues [s.hart.ownRun a.toNat] [s.hart.likeRun d a] 0 t →
       t.hart.readRun (t.hart.ownRun a.toNat) = .ok v →
       let c := copyVec v.enc v.fmt v.wid v.elems v.scales t.hart.vl
       let w := if t.hart.ep = 2 then plainVec c.fmt c.elems c.scales else c
       s.endsWith (.vmv d a m) t (t.hart.writeOwn d.toNat w) ∧
       (v.enc = .plain → v.fmt.bits ≤ t.hart.fmt.bits → t.hart.writeOwn d.toNat w = t.hart.writeVec d.toNat w) ∧
       (v.enc = .plain → c.fmt = v.fmt ∧ ∀ k < t.hart.vl, c.elems.getD k 0 = v.elems.getD k 0)) ∧
     (m = 0 → ∀ (t : State) (v : Vec), s.issues [s.hart.ownRun a.toNat] [s.hart.likeRun d a] 0 t →
       t.hart.readAny (t.hart.ownRun a.toNat) = .ok (v, true) →
       ∃ g, s.endsWith (.vmv d a m) t g ∧ g = { t.hart with v := g.v } ∧
         (g.vreg (g.wb.toNat + d.toNat)).desc.untyped = true) ∧
     (m ≠ 0 → (f.isMove = true → ∀ (t : State) (x o : Opd), s.readsOne t d a m x o →
       s.endsWith (.vmv d a m) t (t.hart.writeVec d.toNat (resultVec t.hart.ep t.hart.fmt
         ([x, t.hart.zeroOpd] ++ t.hart.maskOpd m.toNat o) (t.hart.maskBits m.toNat) (t.hart.merged m.toNat x.el o.el))))) ∧
     none_ f.isMove (.vsplat d a m) ⟨List.replicate s.hart.vl ((s.rx a).toNat % 2 ^ f.bits), .splat, .runs⟩ ∧
     none_ f.isInt (.vidx d ia ib m)
       ⟨(List.range s.hart.vl).map fun (k : Nat) => (BitVec.ofInt f.bits (ia.toInt + k * ib.toInt)).toNat, .plain, .plain⟩ ∧
     (0 < ib.toInt → ∃ sh en, none_ f.isInt (.vidxx d ia ib m)
       ⟨(List.range s.hart.vl).map fun (k : Nat) => (BitVec.ofInt f.bits (ia.toInt + ((k / ib.toInt.toNat : Nat) : Int))).toNat, sh, en⟩) ∧
     (∀ (t : State) (v : Vec), s.issues [s.hart.ownRun a.toNat] [] m.toNat t → t.hart.readRun (s.hart.ownRun a.toNat) = .ok v →
       let k := (s.rx b).toNat
       s.endsWith (.vextr d a b m) t (t.hart.wx d.toNat
         (if k < t.hart.vl ∧ t.hart.sel m.toNat k = true ∧ k < v.elems.length then
           (if v.fmt.isI ∨ v.fmt = .i4 ∨ v.fmt = .mxi8 then BitVec.ofInt 64 (BitVec.ofNat v.fmt.bits (v.elems.getD k 0)).toInt
            else BitVec.ofNat 64 (v.elems.getD k 0))
          else 0))) ∧
     (∀ (t : State) (v : Vec), s.issues [s.hart.ownRun a.toNat] [] m.toNat t → t.hart.readAny (s.hart.ownRun a.toNat) = .ok (v, true) →
       let k := (s.rx b).toNat
       s.endsWith (.vextr d a b m) t (t.hart.wx d.toNat
         (if k < t.hart.vl ∧ t.hart.sel m.toNat k = true ∧ k < v.elems.length then BitVec.ofNat 64 (v.elems.getD k 0) else 0))) ∧
     (f.isMove = true → ∀ (t : State) (o : Opd), s.issues [s.hart.opRun d.toNat] [s.hart.gRun d.toNat] m.toNat t →
       t.hart.operand d.toNat = .ok o →
       let k := (s.rx b).toNat
       ∃ sh act, s.endsWith (.vins d a b m) t (t.hart.writeVec d.toNat (resultVec t.hart.ep t.hart.fmt [o, sh] act
         ((List.range t.hart.vl).map fun j =>
           if j = k ∧ t.hart.sel m.toNat k = true then (s.rx a).toNat % 2 ^ t.hart.fmt.bits else o.el j)))))

/-- VCVT, VQUANT and VDEQUANT: they complete at every format that is legal, and an element converted to a format that is
neither MX nor the same, by a mode that is neither stochastic nor with feedback, is its value rounded once. -/
def Obligations.Conversions : Prop :=
  (∀ (s t : State) (d a b : Reg) (m : BitVec 2) (v : Vec) (o : Opd),
    let h := s.hart
    t.hart.readRun (t.hart.tagRun a.toNat) = .ok v → t.hart.convOld d m = .ok o →
    (s.issues (h.tagRun a.toNat :: h.convReads d m) [h.gRun d.toNat] m.toNat t →
      s.endsWith (.vcvt d a m) t (t.hart.cvt d m v o)) ∧
    (h.fmt.isQuant = true → s.issues (h.tagRun a.toNat :: h.convReads d m) (h.quantWrites d) m.toNat t →
      s.endsWith (.vquant d a b m) t (t.hart.quant d m (f32Val (s.rx b).toNat) v o)) ∧
    (∀ w, (h.fmt = .f16 ∨ h.fmt = .bf16 ∨ h.fmt = .f32 ∨ h.fmt = .f64) → v.fmt.isQuant = true → t.hart.extraGroup a = .ok w →
      s.issues (h.tagRun a.toNat :: (if h.dequantExtra a then [(a.toNat + h.g, h.g)] else []) ++ h.convReads d m)
        [h.gRun d.toNat] m.toNat t →
      s.endsWith (.vdequant d a b m) t (t.hart.dequant d m (f32Val (s.rx b).toNat) v w o))) ∧
  (∀ (h : Hart) (d : Reg) (m : BitVec 2) (v : Vec) (o : Opd),
    h.fmt.isMx = false → v.fmt.isMx = false → v.fmt ≠ h.fmt → h.rm ≠ .sto → h.rm ≠ .efb → o.elems.length = h.vl →
    let r : Nat → Nat × Flags := fun k => roundVal h.fmt h.rm 0 (match v.elems[k]? with
      | some p => decodeVal v.fmt p
      | none => .fin false 0 1)
    h.cvt d m v o = (h.writeVec d.toNat (resultVec h.ep h.fmt (v.selfOpd h.vl :: h.maskOpd m.toNat o) (h.maskBits m.toNat)
      (h.merged m.toNat (fun k => (r k).1) o.el))).raise (h.flagsOf m.toNat fun k => (r k).2)) ∧
  (∀ (f : Fmt) (outl room : Bool) (sc u n d : Nat) (rm : RM) (neg : Bool), 0 < d → f.isInt = true →
    let i : Int := (if neg then -1 else 1) * ((roundNat rm u neg n d).1 : Int)
    let lo : Int := if f = .i8 ∧ outl = false then -127 else f.intMin
    let e := quantElem f outl room sc rm u (.fin neg n d)
    (lo ≤ i ∧ i ≤ f.intMax → e.code = (BitVec.ofInt f.bits i).toNat ∧ e.clipped = false ∧ e.escaped = false) ∧
    (¬ (lo ≤ i ∧ i ≤ f.intMax) → f = .i8 → outl = false → room = true → e.code = 0x80 ∧ e.escaped = true ∧ e.clipped = false) ∧
    (¬ (lo ≤ i ∧ i ≤ f.intMax) → (f ≠ .i8 ∨ outl = true ∨ room = false) →
      e.code = (BitVec.ofInt f.bits (if i < lo then lo else f.intMax)).toNat ∧ e.clipped = true ∧ e.escaped = false))

/-- VENC, VDEC, VENCINFO and VRUNEND: VDEC's result holds the elements plainly, VENC's carries the encoding asked for or is
PLAIN, VENCINFO reads the descriptor, VRUNEND lists where neighbouring elements differ. Where the tag is no wider than FMT, VDEC
writes the G registers of v(d); which registers hold a result of a wider tag is the model's choice (log 62). -/
def Obligations.Encodings : Prop :=
  (∀ (s t : State) (d a b : Reg) (v : Vec),
    t.hart.readRun (t.hart.ownRun a.toNat) = .ok v →
    let h := t.hart
    let exp := plainVec v.fmt (fitLen h.vl v.elems) (if v.fmt.isMx then fitLen (ceilDiv h.vl 32) v.scales else [])
    (s.issues [s.hart.ownRun a.toNat] [s.hart.likeRun d a] 0 t →
      s.endsWith (.vdec d a) t (h.writeOwn d.toNat exp) ∧
      (v.fmt.bits ≤ h.fmt.bits → h.writeOwn d.toNat exp = h.writeVec d.toNat exp) ∧
      (∃ w : Vec, s.endsWith (.venc d a b) t (h.writeOwn d.toNat w) ∧
        (w = exp ∨ (w.enc = Enc.ofCode ((s.rx b).toNat % 4) ∧ w.enc ≠ .plain)) ∧ w.elems = exp.elems ∧ w.fmt = v.fmt)) ∧
    (s.issues [s.hart.ownRun a.toNat] [s.hart.gRun d.toNat] 0 t → s.hart.fmt.isRunend = true → t.hart.fmt = s.hart.fmt → v.enc = .plain ∨ v.enc = .delta →
      let el := fun k => v.elems.getD k 0
      let ends := ((List.range h.vl).filter fun k => decide (0 < k) && decide (el k ≠ el (k - 1))) ++ (if h.vl = 0 then [] else [h.vl])
      let ix := ends.take (h.vlgrant * h.g * 8 / h.fmt.bits)
      s.endsWith (.vrunend d a) t { h.writeVec d.toNat (plainVec h.fmt ix) with vl := ix.length })) ∧
  (∀ (s : State) (d a : Reg),
    let e := (s.hart.vreg (s.hart.wb.toNat + a.toNat)).desc
    s.vecReady [(a.toNat, 1)] [] 0 = .ok () → s.yieldsX (.vencinfo d a) d e.word ∧
      (e.len < 2 ^ 13 → e.cnt < 2 ^ 13 → e.wid < 4 → e.grec < 4 →
        e.word.toNat % 4 = e.enc.code ∧ bitsAt e.word.toNat 2 6 = (if e.untyped then 0x3F else e.fmt.code) ∧
        bitsAt e.word.toNat 8 13 = e.len ∧ bitsAt e.word.toNat 21 13 = e.cnt ∧ bitsAt e.word.toNat 34 2 = e.wid ∧
        bitsAt e.word.toNat 36 2 = e.grec ∧ bitAt e.word.toNat 38 = e.cont ∧ e.word.toNat < 2 ^ 39))

/-- VMERGEIDX, VSORTKV and VTOPK: the union loop on two lists, a stable order of pairs by integer or number keys (−0 below +0,
NaNs last), and the greatest elements that are no NaN, the lower index first among equal ones (R379, R380, R382). Where the format is
not of the class each takes ILLEGAL. -/
def Obligations.ListInstructions : Prop :=
  ∀ (s t : State) (d a b : Reg) (m : BitVec 2),
    let h := t.hart
    let f := s.hart.fmt
    let less : Nat → Nat → Prop := fun p q => f.toInt p < f.toInt q
    let notNan : Nat → Bool := fun p => f.isInt || !(decodeVal f p).isNan
    let upTo : Nat → Nat → Prop := fun p q =>
      (f.isInt = true → f.toInt p ≤ f.toInt q) ∧
      (f.isInt = false → notNan q = true → notNan p = true ∧ (decodeVal f q).below (decodeVal f p) = false)
    let first : Nat × Nat → Nat × Nat → Prop := fun i j => upTo i.1 j.1 ∧ (upTo j.1 i.1 → i.2 < j.2)
    t.hart.fmt = f →
    (f.isInt = true → ∀ x y : List Nat, s.issues [s.hart.opRun a.toNat, s.hart.opRun b.toNat] [s.hart.gRun d.toNat] m.toNat t →
      h.rawAt a.toNat = .ok x → h.rawAt b.toNat = .ok y →
      let xs := pickActive (h.act m.toNat) x
      let ys := pickActive (h.act m.toNat) y
      let r := mergeLists (fun p q => decide (less p q)) h.vl xs ys
      s.endsWith (.vmergeidx d a b m) t { h.writeVec d.toNat (plainVec f r) with vl := r.length } ∧ r.length ≤ h.vl ∧
        (∀ e ∈ r, e ∈ xs ∨ e ∈ ys) ∧
        (xs.Pairwise less → ys.Pairwise less → r.Pairwise less ∧
          (r.length < h.vl → (∀ e ∈ xs, ∃ q ∈ r, f.toInt q = f.toInt e) ∧ ∀ e ∈ ys, ∃ q ∈ r, f.toInt q = f.toInt e))) ∧
    (f.isArith = true → ∀ (x : Opd) (v : Vec), s.issues [s.hart.opRun a.toNat, s.hart.gRun b.toNat]
        [s.hart.gRun d.toNat, (d.toNat + s.hart.g, s.hart.g)] m.toNat t →
      h.operand a.toNat = .ok x → h.readRun (h.gRun b.toNat) = .ok v → v.fmt.bits = f.bits →
      ∃ (r : List Nat) (scales : List Nat), r.Perm (h.chosen m.toNat h.vl) ∧
        r.Pairwise (fun i j => first (x.el i, i) (x.el j, j)) ∧ (v.fmt.isMx = false → scales = []) ∧
        s.endsWith (.vsortkv d a b m) t ((h.writeVec d.toNat (plainVec f (fitLen h.vl (r.map x.el)))).writeVec
          (d.toNat + h.g) (plainVec v.fmt (fitLen h.vl (r.map fun i => v.elems.getD i 0)) scales))) ∧
    (f.isArith = true → ∀ x : Opd,
      s.issues [s.hart.opRun a.toNat] [s.hart.gRun d.toNat, (d.toNat + s.hart.g, s.hart.g)] m.toNat t →
      h.operand a.toNat = .ok x →
      let part := (h.chosen m.toNat h.vl).filter fun k => notNan (x.el k)
      ∃ r : List Nat,
        r.length = min (s.rx b).toNat (min part.length (h.vlgrant * h.g * 8 / 32)) ∧
        (∀ i ∈ r, i ∈ part) ∧
        r.Pairwise (fun i j => upTo (x.el j) (x.el i) ∧ (upTo (x.el i) (x.el j) → i < j)) ∧
        (∀ k ∈ part, k ∉ r → ∀ i ∈ r, upTo (x.el k) (x.el i) ∧ (upTo (x.el i) (x.el k) → i < k)) ∧
        s.endsWith (.vtopk d a b m) t { (h.writeVec d.toNat (plainVec f (r.map x.el))).writeVec (d.toNat + h.g)
          (plainVec .n32 r) with vl := r.length }) ∧
    (f.isInt = false → exec (.vmergeidx d a b m) s = .next (s.illegal (.vmergeidx d a b m))) ∧
    (f.isArith = false → exec (.vsortkv d a b m) s = .next (s.illegal (.vsortkv d a b m)) ∧
      exec (.vtopk d a b m) s = .next (s.illegal (.vtopk d a b m)))

/-! ### Vector accesses and streams -/

/-- Vector loads: unit-stride, strided, indexed, linked, gathered, fault-first and by records; the addresses of their
elements, how far they read, and what they leave unchanged. What a load reads: at each active element before the first
fault its fields as the pages hold them, at an inactive one nothing; VPREF only takes samples, and does nothing
where its index tag is no integer format (R395). -/
def Obligations.VectorLoads : Prop :=
  (∀ (s t : State) (d a b : Reg) (m : BitVec 2) (nf : BitVec 4),
     let h := s.hart
     let keepsD : List VRun := if h.keeps m then [h.oldRun d.toNat] else []
     let base := t.rx a
     let far : List Int → LoadReq → Prop := fun offs q =>
       q.base = base ∧ q.unit = false ∧ q.vas = offs.map (fun o => [(base + BitVec.ofInt 64 o).toNat]) ∧
       q.tag = bareTag q.src ∧
       (∀ k, firstActive (t.hart.act m.toNat) = some k →
         q.src = pageFmt (t.sampled t.hart (base + BitVec.ofInt 64 (offs.getD k 0)).toNat) t.hart.fmt) ∧
       (firstActive (t.hart.act m.toNat) = none → q.src = t.hart.fmt)
     (s.issues keepsD [h.gRun d.toNat] m.toNat t → ∀ q : LoadReq, q.links = false → q.tier1 = false →
       (q.base = base → q.unit = true → q.src = pageFmt (t.sampled t.hart base.toNat) t.hart.fmt → q.tag = q.src →
         (q.vas = (List.range t.hart.vl).map fun k => [unitAddr (t.sampled t.hart base.toNat) q.src base k]) →
         (q.ff = false → s.loadsAs t (.vld d a m) q d.toNat 1 m) ∧ (q.ff = true → s.loadsAs t (.vldff d a m) q d.toNat 1 m)) ∧
       (far ((List.range t.hart.vl).map fun (k : Nat) => (k : Int) * (s.rx b).toInt) q →
         (q.ff = false → s.loadsAs t (.vlds d a b m) q d.toNat 1 m) ∧
         (q.ff = true → s.loadsAs t (.vldsff d a b m) q d.toNat 1 m))) ∧
     (s.issues (h.tagRun b.toNat :: keepsD) [h.gRun d.toNat] m.toNat t → ∀ (q : LoadReq) (ix : Vec),
       t.hart.tagged b.toNat Fmt.isIndex = .ok ix → far ((fitLen t.hart.vl ix.elems).map ix.fmt.toInt) q →
       (q.ff = false → q.links = false → q.tier1 = false → s.loadsAs t (.vldx d a b m) q d.toNat 1 m) ∧
       (q.ff = true → q.links = false → q.tier1 = false → s.loadsAs t (.vldxff d a b m) q d.toNat 1 m) ∧
       (q.ff = false → q.links = true → q.tier1 = false → s.loadsAs t (.vgl d a b m) q d.toNat 1 m) ∧
       (h.feat 4 = true → q.ff = false → q.links = false → q.tier1 = true → s.loadsAs t (.ngather d a b m) q d.toNat 1 m)) ∧
     (h.feat 4 = false → exec (.ngather d a b m) s = .next (s.illegal (.ngather d a b m))) ∧
     (s.issues [] ((List.range (nf.toNat + 2)).map fun f => (d.toNat + f * h.g, h.g)) 0 t → ∀ q : LoadReq,
       q.unit = false → q.ff = false → q.links = false → q.tier1 = false → q.base = base → q.tag = bareTag q.src →
       q.src = (if b = 0 ∨ t.hart.vl ≠ 0 then pageFmt (t.sampled t.hart base.toNat) t.hart.fmt else t.hart.fmt) →
       (let n := nf.toNat + 2
        let step : Int := if b = 0 then ((n * q.tag.bits / 8 : Nat) : Int) else (t.rx b).toInt
        q.vas = (List.range t.hart.vl).map fun (k : Nat) => (List.range n).map fun (j : Nat) =>
          (base + BitVec.ofInt 64 ((k : Int) * step + ((j * q.tag.bits / 8 : Nat) : Int))).toNat) →
       s.loadsAs t (.vldseg d a b nf) q d.toNat (nf.toNat + 2) 0)) ∧
  ((∀ (t : State) (q : LoadReq) (rows : List (Bool × List Nat)) (k : Nat),
     let r := t.loadRows q false rows k
     r.1.length ≤ rows.length ∧ (r.2 = none ↔ r.1.length = rows.length) ∧
     (∀ j va f, r.2 = some (j, va, f) → j = k + r.1.length) ∧
     ∀ j < r.1.length, ∀ act va, rows[j]? = some (act, [va]) →
       (act = false → r.1[j]? = some none) ∧
       (act = true → ∃ v, t.loadField q (k + j) va = .ok v ∧ r.1[j]? = some (some [v]))) ∧
   (∀ (s t : State) (a b : Reg) (m : BitVec 2) (v : Vec),
     let e := (s.hart.vreg (s.hart.wb.toNat + b.toNat)).desc
     let idle := (e.untyped || !e.fmt.isIndex) && !s.hart.bound (s.hart.tagRun b.toNat)
     (idle = true → s.hart.maskOk m.toNat = true → s.endsWith (.vpref a b m) s s.hart) ∧
     (idle = false → s.issues [s.hart.tagRun b.toNat] [] m.toNat t → t.hart.readRun (t.hart.tagRun b.toNat) = .ok v →
       ∃ w, s.endsWith (.vpref a b m) t { t.hart with samples := w })))

/-- Vector stores: the elements that do not fault are written in ascending order and the others recorded; every other byte
stays; an element that no later one overlaps reads back; VSC writes the linked elements alone and says which in p0. -/
def Obligations.VectorStores : Prop :=
  (∀ (s t : State) (d a b : Reg) (m : BitVec 2) (v : Vec) (es : List SElem),
    let h := t.hart
    let base := t.rx a
    let at_ : List Int → StoreReq := fun offs => ⟨false, base, offs.map fun o => (base + BitVec.ofInt 64 o).toNat⟩
    let unit : StoreReq := ⟨true, base, (List.range h.vl).map (unitAddr (t.xlat h base.toNat) v.fmt base)⟩
    let stores : Instr → StoreReq → Prop := fun i q => t.storeCheck q v m = .ok es →
      ∃ u, t.storesAs u v.fmt v.scales es ∧ exec i s = .next (s.ended u (u.hart.pc + 4))
    h.readRun (h.ownRun d.toNat) = .ok v →
    (s.issues [s.hart.ownRun d.toNat] [] m.toNat t →
      stores (.vst d a m) unit ∧
      stores (.vsts d a b m) (at_ ((List.range h.vl).map fun (k : Nat) => (k : Int) * (t.rx b).toInt))) ∧
    (∀ ix : Vec, s.issues [s.hart.ownRun d.toNat, s.hart.tagRun b.toNat] [] m.toNat t → h.tagged b.toNat Fmt.isIndex = .ok ix →
      let q := at_ ((fitLen h.vl ix.elems).map ix.fmt.toInt)
      stores (.vstx d a b m) q ∧
      (t.storeCheck q v m = .ok es →
        let wins := es.filter fun e => (t.storeFault v.fmt.bytes e.va).isNone && t.scWins es e
        let bad := es.filter fun e => (t.storeFault v.fmt.bytes e.va).isSome
        let u := (t.putElems v.fmt v.scales wins).addFaults 0 (bad.map fun e => (e.idx, e.va, Cause.storefault.code))
        s.endsWith (.vsc d a b m) u (u.hart.setPred 0 ((wins.map fun e => 2 ^ e.idx).sum))))) ∧
  (∀ (t u : State) (f : Fmt) (sc : List Nat) (es : List SElem), t.storesAs u f sc es → (∀ e ∈ es, t.onEncoded e = false) →
    t.restKept u f es ∧
    u = { t with mem := u.mem, poison := u.poison, others := u.others,
                 hart := { t.hart with sfrq := u.hart.sfrq, links := u.hart.links, samples := u.hart.samples } } ∧
    ((∀ e ∈ es, t.storeFault f.bytes e.va = none) → u.hart.sfrq = t.hart.sfrq) ∧
    (f.isMx = false → f.bits ≠ 4 → ∀ (l r : List SElem) (e : SElem), es = l ++ e :: r → t.storeFault f.bytes e.va = none →
      (∀ g ∈ r, t.physOf g.va + f.bytes ≤ t.physOf e.va ∨ t.physOf e.va + f.bytes ≤ t.physOf g.va) →
      ∀ k < f.bytes, mget unlistedByte u.mem (t.physOf e.va + k) = BitVec.ofNat 8 (e.val / 256 ^ k))) ∧
  (∀ (t : State) (es : List SElem) (e : SElem), t.scWins es e = true ↔
    t.storeFault 1 e.va = none ∧ t.physOf e.va / 64 ∈ t.hart.links ∧ ∀ g ∈ es, g.idx < e.idx → g.va ≠ e.va)

/-- Vector atomics: each active element in ascending order reads its word and writes the new one, and v(d) receives the old
words; the frame of one element. -/
def Obligations.VectorAtomics : Prop :=
  (∀ (s t : State) (d a b : Reg) (m : BitVec 2) (v w ix : Vec) (es : List SElem),
    let h := t.hart
    let g := s.hart
    let q : StoreReq := ⟨false, t.rx a, ((fitLen h.vl ix.elems).map ix.fmt.toInt).map fun o => (t.rx a + BitVec.ofInt 64 o).toNat⟩
    let does : Bool → Bool → Instr → AtomFn → Prop := fun ok pair i fn =>
      ok = true → (pair = false → w = v) →
      (pair = true → h.readRun (h.ownRun (d.toNat + h.g)) = .ok w ∧ w.fmt = v.fmt) →
      s.issues (g.ownRun d.toNat :: (if pair then [g.ownRun (d.toNat + g.g)] else []) ++ [g.tagRun b.toNat]) [] m.toNat t →
      let r := es.foldl (AtomAcc.apply fn v.fmt (fitLen h.vl w.elems)) { st := t }
      let u := r.st.addFaults 1 r.bad
      let old : Nat → Nat := fun k => v.elems.getD k 0
      s.endsWith i u (u.hart.writeVec d.toNat (plainVec v.fmt (h.merged m.toNat (fun k => mget 0 r.olds k) old)))
    s.vecReady [] [g.gRun d.toNat] m.toNat = .ok () → h.readRun (h.ownRun d.toNat) = .ok v → h.tagged b.toNat Fmt.isIndex = .ok ix →
    t.storeCheck q v m = .ok es →
    let f := v.fmt
    does f.isWord false (.vamoadd d a b m) (fun _ o x _ => some ((o + x) % 2 ^ f.bits)) ∧
    does f.isWord false (.vamomin d a b m) (fun _ o x _ => some (if f.toInt x < f.toInt o then x else o)) ∧
    does f.isWord false (.vamomax d a b m) (fun _ o x _ => some (if f.toInt o < f.toInt x then x else o)) ∧
    does f.isWord false (.vamoand d a b m) (fun _ o x _ => some (o &&& x)) ∧
    does f.isWord false (.vamoor d a b m) (fun _ o x _ => some (o ||| x)) ∧
    does f.isWide false (.vamoswap d a b m) (fun _ _ x _ => some x) ∧
    does f.isWideFlt false (.vamofmax d a b m) (fun _ o x _ => some (fminmax f true o x)) ∧
    does f.isWide true (.vamocas d a b m) (fun _ o x n => if o = x then some n else none)) ∧
  (∀ (fn : AtomFn) (f : Fmt) (more : List Nat) (r : AtomAcc) (e : SElem) (x : Xlat),
    r.st.storeFault f.bytes e.va = none → r.st.forLoad (r.st.xlat r.st.hart e.va) = .ok x → r.st.poisoned (x.addr e.va) = false →
    let pa := x.addr e.va
    let old := readLE r.st.mem pa f.bytes
    let z := AtomAcc.apply fn f more r e
    z.olds = r.olds ++ [(e.idx, old)] ∧ z.bad = r.bad ∧
    (∀ p, mget unlistedByte z.st.mem p = match fn f old e.val (more.getD e.idx 0) with
      | some n => if pa ≤ p ∧ p < pa + f.bytes then BitVec.ofNat 8 (n / 256 ^ (p - pa)) else mget unlistedByte r.st.mem p
      | none => mget unlistedByte r.st.mem p))

/-- STRON binds a stream to a group in place of the one bound at its number, STROFF unbinds it, and a pop consumes elements
and writes the bound group and nothing else. -/
def Obligations.Streams : Prop :=
  (∀ (s : State) (d a b : Reg),
    let h := s.hart
    let free : Hart := { h with streams := mset none h.streams b.toNat none }
    let count := (s.rx (a + 2)).toNat
    a.toNat ≤ 125 →
    (h.fmt.bits ≠ 4 → count < 2 ^ 32 → (h.fmt.isMx = true → s.rx (a + 1) = 1) → free.bound (h.gRun d.toNat) = false →
      s.vecReady [h.gRun d.toNat] [] 0 = .ok () →
      let st : Stream := { base := s.rx a, stride := s.rx (a + 1), count := count, consumed := 0, fmt := h.fmt,
                           reg := h.wb.toNat + d.toNat, g := log2g h.g }
      ∃ q u, u = { s with hart := { h with streams := q } } ∧ mget none q b.toNat = some st ∧
        (∀ k, k ≠ b.toNat → mget none q k = mget none h.streams k) ∧
        exec (.stron d a b) s = .next (s.ended (u.later .streamRefill { n := h.id, m := b.toNat }) (h.pc + 4))) ∧
    (h.fmt.bits = 4 ∨ 2 ^ 32 ≤ count ∨ (h.fmt.isMx = true ∧ s.rx (a + 1) ≠ 1) ∨ free.bound (h.gRun d.toNat) = true →
      exec (.stron d a b) s = .next (s.illegal (.stron d a b))) ∧
    s.endsWith (.stroff b) s free) ∧
  (∀ (s t : State) (reads : List VRun) (e : Option Stop), s.popAll reads = (t, e) →
    t = { s with jobs := t.jobs, hart := { s.hart with streams := t.hart.streams, v := t.hart.v, vflags := t.hart.vflags } }) ∧
  (∀ (s : State) (k : Nat) (st : Stream),
    let p := s.pop k st
    let n := (goodElems ((List.range (s.popCount st)).map (s.streamElem st))).length
    n ≤ s.popCount st ∧ n ≤ s.hart.vl ∧
    mget none p.1.hart.streams k = some { st with consumed := st.consumed + n, pre := st.pre.drop n } ∧
    (p.2.isSome = true ↔ n = 0 ∧ 0 < s.popCount st)) ∧
  (∀ (s : State) (st : Stream), s.hart.id = s.inp.n → s.hart.run = .running → mget none s.hart.streams s.inp.m = some st →
    ∃ q w, exec .streamRefill s = .next { s with hart := { s.hart with streams := q } } ∧ st.pre <+: w ∧
      mget none q s.inp.m = some { st with pre := w } ∧ ∀ k, k ≠ s.inp.m → mget none q k = mget none s.hart.streams k)

/-! ### Synchronisation -/

/-- Flags and signals: a release stores once earlier accesses have performed, an acquire ends when the word is at least x(d),
SIGNAL adds 1 and sets the latches its target names. -/
def Obligations.FlagsAndSignals : Prop :=
  ∀ (s : State) (d a : Reg) (sc : BitVec 3) (x : Xlat) (v : Nat),
    let va := (s.rx a).toNat
    let pc := s.hart.pc + 4
    (s.drained s.hart sc.toNat = true → s.storeFits va 8 x →
      (∃ u, s.Stored u va (x.addr va) 8 (s.rx d).toNat ∧ exec (.flagrel d a sc) s = .next (s.ended u pc)) ∧
      (s.rx a ≠ 0 → s.poisoned (x.addr va) = false →
        ∃ u, s.Stored u va (x.addr va) 8 (readLE s.mem (x.addr va) 8 + 1) ∧
          exec (.signal d a sc) s = .next (s.ended (u.signalWake (s.rx d)) pc))) ∧
    (s.drained s.hart sc.toNat = true → s.rx a = 0 →
      exec (.signal d a sc) s = .next (s.ended (s.signalWake (s.rx d)) pc)) ∧
    (s.loadFits va 8 x v →
      let u : State := { s with hart := s.dropStale s.hart va }
      ((s.rx d).toNat ≤ v → exec (.flagacq d a sc) s = .next (s.ended (u.wx d (BitVec.ofNat 64 v)) pc)) ∧
      (v < (s.rx d).toNat → exec (.flagacq d a sc) s = .next { s with hart := u.hart.waitOn (.flagacq d a sc) s.clk })) ∧
    (∀ h ∈ s.hart :: s.others, ∀ w : Word,
      let g := if h.run ≠ .idle ∧ h.crewid = s.hart.crewid ∧ h.ended = false ∧
          (w.getLsbD 63 = true ∨ h.crewrank.toNat = w.toNat % 32) then { h with wake := true } else h
      g ∈ (s.signalWake w).hart :: (s.signalWake w).others)

/-- Byte-counting barriers: BCPOST and BCARRIVE update the object as one release, BCWAIT returns its second word once its
STATUS is not PENDING; what posting and arriving do to an object (R223, R224). Crew barriers: VFENCE with an ID arrives
once earlier accesses have performed and the phase of the hart's last arrival has completed, BARWAIT ends when that phase
has; neither changes anything but the arrivals and, at the end of a phase, the latches of the crew. That BCPOST and BCARRIVE update
an object in a poisoned granule from the bytes it holds is the model's choice (log 58). -/
def Obligations.Barriers : Prop :=
  ((∀ (s : State) (d a : Reg) (sc : BitVec 3) (x : Xlat) (v : Nat),
     let va := (s.rx a).toNat
     let n := (s.rx d).toNat % 2 ^ 48
     let o := BarObj.ofNat (readLE s.mem (x.addr va) 16)
     (s.drained s.hart sc.toNat = true → s.storeFits va 16 x →
       (∃ u, s.Stored u va (x.addr va) 16 (o.post n).toNat ∧ exec (.bcpost d a sc) s = .next (s.ended u (s.hart.pc + 4))) ∧
       (∃ u, s.Stored u va (x.addr va) 16 (o.arrive n).toNat ∧ exec (.bcarrive d a sc) s = .next (s.ended u (s.hart.pc + 4)))) ∧
     (s.loadFits va 16 x v →
       let u : State := { s with hart := s.dropStale s.hart va }
       (v / 2 ^ 124 % 16 ≠ 0 →
         exec (.bcwait d a sc) s = .next (s.ended (u.wx d (BitVec.ofNat 64 (v / 2 ^ 64))) (s.hart.pc + 4))) ∧
       (v / 2 ^ 124 % 16 = 0 →
         exec (.bcwait d a sc) s = .next { s with hart := u.hart.waitOn (.bcwait d a sc) s.clk }))) ∧
   (∀ (o : BarObj) (n : Nat), o.sound = true → n < 2 ^ 48 →
     (o.posted = false →
       let p := o.post n
       p.expect = n ∧ p.posted = true ∧ p.arrived = o.arrived ∧
       p.status = if o.status ≠ 0 then o.status else if o.arrived < n then 0 else if o.arrived = n then 1 else 2) ∧
     (o.posted = true → o.post n = o) ∧
     (let p := o.arrive n
      p.arrived = min (o.arrived + n) (2 ^ 48 - 1) ∧ p.w0 = o.w0 ∧
      p.status = (if o.status = 1 then 2 else if o.status ≠ 0 ∨ o.posted = false then o.status
        else if p.arrived < o.expect then 0 else if p.arrived = o.expect then 1 else 2))) ∧
   (∀ (o : BarObj) (n : Nat), o.sound = false → o.post n = o ∧ o.arrive n = o)) ∧
  (∀ (s : State) (id : BitVec 4) (sc : BitVec 3),
     let b := id.toNat
     (s.hart.quiet → s.drained s.hart sc.toNat = true →
       (b = 0 → exec (.vfence id sc) s = .next (s.ended s (s.hart.pc + 4))) ∧
       (b ≠ 0 → s.phaseDone b = true →
         ∃ t, exec (.vfence id sc) s = .next (s.ended t (s.hart.pc + 4)) ∧ t.hart.arrived b = s.hart.arrived b + 1 ∧
           (∀ k, k ≠ b → t.hart.arrived k = s.hart.arrived k) ∧
           t.hart = { s.hart with arrivals := t.hart.arrivals, wake := t.hart.wake } ∧ t = { s with hart := t.hart, others := t.others } ∧
           t.others.map (fun h => { h with wake := false }) = s.others.map (fun h => { h with wake := false })) ∧
       (b ≠ 0 → s.phaseDone b = false → exec (.vfence id sc) s = .next (s.waitsOn (.vfence id sc)))) ∧
     (s.phaseDone b = true → exec (.barwait id) s = .next (s.ended s (s.hart.pc + 4))) ∧
     (s.phaseDone b = false → exec (.barwait id) s = .next (s.waitsOn (.barwait id))) ∧
     (s.phaseDone b = true ↔ ∀ h ∈ s.harts, h.crewid.toNat = s.hart.crewid.toNat → h.ended = false →
       s.hart.arrived b ≤ h.arrived b) ∨ (∀ h ∈ s.harts, h.crewid.toNat = s.hart.crewid.toNat → h.ended = true))

/-- A completing event ends the waiting instruction of the running hart it names as its entry says, once the condition holds: a
time limit ends WFE after x(a) clk, unless x(a) is 0 (R331), and VWAIT after WTMO clk from its issue (R225), whose elements already
found satisfied are not read again (R398). XWAIT takes the next record once it has posted (R262), FREDWAIT the status of the round of
its latest contribution, once that has performed or been aborted (R431), and a release performs its store, its count or its update of
a barrier object (R210, R402). That the event does nothing where no such instruction waits there, that a satisfied element is
remembered from one look to the next, and that XWAIT on a queue with nothing outstanding gives zeros, are the model's choice (log 5,
59, 83). -/
def Obligations.WaitsComplete : Prop :=
  (∀ (s : State) (w : Wait) (x : Xlat) (n : Nat) (d a b : Reg) (sc : BitVec 3) (id : BitVec 4) (m : BitVec 2),
    s.hart.id = s.inp.n → s.hart.run = .running → s.hart.wait = some w →
    let va := (s.rx a).toNat
    let ends : Instr → State → Prop := fun e t => exec e s = .next (s.ended t (s.hart.pc + 4))
    let u : State := { s with hart := s.dropStale s.hart va }
    (w.instr = .flagacq d a sc → s.loadFits va 8 x n → (s.rx d).toNat ≤ n → ends .flagacqSatisfied (u.wx d (BitVec.ofNat 64 n))) ∧
    (w.instr = .barwait id → s.phaseDone id.toNat = true → ends .barwaitDone s) ∧
    (w.instr = .bcwait d a sc → s.loadFits va 16 x n → n / 2 ^ 124 % 16 ≠ 0 →
      ends .bcwaitDone (u.wx d (BitVec.ofNat 64 (n / 2 ^ 64)))) ∧
    (w.instr = .fredwait d a → s.hart.feat 5 = true → s.contributing (s.rx a) = false →
      let latest := mget 0 s.hart.fredRounds va
      ((∀ r ∈ s.rounds, r.num ≠ latest) → ends .fredwaitDone (s.wx d 0)) ∧
      (∀ r, s.rounds.find? (fun r => decide (r.num = latest)) = some r → r.status = 1 ∨ r.status = 5 →
        ends .fredwaitDone (s.wx d (BitVec.ofNat 64 r.status)))) ∧
    (w.instr = .xwait d a →
      let q := s.hart.queue a.toNat
      let gets : Hart → ComplRec → State := fun h r => { s with hart := (h.wx d.toNat r.w0).wx (d.toNat + 1) r.w1 }
      (q.reserved ≤ q.taken → ends .xwaitDone (gets s.hart ⟨0, 0⟩)) ∧
      (∀ r, q.taken < q.reserved → mget none q.recs q.taken = some r → ends .xwaitDone
        (gets (s.hart.setQueue a.toNat { q with taken := q.taken + 1, recs := mset none q.recs q.taken none }) r))) ∧
    (w.instr = .wfe d a → (s.hart.wake = true → ends .wfeWake (({ s with hart := { s.hart with wake := false } } : State).wx d 1)) ∧
      (s.hart.wake = false → s.rx a ≠ 0 → w.since + (s.rx a).toNat ≤ s.clk → ends .wfeTimeout (s.wx d 0))) ∧
    (w.instr = .fence sc ∨ w.instr = .vfence 0 sc → s.hart.quiet → s.drained s.hart sc.toNat = true → ends .fenceComplete s) ∧
    (w.instr = .drainst → s.hart.quiet → s.drained s.hart 4 = true → ends .drainstComplete s) ∧
    (w.instr = .flagrel d a sc → s.drained s.hart sc.toNat = true → s.storeFits va 8 x →
      ∃ t, s.Stored t va (x.addr va) 8 (s.rx d).toNat ∧ ends .releasePerform t) ∧
    (w.instr = .signal d a sc → s.drained s.hart sc.toNat = true →
      (s.rx a = 0 → ends .releasePerform (s.signalWake (s.rx d))) ∧
      (s.rx a ≠ 0 → s.storeFits va 8 x → s.poisoned (x.addr va) = false →
        ∃ t, s.Stored t va (x.addr va) 8 (readLE s.mem (x.addr va) 8 + 1) ∧ ends .releasePerform (t.signalWake (s.rx d)))) ∧
    (s.drained s.hart sc.toNat = true → s.storeFits va 16 x → s.poisoned (x.addr va) = false →
      let k := (s.rx d).toNat % 2 ^ 48
      let o := BarObj.ofNat (readLE s.mem (x.addr va) 16)
      (w.instr = .bcpost d a sc → ∃ t, s.Stored t va (x.addr va) 16 (o.post k).toNat ∧ ends .releasePerform t) ∧
      (w.instr = .bcarrive d a sc → ∃ t, s.Stored t va (x.addr va) 16 (o.arrive k).toNat ∧ ends .releasePerform t)) ∧
    (w.instr = .handoff d a b → s.hart.quiet → s.hart.feat 7 = true → s.transfers = [] → x.closed = false → ∀ ps,
      s.handChecks (s.rx a) (s.rx b) = .ok (x, ps) → ends .handoffEvent (s.handOver x (s.rx a) (s.rx d) (s.rx b) ps)) ∧
    (w.instr = .exit → s.hart.hact = false → s.hart.sfrq = [] → s.drained s.hart 4 = true →
      exec .exitWaitDone s = .next s.endHart) ∧
    (∀ (t : State) (v : Vec) (es : List SElem), s.issues [s.hart.ownRun d.toNat] [] m.toNat t →
      t.hart.readRun (t.hart.ownRun d.toNat) = .ok v → w.instr = .vst d a m →
      t.storeCheck ⟨true, t.rx a, (List.range t.hart.vl).map (unitAddr (t.xlat t.hart (t.rx a).toNat) v.fmt (t.rx a))⟩ v m = .ok es →
      ∃ q, t.storesAs q v.fmt v.scales es ∧ exec .vectorStorePerform s = .next (s.ended q (q.hart.pc + 4))) ∧
    (∀ v : Vec, w.instr = .vwait a b sc → s.issues [s.hart.tagRun a.toNat] [] 0 s →
      s.hart.tagged a.toNat (fun f => decide (f = .n64)) = .ok v →
      (∀ k < s.hart.vl, k ∉ s.hart.met → s.ritHit s.hart (v.elems.getD k 0) (v.elems.getD k 0 + 8) = false) →
      let met : Nat → Bool := fun k => s.hart.met.contains k || s.waitMet (s.rx b).toNat (v.elems.getD k 0)
      (w.issued = true → w.since + s.hart.wtmo.toNat ≤ s.clk →
        ∃ g, s.endsWith .vwaitTimeout s g ∧ g = { s.hart with p := g.p, samples := g.samples, met := [] } ∧
          (∀ k, k ≠ 0 → g.pred k = s.hart.pred k) ∧ ∀ k < 2048, bitAt (g.pred 0) k = (decide (k < s.hart.vl) && !met k)) ∧
      ((∀ k < s.hart.vl, met k = true) →
        ∃ g, s.endsWith .vwaitSatisfied s g ∧ g.pred 0 = 0 ∧ (∀ k, k ≠ 0 → g.pred k = s.hart.pred k) ∧
          g = { s.hart with p := g.p, samples := g.samples, met := [] }))) ∧
  (∀ (s : State), (∀ h ∈ s.hart :: s.others, h.id = s.inp.n → h.run = .running → h.wait = none) →
    ∀ i ∈ [Instr.flagacqSatisfied, .barwaitDone, .bcwaitDone, .fredwaitDone, .xwaitDone, .vwaitSatisfied, .vwaitTimeout, .wfeWake,
      .wfeTimeout, .fenceComplete, .drainstComplete, .mmaqMeet, .releasePerform, .handoffEvent, .exitWaitDone,
      .vectorStorePerform], exec i s = .next s)

/-- VTRANS, VTRANSFF and VWAIT: tokens become addresses through the block table, and each of the words waited on is compared
with x(b); HANDOFF gives the pages of its list to the other side and writes its flag in one event. -/
def Obligations.TokensAndHandoff : Prop :=
  (∀ (s t u : State) (d a b : Reg) (m : BitVec 2) (v : Vec) (o : Opd),
    let h := s.hart
    let reads := h.tagRun a.toNat :: (if h.keeps m then [h.opRun d.toNat] else [])
    h.feat 7 = true → h.fmt = .n64 → s.issues reads [h.gRun d.toNat] m.toNat t →
    t.hart.tagged a.toNat (fun f => decide (f = .n32)) = .ok v → s.oldOf t false d m o →
    (t.transGo false d b m v o.elems = .ok u → exec (.vtrans d a b m) s = .next (s.ended u (u.hart.pc + 4))) ∧
    (t.transGo true d b m v o.elems = .ok u → exec (.vtransff d a b m) s = .next (s.ended u (u.hart.pc + 4)))) ∧
  (∀ (s t : State) (d a b : Reg) (v : Vec) (nblk rowb : Nat) (ps : List Nat),
    -- both complete, unmasked, where the header and every entry read and each position lies in a mapped block
    let tab := (t.rx b).toNat
    let h := t.hart
    s.hart.feat 7 = true → s.hart.fmt = .n64 → s.issues [s.hart.tagRun a.toNat] [s.hart.gRun d.toNat] 0 t → s.transfers = [] →
    h.tagged a.toNat (fun f => decide (f = .n32)) = .ok v →
    t.readField tab 16 = .ok (nblk + rowb * 2 ^ 32) → nblk < 2 ^ 32 → 64 ≤ rowb → rowb ≤ 4096 → rowb % 64 = 0 → ps.length = h.vl →
    (∀ k < h.vl, let tk := v.elems.getD k 0
      h.wfloor.toNat ≤ tk ∧ tk / 16 < nblk ∧ t.readField ((tab + 16 + 4 * (tk / 16)) % 2 ^ 64) 4 = .ok (ps.getD k 0) ∧
      ps.getD k 0 ≠ 0xFFFFFFFF ∧ (mget {} (t.app h.app).kv (ps.getD k 0)).owner ≠ 0) →
    ∃ w, ∀ i ∈ [Instr.vtrans d a b 0, .vtransff d a b 0],
      s.endsWith i t { (h.writeVec d.toNat (plainVec .n64 ((List.range h.vl).map fun k =>
        ((t.app h.app).kvwin + ps.getD k 0 * 65536 + v.elems.getD k 0 % 16 * rowb) % 2 ^ 64))).setPred 0 (2 ^ h.vl - 1) with
          samples := w }) ∧
  (∀ (s : State) (d b : Reg) (v : Vec) (old : List Nat) (nblk rowb : Nat) (ps : List Nat),
    -- the header and every entry read, and each position of an unmasked VTRANS lies in a mapped block
    let tab := (s.rx b).toNat
    let h := s.hart
    s.transfers = [] → s.readField tab 16 = .ok (nblk + rowb * 2 ^ 32) → nblk < 2 ^ 32 → 64 ≤ rowb → rowb ≤ 4096 → rowb % 64 = 0 →
    old.length = h.vl → ps.length = h.vl →
    (∀ k < h.vl, let tk := v.elems.getD k 0
      h.wfloor.toNat ≤ tk ∧ tk / 16 < nblk ∧ s.readField ((tab + 16 + 4 * (tk / 16)) % 2 ^ 64) 4 = .ok (ps.getD k 0) ∧
      ps.getD k 0 ≠ 0xFFFFFFFF ∧ (mget {} (s.app h.app).kv (ps.getD k 0)).owner ≠ 0) →
    ∃ w, s.transGo false d b 0 v old = .ok { s with hart := { (h.writeVec d.toNat (plainVec .n64 ((List.range h.vl).map fun k =>
        ((s.app h.app).kvwin + ps.getD k 0 * 65536 + v.elems.getD k 0 % 16 * rowb) % 2 ^ 64))).setPred 0 (2 ^ h.vl - 1) with
      samples := w }}) ∧
  (∀ (s t : State) (a b : Reg) (sc : BitVec 3) (v : Vec), s.issues [s.hart.tagRun a.toNat] [] 0 t →
    t.hart.tagged a.toNat (fun f => decide (f = .n64)) = .ok v →
    let known := s.hart.metOf (.vwait a b sc)
    let met : Nat → Bool := fun k => known.contains k || t.waitMet (t.rx b).toNat (v.elems.getD k 0)
    (∀ k < t.hart.vl, k ∉ known → t.ritHit t.hart (v.elems.getD k 0) (v.elems.getD k 0 + 8) = false) →
    (s.hart.wtmo = 0 ∨ ∀ k < t.hart.vl, met k = true) →
    ∃ g, s.endsWith (.vwait a b sc) t g ∧ g = { t.hart with p := g.p, samples := g.samples, met := [] } ∧
      (∀ k, k ≠ 0 → g.pred k = t.hart.pred k) ∧ ∀ k < 2048, bitAt (g.pred 0) k = (decide (k < t.hart.vl) && !met k)) ∧
  (∀ (s : State) (d a b : Reg) (x : Xlat) (ps : List Nat), s.hart.quiet → s.hart.feat 7 = true → s.transfers = [] →
    -- the checks of R270: the flag's alignment and page, the cluster, the list's length, its entries and their owners
    (s.rx a).toNat % 8 = 0 → s.hart.core < 160 → s.forStore (s.xlat s.hart (s.rx a).toNat) = .ok x → x.encoded = false →
    x.closed = false → s.readNow (s.rx b).toNat 8 = .ok ps.length → ps.length ≤ 256 →
    (∀ k < ps.length, s.readNow (((s.rx b).toNat + 8 + 4 * k) % 2 ^ 64) 4 = .ok (ps.getD k 0) ∧
      (mget {} (s.app s.hart.app).kv (ps.getD k 0)).owner = 1) →
    ∃ u, exec (.handoff d a b) s = .next (s.ended u (s.hart.pc + 4)) ∧
      (∀ p, (mget {} (u.app s.hart.app).kv p).owner = (if p ∈ ps then 2 else (mget {} (s.app s.hart.app).kv p).owner) ∧
        (mget {} (u.app s.hart.app).kv p).pa = (mget {} (s.app s.hart.app).kv p).pa) ∧
      (∀ p, mget unlistedByte u.mem p = if x.addr (s.rx a).toNat ≤ p ∧ p < x.addr (s.rx a).toNat + 8
        then BitVec.ofNat 8 ((s.rx d).toNat / 256 ^ (p - x.addr (s.rx a).toNat)) else mget unlistedByte s.mem p))

/-- The decode chain: VCHAIN and VCHAINF need ATTN; VCHAIN writes the state registers v(d) to v(d + 2) from the keys that take
part, VCHAINF divides each element of O by the sum of its head. -/
def Obligations.DecodeChain : Prop :=
  (∀ (s t u : State) (d a b : Reg) (m : BitVec 2) (keys : Vec) (q : Opd) (o mx l : List Val),
    let h := s.hart
    let dd := if h.headd = 0 then h.vl else h.headd.toNat
    h.feat 3 = true → h.fmt = .f32 → h.g = 1 → h.vl % dd = 0 →
    s.issues [(a.toNat, 1), h.opRun b.toNat] [(d.toNat, 1), (d.toNat + 1, 1), (d.toNat + 2, 1)] m.toNat t →
    t.hart.readRun (a.toNat, 1) = .ok keys → keys.fmt = .n64 → t.hart.operand b.toNat = .ok q →
    t.hart.chainReg d.toNat (.fin false 0 1) h.vl = .ok o → t.hart.chainReg (d.toNat + 1) (.inf true) (h.vl / dd) = .ok mx →
    t.hart.chainReg (d.toNat + 2) (.fin false 0 1) (h.vl / dd) = .ok l →
    -- it completes where no row of a key that takes part has a fault or lies in the range of a transfer
    ((∀ k < keys.elems.length, t.hart.sel m.toNat k = true →
        (let va := keys.elems.getD k 0
         t.ritHit t.hart va (va + 2 * h.vl * (t.rowFmt va).bytes) = false ∧
         ∃ vs, t.rowElems (t.rowFmt va) va (2 * h.vl) = .ok vs)) →
      ∃ w, exec (.vchain d a b m) s = .next (s.ended w (w.hart.pc + 4))) ∧
    (t.chainGo d m dd keys (q.elems.map (decodeVal .f32)) o mx l = .ok u →
    exec (.vchain d a b m) s = .next (s.ended u (u.hart.pc + 4)) ∧
    u = { t with hart := { t.hart with v := u.hart.v, vflags := u.hart.vflags, samples := u.hart.samples } } ∧
    (∀ w, (w < t.hart.wb.toNat + d.toNat ∨ t.hart.wb.toNat + d.toNat + 2 < w) → u.hart.vreg w = t.hart.vreg w))) ∧
  (∀ (s t : State) (d : Reg) (o l : Vec),
    let h := s.hart
    let g := t.hart
    let dd := if h.headd = 0 then h.vl else h.headd.toNat
    h.feat 3 = true → s.issues [(d.toNat + 2, 1)] [(d.toNat, 1)] 0 t →
    g.readGroup (g.wb.toNat + d.toNat) 1 1 = .ok o → g.readGroup (g.wb.toNat + (d.toNat + 2)) 1 1 = .ok l → o.fmt = .f32 → l.fmt = .f32 →
    let r : Nat → Val := fun k =>
      chainOut (decodeVal .f32 (o.elems.getD k 0)) (if k / dd < h.vl then decodeVal .f32 (l.elems.getD (k / dd) 0) else .fin false 0 1)
    s.endsWith (.vchainf d) t (g.writeGroup (g.wb.toNat + d.toNat) 1
      (plainVec .f32 ((List.range h.vl).map fun k => (r k).f32Bits))))

/-! ### Transfers -/

/-- The transfer instructions: where no check stops one, it enters the engine as a transfer of the operands the table gives
it, reserving its record unless NOREC, and the hart goes on (R252, R253, R260). That XFERC and XTIER make no draw under XRM = 3 is the
model's choice (log 82). -/
def Obligations.TransfersEnter : Prop :=
  ∀ (s t : State) (d a b : Reg),
    let h := s.hart
    let c := s.rx b
    let n := (h.rx (b.toNat + 1)).toNat % 2 ^ 32
    let sf := ctlElem c 0
    let df := ctlElem c 6
    let enters : Instr → State → Transfer → Nat → Prop := fun i t x draws =>
      (x.ctl.getLsbD 19 = false → (t.hart.queue (ctlQueue x.ctl)).reserved < (t.hart.queue (ctlQueue x.ctl)).taken + 64) →
      (∀ r ∈ x.rit, t.ritHit t.hart r.1 r.2 = false) → (x.rit ≠ [] → t.ritUsed t.hart + x.rit.length ≤ 64 / t.hart.cut) →
      ∃ g, s.endsWith i { t with transfers := t.transfers ++ [x], nextXfer := t.nextXfer + 1 } g ∧
        g = { t.hart with queues := g.queues, srseed := g.srseed } ∧
        (x.ctl.getLsbD 19 = true → g.queues = t.hart.queues) ∧ (x.xrm ≠ 3 → g.srseed = t.hart.srseed) ∧
        (x.xrm = 3 → g.srseed = BitVec.ofNat 64 (skipDraws draws t.hart.srseed.toNat)) ∧
        (x.ctl.getLsbD 19 = false → g.queue (ctlQueue x.ctl) =
          { t.hart.queue (ctlQueue x.ctl) with reserved := (t.hart.queue (ctlQueue x.ctl)).reserved + 1 }) ∧
        (∀ k, k ≠ ctlQueue x.ctl → g.queue k = t.hart.queue k)
    (ctlBad h 2 c n = false → enters (.xfer d a b) s { s.newXfer 2 c with
      src := s.rx a, dst := s.rx d, len := n, scale := h.rx (b.toNat + 2), maxw := h.rx (b.toNat + 3),
      rit := ritRange sf (s.rx a).toNat n ++ ritRange df (s.rx d).toNat (ceilDiv (n * df.bits) sf.bits) } (n * 8 / sf.bits)) ∧
    (ctlBad h 6 c n = false → enters (.xferq d a b) s { s.newXfer 6 c with
      src := s.rx a, dst := s.rx d, len := n, scale := h.rx (b.toNat + 2), maxw := h.rx (b.toNat + 3),
      early := s.maxFault (h.rx (b.toNat + 3)).toNat,
      rit := ritRange sf (s.rx a).toNat n ++ ritRange df (s.rx d).toNat (ceilDiv (n * df.bits) sf.bits) ++
        [lineSpan (h.rx (b.toNat + 3)).toNat ((h.rx (b.toNat + 3)).toNat + 4)] } (n * 8 / sf.bits)) ∧
    (∀ p, ctlBad h 3 c n = false → s.issues (h.permRun c) (ctlRuns c d.toNat) 0 t → t.hart.permOf c = .ok p →
      enters (.xferv d a b) t { t.newXfer 3 c with
        src := s.rx a, len := n, reg := h.wb.toNat + d.toNat, perm := p, rit := ritRange sf (s.rx a).toNat n,
        fills := some (h.id, h.wb.toNat + d.toNat, h.wb.toNat + d.toNat + (ctlRuns c d.toNat).foldl (fun k r => k + r.2) 0) }
        (n * 8 / sf.bits)) ∧
    (∀ p, ctlBad h 4 c n = false → s.issues (ctlRuns c d.toNat ++ h.permRun c) [] 0 t → t.hart.permOf c = .ok p →
      t.hart.srcTags c (ctlRuns c d.toNat) = .ok () →
      enters (.xfervs d a b) t { t.newXfer 4 c with
        dst := s.rx a, len := n, perm := p, regs := (ctlRuns c d.toNat).flatMap fun r => t.hart.vregs (h.wb.toNat + r.1) r.2,
        rit := ritRange df (s.rx a).toNat (ceilDiv (n * df.bits) sf.bits) } (n * 8 / sf.bits)) ∧
    (let x := (s.rx a).toNat
     let k := 2 ^ (c.toNat / 2 ^ 15 % 4)
     ctlBad h 5 c 0 = false → c.toNat % 64 = 0x3F → c.toNat / 2 ^ 20 % 128 = 0 → x / 2 ^ 11 % 32 = 0 → x < 2 ^ 21 →
      s.issues [(d.toNat, k)] [] 0 t →
      let g := t.xferTarget h.crewid.toNat (x / 2 ^ 16 % 32) (x % 2 ^ 11) k
      (∀ q, g = some q → q.boundAt (x % 2 ^ 11) (x % 2 ^ 11 + k) = false) →
      -- no transfer of the hart, nor any of its own registers, fills the target's registers yet
      (∀ q, g = some q → ∀ y ∈ s.transfers, y.hart = h.id ∨ q.id = h.id → y.fillsAt q (x % 2 ^ 11) (x % 2 ^ 11 + k) = false) →
      enters (.xferc d a b) t { t.newXfer 5 c with
        reg := x % 2 ^ 11, target := (g.map Hart.id).getD 0, regs := t.hart.vregs (h.wb.toNat + d.toNat) k,
        early := if g.isSome then 0 else 0x12, fills := g.map fun q => (q.id, x % 2 ^ 11, x % 2 ^ 11 + k) } 0) ∧
    (tierBad h c (s.rx a).toNat n = false →
      enters (.xtier a b) s { s.newXfer 9 c with src := s.rx a, len := n, rit := ritRange .n8 (s.rx a).toNat n } 0) ∧
    (∀ i ∈ [Instr.xfer d a b, .xferq d a b, .xferv d a b, .xfervs d a b, .xferc d a b, .xtier a b], c.toNat / 2 ^ 48 ≠ 0 →
      exec i s = .next (s.illegal i))

/-- A transfer that retires leaves the engine with its record posted, its fields where R261 puts them, in the queue and at XCQ.BASE
(R259, R260), or parks where a page it writes is under migration (R188). XFER, XFERQ and XFERVS have then written the elements
read, converted or quantised, up to the first that faults, XFERQ its maximum too (R254, R257, R259); XFERV has filled its registers;
XFERC writes its target's registers whole, a NaN scale raising NV (R155, R256); XTIER has moved what was not in its tier (R258); and
no other byte of memory has changed. What goes to registers may arrive before the record (R120). XWAIT and XPOLL complete and take
the records of a queue in order: XWAIT where the record has posted or none is outstanding, XPOLL always. That a transfer's effect comes
in one event, its arrival in others, that a maximum word whose link is down ends it with DONE and FOFF the length, and that a queue with
nothing outstanding gives zeros, are the model's choice (log 80, 81, 82, 83). -/
def Obligations.TransferRecords : Prop :=
  (∀ (s : State) (t : Transfer), s.transfers.find? (fun u => decide (u.id = s.inp.n)) = some t → s.inp.k ≠ 1 → s.inp.k ≠ 2 →
    let sf := ctlElem t.ctl 0
    let n := t.len * 8 / sf.bits
    s.parks t n = false →
    ∃ u e, exec .transferRetire s = .next u ∧ s.Retired u t e ∧
      (t.op ≠ 9 →
        (∀ p, ¬ s.xferByte t n p → mget unlistedByte u.mem p = mget unlistedByte s.mem p) ∧
        (∀ j, { u.app j with errlog := [] } = { s.app j with errlog := [] }) ∧ u.tick = s.tick ∧ u.leaving = s.leaving ∧
        -- the record in memory
        (∀ h a, t.ctl.getLsbD 19 = false → s.hartOf t.hart = some h → h.recAddr (ctlQueue t.ctl) t.recno = some a →
          s.mayWrite h.app t.who a 16 = true → ∀ j < 16, ∀ x, (s.app h.app).lookup t.who (a + j) = some x →
          (∀ j' x', j < j' → j' < 16 → (s.app h.app).lookup t.who (a + j') = some x' → x'.addr (a + j') ≠ x.addr (a + j)) →
          let r := recWords t.recno e.status t.op e.fcode (bitsAt t.ctl.toNat 32 16) e.done e.foff e.poff
          mget unlistedByte u.mem (x.addr (a + j)) = BitVec.ofNat 8 ((r.w0.toNat + r.w1.toNat * 2 ^ 64) / 256 ^ j))) ∧
      (t.op ≠ 3 → t.op ≠ 5 → s.sameRegs u) ∧
      -- XFER and XFERQ stopped at issue
      (t.op = 2 ∨ t.op = 6 → t.early ≠ 0 → e = { fcode := t.early, foff := 0 } ∧
        ∀ p, ¬ s.recByte t p → mget unlistedByte u.mem p = mget unlistedByte s.mem p) ∧
      -- XFER, XFERQ and XFERVS: the elements read, and the fault of the source
      (∀ (es : List XElem) (flt : Option (Nat × Nat)),
        (((t.op = 2 ∨ t.op = 6) ∧ t.early = 0 ∧ s.srcElems t sf (List.zip (List.range n) (t.draws n)) = (es, flt)) ∨
          (t.op = 4 ∧ flt = none ∧ es = (List.range n).map fun k =>
            let r := k / ctlFields t.ctl
            { (t.columns.getD (k % ctlFields t.ctl) fun _ => {}) (if t.xperm then t.perm.getD r 0 else r) with
              u := (t.draws n).getD k 0 })) →
        e.flags = (t.made es).flags ∧ e.examined = (if t.op = 6 then es.length else 0) ∧ (t.op ≠ 6 → e.clipped = 0) ∧
        ((∀ x ∈ es, x.poison = false) → e.poff = 0xFFFFFFFF) ∧
        (∀ k x, es[k]? = some x → x.poison = true → (∀ j y, j < k → es[j]? = some y → y.poison = false) →
          e.poff = if t.op = 4 then k * sf.bits / 8 else s.poisonOff t sf k) ∧
        -- a fault of the destination
        (∀ k f, k < es.length → (∀ j < k, s.dstFault t n j = none) → s.dstFault t n k = some f →
          e.fcode = f ∧ e.foff = k * sf.bits / 8 ∧
          ((∀ j < k, s.dstEncoded t j = false) → e.done = k * sf.bits / 8)) ∧
        ((∀ j < es.length, s.dstFault t n j = none) →
          (∀ f, flt = some f → e.fcode = f.1 ∧ e.foff = f.2 * sf.bits / 8) ∧
          (flt = none → t.op ≠ 6 ∨ foldMax sf es = none → e.fcode = 0 ∧ e.foff = 0xFFFFFFFF) ∧
          ((∀ j < es.length, s.dstEncoded t j = false) →
            (t.op ≠ 6 ∨ flt ≠ none ∨ foldMax sf es = none → e.done = es.length * sf.bits / 8) ∧ s.xferWrote u t es) ∧
          -- the maximum of XFERQ
          (∀ m, t.op = 6 → flt = none → foldMax sf es = some m →
            (s.forStore (s.xferAt t t.maxw.toNat) = .error .link → e.fcode = 0x10 ∧ e.foff = t.len ∧ e.done = t.len) ∧
            (s.forStore (s.xferAt t t.maxw.toNat) = .error .unmapped ∨ s.forStore (s.xferAt t t.maxw.toNat) = .error .perm →
              e.fcode = 5 ∧ e.foff = t.len ∧ e.done = t.len) ∧
            (∀ x, s.forStore (s.xferAt t t.maxw.toNat) = .ok x → x.encoded = false → e.fcode = 0 ∧ e.foff = 0xFFFFFFFF ∧
              ((∀ p, s.maxByte t p → ¬ s.dstByte t n p ∧ ¬ s.recByte t p) →
                readLE u.mem (x.addr t.maxw.toNat) 4 = max m (readLE s.mem (x.addr t.maxw.toNat) 4) % 2 ^ 32))))) ∧
      -- XFERV and XFERC whose registers have arrived
      (∀ z, t.op = 3 ∨ t.op = 5 → t.landed = some z → e = z ∧ s.sameRegs u) ∧
      (∀ a, t.op = 3 ∨ t.op = 5 → t.landed = none → t.came = some a → e = a.ending) ∧
      -- XTIER
      (t.op = 9 →
        let ms := (s.app t.app).maps
        let lo := t.src.toNat
        let hi := lo + t.len
        let code := s.tierCode (t.ctl.toNat % 256)
        (t.len = 0 → e = {}) ∧
        (∀ m, t.len ≠ 0 → partRange ms lo hi = some m → e = { fcode := 0x13, foff := max m.va lo - lo }) ∧
        (t.len ≠ 0 → partRange ms lo hi = none → findMap ms lo = none → 4096 ≤ t.len → e = { fcode := 4, foff := 0 }) ∧
        (partRange ms lo hi = none → (∀ a, lo ≤ a → a < hi → ∃ m, findMap ms a = some m ∧ m.inTier code = true) →
          (t.len ≠ 0 → e = { done := t.len }) ∧ (∀ j, (u.app j).maps = (s.app j).maps) ∧
          ∀ p, ¬ s.recByte t p → mget unlistedByte u.mem p = mget unlistedByte s.mem p) ∧
        -- one page or range that a free frame of the tier's die takes in
        (∀ m x d, s.memOk → d < 4 → code = 0x10 + d → 4096 ≤ t.len → t.len % 4096 = 0 → partRange ms lo hi = none → carve ms lo hi = ms →
          findMap ms lo = some m → m.va = lo → m.top = hi → m.unit lo = (lo, hi) → m.inTier code = false → s.linkDown m.kind = false →
          (∀ r ∈ s.leaving, r.pa + r.len ≤ m.pa ∨ m.pa + t.len ≤ r.pa) →
          hbmBase d ≤ x → x + t.len ≤ hbmBase d + hbmSize d → x % 2 ^ m.pageLog = 0 →
          (∀ r ∈ s.keyedFrames, x + t.len ≤ r.pa ∨ r.pa + r.len ≤ x) →
          e.fcode = 0 ∧ e.done = t.len ∧ e.foff = 0xFFFFFFFF ∧
          (s.firstPoison m.pa t.len = none → e.poff = 0xFFFFFFFF) ∧
          ∃ q ∈ (u.app t.app).maps, q.va = lo ∧ q.pages = m.pages ∧ q.attr = m.attr ∧ q.inTier code = true ∧
            (t.ctl.getLsbD 19 = true → ∀ i < t.len, mget unlistedByte u.mem (q.pa + i) = mget unlistedByte s.mem (m.pa + i))))) ∧
  -- one field of XFERV, without a permutation, whose elements all read: the registers it fills, at the record or before it
  (∀ (s : State) (t : Transfer) (h : Hart) (es : List XElem), s.transfers.find? (fun u => decide (u.id = s.inp.n)) = some t →
    t.op = 3 → t.landed = none → t.came = none → s.hartOf t.hart = some h → ctlFields t.ctl = 1 → t.xperm = false → (ctlFmt t.ctl 6).isSome = true →
    let sf := ctlElem t.ctl 0
    let df := ctlElem t.ctl 6
    let n := t.len * 8 / sf.bits
    let g := ctlGroup t.ctl
    s.inp.k = 1 ∨ (s.inp.k ≠ 2 ∧ s.parks t n = false) → es.length = min n (t.grant * g * 8 / df.bits) →
    (∀ k < es.length, s.srcElem t sf k ((t.draws n).getD k 0) = .ok (es.getD k {})) → (∀ x ∈ es, x.poison = false) →
    let c := convert sf df (RM.ofXrm t.xrm.toNat) es
    ∃ (v : Vec) (e : Ending) (u : State), v.fmt = df ∧ v.elems = c.pats ∧ e.fcode = 0 ∧ e.done = es.length * sf.bits / 8 ∧
      e.foff = 0xFFFFFFFF ∧ e.poff = 0xFFFFFFFF ∧ exec .transferRetire s = .next u ∧
      (∃ q, u.hartOf t.hart = some q ∧ q.v = (h.writeGroup t.reg g v).v) ∧
      (s.inp.k = 1 → u = { s with hart := u.hart, others := u.others,
                                  transfers := s.transfers.map fun x => if x.id = t.id then { x with landed := some e } else x }) ∧
      (s.inp.k ≠ 1 → s.Retired u t e)) ∧
  -- an arrival concerns only what goes to registers and has not arrived
  (∀ (s : State) (t : Transfer), s.transfers.find? (fun u => decide (u.id = s.inp.n)) = some t → s.inp.k = 1 →
    ((t.op ≠ 3 ∧ t.op ≠ 5) ∨ t.landed ≠ none → exec .transferRetire s = .next s) ∧
    (t.op = 3 ∨ t.op = 5 → t.landed = none → ∃ u e, exec .transferRetire s = .next u ∧
      u = { s with hart := u.hart, others := u.others,
                   transfers := s.transfers.map fun x => if x.id = t.id then { x with landed := some e } else x })) ∧
  -- the next element groups of what goes to registers: a register has the bytes that have arrived, and keeps its others
  (∀ (s : State) (t : Transfer) (a : Arrival) (f : Nat × Nat × Nat), s.transfers.find? (fun u => decide (u.id = s.inp.n)) = some t →
    s.inp.k = 2 →
    ((t.op ≠ 3 ∧ t.op ≠ 5) ∨ t.landed ≠ none → exec .transferRetire s = .next s) ∧
    (t.op = 3 ∨ t.op = 5 → t.landed = none → t.fills = some f → t.came = some a ∨ (t.came = none ∧ s.arrival t = some a) →
      ∃ u b, exec .transferRetire s = .next u ∧ b = { a with got := b.got } ∧ a.got + 64 ≤ b.got ∧ (b.got - a.got) % 64 = 0 ∧
        u = { s with hart := u.hart, others := u.others,
                     transfers := s.transfers.map fun x => if x.id = t.id then { x with came := some b } else x } ∧
        ∀ h, s.hartOf f.1 = some h → ∃ q, u.hartOf f.1 = some q ∧ q = { h with v := q.v } ∧
          (∀ w, w < f.2.1 ∨ f.2.1 + a.regs.length ≤ w → q.vreg w = h.vreg w) ∧
          ∀ j < a.regs.length, let p := b.got - t.fieldOff j
            q.vreg (f.2.1 + j) = (if t.grant ≤ p then a.regs.getD j {} else if p = 0 then h.vreg (f.2.1 + j) else
              { a.regs.getD j {} with data := BitVec.ofNat 2048 ((a.regs.getD j {}).data.toNat % 2 ^ (8 * p) +
                  (h.vreg (f.2.1 + j)).data.toNat / 2 ^ (8 * p) * 2 ^ (8 * p)) }))) ∧
  (∀ s : State, (∀ t ∈ s.transfers, t.id ≠ s.inp.n) → exec .transferRetire s = .next s) ∧
  (∀ (s : State) (t : Transfer), s.transfers.find? (fun u => decide (u.id = s.inp.n)) = some t → s.inp.k ≠ 1 → s.inp.k ≠ 2 →
    s.parks t (t.len * 8 / (ctlElem t.ctl 0).bits) = true →
    exec .transferRetire s = .next { s with transfers := s.transfers.map fun u => if u.id = t.id then { u with parked := true } else u }) ∧
  (∀ (s : State) (t : Transfer) (h : Hart), s.transfers.find? (fun u => decide (u.id = s.inp.n)) = some t → t.op = 5 → s.inp.k ≠ 1 →
    s.inp.k ≠ 2 → t.landed = none → t.came = none → t.early = 0 → s.hartOf t.target = some h → h.ended = false → s.hart = h → t.hart = h.id → t.ctl.getLsbD 19 = true →
    (∀ g ∈ s.others, g.id ≠ h.id) → h.run ≠ .idle → h.spilled = false →
    ∃ v, exec .transferRetire s = .next { s with
        hart := { h with v := v, vflags := h.vflags ||| (if t.regs.any VReg.nanScale then 16 else 0) }, transfers := s.transfers.filter fun u => decide (u.id ≠ t.id) } ∧
      (∀ k < t.regs.length, mget {} v (t.reg + k) = t.regs.getD k {}) ∧
      (∀ w, w < t.reg ∨ t.reg + t.regs.length ≤ w → mget {} v w = h.vreg w)) ∧
  (∀ (s : State) (t : Transfer), s.transfers.find? (fun u => decide (u.id = s.inp.n)) = some t → t.op = 5 → s.inp.k ≠ 1 →
    s.inp.k ≠ 2 → s.parks t (t.len * 8 / (ctlElem t.ctl 0).bits) = false → t.landed = none → t.came = none →
    t.early ≠ 0 ∨ s.hartOf t.target = none ∨ (∃ h, s.hartOf t.target = some h ∧ h.ended = true) →
    ∃ u, exec .transferRetire s = .next u ∧ s.Retired u t { fcode := 0x12, foff := 0 } ∧ s.sameRegs u) ∧
  (∀ k status op fcode tag done foff poff : Nat, status < 8 → op < 16 → fcode < 256 → tag < 2 ^ 16 → done < 2 ^ 32 → foff < 2 ^ 32 →
    poff < 2 ^ 32 →
    let r := recWords k status op fcode tag done foff poff
    r.w0.getLsbD 0 = decide (k / 64 % 2 = 0) ∧ bitsAt r.w0.toNat 1 3 = status ∧ bitsAt r.w0.toNat 4 4 = op ∧
    bitsAt r.w0.toNat 8 8 = fcode ∧ bitsAt r.w0.toNat 16 16 = tag ∧ bitsAt r.w0.toNat 32 32 = done ∧
    bitsAt r.w1.toNat 0 32 = foff ∧ bitsAt r.w1.toNat 32 32 = poff) ∧
  (∀ (s : State) (d a : Reg) (r : ComplRec),
    let q := s.hart.queue a.toNat
    let gets : Hart → ComplRec → Hart := fun h r => (h.wx d.toNat r.w0).wx (d.toNat + 1) r.w1
    let took := s.hart.setQueue a.toNat { q with taken := q.taken + 1, recs := mset none q.recs q.taken none }
    (q.taken < q.reserved → mget none q.recs q.taken = some r →
      s.endsWith (.xwait d a) s (gets took r) ∧ s.endsWith (.xpoll d a) s (gets took r)) ∧
    (q.reserved ≤ q.taken → s.endsWith (.xwait d a) s (gets s.hart ⟨0, 0⟩) ∧ s.endsWith (.xpoll d a) s (gets s.hart ⟨0, 0⟩)) ∧
    (q.taken < q.reserved → mget none q.recs q.taken = none →
      exec (.xwait d a) s = .next (s.waitsOn (.xwait d a)) ∧ s.endsWith (.xpoll d a) s (gets s.hart ⟨0, 0⟩)))

/-! ### The matrix array -/

/-- Planes: MLDS fills the shadow plane from memory or registers and leaves the active one, and completes where its rows read;
MSWAP exchanges the planes and completes on every uncut core; a core that is cut takes ILLEGAL. MMA: a tile takes the products
of the A rows and the active plane, and completes where the rows are registers of one matrix format that the plane and the tile
go with; of an integer tile every element of the rows named is the old one plus the dot product, modulo 2^32; other rows and
other tiles stay. MMAQ waits until the four harts of its quad have issued theirs, and then all end: it completes where the
leader's rows and every member's plane and tile go together. -/
def Obligations.MatrixArray : Prop :=
  (∀ (s t : State) (a n : Reg) (h : BitVec 4) (f : Fmt),
     let g := s.hart
     let w := (g.rx (a.toNat + 2)).toNat
     let rows := w / 64 % 1024
     let addr := (s.rx a).toNat
     let stride := (g.rx (a.toNat + 1)).toNat
     (g.cut = 1 → exec .mswap s = .next (s.ended { s with hart := { g with active := g.shadow, shadow := g.active } } (g.pc + 4))) ∧
     (g.cut ≠ 1 → exec .mswap s = .next (s.illegal .mswap) ∧ exec (.mlds a h n) s = .next (s.illegal (.mlds a h n))) ∧
     (g.cut = 1 → Fmt.ofCode (w % 64) = some f → f.isMatrix = true → g.fmtOk f = true → w < 2 ^ 16 → 1 ≤ rows → rows ≤ mtileK f →
       (f.isMx = true → a.toNat ≤ 124) → s.transfers = [] →
       let row := fun k => s.readSpan (fun va => planePage f (s.sampled g va)) (addr + k * stride) (rowBytes f) 0
       (∀ k < rows, ∃ bs, row k = .ok bs) →
       (f.isMx = true → ∀ j < ceilDiv rows 32, ∃ bs, s.readSpan (s.sampled g) ((g.rx (a.toNat + 3)).toNat + j * 96) 96 0 = .ok bs) →
       ∃ q, s.endsWith (.mlds a 0 n) s q ∧ q = { g with shadow := q.shadow, samples := q.samples } ∧
         q.shadow.fmt = some f ∧ q.shadow.rows = rows ∧
         ∀ k < rows, ∀ bs, row k = .ok bs → mget 0 q.shadow.data k = BitVec.ofNat 3072 (leNat bs)) ∧
     (g.cut = 1 → Fmt.ofCode (w % 64) = some f → f.isMx = true → 124 < a.toNat → exec (.mlds a 0 n) s = .next (s.illegal (.mlds a 0 n))) ∧
     (g.cut = 1 → h ≠ 0 → s.issues (rowRuns a.toNat (rowsOf n)) [] 0 t →
       let rs := t.hart.vregs (t.hart.wb.toNat + a.toNat) (rowsOf n)
       (∀ r ∈ rs, r.desc.fmt = f ∧ r.desc.cont = false ∧ r.desc.untyped = false ∧ (r.desc.enc = .plain ∨ r.desc.grec = 0)) →
       (t.hart.vreg (t.hart.wb.toNat + a.toNat)).desc.fmt = f → f.isMatrix = true → f.isMx = false →
       ∃ p, s.endsWith (.mlds a h n) t { t.hart with shadow := p } ∧ p.fmt = some f ∧
         p.rows = min (mtileK f) (rowsOf n * t.hart.vlgrant * 8 / (96 * f.bits)) ∧ p.src = none)) ∧
  ((∀ (s u : State) (t : BitVec 3) (a n : Reg) (h : BitVec 4) (r : ARows) (g : Hart), s.hart.cut = 1 →
     s.mmaReady a.toNat (rowsOf n) = .ok () → (s.hart.popped (s.hart.aRuns a.toNat (rowsOf n))).any s.popHeld = false →
     s.popAll (s.hart.aRuns a.toNat (rowsOf n)) = (u, none) →
     u.hart.aRows a.toNat (rowsOf n) = .ok r → u.hart.accumulate t.toNat h.toNat r = .ok g →
     s.endsWith (.mma t a h n) u g ∧ g = { u.hart with tiles := g.tiles, vflags := g.vflags } ∧
     (∀ k, k ≠ t.toNat → g.tile k = u.hart.tile k) ∧ (g.tile t.toNat).isInt = (u.hart.tile t.toNat).isInt ∧
     (∀ k, k < 16 * h.toNat ∨ 16 * h.toNat + r.rows.length ≤ k → (g.tile t.toNat).row k = (u.hart.tile t.toNat).row k)) ∧
   (∀ (s : State) (t : BitVec 3) (a n : Reg) (h : BitVec 4) (f bf : Fmt), s.hart.cut = 1 → s.hart.vl ≤ mtileK s.hart.fmt →
     s.hart.outl = false → a.toNat + rowsOf n ≤ 128 → s.hart.streams = [] → s.transfers = [] →
     (∀ r < rowsOf n, (s.hart.vreg (s.hart.wb.toNat + a.toNat + r)).isPlain f = true) → f.isMatrix = true →
     s.hart.active.fmt.getD f = bf → mtileK f = mtileK bf →
     (s.hart.tile t.toNat).isInt = (decide (f = bf) && (decide (bf = .i8) || decide (bf = .i4))) →
     ∃ g, s.endsWith (.mma t a h n) s g ∧ g = { s.hart with tiles := g.tiles, vflags := g.vflags }) ∧
   (∀ (old : Nat) (ps : List (Val × Val)), old < 2 ^ 32 →
     (mmaElem true false old ps).1 =
       (BitVec.ofInt 32 ((old : Int) + ((ps.map fun p => p.1.toInt * p.2.toInt).sum))).toNat) ∧
   (∀ (s : State) (t : BitVec 3) (a n : Reg) (h : BitVec 4),
     let i := Instr.mmaq t a h n
     let cid := s.hart.crewid.toNat
     ((s.hart.cut ≠ 1 ∨ (s.crewOf cid).map Crew.quad ≠ some true ∨ ∃ g ∈ s.crewHarts cid, g.ended = true) →
       exec i s = .next (s.illegal i)) ∧
     (s.hart.cut = 1 → (s.crewOf cid).map Crew.quad = some true → (∀ g ∈ s.crewHarts cid, g.ended = false) →
       (s.quadOps i = none → exec i s = .next (s.waitsOn i)) ∧
       (∀ ld ms r, s.quadOps i = some (ld :: ms) → (s.focus ld.1).leaderRows ld.2 = .ok r →
         exec i s = .next (((ld :: ms).foldl (State.quadMember ld.2.n (.ok r.2)) (s.quadFrom ld r)).focus s.hart.id) ∧
         (∀ w : Wait, s.hart.id = s.inp.n → s.hart.run = .running → s.hart.wait = some w → w.instr = i →
           exec .mmaqMeet s = .next (((ld :: ms).foldl (State.quadMember ld.2.n (.ok r.2)) (s.quadFrom ld r)).focus s.hart.id))))) ∧
   (∀ (s : State) (t : BitVec 3) (a n : Reg) (h : BitVec 4) (ops : List (Nat × QuadOp)) (f : Fmt),
     let i := Instr.mmaq t a h n
     s.hart.cut = 1 → s.hart.run = .running → (s.crewOf s.hart.crewid.toNat).map Crew.quad = some true →
     (∀ g ∈ s.crewHarts s.hart.crewid.toNat, g.ended = false) → ((s.hart :: s.others).map Hart.id).Nodup → s.transfers = [] →
     s.quadOps i = some ops → f.isMatrix = true →
     -- the leader, of the lowest rank, names plain rows of format f, and no stream of its is bound
     (∀ ld L, ops.head? = some ld → s.hartOf ld.1 = some L →
       L.vl ≤ mtileK L.fmt ∧ L.outl = false ∧ L.streams = [] ∧ ld.2.a + ld.2.n ≤ 128 ∧ ld.2.n = rowsOf n ∧
       ∀ r < ld.2.n, (L.vreg (L.wb.toNat + ld.2.a + r)).isPlain f = true) →
     -- every member names as many rows, within its tile, and its plane and tile go with f
     (∀ m ∈ ops, ∀ L, s.hartOf m.1 = some L →
       m.2.n = rowsOf n ∧ 16 * m.2.g + m.2.n ≤ 256 ∧ mtileK f = mtileK (L.active.fmt.getD f) ∧
       (L.tile m.2.t).isInt = (decide (f = L.active.fmt.getD f) && (decide (f = .i8) || decide (f = .i4)))) →
     ∃ u, exec i s = .next u ∧ u.hart.id = s.hart.id ∧ u.hart.pc = s.hart.pc + 4 ∧ u.hart.wait = none ∧ u.mem = s.mem))

/-- Tiles: MZERO clears one and sets its tag, MLDACC loads rows from registers, MMOVA moves rows into registers, MDRAIN and
MDRAINX store rows; what each leaves. Each completes on a tile the core has: MZERO always; MLDACC where its registers are of
one tag, F32 or I32; MMOVA where VL fits a tile row and a register; MDRAIN and MDRAINX where no page of an element is encoded,
refuses FMT or is held by a migration (an element that faults is recorded, R279). A drain writes the columns below VL that mk1
selects, each converted to FMT, at its row's address plus the column's bytes, and no other byte but the scales of an MX format
(R240, R417). That it converts even to the tile's own format, and what it asks of an MX page, are the model's choice (log 76). -/
def Obligations.Tiles : Prop :=
  ∀ (s u : State) (t : BitVec 3) (a n : Reg) (h : BitVec 4) (vs : List Vec) (f : Fmt),
    let g := s.hart
    let k := rowsOf n
    let inTile := t.toNat < 8 / g.cut
    (inTile → ∃ q, s.endsWith (.mzero t h) s { g with tiles := q } ∧ mget {} q t.toNat = { isInt := decide (h = 1), rows := [] } ∧
      ∀ j, j ≠ t.toNat → mget {} q j = g.tile j) ∧
    (¬ inTile → ∀ i ∈ [Instr.mzero t h, .mldacc t a h n, .mmova t a h n, .mdrain t a h n, .mdrainx t a h n],
      exec i s = .next (s.illegal i)) ∧
    (inTile → g.vl ≤ 96 → s.issues (rowRuns a.toNat k) [] 0 u → u.hart.rowVecs a.toNat k = .ok vs → vs ≠ [] →
      (∀ v ∈ vs, v.fmt = f) → f = .f32 ∨ f = .i32 →
      ∃ q, s.endsWith (.mldacc t a h n) u { u.hart with tiles := q } ∧ (mget {} q t.toNat).isInt = decide (f = .i32) ∧
        (∀ j, j ≠ t.toNat → mget {} q j = u.hart.tile j) ∧
        ∀ j, (mget {} q t.toNat).row j = if 16 * h.toNat ≤ j ∧ j < 16 * h.toNat + vs.length then
            (List.range 96).map (fun c => if c < u.hart.vl then ((vs.getD (j - 16 * h.toNat) (plainVec f [])).elems.getD c 0) % 2 ^ 32 else 0)
          else (u.hart.tile t.toNat).row j) ∧
    (inTile → g.vl ≤ 96 → a.toNat + k ≤ 128 → g.streams = [] → s.transfers = [] → f = .f32 ∨ f = .i32 →
      (∀ r < k, (g.vreg (g.wb.toNat + a.toNat + r)).isPlain f = true) →
      ∃ q, s.endsWith (.mldacc t a h n) s { g with tiles := q } ∧ (mget {} q t.toNat).isInt = decide (f = .i32)) ∧
    (inTile → g.vl ≤ 96 → g.vl ≤ g.vlgrant * 8 / g.fmt.bits → s.vecReady [] (rowRuns a.toNat k) 0 = .ok () →
      ∃ q, s.endsWith (.mmova t a h n) s q ∧ q = { g with v := q.v, vflags := q.vflags, srseed := q.srseed } ∧
        (∀ w, w < g.wb.toNat + a.toNat ∨ g.wb.toNat + a.toNat + k ≤ w → q.vreg w = g.vreg w) ∧
        (g.fmt = .f32 → (g.tile t.toNat).isInt = true → g.rm = .rne → ∀ j < k,
          q.vreg (g.wb.toNat + a.toNat + j) = plainMember .f32 1 ((((g.tile t.toNat).row (16 * h.toNat + j)).take g.vl).map fun p =>
            (roundVal .f32 .rne 0 (.ofInt (BitVec.ofNat 32 p).toInt)).1) [])) ∧
    (inTile → g.vl ≤ 96 → s.drain t.toNat ((List.range k).map fun r =>
        (16 * h.toNat + r, (s.rx a + BitVec.ofNat 64 r * g.rx (a.toNat + 1)).toNat)) = .ok u →
      exec (.mdrain t a h n) s = .next (s.ended u (u.hart.pc + 4))) ∧
    (inTile → g.vl ≤ 96 → s.transfers = [] →
      (∀ r < k, ∀ c < g.vl, ∀ x, s.xlat g (((s.rx a + BitVec.ofNat 64 r * g.rx (a.toNat + 1)).toNat + c * g.fmt.bits / 8) % 2 ^ 64) = some x →
        x.refuses g.fmt = false ∧ x.encoded = false ∧ x.closed = false) →
      ∃ w, exec (.mdrain t a h n) s = .next (s.ended w (w.hart.pc + 4))) ∧
    (∀ v : Vec, inTile → g.vl ≤ 96 → s.transfers = [] → s.issues [g.gRun a.toNat] [] 0 u →
      u.hart.readRun (u.hart.gRun a.toNat) = .ok v → v.fmt = .n64 →
      (∀ r < min k v.elems.length, ∀ c < u.hart.vl, ∀ x, u.xlat u.hart ((v.elems.getD r 0 + c * u.hart.fmt.bits / 8) % 2 ^ 64) = some x →
        x.refuses u.hart.fmt = false ∧ x.encoded = false ∧ x.closed = false) →
      ∃ w, exec (.mdrainx t a h n) s = .next (s.ended w (w.hart.pc + 4))) ∧
    (∀ (v : Vec) (w : State), inTile → g.vl ≤ 96 → s.issues [g.gRun a.toNat] [] 0 u → u.hart.readRun (u.hart.gRun a.toNat) = .ok v →
      v.fmt = .n64 → u.drain t.toNat (List.zip ((List.range k).map fun r => 16 * h.toNat + r) v.elems) = .ok w →
      exec (.mdrainx t a h n) s = .next (s.ended w (w.hart.pc + 4))) ∧
    (∀ rows : List (Nat × Nat), s.drain t.toNat rows = .ok u →
      -- the element of column c of a row, and its place in memory
      let va : Nat × Nat → Nat → Nat := fun r c => (r.2 + c * g.fmt.bits / 8) % 2 ^ 64
      let pa := fun r c => s.physOf (va r c)
      let val : Nat × Nat → Nat → Val := fun r c =>
        let p := ((g.tile t.toNat).row r.1).getD c 0
        if (g.tile t.toNat).isInt then .ofInt (BitVec.ofNat 32 p).toInt else f32Val p
      let pat := fun r c => (roundVal g.fmt (if g.rm = .efb then .rne else g.rm) 0 (val r c)).1
      u = { s with mem := u.mem, poison := u.poison, others := u.others, hart := { g with
        links := u.hart.links, sfrq := u.hart.sfrq, samples := u.hart.samples, vflags := u.hart.vflags, srseed := u.hart.srseed } } ∧
      (∀ p, (∀ r ∈ rows, ∀ c < g.vl, g.sel 1 c = true → ¬ (pa r c ≤ p ∧ p < pa r c + g.fmt.bytes) ∧
          (g.fmt.isMx = true → p ≠ s.physOf (blkScale g.fmt (va r c)))) →
        mget unlistedByte u.mem p = mget unlistedByte s.mem p) ∧
      (∀ (i : Nat) (r : Nat × Nat) (c : Nat), rows[i]? = some r → c < g.vl → g.vl ≤ 96 → g.sel 1 c = true → s.storeFault g.fmt.bytes (va r c) = none →
        g.fmt.isMx = false → g.rm ≠ .sto →
        (g.fmt.bits ≠ 4 → (∀ (i' : Nat) (r' : Nat × Nat) (c' : Nat), rows[i']? = some r' → c' < g.vl → i' ≠ i ∨ c' ≠ c →
            pa r' c' + g.fmt.bytes ≤ pa r c ∨ pa r c + g.fmt.bytes ≤ pa r' c') →
          ∀ j < g.fmt.bytes, mget unlistedByte u.mem (pa r c + j) = BitVec.ofNat 8 (pat r c / 256 ^ j)) ∧
        (g.fmt.bits = 4 → (∀ (i' : Nat) (r' : Nat × Nat) (c' : Nat), rows[i']? = some r' → c' < g.vl → i' ≠ i ∨ c' ≠ c → c' % 2 = c % 2 → pa r' c' ≠ pa r c) →
          (mget unlistedByte u.mem (pa r c)).toNat / 16 ^ (c % 2) % 16 = pat r c % 16)))

/-- MSOFT: one online-softmax step on the rows named; the score and output tiles and two state registers change alone; a row
whose maximum is −∞ gets weights of zero (R246). It completes on an uncut core with ATTN and VL at most 96, where v(a) and
v(a + 1) read as F32 or hold nothing and neither tile is an integer one. -/
def Obligations.SoftmaxStep : Prop :=
  (∀ (s : State) (t : BitVec 3) (a n : Reg) (h : BitVec 4) (ms ls : List Val),
    let g := s.hart
    g.cut = 1 → g.feat 3 = true → g.vl ≤ 96 → s.vecReady [] [(a.toNat, 1), (a.toNat + 1, 1)] 0 = .ok () →
    g.chainReg a.toNat (.inf true) n.toNat = .ok ms → g.chainReg (a.toNat + 1) (.fin false 0 1) n.toNat = .ok ls →
    (g.tile t.toNat).isInt = false → (g.tile h.toNat).isInt = false →
    ∃ q, s.endsWith (.msoft t a h n) s q ∧ q = { g with tiles := q.tiles, v := q.v, vflags := q.vflags } ∧
      (∀ k, k ≠ t.toNat → k ≠ h.toNat → q.tile k = g.tile k) ∧
      (∀ w, w ≠ g.wb.toNat + a.toNat → w ≠ g.wb.toNat + a.toNat + 1 → q.vreg w = g.vreg w) ∧
      (t.toNat ≠ h.toNat → ∀ k, n.toNat ≤ k → (q.tile t.toNat).row k = (g.tile t.toNat).row k ∧
        (q.tile h.toNat).row k = (g.tile h.toNat).row k)) ∧
  (∀ (mo lo : Val) (ss os : List Val), maxNan mo ss = (.inf true, {}) → (softRow mo lo ss os).p = ss.map fun _ => 0) ∧
  (∀ s : State, ∀ (t : BitVec 3) (a n : Reg) (h : BitVec 4), s.hart.cut ≠ 1 ∨ s.hart.feat 3 = false ∨ 96 < s.hart.vl →
    exec (.msoft t a h n) s = .next (s.illegal (.msoft t a h n)))

/-- The factorisations and solves MLU, MCHOL, MQR, MTRSML and MTRSMU: each completes, with FACT, on F32 tiles the core has, at
step 0 or where FSTEP and FSTAT name it; one column step at a time, FSTEP counting; the PC stays until the last, FSTAT says which
instruction and whether it met a zero pivot, and a later step only resumes the same instruction. That one execution is one column
step, R420 running them all in one instruction, is the model's choice (log 77). -/
def Obligations.Factorisations : Prop :=
  (∀ (s : State) (t : BitVec 3) (a n : Reg) (h : BitVec 4) (unit : BitVec 1),
    let g := s.hart
    let k := g.fstep.toNat
    -- MCHOL stops at a column whose pivot is not above zero
    let goes : Nat → Prop := fun f =>
      f = 1 → (Val.fin false 0 1).lt (f32Val (elemAt ((List.range 96).map (g.tile t.toNat).row) k k)) = true
    let steps : Instr → Nat → List Nat → List VRun → Prop := fun i f tiles regs =>
      (g.feat 2 = false ∨ (k ≠ 0 ∧ (n.toNat ≤ k ∨ g.fstatOpf.toNat ≠ f)) → exec i s = .next (s.illegal i)) ∧
      (g.feat 2 = true → (∀ x ∈ tiles, x < 8 / g.cut ∧ (g.tile x).isInt = false) → (tiles.length = 2 → g.vl ≤ 96) →
        (k = 0 ∨ (k < n.toNat ∧ g.fstatOpf.toNat = f)) → s.vecReady [] regs 0 = .ok () →
        ∃ q, (k + 1 < n.toNat → goes f →
            exec i s = .next { s with hart := { q with wait := none } } ∧ q.fstep.toNat = k + 1 ∧ q.pc = g.pc) ∧
          (n.toNat ≤ k + 1 ∨ ¬ goes f → s.endsWith i s q ∧ q.fstep = 0) ∧
          (¬ goes f → q.fstatCode = 2 ∧ q.fstatCol.toNat = k) ∧
          q.fstatOpf.toNat = f ∧
          q = { g with tiles := q.tiles, v := q.v, vflags := q.vflags, fstep := q.fstep, fstatCode := q.fstatCode,
                       fstatCol := q.fstatCol, fstatOpf := q.fstatOpf, fgrow := q.fgrow } ∧
          (∀ x, x ∉ tiles → q.tile x = g.tile x))
    steps (.mlu t a n) 0 [t.toNat] [(a.toNat, facGroup g.vlgrant n.toNat .i16)] ∧
    steps (.mchol t n) 1 [t.toNat] [] ∧
    steps (.mqr t a n) 2 [t.toNat] [(a.toNat, facGroup g.vlgrant n.toNat .f32)] ∧
    steps (.mtrsml t h n unit) 3 [t.toNat, h.toNat] [] ∧ steps (.mtrsmu t h n unit) 4 [t.toNat, h.toNat] [] ∧
    (g.feat 2 = true → t.toNat < 8 / g.cut → (g.tile t.toNat).isInt = false → g.fstep = 0 →
      (f32Val (elemAt ((List.range 96).map (g.tile t.toNat).row) 0 0)).isZero = true →
      ∃ q, s.endsWith (.mchol t n) s q ∧ q.fstatCode = 2 ∧ q.fstatCol = 0 ∧ q.fstep = 0)) ∧
  (∀ (n vl j : Nat) (z : Fac), j < n → n ≤ z.a.length →
    -- MLU's pivot: no row at or below j has a larger magnitude in column j, and the rows exchanged are j and that one
    ∃ p, j ≤ p ∧ p < n ∧ (∀ i, j ≤ i → i < n → ranksAbove (elemAt z.a i j) (elemAt z.a p j) = false) ∧
      ((∀ i, j ≤ i → i < n → (f32Val (elemAt z.a i j)).isNan = false) →
        (stepMlu n vl j z).1.vec = z.vec.set j (p + 1)))

/-! ### Claims, waves and other packages -/

/-- CLAIM posts the pairs of its active elements, WFORM marks the admitted ones, WREL removes theirs and WCLR all; and of two
admitted pending items no two have an address in common (R265 to R267). -/
def Obligations.ClaimsAndWaves : Prop :=
  (∀ (s t : State) (a d : Reg) (m : BitVec 2) (c : Share) (v : Vec),
    let h := s.hart
    let unit := h.unitid.toNat
    s.hart.feat 6 = true → s.hart.maskOk m.toNat = true → s.hart.vl ≤ 4096 → (s.crewOf h.crewid.toNat).bind Crew.share = some c →
    (s.issues [h.gRun a.toNat] [] m.toNat t → t.hart.readRun (t.hart.gRun a.toNat) = .ok v → v.fmt = .n64 ∨ v.fmt = .i64 →
      ∃ q : Share, exec (.claim a m) s = .next (s.ended (t.setShare q) (t.hart.pc + 4)) ∧
        (∀ p ∈ c.pairs, p ∈ q.pairs) ∧
        ∀ i ∈ t.hart.chosen m.toNat t.hart.vl,
          (claimSig (v.elems.getD i 0), t.hart.itemKey i) ∈ q.pairs ∨ (q.mask t.hart.crewrank.toNat).getLsbD i = true ∨ 256 ≤ i) ∧
    (exec (.wform d m) s = .next (s.ended { s with
      hart := h.setPred d.toNat (((h.chosen m.toNat h.vl).filter fun i => c.admits unit (h.itemKey i)).map fun i => 2 ^ i).sum } (h.pc + 4))) ∧
    (∃ q : Share, exec (.wrel m) s = .next (s.ended (s.setShare q) (h.pc + 4)) ∧
      (∀ p, p ∈ q.pairs ↔ p ∈ c.pairs ∧ ∀ i ∈ h.chosen m.toNat h.vl, p.2 ≠ h.itemKey i) ∧
      ∀ r i, (q.mask r).getLsbD i = ((c.mask r).getLsbD i && !(decide (r = h.crewrank.toNat) && decide (i ∈ h.chosen m.toNat h.vl)))) ∧
    (exec .wclr s = .next (s.ended (s.setShare {}) (h.pc + 4)))) ∧
  (∀ (c : Share) (unit j k : Nat), j < k → c.admits unit j = true → c.admits unit k = true → j ∈ c.pending unit → k ∈ c.pending unit →
    ∀ sig, ¬ ((sig, j) ∈ c.pairs ∧ (sig, k) ∈ c.pairs)) ∧
  (∀ (s : State) (a d : Reg) (m : BitVec 2), s.hart.feat 6 = false ∨ (s.crewOf s.hart.crewid.toNat).bind Crew.share = none →
    ∀ i ∈ [Instr.claim a m, .wform d m, .wrel m, .wclr], exec i s = .next (s.illegal i))

/-- Stores and reductions of other packages: VSTXR sends its elements in trains and completes, with REMOTE, whatever they name, those
to the own package performing at once unless a migration or a transfer of the hart holds them; FRED sends contributions and completes
on every legal operation and tag; a switch puts a contribution that it accepts into its round, and a full round is delivered to its
home; FREDWAIT completes with the status of the round of the hart's latest contribution, once that has performed. At their destination
the elements are written, and what faults comes back as records in the order of the stores (R198, R221, R222, R289, R390, R391, R429 to
R431). How trains, contributions and rounds are held and acknowledged, and which applications a notice concerns, are the model's
choice (log 45, 46). -/
def Obligations.RemoteAccesses : Prop :=
  (∀ (s t : State) (d a b : Reg) (m : BitVec 2) (v w : Vec),
    let h := t.hart
    s.issues [s.hart.ownRun d.toNat, s.hart.tagRun b.toNat] [] m.toNat t → h.readRun (h.ownRun d.toNat) = .ok v →
    h.tagged b.toNat (fun f => decide (f = .n64)) = .ok w → s.hart.feat 5 = true →
    let es := (h.chosen m.toNat h.vl).map fun k => (⟨k, w.elems.getD k 0, v.elems.getD k 0⟩ : SElem)
    let mine := trainElems v.fmt (es.filter fun e => decide (remPkg e.va = t.pkg))
    (h.storeTagOk v.fmt false false = true → (t.rx a).toNat % 16 = 0 →
      mine = [] ∨ (t.trainHeld h.who h.app (t.rx a) mine = [] ∧ t.trainInFlight (t.rx a) mine = false) →
      ∃ u, exec (.vstxr d a b m) s = .next (s.ended u (u.hart.pc + 4)) ∧
        u = { t with trains := u.trains, nextTrain := u.nextTrain, outbox := u.outbox, jobs := u.jobs, unsent := u.unsent,
                     ports := u.ports, tick := u.tick, mem := u.mem, poison := u.poison, others := u.others,
                     hart := { h with links := u.hart.links, wake := u.hart.wake, samples := u.hart.samples } } ∧
        (mine = [] → u.mem = t.mem ∧ u.poison = t.poison ∧ u.hart = h ∧ u.others = t.others) ∧
        (mine ≠ [] → t.trainWrote u h.who h.app (t.rx a) mine) ∧
        t.trains <+: u.trains ∧
        ((u.trains.drop t.trains.length).map fun x => x.elems.length).sum = es.length) ∧
    ((s.rx a).toNat ≤ 4 → t.rx a = s.rx a → fredTag (s.rx a).toNat v.fmt = true →
      ∃ u, exec (.fred d a b m) s = .next (s.ended u (u.hart.pc + 4)) ∧
        u = { t with contribs := u.contribs, nextTrain := u.nextTrain, jobs := u.jobs, unsent := u.unsent, ports := u.ports,
                     tick := u.tick } ∧
        u.contribs = t.contribs ++ es.map fun e => ({
          fred := t.nextTrain, pc := h.pc, strip := h.strip, at_ := h.retired, hart := h.id,
          app := h.app, index := e.idx, addr := BitVec.ofNat 64 e.va, op := (s.rx a).toNat, tag := v.fmt, val := e.val } : Contrib))) ∧
  (∀ (s : State) (d a : Reg), s.hart.feat 5 = true →
    (s.contributing (s.rx a) = true → exec (.fredwait d a) s = .next (s.waitsOn (.fredwait d a))) ∧
    (s.contributing (s.rx a) = false →
      (∀ r, s.rounds.find? (fun r => decide (r.num = mget 0 s.hart.fredRounds (s.rx a).toNat)) = some r →
        (r.status ≠ 0 → r.status ≠ 2 → s.yieldsX (.fredwait d a) d (BitVec.ofNat 64 r.status)) ∧
        (r.status = 0 ∨ r.status = 2 → exec (.fredwait d a) s = .next (s.waitsOn (.fredwait d a)))) ∧
      ((∀ r ∈ s.rounds, r.num ≠ mget 0 s.hart.fredRounds (s.rx a).toNat) → s.yieldsX (.fredwait d a) d 0))) ∧
  (∀ s : State, s.inp.k = s.pkg → exec .trainArrive s = .next s) ∧
  (∀ s : State, s.inp.k ≠ s.pkg →
    let w : Who := ⟨0, if s.inp.a3 = 1 then .g else .p⟩
    let i := s.inp
    (s.trainHeld w i.m i.a1 i.elems ≠ [] → exec .trainArrive s = .next (s.later .trainArrive { i with flag := true })) ∧
    (s.trainHeld w i.m i.a1 i.elems = [] →
      ∃ (u : State) (bad : List Nat), exec .trainArrive s = .next { u with
          outbox := s.outbox ++ [(.trainAck, { n := i.n, a2 := BitVec.ofNat 64 i.k, flag := true, nums := some bad })] } ∧
        u = { s with mem := u.mem, poison := u.poison, hart := { s.hart with links := u.hart.links, wake := u.hart.wake }, others := u.others } ∧
        s.trainWrote u w i.m i.a1 i.elems ∧
        (∀ e ∈ i.elems, e.index ∈ bad ↔ ∃ f ∈ i.elems, f.index = e.index ∧ s.trainAddr w i.m f = none))) ∧
  (∀ (s : State) (t : Train), s.trains.find? (fun q => decide (q.id = s.inp.n)) = some t → s.waitsToSend (.train t.id) = false →
    let bad := match s.inp.nums with
      | none => t.elems
      | some ns => t.elems.filter fun e => ns.contains e.index
    (bad = [] → exec .trainAck s = .next { s with trains := s.trains.filter fun q => decide (q.id ≠ t.id) }) ∧
    (∀ e rest, bad = e :: rest → s.hart.id = t.hart → s.hart.run ≠ .idle → (∀ g ∈ s.others, g.id ≠ t.hart) →
      exec .trainAck s = .next { s with
        trains := s.trains.filter (fun q => decide (q.id ≠ t.id)),
        hart := s.hart.addRec { pc := t.pc, addr := remAddr t.pkg e.win e.off, elem := BitVec.ofNat 16 e.index, cause := 5, kind := 3,
                                strip := t.strip, lost := 0, age := s.hart.retired - (t.at_ + 1) } })) ∧
  -- a contribution comes to its switch
  (∀ (s : State) (c : Contrib), s.inp.flag = false → s.waitsToSend (.fred s.inp.n) = false → s.inp.k ≠ 1 →
    s.contribs.filter (fun q => decide (q.fred = s.inp.n)) = [c] →
    let win := remWin c.addr.toNat
    let off := remOff c.addr.toNat
    let faults : Prop := s.hart.id = c.hart → s.hart.run ≠ .idle → (∀ g ∈ s.others, g.id ≠ c.hart) →
      exec .fredAccept s = .next { s with
        contribs := s.contribs.filter (fun q => decide (q.fred ≠ s.inp.n)),
        hart := s.hart.addRec { pc := c.pc, addr := c.addr, elem := BitVec.ofNat 16 c.index, cause := 5, kind := 3, strip := c.strip, lost := 0,
                                age := s.hart.retired - (c.at_ + 1) } }
    -- it joins round r, which is then q, of the number n
    let joins : Window → Round → Round → Prop := fun w r q =>
      ∃ u, exec .fredAccept s = .next u ∧ q ∈ u.rounds ∧ q.num = r.num ∧ q.vals = r.vals ++ [c.val] ∧ q.pkgs = r.pkgs ++ [s.pkg] ∧
        (∀ z ∈ s.rounds, z.num ≠ r.num → z ∈ u.rounds) ∧ (∀ z ∈ u.rounds, z = q ∨ z ∈ s.rounds) ∧
        (q.pkgs.length = w.npart → (Instr.fredRoundDeliver, ({ n := r.num } : Input)) ∈ u.jobs) ∧
        (∀ h, s.hartOf c.hart = some h → u.hartOf c.hart = some { h with fredRounds := mset 0 h.fredRounds c.addr.toNat r.num }) ∧
        u = { s with contribs := s.contribs.filter (fun z => decide (z.fred ≠ s.inp.n)), rounds := u.rounds, nextRound := u.nextRound,
                     jobs := u.jobs, hart := u.hart, others := u.others }
    ((s.app c.app).window win true = none → faults) ∧
    (∀ w, (s.app c.app).window win true = some w →
      (remPkg c.addr.toNat ≠ w.home ∨ off % c.tag.bytes ≠ 0 ∨ w.length < off + c.tag.bytes → faults) ∧
      (remPkg c.addr.toNat = w.home → off % c.tag.bytes = 0 → off + c.tag.bytes ≤ w.length →
        (∀ r, s.openRound c.app win off w.npart = some r →
          (s.pkg ∈ r.pkgs ∨ r.op ≠ c.op ∨ r.tag ≠ c.tag → faults) ∧
          (s.pkg ∉ r.pkgs → r.op = c.op → r.tag = c.tag →
            joins w r { r with vals := r.vals ++ [c.val], pkgs := r.pkgs ++ [s.pkg] })) ∧
        (s.openRound c.app win off w.npart = none →
          let r : Round := { num := s.nextRound, app := c.app, win := win, off := off, op := c.op, tag := c.tag, vals := [], pkgs := [], status := 0 }
          joins w r { r with vals := [c.val], pkgs := [s.pkg] })))) ∧
  (∀ (h : Hart) (r : SfrqRec), h.sfrq.length < 16 → ∃ l q, h.sfrq = l ++ q ∧ (h.addRec r).sfrq = l ++ r :: q ∧
    (∀ e ∈ l, r.age ≤ e.age) ∧ (∀ e, q.head? = some e → e.age < r.age)) ∧
  -- a full round is delivered to its home, here or in another package
  (∀ (s : State) (r : Round) (w : Window) (x : Xlat), s.inp.flag = false → s.inp.nums = none →
    s.rounds.find? (fun q => decide (q.num = s.inp.n) && decide (q.status = 0)) = some r →
    (s.app r.app).window r.win true = some w → r.pkgs.length = w.npart →
    (w.home = s.pkg → s.forStore ((s.app r.app).lookup ctlWho (w.base + r.off)) = .ok x →
      (x.closed = false →
        ∃ u, exec .fredRoundDeliver s = .next u ∧ (∀ q ∈ u.rounds, q.num = r.num → q.status = 1) ∧
          (∀ p, mget unlistedByte u.mem p = if x.addr (w.base + r.off) ≤ p ∧ p < x.addr (w.base + r.off) + r.tag.bytes
            then BitVec.ofNat 8 (r.merged / 256 ^ (p - x.addr (w.base + r.off))) else mget unlistedByte s.mem p)) ∧
      (x.closed = true → exec .fredRoundDeliver s = .next (s.later .fredRoundDeliver { n := r.num, k := 1 }))) ∧
    (w.home ≠ s.pkg → ∃ u m, exec .fredRoundDeliver s = .next u ∧
      u = { s with rounds := u.rounds, outbox := s.outbox ++ [(.fredRoundDeliver, m)] } ∧
      m.n = w.home ∧ m.a1 = remAddr w.home r.win r.off ∧ m.a2 = BitVec.ofNat 64 r.merged ∧
      (∀ q ∈ u.rounds, q.num = r.num → q.status = 2)) ∧
    (r.op = 0 → r.merged = r.vals.sum % 2 ^ r.tag.bits)) ∧
  -- a home reports that a value of this package's switch has performed
  (∀ s : State, s.inp.flag = true →
    ((∃ r ∈ s.rounds, r.num = s.inp.n ∧ r.status = 2) →
      ∃ u, exec .fredRoundDeliver s = .next u ∧ u = { s with rounds := u.rounds } ∧ ∀ q ∈ u.rounds, q.num = s.inp.n → q.status = 1) ∧
    ((∀ r ∈ s.rounds, r.num = s.inp.n → r.status ≠ 2) → exec .fredRoundDeliver s = .next s)) ∧
  -- a value of another package's switch arrives at its home
  (∀ (s : State) (tag pkg : Nat) (f : Fmt) (w : Window) (x : Xlat), s.inp.flag = false → s.inp.nums = some [tag, pkg] →
    Fmt.ofCode tag = some f → (s.app s.inp.m).window (remWin s.inp.a1.toNat) true = some w →
    let va := w.base + remOff s.inp.a1.toNat
    s.forStore ((s.app s.inp.m).lookup ctlWho va) = .ok x → x.closed = false →
    ∃ u, exec .fredRoundDeliver s = .next u ∧
      u.outbox = s.outbox ++ [(.fredRoundDeliver, { n := s.inp.n, a2 := BitVec.ofNat 64 pkg, flag := true })] ∧
      (∀ p, mget unlistedByte u.mem p = if x.addr va ≤ p ∧ p < x.addr va + f.bytes
        then BitVec.ofNat 8 (s.inp.a2.toNat / 256 ^ (p - x.addr va)) else mget unlistedByte s.mem p)) ∧
  -- a notice of a kill aborts the collectives it is about, of the application it names where the kill was here
  (∀ s : State, (∀ j c, (s.app j).colls.find? (fun c => c.matches s.inp.m s.inp.k) = some c → c.bars = []) →
    let about : Nat → Prop := fun j => j ∈ s.apps.map Prod.fst ∧ (s.inp.m = s.pkg → s.appId j = s.inp.a1.toNat)
    ∃ u, exec .peerKillNotice s = .next u ∧ u.mem = s.mem ∧ u.hart = s.hart ∧ u.others = s.others ∧
      (∀ j c, about j → (s.app j).colls.find? (fun c => c.matches s.inp.m s.inp.k) = some c → c.state = .active →
        ∀ q ∈ (u.app j).colls, q.cid = s.inp.k → q.state = .aborted) ∧
      ∀ j, ¬ about j → u.app j = s.app j)

/-! ### Services of Riura -/

/-- EXIT, TIME, LOG, TENANT, QUERY and unknown services of a control program, and its own loads, stores and faults; a hart that
calls a service of control programs gets E_PERM. The model's choice here: E_RANGE before E_NOENT, and E_NOENT before E_INVAL, in
QUERY (log 35), and a control program's load, store or AMO as one event (log 92). -/
def Obligations.RiuraServices : Prop :=
  (∀ (s : State) (k : Nat), s.ctlCalls k →
    exec .riuraTime s = .next (s.gives k (BitVec.ofNat 64 (s.clk * 10 / 11))) ∧
    exec .riuraUnknownService s = .next (s.gives k (BitVec.ofInt 64 (-2))) ∧
    (∃ u, exec .riuraExit s = .next u ∧ (u.app k).state = .exited ∧ (u.app k).exit = s.inp.a1.setWidth 32 ∧
      (u.app k).maps = [] ∧ (u.app k).launches = []) ∧
    (4096 < s.inp.a2.toNat → exec .riuraLog s = .next (s.gives k eInval)) ∧
    (∀ bs, s.inp.a2.toNat ≤ 4096 → s.readFor k ctlWho s.inp.a1.toNat s.inp.a2.toNat = some bs →
      exec .riuraLog s = .next
        ((s.setApp k { s.app k with logs := (s.app k).logs ++ [bs.map (BitVec.ofNat 8)] }).gives k 0)) ∧
    (let t := s.tenantOf (s.app k).tenant
     s.fillsBuffer .riuraTenant k s.inp.a1 72 [(s.app k).tenant, t.featmask.toNat, t.coreSh, mget 1 t.hbmSh 0, mget 1 t.hbmSh 1,
       mget 1 t.hbmSh 2, mget 1 t.hbmSh 3, t.poolA, t.poolB]) ∧
    (s.inp.a1 = 1 → s.fillsBuffer .queryDeviceShape k s.inp.a2 s.inp.a3
      [160 + 96 * 2 ^ 16 + 10 * 2 ^ 32 + 6 * 2 ^ 40 + 4 * 2 ^ 48, 7]) ∧
    (s.inp.a1 ∉ [1, 2, 3, 0x10] → exec .queryDeviceShape s = .next (s.gives k eInval)) ∧
    (s.inp.a1 = 2 → s.fillsBuffer .queryWeightStore k s.inp.a2 s.inp.a3 [(s.app k).wsWin, mget 0 (s.app k).wsSize 0,
      mget 0 (s.app k).wsSize 1, mget 0 (s.app k).wsSize 2, mget 0 (s.app k).wsSize 3]) ∧
    (s.inp.a1 = 3 → s.inp.a3.toNat < 16 → exec .queryAddress s = .next (s.gives k eRange)) ∧
    (∀ va, s.inp.a1 = 3 → 16 ≤ s.inp.a3.toNat → s.readWordFor k ctlWho s.inp.a2.toNat = some va →
      ((s.app k).lookup ctlWho va = none → exec .queryAddress s = .next (s.gives k eNoent)) ∧
      (∀ x, (s.app k).lookup ctlWho va = some x →
        s.fillsBuffer .queryAddress k s.inp.a2 s.inp.a3 [x.attr.toNat, placeWordOf (s.app k) ctlWho x va])) ∧
    (s.inp.a1 = 0x10 → s.fillsBuffer .queryKvwin k s.inp.a2 s.inp.a3 [(s.app k).kvwin]) ∧
    ((s.app k).lookup ctlWho s.inp.n = none → 1 ≤ s.inp.k →
      ∃ u, exec .controlProgramFault s = .next u ∧ (u.app k).state = .exited ∧ (u.app k).exit = 0xFFFFFFFF) ∧
    (∀ bs, s.inp.m = 0 → s.inp.flag = false → s.ctlFaults k s.inp.n s.inp.k true false = false →
      s.readFor k ctlWho s.inp.n s.inp.k = some bs →
      exec .controlProgramFault s = .next (s.setApp k { s.app k with ctlRead := BitVec.ofNat 64 (leNat bs) })) ∧
    (s.inp.m = 0 → s.inp.flag = true → s.ctlFaults k s.inp.n s.inp.k false true = false →
      (s.ctlClosed k s.inp.n s.inp.k = false → ∃ u, exec .controlProgramFault s = .next u ∧ (u.app k).pend = none ∧
        u.poison = s.poison ∧ u.mem = (s.writeFor k ctlWho s.inp.n ((List.range s.inp.k).map fun j => s.inp.a1.toNat / 256 ^ j % 256)).mem) ∧
      (s.ctlClosed k s.inp.n s.inp.k = true → ∃ u bs, exec .controlProgramFault s = .next u ∧ u.mem = s.mem ∧
        (u.app k).pend = some ⟨.store s.inp.n bs, none⟩)) ∧
    exec .riuraCrewexit s = .next (s.gives k ePerm)) ∧
  (∀ (s : State) (h : Hart), s.hartCalls h →
    let returns : Word → State := fun r => s.later .ecallReturn { n := h.id, a1 := r }
    exec .riuraTime s = .next (returns (BitVec.ofNat 64 (s.clk * 10 / 11))) ∧
    exec .riuraUnknownService s = .next (returns eNosys) ∧
    ∀ i ∈ [Instr.riuraExit, .riuraLaunch, .riuraWait, .riuraCancel, .riuraMap, .riuraUnmap, .riuraProtect, .riuraMigrate,
      .riuraKvalloc, .riuraKvfree, .hostmsgSend, .hostmsgRecv, .riuraWsload, .riuraTenant, .collectiveCreate],
      exec i s = .next (returns ePerm))

/-- CREWEXIT ends the crew of the hart that calls it and counts its work unit, as failed where the status is not 0, once the
crew's transfers have retired and its remote stores performed (R74, R79, R80); WSLOAD fills the shares of the weight stores it
names when it returns (R174). That the transfers retire at CREWEXIT, and E_INVAL before E_BUSY in WSLOAD, are the model's choice
(log 36). -/
def Obligations.CrewExitAndWeights : Prop :=
  (∀ (s : State) (h : Hart) (c : Crew) (l : Launch), s.hartCalls h → s.crewOf h.crewid.toNat = some c →
    (s.app c.app).launch c.lid = some l → (∀ t ∈ s.transfers, ∀ g ∈ s.harts, g.crewid = h.crewid → g.id ≠ t.hart) →
    s.crewBusy h.crewid.toNat = false → (s.nextCrew + Config.crewIdBase.toNat) % 2 ^ 32 ≠ c.id →
    ∃ u l', exec .riuraCrewexit s = .next u ∧ (∀ g ∈ u.harts, g.crewid ≠ h.crewid) ∧ (∀ k ∈ u.crews, k.id ≠ c.id) ∧
      (u.app c.app).launch c.lid = some l' ∧ l'.done = l.done + 1 ∧
      l'.nfail = if s.inp.a1.toNat % 2 ^ 32 = 0 then l.nfail else l.nfail + 1) ∧
  (∀ (s : State) (h : Hart) (t : Nat) (ts : List Nat), s.hartCalls h → s.crewTransfers h.crewid.toNat = t :: ts →
    exec .riuraCrewexit s = .next { s with events := (.transferRetire, { n := t }) :: (.riuraCrewexit, s.inp) :: s.events }) ∧
  (∀ (s : State) (h : Hart), s.hartCalls h → s.crewTransfers h.crewid.toNat = [] → s.crewBusy h.crewid.toNat = true →
    exec .riuraCrewexit s = .next ((s.haltCrew h.crewid.toNat).later .riuraCrewexit s.inp)) ∧
  (∀ (s : State) (k : Nat), s.ctlCalls k →
    let bytes := s.wsBytes k s.inp.a1.toNat s.inp.a3.toNat
    let live := (s.app k).launches.any fun l => l.ended.isNone
    (s.wsOk k = false → exec .riuraWsload s = .next (s.gives k eInval)) ∧
    (s.wsOk k = true → live = true → exec .riuraWsload s = .next (s.gives k eBusy)) ∧
    (s.wsOk k = true → live = false → bytes = none → exec .riuraWsload s = .next (s.gives k eInval)) ∧
    (s.wsOk k = true → live = false → bytes ≠ none → exec .riuraWsload s = .next
      ((s.setApp k { s.app k with pend := some ⟨.wsload, none⟩ }).later .wsloadReturn s.inp))) ∧
  (∀ (s : State) (k d : Nat) (vs : List Nat), s.inp.caller = .ctl k → (s.app k).pend = some ⟨.wsload, none⟩ → d < 4 →
    s.inp.a4 = BitVec.ofNat 64 (2 ^ d) → s.wsBytes k s.inp.a1.toNat s.inp.a3.toNat = some (vs.map some) →
    let base := weightBase d + mget 0 (s.app k).wsOff d + s.inp.a2.toNat
    ∃ u, exec .wsloadReturn s = .next u ∧ (u.app k).ctlA0 = 0 ∧ (u.app k).pend = none ∧
      ∀ p, mget unlistedByte u.mem p =
        if base ≤ p ∧ p < base + vs.length then BitVec.ofNat 8 (vs.getD (p - base) 0) else mget unlistedByte s.mem p)

/-- Messages between a control program and the host (R50 to R53, R57): a SEND puts its message into the next slot and raises
the channel's vector, a RECV takes the next message, either waits for a slot within its time limit; and the time limits of
every waiting call (R60, R81). That a WAIT whose limit comes after its launch has ended answers the word is the model's choice
(log 37). -/
def Obligations.HostMessages : Prop :=
  ∀ (s : State) (k : Nat) (bs : List Nat) (buf len : Word),
    let m := s.nextSlot k true
    let q := s.nextSlot k false
    let n := slotLen (s.slotHdr k false q)
    let sends : Instr → Prop := fun i =>
      len.toNat ≤ 2032 → s.readFor k ctlWho buf.toNat (8 + len.toNat) = some bs → s.slotHdr k true m % 256 ≠ 1 →
      ∃ u, exec i s = .next u ∧ u.msix = s.msix ++ [1 + k] ∧ (u.app k).ctlA0 = len ∧ (u.app k).pend = none ∧
        u.nextSlot k true = (m + 1) % 64 ∧ u.slotHdr k true m % 256 = 1 ∧ slotLen (u.slotHdr k true m) = len.toNat ∧
        (∀ j < 8 + len.toNat, u.slotByte k true m (8 + j) = bs.getD j 0 % 256) ∧
        u = { s with chan := u.chan, d2hNext := u.d2hNext, msix := u.msix, apps := u.apps }
    let receives : Instr → Prop := fun i =>
      s.slotHdr k false q % 256 = 1 → n ≤ 2032 → 8 + n ≤ len.toNat → s.bufOk k ctlWho buf.toNat (8 + n) = true →
      ∃ u, exec i s = .next u ∧ (u.app k).ctlA0 = BitVec.ofNat 64 n ∧ (u.app k).pend = none ∧
        u.nextSlot k false = (q + 1) % 64 ∧ u.slotHdr k false q % 256 = 0 ∧ u.msix = s.msix ∧
        u.mem = (s.writeFor k ctlWho buf.toNat ((List.range (8 + n)).map fun j => s.slotByte k false q (8 + j))).mem
    let waits : Instr → PendKind → Prop := fun i p =>
      (s.inp.a4 = 0 → exec i s = .next (s.gives k eAgain)) ∧
      (s.inp.a4 ≠ 0 → exec i s = .next (s.setApp k { s.app k with
        pend := some ⟨p, if s.inp.a4 = forever then none else some (s.clk + s.inp.a4.toNat * 1100)⟩ }))
    (s.ctlCalls k → s.inp.a1 = 0 → s.inp.a2 = buf → s.inp.a3 = len →
      sends .hostmsgSend ∧ (2032 < len.toNat → exec .hostmsgSend s = .next (s.gives k eInval)) ∧
      (len.toNat ≤ 2032 → s.readFor k ctlWho buf.toNat (8 + len.toNat) = none → exec .hostmsgSend s = .next (s.gives k eInval)) ∧
      (len.toNat ≤ 2032 → s.readFor k ctlWho buf.toNat (8 + len.toNat) = some bs → s.slotHdr k true m % 256 = 1 →
        waits .hostmsgSend (.send buf len))) ∧
    (s.ctlCalls k → s.inp.a1 = 1 → s.inp.a2 = buf → s.inp.a3 = len →
      receives .hostmsgRecv ∧ (s.slotHdr k false q % 256 ≠ 1 → waits .hostmsgRecv (.recv buf len))) ∧
    (∀ l, s.inp.n % 64 = k → (s.app k).pend = some ⟨.recv buf len, l⟩ → receives .h2dMessage) ∧
    (s.inp.n % 64 = k → (s.app k).pend = none → (s.slotHdr k false q % 256 = 1 → n ≤ 2032) → exec .h2dMessage s = .next s) ∧
    (s.inp.n % 64 = k → (s.app k).pend = none →
      exec .d2hSlotRelease s = .next (s.setSlotState k true (s.inp.m % 64) 0)) ∧
    (∀ l, s.inp.n % 64 = k → (s.app k).pend = some ⟨.send buf len, l⟩ → len.toNat ≤ 2032 →
      s.readFor k ctlWho buf.toNat (8 + len.toNat) = some bs → (s.setSlotState k true (s.inp.m % 64) 0).slotHdr k true m % 256 ≠ 1 →
      ∃ u, exec .d2hSlotRelease s = .next u ∧ (u.app k).ctlA0 = len ∧ (u.app k).pend = none ∧ u.msix = s.msix ++ [1 + k] ∧
        u.slotHdr k true m % 256 = 1) ∧
    (∀ (p : PendKind) (d lid : Nat), s.inp.caller = .ctl k → (s.app k).pend = some ⟨p, some d⟩ →
      (d ≤ s.clk → p = .send buf len ∨ p = .recv buf len → exec .hostmsgTimeout s = .next (s.gives k eTimeout)) ∧
      (d ≤ s.clk → p = .wait lid →
        exec .riuraWaitTimeout s = .next (s.gives k ((((s.app k).launch lid).bind Launch.ended).getD eTimeout))) ∧
      (d ≤ s.clk → p = .collective lid →
        ((s.app k).coll lid = none → exec .collectiveWaitTimeout s = .next (s.gives k eTimeout)) ∧
        ∀ c, (s.app k).coll lid = some c → exec .collectiveWaitTimeout s = .next (s.gives k (match c.state with
          | .done => 1
          | .aborted => 5
          | .active => eTimeout))) ∧
      (s.clk < d → exec .hostmsgTimeout s = .next s ∧ exec .riuraWaitTimeout s = .next s ∧ exec .collectiveWaitTimeout s = .next s))

/-- MAP gives every page of a free range frames that no other mapping holds, reading zero, under the attributes asked for
(R29, R140, R183, R185), at the address asked for or, for a1 = 0, at a free one of Riura's; it does so wherever the tier has a
free region as long, and answers E_NOMEM only where it has none. UNMAP and PROTECT change their range and nothing else: what UNMAP
takes away reads zero at once where no translation sample holds it, and every other byte stays; what R183 to R185 refuse is
E_INVAL. The model's choice here: the order of MAP's checks (log 31), PROTECT and UNMAP over the windows (log 33), the erasing at
once of a frame that no sample holds (log 51). -/
def Obligations.MemoryMapping : Prop :=
  ∀ (s : State) (k : Nat), s.ctlCalls k →
    let va := s.inp.a1.toNat
    let len := s.inp.a2.toNat
    let ms := (s.app k).maps
    -- the pages from v on are mapped as asked, to frames of nobody else's that read zero
    let maps : State → Nat → Prop := fun u v => (u.app k).ctlA0 = BitVec.ofNat 64 v ∧ ∀ a, v ≤ a → a < v + len →
      ∃ m, findMap (u.app k).maps a = some m ∧ m.attr = s.inp.a4 ∧ m.migr = none ∧
        (attrEnc s.inp.a4 = 0 → ∀ p, m.pa ≤ p → p < m.pa + m.pages * 4096 → mget unlistedByte u.mem p = unlistedByte) ∧
        (∀ f, attrEnc s.inp.a4 = 1 → Fmt.ofCode (attrFmt s.inp.a4) = some f → s.locked = false → s.zeroised = false →
          ∀ i < m.pages * 4096 / slotBytes f, u.segAt f (m.pa + i * slotBytes f) = .ok ⟨.runs, 1, 0, List.replicate 256 0⟩) ∧
        ∀ j, ∀ q ∈ (s.app j).maps, m.pa + m.pages * 4096 ≤ q.pa ∨ q.pa + q.pages * 4096 ≤ m.pa
    (∀ (lo size most : Nat) (kind : MemKind), s.tierRange s.inp.a3.toNat = some (lo, size, kind, most) → va % 4096 = 0 →
      len % 4096 = 0 → len ≠ 0 → attrOk s.inp.a4 = true → (s.inp.a3 = 1 → s.masked k 9 = false) →
      (va ≠ 0 → rangeOk va len = true → meetsUsed (s.app k).usedVa va len = false →
        ∃ u, exec .riuraMap s = .next u ∧
          (maps u va ∨ (¬ s.hasFrames lo size (2 ^ pageLogOf most [va, len]) len ∧ u = s.gives k eNomem))) ∧
      (va = 0 → ∃ u, exec .riuraMap s = .next u ∧
        ((∃ v, 2 ^ 21 ≤ v ∧ v + len ≤ 2 ^ 56 ∧ v % 2 ^ fitLog most len = 0 ∧ meetsUsed (s.app k).usedVa v len = false ∧ maps u v) ∨
          (¬ (s.hasFrames lo size (2 ^ fitLog most len) len ∧ (s.app k).hasRange (2 ^ fitLog most len) len) ∧
            u = s.gives k eNomem)))) ∧
    (s.tierRange s.inp.a3.toNat = none ∨ va % 4096 ≠ 0 ∨ len % 4096 ≠ 0 ∨ len = 0 ∨ attrOk s.inp.a4 = false ∨
      (va ≠ 0 ∧ (rangeOk va len = false ∨ meetsUsed (s.app k).usedVa va len = true)) →
      exec .riuraMap s = .next (s.gives k eInval)) ∧
    ((∀ m ∈ ms, m.va % 4096 = 0) → va % 4096 = 0 → len % 4096 = 0 → len ≠ 0 → partRange ms va (va + len) = none →
      (∃ u, exec .riuraUnmap s = .next u ∧ (u.app k).ctlA0 = 0 ∧
        u = { s with apps := u.apps, mem := u.mem, poison := u.poison, segHdr := u.segHdr, hdrPoison := u.hdrPoison,
                     leaving := u.leaving } ∧
        (∀ a, va ≤ a → a < va + len → findMap (u.app k).maps a = none) ∧
        (∀ m ∈ ms, ∀ a, va ≤ a → a < va + len → m.va ≤ a → a < m.top → s.isSampled m.pa (m.pages * 4096) = false →
          mget unlistedByte u.mem (m.pa + (a - m.va)) = unlistedByte) ∧
        (∀ p, (∀ m ∈ ms, ∀ a, va ≤ a → a < va + len → m.va ≤ a → a < m.top → p ≠ m.pa + (a - m.va)) →
          mget unlistedByte u.mem p = mget unlistedByte s.mem p) ∧
        (∀ a, a < va ∨ va + len ≤ a → (findMap (u.app k).maps a).map (fun m => (m.pa + (a - m.va), m.attr)) =
          (findMap ms a).map fun m => (m.pa + (a - m.va), m.attr))) ∧
      (s.inp.a3.toNat ≤ 7 → permOk s.inp.a3.toNat = true → firstHole ms va (len / 4096) = none →
        ∃ u, exec .riuraProtect s = .next u ∧ u = { s with apps := u.apps } ∧ (u.app k).ctlA0 = 0 ∧
          ∀ a, (findMap (u.app k).maps a).map (fun m => (m.pa + (a - m.va), m.attr)) =
            (findMap ms a).map fun m => (m.pa + (a - m.va),
              if va ≤ a ∧ a < va + len then setPerms m.attr s.inp.a3.toNat else m.attr))) ∧
    (va % 4096 ≠ 0 ∨ len % 4096 ≠ 0 ∨ len = 0 ∨ partRange ms va (va + len) ≠ none →
      exec .riuraUnmap s = .next (s.gives k eInval) ∧ exec .riuraProtect s = .next (s.gives k eInval)) ∧
    (7 < s.inp.a3.toNat ∨ permOk s.inp.a3.toNat = false ∨ firstHole ms va (len / 4096) ≠ none →
      exec .riuraProtect s = .next (s.gives k eInval))

/-- MIGRATE and its copies: a region moves to the tier asked for with its contents, or stays with the failure told (R186, R187):
to a waiting caller, else in the error log; KVALLOC hands out FREE pages alone, in a list at the address it answers, wherever the
window, every die's memory and the address space have the room; KVFREE frees the listed ones (R269). The model's choice here: the
answer 0 to a MIGRATE of no page or of holes alone (log 32), and E_INVAL for one whose range is not of whole pages, which no rule
names (log 93). -/
def Obligations.MigrationAndKv : Prop :=
  (∀ (s : State) (k : Nat), s.ctlCalls k →
    let lo := s.inp.a1.toNat
    let hi := lo + s.inp.a2.toNat
    let f := s.inp.a4
    (lo % 4096 = 0 → s.inp.a2.toNat % 4096 = 0 → f.toNat / 4 = 0 → f.getLsbD 1 = false → s.tierRange s.inp.a3.toNat ≠ none →
      (s.inp.a3 = 1 → s.masked k 9 = false) →
      ((s.app k).nextToMove lo hi (s.tierCode s.inp.a3.toNat) false = none →
        ∃ u, exec .riuraMigrate s = .next u ∧ (u.app k).ctlA0 = 0 ∧ (u.app k).pend = none ∧ (u.app k).maps = (s.app k).maps ∧
          u.mem = s.mem) ∧
      (∀ m, (s.app k).nextToMove lo hi (s.tierCode s.inp.a3.toNat) false = some m →
        ∃ u job, exec .riuraMigrate s = .next u ∧ (Instr.migrationCopyDone, job) ∈ u.jobs ∧ u.mem = s.mem ∧
          (if f.getLsbD 0 then (u.app k).pend = some ⟨.migrate, none⟩ else (u.app k).ctlA0 = 0))) ∧
    (lo % 4096 ≠ 0 ∨ s.inp.a2.toNat % 4096 ≠ 0 ∨ s.tierRange s.inp.a3.toNat = none →
      exec .riuraMigrate s = .next (s.gives k eInval))) ∧
  (∀ (s : State) (m : Mapping), s.memOk → s.copying = [m] → s.inp.a4.getLsbD 1 = false → 0 < m.pages →
    (∀ q ∈ (s.app s.inp.m).maps, s.inp.n < q.top → s.inp.a2.toNat ≤ q.va) →
    (∀ r ∈ s.leaving, r.pa + r.len ≤ m.pa ∨ m.pa + m.pages * 4096 ≤ r.pa) →
    (s.inp.flag = false → s.copied ≠ none →
      ∃ u, ∃ q ∈ (u.app s.inp.m).maps, exec .migrationCopyDone s = .next u ∧ q.va = m.va ∧ q.pages = m.pages ∧ q.attr = m.attr ∧
        q.migr = none ∧ (s.inp.a3.toNat ≠ 0 → q.inTier s.inp.a3.toNat = true) ∧
        ∀ i < m.pages * 4096, mget unlistedByte u.mem (q.pa + i) = mget unlistedByte s.mem (m.pa + i)) ∧
    (s.inp.flag = false → s.copied = none →
      exec .migrationCopyDone s = .next { s with events := (.migrationCopyFail, { s.inp with flag := true }) :: s.events }) ∧
    (s.copied = none ∨ s.inp.flag = true →
      ∃ u, exec .migrationCopyFail s = .next u ∧ u.mem = s.mem ∧
        (u.app s.inp.m).maps = (s.app s.inp.m).maps.map (fun q => if q = m then { q with migr := none } else q) ∧
        (s.inp.a4.getLsbD 0 = true → (s.app s.inp.m).pend = some ⟨.migrate, none⟩ →
          (u.app s.inp.m).ctlA0 = eAgain ∧ (u.app s.inp.m).pend = none) ∧
        (s.inp.a4.getLsbD 0 = false → (u.app s.inp.m).errlog.length = (s.app s.inp.m).errlog.length + 1))) ∧
  (∀ (s : State) (k : Nat), s.ctlCalls k →
    let kv := (s.app k).kv
    (s.inp.a2 ≠ 1 → s.inp.a2 ≠ 2 → exec .riuraKvalloc s = .next (s.gives k eInval)) ∧
    (s.inp.a2 = 1 ∨ s.inp.a2 = 2 → ∃ u, exec .riuraKvalloc s = .next u ∧
      -- n pages and their list have room: in the window, on every die however the earlier frames lie, and among the addresses
      let n := s.inp.a1.toNat
      let room : Prop := n + kv.length ≤ 2 ^ 20 ∧ (s.app k).hasRange 4096 (roundUp (8 + 4 * n) 4096) ∧
        ∀ d < 4, s.hasFrames (hbmBase d) (hbmSize d) 65536 ((n + 1) * roundUp (8 + 4 * n) 65536)
      ((¬ room ∧ u = s.gives k eNomem) ∨
        ∃ ps : List Nat, ps.length = n ∧ ps.Nodup ∧
          (∀ p ∈ ps, p < 2 ^ 20 ∧ (mget {} kv p).owner = 0 ∧ (mget {} (u.app k).kv p).owner.toNat = s.inp.a2.toNat) ∧
          (∀ p, p ∉ ps → mget {} (u.app k).kv p = mget {} kv p) ∧
          ∃ m ∈ (u.app k).maps, (u.app k).ctlA0 = BitVec.ofNat 64 m.va ∧ m.attr = attrOf 0x3F true false false ∧
            readLE u.mem m.pa 8 = n ∧ ∀ i < n, readLE u.mem (m.pa + 8 + 4 * i) 4 = ps.getD i 0)) ∧
    (∀ ps, s.readWordFor k ctlWho s.inp.a1.toNat = some s.inp.a2.toNat → s.inp.a2.toNat ≤ 2 ^ 20 →
      s.kvEntries k s.inp.a1.toNat s.inp.a2.toNat = some ps → ps.Nodup → (∀ p ∈ ps, p < 2 ^ 20 ∧ (mget {} kv p).owner ≠ 0) →
      ∃ u, exec .riuraKvfree s = .next u ∧ (u.app k).ctlA0 = 0 ∧
        u = { s with apps := u.apps, mem := u.mem, poison := u.poison, segHdr := u.segHdr, hdrPoison := u.hdrPoison,
                     leaving := u.leaving } ∧
        (∀ p, mget {} (u.app k).kv p = if p ∈ ps then {} else mget {} kv p) ∧
        ∀ a, (∀ p ∈ ps, a < (mget {} kv p).pa ∨ (mget {} kv p).pa + 65536 ≤ a) →
          mget unlistedByte u.mem a = mget unlistedByte s.mem a) ∧
    (∀ n, s.readWordFor k ctlWho s.inp.a1.toNat = some n → n ≠ s.inp.a2.toNat →
      exec .riuraKvfree s = .next (s.gives k eInval)))

/-! ### Launches and the scheduler -/

/-- LAUNCH, WAIT and CANCEL (R75 to R82): an accepted launch takes the next ID, one of no work units ends at once; WAIT
answers the completion word of a launch that has ended, and waits for another within its limit; CANCEL places no more. -/
def Obligations.Launches : Prop :=
  (∀ (s : State) (k : Nat) (bs : List Nat), s.ctlCalls k →
    (s.inp.a1.toNat % 8 ≠ 0 → exec .riuraLaunch s = .next (s.gives k eInval)) ∧
    (s.inp.a1.toNat % 8 = 0 → s.readFor k ctlWho s.inp.a1.toNat 128 = none → exec .riuraLaunch s = .next (s.gives k eInval)) ∧
    (s.inp.a1.toNat % 8 = 0 → s.readFor k ctlWho s.inp.a1.toNat 128 = some bs →
      (∀ e, s.checkLaunch k (wordsOf bs) = .error e → exec .riuraLaunch s = .next (s.gives k e)) ∧
      (∀ l, s.checkLaunch k (wordsOf bs) = .ok l → (∀ x ∈ (s.app k).launches, x.lid < (s.app k).nextLid) →
        ∃ u, exec .riuraLaunch s = .next u ∧ (u.app k).ctlA0 = BitVec.ofNat 64 (s.app k).nextLid ∧
          (u.app k).nextLid = (s.app k).nextLid + 1 ∧ u.nextAccept = s.nextAccept + 1 ∧ l.accept = s.nextAccept ∧
          (u.app k).launch (s.app k).nextLid =
            some { l with ended := if l.units = 0 then some (BitVec.ofNat 64 (2 + 0xFFFFFF * 2 ^ 32)) else none }))) ∧
  (∀ (s : State) (k : Nat) (ws : List Nat),
    let tenant := ws.getD 2 0 / 2 ^ 24 % 256
    (blockReserved ws = false → s.checkLaunch k ws = .error eInval) ∧
    (blockReserved ws = true → 2 ^ 24 ≤ ws.getD 1 0 % 2 ^ 32 → s.checkLaunch k ws = .error eRange) ∧
    (blockReserved ws = true → ws.getD 1 0 % 2 ^ 32 < 2 ^ 24 → tenant < 64 → tenant ≠ (s.app k).tenant →
      s.checkLaunch k ws = .error ePerm)) ∧
  (∀ (s : State) (k : Nat), s.ctlCalls k →
    ((s.app k).retained s.inp.a1 = none →
      exec .riuraWait s = .next (s.gives k eNoent) ∧ exec .riuraCancel s = .next (s.gives k eNoent)) ∧
    (∀ l, (s.app k).retained s.inp.a1 = some l →
      (∀ w, l.ended = some w → exec .riuraWait s = .next (s.gives k w) ∧ exec .riuraCancel s = .next (s.gives k 0)) ∧
      (l.ended = none → (s.inp.a2 = 0 → exec .riuraWait s = .next (s.gives k eAgain)) ∧
        (s.inp.a2 ≠ 0 → exec .riuraWait s = .next (s.setApp k { s.app k with
          pend := some ⟨.wait l.lid, if s.inp.a2 = forever then none else some (s.clk + s.inp.a2.toNat * 1100)⟩ }))) ∧
      (l.ended = none → l.limit ≤ l.issued → exec .riuraCancel s = .next (s.gives k 0)) ∧
      (l.ended = none → l.issued < l.limit →
        ∃ u l', exec .riuraCancel s = .next u ∧ (u.app k).ctlA0 = 0 ∧ (u.app k).launch l.lid = some l' ∧ l'.cancelled = true ∧
          l'.limit = l.issued ∧ l'.issued = l.issued ∧ l'.done = l.done ∧ (l.done < l.issued → l'.ended = none)))) ∧
  (∀ (s : State) (k lid : Nat) (dl : Option Nat) (l : Launch) (w : Word), s.inp.caller = .ctl k →
    (s.app k).pend = some ⟨.wait lid, dl⟩ → (s.app k).launch lid = some l → l.ended = some w →
    exec .riuraWait s = .next (s.gives k w))

/-- The scheduler acts as R84 names: a crew placed begins as R88 says and leaves every other hart as it was; one resumed keeps
its registers; the harts displaced get a request, and the placement is kept for their launch (R91). A hart swapped out keeps its
registers and loses its links, samples and prefetched elements (R284); while the spill of another context still occupies the
shadow bank that it leaves or is filled into, that spill ends first (R283). A lease fill copies the preload plane, the
instruction lines and the constant block (R90). shdb stops an application's crews, and a crew released goes on (R434). The model's
choice here: a unit whose thread blocks find no memory is not placed (log 47), the kept placement (log 48), the length copied of
a constant block (log 91), the save area that a context takes (log 24), and what shdb may do to a running application (log 52). -/
def Obligations.Scheduling : Prop :=
  (∀ (s : State) (app lid : Nat) (sl : List (Nat × Nat × Nat)) (l : Launch), s.pick = some (.place app lid sl) →
    (s.app app).launch lid = some l →
    ∃ u, exec .schedulerPlaceCrew s = .next u ∧
      (∀ g ∈ s.harts, g ∈ u.harts) ∧
      (∀ g ∈ u.harts, g ∈ s.harts ∨ (g.run = .running ∧ g.pc = BitVec.ofNat 64 ((s.app app).text + l.kernel.entry) ∧ g.vl = 0 ∧
        g.wb = 0 ∧ g.v = [] ∧ g.p = [] ∧ g.tiles = [] ∧ g.tvec = 0 ∧ g.rx 16 = l.args ∧ g.rx 17 = constBlock (s.app app) l ∧
        g.unitid = BitVec.ofNat 24 l.issued ∧ g.launchid = BitVec.ofNat 32 l.lid)) ∧
      -- its thread blocks have room, on every die and among the addresses, however the first of them lie
      let block := roundUp (64 + l.stack * 1024) 4096
      let room : Prop := (s.app app).hasRange 4096 (2 * sl.length * block) ∧
        ∀ d < 4, s.hasFrames (hbmBase d) (hbmSize d) 4096 (2 * sl.length * block)
      ((¬ room ∧ u = s) ∨ ∃ c, u.crews = s.crews ++ [c] ∧ c.app = app ∧ c.lid = lid ∧ c.unit = l.issued ∧
        c.suspended = false ∧ c.share = if l.kernel.feats.getLsbD 6 then some ({} : Share) else none)) ∧
  (∀ (s : State) (c : Nat) (sl : List (Nat × Nat × Nat)), s.pick = some (.resume c sl) →
    ∃ u, exec .crewResume s = .next u ∧ (∀ k ∈ u.crews, k.id = c → k.suspended = false) ∧
      ∀ g ∈ u.harts, ∃ h ∈ s.harts, g.id = h.id ∧ g.x = h.x ∧ g.v = h.v ∧ g.p = h.p ∧ g.pc = h.pc ∧ g.vl = h.vl ∧
        g.vlgrant = h.vlgrant) ∧
  (∀ (s : State) (app lid : Nat) (d : Displace), s.pick = some (.preempt app lid d) →
    ∃ u, exec .schedulerPreempt s = .next u ∧
      (∀ g ∈ u.harts, g.run.resident = true → g.crewid.toNat ∈ d.crews → g.swapReq = true) ∧
      u = { s with hart := { s.hart with swapReq := u.hart.swapReq }, others := u.others, reserves :=
        (s.keepSlots ⟨app, lid, (((s.app app).launch lid).map Launch.prio).getD 0, d.slots⟩).reserves }) ∧
  (∀ s : State, s.pick = none →
    exec .schedulerPlaceCrew s = .next s ∧ exec .crewResume s = .next s ∧ exec .schedulerPreempt s = .next s) ∧
  (∀ (s : State) (h : Hart), s.hartOf s.inp.n = some h →
    (h.swapReq = true → h.run.resident = true → h.run ≠ .filling → s.storesOut h.id = false →
      (∀ t ∈ s.transfers, t.onRegs h.id = false) →
      (∀ g, s.bankSpill h = some g → exec .hartSwap s = .next (s.postFront .spillDone { n := g })) ∧
      (s.bankSpill h = none → (∃ g ∈ s.crewHarts h.crewid.toNat, g.id ≠ h.id ∧ g.run.resident = true) →
        ∃ u, exec .hartSwap s = .next u ∧ u.hartOf s.inp.n = some { h with
          run := .suspended, swapReq := false, spilled := false, wait := if h.parked then h.wait else none, links := [],
          samples := [], drain := false, bank := some (h.core, h.slice), out := none,
          streams := h.streams.map fun q => (q.1, q.2.map fun x => { x with pre := [] }), saveAt := s.freeArea h.core }) ∧
      -- the last of its crew: what the scheduler then does may resume it at once
      (s.bankSpill h = none → s.inp.n < s.nextHart → ∃ u g, exec .hartSwap s = .next u ∧ u.hartOf s.inp.n = some g ∧
        g.x = h.x ∧ g.v = h.v ∧ g.p = h.p ∧ g.pc = h.pc ∧ g.swapReq = false ∧ g.spilled = false ∧ g.links = [] ∧ g.samples = [] ∧
        g.streams = h.streams.map fun q => (q.1, q.2.map fun x => { x with pre := [] }))) ∧
    (h.run = .suspended → h.spilled = false →
      ∃ u, exec .spillDone s = .next u ∧ (u.hartOf s.inp.n).map (fun g => (g.spilled, g.bank)) = some (true, none)) ∧
    (∀ g, h.run = .filling → h.spilled = true → s.bankSpill h = some g →
      exec .contextFillDone s = .next ((s.later .contextFillDone { n := s.inp.n }).postFront .spillDone { n := g })) ∧
    (h.run = .filling → h.spilled = true → s.bankSpill h = none →
      ∃ u g, exec .contextFillDone s = .next u ∧ u.hartOf s.inp.n = some g ∧ g.run = (if h.ended then .exited else .running) ∧
        g.saveAt = none ∧ g.x = h.x ∧ g.v = h.v ∧ g.pc = h.pc) ∧
    (h.run = .filling → h.spilled = false →
      exec .contextFillDone s = .next (s.later .contextFillDone { n := s.inp.n }))) ∧
  (∀ s : State, (s.lease s.inp.n).st = .filling →
    let row := s.lease s.inp.n
    exec .leaseFillDone s = .next (s.fillLease s.inp.n).kick ∧
    ∀ l, (s.app row.app).launch row.lid = some l →
      (s.fillLease s.inp.n).lease s.inp.n = { row with
        st := .ready, plane := (s.preload row.app s.inp.n l).1, code := codeLines (s.app row.app) l,
        const := s.constBytes row.app s.inp.n l }) ∧
  (∀ (s : State) (r : SfrqRec) (rs : List SfrqRec), s.hart.id = s.inp.n → s.hart.run = .running → s.hart.sfrq = r :: rs →
    64 ≤ r.age → s.hart.hact = false →
    exec .storependSkidLimit s = .next (s.takeTrap .storepend r.addr r.elem.toNat)) ∧
  (∀ (s : State) (c : Crew), s.crewOf s.inp.n = some c → c.debugHeld = true →
    ∃ u, exec .debuggerRelease s = .next u ∧ (∀ g ∈ u.harts, g.crewid.toNat = c.id → g.stopped = false ∧ g.passBreak = true) ∧
      (∀ q ∈ u.crews, q.id = c.id → q.debugHeld = false) ∧
      u = { s with hart := { s.hart with stopped := u.hart.stopped, passBreak := u.hart.passBreak }, others := u.others,
                   crews := u.crews }) ∧
  (∀ s : State, s.inp.n < 64 → (s.app s.inp.n).state = .running →
    let t := (s.setApp s.inp.n { s.app s.inp.n with
      shdb := s.inp.flag, confine := if s.inp.flag then s.inp.nums else none,
      breaks := if s.inp.flag then s.inp.breaks else [] }).kick
    (s.inp.flag = false ∨ s.inp.k ≠ 1 → exec .confinementSet s = .next t) ∧
    (s.inp.flag = true → s.inp.k = 1 → ∃ u, exec .confinementSet s = .next u ∧
      (∀ g ∈ u.harts, g.app = s.inp.n → g.stopped = true) ∧ (∀ q ∈ u.crews, q.app = s.inp.n → q.debugHeld = true) ∧
      u = { t with hart := { t.hart with stopped := u.hart.stopped }, others := u.others, crews := u.crews }))

/-! ### The host's side -/

/-- A write to the command register starts a command, E_BUSY where the device is not READY, and is ignored while one is under way;
and each command's end (R45): APPLOAD (R46 to R48), APPKILL and APPSTAT (R49), POWERCAP (R15), TENANTSET (R47), and the reserved
codes. What a read of BAR0 returns: status, application map, command block; zero at what the table of R42 does not list (R42,
R43). The model's choice here: TENANTSET of a tenant above 63 and of one whose application has not been read (log 39), a command's
event without GO (log 5), the order of APPLOAD's checks (log 27). -/
def Obligations.HostCommands : Prop :=
  (∀ (s : State) (c b1 b2 b3 b4 b5 b6 b7 : Byte), s.inp.win = .bar0 → s.tripped = false → s.inp.n = 0x1000 →
    (s.inp.data = [c] → exec .mgmtRegisterWrite s = .next { s with cmdCode := c }) ∧
    (s.inp.data = [c, b1, b2, b3, b4, b5, b6, b7] → b7.getLsbD 7 = true → s.cmdGo = false →
      let t : State := { s with cmdCode := c, cmdGo := true, cmdRes := 0, cmdDetIndex := 0, cmdDetSect := 0 }
      exec .mgmtRegisterWrite s = .next (if s.dstat = .ready then { t with events := (cmdEvent c.toNat, {}) :: s.events }
        else t.commandEnds eBusy)) ∧
    (s.inp.data = [c, b1, b2, b3, b4, b5, b6, b7] → b7.getLsbD 7 = true → s.cmdGo = true → exec .mgmtRegisterWrite s = .next s)) ∧
  (∀ (s : State) (i : Nat), s.inp.win = .bar0 → s.tripped = false → i < 6 → s.inp.n = 0x1008 + 8 * i → s.inp.data.length = 8 →
    ∃ u, exec .mgmtRegisterWrite s = .next u ∧ mget 0 u.cmdArgs i = BitVec.ofNat 64 (leNat (s.inp.data.map BitVec.toNat)) ∧
      u = { s with cmdArgs := u.cmdArgs } ∧ ∀ j, j ≠ i → mget 0 u.cmdArgs j = mget 0 s.cmdArgs j) ∧
  (∀ s : State, s.cmdGo = false →
    ∀ i ∈ [Instr.appload, .appkill, .appstat, .powercap, .tenantset, .cmdReservedCode], exec i s = .next s) ∧
  (∀ v : State, v.started 1 →
    let s := v.reap
    let o : Sco := ⟨s.cmdArg 1, fun i => if i < s.cmdArg 1 then s.srcByte (s.cmdArg 0 + i) else 0⟩
    let plan := o.plan (featsWord &&& ~~~(s.tenantOf (s.cmdArg 2)).featmask) (s.cmdArg 3)
    let good := s.cmdArg 2 ≤ 63 ∧ s.cmdArg 5 ≤ 65536 ∧ s.srcOk (s.cmdArg 0) (s.cmdArg 1) = true ∧
      s.srcOk (s.cmdArg 4) (s.cmdArg 5) = true
    (¬ good → exec .appload v = .next (s.commandEnds eInval)) ∧
    (good → s.freeSlot = none → exec .appload v = .next (s.commandEnds eBusy)) ∧
    (∀ k, good → s.freeSlot = some k →
      (∀ e, plan = .error e → exec .appload v = .next (({ s with
        cmdDetIndex := BitVec.ofNat 32 e.index, cmdDetSect := BitVec.ofNat 16 e.sect } : State).commandEnds e.code)) ∧
      (∀ p, plan = .ok p →
        let loads := ((s.app k).loads + 1) % 2 ^ 26
        match (s.setApp k (p.app o loads (s.cmdArg 2))).mapPlan k o p ((List.range (s.cmdArg 5)).map fun i => s.srcByte (s.cmdArg 4 + i)) with
        | none => exec .appload v = .next (s.commandEnds eNomem)
        | some (entry, va, _) =>
          ∃ u, exec .appload v = .next u ∧ u.cmdGo = false ∧ u.cmdRes = BitVec.ofNat 64 (k + loads * 64) ∧
            (u.app k).ctlEntry = entry ∧ (u.app k).ctlA0 = BitVec.ofNat 64 va ∧ (u.app k).ctlA1 = BitVec.ofNat 64 (s.cmdArg 5)))) ∧
  (∀ s : State, s.started 2 →
    (s.slotOf (s.cmdArg 0) = none → exec .appkill s = .next (s.commandEnds eNoent)) ∧
    (∀ k, s.slotOf (s.cmdArg 0) = some k →
      ((s.app k).state ≠ .running → exec .appkill s = .next (s.commandEnds 0)) ∧
      ((s.app k).state = .running → ∃ u, exec .appkill s = .next u ∧ u.cmdGo = false ∧ u.cmdRes = 0 ∧
        (u.app k).state = .exited ∧ (u.app k).exit = BitVec.ofNat 32 (s.cmdArg 1) ∧ (u.app k).maps = []))) ∧
  (∀ s : State, s.started 3 →
    (s.slotOf (s.cmdArg 0) = none → exec .appstat s = .next (s.commandEnds eNoent)) ∧
    (∀ k, s.slotOf (s.cmdArg 0) = some k →
      ((s.app k).state = .running → exec .appstat s = .next (s.commandEnds 1)) ∧
      ((s.app k).state ≠ .running → exec .appstat s = .next ((s.setApp k { loads := (s.app k).loads }).commandEnds
        (BitVec.ofNat 64 (2 + (s.app k).exit.toNat * 2 ^ 32)))))) ∧
  (∀ s : State, s.started 4 →
    let cap := min 2800 (max 1200 (s.cmdArg 0 / 25 * 25))
    ∃ u, exec .powercap s = .next u ∧ u.cmdGo = false ∧ u.cmdRes = BitVec.ofNat 64 cap ∧ u.capPending = some cap ∧
      u.powerCap = s.powerCap ∧ (.powerCapTakeEffect, {}) ∈ u.jobs) ∧
  (∀ s : State, s.started 5 →
    let t := s.cmdArg 0
    (63 < t → exec .tenantset s = .next (s.commandEnds eInval)) ∧
    (t ≤ 63 → (∃ a ∈ s.apps, a.2.state ≠ .unused ∧ a.2.tenant = t) → exec .tenantset s = .next (s.commandEnds eBusy)) ∧
    (t ≤ 63 → (∀ a ∈ s.apps, a.2.state = .unused ∨ a.2.tenant ≠ t) →
      ∃ u, exec .tenantset s = .next u ∧ (u.tenantOf t).featmask = BitVec.ofNat 64 (s.cmdArg 1 % 1024) ∧
        (∀ j, j ≠ t → u.tenantOf j = s.tenantOf j) ∧ u = ({ s with tenants := u.tenants } : State).commandEnds 0)) ∧
  (∀ s : State, s.cmdGo = true → s.cmdCode.toNat = 0 ∨ 6 ≤ s.cmdCode.toNat →
    exec .cmdReservedCode s = .next (s.commandEnds eInval)) ∧
  ∀ s : State,
    (s.bar0Read 0).toNat = s.dstat.code + 16 * s.dcause.toNat ∧
    (∀ n < 64, (s.bar0Read 3).getLsbD n = decide ((s.app n).state ≠ .unused)) ∧
    (s.bar0Read 0x200).getLsbD 63 = s.cmdGo ∧ s.bar0Read 0x208 = s.cmdRes ∧
    (∀ i < 6, s.bar0Read (0x201 + i) = mget 0 s.cmdArgs i) ∧
    ∀ w, 4 ≤ w → w < 0x200 ∨ (0x20A ≤ w ∧ w < 0x200000) ∨ 0x400000 ≤ w → s.bar0Read w = 0

/-- A read of the readback window (R34 to R38): a write of GO starts it with what the registers then name, and is ignored whole
while one is under way; without a session only the open spaces answer, an address that is no multiple of 8 is refused, and
otherwise the words of the space stand in RBDATA with the first code met. DENIED before the address is looked at, BADSPACE with or
without a session, and the words of areas without a layout are the model's choice (log 26). -/
def Obligations.Readback : Prop :=
  (∀ (s : State) (b : Byte), s.inp.win = .readback → s.inp.n = 0 → s.inp.data.length = 8 → s.inp.data[7]? = some b →
    b.getLsbD 7 = true →
    (s.standbyRail = false ∨ s.rbGo = true → exec .mgmtRegisterWrite s = .next s) ∧
    (s.standbyRail = true → s.rbGo = false →
      let v := leNat (s.inp.data.map BitVec.toNat)
      ∃ u, exec .mgmtRegisterWrite s = .next u ∧ u.rbGo = true ∧ u.rbCode = 1 ∧ u.rbEnd = none ∧
        u.rbReq = ⟨BitVec.ofNat 4 v, v.testBit 4, BitVec.ofNat 7 (v / 32), s.rbAddr⟩ ∧ (rbEvent (v % 16), {}) ∈ u.jobs ∧
        u.rbData = s.rbData)) ∧
  (∀ s : State, s.rbGo = true → s.rbEnd = none →
    let a := s.rbReq.addr.toNat
    let n := s.rbReq.count.toNat + 1
    let fails : Nat → Outcome State Fault Refusal := fun c => .next (({ s with rbEnd := some (c, 0) } : State).later .readbackComplete)
    let closed : List Instr := [.readbackHartState, .readbackEngineQueue, .readbackSaveArea, .readbackErrorLog, .readbackMemory]
    let opens : List Instr := [.readbackLinkStatus, .readbackAlwaysOnLog]
    let reads : Instr → (Nat → Nat × Nat) → Prop := fun i word =>
      ∃ u, exec i s = .next u ∧ (∀ j < n, mget 0 u.rbData j = BitVec.ofNat 64 (word (a + 8 * j)).1) ∧
        (.readbackComplete, {}) ∈ u.jobs ∧ u = { s with rbData := u.rbData, rbEnd := u.rbEnd, jobs := u.jobs } ∧
        ((∀ j < n, (word (a + 8 * j)).2 = 0) → u.rbEnd = some (2, 0)) ∧
        (∀ j < n, (word (a + 8 * j)).2 ≠ 0 → (∀ i < j, (word (a + 8 * i)).2 = 0) → u.rbEnd = some ((word (a + 8 * j)).2, j))
    (s.spdmSession = false → ∀ i ∈ closed, exec i s = fails 5) ∧
    (a % 8 ≠ 0 → (∀ i ∈ opens, exec i s = fails 4) ∧ (s.spdmSession = true → ∀ i ∈ closed, exec i s = fails 4)) ∧
    exec .readbackBadSpace s = fails 3 ∧
    (a % 8 = 0 → a + 8 * n ≤ 2048 * 32 → reads .readbackAlwaysOnLog fun p => (ringWord s.alwaysLog 2048 p, 0)) ∧
    (a % 8 = 0 → a % 2 ^ 50 + 8 * n ≤ 0x80 →
      reads .readbackLinkStatus fun p => (s.portWord (p / 2 ^ 50 * 16 + p % 2 ^ 50 / 8), 0)) ∧
    (a % 2 ^ 50 = 0x100 → n = 1 → reads .readbackLinkStatus fun _ => (s.dieWord, 0)) ∧
    (s.spdmSession = true → a % 8 = 0 →
      (∀ lo hi, physRegion a = some (lo, hi) → a + 8 * n ≤ hi → reads .readbackMemory s.memWord) ∧
      (∀ lo hi, s.areaRegion a = some (lo, hi) → a + 8 * n ≤ hi → reads .readbackSaveArea fun p =>
        ((s.memWord p).1, if (s.memWord p).2 = 0 ∧ s.spilling p = true then 8 else (s.memWord p).2)) ∧
      (a % 2 ^ 50 + 8 * n ≤ 4096 * 32 → reads .readbackErrorLog fun p =>
        (ringWord (mget [] s.dieLogs (p / 2 ^ 50 % 4)) 4096 (p % 2 ^ 50), 0)) ∧
      (a % 2 ^ 46 + 8 * n ≤ 0x40 → a / 2 ^ 46 % 16 < poldersOf (a / 2 ^ 50 % 4) → reads .readbackEngineQueue fun p =>
        (s.leaseWord (8 * (firstPolder (p / 2 ^ 50 % 4) + p / 2 ^ 46 % 16) + p % 2 ^ 46 / 8), 0)) ∧
      (∀ h, s.bankHart (a / 2 ^ 44 % 256) (a / 2 ^ 42 % 4) (a / 2 ^ 41 % 2) = some h → a / 2 ^ 21 % 2 ^ 20 = 0 →
        a / 2 ^ 42 % 4 < (s.lease (a / 2 ^ 44 % 256)).cut → a % 2 ^ 21 + 8 * n ≤ 0x12B900 →
        reads .readbackHartState fun p => (s.imageWord h true (p % 2 ^ 21 / 8), 0)))) ∧
  (∀ (s : State) (e : Nat × Nat), s.rbEnd = some e → s.rbGo = true →
    exec .readbackComplete s = .next { s with rbGo := false, rbCode := e.1, rbFirst := e.2, rbEnd := none })

/-- COLLECTIVE (R60, R429): CREATE, ADDWIN and ADDBAR make their entries, WAIT gives the status or waits, END ends this
package's membership and tells the other members; with every membership ended the windows close. The order of the error codes,
what reaches a call from another package and how an END of another package arrives are the model's choice (log 38). -/
def Obligations.Collectives : Prop :=
  (∀ (s : State) (k : Nat) (c : CollDesc), s.ctlCalls k → s.readDesc k s.inp.a1.toNat = some c →
    let a := s.app k
    (c.clean = false → c.op = 0 → exec .collectiveCreate s = .next (s.gives k eInval)) ∧
    (5 ≤ c.op → exec .collectiveCreate s = .next (s.gives k eInval)) ∧
    (c.clean = true → c.op = 0 → ∀ ms, 1 ≤ c.nmem → c.nmem ≤ 1024 → s.readMembers k c.arg c.nmem = some ms →
      (∀ p ∈ ms, p < 1024 ∧ s.domain.contains p = true) → (distinct ms []).length = ms.length → ms.contains s.pkg = true →
      (∀ q, a.coll c.cid = some q → exec .collectiveCreate s = .next (s.gives k eBusy)) ∧
      (a.coll c.cid = none → s.remoteMasked k = false → exec .collectiveCreate s = .next ((s.setApp k { a with
        colls := a.colls ++ [{ cid := c.cid, members := ms, ended := [], state := .active, bars := [] }] }).gives k
          (BitVec.ofNat 64 c.cid)))) ∧
    (c.clean = true → c.op = 1 → ∀ w, s.readWindow k c.arg c.cid = some w → (w.red && s.inp.flag) = false →
      ((∃ x ∈ a.windows, x.win = w.win) → exec .collectiveAddwin s = .next (s.gives k eBusy)) ∧
      ((∀ x ∈ a.windows, x.win ≠ w.win) → (a.coll c.cid = none → exec .collectiveAddwin s = .next (s.gives k eNoent)) ∧
        (∀ q, a.coll c.cid = some q → s.remoteMasked k = false → q.state ≠ .done →
          exec .collectiveAddwin s = .next ((s.setApp k { a with windows := a.windows ++ [w] }).gives k 0)))) ∧
    (c.clean = true → c.op = 2 → c.arg % 16 = 0 → s.readFor k ctlWho c.arg 16 ≠ none →
      (a.coll c.cid = none → exec .collectiveAddbar s = .next (s.gives k eNoent)) ∧
      (∀ q, a.coll c.cid = some q → s.remoteMasked k = false → exec .collectiveAddbar s =
        .next ((s.updColl k c.cid fun q => { q with bars := q.bars ++ [c.arg] }).gives k 0))) ∧
    (c.clean = true → c.op = 3 →
      (a.coll c.cid = none → exec .collectiveWait s = .next (s.gives k eNoent)) ∧
      (∀ q, a.coll c.cid = some q → s.remoteMasked k = false →
        (q.state = .done → exec .collectiveWait s = .next (s.gives k 1)) ∧
        (q.state = .aborted → exec .collectiveWait s = .next (s.gives k 5)) ∧
        (q.state = .active → c.timeout = 0 → exec .collectiveWait s = .next (s.gives k eAgain)))) ∧
    (c.clean = true → c.op = 4 →
      (s.inp.flag = false → a.coll c.cid = none → exec .collectiveEnd s = .next (s.gives k eNoent)) ∧
      (∀ q, s.inp.flag = false → a.coll c.cid = some q → s.remoteMasked k = false → q.state = .active →
        ∃ u q', exec .collectiveEnd s = .next u ∧ (u.app k).ctlA0 = 0 ∧ (u.app k).coll c.cid = some q' ∧ s.pkg ∈ q'.ended ∧
          (q'.state = .done ↔ ∀ p ∈ q.members, p ∈ q.ended ∨ p = s.pkg) ∧
          (q'.state = .done → ∀ w ∈ (u.app k).windows, w.cid ≠ c.cid) ∧
          u.outbox = s.outbox ++ (q.members.filter fun p => decide (p ≠ s.pkg)).map fun p =>
            (Instr.collectiveEnd, { n := p, m := s.pkg, k := c.cid, flag := true })))) ∧
  (∀ (s : State) (k : Nat), s.ctlCalls k → s.readDesc k s.inp.a1.toNat = none →
    exec .collectiveCreate s = .next (s.gives k eInval)) ∧
  -- the END of another package reaches every application whose collective of that number has it as a member
  (∀ s : State, s.inp.flag = true → ∃ u, exec .collectiveEnd s = .next u ∧ u.mem = s.mem ∧
    ∀ (k : Nat) (q : Coll), (s.app k).coll s.inp.k = some q → q.state = .active → s.inp.m ∈ q.members →
      ∃ q', (u.app k).coll s.inp.k = some q' ∧ s.inp.m ∈ q'.ended ∧
        (q'.state = .done ↔ ∀ p ∈ q.members, p ∈ q.ended ∨ p = s.inp.m)) ∧
  (∀ (s : State) (k cid : Nat) (dl : Option Nat) (q : Coll), s.inp.caller = .ctl k → (s.app k).pend = some ⟨.collective cid, dl⟩ →
    (s.app k).coll cid = some q →
    (q.state = .done → exec .collectiveWait s = .next (s.gives k 1)) ∧
    (q.state = .aborted → exec .collectiveWait s = .next (s.gives k 5)) ∧
    (q.state = .active → exec .collectiveWait s = .next s))

/-! ### The device -/

/-- The functions of PCL answer an error and a value (R61); the cap takes effect later (R15); throttling, the thermal trip
(R17), the policies of an alarm (R30) and SPDM answers (R28). The model's choice here: the length of an SPDM answer (log 19), the
code of an alarm's record (log 22), the arguments of PCL that no rule names (log 23), its version (log 18), and what a thermal trip
keeps (log 17). -/
def Obligations.LibraryAndLimits : Prop :=
  ∀ s : State,
    let ret : State → Word → Word → State := fun t e v => { t with pclErr := e, pclVal := v }
    let bad : Outcome State Fault Refusal := .next (ret s (BitVec.ofInt 64 (-3)) 0)
    (s.pclStarted = true →
      exec .pclGetVersion s = .next (ret s 0 0x30000) ∧
      exec .pclGetFeatures s = (if s.inp.a1.toNat ≤ 255 then .next (ret s 0 0x3FF) else bad) ∧
      (let cap := min 2800 (max 1200 (s.inp.a1.toNat / 25 * 25))
       ∃ u, exec .pclPowerCapSet s = .next u ∧ u.pclErr = 0 ∧ u.pclVal = BitVec.ofNat 64 cap ∧ u.capPending = some cap ∧
         u.powerCap = s.powerCap ∧ (.powerCapTakeEffect, {}) ∈ u.jobs) ∧
      exec .pclPowerCapGet s = .next (ret s 0 (BitVec.ofNat 64 s.powerCap)) ∧
      (s.inp.a1.toNat ≤ 255 → s.inp.a2.toNat < 2 ^ 52 →
        exec .pclContextArea s = .next (ret { s with ctxArea := mput s.ctxArea s.inp.a1.toNat s.inp.a2.toNat } 0 0)) ∧
      (255 < s.inp.a1.toNat ∨ 2 ^ 52 ≤ s.inp.a2.toNat → exec .pclContextArea s = bad) ∧
      (s.inp.a1.toNat ≤ 63 → s.inp.a2 = 0 →
        exec .pclTenantKeyInstall s = .next (ret { s with keysOut := mset false s.keysOut s.inp.a1.toNat false } 0 0)) ∧
      (s.inp.a1.toNat ≤ 63 → s.inp.a2 = 1 →
        exec .pclTenantKeyWithdraw s = .next (ret { s with keysOut := mset false s.keysOut s.inp.a1.toNat true } 0 0)) ∧
      (63 < s.inp.a1.toNat → (s.inp.a2 = 0 → exec .pclTenantKeyInstall s = bad) ∧ (s.inp.a2 = 1 → exec .pclTenantKeyWithdraw s = bad)) ∧
      (s.inp.a1 = 0 → exec .pclResetWarm s = .next { s with events := (.warmReset, {}) :: s.events }) ∧
      (s.inp.a1 = 1 → exec .pclResetFunction s = .next { s with events := (.functionReset, {}) :: s.events }) ∧
      (6 < s.inp.n → exec .pclUnsupported s = .next (ret s (BitVec.ofInt 64 (-2)) 0))) ∧
    (∀ c, s.capPending = some c → exec .powerCapTakeEffect s = .next { s with powerCap := c, capPending := none }) ∧
    exec .thermalThrottleStart s = .next { s with throttled := true } ∧
    exec .thermalThrottleEnd s = .next { s with throttled := false } ∧
    (∃ r, exec .thermalTrip s = .next { s with
        tripped := true, rails := false, jobs := s.jobs.filter fun j => onStandby j.1, alwaysLog := s.alwaysLog ++ [r] } ∧
      r.ns = s.clk * 10 / 11) ∧
    (s.huskBooted = true →
      let i := alarmIndex s.inp.alarm
      let p := (Config.alarmPolicy s.inp.alarm).toNat
      ∃ u r, exec .huskAlarm s = .next u ∧ u.alwaysLog = s.alwaysLog ++ [r] ∧ u.mem = s.mem ∧
        r.code = (if p ≤ 1 then 0x030 + i else 0x038 + i) ∧
        (p = 0 → u = { s with alwaysLog := u.alwaysLog }) ∧ (1 ≤ p → u.locked = true) ∧ (u.zeroised = (decide (2 ≤ p) || s.zeroised)) ∧
        (1 ≤ p → s.locked = false → u.dstat = .stopped ∧ u.dcause = BitVec.ofNat 12 r.code)) ∧
    (s.huskBooted = true → ∃ bs, bs.length = 64 ∧ exec .spdmRequest s = .next { s with
      answers := s.answers ++ [(bs, false)], spdmSession := s.spdmSession || decide (s.inp.spdm = .keyExchange) })

/-- Bring-up goes through the steps of Table 7 in order and stops with its cause at the step that fails (R33, R44); the resets
end every application and keep memory but for a cold one (R32); a fatal error of Riura; configuration requests. How bring-up
advances and what its failures leave (log 14), what each reset keeps beyond the spec's words (log 15) and which stop outlasts a
warm reset (log 16) are the model's choice. -/
def Obligations.BringUpAndResets : Prop :=
  ∀ s : State,
    let at_ : Nat → Option BringUpFail → (State → Prop) → Prop := fun k f P =>
      s.bringStep = k → s.inp.failAt = f → ∃ u, exec .bringUp s = .next u ∧ P u ∧ (k ≠ 6 → u.mem = s.mem)
    let on : Nat → State → Prop := fun k u => u.bringStep = k ∧ (.bringUp, {}) ∈ u.jobs
    let stops : BitVec 12 → State → Prop := fun c u =>
      u.dstat = .stopped ∧ u.dcause = c ∧ u.alwaysLog.length = s.alwaysLog.length + 1
    (s.standbyRail = false → s.inp.failAt ≠ some .fuse →
      ∃ u, exec .standbyRailGood s = .next u ∧ u.standbyRail = true ∧ u.huskBooted = true ∧ on 1 u) ∧
    (s.standbyRail = false → s.inp.failAt = some .fuse → exec .standbyRailGood s = .next { s with
      standbyRail := true, bringStep := 1, bringStopped := true, fuseFault := true }) ∧
    (s.huskBooted = true → s.locked = false → s.tripped = false → s.bringStopped = false → s.dstat = .boot ∨ s.dstat = .resetting →
      at_ 1 none (on 2) ∧ at_ 2 none (fun u => on 3 u ∧ u.rails = true) ∧ at_ 3 none (fun u => on 4 u ∧ u.dstat = .boot) ∧
      at_ 4 none (on 5) ∧
      ((Config.riuraNeedsPcl).toNat ≤ 0x30000 → at_ 5 none fun u => on 6 u ∧ u.pclStarted = true) ∧
      (0x30000 < (Config.riuraNeedsPcl).toNat → at_ 5 none (stops 0x020)) ∧
      (s.unprovisioned = false → at_ 6 none fun u => on 7 u ∧ u.dstat = .ready ∧ u.dcause = 0 ∧ u.mem = s.reap.mem) ∧
      (s.unprovisioned = true → at_ 6 none fun u => u.dstat = .stopped ∧ u.dcause = 0x040) ∧
      at_ 7 none (fun u => on 8 u ∧ u.dstat = s.dstat ∧ ∀ p < 64, (.portEnable, { n := p }) ∈ u.jobs) ∧
      (s.bringOver = true → at_ 8 none fun u => u.bringDone = true) ∧ (s.bringOver = false → at_ 8 none (on 8)) ∧
      at_ 1 (some .bootAuth) (fun u => stops 0x001 u ∧ u.locked = true) ∧
      at_ 2 (some .rail) (fun u => u.dstat = s.dstat ∧ u.dcause = 0x002 ∧ u.rails = false) ∧
      at_ 3 (some .dieLink) (stops 0x003) ∧ at_ 5 (some .riuraAuth) (stops 0x020) ∧
      ∀ n, at_ 4 (some (.hbm n)) (stops (BitVec.ofNat 12 (0x010 + n.toNat)))) ∧
    (∃ u, exec .coldReset s = .next u ∧ u.mem = [] ∧ u.apps = [] ∧ u.hart = {} ∧ u.others = [] ∧ u.dstat = .boot ∧
      u.powerCap = 2800 ∧ u.alwaysLog = [] ∧ u.unprovisioned = (s.unprovisioned || s.zeroised)) ∧
    (s.huskBooted = true → s.tripped = false →
      (∃ u, exec .warmReset s = .next u ∧ u.apps = [] ∧ u.crews = [] ∧ u.hart = {} ∧ u.others = [] ∧ u.mem = s.mem ∧
        u.alwaysLog = s.alwaysLog ∧ u.powerCap = s.powerCap ∧
        (s.dstat = .stopped ∧ s.bringStopped = false → u.dstat = .stopped ∧ u.locked = s.locked) ∧
        (s.dstat ≠ .stopped → u.dstat = .resetting ∧ on 1 u)) ∧
      (s.dstat = .fatal → exec .functionReset s = .next s) ∧
      (s.dstat ≠ .fatal → ∃ u, exec .functionReset s = .next u ∧ u.apps = [] ∧ u.crews = [] ∧ u.hart = {} ∧ u.others = [] ∧ u.mem = s.mem ∧
        (s.dstat = .stopped → u.dstat = .stopped) ∧
        (s.dstat = .ready → s.bringStopped = false → 5 ≤ s.bringStep → u.dstat = .resetting ∧ on 5 u ∧ u.ports = s.ports))) ∧
    (s.huskBooted = false ∨ s.tripped = true → exec .warmReset s = .next s ∧ exec .functionReset s = .next s) ∧
    (s.dstat = .ready → ∃ u, exec .riuraFatalError s = .next u ∧ u.dstat = .fatal ∧ u.dcause = 0x050 ∧ (.warmReset, {}) ∈ u.jobs ∧
      (mget [] u.dieLogs 0).map LogRec.detail = (mget [] s.dieLogs 0).map LogRec.detail ++ [s.inp.a1]) ∧
    (s.tripped = false →
      (s.dstat = .stopped ∨ 7 ≤ s.bringStep → exec .configurationRequest s = .next { s with cfgAnswers := s.cfgAnswers ++ [false] }) ∧
      (s.dstat ≠ .stopped → 3 ≤ s.bringStep → s.bringStep < 7 →
        exec .configurationRequest s = .next { s with cfgAnswers := s.cfgAnswers ++ [true] }) ∧
      (s.dstat ≠ .stopped → s.bringStep < 3 → exec .configurationRequest s = .next s))

/-- CXL.mem reads and writes reach frames of no application as plain memory, and an application's frame through the cipher under the
system key alone, by which the host reads back what it wrote (R29); beyond the window a request is logged (R439); pool links (R191), refresh windows (R175) and memory errors (R193, R194). The
model's choice here: a request that runs past the window's end or is not answered (log 20), memory under a zeroised key (log 21),
and the records of repeated and corrected errors (log 22). -/
def Obligations.DeviceMemory : Prop :=
  ∀ s : State,
    let a := s.inp.n
    let n := s.inp.data.length
    (s.tripped = true ∨ s.locked = true ∨ s.bringStep < 7 → exec .cxlMemRead s = .next s ∧ exec .cxlMemWrite s = .next s) ∧
    (s.tripped = false → s.locked = false → 7 ≤ s.bringStep →
      (a + s.inp.m ≤ 2 ^ 40 →
        ∃ bs, exec .cxlMemRead s = .next { s with answers := s.answers ++
            [(bs, (List.range s.inp.m).any fun i => s.poisoned (a + i))] } ∧
          bs.length = s.inp.m ∧ ∀ i < s.inp.m, bs.getD i 0 = BitVec.ofNat 8 (s.hostByte (a + i)) ∧
            (s.assigned (a + i) = false → bs.getD i 0 = mget unlistedByte s.mem (a + i))) ∧
      (2 ^ 40 < a + s.inp.m → ∃ u, exec .cxlMemRead s = .next u ∧ u.answers = s.answers ++ [(List.replicate s.inp.m 0, true)] ∧
        u.hostErrs = s.hostErrs ++ [a] ∧ u.mem = s.mem) ∧
      (a + n ≤ 2 ^ 40 → s.zeroised = false →
        ∃ u, exec .cxlMemWrite s = .next u ∧
          -- of an application's frame the blocks of 16 bytes that hold a byte written change whole
          (∀ p, p < a / 16 * 16 ∨ (a + n + 15) / 16 * 16 ≤ p ∨ ((p < a ∨ a + n ≤ p) ∧ s.assigned p = false) →
            mget unlistedByte u.mem p = mget unlistedByte s.mem p) ∧
          ((∀ p q, p / 16 = q / 16 → s.frameTenant p = s.frameTenant q) →
            ∀ i < n, u.hostByte (a + i) = (s.inp.data.getD i 0).toNat) ∧
          (∀ i < n, s.assigned (a + i) = false → mget unlistedByte u.mem (a + i) = s.inp.data.getD i 0)) ∧
      (2 ^ 40 < a + n → ∃ u, exec .cxlMemWrite s = .next u ∧ u.hostErrs = s.hostErrs ++ [a] ∧ u.mem = s.mem) ∧
      (a + n ≤ 2 ^ 40 → s.zeroised = true → exec .cxlMemWrite s = .next s)) ∧
    (s.inp.link = .a → exec .poolLinkDown s = .next { s with poolADown := true } ∧ exec .poolLinkUp s = .next { s with poolADown := false }) ∧
    (s.inp.link = .b → exec .poolLinkDown s = .next { s with poolBDown := true } ∧ exec .poolLinkUp s = .next { s with poolBDown := false }) ∧
    (s.clk % 70400 / 2200 = a → s.clk % 70400 % 2200 < 550 → exec .wsRefreshWindowOpen s = .next { s with wsOpen := some a }) ∧
    (s.clk % 70400 % 2200 ≥ 550 → exec .wsRefreshWindowOpen s = .next s ∧ exec .wsRefreshWindowClose s = .next { s with wsOpen := none }) ∧
    (s.inp.flag = false → mget false s.poison (a / 64) = false →
      ∃ u, exec .eccUncorrectable s = .next u ∧ (s.inp.ecc = .uncorrectable → exec .patrolScrub s = .next u) ∧
        (∀ p, u.poisoned p = (decide (p / 64 = a / 64) || s.poisoned p)) ∧ u.mem = s.mem ∧
        (mget [] u.dieLogs (dieOfPhys a)).length = (mget [] s.dieLogs (dieOfPhys a)).length + 1) ∧
    (s.inp.flag = false → mget false s.poison (a / 64) = true → exec .eccUncorrectable s = .next s) ∧
    (s.inp.ecc = .none → exec .patrolScrub s = .next s) ∧
    (s.inp.ecc = .corrected → ∃ u, exec .patrolScrub s = .next u ∧
      mget 0 u.eccCorrected (dieOfPhys a) = mget 0 s.eccCorrected (dieOfPhys a) + 1 ∧
      (mget [] u.dieLogs (dieOfPhys a)).length = (mget [] s.dieLogs (dieOfPhys a)).length + 1 ∧
      u = { s with eccCorrected := u.eccCorrected, dieLogs := u.dieLogs })

/-- Ports (R23 to R26): a flit within four wrong symbols of a valid codeword in each half is corrected, and a corrected one differs
from what arrived in no more (R24); each training state gives way to the next within its limit and falls back after it; an active
port takes a good flit in order, which acknowledges flits and replays the rest on a NAK, and answers any other with a NAK; eight
failed replays of one flit end in RETRAIN, where grants are exchanged anew, the third time within a second in DOWN, where what the
port held is dropped. The model's choice here: the CRC and the sequence numbers (log 41), the ninth NAK, the idle flit that a NAK
leaves in, the credits of a retraining and the drops at DOWN (log 42), the code of the FEC (log 43), and a DONE after its limit
(log 44). -/
def Obligations.Ports : Prop :=
  (∀ f : BitVec 2048, (rsValid (flitCodeword f.toNat 0) = true → rsValid (flitCodeword f.toNat 1) = true →
      flitCorrect f = some f.toNat) ∧
    ((∀ c < 2, ∃ v < 2 ^ 1024, rsValid v = true ∧ symbolDiffs (flitCodeword f.toNat c) v ≤ 4) → (flitCorrect f).isSome = true) ∧
    ∀ g, flitCorrect f = some g → ∀ c < 2, symbolDiffs (flitCodeword f.toNat c) (flitCodeword g c) ≤ 4 ∧
      rsValid (flitCodeword g c) = true) ∧
  ∀ s : State, s.unsent = [] →
    let n := s.inp.n
    let p := s.port n
    let moves : Instr → (State → Prop) → Prop := fun i P =>
      ∃ u, exec i s = .next u ∧ P u ∧ (∀ k, k ≠ n → u.port k = s.port k) ∧ u.mem = s.mem
    let enters : PortState → State → Prop := fun st u => u.port n = { p with st := st, since := s.clk }
    let passes : PortState → Nat → Instr → Instr → PortState → PortState → Prop := fun st lim done late next back =>
      p.st = st →
      (s.clk < p.since + lim → moves done (enters next) ∧ exec late s = .next s) ∧
      (p.since + lim ≤ s.clk → moves late (enters back) ∧ exec done s = .next s)
    -- the port is q, and a NAK that q has to send leaves in an idle flit, which a full replay buffer does not keep
    let becomes : Port → State → Prop := fun q u =>
      if q.nakDue = true ∧ q.replay.length < 256 then
        ∃ (hdr : Nat) (pl : BitVec 1824), hdr / 2 ^ 52 % 4096 = q.txSeq % 4096 ∧ hdr / 2 ^ 39 % 2 = 1 ∧ hdr / 2 ^ 24 % 16 = 0 ∧
          u.port n = { q with txSeq := (q.txSeq + 1) % 4096, nakDue := false, replay := q.replay ++ [⟨q.txSeq, flitOf hdr pl, .other⟩] }
      else u.port n = { q with nakDue := false }
    (n < 64 → p.st = .disabled ∨ p.st = .down → moves .portEnable (enters .detect)) ∧
    (p.st ≠ .disabled → p.st ≠ .down → exec .portEnable s = .next s) ∧
    passes .detect 11000000 .detectDone .detectTimeout .polarity .disabled ∧
    passes .polarity 1100000 .polarityDone .polarityTimeout .deskew .detect ∧
    passes .deskew 1100000 .deskewDone .deskewTimeout .fecLock .detect ∧
    (p.st = .fecLock →
      (s.clk < p.since + 2200000 → (moves .feclockDone fun u => u.port n = { p with st := .credit, since := s.clk, credits := 0 }) ∧
        exec .feclockTimeout s = .next s) ∧
      (p.since + 2200000 ≤ s.clk → moves .feclockTimeout (enters .detect) ∧ exec .feclockDone s = .next s)) ∧
    (p.st = .credit →
      (s.clk < p.since + 1100000 → moves .creditDone fun u =>
        u.port n = { p with st := .active, since := s.clk, rxSeq := 0, txSeq := 0, nakSent := false, nakDue := false, naks := 0,
                            replay := [] }) ∧
      (p.since + 1100000 ≤ s.clk → moves .creditTimeout (enters .detect))) ∧
    (p.st = .retrain →
      (s.clk < p.since + 5500000 → moves .retrainDone fun u => u.port n =
        { p with st := .active, since := s.clk, nakSent := false, nakDue := false, replayed := p.replayed + p.replay.length }) ∧
      (p.since + 5500000 ≤ s.clk → moves .retrainTimeout fun u => u.port n =
        { p with st := .down, since := s.clk, replay := [], naks := 0, credits := 0 })) ∧
    (p.st = .credit ∨ p.st = .retrain → ∀ f, flitCorrect s.inp.flit = some f → flitGood f = true → moves .flitReceive fun u =>
      u.port n = if f / 2 ^ 24 % 16 = 4 then { p with credits := p.credits + f / 2 ^ 28 % 2 ^ 11 } else p) ∧
    (p.st = .active →
      (9 ≤ p.naks → let es := (p.retrains.filter fun t => decide (s.clk < t + 1100000000)) ++ [s.clk]
       moves .replayLimit fun u => u.port n = if 3 ≤ es.length then
           { p with retrains := es, since := s.clk, st := .down, replay := [], naks := 0, credits := 0 }
         else { p with retrains := es, since := s.clk, st := .retrain, naks := 0, credits := 0 }) ∧
      (p.naks < 9 → exec .replayLimit s = .next s) ∧
      (flitCorrect s.inp.flit = none → moves .flitReceive (becomes { p with nakSent := true, nakDue := true })) ∧
      (∀ f, flitCorrect s.inp.flit = some f →
        let good := flitCrc f = bitsAt f 1888 32 ∧ f / 2 ^ 24 % 16 ≤ 5
        let seq := f / 2 ^ 52 % 4096
        let nak := f / 2 ^ 39 % 2 = 1
        (¬ good → moves .flitReceive (becomes { p with nakSent := true, nakDue := true })) ∧
        (good → seq ≠ p.rxSeq → moves .flitReceive (becomes { p with nakSent := true, nakDue := p.nakDue || !p.nakSent })) ∧
        (good → seq = p.rxSeq → moves .flitReceive fun u => ∃ kept k,
          (∀ r, r ∈ kept ↔ r ∈ p.replay ∧ (r.seq + 4096 - f / 2 ^ 40 % 4096 - 1) % 4096 < 2048) ∧ kept.Sublist p.replay ∧
          (kept = p.replay → k = if nak then p.naks + 1 else p.naks) ∧ (kept ≠ p.replay → k = if nak then 1 else 0) ∧
          u.port n = { p with rxSeq := (p.rxSeq + 1) % 4096, nakSent := false, nakDue := false, replay := kept, naks := k,
                              credits := p.credits + f / 2 ^ 28 % 2 ^ 11,
                              replayed := if nak then p.replayed + kept.length else p.replayed,
                              taken := if s.isFor n f = true ∧ f / 2 ^ 24 % 16 ≠ 0 then p.taken ++ [BitVec.ofNat 2048 f] else p.taken } ∧
          (9 ≤ k → u.events = (.replayLimit, { n := n }) :: s.events)))) ∧
    (p.st ≠ .active → p.st ≠ .credit → p.st ≠ .retrain → exec .flitReceive s = .next s) ∧
    (p.st ≠ .active → exec .replayLimit s = .next s)

/-! ### The whole machine -/

/-- What reset leaves (R15, R32, R33, R43): no application, crew, hart, transfer or mapping; the device in BOOT with GO and the
command registers clear, the cap at 2,800 W, every port DISABLED, the rails off; memory in its canonical form. -/
def Obligations.ResetState : Prop :=
  let r := State.reset
  r.apps = [] ∧ r.crews = [] ∧ r.harts = [] ∧ r.transfers = [] ∧ r.dstat = .boot ∧ r.cmdGo = false ∧ r.cmdRes = 0 ∧
  r.powerCap = 2800 ∧ (∀ n, (r.port n).st = .disabled) ∧ r.rails = false ∧ r.spdmSession = false ∧ r.memOk

/-- Memory keeps its canonical form in every step of every instruction and event, from every state that has it. -/
def Obligations.StepKeepsMemory : Prop :=
  ∀ s t : State, s.memOk → step s = .next t → t.memOk

end
end

