-- ==== Sys2Proof/Laws/Cipher.lean ====
section
/-! SUPPORT. The memory cipher can be undone: what a key shows of bytes under another shows them again the other way round (R29). -/

set_option Elab.async false

namespace Sys2Proof.Machine

@[simp] theorem cipherBack_step (k a i : Nat) (x : BitVec 64 × BitVec 64) : cipherBack k a i (cipherStep k a i x) = x := by
  simp [cipherBack, cipherStep]

@[simp] theorem cipherStep_back (k a i : Nat) (y : BitVec 64 × BitVec 64) : cipherStep k a i (cipherBack k a i y) = y := by
  simp [cipherBack, cipherStep]

@[simp] theorem decipher_encipher (k a : Nat) (x : BitVec 64 × BitVec 64) : decipher k a (encipher k a x) = x := by
  simp [decipher, encipher]

@[simp] theorem encipher_decipher (k a : Nat) (y : BitVec 64 × BitVec 64) : encipher k a (decipher k a y) = y := by
  simp [decipher, encipher]

@[simp] theorem halvesOf_ofHalves (x : BitVec 64 × BitVec 64) : halvesOf (ofHalves x) = x := by
  obtain ⟨l, h⟩ := x
  simp only [halvesOf, ofHalves, Prod.mk.injEq]
  constructor <;> apply BitVec.eq_of_toNat_eq <;> simp only [BitVec.toNat_ofNat] <;> omega

/-- Sixteen bytes are their halves. -/
theorem ofHalves_halvesOf {n : Nat} (h : n < 2 ^ 128) : ofHalves (halvesOf n) = n := by
  simp only [ofHalves, halvesOf, BitVec.toNat_ofNat]
  omega

/-- What a host writes it reads back: the two ciphers undo each other. -/
theorem recipher_recipher (k j a : Nat) {n : Nat} (h : n < 2 ^ 128) : recipher j k a (recipher k j a n) = n := by
  simp [recipher, ofHalves_halvesOf h]

end Sys2Proof.Machine
end

