-- ==== Sys2Proof/Laws/Flits.lean ====
section
/-! SUPPORT. Flits and their codewords (R23, R24): the bytes of a packed number, the codewords of an interleaved flit, and that
CRC, TYPE and SEQ lie in the bytes that FEC protects. -/

namespace Sys2Proof.Machine

/-- Byte i of a packed list. -/
theorem byte_packW : ∀ (l : List Nat) (i : Nat), bitsAt (packW 8 l) (8 * i) 8 = l.getD i 0 % 256
  | [], i => by simp [packW, bitsAt]
  | x :: xs, 0 => by simp only [packW, bitsAt, List.getD_cons_zero]; omega
  | x :: xs, i + 1 => by
    have h := byte_packW xs i
    simp only [bitsAt, packW, List.getD_cons_succ] at h ⊢
    rw [← h, show 8 * (i + 1) = 8 + 8 * i by omega, Nat.pow_add, ← Nat.div_div_eq_div_mul]
    congr 2
    omega

/-- A number is packed from its bytes. -/
theorem packW_bytes : ∀ (n a : Nat), packW 8 ((List.range n).map fun i => bitsAt a (8 * i) 8) = a % 2 ^ (8 * n)
  | 0, a => by simp [packW, Nat.mod_one]
  | n + 1, a => by
    have h := packW_bytes n (a / 256)
    have e : ((List.range n).map fun i => bitsAt a (8 * (i + 1)) 8) = (List.range n).map fun i => bitsAt (a / 256) (8 * i) 8 := by
      refine List.map_congr_left fun i _ => ?_
      simp only [bitsAt]
      rw [show 8 * (i + 1) = 8 + 8 * i by omega, Nat.pow_add, ← Nat.div_div_eq_div_mul]
    rw [List.range_succ_eq_map, List.map_cons, List.map_map, packW]
    simp only [Function.comp_def, Nat.succ_eq_add_one]
    rw [e, h, show 8 * (n + 1) = 8 + 8 * n by omega, Nat.pow_add, Nat.mod_mul]
    simp only [bitsAt, Nat.mul_zero, Nat.pow_zero, Nat.div_one, Nat.mod_mod]
    rw [Nat.mul_comm, show (2 : Nat) ^ 8 = 256 from rfl]

theorem packW_lt : ∀ l : List Nat, packW 8 l < 2 ^ (8 * l.length)
  | [] => by simp [packW]
  | x :: xs => by
    have h := packW_lt xs
    rw [packW, List.length_cons, show 8 * (xs.length + 1) = 8 + 8 * xs.length by omega, Nat.pow_add]
    omega

/-- Every second element of a list of pairs. -/
theorem pairs_getD (f g : Nat → Nat) : ∀ (l : List Nat) (k : Nat),
    (l.flatMap fun i => [f i, g i]).getD (2 * k) 0 = (l.map f).getD k 0 ∧
    (l.flatMap fun i => [f i, g i]).getD (2 * k + 1) 0 = (l.map g).getD k 0
  | [], _ => by simp
  | x :: xs, 0 => by simp
  | x :: xs, k + 1 => by
    have h := pairs_getD f g xs k
    simpa [show 2 * (k + 1) = 2 * k + 1 + 1 by omega] using h

/-- The bytes of an interleaved flit. -/
theorem byte_interleave (a b i : Nat) (h : i < 128) : bitsAt (interleave a b) (8 * (2 * i)) 8 = bitsAt a (8 * i) 8 ∧
    bitsAt (interleave a b) (8 * (2 * i + 1)) 8 = bitsAt b (8 * i) 8 := by
  have p := pairs_getD (fun i => bitsAt a (8 * i) 8) (fun i => bitsAt b (8 * i) 8) (List.range 128) i
  have r : ∀ x : Nat, bitsAt x (8 * i) 8 % 256 = bitsAt x (8 * i) 8 := fun x => Nat.mod_mod _ _
  unfold interleave
  rw [byte_packW, byte_packW, p.1, p.2]
  simp [h, r]

/-- The codewords of an interleaved flit. -/
theorem flitCodeword_interleave (a b : Nat) : flitCodeword (interleave a b) 0 = a % 2 ^ 1024 ∧
    flitCodeword (interleave a b) 1 = b % 2 ^ 1024 := by
  constructor
  · rw [← packW_bytes 128 a]
    exact congrArg (packW 8) (List.map_congr_left fun i hi => (byte_interleave a b i (List.mem_range.mp hi)).1)
  · rw [← packW_bytes 128 b]
    exact congrArg (packW 8) (List.map_congr_left fun i hi => (byte_interleave a b i (List.mem_range.mp hi)).2)

theorem interleave_lt (a b : Nat) : interleave a b < 2 ^ 2048 := by
  have h := packW_lt ((List.range 128).flatMap fun i => [bitsAt a (8 * i) 8, bitsAt b (8 * i) 8])
  simpa [interleave, List.length_flatMap] using h

theorem rsEncode_lt (d : Nat) : rsEncode d < 2 ^ 1024 := by
  have h := (rsParity (BitVec.ofNat 960 d)).isLt
  unfold rsEncode
  omega

/-- An encoded codeword is valid. -/
theorem rsValid_rsEncode (d : Nat) : rsValid (rsEncode d) = true := by
  have h : BitVec.ofNat 960 (rsEncode d) = BitVec.ofNat 960 d := by
    apply BitVec.eq_of_toNat_eq
    simp [rsEncode, Nat.add_mul_mod_self_right]
  unfold rsValid
  rw [h, decide_eq_true_iff, rsEncode]
  omega

/-- A flit of two valid codewords stands as it is. -/
theorem flitCorrect_valid {f : BitVec 2048} {a b : Nat} (h0 : flitCodeword f.toNat 0 = a) (h1 : flitCodeword f.toNat 1 = b)
    (va : rsValid a = true) (vb : rsValid b = true) : flitCorrect f = some (interleave a b) := by
  unfold flitCorrect rsCorrect
  rw [h0, h1, va, vb]
  rfl

/-- A flit of two encoded codewords stands as it is. -/
theorem flitCorrect_encoded {f : BitVec 2048} {a b : Nat} (h : f.toNat = interleave (rsEncode a) (rsEncode b)) :
    flitCorrect f = some (interleave (rsEncode a) (rsEncode b)) := by
  have c := flitCodeword_interleave (rsEncode a) (rsEncode b)
  rw [Nat.mod_eq_of_lt (rsEncode_lt _), Nat.mod_eq_of_lt (rsEncode_lt _), ← h] at c
  exact flitCorrect_valid c.1 c.2 (rsValid_rsEncode a) (rsValid_rsEncode b)

/-- The flit of two codewords as 2,048 bits. -/
theorem toNat_interleave (a b : Nat) : (BitVec.ofNat 2048 (interleave a b)).toNat = interleave a b := by
  rw [BitVec.toNat_ofNat, Nat.mod_eq_of_lt (interleave_lt a b)]

/-- A field below bit n is one of the number cut there. -/
theorem bitsAt_mod (x n a w : Nat) (h : a + w ≤ n) : bitsAt (x % 2 ^ n) a w = bitsAt x a w := by
  unfold bitsAt
  apply Nat.eq_of_testBit_eq
  intro i
  simp only [Nat.testBit_mod_two_pow, Nat.testBit_div_two_pow]
  by_cases hi : i < w
  · simp [hi, show i + a < n by omega]
  · simp [hi]

/-- CRC and TYPE depend only on what FEC protects. -/
theorem flitGood_mod (f : Nat) : flitGood (f % 2 ^ 1920) = flitGood f := by
  have c : flitCrc (f % 2 ^ 1920) = flitCrc f := by
    unfold flitCrc
    refine List.foldl_ext _ _ _ fun c i hi => ?_
    rw [bitsAt_mod _ _ _ _ (by have := List.mem_range.mp hi; omega)]
  unfold flitGood flitType
  rw [c, bitsAt_mod _ _ _ _ (by decide), bitsAt_mod _ _ _ _ (by decide)]

/-- The bytes of an encoded flit that are not parity. -/
theorem encoded_mod (a b : Nat) : interleave (rsEncode a) (rsEncode b) % 2 ^ 1920 =
    packW 8 ((List.range 240).map fun j => bitsAt (if j % 2 = 0 then a else b) (8 * (j / 2)) 8) := by
  have r : ∀ d i, i < 120 → bitsAt (rsEncode d) (8 * i) 8 = bitsAt d (8 * i) 8 := by
    intro d i hi
    rw [← bitsAt_mod (rsEncode d) 960 _ _ (by omega), ← bitsAt_mod d 960 _ _ (by omega), rsEncode, Nat.add_mul_mod_self_right,
      Nat.mod_mod]
  rw [← packW_bytes 240]
  refine congrArg (packW 8) (List.map_congr_left fun j hj => ?_)
  have h := List.mem_range.mp hj
  have p := byte_interleave (rsEncode a) (rsEncode b) (j / 2) (by omega)
  by_cases c : j % 2 = 0
  · rw [if_pos c, ← r a _ (by omega), ← p.1, show 2 * (j / 2) = j by omega]
  · rw [if_neg c, ← r b _ (by omega), ← p.2, show 2 * (j / 2) + 1 = j by omega]

end Sys2Proof.Machine
end

