-- ==== Sys2Proof/Laws/Map.lean ====
section
/-! SUPPORT. The laws of the sparse maps: a read after a write, writes to other keys, and the canonical form kept. -/

set_option Elab.async false

namespace Sys2Proof.Machine

variable {α : Type}

/-! ### Reading after writing -/

@[simp] theorem mget_nil (d : α) (a : Nat) : mget d [] a = d := rfl

theorem mget_mput (d v : α) (m : List (Nat × α)) (a b : Nat) :
    mget d (mput m a v) b = if b = a then v else mget d m b := by
  induction m with
  | nil => simp only [mput, mget, eq_comm]
  | cons p m ih =>
    obtain ⟨k, w⟩ := p
    simp only [mput]
    split
    · simp only [mget, @eq_comm _ b a]
    · split
      · next h => subst h; simp only [mget, @eq_comm _ b a]; split <;> rfl
      · simp only [mget, ih]; split <;> split <;> simp_all

theorem mget_mdel (d : α) (m : List (Nat × α)) (a b : Nat) :
    mget d (mdel m a) b = if b = a then d else mget d m b := by
  induction m with
  | nil => simp [mdel]
  | cons p m ih =>
    obtain ⟨k, w⟩ := p
    simp only [mdel]
    split
    · next h => subst h; simp only [ih, mget, @eq_comm _ b k]; split <;> rfl
    · next h =>
      simp only [mget, ih]
      split
      · next e => rw [if_neg (fun q => h (e.trans q))]
      · rfl

/-- A read after a write: the value written at its key, what was there before at every other. -/
@[simp] theorem mget_mset [DecidableEq α] (d v : α) (m : List (Nat × α)) (a b : Nat) :
    mget d (mset d m a v) b = if b = a then v else mget d m b := by
  unfold mset
  split
  · next h => rw [mget_mdel, h]
  · exact mget_mput d v m a b

/-! ### The canonical form -/

theorem keysAbove_of_le {a b : Nat} (h : a ≤ b) : ∀ {m : List (Nat × α)}, keysAbove b m = true → keysAbove a m = true
  | [], _ => rfl
  | (k, _) :: m, hm => by
    simp only [keysAbove, Bool.and_eq_true, decide_eq_true_eq] at hm ⊢
    exact ⟨by omega, keysAbove_of_le h hm.2⟩

theorem keysAbove_mput {a k : Nat} {v : α} (h : a < k) :
    ∀ {m : List (Nat × α)}, keysAbove a m = true → keysAbove a (mput m k v) = true
  | [], _ => by simp [mput, keysAbove, h]
  | (c, w) :: m, hm => by
    simp only [keysAbove, Bool.and_eq_true, decide_eq_true_eq] at hm
    simp only [mput]
    split
    · simp [keysAbove, h, hm.1, hm.2]
    · split
      · simp [keysAbove, h, hm.2]
      · simp [keysAbove, hm.1, keysAbove_mput h hm.2]

theorem keysAbove_mdel {a k : Nat} : ∀ {m : List (Nat × α)}, keysAbove a m = true → keysAbove a (mdel m k) = true
  | [], _ => rfl
  | (c, w) :: m, hm => by
    simp only [keysAbove, Bool.and_eq_true, decide_eq_true_eq] at hm
    simp only [mdel]
    split
    · exact keysAbove_mdel hm.2
    · simp [keysAbove, hm.1, keysAbove_mdel hm.2]

variable [DecidableEq α] {d : α}

theorem mwf_mput {k : Nat} {v : α} (hv : v ≠ d) : ∀ {m : List (Nat × α)}, mwf d m = true → mwf d (mput m k v) = true
  | [], _ => by simp [mput, mwf, keysAbove, hv]
  | (c, w) :: m, hm => by
    simp only [mwf, Bool.and_eq_true, decide_eq_true_eq] at hm
    simp only [mput]
    split
    · next h => simp [mwf, keysAbove, hv, h, hm.1.1, hm.1.2, hm.2, keysAbove_of_le (Nat.le_of_lt h) hm.1.2]
    · split
      · next h => subst h; simp [mwf, hv, hm.1.2, hm.2]
      · simp [mwf, hm.1.1, mwf_mput hv hm.2, keysAbove_mput (show c < k by omega) hm.1.2]

theorem mwf_mdel {k : Nat} : ∀ {m : List (Nat × α)}, mwf d m = true → mwf d (mdel m k) = true
  | [], _ => rfl
  | (c, w) :: m, hm => by
    simp only [mwf, Bool.and_eq_true, decide_eq_true_eq] at hm
    simp only [mdel]
    split
    · exact mwf_mdel hm.2
    · simp [mwf, hm.1.1, mwf_mdel hm.2, keysAbove_mdel hm.1.2]

/-- A write keeps the canonical form. -/
theorem mwf_mset {m : List (Nat × α)} (k : Nat) (v : α) (h : mwf d m = true) : mwf d (mset d m k v) = true := by
  unfold mset
  split
  · exact mwf_mdel h
  · next hv => exact mwf_mput hv h

omit [DecidableEq α] in
theorem keysAbove_filter {a : Nat} (p : Nat × α → Bool) :
    ∀ {m : List (Nat × α)}, keysAbove a m = true → keysAbove a (m.filter p) = true
  | [], _ => rfl
  | (k, w) :: m, hm => by
    simp only [keysAbove, Bool.and_eq_true, decide_eq_true_eq] at hm
    simp only [List.filter_cons]
    split
    · simp [keysAbove, hm.1, keysAbove_filter p hm.2]
    · exact keysAbove_filter p hm.2

/-- Dropping entries keeps the canonical form. -/
theorem mwf_filter (p : Nat × α → Bool) : ∀ {m : List (Nat × α)}, mwf d m = true → mwf d (m.filter p) = true
  | [], _ => rfl
  | (k, w) :: m, hm => by
    simp only [mwf, Bool.and_eq_true, decide_eq_true_eq] at hm
    simp only [List.filter_cons]
    split
    · simp [mwf, hm.1.1, mwf_filter p hm.2, keysAbove_filter p hm.1.2]
    · exact mwf_filter p hm.2

omit [DecidableEq α] in
/-- A key below every listed one reads as the default. -/
theorem mget_lt_of_keysAbove {a b : Nat} (h : b ≤ a) :
    ∀ {m : List (Nat × α)}, keysAbove a m = true → mget d m b = d
  | [], _ => rfl
  | (k, w) :: m, hm => by
    simp only [keysAbove, Bool.and_eq_true, decide_eq_true_eq] at hm
    simp only [mget]
    rw [if_neg (by omega)]
    exact mget_lt_of_keysAbove h hm.2

end Sys2Proof.Machine
end

