-- ==== Sys2Proof/Laws/State.lean ====
section
/-! SUPPORT. One lemma per field and update: what each update of the state or of a hart leaves as it was. -/

set_option Elab.async false

namespace Sys2Proof.Machine

/-! ### x(d) := v -/

@[simp] theorem State.wx_others (s : State) (d : Reg) (v : Word) : (s.wx d v).others = s.others := rfl
@[simp] theorem State.wx_events (s : State) (d : Reg) (v : Word) : (s.wx d v).events = s.events := rfl
@[simp] theorem State.wx_jobs (s : State) (d : Reg) (v : Word) : (s.wx d v).jobs = s.jobs := rfl
@[simp] theorem State.wx_inp (s : State) (d : Reg) (v : Word) : (s.wx d v).inp = s.inp := rfl
@[simp] theorem State.wx_keepTurn (s : State) (d : Reg) (v : Word) : (s.wx d v).keepTurn = s.keepTurn := rfl
@[simp] theorem State.wx_urgent (s : State) (d : Reg) (v : Word) : (s.wx d v).urgent = s.urgent := rfl
@[simp] theorem State.wx_jobAge (s : State) (d : Reg) (v : Word) : (s.wx d v).jobAge = s.jobAge := rfl
@[simp] theorem State.wx_xferAge (s : State) (d : Reg) (v : Word) : (s.wx d v).xferAge = s.xferAge := rfl
@[simp] theorem State.wx_turns (s : State) (d : Reg) (v : Word) : (s.wx d v).turns = s.turns := rfl
@[simp] theorem State.wx_clk (s : State) (d : Reg) (v : Word) : (s.wx d v).clk = s.clk := rfl
@[simp] theorem State.wx_tick (s : State) (d : Reg) (v : Word) : (s.wx d v).tick = s.tick := rfl
@[simp] theorem State.wx_pkg (s : State) (d : Reg) (v : Word) : (s.wx d v).pkg = s.pkg := rfl
@[simp] theorem State.wx_domain (s : State) (d : Reg) (v : Word) : (s.wx d v).domain = s.domain := rfl
@[simp] theorem State.wx_mem (s : State) (d : Reg) (v : Word) : (s.wx d v).mem = s.mem := rfl
@[simp] theorem State.wx_hostMem (s : State) (d : Reg) (v : Word) : (s.wx d v).hostMem = s.hostMem := rfl
@[simp] theorem State.wx_poison (s : State) (d : Reg) (v : Word) : (s.wx d v).poison = s.poison := rfl
@[simp] theorem State.wx_segHdr (s : State) (d : Reg) (v : Word) : (s.wx d v).segHdr = s.segHdr := rfl
@[simp] theorem State.wx_hdrPoison (s : State) (d : Reg) (v : Word) : (s.wx d v).hdrPoison = s.hdrPoison := rfl
@[simp] theorem State.wx_leaving (s : State) (d : Reg) (v : Word) : (s.wx d v).leaving = s.leaving := rfl
@[simp] theorem State.wx_apps (s : State) (d : Reg) (v : Word) : (s.wx d v).apps = s.apps := rfl
@[simp] theorem State.wx_tenants (s : State) (d : Reg) (v : Word) : (s.wx d v).tenants = s.tenants := rfl
@[simp] theorem State.wx_crews (s : State) (d : Reg) (v : Word) : (s.wx d v).crews = s.crews := rfl
@[simp] theorem State.wx_leases (s : State) (d : Reg) (v : Word) : (s.wx d v).leases = s.leases := rfl
@[simp] theorem State.wx_reserves (s : State) (d : Reg) (v : Word) : (s.wx d v).reserves = s.reserves := rfl
@[simp] theorem State.wx_nextCrew (s : State) (d : Reg) (v : Word) : (s.wx d v).nextCrew = s.nextCrew := rfl
@[simp] theorem State.wx_nextHart (s : State) (d : Reg) (v : Word) : (s.wx d v).nextHart = s.nextHart := rfl
@[simp] theorem State.wx_nextAccept (s : State) (d : Reg) (v : Word) : (s.wx d v).nextAccept = s.nextAccept := rfl
@[simp] theorem State.wx_nextPlaced (s : State) (d : Reg) (v : Word) : (s.wx d v).nextPlaced = s.nextPlaced := rfl
@[simp] theorem State.wx_transfers (s : State) (d : Reg) (v : Word) : (s.wx d v).transfers = s.transfers := rfl
@[simp] theorem State.wx_nextXfer (s : State) (d : Reg) (v : Word) : (s.wx d v).nextXfer = s.nextXfer := rfl
@[simp] theorem State.wx_trains (s : State) (d : Reg) (v : Word) : (s.wx d v).trains = s.trains := rfl
@[simp] theorem State.wx_nextTrain (s : State) (d : Reg) (v : Word) : (s.wx d v).nextTrain = s.nextTrain := rfl
@[simp] theorem State.wx_contribs (s : State) (d : Reg) (v : Word) : (s.wx d v).contribs = s.contribs := rfl
@[simp] theorem State.wx_rounds (s : State) (d : Reg) (v : Word) : (s.wx d v).rounds = s.rounds := rfl
@[simp] theorem State.wx_nextRound (s : State) (d : Reg) (v : Word) : (s.wx d v).nextRound = s.nextRound := rfl
@[simp] theorem State.wx_outbox (s : State) (d : Reg) (v : Word) : (s.wx d v).outbox = s.outbox := rfl
@[simp] theorem State.wx_unsent (s : State) (d : Reg) (v : Word) : (s.wx d v).unsent = s.unsent := rfl
@[simp] theorem State.wx_dstat (s : State) (d : Reg) (v : Word) : (s.wx d v).dstat = s.dstat := rfl
@[simp] theorem State.wx_dcause (s : State) (d : Reg) (v : Word) : (s.wx d v).dcause = s.dcause := rfl
@[simp] theorem State.wx_cmdCode (s : State) (d : Reg) (v : Word) : (s.wx d v).cmdCode = s.cmdCode := rfl
@[simp] theorem State.wx_cmdGo (s : State) (d : Reg) (v : Word) : (s.wx d v).cmdGo = s.cmdGo := rfl
@[simp] theorem State.wx_cmdArgs (s : State) (d : Reg) (v : Word) : (s.wx d v).cmdArgs = s.cmdArgs := rfl
@[simp] theorem State.wx_cmdRes (s : State) (d : Reg) (v : Word) : (s.wx d v).cmdRes = s.cmdRes := rfl
@[simp] theorem State.wx_cmdDetIndex (s : State) (d : Reg) (v : Word) : (s.wx d v).cmdDetIndex = s.cmdDetIndex := rfl
@[simp] theorem State.wx_cmdDetSect (s : State) (d : Reg) (v : Word) : (s.wx d v).cmdDetSect = s.cmdDetSect := rfl
@[simp] theorem State.wx_msix (s : State) (d : Reg) (v : Word) : (s.wx d v).msix = s.msix := rfl
@[simp] theorem State.wx_chan (s : State) (d : Reg) (v : Word) : (s.wx d v).chan = s.chan := rfl
@[simp] theorem State.wx_h2dNext (s : State) (d : Reg) (v : Word) : (s.wx d v).h2dNext = s.h2dNext := rfl
@[simp] theorem State.wx_d2hNext (s : State) (d : Reg) (v : Word) : (s.wx d v).d2hNext = s.d2hNext := rfl
@[simp] theorem State.wx_chanErr (s : State) (d : Reg) (v : Word) : (s.wx d v).chanErr = s.chanErr := rfl
@[simp] theorem State.wx_rbSpace (s : State) (d : Reg) (v : Word) : (s.wx d v).rbSpace = s.rbSpace := rfl
@[simp] theorem State.wx_rbFreeze (s : State) (d : Reg) (v : Word) : (s.wx d v).rbFreeze = s.rbFreeze := rfl
@[simp] theorem State.wx_rbCount (s : State) (d : Reg) (v : Word) : (s.wx d v).rbCount = s.rbCount := rfl
@[simp] theorem State.wx_rbGo (s : State) (d : Reg) (v : Word) : (s.wx d v).rbGo = s.rbGo := rfl
@[simp] theorem State.wx_rbAddr (s : State) (d : Reg) (v : Word) : (s.wx d v).rbAddr = s.rbAddr := rfl
@[simp] theorem State.wx_rbCode (s : State) (d : Reg) (v : Word) : (s.wx d v).rbCode = s.rbCode := rfl
@[simp] theorem State.wx_rbFirst (s : State) (d : Reg) (v : Word) : (s.wx d v).rbFirst = s.rbFirst := rfl
@[simp] theorem State.wx_rbData (s : State) (d : Reg) (v : Word) : (s.wx d v).rbData = s.rbData := rfl
@[simp] theorem State.wx_rbEnd (s : State) (d : Reg) (v : Word) : (s.wx d v).rbEnd = s.rbEnd := rfl
@[simp] theorem State.wx_rbReq (s : State) (d : Reg) (v : Word) : (s.wx d v).rbReq = s.rbReq := rfl
@[simp] theorem State.wx_spdmSession (s : State) (d : Reg) (v : Word) : (s.wx d v).spdmSession = s.spdmSession := rfl
@[simp] theorem State.wx_answers (s : State) (d : Reg) (v : Word) : (s.wx d v).answers = s.answers := rfl
@[simp] theorem State.wx_powerCap (s : State) (d : Reg) (v : Word) : (s.wx d v).powerCap = s.powerCap := rfl
@[simp] theorem State.wx_capPending (s : State) (d : Reg) (v : Word) : (s.wx d v).capPending = s.capPending := rfl
@[simp] theorem State.wx_throttled (s : State) (d : Reg) (v : Word) : (s.wx d v).throttled = s.throttled := rfl
@[simp] theorem State.wx_tripped (s : State) (d : Reg) (v : Word) : (s.wx d v).tripped = s.tripped := rfl
@[simp] theorem State.wx_standbyRail (s : State) (d : Reg) (v : Word) : (s.wx d v).standbyRail = s.standbyRail := rfl
@[simp] theorem State.wx_huskBooted (s : State) (d : Reg) (v : Word) : (s.wx d v).huskBooted = s.huskBooted := rfl
@[simp] theorem State.wx_rails (s : State) (d : Reg) (v : Word) : (s.wx d v).rails = s.rails := rfl
@[simp] theorem State.wx_bringStep (s : State) (d : Reg) (v : Word) : (s.wx d v).bringStep = s.bringStep := rfl
@[simp] theorem State.wx_bringDone (s : State) (d : Reg) (v : Word) : (s.wx d v).bringDone = s.bringDone := rfl
@[simp] theorem State.wx_bringSince (s : State) (d : Reg) (v : Word) : (s.wx d v).bringSince = s.bringSince := rfl
@[simp] theorem State.wx_fuseFault (s : State) (d : Reg) (v : Word) : (s.wx d v).fuseFault = s.fuseFault := rfl
@[simp] theorem State.wx_pclStarted (s : State) (d : Reg) (v : Word) : (s.wx d v).pclStarted = s.pclStarted := rfl
@[simp] theorem State.wx_keysOut (s : State) (d : Reg) (v : Word) : (s.wx d v).keysOut = s.keysOut := rfl
@[simp] theorem State.wx_locked (s : State) (d : Reg) (v : Word) : (s.wx d v).locked = s.locked := rfl
@[simp] theorem State.wx_zeroised (s : State) (d : Reg) (v : Word) : (s.wx d v).zeroised = s.zeroised := rfl
@[simp] theorem State.wx_unprovisioned (s : State) (d : Reg) (v : Word) : (s.wx d v).unprovisioned = s.unprovisioned := rfl
@[simp] theorem State.wx_bringStopped (s : State) (d : Reg) (v : Word) : (s.wx d v).bringStopped = s.bringStopped := rfl
@[simp] theorem State.wx_poolADown (s : State) (d : Reg) (v : Word) : (s.wx d v).poolADown = s.poolADown := rfl
@[simp] theorem State.wx_poolBDown (s : State) (d : Reg) (v : Word) : (s.wx d v).poolBDown = s.poolBDown := rfl
@[simp] theorem State.wx_ports (s : State) (d : Reg) (v : Word) : (s.wx d v).ports = s.ports := rfl
@[simp] theorem State.wx_alwaysLog (s : State) (d : Reg) (v : Word) : (s.wx d v).alwaysLog = s.alwaysLog := rfl
@[simp] theorem State.wx_dieLogs (s : State) (d : Reg) (v : Word) : (s.wx d v).dieLogs = s.dieLogs := rfl
@[simp] theorem State.wx_wsOpen (s : State) (d : Reg) (v : Word) : (s.wx d v).wsOpen = s.wsOpen := rfl
@[simp] theorem State.wx_ctxArea (s : State) (d : Reg) (v : Word) : (s.wx d v).ctxArea = s.ctxArea := rfl
@[simp] theorem State.wx_pclErr (s : State) (d : Reg) (v : Word) : (s.wx d v).pclErr = s.pclErr := rfl
@[simp] theorem State.wx_pclVal (s : State) (d : Reg) (v : Word) : (s.wx d v).pclVal = s.pclVal := rfl
@[simp] theorem State.wx_eccCorrected (s : State) (d : Reg) (v : Word) : (s.wx d v).eccCorrected = s.eccCorrected := rfl
@[simp] theorem State.wx_hostErrs (s : State) (d : Reg) (v : Word) : (s.wx d v).hostErrs = s.hostErrs := rfl
@[simp] theorem State.wx_cfgAnswers (s : State) (d : Reg) (v : Word) : (s.wx d v).cfgAnswers = s.cfgAnswers := rfl
@[simp] theorem State.wx_collNotices (s : State) (d : Reg) (v : Word) : (s.wx d v).collNotices = s.collNotices := rfl

/-! ### An application slot replaced -/

@[simp] theorem State.setApp_hart (s : State) (k : Nat) (a : App) : (s.setApp k a).hart = s.hart := rfl
@[simp] theorem State.setApp_others (s : State) (k : Nat) (a : App) : (s.setApp k a).others = s.others := rfl
@[simp] theorem State.setApp_events (s : State) (k : Nat) (a : App) : (s.setApp k a).events = s.events := rfl
@[simp] theorem State.setApp_jobs (s : State) (k : Nat) (a : App) : (s.setApp k a).jobs = s.jobs := rfl
@[simp] theorem State.setApp_inp (s : State) (k : Nat) (a : App) : (s.setApp k a).inp = s.inp := rfl
@[simp] theorem State.setApp_keepTurn (s : State) (k : Nat) (a : App) : (s.setApp k a).keepTurn = s.keepTurn := rfl
@[simp] theorem State.setApp_urgent (s : State) (k : Nat) (a : App) : (s.setApp k a).urgent = s.urgent := rfl
@[simp] theorem State.setApp_jobAge (s : State) (k : Nat) (a : App) : (s.setApp k a).jobAge = s.jobAge := rfl
@[simp] theorem State.setApp_xferAge (s : State) (k : Nat) (a : App) : (s.setApp k a).xferAge = s.xferAge := rfl
@[simp] theorem State.setApp_turns (s : State) (k : Nat) (a : App) : (s.setApp k a).turns = s.turns := rfl
@[simp] theorem State.setApp_clk (s : State) (k : Nat) (a : App) : (s.setApp k a).clk = s.clk := rfl
@[simp] theorem State.setApp_tick (s : State) (k : Nat) (a : App) : (s.setApp k a).tick = s.tick := rfl
@[simp] theorem State.setApp_pkg (s : State) (k : Nat) (a : App) : (s.setApp k a).pkg = s.pkg := rfl
@[simp] theorem State.setApp_domain (s : State) (k : Nat) (a : App) : (s.setApp k a).domain = s.domain := rfl
@[simp] theorem State.setApp_mem (s : State) (k : Nat) (a : App) : (s.setApp k a).mem = s.mem := rfl
@[simp] theorem State.setApp_hostMem (s : State) (k : Nat) (a : App) : (s.setApp k a).hostMem = s.hostMem := rfl
@[simp] theorem State.setApp_poison (s : State) (k : Nat) (a : App) : (s.setApp k a).poison = s.poison := rfl
@[simp] theorem State.setApp_segHdr (s : State) (k : Nat) (a : App) : (s.setApp k a).segHdr = s.segHdr := rfl
@[simp] theorem State.setApp_hdrPoison (s : State) (k : Nat) (a : App) : (s.setApp k a).hdrPoison = s.hdrPoison := rfl
@[simp] theorem State.setApp_leaving (s : State) (k : Nat) (a : App) : (s.setApp k a).leaving = s.leaving := rfl
@[simp] theorem State.setApp_tenants (s : State) (k : Nat) (a : App) : (s.setApp k a).tenants = s.tenants := rfl
@[simp] theorem State.setApp_crews (s : State) (k : Nat) (a : App) : (s.setApp k a).crews = s.crews := rfl
@[simp] theorem State.setApp_leases (s : State) (k : Nat) (a : App) : (s.setApp k a).leases = s.leases := rfl
@[simp] theorem State.setApp_reserves (s : State) (k : Nat) (a : App) : (s.setApp k a).reserves = s.reserves := rfl
@[simp] theorem State.setApp_nextCrew (s : State) (k : Nat) (a : App) : (s.setApp k a).nextCrew = s.nextCrew := rfl
@[simp] theorem State.setApp_nextHart (s : State) (k : Nat) (a : App) : (s.setApp k a).nextHart = s.nextHart := rfl
@[simp] theorem State.setApp_nextAccept (s : State) (k : Nat) (a : App) : (s.setApp k a).nextAccept = s.nextAccept := rfl
@[simp] theorem State.setApp_nextPlaced (s : State) (k : Nat) (a : App) : (s.setApp k a).nextPlaced = s.nextPlaced := rfl
@[simp] theorem State.setApp_transfers (s : State) (k : Nat) (a : App) : (s.setApp k a).transfers = s.transfers := rfl
@[simp] theorem State.setApp_nextXfer (s : State) (k : Nat) (a : App) : (s.setApp k a).nextXfer = s.nextXfer := rfl
@[simp] theorem State.setApp_trains (s : State) (k : Nat) (a : App) : (s.setApp k a).trains = s.trains := rfl
@[simp] theorem State.setApp_nextTrain (s : State) (k : Nat) (a : App) : (s.setApp k a).nextTrain = s.nextTrain := rfl
@[simp] theorem State.setApp_contribs (s : State) (k : Nat) (a : App) : (s.setApp k a).contribs = s.contribs := rfl
@[simp] theorem State.setApp_rounds (s : State) (k : Nat) (a : App) : (s.setApp k a).rounds = s.rounds := rfl
@[simp] theorem State.setApp_nextRound (s : State) (k : Nat) (a : App) : (s.setApp k a).nextRound = s.nextRound := rfl
@[simp] theorem State.setApp_outbox (s : State) (k : Nat) (a : App) : (s.setApp k a).outbox = s.outbox := rfl
@[simp] theorem State.setApp_unsent (s : State) (k : Nat) (a : App) : (s.setApp k a).unsent = s.unsent := rfl
@[simp] theorem State.setApp_dstat (s : State) (k : Nat) (a : App) : (s.setApp k a).dstat = s.dstat := rfl
@[simp] theorem State.setApp_dcause (s : State) (k : Nat) (a : App) : (s.setApp k a).dcause = s.dcause := rfl
@[simp] theorem State.setApp_cmdCode (s : State) (k : Nat) (a : App) : (s.setApp k a).cmdCode = s.cmdCode := rfl
@[simp] theorem State.setApp_cmdGo (s : State) (k : Nat) (a : App) : (s.setApp k a).cmdGo = s.cmdGo := rfl
@[simp] theorem State.setApp_cmdArgs (s : State) (k : Nat) (a : App) : (s.setApp k a).cmdArgs = s.cmdArgs := rfl
@[simp] theorem State.setApp_cmdRes (s : State) (k : Nat) (a : App) : (s.setApp k a).cmdRes = s.cmdRes := rfl
@[simp] theorem State.setApp_cmdDetIndex (s : State) (k : Nat) (a : App) : (s.setApp k a).cmdDetIndex = s.cmdDetIndex := rfl
@[simp] theorem State.setApp_cmdDetSect (s : State) (k : Nat) (a : App) : (s.setApp k a).cmdDetSect = s.cmdDetSect := rfl
@[simp] theorem State.setApp_msix (s : State) (k : Nat) (a : App) : (s.setApp k a).msix = s.msix := rfl
@[simp] theorem State.setApp_chan (s : State) (k : Nat) (a : App) : (s.setApp k a).chan = s.chan := rfl
@[simp] theorem State.setApp_h2dNext (s : State) (k : Nat) (a : App) : (s.setApp k a).h2dNext = s.h2dNext := rfl
@[simp] theorem State.setApp_d2hNext (s : State) (k : Nat) (a : App) : (s.setApp k a).d2hNext = s.d2hNext := rfl
@[simp] theorem State.setApp_chanErr (s : State) (k : Nat) (a : App) : (s.setApp k a).chanErr = s.chanErr := rfl
@[simp] theorem State.setApp_rbSpace (s : State) (k : Nat) (a : App) : (s.setApp k a).rbSpace = s.rbSpace := rfl
@[simp] theorem State.setApp_rbFreeze (s : State) (k : Nat) (a : App) : (s.setApp k a).rbFreeze = s.rbFreeze := rfl
@[simp] theorem State.setApp_rbCount (s : State) (k : Nat) (a : App) : (s.setApp k a).rbCount = s.rbCount := rfl
@[simp] theorem State.setApp_rbGo (s : State) (k : Nat) (a : App) : (s.setApp k a).rbGo = s.rbGo := rfl
@[simp] theorem State.setApp_rbAddr (s : State) (k : Nat) (a : App) : (s.setApp k a).rbAddr = s.rbAddr := rfl
@[simp] theorem State.setApp_rbCode (s : State) (k : Nat) (a : App) : (s.setApp k a).rbCode = s.rbCode := rfl
@[simp] theorem State.setApp_rbFirst (s : State) (k : Nat) (a : App) : (s.setApp k a).rbFirst = s.rbFirst := rfl
@[simp] theorem State.setApp_rbData (s : State) (k : Nat) (a : App) : (s.setApp k a).rbData = s.rbData := rfl
@[simp] theorem State.setApp_rbEnd (s : State) (k : Nat) (a : App) : (s.setApp k a).rbEnd = s.rbEnd := rfl
@[simp] theorem State.setApp_rbReq (s : State) (k : Nat) (a : App) : (s.setApp k a).rbReq = s.rbReq := rfl
@[simp] theorem State.setApp_spdmSession (s : State) (k : Nat) (a : App) : (s.setApp k a).spdmSession = s.spdmSession := rfl
@[simp] theorem State.setApp_answers (s : State) (k : Nat) (a : App) : (s.setApp k a).answers = s.answers := rfl
@[simp] theorem State.setApp_powerCap (s : State) (k : Nat) (a : App) : (s.setApp k a).powerCap = s.powerCap := rfl
@[simp] theorem State.setApp_capPending (s : State) (k : Nat) (a : App) : (s.setApp k a).capPending = s.capPending := rfl
@[simp] theorem State.setApp_throttled (s : State) (k : Nat) (a : App) : (s.setApp k a).throttled = s.throttled := rfl
@[simp] theorem State.setApp_tripped (s : State) (k : Nat) (a : App) : (s.setApp k a).tripped = s.tripped := rfl
@[simp] theorem State.setApp_standbyRail (s : State) (k : Nat) (a : App) : (s.setApp k a).standbyRail = s.standbyRail := rfl
@[simp] theorem State.setApp_huskBooted (s : State) (k : Nat) (a : App) : (s.setApp k a).huskBooted = s.huskBooted := rfl
@[simp] theorem State.setApp_rails (s : State) (k : Nat) (a : App) : (s.setApp k a).rails = s.rails := rfl
@[simp] theorem State.setApp_bringStep (s : State) (k : Nat) (a : App) : (s.setApp k a).bringStep = s.bringStep := rfl
@[simp] theorem State.setApp_bringDone (s : State) (k : Nat) (a : App) : (s.setApp k a).bringDone = s.bringDone := rfl
@[simp] theorem State.setApp_bringSince (s : State) (k : Nat) (a : App) : (s.setApp k a).bringSince = s.bringSince := rfl
@[simp] theorem State.setApp_fuseFault (s : State) (k : Nat) (a : App) : (s.setApp k a).fuseFault = s.fuseFault := rfl
@[simp] theorem State.setApp_pclStarted (s : State) (k : Nat) (a : App) : (s.setApp k a).pclStarted = s.pclStarted := rfl
@[simp] theorem State.setApp_keysOut (s : State) (k : Nat) (a : App) : (s.setApp k a).keysOut = s.keysOut := rfl
@[simp] theorem State.setApp_locked (s : State) (k : Nat) (a : App) : (s.setApp k a).locked = s.locked := rfl
@[simp] theorem State.setApp_zeroised (s : State) (k : Nat) (a : App) : (s.setApp k a).zeroised = s.zeroised := rfl
@[simp] theorem State.setApp_unprovisioned (s : State) (k : Nat) (a : App) : (s.setApp k a).unprovisioned = s.unprovisioned := rfl
@[simp] theorem State.setApp_bringStopped (s : State) (k : Nat) (a : App) : (s.setApp k a).bringStopped = s.bringStopped := rfl
@[simp] theorem State.setApp_poolADown (s : State) (k : Nat) (a : App) : (s.setApp k a).poolADown = s.poolADown := rfl
@[simp] theorem State.setApp_poolBDown (s : State) (k : Nat) (a : App) : (s.setApp k a).poolBDown = s.poolBDown := rfl
@[simp] theorem State.setApp_ports (s : State) (k : Nat) (a : App) : (s.setApp k a).ports = s.ports := rfl
@[simp] theorem State.setApp_alwaysLog (s : State) (k : Nat) (a : App) : (s.setApp k a).alwaysLog = s.alwaysLog := rfl
@[simp] theorem State.setApp_dieLogs (s : State) (k : Nat) (a : App) : (s.setApp k a).dieLogs = s.dieLogs := rfl
@[simp] theorem State.setApp_wsOpen (s : State) (k : Nat) (a : App) : (s.setApp k a).wsOpen = s.wsOpen := rfl
@[simp] theorem State.setApp_ctxArea (s : State) (k : Nat) (a : App) : (s.setApp k a).ctxArea = s.ctxArea := rfl
@[simp] theorem State.setApp_pclErr (s : State) (k : Nat) (a : App) : (s.setApp k a).pclErr = s.pclErr := rfl
@[simp] theorem State.setApp_pclVal (s : State) (k : Nat) (a : App) : (s.setApp k a).pclVal = s.pclVal := rfl
@[simp] theorem State.setApp_eccCorrected (s : State) (k : Nat) (a : App) : (s.setApp k a).eccCorrected = s.eccCorrected := rfl
@[simp] theorem State.setApp_hostErrs (s : State) (k : Nat) (a : App) : (s.setApp k a).hostErrs = s.hostErrs := rfl
@[simp] theorem State.setApp_cfgAnswers (s : State) (k : Nat) (a : App) : (s.setApp k a).cfgAnswers = s.cfgAnswers := rfl
@[simp] theorem State.setApp_collNotices (s : State) (k : Nat) (a : App) : (s.setApp k a).collNotices = s.collNotices := rfl

/-! ### A crew changed -/

@[simp] theorem State.updCrew_hart (s : State) (k : Nat) (f : Crew → Crew) : (s.updCrew k f).hart = s.hart := rfl
@[simp] theorem State.updCrew_others (s : State) (k : Nat) (f : Crew → Crew) : (s.updCrew k f).others = s.others := rfl
@[simp] theorem State.updCrew_events (s : State) (k : Nat) (f : Crew → Crew) : (s.updCrew k f).events = s.events := rfl
@[simp] theorem State.updCrew_jobs (s : State) (k : Nat) (f : Crew → Crew) : (s.updCrew k f).jobs = s.jobs := rfl
@[simp] theorem State.updCrew_inp (s : State) (k : Nat) (f : Crew → Crew) : (s.updCrew k f).inp = s.inp := rfl
@[simp] theorem State.updCrew_keepTurn (s : State) (k : Nat) (f : Crew → Crew) : (s.updCrew k f).keepTurn = s.keepTurn := rfl
@[simp] theorem State.updCrew_urgent (s : State) (k : Nat) (f : Crew → Crew) : (s.updCrew k f).urgent = s.urgent := rfl
@[simp] theorem State.updCrew_jobAge (s : State) (k : Nat) (f : Crew → Crew) : (s.updCrew k f).jobAge = s.jobAge := rfl
@[simp] theorem State.updCrew_xferAge (s : State) (k : Nat) (f : Crew → Crew) : (s.updCrew k f).xferAge = s.xferAge := rfl
@[simp] theorem State.updCrew_turns (s : State) (k : Nat) (f : Crew → Crew) : (s.updCrew k f).turns = s.turns := rfl
@[simp] theorem State.updCrew_clk (s : State) (k : Nat) (f : Crew → Crew) : (s.updCrew k f).clk = s.clk := rfl
@[simp] theorem State.updCrew_tick (s : State) (k : Nat) (f : Crew → Crew) : (s.updCrew k f).tick = s.tick := rfl
@[simp] theorem State.updCrew_pkg (s : State) (k : Nat) (f : Crew → Crew) : (s.updCrew k f).pkg = s.pkg := rfl
@[simp] theorem State.updCrew_domain (s : State) (k : Nat) (f : Crew → Crew) : (s.updCrew k f).domain = s.domain := rfl
@[simp] theorem State.updCrew_mem (s : State) (k : Nat) (f : Crew → Crew) : (s.updCrew k f).mem = s.mem := rfl
@[simp] theorem State.updCrew_hostMem (s : State) (k : Nat) (f : Crew → Crew) : (s.updCrew k f).hostMem = s.hostMem := rfl
@[simp] theorem State.updCrew_poison (s : State) (k : Nat) (f : Crew → Crew) : (s.updCrew k f).poison = s.poison := rfl
@[simp] theorem State.updCrew_segHdr (s : State) (k : Nat) (f : Crew → Crew) : (s.updCrew k f).segHdr = s.segHdr := rfl
@[simp] theorem State.updCrew_hdrPoison (s : State) (k : Nat) (f : Crew → Crew) : (s.updCrew k f).hdrPoison = s.hdrPoison := rfl
@[simp] theorem State.updCrew_leaving (s : State) (k : Nat) (f : Crew → Crew) : (s.updCrew k f).leaving = s.leaving := rfl
@[simp] theorem State.updCrew_apps (s : State) (k : Nat) (f : Crew → Crew) : (s.updCrew k f).apps = s.apps := rfl
@[simp] theorem State.updCrew_tenants (s : State) (k : Nat) (f : Crew → Crew) : (s.updCrew k f).tenants = s.tenants := rfl
@[simp] theorem State.updCrew_leases (s : State) (k : Nat) (f : Crew → Crew) : (s.updCrew k f).leases = s.leases := rfl
@[simp] theorem State.updCrew_reserves (s : State) (k : Nat) (f : Crew → Crew) : (s.updCrew k f).reserves = s.reserves := rfl
@[simp] theorem State.updCrew_nextCrew (s : State) (k : Nat) (f : Crew → Crew) : (s.updCrew k f).nextCrew = s.nextCrew := rfl
@[simp] theorem State.updCrew_nextHart (s : State) (k : Nat) (f : Crew → Crew) : (s.updCrew k f).nextHart = s.nextHart := rfl
@[simp] theorem State.updCrew_nextAccept (s : State) (k : Nat) (f : Crew → Crew) : (s.updCrew k f).nextAccept = s.nextAccept := rfl
@[simp] theorem State.updCrew_nextPlaced (s : State) (k : Nat) (f : Crew → Crew) : (s.updCrew k f).nextPlaced = s.nextPlaced := rfl
@[simp] theorem State.updCrew_transfers (s : State) (k : Nat) (f : Crew → Crew) : (s.updCrew k f).transfers = s.transfers := rfl
@[simp] theorem State.updCrew_nextXfer (s : State) (k : Nat) (f : Crew → Crew) : (s.updCrew k f).nextXfer = s.nextXfer := rfl
@[simp] theorem State.updCrew_trains (s : State) (k : Nat) (f : Crew → Crew) : (s.updCrew k f).trains = s.trains := rfl
@[simp] theorem State.updCrew_nextTrain (s : State) (k : Nat) (f : Crew → Crew) : (s.updCrew k f).nextTrain = s.nextTrain := rfl
@[simp] theorem State.updCrew_contribs (s : State) (k : Nat) (f : Crew → Crew) : (s.updCrew k f).contribs = s.contribs := rfl
@[simp] theorem State.updCrew_rounds (s : State) (k : Nat) (f : Crew → Crew) : (s.updCrew k f).rounds = s.rounds := rfl
@[simp] theorem State.updCrew_nextRound (s : State) (k : Nat) (f : Crew → Crew) : (s.updCrew k f).nextRound = s.nextRound := rfl
@[simp] theorem State.updCrew_outbox (s : State) (k : Nat) (f : Crew → Crew) : (s.updCrew k f).outbox = s.outbox := rfl
@[simp] theorem State.updCrew_unsent (s : State) (k : Nat) (f : Crew → Crew) : (s.updCrew k f).unsent = s.unsent := rfl
@[simp] theorem State.updCrew_dstat (s : State) (k : Nat) (f : Crew → Crew) : (s.updCrew k f).dstat = s.dstat := rfl
@[simp] theorem State.updCrew_dcause (s : State) (k : Nat) (f : Crew → Crew) : (s.updCrew k f).dcause = s.dcause := rfl
@[simp] theorem State.updCrew_cmdCode (s : State) (k : Nat) (f : Crew → Crew) : (s.updCrew k f).cmdCode = s.cmdCode := rfl
@[simp] theorem State.updCrew_cmdGo (s : State) (k : Nat) (f : Crew → Crew) : (s.updCrew k f).cmdGo = s.cmdGo := rfl
@[simp] theorem State.updCrew_cmdArgs (s : State) (k : Nat) (f : Crew → Crew) : (s.updCrew k f).cmdArgs = s.cmdArgs := rfl
@[simp] theorem State.updCrew_cmdRes (s : State) (k : Nat) (f : Crew → Crew) : (s.updCrew k f).cmdRes = s.cmdRes := rfl
@[simp] theorem State.updCrew_cmdDetIndex (s : State) (k : Nat) (f : Crew → Crew) : (s.updCrew k f).cmdDetIndex = s.cmdDetIndex := rfl
@[simp] theorem State.updCrew_cmdDetSect (s : State) (k : Nat) (f : Crew → Crew) : (s.updCrew k f).cmdDetSect = s.cmdDetSect := rfl
@[simp] theorem State.updCrew_msix (s : State) (k : Nat) (f : Crew → Crew) : (s.updCrew k f).msix = s.msix := rfl
@[simp] theorem State.updCrew_chan (s : State) (k : Nat) (f : Crew → Crew) : (s.updCrew k f).chan = s.chan := rfl
@[simp] theorem State.updCrew_h2dNext (s : State) (k : Nat) (f : Crew → Crew) : (s.updCrew k f).h2dNext = s.h2dNext := rfl
@[simp] theorem State.updCrew_d2hNext (s : State) (k : Nat) (f : Crew → Crew) : (s.updCrew k f).d2hNext = s.d2hNext := rfl
@[simp] theorem State.updCrew_chanErr (s : State) (k : Nat) (f : Crew → Crew) : (s.updCrew k f).chanErr = s.chanErr := rfl
@[simp] theorem State.updCrew_rbSpace (s : State) (k : Nat) (f : Crew → Crew) : (s.updCrew k f).rbSpace = s.rbSpace := rfl
@[simp] theorem State.updCrew_rbFreeze (s : State) (k : Nat) (f : Crew → Crew) : (s.updCrew k f).rbFreeze = s.rbFreeze := rfl
@[simp] theorem State.updCrew_rbCount (s : State) (k : Nat) (f : Crew → Crew) : (s.updCrew k f).rbCount = s.rbCount := rfl
@[simp] theorem State.updCrew_rbGo (s : State) (k : Nat) (f : Crew → Crew) : (s.updCrew k f).rbGo = s.rbGo := rfl
@[simp] theorem State.updCrew_rbAddr (s : State) (k : Nat) (f : Crew → Crew) : (s.updCrew k f).rbAddr = s.rbAddr := rfl
@[simp] theorem State.updCrew_rbCode (s : State) (k : Nat) (f : Crew → Crew) : (s.updCrew k f).rbCode = s.rbCode := rfl
@[simp] theorem State.updCrew_rbFirst (s : State) (k : Nat) (f : Crew → Crew) : (s.updCrew k f).rbFirst = s.rbFirst := rfl
@[simp] theorem State.updCrew_rbData (s : State) (k : Nat) (f : Crew → Crew) : (s.updCrew k f).rbData = s.rbData := rfl
@[simp] theorem State.updCrew_rbEnd (s : State) (k : Nat) (f : Crew → Crew) : (s.updCrew k f).rbEnd = s.rbEnd := rfl
@[simp] theorem State.updCrew_rbReq (s : State) (k : Nat) (f : Crew → Crew) : (s.updCrew k f).rbReq = s.rbReq := rfl
@[simp] theorem State.updCrew_spdmSession (s : State) (k : Nat) (f : Crew → Crew) : (s.updCrew k f).spdmSession = s.spdmSession := rfl
@[simp] theorem State.updCrew_answers (s : State) (k : Nat) (f : Crew → Crew) : (s.updCrew k f).answers = s.answers := rfl
@[simp] theorem State.updCrew_powerCap (s : State) (k : Nat) (f : Crew → Crew) : (s.updCrew k f).powerCap = s.powerCap := rfl
@[simp] theorem State.updCrew_capPending (s : State) (k : Nat) (f : Crew → Crew) : (s.updCrew k f).capPending = s.capPending := rfl
@[simp] theorem State.updCrew_throttled (s : State) (k : Nat) (f : Crew → Crew) : (s.updCrew k f).throttled = s.throttled := rfl
@[simp] theorem State.updCrew_tripped (s : State) (k : Nat) (f : Crew → Crew) : (s.updCrew k f).tripped = s.tripped := rfl
@[simp] theorem State.updCrew_standbyRail (s : State) (k : Nat) (f : Crew → Crew) : (s.updCrew k f).standbyRail = s.standbyRail := rfl
@[simp] theorem State.updCrew_huskBooted (s : State) (k : Nat) (f : Crew → Crew) : (s.updCrew k f).huskBooted = s.huskBooted := rfl
@[simp] theorem State.updCrew_rails (s : State) (k : Nat) (f : Crew → Crew) : (s.updCrew k f).rails = s.rails := rfl
@[simp] theorem State.updCrew_bringStep (s : State) (k : Nat) (f : Crew → Crew) : (s.updCrew k f).bringStep = s.bringStep := rfl
@[simp] theorem State.updCrew_bringDone (s : State) (k : Nat) (f : Crew → Crew) : (s.updCrew k f).bringDone = s.bringDone := rfl
@[simp] theorem State.updCrew_bringSince (s : State) (k : Nat) (f : Crew → Crew) : (s.updCrew k f).bringSince = s.bringSince := rfl
@[simp] theorem State.updCrew_fuseFault (s : State) (k : Nat) (f : Crew → Crew) : (s.updCrew k f).fuseFault = s.fuseFault := rfl
@[simp] theorem State.updCrew_pclStarted (s : State) (k : Nat) (f : Crew → Crew) : (s.updCrew k f).pclStarted = s.pclStarted := rfl
@[simp] theorem State.updCrew_keysOut (s : State) (k : Nat) (f : Crew → Crew) : (s.updCrew k f).keysOut = s.keysOut := rfl
@[simp] theorem State.updCrew_locked (s : State) (k : Nat) (f : Crew → Crew) : (s.updCrew k f).locked = s.locked := rfl
@[simp] theorem State.updCrew_zeroised (s : State) (k : Nat) (f : Crew → Crew) : (s.updCrew k f).zeroised = s.zeroised := rfl
@[simp] theorem State.updCrew_unprovisioned (s : State) (k : Nat) (f : Crew → Crew) : (s.updCrew k f).unprovisioned = s.unprovisioned := rfl
@[simp] theorem State.updCrew_bringStopped (s : State) (k : Nat) (f : Crew → Crew) : (s.updCrew k f).bringStopped = s.bringStopped := rfl
@[simp] theorem State.updCrew_poolADown (s : State) (k : Nat) (f : Crew → Crew) : (s.updCrew k f).poolADown = s.poolADown := rfl
@[simp] theorem State.updCrew_poolBDown (s : State) (k : Nat) (f : Crew → Crew) : (s.updCrew k f).poolBDown = s.poolBDown := rfl
@[simp] theorem State.updCrew_ports (s : State) (k : Nat) (f : Crew → Crew) : (s.updCrew k f).ports = s.ports := rfl
@[simp] theorem State.updCrew_alwaysLog (s : State) (k : Nat) (f : Crew → Crew) : (s.updCrew k f).alwaysLog = s.alwaysLog := rfl
@[simp] theorem State.updCrew_dieLogs (s : State) (k : Nat) (f : Crew → Crew) : (s.updCrew k f).dieLogs = s.dieLogs := rfl
@[simp] theorem State.updCrew_wsOpen (s : State) (k : Nat) (f : Crew → Crew) : (s.updCrew k f).wsOpen = s.wsOpen := rfl
@[simp] theorem State.updCrew_ctxArea (s : State) (k : Nat) (f : Crew → Crew) : (s.updCrew k f).ctxArea = s.ctxArea := rfl
@[simp] theorem State.updCrew_pclErr (s : State) (k : Nat) (f : Crew → Crew) : (s.updCrew k f).pclErr = s.pclErr := rfl
@[simp] theorem State.updCrew_pclVal (s : State) (k : Nat) (f : Crew → Crew) : (s.updCrew k f).pclVal = s.pclVal := rfl
@[simp] theorem State.updCrew_eccCorrected (s : State) (k : Nat) (f : Crew → Crew) : (s.updCrew k f).eccCorrected = s.eccCorrected := rfl
@[simp] theorem State.updCrew_hostErrs (s : State) (k : Nat) (f : Crew → Crew) : (s.updCrew k f).hostErrs = s.hostErrs := rfl
@[simp] theorem State.updCrew_cfgAnswers (s : State) (k : Nat) (f : Crew → Crew) : (s.updCrew k f).cfgAnswers = s.cfgAnswers := rfl
@[simp] theorem State.updCrew_collNotices (s : State) (k : Nat) (f : Crew → Crew) : (s.updCrew k f).collNotices = s.collNotices := rfl

/-! ### Harts changed -/

@[simp] theorem State.mapHarts_events (s : State) (p : Hart → Bool) (f : Hart → Hart) : (s.mapHarts p f).events = s.events := rfl
@[simp] theorem State.mapHarts_jobs (s : State) (p : Hart → Bool) (f : Hart → Hart) : (s.mapHarts p f).jobs = s.jobs := rfl
@[simp] theorem State.mapHarts_inp (s : State) (p : Hart → Bool) (f : Hart → Hart) : (s.mapHarts p f).inp = s.inp := rfl
@[simp] theorem State.mapHarts_keepTurn (s : State) (p : Hart → Bool) (f : Hart → Hart) : (s.mapHarts p f).keepTurn = s.keepTurn := rfl
@[simp] theorem State.mapHarts_urgent (s : State) (p : Hart → Bool) (f : Hart → Hart) : (s.mapHarts p f).urgent = s.urgent := rfl
@[simp] theorem State.mapHarts_jobAge (s : State) (p : Hart → Bool) (f : Hart → Hart) : (s.mapHarts p f).jobAge = s.jobAge := rfl
@[simp] theorem State.mapHarts_xferAge (s : State) (p : Hart → Bool) (f : Hart → Hart) : (s.mapHarts p f).xferAge = s.xferAge := rfl
@[simp] theorem State.mapHarts_turns (s : State) (p : Hart → Bool) (f : Hart → Hart) : (s.mapHarts p f).turns = s.turns := rfl
@[simp] theorem State.mapHarts_clk (s : State) (p : Hart → Bool) (f : Hart → Hart) : (s.mapHarts p f).clk = s.clk := rfl
@[simp] theorem State.mapHarts_tick (s : State) (p : Hart → Bool) (f : Hart → Hart) : (s.mapHarts p f).tick = s.tick := rfl
@[simp] theorem State.mapHarts_pkg (s : State) (p : Hart → Bool) (f : Hart → Hart) : (s.mapHarts p f).pkg = s.pkg := rfl
@[simp] theorem State.mapHarts_domain (s : State) (p : Hart → Bool) (f : Hart → Hart) : (s.mapHarts p f).domain = s.domain := rfl
@[simp] theorem State.mapHarts_mem (s : State) (p : Hart → Bool) (f : Hart → Hart) : (s.mapHarts p f).mem = s.mem := rfl
@[simp] theorem State.mapHarts_hostMem (s : State) (p : Hart → Bool) (f : Hart → Hart) : (s.mapHarts p f).hostMem = s.hostMem := rfl
@[simp] theorem State.mapHarts_poison (s : State) (p : Hart → Bool) (f : Hart → Hart) : (s.mapHarts p f).poison = s.poison := rfl
@[simp] theorem State.mapHarts_segHdr (s : State) (p : Hart → Bool) (f : Hart → Hart) : (s.mapHarts p f).segHdr = s.segHdr := rfl
@[simp] theorem State.mapHarts_hdrPoison (s : State) (p : Hart → Bool) (f : Hart → Hart) : (s.mapHarts p f).hdrPoison = s.hdrPoison := rfl
@[simp] theorem State.mapHarts_leaving (s : State) (p : Hart → Bool) (f : Hart → Hart) : (s.mapHarts p f).leaving = s.leaving := rfl
@[simp] theorem State.mapHarts_apps (s : State) (p : Hart → Bool) (f : Hart → Hart) : (s.mapHarts p f).apps = s.apps := rfl
@[simp] theorem State.mapHarts_tenants (s : State) (p : Hart → Bool) (f : Hart → Hart) : (s.mapHarts p f).tenants = s.tenants := rfl
@[simp] theorem State.mapHarts_crews (s : State) (p : Hart → Bool) (f : Hart → Hart) : (s.mapHarts p f).crews = s.crews := rfl
@[simp] theorem State.mapHarts_leases (s : State) (p : Hart → Bool) (f : Hart → Hart) : (s.mapHarts p f).leases = s.leases := rfl
@[simp] theorem State.mapHarts_reserves (s : State) (p : Hart → Bool) (f : Hart → Hart) : (s.mapHarts p f).reserves = s.reserves := rfl
@[simp] theorem State.mapHarts_nextCrew (s : State) (p : Hart → Bool) (f : Hart → Hart) : (s.mapHarts p f).nextCrew = s.nextCrew := rfl
@[simp] theorem State.mapHarts_nextHart (s : State) (p : Hart → Bool) (f : Hart → Hart) : (s.mapHarts p f).nextHart = s.nextHart := rfl
@[simp] theorem State.mapHarts_nextAccept (s : State) (p : Hart → Bool) (f : Hart → Hart) : (s.mapHarts p f).nextAccept = s.nextAccept := rfl
@[simp] theorem State.mapHarts_nextPlaced (s : State) (p : Hart → Bool) (f : Hart → Hart) : (s.mapHarts p f).nextPlaced = s.nextPlaced := rfl
@[simp] theorem State.mapHarts_transfers (s : State) (p : Hart → Bool) (f : Hart → Hart) : (s.mapHarts p f).transfers = s.transfers := rfl
@[simp] theorem State.mapHarts_nextXfer (s : State) (p : Hart → Bool) (f : Hart → Hart) : (s.mapHarts p f).nextXfer = s.nextXfer := rfl
@[simp] theorem State.mapHarts_trains (s : State) (p : Hart → Bool) (f : Hart → Hart) : (s.mapHarts p f).trains = s.trains := rfl
@[simp] theorem State.mapHarts_nextTrain (s : State) (p : Hart → Bool) (f : Hart → Hart) : (s.mapHarts p f).nextTrain = s.nextTrain := rfl
@[simp] theorem State.mapHarts_contribs (s : State) (p : Hart → Bool) (f : Hart → Hart) : (s.mapHarts p f).contribs = s.contribs := rfl
@[simp] theorem State.mapHarts_rounds (s : State) (p : Hart → Bool) (f : Hart → Hart) : (s.mapHarts p f).rounds = s.rounds := rfl
@[simp] theorem State.mapHarts_nextRound (s : State) (p : Hart → Bool) (f : Hart → Hart) : (s.mapHarts p f).nextRound = s.nextRound := rfl
@[simp] theorem State.mapHarts_outbox (s : State) (p : Hart → Bool) (f : Hart → Hart) : (s.mapHarts p f).outbox = s.outbox := rfl
@[simp] theorem State.mapHarts_unsent (s : State) (p : Hart → Bool) (f : Hart → Hart) : (s.mapHarts p f).unsent = s.unsent := rfl
@[simp] theorem State.mapHarts_dstat (s : State) (p : Hart → Bool) (f : Hart → Hart) : (s.mapHarts p f).dstat = s.dstat := rfl
@[simp] theorem State.mapHarts_dcause (s : State) (p : Hart → Bool) (f : Hart → Hart) : (s.mapHarts p f).dcause = s.dcause := rfl
@[simp] theorem State.mapHarts_cmdCode (s : State) (p : Hart → Bool) (f : Hart → Hart) : (s.mapHarts p f).cmdCode = s.cmdCode := rfl
@[simp] theorem State.mapHarts_cmdGo (s : State) (p : Hart → Bool) (f : Hart → Hart) : (s.mapHarts p f).cmdGo = s.cmdGo := rfl
@[simp] theorem State.mapHarts_cmdArgs (s : State) (p : Hart → Bool) (f : Hart → Hart) : (s.mapHarts p f).cmdArgs = s.cmdArgs := rfl
@[simp] theorem State.mapHarts_cmdRes (s : State) (p : Hart → Bool) (f : Hart → Hart) : (s.mapHarts p f).cmdRes = s.cmdRes := rfl
@[simp] theorem State.mapHarts_cmdDetIndex (s : State) (p : Hart → Bool) (f : Hart → Hart) : (s.mapHarts p f).cmdDetIndex = s.cmdDetIndex := rfl
@[simp] theorem State.mapHarts_cmdDetSect (s : State) (p : Hart → Bool) (f : Hart → Hart) : (s.mapHarts p f).cmdDetSect = s.cmdDetSect := rfl
@[simp] theorem State.mapHarts_msix (s : State) (p : Hart → Bool) (f : Hart → Hart) : (s.mapHarts p f).msix = s.msix := rfl
@[simp] theorem State.mapHarts_chan (s : State) (p : Hart → Bool) (f : Hart → Hart) : (s.mapHarts p f).chan = s.chan := rfl
@[simp] theorem State.mapHarts_h2dNext (s : State) (p : Hart → Bool) (f : Hart → Hart) : (s.mapHarts p f).h2dNext = s.h2dNext := rfl
@[simp] theorem State.mapHarts_d2hNext (s : State) (p : Hart → Bool) (f : Hart → Hart) : (s.mapHarts p f).d2hNext = s.d2hNext := rfl
@[simp] theorem State.mapHarts_chanErr (s : State) (p : Hart → Bool) (f : Hart → Hart) : (s.mapHarts p f).chanErr = s.chanErr := rfl
@[simp] theorem State.mapHarts_rbSpace (s : State) (p : Hart → Bool) (f : Hart → Hart) : (s.mapHarts p f).rbSpace = s.rbSpace := rfl
@[simp] theorem State.mapHarts_rbFreeze (s : State) (p : Hart → Bool) (f : Hart → Hart) : (s.mapHarts p f).rbFreeze = s.rbFreeze := rfl
@[simp] theorem State.mapHarts_rbCount (s : State) (p : Hart → Bool) (f : Hart → Hart) : (s.mapHarts p f).rbCount = s.rbCount := rfl
@[simp] theorem State.mapHarts_rbGo (s : State) (p : Hart → Bool) (f : Hart → Hart) : (s.mapHarts p f).rbGo = s.rbGo := rfl
@[simp] theorem State.mapHarts_rbAddr (s : State) (p : Hart → Bool) (f : Hart → Hart) : (s.mapHarts p f).rbAddr = s.rbAddr := rfl
@[simp] theorem State.mapHarts_rbCode (s : State) (p : Hart → Bool) (f : Hart → Hart) : (s.mapHarts p f).rbCode = s.rbCode := rfl
@[simp] theorem State.mapHarts_rbFirst (s : State) (p : Hart → Bool) (f : Hart → Hart) : (s.mapHarts p f).rbFirst = s.rbFirst := rfl
@[simp] theorem State.mapHarts_rbData (s : State) (p : Hart → Bool) (f : Hart → Hart) : (s.mapHarts p f).rbData = s.rbData := rfl
@[simp] theorem State.mapHarts_rbEnd (s : State) (p : Hart → Bool) (f : Hart → Hart) : (s.mapHarts p f).rbEnd = s.rbEnd := rfl
@[simp] theorem State.mapHarts_rbReq (s : State) (p : Hart → Bool) (f : Hart → Hart) : (s.mapHarts p f).rbReq = s.rbReq := rfl
@[simp] theorem State.mapHarts_spdmSession (s : State) (p : Hart → Bool) (f : Hart → Hart) : (s.mapHarts p f).spdmSession = s.spdmSession := rfl
@[simp] theorem State.mapHarts_answers (s : State) (p : Hart → Bool) (f : Hart → Hart) : (s.mapHarts p f).answers = s.answers := rfl
@[simp] theorem State.mapHarts_powerCap (s : State) (p : Hart → Bool) (f : Hart → Hart) : (s.mapHarts p f).powerCap = s.powerCap := rfl
@[simp] theorem State.mapHarts_capPending (s : State) (p : Hart → Bool) (f : Hart → Hart) : (s.mapHarts p f).capPending = s.capPending := rfl
@[simp] theorem State.mapHarts_throttled (s : State) (p : Hart → Bool) (f : Hart → Hart) : (s.mapHarts p f).throttled = s.throttled := rfl
@[simp] theorem State.mapHarts_tripped (s : State) (p : Hart → Bool) (f : Hart → Hart) : (s.mapHarts p f).tripped = s.tripped := rfl
@[simp] theorem State.mapHarts_standbyRail (s : State) (p : Hart → Bool) (f : Hart → Hart) : (s.mapHarts p f).standbyRail = s.standbyRail := rfl
@[simp] theorem State.mapHarts_huskBooted (s : State) (p : Hart → Bool) (f : Hart → Hart) : (s.mapHarts p f).huskBooted = s.huskBooted := rfl
@[simp] theorem State.mapHarts_rails (s : State) (p : Hart → Bool) (f : Hart → Hart) : (s.mapHarts p f).rails = s.rails := rfl
@[simp] theorem State.mapHarts_bringStep (s : State) (p : Hart → Bool) (f : Hart → Hart) : (s.mapHarts p f).bringStep = s.bringStep := rfl
@[simp] theorem State.mapHarts_bringDone (s : State) (p : Hart → Bool) (f : Hart → Hart) : (s.mapHarts p f).bringDone = s.bringDone := rfl
@[simp] theorem State.mapHarts_bringSince (s : State) (p : Hart → Bool) (f : Hart → Hart) : (s.mapHarts p f).bringSince = s.bringSince := rfl
@[simp] theorem State.mapHarts_fuseFault (s : State) (p : Hart → Bool) (f : Hart → Hart) : (s.mapHarts p f).fuseFault = s.fuseFault := rfl
@[simp] theorem State.mapHarts_pclStarted (s : State) (p : Hart → Bool) (f : Hart → Hart) : (s.mapHarts p f).pclStarted = s.pclStarted := rfl
@[simp] theorem State.mapHarts_keysOut (s : State) (p : Hart → Bool) (f : Hart → Hart) : (s.mapHarts p f).keysOut = s.keysOut := rfl
@[simp] theorem State.mapHarts_locked (s : State) (p : Hart → Bool) (f : Hart → Hart) : (s.mapHarts p f).locked = s.locked := rfl
@[simp] theorem State.mapHarts_zeroised (s : State) (p : Hart → Bool) (f : Hart → Hart) : (s.mapHarts p f).zeroised = s.zeroised := rfl
@[simp] theorem State.mapHarts_unprovisioned (s : State) (p : Hart → Bool) (f : Hart → Hart) : (s.mapHarts p f).unprovisioned = s.unprovisioned := rfl
@[simp] theorem State.mapHarts_bringStopped (s : State) (p : Hart → Bool) (f : Hart → Hart) : (s.mapHarts p f).bringStopped = s.bringStopped := rfl
@[simp] theorem State.mapHarts_poolADown (s : State) (p : Hart → Bool) (f : Hart → Hart) : (s.mapHarts p f).poolADown = s.poolADown := rfl
@[simp] theorem State.mapHarts_poolBDown (s : State) (p : Hart → Bool) (f : Hart → Hart) : (s.mapHarts p f).poolBDown = s.poolBDown := rfl
@[simp] theorem State.mapHarts_ports (s : State) (p : Hart → Bool) (f : Hart → Hart) : (s.mapHarts p f).ports = s.ports := rfl
@[simp] theorem State.mapHarts_alwaysLog (s : State) (p : Hart → Bool) (f : Hart → Hart) : (s.mapHarts p f).alwaysLog = s.alwaysLog := rfl
@[simp] theorem State.mapHarts_dieLogs (s : State) (p : Hart → Bool) (f : Hart → Hart) : (s.mapHarts p f).dieLogs = s.dieLogs := rfl
@[simp] theorem State.mapHarts_wsOpen (s : State) (p : Hart → Bool) (f : Hart → Hart) : (s.mapHarts p f).wsOpen = s.wsOpen := rfl
@[simp] theorem State.mapHarts_ctxArea (s : State) (p : Hart → Bool) (f : Hart → Hart) : (s.mapHarts p f).ctxArea = s.ctxArea := rfl
@[simp] theorem State.mapHarts_pclErr (s : State) (p : Hart → Bool) (f : Hart → Hart) : (s.mapHarts p f).pclErr = s.pclErr := rfl
@[simp] theorem State.mapHarts_pclVal (s : State) (p : Hart → Bool) (f : Hart → Hart) : (s.mapHarts p f).pclVal = s.pclVal := rfl
@[simp] theorem State.mapHarts_eccCorrected (s : State) (p : Hart → Bool) (f : Hart → Hart) : (s.mapHarts p f).eccCorrected = s.eccCorrected := rfl
@[simp] theorem State.mapHarts_hostErrs (s : State) (p : Hart → Bool) (f : Hart → Hart) : (s.mapHarts p f).hostErrs = s.hostErrs := rfl
@[simp] theorem State.mapHarts_cfgAnswers (s : State) (p : Hart → Bool) (f : Hart → Hart) : (s.mapHarts p f).cfgAnswers = s.cfgAnswers := rfl
@[simp] theorem State.mapHarts_collNotices (s : State) (p : Hart → Bool) (f : Hart → Hart) : (s.mapHarts p f).collNotices = s.collNotices := rfl

/-! ### Bytes written -/

@[simp] theorem State.writePhys_events (s : State) (o : Bool) (cs : List (Nat × Nat)) : (s.writePhys o cs).events = s.events := rfl
@[simp] theorem State.writePhys_jobs (s : State) (o : Bool) (cs : List (Nat × Nat)) : (s.writePhys o cs).jobs = s.jobs := rfl
@[simp] theorem State.writePhys_inp (s : State) (o : Bool) (cs : List (Nat × Nat)) : (s.writePhys o cs).inp = s.inp := rfl
@[simp] theorem State.writePhys_keepTurn (s : State) (o : Bool) (cs : List (Nat × Nat)) : (s.writePhys o cs).keepTurn = s.keepTurn := rfl
@[simp] theorem State.writePhys_urgent (s : State) (o : Bool) (cs : List (Nat × Nat)) : (s.writePhys o cs).urgent = s.urgent := rfl
@[simp] theorem State.writePhys_jobAge (s : State) (o : Bool) (cs : List (Nat × Nat)) : (s.writePhys o cs).jobAge = s.jobAge := rfl
@[simp] theorem State.writePhys_xferAge (s : State) (o : Bool) (cs : List (Nat × Nat)) : (s.writePhys o cs).xferAge = s.xferAge := rfl
@[simp] theorem State.writePhys_turns (s : State) (o : Bool) (cs : List (Nat × Nat)) : (s.writePhys o cs).turns = s.turns := rfl
@[simp] theorem State.writePhys_clk (s : State) (o : Bool) (cs : List (Nat × Nat)) : (s.writePhys o cs).clk = s.clk := rfl
@[simp] theorem State.writePhys_tick (s : State) (o : Bool) (cs : List (Nat × Nat)) : (s.writePhys o cs).tick = s.tick := rfl
@[simp] theorem State.writePhys_pkg (s : State) (o : Bool) (cs : List (Nat × Nat)) : (s.writePhys o cs).pkg = s.pkg := rfl
@[simp] theorem State.writePhys_domain (s : State) (o : Bool) (cs : List (Nat × Nat)) : (s.writePhys o cs).domain = s.domain := rfl
@[simp] theorem State.writePhys_hostMem (s : State) (o : Bool) (cs : List (Nat × Nat)) : (s.writePhys o cs).hostMem = s.hostMem := rfl
@[simp] theorem State.writePhys_segHdr (s : State) (o : Bool) (cs : List (Nat × Nat)) : (s.writePhys o cs).segHdr = s.segHdr := rfl
@[simp] theorem State.writePhys_hdrPoison (s : State) (o : Bool) (cs : List (Nat × Nat)) : (s.writePhys o cs).hdrPoison = s.hdrPoison := rfl
@[simp] theorem State.writePhys_leaving (s : State) (o : Bool) (cs : List (Nat × Nat)) : (s.writePhys o cs).leaving = s.leaving := rfl
@[simp] theorem State.writePhys_apps (s : State) (o : Bool) (cs : List (Nat × Nat)) : (s.writePhys o cs).apps = s.apps := rfl
@[simp] theorem State.writePhys_tenants (s : State) (o : Bool) (cs : List (Nat × Nat)) : (s.writePhys o cs).tenants = s.tenants := rfl
@[simp] theorem State.writePhys_crews (s : State) (o : Bool) (cs : List (Nat × Nat)) : (s.writePhys o cs).crews = s.crews := rfl
@[simp] theorem State.writePhys_leases (s : State) (o : Bool) (cs : List (Nat × Nat)) : (s.writePhys o cs).leases = s.leases := rfl
@[simp] theorem State.writePhys_reserves (s : State) (o : Bool) (cs : List (Nat × Nat)) : (s.writePhys o cs).reserves = s.reserves := rfl
@[simp] theorem State.writePhys_nextCrew (s : State) (o : Bool) (cs : List (Nat × Nat)) : (s.writePhys o cs).nextCrew = s.nextCrew := rfl
@[simp] theorem State.writePhys_nextHart (s : State) (o : Bool) (cs : List (Nat × Nat)) : (s.writePhys o cs).nextHart = s.nextHart := rfl
@[simp] theorem State.writePhys_nextAccept (s : State) (o : Bool) (cs : List (Nat × Nat)) : (s.writePhys o cs).nextAccept = s.nextAccept := rfl
@[simp] theorem State.writePhys_nextPlaced (s : State) (o : Bool) (cs : List (Nat × Nat)) : (s.writePhys o cs).nextPlaced = s.nextPlaced := rfl
@[simp] theorem State.writePhys_transfers (s : State) (o : Bool) (cs : List (Nat × Nat)) : (s.writePhys o cs).transfers = s.transfers := rfl
@[simp] theorem State.writePhys_nextXfer (s : State) (o : Bool) (cs : List (Nat × Nat)) : (s.writePhys o cs).nextXfer = s.nextXfer := rfl
@[simp] theorem State.writePhys_trains (s : State) (o : Bool) (cs : List (Nat × Nat)) : (s.writePhys o cs).trains = s.trains := rfl
@[simp] theorem State.writePhys_nextTrain (s : State) (o : Bool) (cs : List (Nat × Nat)) : (s.writePhys o cs).nextTrain = s.nextTrain := rfl
@[simp] theorem State.writePhys_contribs (s : State) (o : Bool) (cs : List (Nat × Nat)) : (s.writePhys o cs).contribs = s.contribs := rfl
@[simp] theorem State.writePhys_rounds (s : State) (o : Bool) (cs : List (Nat × Nat)) : (s.writePhys o cs).rounds = s.rounds := rfl
@[simp] theorem State.writePhys_nextRound (s : State) (o : Bool) (cs : List (Nat × Nat)) : (s.writePhys o cs).nextRound = s.nextRound := rfl
@[simp] theorem State.writePhys_outbox (s : State) (o : Bool) (cs : List (Nat × Nat)) : (s.writePhys o cs).outbox = s.outbox := rfl
@[simp] theorem State.writePhys_unsent (s : State) (o : Bool) (cs : List (Nat × Nat)) : (s.writePhys o cs).unsent = s.unsent := rfl
@[simp] theorem State.writePhys_dstat (s : State) (o : Bool) (cs : List (Nat × Nat)) : (s.writePhys o cs).dstat = s.dstat := rfl
@[simp] theorem State.writePhys_dcause (s : State) (o : Bool) (cs : List (Nat × Nat)) : (s.writePhys o cs).dcause = s.dcause := rfl
@[simp] theorem State.writePhys_cmdCode (s : State) (o : Bool) (cs : List (Nat × Nat)) : (s.writePhys o cs).cmdCode = s.cmdCode := rfl
@[simp] theorem State.writePhys_cmdGo (s : State) (o : Bool) (cs : List (Nat × Nat)) : (s.writePhys o cs).cmdGo = s.cmdGo := rfl
@[simp] theorem State.writePhys_cmdArgs (s : State) (o : Bool) (cs : List (Nat × Nat)) : (s.writePhys o cs).cmdArgs = s.cmdArgs := rfl
@[simp] theorem State.writePhys_cmdRes (s : State) (o : Bool) (cs : List (Nat × Nat)) : (s.writePhys o cs).cmdRes = s.cmdRes := rfl
@[simp] theorem State.writePhys_cmdDetIndex (s : State) (o : Bool) (cs : List (Nat × Nat)) : (s.writePhys o cs).cmdDetIndex = s.cmdDetIndex := rfl
@[simp] theorem State.writePhys_cmdDetSect (s : State) (o : Bool) (cs : List (Nat × Nat)) : (s.writePhys o cs).cmdDetSect = s.cmdDetSect := rfl
@[simp] theorem State.writePhys_msix (s : State) (o : Bool) (cs : List (Nat × Nat)) : (s.writePhys o cs).msix = s.msix := rfl
@[simp] theorem State.writePhys_chan (s : State) (o : Bool) (cs : List (Nat × Nat)) : (s.writePhys o cs).chan = s.chan := rfl
@[simp] theorem State.writePhys_h2dNext (s : State) (o : Bool) (cs : List (Nat × Nat)) : (s.writePhys o cs).h2dNext = s.h2dNext := rfl
@[simp] theorem State.writePhys_d2hNext (s : State) (o : Bool) (cs : List (Nat × Nat)) : (s.writePhys o cs).d2hNext = s.d2hNext := rfl
@[simp] theorem State.writePhys_chanErr (s : State) (o : Bool) (cs : List (Nat × Nat)) : (s.writePhys o cs).chanErr = s.chanErr := rfl
@[simp] theorem State.writePhys_rbSpace (s : State) (o : Bool) (cs : List (Nat × Nat)) : (s.writePhys o cs).rbSpace = s.rbSpace := rfl
@[simp] theorem State.writePhys_rbFreeze (s : State) (o : Bool) (cs : List (Nat × Nat)) : (s.writePhys o cs).rbFreeze = s.rbFreeze := rfl
@[simp] theorem State.writePhys_rbCount (s : State) (o : Bool) (cs : List (Nat × Nat)) : (s.writePhys o cs).rbCount = s.rbCount := rfl
@[simp] theorem State.writePhys_rbGo (s : State) (o : Bool) (cs : List (Nat × Nat)) : (s.writePhys o cs).rbGo = s.rbGo := rfl
@[simp] theorem State.writePhys_rbAddr (s : State) (o : Bool) (cs : List (Nat × Nat)) : (s.writePhys o cs).rbAddr = s.rbAddr := rfl
@[simp] theorem State.writePhys_rbCode (s : State) (o : Bool) (cs : List (Nat × Nat)) : (s.writePhys o cs).rbCode = s.rbCode := rfl
@[simp] theorem State.writePhys_rbFirst (s : State) (o : Bool) (cs : List (Nat × Nat)) : (s.writePhys o cs).rbFirst = s.rbFirst := rfl
@[simp] theorem State.writePhys_rbData (s : State) (o : Bool) (cs : List (Nat × Nat)) : (s.writePhys o cs).rbData = s.rbData := rfl
@[simp] theorem State.writePhys_rbEnd (s : State) (o : Bool) (cs : List (Nat × Nat)) : (s.writePhys o cs).rbEnd = s.rbEnd := rfl
@[simp] theorem State.writePhys_rbReq (s : State) (o : Bool) (cs : List (Nat × Nat)) : (s.writePhys o cs).rbReq = s.rbReq := rfl
@[simp] theorem State.writePhys_spdmSession (s : State) (o : Bool) (cs : List (Nat × Nat)) : (s.writePhys o cs).spdmSession = s.spdmSession := rfl
@[simp] theorem State.writePhys_answers (s : State) (o : Bool) (cs : List (Nat × Nat)) : (s.writePhys o cs).answers = s.answers := rfl
@[simp] theorem State.writePhys_powerCap (s : State) (o : Bool) (cs : List (Nat × Nat)) : (s.writePhys o cs).powerCap = s.powerCap := rfl
@[simp] theorem State.writePhys_capPending (s : State) (o : Bool) (cs : List (Nat × Nat)) : (s.writePhys o cs).capPending = s.capPending := rfl
@[simp] theorem State.writePhys_throttled (s : State) (o : Bool) (cs : List (Nat × Nat)) : (s.writePhys o cs).throttled = s.throttled := rfl
@[simp] theorem State.writePhys_tripped (s : State) (o : Bool) (cs : List (Nat × Nat)) : (s.writePhys o cs).tripped = s.tripped := rfl
@[simp] theorem State.writePhys_standbyRail (s : State) (o : Bool) (cs : List (Nat × Nat)) : (s.writePhys o cs).standbyRail = s.standbyRail := rfl
@[simp] theorem State.writePhys_huskBooted (s : State) (o : Bool) (cs : List (Nat × Nat)) : (s.writePhys o cs).huskBooted = s.huskBooted := rfl
@[simp] theorem State.writePhys_rails (s : State) (o : Bool) (cs : List (Nat × Nat)) : (s.writePhys o cs).rails = s.rails := rfl
@[simp] theorem State.writePhys_bringStep (s : State) (o : Bool) (cs : List (Nat × Nat)) : (s.writePhys o cs).bringStep = s.bringStep := rfl
@[simp] theorem State.writePhys_bringDone (s : State) (o : Bool) (cs : List (Nat × Nat)) : (s.writePhys o cs).bringDone = s.bringDone := rfl
@[simp] theorem State.writePhys_bringSince (s : State) (o : Bool) (cs : List (Nat × Nat)) : (s.writePhys o cs).bringSince = s.bringSince := rfl
@[simp] theorem State.writePhys_fuseFault (s : State) (o : Bool) (cs : List (Nat × Nat)) : (s.writePhys o cs).fuseFault = s.fuseFault := rfl
@[simp] theorem State.writePhys_pclStarted (s : State) (o : Bool) (cs : List (Nat × Nat)) : (s.writePhys o cs).pclStarted = s.pclStarted := rfl
@[simp] theorem State.writePhys_keysOut (s : State) (o : Bool) (cs : List (Nat × Nat)) : (s.writePhys o cs).keysOut = s.keysOut := rfl
@[simp] theorem State.writePhys_locked (s : State) (o : Bool) (cs : List (Nat × Nat)) : (s.writePhys o cs).locked = s.locked := rfl
@[simp] theorem State.writePhys_zeroised (s : State) (o : Bool) (cs : List (Nat × Nat)) : (s.writePhys o cs).zeroised = s.zeroised := rfl
@[simp] theorem State.writePhys_unprovisioned (s : State) (o : Bool) (cs : List (Nat × Nat)) : (s.writePhys o cs).unprovisioned = s.unprovisioned := rfl
@[simp] theorem State.writePhys_bringStopped (s : State) (o : Bool) (cs : List (Nat × Nat)) : (s.writePhys o cs).bringStopped = s.bringStopped := rfl
@[simp] theorem State.writePhys_poolADown (s : State) (o : Bool) (cs : List (Nat × Nat)) : (s.writePhys o cs).poolADown = s.poolADown := rfl
@[simp] theorem State.writePhys_poolBDown (s : State) (o : Bool) (cs : List (Nat × Nat)) : (s.writePhys o cs).poolBDown = s.poolBDown := rfl
@[simp] theorem State.writePhys_ports (s : State) (o : Bool) (cs : List (Nat × Nat)) : (s.writePhys o cs).ports = s.ports := rfl
@[simp] theorem State.writePhys_alwaysLog (s : State) (o : Bool) (cs : List (Nat × Nat)) : (s.writePhys o cs).alwaysLog = s.alwaysLog := rfl
@[simp] theorem State.writePhys_dieLogs (s : State) (o : Bool) (cs : List (Nat × Nat)) : (s.writePhys o cs).dieLogs = s.dieLogs := rfl
@[simp] theorem State.writePhys_wsOpen (s : State) (o : Bool) (cs : List (Nat × Nat)) : (s.writePhys o cs).wsOpen = s.wsOpen := rfl
@[simp] theorem State.writePhys_ctxArea (s : State) (o : Bool) (cs : List (Nat × Nat)) : (s.writePhys o cs).ctxArea = s.ctxArea := rfl
@[simp] theorem State.writePhys_pclErr (s : State) (o : Bool) (cs : List (Nat × Nat)) : (s.writePhys o cs).pclErr = s.pclErr := rfl
@[simp] theorem State.writePhys_pclVal (s : State) (o : Bool) (cs : List (Nat × Nat)) : (s.writePhys o cs).pclVal = s.pclVal := rfl
@[simp] theorem State.writePhys_eccCorrected (s : State) (o : Bool) (cs : List (Nat × Nat)) : (s.writePhys o cs).eccCorrected = s.eccCorrected := rfl
@[simp] theorem State.writePhys_hostErrs (s : State) (o : Bool) (cs : List (Nat × Nat)) : (s.writePhys o cs).hostErrs = s.hostErrs := rfl
@[simp] theorem State.writePhys_cfgAnswers (s : State) (o : Bool) (cs : List (Nat × Nat)) : (s.writePhys o cs).cfgAnswers = s.cfgAnswers := rfl
@[simp] theorem State.writePhys_collNotices (s : State) (o : Bool) (cs : List (Nat × Nat)) : (s.writePhys o cs).collNotices = s.collNotices := rfl

/-! ### A granule poisoned -/

@[simp] theorem State.setPoison_hart (s : State) (g : Nat) (b : Bool) : (s.setPoison g b).hart = s.hart := rfl
@[simp] theorem State.setPoison_others (s : State) (g : Nat) (b : Bool) : (s.setPoison g b).others = s.others := rfl
@[simp] theorem State.setPoison_events (s : State) (g : Nat) (b : Bool) : (s.setPoison g b).events = s.events := rfl
@[simp] theorem State.setPoison_jobs (s : State) (g : Nat) (b : Bool) : (s.setPoison g b).jobs = s.jobs := rfl
@[simp] theorem State.setPoison_inp (s : State) (g : Nat) (b : Bool) : (s.setPoison g b).inp = s.inp := rfl
@[simp] theorem State.setPoison_keepTurn (s : State) (g : Nat) (b : Bool) : (s.setPoison g b).keepTurn = s.keepTurn := rfl
@[simp] theorem State.setPoison_urgent (s : State) (g : Nat) (b : Bool) : (s.setPoison g b).urgent = s.urgent := rfl
@[simp] theorem State.setPoison_jobAge (s : State) (g : Nat) (b : Bool) : (s.setPoison g b).jobAge = s.jobAge := rfl
@[simp] theorem State.setPoison_xferAge (s : State) (g : Nat) (b : Bool) : (s.setPoison g b).xferAge = s.xferAge := rfl
@[simp] theorem State.setPoison_turns (s : State) (g : Nat) (b : Bool) : (s.setPoison g b).turns = s.turns := rfl
@[simp] theorem State.setPoison_clk (s : State) (g : Nat) (b : Bool) : (s.setPoison g b).clk = s.clk := rfl
@[simp] theorem State.setPoison_tick (s : State) (g : Nat) (b : Bool) : (s.setPoison g b).tick = s.tick := rfl
@[simp] theorem State.setPoison_pkg (s : State) (g : Nat) (b : Bool) : (s.setPoison g b).pkg = s.pkg := rfl
@[simp] theorem State.setPoison_domain (s : State) (g : Nat) (b : Bool) : (s.setPoison g b).domain = s.domain := rfl
@[simp] theorem State.setPoison_mem (s : State) (g : Nat) (b : Bool) : (s.setPoison g b).mem = s.mem := rfl
@[simp] theorem State.setPoison_hostMem (s : State) (g : Nat) (b : Bool) : (s.setPoison g b).hostMem = s.hostMem := rfl
@[simp] theorem State.setPoison_segHdr (s : State) (g : Nat) (b : Bool) : (s.setPoison g b).segHdr = s.segHdr := rfl
@[simp] theorem State.setPoison_hdrPoison (s : State) (g : Nat) (b : Bool) : (s.setPoison g b).hdrPoison = s.hdrPoison := rfl
@[simp] theorem State.setPoison_leaving (s : State) (g : Nat) (b : Bool) : (s.setPoison g b).leaving = s.leaving := rfl
@[simp] theorem State.setPoison_apps (s : State) (g : Nat) (b : Bool) : (s.setPoison g b).apps = s.apps := rfl
@[simp] theorem State.setPoison_tenants (s : State) (g : Nat) (b : Bool) : (s.setPoison g b).tenants = s.tenants := rfl
@[simp] theorem State.setPoison_crews (s : State) (g : Nat) (b : Bool) : (s.setPoison g b).crews = s.crews := rfl
@[simp] theorem State.setPoison_leases (s : State) (g : Nat) (b : Bool) : (s.setPoison g b).leases = s.leases := rfl
@[simp] theorem State.setPoison_reserves (s : State) (g : Nat) (b : Bool) : (s.setPoison g b).reserves = s.reserves := rfl
@[simp] theorem State.setPoison_nextCrew (s : State) (g : Nat) (b : Bool) : (s.setPoison g b).nextCrew = s.nextCrew := rfl
@[simp] theorem State.setPoison_nextHart (s : State) (g : Nat) (b : Bool) : (s.setPoison g b).nextHart = s.nextHart := rfl
@[simp] theorem State.setPoison_nextAccept (s : State) (g : Nat) (b : Bool) : (s.setPoison g b).nextAccept = s.nextAccept := rfl
@[simp] theorem State.setPoison_nextPlaced (s : State) (g : Nat) (b : Bool) : (s.setPoison g b).nextPlaced = s.nextPlaced := rfl
@[simp] theorem State.setPoison_transfers (s : State) (g : Nat) (b : Bool) : (s.setPoison g b).transfers = s.transfers := rfl
@[simp] theorem State.setPoison_nextXfer (s : State) (g : Nat) (b : Bool) : (s.setPoison g b).nextXfer = s.nextXfer := rfl
@[simp] theorem State.setPoison_trains (s : State) (g : Nat) (b : Bool) : (s.setPoison g b).trains = s.trains := rfl
@[simp] theorem State.setPoison_nextTrain (s : State) (g : Nat) (b : Bool) : (s.setPoison g b).nextTrain = s.nextTrain := rfl
@[simp] theorem State.setPoison_contribs (s : State) (g : Nat) (b : Bool) : (s.setPoison g b).contribs = s.contribs := rfl
@[simp] theorem State.setPoison_rounds (s : State) (g : Nat) (b : Bool) : (s.setPoison g b).rounds = s.rounds := rfl
@[simp] theorem State.setPoison_nextRound (s : State) (g : Nat) (b : Bool) : (s.setPoison g b).nextRound = s.nextRound := rfl
@[simp] theorem State.setPoison_outbox (s : State) (g : Nat) (b : Bool) : (s.setPoison g b).outbox = s.outbox := rfl
@[simp] theorem State.setPoison_unsent (s : State) (g : Nat) (b : Bool) : (s.setPoison g b).unsent = s.unsent := rfl
@[simp] theorem State.setPoison_dstat (s : State) (g : Nat) (b : Bool) : (s.setPoison g b).dstat = s.dstat := rfl
@[simp] theorem State.setPoison_dcause (s : State) (g : Nat) (b : Bool) : (s.setPoison g b).dcause = s.dcause := rfl
@[simp] theorem State.setPoison_cmdCode (s : State) (g : Nat) (b : Bool) : (s.setPoison g b).cmdCode = s.cmdCode := rfl
@[simp] theorem State.setPoison_cmdGo (s : State) (g : Nat) (b : Bool) : (s.setPoison g b).cmdGo = s.cmdGo := rfl
@[simp] theorem State.setPoison_cmdArgs (s : State) (g : Nat) (b : Bool) : (s.setPoison g b).cmdArgs = s.cmdArgs := rfl
@[simp] theorem State.setPoison_cmdRes (s : State) (g : Nat) (b : Bool) : (s.setPoison g b).cmdRes = s.cmdRes := rfl
@[simp] theorem State.setPoison_cmdDetIndex (s : State) (g : Nat) (b : Bool) : (s.setPoison g b).cmdDetIndex = s.cmdDetIndex := rfl
@[simp] theorem State.setPoison_cmdDetSect (s : State) (g : Nat) (b : Bool) : (s.setPoison g b).cmdDetSect = s.cmdDetSect := rfl
@[simp] theorem State.setPoison_msix (s : State) (g : Nat) (b : Bool) : (s.setPoison g b).msix = s.msix := rfl
@[simp] theorem State.setPoison_chan (s : State) (g : Nat) (b : Bool) : (s.setPoison g b).chan = s.chan := rfl
@[simp] theorem State.setPoison_h2dNext (s : State) (g : Nat) (b : Bool) : (s.setPoison g b).h2dNext = s.h2dNext := rfl
@[simp] theorem State.setPoison_d2hNext (s : State) (g : Nat) (b : Bool) : (s.setPoison g b).d2hNext = s.d2hNext := rfl
@[simp] theorem State.setPoison_chanErr (s : State) (g : Nat) (b : Bool) : (s.setPoison g b).chanErr = s.chanErr := rfl
@[simp] theorem State.setPoison_rbSpace (s : State) (g : Nat) (b : Bool) : (s.setPoison g b).rbSpace = s.rbSpace := rfl
@[simp] theorem State.setPoison_rbFreeze (s : State) (g : Nat) (b : Bool) : (s.setPoison g b).rbFreeze = s.rbFreeze := rfl
@[simp] theorem State.setPoison_rbCount (s : State) (g : Nat) (b : Bool) : (s.setPoison g b).rbCount = s.rbCount := rfl
@[simp] theorem State.setPoison_rbGo (s : State) (g : Nat) (b : Bool) : (s.setPoison g b).rbGo = s.rbGo := rfl
@[simp] theorem State.setPoison_rbAddr (s : State) (g : Nat) (b : Bool) : (s.setPoison g b).rbAddr = s.rbAddr := rfl
@[simp] theorem State.setPoison_rbCode (s : State) (g : Nat) (b : Bool) : (s.setPoison g b).rbCode = s.rbCode := rfl
@[simp] theorem State.setPoison_rbFirst (s : State) (g : Nat) (b : Bool) : (s.setPoison g b).rbFirst = s.rbFirst := rfl
@[simp] theorem State.setPoison_rbData (s : State) (g : Nat) (b : Bool) : (s.setPoison g b).rbData = s.rbData := rfl
@[simp] theorem State.setPoison_rbEnd (s : State) (g : Nat) (b : Bool) : (s.setPoison g b).rbEnd = s.rbEnd := rfl
@[simp] theorem State.setPoison_rbReq (s : State) (g : Nat) (b : Bool) : (s.setPoison g b).rbReq = s.rbReq := rfl
@[simp] theorem State.setPoison_spdmSession (s : State) (g : Nat) (b : Bool) : (s.setPoison g b).spdmSession = s.spdmSession := rfl
@[simp] theorem State.setPoison_answers (s : State) (g : Nat) (b : Bool) : (s.setPoison g b).answers = s.answers := rfl
@[simp] theorem State.setPoison_powerCap (s : State) (g : Nat) (b : Bool) : (s.setPoison g b).powerCap = s.powerCap := rfl
@[simp] theorem State.setPoison_capPending (s : State) (g : Nat) (b : Bool) : (s.setPoison g b).capPending = s.capPending := rfl
@[simp] theorem State.setPoison_throttled (s : State) (g : Nat) (b : Bool) : (s.setPoison g b).throttled = s.throttled := rfl
@[simp] theorem State.setPoison_tripped (s : State) (g : Nat) (b : Bool) : (s.setPoison g b).tripped = s.tripped := rfl
@[simp] theorem State.setPoison_standbyRail (s : State) (g : Nat) (b : Bool) : (s.setPoison g b).standbyRail = s.standbyRail := rfl
@[simp] theorem State.setPoison_huskBooted (s : State) (g : Nat) (b : Bool) : (s.setPoison g b).huskBooted = s.huskBooted := rfl
@[simp] theorem State.setPoison_rails (s : State) (g : Nat) (b : Bool) : (s.setPoison g b).rails = s.rails := rfl
@[simp] theorem State.setPoison_bringStep (s : State) (g : Nat) (b : Bool) : (s.setPoison g b).bringStep = s.bringStep := rfl
@[simp] theorem State.setPoison_bringDone (s : State) (g : Nat) (b : Bool) : (s.setPoison g b).bringDone = s.bringDone := rfl
@[simp] theorem State.setPoison_bringSince (s : State) (g : Nat) (b : Bool) : (s.setPoison g b).bringSince = s.bringSince := rfl
@[simp] theorem State.setPoison_fuseFault (s : State) (g : Nat) (b : Bool) : (s.setPoison g b).fuseFault = s.fuseFault := rfl
@[simp] theorem State.setPoison_pclStarted (s : State) (g : Nat) (b : Bool) : (s.setPoison g b).pclStarted = s.pclStarted := rfl
@[simp] theorem State.setPoison_keysOut (s : State) (g : Nat) (b : Bool) : (s.setPoison g b).keysOut = s.keysOut := rfl
@[simp] theorem State.setPoison_locked (s : State) (g : Nat) (b : Bool) : (s.setPoison g b).locked = s.locked := rfl
@[simp] theorem State.setPoison_zeroised (s : State) (g : Nat) (b : Bool) : (s.setPoison g b).zeroised = s.zeroised := rfl
@[simp] theorem State.setPoison_unprovisioned (s : State) (g : Nat) (b : Bool) : (s.setPoison g b).unprovisioned = s.unprovisioned := rfl
@[simp] theorem State.setPoison_bringStopped (s : State) (g : Nat) (b : Bool) : (s.setPoison g b).bringStopped = s.bringStopped := rfl
@[simp] theorem State.setPoison_poolADown (s : State) (g : Nat) (b : Bool) : (s.setPoison g b).poolADown = s.poolADown := rfl
@[simp] theorem State.setPoison_poolBDown (s : State) (g : Nat) (b : Bool) : (s.setPoison g b).poolBDown = s.poolBDown := rfl
@[simp] theorem State.setPoison_ports (s : State) (g : Nat) (b : Bool) : (s.setPoison g b).ports = s.ports := rfl
@[simp] theorem State.setPoison_alwaysLog (s : State) (g : Nat) (b : Bool) : (s.setPoison g b).alwaysLog = s.alwaysLog := rfl
@[simp] theorem State.setPoison_dieLogs (s : State) (g : Nat) (b : Bool) : (s.setPoison g b).dieLogs = s.dieLogs := rfl
@[simp] theorem State.setPoison_wsOpen (s : State) (g : Nat) (b : Bool) : (s.setPoison g b).wsOpen = s.wsOpen := rfl
@[simp] theorem State.setPoison_ctxArea (s : State) (g : Nat) (b : Bool) : (s.setPoison g b).ctxArea = s.ctxArea := rfl
@[simp] theorem State.setPoison_pclErr (s : State) (g : Nat) (b : Bool) : (s.setPoison g b).pclErr = s.pclErr := rfl
@[simp] theorem State.setPoison_pclVal (s : State) (g : Nat) (b : Bool) : (s.setPoison g b).pclVal = s.pclVal := rfl
@[simp] theorem State.setPoison_eccCorrected (s : State) (g : Nat) (b : Bool) : (s.setPoison g b).eccCorrected = s.eccCorrected := rfl
@[simp] theorem State.setPoison_hostErrs (s : State) (g : Nat) (b : Bool) : (s.setPoison g b).hostErrs = s.hostErrs := rfl
@[simp] theorem State.setPoison_cfgAnswers (s : State) (g : Nat) (b : Bool) : (s.setPoison g b).cfgAnswers = s.cfgAnswers := rfl
@[simp] theorem State.setPoison_collNotices (s : State) (g : Nat) (b : Bool) : (s.setPoison g b).collNotices = s.collNotices := rfl

/-! ### A lease row set -/

@[simp] theorem State.setLease_hart (s : State) (c : Nat) (l : Lease) : (s.setLease c l).hart = s.hart := rfl
@[simp] theorem State.setLease_others (s : State) (c : Nat) (l : Lease) : (s.setLease c l).others = s.others := rfl
@[simp] theorem State.setLease_events (s : State) (c : Nat) (l : Lease) : (s.setLease c l).events = s.events := rfl
@[simp] theorem State.setLease_jobs (s : State) (c : Nat) (l : Lease) : (s.setLease c l).jobs = s.jobs := rfl
@[simp] theorem State.setLease_inp (s : State) (c : Nat) (l : Lease) : (s.setLease c l).inp = s.inp := rfl
@[simp] theorem State.setLease_keepTurn (s : State) (c : Nat) (l : Lease) : (s.setLease c l).keepTurn = s.keepTurn := rfl
@[simp] theorem State.setLease_urgent (s : State) (c : Nat) (l : Lease) : (s.setLease c l).urgent = s.urgent := rfl
@[simp] theorem State.setLease_jobAge (s : State) (c : Nat) (l : Lease) : (s.setLease c l).jobAge = s.jobAge := rfl
@[simp] theorem State.setLease_xferAge (s : State) (c : Nat) (l : Lease) : (s.setLease c l).xferAge = s.xferAge := rfl
@[simp] theorem State.setLease_turns (s : State) (c : Nat) (l : Lease) : (s.setLease c l).turns = s.turns := rfl
@[simp] theorem State.setLease_clk (s : State) (c : Nat) (l : Lease) : (s.setLease c l).clk = s.clk := rfl
@[simp] theorem State.setLease_tick (s : State) (c : Nat) (l : Lease) : (s.setLease c l).tick = s.tick := rfl
@[simp] theorem State.setLease_pkg (s : State) (c : Nat) (l : Lease) : (s.setLease c l).pkg = s.pkg := rfl
@[simp] theorem State.setLease_domain (s : State) (c : Nat) (l : Lease) : (s.setLease c l).domain = s.domain := rfl
@[simp] theorem State.setLease_mem (s : State) (c : Nat) (l : Lease) : (s.setLease c l).mem = s.mem := rfl
@[simp] theorem State.setLease_hostMem (s : State) (c : Nat) (l : Lease) : (s.setLease c l).hostMem = s.hostMem := rfl
@[simp] theorem State.setLease_poison (s : State) (c : Nat) (l : Lease) : (s.setLease c l).poison = s.poison := rfl
@[simp] theorem State.setLease_segHdr (s : State) (c : Nat) (l : Lease) : (s.setLease c l).segHdr = s.segHdr := rfl
@[simp] theorem State.setLease_hdrPoison (s : State) (c : Nat) (l : Lease) : (s.setLease c l).hdrPoison = s.hdrPoison := rfl
@[simp] theorem State.setLease_leaving (s : State) (c : Nat) (l : Lease) : (s.setLease c l).leaving = s.leaving := rfl
@[simp] theorem State.setLease_apps (s : State) (c : Nat) (l : Lease) : (s.setLease c l).apps = s.apps := rfl
@[simp] theorem State.setLease_tenants (s : State) (c : Nat) (l : Lease) : (s.setLease c l).tenants = s.tenants := rfl
@[simp] theorem State.setLease_crews (s : State) (c : Nat) (l : Lease) : (s.setLease c l).crews = s.crews := rfl
@[simp] theorem State.setLease_reserves (s : State) (c : Nat) (l : Lease) : (s.setLease c l).reserves = s.reserves := rfl
@[simp] theorem State.setLease_nextCrew (s : State) (c : Nat) (l : Lease) : (s.setLease c l).nextCrew = s.nextCrew := rfl
@[simp] theorem State.setLease_nextHart (s : State) (c : Nat) (l : Lease) : (s.setLease c l).nextHart = s.nextHart := rfl
@[simp] theorem State.setLease_nextAccept (s : State) (c : Nat) (l : Lease) : (s.setLease c l).nextAccept = s.nextAccept := rfl
@[simp] theorem State.setLease_nextPlaced (s : State) (c : Nat) (l : Lease) : (s.setLease c l).nextPlaced = s.nextPlaced := rfl
@[simp] theorem State.setLease_transfers (s : State) (c : Nat) (l : Lease) : (s.setLease c l).transfers = s.transfers := rfl
@[simp] theorem State.setLease_nextXfer (s : State) (c : Nat) (l : Lease) : (s.setLease c l).nextXfer = s.nextXfer := rfl
@[simp] theorem State.setLease_trains (s : State) (c : Nat) (l : Lease) : (s.setLease c l).trains = s.trains := rfl
@[simp] theorem State.setLease_nextTrain (s : State) (c : Nat) (l : Lease) : (s.setLease c l).nextTrain = s.nextTrain := rfl
@[simp] theorem State.setLease_contribs (s : State) (c : Nat) (l : Lease) : (s.setLease c l).contribs = s.contribs := rfl
@[simp] theorem State.setLease_rounds (s : State) (c : Nat) (l : Lease) : (s.setLease c l).rounds = s.rounds := rfl
@[simp] theorem State.setLease_nextRound (s : State) (c : Nat) (l : Lease) : (s.setLease c l).nextRound = s.nextRound := rfl
@[simp] theorem State.setLease_outbox (s : State) (c : Nat) (l : Lease) : (s.setLease c l).outbox = s.outbox := rfl
@[simp] theorem State.setLease_unsent (s : State) (c : Nat) (l : Lease) : (s.setLease c l).unsent = s.unsent := rfl
@[simp] theorem State.setLease_dstat (s : State) (c : Nat) (l : Lease) : (s.setLease c l).dstat = s.dstat := rfl
@[simp] theorem State.setLease_dcause (s : State) (c : Nat) (l : Lease) : (s.setLease c l).dcause = s.dcause := rfl
@[simp] theorem State.setLease_cmdCode (s : State) (c : Nat) (l : Lease) : (s.setLease c l).cmdCode = s.cmdCode := rfl
@[simp] theorem State.setLease_cmdGo (s : State) (c : Nat) (l : Lease) : (s.setLease c l).cmdGo = s.cmdGo := rfl
@[simp] theorem State.setLease_cmdArgs (s : State) (c : Nat) (l : Lease) : (s.setLease c l).cmdArgs = s.cmdArgs := rfl
@[simp] theorem State.setLease_cmdRes (s : State) (c : Nat) (l : Lease) : (s.setLease c l).cmdRes = s.cmdRes := rfl
@[simp] theorem State.setLease_cmdDetIndex (s : State) (c : Nat) (l : Lease) : (s.setLease c l).cmdDetIndex = s.cmdDetIndex := rfl
@[simp] theorem State.setLease_cmdDetSect (s : State) (c : Nat) (l : Lease) : (s.setLease c l).cmdDetSect = s.cmdDetSect := rfl
@[simp] theorem State.setLease_msix (s : State) (c : Nat) (l : Lease) : (s.setLease c l).msix = s.msix := rfl
@[simp] theorem State.setLease_chan (s : State) (c : Nat) (l : Lease) : (s.setLease c l).chan = s.chan := rfl
@[simp] theorem State.setLease_h2dNext (s : State) (c : Nat) (l : Lease) : (s.setLease c l).h2dNext = s.h2dNext := rfl
@[simp] theorem State.setLease_d2hNext (s : State) (c : Nat) (l : Lease) : (s.setLease c l).d2hNext = s.d2hNext := rfl
@[simp] theorem State.setLease_chanErr (s : State) (c : Nat) (l : Lease) : (s.setLease c l).chanErr = s.chanErr := rfl
@[simp] theorem State.setLease_rbSpace (s : State) (c : Nat) (l : Lease) : (s.setLease c l).rbSpace = s.rbSpace := rfl
@[simp] theorem State.setLease_rbFreeze (s : State) (c : Nat) (l : Lease) : (s.setLease c l).rbFreeze = s.rbFreeze := rfl
@[simp] theorem State.setLease_rbCount (s : State) (c : Nat) (l : Lease) : (s.setLease c l).rbCount = s.rbCount := rfl
@[simp] theorem State.setLease_rbGo (s : State) (c : Nat) (l : Lease) : (s.setLease c l).rbGo = s.rbGo := rfl
@[simp] theorem State.setLease_rbAddr (s : State) (c : Nat) (l : Lease) : (s.setLease c l).rbAddr = s.rbAddr := rfl
@[simp] theorem State.setLease_rbCode (s : State) (c : Nat) (l : Lease) : (s.setLease c l).rbCode = s.rbCode := rfl
@[simp] theorem State.setLease_rbFirst (s : State) (c : Nat) (l : Lease) : (s.setLease c l).rbFirst = s.rbFirst := rfl
@[simp] theorem State.setLease_rbData (s : State) (c : Nat) (l : Lease) : (s.setLease c l).rbData = s.rbData := rfl
@[simp] theorem State.setLease_rbEnd (s : State) (c : Nat) (l : Lease) : (s.setLease c l).rbEnd = s.rbEnd := rfl
@[simp] theorem State.setLease_rbReq (s : State) (c : Nat) (l : Lease) : (s.setLease c l).rbReq = s.rbReq := rfl
@[simp] theorem State.setLease_spdmSession (s : State) (c : Nat) (l : Lease) : (s.setLease c l).spdmSession = s.spdmSession := rfl
@[simp] theorem State.setLease_answers (s : State) (c : Nat) (l : Lease) : (s.setLease c l).answers = s.answers := rfl
@[simp] theorem State.setLease_powerCap (s : State) (c : Nat) (l : Lease) : (s.setLease c l).powerCap = s.powerCap := rfl
@[simp] theorem State.setLease_capPending (s : State) (c : Nat) (l : Lease) : (s.setLease c l).capPending = s.capPending := rfl
@[simp] theorem State.setLease_throttled (s : State) (c : Nat) (l : Lease) : (s.setLease c l).throttled = s.throttled := rfl
@[simp] theorem State.setLease_tripped (s : State) (c : Nat) (l : Lease) : (s.setLease c l).tripped = s.tripped := rfl
@[simp] theorem State.setLease_standbyRail (s : State) (c : Nat) (l : Lease) : (s.setLease c l).standbyRail = s.standbyRail := rfl
@[simp] theorem State.setLease_huskBooted (s : State) (c : Nat) (l : Lease) : (s.setLease c l).huskBooted = s.huskBooted := rfl
@[simp] theorem State.setLease_rails (s : State) (c : Nat) (l : Lease) : (s.setLease c l).rails = s.rails := rfl
@[simp] theorem State.setLease_bringStep (s : State) (c : Nat) (l : Lease) : (s.setLease c l).bringStep = s.bringStep := rfl
@[simp] theorem State.setLease_bringDone (s : State) (c : Nat) (l : Lease) : (s.setLease c l).bringDone = s.bringDone := rfl
@[simp] theorem State.setLease_bringSince (s : State) (c : Nat) (l : Lease) : (s.setLease c l).bringSince = s.bringSince := rfl
@[simp] theorem State.setLease_fuseFault (s : State) (c : Nat) (l : Lease) : (s.setLease c l).fuseFault = s.fuseFault := rfl
@[simp] theorem State.setLease_pclStarted (s : State) (c : Nat) (l : Lease) : (s.setLease c l).pclStarted = s.pclStarted := rfl
@[simp] theorem State.setLease_keysOut (s : State) (c : Nat) (l : Lease) : (s.setLease c l).keysOut = s.keysOut := rfl
@[simp] theorem State.setLease_locked (s : State) (c : Nat) (l : Lease) : (s.setLease c l).locked = s.locked := rfl
@[simp] theorem State.setLease_zeroised (s : State) (c : Nat) (l : Lease) : (s.setLease c l).zeroised = s.zeroised := rfl
@[simp] theorem State.setLease_unprovisioned (s : State) (c : Nat) (l : Lease) : (s.setLease c l).unprovisioned = s.unprovisioned := rfl
@[simp] theorem State.setLease_bringStopped (s : State) (c : Nat) (l : Lease) : (s.setLease c l).bringStopped = s.bringStopped := rfl
@[simp] theorem State.setLease_poolADown (s : State) (c : Nat) (l : Lease) : (s.setLease c l).poolADown = s.poolADown := rfl
@[simp] theorem State.setLease_poolBDown (s : State) (c : Nat) (l : Lease) : (s.setLease c l).poolBDown = s.poolBDown := rfl
@[simp] theorem State.setLease_ports (s : State) (c : Nat) (l : Lease) : (s.setLease c l).ports = s.ports := rfl
@[simp] theorem State.setLease_alwaysLog (s : State) (c : Nat) (l : Lease) : (s.setLease c l).alwaysLog = s.alwaysLog := rfl
@[simp] theorem State.setLease_dieLogs (s : State) (c : Nat) (l : Lease) : (s.setLease c l).dieLogs = s.dieLogs := rfl
@[simp] theorem State.setLease_wsOpen (s : State) (c : Nat) (l : Lease) : (s.setLease c l).wsOpen = s.wsOpen := rfl
@[simp] theorem State.setLease_ctxArea (s : State) (c : Nat) (l : Lease) : (s.setLease c l).ctxArea = s.ctxArea := rfl
@[simp] theorem State.setLease_pclErr (s : State) (c : Nat) (l : Lease) : (s.setLease c l).pclErr = s.pclErr := rfl
@[simp] theorem State.setLease_pclVal (s : State) (c : Nat) (l : Lease) : (s.setLease c l).pclVal = s.pclVal := rfl
@[simp] theorem State.setLease_eccCorrected (s : State) (c : Nat) (l : Lease) : (s.setLease c l).eccCorrected = s.eccCorrected := rfl
@[simp] theorem State.setLease_hostErrs (s : State) (c : Nat) (l : Lease) : (s.setLease c l).hostErrs = s.hostErrs := rfl
@[simp] theorem State.setLease_cfgAnswers (s : State) (c : Nat) (l : Lease) : (s.setLease c l).cfgAnswers = s.cfgAnswers := rfl
@[simp] theorem State.setLease_collNotices (s : State) (c : Nat) (l : Lease) : (s.setLease c l).collNotices = s.collNotices := rfl

/-! ### An event at the end of the queue -/

@[simp] theorem State.post_hart (s : State) (i : Instr) (p : Input) : (s.post i p).hart = s.hart := rfl
@[simp] theorem State.post_others (s : State) (i : Instr) (p : Input) : (s.post i p).others = s.others := rfl
@[simp] theorem State.post_jobs (s : State) (i : Instr) (p : Input) : (s.post i p).jobs = s.jobs := rfl
@[simp] theorem State.post_inp (s : State) (i : Instr) (p : Input) : (s.post i p).inp = s.inp := rfl
@[simp] theorem State.post_keepTurn (s : State) (i : Instr) (p : Input) : (s.post i p).keepTurn = s.keepTurn := rfl
@[simp] theorem State.post_urgent (s : State) (i : Instr) (p : Input) : (s.post i p).urgent = s.urgent := rfl
@[simp] theorem State.post_jobAge (s : State) (i : Instr) (p : Input) : (s.post i p).jobAge = s.jobAge := rfl
@[simp] theorem State.post_xferAge (s : State) (i : Instr) (p : Input) : (s.post i p).xferAge = s.xferAge := rfl
@[simp] theorem State.post_turns (s : State) (i : Instr) (p : Input) : (s.post i p).turns = s.turns := rfl
@[simp] theorem State.post_clk (s : State) (i : Instr) (p : Input) : (s.post i p).clk = s.clk := rfl
@[simp] theorem State.post_tick (s : State) (i : Instr) (p : Input) : (s.post i p).tick = s.tick := rfl
@[simp] theorem State.post_pkg (s : State) (i : Instr) (p : Input) : (s.post i p).pkg = s.pkg := rfl
@[simp] theorem State.post_domain (s : State) (i : Instr) (p : Input) : (s.post i p).domain = s.domain := rfl
@[simp] theorem State.post_mem (s : State) (i : Instr) (p : Input) : (s.post i p).mem = s.mem := rfl
@[simp] theorem State.post_hostMem (s : State) (i : Instr) (p : Input) : (s.post i p).hostMem = s.hostMem := rfl
@[simp] theorem State.post_poison (s : State) (i : Instr) (p : Input) : (s.post i p).poison = s.poison := rfl
@[simp] theorem State.post_segHdr (s : State) (i : Instr) (p : Input) : (s.post i p).segHdr = s.segHdr := rfl
@[simp] theorem State.post_hdrPoison (s : State) (i : Instr) (p : Input) : (s.post i p).hdrPoison = s.hdrPoison := rfl
@[simp] theorem State.post_leaving (s : State) (i : Instr) (p : Input) : (s.post i p).leaving = s.leaving := rfl
@[simp] theorem State.post_apps (s : State) (i : Instr) (p : Input) : (s.post i p).apps = s.apps := rfl
@[simp] theorem State.post_tenants (s : State) (i : Instr) (p : Input) : (s.post i p).tenants = s.tenants := rfl
@[simp] theorem State.post_crews (s : State) (i : Instr) (p : Input) : (s.post i p).crews = s.crews := rfl
@[simp] theorem State.post_leases (s : State) (i : Instr) (p : Input) : (s.post i p).leases = s.leases := rfl
@[simp] theorem State.post_reserves (s : State) (i : Instr) (p : Input) : (s.post i p).reserves = s.reserves := rfl
@[simp] theorem State.post_nextCrew (s : State) (i : Instr) (p : Input) : (s.post i p).nextCrew = s.nextCrew := rfl
@[simp] theorem State.post_nextHart (s : State) (i : Instr) (p : Input) : (s.post i p).nextHart = s.nextHart := rfl
@[simp] theorem State.post_nextAccept (s : State) (i : Instr) (p : Input) : (s.post i p).nextAccept = s.nextAccept := rfl
@[simp] theorem State.post_nextPlaced (s : State) (i : Instr) (p : Input) : (s.post i p).nextPlaced = s.nextPlaced := rfl
@[simp] theorem State.post_transfers (s : State) (i : Instr) (p : Input) : (s.post i p).transfers = s.transfers := rfl
@[simp] theorem State.post_nextXfer (s : State) (i : Instr) (p : Input) : (s.post i p).nextXfer = s.nextXfer := rfl
@[simp] theorem State.post_trains (s : State) (i : Instr) (p : Input) : (s.post i p).trains = s.trains := rfl
@[simp] theorem State.post_nextTrain (s : State) (i : Instr) (p : Input) : (s.post i p).nextTrain = s.nextTrain := rfl
@[simp] theorem State.post_contribs (s : State) (i : Instr) (p : Input) : (s.post i p).contribs = s.contribs := rfl
@[simp] theorem State.post_rounds (s : State) (i : Instr) (p : Input) : (s.post i p).rounds = s.rounds := rfl
@[simp] theorem State.post_nextRound (s : State) (i : Instr) (p : Input) : (s.post i p).nextRound = s.nextRound := rfl
@[simp] theorem State.post_outbox (s : State) (i : Instr) (p : Input) : (s.post i p).outbox = s.outbox := rfl
@[simp] theorem State.post_unsent (s : State) (i : Instr) (p : Input) : (s.post i p).unsent = s.unsent := rfl
@[simp] theorem State.post_dstat (s : State) (i : Instr) (p : Input) : (s.post i p).dstat = s.dstat := rfl
@[simp] theorem State.post_dcause (s : State) (i : Instr) (p : Input) : (s.post i p).dcause = s.dcause := rfl
@[simp] theorem State.post_cmdCode (s : State) (i : Instr) (p : Input) : (s.post i p).cmdCode = s.cmdCode := rfl
@[simp] theorem State.post_cmdGo (s : State) (i : Instr) (p : Input) : (s.post i p).cmdGo = s.cmdGo := rfl
@[simp] theorem State.post_cmdArgs (s : State) (i : Instr) (p : Input) : (s.post i p).cmdArgs = s.cmdArgs := rfl
@[simp] theorem State.post_cmdRes (s : State) (i : Instr) (p : Input) : (s.post i p).cmdRes = s.cmdRes := rfl
@[simp] theorem State.post_cmdDetIndex (s : State) (i : Instr) (p : Input) : (s.post i p).cmdDetIndex = s.cmdDetIndex := rfl
@[simp] theorem State.post_cmdDetSect (s : State) (i : Instr) (p : Input) : (s.post i p).cmdDetSect = s.cmdDetSect := rfl
@[simp] theorem State.post_msix (s : State) (i : Instr) (p : Input) : (s.post i p).msix = s.msix := rfl
@[simp] theorem State.post_chan (s : State) (i : Instr) (p : Input) : (s.post i p).chan = s.chan := rfl
@[simp] theorem State.post_h2dNext (s : State) (i : Instr) (p : Input) : (s.post i p).h2dNext = s.h2dNext := rfl
@[simp] theorem State.post_d2hNext (s : State) (i : Instr) (p : Input) : (s.post i p).d2hNext = s.d2hNext := rfl
@[simp] theorem State.post_chanErr (s : State) (i : Instr) (p : Input) : (s.post i p).chanErr = s.chanErr := rfl
@[simp] theorem State.post_rbSpace (s : State) (i : Instr) (p : Input) : (s.post i p).rbSpace = s.rbSpace := rfl
@[simp] theorem State.post_rbFreeze (s : State) (i : Instr) (p : Input) : (s.post i p).rbFreeze = s.rbFreeze := rfl
@[simp] theorem State.post_rbCount (s : State) (i : Instr) (p : Input) : (s.post i p).rbCount = s.rbCount := rfl
@[simp] theorem State.post_rbGo (s : State) (i : Instr) (p : Input) : (s.post i p).rbGo = s.rbGo := rfl
@[simp] theorem State.post_rbAddr (s : State) (i : Instr) (p : Input) : (s.post i p).rbAddr = s.rbAddr := rfl
@[simp] theorem State.post_rbCode (s : State) (i : Instr) (p : Input) : (s.post i p).rbCode = s.rbCode := rfl
@[simp] theorem State.post_rbFirst (s : State) (i : Instr) (p : Input) : (s.post i p).rbFirst = s.rbFirst := rfl
@[simp] theorem State.post_rbData (s : State) (i : Instr) (p : Input) : (s.post i p).rbData = s.rbData := rfl
@[simp] theorem State.post_rbEnd (s : State) (i : Instr) (p : Input) : (s.post i p).rbEnd = s.rbEnd := rfl
@[simp] theorem State.post_rbReq (s : State) (i : Instr) (p : Input) : (s.post i p).rbReq = s.rbReq := rfl
@[simp] theorem State.post_spdmSession (s : State) (i : Instr) (p : Input) : (s.post i p).spdmSession = s.spdmSession := rfl
@[simp] theorem State.post_answers (s : State) (i : Instr) (p : Input) : (s.post i p).answers = s.answers := rfl
@[simp] theorem State.post_powerCap (s : State) (i : Instr) (p : Input) : (s.post i p).powerCap = s.powerCap := rfl
@[simp] theorem State.post_capPending (s : State) (i : Instr) (p : Input) : (s.post i p).capPending = s.capPending := rfl
@[simp] theorem State.post_throttled (s : State) (i : Instr) (p : Input) : (s.post i p).throttled = s.throttled := rfl
@[simp] theorem State.post_tripped (s : State) (i : Instr) (p : Input) : (s.post i p).tripped = s.tripped := rfl
@[simp] theorem State.post_standbyRail (s : State) (i : Instr) (p : Input) : (s.post i p).standbyRail = s.standbyRail := rfl
@[simp] theorem State.post_huskBooted (s : State) (i : Instr) (p : Input) : (s.post i p).huskBooted = s.huskBooted := rfl
@[simp] theorem State.post_rails (s : State) (i : Instr) (p : Input) : (s.post i p).rails = s.rails := rfl
@[simp] theorem State.post_bringStep (s : State) (i : Instr) (p : Input) : (s.post i p).bringStep = s.bringStep := rfl
@[simp] theorem State.post_bringDone (s : State) (i : Instr) (p : Input) : (s.post i p).bringDone = s.bringDone := rfl
@[simp] theorem State.post_bringSince (s : State) (i : Instr) (p : Input) : (s.post i p).bringSince = s.bringSince := rfl
@[simp] theorem State.post_fuseFault (s : State) (i : Instr) (p : Input) : (s.post i p).fuseFault = s.fuseFault := rfl
@[simp] theorem State.post_pclStarted (s : State) (i : Instr) (p : Input) : (s.post i p).pclStarted = s.pclStarted := rfl
@[simp] theorem State.post_keysOut (s : State) (i : Instr) (p : Input) : (s.post i p).keysOut = s.keysOut := rfl
@[simp] theorem State.post_locked (s : State) (i : Instr) (p : Input) : (s.post i p).locked = s.locked := rfl
@[simp] theorem State.post_zeroised (s : State) (i : Instr) (p : Input) : (s.post i p).zeroised = s.zeroised := rfl
@[simp] theorem State.post_unprovisioned (s : State) (i : Instr) (p : Input) : (s.post i p).unprovisioned = s.unprovisioned := rfl
@[simp] theorem State.post_bringStopped (s : State) (i : Instr) (p : Input) : (s.post i p).bringStopped = s.bringStopped := rfl
@[simp] theorem State.post_poolADown (s : State) (i : Instr) (p : Input) : (s.post i p).poolADown = s.poolADown := rfl
@[simp] theorem State.post_poolBDown (s : State) (i : Instr) (p : Input) : (s.post i p).poolBDown = s.poolBDown := rfl
@[simp] theorem State.post_ports (s : State) (i : Instr) (p : Input) : (s.post i p).ports = s.ports := rfl
@[simp] theorem State.post_alwaysLog (s : State) (i : Instr) (p : Input) : (s.post i p).alwaysLog = s.alwaysLog := rfl
@[simp] theorem State.post_dieLogs (s : State) (i : Instr) (p : Input) : (s.post i p).dieLogs = s.dieLogs := rfl
@[simp] theorem State.post_wsOpen (s : State) (i : Instr) (p : Input) : (s.post i p).wsOpen = s.wsOpen := rfl
@[simp] theorem State.post_ctxArea (s : State) (i : Instr) (p : Input) : (s.post i p).ctxArea = s.ctxArea := rfl
@[simp] theorem State.post_pclErr (s : State) (i : Instr) (p : Input) : (s.post i p).pclErr = s.pclErr := rfl
@[simp] theorem State.post_pclVal (s : State) (i : Instr) (p : Input) : (s.post i p).pclVal = s.pclVal := rfl
@[simp] theorem State.post_eccCorrected (s : State) (i : Instr) (p : Input) : (s.post i p).eccCorrected = s.eccCorrected := rfl
@[simp] theorem State.post_hostErrs (s : State) (i : Instr) (p : Input) : (s.post i p).hostErrs = s.hostErrs := rfl
@[simp] theorem State.post_cfgAnswers (s : State) (i : Instr) (p : Input) : (s.post i p).cfgAnswers = s.cfgAnswers := rfl
@[simp] theorem State.post_collNotices (s : State) (i : Instr) (p : Input) : (s.post i p).collNotices = s.collNotices := rfl

/-! ### An event before all others -/

@[simp] theorem State.postFront_hart (s : State) (i : Instr) (p : Input) : (s.postFront i p).hart = s.hart := rfl
@[simp] theorem State.postFront_others (s : State) (i : Instr) (p : Input) : (s.postFront i p).others = s.others := rfl
@[simp] theorem State.postFront_jobs (s : State) (i : Instr) (p : Input) : (s.postFront i p).jobs = s.jobs := rfl
@[simp] theorem State.postFront_inp (s : State) (i : Instr) (p : Input) : (s.postFront i p).inp = s.inp := rfl
@[simp] theorem State.postFront_keepTurn (s : State) (i : Instr) (p : Input) : (s.postFront i p).keepTurn = s.keepTurn := rfl
@[simp] theorem State.postFront_urgent (s : State) (i : Instr) (p : Input) : (s.postFront i p).urgent = s.urgent := rfl
@[simp] theorem State.postFront_jobAge (s : State) (i : Instr) (p : Input) : (s.postFront i p).jobAge = s.jobAge := rfl
@[simp] theorem State.postFront_xferAge (s : State) (i : Instr) (p : Input) : (s.postFront i p).xferAge = s.xferAge := rfl
@[simp] theorem State.postFront_turns (s : State) (i : Instr) (p : Input) : (s.postFront i p).turns = s.turns := rfl
@[simp] theorem State.postFront_clk (s : State) (i : Instr) (p : Input) : (s.postFront i p).clk = s.clk := rfl
@[simp] theorem State.postFront_tick (s : State) (i : Instr) (p : Input) : (s.postFront i p).tick = s.tick := rfl
@[simp] theorem State.postFront_pkg (s : State) (i : Instr) (p : Input) : (s.postFront i p).pkg = s.pkg := rfl
@[simp] theorem State.postFront_domain (s : State) (i : Instr) (p : Input) : (s.postFront i p).domain = s.domain := rfl
@[simp] theorem State.postFront_mem (s : State) (i : Instr) (p : Input) : (s.postFront i p).mem = s.mem := rfl
@[simp] theorem State.postFront_hostMem (s : State) (i : Instr) (p : Input) : (s.postFront i p).hostMem = s.hostMem := rfl
@[simp] theorem State.postFront_poison (s : State) (i : Instr) (p : Input) : (s.postFront i p).poison = s.poison := rfl
@[simp] theorem State.postFront_segHdr (s : State) (i : Instr) (p : Input) : (s.postFront i p).segHdr = s.segHdr := rfl
@[simp] theorem State.postFront_hdrPoison (s : State) (i : Instr) (p : Input) : (s.postFront i p).hdrPoison = s.hdrPoison := rfl
@[simp] theorem State.postFront_leaving (s : State) (i : Instr) (p : Input) : (s.postFront i p).leaving = s.leaving := rfl
@[simp] theorem State.postFront_apps (s : State) (i : Instr) (p : Input) : (s.postFront i p).apps = s.apps := rfl
@[simp] theorem State.postFront_tenants (s : State) (i : Instr) (p : Input) : (s.postFront i p).tenants = s.tenants := rfl
@[simp] theorem State.postFront_crews (s : State) (i : Instr) (p : Input) : (s.postFront i p).crews = s.crews := rfl
@[simp] theorem State.postFront_leases (s : State) (i : Instr) (p : Input) : (s.postFront i p).leases = s.leases := rfl
@[simp] theorem State.postFront_reserves (s : State) (i : Instr) (p : Input) : (s.postFront i p).reserves = s.reserves := rfl
@[simp] theorem State.postFront_nextCrew (s : State) (i : Instr) (p : Input) : (s.postFront i p).nextCrew = s.nextCrew := rfl
@[simp] theorem State.postFront_nextHart (s : State) (i : Instr) (p : Input) : (s.postFront i p).nextHart = s.nextHart := rfl
@[simp] theorem State.postFront_nextAccept (s : State) (i : Instr) (p : Input) : (s.postFront i p).nextAccept = s.nextAccept := rfl
@[simp] theorem State.postFront_nextPlaced (s : State) (i : Instr) (p : Input) : (s.postFront i p).nextPlaced = s.nextPlaced := rfl
@[simp] theorem State.postFront_transfers (s : State) (i : Instr) (p : Input) : (s.postFront i p).transfers = s.transfers := rfl
@[simp] theorem State.postFront_nextXfer (s : State) (i : Instr) (p : Input) : (s.postFront i p).nextXfer = s.nextXfer := rfl
@[simp] theorem State.postFront_trains (s : State) (i : Instr) (p : Input) : (s.postFront i p).trains = s.trains := rfl
@[simp] theorem State.postFront_nextTrain (s : State) (i : Instr) (p : Input) : (s.postFront i p).nextTrain = s.nextTrain := rfl
@[simp] theorem State.postFront_contribs (s : State) (i : Instr) (p : Input) : (s.postFront i p).contribs = s.contribs := rfl
@[simp] theorem State.postFront_rounds (s : State) (i : Instr) (p : Input) : (s.postFront i p).rounds = s.rounds := rfl
@[simp] theorem State.postFront_nextRound (s : State) (i : Instr) (p : Input) : (s.postFront i p).nextRound = s.nextRound := rfl
@[simp] theorem State.postFront_outbox (s : State) (i : Instr) (p : Input) : (s.postFront i p).outbox = s.outbox := rfl
@[simp] theorem State.postFront_unsent (s : State) (i : Instr) (p : Input) : (s.postFront i p).unsent = s.unsent := rfl
@[simp] theorem State.postFront_dstat (s : State) (i : Instr) (p : Input) : (s.postFront i p).dstat = s.dstat := rfl
@[simp] theorem State.postFront_dcause (s : State) (i : Instr) (p : Input) : (s.postFront i p).dcause = s.dcause := rfl
@[simp] theorem State.postFront_cmdCode (s : State) (i : Instr) (p : Input) : (s.postFront i p).cmdCode = s.cmdCode := rfl
@[simp] theorem State.postFront_cmdGo (s : State) (i : Instr) (p : Input) : (s.postFront i p).cmdGo = s.cmdGo := rfl
@[simp] theorem State.postFront_cmdArgs (s : State) (i : Instr) (p : Input) : (s.postFront i p).cmdArgs = s.cmdArgs := rfl
@[simp] theorem State.postFront_cmdRes (s : State) (i : Instr) (p : Input) : (s.postFront i p).cmdRes = s.cmdRes := rfl
@[simp] theorem State.postFront_cmdDetIndex (s : State) (i : Instr) (p : Input) : (s.postFront i p).cmdDetIndex = s.cmdDetIndex := rfl
@[simp] theorem State.postFront_cmdDetSect (s : State) (i : Instr) (p : Input) : (s.postFront i p).cmdDetSect = s.cmdDetSect := rfl
@[simp] theorem State.postFront_msix (s : State) (i : Instr) (p : Input) : (s.postFront i p).msix = s.msix := rfl
@[simp] theorem State.postFront_chan (s : State) (i : Instr) (p : Input) : (s.postFront i p).chan = s.chan := rfl
@[simp] theorem State.postFront_h2dNext (s : State) (i : Instr) (p : Input) : (s.postFront i p).h2dNext = s.h2dNext := rfl
@[simp] theorem State.postFront_d2hNext (s : State) (i : Instr) (p : Input) : (s.postFront i p).d2hNext = s.d2hNext := rfl
@[simp] theorem State.postFront_chanErr (s : State) (i : Instr) (p : Input) : (s.postFront i p).chanErr = s.chanErr := rfl
@[simp] theorem State.postFront_rbSpace (s : State) (i : Instr) (p : Input) : (s.postFront i p).rbSpace = s.rbSpace := rfl
@[simp] theorem State.postFront_rbFreeze (s : State) (i : Instr) (p : Input) : (s.postFront i p).rbFreeze = s.rbFreeze := rfl
@[simp] theorem State.postFront_rbCount (s : State) (i : Instr) (p : Input) : (s.postFront i p).rbCount = s.rbCount := rfl
@[simp] theorem State.postFront_rbGo (s : State) (i : Instr) (p : Input) : (s.postFront i p).rbGo = s.rbGo := rfl
@[simp] theorem State.postFront_rbAddr (s : State) (i : Instr) (p : Input) : (s.postFront i p).rbAddr = s.rbAddr := rfl
@[simp] theorem State.postFront_rbCode (s : State) (i : Instr) (p : Input) : (s.postFront i p).rbCode = s.rbCode := rfl
@[simp] theorem State.postFront_rbFirst (s : State) (i : Instr) (p : Input) : (s.postFront i p).rbFirst = s.rbFirst := rfl
@[simp] theorem State.postFront_rbData (s : State) (i : Instr) (p : Input) : (s.postFront i p).rbData = s.rbData := rfl
@[simp] theorem State.postFront_rbEnd (s : State) (i : Instr) (p : Input) : (s.postFront i p).rbEnd = s.rbEnd := rfl
@[simp] theorem State.postFront_rbReq (s : State) (i : Instr) (p : Input) : (s.postFront i p).rbReq = s.rbReq := rfl
@[simp] theorem State.postFront_spdmSession (s : State) (i : Instr) (p : Input) : (s.postFront i p).spdmSession = s.spdmSession := rfl
@[simp] theorem State.postFront_answers (s : State) (i : Instr) (p : Input) : (s.postFront i p).answers = s.answers := rfl
@[simp] theorem State.postFront_powerCap (s : State) (i : Instr) (p : Input) : (s.postFront i p).powerCap = s.powerCap := rfl
@[simp] theorem State.postFront_capPending (s : State) (i : Instr) (p : Input) : (s.postFront i p).capPending = s.capPending := rfl
@[simp] theorem State.postFront_throttled (s : State) (i : Instr) (p : Input) : (s.postFront i p).throttled = s.throttled := rfl
@[simp] theorem State.postFront_tripped (s : State) (i : Instr) (p : Input) : (s.postFront i p).tripped = s.tripped := rfl
@[simp] theorem State.postFront_standbyRail (s : State) (i : Instr) (p : Input) : (s.postFront i p).standbyRail = s.standbyRail := rfl
@[simp] theorem State.postFront_huskBooted (s : State) (i : Instr) (p : Input) : (s.postFront i p).huskBooted = s.huskBooted := rfl
@[simp] theorem State.postFront_rails (s : State) (i : Instr) (p : Input) : (s.postFront i p).rails = s.rails := rfl
@[simp] theorem State.postFront_bringStep (s : State) (i : Instr) (p : Input) : (s.postFront i p).bringStep = s.bringStep := rfl
@[simp] theorem State.postFront_bringDone (s : State) (i : Instr) (p : Input) : (s.postFront i p).bringDone = s.bringDone := rfl
@[simp] theorem State.postFront_bringSince (s : State) (i : Instr) (p : Input) : (s.postFront i p).bringSince = s.bringSince := rfl
@[simp] theorem State.postFront_fuseFault (s : State) (i : Instr) (p : Input) : (s.postFront i p).fuseFault = s.fuseFault := rfl
@[simp] theorem State.postFront_pclStarted (s : State) (i : Instr) (p : Input) : (s.postFront i p).pclStarted = s.pclStarted := rfl
@[simp] theorem State.postFront_keysOut (s : State) (i : Instr) (p : Input) : (s.postFront i p).keysOut = s.keysOut := rfl
@[simp] theorem State.postFront_locked (s : State) (i : Instr) (p : Input) : (s.postFront i p).locked = s.locked := rfl
@[simp] theorem State.postFront_zeroised (s : State) (i : Instr) (p : Input) : (s.postFront i p).zeroised = s.zeroised := rfl
@[simp] theorem State.postFront_unprovisioned (s : State) (i : Instr) (p : Input) : (s.postFront i p).unprovisioned = s.unprovisioned := rfl
@[simp] theorem State.postFront_bringStopped (s : State) (i : Instr) (p : Input) : (s.postFront i p).bringStopped = s.bringStopped := rfl
@[simp] theorem State.postFront_poolADown (s : State) (i : Instr) (p : Input) : (s.postFront i p).poolADown = s.poolADown := rfl
@[simp] theorem State.postFront_poolBDown (s : State) (i : Instr) (p : Input) : (s.postFront i p).poolBDown = s.poolBDown := rfl
@[simp] theorem State.postFront_ports (s : State) (i : Instr) (p : Input) : (s.postFront i p).ports = s.ports := rfl
@[simp] theorem State.postFront_alwaysLog (s : State) (i : Instr) (p : Input) : (s.postFront i p).alwaysLog = s.alwaysLog := rfl
@[simp] theorem State.postFront_dieLogs (s : State) (i : Instr) (p : Input) : (s.postFront i p).dieLogs = s.dieLogs := rfl
@[simp] theorem State.postFront_wsOpen (s : State) (i : Instr) (p : Input) : (s.postFront i p).wsOpen = s.wsOpen := rfl
@[simp] theorem State.postFront_ctxArea (s : State) (i : Instr) (p : Input) : (s.postFront i p).ctxArea = s.ctxArea := rfl
@[simp] theorem State.postFront_pclErr (s : State) (i : Instr) (p : Input) : (s.postFront i p).pclErr = s.pclErr := rfl
@[simp] theorem State.postFront_pclVal (s : State) (i : Instr) (p : Input) : (s.postFront i p).pclVal = s.pclVal := rfl
@[simp] theorem State.postFront_eccCorrected (s : State) (i : Instr) (p : Input) : (s.postFront i p).eccCorrected = s.eccCorrected := rfl
@[simp] theorem State.postFront_hostErrs (s : State) (i : Instr) (p : Input) : (s.postFront i p).hostErrs = s.hostErrs := rfl
@[simp] theorem State.postFront_cfgAnswers (s : State) (i : Instr) (p : Input) : (s.postFront i p).cfgAnswers = s.cfgAnswers := rfl
@[simp] theorem State.postFront_collNotices (s : State) (i : Instr) (p : Input) : (s.postFront i p).collNotices = s.collNotices := rfl

/-! ### Time passes -/

@[simp] theorem State.passTime_hart (s : State) : (s.passTime).hart = s.hart := rfl
@[simp] theorem State.passTime_others (s : State) : (s.passTime).others = s.others := rfl
@[simp] theorem State.passTime_events (s : State) : (s.passTime).events = s.events := rfl
@[simp] theorem State.passTime_jobs (s : State) : (s.passTime).jobs = s.jobs := rfl
@[simp] theorem State.passTime_inp (s : State) : (s.passTime).inp = s.inp := rfl
@[simp] theorem State.passTime_keepTurn (s : State) : (s.passTime).keepTurn = s.keepTurn := rfl
@[simp] theorem State.passTime_urgent (s : State) : (s.passTime).urgent = s.urgent := rfl
@[simp] theorem State.passTime_turns (s : State) : (s.passTime).turns = s.turns := rfl
@[simp] theorem State.passTime_pkg (s : State) : (s.passTime).pkg = s.pkg := rfl
@[simp] theorem State.passTime_domain (s : State) : (s.passTime).domain = s.domain := rfl
@[simp] theorem State.passTime_mem (s : State) : (s.passTime).mem = s.mem := rfl
@[simp] theorem State.passTime_hostMem (s : State) : (s.passTime).hostMem = s.hostMem := rfl
@[simp] theorem State.passTime_poison (s : State) : (s.passTime).poison = s.poison := rfl
@[simp] theorem State.passTime_segHdr (s : State) : (s.passTime).segHdr = s.segHdr := rfl
@[simp] theorem State.passTime_hdrPoison (s : State) : (s.passTime).hdrPoison = s.hdrPoison := rfl
@[simp] theorem State.passTime_leaving (s : State) : (s.passTime).leaving = s.leaving := rfl
@[simp] theorem State.passTime_apps (s : State) : (s.passTime).apps = s.apps := rfl
@[simp] theorem State.passTime_tenants (s : State) : (s.passTime).tenants = s.tenants := rfl
@[simp] theorem State.passTime_crews (s : State) : (s.passTime).crews = s.crews := rfl
@[simp] theorem State.passTime_leases (s : State) : (s.passTime).leases = s.leases := rfl
@[simp] theorem State.passTime_reserves (s : State) : (s.passTime).reserves = s.reserves := rfl
@[simp] theorem State.passTime_nextCrew (s : State) : (s.passTime).nextCrew = s.nextCrew := rfl
@[simp] theorem State.passTime_nextHart (s : State) : (s.passTime).nextHart = s.nextHart := rfl
@[simp] theorem State.passTime_nextAccept (s : State) : (s.passTime).nextAccept = s.nextAccept := rfl
@[simp] theorem State.passTime_nextPlaced (s : State) : (s.passTime).nextPlaced = s.nextPlaced := rfl
@[simp] theorem State.passTime_transfers (s : State) : (s.passTime).transfers = s.transfers := rfl
@[simp] theorem State.passTime_nextXfer (s : State) : (s.passTime).nextXfer = s.nextXfer := rfl
@[simp] theorem State.passTime_trains (s : State) : (s.passTime).trains = s.trains := rfl
@[simp] theorem State.passTime_nextTrain (s : State) : (s.passTime).nextTrain = s.nextTrain := rfl
@[simp] theorem State.passTime_contribs (s : State) : (s.passTime).contribs = s.contribs := rfl
@[simp] theorem State.passTime_rounds (s : State) : (s.passTime).rounds = s.rounds := rfl
@[simp] theorem State.passTime_nextRound (s : State) : (s.passTime).nextRound = s.nextRound := rfl
@[simp] theorem State.passTime_outbox (s : State) : (s.passTime).outbox = s.outbox := rfl
@[simp] theorem State.passTime_unsent (s : State) : (s.passTime).unsent = s.unsent := rfl
@[simp] theorem State.passTime_dstat (s : State) : (s.passTime).dstat = s.dstat := rfl
@[simp] theorem State.passTime_dcause (s : State) : (s.passTime).dcause = s.dcause := rfl
@[simp] theorem State.passTime_cmdCode (s : State) : (s.passTime).cmdCode = s.cmdCode := rfl
@[simp] theorem State.passTime_cmdGo (s : State) : (s.passTime).cmdGo = s.cmdGo := rfl
@[simp] theorem State.passTime_cmdArgs (s : State) : (s.passTime).cmdArgs = s.cmdArgs := rfl
@[simp] theorem State.passTime_cmdRes (s : State) : (s.passTime).cmdRes = s.cmdRes := rfl
@[simp] theorem State.passTime_cmdDetIndex (s : State) : (s.passTime).cmdDetIndex = s.cmdDetIndex := rfl
@[simp] theorem State.passTime_cmdDetSect (s : State) : (s.passTime).cmdDetSect = s.cmdDetSect := rfl
@[simp] theorem State.passTime_msix (s : State) : (s.passTime).msix = s.msix := rfl
@[simp] theorem State.passTime_chan (s : State) : (s.passTime).chan = s.chan := rfl
@[simp] theorem State.passTime_h2dNext (s : State) : (s.passTime).h2dNext = s.h2dNext := rfl
@[simp] theorem State.passTime_d2hNext (s : State) : (s.passTime).d2hNext = s.d2hNext := rfl
@[simp] theorem State.passTime_chanErr (s : State) : (s.passTime).chanErr = s.chanErr := rfl
@[simp] theorem State.passTime_rbSpace (s : State) : (s.passTime).rbSpace = s.rbSpace := rfl
@[simp] theorem State.passTime_rbFreeze (s : State) : (s.passTime).rbFreeze = s.rbFreeze := rfl
@[simp] theorem State.passTime_rbCount (s : State) : (s.passTime).rbCount = s.rbCount := rfl
@[simp] theorem State.passTime_rbGo (s : State) : (s.passTime).rbGo = s.rbGo := rfl
@[simp] theorem State.passTime_rbAddr (s : State) : (s.passTime).rbAddr = s.rbAddr := rfl
@[simp] theorem State.passTime_rbCode (s : State) : (s.passTime).rbCode = s.rbCode := rfl
@[simp] theorem State.passTime_rbFirst (s : State) : (s.passTime).rbFirst = s.rbFirst := rfl
@[simp] theorem State.passTime_rbData (s : State) : (s.passTime).rbData = s.rbData := rfl
@[simp] theorem State.passTime_rbEnd (s : State) : (s.passTime).rbEnd = s.rbEnd := rfl
@[simp] theorem State.passTime_rbReq (s : State) : (s.passTime).rbReq = s.rbReq := rfl
@[simp] theorem State.passTime_spdmSession (s : State) : (s.passTime).spdmSession = s.spdmSession := rfl
@[simp] theorem State.passTime_answers (s : State) : (s.passTime).answers = s.answers := rfl
@[simp] theorem State.passTime_powerCap (s : State) : (s.passTime).powerCap = s.powerCap := rfl
@[simp] theorem State.passTime_capPending (s : State) : (s.passTime).capPending = s.capPending := rfl
@[simp] theorem State.passTime_throttled (s : State) : (s.passTime).throttled = s.throttled := rfl
@[simp] theorem State.passTime_tripped (s : State) : (s.passTime).tripped = s.tripped := rfl
@[simp] theorem State.passTime_standbyRail (s : State) : (s.passTime).standbyRail = s.standbyRail := rfl
@[simp] theorem State.passTime_huskBooted (s : State) : (s.passTime).huskBooted = s.huskBooted := rfl
@[simp] theorem State.passTime_rails (s : State) : (s.passTime).rails = s.rails := rfl
@[simp] theorem State.passTime_bringStep (s : State) : (s.passTime).bringStep = s.bringStep := rfl
@[simp] theorem State.passTime_bringDone (s : State) : (s.passTime).bringDone = s.bringDone := rfl
@[simp] theorem State.passTime_bringSince (s : State) : (s.passTime).bringSince = s.bringSince := rfl
@[simp] theorem State.passTime_fuseFault (s : State) : (s.passTime).fuseFault = s.fuseFault := rfl
@[simp] theorem State.passTime_pclStarted (s : State) : (s.passTime).pclStarted = s.pclStarted := rfl
@[simp] theorem State.passTime_keysOut (s : State) : (s.passTime).keysOut = s.keysOut := rfl
@[simp] theorem State.passTime_locked (s : State) : (s.passTime).locked = s.locked := rfl
@[simp] theorem State.passTime_zeroised (s : State) : (s.passTime).zeroised = s.zeroised := rfl
@[simp] theorem State.passTime_unprovisioned (s : State) : (s.passTime).unprovisioned = s.unprovisioned := rfl
@[simp] theorem State.passTime_bringStopped (s : State) : (s.passTime).bringStopped = s.bringStopped := rfl
@[simp] theorem State.passTime_poolADown (s : State) : (s.passTime).poolADown = s.poolADown := rfl
@[simp] theorem State.passTime_poolBDown (s : State) : (s.passTime).poolBDown = s.poolBDown := rfl
@[simp] theorem State.passTime_ports (s : State) : (s.passTime).ports = s.ports := rfl
@[simp] theorem State.passTime_alwaysLog (s : State) : (s.passTime).alwaysLog = s.alwaysLog := rfl
@[simp] theorem State.passTime_dieLogs (s : State) : (s.passTime).dieLogs = s.dieLogs := rfl
@[simp] theorem State.passTime_wsOpen (s : State) : (s.passTime).wsOpen = s.wsOpen := rfl
@[simp] theorem State.passTime_ctxArea (s : State) : (s.passTime).ctxArea = s.ctxArea := rfl
@[simp] theorem State.passTime_pclErr (s : State) : (s.passTime).pclErr = s.pclErr := rfl
@[simp] theorem State.passTime_pclVal (s : State) : (s.passTime).pclVal = s.pclVal := rfl
@[simp] theorem State.passTime_eccCorrected (s : State) : (s.passTime).eccCorrected = s.eccCorrected := rfl
@[simp] theorem State.passTime_hostErrs (s : State) : (s.passTime).hostErrs = s.hostErrs := rfl
@[simp] theorem State.passTime_cfgAnswers (s : State) : (s.passTime).cfgAnswers = s.cfgAnswers := rfl
@[simp] theorem State.passTime_collNotices (s : State) : (s.passTime).collNotices = s.collNotices := rfl

/-! ### A hart takes its turn -/

@[simp] theorem State.takeTurn_hart (s : State) : (s.takeTurn).hart = s.hart := rfl
@[simp] theorem State.takeTurn_others (s : State) : (s.takeTurn).others = s.others := rfl
@[simp] theorem State.takeTurn_events (s : State) : (s.takeTurn).events = s.events := rfl
@[simp] theorem State.takeTurn_jobs (s : State) : (s.takeTurn).jobs = s.jobs := rfl
@[simp] theorem State.takeTurn_inp (s : State) : (s.takeTurn).inp = s.inp := rfl
@[simp] theorem State.takeTurn_keepTurn (s : State) : (s.takeTurn).keepTurn = s.keepTurn := rfl
@[simp] theorem State.takeTurn_urgent (s : State) : (s.takeTurn).urgent = s.urgent := rfl
@[simp] theorem State.takeTurn_jobAge (s : State) : (s.takeTurn).jobAge = s.jobAge := rfl
@[simp] theorem State.takeTurn_xferAge (s : State) : (s.takeTurn).xferAge = s.xferAge := rfl
@[simp] theorem State.takeTurn_clk (s : State) : (s.takeTurn).clk = s.clk := rfl
@[simp] theorem State.takeTurn_tick (s : State) : (s.takeTurn).tick = s.tick := rfl
@[simp] theorem State.takeTurn_pkg (s : State) : (s.takeTurn).pkg = s.pkg := rfl
@[simp] theorem State.takeTurn_domain (s : State) : (s.takeTurn).domain = s.domain := rfl
@[simp] theorem State.takeTurn_mem (s : State) : (s.takeTurn).mem = s.mem := rfl
@[simp] theorem State.takeTurn_hostMem (s : State) : (s.takeTurn).hostMem = s.hostMem := rfl
@[simp] theorem State.takeTurn_poison (s : State) : (s.takeTurn).poison = s.poison := rfl
@[simp] theorem State.takeTurn_segHdr (s : State) : (s.takeTurn).segHdr = s.segHdr := rfl
@[simp] theorem State.takeTurn_hdrPoison (s : State) : (s.takeTurn).hdrPoison = s.hdrPoison := rfl
@[simp] theorem State.takeTurn_leaving (s : State) : (s.takeTurn).leaving = s.leaving := rfl
@[simp] theorem State.takeTurn_apps (s : State) : (s.takeTurn).apps = s.apps := rfl
@[simp] theorem State.takeTurn_tenants (s : State) : (s.takeTurn).tenants = s.tenants := rfl
@[simp] theorem State.takeTurn_crews (s : State) : (s.takeTurn).crews = s.crews := rfl
@[simp] theorem State.takeTurn_leases (s : State) : (s.takeTurn).leases = s.leases := rfl
@[simp] theorem State.takeTurn_reserves (s : State) : (s.takeTurn).reserves = s.reserves := rfl
@[simp] theorem State.takeTurn_nextCrew (s : State) : (s.takeTurn).nextCrew = s.nextCrew := rfl
@[simp] theorem State.takeTurn_nextHart (s : State) : (s.takeTurn).nextHart = s.nextHart := rfl
@[simp] theorem State.takeTurn_nextAccept (s : State) : (s.takeTurn).nextAccept = s.nextAccept := rfl
@[simp] theorem State.takeTurn_nextPlaced (s : State) : (s.takeTurn).nextPlaced = s.nextPlaced := rfl
@[simp] theorem State.takeTurn_transfers (s : State) : (s.takeTurn).transfers = s.transfers := rfl
@[simp] theorem State.takeTurn_nextXfer (s : State) : (s.takeTurn).nextXfer = s.nextXfer := rfl
@[simp] theorem State.takeTurn_trains (s : State) : (s.takeTurn).trains = s.trains := rfl
@[simp] theorem State.takeTurn_nextTrain (s : State) : (s.takeTurn).nextTrain = s.nextTrain := rfl
@[simp] theorem State.takeTurn_contribs (s : State) : (s.takeTurn).contribs = s.contribs := rfl
@[simp] theorem State.takeTurn_rounds (s : State) : (s.takeTurn).rounds = s.rounds := rfl
@[simp] theorem State.takeTurn_nextRound (s : State) : (s.takeTurn).nextRound = s.nextRound := rfl
@[simp] theorem State.takeTurn_outbox (s : State) : (s.takeTurn).outbox = s.outbox := rfl
@[simp] theorem State.takeTurn_unsent (s : State) : (s.takeTurn).unsent = s.unsent := rfl
@[simp] theorem State.takeTurn_dstat (s : State) : (s.takeTurn).dstat = s.dstat := rfl
@[simp] theorem State.takeTurn_dcause (s : State) : (s.takeTurn).dcause = s.dcause := rfl
@[simp] theorem State.takeTurn_cmdCode (s : State) : (s.takeTurn).cmdCode = s.cmdCode := rfl
@[simp] theorem State.takeTurn_cmdGo (s : State) : (s.takeTurn).cmdGo = s.cmdGo := rfl
@[simp] theorem State.takeTurn_cmdArgs (s : State) : (s.takeTurn).cmdArgs = s.cmdArgs := rfl
@[simp] theorem State.takeTurn_cmdRes (s : State) : (s.takeTurn).cmdRes = s.cmdRes := rfl
@[simp] theorem State.takeTurn_cmdDetIndex (s : State) : (s.takeTurn).cmdDetIndex = s.cmdDetIndex := rfl
@[simp] theorem State.takeTurn_cmdDetSect (s : State) : (s.takeTurn).cmdDetSect = s.cmdDetSect := rfl
@[simp] theorem State.takeTurn_msix (s : State) : (s.takeTurn).msix = s.msix := rfl
@[simp] theorem State.takeTurn_chan (s : State) : (s.takeTurn).chan = s.chan := rfl
@[simp] theorem State.takeTurn_h2dNext (s : State) : (s.takeTurn).h2dNext = s.h2dNext := rfl
@[simp] theorem State.takeTurn_d2hNext (s : State) : (s.takeTurn).d2hNext = s.d2hNext := rfl
@[simp] theorem State.takeTurn_chanErr (s : State) : (s.takeTurn).chanErr = s.chanErr := rfl
@[simp] theorem State.takeTurn_rbSpace (s : State) : (s.takeTurn).rbSpace = s.rbSpace := rfl
@[simp] theorem State.takeTurn_rbFreeze (s : State) : (s.takeTurn).rbFreeze = s.rbFreeze := rfl
@[simp] theorem State.takeTurn_rbCount (s : State) : (s.takeTurn).rbCount = s.rbCount := rfl
@[simp] theorem State.takeTurn_rbGo (s : State) : (s.takeTurn).rbGo = s.rbGo := rfl
@[simp] theorem State.takeTurn_rbAddr (s : State) : (s.takeTurn).rbAddr = s.rbAddr := rfl
@[simp] theorem State.takeTurn_rbCode (s : State) : (s.takeTurn).rbCode = s.rbCode := rfl
@[simp] theorem State.takeTurn_rbFirst (s : State) : (s.takeTurn).rbFirst = s.rbFirst := rfl
@[simp] theorem State.takeTurn_rbData (s : State) : (s.takeTurn).rbData = s.rbData := rfl
@[simp] theorem State.takeTurn_rbEnd (s : State) : (s.takeTurn).rbEnd = s.rbEnd := rfl
@[simp] theorem State.takeTurn_rbReq (s : State) : (s.takeTurn).rbReq = s.rbReq := rfl
@[simp] theorem State.takeTurn_spdmSession (s : State) : (s.takeTurn).spdmSession = s.spdmSession := rfl
@[simp] theorem State.takeTurn_answers (s : State) : (s.takeTurn).answers = s.answers := rfl
@[simp] theorem State.takeTurn_powerCap (s : State) : (s.takeTurn).powerCap = s.powerCap := rfl
@[simp] theorem State.takeTurn_capPending (s : State) : (s.takeTurn).capPending = s.capPending := rfl
@[simp] theorem State.takeTurn_throttled (s : State) : (s.takeTurn).throttled = s.throttled := rfl
@[simp] theorem State.takeTurn_tripped (s : State) : (s.takeTurn).tripped = s.tripped := rfl
@[simp] theorem State.takeTurn_standbyRail (s : State) : (s.takeTurn).standbyRail = s.standbyRail := rfl
@[simp] theorem State.takeTurn_huskBooted (s : State) : (s.takeTurn).huskBooted = s.huskBooted := rfl
@[simp] theorem State.takeTurn_rails (s : State) : (s.takeTurn).rails = s.rails := rfl
@[simp] theorem State.takeTurn_bringStep (s : State) : (s.takeTurn).bringStep = s.bringStep := rfl
@[simp] theorem State.takeTurn_bringDone (s : State) : (s.takeTurn).bringDone = s.bringDone := rfl
@[simp] theorem State.takeTurn_bringSince (s : State) : (s.takeTurn).bringSince = s.bringSince := rfl
@[simp] theorem State.takeTurn_fuseFault (s : State) : (s.takeTurn).fuseFault = s.fuseFault := rfl
@[simp] theorem State.takeTurn_pclStarted (s : State) : (s.takeTurn).pclStarted = s.pclStarted := rfl
@[simp] theorem State.takeTurn_keysOut (s : State) : (s.takeTurn).keysOut = s.keysOut := rfl
@[simp] theorem State.takeTurn_locked (s : State) : (s.takeTurn).locked = s.locked := rfl
@[simp] theorem State.takeTurn_zeroised (s : State) : (s.takeTurn).zeroised = s.zeroised := rfl
@[simp] theorem State.takeTurn_unprovisioned (s : State) : (s.takeTurn).unprovisioned = s.unprovisioned := rfl
@[simp] theorem State.takeTurn_bringStopped (s : State) : (s.takeTurn).bringStopped = s.bringStopped := rfl
@[simp] theorem State.takeTurn_poolADown (s : State) : (s.takeTurn).poolADown = s.poolADown := rfl
@[simp] theorem State.takeTurn_poolBDown (s : State) : (s.takeTurn).poolBDown = s.poolBDown := rfl
@[simp] theorem State.takeTurn_ports (s : State) : (s.takeTurn).ports = s.ports := rfl
@[simp] theorem State.takeTurn_alwaysLog (s : State) : (s.takeTurn).alwaysLog = s.alwaysLog := rfl
@[simp] theorem State.takeTurn_dieLogs (s : State) : (s.takeTurn).dieLogs = s.dieLogs := rfl
@[simp] theorem State.takeTurn_wsOpen (s : State) : (s.takeTurn).wsOpen = s.wsOpen := rfl
@[simp] theorem State.takeTurn_ctxArea (s : State) : (s.takeTurn).ctxArea = s.ctxArea := rfl
@[simp] theorem State.takeTurn_pclErr (s : State) : (s.takeTurn).pclErr = s.pclErr := rfl
@[simp] theorem State.takeTurn_pclVal (s : State) : (s.takeTurn).pclVal = s.pclVal := rfl
@[simp] theorem State.takeTurn_eccCorrected (s : State) : (s.takeTurn).eccCorrected = s.eccCorrected := rfl
@[simp] theorem State.takeTurn_hostErrs (s : State) : (s.takeTurn).hostErrs = s.hostErrs := rfl
@[simp] theorem State.takeTurn_cfgAnswers (s : State) : (s.takeTurn).cfgAnswers = s.cfgAnswers := rfl
@[simp] theorem State.takeTurn_collNotices (s : State) : (s.takeTurn).collNotices = s.collNotices := rfl

/-! ### A port replaced -/

@[simp] theorem State.setPort_hart (s : State) (n : Nat) (p : Port) : (s.setPort n p).hart = s.hart := rfl
@[simp] theorem State.setPort_others (s : State) (n : Nat) (p : Port) : (s.setPort n p).others = s.others := rfl
@[simp] theorem State.setPort_events (s : State) (n : Nat) (p : Port) : (s.setPort n p).events = s.events := rfl
@[simp] theorem State.setPort_jobs (s : State) (n : Nat) (p : Port) : (s.setPort n p).jobs = s.jobs := rfl
@[simp] theorem State.setPort_inp (s : State) (n : Nat) (p : Port) : (s.setPort n p).inp = s.inp := rfl
@[simp] theorem State.setPort_keepTurn (s : State) (n : Nat) (p : Port) : (s.setPort n p).keepTurn = s.keepTurn := rfl
@[simp] theorem State.setPort_urgent (s : State) (n : Nat) (p : Port) : (s.setPort n p).urgent = s.urgent := rfl
@[simp] theorem State.setPort_jobAge (s : State) (n : Nat) (p : Port) : (s.setPort n p).jobAge = s.jobAge := rfl
@[simp] theorem State.setPort_xferAge (s : State) (n : Nat) (p : Port) : (s.setPort n p).xferAge = s.xferAge := rfl
@[simp] theorem State.setPort_turns (s : State) (n : Nat) (p : Port) : (s.setPort n p).turns = s.turns := rfl
@[simp] theorem State.setPort_clk (s : State) (n : Nat) (p : Port) : (s.setPort n p).clk = s.clk := rfl
@[simp] theorem State.setPort_tick (s : State) (n : Nat) (p : Port) : (s.setPort n p).tick = s.tick := rfl
@[simp] theorem State.setPort_pkg (s : State) (n : Nat) (p : Port) : (s.setPort n p).pkg = s.pkg := rfl
@[simp] theorem State.setPort_domain (s : State) (n : Nat) (p : Port) : (s.setPort n p).domain = s.domain := rfl
@[simp] theorem State.setPort_mem (s : State) (n : Nat) (p : Port) : (s.setPort n p).mem = s.mem := rfl
@[simp] theorem State.setPort_hostMem (s : State) (n : Nat) (p : Port) : (s.setPort n p).hostMem = s.hostMem := rfl
@[simp] theorem State.setPort_poison (s : State) (n : Nat) (p : Port) : (s.setPort n p).poison = s.poison := rfl
@[simp] theorem State.setPort_segHdr (s : State) (n : Nat) (p : Port) : (s.setPort n p).segHdr = s.segHdr := rfl
@[simp] theorem State.setPort_hdrPoison (s : State) (n : Nat) (p : Port) : (s.setPort n p).hdrPoison = s.hdrPoison := rfl
@[simp] theorem State.setPort_leaving (s : State) (n : Nat) (p : Port) : (s.setPort n p).leaving = s.leaving := rfl
@[simp] theorem State.setPort_apps (s : State) (n : Nat) (p : Port) : (s.setPort n p).apps = s.apps := rfl
@[simp] theorem State.setPort_tenants (s : State) (n : Nat) (p : Port) : (s.setPort n p).tenants = s.tenants := rfl
@[simp] theorem State.setPort_crews (s : State) (n : Nat) (p : Port) : (s.setPort n p).crews = s.crews := rfl
@[simp] theorem State.setPort_leases (s : State) (n : Nat) (p : Port) : (s.setPort n p).leases = s.leases := rfl
@[simp] theorem State.setPort_reserves (s : State) (n : Nat) (p : Port) : (s.setPort n p).reserves = s.reserves := rfl
@[simp] theorem State.setPort_nextCrew (s : State) (n : Nat) (p : Port) : (s.setPort n p).nextCrew = s.nextCrew := rfl
@[simp] theorem State.setPort_nextHart (s : State) (n : Nat) (p : Port) : (s.setPort n p).nextHart = s.nextHart := rfl
@[simp] theorem State.setPort_nextAccept (s : State) (n : Nat) (p : Port) : (s.setPort n p).nextAccept = s.nextAccept := rfl
@[simp] theorem State.setPort_nextPlaced (s : State) (n : Nat) (p : Port) : (s.setPort n p).nextPlaced = s.nextPlaced := rfl
@[simp] theorem State.setPort_transfers (s : State) (n : Nat) (p : Port) : (s.setPort n p).transfers = s.transfers := rfl
@[simp] theorem State.setPort_nextXfer (s : State) (n : Nat) (p : Port) : (s.setPort n p).nextXfer = s.nextXfer := rfl
@[simp] theorem State.setPort_trains (s : State) (n : Nat) (p : Port) : (s.setPort n p).trains = s.trains := rfl
@[simp] theorem State.setPort_nextTrain (s : State) (n : Nat) (p : Port) : (s.setPort n p).nextTrain = s.nextTrain := rfl
@[simp] theorem State.setPort_contribs (s : State) (n : Nat) (p : Port) : (s.setPort n p).contribs = s.contribs := rfl
@[simp] theorem State.setPort_rounds (s : State) (n : Nat) (p : Port) : (s.setPort n p).rounds = s.rounds := rfl
@[simp] theorem State.setPort_nextRound (s : State) (n : Nat) (p : Port) : (s.setPort n p).nextRound = s.nextRound := rfl
@[simp] theorem State.setPort_outbox (s : State) (n : Nat) (p : Port) : (s.setPort n p).outbox = s.outbox := rfl
@[simp] theorem State.setPort_unsent (s : State) (n : Nat) (p : Port) : (s.setPort n p).unsent = s.unsent := rfl
@[simp] theorem State.setPort_dstat (s : State) (n : Nat) (p : Port) : (s.setPort n p).dstat = s.dstat := rfl
@[simp] theorem State.setPort_dcause (s : State) (n : Nat) (p : Port) : (s.setPort n p).dcause = s.dcause := rfl
@[simp] theorem State.setPort_cmdCode (s : State) (n : Nat) (p : Port) : (s.setPort n p).cmdCode = s.cmdCode := rfl
@[simp] theorem State.setPort_cmdGo (s : State) (n : Nat) (p : Port) : (s.setPort n p).cmdGo = s.cmdGo := rfl
@[simp] theorem State.setPort_cmdArgs (s : State) (n : Nat) (p : Port) : (s.setPort n p).cmdArgs = s.cmdArgs := rfl
@[simp] theorem State.setPort_cmdRes (s : State) (n : Nat) (p : Port) : (s.setPort n p).cmdRes = s.cmdRes := rfl
@[simp] theorem State.setPort_cmdDetIndex (s : State) (n : Nat) (p : Port) : (s.setPort n p).cmdDetIndex = s.cmdDetIndex := rfl
@[simp] theorem State.setPort_cmdDetSect (s : State) (n : Nat) (p : Port) : (s.setPort n p).cmdDetSect = s.cmdDetSect := rfl
@[simp] theorem State.setPort_msix (s : State) (n : Nat) (p : Port) : (s.setPort n p).msix = s.msix := rfl
@[simp] theorem State.setPort_chan (s : State) (n : Nat) (p : Port) : (s.setPort n p).chan = s.chan := rfl
@[simp] theorem State.setPort_h2dNext (s : State) (n : Nat) (p : Port) : (s.setPort n p).h2dNext = s.h2dNext := rfl
@[simp] theorem State.setPort_d2hNext (s : State) (n : Nat) (p : Port) : (s.setPort n p).d2hNext = s.d2hNext := rfl
@[simp] theorem State.setPort_chanErr (s : State) (n : Nat) (p : Port) : (s.setPort n p).chanErr = s.chanErr := rfl
@[simp] theorem State.setPort_rbSpace (s : State) (n : Nat) (p : Port) : (s.setPort n p).rbSpace = s.rbSpace := rfl
@[simp] theorem State.setPort_rbFreeze (s : State) (n : Nat) (p : Port) : (s.setPort n p).rbFreeze = s.rbFreeze := rfl
@[simp] theorem State.setPort_rbCount (s : State) (n : Nat) (p : Port) : (s.setPort n p).rbCount = s.rbCount := rfl
@[simp] theorem State.setPort_rbGo (s : State) (n : Nat) (p : Port) : (s.setPort n p).rbGo = s.rbGo := rfl
@[simp] theorem State.setPort_rbAddr (s : State) (n : Nat) (p : Port) : (s.setPort n p).rbAddr = s.rbAddr := rfl
@[simp] theorem State.setPort_rbCode (s : State) (n : Nat) (p : Port) : (s.setPort n p).rbCode = s.rbCode := rfl
@[simp] theorem State.setPort_rbFirst (s : State) (n : Nat) (p : Port) : (s.setPort n p).rbFirst = s.rbFirst := rfl
@[simp] theorem State.setPort_rbData (s : State) (n : Nat) (p : Port) : (s.setPort n p).rbData = s.rbData := rfl
@[simp] theorem State.setPort_rbEnd (s : State) (n : Nat) (p : Port) : (s.setPort n p).rbEnd = s.rbEnd := rfl
@[simp] theorem State.setPort_rbReq (s : State) (n : Nat) (p : Port) : (s.setPort n p).rbReq = s.rbReq := rfl
@[simp] theorem State.setPort_spdmSession (s : State) (n : Nat) (p : Port) : (s.setPort n p).spdmSession = s.spdmSession := rfl
@[simp] theorem State.setPort_answers (s : State) (n : Nat) (p : Port) : (s.setPort n p).answers = s.answers := rfl
@[simp] theorem State.setPort_powerCap (s : State) (n : Nat) (p : Port) : (s.setPort n p).powerCap = s.powerCap := rfl
@[simp] theorem State.setPort_capPending (s : State) (n : Nat) (p : Port) : (s.setPort n p).capPending = s.capPending := rfl
@[simp] theorem State.setPort_throttled (s : State) (n : Nat) (p : Port) : (s.setPort n p).throttled = s.throttled := rfl
@[simp] theorem State.setPort_tripped (s : State) (n : Nat) (p : Port) : (s.setPort n p).tripped = s.tripped := rfl
@[simp] theorem State.setPort_standbyRail (s : State) (n : Nat) (p : Port) : (s.setPort n p).standbyRail = s.standbyRail := rfl
@[simp] theorem State.setPort_huskBooted (s : State) (n : Nat) (p : Port) : (s.setPort n p).huskBooted = s.huskBooted := rfl
@[simp] theorem State.setPort_rails (s : State) (n : Nat) (p : Port) : (s.setPort n p).rails = s.rails := rfl
@[simp] theorem State.setPort_bringStep (s : State) (n : Nat) (p : Port) : (s.setPort n p).bringStep = s.bringStep := rfl
@[simp] theorem State.setPort_bringDone (s : State) (n : Nat) (p : Port) : (s.setPort n p).bringDone = s.bringDone := rfl
@[simp] theorem State.setPort_bringSince (s : State) (n : Nat) (p : Port) : (s.setPort n p).bringSince = s.bringSince := rfl
@[simp] theorem State.setPort_fuseFault (s : State) (n : Nat) (p : Port) : (s.setPort n p).fuseFault = s.fuseFault := rfl
@[simp] theorem State.setPort_pclStarted (s : State) (n : Nat) (p : Port) : (s.setPort n p).pclStarted = s.pclStarted := rfl
@[simp] theorem State.setPort_keysOut (s : State) (n : Nat) (p : Port) : (s.setPort n p).keysOut = s.keysOut := rfl
@[simp] theorem State.setPort_locked (s : State) (n : Nat) (p : Port) : (s.setPort n p).locked = s.locked := rfl
@[simp] theorem State.setPort_zeroised (s : State) (n : Nat) (p : Port) : (s.setPort n p).zeroised = s.zeroised := rfl
@[simp] theorem State.setPort_unprovisioned (s : State) (n : Nat) (p : Port) : (s.setPort n p).unprovisioned = s.unprovisioned := rfl
@[simp] theorem State.setPort_bringStopped (s : State) (n : Nat) (p : Port) : (s.setPort n p).bringStopped = s.bringStopped := rfl
@[simp] theorem State.setPort_poolADown (s : State) (n : Nat) (p : Port) : (s.setPort n p).poolADown = s.poolADown := rfl
@[simp] theorem State.setPort_poolBDown (s : State) (n : Nat) (p : Port) : (s.setPort n p).poolBDown = s.poolBDown := rfl
@[simp] theorem State.setPort_alwaysLog (s : State) (n : Nat) (p : Port) : (s.setPort n p).alwaysLog = s.alwaysLog := rfl
@[simp] theorem State.setPort_dieLogs (s : State) (n : Nat) (p : Port) : (s.setPort n p).dieLogs = s.dieLogs := rfl
@[simp] theorem State.setPort_wsOpen (s : State) (n : Nat) (p : Port) : (s.setPort n p).wsOpen = s.wsOpen := rfl
@[simp] theorem State.setPort_ctxArea (s : State) (n : Nat) (p : Port) : (s.setPort n p).ctxArea = s.ctxArea := rfl
@[simp] theorem State.setPort_pclErr (s : State) (n : Nat) (p : Port) : (s.setPort n p).pclErr = s.pclErr := rfl
@[simp] theorem State.setPort_pclVal (s : State) (n : Nat) (p : Port) : (s.setPort n p).pclVal = s.pclVal := rfl
@[simp] theorem State.setPort_eccCorrected (s : State) (n : Nat) (p : Port) : (s.setPort n p).eccCorrected = s.eccCorrected := rfl
@[simp] theorem State.setPort_hostErrs (s : State) (n : Nat) (p : Port) : (s.setPort n p).hostErrs = s.hostErrs := rfl
@[simp] theorem State.setPort_cfgAnswers (s : State) (n : Nat) (p : Port) : (s.setPort n p).cfgAnswers = s.cfgAnswers := rfl
@[simp] theorem State.setPort_collNotices (s : State) (n : Nat) (p : Port) : (s.setPort n p).collNotices = s.collNotices := rfl

/-! ### An instruction retires -/

@[simp] theorem Hart.retire_id (h : Hart) (n : Nat) (pc : Word) : (h.retire n pc).id = h.id := rfl
@[simp] theorem Hart.retire_run (h : Hart) (n : Nat) (pc : Word) : (h.retire n pc).run = h.run := rfl
@[simp] theorem Hart.retire_ended (h : Hart) (n : Nat) (pc : Word) : (h.retire n pc).ended = h.ended := rfl
@[simp] theorem Hart.retire_stopped (h : Hart) (n : Nat) (pc : Word) : (h.retire n pc).stopped = h.stopped := rfl
@[simp] theorem Hart.retire_passBreak (h : Hart) (n : Nat) (pc : Word) : (h.retire n pc).passBreak = h.passBreak := rfl
@[simp] theorem Hart.retire_swapReq (h : Hart) (n : Nat) (pc : Word) : (h.retire n pc).swapReq = h.swapReq := rfl
@[simp] theorem Hart.retire_spilled (h : Hart) (n : Nat) (pc : Word) : (h.retire n pc).spilled = h.spilled := rfl
@[simp] theorem Hart.retire_inCall (h : Hart) (n : Nat) (pc : Word) : (h.retire n pc).inCall = h.inCall := rfl
@[simp] theorem Hart.retire_core (h : Hart) (n : Nat) (pc : Word) : (h.retire n pc).core = h.core := rfl
@[simp] theorem Hart.retire_slice (h : Hart) (n : Nat) (pc : Word) : (h.retire n pc).slice = h.slice := rfl
@[simp] theorem Hart.retire_cut (h : Hart) (n : Nat) (pc : Word) : (h.retire n pc).cut = h.cut := rfl
@[simp] theorem Hart.retire_app (h : Hart) (n : Nat) (pc : Word) : (h.retire n pc).app = h.app := rfl
@[simp] theorem Hart.retire_wspan (h : Hart) (n : Nat) (pc : Word) : (h.retire n pc).wspan = h.wspan := rfl
@[simp] theorem Hart.retire_tilesUsed (h : Hart) (n : Nat) (pc : Word) : (h.retire n pc).tilesUsed = h.tilesUsed := rfl
@[simp] theorem Hart.retire_x (h : Hart) (n : Nat) (pc : Word) : (h.retire n pc).x = h.x := rfl
@[simp] theorem Hart.retire_v (h : Hart) (n : Nat) (pc : Word) : (h.retire n pc).v = h.v := rfl
@[simp] theorem Hart.retire_p (h : Hart) (n : Nat) (pc : Word) : (h.retire n pc).p = h.p := rfl
@[simp] theorem Hart.retire_tiles (h : Hart) (n : Nat) (pc : Word) : (h.retire n pc).tiles = h.tiles := rfl
@[simp] theorem Hart.retire_active (h : Hart) (n : Nat) (pc : Word) : (h.retire n pc).active = h.active := rfl
@[simp] theorem Hart.retire_shadow (h : Hart) (n : Nat) (pc : Word) : (h.retire n pc).shadow = h.shadow := rfl
@[simp] theorem Hart.retire_streams (h : Hart) (n : Nat) (pc : Word) : (h.retire n pc).streams = h.streams := rfl
@[simp] theorem Hart.retire_vl (h : Hart) (n : Nat) (pc : Word) : (h.retire n pc).vl = h.vl := rfl
@[simp] theorem Hart.retire_vstat (h : Hart) (n : Nat) (pc : Word) : (h.retire n pc).vstat = h.vstat := rfl
@[simp] theorem Hart.retire_vlgrant (h : Hart) (n : Nat) (pc : Word) : (h.retire n pc).vlgrant = h.vlgrant := rfl
@[simp] theorem Hart.retire_newGrant (h : Hart) (n : Nat) (pc : Word) : (h.retire n pc).newGrant = h.newGrant := rfl
@[simp] theorem Hart.retire_wb (h : Hart) (n : Nat) (pc : Word) : (h.retire n pc).wb = h.wb := rfl
@[simp] theorem Hart.retire_vflags (h : Hart) (n : Nat) (pc : Word) : (h.retire n pc).vflags = h.vflags := rfl
@[simp] theorem Hart.retire_efr (h : Hart) (n : Nat) (pc : Word) : (h.retire n pc).efr = h.efr := rfl
@[simp] theorem Hart.retire_srseed (h : Hart) (n : Nat) (pc : Word) : (h.retire n pc).srseed = h.srseed := rfl
@[simp] theorem Hart.retire_clipc (h : Hart) (n : Nat) (pc : Word) : (h.retire n pc).clipc = h.clipc := rfl
@[simp] theorem Hart.retire_elemc (h : Hart) (n : Nat) (pc : Word) : (h.retire n pc).elemc = h.elemc := rfl
@[simp] theorem Hart.retire_mkbind (h : Hart) (n : Nat) (pc : Word) : (h.retire n pc).mkbind = h.mkbind := rfl
@[simp] theorem Hart.retire_fstep (h : Hart) (n : Nat) (pc : Word) : (h.retire n pc).fstep = h.fstep := rfl
@[simp] theorem Hart.retire_fstatCode (h : Hart) (n : Nat) (pc : Word) : (h.retire n pc).fstatCode = h.fstatCode := rfl
@[simp] theorem Hart.retire_fstatCol (h : Hart) (n : Nat) (pc : Word) : (h.retire n pc).fstatCol = h.fstatCol := rfl
@[simp] theorem Hart.retire_fstatOpf (h : Hart) (n : Nat) (pc : Word) : (h.retire n pc).fstatOpf = h.fstatOpf := rfl
@[simp] theorem Hart.retire_fgrow (h : Hart) (n : Nat) (pc : Word) : (h.retire n pc).fgrow = h.fgrow := rfl
@[simp] theorem Hart.retire_wfloor (h : Hart) (n : Nat) (pc : Word) : (h.retire n pc).wfloor = h.wfloor := rfl
@[simp] theorem Hart.retire_wtmo (h : Hart) (n : Nat) (pc : Word) : (h.retire n pc).wtmo = h.wtmo := rfl
@[simp] theorem Hart.retire_headd (h : Hart) (n : Nat) (pc : Word) : (h.retire n pc).headd = h.headd := rfl
@[simp] theorem Hart.retire_xrm (h : Hart) (n : Nat) (pc : Word) : (h.retire n pc).xrm = h.xrm := rfl
@[simp] theorem Hart.retire_xperm (h : Hart) (n : Nat) (pc : Word) : (h.retire n pc).xperm = h.xperm := rfl
@[simp] theorem Hart.retire_xcqBase (h : Hart) (n : Nat) (pc : Word) : (h.retire n pc).xcqBase = h.xcqBase := rfl
@[simp] theorem Hart.retire_crewid (h : Hart) (n : Nat) (pc : Word) : (h.retire n pc).crewid = h.crewid := rfl
@[simp] theorem Hart.retire_crewrank (h : Hart) (n : Nat) (pc : Word) : (h.retire n pc).crewrank = h.crewrank := rfl
@[simp] theorem Hart.retire_crewn (h : Hart) (n : Nat) (pc : Word) : (h.retire n pc).crewn = h.crewn := rfl
@[simp] theorem Hart.retire_unitid (h : Hart) (n : Nat) (pc : Word) : (h.retire n pc).unitid = h.unitid := rfl
@[simp] theorem Hart.retire_unitn (h : Hart) (n : Nat) (pc : Word) : (h.retire n pc).unitn = h.unitn := rfl
@[simp] theorem Hart.retire_launchid (h : Hart) (n : Nat) (pc : Word) : (h.retire n pc).launchid = h.launchid := rfl
@[simp] theorem Hart.retire_tenant (h : Hart) (n : Nat) (pc : Word) : (h.retire n pc).tenant = h.tenant := rfl
@[simp] theorem Hart.retire_featmask (h : Hart) (n : Nat) (pc : Word) : (h.retire n pc).featmask = h.featmask := rfl
@[simp] theorem Hart.retire_tvec (h : Hart) (n : Nat) (pc : Word) : (h.retire n pc).tvec = h.tvec := rfl
@[simp] theorem Hart.retire_tcause (h : Hart) (n : Nat) (pc : Word) : (h.retire n pc).tcause = h.tcause := rfl
@[simp] theorem Hart.retire_tpc (h : Hart) (n : Nat) (pc : Word) : (h.retire n pc).tpc = h.tpc := rfl
@[simp] theorem Hart.retire_tval (h : Hart) (n : Nat) (pc : Word) : (h.retire n pc).tval = h.tval := rfl
@[simp] theorem Hart.retire_telem (h : Hart) (n : Nat) (pc : Word) : (h.retire n pc).telem = h.telem := rfl
@[simp] theorem Hart.retire_tsave (h : Hart) (n : Nat) (pc : Word) : (h.retire n pc).tsave = h.tsave := rfl
@[simp] theorem Hart.retire_hact (h : Hart) (n : Nat) (pc : Word) : (h.retire n pc).hact = h.hact := rfl
@[simp] theorem Hart.retire_strip (h : Hart) (n : Nat) (pc : Word) : (h.retire n pc).strip = h.strip := rfl
@[simp] theorem Hart.retire_queues (h : Hart) (n : Nat) (pc : Word) : (h.retire n pc).queues = h.queues := rfl
@[simp] theorem Hart.retire_links (h : Hart) (n : Nat) (pc : Word) : (h.retire n pc).links = h.links := rfl
@[simp] theorem Hart.retire_wake (h : Hart) (n : Nat) (pc : Word) : (h.retire n pc).wake = h.wake := rfl
@[simp] theorem Hart.retire_locks (h : Hart) (n : Nat) (pc : Word) : (h.retire n pc).locks = h.locks := rfl
@[simp] theorem Hart.retire_samples (h : Hart) (n : Nat) (pc : Word) : (h.retire n pc).samples = h.samples := rfl
@[simp] theorem Hart.retire_met (h : Hart) (n : Nat) (pc : Word) : (h.retire n pc).met = h.met := rfl
@[simp] theorem Hart.retire_arrivals (h : Hart) (n : Nat) (pc : Word) : (h.retire n pc).arrivals = h.arrivals := rfl
@[simp] theorem Hart.retire_drain (h : Hart) (n : Nat) (pc : Word) : (h.retire n pc).drain = h.drain := rfl
@[simp] theorem Hart.retire_block (h : Hart) (n : Nat) (pc : Word) : (h.retire n pc).block = h.block := rfl
@[simp] theorem Hart.retire_blockPages (h : Hart) (n : Nat) (pc : Word) : (h.retire n pc).blockPages = h.blockPages := rfl
@[simp] theorem Hart.retire_bank (h : Hart) (n : Nat) (pc : Word) : (h.retire n pc).bank = h.bank := rfl
@[simp] theorem Hart.retire_saveAt (h : Hart) (n : Nat) (pc : Word) : (h.retire n pc).saveAt = h.saveAt := rfl
@[simp] theorem Hart.retire_out (h : Hart) (n : Nat) (pc : Word) : (h.retire n pc).out = h.out := rfl
@[simp] theorem Hart.retire_fredRounds (h : Hart) (n : Nat) (pc : Word) : (h.retire n pc).fredRounds = h.fredRounds := rfl

/-! ### An instruction waits -/

@[simp] theorem Hart.waitOn_id (h : Hart) (i : Instr) (c : Nat) : (h.waitOn i c).id = h.id := rfl
@[simp] theorem Hart.waitOn_run (h : Hart) (i : Instr) (c : Nat) : (h.waitOn i c).run = h.run := rfl
@[simp] theorem Hart.waitOn_ended (h : Hart) (i : Instr) (c : Nat) : (h.waitOn i c).ended = h.ended := rfl
@[simp] theorem Hart.waitOn_stopped (h : Hart) (i : Instr) (c : Nat) : (h.waitOn i c).stopped = h.stopped := rfl
@[simp] theorem Hart.waitOn_passBreak (h : Hart) (i : Instr) (c : Nat) : (h.waitOn i c).passBreak = h.passBreak := rfl
@[simp] theorem Hart.waitOn_swapReq (h : Hart) (i : Instr) (c : Nat) : (h.waitOn i c).swapReq = h.swapReq := rfl
@[simp] theorem Hart.waitOn_spilled (h : Hart) (i : Instr) (c : Nat) : (h.waitOn i c).spilled = h.spilled := rfl
@[simp] theorem Hart.waitOn_parked (h : Hart) (i : Instr) (c : Nat) : (h.waitOn i c).parked = h.parked := rfl
@[simp] theorem Hart.waitOn_inCall (h : Hart) (i : Instr) (c : Nat) : (h.waitOn i c).inCall = h.inCall := rfl
@[simp] theorem Hart.waitOn_core (h : Hart) (i : Instr) (c : Nat) : (h.waitOn i c).core = h.core := rfl
@[simp] theorem Hart.waitOn_slice (h : Hart) (i : Instr) (c : Nat) : (h.waitOn i c).slice = h.slice := rfl
@[simp] theorem Hart.waitOn_cut (h : Hart) (i : Instr) (c : Nat) : (h.waitOn i c).cut = h.cut := rfl
@[simp] theorem Hart.waitOn_app (h : Hart) (i : Instr) (c : Nat) : (h.waitOn i c).app = h.app := rfl
@[simp] theorem Hart.waitOn_wspan (h : Hart) (i : Instr) (c : Nat) : (h.waitOn i c).wspan = h.wspan := rfl
@[simp] theorem Hart.waitOn_tilesUsed (h : Hart) (i : Instr) (c : Nat) : (h.waitOn i c).tilesUsed = h.tilesUsed := rfl
@[simp] theorem Hart.waitOn_pc (h : Hart) (i : Instr) (c : Nat) : (h.waitOn i c).pc = h.pc := rfl
@[simp] theorem Hart.waitOn_x (h : Hart) (i : Instr) (c : Nat) : (h.waitOn i c).x = h.x := rfl
@[simp] theorem Hart.waitOn_v (h : Hart) (i : Instr) (c : Nat) : (h.waitOn i c).v = h.v := rfl
@[simp] theorem Hart.waitOn_p (h : Hart) (i : Instr) (c : Nat) : (h.waitOn i c).p = h.p := rfl
@[simp] theorem Hart.waitOn_tiles (h : Hart) (i : Instr) (c : Nat) : (h.waitOn i c).tiles = h.tiles := rfl
@[simp] theorem Hart.waitOn_active (h : Hart) (i : Instr) (c : Nat) : (h.waitOn i c).active = h.active := rfl
@[simp] theorem Hart.waitOn_shadow (h : Hart) (i : Instr) (c : Nat) : (h.waitOn i c).shadow = h.shadow := rfl
@[simp] theorem Hart.waitOn_streams (h : Hart) (i : Instr) (c : Nat) : (h.waitOn i c).streams = h.streams := rfl
@[simp] theorem Hart.waitOn_vl (h : Hart) (i : Instr) (c : Nat) : (h.waitOn i c).vl = h.vl := rfl
@[simp] theorem Hart.waitOn_vstat (h : Hart) (i : Instr) (c : Nat) : (h.waitOn i c).vstat = h.vstat := rfl
@[simp] theorem Hart.waitOn_vlgrant (h : Hart) (i : Instr) (c : Nat) : (h.waitOn i c).vlgrant = h.vlgrant := rfl
@[simp] theorem Hart.waitOn_newGrant (h : Hart) (i : Instr) (c : Nat) : (h.waitOn i c).newGrant = h.newGrant := rfl
@[simp] theorem Hart.waitOn_wb (h : Hart) (i : Instr) (c : Nat) : (h.waitOn i c).wb = h.wb := rfl
@[simp] theorem Hart.waitOn_vflags (h : Hart) (i : Instr) (c : Nat) : (h.waitOn i c).vflags = h.vflags := rfl
@[simp] theorem Hart.waitOn_efr (h : Hart) (i : Instr) (c : Nat) : (h.waitOn i c).efr = h.efr := rfl
@[simp] theorem Hart.waitOn_srseed (h : Hart) (i : Instr) (c : Nat) : (h.waitOn i c).srseed = h.srseed := rfl
@[simp] theorem Hart.waitOn_clipc (h : Hart) (i : Instr) (c : Nat) : (h.waitOn i c).clipc = h.clipc := rfl
@[simp] theorem Hart.waitOn_elemc (h : Hart) (i : Instr) (c : Nat) : (h.waitOn i c).elemc = h.elemc := rfl
@[simp] theorem Hart.waitOn_mkbind (h : Hart) (i : Instr) (c : Nat) : (h.waitOn i c).mkbind = h.mkbind := rfl
@[simp] theorem Hart.waitOn_fstep (h : Hart) (i : Instr) (c : Nat) : (h.waitOn i c).fstep = h.fstep := rfl
@[simp] theorem Hart.waitOn_fstatCode (h : Hart) (i : Instr) (c : Nat) : (h.waitOn i c).fstatCode = h.fstatCode := rfl
@[simp] theorem Hart.waitOn_fstatCol (h : Hart) (i : Instr) (c : Nat) : (h.waitOn i c).fstatCol = h.fstatCol := rfl
@[simp] theorem Hart.waitOn_fstatOpf (h : Hart) (i : Instr) (c : Nat) : (h.waitOn i c).fstatOpf = h.fstatOpf := rfl
@[simp] theorem Hart.waitOn_fgrow (h : Hart) (i : Instr) (c : Nat) : (h.waitOn i c).fgrow = h.fgrow := rfl
@[simp] theorem Hart.waitOn_wfloor (h : Hart) (i : Instr) (c : Nat) : (h.waitOn i c).wfloor = h.wfloor := rfl
@[simp] theorem Hart.waitOn_wtmo (h : Hart) (i : Instr) (c : Nat) : (h.waitOn i c).wtmo = h.wtmo := rfl
@[simp] theorem Hart.waitOn_headd (h : Hart) (i : Instr) (c : Nat) : (h.waitOn i c).headd = h.headd := rfl
@[simp] theorem Hart.waitOn_xrm (h : Hart) (i : Instr) (c : Nat) : (h.waitOn i c).xrm = h.xrm := rfl
@[simp] theorem Hart.waitOn_xperm (h : Hart) (i : Instr) (c : Nat) : (h.waitOn i c).xperm = h.xperm := rfl
@[simp] theorem Hart.waitOn_xcqBase (h : Hart) (i : Instr) (c : Nat) : (h.waitOn i c).xcqBase = h.xcqBase := rfl
@[simp] theorem Hart.waitOn_crewid (h : Hart) (i : Instr) (c : Nat) : (h.waitOn i c).crewid = h.crewid := rfl
@[simp] theorem Hart.waitOn_crewrank (h : Hart) (i : Instr) (c : Nat) : (h.waitOn i c).crewrank = h.crewrank := rfl
@[simp] theorem Hart.waitOn_crewn (h : Hart) (i : Instr) (c : Nat) : (h.waitOn i c).crewn = h.crewn := rfl
@[simp] theorem Hart.waitOn_unitid (h : Hart) (i : Instr) (c : Nat) : (h.waitOn i c).unitid = h.unitid := rfl
@[simp] theorem Hart.waitOn_unitn (h : Hart) (i : Instr) (c : Nat) : (h.waitOn i c).unitn = h.unitn := rfl
@[simp] theorem Hart.waitOn_launchid (h : Hart) (i : Instr) (c : Nat) : (h.waitOn i c).launchid = h.launchid := rfl
@[simp] theorem Hart.waitOn_tenant (h : Hart) (i : Instr) (c : Nat) : (h.waitOn i c).tenant = h.tenant := rfl
@[simp] theorem Hart.waitOn_featmask (h : Hart) (i : Instr) (c : Nat) : (h.waitOn i c).featmask = h.featmask := rfl
@[simp] theorem Hart.waitOn_tvec (h : Hart) (i : Instr) (c : Nat) : (h.waitOn i c).tvec = h.tvec := rfl
@[simp] theorem Hart.waitOn_tcause (h : Hart) (i : Instr) (c : Nat) : (h.waitOn i c).tcause = h.tcause := rfl
@[simp] theorem Hart.waitOn_tpc (h : Hart) (i : Instr) (c : Nat) : (h.waitOn i c).tpc = h.tpc := rfl
@[simp] theorem Hart.waitOn_tval (h : Hart) (i : Instr) (c : Nat) : (h.waitOn i c).tval = h.tval := rfl
@[simp] theorem Hart.waitOn_telem (h : Hart) (i : Instr) (c : Nat) : (h.waitOn i c).telem = h.telem := rfl
@[simp] theorem Hart.waitOn_tsave (h : Hart) (i : Instr) (c : Nat) : (h.waitOn i c).tsave = h.tsave := rfl
@[simp] theorem Hart.waitOn_hact (h : Hart) (i : Instr) (c : Nat) : (h.waitOn i c).hact = h.hact := rfl
@[simp] theorem Hart.waitOn_strip (h : Hart) (i : Instr) (c : Nat) : (h.waitOn i c).strip = h.strip := rfl
@[simp] theorem Hart.waitOn_sfrq (h : Hart) (i : Instr) (c : Nat) : (h.waitOn i c).sfrq = h.sfrq := rfl
@[simp] theorem Hart.waitOn_retired (h : Hart) (i : Instr) (c : Nat) : (h.waitOn i c).retired = h.retired := rfl
@[simp] theorem Hart.waitOn_queues (h : Hart) (i : Instr) (c : Nat) : (h.waitOn i c).queues = h.queues := rfl
@[simp] theorem Hart.waitOn_links (h : Hart) (i : Instr) (c : Nat) : (h.waitOn i c).links = h.links := rfl
@[simp] theorem Hart.waitOn_wake (h : Hart) (i : Instr) (c : Nat) : (h.waitOn i c).wake = h.wake := rfl
@[simp] theorem Hart.waitOn_locks (h : Hart) (i : Instr) (c : Nat) : (h.waitOn i c).locks = h.locks := rfl
@[simp] theorem Hart.waitOn_samples (h : Hart) (i : Instr) (c : Nat) : (h.waitOn i c).samples = h.samples := rfl
@[simp] theorem Hart.waitOn_met (h : Hart) (i : Instr) (c : Nat) : (h.waitOn i c).met = h.met := rfl
@[simp] theorem Hart.waitOn_arrivals (h : Hart) (i : Instr) (c : Nat) : (h.waitOn i c).arrivals = h.arrivals := rfl
@[simp] theorem Hart.waitOn_drain (h : Hart) (i : Instr) (c : Nat) : (h.waitOn i c).drain = h.drain := rfl
@[simp] theorem Hart.waitOn_block (h : Hart) (i : Instr) (c : Nat) : (h.waitOn i c).block = h.block := rfl
@[simp] theorem Hart.waitOn_blockPages (h : Hart) (i : Instr) (c : Nat) : (h.waitOn i c).blockPages = h.blockPages := rfl
@[simp] theorem Hart.waitOn_bank (h : Hart) (i : Instr) (c : Nat) : (h.waitOn i c).bank = h.bank := rfl
@[simp] theorem Hart.waitOn_saveAt (h : Hart) (i : Instr) (c : Nat) : (h.waitOn i c).saveAt = h.saveAt := rfl
@[simp] theorem Hart.waitOn_out (h : Hart) (i : Instr) (c : Nat) : (h.waitOn i c).out = h.out := rfl
@[simp] theorem Hart.waitOn_fredRounds (h : Hart) (i : Instr) (c : Nat) : (h.waitOn i c).fredRounds = h.fredRounds := rfl

/-! ### A predicate written -/

@[simp] theorem Hart.setPred_id (h : Hart) (n v : Nat) : (h.setPred n v).id = h.id := rfl
@[simp] theorem Hart.setPred_run (h : Hart) (n v : Nat) : (h.setPred n v).run = h.run := rfl
@[simp] theorem Hart.setPred_ended (h : Hart) (n v : Nat) : (h.setPred n v).ended = h.ended := rfl
@[simp] theorem Hart.setPred_stopped (h : Hart) (n v : Nat) : (h.setPred n v).stopped = h.stopped := rfl
@[simp] theorem Hart.setPred_passBreak (h : Hart) (n v : Nat) : (h.setPred n v).passBreak = h.passBreak := rfl
@[simp] theorem Hart.setPred_swapReq (h : Hart) (n v : Nat) : (h.setPred n v).swapReq = h.swapReq := rfl
@[simp] theorem Hart.setPred_spilled (h : Hart) (n v : Nat) : (h.setPred n v).spilled = h.spilled := rfl
@[simp] theorem Hart.setPred_wait (h : Hart) (n v : Nat) : (h.setPred n v).wait = h.wait := rfl
@[simp] theorem Hart.setPred_parked (h : Hart) (n v : Nat) : (h.setPred n v).parked = h.parked := rfl
@[simp] theorem Hart.setPred_inCall (h : Hart) (n v : Nat) : (h.setPred n v).inCall = h.inCall := rfl
@[simp] theorem Hart.setPred_core (h : Hart) (n v : Nat) : (h.setPred n v).core = h.core := rfl
@[simp] theorem Hart.setPred_slice (h : Hart) (n v : Nat) : (h.setPred n v).slice = h.slice := rfl
@[simp] theorem Hart.setPred_cut (h : Hart) (n v : Nat) : (h.setPred n v).cut = h.cut := rfl
@[simp] theorem Hart.setPred_app (h : Hart) (n v : Nat) : (h.setPred n v).app = h.app := rfl
@[simp] theorem Hart.setPred_wspan (h : Hart) (n v : Nat) : (h.setPred n v).wspan = h.wspan := rfl
@[simp] theorem Hart.setPred_tilesUsed (h : Hart) (n v : Nat) : (h.setPred n v).tilesUsed = h.tilesUsed := rfl
@[simp] theorem Hart.setPred_pc (h : Hart) (n v : Nat) : (h.setPred n v).pc = h.pc := rfl
@[simp] theorem Hart.setPred_x (h : Hart) (n v : Nat) : (h.setPred n v).x = h.x := rfl
@[simp] theorem Hart.setPred_v (h : Hart) (n v : Nat) : (h.setPred n v).v = h.v := rfl
@[simp] theorem Hart.setPred_tiles (h : Hart) (n v : Nat) : (h.setPred n v).tiles = h.tiles := rfl
@[simp] theorem Hart.setPred_active (h : Hart) (n v : Nat) : (h.setPred n v).active = h.active := rfl
@[simp] theorem Hart.setPred_shadow (h : Hart) (n v : Nat) : (h.setPred n v).shadow = h.shadow := rfl
@[simp] theorem Hart.setPred_streams (h : Hart) (n v : Nat) : (h.setPred n v).streams = h.streams := rfl
@[simp] theorem Hart.setPred_vl (h : Hart) (n v : Nat) : (h.setPred n v).vl = h.vl := rfl
@[simp] theorem Hart.setPred_vstat (h : Hart) (n v : Nat) : (h.setPred n v).vstat = h.vstat := rfl
@[simp] theorem Hart.setPred_vlgrant (h : Hart) (n v : Nat) : (h.setPred n v).vlgrant = h.vlgrant := rfl
@[simp] theorem Hart.setPred_newGrant (h : Hart) (n v : Nat) : (h.setPred n v).newGrant = h.newGrant := rfl
@[simp] theorem Hart.setPred_wb (h : Hart) (n v : Nat) : (h.setPred n v).wb = h.wb := rfl
@[simp] theorem Hart.setPred_vflags (h : Hart) (n v : Nat) : (h.setPred n v).vflags = h.vflags := rfl
@[simp] theorem Hart.setPred_efr (h : Hart) (n v : Nat) : (h.setPred n v).efr = h.efr := rfl
@[simp] theorem Hart.setPred_srseed (h : Hart) (n v : Nat) : (h.setPred n v).srseed = h.srseed := rfl
@[simp] theorem Hart.setPred_clipc (h : Hart) (n v : Nat) : (h.setPred n v).clipc = h.clipc := rfl
@[simp] theorem Hart.setPred_elemc (h : Hart) (n v : Nat) : (h.setPred n v).elemc = h.elemc := rfl
@[simp] theorem Hart.setPred_mkbind (h : Hart) (n v : Nat) : (h.setPred n v).mkbind = h.mkbind := rfl
@[simp] theorem Hart.setPred_fstep (h : Hart) (n v : Nat) : (h.setPred n v).fstep = h.fstep := rfl
@[simp] theorem Hart.setPred_fstatCode (h : Hart) (n v : Nat) : (h.setPred n v).fstatCode = h.fstatCode := rfl
@[simp] theorem Hart.setPred_fstatCol (h : Hart) (n v : Nat) : (h.setPred n v).fstatCol = h.fstatCol := rfl
@[simp] theorem Hart.setPred_fstatOpf (h : Hart) (n v : Nat) : (h.setPred n v).fstatOpf = h.fstatOpf := rfl
@[simp] theorem Hart.setPred_fgrow (h : Hart) (n v : Nat) : (h.setPred n v).fgrow = h.fgrow := rfl
@[simp] theorem Hart.setPred_wfloor (h : Hart) (n v : Nat) : (h.setPred n v).wfloor = h.wfloor := rfl
@[simp] theorem Hart.setPred_wtmo (h : Hart) (n v : Nat) : (h.setPred n v).wtmo = h.wtmo := rfl
@[simp] theorem Hart.setPred_headd (h : Hart) (n v : Nat) : (h.setPred n v).headd = h.headd := rfl
@[simp] theorem Hart.setPred_xrm (h : Hart) (n v : Nat) : (h.setPred n v).xrm = h.xrm := rfl
@[simp] theorem Hart.setPred_xperm (h : Hart) (n v : Nat) : (h.setPred n v).xperm = h.xperm := rfl
@[simp] theorem Hart.setPred_xcqBase (h : Hart) (n v : Nat) : (h.setPred n v).xcqBase = h.xcqBase := rfl
@[simp] theorem Hart.setPred_crewid (h : Hart) (n v : Nat) : (h.setPred n v).crewid = h.crewid := rfl
@[simp] theorem Hart.setPred_crewrank (h : Hart) (n v : Nat) : (h.setPred n v).crewrank = h.crewrank := rfl
@[simp] theorem Hart.setPred_crewn (h : Hart) (n v : Nat) : (h.setPred n v).crewn = h.crewn := rfl
@[simp] theorem Hart.setPred_unitid (h : Hart) (n v : Nat) : (h.setPred n v).unitid = h.unitid := rfl
@[simp] theorem Hart.setPred_unitn (h : Hart) (n v : Nat) : (h.setPred n v).unitn = h.unitn := rfl
@[simp] theorem Hart.setPred_launchid (h : Hart) (n v : Nat) : (h.setPred n v).launchid = h.launchid := rfl
@[simp] theorem Hart.setPred_tenant (h : Hart) (n v : Nat) : (h.setPred n v).tenant = h.tenant := rfl
@[simp] theorem Hart.setPred_featmask (h : Hart) (n v : Nat) : (h.setPred n v).featmask = h.featmask := rfl
@[simp] theorem Hart.setPred_tvec (h : Hart) (n v : Nat) : (h.setPred n v).tvec = h.tvec := rfl
@[simp] theorem Hart.setPred_tcause (h : Hart) (n v : Nat) : (h.setPred n v).tcause = h.tcause := rfl
@[simp] theorem Hart.setPred_tpc (h : Hart) (n v : Nat) : (h.setPred n v).tpc = h.tpc := rfl
@[simp] theorem Hart.setPred_tval (h : Hart) (n v : Nat) : (h.setPred n v).tval = h.tval := rfl
@[simp] theorem Hart.setPred_telem (h : Hart) (n v : Nat) : (h.setPred n v).telem = h.telem := rfl
@[simp] theorem Hart.setPred_tsave (h : Hart) (n v : Nat) : (h.setPred n v).tsave = h.tsave := rfl
@[simp] theorem Hart.setPred_hact (h : Hart) (n v : Nat) : (h.setPred n v).hact = h.hact := rfl
@[simp] theorem Hart.setPred_strip (h : Hart) (n v : Nat) : (h.setPred n v).strip = h.strip := rfl
@[simp] theorem Hart.setPred_sfrq (h : Hart) (n v : Nat) : (h.setPred n v).sfrq = h.sfrq := rfl
@[simp] theorem Hart.setPred_retired (h : Hart) (n v : Nat) : (h.setPred n v).retired = h.retired := rfl
@[simp] theorem Hart.setPred_queues (h : Hart) (n v : Nat) : (h.setPred n v).queues = h.queues := rfl
@[simp] theorem Hart.setPred_links (h : Hart) (n v : Nat) : (h.setPred n v).links = h.links := rfl
@[simp] theorem Hart.setPred_wake (h : Hart) (n v : Nat) : (h.setPred n v).wake = h.wake := rfl
@[simp] theorem Hart.setPred_locks (h : Hart) (n v : Nat) : (h.setPred n v).locks = h.locks := rfl
@[simp] theorem Hart.setPred_samples (h : Hart) (n v : Nat) : (h.setPred n v).samples = h.samples := rfl
@[simp] theorem Hart.setPred_met (h : Hart) (n v : Nat) : (h.setPred n v).met = h.met := rfl
@[simp] theorem Hart.setPred_arrivals (h : Hart) (n v : Nat) : (h.setPred n v).arrivals = h.arrivals := rfl
@[simp] theorem Hart.setPred_drain (h : Hart) (n v : Nat) : (h.setPred n v).drain = h.drain := rfl
@[simp] theorem Hart.setPred_block (h : Hart) (n v : Nat) : (h.setPred n v).block = h.block := rfl
@[simp] theorem Hart.setPred_blockPages (h : Hart) (n v : Nat) : (h.setPred n v).blockPages = h.blockPages := rfl
@[simp] theorem Hart.setPred_bank (h : Hart) (n v : Nat) : (h.setPred n v).bank = h.bank := rfl
@[simp] theorem Hart.setPred_saveAt (h : Hart) (n v : Nat) : (h.setPred n v).saveAt = h.saveAt := rfl
@[simp] theorem Hart.setPred_out (h : Hart) (n v : Nat) : (h.setPred n v).out = h.out := rfl
@[simp] theorem Hart.setPred_fredRounds (h : Hart) (n v : Nat) : (h.setPred n v).fredRounds = h.fredRounds := rfl

/-! ### Flags raised -/

@[simp] theorem Hart.raise_id (h : Hart) (f : Flags) : (h.raise f).id = h.id := rfl
@[simp] theorem Hart.raise_run (h : Hart) (f : Flags) : (h.raise f).run = h.run := rfl
@[simp] theorem Hart.raise_ended (h : Hart) (f : Flags) : (h.raise f).ended = h.ended := rfl
@[simp] theorem Hart.raise_stopped (h : Hart) (f : Flags) : (h.raise f).stopped = h.stopped := rfl
@[simp] theorem Hart.raise_passBreak (h : Hart) (f : Flags) : (h.raise f).passBreak = h.passBreak := rfl
@[simp] theorem Hart.raise_swapReq (h : Hart) (f : Flags) : (h.raise f).swapReq = h.swapReq := rfl
@[simp] theorem Hart.raise_spilled (h : Hart) (f : Flags) : (h.raise f).spilled = h.spilled := rfl
@[simp] theorem Hart.raise_wait (h : Hart) (f : Flags) : (h.raise f).wait = h.wait := rfl
@[simp] theorem Hart.raise_parked (h : Hart) (f : Flags) : (h.raise f).parked = h.parked := rfl
@[simp] theorem Hart.raise_inCall (h : Hart) (f : Flags) : (h.raise f).inCall = h.inCall := rfl
@[simp] theorem Hart.raise_core (h : Hart) (f : Flags) : (h.raise f).core = h.core := rfl
@[simp] theorem Hart.raise_slice (h : Hart) (f : Flags) : (h.raise f).slice = h.slice := rfl
@[simp] theorem Hart.raise_cut (h : Hart) (f : Flags) : (h.raise f).cut = h.cut := rfl
@[simp] theorem Hart.raise_app (h : Hart) (f : Flags) : (h.raise f).app = h.app := rfl
@[simp] theorem Hart.raise_wspan (h : Hart) (f : Flags) : (h.raise f).wspan = h.wspan := rfl
@[simp] theorem Hart.raise_tilesUsed (h : Hart) (f : Flags) : (h.raise f).tilesUsed = h.tilesUsed := rfl
@[simp] theorem Hart.raise_pc (h : Hart) (f : Flags) : (h.raise f).pc = h.pc := rfl
@[simp] theorem Hart.raise_x (h : Hart) (f : Flags) : (h.raise f).x = h.x := rfl
@[simp] theorem Hart.raise_v (h : Hart) (f : Flags) : (h.raise f).v = h.v := rfl
@[simp] theorem Hart.raise_p (h : Hart) (f : Flags) : (h.raise f).p = h.p := rfl
@[simp] theorem Hart.raise_tiles (h : Hart) (f : Flags) : (h.raise f).tiles = h.tiles := rfl
@[simp] theorem Hart.raise_active (h : Hart) (f : Flags) : (h.raise f).active = h.active := rfl
@[simp] theorem Hart.raise_shadow (h : Hart) (f : Flags) : (h.raise f).shadow = h.shadow := rfl
@[simp] theorem Hart.raise_streams (h : Hart) (f : Flags) : (h.raise f).streams = h.streams := rfl
@[simp] theorem Hart.raise_vl (h : Hart) (f : Flags) : (h.raise f).vl = h.vl := rfl
@[simp] theorem Hart.raise_vstat (h : Hart) (f : Flags) : (h.raise f).vstat = h.vstat := rfl
@[simp] theorem Hart.raise_vlgrant (h : Hart) (f : Flags) : (h.raise f).vlgrant = h.vlgrant := rfl
@[simp] theorem Hart.raise_newGrant (h : Hart) (f : Flags) : (h.raise f).newGrant = h.newGrant := rfl
@[simp] theorem Hart.raise_wb (h : Hart) (f : Flags) : (h.raise f).wb = h.wb := rfl
@[simp] theorem Hart.raise_efr (h : Hart) (f : Flags) : (h.raise f).efr = h.efr := rfl
@[simp] theorem Hart.raise_srseed (h : Hart) (f : Flags) : (h.raise f).srseed = h.srseed := rfl
@[simp] theorem Hart.raise_clipc (h : Hart) (f : Flags) : (h.raise f).clipc = h.clipc := rfl
@[simp] theorem Hart.raise_elemc (h : Hart) (f : Flags) : (h.raise f).elemc = h.elemc := rfl
@[simp] theorem Hart.raise_mkbind (h : Hart) (f : Flags) : (h.raise f).mkbind = h.mkbind := rfl
@[simp] theorem Hart.raise_fstep (h : Hart) (f : Flags) : (h.raise f).fstep = h.fstep := rfl
@[simp] theorem Hart.raise_fstatCode (h : Hart) (f : Flags) : (h.raise f).fstatCode = h.fstatCode := rfl
@[simp] theorem Hart.raise_fstatCol (h : Hart) (f : Flags) : (h.raise f).fstatCol = h.fstatCol := rfl
@[simp] theorem Hart.raise_fstatOpf (h : Hart) (f : Flags) : (h.raise f).fstatOpf = h.fstatOpf := rfl
@[simp] theorem Hart.raise_fgrow (h : Hart) (f : Flags) : (h.raise f).fgrow = h.fgrow := rfl
@[simp] theorem Hart.raise_wfloor (h : Hart) (f : Flags) : (h.raise f).wfloor = h.wfloor := rfl
@[simp] theorem Hart.raise_wtmo (h : Hart) (f : Flags) : (h.raise f).wtmo = h.wtmo := rfl
@[simp] theorem Hart.raise_headd (h : Hart) (f : Flags) : (h.raise f).headd = h.headd := rfl
@[simp] theorem Hart.raise_xrm (h : Hart) (f : Flags) : (h.raise f).xrm = h.xrm := rfl
@[simp] theorem Hart.raise_xperm (h : Hart) (f : Flags) : (h.raise f).xperm = h.xperm := rfl
@[simp] theorem Hart.raise_xcqBase (h : Hart) (f : Flags) : (h.raise f).xcqBase = h.xcqBase := rfl
@[simp] theorem Hart.raise_crewid (h : Hart) (f : Flags) : (h.raise f).crewid = h.crewid := rfl
@[simp] theorem Hart.raise_crewrank (h : Hart) (f : Flags) : (h.raise f).crewrank = h.crewrank := rfl
@[simp] theorem Hart.raise_crewn (h : Hart) (f : Flags) : (h.raise f).crewn = h.crewn := rfl
@[simp] theorem Hart.raise_unitid (h : Hart) (f : Flags) : (h.raise f).unitid = h.unitid := rfl
@[simp] theorem Hart.raise_unitn (h : Hart) (f : Flags) : (h.raise f).unitn = h.unitn := rfl
@[simp] theorem Hart.raise_launchid (h : Hart) (f : Flags) : (h.raise f).launchid = h.launchid := rfl
@[simp] theorem Hart.raise_tenant (h : Hart) (f : Flags) : (h.raise f).tenant = h.tenant := rfl
@[simp] theorem Hart.raise_featmask (h : Hart) (f : Flags) : (h.raise f).featmask = h.featmask := rfl
@[simp] theorem Hart.raise_tvec (h : Hart) (f : Flags) : (h.raise f).tvec = h.tvec := rfl
@[simp] theorem Hart.raise_tcause (h : Hart) (f : Flags) : (h.raise f).tcause = h.tcause := rfl
@[simp] theorem Hart.raise_tpc (h : Hart) (f : Flags) : (h.raise f).tpc = h.tpc := rfl
@[simp] theorem Hart.raise_tval (h : Hart) (f : Flags) : (h.raise f).tval = h.tval := rfl
@[simp] theorem Hart.raise_telem (h : Hart) (f : Flags) : (h.raise f).telem = h.telem := rfl
@[simp] theorem Hart.raise_tsave (h : Hart) (f : Flags) : (h.raise f).tsave = h.tsave := rfl
@[simp] theorem Hart.raise_hact (h : Hart) (f : Flags) : (h.raise f).hact = h.hact := rfl
@[simp] theorem Hart.raise_strip (h : Hart) (f : Flags) : (h.raise f).strip = h.strip := rfl
@[simp] theorem Hart.raise_sfrq (h : Hart) (f : Flags) : (h.raise f).sfrq = h.sfrq := rfl
@[simp] theorem Hart.raise_retired (h : Hart) (f : Flags) : (h.raise f).retired = h.retired := rfl
@[simp] theorem Hart.raise_queues (h : Hart) (f : Flags) : (h.raise f).queues = h.queues := rfl
@[simp] theorem Hart.raise_links (h : Hart) (f : Flags) : (h.raise f).links = h.links := rfl
@[simp] theorem Hart.raise_wake (h : Hart) (f : Flags) : (h.raise f).wake = h.wake := rfl
@[simp] theorem Hart.raise_locks (h : Hart) (f : Flags) : (h.raise f).locks = h.locks := rfl
@[simp] theorem Hart.raise_samples (h : Hart) (f : Flags) : (h.raise f).samples = h.samples := rfl
@[simp] theorem Hart.raise_met (h : Hart) (f : Flags) : (h.raise f).met = h.met := rfl
@[simp] theorem Hart.raise_arrivals (h : Hart) (f : Flags) : (h.raise f).arrivals = h.arrivals := rfl
@[simp] theorem Hart.raise_drain (h : Hart) (f : Flags) : (h.raise f).drain = h.drain := rfl
@[simp] theorem Hart.raise_block (h : Hart) (f : Flags) : (h.raise f).block = h.block := rfl
@[simp] theorem Hart.raise_blockPages (h : Hart) (f : Flags) : (h.raise f).blockPages = h.blockPages := rfl
@[simp] theorem Hart.raise_bank (h : Hart) (f : Flags) : (h.raise f).bank = h.bank := rfl
@[simp] theorem Hart.raise_saveAt (h : Hart) (f : Flags) : (h.raise f).saveAt = h.saveAt := rfl
@[simp] theorem Hart.raise_out (h : Hart) (f : Flags) : (h.raise f).out = h.out := rfl
@[simp] theorem Hart.raise_fredRounds (h : Hart) (f : Flags) : (h.raise f).fredRounds = h.fredRounds := rfl

/-! ### A strip opened -/

@[simp] theorem Hart.openStrip_id (h : Hart) : (h.openStrip).id = h.id := rfl
@[simp] theorem Hart.openStrip_run (h : Hart) : (h.openStrip).run = h.run := rfl
@[simp] theorem Hart.openStrip_ended (h : Hart) : (h.openStrip).ended = h.ended := rfl
@[simp] theorem Hart.openStrip_stopped (h : Hart) : (h.openStrip).stopped = h.stopped := rfl
@[simp] theorem Hart.openStrip_passBreak (h : Hart) : (h.openStrip).passBreak = h.passBreak := rfl
@[simp] theorem Hart.openStrip_swapReq (h : Hart) : (h.openStrip).swapReq = h.swapReq := rfl
@[simp] theorem Hart.openStrip_spilled (h : Hart) : (h.openStrip).spilled = h.spilled := rfl
@[simp] theorem Hart.openStrip_wait (h : Hart) : (h.openStrip).wait = h.wait := rfl
@[simp] theorem Hart.openStrip_parked (h : Hart) : (h.openStrip).parked = h.parked := rfl
@[simp] theorem Hart.openStrip_inCall (h : Hart) : (h.openStrip).inCall = h.inCall := rfl
@[simp] theorem Hart.openStrip_core (h : Hart) : (h.openStrip).core = h.core := rfl
@[simp] theorem Hart.openStrip_slice (h : Hart) : (h.openStrip).slice = h.slice := rfl
@[simp] theorem Hart.openStrip_cut (h : Hart) : (h.openStrip).cut = h.cut := rfl
@[simp] theorem Hart.openStrip_app (h : Hart) : (h.openStrip).app = h.app := rfl
@[simp] theorem Hart.openStrip_wspan (h : Hart) : (h.openStrip).wspan = h.wspan := rfl
@[simp] theorem Hart.openStrip_tilesUsed (h : Hart) : (h.openStrip).tilesUsed = h.tilesUsed := rfl
@[simp] theorem Hart.openStrip_pc (h : Hart) : (h.openStrip).pc = h.pc := rfl
@[simp] theorem Hart.openStrip_x (h : Hart) : (h.openStrip).x = h.x := rfl
@[simp] theorem Hart.openStrip_v (h : Hart) : (h.openStrip).v = h.v := rfl
@[simp] theorem Hart.openStrip_p (h : Hart) : (h.openStrip).p = h.p := rfl
@[simp] theorem Hart.openStrip_tiles (h : Hart) : (h.openStrip).tiles = h.tiles := rfl
@[simp] theorem Hart.openStrip_active (h : Hart) : (h.openStrip).active = h.active := rfl
@[simp] theorem Hart.openStrip_shadow (h : Hart) : (h.openStrip).shadow = h.shadow := rfl
@[simp] theorem Hart.openStrip_streams (h : Hart) : (h.openStrip).streams = h.streams := rfl
@[simp] theorem Hart.openStrip_vl (h : Hart) : (h.openStrip).vl = h.vl := rfl
@[simp] theorem Hart.openStrip_vstat (h : Hart) : (h.openStrip).vstat = h.vstat := rfl
@[simp] theorem Hart.openStrip_vlgrant (h : Hart) : (h.openStrip).vlgrant = h.vlgrant := rfl
@[simp] theorem Hart.openStrip_newGrant (h : Hart) : (h.openStrip).newGrant = h.newGrant := rfl
@[simp] theorem Hart.openStrip_wb (h : Hart) : (h.openStrip).wb = h.wb := rfl
@[simp] theorem Hart.openStrip_vflags (h : Hart) : (h.openStrip).vflags = h.vflags := rfl
@[simp] theorem Hart.openStrip_efr (h : Hart) : (h.openStrip).efr = h.efr := rfl
@[simp] theorem Hart.openStrip_srseed (h : Hart) : (h.openStrip).srseed = h.srseed := rfl
@[simp] theorem Hart.openStrip_clipc (h : Hart) : (h.openStrip).clipc = h.clipc := rfl
@[simp] theorem Hart.openStrip_elemc (h : Hart) : (h.openStrip).elemc = h.elemc := rfl
@[simp] theorem Hart.openStrip_mkbind (h : Hart) : (h.openStrip).mkbind = h.mkbind := rfl
@[simp] theorem Hart.openStrip_fstep (h : Hart) : (h.openStrip).fstep = h.fstep := rfl
@[simp] theorem Hart.openStrip_fstatCode (h : Hart) : (h.openStrip).fstatCode = h.fstatCode := rfl
@[simp] theorem Hart.openStrip_fstatCol (h : Hart) : (h.openStrip).fstatCol = h.fstatCol := rfl
@[simp] theorem Hart.openStrip_fstatOpf (h : Hart) : (h.openStrip).fstatOpf = h.fstatOpf := rfl
@[simp] theorem Hart.openStrip_fgrow (h : Hart) : (h.openStrip).fgrow = h.fgrow := rfl
@[simp] theorem Hart.openStrip_wfloor (h : Hart) : (h.openStrip).wfloor = h.wfloor := rfl
@[simp] theorem Hart.openStrip_wtmo (h : Hart) : (h.openStrip).wtmo = h.wtmo := rfl
@[simp] theorem Hart.openStrip_headd (h : Hart) : (h.openStrip).headd = h.headd := rfl
@[simp] theorem Hart.openStrip_xrm (h : Hart) : (h.openStrip).xrm = h.xrm := rfl
@[simp] theorem Hart.openStrip_xperm (h : Hart) : (h.openStrip).xperm = h.xperm := rfl
@[simp] theorem Hart.openStrip_xcqBase (h : Hart) : (h.openStrip).xcqBase = h.xcqBase := rfl
@[simp] theorem Hart.openStrip_crewid (h : Hart) : (h.openStrip).crewid = h.crewid := rfl
@[simp] theorem Hart.openStrip_crewrank (h : Hart) : (h.openStrip).crewrank = h.crewrank := rfl
@[simp] theorem Hart.openStrip_crewn (h : Hart) : (h.openStrip).crewn = h.crewn := rfl
@[simp] theorem Hart.openStrip_unitid (h : Hart) : (h.openStrip).unitid = h.unitid := rfl
@[simp] theorem Hart.openStrip_unitn (h : Hart) : (h.openStrip).unitn = h.unitn := rfl
@[simp] theorem Hart.openStrip_launchid (h : Hart) : (h.openStrip).launchid = h.launchid := rfl
@[simp] theorem Hart.openStrip_tenant (h : Hart) : (h.openStrip).tenant = h.tenant := rfl
@[simp] theorem Hart.openStrip_featmask (h : Hart) : (h.openStrip).featmask = h.featmask := rfl
@[simp] theorem Hart.openStrip_tvec (h : Hart) : (h.openStrip).tvec = h.tvec := rfl
@[simp] theorem Hart.openStrip_tcause (h : Hart) : (h.openStrip).tcause = h.tcause := rfl
@[simp] theorem Hart.openStrip_tpc (h : Hart) : (h.openStrip).tpc = h.tpc := rfl
@[simp] theorem Hart.openStrip_tval (h : Hart) : (h.openStrip).tval = h.tval := rfl
@[simp] theorem Hart.openStrip_telem (h : Hart) : (h.openStrip).telem = h.telem := rfl
@[simp] theorem Hart.openStrip_tsave (h : Hart) : (h.openStrip).tsave = h.tsave := rfl
@[simp] theorem Hart.openStrip_hact (h : Hart) : (h.openStrip).hact = h.hact := rfl
@[simp] theorem Hart.openStrip_sfrq (h : Hart) : (h.openStrip).sfrq = h.sfrq := rfl
@[simp] theorem Hart.openStrip_retired (h : Hart) : (h.openStrip).retired = h.retired := rfl
@[simp] theorem Hart.openStrip_queues (h : Hart) : (h.openStrip).queues = h.queues := rfl
@[simp] theorem Hart.openStrip_links (h : Hart) : (h.openStrip).links = h.links := rfl
@[simp] theorem Hart.openStrip_wake (h : Hart) : (h.openStrip).wake = h.wake := rfl
@[simp] theorem Hart.openStrip_locks (h : Hart) : (h.openStrip).locks = h.locks := rfl
@[simp] theorem Hart.openStrip_met (h : Hart) : (h.openStrip).met = h.met := rfl
@[simp] theorem Hart.openStrip_arrivals (h : Hart) : (h.openStrip).arrivals = h.arrivals := rfl
@[simp] theorem Hart.openStrip_drain (h : Hart) : (h.openStrip).drain = h.drain := rfl
@[simp] theorem Hart.openStrip_block (h : Hart) : (h.openStrip).block = h.block := rfl
@[simp] theorem Hart.openStrip_blockPages (h : Hart) : (h.openStrip).blockPages = h.blockPages := rfl
@[simp] theorem Hart.openStrip_bank (h : Hart) : (h.openStrip).bank = h.bank := rfl
@[simp] theorem Hart.openStrip_saveAt (h : Hart) : (h.openStrip).saveAt = h.saveAt := rfl
@[simp] theorem Hart.openStrip_out (h : Hart) : (h.openStrip).out = h.out := rfl
@[simp] theorem Hart.openStrip_fredRounds (h : Hart) : (h.openStrip).fredRounds = h.fredRounds := rfl

/-! ### The trap registers written -/

@[simp] theorem Hart.trapRegs_id (h : Hart) (c : Cause) (v : Word) (e : Nat) : (h.trapRegs c v e).id = h.id := rfl
@[simp] theorem Hart.trapRegs_run (h : Hart) (c : Cause) (v : Word) (e : Nat) : (h.trapRegs c v e).run = h.run := rfl
@[simp] theorem Hart.trapRegs_ended (h : Hart) (c : Cause) (v : Word) (e : Nat) : (h.trapRegs c v e).ended = h.ended := rfl
@[simp] theorem Hart.trapRegs_stopped (h : Hart) (c : Cause) (v : Word) (e : Nat) : (h.trapRegs c v e).stopped = h.stopped := rfl
@[simp] theorem Hart.trapRegs_passBreak (h : Hart) (c : Cause) (v : Word) (e : Nat) : (h.trapRegs c v e).passBreak = h.passBreak := rfl
@[simp] theorem Hart.trapRegs_swapReq (h : Hart) (c : Cause) (v : Word) (e : Nat) : (h.trapRegs c v e).swapReq = h.swapReq := rfl
@[simp] theorem Hart.trapRegs_spilled (h : Hart) (c : Cause) (v : Word) (e : Nat) : (h.trapRegs c v e).spilled = h.spilled := rfl
@[simp] theorem Hart.trapRegs_inCall (h : Hart) (c : Cause) (v : Word) (e : Nat) : (h.trapRegs c v e).inCall = h.inCall := rfl
@[simp] theorem Hart.trapRegs_core (h : Hart) (c : Cause) (v : Word) (e : Nat) : (h.trapRegs c v e).core = h.core := rfl
@[simp] theorem Hart.trapRegs_slice (h : Hart) (c : Cause) (v : Word) (e : Nat) : (h.trapRegs c v e).slice = h.slice := rfl
@[simp] theorem Hart.trapRegs_cut (h : Hart) (c : Cause) (v : Word) (e : Nat) : (h.trapRegs c v e).cut = h.cut := rfl
@[simp] theorem Hart.trapRegs_app (h : Hart) (c : Cause) (v : Word) (e : Nat) : (h.trapRegs c v e).app = h.app := rfl
@[simp] theorem Hart.trapRegs_wspan (h : Hart) (c : Cause) (v : Word) (e : Nat) : (h.trapRegs c v e).wspan = h.wspan := rfl
@[simp] theorem Hart.trapRegs_tilesUsed (h : Hart) (c : Cause) (v : Word) (e : Nat) : (h.trapRegs c v e).tilesUsed = h.tilesUsed := rfl
@[simp] theorem Hart.trapRegs_pc (h : Hart) (c : Cause) (v : Word) (e : Nat) : (h.trapRegs c v e).pc = h.pc := rfl
@[simp] theorem Hart.trapRegs_x (h : Hart) (c : Cause) (v : Word) (e : Nat) : (h.trapRegs c v e).x = h.x := rfl
@[simp] theorem Hart.trapRegs_v (h : Hart) (c : Cause) (v : Word) (e : Nat) : (h.trapRegs c v e).v = h.v := rfl
@[simp] theorem Hart.trapRegs_p (h : Hart) (c : Cause) (v : Word) (e : Nat) : (h.trapRegs c v e).p = h.p := rfl
@[simp] theorem Hart.trapRegs_tiles (h : Hart) (c : Cause) (v : Word) (e : Nat) : (h.trapRegs c v e).tiles = h.tiles := rfl
@[simp] theorem Hart.trapRegs_active (h : Hart) (c : Cause) (v : Word) (e : Nat) : (h.trapRegs c v e).active = h.active := rfl
@[simp] theorem Hart.trapRegs_shadow (h : Hart) (c : Cause) (v : Word) (e : Nat) : (h.trapRegs c v e).shadow = h.shadow := rfl
@[simp] theorem Hart.trapRegs_streams (h : Hart) (c : Cause) (v : Word) (e : Nat) : (h.trapRegs c v e).streams = h.streams := rfl
@[simp] theorem Hart.trapRegs_vl (h : Hart) (c : Cause) (v : Word) (e : Nat) : (h.trapRegs c v e).vl = h.vl := rfl
@[simp] theorem Hart.trapRegs_vstat (h : Hart) (c : Cause) (v : Word) (e : Nat) : (h.trapRegs c v e).vstat = h.vstat := rfl
@[simp] theorem Hart.trapRegs_vlgrant (h : Hart) (c : Cause) (v : Word) (e : Nat) : (h.trapRegs c v e).vlgrant = h.vlgrant := rfl
@[simp] theorem Hart.trapRegs_newGrant (h : Hart) (c : Cause) (v : Word) (e : Nat) : (h.trapRegs c v e).newGrant = h.newGrant := rfl
@[simp] theorem Hart.trapRegs_wb (h : Hart) (c : Cause) (v : Word) (e : Nat) : (h.trapRegs c v e).wb = h.wb := rfl
@[simp] theorem Hart.trapRegs_vflags (h : Hart) (c : Cause) (v : Word) (e : Nat) : (h.trapRegs c v e).vflags = h.vflags := rfl
@[simp] theorem Hart.trapRegs_efr (h : Hart) (c : Cause) (v : Word) (e : Nat) : (h.trapRegs c v e).efr = h.efr := rfl
@[simp] theorem Hart.trapRegs_srseed (h : Hart) (c : Cause) (v : Word) (e : Nat) : (h.trapRegs c v e).srseed = h.srseed := rfl
@[simp] theorem Hart.trapRegs_clipc (h : Hart) (c : Cause) (v : Word) (e : Nat) : (h.trapRegs c v e).clipc = h.clipc := rfl
@[simp] theorem Hart.trapRegs_elemc (h : Hart) (c : Cause) (v : Word) (e : Nat) : (h.trapRegs c v e).elemc = h.elemc := rfl
@[simp] theorem Hart.trapRegs_mkbind (h : Hart) (c : Cause) (v : Word) (e : Nat) : (h.trapRegs c v e).mkbind = h.mkbind := rfl
@[simp] theorem Hart.trapRegs_fstep (h : Hart) (c : Cause) (v : Word) (e : Nat) : (h.trapRegs c v e).fstep = h.fstep := rfl
@[simp] theorem Hart.trapRegs_fstatCode (h : Hart) (c : Cause) (v : Word) (e : Nat) : (h.trapRegs c v e).fstatCode = h.fstatCode := rfl
@[simp] theorem Hart.trapRegs_fstatCol (h : Hart) (c : Cause) (v : Word) (e : Nat) : (h.trapRegs c v e).fstatCol = h.fstatCol := rfl
@[simp] theorem Hart.trapRegs_fstatOpf (h : Hart) (c : Cause) (v : Word) (e : Nat) : (h.trapRegs c v e).fstatOpf = h.fstatOpf := rfl
@[simp] theorem Hart.trapRegs_fgrow (h : Hart) (c : Cause) (v : Word) (e : Nat) : (h.trapRegs c v e).fgrow = h.fgrow := rfl
@[simp] theorem Hart.trapRegs_wfloor (h : Hart) (c : Cause) (v : Word) (e : Nat) : (h.trapRegs c v e).wfloor = h.wfloor := rfl
@[simp] theorem Hart.trapRegs_wtmo (h : Hart) (c : Cause) (v : Word) (e : Nat) : (h.trapRegs c v e).wtmo = h.wtmo := rfl
@[simp] theorem Hart.trapRegs_headd (h : Hart) (c : Cause) (v : Word) (e : Nat) : (h.trapRegs c v e).headd = h.headd := rfl
@[simp] theorem Hart.trapRegs_xrm (h : Hart) (c : Cause) (v : Word) (e : Nat) : (h.trapRegs c v e).xrm = h.xrm := rfl
@[simp] theorem Hart.trapRegs_xperm (h : Hart) (c : Cause) (v : Word) (e : Nat) : (h.trapRegs c v e).xperm = h.xperm := rfl
@[simp] theorem Hart.trapRegs_xcqBase (h : Hart) (c : Cause) (v : Word) (e : Nat) : (h.trapRegs c v e).xcqBase = h.xcqBase := rfl
@[simp] theorem Hart.trapRegs_crewid (h : Hart) (c : Cause) (v : Word) (e : Nat) : (h.trapRegs c v e).crewid = h.crewid := rfl
@[simp] theorem Hart.trapRegs_crewrank (h : Hart) (c : Cause) (v : Word) (e : Nat) : (h.trapRegs c v e).crewrank = h.crewrank := rfl
@[simp] theorem Hart.trapRegs_crewn (h : Hart) (c : Cause) (v : Word) (e : Nat) : (h.trapRegs c v e).crewn = h.crewn := rfl
@[simp] theorem Hart.trapRegs_unitid (h : Hart) (c : Cause) (v : Word) (e : Nat) : (h.trapRegs c v e).unitid = h.unitid := rfl
@[simp] theorem Hart.trapRegs_unitn (h : Hart) (c : Cause) (v : Word) (e : Nat) : (h.trapRegs c v e).unitn = h.unitn := rfl
@[simp] theorem Hart.trapRegs_launchid (h : Hart) (c : Cause) (v : Word) (e : Nat) : (h.trapRegs c v e).launchid = h.launchid := rfl
@[simp] theorem Hart.trapRegs_tenant (h : Hart) (c : Cause) (v : Word) (e : Nat) : (h.trapRegs c v e).tenant = h.tenant := rfl
@[simp] theorem Hart.trapRegs_featmask (h : Hart) (c : Cause) (v : Word) (e : Nat) : (h.trapRegs c v e).featmask = h.featmask := rfl
@[simp] theorem Hart.trapRegs_tvec (h : Hart) (c : Cause) (v : Word) (e : Nat) : (h.trapRegs c v e).tvec = h.tvec := rfl
@[simp] theorem Hart.trapRegs_tsave (h : Hart) (c : Cause) (v : Word) (e : Nat) : (h.trapRegs c v e).tsave = h.tsave := rfl
@[simp] theorem Hart.trapRegs_hact (h : Hart) (c : Cause) (v : Word) (e : Nat) : (h.trapRegs c v e).hact = h.hact := rfl
@[simp] theorem Hart.trapRegs_strip (h : Hart) (c : Cause) (v : Word) (e : Nat) : (h.trapRegs c v e).strip = h.strip := rfl
@[simp] theorem Hart.trapRegs_sfrq (h : Hart) (c : Cause) (v : Word) (e : Nat) : (h.trapRegs c v e).sfrq = h.sfrq := rfl
@[simp] theorem Hart.trapRegs_retired (h : Hart) (c : Cause) (v : Word) (e : Nat) : (h.trapRegs c v e).retired = h.retired := rfl
@[simp] theorem Hart.trapRegs_queues (h : Hart) (c : Cause) (v : Word) (e : Nat) : (h.trapRegs c v e).queues = h.queues := rfl
@[simp] theorem Hart.trapRegs_links (h : Hart) (c : Cause) (v : Word) (e : Nat) : (h.trapRegs c v e).links = h.links := rfl
@[simp] theorem Hart.trapRegs_wake (h : Hart) (c : Cause) (v : Word) (e : Nat) : (h.trapRegs c v e).wake = h.wake := rfl
@[simp] theorem Hart.trapRegs_locks (h : Hart) (c : Cause) (v : Word) (e : Nat) : (h.trapRegs c v e).locks = h.locks := rfl
@[simp] theorem Hart.trapRegs_samples (h : Hart) (c : Cause) (v : Word) (e : Nat) : (h.trapRegs c v e).samples = h.samples := rfl
@[simp] theorem Hart.trapRegs_met (h : Hart) (c : Cause) (v : Word) (e : Nat) : (h.trapRegs c v e).met = h.met := rfl
@[simp] theorem Hart.trapRegs_arrivals (h : Hart) (c : Cause) (v : Word) (e : Nat) : (h.trapRegs c v e).arrivals = h.arrivals := rfl
@[simp] theorem Hart.trapRegs_drain (h : Hart) (c : Cause) (v : Word) (e : Nat) : (h.trapRegs c v e).drain = h.drain := rfl
@[simp] theorem Hart.trapRegs_block (h : Hart) (c : Cause) (v : Word) (e : Nat) : (h.trapRegs c v e).block = h.block := rfl
@[simp] theorem Hart.trapRegs_blockPages (h : Hart) (c : Cause) (v : Word) (e : Nat) : (h.trapRegs c v e).blockPages = h.blockPages := rfl
@[simp] theorem Hart.trapRegs_bank (h : Hart) (c : Cause) (v : Word) (e : Nat) : (h.trapRegs c v e).bank = h.bank := rfl
@[simp] theorem Hart.trapRegs_saveAt (h : Hart) (c : Cause) (v : Word) (e : Nat) : (h.trapRegs c v e).saveAt = h.saveAt := rfl
@[simp] theorem Hart.trapRegs_out (h : Hart) (c : Cause) (v : Word) (e : Nat) : (h.trapRegs c v e).out = h.out := rfl
@[simp] theorem Hart.trapRegs_fredRounds (h : Hart) (c : Cause) (v : Word) (e : Nat) : (h.trapRegs c v e).fredRounds = h.fredRounds := rfl

/-! ### A completion queue replaced -/

@[simp] theorem Hart.setQueue_id (h : Hart) (q : Nat) (c : CQueue) : (h.setQueue q c).id = h.id := rfl
@[simp] theorem Hart.setQueue_run (h : Hart) (q : Nat) (c : CQueue) : (h.setQueue q c).run = h.run := rfl
@[simp] theorem Hart.setQueue_ended (h : Hart) (q : Nat) (c : CQueue) : (h.setQueue q c).ended = h.ended := rfl
@[simp] theorem Hart.setQueue_stopped (h : Hart) (q : Nat) (c : CQueue) : (h.setQueue q c).stopped = h.stopped := rfl
@[simp] theorem Hart.setQueue_passBreak (h : Hart) (q : Nat) (c : CQueue) : (h.setQueue q c).passBreak = h.passBreak := rfl
@[simp] theorem Hart.setQueue_swapReq (h : Hart) (q : Nat) (c : CQueue) : (h.setQueue q c).swapReq = h.swapReq := rfl
@[simp] theorem Hart.setQueue_spilled (h : Hart) (q : Nat) (c : CQueue) : (h.setQueue q c).spilled = h.spilled := rfl
@[simp] theorem Hart.setQueue_wait (h : Hart) (q : Nat) (c : CQueue) : (h.setQueue q c).wait = h.wait := rfl
@[simp] theorem Hart.setQueue_parked (h : Hart) (q : Nat) (c : CQueue) : (h.setQueue q c).parked = h.parked := rfl
@[simp] theorem Hart.setQueue_inCall (h : Hart) (q : Nat) (c : CQueue) : (h.setQueue q c).inCall = h.inCall := rfl
@[simp] theorem Hart.setQueue_core (h : Hart) (q : Nat) (c : CQueue) : (h.setQueue q c).core = h.core := rfl
@[simp] theorem Hart.setQueue_slice (h : Hart) (q : Nat) (c : CQueue) : (h.setQueue q c).slice = h.slice := rfl
@[simp] theorem Hart.setQueue_cut (h : Hart) (q : Nat) (c : CQueue) : (h.setQueue q c).cut = h.cut := rfl
@[simp] theorem Hart.setQueue_app (h : Hart) (q : Nat) (c : CQueue) : (h.setQueue q c).app = h.app := rfl
@[simp] theorem Hart.setQueue_wspan (h : Hart) (q : Nat) (c : CQueue) : (h.setQueue q c).wspan = h.wspan := rfl
@[simp] theorem Hart.setQueue_tilesUsed (h : Hart) (q : Nat) (c : CQueue) : (h.setQueue q c).tilesUsed = h.tilesUsed := rfl
@[simp] theorem Hart.setQueue_pc (h : Hart) (q : Nat) (c : CQueue) : (h.setQueue q c).pc = h.pc := rfl
@[simp] theorem Hart.setQueue_x (h : Hart) (q : Nat) (c : CQueue) : (h.setQueue q c).x = h.x := rfl
@[simp] theorem Hart.setQueue_v (h : Hart) (q : Nat) (c : CQueue) : (h.setQueue q c).v = h.v := rfl
@[simp] theorem Hart.setQueue_p (h : Hart) (q : Nat) (c : CQueue) : (h.setQueue q c).p = h.p := rfl
@[simp] theorem Hart.setQueue_tiles (h : Hart) (q : Nat) (c : CQueue) : (h.setQueue q c).tiles = h.tiles := rfl
@[simp] theorem Hart.setQueue_active (h : Hart) (q : Nat) (c : CQueue) : (h.setQueue q c).active = h.active := rfl
@[simp] theorem Hart.setQueue_shadow (h : Hart) (q : Nat) (c : CQueue) : (h.setQueue q c).shadow = h.shadow := rfl
@[simp] theorem Hart.setQueue_streams (h : Hart) (q : Nat) (c : CQueue) : (h.setQueue q c).streams = h.streams := rfl
@[simp] theorem Hart.setQueue_vl (h : Hart) (q : Nat) (c : CQueue) : (h.setQueue q c).vl = h.vl := rfl
@[simp] theorem Hart.setQueue_vstat (h : Hart) (q : Nat) (c : CQueue) : (h.setQueue q c).vstat = h.vstat := rfl
@[simp] theorem Hart.setQueue_vlgrant (h : Hart) (q : Nat) (c : CQueue) : (h.setQueue q c).vlgrant = h.vlgrant := rfl
@[simp] theorem Hart.setQueue_newGrant (h : Hart) (q : Nat) (c : CQueue) : (h.setQueue q c).newGrant = h.newGrant := rfl
@[simp] theorem Hart.setQueue_wb (h : Hart) (q : Nat) (c : CQueue) : (h.setQueue q c).wb = h.wb := rfl
@[simp] theorem Hart.setQueue_vflags (h : Hart) (q : Nat) (c : CQueue) : (h.setQueue q c).vflags = h.vflags := rfl
@[simp] theorem Hart.setQueue_efr (h : Hart) (q : Nat) (c : CQueue) : (h.setQueue q c).efr = h.efr := rfl
@[simp] theorem Hart.setQueue_srseed (h : Hart) (q : Nat) (c : CQueue) : (h.setQueue q c).srseed = h.srseed := rfl
@[simp] theorem Hart.setQueue_clipc (h : Hart) (q : Nat) (c : CQueue) : (h.setQueue q c).clipc = h.clipc := rfl
@[simp] theorem Hart.setQueue_elemc (h : Hart) (q : Nat) (c : CQueue) : (h.setQueue q c).elemc = h.elemc := rfl
@[simp] theorem Hart.setQueue_mkbind (h : Hart) (q : Nat) (c : CQueue) : (h.setQueue q c).mkbind = h.mkbind := rfl
@[simp] theorem Hart.setQueue_fstep (h : Hart) (q : Nat) (c : CQueue) : (h.setQueue q c).fstep = h.fstep := rfl
@[simp] theorem Hart.setQueue_fstatCode (h : Hart) (q : Nat) (c : CQueue) : (h.setQueue q c).fstatCode = h.fstatCode := rfl
@[simp] theorem Hart.setQueue_fstatCol (h : Hart) (q : Nat) (c : CQueue) : (h.setQueue q c).fstatCol = h.fstatCol := rfl
@[simp] theorem Hart.setQueue_fstatOpf (h : Hart) (q : Nat) (c : CQueue) : (h.setQueue q c).fstatOpf = h.fstatOpf := rfl
@[simp] theorem Hart.setQueue_fgrow (h : Hart) (q : Nat) (c : CQueue) : (h.setQueue q c).fgrow = h.fgrow := rfl
@[simp] theorem Hart.setQueue_wfloor (h : Hart) (q : Nat) (c : CQueue) : (h.setQueue q c).wfloor = h.wfloor := rfl
@[simp] theorem Hart.setQueue_wtmo (h : Hart) (q : Nat) (c : CQueue) : (h.setQueue q c).wtmo = h.wtmo := rfl
@[simp] theorem Hart.setQueue_headd (h : Hart) (q : Nat) (c : CQueue) : (h.setQueue q c).headd = h.headd := rfl
@[simp] theorem Hart.setQueue_xrm (h : Hart) (q : Nat) (c : CQueue) : (h.setQueue q c).xrm = h.xrm := rfl
@[simp] theorem Hart.setQueue_xperm (h : Hart) (q : Nat) (c : CQueue) : (h.setQueue q c).xperm = h.xperm := rfl
@[simp] theorem Hart.setQueue_xcqBase (h : Hart) (q : Nat) (c : CQueue) : (h.setQueue q c).xcqBase = h.xcqBase := rfl
@[simp] theorem Hart.setQueue_crewid (h : Hart) (q : Nat) (c : CQueue) : (h.setQueue q c).crewid = h.crewid := rfl
@[simp] theorem Hart.setQueue_crewrank (h : Hart) (q : Nat) (c : CQueue) : (h.setQueue q c).crewrank = h.crewrank := rfl
@[simp] theorem Hart.setQueue_crewn (h : Hart) (q : Nat) (c : CQueue) : (h.setQueue q c).crewn = h.crewn := rfl
@[simp] theorem Hart.setQueue_unitid (h : Hart) (q : Nat) (c : CQueue) : (h.setQueue q c).unitid = h.unitid := rfl
@[simp] theorem Hart.setQueue_unitn (h : Hart) (q : Nat) (c : CQueue) : (h.setQueue q c).unitn = h.unitn := rfl
@[simp] theorem Hart.setQueue_launchid (h : Hart) (q : Nat) (c : CQueue) : (h.setQueue q c).launchid = h.launchid := rfl
@[simp] theorem Hart.setQueue_tenant (h : Hart) (q : Nat) (c : CQueue) : (h.setQueue q c).tenant = h.tenant := rfl
@[simp] theorem Hart.setQueue_featmask (h : Hart) (q : Nat) (c : CQueue) : (h.setQueue q c).featmask = h.featmask := rfl
@[simp] theorem Hart.setQueue_tvec (h : Hart) (q : Nat) (c : CQueue) : (h.setQueue q c).tvec = h.tvec := rfl
@[simp] theorem Hart.setQueue_tcause (h : Hart) (q : Nat) (c : CQueue) : (h.setQueue q c).tcause = h.tcause := rfl
@[simp] theorem Hart.setQueue_tpc (h : Hart) (q : Nat) (c : CQueue) : (h.setQueue q c).tpc = h.tpc := rfl
@[simp] theorem Hart.setQueue_tval (h : Hart) (q : Nat) (c : CQueue) : (h.setQueue q c).tval = h.tval := rfl
@[simp] theorem Hart.setQueue_telem (h : Hart) (q : Nat) (c : CQueue) : (h.setQueue q c).telem = h.telem := rfl
@[simp] theorem Hart.setQueue_tsave (h : Hart) (q : Nat) (c : CQueue) : (h.setQueue q c).tsave = h.tsave := rfl
@[simp] theorem Hart.setQueue_hact (h : Hart) (q : Nat) (c : CQueue) : (h.setQueue q c).hact = h.hact := rfl
@[simp] theorem Hart.setQueue_strip (h : Hart) (q : Nat) (c : CQueue) : (h.setQueue q c).strip = h.strip := rfl
@[simp] theorem Hart.setQueue_sfrq (h : Hart) (q : Nat) (c : CQueue) : (h.setQueue q c).sfrq = h.sfrq := rfl
@[simp] theorem Hart.setQueue_retired (h : Hart) (q : Nat) (c : CQueue) : (h.setQueue q c).retired = h.retired := rfl
@[simp] theorem Hart.setQueue_links (h : Hart) (q : Nat) (c : CQueue) : (h.setQueue q c).links = h.links := rfl
@[simp] theorem Hart.setQueue_wake (h : Hart) (q : Nat) (c : CQueue) : (h.setQueue q c).wake = h.wake := rfl
@[simp] theorem Hart.setQueue_locks (h : Hart) (q : Nat) (c : CQueue) : (h.setQueue q c).locks = h.locks := rfl
@[simp] theorem Hart.setQueue_samples (h : Hart) (q : Nat) (c : CQueue) : (h.setQueue q c).samples = h.samples := rfl
@[simp] theorem Hart.setQueue_met (h : Hart) (q : Nat) (c : CQueue) : (h.setQueue q c).met = h.met := rfl
@[simp] theorem Hart.setQueue_arrivals (h : Hart) (q : Nat) (c : CQueue) : (h.setQueue q c).arrivals = h.arrivals := rfl
@[simp] theorem Hart.setQueue_drain (h : Hart) (q : Nat) (c : CQueue) : (h.setQueue q c).drain = h.drain := rfl
@[simp] theorem Hart.setQueue_block (h : Hart) (q : Nat) (c : CQueue) : (h.setQueue q c).block = h.block := rfl
@[simp] theorem Hart.setQueue_blockPages (h : Hart) (q : Nat) (c : CQueue) : (h.setQueue q c).blockPages = h.blockPages := rfl
@[simp] theorem Hart.setQueue_bank (h : Hart) (q : Nat) (c : CQueue) : (h.setQueue q c).bank = h.bank := rfl
@[simp] theorem Hart.setQueue_saveAt (h : Hart) (q : Nat) (c : CQueue) : (h.setQueue q c).saveAt = h.saveAt := rfl
@[simp] theorem Hart.setQueue_out (h : Hart) (q : Nat) (c : CQueue) : (h.setQueue q c).out = h.out := rfl
@[simp] theorem Hart.setQueue_fredRounds (h : Hart) (q : Nat) (c : CQueue) : (h.setQueue q c).fredRounds = h.fredRounds := rfl

/-! ### A register group written -/

@[simp] theorem Hart.writeGroup_id (h : Hart) (w g : Nat) (v : Vec) : (h.writeGroup w g v).id = h.id := rfl
@[simp] theorem Hart.writeGroup_run (h : Hart) (w g : Nat) (v : Vec) : (h.writeGroup w g v).run = h.run := rfl
@[simp] theorem Hart.writeGroup_ended (h : Hart) (w g : Nat) (v : Vec) : (h.writeGroup w g v).ended = h.ended := rfl
@[simp] theorem Hart.writeGroup_stopped (h : Hart) (w g : Nat) (v : Vec) : (h.writeGroup w g v).stopped = h.stopped := rfl
@[simp] theorem Hart.writeGroup_passBreak (h : Hart) (w g : Nat) (v : Vec) : (h.writeGroup w g v).passBreak = h.passBreak := rfl
@[simp] theorem Hart.writeGroup_swapReq (h : Hart) (w g : Nat) (v : Vec) : (h.writeGroup w g v).swapReq = h.swapReq := rfl
@[simp] theorem Hart.writeGroup_spilled (h : Hart) (w g : Nat) (v : Vec) : (h.writeGroup w g v).spilled = h.spilled := rfl
@[simp] theorem Hart.writeGroup_wait (h : Hart) (w g : Nat) (v : Vec) : (h.writeGroup w g v).wait = h.wait := rfl
@[simp] theorem Hart.writeGroup_parked (h : Hart) (w g : Nat) (v : Vec) : (h.writeGroup w g v).parked = h.parked := rfl
@[simp] theorem Hart.writeGroup_inCall (h : Hart) (w g : Nat) (v : Vec) : (h.writeGroup w g v).inCall = h.inCall := rfl
@[simp] theorem Hart.writeGroup_core (h : Hart) (w g : Nat) (v : Vec) : (h.writeGroup w g v).core = h.core := rfl
@[simp] theorem Hart.writeGroup_slice (h : Hart) (w g : Nat) (v : Vec) : (h.writeGroup w g v).slice = h.slice := rfl
@[simp] theorem Hart.writeGroup_cut (h : Hart) (w g : Nat) (v : Vec) : (h.writeGroup w g v).cut = h.cut := rfl
@[simp] theorem Hart.writeGroup_app (h : Hart) (w g : Nat) (v : Vec) : (h.writeGroup w g v).app = h.app := rfl
@[simp] theorem Hart.writeGroup_wspan (h : Hart) (w g : Nat) (v : Vec) : (h.writeGroup w g v).wspan = h.wspan := rfl
@[simp] theorem Hart.writeGroup_tilesUsed (h : Hart) (w g : Nat) (v : Vec) : (h.writeGroup w g v).tilesUsed = h.tilesUsed := rfl
@[simp] theorem Hart.writeGroup_pc (h : Hart) (w g : Nat) (v : Vec) : (h.writeGroup w g v).pc = h.pc := rfl
@[simp] theorem Hart.writeGroup_x (h : Hart) (w g : Nat) (v : Vec) : (h.writeGroup w g v).x = h.x := rfl
@[simp] theorem Hart.writeGroup_p (h : Hart) (w g : Nat) (v : Vec) : (h.writeGroup w g v).p = h.p := rfl
@[simp] theorem Hart.writeGroup_tiles (h : Hart) (w g : Nat) (v : Vec) : (h.writeGroup w g v).tiles = h.tiles := rfl
@[simp] theorem Hart.writeGroup_active (h : Hart) (w g : Nat) (v : Vec) : (h.writeGroup w g v).active = h.active := rfl
@[simp] theorem Hart.writeGroup_shadow (h : Hart) (w g : Nat) (v : Vec) : (h.writeGroup w g v).shadow = h.shadow := rfl
@[simp] theorem Hart.writeGroup_streams (h : Hart) (w g : Nat) (v : Vec) : (h.writeGroup w g v).streams = h.streams := rfl
@[simp] theorem Hart.writeGroup_vl (h : Hart) (w g : Nat) (v : Vec) : (h.writeGroup w g v).vl = h.vl := rfl
@[simp] theorem Hart.writeGroup_vstat (h : Hart) (w g : Nat) (v : Vec) : (h.writeGroup w g v).vstat = h.vstat := rfl
@[simp] theorem Hart.writeGroup_vlgrant (h : Hart) (w g : Nat) (v : Vec) : (h.writeGroup w g v).vlgrant = h.vlgrant := rfl
@[simp] theorem Hart.writeGroup_newGrant (h : Hart) (w g : Nat) (v : Vec) : (h.writeGroup w g v).newGrant = h.newGrant := rfl
@[simp] theorem Hart.writeGroup_wb (h : Hart) (w g : Nat) (v : Vec) : (h.writeGroup w g v).wb = h.wb := rfl
@[simp] theorem Hart.writeGroup_vflags (h : Hart) (w g : Nat) (v : Vec) : (h.writeGroup w g v).vflags = h.vflags := rfl
@[simp] theorem Hart.writeGroup_efr (h : Hart) (w g : Nat) (v : Vec) : (h.writeGroup w g v).efr = h.efr := rfl
@[simp] theorem Hart.writeGroup_srseed (h : Hart) (w g : Nat) (v : Vec) : (h.writeGroup w g v).srseed = h.srseed := rfl
@[simp] theorem Hart.writeGroup_clipc (h : Hart) (w g : Nat) (v : Vec) : (h.writeGroup w g v).clipc = h.clipc := rfl
@[simp] theorem Hart.writeGroup_elemc (h : Hart) (w g : Nat) (v : Vec) : (h.writeGroup w g v).elemc = h.elemc := rfl
@[simp] theorem Hart.writeGroup_mkbind (h : Hart) (w g : Nat) (v : Vec) : (h.writeGroup w g v).mkbind = h.mkbind := rfl
@[simp] theorem Hart.writeGroup_fstep (h : Hart) (w g : Nat) (v : Vec) : (h.writeGroup w g v).fstep = h.fstep := rfl
@[simp] theorem Hart.writeGroup_fstatCode (h : Hart) (w g : Nat) (v : Vec) : (h.writeGroup w g v).fstatCode = h.fstatCode := rfl
@[simp] theorem Hart.writeGroup_fstatCol (h : Hart) (w g : Nat) (v : Vec) : (h.writeGroup w g v).fstatCol = h.fstatCol := rfl
@[simp] theorem Hart.writeGroup_fstatOpf (h : Hart) (w g : Nat) (v : Vec) : (h.writeGroup w g v).fstatOpf = h.fstatOpf := rfl
@[simp] theorem Hart.writeGroup_fgrow (h : Hart) (w g : Nat) (v : Vec) : (h.writeGroup w g v).fgrow = h.fgrow := rfl
@[simp] theorem Hart.writeGroup_wfloor (h : Hart) (w g : Nat) (v : Vec) : (h.writeGroup w g v).wfloor = h.wfloor := rfl
@[simp] theorem Hart.writeGroup_wtmo (h : Hart) (w g : Nat) (v : Vec) : (h.writeGroup w g v).wtmo = h.wtmo := rfl
@[simp] theorem Hart.writeGroup_headd (h : Hart) (w g : Nat) (v : Vec) : (h.writeGroup w g v).headd = h.headd := rfl
@[simp] theorem Hart.writeGroup_xrm (h : Hart) (w g : Nat) (v : Vec) : (h.writeGroup w g v).xrm = h.xrm := rfl
@[simp] theorem Hart.writeGroup_xperm (h : Hart) (w g : Nat) (v : Vec) : (h.writeGroup w g v).xperm = h.xperm := rfl
@[simp] theorem Hart.writeGroup_xcqBase (h : Hart) (w g : Nat) (v : Vec) : (h.writeGroup w g v).xcqBase = h.xcqBase := rfl
@[simp] theorem Hart.writeGroup_crewid (h : Hart) (w g : Nat) (v : Vec) : (h.writeGroup w g v).crewid = h.crewid := rfl
@[simp] theorem Hart.writeGroup_crewrank (h : Hart) (w g : Nat) (v : Vec) : (h.writeGroup w g v).crewrank = h.crewrank := rfl
@[simp] theorem Hart.writeGroup_crewn (h : Hart) (w g : Nat) (v : Vec) : (h.writeGroup w g v).crewn = h.crewn := rfl
@[simp] theorem Hart.writeGroup_unitid (h : Hart) (w g : Nat) (v : Vec) : (h.writeGroup w g v).unitid = h.unitid := rfl
@[simp] theorem Hart.writeGroup_unitn (h : Hart) (w g : Nat) (v : Vec) : (h.writeGroup w g v).unitn = h.unitn := rfl
@[simp] theorem Hart.writeGroup_launchid (h : Hart) (w g : Nat) (v : Vec) : (h.writeGroup w g v).launchid = h.launchid := rfl
@[simp] theorem Hart.writeGroup_tenant (h : Hart) (w g : Nat) (v : Vec) : (h.writeGroup w g v).tenant = h.tenant := rfl
@[simp] theorem Hart.writeGroup_featmask (h : Hart) (w g : Nat) (v : Vec) : (h.writeGroup w g v).featmask = h.featmask := rfl
@[simp] theorem Hart.writeGroup_tvec (h : Hart) (w g : Nat) (v : Vec) : (h.writeGroup w g v).tvec = h.tvec := rfl
@[simp] theorem Hart.writeGroup_tcause (h : Hart) (w g : Nat) (v : Vec) : (h.writeGroup w g v).tcause = h.tcause := rfl
@[simp] theorem Hart.writeGroup_tpc (h : Hart) (w g : Nat) (v : Vec) : (h.writeGroup w g v).tpc = h.tpc := rfl
@[simp] theorem Hart.writeGroup_tval (h : Hart) (w g : Nat) (v : Vec) : (h.writeGroup w g v).tval = h.tval := rfl
@[simp] theorem Hart.writeGroup_telem (h : Hart) (w g : Nat) (v : Vec) : (h.writeGroup w g v).telem = h.telem := rfl
@[simp] theorem Hart.writeGroup_tsave (h : Hart) (w g : Nat) (v : Vec) : (h.writeGroup w g v).tsave = h.tsave := rfl
@[simp] theorem Hart.writeGroup_hact (h : Hart) (w g : Nat) (v : Vec) : (h.writeGroup w g v).hact = h.hact := rfl
@[simp] theorem Hart.writeGroup_strip (h : Hart) (w g : Nat) (v : Vec) : (h.writeGroup w g v).strip = h.strip := rfl
@[simp] theorem Hart.writeGroup_sfrq (h : Hart) (w g : Nat) (v : Vec) : (h.writeGroup w g v).sfrq = h.sfrq := rfl
@[simp] theorem Hart.writeGroup_retired (h : Hart) (w g : Nat) (v : Vec) : (h.writeGroup w g v).retired = h.retired := rfl
@[simp] theorem Hart.writeGroup_queues (h : Hart) (w g : Nat) (v : Vec) : (h.writeGroup w g v).queues = h.queues := rfl
@[simp] theorem Hart.writeGroup_links (h : Hart) (w g : Nat) (v : Vec) : (h.writeGroup w g v).links = h.links := rfl
@[simp] theorem Hart.writeGroup_wake (h : Hart) (w g : Nat) (v : Vec) : (h.writeGroup w g v).wake = h.wake := rfl
@[simp] theorem Hart.writeGroup_locks (h : Hart) (w g : Nat) (v : Vec) : (h.writeGroup w g v).locks = h.locks := rfl
@[simp] theorem Hart.writeGroup_samples (h : Hart) (w g : Nat) (v : Vec) : (h.writeGroup w g v).samples = h.samples := rfl
@[simp] theorem Hart.writeGroup_met (h : Hart) (w g : Nat) (v : Vec) : (h.writeGroup w g v).met = h.met := rfl
@[simp] theorem Hart.writeGroup_arrivals (h : Hart) (w g : Nat) (v : Vec) : (h.writeGroup w g v).arrivals = h.arrivals := rfl
@[simp] theorem Hart.writeGroup_drain (h : Hart) (w g : Nat) (v : Vec) : (h.writeGroup w g v).drain = h.drain := rfl
@[simp] theorem Hart.writeGroup_block (h : Hart) (w g : Nat) (v : Vec) : (h.writeGroup w g v).block = h.block := rfl
@[simp] theorem Hart.writeGroup_blockPages (h : Hart) (w g : Nat) (v : Vec) : (h.writeGroup w g v).blockPages = h.blockPages := rfl
@[simp] theorem Hart.writeGroup_bank (h : Hart) (w g : Nat) (v : Vec) : (h.writeGroup w g v).bank = h.bank := rfl
@[simp] theorem Hart.writeGroup_saveAt (h : Hart) (w g : Nat) (v : Vec) : (h.writeGroup w g v).saveAt = h.saveAt := rfl
@[simp] theorem Hart.writeGroup_out (h : Hart) (w g : Nat) (v : Vec) : (h.writeGroup w g v).out = h.out := rfl
@[simp] theorem Hart.writeGroup_fredRounds (h : Hart) (w g : Nat) (v : Vec) : (h.writeGroup w g v).fredRounds = h.fredRounds := rfl

/-! ### A tile replaced -/

@[simp] theorem Hart.setTile_id (h : Hart) (k : Nat) (x : Tile) : (h.setTile k x).id = h.id := rfl
@[simp] theorem Hart.setTile_run (h : Hart) (k : Nat) (x : Tile) : (h.setTile k x).run = h.run := rfl
@[simp] theorem Hart.setTile_ended (h : Hart) (k : Nat) (x : Tile) : (h.setTile k x).ended = h.ended := rfl
@[simp] theorem Hart.setTile_stopped (h : Hart) (k : Nat) (x : Tile) : (h.setTile k x).stopped = h.stopped := rfl
@[simp] theorem Hart.setTile_passBreak (h : Hart) (k : Nat) (x : Tile) : (h.setTile k x).passBreak = h.passBreak := rfl
@[simp] theorem Hart.setTile_swapReq (h : Hart) (k : Nat) (x : Tile) : (h.setTile k x).swapReq = h.swapReq := rfl
@[simp] theorem Hart.setTile_spilled (h : Hart) (k : Nat) (x : Tile) : (h.setTile k x).spilled = h.spilled := rfl
@[simp] theorem Hart.setTile_wait (h : Hart) (k : Nat) (x : Tile) : (h.setTile k x).wait = h.wait := rfl
@[simp] theorem Hart.setTile_parked (h : Hart) (k : Nat) (x : Tile) : (h.setTile k x).parked = h.parked := rfl
@[simp] theorem Hart.setTile_inCall (h : Hart) (k : Nat) (x : Tile) : (h.setTile k x).inCall = h.inCall := rfl
@[simp] theorem Hart.setTile_core (h : Hart) (k : Nat) (x : Tile) : (h.setTile k x).core = h.core := rfl
@[simp] theorem Hart.setTile_slice (h : Hart) (k : Nat) (x : Tile) : (h.setTile k x).slice = h.slice := rfl
@[simp] theorem Hart.setTile_cut (h : Hart) (k : Nat) (x : Tile) : (h.setTile k x).cut = h.cut := rfl
@[simp] theorem Hart.setTile_app (h : Hart) (k : Nat) (x : Tile) : (h.setTile k x).app = h.app := rfl
@[simp] theorem Hart.setTile_wspan (h : Hart) (k : Nat) (x : Tile) : (h.setTile k x).wspan = h.wspan := rfl
@[simp] theorem Hart.setTile_tilesUsed (h : Hart) (k : Nat) (x : Tile) : (h.setTile k x).tilesUsed = h.tilesUsed := rfl
@[simp] theorem Hart.setTile_pc (h : Hart) (k : Nat) (x : Tile) : (h.setTile k x).pc = h.pc := rfl
@[simp] theorem Hart.setTile_x (h : Hart) (k : Nat) (x : Tile) : (h.setTile k x).x = h.x := rfl
@[simp] theorem Hart.setTile_v (h : Hart) (k : Nat) (x : Tile) : (h.setTile k x).v = h.v := rfl
@[simp] theorem Hart.setTile_p (h : Hart) (k : Nat) (x : Tile) : (h.setTile k x).p = h.p := rfl
@[simp] theorem Hart.setTile_active (h : Hart) (k : Nat) (x : Tile) : (h.setTile k x).active = h.active := rfl
@[simp] theorem Hart.setTile_shadow (h : Hart) (k : Nat) (x : Tile) : (h.setTile k x).shadow = h.shadow := rfl
@[simp] theorem Hart.setTile_streams (h : Hart) (k : Nat) (x : Tile) : (h.setTile k x).streams = h.streams := rfl
@[simp] theorem Hart.setTile_vl (h : Hart) (k : Nat) (x : Tile) : (h.setTile k x).vl = h.vl := rfl
@[simp] theorem Hart.setTile_vstat (h : Hart) (k : Nat) (x : Tile) : (h.setTile k x).vstat = h.vstat := rfl
@[simp] theorem Hart.setTile_vlgrant (h : Hart) (k : Nat) (x : Tile) : (h.setTile k x).vlgrant = h.vlgrant := rfl
@[simp] theorem Hart.setTile_newGrant (h : Hart) (k : Nat) (x : Tile) : (h.setTile k x).newGrant = h.newGrant := rfl
@[simp] theorem Hart.setTile_wb (h : Hart) (k : Nat) (x : Tile) : (h.setTile k x).wb = h.wb := rfl
@[simp] theorem Hart.setTile_vflags (h : Hart) (k : Nat) (x : Tile) : (h.setTile k x).vflags = h.vflags := rfl
@[simp] theorem Hart.setTile_efr (h : Hart) (k : Nat) (x : Tile) : (h.setTile k x).efr = h.efr := rfl
@[simp] theorem Hart.setTile_srseed (h : Hart) (k : Nat) (x : Tile) : (h.setTile k x).srseed = h.srseed := rfl
@[simp] theorem Hart.setTile_clipc (h : Hart) (k : Nat) (x : Tile) : (h.setTile k x).clipc = h.clipc := rfl
@[simp] theorem Hart.setTile_elemc (h : Hart) (k : Nat) (x : Tile) : (h.setTile k x).elemc = h.elemc := rfl
@[simp] theorem Hart.setTile_mkbind (h : Hart) (k : Nat) (x : Tile) : (h.setTile k x).mkbind = h.mkbind := rfl
@[simp] theorem Hart.setTile_fstep (h : Hart) (k : Nat) (x : Tile) : (h.setTile k x).fstep = h.fstep := rfl
@[simp] theorem Hart.setTile_fstatCode (h : Hart) (k : Nat) (x : Tile) : (h.setTile k x).fstatCode = h.fstatCode := rfl
@[simp] theorem Hart.setTile_fstatCol (h : Hart) (k : Nat) (x : Tile) : (h.setTile k x).fstatCol = h.fstatCol := rfl
@[simp] theorem Hart.setTile_fstatOpf (h : Hart) (k : Nat) (x : Tile) : (h.setTile k x).fstatOpf = h.fstatOpf := rfl
@[simp] theorem Hart.setTile_fgrow (h : Hart) (k : Nat) (x : Tile) : (h.setTile k x).fgrow = h.fgrow := rfl
@[simp] theorem Hart.setTile_wfloor (h : Hart) (k : Nat) (x : Tile) : (h.setTile k x).wfloor = h.wfloor := rfl
@[simp] theorem Hart.setTile_wtmo (h : Hart) (k : Nat) (x : Tile) : (h.setTile k x).wtmo = h.wtmo := rfl
@[simp] theorem Hart.setTile_headd (h : Hart) (k : Nat) (x : Tile) : (h.setTile k x).headd = h.headd := rfl
@[simp] theorem Hart.setTile_xrm (h : Hart) (k : Nat) (x : Tile) : (h.setTile k x).xrm = h.xrm := rfl
@[simp] theorem Hart.setTile_xperm (h : Hart) (k : Nat) (x : Tile) : (h.setTile k x).xperm = h.xperm := rfl
@[simp] theorem Hart.setTile_xcqBase (h : Hart) (k : Nat) (x : Tile) : (h.setTile k x).xcqBase = h.xcqBase := rfl
@[simp] theorem Hart.setTile_crewid (h : Hart) (k : Nat) (x : Tile) : (h.setTile k x).crewid = h.crewid := rfl
@[simp] theorem Hart.setTile_crewrank (h : Hart) (k : Nat) (x : Tile) : (h.setTile k x).crewrank = h.crewrank := rfl
@[simp] theorem Hart.setTile_crewn (h : Hart) (k : Nat) (x : Tile) : (h.setTile k x).crewn = h.crewn := rfl
@[simp] theorem Hart.setTile_unitid (h : Hart) (k : Nat) (x : Tile) : (h.setTile k x).unitid = h.unitid := rfl
@[simp] theorem Hart.setTile_unitn (h : Hart) (k : Nat) (x : Tile) : (h.setTile k x).unitn = h.unitn := rfl
@[simp] theorem Hart.setTile_launchid (h : Hart) (k : Nat) (x : Tile) : (h.setTile k x).launchid = h.launchid := rfl
@[simp] theorem Hart.setTile_tenant (h : Hart) (k : Nat) (x : Tile) : (h.setTile k x).tenant = h.tenant := rfl
@[simp] theorem Hart.setTile_featmask (h : Hart) (k : Nat) (x : Tile) : (h.setTile k x).featmask = h.featmask := rfl
@[simp] theorem Hart.setTile_tvec (h : Hart) (k : Nat) (x : Tile) : (h.setTile k x).tvec = h.tvec := rfl
@[simp] theorem Hart.setTile_tcause (h : Hart) (k : Nat) (x : Tile) : (h.setTile k x).tcause = h.tcause := rfl
@[simp] theorem Hart.setTile_tpc (h : Hart) (k : Nat) (x : Tile) : (h.setTile k x).tpc = h.tpc := rfl
@[simp] theorem Hart.setTile_tval (h : Hart) (k : Nat) (x : Tile) : (h.setTile k x).tval = h.tval := rfl
@[simp] theorem Hart.setTile_telem (h : Hart) (k : Nat) (x : Tile) : (h.setTile k x).telem = h.telem := rfl
@[simp] theorem Hart.setTile_tsave (h : Hart) (k : Nat) (x : Tile) : (h.setTile k x).tsave = h.tsave := rfl
@[simp] theorem Hart.setTile_hact (h : Hart) (k : Nat) (x : Tile) : (h.setTile k x).hact = h.hact := rfl
@[simp] theorem Hart.setTile_strip (h : Hart) (k : Nat) (x : Tile) : (h.setTile k x).strip = h.strip := rfl
@[simp] theorem Hart.setTile_sfrq (h : Hart) (k : Nat) (x : Tile) : (h.setTile k x).sfrq = h.sfrq := rfl
@[simp] theorem Hart.setTile_retired (h : Hart) (k : Nat) (x : Tile) : (h.setTile k x).retired = h.retired := rfl
@[simp] theorem Hart.setTile_queues (h : Hart) (k : Nat) (x : Tile) : (h.setTile k x).queues = h.queues := rfl
@[simp] theorem Hart.setTile_links (h : Hart) (k : Nat) (x : Tile) : (h.setTile k x).links = h.links := rfl
@[simp] theorem Hart.setTile_wake (h : Hart) (k : Nat) (x : Tile) : (h.setTile k x).wake = h.wake := rfl
@[simp] theorem Hart.setTile_locks (h : Hart) (k : Nat) (x : Tile) : (h.setTile k x).locks = h.locks := rfl
@[simp] theorem Hart.setTile_samples (h : Hart) (k : Nat) (x : Tile) : (h.setTile k x).samples = h.samples := rfl
@[simp] theorem Hart.setTile_met (h : Hart) (k : Nat) (x : Tile) : (h.setTile k x).met = h.met := rfl
@[simp] theorem Hart.setTile_arrivals (h : Hart) (k : Nat) (x : Tile) : (h.setTile k x).arrivals = h.arrivals := rfl
@[simp] theorem Hart.setTile_drain (h : Hart) (k : Nat) (x : Tile) : (h.setTile k x).drain = h.drain := rfl
@[simp] theorem Hart.setTile_block (h : Hart) (k : Nat) (x : Tile) : (h.setTile k x).block = h.block := rfl
@[simp] theorem Hart.setTile_blockPages (h : Hart) (k : Nat) (x : Tile) : (h.setTile k x).blockPages = h.blockPages := rfl
@[simp] theorem Hart.setTile_bank (h : Hart) (k : Nat) (x : Tile) : (h.setTile k x).bank = h.bank := rfl
@[simp] theorem Hart.setTile_saveAt (h : Hart) (k : Nat) (x : Tile) : (h.setTile k x).saveAt = h.saveAt := rfl
@[simp] theorem Hart.setTile_out (h : Hart) (k : Nat) (x : Tile) : (h.setTile k x).out = h.out := rfl
@[simp] theorem Hart.setTile_fredRounds (h : Hart) (k : Nat) (x : Tile) : (h.setTile k x).fredRounds = h.fredRounds := rfl

/-! ### An event among those that come about later -/

@[simp] theorem State.later_hart (s : State) (i : Instr) (p : Input) : (s.later i p).hart = s.hart := by
  unfold State.later; split <;> rfl
@[simp] theorem State.later_others (s : State) (i : Instr) (p : Input) : (s.later i p).others = s.others := by
  unfold State.later; split <;> rfl
@[simp] theorem State.later_events (s : State) (i : Instr) (p : Input) : (s.later i p).events = s.events := by
  unfold State.later; split <;> rfl
@[simp] theorem State.later_inp (s : State) (i : Instr) (p : Input) : (s.later i p).inp = s.inp := by
  unfold State.later; split <;> rfl
@[simp] theorem State.later_keepTurn (s : State) (i : Instr) (p : Input) : (s.later i p).keepTurn = s.keepTurn := by
  unfold State.later; split <;> rfl
@[simp] theorem State.later_urgent (s : State) (i : Instr) (p : Input) : (s.later i p).urgent = s.urgent := by
  unfold State.later; split <;> rfl
@[simp] theorem State.later_jobAge (s : State) (i : Instr) (p : Input) : (s.later i p).jobAge = s.jobAge := by
  unfold State.later; split <;> rfl
@[simp] theorem State.later_xferAge (s : State) (i : Instr) (p : Input) : (s.later i p).xferAge = s.xferAge := by
  unfold State.later; split <;> rfl
@[simp] theorem State.later_turns (s : State) (i : Instr) (p : Input) : (s.later i p).turns = s.turns := by
  unfold State.later; split <;> rfl
@[simp] theorem State.later_clk (s : State) (i : Instr) (p : Input) : (s.later i p).clk = s.clk := by
  unfold State.later; split <;> rfl
@[simp] theorem State.later_tick (s : State) (i : Instr) (p : Input) : (s.later i p).tick = s.tick := by
  unfold State.later; split <;> rfl
@[simp] theorem State.later_pkg (s : State) (i : Instr) (p : Input) : (s.later i p).pkg = s.pkg := by
  unfold State.later; split <;> rfl
@[simp] theorem State.later_domain (s : State) (i : Instr) (p : Input) : (s.later i p).domain = s.domain := by
  unfold State.later; split <;> rfl
@[simp] theorem State.later_mem (s : State) (i : Instr) (p : Input) : (s.later i p).mem = s.mem := by
  unfold State.later; split <;> rfl
@[simp] theorem State.later_hostMem (s : State) (i : Instr) (p : Input) : (s.later i p).hostMem = s.hostMem := by
  unfold State.later; split <;> rfl
@[simp] theorem State.later_poison (s : State) (i : Instr) (p : Input) : (s.later i p).poison = s.poison := by
  unfold State.later; split <;> rfl
@[simp] theorem State.later_segHdr (s : State) (i : Instr) (p : Input) : (s.later i p).segHdr = s.segHdr := by
  unfold State.later; split <;> rfl
@[simp] theorem State.later_hdrPoison (s : State) (i : Instr) (p : Input) : (s.later i p).hdrPoison = s.hdrPoison := by
  unfold State.later; split <;> rfl
@[simp] theorem State.later_leaving (s : State) (i : Instr) (p : Input) : (s.later i p).leaving = s.leaving := by
  unfold State.later; split <;> rfl
@[simp] theorem State.later_apps (s : State) (i : Instr) (p : Input) : (s.later i p).apps = s.apps := by
  unfold State.later; split <;> rfl
@[simp] theorem State.later_tenants (s : State) (i : Instr) (p : Input) : (s.later i p).tenants = s.tenants := by
  unfold State.later; split <;> rfl
@[simp] theorem State.later_crews (s : State) (i : Instr) (p : Input) : (s.later i p).crews = s.crews := by
  unfold State.later; split <;> rfl
@[simp] theorem State.later_leases (s : State) (i : Instr) (p : Input) : (s.later i p).leases = s.leases := by
  unfold State.later; split <;> rfl
@[simp] theorem State.later_reserves (s : State) (i : Instr) (p : Input) : (s.later i p).reserves = s.reserves := by
  unfold State.later; split <;> rfl
@[simp] theorem State.later_nextCrew (s : State) (i : Instr) (p : Input) : (s.later i p).nextCrew = s.nextCrew := by
  unfold State.later; split <;> rfl
@[simp] theorem State.later_nextHart (s : State) (i : Instr) (p : Input) : (s.later i p).nextHart = s.nextHart := by
  unfold State.later; split <;> rfl
@[simp] theorem State.later_nextAccept (s : State) (i : Instr) (p : Input) : (s.later i p).nextAccept = s.nextAccept := by
  unfold State.later; split <;> rfl
@[simp] theorem State.later_nextPlaced (s : State) (i : Instr) (p : Input) : (s.later i p).nextPlaced = s.nextPlaced := by
  unfold State.later; split <;> rfl
@[simp] theorem State.later_transfers (s : State) (i : Instr) (p : Input) : (s.later i p).transfers = s.transfers := by
  unfold State.later; split <;> rfl
@[simp] theorem State.later_nextXfer (s : State) (i : Instr) (p : Input) : (s.later i p).nextXfer = s.nextXfer := by
  unfold State.later; split <;> rfl
@[simp] theorem State.later_trains (s : State) (i : Instr) (p : Input) : (s.later i p).trains = s.trains := by
  unfold State.later; split <;> rfl
@[simp] theorem State.later_nextTrain (s : State) (i : Instr) (p : Input) : (s.later i p).nextTrain = s.nextTrain := by
  unfold State.later; split <;> rfl
@[simp] theorem State.later_contribs (s : State) (i : Instr) (p : Input) : (s.later i p).contribs = s.contribs := by
  unfold State.later; split <;> rfl
@[simp] theorem State.later_rounds (s : State) (i : Instr) (p : Input) : (s.later i p).rounds = s.rounds := by
  unfold State.later; split <;> rfl
@[simp] theorem State.later_nextRound (s : State) (i : Instr) (p : Input) : (s.later i p).nextRound = s.nextRound := by
  unfold State.later; split <;> rfl
@[simp] theorem State.later_outbox (s : State) (i : Instr) (p : Input) : (s.later i p).outbox = s.outbox := by
  unfold State.later; split <;> rfl
@[simp] theorem State.later_unsent (s : State) (i : Instr) (p : Input) : (s.later i p).unsent = s.unsent := by
  unfold State.later; split <;> rfl
@[simp] theorem State.later_dstat (s : State) (i : Instr) (p : Input) : (s.later i p).dstat = s.dstat := by
  unfold State.later; split <;> rfl
@[simp] theorem State.later_dcause (s : State) (i : Instr) (p : Input) : (s.later i p).dcause = s.dcause := by
  unfold State.later; split <;> rfl
@[simp] theorem State.later_cmdCode (s : State) (i : Instr) (p : Input) : (s.later i p).cmdCode = s.cmdCode := by
  unfold State.later; split <;> rfl
@[simp] theorem State.later_cmdGo (s : State) (i : Instr) (p : Input) : (s.later i p).cmdGo = s.cmdGo := by
  unfold State.later; split <;> rfl
@[simp] theorem State.later_cmdArgs (s : State) (i : Instr) (p : Input) : (s.later i p).cmdArgs = s.cmdArgs := by
  unfold State.later; split <;> rfl
@[simp] theorem State.later_cmdRes (s : State) (i : Instr) (p : Input) : (s.later i p).cmdRes = s.cmdRes := by
  unfold State.later; split <;> rfl
@[simp] theorem State.later_cmdDetIndex (s : State) (i : Instr) (p : Input) : (s.later i p).cmdDetIndex = s.cmdDetIndex := by
  unfold State.later; split <;> rfl
@[simp] theorem State.later_cmdDetSect (s : State) (i : Instr) (p : Input) : (s.later i p).cmdDetSect = s.cmdDetSect := by
  unfold State.later; split <;> rfl
@[simp] theorem State.later_msix (s : State) (i : Instr) (p : Input) : (s.later i p).msix = s.msix := by
  unfold State.later; split <;> rfl
@[simp] theorem State.later_chan (s : State) (i : Instr) (p : Input) : (s.later i p).chan = s.chan := by
  unfold State.later; split <;> rfl
@[simp] theorem State.later_h2dNext (s : State) (i : Instr) (p : Input) : (s.later i p).h2dNext = s.h2dNext := by
  unfold State.later; split <;> rfl
@[simp] theorem State.later_d2hNext (s : State) (i : Instr) (p : Input) : (s.later i p).d2hNext = s.d2hNext := by
  unfold State.later; split <;> rfl
@[simp] theorem State.later_chanErr (s : State) (i : Instr) (p : Input) : (s.later i p).chanErr = s.chanErr := by
  unfold State.later; split <;> rfl
@[simp] theorem State.later_rbSpace (s : State) (i : Instr) (p : Input) : (s.later i p).rbSpace = s.rbSpace := by
  unfold State.later; split <;> rfl
@[simp] theorem State.later_rbFreeze (s : State) (i : Instr) (p : Input) : (s.later i p).rbFreeze = s.rbFreeze := by
  unfold State.later; split <;> rfl
@[simp] theorem State.later_rbCount (s : State) (i : Instr) (p : Input) : (s.later i p).rbCount = s.rbCount := by
  unfold State.later; split <;> rfl
@[simp] theorem State.later_rbGo (s : State) (i : Instr) (p : Input) : (s.later i p).rbGo = s.rbGo := by
  unfold State.later; split <;> rfl
@[simp] theorem State.later_rbAddr (s : State) (i : Instr) (p : Input) : (s.later i p).rbAddr = s.rbAddr := by
  unfold State.later; split <;> rfl
@[simp] theorem State.later_rbCode (s : State) (i : Instr) (p : Input) : (s.later i p).rbCode = s.rbCode := by
  unfold State.later; split <;> rfl
@[simp] theorem State.later_rbFirst (s : State) (i : Instr) (p : Input) : (s.later i p).rbFirst = s.rbFirst := by
  unfold State.later; split <;> rfl
@[simp] theorem State.later_rbData (s : State) (i : Instr) (p : Input) : (s.later i p).rbData = s.rbData := by
  unfold State.later; split <;> rfl
@[simp] theorem State.later_rbEnd (s : State) (i : Instr) (p : Input) : (s.later i p).rbEnd = s.rbEnd := by
  unfold State.later; split <;> rfl
@[simp] theorem State.later_rbReq (s : State) (i : Instr) (p : Input) : (s.later i p).rbReq = s.rbReq := by
  unfold State.later; split <;> rfl
@[simp] theorem State.later_spdmSession (s : State) (i : Instr) (p : Input) : (s.later i p).spdmSession = s.spdmSession := by
  unfold State.later; split <;> rfl
@[simp] theorem State.later_answers (s : State) (i : Instr) (p : Input) : (s.later i p).answers = s.answers := by
  unfold State.later; split <;> rfl
@[simp] theorem State.later_powerCap (s : State) (i : Instr) (p : Input) : (s.later i p).powerCap = s.powerCap := by
  unfold State.later; split <;> rfl
@[simp] theorem State.later_capPending (s : State) (i : Instr) (p : Input) : (s.later i p).capPending = s.capPending := by
  unfold State.later; split <;> rfl
@[simp] theorem State.later_throttled (s : State) (i : Instr) (p : Input) : (s.later i p).throttled = s.throttled := by
  unfold State.later; split <;> rfl
@[simp] theorem State.later_tripped (s : State) (i : Instr) (p : Input) : (s.later i p).tripped = s.tripped := by
  unfold State.later; split <;> rfl
@[simp] theorem State.later_standbyRail (s : State) (i : Instr) (p : Input) : (s.later i p).standbyRail = s.standbyRail := by
  unfold State.later; split <;> rfl
@[simp] theorem State.later_huskBooted (s : State) (i : Instr) (p : Input) : (s.later i p).huskBooted = s.huskBooted := by
  unfold State.later; split <;> rfl
@[simp] theorem State.later_rails (s : State) (i : Instr) (p : Input) : (s.later i p).rails = s.rails := by
  unfold State.later; split <;> rfl
@[simp] theorem State.later_bringStep (s : State) (i : Instr) (p : Input) : (s.later i p).bringStep = s.bringStep := by
  unfold State.later; split <;> rfl
@[simp] theorem State.later_bringDone (s : State) (i : Instr) (p : Input) : (s.later i p).bringDone = s.bringDone := by
  unfold State.later; split <;> rfl
@[simp] theorem State.later_bringSince (s : State) (i : Instr) (p : Input) : (s.later i p).bringSince = s.bringSince := by
  unfold State.later; split <;> rfl
@[simp] theorem State.later_fuseFault (s : State) (i : Instr) (p : Input) : (s.later i p).fuseFault = s.fuseFault := by
  unfold State.later; split <;> rfl
@[simp] theorem State.later_pclStarted (s : State) (i : Instr) (p : Input) : (s.later i p).pclStarted = s.pclStarted := by
  unfold State.later; split <;> rfl
@[simp] theorem State.later_keysOut (s : State) (i : Instr) (p : Input) : (s.later i p).keysOut = s.keysOut := by
  unfold State.later; split <;> rfl
@[simp] theorem State.later_locked (s : State) (i : Instr) (p : Input) : (s.later i p).locked = s.locked := by
  unfold State.later; split <;> rfl
@[simp] theorem State.later_zeroised (s : State) (i : Instr) (p : Input) : (s.later i p).zeroised = s.zeroised := by
  unfold State.later; split <;> rfl
@[simp] theorem State.later_unprovisioned (s : State) (i : Instr) (p : Input) : (s.later i p).unprovisioned = s.unprovisioned := by
  unfold State.later; split <;> rfl
@[simp] theorem State.later_bringStopped (s : State) (i : Instr) (p : Input) : (s.later i p).bringStopped = s.bringStopped := by
  unfold State.later; split <;> rfl
@[simp] theorem State.later_poolADown (s : State) (i : Instr) (p : Input) : (s.later i p).poolADown = s.poolADown := by
  unfold State.later; split <;> rfl
@[simp] theorem State.later_poolBDown (s : State) (i : Instr) (p : Input) : (s.later i p).poolBDown = s.poolBDown := by
  unfold State.later; split <;> rfl
@[simp] theorem State.later_ports (s : State) (i : Instr) (p : Input) : (s.later i p).ports = s.ports := by
  unfold State.later; split <;> rfl
@[simp] theorem State.later_alwaysLog (s : State) (i : Instr) (p : Input) : (s.later i p).alwaysLog = s.alwaysLog := by
  unfold State.later; split <;> rfl
@[simp] theorem State.later_dieLogs (s : State) (i : Instr) (p : Input) : (s.later i p).dieLogs = s.dieLogs := by
  unfold State.later; split <;> rfl
@[simp] theorem State.later_wsOpen (s : State) (i : Instr) (p : Input) : (s.later i p).wsOpen = s.wsOpen := by
  unfold State.later; split <;> rfl
@[simp] theorem State.later_ctxArea (s : State) (i : Instr) (p : Input) : (s.later i p).ctxArea = s.ctxArea := by
  unfold State.later; split <;> rfl
@[simp] theorem State.later_pclErr (s : State) (i : Instr) (p : Input) : (s.later i p).pclErr = s.pclErr := by
  unfold State.later; split <;> rfl
@[simp] theorem State.later_pclVal (s : State) (i : Instr) (p : Input) : (s.later i p).pclVal = s.pclVal := by
  unfold State.later; split <;> rfl
@[simp] theorem State.later_eccCorrected (s : State) (i : Instr) (p : Input) : (s.later i p).eccCorrected = s.eccCorrected := by
  unfold State.later; split <;> rfl
@[simp] theorem State.later_hostErrs (s : State) (i : Instr) (p : Input) : (s.later i p).hostErrs = s.hostErrs := by
  unfold State.later; split <;> rfl
@[simp] theorem State.later_cfgAnswers (s : State) (i : Instr) (p : Input) : (s.later i p).cfgAnswers = s.cfgAnswers := by
  unfold State.later; split <;> rfl
@[simp] theorem State.later_collNotices (s : State) (i : Instr) (p : Input) : (s.later i p).collNotices = s.collNotices := by
  unfold State.later; split <;> rfl

/-! ### x(n) := v -/

@[simp] theorem Hart.wx_id (h : Hart) (n : Nat) (v : Word) : (h.wx n v).id = h.id := by
  unfold Hart.wx; split <;> rfl
@[simp] theorem Hart.wx_run (h : Hart) (n : Nat) (v : Word) : (h.wx n v).run = h.run := by
  unfold Hart.wx; split <;> rfl
@[simp] theorem Hart.wx_ended (h : Hart) (n : Nat) (v : Word) : (h.wx n v).ended = h.ended := by
  unfold Hart.wx; split <;> rfl
@[simp] theorem Hart.wx_stopped (h : Hart) (n : Nat) (v : Word) : (h.wx n v).stopped = h.stopped := by
  unfold Hart.wx; split <;> rfl
@[simp] theorem Hart.wx_passBreak (h : Hart) (n : Nat) (v : Word) : (h.wx n v).passBreak = h.passBreak := by
  unfold Hart.wx; split <;> rfl
@[simp] theorem Hart.wx_swapReq (h : Hart) (n : Nat) (v : Word) : (h.wx n v).swapReq = h.swapReq := by
  unfold Hart.wx; split <;> rfl
@[simp] theorem Hart.wx_spilled (h : Hart) (n : Nat) (v : Word) : (h.wx n v).spilled = h.spilled := by
  unfold Hart.wx; split <;> rfl
@[simp] theorem Hart.wx_wait (h : Hart) (n : Nat) (v : Word) : (h.wx n v).wait = h.wait := by
  unfold Hart.wx; split <;> rfl
@[simp] theorem Hart.wx_parked (h : Hart) (n : Nat) (v : Word) : (h.wx n v).parked = h.parked := by
  unfold Hart.wx; split <;> rfl
@[simp] theorem Hart.wx_inCall (h : Hart) (n : Nat) (v : Word) : (h.wx n v).inCall = h.inCall := by
  unfold Hart.wx; split <;> rfl
@[simp] theorem Hart.wx_core (h : Hart) (n : Nat) (v : Word) : (h.wx n v).core = h.core := by
  unfold Hart.wx; split <;> rfl
@[simp] theorem Hart.wx_slice (h : Hart) (n : Nat) (v : Word) : (h.wx n v).slice = h.slice := by
  unfold Hart.wx; split <;> rfl
@[simp] theorem Hart.wx_cut (h : Hart) (n : Nat) (v : Word) : (h.wx n v).cut = h.cut := by
  unfold Hart.wx; split <;> rfl
@[simp] theorem Hart.wx_app (h : Hart) (n : Nat) (v : Word) : (h.wx n v).app = h.app := by
  unfold Hart.wx; split <;> rfl
@[simp] theorem Hart.wx_wspan (h : Hart) (n : Nat) (v : Word) : (h.wx n v).wspan = h.wspan := by
  unfold Hart.wx; split <;> rfl
@[simp] theorem Hart.wx_tilesUsed (h : Hart) (n : Nat) (v : Word) : (h.wx n v).tilesUsed = h.tilesUsed := by
  unfold Hart.wx; split <;> rfl
@[simp] theorem Hart.wx_pc (h : Hart) (n : Nat) (v : Word) : (h.wx n v).pc = h.pc := by
  unfold Hart.wx; split <;> rfl
@[simp] theorem Hart.wx_v (h : Hart) (n : Nat) (v : Word) : (h.wx n v).v = h.v := by
  unfold Hart.wx; split <;> rfl
@[simp] theorem Hart.wx_p (h : Hart) (n : Nat) (v : Word) : (h.wx n v).p = h.p := by
  unfold Hart.wx; split <;> rfl
@[simp] theorem Hart.wx_tiles (h : Hart) (n : Nat) (v : Word) : (h.wx n v).tiles = h.tiles := by
  unfold Hart.wx; split <;> rfl
@[simp] theorem Hart.wx_active (h : Hart) (n : Nat) (v : Word) : (h.wx n v).active = h.active := by
  unfold Hart.wx; split <;> rfl
@[simp] theorem Hart.wx_shadow (h : Hart) (n : Nat) (v : Word) : (h.wx n v).shadow = h.shadow := by
  unfold Hart.wx; split <;> rfl
@[simp] theorem Hart.wx_streams (h : Hart) (n : Nat) (v : Word) : (h.wx n v).streams = h.streams := by
  unfold Hart.wx; split <;> rfl
@[simp] theorem Hart.wx_vl (h : Hart) (n : Nat) (v : Word) : (h.wx n v).vl = h.vl := by
  unfold Hart.wx; split <;> rfl
@[simp] theorem Hart.wx_vstat (h : Hart) (n : Nat) (v : Word) : (h.wx n v).vstat = h.vstat := by
  unfold Hart.wx; split <;> rfl
@[simp] theorem Hart.wx_vlgrant (h : Hart) (n : Nat) (v : Word) : (h.wx n v).vlgrant = h.vlgrant := by
  unfold Hart.wx; split <;> rfl
@[simp] theorem Hart.wx_newGrant (h : Hart) (n : Nat) (v : Word) : (h.wx n v).newGrant = h.newGrant := by
  unfold Hart.wx; split <;> rfl
@[simp] theorem Hart.wx_wb (h : Hart) (n : Nat) (v : Word) : (h.wx n v).wb = h.wb := by
  unfold Hart.wx; split <;> rfl
@[simp] theorem Hart.wx_vflags (h : Hart) (n : Nat) (v : Word) : (h.wx n v).vflags = h.vflags := by
  unfold Hart.wx; split <;> rfl
@[simp] theorem Hart.wx_efr (h : Hart) (n : Nat) (v : Word) : (h.wx n v).efr = h.efr := by
  unfold Hart.wx; split <;> rfl
@[simp] theorem Hart.wx_srseed (h : Hart) (n : Nat) (v : Word) : (h.wx n v).srseed = h.srseed := by
  unfold Hart.wx; split <;> rfl
@[simp] theorem Hart.wx_clipc (h : Hart) (n : Nat) (v : Word) : (h.wx n v).clipc = h.clipc := by
  unfold Hart.wx; split <;> rfl
@[simp] theorem Hart.wx_elemc (h : Hart) (n : Nat) (v : Word) : (h.wx n v).elemc = h.elemc := by
  unfold Hart.wx; split <;> rfl
@[simp] theorem Hart.wx_mkbind (h : Hart) (n : Nat) (v : Word) : (h.wx n v).mkbind = h.mkbind := by
  unfold Hart.wx; split <;> rfl
@[simp] theorem Hart.wx_fstep (h : Hart) (n : Nat) (v : Word) : (h.wx n v).fstep = h.fstep := by
  unfold Hart.wx; split <;> rfl
@[simp] theorem Hart.wx_fstatCode (h : Hart) (n : Nat) (v : Word) : (h.wx n v).fstatCode = h.fstatCode := by
  unfold Hart.wx; split <;> rfl
@[simp] theorem Hart.wx_fstatCol (h : Hart) (n : Nat) (v : Word) : (h.wx n v).fstatCol = h.fstatCol := by
  unfold Hart.wx; split <;> rfl
@[simp] theorem Hart.wx_fstatOpf (h : Hart) (n : Nat) (v : Word) : (h.wx n v).fstatOpf = h.fstatOpf := by
  unfold Hart.wx; split <;> rfl
@[simp] theorem Hart.wx_fgrow (h : Hart) (n : Nat) (v : Word) : (h.wx n v).fgrow = h.fgrow := by
  unfold Hart.wx; split <;> rfl
@[simp] theorem Hart.wx_wfloor (h : Hart) (n : Nat) (v : Word) : (h.wx n v).wfloor = h.wfloor := by
  unfold Hart.wx; split <;> rfl
@[simp] theorem Hart.wx_wtmo (h : Hart) (n : Nat) (v : Word) : (h.wx n v).wtmo = h.wtmo := by
  unfold Hart.wx; split <;> rfl
@[simp] theorem Hart.wx_headd (h : Hart) (n : Nat) (v : Word) : (h.wx n v).headd = h.headd := by
  unfold Hart.wx; split <;> rfl
@[simp] theorem Hart.wx_xrm (h : Hart) (n : Nat) (v : Word) : (h.wx n v).xrm = h.xrm := by
  unfold Hart.wx; split <;> rfl
@[simp] theorem Hart.wx_xperm (h : Hart) (n : Nat) (v : Word) : (h.wx n v).xperm = h.xperm := by
  unfold Hart.wx; split <;> rfl
@[simp] theorem Hart.wx_xcqBase (h : Hart) (n : Nat) (v : Word) : (h.wx n v).xcqBase = h.xcqBase := by
  unfold Hart.wx; split <;> rfl
@[simp] theorem Hart.wx_crewid (h : Hart) (n : Nat) (v : Word) : (h.wx n v).crewid = h.crewid := by
  unfold Hart.wx; split <;> rfl
@[simp] theorem Hart.wx_crewrank (h : Hart) (n : Nat) (v : Word) : (h.wx n v).crewrank = h.crewrank := by
  unfold Hart.wx; split <;> rfl
@[simp] theorem Hart.wx_crewn (h : Hart) (n : Nat) (v : Word) : (h.wx n v).crewn = h.crewn := by
  unfold Hart.wx; split <;> rfl
@[simp] theorem Hart.wx_unitid (h : Hart) (n : Nat) (v : Word) : (h.wx n v).unitid = h.unitid := by
  unfold Hart.wx; split <;> rfl
@[simp] theorem Hart.wx_unitn (h : Hart) (n : Nat) (v : Word) : (h.wx n v).unitn = h.unitn := by
  unfold Hart.wx; split <;> rfl
@[simp] theorem Hart.wx_launchid (h : Hart) (n : Nat) (v : Word) : (h.wx n v).launchid = h.launchid := by
  unfold Hart.wx; split <;> rfl
@[simp] theorem Hart.wx_tenant (h : Hart) (n : Nat) (v : Word) : (h.wx n v).tenant = h.tenant := by
  unfold Hart.wx; split <;> rfl
@[simp] theorem Hart.wx_featmask (h : Hart) (n : Nat) (v : Word) : (h.wx n v).featmask = h.featmask := by
  unfold Hart.wx; split <;> rfl
@[simp] theorem Hart.wx_tvec (h : Hart) (n : Nat) (v : Word) : (h.wx n v).tvec = h.tvec := by
  unfold Hart.wx; split <;> rfl
@[simp] theorem Hart.wx_tcause (h : Hart) (n : Nat) (v : Word) : (h.wx n v).tcause = h.tcause := by
  unfold Hart.wx; split <;> rfl
@[simp] theorem Hart.wx_tpc (h : Hart) (n : Nat) (v : Word) : (h.wx n v).tpc = h.tpc := by
  unfold Hart.wx; split <;> rfl
@[simp] theorem Hart.wx_tval (h : Hart) (n : Nat) (v : Word) : (h.wx n v).tval = h.tval := by
  unfold Hart.wx; split <;> rfl
@[simp] theorem Hart.wx_telem (h : Hart) (n : Nat) (v : Word) : (h.wx n v).telem = h.telem := by
  unfold Hart.wx; split <;> rfl
@[simp] theorem Hart.wx_tsave (h : Hart) (n : Nat) (v : Word) : (h.wx n v).tsave = h.tsave := by
  unfold Hart.wx; split <;> rfl
@[simp] theorem Hart.wx_hact (h : Hart) (n : Nat) (v : Word) : (h.wx n v).hact = h.hact := by
  unfold Hart.wx; split <;> rfl
@[simp] theorem Hart.wx_strip (h : Hart) (n : Nat) (v : Word) : (h.wx n v).strip = h.strip := by
  unfold Hart.wx; split <;> rfl
@[simp] theorem Hart.wx_sfrq (h : Hart) (n : Nat) (v : Word) : (h.wx n v).sfrq = h.sfrq := by
  unfold Hart.wx; split <;> rfl
@[simp] theorem Hart.wx_retired (h : Hart) (n : Nat) (v : Word) : (h.wx n v).retired = h.retired := by
  unfold Hart.wx; split <;> rfl
@[simp] theorem Hart.wx_queues (h : Hart) (n : Nat) (v : Word) : (h.wx n v).queues = h.queues := by
  unfold Hart.wx; split <;> rfl
@[simp] theorem Hart.wx_links (h : Hart) (n : Nat) (v : Word) : (h.wx n v).links = h.links := by
  unfold Hart.wx; split <;> rfl
@[simp] theorem Hart.wx_wake (h : Hart) (n : Nat) (v : Word) : (h.wx n v).wake = h.wake := by
  unfold Hart.wx; split <;> rfl
@[simp] theorem Hart.wx_locks (h : Hart) (n : Nat) (v : Word) : (h.wx n v).locks = h.locks := by
  unfold Hart.wx; split <;> rfl
@[simp] theorem Hart.wx_samples (h : Hart) (n : Nat) (v : Word) : (h.wx n v).samples = h.samples := by
  unfold Hart.wx; split <;> rfl
@[simp] theorem Hart.wx_met (h : Hart) (n : Nat) (v : Word) : (h.wx n v).met = h.met := by
  unfold Hart.wx; split <;> rfl
@[simp] theorem Hart.wx_arrivals (h : Hart) (n : Nat) (v : Word) : (h.wx n v).arrivals = h.arrivals := by
  unfold Hart.wx; split <;> rfl
@[simp] theorem Hart.wx_drain (h : Hart) (n : Nat) (v : Word) : (h.wx n v).drain = h.drain := by
  unfold Hart.wx; split <;> rfl
@[simp] theorem Hart.wx_block (h : Hart) (n : Nat) (v : Word) : (h.wx n v).block = h.block := by
  unfold Hart.wx; split <;> rfl
@[simp] theorem Hart.wx_blockPages (h : Hart) (n : Nat) (v : Word) : (h.wx n v).blockPages = h.blockPages := by
  unfold Hart.wx; split <;> rfl
@[simp] theorem Hart.wx_bank (h : Hart) (n : Nat) (v : Word) : (h.wx n v).bank = h.bank := by
  unfold Hart.wx; split <;> rfl
@[simp] theorem Hart.wx_saveAt (h : Hart) (n : Nat) (v : Word) : (h.wx n v).saveAt = h.saveAt := by
  unfold Hart.wx; split <;> rfl
@[simp] theorem Hart.wx_out (h : Hart) (n : Nat) (v : Word) : (h.wx n v).out = h.out := by
  unfold Hart.wx; split <;> rfl
@[simp] theorem Hart.wx_fredRounds (h : Hart) (n : Nat) (v : Word) : (h.wx n v).fredRounds = h.fredRounds := by
  unfold Hart.wx; split <;> rfl

end Sys2Proof.Machine
end

