-- ==== Sys2Proof/Laws/Memory.lean ====
section
/-! SUPPORT. The laws of memory: every operation that writes it keeps its canonical form, a write leaves every other byte
alone, and reset's memory has the form. -/

set_option Elab.async false

namespace Sys2Proof.Machine

/-! ### The canonical form -/

theorem putCells_wf : ∀ (cs : List (Nat × Nat)) {m : List Host.Cell}, Memory.wf m = true → Memory.wf (putCells m cs) = true
  | [], _, h => h
  | (a, b) :: cs, _, h => putCells_wf cs (mwf_mset a (BitVec.ofNat 8 b) h)

theorem writePhys_memOk {s : State} (o : Bool) (cs : List (Nat × Nat)) (h : s.memOk) : (s.writePhys o cs).memOk :=
  putCells_wf cs h

theorem writeFor_memOk {s : State} (k : Nat) (w : Who) (va : Nat) (bs : List Nat) (h : s.memOk) :
    (s.writeFor k w va bs).memOk := writePhys_memOk _ _ h

theorem putAt_memOk {s : State} (x : Xlat) (va n v : Nat) (h : s.memOk) : (s.putAt x va n v).memOk :=
  putCells_wf _ h

theorem scrub_memOk {s : State} (pa n : Nat) (h : s.memOk) : (s.scrub pa n).memOk := mwf_filter _ h

/-- A fold of operations that keep the form keeps it. -/
theorem foldl_memOk {α : Type} (f : State → α → State) (hf : ∀ (s : State) (x : α), s.memOk → (f s x).memOk) :
    ∀ (xs : List α) {s : State}, s.memOk → (xs.foldl f s).memOk
  | [], _, h => h
  | x :: xs, _, h => foldl_memOk f hf xs (hf _ x h)

theorem reapOne_memOk (s : State) (r : OldFrame) (h : s.memOk) : (s.reapOne r).memOk := by
  unfold State.reapOne
  split
  · exact h
  · exact scrub_memOk r.pa r.len h

theorem reap_memOk {s : State} (h : s.memOk) : s.reap.memOk := foldl_memOk _ reapOne_memOk _ h

theorem release_memOk {s : State} (r : OldFrame) (h : s.memOk) : (s.release r).memOk := by
  unfold State.release
  split
  · exact h
  · exact scrub_memOk r.pa r.len h

theorem takeFrames_memOk {s t : State} {lo len size align pa : Nat} (h : s.memOk)
    (e : s.takeFrames lo len size align = some (pa, t)) : t.memOk := by
  unfold State.takeFrames at e
  dsimp only at e
  split at e
  · cases e
  · cases e; exact scrub_memOk _ _ (reap_memOk h)

theorem foldl_mset_wf (f : Host.Cell → Nat) : ∀ (cs m : List Host.Cell), Memory.wf m = true →
    Memory.wf (cs.foldl (fun m c => mset unlistedByte m (f c) c.2) m) = true
  | [], _, h => h
  | c :: cs, _, h => foldl_mset_wf f cs _ (mwf_mset (f c) c.2 h)

theorem copyFrames_memOk {s : State} (src dst len : Nat) (h : s.memOk) : (s.copyFrames src dst len).memOk :=
  foldl_mset_wf (fun c => c.1 - src + dst) _ _ h

theorem allocTier_memOk {s t : State} {code size align pa : Nat} {k : MemKind} (h : s.memOk)
    (e : s.allocTier code size align = some (pa, k, t)) : t.memOk := by
  unfold State.allocTier at e
  split at e
  · cases e
  · split at e
    · next r hr => cases e; exact takeFrames_memOk (pa := r.1) (t := r.2) h hr
    · split at e
      · simp only [Option.map_eq_some_iff] at e
        obtain ⟨r, hr, e⟩ := e
        cases e
        exact takeFrames_memOk (pa := r.1) (t := r.2) h hr
      all_goals cases e

theorem moveRegion_memOk {s t : State} {app code : Nat} {m : Mapping} (h : s.memOk) (e : s.moveRegion app m code = some t) :
    t.memOk := by
  unfold State.moveRegion at e
  dsimp only at e
  split at e
  · cases e
  · next pa k s1 hs =>
    split at e
    · cases e
    · cases e
      exact release_memOk _ (copyFrames_memOk _ _ _ (allocTier_memOk h hs))

theorem convertFrame_memOk {s : State} (b : Nat) (f g : Fmt) (pa : Nat) (h : s.memOk) : (s.convertFrame b f g pa).memOk :=
  putCells_wf _ h

theorem putWord_memOk {s : State} (w : Nat) (h : s.memOk) : (s.putWord w).memOk := by
  unfold State.putWord
  split
  · exact h
  · exact putCells_wf _ h

/-- Memory has the form at reset. -/
theorem reset_memOk : State.reset.memOk := rfl

/-! ### Reading after writing -/

/-- A byte that none of the cells names reads as before. -/
theorem mget_putCells_of_not_mem (p : Nat) : ∀ (cs : List (Nat × Nat)) (m : List Host.Cell), (∀ c ∈ cs, c.1 ≠ p) →
    mget unlistedByte (putCells m cs) p = mget unlistedByte m p
  | [], _, _ => rfl
  | (a, b) :: cs, m, h => by
    simp only [putCells]
    rw [mget_putCells_of_not_mem p cs _ fun c hc => h c (List.mem_cons_of_mem _ hc), mget_mset,
      if_neg (fun e => h (a, b) (List.mem_cons_self ..) e.symm)]

/-- After a write of the `n` low bytes of `v` at `pa`, memory reads those bytes there and elsewhere what it read before. -/
theorem mget_putCells_cellsLE (p : Nat) : ∀ (n pa v : Nat) (m : List Host.Cell),
    mget unlistedByte (putCells m (cellsLE pa n v)) p =
      if pa ≤ p ∧ p < pa + n then BitVec.ofNat 8 (v / 256 ^ (p - pa)) else mget unlistedByte m p
  | 0, pa, v, m => by simp only [cellsLE, putCells]; rw [if_neg (by omega)]
  | n + 1, pa, v, m => by
    simp only [cellsLE, putCells]
    rw [mget_putCells_cellsLE p n (pa + 1) (v / 256), mget_mset]
    by_cases h : p = pa
    · subst h
      rw [if_neg (by omega), if_pos rfl, if_pos (by omega)]
      simp only [Nat.sub_self, Nat.pow_zero, Nat.div_one]
      exact BitVec.eq_of_toNat_eq (by simp)
    · by_cases h2 : pa + 1 ≤ p ∧ p < pa + 1 + n
      · rw [if_pos h2, if_pos (by omega), Nat.div_div_eq_div_mul, ← Nat.pow_succ', show p - pa = (p - (pa + 1)).succ by omega]
      · rw [if_neg h2, if_neg h, if_neg (by omega)]

/-- What a byte of frames newly assigned reads as: nothing. -/
theorem mget_scrub (s : State) (pa n p : Nat) :
    mget unlistedByte (s.scrub pa n).mem p = if pa ≤ p ∧ p < pa + n then unlistedByte else mget unlistedByte s.mem p := by
  show mget unlistedByte (s.mem.filter _) p = _
  induction s.mem with
  | nil => simp only [List.filter_nil, mget_nil]; split <;> rfl
  | cons c m ih =>
    obtain ⟨k, v⟩ := c
    rw [List.filter_cons]
    split
    · next h =>
      simp only [mget, ih]
      by_cases e : k = p
      · subst e
        simp only [Bool.or_eq_true, decide_eq_true_eq] at h
        rw [if_pos rfl, if_neg (by omega), if_pos rfl]
      · rw [if_neg e, if_neg e]
    · next h =>
      rw [ih]
      simp only [Bool.or_eq_true, decide_eq_true_eq, not_or] at h
      by_cases e : k = p
      · subst e
        rw [if_pos (by omega), if_pos (by omega)]
      · simp only [mget, if_neg e]

end Sys2Proof.Machine
end

