-- ==== Sys2Proof/Laws/Ops.lean ====
section
/-! SUPPORT. The laws of the shared operations: for each, one lemma that says all it can do. -/

set_option Elab.async false

namespace Sys2Proof.Machine

/-! ### Ending an instruction -/

@[simp] theorem complete_ok (i : Instr) (s t : State) :
    complete i s (.ok t) = .next { t with hart := t.hart.retire s.hart.sfrq.length (t.hart.pc + 4) } := rfl

@[simp] theorem complete_error (i : Instr) (s : State) (e : Stop) : complete i s (.error e) = .next (s.stopped i e) := rfl

@[simp] theorem completeTo_ok (i : Instr) (s t : State) (pc : Word) :
    completeTo i s (.ok (t, pc)) = .next { t with hart := t.hart.retire s.hart.sfrq.length pc } := rfl

@[simp] theorem completeTo_error (i : Instr) (s : State) (e : Stop) : completeTo i s (.error e) = .next (s.stopped i e) := rfl

@[simp] theorem completeAs_ok (i : Instr) (s t : State) : completeAs i s (.ok t) = .next t := rfl

@[simp] theorem completeAs_error (i : Instr) (s : State) (e : Stop) : completeAs i s (.error e) = .next (s.stopped i e) := rfl

@[simp] theorem stopped_illegal (s : State) (i : Instr) : s.stopped i .illegal = s.illegal i := rfl

@[simp] theorem stopped_wait (s t : State) (i : Instr) :
    s.stopped i (.wait t) = { t with hart := t.hart.waitOn i s.clk } := rfl

/-- Every ending is a next state. -/
theorem complete_next (i : Instr) (s : State) (r : Except Stop State) : ∃ t, complete i s r = .next t := by
  cases r <;> exact ⟨_, rfl⟩

theorem completeTo_next (i : Instr) (s : State) (r : Except Stop (State × Word)) : ∃ t, completeTo i s r = .next t := by
  cases r <;> exact ⟨_, rfl⟩

theorem completeAs_next (i : Instr) (s : State) (r : Except Stop State) : ∃ t, completeAs i s r = .next t := by
  cases r <;> exact ⟨_, rfl⟩

/-- Ageing records changes their ages alone, and adds or drops none. -/
theorem ageFirst_length : ∀ (n : Nat) (rs : List SfrqRec), (ageFirst n rs).length = rs.length
  | 0, _ => rfl
  | _ + 1, [] => rfl
  | n + 1, _ :: rs => by simp [ageFirst, ageFirst_length n rs]

theorem ageFirst_all : ∀ rs : List SfrqRec, ageFirst rs.length rs = rs.map fun r => { r with age := r.age + 1 }
  | [] => rfl
  | r :: rs => by simp [ageFirst, ageFirst_all rs]

theorem ageFirst_fields {α : Type} (f : SfrqRec → α) (hf : ∀ (r : SfrqRec) (k : Nat), f { r with age := k } = f r) :
    ∀ (n : Nat) (rs : List SfrqRec), (ageFirst n rs).map f = rs.map f
  | 0, _ => rfl
  | _ + 1, [] => rfl
  | n + 1, r :: rs => by simp [ageFirst, ageFirst_fields f hf n rs, hf]

/-! ### Registers -/

/-- x(r) of a hart after a write to x(d), by number (R103, R311). -/
theorem Hart.rx_wx (h : Hart) (d r : Nat) (v : Word) : (h.wx d v).rx r = if r = d ∧ d ≠ 0 then v else h.rx r := by
  by_cases hd : d = 0
  · simp [Hart.wx, hd]
  · by_cases hr : r = 0
    · subst hr; simp [Hart.rx, Ne.symm hd]
    · simp [Hart.rx, Hart.wx, hd, hr]

/-- The same of the hart whose turn it is. -/
theorem rx_wx (s : State) (d r : Reg) (v : Word) : (s.wx d v).rx r = if r = d ∧ d ≠ 0 then v else s.rx r := by
  have z : ∀ q : Reg, q.toNat = 0 ↔ q = 0 := fun q => ⟨fun h => BitVec.eq_of_toNat_eq (by simpa using h), fun h => h ▸ rfl⟩
  simp only [State.rx, State.wx, Hart.rx_wx, BitVec.toNat_inj, ne_eq, z]

/-- A write to an x register changes nothing but the x registers. -/
theorem Hart.wx_frame (h : Hart) (d : Nat) (v : Word) : h.wx d v = { h with x := (h.wx d v).x } := by
  unfold Hart.wx; split <;> rfl

/-- Predicate k after a write to predicate n. -/
theorem Hart.pred_setPred (h : Hart) (n k v : Nat) :
    (h.setPred n v).pred k = if k = n then (BitVec.ofNat 2048 v).toNat else h.pred k := by
  simp only [Hart.pred, Hart.setPred, mget_mset]
  split <;> rfl

/-! ### Triggers and waits -/

/-- No STOREPEND is due on a quiet hart. -/
theorem Hart.storepend_quiet {h : Hart} (q : h.quiet) : h.storepend = none := by
  rcases q with e | e <;> simp only [Hart.storepend, e]
  split <;> rfl

/-- A record held and no handler active: STOREPEND on the oldest. -/
theorem Hart.storepend_due {h : Hart} {r : SfrqRec} {rs : List SfrqRec} (e : h.sfrq = r :: rs) (a : h.hact = false) :
    h.storepend = some (.trap .storepend (some r.addr) r.elem.toNat) := by simp [Hart.storepend, e, a]

/-- A trigger goes on where the hart is quiet. -/
theorem trigger_quiet {s : State} (k : Except Stop State) (q : s.hart.quiet) : s.trigger k = k := by
  simp [State.trigger, Hart.storepend_quiet q]

/-- A trigger stops where a STOREPEND is due. -/
theorem trigger_due {s : State} {r : SfrqRec} {rs : List SfrqRec} (k : Except Stop State) (e : s.hart.sfrq = r :: rs)
    (a : s.hart.hact = false) : s.trigger k = .error (.trap .storepend (some r.addr) r.elem.toNat) := by
  simp [State.trigger, Hart.storepend_due e a]

theorem waitDrained_ok {s : State} {scope : Nat} (h : s.drained s.hart scope = true) : s.waitDrained scope = .ok () := by
  simp [State.waitDrained, h]

theorem waitDrained_wait {s : State} {scope : Nat} (h : s.drained s.hart scope = false) :
    s.waitDrained scope = .error (.wait s) := by
  simp [State.waitDrained, h]

/-- A completing event of the hart whose turn it is runs its waiting instruction again. -/
theorem onWait_here {s : State} {w : Wait} (f : State → Instr → Option (Outcome State Fault Refusal))
    (hn : s.hart.id = s.inp.n) (hr : s.hart.run = .running) (hw : s.hart.wait = some w) :
    s.onWait f = (f s w.instr).getD (.next s) := by
  have e : s.focus s.inp.n = s := by simp [State.focus, hn]
  simp only [State.onWait, e, hn, hr, hw]
  simp only [ne_eq, not_true_eq_false, or_self, if_false]
  cases f s w.instr <;> rfl

/-! ### Scalar accesses (R312) -/

/-- A readable page whose link is up may be loaded from. -/
theorem forLoad_ok {s : State} {x : Xlat} (h1 : x.attr.getLsbD 11 = true) (h2 : s.linkDown x.kind = false) :
    s.forLoad (some x) = .ok x := by
  simp only [State.forLoad, h1, h2, Bool.not_true, Bool.false_eq_true, if_false]

/-- A writable page whose link is up may be stored to. -/
theorem forStore_ok {s : State} {x : Xlat} (h1 : x.attr.getLsbD 12 = true) (h2 : x.kvWrite = true)
    (h3 : s.linkDown x.kind = false) : s.forStore (some x) = .ok x := by
  simp only [State.forStore, h1, h2, h3, Bool.not_true, Bool.false_eq_true, if_false]

/-- A load that fits returns the bytes and drops a stale sample. -/
theorem loadScalar_fits {s : State} {va n v : Nat} {x : Xlat} (h : s.loadFits va n x v) :
    s.loadScalar va n = .ok (v, s.dropStale s.hart va) := by
  obtain ⟨h1, h2, h3, h4, h5, h6⟩ := h
  simp only [State.loadScalar, h1, h2, h3, forLoad_ok h4 h5, h6, ne_eq, not_true_eq_false, Bool.false_eq_true, if_false]

/-- A store that fits may write its page. -/
theorem storePage_fits {s : State} {va n : Nat} {x : Xlat} (h : s.storeFits va n x) : s.storePage va n = .ok x := by
  obtain ⟨h1, h2, h3, h4, h5, h6, h7, h8⟩ := h
  simp only [State.storePage, h1, h2, h3, forStore_ok h4 h5 h6, h7, h8, ne_eq, not_true_eq_false, Bool.false_eq_true,
    if_false]

theorem storeScalar_fits {s : State} {va n : Nat} {x : Xlat} (v : Nat) (h : s.storeFits va n x) :
    s.storeScalar va n v = .ok (s.putAt x va n v) := by
  simp [State.storeScalar, storePage_fits h]

/-- An AMO that fits an unpoisoned word reads the old value and writes what the function gives. -/
theorem amo8_fits {s : State} {va : Nat} {x : Xlat} (f : Nat → Option Nat) (h : s.storeFits va 8 x)
    (p : s.poisoned (x.addr va) = false) :
    s.amo8 va f = .ok (readLE s.mem (x.addr va) 8, match f (readLE s.mem (x.addr va) 8) with
      | none => { s with hart := s.dropStale s.hart va }
      | some v => s.putAt x va 8 v) := by
  simp only [State.amo8, storePage_fits h, p, Bool.false_eq_true, if_false]
  split <;> simp_all

/-- A scalar load or store either ends well or says why it does not. -/
theorem loadScalar_misaligned {s : State} {va n : Nat} (h : va % n ≠ 0) :
    s.loadScalar va n = .error (.trap .misalign (some (BitVec.ofNat 64 va)) 0) := by simp [State.loadScalar, h]

theorem storeScalar_misaligned {s : State} {va n v : Nat} (h : va % n ≠ 0) :
    s.storeScalar va n v = .error (.trap .misalign (some (BitVec.ofNat 64 va)) 0) := by
  simp [State.storeScalar, State.storePage, h]

/-! ### Vector instructions -/

/-- What follows the pops of an instruction that issues runs on the state after them. -/
theorem withPops_issues {s t : State} {reads : List VRun} (k : State → Except Stop State)
    (c : (s.hart.popped reads).any s.popHeld = false) (h : s.popAll reads = (t, none)) :
    s.withPops reads k = match k t with
      | .error (.wait u) => .error (.wait (s.unpop u))
      | r => r := by
  simp only [State.withPops, h, c, Bool.false_eq_true, if_false]
  split <;> simp_all

/-- Its good end is the instruction's. -/
theorem withPops_ok {s t u : State} {reads : List VRun} {k : State → Except Stop State}
    (c : (s.hart.popped reads).any s.popHeld = false) (h : s.popAll reads = (t, none)) (e : k t = .ok u) :
    s.withPops reads k = .ok u := by
  simp [State.withPops, h, e, c]

/-- The same of an instruction that issues. -/
theorem issues_ok {s t u : State} {reads writes : List VRun} {m : Nat} {k : State → Except Stop State}
    (i : s.issues reads writes m t) (e : k t = .ok u) : s.withPops reads k = .ok u := withPops_ok i.2.1 i.2.2 e

/-- No run names no stream. -/
@[simp] theorem popped_nil (h : Hart) : h.popped [] = [] := by simp [Hart.popped]

/-- An instruction that reads no group pops nothing. -/
@[simp] theorem popAll_nil (s : State) : s.popAll [] = (s, none) := by
  have : ∀ (es : List (Nat × Option Stream)) (a : State × Option Stop), es.foldl (fun a e =>
      match e.2 with
      | none => a
      | some st =>
        if ([] : List VRun).any fun r => meets (s.hart.phys r) st.run then
          let p := a.1.pop e.1 st
          (p.1, match a.2 with
            | none => p.2
            | some x => some x)
        else a) a = a := by
    intro es
    induction es with
    | nil => intro a; rfl
    | cons e es ih => intro a; rw [List.foldl_cons, ih]; split <;> rfl
  exact this _ _

/-- A mask is what `act` lists. -/
theorem Hart.act_length (h : Hart) (m : Nat) : (h.act m).length = h.vl := by simp [Hart.act]

theorem Hart.merged_length (h : Hart) (m : Nat) (f old : Nat → Nat) : (h.merged m f old).length = h.vl := by
  simp [Hart.merged]

/-! ### Calls of Riura and commands of the host -/

/-- A service that control programs may call, called by one. -/
theorem service_ctl {s : State} {k : Nat} (b : Bool) (f : State → Nat → Who → State) (h : s.ctlCalls k) :
    s.service true b f = .next (f s k ctlWho) := by
  obtain ⟨h1, h2, h3⟩ := h
  simp [State.service, State.callerApp, App.mode, h1, h2, h3, isCtl]

/-- A service of harts alone, called by a control program. -/
theorem service_ctl_perm {s : State} {k : Nat} (b : Bool) (f : State → Nat → Who → State) (h : s.ctlCalls k) :
    s.service false b f = .next (s.gives k ePerm) := by
  obtain ⟨h1, h2, h3⟩ := h
  simp [State.service, State.callerApp, App.mode, h1, h2, h3, isCtl, State.answer, State.gives]

/-- A service open to harts, called by one. -/
theorem service_hart {s : State} {h : Hart} (b : Bool) (f : State → Nat → Who → State) (c : s.hartCalls h) :
    s.service b true f = .next (f s h.app h.who) := by
  obtain ⟨h1, h2, h3⟩ := c
  simp [State.service, State.callerApp, h1, h2, h3, isCtl]

/-- A service of control programs alone, called by a hart. -/
theorem service_hart_perm {s : State} {h : Hart} (b : Bool) (f : State → Nat → Who → State) (c : s.hartCalls h) :
    s.service b false f = .next (s.later .ecallReturn { n := h.id, a1 := ePerm }) := by
  obtain ⟨h1, h2, h3⟩ := c
  simp [State.service, State.callerApp, h1, h2, h3, isCtl, State.answer]

/-- The answer to a control program. -/
theorem ret_ctl {s : State} {k : Nat} (r : Word) (h : s.inp.caller = .ctl k) : s.ret r = s.gives k r := by
  simp [State.ret, State.answer, h, State.gives]

/-- The answer to a hart. -/
theorem ret_hart {s : State} {id : Nat} (r : Word) (h : s.inp.caller = .hart id) :
    s.ret r = s.later .ecallReturn { n := id, a1 := r } := by
  simp [State.ret, State.answer, h]

/-- A command that has been started and is the one asked about runs. -/
theorem command_started {s : State} {c : Nat} (p : Nat → Bool) (f : State → State) (h : s.started c) (hp : p c = true) :
    s.command p f = .next (f s) := by
  obtain ⟨h1, h2⟩ := h
  simp [State.command, h1, h2, hp]

/-- Without GO no command runs. -/
theorem command_idle {s : State} (p : Nat → Bool) (f : State → State) (h : s.cmdGo = false) : s.command p f = .next s := by
  simp [State.command, h]

/-- The record of slot j after slot k has been replaced. -/
@[simp] theorem app_setApp (s : State) (k j : Nat) (a : App) : (s.setApp k a).app j = if j = k then a else s.app j := by
  simp [State.app, State.setApp]

end Sys2Proof.Machine
end

