-- ==== Sys2Proof/Tests/Slice0.lean ====
section
/-! SUPPORT. The model's own tests: ill-formed terms that WellFormed refuses, words of the spec's examples decoded, single
steps, and for every statement with hypotheses a state that meets them. -/

set_option Elab.async false
set_option maxRecDepth 100000
set_option exponentiation.threshold 4096

namespace Sys2Proof.Tests

open Sys2Proof.Machine

/-! ### WellFormed: a term that each check refuses (R298) -/

theorem test_wf_scope : ([Instr.fence 5, .flagrel 1 2 5, .flagacq 1 2 6, .signal 1 2 7, .bcpost 1 2 5, .bcarrive 1 2 5,
    .bcwait 1 2 5, .vfence 3 5, .vwait 8 17 5].all fun i => !i.wf) = true := by decide

theorem test_wf_predicate : ([Instr.vcmpeq 100 1 2 0, .vcmpne 96 1 2 0, .vcmplt 96 1 2 0, .vcmple 127 1 2 0, .pand 96 1 2 0,
    .por 1 96 2 0, .pxor 1 2 96 0, .pandn 1 2 96 0, .pnot 1 96 0, .pfirst 1 96 0, .pcount 1 96 0, .mbind 1 96, .wform 96 0,
    .vsegsum 1 2 96 0, .vsegmax 1 2 96 0, .vscan 1 2 96 0, .vscanx 1 2 96 0].all fun i => !i.wf) = true := by decide

theorem test_wf_mask_number : ([Instr.mbind 0 4, .mbind 4 4].all fun i => !i.wf) = true := by decide

theorem test_wf_register_span : ([Instr.sfrpop 125, .stron 8 126 2, .xfer 18 16 127, .xferv 8 16 127, .xfervs 8 17 127,
    .xferq 18 16 125, .xwait 127 1, .xpoll 127 1, .xtier 16 127, .mlds 126 0 0, .mdrain 0 127 0 16, .vchain 126 0 4 0,
    .vchainf 126, .msoft 0 127 1 64].all fun i => !i.wf) = true := by decide

theorem test_wf_rows : ([Instr.mlds 96 1 0, .mma 1 126 0 4, .mma 1 8 15 32, .mldacc 0 126 0 4, .mmova 1 16 15 32,
    .mdrain 0 16 15 32, .mdrainx 0 8 15 32, .mlds 0 2 4].all fun i => !i.wf) = true := by decide

theorem test_wf_matrix : ([Instr.mzero 2 2, .msoft 1 20 1 64, .msoft 0 20 8 64, .msoft 0 20 1 65, .msoft 0 20 1 0, .mlu 0 2 97,
    .mchol 0 0, .mqr 1 3 97, .mtrsml 0 1 97 0, .mtrsml 0 0 4 0, .mtrsmu 0 8 4 0].all fun i => !i.wf) = true := by decide

theorem test_wf_numbers : ([Instr.stron 8 16 8, .stroff 8, .xwait 16 4, .xpoll 16 4, .barwait 0, .vidxx 1 0 0 0,
    .vldseg 8 16 0 7].all fun i => !i.wf) = true := by decide

/-! ### Decoding: the words of the spec's examples, family by family -/

/-- Each word decodes to the instruction beside it. -/
def decodesAll (l : List (Nat × Instr)) : Bool := l.all fun p => decide (decode p.1 = some p.2)

theorem test_decode_upper_jumps : decodesAll [(0x01234804, .lui 16 0x1234), (0xFFFFC88B, .pchi 17 (BitVec.ofInt 20 (-1))),
    (0xFFFFC00E, .jal 0 (BitVec.ofInt 20 (-2))), (0x0000401E, .jalr 0 1 0), (0x020140BF, .bltn 5 16 3)] = true := by decide

theorem test_decode_scalar_alu : decodesAll [(0x0FE44813, .andi 16 17 255), (0x0044081C, .shli 16 16 4),
    (0x12444850, .sub 16 17 18), (0x42444851, .divn 16 17 18)] = true := by decide

theorem test_decode_scalar_memory : decodesAll [(0xFFC4092C, .ldwn 18 16 (BitVec.ofInt 12 (-4))), (0x02208232, .stw 17 2 8),
    (0x12444854, .amoadd 16 17 18)] = true := by decide

theorem test_decode_state_registers : decodesAll [(0x05000842, .srd 16 0x50), (0x00014045, .swr 5 1), (0x02000046, .winb 0 32),
    (0x00C402D2, .setvl 5 16 6)] = true := by decide

/-- ICLOCK at the major of the map, 0x48 (the example of R327 prints 0x08, see NOTES.md). -/
theorem test_decode_system : decodesAll [(0x00000053, .ecall), (0x10000053, .trapret), (0x200A8053, .brk 42), (0x30014853, .wfe 16 5),
    (0x40600053, .fence 3), (0x50000053, .drainst), (0x60001253, .sfrpop 36), (0x70000053, .icunlock), (0x80000053, .exit),
    (0x90000053, .yield), (0x008402C8, .iclock 5 16 8)] = true := by decide

theorem test_decode_vector_arithmetic : decodesAll [(0xC0608360, .vmulh 6 2 3 0), (0xC0A040E2, .vandn 1 1 5 0),
    (0x81628563, .vshra 10 10 11 0), (0x01820866, .vfma 16 8 12 0), (0xC0010267, .vfexp 4 4 0)] = true := by decide

theorem test_decode_predicates : decodesAll [(0x804001E8, .vcmplt 3 0 2 0), (0xC04001E8, .vcmple 3 0 2 0), (0x00404269, .pand 4 1 2 0),
    (0x000102EA, .pnot 5 4 0), (0x4001086A, .pfirst 16 4 0), (0x8001086A, .pcount 16 4 0), (0xC00100EA, .mbind 1 4)] = true := by
  decide

theorem test_decode_reductions : decodesAll [(0x4202086B, .vredmin 16 8 16 0), (0xC202086B, .vfredsum 16 8 16 0),
    (0xC000086E, .vamax 16 0 0), (0x00400372, .vsegsum 6 0 2 0), (0xC04003F2, .vscanx 7 0 2 0)] = true := by decide

theorem test_decode_moves : decodesAll [(0x40A0016C, .vslidedn 2 0 5 0), (0x8100026C, .vpermv 4 0 8 0), (0xD000036C, .vcompress 6 0 1),
    (0x0000016D, .vmv 2 0 0), (0x400441ED, .vsplat 3 17 0), (0x80C0C86D, .vextr 16 3 6 0), (0xC0C441ED, .vins 3 17 6 0),
    (0x00200071, .vidx 0 0 1 0)] = true := by decide

theorem test_decode_conversions : decodesAll [(0x0000026E, .vcvt 4 0 0), (0x40A0046E, .vquant 8 0 5 0), (0x80A2016E, .vdequant 2 8 5 0),
    (0x00A0026F, .venc 4 0 5), (0x400102EF, .vdec 5 4), (0x8001086F, .vencinfo 16 4), (0xC001036F, .vrunend 6 4)] = true := by decide

theorem test_decode_lists : decodesAll [(0x00800470, .vmergeidx 8 0 4 0), (0x40800470, .vsortkv 8 0 4 0), (0x80200170, .vhash 2 0 1 0),
    (0xC2200470, .vtopk 8 0 17 0)] = true := by decide

theorem test_decode_vector_loads : decodesAll [(0x00040074, .vld 0 16 0), (0x40A400F4, .vlds 1 16 5 0), (0x81040174, .vldx 2 16 8 0),
    (0x00040075, .vldff 0 16 0), (0x40A400F5, .vldsff 1 16 5 0), (0x81040175, .vldxff 2 16 8 0), (0xC10001F4, .vgl 3 0 8 0),
    (0xC1040175, .ngather 2 16 8 0), (0x1004047C, .vldseg 8 16 0 1)] = true := by decide

theorem test_decode_vector_stores : decodesAll [(0x00044276, .vst 4 17 0), (0x40A44276, .vsts 4 17 5 0), (0x81044276, .vstx 4 17 8 0),
    (0xC1000276, .vsc 4 0 8 0), (0x01048277, .vstxr 4 18 8 0), (0x01040278, .vamoadd 4 16 8 0), (0x81040279, .vamofmax 4 16 8 0),
    (0xC1040279, .vamocas 4 16 8 0)] = true := by decide

theorem test_decode_tokens : decodesAll [(0x0220047A, .vtrans 8 0 17 0), (0x4220047A, .vtransff 8 0 17 0), (0x8104007A, .vpref 16 8 0),
    (0x10800473, .vchain 8 0 4 1), (0x40000473, .vchainf 8)] = true := by decide

theorem test_decode_synchronisation : decodesAll [(0x0060C07B, .vfence 3 3), (0x4060007B, .barwait 3), (0x822201FB, .vwait 8 17 3),
    (0x006408D5, .flagrel 17 16 3), (0x106408D5, .flagacq 17 16 3), (0x202402D5, .signal 5 16 1), (0x306408D5, .bcpost 17 16 3),
    (0x406408D5, .bcarrive 17 16 3), (0x506408D5, .bcwait 17 16 3), (0x624408D5, .handoff 17 16 18)] = true := by decide

theorem test_decode_engines : decodesAll [(0x00440456, .stron 8 16 2), (0x10400056, .stroff 2), (0x20A40956, .xfer 18 16 5),
    (0x30A40456, .xferv 8 16 5), (0x40A44456, .xfervs 8 17 5), (0x50A40456, .xferc 8 16 5), (0x60A40956, .xferq 18 16 5),
    (0x70004856, .xwait 16 1), (0x80004856, .xpoll 16 1), (0x90A40056, .xtier 16 5)] = true := by decide

theorem test_decode_matrix : decodesAll [(0x00040058, .mlds 16 0 0), (0x1C000058, .mlds 0 1 96), (0x00000458, .mswap),
    (0x208208D8, .mma 1 8 2 4), (0x02000C58, .mmaq 0 0 0 16), (0x10001158, .mzero 2 1), (0x00811458, .mldacc 0 4 0 4),
    (0x008418D8, .mmova 1 16 0 4), (0x02041C58, .mdrain 0 16 0 16), (0x02022458, .mdrainx 0 8 0 16),
    (0x18052058, .msoft 0 20 1 64)] = true := by decide

theorem test_decode_factorisations : decodesAll [(0x00808059, .mlu 0 2 4), (0x00800459, .mchol 0 4), (0x0100C8D9, .mqr 1 3 8),
    (0x10800C59, .mtrsml 0 1 4 0), (0x10804C59, .mtrsml 0 1 4 1), (0x10801059, .mtrsmu 0 1 4 0)] = true := by decide

theorem test_decode_claims_remote : decodesAll [(0x1001005A, .claim 4 1), (0x4000015A, .wform 2 0), (0xA000005A, .wrel 2),
    (0xC000005A, .wclr), (0x0104025B, .fred 4 16 8 0), (0x400408DB, .fredwait 17 16)] = true := by decide

/-- Words that are no instructions (R298): the illegal majors, a reserved function, a field that must be zero, a scope. -/
theorem test_decode_refuses : ([0x00000000, 0xFFFFFFFF, 0x00000001, 0x0000004C, 0x7FFFFFFD, 0xA2444851, 0x000140C5, 0x1004081C,
    0x40A00053, 0x7004047C].all fun w => decode w == none) = true := by decide

/-- The ten causes in the order of R274. -/
theorem test_cause_codes : ([Cause.illegal, .opfmt, .misalign, .loadfault, .storefault, .storepend, .encstore, .streamfault, .poison,
    .brk].map Cause.code) = [1, 2, 3, 4, 5, 6, 7, 8, 9, 10] := by decide

/-! ### A small machine: one application, one crew of one hart, a code page at 0x1000 and data pages at 0x2000 -/

/-- A page of readable and writable memory, untyped. -/
def rw : Word := attrOf 0x3F true true false

/-- One page mapped where its address says. -/
def pageAt (va : Nat) (attr : Word) : Mapping :=
  { va := va, pages := 1, pa := va, attr := attr, kind := .tier1, range := false, pageLog := 12, migr := none }

/-- Its translation. -/
def xlatAt (va : Nat) (attr : Word) : Xlat := { pa := va, attr := attr, kind := .tier1, kvWrite := true, closed := false }

/-- The launch of the one crew: one of its two work units has been placed. -/
def launch0 : Launch :=
  { lid := 1, kernel := {}, units := 2, crew := 1, vlgmin := 0, prio := 0, cluster := 0, quad := false, deps := [], stack := 0,
    args := 0, const := 0, compl := 0, plane := 0, plfmt := 0, plk := 0, issued := 1, limit := 2, cancelled := false, done := 0,
    nfail := 0, firstFail := 0, ended := none, accept := 0 }

/-- The application: pages of code, data, execute-only text without read, read-only data, encoded I32 data. -/
def app0 : App :=
  { state := .running, text := 0x1000, nextLid := 2, launches := [launch0],
    maps := [pageAt 0x1000 (attrOf 0x3F true false true), pageAt 0x2000 rw, pageAt 0x3000 (attrOf 0x3F false false true),
             pageAt 0x4000 (attrOf 0x3F true false false), pageAt 0x5000 (rw + 0x100 - 0x3D)] }

/-- The hart. -/
def hart0 : Hart :=
  { id := 1, run := .running, pc := 0x1000, crewid := 1, launchid := 1, unitn := 2, tvec := 0x1400,
    x := [(16, 0x2000), (17, 0x2001), (18, 4)] }

/-- The crew. -/
def crew0 : Crew :=
  { id := 1, app := 0, lid := 1, unit := 0, size := 1, cls := 0, quad := false, grant := 256, cluster := 0, kernel := {},
    share := none, placed := 0, suspended := false, debugHeld := false }

/-- The machine. -/
def st : State :=
  { hart := hart0, apps := [(0, app0)], crews := [crew0], nextCrew := 2, nextHart := 2,
    mem := [(0x1000, 0x04), (0x1001, 0x48), (0x1002, 0x23), (0x1003, 0x01), (0x2000, 0x80), (0x2007, 0x90)] }

/-- The machine with another hart. -/
def withHart (h : Hart) : State := { st with hart := h }

/-- A held record. -/
def rec0 : SfrqRec := { pc := 0x1000, addr := 0x9000, elem := 3, cause := 5, kind := 0, strip := 0, lost := 0 }

/-! ### Single steps -/

/-- The word at the PC is fetched and run: `lui a0, 0x1234`. -/
theorem test_step_runs_word : (match step { st with keepTurn := true } with
    | .next t => decide (t.rx 16 = 0x1234000) && decide (t.hart.pc = 0x1004)
    | _ => false) = true := by decide +kernel

/-- A word placed at reset runs in the very next step: `addi x5, x0, -1` (major 0x10 with imm[0], imm[11:1] in bits 31:21), x5 becoming all ones (R312). -/
theorem test_step_from_reset : (match step (State.reset.withFetchWord 32 0xFFE00291) with
    | .next t => t.rx 5
    | _ => 0) = 0xFFFFFFFFFFFFFFFF := by decide +kernel

/-- DIVN of the least number by −1 gives the least number, REMN gives 0 (R148, R321). -/
theorem test_divide_overflow : (match exec (.divn 5 6 7) (withHart { hart0 with x := [(6, 2 ^ 63), (7, BitVec.allOnes 64)] }) with
    | .next t => t.rx 5
    | _ => 0) = 0x8000000000000000 := by decide +kernel

/-- LDB of 0x80 sign-extends, LDBN zero-extends (R322). -/
theorem test_load_signs : (match exec (.ldb 5 16 0) st, exec (.ldbn 5 16 0) st with
    | .next t, .next u => (t.rx 5, u.rx 5)
    | _, _ => (0, 0)) = (0xFFFFFFFFFFFFFF80, 0x80) := by decide +kernel

/-- A misaligned store traps to the handler with the address in TVAL and writes nothing (R275, R312). -/
theorem test_store_misaligned : (match exec (.std 18 17 0) st with
    | .next t => decide (t.hart.tcause = 3) && decide (t.hart.tval = 0x2001) && decide (t.hart.pc = 0x5000) && decide (t.mem = st.mem)
    | _ => false) = true := by decide +kernel

/-- SETVLI for I32 at G = 1 and VLGRANT 256: VLMAX is 64 (R112, R328). -/
theorem test_setvl : (match exec (.setvli 5 16 0x002) st with
    | .next t => (t.hart.vl, t.rx 5)
    | _ => (0, 0)) = (64, 64) := by decide +kernel

/-- A taken branch goes back by imm × 4 (R324). -/
theorem test_branch_back : (match exec (.beq 0 0 (BitVec.ofInt 12 (-4))) st with
    | .next t => t.hart.pc
    | _ => 0) = 0x0FF0 := by decide +kernel

/-! ### States that meet the hypotheses of the statements -/

theorem witness_DecodeEncode : (Instr.vldseg 8 16 0 6).hasWord = true ∧ (Instr.vldseg 8 16 0 6).wf = true := by decide

theorem witness_EncodeDecode : 0x41C4247C < 2 ^ 32 ∧ decode 0x01234804 = some (.lui 16 0x1234) ∧
    0x0000007F % 128 ∈ [0x00, 0x01, 0x02, 0x03, 0x4C, 0x4D, 0x4E, 0x4F, 0x57, 0x5C, 0x5D, 0x5E, 0x5F, 0x7D, 0x7E, 0x7F] := by decide

theorem witness_StepRunsDecoded :
    (let s := { st with keepTurn := true }
     let x := xlatAt 0x1000 (attrOf 0x3F true false true)
     s.urgent = [] ∧ s.events = [] ∧ s.keepTurn = true ∧ s.storeBound s.hart = false ∧ s.hart.run = .running ∧ s.hart.stopped = false ∧ s.hart.inCall = false ∧
     s.hart.swapReq = false ∧ s.hart.wait = none ∧ s.hart.drain = false ∧ s.hart.skid ≠ 64 ∧ s.atBreak s.hart = false ∧
     s.xlat s.hart s.hart.pc.toNat = some x ∧ x.attr.getLsbD 13 = true ∧ s.linkDown x.kind = false ∧ x.encoded = false ∧
     s.poisoned (x.addr s.hart.pc.toNat) = false ∧ s.poisoned (x.addr s.hart.pc.toNat + 3) = false ∧
     decode (readLE s.mem (x.addr s.hart.pc.toNat) 4) = some (.lui 16 0x1234)) ∧
    ({ st with events := [(.poolLinkUp, {})] } : State).events = (.poolLinkUp, {}) :: [] := by decide +kernel

/-- A store that a migration has parked, its page open again. -/
theorem witness_StepRunsDecoded_parked :
    (let s := { withHart { hart0 with parked := true, wait := some ⟨.stw 17 16 0, 0, false⟩ } with urgent := [1] }
     s.urgent = 1 :: [] ∧ s.hart.id = 1 ∧ s.hart.parked = true ∧ s.hart.wait = some ⟨.stw 17 16 0, 0, false⟩ ∧
     ∃ v, exec (Instr.stw 17 16 0) { s.passTime with urgent := [], hart := { s.hart with parked := false } } = .next v) :=
  ⟨rfl, rfl, rfl, rfl, _, rfl⟩

theorem witness_StepRunsDecoded_admits : st.passTime.admits .poolLinkUp = true ∧
    ({ st with tripped := true } : State).passTime.admits .cxlMemRead = false := by decide +kernel

theorem witness_StepRunsDecoded_turn :
    ∃ u w i, ({ st with keepTurn := true } : State).passTime.turn = .fetch u ∧ u.fetch = .ok w ∧ decode w = some i :=
  ⟨_, _, _, rfl, rfl, rfl⟩

theorem witness_StepRunsDecoded_illegal :
    ∃ u w, ({ st with keepTurn := true, mem := [] } : State).passTime.turn = .fetch u ∧ u.fetch = .ok w ∧ decode w = none ∧
      u.hart.tvec ≠ 0 ∧ u.hart.hact = false :=
  ⟨_, _, rfl, rfl, rfl, by decide, rfl⟩

theorem witness_ScalarLoads :
    (let x := xlatAt 0x2000 rw
     x.encoded = false ∧ st.poisoned (x.addr 0x2000) = false ∧ st.poisoned (x.addr 0x2000 + 8 - 1) = false ∧ 7 < 8) ∧
    ∀ n ∈ [1, 2, 4, 8], ∃ v, st.loadFits 0x2000 n (xlatAt 0x2000 rw) v := by
  refine ⟨by decide +kernel, ?_⟩
  intro n hn
  simp only [List.mem_cons, List.not_mem_nil, or_false] at hn
  rcases hn with rfl | rfl | rfl | rfl <;> exact ⟨_, by decide +kernel, by decide +kernel, by decide +kernel, by decide +kernel, by decide +kernel, rfl⟩

theorem witness_ScalarStores : (∀ n ∈ [1, 2, 4, 8], st.storeFits (st.rx 16).toNat n (xlatAt 0x2000 rw)) ∧
    st.poisoned ((xlatAt 0x2000 rw).addr (st.rx 16).toNat) = false := by
  unfold State.storeFits; decide +kernel

theorem witness_ScalarAccessTraps :
    (st.rx 17).toNat % 8 ≠ 0 ∧ (st.rx 17).toNat % 4 ≠ 0 ∧ (st.rx 17).toNat % 2 ≠ 0 ∧ (st.rx 16).toNat % 8 = 0 ∧
    st.ritHit st.hart 0x9000 0x9008 = false ∧ st.xlat st.hart 0x9000 = none ∧
    st.xlat st.hart 0x3000 = some (xlatAt 0x3000 (attrOf 0x3F false false true)) ∧ (attrOf 0x3F false false true).getLsbD 11 = false ∧
    (let s := { st with poison := [(0x80, true)] }
     s.xlat s.hart 0x2000 = some (xlatAt 0x2000 rw) ∧ rw.getLsbD 11 = true ∧ s.linkDown .tier1 = false ∧
       (xlatAt 0x2000 rw).encoded = false ∧ s.poisoned 0x2000 = true) ∧
    st.xlat st.hart 0x4000 = some (xlatAt 0x4000 (attrOf 0x3F true false false)) ∧ (attrOf 0x3F true false false).getLsbD 12 = false ∧
    st.xlat st.hart 0x5000 = some (xlatAt 0x5000 (rw + 0x100 - 0x3D)) ∧ (rw + 0x100 - 0x3D).getLsbD 12 = true ∧
      (xlatAt 0x5000 (rw + 0x100 - 0x3D)).encoded = true := by decide +kernel

theorem witness_ControlTransfer : (st.rx 16 + (0 : BitVec 12).signExtend 64).toNat % 4 = 0 ∧
    (st.rx 17 + (0 : BitVec 12).signExtend 64).toNat % 4 ≠ 0 := by decide +kernel

theorem witness_StateRegisterReads : (∀ t ∈ st.transfers, t.hart ≠ st.hart.id) ∧ st.hart.core < 256 ∧
    ([0x00F, 0x000, 0x009, 0x00A, 0x002].map fun c => (withHart { hart0 with vstat := c }).hart.fmt) = [.i4, .i8, .bf16, .f32, .i32] ∧
    st.clk % 70400 % 2200 < 550 ∧ 550 ≤ ({ st with clk := 550 } : State).clk % 70400 % 2200 ∧
    ∀ n ∈ [(0x00B : BitVec 12), 0x053, 0xFFF], n.toNat ∉ [0x000, 0x001, 0x002, 0x003, 0x004, 0x005, 0x006, 0x007, 0x008, 0x009, 0x00A,
      0x010, 0x011, 0x012, 0x013, 0x014, 0x018, 0x019, 0x01A, 0x020, 0x021, 0x030, 0x031, 0x032, 0x033, 0x034, 0x035, 0x036, 0x037,
      0x038, 0x039, 0x03A, 0x040, 0x041, 0x042, 0x043, 0x044, 0x045, 0x048, 0x050, 0x051, 0x052] := by decide +kernel

/-- The fields at the bounds of their ranges, inside and outside. -/
theorem witness_StateRegisterWrites :
    (let f := fun (v : Word) a n => (v.extractLsb' a n).toNat
     f 0x5000 12 3 ≠ 7 ∧ f 0x5000 12 3 = 5 ∧ hart0.feat 8 = true ∧ f 0x7000 12 3 = 7 ∧
     f 1152 0 11 % 16 = 0 ∧ f 1152 0 11 ≤ 1152 ∧ f 1152 0 11 + 128 ≤ hart0.wspan ∧ f 1160 0 11 % 16 ≠ 0 ∧ 1152 < f 1168 0 11 ∧
     f 0x17DFDF 0 7 = 95 ∧ f 0x17EFDF 7 7 < 96 ∧ f 0x17DFDF 14 7 < 96 ∧ 96 ≤ f 96 0 7 ∧ f 96 0 7 ≤ 96 ∧ 96 < f 97 0 7 ∧
     f 2 0 2 ≠ 3 ∧ f 3 0 2 = 3 ∧ f 256 0 9 ≤ 256 ∧ 256 < f 257 0 9) ∧
    ({ hart0 with featmask := 0x100 } : Hart).feat 8 = false ∧
    (0x00B : BitVec 12).toNat ∉ [0x001, 0x004, 0x005, 0x006, 0x007, 0x008, 0x009, 0x00A, 0x012, 0x013, 0x014, 0x018, 0x019,
       0x01A, 0x020, 0x021, 0x040, 0x041, 0x042, 0x043, 0x044, 0x045] ∧
    (let s := withHart { hart0 with x := [(5, 1136)] }
     ((s.rx 5).toNat : Int) + (16 : BitVec 12).toInt = (1152 : Nat) ∧ 1152 % 16 = 0 ∧ 1152 + 128 ≤ s.hart.wspan ∧
       (let w : Int := ((s.rx 5).toNat : Int) + (32 : BitVec 12).toInt
        1152 < w.toNat) ∧ ((s.rx 0).toNat : Int) + (BitVec.ofInt 12 (-16)).toInt < 0) := by decide +kernel

theorem witness_SetVectorLength : hart0.quiet ∧
    (let cfg : BitVec 12 := 0x6D0
     Fmt.ofCode (cfg.toNat % 64) = some .mxf8 ∧ cfg.toNat / 256 % 4 ≠ 3 ∧ cfg.toNat / 1024 < 2 ∧ hart0.feat 0 = true) ∧
    Fmt.ofCode ((0x00E : BitVec 12).toNat % 64) = some .dm8 ∧ hart0.feat 1 = true ∧
    Fmt.ofCode ((0x013 : BitVec 12).toNat % 64) = none ∧ (0x300 : BitVec 12).toNat / 256 % 4 = 3 ∧ 2 ≤ (0x800 : BitVec 12).toNat / 1024 ∧
    ({ hart0 with featmask := 3 } : Hart).feat 0 = false ∧ ({ hart0 with featmask := 3 } : Hart).feat 1 = false ∧
    (BitVec.extractLsb' 0 12 (0x1006D0 : Word)) = 0x6D0 := by unfold Hart.quiet; decide +kernel

theorem witness_TrapEntry : st.hart.handles := by unfold Hart.handles; decide +kernel

theorem witness_TrapToRiura :
    (let s := withHart { hart0 with tvec := 0 }
     s.hart.tvec = 0 ∧ s.hart.run = .running ∧ s.crewOf s.hart.crewid.toNat = some crew0) ∧
    (let s := { withHart { hart0 with hact := true } with apps := [(0, { app0 with shdb := true })] }
     s.hart.hact = true ∧ s.hart.run = .running ∧ s.crewOf s.hart.crewid.toNat = some crew0 ∧
       (s.app s.hart.app).shdb = true) := by decide +kernel

/-- A trap in a handler with a crew-mate whose store a migration holds back, and with one that has none. -/
theorem witness_TrapToRiura_mates :
    (let s := { withHart { hart0 with hact := true } with others := [{ hart0 with id := 2, crewrank := 1, parked := true }] }
     s.hart.hact = true ∧ s.hart.run = .running ∧ s.crewOf s.hart.crewid.toNat = some crew0 ∧
       ∃ g ∈ s.others, (g.run ≠ .idle ∧ g.crewid = s.hart.crewid) ∧ g.parked = true) ∧
    (let s := { withHart { hart0 with hact := true } with others := [{ hart0 with id := 2, crewrank := 1 }] }
     ∀ g ∈ s.others, g.run ≠ .idle ∧ g.crewid = s.hart.crewid → g.parked = false) := by decide +kernel

theorem witness_TrapReturn : (withHart { hart0 with hact := true, tcause := 6 }).hart.hact = true ∧ st.hart.hact = false ∧
    st.hart.handles := by unfold Hart.handles; decide +kernel

theorem witness_StorependTriggers : (let s := withHart { hart0 with sfrq := [rec0] }
    s.hart.sfrq = rec0 :: [] ∧ s.hart.hact = false ∧ s.drained s.hart 4 = true) := by decide +kernel

theorem witness_CallsAndExit : (st.hart.quiet ∧ st.drained st.hart 3 = true ∧ st.jobs = []) ∧
    (let s := { withHart { hart0 with inCall := true } with inp := { n := 1, a1 := 5 } }
     s.hart.id = s.inp.n ∧ s.hart.inCall = true ∧ s.hart.run ≠ .idle ∧ ∀ g ∈ s.others, g.id ≠ s.inp.n) ∧
    (withHart { hart0 with hact := true }).hart.hact = true ∧
    (let s := { st with others := [{ hart0 with id := 2, crewrank := 1 }] }
     s.hart.hact = false ∧ s.hart.sfrq = [] ∧ s.drained s.hart 4 = true ∧ s.hart.run = .running ∧
       ∃ g ∈ s.others, g.run ≠ .idle ∧ g.crewid = s.hart.crewid ∧ g.ended = false) := by unfold Hart.quiet; decide +kernel

/-- A transfer in flight of the hart, which no fence passes. -/
def xfer0 : Transfer :=
  { id := 7, hart := 1, app := 0, op := 2, ctl := 0x80104, src := 0x2000, dst := 0x2100, len := 64, scale := 0, maxw := 0, recno := 0,
    xrm := 0, xperm := false, seed := 0, gside := false, die := 0, reg := 0, target := 0, regs := [], perm := [], grant := 256,
    rit := [(0x2000, 0x2040), (0x2100, 0x2140)], fills := none }

theorem witness_SystemInstructions : (st.hart.quiet ∧ st.drained st.hart 4 = true ∧ st.hart.wake = false) ∧
    (let s := { st with transfers := [xfer0] }
     s.drained s.hart 3 = false) ∧ (withHart { hart0 with wake := true }).hart.wake = true ∧ (124 : Reg).toNat ≤ 124 ∧
    (distinct (st.locksBeside st.hart.core st.hart.id ++ st.hart.locks) []).length ≤ 64 ∧ st.lineFetchable st.hart 8 = true ∧
    (8 : Nat) ∉ st.hart.locks := by
  unfold Hart.quiet; decide +kernel

/-! ### Vector states -/

/-- The machine with a vector configuration (format and other bits of VSTAT), a length, and register groups. -/
def vecSt (cfg : BitVec 16) (vl : Nat) (v : List (Nat × VReg)) : State :=
  withHart { hart0 with vstat := cfg, vl := vl, v := v, p := [(1, 0b0101), (2, 0b0010)], mkbind := 1 }

/-- A PLAIN register. -/
def plain (f : Fmt) (els : List Nat) : VReg := plainMember f 1 els []

/-- I32 vectors in v0 and v1, an old destination in v2, positions in v4, addresses in v5. -/
def ints : List (Nat × VReg) :=
  [(0, plain .i32 [1, 0xFFFFFFFF, 0x7FFFFFFF, 4]), (1, plain .i32 [2, 3, 1, 0x80000000]), (2, plain .i32 [9, 9, 9, 9]),
   (4, plain .i32 [3, 0, 0x7F, 2]), (5, plain .n64 [0x2000, 0x2008, 0x2010, 0x2018])]

/-- F32 vectors: 1, 2, 0.5, NaN and 1.5, −1, 3, 0. -/
def floats : List (Nat × VReg) :=
  [(0, plain .f32 [0x3F800000, 0x40000000, 0x3F000000, 0x7FC00000]), (1, plain .f32 [0x3FC00000, 0xBF800000, 0x40400000, 0]),
   (2, plain .f32 [0, 0, 0, 0])]

/-- Whether a check passes. -/
def okb {ε α : Type} (e : Except ε α) : Bool :=
  match e with
  | .ok _ => true
  | .error _ => false

theorem okb_ok {ε α : Type} {e : Except ε α} (h : okb e = true) : ∃ x, e = .ok x := by
  cases e
  · cases h
  · exact ⟨_, rfl⟩

/-- Without bound streams an instruction whose registers are ready issues, its state unchanged. -/
theorem issues_of {s : State} {reads writes : List VRun} {m : Nat} (hs : s.hart.streams = [])
    (h : okb (s.vecReady reads writes m) = true) : s.issues reads writes m s := by
  obtain ⟨⟨⟩, e⟩ := okb_ok h
  exact ⟨e, by simp [Hart.popped, hs], by simp only [State.popAll, hs, List.foldl_nil]⟩

theorem oldOf_of {s : State} (fused : Bool) (d : Reg) (m : BitVec 2) (h : okb (s.hart.operand d.toNat) = true) :
    ∃ o, s.oldOf s fused d m o := by
  obtain ⟨x, e⟩ := okb_ok h
  by_cases c : (fused || s.hart.keeps m) = true
  · exact ⟨x, by rw [State.oldOf, if_pos c]; exact e⟩
  · exact ⟨_, by rw [State.oldOf, if_neg c]⟩

theorem readsTwo_of {s : State} {fused : Bool} {d a b : Reg} {m : BitVec 2} (hs : s.hart.streams = [])
    (h : (okb (s.vecReady ([s.hart.opRun a.toNat, s.hart.opRun b.toNat] ++
        (if fused || s.hart.keeps m then [s.hart.opRun d.toNat] else [])) [s.hart.gRun d.toNat] m.toNat) &&
      okb (s.hart.operand a.toNat) && okb (s.hart.operand b.toNat) && okb (s.hart.operand d.toNat)) = true) :
    ∃ t x y o, s.readsTwo t fused d a b m x y o := by
  simp only [Bool.and_eq_true] at h
  obtain ⟨x, ex⟩ := okb_ok h.1.1.2
  obtain ⟨y, ey⟩ := okb_ok h.1.2
  obtain ⟨o, eo⟩ := oldOf_of fused d m h.2
  exact ⟨s, x, y, o, issues_of hs h.1.1.1, ex, ey, eo⟩

theorem readsOne_of {s : State} {d a : Reg} {m : BitVec 2} (hs : s.hart.streams = [])
    (h : (okb (s.vecReady (s.hart.opRun a.toNat :: (if s.hart.keeps m then [s.hart.opRun d.toNat] else []))
        [s.hart.gRun d.toNat] m.toNat) && okb (s.hart.operand a.toNat) && okb (s.hart.operand d.toNat)) = true) :
    ∃ t x o, s.readsOne t d a m x o := by
  simp only [Bool.and_eq_true] at h
  obtain ⟨x, ex⟩ := okb_ok h.1.2
  obtain ⟨o, eo⟩ := oldOf_of false d m h.2
  exact ⟨s, x, o, issues_of hs h.1.1, ex, eo⟩

theorem readsNone_of {s : State} {d : Reg} {m : BitVec 2} (hs : s.hart.streams = [])
    (h : (okb (s.vecReady (if s.hart.keeps m then [s.hart.opRun d.toNat] else []) [s.hart.gRun d.toNat] m.toNat) &&
      okb (s.hart.operand d.toNat)) = true) : ∃ t o, s.readsNone t d m o := by
  simp only [Bool.and_eq_true] at h
  obtain ⟨o, eo⟩ := oldOf_of false d m h.2
  exact ⟨s, o, issues_of hs h.1, eo⟩

/-! ### Single vector steps -/

/-- VADD under I32 wraps each element (R341). -/
theorem test_vadd : (match exec (.vadd 2 0 1 0) (vecSt 0x002 4 ints) with
    | .next t => okb (t.hart.operand 2) && (match t.hart.operand 2 with
        | .ok o => decide (o.elems = [3, 2, 0x80000000, 0x80000004])
        | .error _ => false)
    | _ => false) = true := by decide +kernel

/-- VADD under a mask with MP = 0 keeps the elements that are not selected (R108). -/
theorem test_vadd_masked : (match exec (.vadd 2 0 1 1) (vecSt 0x002 4 ints) with
    | .next t => (match t.hart.operand 2 with
        | .ok o => decide (o.elems = [3, 9, 0x80000000, 9])
        | .error _ => false)
    | _ => false) = true := by decide +kernel

/-- The example of R343: `vmulh` of 0x4000_0000 and 8 under I32 gives 2. -/
theorem test_vmulh : (match exec (.vmulh 2 0 1 0) (vecSt 0x002 1 [(0, plain .i32 [0x40000000]), (1, plain .i32 [8])]) with
    | .next t => (match t.hart.operand 2 with
        | .ok o => decide (o.elems = [2])
        | .error _ => false)
    | _ => false) = true := by decide +kernel

/-- 1.0 + 1.5 is 2.5 in F32; a NaN operand gives the canonical NaN (R344). -/
theorem test_vfadd : (match exec (.vfadd 2 0 1 0) (vecSt 0x00A 4 floats) with
    | .next t => (match t.hart.operand 2 with
        | .ok o => decide (o.elems = [0x40200000, 0x3F800000, 0x40600000, 0x7FC00000])
        | .error _ => false)
    | _ => false) = true := by decide +kernel

/-- A load that faults past element 0 shortens VL (R278): the page after 0x2FF8 cannot be read. -/
theorem test_vld_truncates : (match exec (.vld 2 16 0) (withHart { hart0 with vstat := 0x003, vl := 3, x := [(16, 0x2FF0)] }) with
    | .next t => (t.hart.vl, t.hart.pc)
    | _ => (0, 0)) = (2, 0x1004) := by decide +kernel

/-- A store whose elements fault records them and goes on (R279). -/
theorem test_vst_records : (match exec (.vst 2 16 0)
      (withHart { hart0 with vstat := 0x003, vl := 2, x := [(16, 0x2FF8)], v := [(2, plain .i64 [7, 8])] }) with
    | .next t => (t.hart.sfrq.map fun r => (r.addr, r.elem.toNat, r.cause.toNat), t.hart.pc, readLE t.mem 0x2FF8 16)
    | _ => ([], 0, 0)) = ([(0x3000, 1, 5)], 0x1004, 7) := by decide +kernel

/-! ### Their hypotheses -/

theorem witness_VectorInteger :
    ((vecSt 0x002 4 ints).hart.fmt.isInt = true ∧ (vecSt 0x002 4 ints).hart.fmt.isI = true ∧
      ∀ m : BitVec 2, ∃ t x y o, (vecSt 0x002 4 ints).readsTwo t false 2 0 1 m x y o) ∧
    ((vecSt 0x006 1 [(0, plain .n32 [0xFFFFFFFF]), (1, plain .n32 [1])]).hart.fmt.isN = true ∧
      ∃ t x y o, (vecSt 0x006 1 [(0, plain .n32 [0xFFFFFFFF]), (1, plain .n32 [1])]).readsTwo t false 0 0 1 0 x y o) ∧
    (vecSt 0x00A 4 floats).hart.fmt.isInt = false ∧ (vecSt 0x00A 4 floats).hart.fmt.isI = false ∧
    (vecSt 0x00A 4 floats).hart.fmt.isN = false ∧ (vecSt 0x010 4 []).hart.fmt.isArith = false := by
  refine ⟨⟨by decide +kernel, by decide +kernel, ?_⟩, ⟨by decide +kernel, readsTwo_of rfl (by decide +kernel)⟩, by decide +kernel⟩
  intro m
  have : ∀ m : BitVec 2, (okb ((vecSt 0x002 4 ints).vecReady ([(vecSt 0x002 4 ints).hart.opRun (0 : Reg).toNat, (vecSt 0x002 4 ints).hart.opRun (1 : Reg).toNat] ++
        (if false || (vecSt 0x002 4 ints).hart.keeps m then [(vecSt 0x002 4 ints).hart.opRun (2 : Reg).toNat] else []))
        [(vecSt 0x002 4 ints).hart.gRun (2 : Reg).toNat] m.toNat) &&
      okb ((vecSt 0x002 4 ints).hart.operand (0 : Reg).toNat) && okb ((vecSt 0x002 4 ints).hart.operand (1 : Reg).toNat) &&
      okb ((vecSt 0x002 4 ints).hart.operand (2 : Reg).toNat)) = true := by decide +kernel
  exact readsTwo_of rfl (this m)

theorem witness_VectorFloating :
    ((vecSt 0x00A 4 floats).hart.fmt.isFlt = true ∧ (∃ t x y o, (vecSt 0x00A 4 floats).readsTwo t true 2 0 1 0 x y o) ∧
      (∃ t x y o, (vecSt 0x00A 4 floats).readsTwo t false 2 0 1 1 x y o) ∧ ∃ t x o, (vecSt 0x00A 4 floats).readsOne t 2 0 0 x o) ∧
    (vecSt 0x002 4 ints).hart.fmt.isFlt = false ∧ (vecSt 0x00B 4 []).hart.fmt = .f64 ∧
    (0 < 2 ∧ 3 % 2 ≠ 0 ∧ 2 * (3 % 2) = 2 ∧ 4 % 2 = 0) := by
  refine ⟨⟨by decide +kernel, readsTwo_of rfl (by decide +kernel), readsTwo_of rfl (by decide +kernel), readsOne_of rfl (by decide +kernel)⟩,
    by decide +kernel⟩

theorem witness_Predicates :
    ((vecSt 0x002 4 ints).hart.fmt.isArith = true ∧ ∃ t x y, (vecSt 0x002 4 ints).issues
        [(vecSt 0x002 4 ints).hart.opRun 0, (vecSt 0x002 4 ints).hart.opRun 1] [] 1 t ∧ t.hart.operand 0 = .ok x ∧ t.hart.operand 1 = .ok y) ∧
    (vecSt 0x010 4 []).hart.fmt.isArith = false ∧ 2048 < (vecSt 0x004 2049 []).hart.vl ∧ (vecSt 0x004 2048 []).hart.vl ≤ 2048 ∧
    (let h := (vecSt 0x002 4 ints).hart
     let hits := fun a : Nat => (h.chosen 1 h.vl).filter fun k => bitAt (h.pred a) k
     hits 2 = [] ∧ 0 ∈ hits 1 ∧ ∀ j ∈ hits 1, 0 ≤ j) ∧ 1 ≤ (3 : Reg).toNat ∧ (3 : Reg).toNat ≤ 3 := by
  refine ⟨⟨by decide +kernel, ?_⟩, by decide +kernel⟩
  obtain ⟨x, ex⟩ := okb_ok (e := (vecSt 0x002 4 ints).hart.operand 0) (by decide +kernel)
  obtain ⟨y, ey⟩ := okb_ok (e := (vecSt 0x002 4 ints).hart.operand 1) (by decide +kernel)
  exact ⟨_, x, y, issues_of rfl (by decide +kernel), ex, ey⟩

theorem reads_of {s : State} {reads writes : List VRun} {m n : Nat} (hs : s.hart.streams = [])
    (h : okb (s.vecReady reads writes m) = true) (e : okb (s.hart.operand n) = true) :
    ∃ t x, s.issues reads writes m t ∧ t.hart.operand n = .ok x ∧ t.hart.fmt = s.hart.fmt := by
  obtain ⟨x, ex⟩ := okb_ok e
  exact ⟨s, x, issues_of hs h, ex, rfl⟩

/-- Integers and floats; the stochastic mode (RM 5) and another; no element selected. -/
theorem witness_Reductions :
    (∃ t x, (vecSt 0x002 4 ints).issues [(vecSt 0x002 4 ints).hart.opRun 0] [] 1 t ∧ t.hart.operand 0 = .ok x ∧
      t.hart.fmt = (vecSt 0x002 4 ints).hart.fmt) ∧
    (∃ t x, (vecSt 0x500A 4 floats).issues [(vecSt 0x500A 4 floats).hart.opRun 0] [] 0 t ∧ t.hart.operand 0 = .ok x ∧
      t.hart.fmt = (vecSt 0x500A 4 floats).hart.fmt) ∧
    (vecSt 0x002 4 ints).hart.fmt.isInt = true ∧ (vecSt 0x500A 4 floats).hart.fmt.isFlt = true ∧
    (vecSt 0x500A 4 floats).hart.rm = .sto ∧ (vecSt 0x00A 4 floats).hart.rm ≠ .sto ∧ (vecSt 0x00A 0 floats).hart.chosen 0 0 = [] ∧
    (vecSt 0x002 4 ints).hart.fmt.isArith = true ∧ (vecSt 0x002 4 ints).hart.vl ≤ 2048 ∧
    (∃ t x, (vecSt 0x002 4 ints).issues [(vecSt 0x002 4 ints).hart.opRun 0] [(vecSt 0x002 4 ints).hart.gRun 2] 1 t ∧
      t.hart.operand 0 = .ok x ∧ t.hart.fmt = (vecSt 0x002 4 ints).hart.fmt) ∧
    (∃ t x o, (vecSt 0x002 4 ints).readsOne t 2 0 1 x o) ∧ ∃ t x o, (vecSt 0x00A 4 floats).readsOne t 2 0 0 x o :=
  ⟨reads_of rfl (by decide +kernel) (by decide +kernel), reads_of rfl (by decide +kernel) (by decide +kernel), by decide +kernel, by decide +kernel,
    by decide +kernel, by decide +kernel, by decide +kernel, by decide +kernel, by decide +kernel, reads_of rfl (by decide +kernel) (by decide +kernel),
    readsOne_of rfl (by decide +kernel), readsOne_of rfl (by decide +kernel)⟩

/-- A segment of one NaN alone. -/
theorem witness_Reductions_nan :
    (let s := vecSt 0x00A 1 [(0, plain .f32 [0x7FC00001])]
     s.hart.fmt.isFlt = true ∧ s.hart.vl ≤ 2048 ∧ s.hart.chosen 0 s.hart.vl = [0] ∧ s.hart.segment 0 0 = 0 ∧ 0 < s.hart.vl ∧
     s.issues [s.hart.opRun 0] [s.hart.gRun 2] 0 s ∧
     ∃ x, s.hart.operand 0 = .ok x ∧ (decodeVal .f32 (x.el 0)).isNan = true) := by
  refine ⟨by decide +kernel, by decide +kernel, by decide +kernel, by decide +kernel, by decide +kernel, issues_of rfl (by decide +kernel), ?_⟩
  obtain ⟨x, ex⟩ := okb_ok (e := (vecSt 0x00A 1 [(0, plain .f32 [0x7FC00001])]).hart.operand 0) (by decide +kernel)
  have h : (match (vecSt 0x00A 1 [(0, plain .f32 [0x7FC00001])]).hart.operand 0 with
    | .ok x => (decodeVal .f32 (x.el 0)).isNan
    | .error _ => false) = true := by decide +kernel
  rw [ex] at h
  exact ⟨x, ex, h⟩

/-- Slides by 0 and by more than VL among them: x(b) is 0 (x0), 4 (x18). -/
theorem witness_ElementMoves :
    (let s := vecSt 0x002 4 ints
     s.hart.fmt.isMove = true ∧ (s.rx 0).toNat = 0 ∧ (s.rx 18).toNat = s.hart.vl ∧
     (∃ x o, s.issues [s.hart.opRun 0, s.hart.opRun 2] [s.hart.gRun 2] 1 s ∧ s.hart.rawAt 0 = .ok x ∧ s.hart.operand 2 = .ok o) ∧
     (∃ x, s.issues [s.hart.opRun 0] [s.hart.gRun 2] 1 s ∧ s.hart.rawAt 0 = .ok x) ∧
     (∃ x ix o, s.issues [s.hart.opRun 0, s.hart.tagRun 4, s.hart.opRun 2] [s.hart.gRun 2] 1 s ∧ s.hart.rawAt 0 = .ok x ∧
       s.hart.tagged 4 Fmt.isIndex = .ok ix ∧ s.oldOf s false 2 1 o) ∧
     (∃ t v, s.issues [s.hart.ownRun 0] [s.hart.likeRun 3 0] 0 t ∧ t.hart.readRun (t.hart.ownRun 0) = .ok v ∧ v.enc = .plain ∧
       v.fmt.bits ≤ t.hart.fmt.bits) ∧
     (∃ t x o, s.readsOne t 2 0 1 x o) ∧ (∃ t o, s.readsNone t 2 1 o) ∧ (∃ t o, s.readsNone t 3 0 o) ∧ s.hart.fmt.isInt = true) ∧
    (0 < (4 : BitVec 7).toInt ∧ (vecSt 0x00A 4 floats).hart.fmt.isInt = false) := by
  refine ⟨⟨by decide +kernel, by decide +kernel, by decide +kernel, ?_, ?_, ?_, ?_, readsOne_of rfl (by decide +kernel),
    readsNone_of rfl (by decide +kernel), readsNone_of rfl (by decide +kernel), by decide +kernel⟩, by decide +kernel⟩
  · obtain ⟨x, ex⟩ := okb_ok (e := (vecSt 0x002 4 ints).hart.rawAt 0) (by decide +kernel)
    obtain ⟨o, eo⟩ := okb_ok (e := (vecSt 0x002 4 ints).hart.operand 2) (by decide +kernel)
    exact ⟨x, o, issues_of rfl (by decide +kernel), ex, eo⟩
  · obtain ⟨x, ex⟩ := okb_ok (e := (vecSt 0x002 4 ints).hart.rawAt 0) (by decide +kernel)
    exact ⟨x, issues_of rfl (by decide +kernel), ex⟩
  · obtain ⟨x, ex⟩ := okb_ok (e := (vecSt 0x002 4 ints).hart.rawAt 0) (by decide +kernel)
    obtain ⟨ix, ei⟩ := okb_ok (e := (vecSt 0x002 4 ints).hart.tagged 4 Fmt.isIndex) (by decide +kernel)
    obtain ⟨o, eo⟩ := oldOf_of (s := vecSt 0x002 4 ints) false 2 1 (by decide +kernel)
    exact ⟨x, ix, o, issues_of rfl (by decide +kernel), ex, ei, eo⟩
  · exact ⟨_, _, issues_of rfl (by decide +kernel), rfl, rfl, by decide⟩

/-- A register of untyped bytes, as an untyped XFERV leaves it. -/
def untyped0 : VReg := { plain .n8 [7, 8] with desc := { (plain .n8 [7, 8]).desc with untyped := true } }

theorem witness_ElementMoves_untyped :
    (let s := vecSt 0x000 2 [(0, untyped0)]
     s.issues [s.hart.ownRun 0] [s.hart.likeRun 3 0] 0 s ∧ s.issues [s.hart.ownRun 0] [] 0 s ∧
     ∃ v, s.hart.readAny (s.hart.ownRun 0) = .ok (v, true)) :=
  ⟨issues_of rfl (by decide +kernel), issues_of rfl (by decide +kernel), _, rfl⟩

/-- VCVT, VQUANT with an escape (I8) and without, VDEQUANT, and a conversion from I32 to F16 by RNE. -/
theorem witness_Conversions :
    (let s := vecSt 0x008 4 (ints ++ floats)
     (∃ t v o, s.issues (s.hart.tagRun 0 :: s.hart.convReads 2 0) [s.hart.gRun 2] 0 t ∧ t.hart.readRun (t.hart.tagRun 0) = .ok v ∧
       t.hart.convOld 2 0 = .ok o ∧ v.fmt = .i32)) ∧
    (let s := vecSt 0x000 4 (floats ++ [(3, plain .f32 [])])
     s.hart.fmt.isQuant = true ∧ ∃ t v o, s.issues (s.hart.tagRun 0 :: s.hart.convReads 4 0) (s.hart.quantWrites 4) 0 t ∧
       t.hart.readRun (t.hart.tagRun 0) = .ok v ∧ t.hart.convOld 4 0 = .ok o) ∧
    (let s := vecSt 0x00A 4 [(0, plain .i8 [1, 2, 0x80, 4]), (1, plain .f32 [0x3F800000])]
     s.hart.fmt = .f32 ∧ ∃ t v w o, s.issues (s.hart.tagRun 0 :: (if s.hart.dequantExtra 0 then [(0 + s.hart.g, s.hart.g)] else []) ++
         s.hart.convReads 4 0) [s.hart.gRun 4] 0 t ∧ t.hart.readRun (t.hart.tagRun 0) = .ok v ∧ v.fmt.isQuant = true ∧
       t.hart.convOld 4 0 = .ok o ∧ t.hart.extraGroup 0 = .ok w) ∧
    (let h := (vecSt 0x008 4 ints).hart
     h.fmt.isMx = false ∧ Fmt.i32.isMx = false ∧ Fmt.i32 ≠ h.fmt ∧ h.rm ≠ .sto ∧ h.rm ≠ .efb ∧ h.zeroOpd.elems.length = h.vl) ∧
    (let i : Int := (roundNat .rne 0 true 255 2).1
     let j : Int := (roundNat .rne 0 false 254 2).1
     ¬ (-127 ≤ -i) ∧ -127 ≤ j ∧ j ≤ Fmt.i8.intMax ∧ -128 ≤ -i ∧ Fmt.i8.isInt = true) := by
  refine ⟨?_, ⟨by decide +kernel, ?_⟩, ⟨by decide +kernel, ?_⟩, by decide +kernel, by decide +kernel⟩
  · obtain ⟨o, eo⟩ := okb_ok (e := (vecSt 0x008 4 (ints ++ floats)).hart.convOld 2 0) (by decide +kernel)
    exact ⟨_, _, o, issues_of rfl (by decide +kernel), rfl, eo, rfl⟩
  · obtain ⟨o, eo⟩ := okb_ok (e := (vecSt 0x000 4 (floats ++ [(3, plain .f32 [])])).hart.convOld 4 0) (by decide +kernel)
    exact ⟨_, _, o, issues_of rfl (by decide +kernel), rfl, eo⟩
  · obtain ⟨o, eo⟩ := okb_ok (e := (vecSt 0x00A 4 [(0, plain .i8 [1, 2, 0x80, 4]), (1, plain .f32 [0x3F800000])]).hart.convOld 4 0)
      (by decide +kernel)
    obtain ⟨w, ew⟩ := okb_ok (e := (vecSt 0x00A 4 [(0, plain .i8 [1, 2, 0x80, 4]), (1, plain .f32 [0x3F800000])]).hart.extraGroup 0)
      (by decide +kernel)
    exact ⟨_, _, w, o, issues_of rfl (by decide +kernel), rfl, rfl, eo, ew⟩

theorem witness_Encodings :
    (let s := vecSt 0x002 4 ints
     (∃ t v, s.issues [s.hart.ownRun 0] [s.hart.likeRun 4 0] 0 t ∧ t.hart.readRun (t.hart.ownRun 0) = .ok v ∧ v.enc = .plain ∧
       t.hart.fmt = s.hart.fmt ∧ v.fmt.bits ≤ t.hart.fmt.bits) ∧ okb (s.vecReady [(0, 1)] [] 0) = true ∧
     (let e := (s.hart.vreg (s.hart.wb.toNat + 0)).desc
      e.len < 2 ^ 13 ∧ e.cnt < 2 ^ 13 ∧ e.wid < 4 ∧ e.grec < 4)) ∧
    (vecSt 0x006 4 []).hart.fmt.isRunend = true ∧ (vecSt 0x006 0 []).hart.vl = 0 ∧
    ∃ t v, (vecSt 0x006 4 [(0, plain .n32 [5, 5, 6, 6])]).issues [(vecSt 0x006 4 [(0, plain .n32 [5, 5, 6, 6])]).hart.ownRun 0]
      [(vecSt 0x006 4 [(0, plain .n32 [5, 5, 6, 6])]).hart.gRun 4] 0 t ∧ t.hart.readRun (t.hart.ownRun 0) = .ok v ∧ v.enc = .plain := by
  refine ⟨⟨⟨_, _, issues_of rfl (by decide +kernel), rfl, rfl, rfl, by decide⟩, by decide +kernel, by decide +kernel⟩, by decide +kernel, rfl,
    ⟨_, _, issues_of rfl (by decide +kernel), rfl, rfl⟩⟩

/-- Integer lists; F32 keys, a tie and a NaN among them, with values of their width; formats that are not of the class. -/
theorem witness_ListInstructions :
    (let s := vecSt 0x002 4 [(0, plain .i32 [1, 3, 5, 7]), (2, plain .i32 [2, 3, 8, 9])]
     s.hart.fmt.isInt = true ∧ ∃ x y, s.issues [s.hart.opRun 0, s.hart.opRun 2] [s.hart.gRun 4] 1 s ∧ s.hart.rawAt 0 = .ok x ∧
       s.hart.rawAt 2 = .ok y ∧ (pickActive (s.hart.act 1) x).Pairwise (fun p q => s.hart.fmt.toInt p < s.hart.fmt.toInt q)) ∧
    (let s := vecSt 0x00A 4 [(0, plain .f32 [0x40000000, 0x7FC00000, 0x40000000, 0xBF800000]), (2, plain .i32 [2, 3, 8, 9])]
     s.hart.fmt.isArith = true ∧ s.hart.fmt.isInt = false ∧
     (∃ x v, s.issues [s.hart.opRun 0, s.hart.gRun 2] [s.hart.gRun 4, (4 + s.hart.g, s.hart.g)] 1 s ∧ s.hart.operand 0 = .ok x ∧
       s.hart.readRun (s.hart.gRun 2) = .ok v ∧ v.fmt.bits = s.hart.fmt.bits ∧ v.fmt.isMx = false) ∧
     ∃ x, s.issues [s.hart.opRun 0] [s.hart.gRun 4, (4 + s.hart.g, s.hart.g)] 0 s ∧ s.hart.operand 0 = .ok x) ∧
    (vecSt 0x010 4 []).hart.fmt.isArith = false := by
  obtain ⟨x, ex⟩ := okb_ok (e := (vecSt 0x00A 4 [(0, plain .f32 [0x40000000, 0x7FC00000, 0x40000000, 0xBF800000]),
    (2, plain .i32 [2, 3, 8, 9])]).hart.operand 0) (by decide +kernel)
  refine ⟨⟨by decide +kernel, [1, 3, 5, 7], [2, 3, 8, 9], issues_of rfl (by decide +kernel), by rfl, by rfl, by decide +kernel⟩,
    ⟨by decide +kernel, by decide +kernel, ⟨x, _, issues_of rfl (by decide +kernel), ex, rfl, rfl, rfl⟩,
    ⟨x, issues_of rfl (by decide +kernel), ex⟩⟩, by decide +kernel⟩

/-! ### Vector accesses -/

/-- A machine whose x16 is an address, under I64 with VL 3. -/
def memSt (base : Word) (v : List (Nat × VReg)) : State :=
  withHart { hart0 with vstat := 0x003, vl := 3, x := [(5, 8), (16, base)], v := v, mkbind := 1, p := [(1, 0b111)] }

/-- A unit-stride request of I64 elements on untyped pages. -/
def unitReq (base : Word) (ff : Bool) : LoadReq :=
  { unit := true, ff := ff, base := base, src := .i64, tag := .i64, vas := (List.range 3).map fun k => [base.toNat + 8 * k] }

/-- Unit-stride loads: without a fault, with one at element 2, and with one at element 0, plain and fault-first. -/
theorem witness_VectorLoads_unit :
    (let s := memSt 0x2FE8 [(2, plain .i64 [1, 2, 3])]
     s.issues [s.hart.oldRun 2] [s.hart.gRun 2] 1 s ∧ s.issues [] [s.hart.gRun 2] 0 s ∧ s.hart.keeps 1 = true ∧
     (unitReq 0x2FE8 false).src = pageFmt (s.sampled s.hart 0x2FE8) s.hart.fmt ∧
     (unitReq 0x2FE8 false).vas = ((List.range s.hart.vl).map fun k => [unitAddr (s.sampled s.hart 0x2FE8) .i64 0x2FE8 k])) ∧
    (∃ old R, (memSt 0x2FE8 []).loadReads (unitReq 0x2FE8 false) 2 0 old R none) ∧
    (∃ old R k va f, (memSt 0x2FF0 []).loadReads (unitReq 0x2FF0 false) 2 0 old R (some (k, va, f)) ∧ k ≠ 0) ∧
    (∃ old R va f, (memSt 0x3000 []).loadReads (unitReq 0x3000 false) 2 0 old R (some (0, va, f))) ∧
    ∃ old R va f, (memSt 0x9000 []).loadReads (unitReq 0x9000 true) 2 0 old R (some (0, va, f)) := by
  refine ⟨⟨issues_of rfl (by decide +kernel), issues_of rfl (by decide +kernel), by decide +kernel, by decide +kernel, by decide +kernel⟩,
    ⟨none, [some [0], some [0], some [0]], ?_⟩, ⟨none, [some [0], some [0]], 2, 0x3000, .perm, ?_, by decide⟩,
    ⟨none, [], 0x3000, .perm, ?_⟩, ⟨none, [], 0x9000, .unmapped, ?_⟩⟩
  all_goals exact ⟨by decide +kernel, rfl, by decide +kernel, by decide +kernel, by decide +kernel⟩

/-- Strided, indexed and record requests: their addresses, with and without an active element. -/
theorem witness_VectorLoads_far :
    (let s := memSt 0x2000 [(1, plain .i64 [0, 16, 8])]
     s.issues [s.hart.tagRun 1] [s.hart.gRun 2] 0 s ∧ s.issues [] [s.hart.gRun 2] 0 s ∧
     (∃ ix, s.hart.tagged 1 Fmt.isIndex = .ok ix ∧ (fitLen s.hart.vl ix.elems).map ix.fmt.toInt = [0, 16, 8]) ∧
     firstActive (s.hart.act 0) = some 0 ∧ pageFmt (s.sampled s.hart 0x2000) s.hart.fmt = .i64 ∧ s.hart.feat 4 = true ∧
     s.issues [] ((List.range 8).map fun f => (8 + f * s.hart.g, s.hart.g)) 0 s ∧ s.hart.vl ≠ 0) ∧
    firstActive ((withHart { hart0 with vl := 0 }).hart.act 0) = none ∧ (withHart { hart0 with featmask := 0x10 }).hart.feat 4 = false := by
  refine ⟨⟨issues_of rfl (by decide +kernel), issues_of rfl (by decide +kernel), ⟨_, rfl, by decide +kernel⟩, by decide +kernel,
    by decide +kernel, by decide +kernel, issues_of rfl (by decide +kernel), by decide +kernel⟩, by decide +kernel⟩

theorem witness_VectorLoads_rows :
    (let r := (memSt 0x2000 []).loadRows (unitReq 0x2000 false) false [(true, [0x2000]), (false, [0x9000])] 0
     r.2 = none ∧ 1 < r.1.length ∧ [(true, [0x2000]), (false, [0x9000])][1]? = some (false, [0x9000])) ∧
    ∃ v, (memSt 0 [(1, plain .i64 [0, 16, 8])]).issues [(memSt 0 [(1, plain .i64 [0, 16, 8])]).hart.tagRun 1] [] 0
        (memSt 0 [(1, plain .i64 [0, 16, 8])]) ∧
      (memSt 0 [(1, plain .i64 [0, 16, 8])]).hart.readRun ((memSt 0 [(1, plain .i64 [0, 16, 8])]).hart.tagRun 1) = .ok v :=
  ⟨by decide +kernel, _, issues_of rfl (by decide +kernel), rfl⟩

/-- VPREF by an integer index register and by a float one. -/
theorem witness_VectorLoads_prefetch :
    (let idle : Hart → Bool := fun g =>
       let e := (g.vreg (g.wb.toNat + 1)).desc
       (e.untyped || !e.fmt.isIndex) && !g.bound (g.tagRun 1)
     idle (memSt 0 [(1, plain .i64 [0, 16, 8])]).hart = false ∧ idle (memSt 0 [(1, plain .f64 [0, 0, 0])]).hart = true ∧
       (memSt 0 [(1, plain .f64 [0, 0, 0])]).hart.maskOk 0 = true) := by decide +kernel

/-- The machine of the stores: values in v2, offsets in v1, links on the line of 0x2000. -/
def storeSt : State :=
  withHart { hart0 with vstat := 0x003, vl := 3, x := [(5, 8), (16, 0x2000)],
                        v := [(1, plain .i64 [0, 16, 0]), (2, plain .i64 [7, 8, 9]), (3, plain .i64 [7, 8, 9])], links := [0x80] }

theorem witness_VectorStores :
    (∃ v es, storeSt.hart.readRun (storeSt.hart.ownRun 2) = .ok v ∧ storeSt.issues [storeSt.hart.ownRun 2] [] 0 storeSt ∧
      storeSt.storeCheck ⟨true, storeSt.rx 16, (List.range storeSt.hart.vl).map (unitAddr (storeSt.xlat storeSt.hart (storeSt.rx 16).toNat) v.fmt
        (storeSt.rx 16))⟩ v 0 = .ok es) ∧
    (∃ v ix es, storeSt.hart.readRun (storeSt.hart.ownRun 2) = .ok v ∧
      storeSt.issues [storeSt.hart.ownRun 2, storeSt.hart.tagRun 1] [] 0 storeSt ∧ storeSt.hart.tagged 1 Fmt.isIndex = .ok ix ∧
      storeSt.storeCheck ⟨false, storeSt.rx 16, ((fitLen storeSt.hart.vl ix.elems).map ix.fmt.toInt).map fun o =>
        (storeSt.rx 16 + BitVec.ofInt 64 o).toNat⟩ v 0 = .ok es) ∧
    (let es : List SElem := [⟨0, 0x2000, 7⟩, ⟨1, 0x2010, 8⟩, ⟨2, 0x2000, 9⟩]
     (∀ e ∈ es, storeSt.onEncoded e = false) ∧ (∀ e ∈ es, storeSt.storeFault 8 e.va = none) ∧ Fmt.i64.isMx = false ∧ Fmt.i64.bits ≠ 4 ∧
     es = [⟨0, 0x2000, 7⟩] ++ ⟨1, 0x2010, 8⟩ :: [⟨2, 0x2000, 9⟩] ∧
     (∀ g ∈ [(⟨2, 0x2000, 9⟩ : SElem)], storeSt.physOf g.va + 8 ≤ storeSt.physOf 0x2010) ∧
     storeSt.scWins es ⟨0, 0x2000, 7⟩ = true ∧ storeSt.scWins es ⟨2, 0x2000, 9⟩ = false) ∧
    storeSt.storeFault 8 0x3000 = some .perm := by
  refine ⟨⟨_, _, rfl, issues_of rfl (by decide +kernel), rfl⟩, ⟨_, _, _, rfl, issues_of rfl (by decide +kernel), rfl, rfl⟩,
    by decide +kernel, by decide +kernel⟩

/-- VAMOADD of 7 and 9 on one doubleword: the second element sees the sum of the first (R208, R385). -/
theorem test_vamoadd_order : (match exec (.vamoadd 2 16 1 0) storeSt with
    | .next t => (match t.hart.operand 2 with
        | .ok o => (o.elems, readLE t.mem 0x2000 8)
        | .error _ => ([], 0))
    | _ => ([], 0)) = ([0x9000000000000080, 0, 0x9000000000000087], 0x9000000000000090) := by decide +kernel

theorem witness_VectorAtomics :
    (∃ v w ix es, okb (storeSt.vecReady [] [storeSt.hart.gRun 2] 0) = true ∧ storeSt.hart.readRun (storeSt.hart.ownRun 2) = .ok v ∧
      storeSt.hart.tagged 1 Fmt.isIndex = .ok ix ∧
      storeSt.storeCheck ⟨false, storeSt.rx 16, ((fitLen storeSt.hart.vl ix.elems).map ix.fmt.toInt).map fun o =>
        (storeSt.rx 16 + BitVec.ofInt 64 o).toNat⟩ v 0 = .ok es ∧ v.fmt.isWord = true ∧ v.fmt.isWide = true ∧
      storeSt.hart.readRun (2 + storeSt.hart.g, storeSt.hart.g) = .ok w ∧ w.fmt = v.fmt ∧
      storeSt.issues [storeSt.hart.ownRun 2, storeSt.hart.tagRun 1] [] 0 storeSt ∧
      storeSt.issues [storeSt.hart.ownRun 2, (2 + storeSt.hart.g, storeSt.hart.g), storeSt.hart.tagRun 1] [] 0 storeSt) ∧
    Fmt.f64.isWideFlt = true ∧ storeSt.storeFault 8 0x2000 = none ∧
    storeSt.forLoad (storeSt.xlat storeSt.hart 0x2000) = .ok (xlatAt 0x2000 rw) ∧ storeSt.poisoned ((xlatAt 0x2000 rw).addr 0x2000) = false := by
  refine ⟨⟨_, _, _, _, by decide +kernel, rfl, rfl, rfl, rfl, rfl, rfl, rfl, issues_of rfl (by decide +kernel),
    issues_of rfl (by decide +kernel)⟩, by decide, by decide +kernel, rfl, by decide +kernel⟩

/-- STRON's operands at their bounds, and a bound stream, its pop and its refill. -/
def streamSt (st : Stream) : State :=
  { withHart { hart0 with vstat := 0x003, vl := 3, x := [(16, 0x2000), (17, 8), (18, 2 ^ 32 - 1)], streams := [(2, some st)] } with
    inp := { n := 1, m := 2 } }

/-- Two elements of I64 at 0x2000 for v8. -/
def stream0 : Stream := { base := 0x2000, stride := 8, count := 2, consumed := 0, fmt := .i64, reg := 8, g := 0 }

theorem witness_Streams :
    (let s := streamSt stream0
     let free : Hart := { s.hart with streams := mset none s.hart.streams 2 none }
     (16 : Reg).toNat ≤ 125 ∧ s.hart.fmt.bits ≠ 4 ∧ (s.rx 18).toNat < 2 ^ 32 ∧ s.hart.fmt.isMx = false ∧ free.bound (s.hart.gRun 8) = false ∧
       okb (s.vecReady [s.hart.gRun 8] [] 0) = true ∧ s.hart.id = s.inp.n ∧ s.hart.run = .running ∧
       mget none s.hart.streams s.inp.m = some stream0) ∧
    2 ^ 32 ≤ (2 ^ 32 : Word).toNat ∧ (vecSt 0x00F 4 []).hart.fmt.bits = 4 ∧ (vecSt 0x010 4 []).hart.fmt.isMx = true ∧
    (streamSt stream0).hart.bound (8, 1) = true ∧
    (∃ t e, (streamSt stream0).popAll [(8, 1)] = (t, e)) ∧
    ((streamSt stream0).pop 2 stream0).2.isSome = false ∧
    ((streamSt { stream0 with base := 0x9000 }).pop 2 { stream0 with base := 0x9000 }).2.isSome = true :=
  ⟨by decide +kernel, by decide +kernel, by decide +kernel, by decide +kernel, by decide +kernel, ⟨_, _, rfl⟩, by decide +kernel, by decide +kernel⟩

/-! ### Synchronisation -/

theorem witness_FlagsAndSignals :
    (st.drained st.hart 4 = true ∧ st.storeFits (st.rx 16).toNat 8 (xlatAt 0x2000 rw) ∧ st.rx 16 ≠ 0 ∧ st.rx 0 = 0 ∧
      st.poisoned ((xlatAt 0x2000 rw).addr (st.rx 16).toNat) = false) ∧
    (∃ v, st.loadFits (st.rx 16).toNat 8 (xlatAt 0x2000 rw) v ∧ (st.rx 18).toNat ≤ v) ∧
    ((withHart { hart0 with x := [(16, 0x2000), (18, BitVec.allOnes 64)] }).rx 18).toNat > 0x9000000000000080 := by
  refine ⟨by unfold State.storeFits; decide +kernel, ⟨_, ⟨by decide +kernel, by decide +kernel, by decide +kernel, by decide +kernel,
    by decide +kernel, rfl⟩, by decide +kernel⟩, by decide +kernel⟩

/-- A posted object of 64 bytes of which 32 have arrived. -/
def bar0 : BarObj := ⟨64 + 2 ^ 63, 32⟩

/-- The machine with it at 0x2000. -/
def barSt : State := { st with mem := putCells st.mem (cellsLE 0x2000 16 bar0.toNat) }

theorem witness_Barriers :
    (barSt.drained barSt.hart 1 = true ∧ barSt.storeFits (barSt.rx 16).toNat 16 (xlatAt 0x2000 rw) ∧
      barSt.poisoned ((xlatAt 0x2000 rw).addr (barSt.rx 16).toNat) = false) ∧
    (∃ v, barSt.loadFits (barSt.rx 16).toNat 16 (xlatAt 0x2000 rw) v ∧ (BarObj.ofNat v).sound = true ∧ v / 2 ^ 124 % 16 = 0) ∧
    (let o : BarObj := ⟨64 + 2 ^ 63, 64 + 2 ^ 60⟩
     o.toNat / 2 ^ 124 % 16 ≠ 0 ∧ o.sound = true) ∧
    (bar0.sound = true ∧ bar0.posted = true ∧ (⟨0, 0⟩ : BarObj).posted = false ∧ (⟨0, 0⟩ : BarObj).sound = true ∧
      (⟨2 ^ 48, 0⟩ : BarObj).sound = false) ∧
    (st.hart.quiet ∧ st.drained st.hart 0 = true ∧ st.phaseDone 15 = true ∧ (15 : BitVec 4).toNat ≠ 0) ∧
    ({ withHart { hart0 with arrivals := [(3, 1)] } with others := [{ hart0 with id := 2, crewrank := 1 }] } : State).phaseDone 3 = false := by
  refine ⟨by unfold State.storeFits; decide +kernel, ⟨_, ⟨by decide +kernel, by decide +kernel, by decide +kernel, by decide +kernel,
    by decide +kernel, rfl⟩, by decide +kernel, by decide +kernel⟩, by decide +kernel, by decide +kernel,
    by unfold Hart.quiet; decide +kernel, by decide +kernel⟩

/-- BCARRIVE of the missing bytes completes the object (R223): STATUS 1. -/
theorem test_bcarrive : (bar0.arrive 32).status = 1 ∧ (bar0.arrive 33).status = 2 ∧ (bar0.arrive 31).status = 0 := by decide +kernel

/-! ### A key-value window: page 3 PROMPT, page 4 GEN; a flag, a page list and a block table -/

/-- The machine of the token and hand-over instructions. -/
def kvSt : State :=
  { withHart { hart0 with vstat := 0x007, vl := 2, x := [(16, 0x2000), (17, 0x2100), (18, 0x2200), (19, 1)],
                          v := [(1, plain .n32 [17, 31]), (2, plain .n64 [0x2000, 0x2200]), (3, plain .n64 [0, 0])] } with
    apps := [(0, { app0 with kvwin := 0x10000000, kv := [(3, ⟨1, 0x80000⟩), (4, ⟨2, 0x90000⟩)] })],
    mem := [(0x2000, 1), (0x2100, 1), (0x2108, 3), (0x2200, 2), (0x2205, 1), (0x2214, 3)] }

theorem witness_TokensAndHandoff_translation :
    (let s := kvSt
     s.hart.feat 7 = true ∧ s.hart.fmt = .n64 ∧ (∃ v o, s.issues [s.hart.tagRun 1] [s.hart.gRun 3] 0 s ∧
       s.hart.tagged 1 (fun f => decide (f = .n32)) = .ok v ∧ s.oldOf s false 3 0 o ∧
       (∃ u, s.transGo false 3 18 0 v o.elems = .ok u) ∧ ∃ u, s.transGo true 3 18 0 v o.elems = .ok u)) := by
  refine ⟨by decide +kernel, by decide +kernel, _, kvSt.hart.zeroOpd, issues_of rfl (by decide +kernel), rfl, rfl, ?_, ?_⟩
  · exact okb_ok (by decide +kernel)
  · exact okb_ok (by decide +kernel)

theorem witness_TokensAndHandoff_table :
    (let s := kvSt
     let h := s.hart
     let tab := (s.rx 18).toNat
     let toks := [17, 31]
     let ps := [3, 3]
     s.transfers = [] ∧ s.readField tab 16 = .ok (2 + 256 * 2 ^ 32) ∧ 64 ≤ 256 ∧ 256 ≤ 4096 ∧ 256 % 64 = 0 ∧ ps.length = h.vl ∧
     ∀ k < h.vl, let tk := toks.getD k 0
      h.wfloor.toNat ≤ tk ∧ tk / 16 < 2 ∧ s.readField ((tab + 16 + 4 * (tk / 16)) % 2 ^ 64) 4 = .ok (ps.getD k 0) ∧
      ps.getD k 0 ≠ 0xFFFFFFFF ∧ (mget {} (s.app h.app).kv (ps.getD k 0)).owner ≠ 0) := by decide +kernel

theorem witness_TokensAndHandoff_completes :
    (let s := kvSt
     s.hart.feat 7 = true ∧ s.hart.fmt = .n64 ∧ s.issues [s.hart.tagRun 1] [s.hart.gRun 3] 0 s ∧
     ∃ v, s.hart.tagged 1 (fun f => decide (f = .n32)) = .ok v ∧ ∀ k < 2, s.hart.wfloor.toNat ≤ v.elems.getD k 0 ∧
       v.elems.getD k 0 / 16 < 2 ∧ s.readField ((0x2200 + 16 + 4 * (v.elems.getD k 0 / 16)) % 2 ^ 64) 4 = .ok 3) := by
  exact ⟨by decide +kernel, by decide +kernel, issues_of rfl (by decide +kernel), _, rfl, by decide +kernel⟩

theorem witness_TokensAndHandoff_lists :
    (let s := kvSt
     let x := xlatAt 0x2000 rw
     (s.rx 16).toNat % 8 = 0 ∧ s.hart.core < 160 ∧ s.forStore (s.xlat s.hart (s.rx 16).toNat) = .ok x ∧ x.encoded = false ∧
     x.closed = false ∧ s.readNow (s.rx 17).toNat 8 = .ok 1 ∧ s.readNow (((s.rx 17).toNat + 8 + 4 * 0) % 2 ^ 64) 4 = .ok 3 ∧
     (mget ({} : KvPage) (s.app s.hart.app).kv 3).owner = 1) :=
  ⟨by decide +kernel, by decide +kernel, rfl, rfl, rfl, rfl, rfl, rfl⟩

theorem witness_TokensAndHandoff_wait :
    (let s := kvSt
     (∃ v, s.issues [s.hart.tagRun 2] [] 0 s ∧ s.hart.tagged 2 (fun f => decide (f = .n64)) = .ok v ∧
       (∀ k < s.hart.vl, s.ritHit s.hart (v.elems.getD k 0) (v.elems.getD k 0 + 8) = false) ∧ s.hart.wtmo = 0 ∧
       ∀ k < s.hart.vl, s.waitMet (s.rx 19).toNat (v.elems.getD k 0) = true) ∧
     s.hart.quiet ∧ s.hart.feat 7 = true ∧ s.handChecks (s.rx 16) (s.rx 17) = .ok (xlatAt 0x2000 rw, [3]) ∧
     (xlatAt 0x2000 rw).closed = false ∧ s.transfers = []) := by
  refine ⟨⟨_, issues_of rfl (by decide +kernel), rfl, by decide +kernel, rfl, by decide +kernel⟩, by unfold Hart.quiet; decide +kernel,
    by decide +kernel, rfl, rfl, rfl⟩

/-- HANDOFF makes the listed page GEN and writes the flag (R219, R270). -/
theorem test_handoff : (match exec (.handoff 19 16 17) kvSt with
    | .next t => ((mget {} (t.app 0).kv 3).owner.toNat, readLE t.mem 0x2000 8, t.hart.pc)
    | _ => (0, 0, 0)) = (2, 1, 0x1004) := by decide +kernel

/-- VTRANS of tokens 17 and 31 through block 1, page 3, rows of 256 bytes (R271, R272). -/
theorem test_vtrans : (match exec (.vtrans 3 1 18 0) kvSt with
    | .next t => (match t.hart.operand 3 with
        | .ok o => (o.elems, t.hart.pred 0)
        | .error _ => ([], 0))
    | _ => ([], 0)) = ([0x10030100, 0x10030F00], 3) := by decide +kernel

/-- A record. -/
def compl0 : ComplRec := recWords 0 0 2 0 5 64 0 0

/-- A waiting hart: the completing event runs its instruction again, where the condition holds and where it does not. -/
def waitSt (i : Instr) : State := { withHart { hart0 with wait := some ⟨i, 0, false⟩ } with inp := { n := 1 } }

theorem witness_WaitsComplete :
    (let s := waitSt (.flagacq 18 16 3)
     s.hart.id = s.inp.n ∧ s.hart.run = .running ∧ s.hart.wait = some ⟨.flagacq 18 16 3, 0, false⟩ ∧
       ∃ n, s.loadFits (s.rx 16).toNat 8 (xlatAt 0x2000 rw) n ∧ (s.rx 18).toNat ≤ n) ∧
    (waitSt (.barwait 3)).phaseDone 3 = true ∧
    (let s := { waitSt (.bcwait 18 16 3) with mem := [(0x200F, 0x10)] }
     ∃ n, s.loadFits (s.rx 16).toNat 16 (xlatAt 0x2000 rw) n ∧ n / 2 ^ 124 % 16 ≠ 0) ∧
    (waitSt (.fredwait 5 16)).hart.feat 5 = true ∧ (waitSt (.fredwait 5 16)).contributing 0x2000 = false ∧ (∀ r ∈ (waitSt (.fredwait 5 16)).rounds, r.num ≠ 0) ∧
    ((waitSt (.xwait 16 1)).hart.queue 1).reserved ≤ ((waitSt (.xwait 16 1)).hart.queue 1).taken ∧
    (waitSt (.wfe 5 16)).hart.wake = false ∧ (waitSt (.wfe 5 16)).rx 16 ≠ 0 ∧
    0 + ((waitSt (.wfe 5 16)).rx 16).toNat ≤ ({ waitSt (.wfe 5 16) with clk := 0x2000 } : State).clk ∧ (waitSt (.fence 4)).hart.quiet ∧
    (waitSt (.fence 4)).drained (waitSt (.fence 4)).hart 4 = true ∧
    (waitSt (.flagrel 18 16 3)).storeFits 0x2000 8 (xlatAt 0x2000 rw) ∧ (waitSt (.signal 18 0 3)).rx 0 = 0 ∧
    (waitSt .exit).hart.hact = false ∧ (waitSt .exit).hart.sfrq = [] ∧
    (∀ h ∈ st.hart :: st.others, h.id = st.inp.n → h.run = .running → h.wait = none) := by
  refine ⟨⟨rfl, rfl, rfl, ⟨_, ⟨by decide +kernel, by decide +kernel, by decide +kernel, by decide +kernel, by decide +kernel, rfl⟩,
    by decide +kernel⟩⟩, by decide +kernel, ⟨_, ⟨by decide +kernel, by decide +kernel, by decide +kernel, by decide +kernel,
    by decide +kernel, rfl⟩, by decide +kernel⟩, ?_⟩
  unfold Hart.quiet State.storeFits; decide +kernel

/-- FREDWAIT of a round that has performed, XWAIT of a posted record, and the releases that write memory. -/
theorem witness_WaitsComplete_memory :
    (let s := { waitSt (.fredwait 5 16) with rounds := [{ num := 0, app := 0, win := 0, off := 0, op := 0, tag := .i64, vals := [], pkgs := [],
                                                          status := 1 }] }
     (s.rounds.find? (fun r => decide (r.num = mget 0 s.hart.fredRounds (s.rx 16).toNat))).map Round.status = some 1) ∧
    (let q := ({ (waitSt (.xwait 16 1)).hart with queues := [(1, { reserved := 1, posted := 1, recs := [(0, some compl0)] })] } : Hart).queue 1
     q.taken < q.reserved ∧ mget none q.recs q.taken = some compl0) ∧
    (let s := waitSt (.signal 18 16 3)
     s.rx 16 ≠ 0 ∧ s.storeFits (s.rx 16).toNat 8 (xlatAt 0x2000 rw) ∧ s.poisoned ((xlatAt 0x2000 rw).addr (s.rx 16).toNat) = false) ∧
    (let s := waitSt (.bcpost 18 16 3)
     s.drained s.hart (3 : BitVec 3).toNat = true ∧ s.storeFits (s.rx 16).toNat 16 (xlatAt 0x2000 rw) ∧
       s.poisoned ((xlatAt 0x2000 rw).addr (s.rx 16).toNat) = false) ∧
    (waitSt (.bcarrive 18 16 3)).storeFits 0x2000 16 (xlatAt 0x2000 rw) := by
  unfold State.storeFits; decide +kernel

/-- The same for HANDOFF, VST and VWAIT. -/
theorem witness_WaitsComplete_vector :
    (let s := { kvSt with hart := { kvSt.hart with wait := some ⟨.handoff 19 16 17, 0, false⟩ }, inp := { n := 1 } }
     s.hart.id = s.inp.n ∧ s.hart.run = .running ∧ s.hart.quiet ∧ s.transfers = [] ∧
       s.handChecks (s.rx 16) (s.rx 17) = .ok (xlatAt 0x2000 rw, [3])) ∧
    (let s := { storeSt with hart := { storeSt.hart with wait := some ⟨.vst 2 16 0, 0, false⟩ }, inp := { n := 1 } }
     s.hart.wait = some ⟨.vst 2 16 0, 0, false⟩ ∧ ∃ v es, s.issues [s.hart.ownRun 2] [] 0 s ∧ s.hart.readRun (s.hart.ownRun 2) = .ok v ∧
       s.storeCheck ⟨true, s.rx 16, (List.range s.hart.vl).map (unitAddr (s.xlat s.hart (s.rx 16).toNat) v.fmt (s.rx 16))⟩ v 0 = .ok es) ∧
    (let s := { kvSt with hart := { kvSt.hart with wait := some ⟨.vwait 2 19 3, 0, true⟩ }, inp := { n := 1 } }
     s.hart.wait = some ⟨.vwait 2 19 3, 0, true⟩ ∧ 0 + s.hart.wtmo.toNat ≤ s.clk ∧ ∃ v, s.issues [s.hart.tagRun 2] [] 0 s ∧
       s.hart.tagged 2 (fun f => decide (f = .n64)) = .ok v ∧
       (∀ k < s.hart.vl, s.ritHit s.hart (v.elems.getD k 0) (v.elems.getD k 0 + 8) = false) ∧
       ∀ k < s.hart.vl, s.waitMet (s.rx 19).toNat (v.elems.getD k 0) = true) := by
  refine ⟨⟨rfl, rfl, Or.inl rfl, rfl, rfl⟩, ⟨rfl, _, _, issues_of rfl (by decide +kernel), rfl, rfl⟩,
    ⟨rfl, by decide +kernel, _, issues_of rfl (by decide +kernel), rfl, by decide +kernel, by decide +kernel⟩⟩

/-! ### The decode chain -/

/-- VL 2 of F32: one key at 0x2000 in v4, the query in v6, empty state registers v0 to v2. -/
def chainSt : State :=
  withHart { hart0 with vstat := 0x00A, vl := 2, v := [(4, plain .n64 [0x2000]), (6, plain .f32 [0x3F800000, 0])] }

theorem witness_DecodeChain :
    (let s := chainSt
     let h := s.hart
     h.feat 3 = true ∧ h.fmt = .f32 ∧ h.g = 1 ∧ h.vl % 2 = 0 ∧ h.headd = 0 ∧
     s.issues [(4, 1), h.opRun 6] [(0, 1), (1, 1), (2, 1)] 0 s ∧
     (s.ritHit h 0x2000 (0x2000 + 2 * h.vl * (s.rowFmt 0x2000).bytes) = false ∧
       okb (s.rowElems (s.rowFmt 0x2000) 0x2000 (2 * h.vl)) = true) ∧
     ∃ keys q o mx l u, h.readRun (4, 1) = .ok keys ∧ keys.elems = [0x2000] ∧ keys.fmt = .n64 ∧ h.operand 6 = .ok q ∧
       h.chainReg 0 (.fin false 0 1) h.vl = .ok o ∧ h.chainReg 1 (.inf true) 1 = .ok mx ∧ h.chainReg 2 (.fin false 0 1) 1 = .ok l ∧
       s.chainGo 0 0 2 keys (q.elems.map (decodeVal .f32)) o mx l = .ok u) ∧
    (let s := vecSt 0x00A 2 [(0, plain .f32 [0, 0]), (2, plain .f32 [0x3F800000])]
     let g := s.hart
     g.feat 3 = true ∧ s.issues [(2, 1)] [(0, 1)] 0 s ∧ ∃ o l, g.readGroup (g.wb.toNat + 0) 1 1 = .ok o ∧
       g.readGroup (g.wb.toNat + 2) 1 1 = .ok l ∧ o.fmt = .f32 ∧ l.fmt = .f32) := by
  refine ⟨⟨by decide +kernel, by decide +kernel, by decide +kernel, by decide +kernel, rfl, issues_of rfl (by decide +kernel),
    by decide +kernel, ?_⟩, by decide +kernel, issues_of rfl (by decide +kernel), _, _, rfl, rfl, rfl, rfl⟩
  obtain ⟨q, hq⟩ := okb_ok (e := chainSt.hart.operand 6) (by decide +kernel)
  obtain ⟨u, hu⟩ := okb_ok (e := chainSt.chainGo 0 0 2 (plainVec .n64 [0x2000]) ((match chainSt.hart.operand 6 with
    | .ok q => q
    | .error _ => chainSt.hart.zeroOpd).elems.map (decodeVal .f32)) (List.replicate 2 (.fin false 0 1)) [.inf true] [.fin false 0 1])
    (by decide +kernel)
  rw [hq] at hu
  exact ⟨plainVec .n64 [0x2000], q, List.replicate 2 (.fin false 0 1), [.inf true], [.fin false 0 1], u, rfl, rfl, rfl, hq, rfl, rfl, rfl, hu⟩

/-! ### Transfers -/

/-- Control word in x5, length in x6: an untyped-page copy of I8 to I8 of 64 bytes without a record. -/
def xferSt (c n : Word) : State :=
  withHart { hart0 with x := [(5, c), (6, n), (16, 0x2000), (17, 0x2800), (18, 0)], v := [(8, plain .f32 [1, 2])] }

theorem witness_TransfersEnter_memory :
    (let s := xferSt 0x80104 64
     ctlBad s.hart 2 0x80104 64 = false ∧ (0x80104 : Word).getLsbD 19 = true ∧
     (∀ r ∈ ritRange .n8 0x2000 64 ++ ritRange .n8 0x2800 64, s.ritHit s.hart r.1 r.2 = false) ∧
     s.ritUsed s.hart + 2 ≤ 64 / s.hart.cut) ∧
    (let s := xferSt 0x0000A 64
     ctlBad s.hart 6 0x0000A 64 = false ∧ (0x0000A : Word).getLsbD 19 = false ∧
     (s.hart.queue (ctlQueue 0x0000A)).reserved < (s.hart.queue (ctlQueue 0x0000A)).taken + 64) ∧
    (let s := xferSt 0x00001 0x1000
     tierBad s.hart 0x00001 0x2000 0x1000 = false) ∧ (2 ^ 48 : Word).toNat / 2 ^ 48 ≠ 0 := by decide +kernel

theorem witness_TransfersEnter_registers :
    (let s := xferSt 0x802CA 8
     (∃ p, ctlBad s.hart 3 0x8028A 8 = false ∧ s.issues (s.hart.permRun 0x8028A) (ctlRuns 0x8028A 4) 0 s ∧ s.hart.permOf 0x8028A = .ok p) ∧
     (∃ p, ctlBad s.hart 4 0x8028A 8 = false ∧ s.issues (ctlRuns 0x8028A 8 ++ s.hart.permRun 0x8028A) [] 0 s ∧
       s.hart.permOf 0x8028A = .ok p ∧ s.hart.srcTags 0x8028A (ctlRuns 0x8028A 8) = .ok ()) ∧
     (let c : Word := 0x80FFF
      let x := 4
      ctlBad s.hart 5 c 0 = false ∧ c.toNat % 64 = 0x3F ∧ c.toNat / 2 ^ 20 % 128 = 0 ∧ x / 2 ^ 11 % 32 = 0 ∧ x < 2 ^ 21 ∧
        s.issues [(8, 2 ^ (c.toNat / 2 ^ 15 % 4))] [] 0 s ∧
        (∃ q, s.xferTarget s.hart.crewid.toNat 0 4 2 = some q ∧ q.boundAt 4 6 = false) ∧ s.filling s.hart 4 6 = false)) := by
  refine ⟨⟨[], by decide +kernel, issues_of rfl (by decide +kernel), rfl⟩, ⟨[], by decide +kernel, issues_of rfl (by decide +kernel), rfl, rfl⟩,
    by decide +kernel, rfl, rfl, rfl, by decide +kernel, issues_of rfl (by decide +kernel), ⟨_, rfl, by decide +kernel⟩,
    by decide +kernel⟩

/-- An engine transfer to registers of the hart itself, about to retire. -/
def xferc0 : Transfer :=
  { xfer0 with op := 5, ctl := 0x80FFF, reg := 4, target := 1, regs := [plain .i8 [1, 2]], rit := [], fills := some (1, 4, 5) }

theorem witness_TransferRecords :
    (let s := { st with transfers := [xfer0], inp := { n := 7 } }
     s.transfers.find? (fun u => decide (u.id = s.inp.n)) = some xfer0 ∧ xfer0.op = 2 ∧
       s.parks xfer0 (xfer0.len * 8 / (ctlElem xfer0.ctl 0).bits) = false) ∧
    (∀ t ∈ st.transfers, t.id ≠ st.inp.n) ∧
    (let s := { st with transfers := [xferc0], inp := { n := 7 } }
     s.transfers.find? (fun u => decide (u.id = s.inp.n)) = some xferc0 ∧ xferc0.op = 5 ∧ xferc0.early = 0 ∧
       s.hartOf xferc0.target = some hart0 ∧ hart0.ended = false ∧ s.hart = hart0 ∧ xferc0.hart = hart0.id ∧ xferc0.ctl.getLsbD 19 = true ∧
       (∀ g ∈ s.others, g.id ≠ hart0.id) ∧ hart0.run ≠ .idle ∧ hart0.spilled = false ∧ s.inp.k ≠ 1 ∧ xferc0.landed = none ∧
       s.parks xferc0 (xferc0.len * 8 / (ctlElem xferc0.ctl 0).bits) = false ∧ s.hartOf 8 = none) ∧
    (let s := { st with transfers := [xfer0], inp := { n := 7 },
                        apps := [(0, { app0 with maps := [{ pageAt 0x2000 rw with migr := some ⟨0, 0x10, none, false, none⟩ }] })] }
     s.transfers.find? (fun u => decide (u.id = s.inp.n)) = some xfer0 ∧
       s.parks xfer0 (xfer0.len * 8 / (ctlElem xfer0.ctl 0).bits) = true) ∧
    (let q := (withHart { hart0 with queues := [(1, { reserved := 1, posted := 1, recs := [(0, some compl0)] })] }).hart.queue 1
     q.taken < q.reserved ∧ mget none q.recs q.taken = some compl0) ∧
    (st.hart.queue 3).reserved ≤ (st.hart.queue 3).taken ∧
    (let q := (withHart { hart0 with queues := [(1, { reserved := 1 })] }).hart.queue 1
     q.taken < q.reserved ∧ mget none q.recs q.taken = none) := by decide +kernel

/-- What XFER moves: 64 elements without a fault; a poisoned granule; a fault of the source, and of the destination, at element 4. -/
theorem witness_TransferRecords_elements :
    (let s := { st with transfers := [xfer0], inp := { n := 7 } }
     let r := s.srcElems xfer0 .n8 (List.zip (List.range 64) (xfer0.draws 64))
     xfer0.early = 0 ∧ s.inp.k ≠ 1 ∧ r.2 = none ∧ (∀ x ∈ r.1, x.poison = false) ∧ r.1.length = 64 ∧
       (∀ j < 64, s.dstFault xfer0 64 j = none ∧ s.dstEncoded xfer0 j = false)) ∧
    (let s := { st with poison := [(0x80, true)] }
     let r := s.srcElems xfer0 .n8 (List.zip (List.range 64) (xfer0.draws 64))
     (r.1[0]?.map XElem.poison) = some true) ∧
    (let t := { xfer0 with src := 0x2FFC, len := 8 }
     ((st.srcElems t .n8 (List.zip (List.range 8) (t.draws 8))).2.map Prod.snd) = some 4) ∧
    (let t := { xfer0 with dst := 0x2FFC, len := 8 }
     (∀ j < 4, st.dstFault t 8 j = none) ∧ (st.dstFault t 8 4).isSome = true) ∧
    ({ xfer0 with early := 4 } : Transfer).early ≠ 0 := by decide +kernel

/-- XFERQ of two F32 elements to I8, its maximum word open, unmapped, read-only, and on a pool whose link is down. -/
def xferq0 (w : Word) : Transfer := { xfer0 with op := 6, ctl := 0x8000A, len := 8, maxw := w }

theorem witness_TransferRecords_maximum :
    (let r := st.srcElems (xferq0 0x2200) .f32 (List.zip (List.range 2) ((xferq0 0x2200).draws 2))
     r.2 = none ∧ (foldMax .f32 r.1).isSome = true ∧ ∀ j < 2, st.dstFault (xferq0 0x2200) 2 j = none) ∧
    okb (st.forStore (st.xferAt (xferq0 0x2200) 0x2200)) = true ∧ st.forStore (st.xferAt (xferq0 0x9000) 0x9000) = .error .unmapped ∧
    st.forStore (st.xferAt (xferq0 0x4000) 0x4000) = .error .perm ∧
    (let s := { st with poolADown := true, apps := [(0, { app0 with maps := [{ pageAt 0x2000 rw with kind := .tier2 .a }] })] }
     s.forStore (s.xferAt (xferq0 0x2200) 0x2200) = .error .link) := by
  refine ⟨by decide +kernel, by decide +kernel, rfl, rfl, rfl⟩

/-- XTIER of the page at 0x2000 to die 0, where it lies, and to die 3; a hole; a part of a range. -/
def xtier0 (c : Word) : Transfer := { xfer0 with op := 9, ctl := c, len := 0x1000 }

theorem witness_TransferRecords_tier :
    (let ms := app0.maps
     partRange ms 0x2000 0x3000 = none ∧ findMap ms 0x9000 = none ∧ carve ms 0x2000 0x3000 = ms ∧
       findMap ms 0x2000 = some (pageAt 0x2000 rw) ∧ (pageAt 0x2000 rw).unit 0x2000 = (0x2000, 0x3000) ∧
       (pageAt 0x2000 rw).inTier 0x13 = false ∧ st.linkDown .tier1 = false ∧
       ∀ r ∈ st.keyedFrames, hbmBase 3 + 0x1000 ≤ r.pa ∨ r.pa + r.len ≤ hbmBase 3) ∧
    (∀ a, 0x2000 ≤ a → a < 0x3000 → ∃ m, findMap app0.maps a = some m ∧ m.inTier 0x10 = true) ∧
    st.tierCode ((xtier0 0x80013).ctl.toNat % 256) = 0x10 + 3 ∧
    (let ms := [{ pageAt 0x20000 rw with pages := 32, range := true }]
     (partRange ms 0x20000 0x30000).isSome = true) ∧ st.parks (xtier0 0x80013) 0 = false := by
  refine ⟨by decide +kernel, fun a h1 h2 => ⟨pageAt 0x2000 rw, ?_, by decide +kernel⟩, by decide +kernel, by decide +kernel, by decide +kernel⟩
  have : findMap app0.maps a = app0.maps.find? fun m => decide (m.va ≤ a) && decide (a < m.top) := rfl
  rw [this]
  simp [app0, pageAt, Mapping.top, rw]
  omega

/-- XFERV of two elements to v4, its registers not yet filled and filled; a record stored at XCQ.BASE. -/
def xferv0 : Transfer := { xfer0 with op := 3, ctl := 0x80104, len := 2, reg := 4, rit := [], fills := some (1, 4, 5) }

theorem witness_TransferRecords_registers :
    (let s := { st with transfers := [xferv0], inp := { n := 7, k := 1 } }
     s.transfers.find? (fun u => decide (u.id = s.inp.n)) = some xferv0 ∧ xferv0.landed = none ∧ s.hartOf 1 = some hart0 ∧
       ctlFields xferv0.ctl = 1 ∧ (ctlFmt xferv0.ctl 6).isSome = true ∧ 2 = min 2 (256 * ctlGroup xferv0.ctl * 8 / 8) ∧
       s.parks xferv0 2 = false ∧ ({ xferv0 with landed := some {} } : Transfer).landed ≠ none ∧
       s.srcElem xferv0 .n8 0 0 = .ok { pat := 0x80 } ∧ s.srcElem xferv0 .n8 1 0 = .ok { pat := 0 }) ∧
    (let s := withHart { hart0 with xcqBase := 2 }
     let t := { xfer0 with ctl := 0x00104 }
     t.ctl.getLsbD 19 = false ∧ s.hart.recAddr (ctlQueue t.ctl) t.recno = some 0x2000 ∧ s.mayWrite 0 t.who 0x2000 16 = true ∧
       ∀ j < 16, ((s.app 0).lookup t.who (0x2000 + j)).map (fun x => x.addr (0x2000 + j)) = some (0x2000 + j)) :=
  ⟨⟨rfl, rfl, rfl, by decide +kernel, by decide +kernel, by decide +kernel, by decide +kernel, by decide, rfl, rfl⟩, by decide +kernel⟩

/-- The first groups of XFERV's elements, none having come and one having come. -/
theorem witness_TransferRecords_arrival :
    (let s := { st with transfers := [xferv0], inp := { n := 7, k := 2 } }
     s.transfers.find? (fun u => decide (u.id = s.inp.n)) = some xferv0 ∧ s.inp.k = 2 ∧ xferv0.fills = some (1, 4, 5) ∧ xferv0.came = none ∧
       (s.arrival xferv0).isSome = true) ∧
    (let t : Transfer := { xferv0 with came := some { regs := [plain .n8 [0x80, 0]], ending := {}, got := 64 } }
     t.landed = none ∧ t.came ≠ none) := by decide +kernel

/-! ### The matrix array -/

/-- One row of I8 in v0, a plane of one loaded row, an integer tile; the plane operands of MLDS in x16 to x19. -/
def matSt : State :=
  withHart { hart0 with vl := 2, v := [(0, plain .i8 [2, 3]), (4, plain .i32 [5, 6]), (8, plain .n64 [0x2000])],
                        active := { fmt := some .i8, rows := 2, data := [(0, 7), (1, 1)] }, tiles := [(0, { isInt := true })],
                        x := [(16, 0x2000), (17, 96), (18, 64)] }

/-- MMA adds the products: row 0, column 0 becomes 2 × 7 + 3 × 1 (R235). -/
theorem test_mma : (match exec (.mma 0 0 0 1) matSt with
    | .next t => ((t.hart.tile 0).row 0).take 2
    | _ => []) = [17, 0] := by decide +kernel

theorem witness_MatrixArray_planes :
    matSt.hart.cut = 1 ∧ (withHart { hart0 with cut := 2 }).hart.cut ≠ 1 ∧
    (let g := matSt.hart
     let w := (g.rx 18).toNat
     Fmt.ofCode (w % 64) = some .i8 ∧ Fmt.i8.isMatrix = true ∧ g.fmtOk .i8 = true ∧ w < 2 ^ 16 ∧ 1 ≤ w / 64 % 1024 ∧
       w / 64 % 1024 ≤ mtileK .i8 ∧ matSt.transfers = [] ∧
       ∀ k < w / 64 % 1024, okb (matSt.readSpan (fun va => planePage .i8 (matSt.sampled g va)) (0x2000 + k * 96) (rowBytes .i8) 0) = true) ∧
    (let g := (withHart { hart0 with x := [(127, 0x50)] }).hart
     Fmt.ofCode ((g.rx 127).toNat % 64) = some .mxf8 ∧ Fmt.mxf8.isMx = true ∧ 124 < (125 : Reg).toNat) ∧
    (matSt.issues (rowRuns 0 (rowsOf 1)) [] 0 matSt ∧
      (∀ r ∈ matSt.hart.vregs (matSt.hart.wb.toNat + 0) (rowsOf 1), r.desc.fmt = .i8 ∧ r.desc.cont = false ∧
        r.desc.untyped = false ∧ r.desc.enc = .plain) ∧
      (matSt.hart.vreg (matSt.hart.wb.toNat + 0)).desc.fmt = .i8 ∧ Fmt.i8.isMx = false) := by
  refine ⟨rfl, by decide, by decide +kernel, by decide +kernel, issues_of rfl (by decide +kernel), by decide +kernel⟩

theorem witness_MatrixArray_mma :
    okb (matSt.mmaReady 0 (rowsOf 1)) = true ∧ matSt.popAll (matSt.hart.aRuns 0 (rowsOf 1)) = (matSt, none) ∧
    (∃ r g, matSt.hart.aRows 0 (rowsOf 1) = .ok r ∧ matSt.hart.accumulate 0 0 r = .ok g) ∧ 0xFFFFFFFF < 2 ^ 32 := by
  refine ⟨by decide +kernel, rfl, ?_, by decide⟩
  obtain ⟨r, hr⟩ := okb_ok (e := matSt.hart.aRows 0 (rowsOf 1)) (by decide +kernel)
  have h : (match matSt.hart.aRows 0 (rowsOf 1) with
    | .ok r => okb (matSt.hart.accumulate 0 0 r)
    | .error _ => false) = true := by decide +kernel
  rw [hr] at h
  obtain ⟨g, hg⟩ := okb_ok h
  exact ⟨r, g, hr, hg⟩

/-- A quad: the hart whose turn it is and three that have issued their MMAQ. -/
def quadSt : State :=
  { matSt with crews := [{ crew0 with size := 4, quad := true }],
               others := [1, 2, 3].map fun k => { matSt.hart with id := k + 1, crewrank := BitVec.ofNat 5 k, wait := some ⟨.mmaq 0 0 0 1, 0, false⟩ } }

/-- Plain rows of I8, a plane of I8 and an integer tile; the four members of a quad with as many. -/
theorem witness_MatrixArray_completes :
    (let g := matSt.hart
     g.vl ≤ mtileK g.fmt ∧ g.outl = false ∧ 0 + rowsOf 1 ≤ 128 ∧ g.streams = [] ∧ (∀ r < rowsOf 1, (g.vreg (g.wb.toNat + 0 + r)).isPlain .i8 = true) ∧
       Fmt.i8.isMatrix = true ∧ g.active.fmt.getD .i8 = .i8 ∧
       (g.tile 0).isInt = (decide (Fmt.i8 = .i8) && (decide (Fmt.i8 = .i8) || decide (Fmt.i8 = .i4)))) ∧
    (let s := quadSt
     s.hart.cut = 1 ∧ s.hart.run = .running ∧ ((s.hart :: s.others).map Hart.id).Nodup ∧ s.transfers = [] ∧
       ∃ ops, s.quadOps (.mmaq 0 0 0 1) = some ops ∧ (ops.head?.map Prod.fst) = some 1 ∧ s.hartOf 1 = some s.hart ∧
         ∀ m ∈ ops, m.2.n = rowsOf 1 ∧ 16 * m.2.g + m.2.n ≤ 256 ∧
           (s.hartOf m.1).any (fun L => decide (mtileK .i8 = mtileK (L.active.fmt.getD .i8)) && (L.tile m.2.t).isInt) = true) :=
  ⟨by decide +kernel, by decide +kernel, by decide +kernel, by decide +kernel, rfl, _, rfl, rfl, rfl, by decide +kernel⟩

theorem witness_MatrixArray_quad :
    (quadSt.crewOf 1).map Crew.quad = some true ∧ (∀ g ∈ quadSt.crewHarts 1, g.ended = false) ∧
    (matSt.crewOf 1).map Crew.quad ≠ some true ∧
    ({ quadSt with others := quadSt.others.map fun h => { h with wait := none } } : State).quadOps (.mmaq 0 0 0 1) = none ∧
    ∃ ld ms r, quadSt.quadOps (.mmaq 0 0 0 1) = some (ld :: ms) ∧ (quadSt.focus ld.1).leaderRows ld.2 = .ok r := by
  refine ⟨by decide +kernel, by decide +kernel, by decide +kernel, rfl, (1, ⟨.mmaq 0 0 0 1, 0, 0, 1, 0⟩),
    [2, 3, 4].map fun k => (k, ⟨.mmaq 0 0 0 1, 0, 0, 1, 0⟩), ?_⟩
  obtain ⟨r, hr⟩ := okb_ok (e := (quadSt.focus 1).leaderRows ⟨.mmaq 0 0 0 1, 0, 0, 1, 0⟩) (by decide +kernel)
  exact ⟨r, rfl, hr⟩

theorem witness_Tiles :
    (7 : BitVec 3).toNat < 8 / matSt.hart.cut ∧ ¬ (4 : BitVec 3).toNat < 8 / (withHart { hart0 with cut := 2 }).hart.cut ∧
    matSt.hart.vl ≤ 96 ∧ matSt.issues (rowRuns 4 1) [] 0 matSt ∧
    (∃ vs, matSt.hart.rowVecs 4 1 = .ok vs ∧ vs ≠ [] ∧ ∀ v ∈ vs, v.fmt = .i32) ∧
    (let g := (withHart { matSt.hart with vstat := 0x00A }).hart
     g.vl ≤ g.vlgrant * 8 / g.fmt.bits ∧ g.fmt = .f32 ∧ (g.tile 0).isInt = true ∧ g.rm = .rne) ∧
    okb (matSt.vecReady [] (rowRuns 16 4) 0) = true ∧
    (∃ u, (withHart { matSt.hart with vstat := 0x00A }).drain 0 [(0, 0x2000)] = .ok u) ∧
    matSt.issues [matSt.hart.gRun 8] [] 0 matSt ∧ ∃ v, matSt.hart.readRun (matSt.hart.gRun 8) = .ok v ∧ v.fmt = .n64 := by
  refine ⟨by decide +kernel, by decide +kernel, by decide +kernel, issues_of rfl (by decide +kernel), ?_, by decide +kernel,
    by decide +kernel, okb_ok (by decide +kernel), issues_of rfl (by decide +kernel), _, rfl, rfl⟩
  exact ⟨_, rfl, by decide +kernel, by decide +kernel⟩

/-- A row drained as F32: each column has its own bytes on a page that takes them. -/
theorem witness_Tiles_memory :
    (let s := withHart { matSt.hart with vstat := 0x00A, p := [(1, 3)], mkbind := 1 }
     let g := s.hart
     let pa : Nat → Nat := fun c => s.physOf ((0x2000 + c * g.fmt.bits / 8) % 2 ^ 64)
     [((0 : Nat), 0x2000)][0]? = some (0, 0x2000) ∧ (∀ c < g.vl, g.sel 1 c = true ∧ s.storeFault g.fmt.bytes ((0x2000 + c * g.fmt.bits / 8) % 2 ^ 64) = none) ∧
       0 < g.vl ∧ g.vl ≤ 96 ∧ g.fmt.isMx = false ∧ g.rm ≠ .sto ∧ g.fmt.bits ≠ 4 ∧
       ∀ c < g.vl, ∀ c' < g.vl, c' ≠ c → pa c' + g.fmt.bytes ≤ pa c ∨ pa c + g.fmt.bytes ≤ pa c') ∧
    (withHart { matSt.hart with vstat := 0x00F }).hart.fmt.bits = 4 := by decide +kernel

/-- A drained row on an open plain page. -/
theorem witness_Tiles_drains :
    (let g := matSt.hart
     (∀ r < 1, (g.vreg (g.wb.toNat + 4 + r)).isPlain .i32 = true) ∧ g.streams = [] ∧ matSt.transfers = [] ∧
     ∀ c < g.vl, ∀ x, matSt.xlat g ((0x2000 + c * g.fmt.bits / 8) % 2 ^ 64) = some x →
       x.refuses g.fmt = false ∧ x.encoded = false ∧ x.closed = false) := by
  refine ⟨by decide +kernel, rfl, rfl, fun c hc x hx => ?_⟩
  have h : ∀ c < matSt.hart.vl, (matSt.xlat matSt.hart ((0x2000 + c * matSt.hart.fmt.bits / 8) % 2 ^ 64)).all
      (fun x => !x.refuses matSt.hart.fmt && !x.encoded && !x.closed) = true := by decide +kernel
  have k := h c hc
  rw [hx] at k
  simpa [and_assoc] using k

theorem witness_SoftmaxStep :
    (let s := withHart { hart0 with vl := 2 }
     let g := s.hart
     g.cut = 1 ∧ g.feat 3 = true ∧ g.vl ≤ 96 ∧ okb (s.vecReady [] [(20, 1), (21, 1)] 0) = true ∧
       okb (g.chainReg 20 (.inf true) 64) = true ∧ okb (g.chainReg 21 (.fin false 0 1) 64) = true ∧
       (g.tile 0).isInt = false ∧ (g.tile 1).isInt = false) ∧
    maxNan (.inf true) [.inf true] = (.inf true, {}) ∧ (withHart { hart0 with cut := 2 }).hart.cut ≠ 1 ∧
    (withHart { hart0 with featmask := 8 }).hart.feat 3 = false ∧ 96 < (withHart { hart0 with vl := 97 }).hart.vl := by decide +kernel

theorem witness_Factorisations :
    (let g := (withHart { hart0 with vl := 96, tiles := [(0, { rows := [(0, 0)] })] }).hart
     g.feat 2 = true ∧ g.fstep = 0 ∧ (0 : BitVec 3).toNat < 8 / g.cut ∧ (g.tile 0).isInt = false ∧ g.vl ≤ 96 ∧
       (f32Val (elemAt ((List.range 96).map (g.tile 0).row) 0 0)).isZero = true ∧
       ¬ (Val.fin false 0 1).lt (f32Val (elemAt ((List.range 96).map (g.tile 0).row) 0 0)) = true) ∧
    (Val.fin false 0 1).lt (f32Val 0x3F800000) = true ∧
    okb (st.vecReady [] [(2, facGroup 256 96 .i16)] 0) = true ∧ okb (st.vecReady [] [(3, facGroup 256 64 .f32)] 0) = true ∧
    (withHart { hart0 with featmask := 4 }).hart.feat 2 = false ∧
    (let g := (withHart { hart0 with fstep := 4, fstatOpf := 2 }).hart
     g.fstep.toNat ≠ 0 ∧ (4 : Reg).toNat ≤ g.fstep.toNat ∧ g.fstep.toNat < 5 ∧ g.fstatOpf.toNat = 2 ∧ g.fstatOpf.toNat ≠ 0) ∧
    (let z : Fac := { a := [[0x3F800000, 0x40000000], [0xC0400000, 0x3F000000]], vec := [0, 0] }
     0 < 2 ∧ 2 ≤ z.a.length ∧ ∀ i < 2, (f32Val (elemAt z.a i 0)).isNan = false) := by decide +kernel

/-- The pivot of the column (1, −3) is row 1, so MLU exchanges rows 0 and 1 (R242). -/
theorem test_mlu_pivot : (stepMlu 2 2 0 { a := [[0x3F800000, 0x40000000], [0xC0400000, 0x3F000000]], vec := [0, 0] }).1.vec = [2, 0] := by
  decide +kernel

/-! ### Claims, waves and other packages -/

/-- Two harts' pairs: items 0 and 1 share address 5, item 2 stands alone. -/
def share0 : Share := { pairs := [(5, 0), (5, 1), (6, 2)] }

/-- The machine whose crew may claim. -/
def claimSt : State :=
  { withHart { hart0 with vl := 2, v := [(4, plain .n64 [0x2000, 0x2040])] } with crews := [{ crew0 with share := some share0 }] }

theorem witness_ClaimsAndWaves :
    (claimSt.hart.feat 6 = true ∧ claimSt.hart.maskOk 0 = true ∧ claimSt.hart.vl ≤ 4096 ∧
      (claimSt.crewOf claimSt.hart.crewid.toNat).bind Crew.share = some share0 ∧ claimSt.issues [claimSt.hart.gRun 4] [] 0 claimSt ∧
      ∃ v, claimSt.hart.readRun (claimSt.hart.gRun 4) = .ok v ∧ v.fmt = .n64) ∧
    (share0.admits 0 0 = true ∧ share0.admits 0 2 = true ∧ share0.admits 0 1 = false ∧ 0 ∈ share0.pending 0 ∧ 2 ∈ share0.pending 0) ∧
    (withHart { hart0 with featmask := 0x40 }).hart.feat 6 = false ∧ (st.crewOf 1).bind Crew.share = none := by
  refine ⟨⟨by decide +kernel, by decide +kernel, by decide +kernel, by decide +kernel, issues_of rfl (by decide +kernel), _, rfl, rfl⟩,
    by decide +kernel, by decide +kernel, by decide +kernel⟩

/-- A window of the application, a train to it and a round at it. -/
def win0 : Window := { win := 1, red := false, home := 0, npart := 1, base := 0x2000, length := 64, cid := 1 }

/-- Its reduction twin. -/
def win1 : Window := { win0 with win := 2, red := true }

/-- One element of 4 bytes. -/
def elem0 : TrainElem := { index := 3, win := 1, off := 8, tag := 2, bytes := [1, 2, 3, 4] }

/-- A train of the hart. -/
def train0 : Train := { id := 4, hart := 1, app := 0, pkg := 0, bar := 0, elems := [elem0] }

/-- A contribution of the hart to a window that is none. -/
def contrib0 : Contrib :=
  { fred := 4, pc := 0x1000, strip := 0, hart := 1, app := 0, index := 0, addr := 0x0007000000000000, op := 0, tag := .i32, val := 1 }

/-- A round with its one contribution. -/
def round0 : Round := { num := 1, app := 0, win := 2, off := 0, op := 0, tag := .i32, vals := [5], pkgs := [0], status := 0 }

/-- The machine with all of them. -/
def remoteSt : State :=
  { withHart { hart0 with vl := 2, fredRounds := [(0x2000, 1)], v := [(4, plain .i32 [1, 2]), (8, plain .n64 [0x0001000000000000, 0x0001000000000008]), (9, plain .n64 [])],
                          vstat := 0x002 } with
    apps := [(0, { app0 with windows := [win0, win1], colls := [{ cid := 1, members := [0, 1], ended := [], state := .active, bars := [] }] })],
    trains := [train0], contribs := [contrib0], rounds := [round0], inp := { n := 4, elems := [elem0] } }

theorem witness_RemoteAccesses_send :
    (let s := remoteSt
     s.issues [s.hart.ownRun 4, s.hart.tagRun 8] [] 0 s ∧ (∃ v w, s.hart.readRun (s.hart.ownRun 4) = .ok v ∧
       s.hart.tagged 8 (fun f => decide (f = .n64)) = .ok w ∧ s.hart.storeTagOk v.fmt false false = true ∧ fredTag 0 v.fmt = true) ∧
     s.hart.feat 5 = true ∧ s.rx 0 = 0 ∧ (s.rx 16).toNat % 16 = 0 ∧ (s.rx 18).toNat ≤ 4) := by
  refine ⟨issues_of rfl (by decide +kernel), ⟨_, _, rfl, rfl, rfl, rfl⟩, by decide +kernel⟩

theorem witness_RemoteAccesses_arrive :
    (let s := remoteSt
     s.rounds.find? (fun r => decide (r.num = mget 0 s.hart.fredRounds (s.rx 16).toNat)) = some round0 ∧ round0.status = 0 ∧
     s.contributing (s.rx 16) = false ∧ s.contributing contrib0.addr = true ∧
     s.inp.k = s.pkg ∧ s.waitsToSend (.train train0.id) = false ∧
     (let r := { s with inp := { s.inp with k := 1 } }
      r.inp.k ≠ r.pkg ∧ r.trainHeld ⟨0, .p⟩ r.inp.m r.inp.a1 r.inp.elems = [] ∧ r.inp.a1 = 0) ∧
     s.waitsToSend (.fred s.inp.n) = false ∧
     s.trains.find? (fun q => decide (q.id = s.inp.n)) = some train0 ∧ s.hart.id = train0.hart ∧ s.hart.run ≠ .idle ∧
     (∀ g ∈ s.others, g.id ≠ train0.hart) ∧
     s.inp.flag = false ∧ s.inp.k ≠ 1 ∧ s.contribs.filter (fun q => decide (q.fred = s.inp.n)) = [contrib0] ∧
     (s.app contrib0.app).window (remWin contrib0.addr.toNat) true = none ∧ s.hart.id = contrib0.hart) ∧
    (let s := { remoteSt with inp := { n := 1 } }
     s.rounds.find? (fun q => decide (q.num = s.inp.n) && decide (q.status = 0)) = some round0 ∧
     (s.app round0.app).window round0.win true = some win1 ∧ round0.pkgs.length = win1.npart ∧ win1.home = s.pkg ∧
     okb (s.forStore ((s.app round0.app).lookup ctlWho (win1.base + round0.off))) = true) ∧
    (let s := { remoteSt with inp := { n := 0, m := 1, k := 1 } }
     (0 ∈ s.apps.map Prod.fst ∧ (s.inp.m = s.pkg → s.appId 0 = s.inp.a1.toNat)) ∧
     ∃ c, (s.app 0).colls.find? (fun c => c.matches s.inp.m s.inp.k) = some c ∧ c.state = .active ∧ c.bars = []) := by
  refine ⟨by decide +kernel, by decide +kernel, by decide +kernel, _, rfl, rfl, rfl⟩

/-- An element to the own package with and without a transfer in its way; a contribution to the reduction window that opens a round,
that joins one and that its package has made already; a word off its alignment; a value that comes to its home; a home's report. -/
theorem witness_RemoteAccesses_own :
    (let s := remoteSt
     s.trainHeld s.hart.who s.hart.app 0 [elem0] = [] ∧ s.trainInFlight 0 [elem0] = false ∧
     (let c := { contrib0 with addr := 0x0002000000000008 }
      remPkg c.addr.toNat = win1.home ∧ remOff c.addr.toNat % c.tag.bytes = 0 ∧ remOff c.addr.toNat + c.tag.bytes ≤ win1.length ∧
        (s.app 0).window (remWin c.addr.toNat) true = some win1 ∧ s.openRound 0 2 8 1 = none) ∧
     remOff 0x0002000000000002 % Fmt.i32.bytes ≠ 0 ∧
     (let r := { round0 with vals := [], pkgs := [] }
      ({ s with rounds := [r] } : State).openRound 0 2 0 1 = some r ∧ s.pkg ∉ r.pkgs) ∧
     s.openRound 0 2 0 2 = some round0 ∧ s.pkg ∈ round0.pkgs) ∧
    (let s := { remoteSt with inp := { n := 4, a1 := 0x0002000000000008, nums := some [2, 1] } }
     s.inp.flag = false ∧ Fmt.ofCode 2 = some .i32 ∧ (s.app 0).window (remWin s.inp.a1.toNat) true = some win1 ∧
       okb (s.forStore ((s.app 0).lookup ctlWho (win1.base + remOff s.inp.a1.toNat))) = true) ∧
    (let s := { remoteSt with rounds := [{ round0 with status := 2 }], inp := { n := 1, flag := true } }
     (∃ r ∈ s.rounds, r.num = s.inp.n ∧ r.status = 2) ∧ ∀ r ∈ remoteSt.rounds, r.num = s.inp.n → r.status ≠ 2) := by decide +kernel

/-! ### Calls of Riura -/

/-- The control program of slot 0 calls. -/
def ctlSt (a1 a2 a3 a4 : Word) : State := { st with inp := { caller := .ctl 0, a1 := a1, a2 := a2, a3 := a3, a4 := a4 } }

/-- The hart calls. -/
def callSt (a1 : Word) : State := { withHart { hart0 with inCall := true } with inp := { caller := .hart 1, a1 := a1 } }

theorem ctlSt_calls (a1 a2 a3 a4 : Word) : (ctlSt a1 a2 a3 a4).ctlCalls 0 := ⟨rfl, rfl, rfl⟩

theorem witness_RiuraServices :
    ((ctlSt 0 4097 0 0).ctlCalls 0 ∧ 4096 < (ctlSt 0 4097 0 0).inp.a2.toNat) ∧
    (∃ bs, (ctlSt 0x2000 8 0 0).readFor 0 ctlWho 0x2000 8 = some bs) ∧
    ((ctlSt 1 0x2000 16 0).bufOk 0 ctlWho 0x2000 16 = true ∧ (ctlSt 1 0x4000 16 0).bufOk 0 ctlWho 0x4000 16 = false ∧
      (5 : Word) ∉ [1, 2, 3, (0x10 : Word)]) ∧
    ((ctlSt 3 0x2000 15 0).inp.a3.toNat < 16 ∧ (∃ va, (ctlSt 3 0x2000 16 0).readWordFor 0 ctlWho 0x2000 = some va) ∧
      (st.app 0).lookup ctlWho 0x9000000000000080 = none ∧ (st.app 0).lookup ctlWho 0x2000 = some (xlatAt 0x2000 rw)) ∧
    (let s := { ctlSt 0 0 0 0 with inp := { n := 0x9000, k := 1 } }
     (s.app 0).lookup ctlWho s.inp.n = none ∧ 1 ≤ s.inp.k) ∧
    (callSt 0).hartCalls (callSt 0).hart := by
  refine ⟨⟨ctlSt_calls _ _ _ _, by decide⟩, ⟨_, rfl⟩, by decide +kernel, ⟨by decide, ⟨_, rfl⟩, by decide +kernel, by decide +kernel⟩,
    by decide +kernel, rfl, rfl, rfl⟩

/-- Loads and stores of the control program: an open page, a page under migration. -/
theorem witness_RiuraServices_accesses :
    (let s := { ctlSt 5 0 0 0 with inp := { n := 0x2000, k := 8, a1 := 5 } }
     s.ctlCalls 0 ∧ s.inp.m = 0 ∧ s.inp.flag = false ∧ s.ctlFaults 0 0x2000 8 true false = false ∧
       (s.readFor 0 ctlWho 0x2000 8).isSome = true) ∧
    (let s := { ctlSt 5 0 0 0 with inp := { n := 0x2000, k := 8, a1 := 5, flag := true } }
     s.ctlCalls 0 ∧ s.ctlFaults 0 0x2000 8 false true = false ∧ s.ctlClosed 0 0x2000 8 = false) ∧
    (let s := { ctlSt 5 0 0 0 with
                  inp := { n := 0x2000, k := 8, a1 := 5, flag := true }
                  apps := [(0, { app0 with maps := [{ pageAt 0x2000 rw with migr := some ⟨0, 0x10, some 0, false, none⟩ }] })] }
     s.ctlCalls 0 ∧ s.ctlFaults 0 0x2000 8 false true = false ∧ s.ctlClosed 0 0x2000 8 = true) := by
  refine ⟨⟨⟨rfl, rfl, rfl⟩, by decide +kernel⟩, ⟨⟨rfl, rfl, rfl⟩, by decide +kernel⟩, ⟨rfl, rfl, rfl⟩, by decide +kernel⟩

/-- TIME is the time since the cold reset in ns: 1,100 clk are 1,000 ns (R56, R116). -/
theorem test_time : (match exec .riuraTime { ctlSt 0 0 0 0 with clk := 1100 } with
    | .next t => (t.app 0).ctlA0
    | _ => 0) = 1000 := by decide +kernel

theorem witness_CrewExitAndWeights :
    ((callSt 0).hartCalls (callSt 0).hart ∧ (callSt 0).crewOf 1 = some crew0 ∧ ((callSt 0).app 0).launch 1 = some launch0 ∧
      ∀ t ∈ (callSt 0).transfers, ∀ g ∈ (callSt 0).harts, g.crewid = (callSt 0).hart.crewid → g.id ≠ t.hart) ∧
    ({ callSt 0 with transfers := [xfer0] } : State).crewTransfers 1 = [7] ∧
    ((ctlSt 0x2000 0 0 15).wsOk 0 = true ∧ (ctlSt 0x2000 0 0 16).wsOk 0 = false ∧
      ((ctlSt 0x2000 0 0 15).app 0).launches.any (fun l => l.ended.isNone) = true) ∧
    (let s := { ctlSt 0x2000 0 4096 1 with apps := [(0, { app0 with launches := [], wsSize := [(0, 4096)] })] }
     s.ctlCalls 0 ∧ s.wsOk 0 = true ∧ (s.app 0).launches.any (fun l => l.ended.isNone) = false ∧ (s.wsBytes 0 0x2000 8).isSome = true ∧
       (s.wsBytes 0 0x9000 8).isNone = true) ∧
    (let s := { ctlSt 0x2000 0 8 1 with apps := [(0, { app0 with pend := some ⟨.wsload, none⟩ })] }
     s.inp.caller = .ctl 0 ∧ (s.app 0).pend = some ⟨.wsload, none⟩ ∧ s.inp.a4 = BitVec.ofNat 64 (2 ^ 0) ∧
       s.wsBytes 0 0x2000 8 = some ([0x80, 0, 0, 0, 0, 0, 0, 0x90].map some)) := by
  refine ⟨⟨⟨rfl, rfl, rfl⟩, by decide +kernel, by decide +kernel, by decide +kernel⟩, by decide +kernel, by decide +kernel,
    ⟨⟨rfl, rfl, rfl⟩, by decide +kernel, by decide +kernel, by decide +kernel, by decide +kernel⟩, by decide +kernel⟩

/-- CREWEXIT: the next crew takes another number than this one; a crew whose train is under way waits. -/
theorem witness_CrewExitAndWeights_next :
    (let s := { callSt 0 with nextCrew := 2 ^ 32 - Config.crewIdBase.toNat }
     s.hartCalls s.hart ∧ s.crewOf 1 = some crew0 ∧ (s.app 0).launch 1 = some launch0 ∧ s.transfers = [] ∧ s.crewBusy 1 = false ∧
       (s.nextCrew + Config.crewIdBase.toNat) % 2 ^ 32 ≠ crew0.id) ∧
    (let s := { callSt 0 with trains := [{ id := 4, hart := 1, app := 0, pkg := 0, bar := 0, elems := [] }] }
     s.hartCalls s.hart ∧ s.crewTransfers 1 = [] ∧ s.crewBusy 1 = true) := by
  refine ⟨⟨⟨rfl, rfl, rfl⟩, rfl, rfl, rfl, rfl, ?_⟩, ⟨rfl, rfl, rfl⟩, by decide +kernel, by decide +kernel⟩
  have := Config.crewIdBase.isLt
  show (2 ^ 32 - Config.crewIdBase.toNat + Config.crewIdBase.toNat) % 2 ^ 32 ≠ 1
  rw [Nat.sub_add_cancel (by omega)]
  decide

/-- The machine whose slot 0 holds a message of 8 bytes for the control program. -/
def msgSt (a1 a2 a3 a4 : Word) : State := { ctlSt a1 a2 a3 a4 with chan := [(slotWord 0 false 0, 0x80001)] }

/-- A call of slot 0 that waits. -/
def pendSt (p : Pending) : State :=
  { msgSt 0 0 0 0 with apps := [(0, { app0 with pend := some p })], inp := { caller := .ctl 0 } }

theorem witness_HostMessages :
    ((msgSt 0 0x2000 8 0).ctlCalls 0 ∧ (∃ bs, (msgSt 0 0x2000 8 0).readFor 0 ctlWho 0x2000 16 = some bs) ∧
      (msgSt 0 0x2000 8 0).slotHdr 0 true ((msgSt 0 0x2000 8 0).nextSlot 0 true) % 256 ≠ 1 ∧ 2032 < (2033 : Word).toNat ∧
      (msgSt 0 0x9000 8 0).readFor 0 ctlWho 0x9000 16 = none) ∧
    (let s := { msgSt 0 0x2000 8 0 with chan := [(slotWord 0 true 0, 0x80001)] }
     s.slotHdr 0 true (s.nextSlot 0 true) % 256 = 1) ∧
    (let s := msgSt 1 0x2000 16 5
     s.ctlCalls 0 ∧ s.slotHdr 0 false (s.nextSlot 0 false) % 256 = 1 ∧ slotLen (s.slotHdr 0 false (s.nextSlot 0 false)) = 8 ∧
       s.bufOk 0 ctlWho 0x2000 16 = true ∧ s.inp.a4 ≠ 0) ∧ (ctlSt 1 0x2000 16 0).slotHdr 0 false 0 % 256 ≠ 1 ∧
    (let s := pendSt ⟨.recv 0x2000 16, none⟩
     s.inp.n % 64 = 0 ∧ (s.app 0).pend = some ⟨.recv 0x2000 16, none⟩) ∧
    (let s := pendSt ⟨.send 0x2000 8, none⟩
     s.inp.n % 64 = 0 ∧ (s.app 0).pend = some ⟨.send 0x2000 8, none⟩ ∧
       (s.setSlotState 0 true (s.inp.m % 64) 0).slotHdr 0 true (s.nextSlot 0 true) % 256 ≠ 1) ∧
    (let s := { pendSt ⟨.wait 1, some 5⟩ with clk := 5 }
     s.inp.caller = .ctl 0 ∧ (s.app 0).pend = some ⟨.wait 1, some 5⟩ ∧ 5 ≤ s.clk) ∧ (pendSt ⟨.collective 1, some 5⟩).clk < 5 ∧
    (msgSt 0 0 0 0).inp.n % 64 = 0 ∧ ((msgSt 0 0 0 0).app 0).pend = none := by
  refine ⟨⟨⟨rfl, rfl, rfl⟩, ⟨_, rfl⟩, by decide +kernel, by decide, by decide +kernel⟩, by decide +kernel, ⟨⟨rfl, rfl, rfl⟩, by decide +kernel,
    by decide +kernel, by decide +kernel, by decide +kernel⟩, by decide +kernel⟩

/-- Time limits of a launch that has ended and of a collective, known and unknown. -/
theorem witness_HostMessages_limits :
    (let s := { pendSt ⟨.wait 1, some 5⟩ with
                  clk := 5
                  apps := [(0, { app0 with launches := [{ launch0 with ended := some 2 }], pend := some ⟨.wait 1, some 5⟩ })] }
     (s.app 0).pend = some ⟨.wait 1, some 5⟩ ∧ 5 ≤ s.clk ∧ (((s.app 0).launch 1).bind Launch.ended) = some 2) ∧
    (let s := { pendSt ⟨.collective 1, some 5⟩ with clk := 5 }
     s.inp.caller = .ctl 0 ∧ (s.app 0).pend = some ⟨.collective 1, some 5⟩ ∧ 5 ≤ s.clk ∧ (s.app 0).coll 1 = none) ∧
    (let c : Coll := { cid := 1, members := [0], ended := [0], state := .done, bars := [] }
     let s := { pendSt ⟨.collective 1, some 5⟩ with
                  clk := 5
                  apps := [(0, { app0 with colls := [c], pend := some ⟨.collective 1, some 5⟩ })] }
     s.inp.caller = .ctl 0 ∧ (s.app 0).pend = some ⟨.collective 1, some 5⟩ ∧ (s.app 0).coll 1 = some c) := by decide +kernel

/-- MAP of a page of die 0, and each refusal; UNMAP and PROTECT of a mapped page. -/
theorem witness_MemoryMapping :
    (let s := ctlSt 0x200000 0x1000 0x10 0x183F
     s.ctlCalls 0 ∧ s.tierRange s.inp.a3.toNat ≠ none ∧ attrOk s.inp.a4 = true ∧ rangeOk 0x200000 0x1000 = true ∧
       meetsUsed (s.app 0).usedVa 0x200000 0x1000 = false ∧ s.inp.a3 ≠ 1) ∧ (st.tierRange 2 = none) ∧ st.masked 0 9 = false ∧
    attrOk 0x103F = false ∧ rangeOk 0x2000 0x1000 = false ∧ meetsUsed (st.app 0).usedVa 0x2000 0x1000 = true ∧
    ((∀ m ∈ (st.app 0).maps, m.va % 4096 = 0) ∧ partRange (st.app 0).maps 0x2000 0x3000 = none ∧ permOk 3 = true ∧
      firstHole (st.app 0).maps 0x2000 1 = none ∧ permOk 2 = false ∧ firstHole (st.app 0).maps 0x9000 1 ≠ none) ∧
    partRange [{ pageAt 0x2000 rw with pages := 2, range := true }] 0x2000 0x3000 ≠ none := by
  refine ⟨⟨⟨rfl, rfl, rfl⟩, by decide +kernel, by decide +kernel, by decide +kernel, by decide +kernel, by decide⟩, by decide +kernel⟩

/-- MAP where die 0 and the address space have the room, on a plain and on an encoded page, at an address asked for and at any. -/
theorem witness_MemoryMapping_room :
    st.tierRange 0x10 = some (0, 192 * 2 ^ 30, .tier1, 30) ∧ st.hasFrames 0 (192 * 2 ^ 30) (2 ^ pageLogOf 30 [0x200000, 0x1000]) 0x1000 ∧
    st.hasFrames 0 (192 * 2 ^ 30) (2 ^ fitLog 30 0x1000) 0x1000 ∧ (st.app 0).hasRange (2 ^ fitLog 30 0x1000) 0x1000 ∧
    attrEnc rw = 0 ∧ attrOk (rw + 0x100 - 0x3D) = true ∧ attrEnc (rw + 0x100 - 0x3D) = 1 ∧
    Fmt.ofCode (attrFmt (rw + 0x100 - 0x3D)) = some .i32 ∧ st.locked = false ∧ st.zeroised = false :=
  ⟨by decide +kernel, ⟨0x10000, by decide +kernel⟩, ⟨0x10000, by decide +kernel⟩, ⟨0x200000, by decide +kernel⟩, by decide +kernel⟩

/-- UNMAP of the page at 0x2000: nothing has sampled it. -/
theorem witness_MemoryMapping_unmap :
    (let s := ctlSt 0x2000 0x1000 0 0
     s.ctlCalls 0 ∧ (∀ m ∈ (s.app 0).maps, m.va % 4096 = 0) ∧ partRange (s.app 0).maps 0x2000 0x3000 = none ∧
       pageAt 0x2000 rw ∈ (s.app 0).maps ∧ s.isSampled 0x2000 4096 = false) := by
  refine ⟨⟨rfl, rfl, rfl⟩, by decide +kernel, by decide +kernel, by decide +kernel, rfl⟩

/-- A place at the bottom of a region, free and aligned, is found wherever the search starts. -/
theorem firstFit_some {lo hi size align start : Nat} {used : List (Nat × Nat)} (h1 : roundUp lo align = lo) (h2 : lo + size ≤ hi)
    (h3 : used.all (fun u => decide (lo + size ≤ u.1) || decide (u.2 ≤ lo)) = true) :
    (firstFit lo hi size align start used).isSome = true := by
  rw [firstFit, List.find?_isSome]
  refine ⟨lo, ?_, by simp [h2]; simpa using h3⟩
  simp only [List.map_cons, List.mem_cons]
  exact Or.inr (Or.inl h1.symm)

/-- The page that moves: from the pool where its link is down, else from die 0. -/
def movePage (down : Bool) : Mapping :=
  { pageAt 0x2000 rw with migr := some ⟨0, 0x10, none, false, none⟩, kind := if down then .tier2 .a else .tier1 }

/-- A page under migration to die 0, and one to the pool whose link is down. -/
def migrSt (down : Bool) : State :=
  { st with apps := [(0, { app0 with maps := [movePage down] })], poolADown := down,
            inp := { m := 0, n := 0x3000, a1 := 0x2000, a2 := 0x3000, a3 := 0x10 } }

theorem witness_MigrationAndKv_move :
    (let s := ctlSt 0x2000 0x1000 0x13 1
     s.ctlCalls 0 ∧ s.inp.a4.toNat / 4 = 0 ∧ s.inp.a4.getLsbD 1 = false ∧ s.tierRange s.inp.a3.toNat ≠ none ∧
       (s.app 0).nextToMove 0x2000 0x3000 (s.tierCode 0x13) false = some (pageAt 0x2000 rw)) ∧
    (let s := ctlSt 0x2000 0x1000 0x10 0
     (s.app 0).nextToMove 0x2000 0x3000 (s.tierCode 0x10) false = none) ∧ st.tierRange 2 = none := by
  refine ⟨⟨⟨rfl, rfl, rfl⟩, by decide +kernel⟩, by decide +kernel, by decide +kernel⟩

theorem witness_MigrationAndKv_copies : ∀ d : Bool, (migrSt d).memOk ∧ (migrSt d).inp.flag = false ∧
    (migrSt d).copying = [movePage d] ∧ (migrSt d).inp.a4.getLsbD 1 = false ∧ 0 < (movePage d).pages ∧
    (∀ q ∈ ((migrSt d).app (migrSt d).inp.m).maps, (migrSt d).inp.n < q.top → (migrSt d).inp.a2.toNat ≤ q.va) ∧
    (∀ r ∈ (migrSt d).leaving, r.pa + r.len ≤ (movePage d).pa ∨ (movePage d).pa + (movePage d).pages * 4096 ≤ r.pa) := by
  intro d
  cases d <;> exact ⟨rfl, by decide +kernel⟩

theorem witness_MigrationAndKv_fails : (migrSt true).copied = none := by decide +kernel

theorem witness_MigrationAndKv_done : (migrSt false).copied ≠ none := by
  have h := firstFit_some (lo := 0) (hi := 0 + 192 * 2 ^ 30) (size := 4096) (align := 4096)
    (start := Config.frameHint 0 % (192 * 2 ^ 30 / 2 + 1) / 4096 * 4096) (used := (migrSt false).usedFrames) (by decide) (by decide)
    (by decide +kernel)
  obtain ⟨p, e⟩ := Option.isSome_iff_exists.mp h
  have u : ∃ r, (migrSt false).takeFrames 0 (192 * 2 ^ 30) 4096 4096 = some r := by
    have z : (migrSt false).reap = migrSt false := rfl
    have k : (migrSt false).tick = 0 := rfl
    unfold State.takeFrames
    simp only [z, k, e]
    exact ⟨_, rfl⟩
  obtain ⟨r, hr⟩ := u
  have g : (migrSt false).tierRange 0x10 = some (0, 192 * 2 ^ 30, MemKind.tier1, 30) := by decide +kernel
  have a : (migrSt false).allocTier 0x10 4096 4096 = some (r.1, MemKind.tier1, r.2) := by
    unfold State.allocTier
    simp only [g, hr]
  have w : r.2.linkDown .tier1 = false := rfl
  have z : (movePage false).pages * 4096 = 4096 ∧ 2 ^ (movePage false).pageLog = 4096 := by decide
  have c : (migrSt false).copying = [movePage false] := by decide +kernel
  have d : (migrSt false).inp.a3.toNat = 0x10 := by decide
  have l : ([movePage false].any fun m => (migrSt false).linkDown m.kind) = false := by decide +kernel
  unfold State.copied
  rw [c, l, d]
  simp only [State.moveAll, State.moveRegion, z.1, z.2, a, w]
  simp

/-- KVALLOC and KVFREE: a list of one page at 0x2000. -/
theorem witness_MigrationAndKv_pages :
    ((ctlSt 1 3 0 0).inp.a2 ≠ 1 ∧ (ctlSt 1 3 0 0).inp.a2 ≠ 2 ∧ (ctlSt 1 2 0 0).inp.a2 = 2) ∧
    (let s := { ctlSt 0x2000 1 0 0 with apps := kvSt.apps, mem := [(0x2000, 1), (0x2008, 3)] }
     s.ctlCalls 0 ∧ s.readWordFor 0 ctlWho 0x2000 = some 1 ∧ s.kvEntries 0 0x2000 1 = some [3] ∧ [3].Nodup ∧
       (mget ({} : KvPage) (s.app 0).kv 3).owner ≠ 0 ∧ 1 ≠ (2 : Word).toNat) := by
  refine ⟨by decide, ⟨rfl, rfl, rfl⟩, by decide +kernel⟩

/-- KVALLOC of one page where the window, every die and the address space have the room. -/
theorem witness_MigrationAndKv_room :
    1 + (st.app 0).kv.length ≤ 2 ^ 20 ∧ (st.app 0).hasRange 4096 (roundUp (8 + 4 * 1) 4096) ∧
    ∀ d < 4, st.hasFrames (hbmBase d) (hbmSize d) 65536 ((1 + 1) * roundUp (8 + 4 * 1) 65536) := by
  refine ⟨by decide +kernel, ⟨0x200000, by decide +kernel⟩, fun d hd => ⟨hbmBase d + 0x10000, ?_⟩⟩
  revert d
  decide +kernel

/-- A launch of the kernel named "k" with a block at 0x2000, its name at 0x2100. -/
def launchSt (units : Byte) : State :=
  { ctlSt 0x2000 0 0 0 with
    apps := [(0, { app0 with kernels := [{ name := [0x6B] }] })],
    mem := [(0x2001, 0x21), (0x2008, units), (0x2010, 1), (0x2013, 0xFF), (0x2100, 0x6B)].filter fun c => c.2 ≠ 0 }

/-- The application once its launch has ended complete, WAIT waiting for it. -/
def endedApp : App := { app0 with launches := [{ launch0 with ended := some 2 }], pend := some ⟨.wait 1, some 5⟩ }

theorem witness_Launches :
    ((ctlSt 0x2001 0 0 0).inp.a1.toNat % 8 ≠ 0 ∧ (ctlSt 0x9000 0 0 0).readFor 0 ctlWho 0x9000 128 = none) ∧
    (∃ bs l, (launchSt 3).readFor 0 ctlWho 0x2000 128 = some bs ∧ (launchSt 3).checkLaunch 0 (wordsOf bs) = .ok l ∧
      ∀ x ∈ ((launchSt 3).app 0).launches, x.lid < ((launchSt 3).app 0).nextLid) ∧
    (blockReserved (List.replicate 16 0) = true ∧ blockReserved (List.replicate 16 (2 ^ 64 - 1)) = false ∧
      (let ws := (List.replicate 16 0).set 1 (2 ^ 24)
       blockReserved ws = true ∧ 2 ^ 24 ≤ ws.getD 1 0 % 2 ^ 32) ∧
      (let ws := (List.replicate 16 0).set 2 (5 * 2 ^ 24)
       blockReserved ws = true ∧ ws.getD 1 0 % 2 ^ 32 < 2 ^ 24 ∧ ws.getD 2 0 / 2 ^ 24 % 256 = 5)) ∧
    (((ctlSt 9 0 0 0).app 0).retained 9 = none ∧ ((ctlSt 1 0 0 0).app 0).retained 1 = some launch0 ∧ launch0.ended = none ∧
      launch0.issued < launch0.limit ∧ launch0.done < launch0.issued ∧
      endedApp.retained 1 = some { launch0 with ended := some 2 }) ∧
    (let s := { pendSt ⟨.wait 1, some 5⟩ with apps := [(0, endedApp)] }
     s.inp.caller = .ctl 0 ∧ (s.app 0).pend = some ⟨.wait 1, some 5⟩ ∧ (s.app 0).launch 1 = some { launch0 with ended := some 2 }) := by
  have h : okb ((launchSt 3).checkLaunch 0 (wordsOf (((launchSt 3).readFor 0 ctlWho 0x2000 128).getD []))) = true := by decide +kernel
  obtain ⟨l, hl⟩ := okb_ok h
  have hs : ((launchSt 3).readFor 0 ctlWho 0x2000 128).isSome = true := by decide +kernel
  obtain ⟨bs, hb⟩ := Option.isSome_iff_exists.mp hs
  rw [hb] at hl
  refine ⟨by decide +kernel, ⟨bs, l, hb, hl, by decide +kernel⟩, by decide +kernel, by decide +kernel, by decide +kernel⟩

/-! ### The scheduler -/

/-- The hart swapped out, its crew suspended. -/
def suspSt : State :=
  { withHart { hart0 with run := .suspended, spilled := true } with
    crews := [{ crew0 with suspended := true }], apps := [(0, { app0 with launches := [{ launch0 with limit := 1 }] })] }

/-- A launch of a higher class that may only run on core 0, which another crew holds. -/
def preSt : State :=
  { st with
    apps := [(0, { app0 with confine := some [0], launches := [{ launch0 with limit := 1 }, { launch0 with lid := 2, prio := 1, issued := 0 }],
                             nextLid := 3 })],
    leases := [(0, { st := .held, cut := 1, lid := 1, app := 0 })] }

/-- A thread block and stack are found where the bottom of the roomiest die and of the virtual space is free. -/
theorem giveBlock_some {s : State} {k n size : Nat} (z : ceilDiv (64 + n * 1024) 4096 * 4096 = size) (hl : s.leaving = [])
    (h1 : roundUp (hbmBase s.roomiestDie) 4096 = hbmBase s.roomiestDie)
    (h2 : hbmBase s.roomiestDie + size ≤ hbmBase s.roomiestDie + hbmSize s.roomiestDie)
    (h3 : s.usedFrames.all (fun u => decide (hbmBase s.roomiestDie + size ≤ u.1) || decide (u.2 ≤ hbmBase s.roomiestDie)) = true)
    (h4 : 2 ^ 21 + size ≤ 2 ^ 56)
    (h5 : (s.app k).usedVa.all (fun u => decide (2 ^ 21 + size ≤ u.1) || decide (u.2 ≤ 2 ^ 21)) = true) :
    (s.giveBlock k n).isSome = true := by
  have hr : s.reap = s := by simp [State.reap, hl]
  obtain ⟨pa, e⟩ := Option.isSome_iff_exists.mp (firstFit_some h1 h2 h3
    (start := Config.frameHint s.tick % (hbmSize s.roomiestDie / 2 + 1) / 4096 * 4096))
  obtain ⟨va, g⟩ := Option.isSome_iff_exists.mp (firstFit_some (by decide : roundUp (2 ^ 21) 4096 = 2 ^ 21) h4 h5
    (start := Config.vaHint (s.tick + 1) % 2 ^ 50 / 4096 * 4096))
  have t : s.takeFrames (hbmBase s.roomiestDie) (hbmSize s.roomiestDie) size 4096
      = some (pa, { s.scrub pa size with tick := s.tick + 1 }) := by
    unfold State.takeFrames
    simp only [hr, e]
  have v : State.pickVa { s.scrub pa size with tick := s.tick + 1 } k size 4096 = some va := g
  unfold State.giveBlock
  simp only [z, t, v]
  rfl

/-- With one application, whose launches all want a crew of one hart with no stack, and room for its block, nothing is held up. -/
theorem blocked_none {s : State} {a : App} (ha : s.apps = [(0, a)]) (hl : ∀ l ∈ a.launches, l.crew = 1 ∧ l.stack = 0)
    (h : (s.giveBlock 0 0).isSome = true) : s.blocked = [] := by
  obtain ⟨r, hr⟩ := Option.isSome_iff_exists.mp h
  have hb : ∀ l ∈ a.launches, s.blocksFor 0 l = true := by
    intro l m
    obtain ⟨c, k⟩ := hl l m
    simp [State.blocksFor, c, k, State.giveBlocks, hr]
  unfold State.blocked
  rw [ha]
  simp only [List.flatMap_cons, List.flatMap_nil, List.append_nil, List.map_eq_nil_iff, List.filter_eq_nil_iff]
  intro l m
  simp [hb l m]

theorem st_blocked : st.blocked = [] ∧ preSt.blocked = [] :=
  ⟨blocked_none rfl (by decide +kernel) (giveBlock_some (size := 4096) rfl rfl (by decide +kernel) (by decide +kernel)
      (by decide +kernel) (by decide) (by decide +kernel)),
    blocked_none rfl (by decide +kernel) (giveBlock_some (size := 4096) rfl rfl (by decide +kernel) (by decide +kernel)
      (by decide +kernel) (by decide) (by decide +kernel))⟩

theorem witness_Scheduling_pick :
    (∃ sl, st.pick = some (.place 0 1 sl)) ∧ (st.app 0).launch 1 = some launch0 ∧ (∃ sl, suspSt.pick = some (.resume 1 sl)) ∧
    (∃ d, preSt.pick = some (.preempt 0 2 d)) ∧ State.reset.pick = none :=
  ⟨⟨[(1, 0, 4)], by unfold State.pick; rw [st_blocked.1]; decide +kernel⟩, by decide +kernel, ⟨[(0, 0, 1)], by decide +kernel⟩,
    ⟨⟨[1], [(0, 0, 4)]⟩, by unfold State.pick; rw [st_blocked.2]; decide +kernel⟩, by decide +kernel⟩

/-- A crew of one hart whose thread block has room. -/
theorem witness_Scheduling_room :
    (st.app 0).hasRange 4096 (2 * 1 * roundUp (64 + launch0.stack * 1024) 4096) ∧
    ∀ d < 4, st.hasFrames (hbmBase d) (hbmSize d) 4096 (2 * 1 * roundUp (64 + launch0.stack * 1024) 4096) := by
  refine ⟨⟨0x200000, by decide +kernel⟩, fun d hd => ⟨hbmBase d + 0x10000, ?_⟩⟩
  revert d
  decide +kernel

theorem witness_Scheduling_harts :
    (let s := { withHart { hart0 with swapReq := true } with inp := { n := 1 } }
     s.hartOf s.inp.n = some s.hart ∧ s.hart.swapReq = true ∧ s.hart.run.resident = true ∧ s.storesOut s.hart.id = false ∧
     (∀ t ∈ s.transfers, t.onRegs s.hart.id = false) ∧ s.hart.run ≠ .filling ∧ s.inp.n < s.nextHart ∧
     s.bankSpill s.hart = none ∧
     (let u := { s with others := [{ hart0 with id := 2, slice := 1, cut := 2 }] }
      u.bankSpill u.hart = none ∧ ∃ g ∈ u.crewHarts u.hart.crewid.toNat, g.id ≠ u.hart.id ∧ g.run.resident = true)) ∧
    (let s := { withHart { hart0 with swapReq := true } with
       others := [{ hart0 with id := 9, run := .suspended, bank := some (0, 0) }], inp := { n := 1 } }
     s.hartOf s.inp.n = some s.hart ∧ s.hart.swapReq = true ∧ s.hart.run.resident = true ∧ s.storesOut s.hart.id = false ∧ s.transfers = [] ∧
     s.bankSpill s.hart = some 9) ∧
    (let s := { withHart { hart0 with run := .suspended } with inp := { n := 1 } }
     s.hartOf s.inp.n = some s.hart ∧ s.hart.run = .suspended ∧ s.hart.spilled = false) ∧
    (let s := { withHart { hart0 with run := .filling, spilled := true } with inp := { n := 1 } }
     s.hartOf s.inp.n = some s.hart ∧ s.hart.run = .filling ∧ s.hart.spilled = true ∧ s.bankSpill s.hart = none ∧
     ({ s with others := [{ hart0 with id := 9, run := .suspended, bank := some (0, 0) }] } : State).bankSpill s.hart = some 9) ∧
    ({ st with leases := [(5, { st := .filling })], inp := { n := 5 } } : State).inp.n = 5 ∧
    (({ st with leases := [(5, { st := .filling, lid := 1 })], inp := { n := 5 } } : State).lease 5).st = .filling ∧
    (st.app 0).launch 1 = some launch0 ∧
    (let s := { withHart { hart0 with sfrq := [{ rec0 with age := 64 }] } with inp := { n := 1 } }
     s.hart.id = s.inp.n ∧ s.hart.run = .running ∧ s.hart.sfrq = { rec0 with age := 64 } :: [] ∧ 64 ≤ 64 ∧ s.hart.hact = false) ∧
    (let s := { st with crews := [{ crew0 with debugHeld := true }], inp := { n := 1 } }
     s.crewOf s.inp.n = some { crew0 with debugHeld := true }) ∧ st.inp.n < 64 ∧ (st.app st.inp.n).state = .running := by
  decide +kernel

/-! ### The host's side and the device -/

/-- A shared-object image of one kernel "k" (one EXIT), its control image one instruction, as its bytes that are not zero. -/
def image0 : List Host.Cell :=
  [(0, 127), (1, 69), (2, 76), (3, 70), (4, 2), (5, 1), (6, 1), (16, 3), (18, 92), (19, 11), (20, 1), (32, 64), (40, 128),
    (41, 2), (48, 3), (52, 64), (54, 56), (56, 1), (58, 64), (60, 6), (62, 5), (64, 1), (68, 5), (72, 128), (83, 64), (91, 64),
    (96, 8), (104, 8), (113, 16), (128, 54), (132, 83), (135, 128), (144, 1), (160, 1), (162, 128), (165, 1), (209, 107), (224, 127), (225, 69),
    (226, 76), (227, 70), (228, 2), (229, 1), (230, 1), (240, 3), (242, 243), (244, 1), (256, 64), (264, 176), (276, 64), (278, 56), (280, 1),
    (282, 64), (284, 3), (286, 2), (288, 1), (292, 5), (296, 128), (320, 4), (328, 4), (337, 16), (352, 19), (369, 46), (370, 116), (371, 101),
    (372, 120), (373, 116), (375, 46), (376, 115), (377, 104), (378, 115), (379, 116), (380, 114), (381, 116), (382, 97), (383, 98), (464, 1), (468, 1)] ++
  [(488, 128), (496, 4), (512, 1), (528, 7), (532, 3), (552, 144), (560, 17), (576, 1), (593, 46), (594, 116), (595, 101), (596, 120), (597, 116),
    (599, 46), (600, 107), (601, 105), (602, 110), (603, 102), (604, 111), (606, 46), (607, 115), (608, 116), (609, 114), (610, 116), (611, 97), (612, 98),
    (614, 46), (615, 99), (616, 116), (617, 108), (619, 46), (620, 115), (621, 104), (622, 115), (623, 116), (624, 114), (625, 116), (626, 97), (627, 98),
    (704, 1), (708, 1), (723, 64), (728, 128), (736, 8), (752, 1), (768, 7), (772, 1), (775, 112), (792, 144), (800, 64), (816, 1), (832, 14),
    (836, 3), (856, 208), (864, 3), (880, 1), (896, 22), (900, 3), (903, 112), (920, 224), (928, 112), (929, 1), (944, 1), (960, 27), (964, 3),
    (984, 80), (985, 2), (992, 37), (1008, 1)]

/-- APPLOAD of that image from host memory. -/
def loadSt : State :=
  { st with cmdGo := true, cmdCode := 1, cmdArgs := [(0, 1#64 <<< 63), (1, 1024)], dstat := .ready, hostMem := image0 }

/-- The image as APPLOAD reads it. -/
def loadSco : Sco := ⟨loadSt.cmdArg 1, fun i => if i < loadSt.cmdArg 1 then loadSt.srcByte (loadSt.cmdArg 0 + i) else 0⟩

theorem witness_HostCommands_load :
    loadSt.started 1 ∧ loadSt.cmdArg 2 ≤ 63 ∧ loadSt.cmdArg 5 ≤ 65536 ∧ loadSt.srcOk (loadSt.cmdArg 0) (loadSt.cmdArg 1) = true ∧
      loadSt.srcOk (loadSt.cmdArg 4) (loadSt.cmdArg 5) = true ∧ loadSt.freeSlot = some 1 ∧
      ∃ p, loadSco.plan (featsWord &&& ~~~(loadSt.tenantOf (loadSt.cmdArg 2)).featmask) (loadSt.cmdArg 3) = .ok p := by
  have h : okb (loadSco.plan (featsWord &&& ~~~(loadSt.tenantOf (loadSt.cmdArg 2)).featmask) (loadSt.cmdArg 3)) = true := by decide +kernel
  exact ⟨⟨rfl, rfl⟩, by decide +kernel, by decide +kernel, by decide +kernel, by decide +kernel, by decide +kernel, okb_ok h⟩

/-- A command under way. -/
def cmdSt (c : Byte) (args : List (Nat × Word)) : State := { st with cmdGo := true, cmdCode := c, cmdArgs := args, dstat := .ready }

theorem witness_HostCommands :
    (let s := { st with dstat := .ready, inp := { n := 0x1000, data := [4, 0, 0, 0, 0, 0, 0, 0x80] } }
     s.inp.win = .bar0 ∧ s.tripped = false ∧ s.inp.n = 0x1000 ∧ s.inp.data = [4, 0, 0, 0, 0, 0, 0, 0x80] ∧ (0x80 : Byte).getLsbD 7 = true ∧
       s.cmdGo = false ∧ ({ s with cmdGo := true } : State).cmdGo = true) ∧
    (let s := { st with inp := { n := 0x1030, data := [1, 2, 3, 4, 5, 6, 7, 8] } }
     s.inp.n = 0x1008 + 8 * 5 ∧ s.inp.data.length = 8) ∧
    (cmdSt 1 [(2, 64)]).started 1 ∧ ¬ (cmdSt 1 [(2, 64)]).cmdArg 2 ≤ 63 ∧
    (let s := cmdSt 1 []
     s.cmdArg 2 ≤ 63 ∧ s.cmdArg 5 ≤ 65536 ∧ s.srcOk (s.cmdArg 0) (s.cmdArg 1) = true ∧ s.freeSlot = some 1 ∧
       okb ((⟨0, fun _ => 0⟩ : Sco).plan featsWord 0) = false) ∧
    ({ cmdSt 1 [] with apps := (List.range 64).map fun k => (k, app0) } : State).freeSlot = none ∧
    ((cmdSt 2 [(0, 0)]).slotOf 0 = some 0 ∧ (cmdSt 2 [(0, 65)]).slotOf 65 = none ∧
      ({ cmdSt 3 [] with apps := [(0, { app0 with state := .exited })] } : State).slotOf 0 = some 0) ∧
    (cmdSt 4 [(0, 2000)]).started 4 ∧ (cmdSt 5 [(0, 63), (1, 1)]).started 5 ∧
    (63 < (cmdSt 5 [(0, 64)]).cmdArg 0 ∧ (∃ a ∈ st.apps, a.2.state ≠ .unused ∧ a.2.tenant = 0) ∧
      ∀ a ∈ st.apps, a.2.state = .unused ∨ a.2.tenant ≠ 63) ∧ (cmdSt 6 []).cmdCode.toNat = 6 := by
  unfold State.started; decide +kernel

/-- The readback window with a read of `n` words of `a` under way. -/
def rbSt (a : BitVec 52) (n : BitVec 7) (session : Bool) : State :=
  { st with rbGo := true, rbReq := ⟨0, false, n, a⟩, spdmSession := session, ctxArea := [(0, 0x80000)],
            leases := [(0, { st := .held, cut := 1, lid := 1 })] }

theorem witness_Readback :
    (let s := rbSt 0 3 false
     s.rbGo = true ∧ s.rbEnd = none ∧ s.spdmSession = false ∧ s.rbReq.addr.toNat % 8 = 0 ∧ s.rbReq.addr.toNat + 8 * (s.rbReq.count.toNat + 1) ≤ 2048 * 32) ∧
    (rbSt 4 0 true).rbReq.addr.toNat % 8 ≠ 0 ∧ (rbSt 0x100 0 false).rbReq.addr.toNat % 2 ^ 50 = 0x100 ∧
    (0x78 : BitVec 52).toNat % 2 ^ 50 + 8 * 1 ≤ 0x80 ∧ (0xFFF8 : BitVec 52).toNat + 8 ≤ 2048 * 32 ∧
    (let s := rbSt 0x80000 1 true
     s.spdmSession = true ∧ physRegion 0x80000 = some (0, 2 ^ 40) ∧ (s.areaRegion 0x80000).isSome = true ∧
       s.bankHart (0x80000 / 2 ^ 44 % 256) 0 0 = some s.hart ∧ 0 < (s.lease 0).cut) ∧
    (0x38 : BitVec 52).toNat % 2 ^ 46 + 8 * 1 ≤ 0x40 ∧ 0 / 2 ^ 46 % 16 < poldersOf 0 ∧
    ({ rbSt 0 0 true with rbEnd := some (2, 0) } : State).rbEnd = some (2, 0) := by decide +kernel

/-- A write of GO: no rail, under way already, and one that starts a read of space 6. -/
theorem witness_Readback_go :
    (let s := { rbSt 0 0 true with inp := { win := .readback, n := 0, data := [6, 0, 0, 0, 0, 0, 0, 0x80] }, standbyRail := true }
     s.inp.win = .readback ∧ s.inp.n = 0 ∧ s.inp.data.length = 8 ∧ s.inp.data[7]? = some 0x80 ∧ (0x80 : Byte).getLsbD 7 = true ∧
       s.rbGo = true ∧ s.standbyRail = true ∧ ({ s with rbGo := false } : State).rbGo = false) ∧
    st.standbyRail = false := by decide +kernel

/-- A descriptor at 0x2000 of operation `op` of collective 1, its argument at 0x2100 where 2,000 bytes hold zero. -/
def collSt (op : Byte) (args : List Host.Cell) (cs : List Coll) : State :=
  { ctlSt 0x2000 0 0 0 with
    apps := [(0, { app0 with colls := cs })], mem := ((0x2000, op) :: (0x2008, 1) :: args).filter fun c => c.2 ≠ 0 }

/-- The collective of this package alone. -/
def coll0 : Coll := { cid := 1, members := [0], ended := [], state := .active, bars := [] }

theorem witness_Collectives :
    (let s := collSt 0 [(0x2010, 1), (0x2019, 0x21)] []
     s.ctlCalls 0 ∧ ∃ c, s.readDesc 0 0x2000 = some c ∧ c.clean = true ∧ c.op = 0 ∧ c.nmem = 1 ∧ s.readMembers 0 c.arg c.nmem = some [0] ∧
       s.domain.contains 0 = true ∧ s.remoteMasked 0 = false ∧ (s.app 0).coll c.cid = none) ∧
    (∃ c, (collSt 5 [] []).readDesc 0 0x2000 = some c ∧ 5 ≤ c.op) ∧ (∃ c, (collSt 0x10 [] []).readDesc 0 0x2000 = some c ∧ c.clean = false) ∧
    (let s := collSt 1 [(0x2019, 0x21), (0x2101, 0x10), (0x210A, 0x20), (0x2111, 0x10)] [coll0]
     ∃ c, s.readDesc 0 0x2000 = some c ∧ c.clean = true ∧ c.op = 1) ∧
    (∃ c, (collSt 2 [(0x2019, 0x21)] [coll0]).readDesc 0 0x2000 = some c ∧ c.clean = true ∧ c.op = 2 ∧ c.arg % 16 = 0) ∧
    (∃ c, (collSt 3 [] [coll0]).readDesc 0 0x2000 = some c ∧ c.clean = true ∧ c.op = 3 ∧ c.timeout = 0) ∧
    (∃ c, (collSt 4 [] [coll0]).readDesc 0 0x2000 = some c ∧ c.clean = true ∧ c.op = 4) ∧
    ((collSt 4 [] [coll0]).app 0).coll 1 = some coll0 ∧ coll0.state = .active ∧ (ctlSt 0x9000 0 0 0).readDesc 0 0x9000 = none ∧
    ({ collSt 4 [] [{ coll0 with members := [0, 5] }] with inp := { flag := true, n := 5, k := 1 } } : State).inp.n ∈ [0, 5] := by
  refine ⟨⟨⟨rfl, rfl, rfl⟩, _, rfl, by decide +kernel⟩, ⟨_, rfl, by decide +kernel⟩, ⟨_, rfl, by decide +kernel⟩, ⟨_, rfl, by decide +kernel⟩,
    ⟨_, rfl, by decide +kernel⟩, ⟨_, rfl, by decide +kernel⟩, ⟨_, rfl, by decide +kernel⟩, by decide +kernel⟩

theorem witness_LibraryAndLimits :
    (let s := { st with pclStarted := true, huskBooted := true, capPending := some 1200, inp := { a1 := 63, a2 := 1, n := 7 } }
     s.pclStarted = true ∧ s.inp.a1.toNat ≤ 63 ∧ s.inp.a2 = 1 ∧ 6 < s.inp.n ∧ s.capPending = some 1200 ∧ s.huskBooted = true ∧
       s.locked = false) ∧ 63 < (64 : Word).toNat ∧ 255 < (256 : Word).toNat ∧ (255 : Word).toNat ≤ 255 := by decide +kernel

theorem witness_BringUpAndResets :
    State.reset.standbyRail = false ∧
    (let s := { State.reset with standbyRail := true, huskBooted := true, bringStep := 6 }
     s.huskBooted = true ∧ s.locked = false ∧ s.tripped = false ∧ s.bringStopped = false ∧ s.dstat = .boot ∧ s.bringStep = 6 ∧
       s.inp.failAt = none ∧ s.unprovisioned = false) ∧
    ({ State.reset with inp := { failAt := some (.hbm 15) }, bringStep := 4 } : State).inp.failAt = some (.hbm 15) ∧
    (let s := { st with huskBooted := true, dstat := .ready, bringStep := 8 }
     s.huskBooted = true ∧ s.tripped = false ∧ s.dstat = .ready ∧ s.dstat ≠ .stopped ∧ s.bringStopped = false ∧ 5 ≤ s.bringStep ∧ 7 ≤ s.bringStep) ∧
    ({ st with dstat := .stopped } : State).bringStopped = false ∧ st.huskBooted = false ∧
    ({ st with bringStep := 3 } : State).bringStep < 7 ∧ st.bringStep < 3 := by decide +kernel

/-- A fuse fault, each failing step, step 8 at its end and before it, a reset after a fatal error and none before Husk boots. -/
theorem witness_BringUpAndResets_fails :
    ({ State.reset with inp := { failAt := some .fuse } } : State).inp.failAt = some .fuse ∧
    (∀ p ∈ [(1, BringUpFail.bootAuth), (2, .rail), (3, .dieLink), (5, .riuraAuth)],
      let s := { State.reset with standbyRail := true, huskBooted := true, bringStep := p.1, inp := { failAt := some p.2 } }
      s.huskBooted = true ∧ s.locked = false ∧ s.tripped = false ∧ s.bringStopped = false ∧ s.dstat = .boot ∧ s.bringStep = p.1 ∧
        s.inp.failAt = some p.2) ∧
    (let s := { State.reset with standbyRail := true, huskBooted := true, bringStep := 8, ports := [(5, { st := .deskew })] }
     s.bringOver = false ∧ ({ s with clk := 22000000 } : State).bringOver = true) ∧
    (let s := { st with huskBooted := true, dstat := .fatal }
     s.huskBooted = true ∧ s.tripped = false ∧ s.dstat = .fatal) ∧ State.reset.huskBooted = false := by decide +kernel

theorem witness_DeviceMemory :
    (let s := { st with bringStep := 7, inp := { n := 2 ^ 40 - 2, m := 2, data := [1, 2] } }
     s.tripped = false ∧ 7 ≤ s.bringStep ∧ s.inp.n + s.inp.m ≤ 2 ^ 40 ∧ s.inp.n + s.inp.data.length ≤ 2 ^ 40 ∧ s.locked = false ∧
       s.zeroised = false ∧ s.assigned (s.inp.n + 1) = false ∧ 2 ^ 40 < s.inp.n + 3 ∧ mget false s.poison (s.inp.n / 64) = false) ∧
    st.assigned 0x2000 = true ∧ (2200 * 31 + 549) % 70400 / 2200 = 31 ∧ (2200 * 31 + 549) % 70400 % 2200 < 550 ∧ 550 % 70400 % 2200 ≥ 550 ∧
    ({ st with poison := [(0, true)] } : State).inp.ecc = .none ∧ mget false [(0, true)] (0 / 64) = true := by decide +kernel

/-- A frame that begins and ends at a multiple of 16 bytes has a block whole or not at all. -/
theorem frameTenant_block {s : State} (h : ∀ r ∈ s.keyedFrames, r.pa % 16 = 0 ∧ r.len % 16 = 0) {p q : Nat} (e : p / 16 = q / 16) :
    s.frameTenant p = s.frameTenant q := by
  unfold State.frameTenant
  generalize s.keyedFrames = l at h
  induction l with
  | nil => rfl
  | cons r rs ih =>
    have b := h r (List.mem_cons_self ..)
    have k : (decide (r.pa ≤ p) && decide (p < r.pa + r.len)) = (decide (r.pa ≤ q) && decide (q < r.pa + r.len)) := by
      rw [Bool.eq_iff_iff]
      simp only [Bool.and_eq_true, decide_eq_true_eq]
      omega
    have i := ih fun x m => h x (List.mem_cons_of_mem _ m)
    simp only [List.find?_cons, k]
    split
    · rfl
    · exact i

/-- The host writes and reads an application's frame. -/
theorem witness_DeviceMemory_frames :
    (let s := { st with bringStep := 7, inp := { n := 0x2004, m := 2, data := [1, 2] } }
     s.inp.n + s.inp.data.length ≤ 2 ^ 40 ∧ s.zeroised = false ∧ s.frameTenant s.inp.n = some 0) ∧
    ∀ p q, p / 16 = q / 16 → st.frameTenant p = st.frameTenant q :=
  ⟨by decide +kernel, fun _ _ => frameTenant_block (by decide +kernel)⟩

/-- A locked device, and a corrected and an uncorrectable error that the scrub finds. -/
theorem witness_DeviceMemory_errors :
    ({ st with locked := true } : State).locked = true ∧ ({ st with inp := { ecc := .corrected } } : State).inp.ecc = .corrected ∧
    (let s := { st with inp := { ecc := .uncorrectable } }
     s.inp.flag = false ∧ s.inp.ecc = .uncorrectable ∧ mget false s.poison (s.inp.n / 64) = false) := by decide +kernel

/-- A port in a training state entered at clk 0. -/
def portSt (st' : PortState) (clk : Nat) : State := { st with clk := clk, ports := [(63, { st := st' })], inp := { n := 63 } }

theorem witness_Ports :
    (portSt .disabled 0).inp.n < 64 ∧ ((portSt .down 0).port 63).st = .down ∧
    ((portSt .detect 10999999).port 63).st = .detect ∧ (portSt .detect 10999999).clk < ((portSt .detect 10999999).port 63).since + 11000000 ∧
    ((portSt .detect 11000000).port 63).since + 11000000 ≤ (portSt .detect 11000000).clk ∧
    ((portSt .active 5).port 63).st = .active ∧ ((portSt .retrain 5).port 63).st = .retrain ∧ ((portSt .credit 5).port 63).st = .credit ∧
    (portSt .active 5).unsent = [] ∧ (portSt .active 5).port 63 = { st := .active } ∧
    (let s := { portSt .active 5 with ports := [(63, { st := .active, naks := 9, retrains := [1, 2] })] }
     s.unsent = [] ∧ (s.port s.inp.n).st = .active ∧ 9 ≤ (s.port s.inp.n).naks) := by
  decide +kernel

/-- The bytes of an idle flit before its parity. -/
def idleBody : Nat := flitCrc 0 * 2 ^ 1888

/-- A flit that arrives whole: number 0, type 0, its CRC right. -/
theorem witness_Ports_flit : ∃ (f : BitVec 2048) (g : Nat), flitCorrect f = some g ∧ flitGood g = true ∧ flitSeq g = 0 := by
  refine ⟨_, _, flitCorrect_encoded (toNat_interleave (rsEncode (flitCodeword idleBody 0)) (rsEncode (flitCodeword idleBody 1))), ?_, ?_⟩
  · rw [← flitGood_mod, encoded_mod]
    decide +kernel
  · rw [flitSeq, ← bitsAt_mod _ 1920 _ _ (by decide), encoded_mod]
    decide +kernel

/-- A valid flit lies within four symbols of valid codewords. -/
theorem witness_Ports_near : ∃ f : BitVec 2048, ∀ c < 2, ∃ v < 2 ^ 1024, rsValid v = true ∧ symbolDiffs (flitCodeword f.toNat c) v ≤ 4 := by
  have h := flitCodeword_interleave (rsEncode 0) (rsEncode 0)
  rw [Nat.mod_eq_of_lt (rsEncode_lt _)] at h
  refine ⟨BitVec.ofNat 2048 (interleave (rsEncode 0) (rsEncode 0)), fun c hc => ⟨rsEncode 0, rsEncode_lt 0, rsValid_rsEncode 0, ?_⟩⟩
  rw [toNat_interleave]
  have e : flitCodeword (interleave (rsEncode 0) (rsEncode 0)) c = rsEncode 0 := by
    match c, hc with
    | 0, _ => exact h.1
    | 1, _ => exact h.2
  rw [e]
  simp [symbolDiffs]

theorem witness_StepKeepsMemory : st.memOk ∧ ∃ t, step { st with events := [(.poolLinkUp, {})] } = .next t := ⟨rfl, _, rfl⟩

/-- A port that trains out of time falls back (Table 5). -/
theorem test_port_timeout : (match exec .detectTimeout (portSt .detect 11000000), exec .detectDone (portSt .detect 10999999) with
    | .next t, .next u => ((t.port 63).st, (u.port 63).st)
    | _, _ => (.down, .down)) = (.disabled, .polarity) := by decide +kernel

/-- POWERCAP of 2,012 W is held to the 25 W step below (R15). -/
theorem test_powercap : (match exec .powercap (cmdSt 4 [(0, 2012)]) with
    | .next t => (t.cmdRes, t.capPending, t.powerCap, t.msix)
    | _ => (0, none, 0, [])) = (2000, some 2000, 2800, [0]) := by decide +kernel

end Sys2Proof.Tests
end

section
/-! SUPPORT. What leaves memory alone: the operations of the state that write no byte of it, one lemma each. -/

namespace Sys2Proof.Machine

variable (s : State)

@[simp] theorem State.mem_ite (c : Prop) [Decidable c] (t : State) :
    (if c then s else t).mem = if c then s.mem else t.mem := apply_ite State.mem c s t

/-- A fold of operations that leave memory alone leaves it alone. -/
theorem foldl_mem {α : Type} (f : State → α → State) (hf : ∀ (s : State) (x : α), (f s x).mem = s.mem) :
    ∀ (xs : List α) (s : State), (xs.foldl f s).mem = s.mem
  | [], _ => rfl
  | x :: xs, s => (foldl_mem f hf xs (f s x)).trans (hf s x)

/-! ### Harts, applications and crews -/

@[simp] theorem State.updHart_mem (id f) : (s.updHart id f).mem = s.mem := rfl

@[simp] theorem State.focus_mem (id) : (s.focus id).mem = s.mem := by
  unfold State.focus; (repeat' split) <;> simp

@[simp] theorem State.rotate_mem : s.rotate.mem = s.mem := by
  unfold State.rotate; split <;> simp

@[simp] theorem State.logApp_mem (app msg) : (s.logApp app msg).mem = s.mem := rfl

@[simp] theorem State.resave_mem (id) : (s.resave id).mem = s.mem := by
  unfold State.resave; split <;> simp

@[simp] theorem State.updLaunch_mem (app lid f) : (s.updLaunch app lid f).mem = s.mem := rfl

/-! ### The scheduler -/

@[simp] theorem State.fillRow_mem (c app l) : (s.fillRow c app l).mem = s.mem := by simp [State.fillRow]

@[simp] theorem State.giveRow_mem (c) : (s.giveRow c).mem = s.mem := by
  unfold State.giveRow; split <;> simp

@[simp] theorem State.refreshRow_mem (c) : (s.refreshRow c).mem = s.mem := by
  unfold State.refreshRow; dsimp only; (repeat' split) <;> simp

@[simp] theorem State.refreshRows_mem : s.refreshRows.mem = s.mem := foldl_mem _ State.refreshRow_mem _ s

@[simp] theorem State.dropReserve_mem : s.dropReserve.mem = s.mem := rfl

@[simp] theorem State.keepSlots_mem (r) : (s.keepSlots r).mem = s.mem := rfl

@[simp] theorem State.takeKept_mem (app lid) : (s.takeKept app lid).mem = s.mem := rfl

@[simp] theorem State.kick_mem : s.kick.mem = s.mem := by simp [State.kick]

@[simp] theorem State.preload_mem (app core l) : (s.preload app core l).2.mem = s.mem := by
  unfold State.preload; split
  · rfl
  · dsimp only; split
    · rfl
    · dsimp only; split <;> simp

@[simp] theorem State.fillLease_mem (c) : (s.fillLease c).mem = s.mem := by
  unfold State.fillLease; dsimp only; split <;> simp

@[simp] theorem State.firstPlane_mem (app core l) : (s.firstPlane app core l).2.mem = s.mem := by
  unfold State.firstPlane; split <;> simp

@[simp] theorem State.addHart_mem (h) : (s.addHart h).mem = s.mem := by simp [State.addHart]

@[simp] theorem State.holdRow_mem (app lid sl) : (s.holdRow app lid sl).mem = s.mem := by simp [State.holdRow]

@[simp] theorem State.reloadPlanes_mem (id) : (s.reloadPlanes id).mem = s.mem := by
  unfold State.reloadPlanes; split <;> simp

@[simp] theorem State.resumeRow_mem (h sl) : (s.resumeRow h sl).mem = s.mem := by simp [State.resumeRow]

@[simp] theorem State.resumeHarts_mem (cid) (hs sls) : (s.resumeHarts cid hs sls).mem = s.mem := by
  induction hs generalizing s sls with
  | nil => simp [State.resumeHarts]
  | cons g hs ih => cases sls <;> simp [State.resumeHarts, ih]

@[simp] theorem State.resumeCrew_mem (cid slots) : (s.resumeCrew cid slots).mem = s.mem := by simp [State.resumeCrew]

@[simp] theorem State.removeHarts_mem (cid) : (s.removeHarts cid).mem = s.mem := by
  unfold State.removeHarts; dsimp only; split
  · rfl
  · split <;> rfl

/-! ### Collectives and rounds -/

@[simp] theorem State.lookColl_mem (app cid) : (s.lookColl app cid).mem = s.mem := by
  unfold State.lookColl; split <;> simp

@[simp] theorem State.peerKill_mem (app) : (s.peerKill app).mem = s.mem := by
  unfold State.peerKill
  refine foldl_mem _ (fun t c => ?_) _ s
  split
  · refine foldl_mem _ (fun u p => ?_) _ t
    split <;> simp
  · rfl

@[simp] theorem State.dropRounds_mem (h) : (s.dropRounds h).mem = s.mem := rfl

@[simp] theorem State.haltCrew_mem (cid) : (s.haltCrew cid).mem = s.mem := rfl

@[simp] theorem State.shdbStop_mem (app) : (s.shdbStop app).mem = s.mem := rfl

/-! ### Barriers and calls -/

@[simp] theorem State.wakeCrew_mem (cid) : (s.wakeCrew cid).mem = s.mem := rfl

@[simp] theorem State.arrive_mem (b) : (s.arrive b).mem = s.mem := by simp [State.arrive]

@[simp] theorem State.answer_mem (c r) : (s.answer c r).mem = s.mem := by
  unfold State.answer; split <;> simp

@[simp] theorem State.ret_mem (r) : (s.ret r).mem = s.mem := by simp [State.ret]

@[simp] theorem State.block_mem (k p limit) : (s.block k p limit).mem = s.mem := by simp [State.block]

@[simp] theorem State.timeOut_mem (p) : (s.timeOut p).mem = s.mem := by
  unfold State.timeOut; (repeat' split) <;> simp

@[simp] theorem State.raiseMsix_mem (v) : (s.raiseMsix v).mem = s.mem := rfl

@[simp] theorem State.setSlotState_mem (n d2h m v) : (s.setSlotState n d2h m v).mem = s.mem := rfl

@[simp] theorem State.discardH2d_mem (n) : (s.discardH2d n).mem = s.mem :=
  foldl_mem _ (fun t m => by simp) _ s

@[simp] theorem State.dropCalls_mem (k) : (s.dropCalls k).mem = s.mem := rfl

@[simp] theorem State.updColl_mem (k cid f) : (s.updColl k cid f).mem = s.mem := rfl

@[simp] theorem State.collAgain_mem (k cid) : (s.collAgain k cid).mem = s.mem := by
  unfold State.collAgain; split <;> simp

@[simp] theorem State.endMember_mem (k cid pkg) : (s.endMember k cid pkg).mem = s.mem := by
  unfold State.endMember; dsimp only; split <;> simp

/-! ### The device -/

@[simp] theorem State.logAlways_mem (code addr detail) : (s.logAlways code addr detail).mem = s.mem := rfl

@[simp] theorem State.logDie_mem (d code addr detail) : (s.logDie d code addr detail).mem = s.mem := rfl

@[simp] theorem State.stopWith_mem (cause) : (s.stopWith cause).mem = s.mem := rfl

@[simp] theorem State.lockDown_mem (cause) : (s.lockDown cause).mem = s.mem := by simp [State.lockDown]

@[simp] theorem State.alarm_mem (c policy) : (s.alarm c policy).mem = s.mem := by
  unfold State.alarm; split <;> simp

@[simp] theorem State.endAll_mem : s.endAll.mem = s.mem := rfl

@[simp] theorem State.bringFail_mem (cause) : (s.bringFail cause).mem = s.mem := rfl

@[simp] theorem State.bringOn_mem (k) : (s.bringOn k).mem = s.mem := by simp [State.bringOn]

@[simp] theorem State.pclRet_mem (e v) : (s.pclRet e v).mem = s.mem := rfl

@[simp] theorem State.setCap_mem (w) : (s.setCap w).mem = s.mem := by simp [State.setCap]

@[simp] theorem State.beyondWindow_mem (a) : (s.beyondWindow a).mem = s.mem := rfl

@[simp] theorem State.uncorrectable_mem (pa) : (s.uncorrectable pa).mem = s.mem := by simp [State.uncorrectable]

@[simp] theorem State.headerError_mem (slot) : (s.headerError slot).mem = s.mem := by simp [State.headerError]

@[simp] theorem State.corrected_mem (pa) : (s.corrected pa).mem = s.mem := rfl

/-! ### Pages and stores -/

@[simp] theorem State.breakFrame_mem (pa len) : (s.breakFrame pa len).mem = s.mem := rfl

@[simp] theorem State.replayParked_mem : s.replayParked.mem = s.mem := rfl

@[simp] theorem State.unpop_mem (u : State) : (s.unpop u).mem = u.mem := rfl

@[simp] theorem State.addFaults_mem (kind es) : (s.addFaults kind es).mem = s.mem := rfl

@[simp] theorem State.park_mem (vas) : (s.park vas).mem = s.mem := rfl

@[simp] theorem State.dropOld_mem (vas) : (s.dropOld vas).mem = s.mem := rfl

/-! ### The engine -/

@[simp] theorem State.spreadScales_mem (t f es) : (s.spreadScales t f es).mem = s.mem := by
  unfold State.spreadScales; split
  · exact foldl_mem (fun (u : State) x => u.setPoison _ _) (fun _ _ => rfl) _ s
  · rfl

@[simp] theorem State.spreadPoison_mem (t f es) : (s.spreadPoison t f es).mem = s.mem := by
  unfold State.spreadPoison
  rw [State.spreadScales_mem]
  exact foldl_mem _ (fun u x => by dsimp only; split <;> rfl) _ s

@[simp] theorem State.dropWritten_mem (t k) : (s.dropWritten t k).mem = s.mem := rfl

@[simp] theorem State.bringIn_mem (t a) : (s.bringIn t a).mem = s.mem := by
  unfold State.bringIn; split <;> simp

@[simp] theorem State.land_mem (t) : (s.land t).1.mem = s.mem := by
  unfold State.land; split
  · rfl
  · unfold State.landXferc; dsimp only; (repeat' split) <;> rfl

@[simp] theorem State.landAll_mem (t) : (s.landAll t).1.mem = s.mem := by
  unfold State.landAll; split <;> simp

@[simp] theorem State.landNow_mem (t) : (s.landNow t).mem = s.mem := by
  unfold State.landNow; dsimp only; split <;> simp

@[simp] theorem State.arriveNow_mem (t) : (s.arriveNow t).mem = s.mem := by
  unfold State.arriveNow; (repeat' split) <;> simp

@[simp] theorem State.takeRec_mem (d r) : (s.takeRec d r).mem = s.mem := rfl

/-! ### The host -/

@[simp] theorem State.endCmd_mem (r) : (s.endCmd r).mem = s.mem := rfl

@[simp] theorem State.startCmd_mem : s.startCmd.mem = s.mem := by simp [State.startCmd]

@[simp] theorem State.passH2d_mem (n) : (s.passH2d n).mem = s.mem := rfl

@[simp] theorem State.dropLong_mem (n k) : (s.dropLong n k).mem = s.mem := by
  induction k generalizing s with
  | zero => rfl
  | succ k ih => unfold State.dropLong; dsimp only; split <;> simp [ih]

@[simp] theorem State.send_mem (k buf len limit) : (s.send k buf len limit).mem = s.mem := by
  unfold State.send; (repeat' split) <;> simp

@[simp] theorem State.startRb_mem : s.startRb.mem = s.mem := by simp [State.startRb]

@[simp] theorem State.rbWrite_mem (w bs) : (s.rbWrite w bs).mem = s.mem := by simp [State.rbWrite]

/-! ### Waves, launches and mappings -/

@[simp] theorem State.setShare_mem (c) : (s.setShare c).mem = s.mem := rfl

@[simp] theorem State.waitNow_mem (k) : (s.waitNow k).mem = s.mem := by
  unfold State.waitNow; (repeat' split) <;> simp

@[simp] theorem State.waitAgain_mem (k lid) : (s.waitAgain k lid).mem = s.mem := by
  unfold State.waitAgain; split <;> simp

@[simp] theorem State.addMap_mem (k m) : (s.addMap k m).mem = s.mem := rfl

@[simp] theorem State.endMigrate_mem (k flags r) : (s.endMigrate k flags r).mem = s.mem := by simp [State.endMigrate]

@[simp] theorem State.migrNext_mem (k va hi tier flags) : (s.migrNext k va hi tier flags).mem = s.mem := by
  unfold State.migrNext; dsimp only; split <;> simp

@[simp] theorem State.giveShare_mem (k d) : (s.giveShare k d).mem = s.mem := by
  unfold State.giveShare; dsimp only; split <;> simp

@[simp] theorem State.freshChannel_mem (k) : (s.freshChannel k).mem = s.mem := rfl

@[simp] theorem State.startApp_mem (k entry va len) : (s.startApp k entry va len).mem = s.mem := rfl

@[simp] theorem State.failLoad_mem (e) : (s.failLoad e).mem = s.mem := rfl

/-! ### Ports and readback -/

@[simp] theorem State.sendOn_mem (n u) : (s.sendOn n u).mem = s.mem := rfl

@[simp] theorem State.sendNak_mem (n) : (s.sendNak n).mem = s.mem := by simp [State.sendNak]

@[simp] theorem State.sendOne_mem (u) : (s.sendOne u).mem = s.mem := by
  unfold State.sendOne; dsimp only; split <;> simp

@[simp] theorem State.pump_mem : s.pump.mem = s.mem := foldl_mem _ State.sendOne_mem _ _

@[simp] theorem State.putFlit_mem (die typ pkg c) : (s.putFlit die typ pkg c).mem = s.mem := by simp [State.putFlit]

@[simp] theorem State.enterPort_mem (n st) : (s.enterPort n st).mem = s.mem := rfl

@[simp] theorem State.dropCargo_mem (c) : (s.dropCargo c).mem = s.mem := by
  unfold State.dropCargo; split <;> simp

@[simp] theorem State.portDown_mem (n) : (s.portDown n).mem = s.mem :=
  (foldl_mem _ State.dropCargo_mem _ _).trans (by simp)

@[simp] theorem State.rbFail_mem (code) : (s.rbFail code).mem = s.mem := by simp [State.rbFail]

@[simp] theorem State.rbGive_mem (ws) : (s.rbGive ws).mem = s.mem := by simp [State.rbGive]

/-! ### Signals and rounds -/

@[simp] theorem State.signalWake_mem (target) : (s.signalWake target).mem = s.mem := rfl

@[simp] theorem State.setRound_mem (num status) : (s.setRound num status).mem = s.mem := rfl

end Sys2Proof.Machine
end

section
/-! SUPPORT. What keeps memory's canonical form: the operations that write memory, and the ones built of them (R3, R171). -/

namespace Sys2Proof.Machine

variable {s t : State}

/-! ### Writes, frames and allocation -/

@[simp] theorem State.writePhys_wf (h : Memory.wf s.mem) (o cs) : Memory.wf (s.writePhys o cs).mem := writePhys_memOk o cs h

@[simp] theorem State.writeFor_wf (h : Memory.wf s.mem) (k w va bs) : Memory.wf (s.writeFor k w va bs).mem :=
  writeFor_memOk k w va bs h

@[simp] theorem State.putAt_wf (h : Memory.wf s.mem) (x va n v) : Memory.wf (s.putAt x va n v).mem := putAt_memOk x va n v h

@[simp] theorem State.release_wf (h : Memory.wf s.mem) (r) : Memory.wf (s.release r).mem := release_memOk r h

@[simp] theorem State.reap_wf (h : Memory.wf s.mem) : Memory.wf s.reap.mem := reap_memOk h

/-- A fold of operations that keep the form keeps it. -/
theorem foldl_wf {α : Type} (f : State → α → State) (hf : ∀ s x, Memory.wf s.mem → Memory.wf (f s x).mem)
    (h : Memory.wf s.mem) (xs : List α) : Memory.wf (xs.foldl f s).mem := foldl_memOk f hf xs h

@[simp] theorem State.releaseMaps_wf (h : Memory.wf s.mem) (tenant ms) : Memory.wf (s.releaseMaps tenant ms).mem :=
  foldl_wf _ (fun _ _ h => State.release_wf h _) h ms

@[simp] theorem State.releaseApp_wf (h : Memory.wf s.mem) (a) : Memory.wf (s.releaseApp a).mem :=
  foldl_wf _ (fun _ _ h => State.release_wf h _) (State.releaseMaps_wf h _ _) a.kv

theorem takeFrames_wf {lo len size align pa : Nat} (h : Memory.wf s.mem) (e : s.takeFrames lo len size align = some (pa, t)) :
    Memory.wf t.mem := takeFrames_memOk h e

theorem giveBlock_wf {app k va n : Nat} (h : Memory.wf s.mem) (e : s.giveBlock app k = some (va, n, t)) :
    Memory.wf t.mem := by
  unfold State.giveBlock at e
  dsimp only at e
  split at e
  · cases e
  · next pa s1 hs =>
    split at e <;> cases e
    simpa using takeFrames_wf h hs

/-! ### Crews, launches and the records of transfers -/

theorem startHarts_wf {app l cid unit} : ∀ {rank : Nat} (slots) {s : State}, Memory.wf s.mem →
    s.startHarts app l cid unit rank slots = some t → Memory.wf t.mem
  | _, [], _, h, e => by cases e; exact h
  | _, sl :: sls, s, h, e => by
    unfold State.startHarts at e
    split at e
    · cases e
    · next va pages s1 hs => exact startHarts_wf sls (by simpa using giveBlock_wf h hs) e

@[simp] theorem State.placeCrew_wf (h : Memory.wf s.mem) (app lid slots) : Memory.wf (s.placeCrew app lid slots).mem := by
  unfold State.placeCrew
  split
  · exact h
  · dsimp only
    split
    · exact h
    · next s1 hs => simpa using startHarts_wf slots h hs

@[simp] theorem State.postRec_wf (h : Memory.wf s.mem) (w hart q k r) : Memory.wf (s.postRec w hart q k r).mem := by
  unfold State.postRec
  split
  · exact h
  · dsimp only
    split
    · exact h
    · split <;> simp [h]

@[simp] theorem State.postXfer_wf (h : Memory.wf s.mem) (x status fcode done foff poff) :
    Memory.wf (s.postXfer x status fcode done foff poff).mem := by
  unfold State.postXfer
  split <;> simp [h]

@[simp] theorem State.endLaunch_wf (h : Memory.wf s.mem) (app lid) : Memory.wf (s.endLaunch app lid).mem := by
  unfold State.endLaunch
  dsimp only
  (repeat' split) <;> simp [h]

@[simp] theorem State.dropBlock_wf (h : Memory.wf s.mem) (g) : Memory.wf (s.dropBlock g).mem :=
  State.releaseMaps_wf (s := s.setApp _ _) h _ _

@[simp] theorem State.leaveRows_wf (h : Memory.wf s.mem) (app lid cores) : Memory.wf (s.leaveRows app lid cores).mem := by
  unfold State.leaveRows
  have hk (xs : List Nat) : Memory.wf (xs.foldl (fun u c => u.setLease c { u.lease c with st := .free, lid := 0, app := 0 }) s).mem :=
    foldl_wf _ (fun _ _ h => by simpa using h) h xs
  dsimp only
  split
  · exact hk _
  split
  · simp [hk]
  split
  · simp [hk]
  split
  · exact hk _
  · exact foldl_wf _ (fun u c hu => by simpa using hu) (hk _) _

@[simp] theorem State.endCrew_wf (h : Memory.wf s.mem) (cid failed) : Memory.wf (s.endCrew cid failed).mem := by
  unfold State.endCrew
  split
  · exact h
  · next c _ =>
    have hd : Memory.wf ((s.crewHarts cid).foldl State.dropBlock s).mem := foldl_wf _ (fun _ x h => State.dropBlock_wf h x) h _
    simp [hd]

@[simp] theorem State.abortTransfers_wf (h : Memory.wf s.mem) (hart) : Memory.wf (s.abortTransfers hart).mem :=
  foldl_wf _ (fun _ _ h => State.postXfer_wf h _ _ _ _ _ _) h _

@[simp] theorem State.dropHart_wf (h : Memory.wf s.mem) (g) : Memory.wf (s.dropHart g).mem := State.abortTransfers_wf h _

/-- Dropping what harts have under way keeps the form. -/
@[simp] theorem dropHarts_wf (h : Memory.wf s.mem) (hs : List Hart) : Memory.wf (hs.foldl State.dropHart s).mem :=
  foldl_wf _ (fun _ x h => State.dropHart_wf h x) h hs

@[simp] theorem State.killCrew_wf (h : Memory.wf s.mem) (cid) : Memory.wf (s.killCrew cid).mem := by
  unfold State.killCrew
  split <;> simp [h]

@[simp] theorem State.trapExit_wf (h : Memory.wf s.mem) (status) : Memory.wf (s.trapExit status).mem := by
  unfold State.trapExit
  dsimp only
  split
  · exact h
  · split <;> simp [h]

@[simp] theorem State.suspendCrew_wf (h : Memory.wf s.mem) (cid) : Memory.wf (s.suspendCrew cid).mem := by
  unfold State.suspendCrew
  dsimp only
  split
  · exact h
  · split <;> simp [h]

@[simp] theorem State.takeTrap_wf (h : Memory.wf s.mem) (c tval telem) : Memory.wf (s.takeTrap c tval telem).mem := by
  unfold State.takeTrap
  (repeat' split) <;> simp [h]

@[simp] theorem State.endHart_wf (h : Memory.wf s.mem) : Memory.wf s.endHart.mem := by
  unfold State.endHart
  dsimp only
  (repeat' split) <;> simp [h]

/-! ### Applications -/

@[simp] theorem State.endApp_wf (h : Memory.wf s.mem) (k status) : Memory.wf (s.endApp k status).mem := by
  unfold State.endApp
  have hk (u : State) (hu : Memory.wf u.mem) (cs : List Crew) : Memory.wf (cs.foldl (fun t c => t.killCrew c.id) u).mem :=
    foldl_wf _ (fun _ _ h => State.killCrew_wf h _) hu cs
  simp [hk, h]

@[simp] theorem State.writeOut_wf (h : Memory.wf s.mem) (k w va len ws) : Memory.wf (s.writeOut k w va len ws).mem := by
  unfold State.writeOut
  dsimp only
  (repeat' split) <;> simp [h]

end Sys2Proof.Machine
end

section
/-! SUPPORT. Memory's canonical form through the engine, the loader, Riura's mappings and the links: what each writes keeps it. -/

namespace Sys2Proof.Machine

variable {s t : State}

/-! ### The device and the host -/

@[simp] theorem State.bringNext_wf (h : Memory.wf s.mem) (f) : Memory.wf (s.bringNext f).mem := by
  unfold State.bringNext
  (repeat' split) <;> simp [foldl_mem, h]

@[simp] theorem State.hostWrite_wf (h : Memory.wf s.mem) (a data) : Memory.wf (s.hostWrite a data).mem := by
  unfold State.hostWrite
  split <;> simp [h]

@[simp] theorem State.recv_wf (h : Memory.wf s.mem) (k buf len limit) : Memory.wf (s.recv k buf len limit).mem := by
  unfold State.recv
  dsimp only
  (repeat' split) <;> simp [h]

@[simp] theorem State.resumeMsg_wf (h : Memory.wf s.mem) (k) : Memory.wf (s.resumeMsg k).mem := by
  unfold State.resumeMsg
  split
  · exact h
  · dsimp only
    split <;> split <;> simp [h]

@[simp] theorem State.bar0Write_wf (h : Memory.wf s.mem) (w bs) : Memory.wf (s.bar0Write w bs).mem := by
  unfold State.bar0Write
  dsimp only
  (repeat' split) <;> simp [h]

/-! ### Vector stores -/

@[simp] theorem State.putSegs_wf (f n es) (h : Memory.wf s.mem) : Memory.wf (s.putSegs f n es).mem := by
  induction n generalizing s es with
  | zero => exact h
  | succ n ih => cases es <;> simp [State.putSegs, ih, h]

@[simp] theorem State.putElems_wf (h : Memory.wf s.mem) (f scales es) : Memory.wf (s.putElems f scales es).mem := by
  simp [State.putElems, h]

/-! ### The engine -/

@[simp] theorem State.putSlots_wf (x f pats ks) (h : Memory.wf s.mem) : Memory.wf (s.putSlots x f pats ks).mem := by
  induction ks generalizing s with
  | nil => exact h
  | cons k ks ih => simp [State.putSlots, ih, h]

@[simp] theorem State.putDst_wf (h : Memory.wf s.mem) (x c es k) : Memory.wf (s.putDst x c es k).1.mem := by
  simp [State.putDst, h]

@[simp] theorem State.finish_wf (h : Memory.wf s.mem) (x e) : Memory.wf (s.finish x e).mem := by
  simp [State.finish, h]

@[simp] theorem State.foldWord_wf (h : Memory.wf s.mem) (x m) : Memory.wf (s.foldWord x m).1.mem := by
  unfold State.foldWord
  (repeat' split) <;> simp [h]

@[simp] theorem State.retireMem_wf (h : Memory.wf s.mem) (x n r) : Memory.wf (s.retireMem x n r).mem := by
  unfold State.retireMem
  dsimp only
  split
  · simp [h]
  · exact State.finish_wf (State.foldWord_wf (by simp [h]) _ _) _ _

/-- A region moved keeps the form. -/
theorem moveRegion_wf {app m code} (h : Memory.wf s.mem) (e : s.moveRegion app m code = some t) : Memory.wf t.mem :=
  moveRegion_memOk h e

@[simp] theorem State.tierWalk_wf (x code hi n va) (h : Memory.wf s.mem) : Memory.wf (s.tierWalk x code hi n va).1.mem := by
  induction n generalizing s va with
  | zero => exact h
  | succ n ih =>
    unfold State.tierWalk
    dsimp only
    split
    · exact h
    split
    · exact h
    split
    · exact ih _ h
    split
    · exact h
    split
    · exact h
    split
    · exact h
    · next u hu => exact ih _ (moveRegion_wf (by simpa using h) hu)

@[simp] theorem State.retireXtier_wf (h : Memory.wf s.mem) (x) : Memory.wf (s.retireXtier x).mem := by
  unfold State.retireXtier
  dsimp only
  (repeat' split) <;> simp [h]

@[simp] theorem State.retireRegs_wf (h : Memory.wf s.mem) (x) : Memory.wf (s.retireRegs x).mem := by
  unfold State.retireRegs
  split <;> simp [h]

@[simp] theorem State.retireOne_wf (h : Memory.wf s.mem) (x) : Memory.wf (s.retireOne x).mem := by
  unfold State.retireOne State.retireXfer State.retireXfervs
  dsimp only
  (repeat' split) <;> simp [h]

/-! ### Hand-over and spills -/

@[simp] theorem State.handOver_wf (h : Memory.wf s.mem) (x flag v list ps) :
    Memory.wf (s.handOver x flag v list ps).mem := by
  simp [State.handOver, h]

@[simp] theorem State.writeCrew_wf (h : Memory.wf s.mem) (cid) : Memory.wf (s.writeCrew cid).mem := by
  unfold State.writeCrew
  split <;> simp [h]

@[simp] theorem State.writeImage_wf (h : Memory.wf s.mem) (g) : Memory.wf (s.writeImage g).mem := by
  unfold State.writeImage
  split <;> simp [h]

@[simp] theorem State.acceptLaunch_wf (h : Memory.wf s.mem) (k l) : Memory.wf (s.acceptLaunch k l).mem := by
  simp [State.acceptLaunch, h]

/-! ### Mappings -/

@[simp] theorem State.freshSeg_wf (h : Memory.wf s.mem) (f slot) : Memory.wf (s.freshSeg f slot).mem := by
  rw [State.freshSeg]
  dsimp only
  exact putCells_wf (cellsLE slot _ _) h

@[simp] theorem State.freshPages_wf (h : Memory.wf s.mem) (attr pa len) : Memory.wf (s.freshPages attr pa len).mem := by
  unfold State.freshPages
  split
  · exact h
  · exact foldl_wf _ (fun _ _ h => State.freshSeg_wf h _ _) h _

theorem allocTier_wf {code size align pa k} (h : Memory.wf s.mem) (e : s.allocTier code size align = some (pa, k, t)) :
    Memory.wf t.mem := allocTier_memOk h e

theorem mapPieces_wf {k tier attr most} : ∀ {fuel va len : Nat} {s t : State}, Memory.wf s.mem →
    s.mapPieces k tier attr most fuel va len = some t → Memory.wf t.mem
  | 0, _, _, _, _, _, e => by cases e
  | fuel + 1, va, len, s, t, h, e => by
    unfold State.mapPieces at e
    dsimp only at e
    split at e
    · next pa kind u hu => cases e; simp [allocTier_wf h hu]
    · split at e
      · cases e
      · obtain ⟨u, hu, hv⟩ := Option.bind_eq_some_iff.1 e
        exact mapPieces_wf (mapPieces_wf h hu) hv

theorem mapRange_wf {k tier attr va len} (h : Memory.wf s.mem) (e : s.mapRange k tier attr va len = some t) :
    Memory.wf t.mem := by
  unfold State.mapRange at e
  split at e
  · obtain ⟨⟨pa, kind, u⟩, hu, rfl⟩ := Option.map_eq_some_iff.1 e
    simp [allocTier_wf h hu]
  · cases e

@[simp] theorem State.mapAt_wf (h : Memory.wf s.mem) (k tier attr most va len) :
    Memory.wf (s.mapAt k tier attr most va len).mem := by
  unfold State.mapAt
  dsimp only
  split
  · next hu => simpa using mapRange_wf h hu
  · split
    · next hu => simpa using mapPieces_wf h hu
    · simpa using h

/-! ### Migration and KV pages -/

@[simp] theorem State.convertFrame_wf (h : Memory.wf s.mem) (b f g pa) : Memory.wf (s.convertFrame b f g pa).mem :=
  putCells_wf _ h

@[simp] theorem State.convertRegion_wf (h : Memory.wf s.mem) (k va f) : Memory.wf (s.convertRegion k va f).mem := by
  unfold State.convertRegion
  split
  · split
    · exact h
    · exact foldl_wf _ (fun _ _ h => State.convertFrame_wf h _ _ _ _) h _
  · exact h
  · exact h

@[simp] theorem State.converted_wf (h : Memory.wf s.mem) (k flags ms) : Memory.wf (s.converted k flags ms).mem := by
  unfold State.converted
  split
  · exact h
  · exact foldl_wf _ (fun _ _ h => State.convertRegion_wf h _ _ _) h _

theorem moveAll_wf {app code} : ∀ (ms : List Mapping) {s : State}, Memory.wf s.mem → s.moveAll app code ms = some t →
    Memory.wf t.mem
  | [], _, h, e => by cases e; exact h
  | m :: ms, _, h, e => by
    obtain ⟨u, hu, hv⟩ := Option.bind_eq_some_iff.1 e
    exact moveAll_wf ms (moveRegion_wf h hu) hv

theorem copied_wf (h : Memory.wf s.mem) (e : s.copied = some t) : Memory.wf t.mem := by
  unfold State.copied at e
  split at e
  · cases e
  · exact moveAll_wf _ h e

theorem giveKv_wf {k owner} : ∀ (ps : List Nat) {s : State}, Memory.wf s.mem → s.giveKv k owner ps = some t →
    Memory.wf t.mem
  | [], _, h, e => by cases e; exact h
  | p :: ps, s, h, e => by
    unfold State.giveKv at e
    dsimp only at e
    split at e
    · cases e
    · next pa u hu => exact giveKv_wf ps (by simpa using takeFrames_wf h hu) e

theorem giveList_wf {k ps va} (h : Memory.wf s.mem) (e : s.giveList k ps = some (va, t)) : Memory.wf t.mem := by
  unfold State.giveList at e
  dsimp only at e
  split at e
  · cases e
  · obtain ⟨⟨pa, kind, u⟩, hu, hv⟩ := Option.map_eq_some_iff.1 e
    cases hv
    simp [allocTier_wf h hu]

/-! ### Loading an application -/

@[simp] theorem State.fillBytes_wf (h : Memory.wf s.mem) (k va bs) : Memory.wf (s.fillBytes k va bs).mem :=
  State.writePhys_wf h _ _

/-- A fold over optional states, each answering from a state in the form with one in it. -/
theorem foldl_option_wf {α : Type} (f : Option State → α → Option State)
    (hf : ∀ o x, (∀ u, o = some u → Memory.wf u.mem) → ∀ u, f o x = some u → Memory.wf u.mem) :
    ∀ (xs : List α) {o : Option State}, (∀ u, o = some u → Memory.wf u.mem) → ∀ u, xs.foldl f o = some u → Memory.wf u.mem
  | [], _, h => h
  | x :: xs, o, h => foldl_option_wf f hf xs (hf o x h)

theorem mapRegion_wf {k va len attr} (h : Memory.wf s.mem) (e : s.mapRegion k va len attr = some t) : Memory.wf t.mem := by
  unfold State.mapRegion at e
  dsimp only at e
  split at e
  · cases e; exact h
  · split at e
    · refine foldl_option_wf _ (fun o i ho u hu => ?_) _ (fun u hu => ?_) t e
      · obtain ⟨v, hv, hw⟩ := Option.bind_eq_some_iff.1 hu
        split at hw
        · cases hw; exact ho _ hv
        · exact mapPieces_wf (ho _ hv) hw
      · cases hu; exact h
    · exact mapPieces_wf h e

theorem placeSects_wf {k o delta} : ∀ (hs : List Shdr) {s : State}, Memory.wf s.mem → s.placeSects k o delta hs = some t →
    Memory.wf t.mem
  | [], _, h, e => by cases e; exact h
  | d :: hs, _, h, e => by
    obtain ⟨u, hu, hv⟩ := Option.bind_eq_some_iff.1 e
    exact placeSects_wf hs (State.fillBytes_wf (mapRegion_wf h hu) _ _ _) hv

@[simp] theorem State.patch_wf (h : Memory.wf s.mem) (k delta ps) : Memory.wf (s.patch k delta ps).mem :=
  foldl_wf _ (fun _ _ h => State.fillBytes_wf h _ _ _) h ps

theorem placeCtl_wf {k o base} (h : Memory.wf s.mem) (e : s.placeCtl k o base = some t) : Memory.wf t.mem := by
  obtain ⟨u, hu, rfl⟩ := Option.map_eq_some_iff.1 e
  refine foldl_wf _ (fun _ _ h => State.fillBytes_wf h _ _ _) ?_ _
  refine foldl_option_wf _ (fun q i hq v hv => ?_) _ (fun v hv => ?_) u hu
  · obtain ⟨w, hw, hx⟩ := Option.bind_eq_some_iff.1 hv
    obtain ⟨y, hy, rfl⟩ := Option.map_eq_some_iff.1 hx
    exact State.fillBytes_wf (mapRegion_wf (hq w hw) hy) _ _ _
  · cases hv; exact h

theorem giveWindows_mem {k} (e : s.giveWindows k = some t) : t.mem = s.mem := by
  obtain ⟨kv, _, e⟩ := Option.bind_eq_some_iff.1 e
  obtain ⟨ws, _, rfl⟩ := Option.map_eq_some_iff.1 e
  exact foldl_mem (fun u d => u.giveShare k d) (fun u d => by simp) _ _

theorem giveArgs_wf {k bs va} (h : Memory.wf s.mem) (e : s.giveArgs k bs = some (va, t)) : Memory.wf t.mem := by
  unfold State.giveArgs at e
  split at e
  · cases e; exact h
  · obtain ⟨v, _, e⟩ := Option.bind_eq_some_iff.1 e
    obtain ⟨u, hu, e⟩ := Option.map_eq_some_iff.1 e
    cases e
    exact State.fillBytes_wf (mapRegion_wf h hu) _ _ _

theorem mapPlan_wf {k o p args entry va} (h : Memory.wf s.mem) (e : s.mapPlan k o p args = some (entry, va, t)) :
    Memory.wf t.mem := by
  unfold State.mapPlan at e
  obtain ⟨s1, h1, e⟩ := Option.bind_eq_some_iff.1 e
  dsimp only at e
  split at e
  · cases e
  · obtain ⟨cb, _, e⟩ := Option.bind_eq_some_iff.1 e
    obtain ⟨s3, h3, e⟩ := Option.bind_eq_some_iff.1 e
    obtain ⟨⟨v, s4⟩, h4, e⟩ := Option.bind_eq_some_iff.1 e
    obtain ⟨s5, h5, e⟩ := Option.map_eq_some_iff.1 e
    cases e
    rw [giveWindows_mem h5]
    exact giveArgs_wf (placeCtl_wf (State.patch_wf (placeSects_wf _ h h1) _ _ _) h3) h4

@[simp] theorem State.appload_wf (h : Memory.wf s.mem) : Memory.wf s.appload.mem := by
  unfold State.appload
  dsimp only
  split
  · simp [h]
  split
  · simp [h]
  split
  · simp [h]
  split
  · simp [h]
  · next hm => simpa using mapPlan_wf (by simpa using State.reap_wf h) hm

/-! ### Trains, rounds and the control program -/

@[simp] theorem State.barAt_wf (h : Memory.wf s.mem) (pa f) : Memory.wf (s.barAt pa f).mem := State.writePhys_wf h _ _

theorem trainElem_wf (own w app) (r : State × List Nat × Nat) (e : TrainElem) (h : Memory.wf r.1.mem) :
    Memory.wf (State.trainElem own w app r e).1.mem := by
  unfold State.trainElem
  split
  · exact h
  · exact State.writePhys_wf h _ _

theorem trainElems_wf (own w app) : ∀ (es : List TrainElem) {r : State × List Nat × Nat}, Memory.wf r.1.mem →
    Memory.wf (es.foldl (State.trainElem own w app) r).1.mem
  | [], _, h => h
  | e :: es, r, h => trainElems_wf own w app es (trainElem_wf own w app r e h)

@[simp] theorem State.runTrain_wf (h : Memory.wf s.mem) (own w app bar es) : Memory.wf (s.runTrain own w app bar es).1.mem := by
  have hr := trainElems_wf own w app es (r := (s, [], 0)) h
  unfold State.runTrain
  dsimp only
  (repeat' split) <;> simp [hr]

@[simp] theorem State.sendTrain_wf (h : Memory.wf s.mem) (f bar es p) : Memory.wf (s.sendTrain f bar es p).mem := by
  unfold State.sendTrain
  dsimp only
  (repeat' split) <;> simp [h]

@[simp] theorem State.putMerged_wf (h : Memory.wf s.mem) (app va f v) : Memory.wf (s.putMerged app va f v).1.mem := by
  unfold State.putMerged
  (repeat' split) <;> simp [h]

@[simp] theorem State.deliver_wf (h : Memory.wf s.mem) (r w) : Memory.wf (s.deliver r w).mem := by
  unfold State.deliver
  dsimp only
  (repeat' split) <;> simp [h]

@[simp] theorem State.deliverIn_wf (h : Memory.wf s.mem) (i tag pkg) : Memory.wf (s.deliverIn i tag pkg).mem := by
  unfold State.deliverIn
  dsimp only
  (repeat' split) <;> simp [h]

@[simp] theorem State.abortBar_wf (h : Memory.wf s.mem) (app va) : Memory.wf (s.abortBar app va).mem := by
  unfold State.abortBar
  split <;> simp [h]

@[simp] theorem State.abortColl_wf (h : Memory.wf s.mem) (app pkg cid) : Memory.wf (s.abortColl app pkg cid).mem := by
  unfold State.abortColl
  dsimp only
  split
  · exact h
  · split
    · simpa using h
    · rw [State.lookColl_mem]
      exact foldl_wf _ (fun _ _ h => State.abortBar_wf h _ _) (by simpa using h) _

theorem accept_mem {pkg c n} (e : s.accept pkg c = some (n, t)) : t.mem = s.mem := by
  unfold State.accept at e
  dsimp only at e
  (repeat' split at e) <;> cases e <;> simp

@[simp] theorem acceptAll_mem (pkg down cs seen) (s : State) (bad) : (acceptAll pkg down cs seen s bad).1.mem = s.mem := by
  induction cs generalizing seen s bad with
  | nil => rfl
  | cons c cs ih =>
    unfold acceptAll
    split
    · exact ih _ _ _
    · next hs =>
      rw [ih]
      split at hs
      · cases hs
      · split <;> simp [accept_mem hs]

@[simp] theorem State.wsWrite_wf (h : Memory.wf s.mem) (k off bs d) : Memory.wf (s.wsWrite k off bs d).mem := by
  unfold State.wsWrite
  dsimp only
  rw [foldl_mem _ (fun u x => by split <;> rfl)]
  simp [h]

@[simp] theorem State.ctlPut_wf (h : Memory.wf s.mem) (k va bs) : Memory.wf (s.ctlPut k va bs).mem :=
  State.writeFor_wf h _ _ _ _

@[simp] theorem State.ctlStore_wf (h : Memory.wf s.mem) (k va bs) : Memory.wf (s.ctlStore k va bs).mem := by
  unfold State.ctlStore
  (repeat' split) <;> simp [h]

@[simp] theorem State.ctlAtomic_wf (h : Memory.wf s.mem) (k va n op v) : Memory.wf (s.ctlAtomic k va n op v).mem := by
  unfold State.ctlAtomic
  dsimp only
  (repeat' split) <;> simp [h]

@[simp] theorem State.ctlLoad_wf (h : Memory.wf s.mem) (k va n) : Memory.wf (s.ctlLoad k va n).mem := by
  unfold State.ctlLoad
  split <;> simp [h]

end Sys2Proof.Machine
end

section
/-! SUPPORT. What an instruction's result says of memory: a good end, a trap that leaves an effect and a wait each carry a state,
and memory has its canonical form in every one of them. -/

namespace Sys2Proof.Machine

variable {α : Type} {p : α → Prop} {s t : State}

/-! ### Results -/

/-- Memory has its form in the state that a stop carries. -/
def Stop.wf : Stop → Prop
  | .trap _ _ _ => True
  | .trapKeep s _ _ _ => Memory.wf s.mem
  | .wait s => Memory.wf s.mem

@[simp] theorem Stop.wf_trap (c v n) : (Stop.trap c v n).wf := trivial
@[simp] theorem Stop.wf_illegal : Stop.illegal.wf := trivial
@[simp] theorem Stop.wf_opfmt : Stop.opfmt.wf := trivial
@[simp] theorem Stop.wf_trapKeep (c v n) : (Stop.trapKeep s c v n).wf ↔ Memory.wf s.mem := Iff.rfl
@[simp] theorem Stop.wf_wait : (Stop.wait s).wf ↔ Memory.wf s.mem := Iff.rfl

/-- A result whose good ends satisfy `p` and whose stops keep memory's form. -/
def Answers (p : α → Prop) : Except Stop α → Prop
  | .ok a => p a
  | .error e => e.wf

@[simp] theorem answers_ok (a : α) : Answers p (.ok a) ↔ p a := Iff.rfl
@[simp] theorem answers_error (e : Stop) : Answers p (.error e) ↔ e.wf := Iff.rfl

theorem Answers.ok {r : Except Stop α} {a : α} (h : Answers p r) (e : r = .ok a) : p a := by subst e; exact h

theorem Answers.error {r : Except Stop α} {e : Stop} (h : Answers p r) (he : r = .error e) : e.wf := by subst he; exact h

/-- A result of which only the stops matter. -/
abbrev Stops (r : Except Stop α) : Prop := Answers (fun _ => True) r

/-- A result that ends in a state with memory in its form, or stops in one. -/
abbrev Keeps (r : Except Stop State) : Prop := Answers (fun t => Memory.wf t.mem) r

/-- An operation that goes on does so with memory in its form. -/
def Goes : Outcome State Fault Refusal → Prop
  | .next t => Memory.wf t.mem
  | .fault _ => True
  | .refused _ => True

@[simp] theorem goes_next : Goes (.next t) ↔ Memory.wf t.mem := Iff.rfl

/-! ### Ending an instruction -/

@[simp] theorem State.stopped_wf (h : Memory.wf s.mem) (i) {e : Stop} (he : e.wf) : Memory.wf (s.stopped i e).mem := by
  cases e with
  | trap c v n => exact State.takeTrap_wf h _ _ _
  | trapKeep t c v n => exact State.takeTrap_wf he _ _ _
  | wait t => exact he

theorem complete_goes (h : Memory.wf s.mem) {i r} (hr : Keeps r) : Goes (complete i s r) := by
  cases r with
  | ok t => exact hr
  | error e => exact State.stopped_wf h i hr

theorem completeTo_goes (h : Memory.wf s.mem) {i r} (hr : Answers (fun t => Memory.wf t.1.mem) r) : Goes (completeTo i s r) := by
  cases r with
  | ok t => exact hr
  | error e => exact State.stopped_wf h i hr

theorem completeAs_goes (h : Memory.wf s.mem) {i r} (hr : Keeps r) : Goes (completeAs i s r) := by
  cases r with
  | ok t => exact hr
  | error e => exact State.stopped_wf h i hr

theorem storepend_wf {g : Hart} {e : Stop} (he : g.storepend = some e) : e.wf := by
  unfold Hart.storepend at he
  split at he
  · cases he
  · split at he <;> cases he
    trivial

theorem trigger_keeps {k : Except Stop State} (hk : Keeps k) : Keeps (s.trigger k) := by
  unfold State.trigger
  split
  · next he => exact storepend_wf he
  · exact hk

/-- A completing event runs its hart's waiting instruction again. -/
theorem onWait_goes (h : Memory.wf s.mem) {f} (hf : ∀ t : State, Memory.wf t.mem → ∀ i o, f t i = some o → Goes o) :
    Goes (s.onWait f) := by
  unfold State.onWait
  dsimp only
  split
  · exact h
  split
  · exact h
  split
  · exact h
  · next ho => exact hf _ (by simpa using h) _ _ ho

/-! ### Waits and scalar accesses -/

theorem waitDrained_stops (h : Memory.wf s.mem) (scope) : Stops (s.waitDrained scope) := by
  unfold State.waitDrained
  split <;> simp [h]

theorem loadScalar_stops (h : Memory.wf s.mem) (va n) : Stops (s.loadScalar va n) := by
  unfold State.loadScalar
  dsimp only
  (repeat' split) <;> simp [h]

theorem storePage_stops (h : Memory.wf s.mem) (va n) : Stops (s.storePage va n) := by
  unfold State.storePage
  dsimp only
  (repeat' split) <;> simp [h]

theorem storeScalar_keeps (h : Memory.wf s.mem) (va n v) : Keeps (s.storeScalar va n v) := by
  unfold State.storeScalar
  split
  · next he => exact (storePage_stops h va n).error he
  · simp [h]

theorem amo8_answers (h : Memory.wf s.mem) (va f) : Answers (fun r => Memory.wf r.2.mem) (s.amo8 va f) := by
  unfold State.amo8
  split
  · next he => exact (storePage_stops h va 8).error he
  · dsimp only
    (repeat' split) <;> simp [h]

theorem fetch_stops : Stops s.fetch := by
  unfold State.fetch
  dsimp only
  (repeat' split) <;> simp

/-! ### Vector operands -/

section
variable (g : Hart)

theorem readGroup_stops (w k n) : Stops (g.readGroup w k n) := by
  unfold Hart.readGroup
  dsimp only
  (repeat' split) <;> simp

theorem readRun_stops (r) : Stops (g.readRun r) := readGroup_stops g _ _ _

theorem asOpd_stops (v : Vec) (f vl) : Stops (v.asOpd f vl) := by
  unfold Vec.asOpd
  (repeat' split) <;> simp

theorem operand_stops (n) : Stops (g.operand n) := by
  unfold Hart.operand
  split
  · next he => exact (readRun_stops g _).error he
  · exact asOpd_stops _ _ _

theorem optOperand_stops (c : Prop) [Decidable c] (n x) : Stops (if c then g.operand n else .ok x) := by
  split
  · exact operand_stops g n
  · simp

theorem tagged_stops (n q) : Stops (g.tagged n q) := by
  unfold Hart.tagged
  split
  · next he => exact (readRun_stops g _).error he
  · split <;> simp

theorem rawAt_stops (n) : Stops (g.rawAt n) := by
  unfold Hart.rawAt
  split
  · next he => exact (readRun_stops g _).error he
  · (repeat' split) <;> simp

theorem readAny_stops (r) : Stops (g.readAny r) := by
  unfold Hart.readAny
  dsimp only
  split
  · next he => exact (readRun_stops _ r).error he
  · simp

theorem convOld_stops (d m) : Stops (g.convOld d m) := by
  unfold Hart.convOld
  split
  · exact operand_stops g _
  · simp

theorem extraGroup_stops (a) : Stops (g.extraGroup a) := by
  unfold Hart.extraGroup
  split
  · split
    · next he => exact (readRun_stops g _).error he
    · (repeat' split) <;> simp
  · simp

theorem indices_stops (n) : Stops (g.indices n) := by
  unfold Hart.indices
  split
  · next he => exact (tagged_stops g n _).error he
  · simp

theorem loadOld_stops (d m tag) : Stops (g.loadOld d m tag) := by
  unfold Hart.loadOld
  split
  · simp
  · split
    · next he => exact (readRun_stops g _).error he
    · (repeat' split) <;> simp

theorem permOf_stops (c) : Stops (g.permOf c) := by
  unfold Hart.permOf
  split
  · simp
  · split
    · next he => exact (readGroup_stops g _ _ _).error he
    · split <;> simp

theorem srcTags_stops (c runs) : Stops (g.srcTags c runs) := by
  unfold Hart.srcTags
  split
  · split <;> simp
  · split
    · simp
    · split
      · next he => exact (readGroup_stops g _ _ _).error he
      · (repeat' split) <;> simp

theorem planeBytes_stops (w) : Stops (g.planeBytes w) := by
  unfold Hart.planeBytes
  dsimp only
  split
  · simp
  · split
    · next he => exact (readGroup_stops g _ _ _).error he
    · simp

theorem planeArr_stops (w n) : Stops (g.planeArr w n) := by
  induction n generalizing w with
  | zero => simp [Hart.planeArr]
  | succ n ih =>
    unfold Hart.planeArr
    split
    · next he => exact (planeBytes_stops g w).error he
    · split
      · next he => exact (ih _).error he
      · simp

theorem rowVecs_stops (a n) : Stops (g.rowVecs a n) := by
  induction n generalizing a with
  | zero => simp [Hart.rowVecs]
  | succ n ih =>
    unfold Hart.rowVecs
    split
    · next he => exact (readGroup_stops g _ _ _).error he
    · split
      · next he => exact (ih _).error he
      · simp

theorem aRows_stops (a n) : Stops (g.aRows a n) := by
  unfold Hart.aRows
  split
  · next he => exact (rowVecs_stops g a n).error he
  · dsimp only
    split
    · simp
    split
    · split
      · next he => exact (rowVecs_stops g _ n).error he
      · split <;> simp
    · simp

theorem accumulate_stops (t k a) : Stops (g.accumulate t k a) := by
  unfold Hart.accumulate
  dsimp only
  split <;> simp

theorem chainReg_stops (n start k) : Stops (g.chainReg n start k) := by
  unfold Hart.chainReg
  split
  · next he => exact (readGroup_stops g _ _ _).error he
  · (repeat' split) <;> simp

end

/-! ### What must hold before an instruction issues -/

theorem vecReady_stops (h : Memory.wf s.mem) (reads writes m) : Stops (s.vecReady reads writes m) := by
  unfold State.vecReady
  dsimp only
  (repeat' split) <;> simp [h]

theorem shareOf_stops (m) : Stops (s.shareOf m) := by
  unfold State.shareOf
  dsimp only
  (repeat' split) <;> simp

theorem mmaReady_stops (h : Memory.wf s.mem) (a n) : Stops (s.mmaReady a n) := by
  unfold State.mmaReady
  split
  · simp
  · exact vecReady_stops h _ _ _

theorem facReady_stops (h : Memory.wf s.mem) (o) : Stops (s.facReady o) := by
  unfold State.facReady
  dsimp only
  split
  · simp
  · split
    · next he => exact (vecReady_stops h _ _ _).error he
    · split <;> simp

/-! ### Pops -/

/-- A state that has popped streams, with the fault of one if one has faulted: memory is that of `s`, and the fault carries no state
in which it is not in its form. -/
def Popped (s : State) (a : State × Option Stop) : Prop := a.1.mem = s.mem ∧ ∀ e, a.2 = some e → e.wf

theorem pop_popped (q st) : Popped s (s.pop q st) := by
  unfold State.pop
  dsimp only
  split
  · exact ⟨rfl, fun e he => by cases he; trivial⟩
  · exact ⟨by simp, fun e he => by cases he⟩

theorem popAll_popped (reads) : Popped s (s.popAll reads) := by
  refine List.foldlRecOn _ _ (⟨rfl, fun e he => by cases he⟩ : Popped s (s, none)) fun a ha x _ => ?_
  dsimp only
  split
  · exact ha
  · next st _ =>
    split
    · refine ⟨(pop_popped x.1 st).1.trans ha.1, fun e he => ?_⟩
      split at he
      · exact (pop_popped x.1 st).2 e he
      · next y hy => exact ha.2 e (hy.trans he)
    · exact ha

/-- What follows the pops of an instruction starts from memory in its form and keeps it. -/
theorem withPops_keeps (h : Memory.wf s.mem) (reads) {k : State → Except Stop State}
    (hk : ∀ t : State, Memory.wf t.mem → Keeps (k t)) : Keeps (s.withPops reads k) := by
  have hp := popAll_popped (s := s) reads
  have hr := hk (s.popAll reads).1 (by rw [hp.1]; exact h)
  unfold State.withPops
  dsimp only
  split
  · exact h
  split
  · next he _ => exact hr.ok he
  · next e _ he => exact hp.2 e he
  · next he => exact hr.error he
  · next _ he _ => exact hr.error he
  · next e _ he hs =>
    split
    · exact hr.error he
    · exact hp.2 e hs

end Sys2Proof.Machine
end

section
/-! SUPPORT. The shared vector, transfer and matrix operations end, and stop, with memory in its canonical form. -/

namespace Sys2Proof.Machine

variable {s t : State}

/-! ### Element-wise, reductions and moves -/

theorem vec2_keeps (h : Memory.wf s.mem) (cls rounds fused fn d a b m) : Keeps (s.vec2 cls rounds fused fn d a b m) := by
  unfold State.vec2
  dsimp only
  split
  · simp
  split
  · next he => exact (vecReady_stops h _ _ _).error he
  · refine withPops_keeps h _ fun t ht => ?_
    split
    · exact ht
    · next he => exact (operand_stops _ _).error he
    · next he => exact (operand_stops _ _).error he
    · next he => exact (optOperand_stops _ _ _ _).error he

theorem vec1_keeps (h : Memory.wf s.mem) (cls rounds fn d a m) : Keeps (s.vec1 cls rounds fn d a m) := by
  unfold State.vec1
  dsimp only
  split
  · simp
  split
  · next he => exact (vecReady_stops h _ _ _).error he
  · refine withPops_keeps h _ fun t ht => ?_
    split
    · exact ht
    · next he => exact (operand_stops _ _).error he
    · next he => exact (optOperand_stops _ _ _ _).error he

theorem vec0_keeps (h : Memory.wf s.mem) (cls src d m) : Keeps (s.vec0 cls src d m) := by
  unfold State.vec0
  dsimp only
  split
  · simp
  split
  · next he => exact (vecReady_stops h _ _ _).error he
  · refine withPops_keeps h _ fun t ht => ?_
    split
    · next he => exact (optOperand_stops _ _ _ _).error he
    · exact ht

theorem cmp_keeps (h : Memory.wf s.mem) (rel d a b m) : Keeps (s.cmp rel d a b m) := by
  unfold State.cmp
  dsimp only
  split
  · simp
  split
  · next he => exact (vecReady_stops h _ _ _).error he
  · refine withPops_keeps h _ fun t ht => ?_
    split
    · exact ht
    · next he => exact (operand_stops _ _).error he
    · next he => exact (operand_stops _ _).error he

theorem plogic_keeps (h : Memory.wf s.mem) (f d a b m) : Keeps (s.plogic f d a b m) := by
  unfold State.plogic
  dsimp only
  split <;> simp [h]

theorem reduce_keeps (h : Memory.wf s.mem) (cls k d a m) : Keeps (s.reduce cls k d a m) := by
  unfold State.reduce
  dsimp only
  split
  · simp
  split
  · next he => exact (vecReady_stops h _ _ _).error he
  · refine withPops_keeps h _ fun t ht => ?_
    split
    · next he => exact (operand_stops _ _).error he
    · exact ht

theorem seg_keeps (h : Memory.wf s.mem) (old f z k d a b m) : Keeps (s.seg old f z k d a b m) := by
  unfold State.seg
  dsimp only
  split
  · simp
  split
  · next he => exact (vecReady_stops h _ _ _).error he
  · refine withPops_keeps h _ fun t ht => ?_
    split
    · exact ht
    · next he => exact (operand_stops _ _).error he
    · next he => exact (optOperand_stops _ _ _ _).error he

theorem moveElems_keeps (h : Memory.wf s.mem) (old more) {k} (d a m) (hk : ∀ g x o, Stops (k g x o)) :
    Keeps (s.moveElems old more k d a m) := by
  unfold State.moveElems
  dsimp only
  split
  · simp
  split
  · next he => exact (vecReady_stops h _ _ _).error he
  · refine withPops_keeps h _ fun t ht => ?_
    split
    · split
      · next he => exact (hk _ _ _).error he
      · exact ht
    · next he => exact (rawAt_stops _ _).error he
    · next he => exact (optOperand_stops _ _ _ _).error he

theorem copyReg_keeps (h : Memory.wf s.mem) (d a) : Keeps (s.copyReg d a) := by
  unfold State.copyReg
  dsimp only
  split
  · next he => exact (vecReady_stops h _ _ _).error he
  · refine withPops_keeps h _ fun t ht => ?_
    split
    · next he => exact (readAny_stops _ _).error he
    · exact ht

theorem reencode_keeps (h : Memory.wf s.mem) (out k d a) : Keeps (s.reencode out k d a) := by
  unfold State.reencode
  dsimp only
  split
  · next he => exact (vecReady_stops h _ _ _).error he
  · refine withPops_keeps h _ fun t ht => ?_
    split
    · next he => exact (readRun_stops _ _).error he
    · exact ht

/-! ### Loads -/

theorem loadGo_keeps (h : Memory.wf s.mem) (q d m nf) : Keeps (s.loadGo q d m nf) := by
  unfold State.loadGo
  dsimp only
  split
  · simp
  split
  · next he => exact (loadOld_stops _ _ _ _).error he
  · (repeat' split) <;> simp [h]

theorem loadVec_keeps (h : Memory.wf s.mem) (reads d nf m) {mk} (hm : ∀ t, Memory.wf t.mem → Stops (mk t)) :
    Keeps (s.loadVec reads d nf m mk) := by
  unfold State.loadVec
  dsimp only
  split
  · next he => exact (vecReady_stops h _ _ _).error he
  · refine withPops_keeps h _ fun t ht => ?_
    split
    · next he => exact (hm t ht).error he
    · exact loadGo_keeps ht _ _ _ _

theorem loadU_goes (h : Memory.wf s.mem) (i d a m ff) : Goes (s.loadU i d a m ff) :=
  complete_goes h (loadVec_keeps h _ _ _ _ fun _ _ => trivial)

theorem loadS_goes (h : Memory.wf s.mem) (i d a b m ff) : Goes (s.loadS i d a b m ff) :=
  complete_goes h (loadVec_keeps h _ _ _ _ fun _ _ => trivial)

theorem loadX_goes (h : Memory.wf s.mem) (i d a b m f) : Goes (s.loadX i d a b m f) := by
  refine complete_goes h (loadVec_keeps h _ _ _ _ fun t _ => ?_)
  split
  · next he => exact (indices_stops _ _).error he
  · trivial

/-! ### Stores and atomics -/

theorem indexReq_stops (a b) : Stops (s.indexReq a b) := by
  unfold State.indexReq
  split
  · next he => exact (indices_stops _ _).error he
  · simp

theorem pageTrap_wf {f whole es e} (he : s.pageTrap f whole es = some e) : e.wf := by
  unfold State.pageTrap at he
  (repeat' split at he) <;> cases he <;> trivial

theorem storeWait_wf (h : Memory.wf s.mem) {f vas e} (he : s.storeWait f vas = some e) : e.wf := by
  unfold State.storeWait at he
  (repeat' split at he) <;> cases he <;> exact h

theorem storeCheck_stops (h : Memory.wf s.mem) (q v m) : Stops (s.storeCheck q v m) := by
  unfold State.storeCheck
  dsimp only
  split
  · simp
  split
  · next he _ => exact pageTrap_wf he
  · next he => split at he <;> cases he; trivial
  · next he hf =>
    split at hf <;> cases hf
    split
    · exact pageTrap_wf he
    · trivial
  · split
    · next he => exact storeWait_wf h he
    · simp

theorem storeGo_keeps (h : Memory.wf s.mem) (q v m) : Keeps (s.storeGo q v m) := by
  unfold State.storeGo
  split
  · next he => exact (storeCheck_stops h _ _ _).error he
  · simp [h]

theorem storeWith_keeps (h : Memory.wf s.mem) (more d m) {mk k} (hm : ∀ t, Memory.wf t.mem → Stops (mk t))
    (hk : ∀ t q v, Memory.wf t.mem → Keeps (k t q v)) : Keeps (s.storeWith more d m mk k) := by
  unfold State.storeWith
  dsimp only
  split
  · next he => exact (vecReady_stops h _ _ _).error he
  · refine withPops_keeps h _ fun t ht => ?_
    split
    · exact hk t _ _ ht
    · next he => exact (readRun_stops _ _).error he
    · next he => exact (hm t ht).error he

theorem scGo_keeps (h : Memory.wf s.mem) (q v m) : Keeps (s.scGo q v m) := by
  unfold State.scGo
  split
  · next he => exact (storeCheck_stops h _ _ _).error he
  · simp [h]

theorem vstAt_goes (h : Memory.wf s.mem) (d a m) : Goes (s.vstAt d a m) :=
  complete_goes h (storeWith_keeps h _ _ _ (fun _ _ => trivial) fun _ _ _ ht => storeGo_keeps ht _ _ _)

theorem vstsAt_goes (h : Memory.wf s.mem) (d a b m) : Goes (s.vstsAt d a b m) :=
  complete_goes h (storeWith_keeps h _ _ _ (fun _ _ => trivial) fun _ _ _ ht => storeGo_keeps ht _ _ _)

theorem vstxAt_goes (h : Memory.wf s.mem) (d a b m) : Goes (s.vstxAt d a b m) :=
  complete_goes h (storeWith_keeps h _ _ _ (fun _ _ => indexReq_stops _ _) fun _ _ _ ht => storeGo_keeps ht _ _ _)

theorem vscAt_goes (h : Memory.wf s.mem) (d a b m) : Goes (s.vscAt d a b m) :=
  complete_goes h (storeWith_keeps h _ _ _ (fun _ _ => indexReq_stops _ _) fun _ _ _ ht => scGo_keeps ht _ _ _)

theorem apply_wf (fn f more) (r : AtomAcc) (e) (h : Memory.wf r.st.mem) : Memory.wf (AtomAcc.apply fn f more r e).st.mem := by
  unfold AtomAcc.apply
  dsimp only
  split
  · exact h
  · split <;> simp [h]

theorem applyAll_wf (fn f more) : ∀ (es : List SElem) {r : AtomAcc}, Memory.wf r.st.mem →
    Memory.wf (es.foldl (AtomAcc.apply fn f more) r).st.mem
  | [], _, h => h
  | e :: es, r, h => applyAll_wf fn f more es (apply_wf fn f more r e h)

theorem atomic_goes (h : Memory.wf s.mem) (i tags pair fn d a b m) : Goes (s.atomic i tags pair fn d a b m) := by
  unfold State.atomic
  refine complete_goes h ?_
  split
  · next he => exact (vecReady_stops h _ _ _).error he
  · refine storeWith_keeps h _ _ _ (fun _ _ => indexReq_stops _ _) fun t q v ht => ?_
    dsimp only
    split
    · next he =>
      split at he
      · exact (readRun_stops _ _).error he
      · cases he
    split
    · trivial
    split
    · next he => exact (storeCheck_stops ht _ _ _).error he
    · simp [applyAll_wf, ht]

/-! ### Transfers -/

theorem issueXfer_keeps (h : Memory.wf s.mem) (x draws) : Keeps (s.issueXfer x draws) := by
  unfold State.issueXfer
  dsimp only
  (repeat' split) <;> simp [h]

theorem xferMem_keeps (h : Memory.wf s.mem) (op d a b) : Keeps (s.xferMem op d a b) := by
  unfold State.xferMem
  dsimp only
  split
  · simp
  · exact issueXfer_keeps h _ _

theorem xwaitAt_goes (h : Memory.wf s.mem) (d a) : Goes (s.xwaitAt d a) := by
  refine complete_goes h ?_
  split <;> simp [h]

/-! ### The matrix array -/

theorem mldsMem_keeps (h : Memory.wf s.mem) (a) : Keeps (s.mldsMem a) := by
  unfold State.mldsMem
  dsimp only
  (repeat' split) <;> simp [h]

theorem mldsRegs_keeps (h : Memory.wf s.mem) (a n) : Keeps (s.mldsRegs a n) := by
  unfold State.mldsRegs
  split
  · next he => exact (vecReady_stops h _ _ _).error he
  · refine withPops_keeps h _ fun t ht => ?_
    dsimp only
    split
    · simp
    split
    · next he => exact (planeArr_stops _ _ _).error he
    · exact ht

theorem leaderRows_answers (h : Memory.wf s.mem) (q) : Answers (fun r => Memory.wf r.1.mem) (s.leaderRows q) := by
  unfold State.leaderRows
  have hp := popAll_popped (s := s) (s.hart.aRuns q.a q.n)
  split
  · next he => exact (mmaReady_stops h _ _).error he
  · dsimp only
    split
    · exact h
    split
    · simpa [hp.1] using h
    · next e _ he => exact hp.2 e he
    · next he _ => exact (aRows_stops _ _ _).error he
    · next e he hs =>
      split
      · exact (aRows_stops _ _ _).error he
      · exact hp.2 e hs

theorem quadDoes_stops (n) {r : Except Stop ARows} (hr : Stops r) (g : Hart) (q) : Stops (Hart.quadDoes n r g q) := by
  unfold Hart.quadDoes
  split
  · exact hr
  · split
    · simp
    · exact accumulate_stops _ _ _ _

theorem quadMember_wf (n) {r : Except Stop ARows} (hr : Stops r) (h : Memory.wf s.mem) (m) :
    Memory.wf (State.quadMember n r s m).mem := by
  unfold State.quadMember
  have ht : Memory.wf (s.focus m.1).mem := by simpa using h
  dsimp only
  split
  · exact h
  · have hc : Goes (complete m.2.instr (s.focus m.1)
        (((s.focus m.1).hart.quadDoes n r m.2).map fun g => { s.focus m.1 with hart := g })) := by
      refine complete_goes ht ?_
      have hq := quadDoes_stops n hr (s.focus m.1).hart m.2
      cases e : (s.focus m.1).hart.quadDoes n r m.2 with
      | ok g => exact ht
      | error x => exact hq.error e
    split
    · next hu => rw [hu] at hc; exact hc
    · exact ht
    · exact ht

theorem quadFrom_wf (h : Memory.wf s.mem) (ld) {r : State × ARows} (hr : Memory.wf r.1.mem) : Memory.wf (s.quadFrom ld r).mem := by
  unfold State.quadFrom
  split
  · exact hr
  · exact h

theorem mmaqAt_goes (h : Memory.wf s.mem) (i) : Goes (s.mmaqAt i) := by
  have hq {r : Except Stop ARows} (hr : Stops r) (n) (ms : List (Nat × QuadOp)) {u : State} (hu : Memory.wf u.mem) :
      Memory.wf (ms.foldl (State.quadMember n r) u).mem := foldl_wf _ (fun _ m h => quadMember_wf n hr h m) hu ms
  unfold State.mmaqAt
  dsimp only
  split
  · exact complete_goes h (by simp)
  split
  · exact complete_goes h (by simpa using h)
  · exact complete_goes h (by simpa using h)
  · next ld ms _ =>
    have hl := leaderRows_answers (s := s.focus ld.1) (by simpa using h) ld.2
    split
    · exact complete_goes h (by simpa using h)
    · next he => simpa using hq (r := .error _) (hl.error he) _ (ld :: ms) h
    · next he => simpa using hq (r := .ok _) trivial _ (ld :: ms) (quadFrom_wf h ld (hl.ok he))

theorem drain_keeps (h : Memory.wf s.mem) (x rows) : Keeps (s.drain x rows) := by
  unfold State.drain
  dsimp only
  split
  · next he => exact pageTrap_wf he
  · next he => exact storeWait_wf h he
  · simp [h]

theorem mdrainAt_goes (h : Memory.wf s.mem) (x a k n) : Goes (s.mdrainAt x a k n) := by
  refine complete_goes h ?_
  split
  · simp
  · exact drain_keeps h _ _

theorem mdrainxAt_goes (h : Memory.wf s.mem) (x a k n) : Goes (s.mdrainxAt x a k n) := by
  refine complete_goes h ?_
  split
  · simp
  split
  · next he => exact (vecReady_stops h _ _ _).error he
  · refine withPops_keeps h _ fun t ht => ?_
    split
    · next he => exact (readRun_stops _ _).error he
    · split
      · simp
      · exact drain_keeps ht _ _

theorem storeAgain_goes (h : Memory.wf s.mem) (i o) (e : s.storeAgain i = some o) : Goes o := by
  unfold State.storeAgain at e
  split at e <;> cases e
  · exact vstAt_goes h _ _ _
  · exact vstsAt_goes h _ _ _ _
  · exact vstxAt_goes h _ _ _ _
  · exact vscAt_goes h _ _ _ _
  · exact atomic_goes h _ _ _ _ _ _ _ _
  · exact atomic_goes h _ _ _ _ _ _ _ _
  · exact atomic_goes h _ _ _ _ _ _ _ _
  · exact atomic_goes h _ _ _ _ _ _ _ _
  · exact atomic_goes h _ _ _ _ _ _ _ _
  · exact atomic_goes h _ _ _ _ _ _ _ _
  · exact atomic_goes h _ _ _ _ _ _ _ _
  · exact atomic_goes h _ _ _ _ _ _ _ _
  · exact mdrainAt_goes h _ _ _ _
  · exact mdrainxAt_goes h _ _ _ _

theorem factor_goes (h : Memory.wf s.mem) (o) : Goes (s.factor o) := by
  unfold State.factor
  split
  · next he => exact complete_goes h ((facReady_stops h o).error he)
  · dsimp only
    split
    · exact complete_goes h h
    · exact h

end Sys2Proof.Machine
end

section
/-! SUPPORT. Synchronisation, calls of Riura and events of the device go on with memory in its canonical form. -/

namespace Sys2Proof.Machine

variable {s t : State}

/-! ### Scalar operations -/

theorem alu_goes (h : Memory.wf s.mem) (i d v) : Goes (s.alu i d v) := complete_goes h h

theorem load_goes (h : Memory.wf s.mem) (i d a imm n sx) : Goes (s.load i d a imm n sx) := by
  refine complete_goes h ?_
  split
  · next he => exact (loadScalar_stops h _ _).error he
  · exact h

theorem store_goes (h : Memory.wf s.mem) (i b a imm n) : Goes (s.store i b a imm n) :=
  complete_goes h (storeScalar_keeps h _ _ _)

theorem branch_goes (h : Memory.wf s.mem) (i taken imm) : Goes (s.branch i taken imm) := completeTo_goes h h

theorem amo_goes (h : Memory.wf s.mem) (i d a f) : Goes (s.amo i d a f) := by
  refine complete_goes h ?_
  split
  · next he => exact (amo8_answers h _ _).error he
  · next he => exact (amo8_answers h _ _).ok he

theorem setvlWith_goes (h : Memory.wf s.mem) (i d a cfg) : Goes (s.setvlWith i d a cfg) := by
  refine complete_goes h ?_
  split
  · next he => exact storepend_wf he
  · split
    · exact h
    · simp

/-! ### Waiting, fences and barriers -/

theorem wfe_goes (h : Memory.wf s.mem) (d a late) : Goes (s.wfe d a late) := by
  refine complete_goes h ?_
  (repeat' split) <;> simp [h]

theorem fenceAt_goes (h : Memory.wf s.mem) (scope) : Goes (s.fenceAt scope) := by
  refine complete_goes h (trigger_keeps ?_)
  split
  · next he => exact (waitDrained_stops h _).error he
  · exact h

theorem vfenceAt_goes (h : Memory.wf s.mem) (id scope) : Goes (s.vfenceAt id scope) := by
  refine complete_goes h (trigger_keeps ?_)
  split
  · next he => exact (waitDrained_stops h _).error he
  · (repeat' split) <;> simp [h]

theorem barwaitAt_goes (h : Memory.wf s.mem) (id) : Goes (s.barwaitAt id) := by
  refine complete_goes h ?_
  split <;> simp [h]

theorem drainstNow_goes (h : Memory.wf s.mem) : Goes s.drainstNow := by
  refine complete_goes h ?_
  split
  · next he => exact (waitDrained_stops h _).error he
  · exact trigger_keeps h

theorem exitNow_goes (h : Memory.wf s.mem) : Goes s.exitNow := by
  refine completeAs_goes h ?_
  split
  · simp
  split
  · next he => exact (waitDrained_stops h _).error he
  · exact trigger_keeps (State.endHart_wf h)

/-! ### Releases, acquires and barrier objects -/

theorem flagrelAt_goes (h : Memory.wf s.mem) (d a scope) : Goes (s.flagrelAt d a scope) := by
  refine complete_goes h ?_
  split
  · next he => exact (waitDrained_stops h _).error he
  · exact storeScalar_keeps h _ _ _

theorem flagacqAt_goes (h : Memory.wf s.mem) (d a scope) : Goes (s.flagacqAt d a scope) := by
  refine complete_goes h ?_
  split
  · next he => exact (loadScalar_stops h _ _).error he
  · dsimp only
    split <;> exact h

theorem signalAt_goes (h : Memory.wf s.mem) (d a scope) : Goes (s.signalAt d a scope) := by
  refine complete_goes h ?_
  split
  · next he => exact (waitDrained_stops h _).error he
  split
  · exact h
  split
  · next he => exact (amo8_answers h _ _).error he
  · next he => exact (amo8_answers h _ _).ok he

theorem barUpdate_keeps (h : Memory.wf s.mem) (a scope f) : Keeps (s.barUpdate a scope f) := by
  unfold State.barUpdate
  dsimp only
  split
  · next he => exact (waitDrained_stops h _).error he
  split
  · next he => exact (storePage_stops h _ _).error he
  · exact State.putAt_wf h _ _ _ _

theorem bcwaitAt_goes (h : Memory.wf s.mem) (d a scope) : Goes (s.bcwaitAt d a scope) := by
  refine complete_goes h ?_
  split
  · next he => exact (loadScalar_stops h _ _).error he
  · dsimp only
    split <;> exact h

theorem fredwaitAt_goes (h : Memory.wf s.mem) (d a) : Goes (s.fredwaitAt d a) := by
  refine complete_goes h ?_
  split
  · simp
  split
  · exact h
  · dsimp only
    split
    · exact h
    · split <;> exact h

/-! ### KV tables, VWAIT and HANDOFF -/

theorem positions_stops (ff tab nblk rowb rows i) : Stops (s.positions ff tab nblk rowb rows i) := by
  induction rows generalizing i with
  | nil => simp [State.positions]
  | cons r rows ih =>
    obtain ⟨act, x, old⟩ := r
    have hgo (v : Nat) (b : Bool) : Stops (match s.positions ff tab nblk rowb rows (i + 1) with
        | .error e => .error e
        | .ok r => .ok (v :: r.1, b :: r.2) : Except Stop (List Nat × List Bool)) := by
      split
      · next he => exact (ih _).error he
      · trivial
    unfold State.positions
    dsimp only
    split
    · exact hgo _ _
    split
    · exact hgo _ _
    · exact hgo _ _
    · split
      · exact hgo _ _
      · split <;> trivial
    · split <;> trivial

theorem transGo_keeps (h : Memory.wf s.mem) (ff d b m pos old) : Keeps (s.transGo ff d b m pos old) := by
  unfold State.transGo
  dsimp only
  split
  · exact h
  split
  · trivial
  split
  · trivial
  split
  · exact h
  split
  · next he => exact (positions_stops _ _ _ _ _ _).error he
  · exact h

theorem trans_goes (h : Memory.wf s.mem) (i ff d a b m) : Goes (s.trans i ff d a b m) := by
  refine complete_goes h ?_
  split
  · simp
  split
  · next he => exact (vecReady_stops h _ _ _).error he
  · refine withPops_keeps h _ fun t ht => ?_
    dsimp only
    split
    · exact transGo_keeps ht _ _ _ _ _ _
    · next he => exact (tagged_stops _ _ _).error he
    · next he => exact (optOperand_stops _ _ _ _).error he

theorem vwaitAt_goes (h : Memory.wf s.mem) (a b scope late) : Goes (s.vwaitAt a b scope late) := by
  refine complete_goes h ?_
  split
  · next he => exact (vecReady_stops h _ _ _).error he
  · refine withPops_keeps h _ fun t ht => ?_
    split
    · next he => exact (tagged_stops _ _ _).error he
    · dsimp only
      split
      · exact ht
      · split <;> exact ht

theorem handPages_stops (va n) : Stops (s.handPages va n) := by
  induction n generalizing va with
  | zero => simp [State.handPages]
  | succ n ih =>
    unfold State.handPages
    split
    · trivial
    split
    · trivial
    split
    · next he => exact (ih _).error he
    · trivial

theorem handChecks_stops (h : Memory.wf s.mem) (flag list) : Stops (s.handChecks flag list) := by
  unfold State.handChecks
  dsimp only
  split
  · trivial
  split
  · trivial
  split
  · trivial
  split
  · trivial
  split
  · exact h
  split
  · trivial
  split
  · trivial
  split
  · exact h
  split
  · next he => exact (handPages_stops _ _).error he
  · trivial

theorem handoffAt_goes (h : Memory.wf s.mem) (d a b) : Goes (s.handoffAt d a b) := by
  refine complete_goes h (trigger_keeps ?_)
  split
  · simp
  split
  · next he => exact (handChecks_stops h _ _).error he
  split
  · exact h
  split
  · next he => exact (waitDrained_stops h _).error he
  · exact State.handOver_wf h _ _ _ _ _

/-! ### VCHAIN -/

theorem chainRows_stops (vl ks) : Stops (s.chainRows vl ks) := by
  induction ks with
  | nil => simp [State.chainRows]
  | cons k ks ih =>
    unfold State.chainRows
    split
    · trivial
    split
    · next he => exact ih.error he
    · trivial

theorem chainGo_keeps (h : Memory.wf s.mem) (d m dd keys q o mx l) : Keeps (s.chainGo d m dd keys q o mx l) := by
  unfold State.chainGo
  dsimp only
  split
  · exact h
  split
  · exact h
  split
  · next he => exact (chainRows_stops _ _).error he
  · exact h

/-! ### Calls, commands and events -/

theorem service_goes (h : Memory.wf s.mem) {ctl hart f} (hf : ∀ k w, Memory.wf (f s k w).mem) : Goes (s.service ctl hart f) := by
  unfold State.service
  split
  · exact h
  · split
    · exact hf _ _
    · simpa using h

theorem query_goes (h : Memory.wf s.mem) {item f} (hf : ∀ k w, Memory.wf (f s k w).mem) : Goes (s.query item f) := by
  unfold State.query
  split
  · exact service_goes h hf
  · exact h

theorem collective_goes (h : Memory.wf s.mem) {op other f} (hf : ∀ k c, Memory.wf (f s k c).mem) : Goes (s.collective op other f) := by
  unfold State.collective
  split
  · split
    · exact service_goes h fun _ _ => h
    · exact h
  · split
    · split
      · exact service_goes h fun _ _ => by simpa using h
      · exact h
    split
    · refine service_goes h fun k w => ?_
      split
      · exact hf _ _
      · simpa using h
    split
    · exact service_goes h fun _ _ => by simpa using h
    · exact h

theorem pcl_goes (h : Memory.wf s.mem) {f} (hf : ∀ r, f s = some r → Memory.wf r.1.mem) : Goes (s.pcl f) := by
  unfold State.pcl
  rw [goes_next]
  split
  · exact h
  split
  · exact h
  · next hr => exact hf _ hr

theorem command_goes (h : Memory.wf s.mem) {p f} (hf : Memory.wf (f s).mem) : Goes (s.command p f) := by
  simp only [State.command, goes_next]
  split
  · exact hf
  · exact h

theorem trained_goes (h : Memory.wf s.mem) {st f} (hf : Memory.wf (f s).mem) : Goes (s.trained st f) := by
  simp only [State.trained, goes_next]
  split
  · exact hf
  · exact h

theorem overdue_goes (h : Memory.wf s.mem) {st f} (hf : Memory.wf (f s).mem) : Goes (s.overdue st f) := by
  simp only [State.overdue, goes_next]
  split
  · exact hf
  · exact h

theorem readback_goes (h : Memory.wf s.mem) (open_ region word) : Goes (s.readback open_ region word) := by
  simp only [State.readback, goes_next]
  (repeat' split) <;> simp [h]

end Sys2Proof.Machine
end

section
/-! SUPPORT. Each instruction and event whose meaning is more than one shared operation goes on with memory in its canonical
form. -/

namespace Sys2Proof.Machine

variable {s t : State}

/-! ### Completing events run the waiting instruction again -/

theorem execWfeWake_goes (h : Memory.wf s.mem) : Goes (execWfeWake s) := by
  refine onWait_goes h fun t ht i o e => ?_
  split at e <;> cases e
  exact wfe_goes ht _ _ _

theorem execWfeTimeout_goes (h : Memory.wf s.mem) : Goes (execWfeTimeout s) := by
  refine onWait_goes h fun t ht i o e => ?_
  split at e <;> cases e
  exact wfe_goes ht _ _ _

theorem execFenceComplete_goes (h : Memory.wf s.mem) : Goes (execFenceComplete s) := by
  refine onWait_goes h fun t ht i o e => ?_
  split at e <;> cases e
  · exact fenceAt_goes ht _
  · exact vfenceAt_goes ht _ _

theorem execBarwaitDone_goes (h : Memory.wf s.mem) : Goes (execBarwaitDone s) := by
  refine onWait_goes h fun t ht i o e => ?_
  split at e <;> cases e
  exact barwaitAt_goes ht _

theorem execDrainstComplete_goes (h : Memory.wf s.mem) : Goes (execDrainstComplete s) := by
  refine onWait_goes h fun t ht i o e => ?_
  split at e <;> cases e
  exact drainstNow_goes ht

theorem execExitWaitDone_goes (h : Memory.wf s.mem) : Goes (execExitWaitDone s) := by
  refine onWait_goes h fun t ht i o e => ?_
  split at e <;> cases e
  exact exitNow_goes ht

theorem execXwaitDone_goes (h : Memory.wf s.mem) : Goes (execXwaitDone s) := by
  refine onWait_goes h fun t ht i o e => ?_
  split at e <;> cases e
  exact xwaitAt_goes ht _ _

theorem execMmaqMeet_goes (h : Memory.wf s.mem) : Goes (execMmaqMeet s) := by
  refine onWait_goes h fun t ht i o e => ?_
  split at e <;> cases e
  exact mmaqAt_goes ht _

theorem execVwaitSatisfied_goes (h : Memory.wf s.mem) : Goes (execVwaitSatisfied s) := by
  refine onWait_goes h fun t ht i o e => ?_
  split at e <;> cases e
  exact vwaitAt_goes ht _ _ _ _

theorem execVwaitTimeout_goes (h : Memory.wf s.mem) : Goes (execVwaitTimeout s) := by
  refine onWait_goes h fun t ht i o e => ?_
  split at e <;> cases e
  exact vwaitAt_goes ht _ _ _ _

theorem execHandoffEvent_goes (h : Memory.wf s.mem) : Goes (execHandoffEvent s) := by
  refine onWait_goes h fun t ht i o e => ?_
  split at e <;> cases e
  exact handoffAt_goes ht _ _ _

theorem execFlagacqSatisfied_goes (h : Memory.wf s.mem) : Goes (execFlagacqSatisfied s) := by
  refine onWait_goes h fun t ht i o e => ?_
  split at e <;> cases e
  exact flagacqAt_goes ht _ _ _

theorem execBcwaitDone_goes (h : Memory.wf s.mem) : Goes (execBcwaitDone s) := by
  refine onWait_goes h fun t ht i o e => ?_
  split at e <;> cases e
  exact bcwaitAt_goes ht _ _ _

theorem execReleasePerform_goes (h : Memory.wf s.mem) : Goes (execReleasePerform s) := by
  refine onWait_goes h fun t ht i o e => ?_
  split at e <;> cases e
  · exact flagrelAt_goes ht _ _ _
  · exact signalAt_goes ht _ _ _
  · exact complete_goes ht (barUpdate_keeps ht _ _ _)
  · exact complete_goes ht (barUpdate_keeps ht _ _ _)

theorem execFredwaitDone_goes (h : Memory.wf s.mem) : Goes (execFredwaitDone s) := by
  refine onWait_goes h fun t ht i o e => ?_
  split at e <;> cases e
  exact fredwaitAt_goes ht _ _

/-! ### Scalar and system instructions -/

theorem execJalr_goes (h : Memory.wf s.mem) (d a imm) : Goes (execJalr d a imm s) := by
  refine completeTo_goes h ?_
  split
  · simp
  · exact h

theorem execSrd_goes (h : Memory.wf s.mem) (d num) : Goes (execSrd d num s) := by
  refine complete_goes h ?_
  split <;> exact h

theorem execSwr_goes (h : Memory.wf s.mem) (a num) : Goes (execSwr a num s) := by
  refine complete_goes h ?_
  split
  · exact h
  · split <;> simp [h]

theorem execWinb_goes (h : Memory.wf s.mem) (a imm) : Goes (execWinb a imm s) := by
  refine complete_goes h ?_
  split <;> simp [h]

theorem execEcall_goes (h : Memory.wf s.mem) : Goes (execEcall s) := by
  refine completeAs_goes h (trigger_keeps ?_)
  split
  · next he => exact (waitDrained_stops h _).error he
  · simpa using h

theorem execTrapret_goes (h : Memory.wf s.mem) : Goes (execTrapret s) := by
  refine completeTo_goes h ?_
  split
  · exact h
  · simp

theorem execStorependSkidLimit_goes (h : Memory.wf s.mem) : Goes (execStorependSkidLimit s) := by
  unfold execStorependSkidLimit
  dsimp only
  split
  · exact h
  split
  · exact h
  · next he => exact State.stopped_wf (by simpa using h) _ (storepend_wf he)

theorem execExit_goes (h : Memory.wf s.mem) : Goes (execExit s) := by
  unfold execExit
  split
  · exact exitNow_goes h
  · exact exitNow_goes h
  · next he => exact completeAs_goes h (storepend_wf he)

/-! ### Vector instructions -/

theorem execPfirst_goes (h : Memory.wf s.mem) (d a m) : Goes (execPfirst d a m s) := by
  refine complete_goes h ?_
  split
  · simp
  · exact h

theorem execPcount_goes (h : Memory.wf s.mem) (d a m) : Goes (execPcount d a m s) := by
  refine complete_goes h ?_
  split
  · simp
  · exact h

theorem execVpermv_goes (h : Memory.wf s.mem) (d a b m) : Goes (execVpermv d a b m s) := by
  refine complete_goes h (moveElems_keeps h _ _ _ _ _ fun g x o => ?_)
  split
  · next he => exact (tagged_stops _ _ _).error he
  · trivial

theorem execVmv_goes (h : Memory.wf s.mem) (d a m) : Goes (execVmv d a m s) := by
  refine complete_goes h ?_
  split
  · exact copyReg_keeps h _ _
  · exact vec1_keeps h _ _ _ _ _ _

theorem execVextr_goes (h : Memory.wf s.mem) (d a b m) : Goes (execVextr d a b m s) := by
  refine complete_goes h ?_
  split
  · next he => exact (vecReady_stops h _ _ _).error he
  · refine withPops_keeps h _ fun t ht => ?_
    split
    · next he => exact (readAny_stops _ _).error he
    · exact ht

theorem execVins_goes (h : Memory.wf s.mem) (d a b m) : Goes (execVins d a b m s) := by
  refine complete_goes h ?_
  split
  · simp
  split
  · next he => exact (vecReady_stops h _ _ _).error he
  · refine withPops_keeps h _ fun t ht => ?_
    dsimp only
    split
    · next he => exact (operand_stops _ _).error he
    · exact ht

theorem execVidxx_goes (h : Memory.wf s.mem) (d ia ib m) : Goes (execVidxx d ia ib m s) := by
  refine complete_goes h ?_
  split
  · simp
  · exact vec0_keeps h _ _ _ _

theorem execVcvt_goes (h : Memory.wf s.mem) (d a m) : Goes (execVcvt d a m s) := by
  refine complete_goes h ?_
  split
  · next he => exact (vecReady_stops h _ _ _).error he
  · refine withPops_keeps h _ fun t ht => ?_
    split
    · exact ht
    · next he => exact (readRun_stops _ _).error he
    · next he => exact (convOld_stops _ _ _).error he

theorem execVquant_goes (h : Memory.wf s.mem) (d a b m) : Goes (execVquant d a b m s) := by
  refine complete_goes h ?_
  split
  · simp
  split
  · next he => exact (vecReady_stops h _ _ _).error he
  · refine withPops_keeps h _ fun t ht => ?_
    split
    · exact ht
    · next he => exact (readRun_stops _ _).error he
    · next he => exact (convOld_stops _ _ _).error he

theorem execVdequant_goes (h : Memory.wf s.mem) (d a b m) : Goes (execVdequant d a b m s) := by
  refine complete_goes h ?_
  split
  · simp
  split
  · next he => exact (vecReady_stops h _ _ _).error he
  · refine withPops_keeps h _ fun t ht => ?_
    split
    · split
      · exact ht
      · simp
    · next he => exact (readRun_stops _ _).error he
    · next he => exact (extraGroup_stops _ _).error he
    · next he => exact (convOld_stops _ _ _).error he

theorem execVencinfo_goes (h : Memory.wf s.mem) (d a) : Goes (execVencinfo d a s) := by
  refine complete_goes h ?_
  split
  · next he => exact (vecReady_stops h _ _ _).error he
  · exact h

theorem execVrunend_goes (h : Memory.wf s.mem) (d a) : Goes (execVrunend d a s) := by
  refine complete_goes h ?_
  split
  · simp
  · exact reencode_keeps h _ _ _ _

theorem execVmergeidx_goes (h : Memory.wf s.mem) (d a b m) : Goes (execVmergeidx d a b m s) := by
  refine complete_goes h ?_
  split
  · simp
  split
  · next he => exact (vecReady_stops h _ _ _).error he
  · refine withPops_keeps h _ fun t ht => ?_
    dsimp only
    split
    · exact ht
    · next he => exact (rawAt_stops _ _).error he
    · next he => exact (rawAt_stops _ _).error he

theorem execVsortkv_goes (h : Memory.wf s.mem) (d a b m) : Goes (execVsortkv d a b m s) := by
  refine complete_goes h ?_
  split
  · simp
  split
  · next he => exact (vecReady_stops h _ _ _).error he
  · refine withPops_keeps h _ fun t ht => ?_
    dsimp only
    split
    · split
      · simp
      · exact ht
    · next he => exact (operand_stops _ _).error he
    · next he => exact (readRun_stops _ _).error he

theorem execVtopk_goes (h : Memory.wf s.mem) (d a b m) : Goes (execVtopk d a b m s) := by
  refine complete_goes h ?_
  split
  · simp
  split
  · next he => exact (vecReady_stops h _ _ _).error he
  · refine withPops_keeps h _ fun t ht => ?_
    dsimp only
    split
    · next he => exact (operand_stops _ _).error he
    · exact ht

theorem execNgather_goes (h : Memory.wf s.mem) (d a b m) : Goes (execNgather d a b m s) := by
  unfold execNgather
  split
  · exact loadX_goes h _ _ _ _ _ _
  · exact complete_goes h (by simp)

theorem execVpref_goes (h : Memory.wf s.mem) (a b m) : Goes (execVpref a b m s) := by
  refine complete_goes h ?_
  split
  · next he => exact (vecReady_stops h _ _ _).error he
  split
  · exact h
  · refine withPops_keeps h _ fun t ht => ?_
    split
    · next he => exact (readRun_stops _ _).error he
    · split <;> exact ht

theorem execVchain_goes (h : Memory.wf s.mem) (d a b m) : Goes (execVchain d a b m s) := by
  refine complete_goes h ?_
  generalize (if s.hart.headd = 0 then s.hart.vl else s.hart.headd.toNat) = dd
  split
  · simp
  split
  · next he => exact (vecReady_stops h _ _ _).error he
  · refine withPops_keeps h _ fun t ht => ?_
    dsimp only
    split
    · next he => exact (readRun_stops _ _).error he
    · next he => exact (operand_stops _ _).error he
    · split
      · simp
      split
      · exact chainGo_keeps ht _ _ _ _ _ _ _ _
      · next he => exact (chainReg_stops _ _ _ _).error he
      · next he => exact (chainReg_stops _ _ _ _).error he
      · next he => exact (chainReg_stops _ _ _ _).error he

theorem execVchainf_goes (h : Memory.wf s.mem) (d) : Goes (execVchainf d s) := by
  refine complete_goes h ?_
  split
  · simp
  split
  · next he => exact (vecReady_stops h _ _ _).error he
  · refine withPops_keeps h _ fun t ht => ?_
    dsimp only
    split
    · next he => exact (readGroup_stops _ _ _ _).error he
    · next he => exact (readGroup_stops _ _ _ _).error he
    · split
      · simp
      · exact ht

/-! ### The engine and the matrix array -/

theorem execXferv_goes (h : Memory.wf s.mem) (d a b) : Goes (execXferv d a b s) := by
  refine complete_goes h ?_
  split
  · simp
  split
  · next he => exact (vecReady_stops h _ _ _).error he
  · refine withPops_keeps h _ fun t ht => ?_
    split
    · next he => exact (permOf_stops _ _).error he
    · exact issueXfer_keeps ht _ _

theorem execXfervs_goes (h : Memory.wf s.mem) (d a b) : Goes (execXfervs d a b s) := by
  refine complete_goes h ?_
  split
  · simp
  split
  · next he => exact (vecReady_stops h _ _ _).error he
  · refine withPops_keeps h _ fun t ht => ?_
    split
    · next he => exact (permOf_stops _ _).error he
    · next he => exact (srcTags_stops _ _ _).error he
    · exact issueXfer_keeps ht _ _

theorem execXferc_goes (h : Memory.wf s.mem) (d a b) : Goes (execXferc d a b s) := by
  refine complete_goes h ?_
  split
  · simp
  split
  · next he => exact (vecReady_stops h _ _ _).error he
  · refine withPops_keeps h _ fun t ht => ?_
    dsimp only
    split
    · simp
    split
    · exact ht
    · exact issueXfer_keeps ht _ _

theorem execXtier_goes (h : Memory.wf s.mem) (a b) : Goes (execXtier a b s) := by
  refine complete_goes h ?_
  split
  · simp
  · exact issueXfer_keeps h _ _

theorem execTransferRetire_goes (h : Memory.wf s.mem) : Goes (execTransferRetire s) := by
  unfold execTransferRetire
  split
  · exact h
  · rw [goes_next]
    (repeat' split) <;> simp [h]

theorem execMlds_goes (h : Memory.wf s.mem) (a k n) : Goes (execMlds a k n s) := by
  refine complete_goes h ?_
  split
  · simp
  split
  · exact mldsMem_keeps h _
  · exact mldsRegs_keeps h _ _

theorem execMswap_goes (h : Memory.wf s.mem) : Goes (execMswap s) := by
  refine complete_goes h ?_
  split
  · simp
  · exact h

theorem execMma_goes (h : Memory.wf s.mem) (x a k n) : Goes (execMma x a k n s) := by
  refine complete_goes h ?_
  split
  · simp
  split
  · next he => exact (mmaReady_stops h _ _).error he
  · refine withPops_keeps h _ fun t ht => ?_
    split
    · next he => exact (aRows_stops _ _ _).error he
    split
    · next he => exact (accumulate_stops _ _ _ _).error he
    · exact ht

theorem execMzero_goes (h : Memory.wf s.mem) (x k) : Goes (execMzero x k s) := by
  refine complete_goes h ?_
  split
  · simp
  · exact h

theorem execMldacc_goes (h : Memory.wf s.mem) (x a k n) : Goes (execMldacc x a k n s) := by
  refine complete_goes h ?_
  split
  · simp
  split
  · next he => exact (vecReady_stops h _ _ _).error he
  · refine withPops_keeps h _ fun t ht => ?_
    split
    · next he => exact (rowVecs_stops _ _ _).error he
    · dsimp only
      split
      · simp
      · exact ht

theorem execMmova_goes (h : Memory.wf s.mem) (x a k n) : Goes (execMmova x a k n s) := by
  refine complete_goes h ?_
  split
  · simp
  split
  · next he => exact (vecReady_stops h _ _ _).error he
  · exact h

theorem execMsoft_goes (h : Memory.wf s.mem) (x a k n) : Goes (execMsoft x a k n s) := by
  refine complete_goes h ?_
  split
  · simp
  split
  · next he => exact (vecReady_stops h _ _ _).error he
  split
  · split
    · simp
    · exact h
  · next he => exact (chainReg_stops _ _ _ _).error he
  · next he => exact (chainReg_stops _ _ _ _).error he

/-! ### Streams, claims and links -/

theorem execStron_goes (h : Memory.wf s.mem) (d a b) : Goes (execStron d a b s) := by
  refine complete_goes h ?_
  split
  · simp
  split
  · next he => exact (vecReady_stops h _ _ _).error he
  · simpa using h

theorem execStreamRefill_goes (h : Memory.wf s.mem) : Goes (execStreamRefill s) := by
  unfold execStreamRefill
  dsimp only
  (repeat' split) <;> simp [h]

theorem execClaim_goes (h : Memory.wf s.mem) (a m) : Goes (execClaim a m s) := by
  refine complete_goes h ?_
  split
  · next he => exact (shareOf_stops _).error he
  split
  · next he => exact (vecReady_stops h _ _ _).error he
  · refine withPops_keeps h _ fun t ht => ?_
    split
    · next he => exact (readRun_stops _ _).error he
    · split
      · simp
      · exact ht

theorem execWform_goes (h : Memory.wf s.mem) (d m) : Goes (execWform d m s) := by
  refine complete_goes h ?_
  split
  · next he => exact (shareOf_stops _).error he
  · exact h

theorem execWrel_goes (h : Memory.wf s.mem) (m) : Goes (execWrel m s) := by
  refine complete_goes h ?_
  split
  · next he => exact (shareOf_stops _).error he
  · exact h

theorem execWclr_goes (h : Memory.wf s.mem) : Goes (execWclr s) := by
  refine complete_goes h ?_
  split
  · next he => exact (shareOf_stops _).error he
  · exact h

theorem execVstxr_goes (h : Memory.wf s.mem) (d a b m) : Goes (execVstxr d a b m s) := by
  refine complete_goes h ?_
  split
  · simp
  · refine storeWith_keeps h _ _ _ (fun _ _ => trivial) fun t q v ht => ?_
    split
    · next he => exact (tagged_stops _ _ _).error he
    split
    · simp
    split
    · simp
    · dsimp only
      split
      · exact ht
      split
      · exact ht
      · exact foldl_wf _ (fun _ _ h => State.sendTrain_wf h _ _ _ _) ht _

theorem execTrainArrive_goes (h : Memory.wf s.mem) : Goes (execTrainArrive s) := by
  unfold execTrainArrive
  dsimp only
  (repeat' split) <;> simp [h]

theorem execTrainAck_goes (h : Memory.wf s.mem) : Goes (execTrainAck s) := by
  unfold execTrainAck
  split
  · exact h
  · dsimp only
    split <;> exact h

theorem execFred_goes (h : Memory.wf s.mem) (d a b m) : Goes (execFred d a b m s) := by
  refine complete_goes h ?_
  split
  · simp
  · refine storeWith_keeps h _ _ _ (fun _ _ => trivial) fun t q v ht => ?_
    split
    · next he => exact (tagged_stops _ _ _).error he
    split
    · simp
    · dsimp only
      split <;> simp [ht]

theorem execFredAccept_goes (h : Memory.wf s.mem) : Goes (execFredAccept s) := by
  unfold execFredAccept
  dsimp only
  (repeat' split) <;> simp [h]

theorem execFredRoundDeliver_goes (h : Memory.wf s.mem) : Goes (execFredRoundDeliver s) := by
  unfold execFredRoundDeliver
  rw [goes_next]
  (repeat' split) <;> simp [h]

theorem execPeerKillNotice_goes (h : Memory.wf s.mem) : Goes (execPeerKillNotice s) :=
  foldl_wf _ (fun _ _ h => State.abortColl_wf h _ _ _) h _

end Sys2Proof.Machine
end

section
/-! SUPPORT. The calls of Riura, the commands of the host and the events of the device go on with memory in its canonical form. -/

namespace Sys2Proof.Machine

variable {s t : State}

/-! ### Collectives -/

theorem execCollectiveCreate_goes (h : Memory.wf s.mem) : Goes (execCollectiveCreate s) := by
  refine collective_goes h fun k c => ?_
  (repeat' split) <;> simp [h]

theorem execCollectiveAddwin_goes (h : Memory.wf s.mem) : Goes (execCollectiveAddwin s) := by
  refine collective_goes h fun k c => ?_
  dsimp only
  (repeat' split) <;> simp [h]

theorem execCollectiveAddbar_goes (h : Memory.wf s.mem) : Goes (execCollectiveAddbar s) := by
  refine collective_goes h fun k c => ?_
  (repeat' split) <;> simp [h]

theorem execCollectiveWait_goes (h : Memory.wf s.mem) : Goes (execCollectiveWait s) := by
  unfold execCollectiveWait
  split
  · exact h
  split
  · simpa using h
  · refine collective_goes h fun k c => ?_
    (repeat' split) <;> simp [h]

theorem execCollectiveEnd_goes (h : Memory.wf s.mem) : Goes (execCollectiveEnd s) := by
  unfold execCollectiveEnd
  split
  · exact foldl_wf _ (fun _ _ h => by simpa using h) h _
  · refine collective_goes h fun k c => ?_
    (repeat' split) <;> simp [h]

/-! ### Launches and the scheduler -/

theorem execRiuraLaunch_goes (h : Memory.wf s.mem) : Goes (execRiuraLaunch s) := by
  refine service_goes h fun k w => ?_
  (repeat' split) <;> simp [h]

theorem execRiuraWait_goes (h : Memory.wf s.mem) : Goes (execRiuraWait s) := by
  unfold execRiuraWait
  split
  · exact service_goes h fun _ _ => by simpa using h
  split
  · simpa using h
  · exact service_goes h fun _ _ => by simpa using h

theorem execRiuraCancel_goes (h : Memory.wf s.mem) : Goes (execRiuraCancel s) := by
  refine service_goes h fun k w => ?_
  (repeat' split) <;> simp [h]

theorem execSchedulerPlaceCrew_goes (h : Memory.wf s.mem) : Goes (execSchedulerPlaceCrew s) := by
  unfold execSchedulerPlaceCrew
  rw [goes_next]
  split <;> simp [h]

theorem execCrewResume_goes (h : Memory.wf s.mem) : Goes (execCrewResume s) := by
  unfold execCrewResume
  rw [goes_next]
  split <;> simp [h]

theorem execSchedulerPreempt_goes (h : Memory.wf s.mem) : Goes (execSchedulerPreempt s) := by
  unfold execSchedulerPreempt
  rw [goes_next]
  split <;> simp [h]

theorem execHartSwap_goes (h : Memory.wf s.mem) : Goes (execHartSwap s) := by
  unfold execHartSwap
  rw [goes_next]
  split
  · exact h
  split
  · exact h
  split
  · simpa using h
  · simpa using h
  · dsimp only
    split <;> simp [h]

theorem execSpillDone_goes (h : Memory.wf s.mem) : Goes (execSpillDone s) := by
  unfold execSpillDone
  rw [goes_next]
  (repeat' split) <;> simp [h]

theorem execContextFillDone_goes (h : Memory.wf s.mem) : Goes (execContextFillDone s) := by
  unfold execContextFillDone
  rw [goes_next]
  (repeat' split) <;> simp [h]

theorem execLeaseFillDone_goes (h : Memory.wf s.mem) : Goes (execLeaseFillDone s) := by
  unfold execLeaseFillDone
  rw [goes_next]
  split <;> simp [h]

theorem execDebuggerRelease_goes (h : Memory.wf s.mem) : Goes (execDebuggerRelease s) := by
  unfold execDebuggerRelease
  rw [goes_next]
  (repeat' split) <;> simp [h]

theorem execConfinementSet_goes (h : Memory.wf s.mem) : Goes (execConfinementSet s) := by
  unfold execConfinementSet
  simp only [goes_next]
  (repeat' split) <;> simp [h]

theorem execRiuraCrewexit_goes (h : Memory.wf s.mem) : Goes (execRiuraCrewexit s) := by
  refine service_goes h fun k w => ?_
  (repeat' split) <;> simp [h]

/-! ### Mappings, migration and KV pages -/

theorem execRiuraMap_goes (h : Memory.wf s.mem) : Goes (execRiuraMap s) := by
  refine service_goes h fun k w => ?_
  dsimp only
  (repeat' split) <;> simp [h]

theorem execRiuraUnmap_goes (h : Memory.wf s.mem) : Goes (execRiuraUnmap s) := by
  refine service_goes h fun k w => ?_
  dsimp only
  split <;> simp [h]

theorem execRiuraProtect_goes (h : Memory.wf s.mem) : Goes (execRiuraProtect s) := by
  refine service_goes h fun k w => ?_
  dsimp only
  split <;> simp [h]

theorem execRiuraMigrate_goes (h : Memory.wf s.mem) : Goes (execRiuraMigrate s) := by
  refine service_goes h fun k w => ?_
  dsimp only
  (repeat' split) <;> simp [h]

theorem execMigrationCopyDone_goes (h : Memory.wf s.mem) : Goes (execMigrationCopyDone s) := by
  unfold execMigrationCopyDone
  simp only [goes_next]
  split
  · simpa using h
  split
  · simpa using h
  · next hc => simp [copied_wf h hc]

theorem execMigrationCopyFail_goes (h : Memory.wf s.mem) : Goes (execMigrationCopyFail s) := by
  unfold execMigrationCopyFail
  simp only [goes_next]
  (repeat' split) <;> simp [h]

theorem execRiuraKvalloc_goes (h : Memory.wf s.mem) : Goes (execRiuraKvalloc s) := by
  refine service_goes h fun k w => ?_
  dsimp only
  split
  · simpa using h
  split
  · simpa using h
  split
  · simpa using h
  · next hg =>
    obtain ⟨u, hu, hv⟩ := Option.bind_eq_some_iff.1 hg
    simpa using giveList_wf (giveKv_wf _ h hu) hv

theorem execRiuraKvfree_goes (h : Memory.wf s.mem) : Goes (execRiuraKvfree s) := by
  refine service_goes h fun k w => ?_
  dsimp only
  split
  · simpa using h
  split
  · simpa using h
  split
  · simpa using h
  split
  · simpa using h
  · rw [State.ret_mem]
    exact foldl_wf _ (fun _ _ h => State.release_wf h _) (by simpa using h) _

/-! ### Other calls -/

theorem execRiuraLog_goes (h : Memory.wf s.mem) : Goes (execRiuraLog s) := by
  refine service_goes h fun k w => ?_
  (repeat' split) <;> simp [h]

theorem execQueryDeviceShape_goes (h : Memory.wf s.mem) : Goes (execQueryDeviceShape s) := by
  unfold execQueryDeviceShape
  split
  · exact h
  · refine service_goes h fun k w => ?_
    split <;> simp [h]

theorem execQueryAddress_goes (h : Memory.wf s.mem) : Goes (execQueryAddress s) := by
  refine query_goes h fun k w => ?_
  (repeat' split) <;> simp [h]

theorem execRiuraWsload_goes (h : Memory.wf s.mem) : Goes (execRiuraWsload s) := by
  refine service_goes h fun k w => ?_
  (repeat' split) <;> simp [h]

theorem execWsloadReturn_goes (h : Memory.wf s.mem) : Goes (execWsloadReturn s) := by
  unfold execWsloadReturn
  rw [goes_next]
  split
  · exact h
  split
  · split
    · simpa using h
    · rw [State.ret_mem]
      exact foldl_wf _ (fun _ _ h => State.wsWrite_wf h _ _ _ _) h _
  · exact h

theorem execControlProgramFault_goes (h : Memory.wf s.mem) : Goes (execControlProgramFault s) := by
  unfold execControlProgramFault
  rw [goes_next]
  dsimp only
  (repeat' split) <;> simp [h]

theorem execHostmsgSend_goes (h : Memory.wf s.mem) : Goes (execHostmsgSend s) := by
  refine service_goes h fun k w => ?_
  split <;> simp [h]

theorem execHostmsgRecv_goes (h : Memory.wf s.mem) : Goes (execHostmsgRecv s) := by
  refine service_goes h fun k w => ?_
  split <;> simp [h]

/-! ### Commands and registers of the host -/

theorem execTenantset_goes (h : Memory.wf s.mem) : Goes (execTenantset s) := by
  refine command_goes h ?_
  dsimp only
  (repeat' split) <;> simp [h]

theorem execAppkill_goes (h : Memory.wf s.mem) : Goes (execAppkill s) := by
  refine command_goes h ?_
  split
  · simpa using h
  · rw [State.endCmd_mem]
    split <;> simp [h]

theorem execAppstat_goes (h : Memory.wf s.mem) : Goes (execAppstat s) := by
  refine command_goes h ?_
  dsimp only
  (repeat' split) <;> simp [h]

theorem execPowerCapTakeEffect_goes (h : Memory.wf s.mem) : Goes (execPowerCapTakeEffect s) := by
  unfold execPowerCapTakeEffect
  split <;> exact h

theorem execH2dMessage_goes (h : Memory.wf s.mem) : Goes (execH2dMessage s) := by
  simp only [execH2dMessage, goes_next]
  split <;> simp [h]

theorem execMgmtRegisterWrite_goes (h : Memory.wf s.mem) : Goes (execMgmtRegisterWrite s) := by
  refine foldl_wf _ (fun u x hu => ?_) h _
  split
  · split <;> simp [hu]
  · simpa using hu

/-! ### Power, resets and PCL -/

theorem execHuskAlarm_goes (h : Memory.wf s.mem) : Goes (execHuskAlarm s) := by
  simp only [execHuskAlarm, goes_next]
  split <;> simp [h]

theorem execSpdmRequest_goes (h : Memory.wf s.mem) : Goes (execSpdmRequest s) := by
  simp only [execSpdmRequest, goes_next]
  split <;> exact h

theorem execWarmReset_goes (h : Memory.wf s.mem) : Goes (execWarmReset s) := by
  simp only [execWarmReset, goes_next]
  (repeat' split) <;> simp [h]

theorem execFunctionReset_goes (h : Memory.wf s.mem) : Goes (execFunctionReset s) := by
  simp only [execFunctionReset, goes_next]
  (repeat' split) <;> simp [h]

theorem execRiuraFatalError_goes (h : Memory.wf s.mem) : Goes (execRiuraFatalError s) := by
  simp only [execRiuraFatalError, goes_next]
  split <;> simp [h]

theorem execStandbyRailGood_goes (h : Memory.wf s.mem) : Goes (execStandbyRailGood s) := by
  simp only [execStandbyRailGood, goes_next]
  (repeat' split) <;> simp [h]

theorem execBringUp_goes (h : Memory.wf s.mem) : Goes (execBringUp s) := by
  simp only [execBringUp, goes_next]
  split <;> simp [h]

theorem execConfigurationRequest_goes (h : Memory.wf s.mem) : Goes (execConfigurationRequest s) := by
  simp only [execConfigurationRequest, goes_next]
  (repeat' split) <;> exact h

theorem execPclGetFeatures_goes (h : Memory.wf s.mem) : Goes (execPclGetFeatures s) := by
  refine pcl_goes h fun r e => ?_
  split at e <;> cases e
  exact h

theorem execPclContextArea_goes (h : Memory.wf s.mem) : Goes (execPclContextArea s) := by
  refine pcl_goes h fun r e => ?_
  split at e <;> cases e
  exact h

theorem execPclTenantKeyInstall_goes (h : Memory.wf s.mem) : Goes (execPclTenantKeyInstall s) := by
  unfold execPclTenantKeyInstall
  split
  · exact h
  · refine pcl_goes h fun r e => ?_
    split at e <;> cases e
    exact h

theorem execPclTenantKeyWithdraw_goes (h : Memory.wf s.mem) : Goes (execPclTenantKeyWithdraw s) := by
  unfold execPclTenantKeyWithdraw
  split
  · exact h
  · refine pcl_goes h fun r e => ?_
    split at e <;> cases e
    exact h

theorem execPclResetWarm_goes (h : Memory.wf s.mem) : Goes (execPclResetWarm s) := by
  unfold execPclResetWarm
  split
  · exact h
  split
  · rw [goes_next]
    split <;> simp [h]
  · exact pcl_goes h fun r e => by cases e

theorem execPclResetFunction_goes (h : Memory.wf s.mem) : Goes (execPclResetFunction s) := by
  simp only [execPclResetFunction, goes_next]
  split <;> simp [h]

theorem execPclUnsupported_goes (h : Memory.wf s.mem) : Goes (execPclUnsupported s) := by
  simp only [execPclUnsupported, goes_next]
  split <;> simp [h]

/-! ### CXL.mem, pools and errors of memory -/

theorem execCxlMemRead_goes (h : Memory.wf s.mem) : Goes (execCxlMemRead s) := by
  simp only [execCxlMemRead, goes_next]
  (repeat' split) <;> simp [h]

theorem execCxlMemWrite_goes (h : Memory.wf s.mem) : Goes (execCxlMemWrite s) := by
  simp only [execCxlMemWrite, goes_next]
  (repeat' split) <;> simp [h]

theorem execPoolLinkDown_goes (h : Memory.wf s.mem) : Goes (execPoolLinkDown s) := by
  simp only [execPoolLinkDown, goes_next]
  split <;> exact h

theorem execPoolLinkUp_goes (h : Memory.wf s.mem) : Goes (execPoolLinkUp s) := by
  simp only [execPoolLinkUp, goes_next]
  split <;> exact h

theorem execWsRefreshWindowOpen_goes (h : Memory.wf s.mem) : Goes (execWsRefreshWindowOpen s) := by
  simp only [execWsRefreshWindowOpen, goes_next]
  split <;> exact h

theorem execWsRefreshWindowClose_goes (h : Memory.wf s.mem) : Goes (execWsRefreshWindowClose s) := by
  simp only [execWsRefreshWindowClose, goes_next]
  split <;> exact h

theorem execEccUncorrectable_goes (h : Memory.wf s.mem) : Goes (execEccUncorrectable s) := by
  simp only [execEccUncorrectable, goes_next]
  split <;> simp [h]

theorem execPatrolScrub_goes (h : Memory.wf s.mem) : Goes (execPatrolScrub s) := by
  simp only [execPatrolScrub, goes_next]
  (repeat' split) <;> simp [h]

/-! ### Ports and the readback window -/

theorem execFlitReceive_goes (h : Memory.wf s.mem) : Goes (execFlitReceive s) := by
  simp only [execFlitReceive, goes_next]
  (repeat' split) <;> simp [h]

theorem execReplayLimit_goes (h : Memory.wf s.mem) : Goes (execReplayLimit s) := by
  simp only [execReplayLimit, goes_next]
  (repeat' split) <;> simp [h]

theorem execPortEnable_goes (h : Memory.wf s.mem) : Goes (execPortEnable s) := by
  simp only [execPortEnable, goes_next]
  split <;> simp [h]

theorem execReadbackBadSpace_goes (h : Memory.wf s.mem) : Goes (execReadbackBadSpace s) := by
  simp only [execReadbackBadSpace, goes_next]
  split <;> simp [h]

theorem execReadbackComplete_goes (h : Memory.wf s.mem) : Goes (execReadbackComplete s) := by
  simp only [execReadbackComplete, goes_next]
  (repeat' split) <;> exact h

end Sys2Proof.Machine
end

section
/-! SUPPORT. Every instruction and every event goes on with memory in its canonical form, and so does every step (R3, R171). -/

namespace Sys2Proof.Machine

variable {s t : State}

/-- The time limit of a call that passes. -/
theorem timeOut_goes (h : Memory.wf s.mem) (q) : Goes (.next (s.timeOut q)) := by simpa using h

/-- The return of a call. -/
theorem execEcallReturn_goes (h : Memory.wf s.mem) : Goes (execEcallReturn s) := by simpa [execEcallReturn] using h

/-- Every operation goes on with memory in its form: one case per constructor, by the lemma of the operation it stands for. -/
theorem exec_goes (h : Memory.wf s.mem) (i : Instr) : Goes (exec i s) := by
  unfold exec
  cases i with
  -- Scalar instructions
  | lui | pchi | addi | andi | ori | xori | slti | sltni | shli | shrli | shrai | rotri | add | sub | and | or | xor |
    shl | shrl | shra | slt | sltn | min | max | minn | maxn | andn | rotr | mul | mulh | mulhn | div | divn | rem |
    remn | clz | ctz | popc =>
    exact alu_goes h _ _ _
  | jal => exact completeTo_goes h h
  | jalr => exact execJalr_goes h _ _ _
  | ldb | ldh | ldw | ldd | ldbn | ldhn | ldwn => exact load_goes h _ _ _ _ _ _
  | stb | sth | stw | std => exact store_goes h _ _ _ _ _
  | beq | bne | blt | bge | bltn | bgen => exact branch_goes h _ _ _
  | srd => exact execSrd_goes h _ _
  | swr => exact execSwr_goes h _ _
  | winb => exact execWinb_goes h _ _
  | iclock | sfrpop | icunlock => exact h
  | setvli | setvl => exact setvlWith_goes h _ _ _ _
  | ecall => exact execEcall_goes h
  | trapret => exact execTrapret_goes h
  | brk => exact complete_goes h trivial
  | wfe => exact wfe_goes h _ _ _
  | fence => exact fenceAt_goes h _
  | drainst => exact drainstNow_goes h
  | exit => exact execExit_goes h
  | yield => exact complete_goes h (trigger_keeps h)
  -- Atomics and synchronisation
  | amoswap | amoadd | amoand | amoor | amoxor | amomin | amomax | amominn | amomaxn | amocas => exact amo_goes h _ _ _ _
  | flagrel => exact flagrelAt_goes h _ _ _
  | flagacq => exact flagacqAt_goes h _ _ _
  | signal => exact signalAt_goes h _ _ _
  | bcpost | bcarrive => exact complete_goes h (barUpdate_keeps h _ _ _)
  | bcwait => exact bcwaitAt_goes h _ _ _
  | handoff => exact handoffAt_goes h _ _ _
  -- Streams and transfers
  | stron => exact execStron_goes h _ _ _
  | stroff | xpoll => exact h
  | xfer | xferq => exact complete_goes h (xferMem_keeps h _ _ _ _)
  | xferv => exact execXferv_goes h _ _ _
  | xfervs => exact execXfervs_goes h _ _ _
  | xferc => exact execXferc_goes h _ _ _
  | xwait => exact xwaitAt_goes h _ _
  | xtier => exact execXtier_goes h _ _
  -- The matrix array
  | mlds => exact execMlds_goes h _ _ _
  | mswap => exact execMswap_goes h
  | mma => exact execMma_goes h _ _ _ _
  | mmaq => exact mmaqAt_goes h _
  | mzero => exact execMzero_goes h _ _
  | mldacc => exact execMldacc_goes h _ _ _ _
  | mmova => exact execMmova_goes h _ _ _ _
  | mdrain => exact mdrainAt_goes h _ _ _ _
  | msoft => exact execMsoft_goes h _ _ _ _
  | mdrainx => exact mdrainxAt_goes h _ _ _ _
  | mlu | mchol | mqr | mtrsml | mtrsmu => exact factor_goes h _
  -- Claims and waves
  | claim => exact execClaim_goes h _ _
  | wform => exact execWform_goes h _ _
  | wrel => exact execWrel_goes h _
  | wclr => exact execWclr_goes h
  -- Reductions of the fabric
  | fred => exact execFred_goes h _ _ _ _
  | fredwait => exact fredwaitAt_goes h _ _
  -- Vectors
  | vadd | vsub | vmul | vmulh | vmin | vmax | vminn | vmaxn | vand | vor | vxor | vandn | vshl | vshrl | vshra | vrotr
    | vsadd | vssub | vsaddn | vssubn | vfadd | vfsub | vfmul | vfdiv | vfma | vfms | vfnma | vfnms | vfmin | vfmax |
    vhash =>
    exact complete_goes h (vec2_keeps h _ _ _ _ _ _ _ _)
  | vfsqrt | vfexp => exact complete_goes h (vec1_keeps h _ _ _ _ _ _)
  | vcmpeq | vcmpne | vcmplt | vcmple => exact complete_goes h (cmp_keeps h _ _ _ _ _)
  | pand | por | pxor | pandn | pnot => exact complete_goes h (plogic_keeps h _ _ _ _ _)
  | pfirst => exact execPfirst_goes h _ _ _
  | pcount => exact execPcount_goes h _ _ _
  | mbind => exact h
  | vredsum | vredmin | vredmax | vfredsum | vamax => exact complete_goes h (reduce_keeps h _ _ _ _ _)
  | vslideup | vslidedn | vcompress => exact complete_goes h (moveElems_keeps h _ _ _ _ _ fun _ _ _ => trivial)
  | vpermv => exact execVpermv_goes h _ _ _ _
  | vmv => exact execVmv_goes h _ _ _
  | vsplat | vidx => exact complete_goes h (vec0_keeps h _ _ _ _)
  | vextr => exact execVextr_goes h _ _ _ _
  | vins => exact execVins_goes h _ _ _ _
  | vcvt => exact execVcvt_goes h _ _ _
  | vquant => exact execVquant_goes h _ _ _ _
  | vdequant => exact execVdequant_goes h _ _ _ _
  | venc | vdec => exact complete_goes h (reencode_keeps h _ _ _ _)
  | vencinfo => exact execVencinfo_goes h _ _
  | vrunend => exact execVrunend_goes h _ _
  | vmergeidx => exact execVmergeidx_goes h _ _ _ _
  | vsortkv => exact execVsortkv_goes h _ _ _ _
  | vtopk => exact execVtopk_goes h _ _ _ _
  | vidxx => exact execVidxx_goes h _ _ _ _
  | vsegsum | vsegmax | vscan | vscanx => exact complete_goes h (seg_keeps h _ _ _ _ _ _ _ _)
  | vchain => exact execVchain_goes h _ _ _ _
  | vchainf => exact execVchainf_goes h _
  -- Vector accesses
  | vld | vldff => exact loadU_goes h _ _ _ _ _
  | vlds | vldsff => exact loadS_goes h _ _ _ _ _ _
  | vldx | vgl | vldxff => exact loadX_goes h _ _ _ _ _ _
  | ngather => exact execNgather_goes h _ _ _ _
  | vst => exact vstAt_goes h _ _ _
  | vsts => exact vstsAt_goes h _ _ _ _
  | vstx => exact vstxAt_goes h _ _ _ _
  | vsc => exact vscAt_goes h _ _ _ _
  | vstxr => exact execVstxr_goes h _ _ _ _
  | vamoadd | vamomin | vamomax | vamoswap | vamoand | vamoor | vamofmax | vamocas => exact atomic_goes h _ _ _ _ _ _ _ _
  -- Translation and waits
  | vtrans | vtransff => exact trans_goes h _ _ _ _ _ _
  | vpref => exact execVpref_goes h _ _ _
  | vfence => exact vfenceAt_goes h _ _
  | barwait => exact barwaitAt_goes h _
  | vwait => exact vwaitAt_goes h _ _ _ _
  | vldseg => exact complete_goes h (loadVec_keeps h _ _ _ _ fun _ _ => trivial)
  -- The host's commands and the readback window
  | appload => exact command_goes h (State.appload_wf h)
  | appkill => exact execAppkill_goes h
  | appstat => exact execAppstat_goes h
  | powercap => exact command_goes h (by simpa using h)
  | tenantset => exact execTenantset_goes h
  | cmdReservedCode => exact command_goes h h
  | mgmtRegisterWrite => exact execMgmtRegisterWrite_goes h
  | h2dMessage => exact execH2dMessage_goes h
  | d2hSlotRelease => exact State.resumeMsg_wf (s := s.setSlotState _ _ _ _) h _
  | readbackHartState | readbackEngineQueue | readbackSaveArea | readbackErrorLog | readbackLinkStatus | readbackMemory
    | readbackAlwaysOnLog =>
    exact readback_goes h _ _ _
  | readbackBadSpace => exact execReadbackBadSpace_goes h
  | readbackComplete => exact execReadbackComplete_goes h
  -- Calls of Riura
  | riuraExit => exact service_goes h fun _ _ => State.endApp_wf h _ _
  | riuraLaunch => exact execRiuraLaunch_goes h
  | riuraWait => exact execRiuraWait_goes h
  | riuraWaitTimeout | hostmsgTimeout | collectiveWaitTimeout => exact timeOut_goes h _
  | riuraCancel => exact execRiuraCancel_goes h
  | riuraMap => exact execRiuraMap_goes h
  | riuraUnmap => exact execRiuraUnmap_goes h
  | riuraProtect => exact execRiuraProtect_goes h
  | riuraMigrate => exact execRiuraMigrate_goes h
  | migrationCopyDone => exact execMigrationCopyDone_goes h
  | migrationCopyFail => exact execMigrationCopyFail_goes h
  | riuraKvalloc => exact execRiuraKvalloc_goes h
  | riuraKvfree => exact execRiuraKvfree_goes h
  | queryDeviceShape => exact execQueryDeviceShape_goes h
  | queryWeightStore | queryKvwin => exact query_goes h fun _ _ => State.writeOut_wf h _ _ _ _ _
  | queryAddress => exact execQueryAddress_goes h
  | riuraTime | riuraUnknownService => exact service_goes h fun _ _ => by simpa using h
  | hostmsgSend => exact execHostmsgSend_goes h
  | hostmsgRecv => exact execHostmsgRecv_goes h
  | riuraCrewexit => exact execRiuraCrewexit_goes h
  | riuraLog => exact execRiuraLog_goes h
  | riuraWsload => exact execRiuraWsload_goes h
  | collectiveCreate => exact execCollectiveCreate_goes h
  | collectiveAddwin => exact execCollectiveAddwin_goes h
  | collectiveAddbar => exact execCollectiveAddbar_goes h
  | collectiveWait => exact execCollectiveWait_goes h
  | collectiveEnd => exact execCollectiveEnd_goes h
  | riuraTenant => exact service_goes h fun _ _ => State.writeOut_wf h _ _ _ _ _
  | controlProgramFault => exact execControlProgramFault_goes h
  -- The device and its ports
  | pclGetVersion | pclPowerCapGet => exact pcl_goes h fun r e => by cases e; exact h
  | pclGetFeatures => exact execPclGetFeatures_goes h
  | pclPowerCapSet => exact pcl_goes h fun r e => by cases e; simpa using h
  | pclContextArea => exact execPclContextArea_goes h
  | pclTenantKeyInstall => exact execPclTenantKeyInstall_goes h
  | pclTenantKeyWithdraw => exact execPclTenantKeyWithdraw_goes h
  | pclResetWarm => exact execPclResetWarm_goes h
  | pclResetFunction => exact execPclResetFunction_goes h
  | pclUnsupported => exact execPclUnsupported_goes h
  | coldReset => exact reset_memOk
  | warmReset => exact execWarmReset_goes h
  | functionReset => exact execFunctionReset_goes h
  | standbyRailGood => exact execStandbyRailGood_goes h
  | bringUp => exact execBringUp_goes h
  | riuraFatalError => exact execRiuraFatalError_goes h
  | powerCapTakeEffect => exact execPowerCapTakeEffect_goes h
  | thermalThrottleStart | thermalThrottleEnd | thermalTrip => exact h
  | huskAlarm => exact execHuskAlarm_goes h
  | spdmRequest => exact execSpdmRequest_goes h
  | cxlMemRead => exact execCxlMemRead_goes h
  | cxlMemWrite => exact execCxlMemWrite_goes h
  | poolLinkDown => exact execPoolLinkDown_goes h
  | poolLinkUp => exact execPoolLinkUp_goes h
  | flitReceive => exact execFlitReceive_goes h
  | replayLimit => exact execReplayLimit_goes h
  | portEnable => exact execPortEnable_goes h
  | detectDone | polarityDone | deskewDone | feclockDone | creditDone | retrainDone =>
    exact trained_goes h (by simpa using h)
  | detectTimeout | polarityTimeout | deskewTimeout | feclockTimeout | creditTimeout | retrainTimeout =>
    exact overdue_goes h (by simpa using h)
  -- The scheduler and memory
  | schedulerPlaceCrew => exact execSchedulerPlaceCrew_goes h
  | schedulerPreempt => exact execSchedulerPreempt_goes h
  | hartSwap => exact execHartSwap_goes h
  | crewResume => exact execCrewResume_goes h
  | spillDone => exact execSpillDone_goes h
  | contextFillDone => exact execContextFillDone_goes h
  | leaseFillDone => exact execLeaseFillDone_goes h
  | storependSkidLimit => exact execStorependSkidLimit_goes h
  | transferRetire => exact execTransferRetire_goes h
  | streamRefill => exact execStreamRefill_goes h
  | wsRefreshWindowOpen => exact execWsRefreshWindowOpen_goes h
  | wsRefreshWindowClose => exact execWsRefreshWindowClose_goes h
  | patrolScrub => exact execPatrolScrub_goes h
  | eccUncorrectable => exact execEccUncorrectable_goes h
  -- Waits that are over, and arrivals
  | flagacqSatisfied => exact execFlagacqSatisfied_goes h
  | barwaitDone => exact execBarwaitDone_goes h
  | bcwaitDone => exact execBcwaitDone_goes h
  | fredwaitDone => exact execFredwaitDone_goes h
  | xwaitDone => exact execXwaitDone_goes h
  | vwaitSatisfied => exact execVwaitSatisfied_goes h
  | vwaitTimeout => exact execVwaitTimeout_goes h
  | wfeWake => exact execWfeWake_goes h
  | wfeTimeout => exact execWfeTimeout_goes h
  | fenceComplete => exact execFenceComplete_goes h
  | drainstComplete => exact execDrainstComplete_goes h
  | mmaqMeet => exact execMmaqMeet_goes h
  | ecallReturn => exact execEcallReturn_goes h
  | trainArrive => exact execTrainArrive_goes h
  | trainAck => exact execTrainAck_goes h
  | fredAccept => exact execFredAccept_goes h
  | fredRoundDeliver => exact execFredRoundDeliver_goes h
  | peerKillNotice => exact execPeerKillNotice_goes h
  | releasePerform => exact execReleasePerform_goes h
  | handoffEvent => exact execHandoffEvent_goes h
  | exitWaitDone => exact execExitWaitDone_goes h
  | vectorStorePerform => exact onWait_goes h fun _ ht => storeAgain_goes ht
  | wsloadReturn => exact execWsloadReturn_goes h
  | configurationRequest => exact execConfigurationRequest_goes h
  | debuggerRelease => exact execDebuggerRelease_goes h
  | confinementSet => exact execConfinementSet_goes h

/-! ### The turn -/

/-- Memory has its form in the state a turn carries. -/
def Turn.wf : Turn → Prop
  | .settled u => Memory.wf u.mem
  | .event u _ _ => Memory.wf u.mem
  | .waiting u _ _ => Memory.wf u.mem
  | .fetch u => Memory.wf u.mem

theorem boundary_wf (h : Memory.wf s.mem) : s.boundary.wf := by
  unfold State.boundary
  dsimp only
  (repeat' split) <;> simpa [Turn.wf] using h

theorem hartTurn_wf (h : Memory.wf s.mem) : s.hartTurn.wf := by
  unfold State.hartTurn
  dsimp only
  (repeat' split)
  case h_1 => exact boundary_wf h
  all_goals simpa [Turn.wf] using h

theorem runTurn_wf (h : Memory.wf s.mem) : s.runTurn.wf := by
  unfold State.runTurn
  split
  · exact h
  · exact hartTurn_wf h

theorem endJob_mem {k u i inp} (e : s.endJob k = some (u, i, inp)) : u.mem = s.mem := by
  obtain ⟨j, -, hj⟩ := Option.map_eq_some_iff.mp e
  cases hj
  rfl

theorem endingJob_mem {u i inp} (e : s.endingJob = some (u, i, inp)) : u.mem = s.mem := by
  unfold State.endingJob at e
  dsimp only at e
  split at e
  · exact endJob_mem e
  · cases e

theorem freeTurn_wf (h : Memory.wf s.mem) : s.freeTurn.wf := by
  unfold State.freeTurn
  split
  · next he => simpa [Turn.wf, endingJob_mem he] using h
  split
  · simpa [Turn.wf] using h
  split
  · exact runTurn_wf h
  split
  · exact h
  · exact runTurn_wf h

theorem forcedTurn_wf (h : Memory.wf s.mem) {t : Turn} (e : s.forcedTurn = some t) : t.wf := by
  unfold State.forcedTurn at e
  extract_lets job xfer first run at e
  split at e
  · cases e
  split at e
  · obtain ⟨g, -, rfl⟩ := Option.map_eq_some_iff.mp e
    exact hartTurn_wf (by simpa using h)
  split at e
  · obtain ⟨⟨u, i, inp⟩, hj, rfl⟩ := Option.map_eq_some_iff.mp e
    obtain ⟨k, -, hk⟩ := Option.bind_eq_some_iff.mp hj
    simpa [Turn.wf, endJob_mem hk] using h
  · obtain ⟨x, -, rfl⟩ := Option.map_eq_some_iff.mp e
    exact h

theorem turn_wf (h : Memory.wf s.mem) : s.turn.wf := by
  unfold State.turn
  split
  · exact hartTurn_wf h
  split
  · exact h
  split
  · next he => exact forcedTurn_wf h he
  · exact freeTurn_wf h

/-! ### The step -/

theorem front_mem {u : State} {i id} (e : s.front = some (u, i, id)) : u.mem = s.mem := by
  unfold State.front at e
  dsimp only at e
  split at e
  · cases e
  split at e <;> cases e <;> simp

/-- What is done after an operation, without touching memory, keeps it in its form. -/
theorem andThen_goes {o : Outcome State Fault Refusal} (ho : Goes o) {f : State → State} (hf : ∀ u, (f u).mem = u.mem) :
    Goes (andThen o f) := by
  cases o with
  | next u => simpa [andThen, hf] using ho
  | fault e => trivial
  | refused r => trivial

/-- A step goes on with memory in its form: a parked store, an event, or the turn. -/
theorem step_goes (h : Memory.wf s.mem) : Goes (step s) := by
  have hp : Memory.wf s.passTime.mem := h
  unfold step
  dsimp only
  split
  -- a parked store performs
  · next hf => exact andThen_goes (exec_goes (by simpa [front_mem hf] using hp) _) fun u => u.resave_mem _
  · next hf => simpa [front_mem hf] using hp
  split
  -- an event comes about, if it can
  · split
    · exact exec_goes (by exact hp) _
    · exact hp
  have ht := turn_wf hp
  split
  -- the turn
  · next he => rw [he] at ht; exact ht
  · next he => rw [he] at ht; exact exec_goes (by exact ht) _
  · next he => rw [he] at ht; exact andThen_goes (exec_goes (by exact ht) _) State.rotate_mem
  next he =>
  rw [he] at ht
  split
  -- the hart fetches
  · next hf => exact State.stopped_wf ht _ (fetch_stops.error hf)
  split
  · exact State.takeTrap_wf ht _ _ _
  · exact exec_goes ht _

end Sys2Proof.Machine
end

section
/-! The settled obligation. -/

namespace Sys2Proof.Machine

/-- Settles O60: every instruction and event goes on with memory in its form (`exec_goes`), and a step is time passing and then at
most one of them (`step_goes`). -/
theorem stepKeepsMemory : Obligations.StepKeepsMemory := by
  unfold Obligations.StepKeepsMemory
  intro s t h e
  have hg : Goes (step s) := step_goes h
  rw [e] at hg
  exact hg

end Sys2Proof.Machine
end

section
/-! SUPPORT. What has been put among the events that come about later. -/

namespace Sys2Proof.Machine

variable (s : State) (i : Instr) (p : Input)

theorem mem_later_jobs : (i, p) ∈ (s.later i p).jobs := by
  unfold State.later
  split
  · next h => exact List.contains_iff_mem.mp h
  · exact List.mem_append_right _ (List.mem_singleton.mpr rfl)

variable {s} in
theorem mem_later_jobs_of_mem {j : Instr × Input} (h : j ∈ s.jobs) : j ∈ (s.later i p).jobs := by
  unfold State.later
  split
  · exact h
  · exact List.mem_append_left _ h

/-- Nothing but the jobs changes. -/
theorem later_frame : s.later i p = { s with jobs := (s.later i p).jobs } := by
  unfold State.later
  split <;> rfl

end Sys2Proof.Machine
end

section
/-! SUPPORT. What one step comes to: a parked store, an event, or what the hart that issues has fetched (R187, R298 to R300). -/

namespace Sys2Proof.Machine

variable {s : State}

theorem front_of_urgent_nil (h : s.urgent = []) : s.passTime.front = none := by
  simp [State.front, State.passTime, h]

/-- A pending event comes about where the device admits it and is dropped where not. -/
theorem step_event {i : Instr} {inp : Input} {es : List (Instr × Input)} (hu : s.urgent = []) (he : s.events = (i, inp) :: es) :
    step s = if s.passTime.admits i then exec i { s.passTime with events := es, inp := inp } else
      .next { s.passTime with events := es } := by
  simp only [step, front_of_urgent_nil hu]
  simp only [State.passTime, he]

/-- A hart that fetches a word which decodes runs what it stands for. -/
theorem step_fetch_some {u : State} {w : Nat} {i : Instr} (hu : s.urgent = []) (he : s.events = [])
    (ht : s.passTime.turn = .fetch u) (hf : u.fetch = .ok w) (hd : decode w = some i) : step s = exec i u := by
  have hp : s.passTime.events = [] := he
  simp only [step, front_of_urgent_nil hu, hp, ht, hf, hd]

/-- A word that is no instruction takes ILLEGAL. -/
theorem step_fetch_none {u : State} {w : Nat} (hu : s.urgent = []) (he : s.events = [])
    (ht : s.passTime.turn = .fetch u) (hf : u.fetch = .ok w) (hd : decode w = none) :
    step s = .next (u.takeTrap .illegal (BitVec.ofNat 64 w) 0) := by
  have hp : s.passTime.events = [] := he
  simp only [step, front_of_urgent_nil hu, hp, ht, hf, hd]

/-- A hart that keeps its turn and that nothing holds at the boundary fetches. -/
theorem turn_keepTurn (hk : s.keepTurn = true) (hr : s.hart.run = .running) (hs : s.hart.stopped = false)
    (hc : s.hart.inCall = false) (hw : s.hart.wait = none) (hq : s.hart.swapReq = false) (hd : s.hart.drain = false)
    (h64 : s.hart.skid ≠ 64) (hb : s.storeBound s.hart = false) (ha : s.atBreak s.hart = false) :
    s.passTime.turn = .fetch { s.passTime with
      keepTurn := false, turns := mset 0 s.turns s.hart.id (s.tick + 1), hart := { s.hart with passBreak := false } } := by
  have hb' : State.storeBound ({ s.passTime with keepTurn := false } : State).takeTurn s.hart = false := hb
  have ha' : State.atBreak ({ s.passTime with keepTurn := false } : State).takeTurn s.hart = false := ha
  have e : ({ s.passTime with keepTurn := false } : State).takeTurn.hart = s.hart := rfl
  have k : s.passTime.keepTurn = true := hk
  simp only [State.turn, k, if_true, State.hartTurn, e, hr, hs, hc, hw, ne_eq, not_true_eq_false, decide_false, Bool.or_false,
    Bool.false_eq_true, if_false, State.boundary, h64, Bool.false_and, hq, ha', hb', hd]
  rw [← hd]
  rfl

/-- A plain executable page that is not poisoned gives the four bytes at the PC. -/
theorem fetch_plain {x : Xlat} (hx : s.xlat s.hart s.hart.pc.toNat = some x) (hp : x.attr.getLsbD 13 = true)
    (hl : s.linkDown x.kind = false) (he : x.encoded = false) (h0 : s.poisoned (x.addr s.hart.pc.toNat) = false)
    (h3 : s.poisoned (x.addr s.hart.pc.toNat + 3) = false) :
    s.fetch = .ok (readLE s.mem (x.addr s.hart.pc.toNat) 4) := by
  simp [State.fetch, hx, hp, hl, State.readImage, he, h0, h3]

/-- A parked store of the hart whose turn it is performs first. -/
theorem step_parked {v : State} {id : Nat} {ids : List Nat} {w : Wait} (hu : s.urgent = id :: ids) (hi : s.hart.id = id)
    (hp : s.hart.parked = true) (hw : s.hart.wait = some w)
    (hv : exec w.instr { s.passTime with urgent := ids, hart := { s.hart with parked := false } } = .next v) :
    step s = .next (v.resave id) := by
  have hf : s.passTime.front =
      some ({ s.passTime with urgent := ids, hart := { s.hart with parked := false } }, some w.instr, id) := by
    simp [State.front, State.passTime, hu, State.focus, hi, hp, hw]
  simp only [step, hf, hv, andThen]

/-- A trap with a handler that is not active enters it. -/
theorem takeTrap_handles {c : Cause} {v : Word} {n : Nat} (h : s.hart.handles) :
    s.takeTrap c v n = { s with hart := s.hart.enter c v n } := by
  obtain ⟨h1, h2⟩ := h
  have e : s.hart.toRiura = false := by rw [Hart.toRiura, decide_eq_false h1, h2]; rfl
  simp only [State.takeTrap, e, Bool.false_eq_true, if_false]

end Sys2Proof.Machine
end

section
/-! The settled obligation. -/

namespace Sys2Proof.Machine

/-- Settles O4: what comes first is a parked store (`step_parked`), then an event (`step_event`), then the word that the hart at its
boundary fetches (`turn_keepTurn`, `fetch_plain`). -/
theorem stepRunsDecoded : Obligations.StepRunsDecoded := by
  unfold Obligations.StepRunsDecoded
  refine ⟨⟨fun s x i hu he hk hr hs hc hq hw hd h64 hb ha hx hp hl hn h0 h3 hi => ?_, fun s u w i hu he ht hf hd => ?_⟩,
    fun s i inp es hu he => ⟨fun ha => ?_, fun ha => ?_⟩, fun s v id ids w hu hi hp hw hv => step_parked hu hi hp hw hv,
    fun s u w hu he ht hf hd hv ha => ?_⟩
  · exact step_fetch_some hu he (turn_keepTurn hk hr hs hc hw hq hd h64 hb ha) (fetch_plain hx hp hl hn h0 h3) hi
  · exact step_fetch_some hu he ht hf hd
  · rw [step_event hu he, if_pos ha]
  · rw [step_event hu he, if_neg (by simp [ha])]
  · exact ⟨_, (step_fetch_none hu he ht hf hd).trans (by rw [takeTrap_handles ⟨hv, ha⟩]), rfl, rfl, rfl, rfl, rfl⟩

end Sys2Proof.Machine
end

section
/-! SUPPORT. The library of PCL, the limits and Husk (R15, R17, R28, R30, R61): what each of their operations makes of the state. -/

namespace Sys2Proof.Machine

variable {s : State}

/-! ### PCL -/

/-- A function of a started PCL returns its value, or the error of an argument out of range. -/
theorem pcl_started (f : State → Option (State × Word)) (h : s.pclStarted = true) :
    s.pcl f = .next ((f s).elim (s.pclRet sbiInvalid 0) fun r => r.1.pclRet 0 r.2) := by
  rw [State.pcl, h]
  cases f s <;> rfl

theorem execPclGetFeatures_eq (h : s.pclStarted = true) : execPclGetFeatures s =
    if s.inp.a1.toNat ≤ 255 then .next (s.pclRet 0 0x3FF) else .next (s.pclRet sbiInvalid 0) := by
  rw [execPclGetFeatures, pcl_started _ h]
  by_cases c : s.inp.a1.toNat ≤ 255
  · rw [if_pos c, if_neg (Nat.not_lt.mpr c)]; rfl
  · rw [if_neg c, if_pos (Nat.lt_of_not_le c)]; rfl

theorem execPclPowerCapSet_eq (h : s.pclStarted = true) : execPclPowerCapSet s =
    .next ((s.setCap s.inp.a1.toNat).pclRet 0 (BitVec.ofNat 64 (capOf s.inp.a1.toNat))) :=
  pcl_started (fun t => some (t.setCap t.inp.a1.toNat, BitVec.ofNat 64 (capOf t.inp.a1.toNat))) h

/-- A context area is kept for a core that exists, at an address of 52 bits (R61). -/
theorem execPclContextArea_eq (h : s.pclStarted = true) : execPclContextArea s =
    if 255 < s.inp.a1.toNat ∨ 2 ^ 52 ≤ s.inp.a2.toNat then .next (s.pclRet sbiInvalid 0)
    else .next (({ s with ctxArea := mput s.ctxArea s.inp.a1.toNat s.inp.a2.toNat } : State).pclRet 0 0) := by
  rw [execPclContextArea, pcl_started _ h]
  split <;> rfl

/-- A key is installed for one of the 64 tenants. -/
theorem execPclTenantKeyInstall_eq (h : s.pclStarted = true) (h2 : s.inp.a2 = 0) : execPclTenantKeyInstall s =
    if 63 < s.inp.a1.toNat then .next (s.pclRet sbiInvalid 0)
    else .next (({ s with keysOut := mset false s.keysOut s.inp.a1.toNat false } : State).pclRet 0 0) := by
  have c : (63 < s.inp.a1.toNat ∨ s.inp.a2 ≠ 0) ↔ 63 < s.inp.a1.toNat := by simp [h2]
  rw [execPclTenantKeyInstall, if_neg (by rw [h2]; decide), pcl_started _ h]
  simp only [c]
  split <;> rfl

theorem execPclTenantKeyWithdraw_eq (h : s.pclStarted = true) (h2 : s.inp.a2 = 1) : execPclTenantKeyWithdraw s =
    if 63 < s.inp.a1.toNat then .next (s.pclRet sbiInvalid 0)
    else .next (({ s with keysOut := mset false s.keysOut s.inp.a1.toNat true } : State).pclRet 0 0) := by
  rw [execPclTenantKeyWithdraw, if_neg (not_not_intro h2), pcl_started _ h]
  split <;> rfl

theorem execPclResetWarm_zero (h : s.pclStarted = true) (h1 : s.inp.a1 = 0) :
    execPclResetWarm s = .next (s.postFront .warmReset) := by
  rw [execPclResetWarm, if_neg (by rw [h1]; decide), if_pos h1, if_pos h]

theorem execPclResetFunction_one (h : s.pclStarted = true) (h1 : s.inp.a1 = 1) :
    execPclResetFunction s = .next (s.postFront .functionReset) := by
  rw [execPclResetFunction, if_pos ⟨h1, h⟩]

theorem execPclUnsupported_above (h : s.pclStarted = true) (h1 : 6 < s.inp.n) :
    execPclUnsupported s = .next (s.pclRet sbiNotSupported 0) := by
  rw [execPclUnsupported, if_pos ⟨h, h1⟩]

/-! ### Alarms (R30, R44) -/

/-- The code of an alarm's record: that of LOCK, or of ERASE under the policies that erase. -/
def alarmCode (c : AlarmClass) (p : BitVec 2) : Nat := if p.toNat ≤ 1 then 0x030 + alarmIndex c else 0x038 + alarmIndex c

/-- The record that an alarm leaves in the always-on log. -/
def State.alarmRec (s : State) (c : AlarmClass) (p : BitVec 2) : LogRec := ⟨timeNs s.clk, alarmCode c p, 0, s.freeDetail⟩

theorem lockDown_locked (c : Nat) : (s.lockDown c).locked = true := by
  unfold State.lockDown
  dsimp only
  split <;> rfl

theorem lockDown_alwaysLog (c : Nat) : (s.lockDown c).alwaysLog = s.alwaysLog := by
  unfold State.lockDown
  dsimp only
  split <;> rfl

theorem lockDown_zeroised (c : Nat) : (s.lockDown c).zeroised = s.zeroised := by
  unfold State.lockDown
  dsimp only
  split <;> rfl

/-- The first alarm of a device stops it with its cause. -/
theorem lockDown_first (c : Nat) (h : s.locked = false) :
    (s.lockDown c).dstat = .stopped ∧ (s.lockDown c).dcause = BitVec.ofNat 12 c := by
  simp [State.lockDown, h, State.stopWith]

/-- An alarm is recorded; every policy but LOG then locks the device, and those that erase zeroise its keys. -/
theorem alarm_eq (c : AlarmClass) (p : BitVec 2) : s.alarm c p =
    if p.toNat = 0 then s.logAlways (alarmCode c p) 0 s.freeDetail
    else if p.toNat = 1 then (s.logAlways (alarmCode c p) 0 s.freeDetail).lockDown (alarmCode c p)
    else { (s.logAlways (alarmCode c p) 0 s.freeDetail).lockDown (alarmCode c p) with
           zeroised := true, bringStep := if s.bringOver then s.bringStep else 1 } := by
  have e : p.toNat = 0 ∨ p.toNat = 1 ∨ p.toNat = 2 ∨ p.toNat = 3 := by have := p.isLt; omega
  rcases e with e | e | e | e <;> simp only [State.alarm, alarmCode, e] <;> rfl

theorem alarm_alwaysLog (c : AlarmClass) (p : BitVec 2) : (s.alarm c p).alwaysLog = s.alwaysLog ++ [s.alarmRec c p] := by
  rw [alarm_eq]
  split
  · rfl
  split
  · exact lockDown_alwaysLog _
  · exact lockDown_alwaysLog _

/-- Under LOG an alarm leaves its record alone. -/
theorem alarm_log (c : AlarmClass) (p : BitVec 2) (h : p.toNat = 0) :
    s.alarm c p = { s with alwaysLog := (s.alarm c p).alwaysLog } := by
  rw [alarm_eq, if_pos h]
  rfl

/-- Every policy but LOG withholds the keys. -/
theorem alarm_locked (c : AlarmClass) (p : BitVec 2) (h : 1 ≤ p.toNat) : (s.alarm c p).locked = true := by
  rw [alarm_eq, if_neg (by omega)]
  split
  · exact lockDown_locked _
  · exact lockDown_locked _

/-- The policies that erase, and they alone, zeroise the keys. -/
theorem alarm_zeroised (c : AlarmClass) (p : BitVec 2) :
    (s.alarm c p).zeroised = (decide (2 ≤ p.toNat) || s.zeroised) := by
  rw [alarm_eq]
  split
  · next h => rw [h]; rfl
  split
  · next h => rw [lockDown_zeroised, h]; rfl
  · next h0 h1 => rw [decide_eq_true (by omega), Bool.true_or]

/-- The first alarm under a policy that stops names its cause. -/
theorem alarm_stops (c : AlarmClass) (p : BitVec 2) (h : 1 ≤ p.toNat) (hl : s.locked = false) :
    (s.alarm c p).dstat = .stopped ∧ (s.alarm c p).dcause = BitVec.ofNat 12 (alarmCode c p) := by
  rw [alarm_eq, if_neg (by omega)]
  have e : (s.logAlways (alarmCode c p) 0 s.freeDetail).locked = false := hl
  split
  · exact lockDown_first _ e
  · exact lockDown_first _ e

/-- HUSK_ALARM once Husk runs is the alarm under the policy of its class. -/
theorem execHuskAlarm_booted (h : s.huskBooted = true) :
    execHuskAlarm s = .next (s.alarm s.inp.alarm (Config.alarmPolicy s.inp.alarm)) := by
  simp only [execHuskAlarm, h, if_true]

theorem execSpdmRequest_booted (h : s.huskBooted = true) : execSpdmRequest s = .next { s with
    answers := s.answers ++ [((List.range 64).map fun i => Config.spdmByte s.tick i, false)],
    spdmSession := s.spdmSession || decide (s.inp.spdm = .keyExchange) } := by
  rw [execSpdmRequest, if_pos h]

/-- The new cap is in force once its time has come (R15). -/
theorem execPowerCapTakeEffect_pending {c : Nat} (h : s.capPending = some c) :
    execPowerCapTakeEffect s = .next { s with powerCap := c, capPending := none } := by
  simp only [execPowerCapTakeEffect, h]

end Sys2Proof.Machine
end

section
/-! The settled obligation. -/

namespace Sys2Proof.Machine

/-- Settles O55: each function of a started PCL by its equation, an alarm by the policy of its class (`alarm_eq`). -/
theorem libraryAndLimits : Obligations.LibraryAndLimits := by
  unfold Obligations.LibraryAndLimits
  intro s
  refine ⟨fun h => ⟨?_, execPclGetFeatures_eq h, ?_, ?_, fun h1 h2 => ?_, fun c => ?_, fun h1 h2 => ?_, fun h1 h2 => ?_,
    fun h1 => ⟨fun h2 => ?_, fun h2 => ?_⟩, fun h1 => ?_, fun h1 => ?_, fun h1 => ?_⟩, fun c hc => ?_, rfl, rfl,
    ⟨⟨timeNs s.clk, Config.eventCode 0, 0, s.freeDetail⟩, rfl, rfl⟩, fun h => ?_, fun h => ?_⟩
  · exact pcl_started (fun t => some (t, 0x00030000)) h
  · exact ⟨_, execPclPowerCapSet_eq h, rfl, rfl, State.later_capPending _ _ _, State.later_powerCap _ _ _, mem_later_jobs _ _ _⟩
  · exact pcl_started (fun t => some (t, BitVec.ofNat 64 t.powerCap)) h
  · exact (execPclContextArea_eq h).trans (if_neg (by omega))
  · exact (execPclContextArea_eq h).trans (if_pos c)
  · exact (execPclTenantKeyInstall_eq h h2).trans (if_neg (by omega))
  · exact (execPclTenantKeyWithdraw_eq h h2).trans (if_neg (by omega))
  · exact (execPclTenantKeyInstall_eq h h2).trans (if_pos h1)
  · exact (execPclTenantKeyWithdraw_eq h h2).trans (if_pos h1)
  · exact execPclResetWarm_zero h h1
  · exact execPclResetFunction_one h h1
  · exact execPclUnsupported_above h h1
  · exact execPowerCapTakeEffect_pending hc
  · exact ⟨_, s.alarmRec s.inp.alarm (Config.alarmPolicy s.inp.alarm), execHuskAlarm_booted h, alarm_alwaysLog _ _,
      State.alarm_mem _ _ _, rfl, alarm_log _ _, alarm_locked _ _, alarm_zeroised _ _, alarm_stops _ _⟩
  · exact ⟨_, by simp, execSpdmRequest_booted h⟩

end Sys2Proof.Machine
end

section
/-! SUPPORT. Bring-up and the resets (R32, R33, R44): what each step of Table 7 makes of the state, and what each reset keeps. -/

namespace Sys2Proof.Machine

variable {s : State}

/-! ### The steps of Table 7 -/

/-- Bring-up goes on only where Husk runs and nothing has stopped it. -/
theorem execBringUp_runs (hh : s.huskBooted = true) (hl : s.locked = false) (ht : s.tripped = false)
    (hb : s.bringStopped = false) (hd : s.dstat = .boot ∨ s.dstat = .resetting) :
    execBringUp s = .next (s.bringNext s.inp.failAt) := by
  rcases hd with hd | hd <;> simp only [execBringUp, hh, hl, ht, hb, hd] <;> rfl

theorem bringOn_step (k : Nat) : (s.bringOn k).bringStep = k := State.later_bringStep _ _ _

theorem mem_bringOn_jobs (k : Nat) : (.bringUp, {}) ∈ (s.bringOn k).jobs := mem_later_jobs _ _ _

theorem bringFail_alwaysLog_length (c : Nat) : (s.bringFail c).alwaysLog.length = s.alwaysLog.length + 1 := by
  simp [State.bringFail, State.stopWith, State.logAlways]

/-! Each step of Table 7 goes on to the next, or stops with its cause. -/

theorem bringNext_one (h : s.bringStep = 1) : s.bringNext none = s.bringOn 2 ∧
    s.bringNext (some .bootAuth) = { s.bringFail 0x001 with locked := true } := by
  constructor <;> simp only [State.bringNext, h] <;> rfl

theorem bringNext_two (h : s.bringStep = 2) : s.bringNext none = ({ s with rails := true } : State).bringOn 3 ∧
    s.bringNext (some .rail) =
      { s.logAlways 0x002 0 s.freeDetail with rails := false, dcause := 0x002, bringStopped := true } := by
  constructor <;> simp only [State.bringNext, h] <;> rfl

theorem bringNext_three (h : s.bringStep = 3) : s.bringNext none = ({ s with dstat := .boot } : State).bringOn 4 ∧
    s.bringNext (some .dieLink) = s.bringFail 0x003 := by
  constructor <;> simp only [State.bringNext, h] <;> rfl

theorem bringNext_four (h : s.bringStep = 4) : s.bringNext none = s.bringOn 5 ∧
    ∀ n, s.bringNext (some (.hbm n)) = s.bringFail (0x010 + n.toNat) := by
  constructor <;> simp only [State.bringNext, h, implies_true]

/-- Riura starts where its image is authentic and asks for no later PCL than there is (R62). -/
theorem bringNext_five (h : s.bringStep = 5) : s.bringNext (some .riuraAuth) = s.bringFail 0x020 ∧
    s.bringNext none = if Config.riuraNeedsPcl.toNat ≤ 0x30000 then
      ({ s with pclStarted := true, dstat := .boot } : State).bringOn 6 else s.bringFail 0x020 := by
  constructor
  · simp [State.bringNext, h]
  · by_cases c : Config.riuraNeedsPcl.toNat ≤ 0x30000 <;> simp [State.bringNext, h, riuraStarts, c]

theorem reapOne_setStatus (d : DevState) (c : BitVec 12) (t : State) (r : OldFrame) :
    ({ t with dstat := d, dcause := c } : State).reapOne r = { t.reapOne r with dstat := d, dcause := c } := by
  unfold State.reapOne
  change (if t.isSampled r.pa r.len then _ else _) = _
  split <;> rfl

theorem foldl_reapOne_setStatus (d : DevState) (c : BitVec 12) : ∀ (rs : List OldFrame) (t : State),
    rs.foldl State.reapOne { t with dstat := d, dcause := c } = { rs.foldl State.reapOne t with dstat := d, dcause := c }
  | [], _ => rfl
  | r :: rs, t => by
    rw [List.foldl_cons, reapOne_setStatus]
    exact foldl_reapOne_setStatus d c rs _

/-- Erasing frames that have left does not look at the device's status. -/
theorem reap_setStatus (d : DevState) (c : BitVec 12) :
    ({ s with dstat := d, dcause := c } : State).reap = { s.reap with dstat := d, dcause := c } :=
  foldl_reapOne_setStatus d c s.leaving s

theorem bringNext_six (f : Option BringUpFail) (h : s.bringStep = 6) : s.bringNext f =
    if s.unprovisioned = true then { s.stopWith 0x040 with bringStep := 6 }
    else ({ s.reap with dstat := .ready, dcause := 0 } : State).bringOn 7 := by
  rw [← reap_setStatus]
  simp only [State.bringNext, h]

/-- What step 8 begins with: the training of every port under way. -/
def State.portsOn (s : State) : State :=
  (List.range 64).foldl (fun (t : State) p => t.later .portEnable { n := p }) { s with bringStep := 8, bringSince := s.clk }

theorem portsOn_frame : s.portsOn = { s with bringStep := 8, bringSince := s.clk, jobs := s.portsOn.jobs } := by
  have h : ∀ (ps : List Nat) (t : State), ps.foldl (fun (t : State) p => t.later .portEnable { n := p }) t =
      { t with jobs := (ps.foldl (fun (t : State) p => t.later .portEnable { n := p }) t).jobs } := by
    intro ps
    induction ps with
    | nil => intro t; rfl
    | cons p ps ih => intro t; rw [List.foldl_cons, ih, later_frame]
  exact h _ _

theorem mem_portsOn_jobs {p : Nat} (h : p < 64) : (Instr.portEnable, { n := p }) ∈ s.portsOn.jobs := by
  have k : ∀ (ps : List Nat) (t : State) (j : Instr × Input),
      j ∈ t.jobs ∨ (∃ p ∈ ps, j = (.portEnable, { n := p })) →
      j ∈ (ps.foldl (fun (t : State) p => t.later .portEnable { n := p }) t).jobs := by
    intro ps
    induction ps with
    | nil => intro t j hj; simpa using hj
    | cons q ps ih =>
      intro t j hj
      refine ih _ _ ?_
      rcases hj with hj | ⟨p, hp, rfl⟩
      · exact .inl (mem_later_jobs_of_mem _ _ hj)
      · rcases List.mem_cons.mp hp with rfl | hp
        · exact .inl (mem_later_jobs _ _ _)
        · exact .inr ⟨p, hp, rfl⟩
  exact k _ _ _ (.inr ⟨p, List.mem_range.mpr h, rfl⟩)

theorem bringNext_seven (f : Option BringUpFail) (h : s.bringStep = 7) : s.bringNext f = s.portsOn.later .bringUp := by
  simp only [State.bringNext, h]
  rfl

theorem bringNext_eight (f : Option BringUpFail) (h : s.bringStep = 8) : s.bringNext f =
    if s.bringOver = true then { s with bringDone := true } else s.later .bringUp := by
  simp only [State.bringNext, h]

/-- A bring-up that fails stops the device with its cause, which the always-on log keeps. -/
theorem bringFail_stops (c : Nat) : (s.bringFail c).dstat = .stopped ∧ (s.bringFail c).dcause = BitVec.ofNat 12 c ∧
    (s.bringFail c).alwaysLog.length = s.alwaysLog.length + 1 :=
  ⟨rfl, rfl, bringFail_alwaysLog_length c⟩

theorem bringOn_goesOn (k : Nat) : (s.bringOn k).bringStep = k ∧ (.bringUp, {}) ∈ (s.bringOn k).jobs :=
  ⟨bringOn_step k, mem_bringOn_jobs k⟩

/-! ### Resets -/

theorem canReset_of (hh : s.huskBooted = true) (ht : s.tripped = false) : s.canReset = true := by
  simp only [State.canReset, hh, ht]
  rfl

theorem canReset_of_not (h : s.huskBooted = false ∨ s.tripped = true) : s.canReset = false := by
  rcases h with h | h <;> simp [State.canReset, h]

theorem heldStopped_iff : s.heldStopped = true ↔ s.dstat = .stopped ∧ s.bringStopped = false := by
  simp [State.heldStopped]

/-- A device held by LOCK, ERASE or UNPROVISIONED stays stopped at a warm reset. -/
theorem execWarmReset_held (h : s.canReset = true) (hs : s.heldStopped = true) : execWarmReset s =
    .next { s.endAll with dstat := .stopped, locked := s.locked, bringStep := s.bringStep } := by
  simp only [execWarmReset, h, hs]
  rfl

/-- Any other begins its bring-up again from step 2. -/
theorem execWarmReset_again (h : s.canReset = true) (hs : ¬ s.heldStopped = true) : execWarmReset s =
    .next (({ s.endAll with bringStep := 1 } : State).later .bringUp) := by
  simp only [execWarmReset, h, hs]
  rfl

/-- A device whose Riura does not run stays where it is at a function reset. -/
theorem execFunctionReset_stays (h : s.canReset = true) (hf : s.dstat ≠ .fatal)
    (hs : s.dstat = .stopped ∨ s.bringStopped ∨ s.bringStep < 5) : execFunctionReset s = .next
    { s.endAll with dstat := s.dstat, locked := s.locked, bringStep := s.bringStep, bringStopped := s.bringStopped,
                    jobs := s.jobs.filter fun j => decide (j.1 = .bringUp) } := by
  simp only [execFunctionReset, h, hf, hs]
  rfl

/-- Any other restarts Riura from step 6, with its ports as they are. -/
theorem execFunctionReset_again (h : s.canReset = true) (hf : s.dstat ≠ .fatal)
    (hs : ¬ (s.dstat = .stopped ∨ s.bringStopped ∨ s.bringStep < 5)) : execFunctionReset s =
    .next (({ s.endAll with bringStep := 5, ports := s.ports } : State).later .bringUp) := by
  simp only [execFunctionReset, h, hf, hs]
  rfl

/-- Without Husk, or after a thermal trip, no reset but a cold one occurs. -/
theorem execWarmReset_not (h : s.canReset = false) : execWarmReset s = .next s := by simp only [execWarmReset, h]; rfl

theorem execFunctionReset_not (h : s.canReset = false) : execFunctionReset s = .next s := by simp only [execFunctionReset, h]; rfl

theorem execFunctionReset_fatal (h : s.dstat = .fatal) : execFunctionReset s = .next s := by
  rw [execFunctionReset, h, decide_eq_true rfl, Bool.or_true, if_pos rfl]

theorem execRiuraFatalError_ready (h : s.dstat = .ready) : execRiuraFatalError s =
    .next ((({ s with dstat := .fatal, dcause := 0x050 } : State).logDie 0 0x050 0 s.inp.a1).later .warmReset) := by
  simp only [execRiuraFatalError, h, if_true]

/-- A record stands last in the log of its die. -/
theorem logDie_get (d c a : Nat) (w : Word) :
    mget [] (s.logDie d c a w).dieLogs d = mget [] s.dieLogs d ++ [⟨timeNs s.clk, c, a, w⟩] := by
  simp [State.logDie]

theorem execStandbyRailGood_eq (h : s.standbyRail = false) : execStandbyRailGood s = .next (
    if s.inp.failAt = some .fuse then { s with standbyRail := true, bringStep := 1, bringStopped := true, fuseFault := true }
    else ({ s with standbyRail := true, huskBooted := true, bringStep := 1 } : State).later .bringUp) := by
  simp only [execStandbyRailGood, h, Bool.false_eq_true, if_false]

/-- Configuration requests: refused retry after the link is up or the device has stopped, retried while bring-up goes on. -/
theorem execConfigurationRequest_eq (h : s.tripped = false) : execConfigurationRequest s = .next (
    if s.dstat = .stopped ∨ 7 ≤ s.bringStep then { s with cfgAnswers := s.cfgAnswers ++ [false] }
    else if 3 ≤ s.bringStep then { s with cfgAnswers := s.cfgAnswers ++ [true] } else s) := by
  simp only [execConfigurationRequest, h, Bool.false_eq_true, if_false]

end Sys2Proof.Machine
end

section
/-! The settled obligations. -/

namespace Sys2Proof.Machine

/-- Settles O59: each field is at its reset value, and an empty memory has the canonical form (`reset_memOk`). -/
theorem resetState : Obligations.ResetState := by
  unfold Obligations.ResetState
  exact ⟨rfl, rfl, rfl, rfl, rfl, rfl, rfl, rfl, fun _ => rfl, rfl, rfl, reset_memOk⟩

/-- Bring-up at a step and with a fault that answer `u`, from a state in which it runs. -/
theorem bringUp_answers {s u : State} {f : Option BringUpFail} (run : exec .bringUp s = .next (s.bringNext s.inp.failAt))
    (hf : s.inp.failAt = f) (e : s.bringNext f = u) : exec .bringUp s = .next u := by
  rw [run, hf, e]

/-- Settles O56: the steps of Table 7 by the equations `bringNext_one` to `bringNext_eight`, the resets by what `endAll` keeps. -/
theorem bringUpAndResets : Obligations.BringUpAndResets := by
  unfold Obligations.BringUpAndResets
  intro s at_ on stops
  refine ⟨fun hr hf => ?rail, fun hr hf => ?fuse, fun hh hl ht hb hd => ?steps, ?cold, fun hh ht => ?warm, fun h => ?held,
    fun h => ?fatal, fun ht => ?cfg⟩
  case rail =>
    exact ⟨_, (execStandbyRailGood_eq hr).trans (by rw [if_neg hf]), State.later_standbyRail _ _ _, State.later_huskBooted _ _ _,
      State.later_bringStep _ _ _, mem_later_jobs _ _ _⟩
  case fuse => exact (execStandbyRailGood_eq hr).trans (by rw [if_pos hf])
  case steps =>
    have run : exec .bringUp s = .next (s.bringNext s.inp.failAt) := execBringUp_runs hh hl ht hb hd
    refine ⟨fun hk hf => ?_, fun hk hf => ?_, fun hk hf => ?_, fun hk hf => ?_, fun hp hk hf => ?_, fun hp hk hf => ?_,
      fun hu hk hf => ?_, fun hu hk hf => ?_, fun hk hf => ?_, fun ho hk hf => ?_, fun ho hk hf => ?_, fun hk hf => ?_,
      fun hk hf => ?_, fun hk hf => ?_, fun hk hf => ?_, fun n hk hf => ?_⟩
    · exact ⟨_, bringUp_answers run hf (bringNext_one hk).1, bringOn_goesOn 2, fun _ => State.bringOn_mem _ _⟩
    · exact ⟨_, bringUp_answers run hf (bringNext_two hk).1, ⟨bringOn_goesOn 3, State.later_rails _ _ _⟩,
        fun _ => State.bringOn_mem _ _⟩
    · exact ⟨_, bringUp_answers run hf (bringNext_three hk).1, ⟨bringOn_goesOn 4, State.later_dstat _ _ _⟩,
        fun _ => State.bringOn_mem _ _⟩
    · exact ⟨_, bringUp_answers run hf (bringNext_four hk).1, bringOn_goesOn 5, fun _ => State.bringOn_mem _ _⟩
    · exact ⟨_, bringUp_answers run hf ((bringNext_five hk).2.trans (if_pos hp)), ⟨bringOn_goesOn 6, State.later_pclStarted _ _ _⟩,
        fun _ => State.bringOn_mem _ _⟩
    · exact ⟨_, bringUp_answers run hf ((bringNext_five hk).2.trans (if_neg (Nat.not_le.mpr hp))), bringFail_stops _, fun _ => rfl⟩
    · exact ⟨_, bringUp_answers run hf ((bringNext_six _ hk).trans (if_neg (by simp [hu]))),
        ⟨bringOn_goesOn 7, State.later_dstat _ _ _, State.later_dcause _ _ _, State.bringOn_mem _ _⟩, fun h => absurd rfl h⟩
    · exact ⟨_, bringUp_answers run hf ((bringNext_six _ hk).trans (if_pos hu)), ⟨rfl, rfl⟩, fun _ => rfl⟩
    · have e := portsOn_frame (s := s)
      refine ⟨_, bringUp_answers run hf (bringNext_seven _ hk), ⟨⟨?_, mem_later_jobs _ _ _⟩, ?_,
        fun p hp => mem_later_jobs_of_mem _ _ (mem_portsOn_jobs hp)⟩, fun _ => ?_⟩
      · rw [State.later_bringStep, e]
      · rw [State.later_dstat, e]
      · rw [State.later_mem, e]
    · exact ⟨_, bringUp_answers run hf ((bringNext_eight _ hk).trans (if_pos ho)), rfl, fun _ => rfl⟩
    · exact ⟨_, bringUp_answers run hf ((bringNext_eight _ hk).trans (if_neg (by simp [ho]))),
        ⟨(State.later_bringStep _ _ _).trans hk, mem_later_jobs _ _ _⟩, fun _ => State.later_mem _ _ _⟩
    · exact ⟨_, bringUp_answers run hf (bringNext_one hk).2, ⟨bringFail_stops _, rfl⟩, fun _ => rfl⟩
    · exact ⟨_, bringUp_answers run hf (bringNext_two hk).2, ⟨rfl, rfl, rfl⟩, fun _ => rfl⟩
    · exact ⟨_, bringUp_answers run hf (bringNext_three hk).2, bringFail_stops _, fun _ => rfl⟩
    · exact ⟨_, bringUp_answers run hf (bringNext_five hk).1, bringFail_stops _, fun _ => rfl⟩
    · exact ⟨_, bringUp_answers run hf ((bringNext_four hk).2 n), bringFail_stops _, fun _ => rfl⟩
  case cold => exact ⟨_, rfl, rfl, rfl, rfl, rfl, rfl, rfl, rfl, rfl⟩
  case warm =>
    have can := canReset_of hh ht
    refine ⟨?_, fun hf => execFunctionReset_fatal hf, fun hf => ?_⟩
    · by_cases h : s.heldStopped = true
      · exact ⟨_, execWarmReset_held can h, rfl, rfl, rfl, rfl, rfl, rfl, rfl, fun _ => ⟨rfl, rfl⟩,
          fun c => absurd (heldStopped_iff.mp h).1 c⟩
      · exact ⟨_, execWarmReset_again can h, State.later_apps _ _ _, State.later_crews _ _ _, State.later_hart _ _ _,
          State.later_others _ _ _, State.later_mem _ _ _, State.later_alwaysLog _ _ _, State.later_powerCap _ _ _,
          fun c => absurd (heldStopped_iff.mpr c) h,
          fun _ => ⟨State.later_dstat _ _ _, State.later_bringStep _ _ _, mem_later_jobs _ _ _⟩⟩
    · by_cases h : s.dstat = .stopped ∨ s.bringStopped ∨ s.bringStep < 5
      · refine ⟨_, execFunctionReset_stays can hf h, rfl, rfl, rfl, rfl, rfl, id, fun hr hb h5 => ?_⟩
        simp [hr, hb, Nat.not_lt.mpr h5] at h
      · exact ⟨_, execFunctionReset_again can hf h, State.later_apps _ _ _, State.later_crews _ _ _, State.later_hart _ _ _,
          State.later_others _ _ _, State.later_mem _ _ _, fun c => absurd (.inl c) h, fun _ _ _ =>
          ⟨State.later_dstat _ _ _, ⟨State.later_bringStep _ _ _, mem_later_jobs _ _ _⟩, State.later_ports _ _ _⟩⟩
  case held =>
    have can := canReset_of_not h
    exact ⟨execWarmReset_not can, execFunctionReset_not can⟩
  case fatal =>
    refine ⟨_, execRiuraFatalError_ready h, State.later_dstat _ _ _, State.later_dcause _ _ _, mem_later_jobs _ _ _, ?_⟩
    rw [State.later_dieLogs, logDie_get, List.map_append]
    rfl
  case cfg =>
    refine ⟨fun h => ?_, fun hs h3 h7 => ?_, fun hs h3 => ?_⟩
    · exact (execConfigurationRequest_eq ht).trans (by rw [if_pos h])
    · exact (execConfigurationRequest_eq ht).trans (by rw [if_neg (not_or.mpr ⟨hs, by omega⟩), if_pos h3])
    · exact (execConfigurationRequest_eq ht).trans (by rw [if_neg (not_or.mpr ⟨hs, by omega⟩), if_neg (by omega)])

end Sys2Proof.Machine
end

section
namespace Sys2Proof.Machine

/-- A state in which the control program of slot 0 unmaps its one page while a hart holds a link to the first line of the page's
frame (R216). -/
def linkedUnmap : State :=
  { inp := { caller := .ctl 0, a1 := 0x200000, a2 := 4096 },
    hart := { run := .running, links := [0] },
    apps := [(0, { state := .running,
                   maps := [{ va := 0x200000, pages := 1, pa := 0, attr := attrOf 0x3F true true false, kind := .tier1,
                              range := false, pageLog := 12, migr := none }] })] }

/-- UNMAP erases the frame, which breaks the link: the hart is not what it was. -/
theorem linkedUnmap_breaksLink : ∃ u, exec .riuraUnmap linkedUnmap = .next u ∧ u.hart.links = [] := ⟨_, rfl, rfl⟩

end Sys2Proof.Machine
end

section
/-! The settled obligation. -/

namespace Sys2Proof.Machine

/-- Refutes O48: that UNMAP changes nothing but the application, memory, headers and poison fails where a hart holds a link to a line
of the frame, which the erasing at once of an unsampled frame breaks, setting the hart's wake latch (R216; `linkedUnmap`). -/
theorem not_memoryMapping : ¬ Obligations.MemoryMapping := by
  unfold Obligations.MemoryMapping
  intro h
  obtain ⟨-, -, hok, -⟩ := h linkedUnmap 0 ⟨rfl, rfl, rfl⟩
  obtain ⟨⟨u, hu, -, frame, -⟩, -⟩ := hok (by decide) (by decide) (by decide) (by decide) (by decide)
  obtain ⟨v, hv, broken⟩ := linkedUnmap_breaksLink
  have e : u = v := Host.Outcome.next.inj (hu.symm.trans hv)
  have kept : u.hart.links = [0] := congrArg (fun t : State => t.hart.links) frame
  rw [e, broken] at kept
  cases kept

end Sys2Proof.Machine
end

section
/-! SUPPORT. Memory as the host sees it (R29, R439): bytes of a number read from memory, cells written to rising addresses, and a
frame under a tenant's key read and written through the two ciphers. -/

namespace Sys2Proof.Machine

variable {s : State}

/-! ### Bytes read and cells written -/

/-- What memory holds from an address on is packed from its bytes. -/
theorem readLE_eq_packW (m : List Host.Cell) : ∀ (n pa : Nat),
    readLE m pa n = packW 8 ((List.range n).map fun i => (mget unlistedByte m (pa + i)).toNat)
  | 0, _ => rfl
  | n + 1, pa => by
    have b : (mget unlistedByte m pa).toNat < 2 ^ 8 := (mget unlistedByte m pa).isLt
    have e : ∀ i, (mget unlistedByte m (pa + i.succ)).toNat = (mget unlistedByte m (pa + 1 + i)).toNat := fun i => by
      rw [Nat.succ_eq_add_one, Nat.add_right_comm pa 1 i, Nat.add_assoc]
    rw [List.range_succ_eq_map, List.map_cons, List.map_map, readLE, packW, readLE_eq_packW m n (pa + 1), Nat.add_zero pa,
      Nat.mod_eq_of_lt b, Nat.mul_comm]
    simp only [Function.comp_def, e, Nat.reducePow]

theorem putCells_append (ds : List (Nat × Nat)) : ∀ (cs : List (Nat × Nat)) (m : List Host.Cell),
    putCells m (cs ++ ds) = putCells (putCells m cs) ds
  | [], _ => rfl
  | (a, b) :: cs, m => putCells_append ds cs (mset unlistedByte m a (BitVec.ofNat 8 b))

/-- At most one cell for each of `n` addresses from `b` on: each such address reads what its cell gives, if it has one. -/
theorem mget_putCells_range (g : Nat → Option Nat) (m : List Host.Cell) (b p : Nat) : ∀ n,
    mget unlistedByte (putCells m ((List.range n).flatMap fun i => (g (b + i)).toList.map fun v => (b + i, v))) p =
      if b ≤ p ∧ p < b + n then (g p).elim (mget unlistedByte m p) (BitVec.ofNat 8) else mget unlistedByte m p
  | 0 => by rw [if_neg (by omega)]; rfl
  | n + 1 => by
    have ih := mget_putCells_range g m b p n
    rw [List.range_succ, List.flatMap_append, putCells_append]
    by_cases e : p = b + n
    · subst e
      rw [if_neg (by omega)] at ih
      rw [if_pos (by omega)]
      cases h : g (b + n) <;> simp [h, putCells, ih]
    · have other : ∀ c ∈ ([n].flatMap fun i => (g (b + i)).toList.map fun v => (b + i, v)), c.1 ≠ p := by
        intro c hc
        simp only [List.flatMap_singleton, List.mem_map] at hc
        obtain ⟨v, -, rfl⟩ := hc
        exact fun h => e h.symm
      rw [mget_putCells_of_not_mem p _ _ other, ih]
      by_cases h : b ≤ p ∧ p < b + n
      · rw [if_pos h, if_pos (by omega)]
      · rw [if_neg h, if_neg (by omega)]

/-! ### Frames of applications -/

theorem frameTenant_eq_none_iff (pa : Nat) : s.frameTenant pa = none ↔ s.assigned pa = false := by
  simp [State.frameTenant, State.assigned, State.usedFrames]

/-- Memory of no application reads as it stands. -/
theorem hostByte_of_frameTenant_none {pa : Nat} (h : s.frameTenant pa = none) :
    s.hostByte pa = (mget unlistedByte s.mem pa).toNat := by
  simp only [State.hostByte, h]

theorem hostByte_of_frameTenant_some {pa t : Nat} (h : s.frameTenant pa = some t) :
    s.hostByte pa = bitsAt (recipher (t + 1) 0 (pa / 16) (readLE s.mem (pa / 16 * 16) 16)) (8 * (pa % 16)) 8 := by
  simp only [State.hostByte, h]

theorem recipher_lt (k j a n : Nat) : recipher k j a n < 2 ^ 128 := by
  unfold recipher ofHalves
  omega

/-! ### Writes of the host -/

/-- The byte that a host writes at an address. -/
def hostPut (a : Nat) (data : List (BitVec 8)) (p : Nat) : Option Nat := if a ≤ p then (data[p - a]?).map BitVec.toNat else none

theorem hostPut_outside {a p : Nat} {data : List (BitVec 8)} (h : p < a ∨ a + data.length ≤ p) : hostPut a data p = none := by
  unfold hostPut
  split
  · rw [List.getElem?_eq_none (by omega)]; rfl
  · rfl

theorem hostPut_add (a : Nat) {data : List (BitVec 8)} {i : Nat} (h : i < data.length) :
    hostPut a data (a + i) = some (data.getD i 0).toNat := by
  simp [hostPut, h]

/-- The bytes that a host sees in a block once it has written. -/
def State.hostBlock (s : State) (a : Nat) (data : List (BitVec 8)) (b : Nat) : Nat :=
  packW 8 ((List.range 16).map fun i => (hostPut a data (b * 16 + i)).getD (s.hostByte (b * 16 + i)))

theorem hostBlock_lt (a : Nat) (data : List (BitVec 8)) (b : Nat) : s.hostBlock a data b < 2 ^ 128 := by
  have h := packW_lt ((List.range 16).map fun i => (hostPut a data (b * 16 + i)).getD (s.hostByte (b * 16 + i)))
  simpa [State.hostBlock] using h

/-- What memory holds at an address once a host has written, none where it stays. -/
def State.hostStored (s : State) (a : Nat) (data : List (BitVec 8)) (p : Nat) : Option Nat :=
  match s.frameTenant p with
  | none => hostPut a data p
  | some t => some (bitsAt (recipher 0 (t + 1) (p / 16) (s.hostBlock a data (p / 16))) (8 * (p % 16)) 8)

theorem hostCell_eq (a : Nat) (data : List (BitVec 8)) (p : Nat) :
    s.hostCell a data p = (s.hostStored a data p).toList.map fun v => (p, v) := by
  unfold State.hostCell State.hostStored
  cases s.frameTenant p <;> rfl

/-- Memory after a host's write: whole blocks from that of its first byte to that of its last. -/
theorem mget_hostWrite {a : Nat} {data : List (BitVec 8)} (h : data ≠ []) (p : Nat) :
    mget unlistedByte (s.hostWrite a data).mem p =
      if a / 16 * 16 ≤ p ∧ p < (a + data.length + 15) / 16 * 16 then
        (s.hostStored a data p).elim (mget unlistedByte s.mem p) (BitVec.ofNat 8)
      else mget unlistedByte s.mem p := by
  have e : a / 16 * 16 + ((a + data.length + 15) / 16 - a / 16) * 16 = (a + data.length + 15) / 16 * 16 := by omega
  rw [State.hostWrite, if_neg h]
  simp only [hostCell_eq]
  exact (mget_putCells_range (s.hostStored a data) s.mem (a / 16 * 16) p _).trans (by rw [e])

theorem hostWrite_frameTenant (a : Nat) (data : List (BitVec 8)) (p : Nat) :
    (s.hostWrite a data).frameTenant p = s.frameTenant p := by
  unfold State.hostWrite
  split <;> rfl

/-- Outside the blocks it touches, and outside its bytes where no application has the frame, a host's write leaves memory alone. -/
theorem mget_hostWrite_outside {a p : Nat} {data : List (BitVec 8)} (h : p < a / 16 * 16 ∨ (a + data.length + 15) / 16 * 16 ≤ p ∨
    ((p < a ∨ a + data.length ≤ p) ∧ s.assigned p = false)) :
    mget unlistedByte (s.hostWrite a data).mem p = mget unlistedByte s.mem p := by
  by_cases hd : data = []
  · rw [State.hostWrite, if_pos hd]
  rw [mget_hostWrite hd]
  rcases h with lo | hi | ⟨out, free⟩
  · rw [if_neg (by omega)]
  · rw [if_neg (by omega)]
  · simp only [State.hostStored, (frameTenant_eq_none_iff p).mpr free, hostPut_outside out, Option.elim, ite_self]

/-- A byte written where no application has the frame stands in memory as it is. -/
theorem mget_hostWrite_plain {a i : Nat} {data : List (BitVec 8)} (hi : i < data.length) (h : s.frameTenant (a + i) = none) :
    mget unlistedByte (s.hostWrite a data).mem (a + i) = data.getD i 0 := by
  rw [mget_hostWrite (fun e => by simp [e] at hi), if_pos (by omega)]
  simp only [State.hostStored, h, hostPut_add a hi, Option.elim, BitVec.ofNat_toNat, BitVec.setWidth_eq]

/-- A block of a tenant's frame holds, once written, what the tenant's key makes of what the host sees in it. -/
theorem readLE_hostWrite {a b t : Nat} {data : List (BitVec 8)} (hd : data ≠ []) (lo : a / 16 ≤ b)
    (hi : b < (a + data.length + 15) / 16) (ht : ∀ i < 16, s.frameTenant (b * 16 + i) = some t) :
    readLE (s.hostWrite a data).mem (b * 16) 16 = recipher 0 (t + 1) b (s.hostBlock a data b) := by
  have bytes : ∀ i < 16, (mget unlistedByte (s.hostWrite a data).mem (b * 16 + i)).toNat =
      bitsAt (recipher 0 (t + 1) b (s.hostBlock a data b)) (8 * i) 8 := by
    intro i hi
    rw [mget_hostWrite hd, if_pos (by omega)]
    simp only [State.hostStored, ht i hi, Option.elim, show (b * 16 + i) / 16 = b by omega, show (b * 16 + i) % 16 = i by omega,
      BitVec.toNat_ofNat]
    exact Nat.mod_mod _ _
  rw [readLE_eq_packW, List.map_congr_left fun i hi => bytes i (List.mem_range.mp hi), packW_bytes,
    Nat.mod_eq_of_lt (recipher_lt _ _ _ _)]

/-- A host reads back what it wrote, where each block lies in the frame of one tenant or of none. -/
theorem hostByte_hostWrite {a i : Nat} {data : List (BitVec 8)} (hi : i < data.length)
    (one : ∀ p q, p / 16 = q / 16 → s.frameTenant p = s.frameTenant q) :
    (s.hostWrite a data).hostByte (a + i) = (data.getD i 0).toNat := by
  cases ht : s.frameTenant (a + i) with
  | none =>
    rw [hostByte_of_frameTenant_none ((hostWrite_frameTenant a data _).trans ht), mget_hostWrite_plain hi ht]
  | some t =>
    have block : ∀ j < 16, s.frameTenant ((a + i) / 16 * 16 + j) = some t := fun j hj => (one _ _ (by omega)).trans ht
    have place : (a + i) / 16 * 16 + (a + i) % 16 = a + i := by omega
    rw [hostByte_of_frameTenant_some ((hostWrite_frameTenant a data _).trans ht),
      readLE_hostWrite (fun e => by simp [e] at hi) (by omega) (by omega) block, recipher_recipher _ _ _ (hostBlock_lt _ _ _),
      State.hostBlock, byte_packW]
    have hm : (a + i) % 16 < 16 := Nat.mod_lt _ (by decide)
    simp only [List.getD_eq_getElem?_getD, List.getElem?_map, List.getElem?_range hm, Option.map_some, Option.getD_some, place,
      hostPut_add a hi]
    exact Nat.mod_eq_of_lt (data.getD i 0).isLt

/-! ### The events of CXL.mem, of the pool links, of refresh windows and of ECC -/

theorem cxlUp_iff : s.cxlUp = true ↔ s.tripped = false ∧ s.locked = false ∧ 7 ≤ s.bringStep := by
  simp [State.cxlUp, and_assoc]

/-- While the host link does not carry CXL.mem, no request comes to anything. -/
theorem cxlMem_down (h : s.tripped = true ∨ s.locked = true ∨ s.bringStep < 7) :
    execCxlMemRead s = .next s ∧ execCxlMemWrite s = .next s := by
  have e : s.cxlUp = false := by
    rw [← Bool.not_eq_true, cxlUp_iff]
    rintro ⟨h1, h2, h3⟩
    simp [h1, h2, Nat.not_lt.mpr h3] at h
  simp only [execCxlMemRead, execCxlMemWrite, e]
  exact ⟨rfl, rfl⟩

theorem execCxlMemRead_within (h : s.cxlUp = true) (w : s.inp.n + s.inp.m ≤ 2 ^ 40) : execCxlMemRead s =
    .next { s with answers := s.answers ++
      [((List.range s.inp.m).map fun i => BitVec.ofNat 8 (s.hostByte (s.inp.n + i)),
        (List.range s.inp.m).any fun i => s.poisoned (s.inp.n + i))] } := by
  simp only [execCxlMemRead, h, windowBytes, Nat.not_lt.mpr w]
  rfl

theorem execCxlMemRead_beyond (h : s.cxlUp = true) (w : 2 ^ 40 < s.inp.n + s.inp.m) : execCxlMemRead s =
    .next { s.beyondWindow s.inp.n with answers := s.answers ++ [(List.replicate s.inp.m 0, true)] } := by
  simp only [execCxlMemRead, h, windowBytes, w]
  rfl

theorem execCxlMemWrite_within (h : s.cxlUp = true) (w : s.inp.n + s.inp.data.length ≤ 2 ^ 40) : execCxlMemWrite s =
    .next (if s.zeroised = true then s else s.hostWrite s.inp.n s.inp.data) := by
  simp only [execCxlMemWrite, h, windowBytes, Nat.not_lt.mpr w]
  rfl

theorem execCxlMemWrite_beyond (h : s.cxlUp = true) (w : 2 ^ 40 < s.inp.n + s.inp.data.length) :
    execCxlMemWrite s = .next (s.beyondWindow s.inp.n) := by
  simp only [execCxlMemWrite, h, windowBytes, w]
  rfl

/-- The bytes of a read's answer. -/
theorem getD_hostBytes {m i : Nat} (a : Nat) (hi : i < m) :
    ((List.range m).map fun i => BitVec.ofNat 8 (s.hostByte (a + i))).getD i 0 = BitVec.ofNat 8 (s.hostByte (a + i)) := by
  simp [hi]

/-- No refresh window is open in the last 1,650 clk of each 2,200. -/
theorem refreshBank_none {c : Nat} (h : 550 ≤ c % 70400 % 2200) : refreshBank c = none := by
  simp only [refreshBank, Nat.not_lt.mpr h, if_false]

theorem refreshBank_some {c : Nat} (h : c % 70400 % 2200 < 550) : refreshBank c = some (c % 70400 / 2200) := by
  simp only [refreshBank, h, if_true]

theorem execWsRefreshWindowOpen_now (h : refreshBank s.clk = some s.inp.n) :
    execWsRefreshWindowOpen s = .next { s with wsOpen := some s.inp.n } := by
  simp only [execWsRefreshWindowOpen, h, if_true]

theorem execWsRefreshWindowOpen_never (h : refreshBank s.clk = none) : execWsRefreshWindowOpen s = .next s := by
  rw [execWsRefreshWindowOpen, h, if_neg (by simp)]

theorem execWsRefreshWindowClose_none (h : refreshBank s.clk = none) :
    execWsRefreshWindowClose s = .next { s with wsOpen := none } := by
  rw [execWsRefreshWindowClose, h]
  split
  · next e => rw [e]
  · rfl

/-- An uncorrectable error poisons the granule of its address and no other. -/
theorem uncorrectable_poisoned (a p : Nat) (h : mget false s.poison (a / 64) = false) :
    (s.uncorrectable a).poisoned p = (decide (p / 64 = a / 64) || s.poisoned p) := by
  rw [State.uncorrectable, h]
  by_cases e : p / 64 = a / 64 <;> simp [State.poisoned, State.logDie, State.setPoison, e]

theorem uncorrectable_log (a : Nat) (h : mget false s.poison (a / 64) = false) :
    (mget [] (s.uncorrectable a).dieLogs (dieOfPhys a)).length = (mget [] s.dieLogs (dieOfPhys a)).length + 1 := by
  rw [State.uncorrectable, h]
  simp [State.logDie, State.setPoison]

/-- A granule that is poisoned already is not told of again. -/
theorem uncorrectable_again (a : Nat) (h : mget false s.poison (a / 64) = true) : s.uncorrectable a = s := by
  rw [State.uncorrectable, if_pos h]

/-- A corrected error is counted, and the count recorded. -/
theorem corrected_counts (a : Nat) :
    mget 0 (s.corrected a).eccCorrected (dieOfPhys a) = mget 0 s.eccCorrected (dieOfPhys a) + 1 ∧
    (mget [] (s.corrected a).dieLogs (dieOfPhys a)).length = (mget [] s.dieLogs (dieOfPhys a)).length + 1 := by
  simp [State.corrected, State.logDie]

end Sys2Proof.Machine
end

section
/-! The settled obligation. -/

namespace Sys2Proof.Machine

/-- Settles O57: memory after a write by its blocks (`mget_hostWrite`), and the two ciphers undo each other (`hostByte_hostWrite`). -/
theorem deviceMemory : Obligations.DeviceMemory := by
  unfold Obligations.DeviceMemory
  intro s a n
  refine ⟨cxlMem_down, fun ht hl hb => ?cxl, fun h => ?linkA, fun h => ?linkB, fun h hw => ?opens, fun h => ?closed,
    fun hf hp => ?ecc, fun hf hp => ?again, fun h => ?none, fun h => ?corrected⟩
  case cxl =>
    have up := cxlUp_iff.mpr ⟨ht, hl, hb⟩
    refine ⟨fun h => ⟨_, execCxlMemRead_within up h, by rw [List.length_map, List.length_range], fun i hi =>
        ⟨getD_hostBytes a hi, fun free => (getD_hostBytes a hi).trans ?_⟩⟩,
      fun h => ⟨_, execCxlMemRead_beyond up h, rfl, rfl, rfl⟩,
      fun h hz => ⟨_, (execCxlMemWrite_within up h).trans (by rw [hz, if_neg Bool.false_ne_true]),
        fun p => mget_hostWrite_outside, fun one i hi => hostByte_hostWrite hi one,
        fun i hi free => mget_hostWrite_plain hi ((frameTenant_eq_none_iff _).mpr free)⟩,
      fun h => ⟨_, execCxlMemWrite_beyond up h, rfl, rfl⟩, fun h hz => (execCxlMemWrite_within up h).trans (by rw [if_pos hz])⟩
    rw [hostByte_of_frameTenant_none ((frameTenant_eq_none_iff _).mpr free), BitVec.ofNat_toNat, BitVec.setWidth_eq]
  case linkA => simp only [exec, execPoolLinkDown, execPoolLinkUp, h, and_self]
  case linkB => simp only [exec, execPoolLinkDown, execPoolLinkUp, h, and_self]
  case opens => exact execWsRefreshWindowOpen_now (by rw [refreshBank_some hw, h])
  case closed => exact ⟨execWsRefreshWindowOpen_never (refreshBank_none h), execWsRefreshWindowClose_none (refreshBank_none h)⟩
  case ecc =>
    refine ⟨s.uncorrectable a, ?_, fun h => ?_, fun p => uncorrectable_poisoned a p hp, State.uncorrectable_mem s a,
      uncorrectable_log a hp⟩
    · simp only [exec, execEccUncorrectable, hf]; rfl
    · simp only [exec, execPatrolScrub, h, hf]; rfl
  case again =>
    simp only [exec, execEccUncorrectable, hf]
    exact congrArg _ (uncorrectable_again a hp)
  case none => simp only [exec, execPatrolScrub, h]
  case corrected =>
    obtain ⟨count, log⟩ := corrected_counts (s := s) a
    refine ⟨s.corrected a, ?_, count, log, rfl⟩
    simp only [exec, execPatrolScrub, h]
    rfl

end Sys2Proof.Machine
end

section
/-! SUPPORT. Registers written by bytes (R35, R42): a write within one word, and the word that eight bytes make. -/

namespace Sys2Proof.Machine

/-- The cells of a write of at most eight bytes from the first byte of a word on lie in that word. -/
theorem splitWords_word (w : Nat) (bs : List Byte) (h0 : bs ≠ []) (h8 : bs.length ≤ 8) :
    splitWords (8 * w) bs = [(w, List.zip (List.range bs.length) bs)] := by
  have idx : ∀ x ∈ List.zip (List.range bs.length) bs, (8 * w + x.1) / 8 = w ∧ (8 * w + x.1) % 8 = x.1 := by
    intro x hx
    have := List.mem_range.mp (List.of_mem_zip hx).1
    omega
  have words : ((List.zip (List.range bs.length) bs).map fun x => (8 * w + x.1, x.2)).map (fun c => c.1 / 8) =
      List.replicate bs.length w := by
    rw [List.map_map, List.eq_replicate_iff]
    refine ⟨by simp, fun b hb => ?_⟩
    obtain ⟨x, hx, rfl⟩ := List.mem_map.mp hb
    exact (idx x hx).1
  have once : ∀ n, distinct (List.replicate n w) [w] = [w] := by
    intro n
    induction n with
    | zero => rfl
    | succ n ih => simpa [List.replicate_succ, distinct] using ih
  obtain ⟨n, hn⟩ : ∃ n, bs.length = n + 1 := ⟨bs.length - 1, by have := List.length_pos_iff.mpr h0; omega⟩
  have one : distinct (List.replicate bs.length w) [] = [w] := by
    rw [hn, List.replicate_succ]
    simpa [distinct] using once n
  have all : ((List.zip (List.range bs.length) bs).map fun x => (8 * w + x.1, x.2)).filter (fun c => decide (c.1 / 8 = w)) =
      (List.zip (List.range bs.length) bs).map fun x => (8 * w + x.1, x.2) := by
    refine List.filter_eq_self.mpr fun c hc => ?_
    obtain ⟨x, hx, rfl⟩ := List.mem_map.mp hc
    exact decide_eq_true (idx x hx).1
  unfold splitWords
  dsimp only
  rw [words, one, List.map_singleton, all, List.map_map]
  have back : ∀ x ∈ List.zip (List.range bs.length) bs, ((fun c : Nat × Byte => (c.1 % 8, c.2)) ∘ fun x => (8 * w + x.1, x.2)) x = x :=
    fun x hx => Prod.ext (idx x hx).2 rfl
  rw [List.map_congr_left back, List.map_id'']
  exact fun _ => rfl

theorem mergeBytes_snoc (w : Word) (c : Nat × Byte) : ∀ cs : List (Nat × Byte),
    mergeBytes w (cs ++ [c]) = mergeBytes (mergeBytes w cs) [c]
  | [] => rfl
  | (_, _) :: cs => mergeBytes_snoc _ c cs

theorem leNat_snoc (b : Nat) : ∀ bs : List Nat, leNat (bs ++ [b]) = leNat bs + b % 256 * 256 ^ bs.length
  | [] => by simp [leNat]
  | x :: xs => by
    rw [List.cons_append, leNat, leNat_snoc b xs, leNat, List.length_cons, Nat.pow_succ]
    ring

/-- The bytes below a byte that is put stay, and the byte follows them. -/
theorem mergeBytes_low (w : Word) (b : Byte) {i : Nat} (h : i < 8) :
    (mergeBytes w [(i, b)]).toNat % 256 ^ (i + 1) = w.toNat % 256 ^ i + b.toNat * 256 ^ i := by
  have hb := b.isLt
  have hd : 256 ^ (i + 1) ∣ 2 ^ 64 := by
    rw [show (256 : Nat) = 2 ^ 8 from rfl, ← Nat.pow_mul]
    exact Nat.pow_dvd_pow 2 (by omega)
  have hr : w.toNat % 256 ^ i < 256 ^ i := Nat.mod_lt _ (by positivity)
  have lt : w.toNat % 256 ^ i + b.toNat * 256 ^ i < 256 ^ (i + 1) := by
    have := Nat.mul_le_mul_right (256 ^ i) (Nat.succ_le_of_lt hb)
    rw [Nat.succ_mul] at this
    omega
  simp only [mergeBytes, BitVec.toNat_ofNat, Nat.mod_mod_of_dvd _ hd]
  rw [show 2 ^ (8 * i) = 256 ^ i by rw [Nat.pow_mul],
    show 2 ^ (8 * i + 8) = 256 ^ (i + 1) by rw [show 8 * i + 8 = 8 * (i + 1) by omega, Nat.pow_mul],
    Nat.add_mul_mod_self_right, Nat.mod_eq_of_lt lt]

/-- Bytes put from the first on make their number below the rest. -/
theorem mergeBytes_mod (w : Word) (bs : List Byte) (h : bs.length ≤ 8) :
    (mergeBytes w (List.zip (List.range bs.length) bs)).toNat % 256 ^ bs.length = leNat (bs.map BitVec.toNat) := by
  induction bs using List.reverseRecOn with
  | nil => simp [leNat, Nat.mod_one]
  | append_singleton bs b ih =>
    have hl : bs.length < 8 := by simpa using h
    rw [List.length_append, List.length_singleton, List.range_succ, List.zip_append (by simp), List.zip_cons_cons, List.zip_nil_right,
      mergeBytes_snoc, mergeBytes_low _ b hl, ih (by omega), List.map_append, List.map_singleton, leNat_snoc, List.length_map,
      Nat.mod_eq_of_lt b.isLt]

/-- Eight bytes replace a word whole. -/
theorem mergeBytes_eight (w : Word) (bs : List Byte) (h : bs.length = 8) :
    mergeBytes w (List.zip (List.range bs.length) bs) = BitVec.ofNat 64 (leNat (bs.map BitVec.toNat)) := by
  apply BitVec.eq_of_toNat_eq
  rw [BitVec.toNat_ofNat, ← mergeBytes_mod w bs (by omega), h, show (256 : Nat) ^ 8 = 2 ^ 64 from rfl, Nat.mod_mod]
  exact (Nat.mod_eq_of_lt (mergeBytes w _).isLt).symm

/-- A byte of a write, with its place. -/
theorem mem_zip_range {bs : List Byte} {i : Nat} {b : Byte} (h : bs[i]? = some b) : (i, b) ∈ List.zip (List.range bs.length) bs := by
  obtain ⟨hi, rfl⟩ := List.getElem?_eq_some_iff.mp h
  exact List.mem_iff_getElem.mpr ⟨i, by simpa using hi, by simp⟩

end Sys2Proof.Machine
end

section
/-! SUPPORT. The readback window (R34 to R38): its start by a write of GO, and what a read of a space answers. -/

namespace Sys2Proof.Machine

variable {s : State}

/-! ### The start of a read -/

/-- A write of one whole register of the readback window. -/
theorem execMgmtRegisterWrite_readback {w : Nat} (hw : s.inp.win = .readback) (hn : s.inp.n = 8 * w) (h8 : s.inp.data.length = 8) :
    execMgmtRegisterWrite s = .next (s.rbWrite w (List.zip (List.range s.inp.data.length) s.inp.data)) := by
  have hne : s.inp.data ≠ [] := fun e => by simp [e] at h8
  rw [execMgmtRegisterWrite, hn, splitWords_word w _ hne (by omega), hw]
  rfl

/-- Without the standby rail the window does not answer. -/
theorem rbWrite_dark (w : Nat) (bs : List (Nat × Byte)) (h : s.standbyRail = false) : s.rbWrite w bs = s := by
  simp [State.rbWrite, h]

/-- The registers of the window as a write of RBCTL leaves them. -/
def State.rbSet (s : State) (v : Word) : State :=
  { s with rbSpace := BitVec.ofNat 4 v.toNat, rbFreeze := v.getLsbD 4, rbCount := BitVec.ofNat 7 (v.toNat / 32) }

/-- A write of GO starts a read of what it names, and is ignored whole while one is under way. -/
theorem rbWrite_go (bs : List (Nat × Byte)) (h : s.standbyRail = true) {b : Byte} (hb : (7, b) ∈ bs) (h7 : b.getLsbD 7 = true) :
    s.rbWrite 0 bs = if s.rbGo = true then s else (s.rbSet (mergeBytes (BitVec.ofNat 64 s.rbCtl) bs)).startRb := by
  have go : (bs.any fun b => decide (b.1 = 7) && b.2.getLsbD 7) = true := List.any_eq_true.mpr ⟨_, hb, by simp [h7]⟩
  rw [State.rbWrite, if_neg (by simp [h]), if_pos rfl]
  dsimp only
  rw [go]
  rfl

/-! ### What a read answers -/

/-- The spaces that a read without a session does not see (R34). -/
def closedSpaces : List Instr := [.readbackHartState, .readbackEngineQueue, .readbackSaveArea, .readbackErrorLog, .readbackMemory]

theorem exec_closedSpaces {i : Instr} (h : i ∈ closedSpaces) : ∃ region word, exec i s = s.readback false region word := by
  simp only [closedSpaces, List.mem_cons, List.not_mem_nil, or_false] at h
  rcases h with rfl | rfl | rfl | rfl | rfl
  · exact ⟨_, _, show execReadbackHartState s = _ from rfl⟩
  · exact ⟨_, _, show execReadbackEngineQueue s = _ from rfl⟩
  · exact ⟨_, _, show execReadbackSaveArea s = _ from rfl⟩
  · exact ⟨_, _, show execReadbackErrorLog s = _ from rfl⟩
  · exact ⟨_, _, show execReadbackMemory s = _ from rfl⟩

/-- The spaces that are read without a session too. -/
def openSpaces : List Instr := [.readbackLinkStatus, .readbackAlwaysOnLog]

theorem exec_openSpaces {i : Instr} (h : i ∈ openSpaces) : ∃ region word, exec i s = s.readback true region word := by
  simp only [openSpaces, List.mem_cons, List.not_mem_nil, or_false] at h
  rcases h with rfl | rfl
  · exact ⟨_, _, show execReadbackLinkStatus s = _ from rfl⟩
  · exact ⟨_, _, show execReadbackAlwaysOnLog s = _ from rfl⟩

/-- Without a session a closed space answers DENIED. -/
theorem readback_denied (region : Nat → Option (Nat × Nat)) (word : Nat → RbWord) (hg : s.rbGo = true) (he : s.rbEnd = none)
    (hs : s.spdmSession = false) : s.readback false region word = .next (s.rbFail 5) := by
  simp [State.readback, hg, he, hs]

/-- An address that is no multiple of 8 is refused. -/
theorem readback_misaligned {o : Bool} (region : Nat → Option (Nat × Nat)) (word : Nat → RbWord) (hg : s.rbGo = true)
    (he : s.rbEnd = none) (ho : o = true ∨ s.spdmSession = true) (ha : s.rbReq.addr.toNat % 8 ≠ 0) :
    s.readback o region word = .next (s.rbFail 4) := by
  rcases ho with ho | ho <;> simp [State.readback, hg, he, ho, ha]

/-- A read within a region gives its words. -/
theorem readback_within {o : Bool} {region : Nat → Option (Nat × Nat)} (word : Nat → RbWord) {lo hi : Nat} (hg : s.rbGo = true)
    (he : s.rbEnd = none) (ho : o = true ∨ s.spdmSession = true) (ha : s.rbReq.addr.toNat % 8 = 0)
    (hr : region s.rbReq.addr.toNat = some (lo, hi)) (hlo : lo ≤ s.rbReq.addr.toNat)
    (hhi : s.rbReq.addr.toNat + 8 * (s.rbReq.count.toNat + 1) ≤ hi) : s.readback o region word =
      .next (s.rbGive ((List.range s.rbWords).map fun i => word (s.rbReq.addr.toNat + 8 * i))) := by
  have hb : ¬ (s.rbReq.addr.toNat < lo ∨ hi < s.rbReq.addr.toNat + 8 * s.rbWords) := by
    unfold State.rbWords
    omega
  have hs : (!o && !s.spdmSession) = false := by rcases ho with ho | ho <;> simp [ho]
  simp only [State.readback, hg, he, hs, ha, hr, hb]
  rfl

theorem zip_range_map {α : Type} (f : Nat → α) (n : Nat) :
    List.zip (List.range ((List.range n).map f).length) ((List.range n).map f) = (List.range n).map fun i => (i, f i) := by
  rw [List.length_map, List.length_range]
  exact List.ext_getElem (by simp) fun i h1 h2 => by simp

/-- Words put from place 0 on. -/
theorem mget_foldl_words (f : Nat → RbWord) (m : List (Nat × Word)) : ∀ n j, j < n →
    mget 0 (((List.range n).map fun i => (i, f i)).foldl (fun (m : List (Nat × Word)) (x : Nat × RbWord) =>
      mset 0 m x.1 (BitVec.ofNat 64 x.2.1)) m) j = BitVec.ofNat 64 (f j).1
  | n + 1, j, h => by
    rw [List.range_succ, List.map_append, List.map_singleton, List.foldl_append, List.foldl_cons, List.foldl_nil, mget_mset]
    split
    · next e => rw [e]
    · exact mget_foldl_words f m n j (by omega)

/-- Without a code the read is DONE. -/
theorem rbResult_done {f : Nat → RbWord} {n : Nat} (h : ∀ j < n, (f j).2 = 0) : rbResult ((List.range n).map f) = (2, 0) := by
  have e : ((List.range n).map fun i => (i, f i)).find? (fun x => decide (x.2.2 ≠ 0)) = none := by
    rw [List.find?_eq_none]
    intro x hx
    obtain ⟨i, hi, rfl⟩ := List.mem_map.mp hx
    simp [h i (List.mem_range.mp hi)]
  rw [rbResult, zip_range_map, e]

/-- The first code of the words ends the read, with its place. -/
theorem rbResult_first {f : Nat → RbWord} {n j : Nat} (hj : j < n) (h : (f j).2 ≠ 0) (before : ∀ i < j, (f i).2 = 0) :
    rbResult ((List.range n).map f) = ((f j).2, j) := by
  have e : ((List.range n).map fun i => (i, f i)).find? (fun x => decide (x.2.2 ≠ 0)) = some (j, f j) := by
    rw [List.find?_map, Option.map_eq_some_iff]
    refine ⟨j, List.find?_range_eq_some.mpr ⟨by simpa using h, List.mem_range.mpr hj, fun i hi => ?_⟩, rfl⟩
    simpa using before i hi
  rw [rbResult, zip_range_map, e]

/-- What stands after a read: its words, and DONE or the first code met, with READBACK_COMPLETE to come. -/
theorem rbGive_words (f : Nat → RbWord) (n : Nat) :
    let u := s.rbGive ((List.range n).map f)
    (∀ j < n, mget 0 u.rbData j = BitVec.ofNat 64 (f j).1) ∧ (.readbackComplete, {}) ∈ u.jobs ∧
      u = { s with rbData := u.rbData, rbEnd := u.rbEnd, jobs := u.jobs } ∧
      ((∀ j < n, (f j).2 = 0) → u.rbEnd = some (2, 0)) ∧
      ∀ j < n, (f j).2 ≠ 0 → (∀ i < j, (f i).2 = 0) → u.rbEnd = some ((f j).2, j) := by
  refine ⟨fun j hj => ?_, mem_later_jobs _ _ _, ?_, fun h => ?_, fun j hj h before => ?_⟩
  · rw [State.rbGive, State.later_rbData, zip_range_map]
    exact mget_foldl_words f s.rbData n j hj
  · rw [State.rbGive, State.later_rbData, State.later_rbEnd]
    exact later_frame _ _ _
  · rw [State.rbGive, State.later_rbEnd, rbResult_done h]
  · rw [State.rbGive, State.later_rbEnd, rbResult_first hj h before]

/-- An outcome is a read that gives, word for word, what `word` says, with DONE or the first code met (R38). -/
def State.Reads (s : State) (r : Outcome State Fault Refusal) (word : Nat → RbWord) : Prop :=
  let a := s.rbReq.addr.toNat
  let n := s.rbReq.count.toNat + 1
  ∃ u, r = .next u ∧ (∀ j < n, mget 0 u.rbData j = BitVec.ofNat 64 (word (a + 8 * j)).1) ∧
    (.readbackComplete, {}) ∈ u.jobs ∧ u = { s with rbData := u.rbData, rbEnd := u.rbEnd, jobs := u.jobs } ∧
    ((∀ j < n, (word (a + 8 * j)).2 = 0) → u.rbEnd = some (2, 0)) ∧
    ∀ j < n, (word (a + 8 * j)).2 ≠ 0 → (∀ i < j, (word (a + 8 * i)).2 = 0) → u.rbEnd = some ((word (a + 8 * j)).2, j)

/-- A read within a region gives the words of the space. -/
theorem readback_reads {o : Bool} {region : Nat → Option (Nat × Nat)} {m : Nat → RbWord} (word : Nat → RbWord) {lo hi : Nat}
    (hg : s.rbGo = true) (he : s.rbEnd = none) (ho : o = true ∨ s.spdmSession = true) (ha : s.rbReq.addr.toNat % 8 = 0)
    (hr : region s.rbReq.addr.toNat = some (lo, hi)) (hlo : lo ≤ s.rbReq.addr.toNat)
    (hhi : s.rbReq.addr.toNat + 8 * (s.rbReq.count.toNat + 1) ≤ hi)
    (same : ∀ j < s.rbReq.count.toNat + 1, m (s.rbReq.addr.toNat + 8 * j) = word (s.rbReq.addr.toNat + 8 * j)) :
    s.Reads (s.readback o region m) word := by
  have e : ((List.range s.rbWords).map fun i => m (s.rbReq.addr.toNat + 8 * i)) =
      (List.range (s.rbReq.count.toNat + 1)).map fun i => word (s.rbReq.addr.toNat + 8 * i) :=
    List.map_congr_left fun i hi => same i (List.mem_range.mp hi)
  exact ⟨_, (readback_within m hg he ho ha hr hlo hhi).trans (congrArg _ (congrArg _ e)),
    rbGive_words (fun i => word (s.rbReq.addr.toNat + 8 * i)) _⟩

/-! ### Regions and words of the spaces (R36) -/

/-- A region that holds an address begins at or below it. -/
theorem physRegion_le {a lo hi : Nat} (h : physRegion a = some (lo, hi)) : lo ≤ a := by
  have := List.find?_some h
  simp only [Bool.and_eq_true, decide_eq_true_eq] at this
  exact this.1

theorem areaRegion_le {a lo hi : Nat} (h : s.areaRegion a = some (lo, hi)) : lo ≤ a := by
  obtain ⟨l, x, r, -, hx, -⟩ := List.findSome?_eq_some_iff.mp h
  dsimp only at hx
  split at hx
  · next c =>
    have hm := Nat.div_mul_le_self (a - x.2) areaPitch
    have e := congrArg Prod.fst (Option.some.inj hx)
    dsimp only at e
    split at e <;> omega
  · cases hx

/-- A read that stays within a part of 2^21 bytes keeps every field of its address above it. -/
theorem add_div_of_part {a d k : Nat} (hk : 21 ≤ k) (h : a % 2 ^ 21 + d < 2 ^ 21) : (a + d) / 2 ^ k = a / 2 ^ k := by
  have e : (a + d) / 2 ^ 21 = a / 2 ^ 21 := by omega
  obtain ⟨m, rfl⟩ := Nat.exists_eq_add_of_le hk
  rw [Nat.pow_add, ← Nat.div_div_eq_div_mul, ← Nat.div_div_eq_div_mul, e]

section

variable (hg : s.rbGo = true) (he : s.rbEnd = none)

include hg he

theorem alwaysOnLog_reads (ha : s.rbReq.addr.toNat % 8 = 0) (h : s.rbReq.addr.toNat + 8 * (s.rbReq.count.toNat + 1) ≤ 2048 * 32) :
    s.Reads (execReadbackAlwaysOnLog s) fun p => (ringWord s.alwaysLog 2048 p, 0) :=
  readback_reads _ hg he (.inl rfl) ha rfl (Nat.zero_le _) h fun _ _ => rfl

/-- The words of the ports. -/
theorem linkStatus_ports_reads (ha : s.rbReq.addr.toNat % 8 = 0)
    (h : s.rbReq.addr.toNat % 2 ^ 50 + 8 * (s.rbReq.count.toNat + 1) ≤ 0x80) :
    s.Reads (execReadbackLinkStatus s) fun p => (s.portWord (p / 2 ^ 50 * 16 + p % 2 ^ 50 / 8), 0) := by
  refine readback_reads _ hg he (.inl rfl) ha (if_pos (by omega)) (Nat.sub_le _ _) (by omega) fun j hj => ?_
  dsimp only
  rw [if_pos (by omega)]

/-- The die word. -/
theorem linkStatus_die_reads (h : s.rbReq.addr.toNat % 2 ^ 50 = 0x100) (hn : s.rbReq.count.toNat + 1 = 1) :
    s.Reads (execReadbackLinkStatus s) fun _ => (s.dieWord, 0) := by
  refine readback_reads _ hg he (.inl rfl) (by omega) ((if_neg (by omega)).trans (if_pos h)) (by omega) (by omega) fun j hj => ?_
  obtain rfl : j = 0 := by omega
  dsimp only
  rw [Nat.mul_zero, Nat.add_zero, if_neg (by omega), if_pos h]

variable (hs : s.spdmSession = true) (ha : s.rbReq.addr.toNat % 8 = 0)

include hs ha

theorem memory_reads {lo hi : Nat} (hr : physRegion s.rbReq.addr.toNat = some (lo, hi))
    (h : s.rbReq.addr.toNat + 8 * (s.rbReq.count.toNat + 1) ≤ hi) : s.Reads (execReadbackMemory s) s.memWord :=
  readback_reads _ hg he (.inr hs) ha hr (physRegion_le hr) h fun _ _ => rfl

theorem saveArea_reads {lo hi : Nat} (hr : s.areaRegion s.rbReq.addr.toNat = some (lo, hi))
    (h : s.rbReq.addr.toNat + 8 * (s.rbReq.count.toNat + 1) ≤ hi) : s.Reads (execReadbackSaveArea s) fun p =>
      ((s.memWord p).1, if (s.memWord p).2 = 0 ∧ s.spilling p = true then 8 else (s.memWord p).2) := by
  refine readback_reads _ hg he (.inr hs) ha hr (areaRegion_le hr) h fun j hj => ?_
  dsimp only
  split <;> rfl

theorem errorLog_reads (h : s.rbReq.addr.toNat % 2 ^ 50 + 8 * (s.rbReq.count.toNat + 1) ≤ 4096 * 32) :
    s.Reads (execReadbackErrorLog s) fun p => (ringWord (mget [] s.dieLogs (p / 2 ^ 50 % 4)) 4096 (p % 2 ^ 50), 0) :=
  readback_reads _ hg he (.inr hs) ha rfl (Nat.div_mul_le_self _ _) (by omega) fun _ _ => rfl

/-- The words of the lease rows of a polder. -/
theorem engineQueue_reads (h : s.rbReq.addr.toNat % 2 ^ 46 + 8 * (s.rbReq.count.toNat + 1) ≤ 0x40)
    (hp : s.rbReq.addr.toNat / 2 ^ 46 % 16 < poldersOf (s.rbReq.addr.toNat / 2 ^ 50 % 4)) :
    s.Reads (execReadbackEngineQueue s) fun p =>
      (s.leaseWord (8 * (firstPolder (p / 2 ^ 50 % 4) + p / 2 ^ 46 % 16) + p % 2 ^ 46 / 8), 0) := by
  refine readback_reads _ hg he (.inr hs) ha ((if_neg fun c => absurd hp (Nat.not_lt.mpr c.1)).trans (if_pos (by omega)))
    (Nat.sub_le _ _) (by omega) fun j hj => ?_
  dsimp only
  rw [if_pos (by omega)]
  rfl

/-- The words of the image of the hart that a bank holds. -/
theorem hartState_reads {b : Hart}
    (hb : s.bankHart (s.rbReq.addr.toNat / 2 ^ 44 % 256) (s.rbReq.addr.toNat / 2 ^ 42 % 4) (s.rbReq.addr.toNat / 2 ^ 41 % 2) = some b)
    (h0 : s.rbReq.addr.toNat / 2 ^ 21 % 2 ^ 20 = 0)
    (hc : s.rbReq.addr.toNat / 2 ^ 42 % 4 < (s.lease (s.rbReq.addr.toNat / 2 ^ 44 % 256)).cut)
    (h : s.rbReq.addr.toNat % 2 ^ 21 + 8 * (s.rbReq.count.toNat + 1) ≤ 0x12B900) :
    s.Reads (execReadbackHartState s) fun p => (s.imageWord b true (p % 2 ^ 21 / 8), 0) := by
  refine readback_reads _ hg he (.inr hs) ha (if_neg fun c => c.elim (fun c => c h0) (Nat.not_le.mpr hc))
    (Nat.div_mul_le_self _ _) (by unfold saveBytes; omega) fun j hj => ?_
  have top : ∀ k, 21 ≤ k → (s.rbReq.addr.toNat + 8 * j) / 2 ^ k = s.rbReq.addr.toNat / 2 ^ k := fun k hk =>
    add_div_of_part hk (by omega)
  have bank : s.bankHart (bitsAt (s.rbReq.addr.toNat + 8 * j) 44 8) (bitsAt (s.rbReq.addr.toNat + 8 * j) 42 2)
      (bitsAt (s.rbReq.addr.toNat + 8 * j) 41 1) = some b := by
    rw [bitsAt, bitsAt, bitsAt, top 44 (by omega), top 42 (by omega), top 41 (by omega)]
    exact hb
  simp only [bank]

end

/-! ### What a write of GO leaves -/

/-- The number of eight bytes fits a word. -/
theorem leNat_lt_word {bs : List Byte} (h : bs.length = 8) : leNat (bs.map BitVec.toNat) < 2 ^ 64 := by
  rw [← mergeBytes_mod 0 bs (by omega), h]
  exact Nat.mod_lt _ (by norm_num)

/-- A read that starts is BUSY, of what the registers name. -/
theorem startRb_starts {n : Nat} (hn : n < 2 ^ 64) :
    let u := (s.rbSet (BitVec.ofNat 64 n)).startRb
    u.rbGo = true ∧ u.rbCode = 1 ∧ u.rbEnd = none ∧ u.rbReq = ⟨BitVec.ofNat 4 n, n.testBit 4, BitVec.ofNat 7 (n / 32), s.rbAddr⟩ ∧
      (rbEvent (n % 16), {}) ∈ u.jobs ∧ u.rbData = s.rbData := by
  have hv : (BitVec.ofNat 64 n).toNat = n := by rw [BitVec.toNat_ofNat, Nat.mod_eq_of_lt hn]
  have h4 : (BitVec.ofNat 64 n).getLsbD 4 = n.testBit 4 := by rw [BitVec.getLsbD_ofNat]; rfl
  have hs : (BitVec.ofNat 4 n).toNat = n % 16 := BitVec.toNat_ofNat _ _
  refine ⟨?_, ?_, ?_, ?_, ?_, ?_⟩ <;> rw [State.startRb]
  · exact State.later_rbGo _ _ _
  · exact State.later_rbCode _ _ _
  · exact State.later_rbEnd _ _ _
  · rw [State.later_rbReq, State.rbSet, hv, h4]
  · rw [State.rbSet, hv, hs]
    exact mem_later_jobs _ _ _
  · exact State.later_rbData _ _ _

end Sys2Proof.Machine
end

section
/-! The settled obligation. -/

namespace Sys2Proof.Machine

/-- Settles O53: a read within its region gives its words (`readback_reads`); what starts it is a write of GO (`rbWrite_go`). -/
theorem readback : Obligations.Readback := by
  unfold Obligations.Readback
  refine ⟨fun s b hw hn h8 hb h7 => ⟨fun h => ?ignored, fun hr hg => ?started⟩, fun s hg he => ?reads, fun s e he hg => ?complete⟩
  case ignored =>
    refine (execMgmtRegisterWrite_readback (w := 0) hw hn h8).trans (congrArg _ ?_)
    cases hr : s.standbyRail with
    | false => exact rbWrite_dark _ _ hr
    | true =>
      have hg : s.rbGo = true := h.resolve_left (by simp [hr])
      exact (rbWrite_go _ hr (mem_zip_range hb) h7).trans (if_pos hg)
  case started =>
    intro v
    have word := congrArg (fun v => (s.rbSet v).startRb) (mergeBytes_eight (BitVec.ofNat 64 s.rbCtl) _ h8)
    exact ⟨_, (execMgmtRegisterWrite_readback (w := 0) hw hn h8).trans (congrArg _
      (((rbWrite_go _ hr (mem_zip_range hb) h7).trans (if_neg (by simp [hg]))).trans word)), startRb_starts (leNat_lt_word h8)⟩
  case complete => simp only [exec, execReadbackComplete, he, hg, if_true]
  case reads =>
    intro a n fails closed opens reads
    refine ⟨fun hs i hi => ?_, fun ha => ⟨fun i hi => ?_, fun hs i hi => ?_⟩, ?_, alwaysOnLog_reads hg he,
      linkStatus_ports_reads hg he, linkStatus_die_reads hg he, fun hs ha => ⟨fun _ _ => memory_reads hg he hs ha,
      fun _ _ => saveArea_reads hg he hs ha, errorLog_reads hg he hs ha, engineQueue_reads hg he hs ha,
      fun _ hb h0 hc => hartState_reads hg he hs ha hb h0 hc⟩⟩
    · obtain ⟨_, _, e⟩ := exec_closedSpaces (s := s) hi
      exact e.trans (readback_denied _ _ hg he hs)
    · obtain ⟨_, _, e⟩ := exec_openSpaces (s := s) hi
      exact e.trans (readback_misaligned _ _ hg he (.inl rfl) ha)
    · obtain ⟨_, _, e⟩ := exec_closedSpaces (s := s) hi
      exact e.trans (readback_misaligned _ _ hg he (.inr hs) ha)
    · exact congrArg _ (if_pos (by simp [hg, he]))

end Sys2Proof.Machine
end

section
/-! SUPPORT. What the end of an application (R49, R54, R74) leaves of it: its state and its exit status, which nothing that ends
crews and places others touches, and no mapping. -/

namespace Sys2Proof.Machine

variable (s : State)

/-- A fold of operations that leave the applications alone leaves them alone. -/
theorem foldl_apps {α : Type} (f : State → α → State) (hf : ∀ (s : State) (x : α), (f s x).apps = s.apps) :
    ∀ (xs : List α) (s : State), (xs.foldl f s).apps = s.apps
  | [], _ => rfl
  | x :: xs, s => (foldl_apps f hf xs (f s x)).trans (hf s x)

/-! ### What leaves the applications alone -/

@[simp] theorem State.release_apps (r) : (s.release r).apps = s.apps := by
  unfold State.release; split <;> rfl

@[simp] theorem State.releaseMaps_apps (tenant ms) : (s.releaseMaps tenant ms).apps = s.apps :=
  foldl_apps _ (fun t _ => t.release_apps _) _ s

@[simp] theorem State.releaseApp_apps (a) : (s.releaseApp a).apps = s.apps :=
  (foldl_apps _ (fun t _ => t.release_apps _) _ _).trans (s.releaseMaps_apps _ _)

@[simp] theorem State.reap_apps : s.reap.apps = s.apps :=
  foldl_apps _ (fun t r => by unfold State.reapOne; split <;> rfl) _ s

@[simp] theorem State.fillRow_apps (c app l) : (s.fillRow c app l).apps = s.apps := by simp [State.fillRow]

@[simp] theorem State.giveRow_apps (c) : (s.giveRow c).apps = s.apps := by
  unfold State.giveRow; split <;> simp

@[simp] theorem State.refreshRow_apps (c) : (s.refreshRow c).apps = s.apps := by
  unfold State.refreshRow; dsimp only; (repeat' split) <;> simp

@[simp] theorem State.refreshRows_apps : s.refreshRows.apps = s.apps := foldl_apps _ State.refreshRow_apps _ s

@[simp] theorem State.kick_apps : s.kick.apps = s.apps := by simp [State.kick, State.dropReserve]

@[simp] theorem State.addHart_apps (h) : (s.addHart h).apps = s.apps := by
  unfold State.addHart; split <;> rfl

@[simp] theorem State.holdRow_apps (app lid sl) : (s.holdRow app lid sl).apps = s.apps := by
  unfold State.holdRow; split <;> rfl

@[simp] theorem State.resumeRow_apps (h sl) : (s.resumeRow h sl).apps = s.apps := by
  unfold State.resumeRow; split <;> rfl

@[simp] theorem State.removeHarts_apps (cid) : (s.removeHarts cid).apps = s.apps := by
  unfold State.removeHarts; dsimp only; split
  · rfl
  · split <;> rfl

@[simp] theorem State.peerKill_apps (app) : (s.peerKill app).apps = s.apps := by
  unfold State.peerKill
  refine foldl_apps _ (fun t c => ?_) _ s
  split
  · refine foldl_apps _ (fun u p => ?_) _ t
    split <;> simp
  · rfl

@[simp] theorem State.raiseMsix_apps (v) : (s.raiseMsix v).apps = s.apps := rfl

@[simp] theorem State.dropCalls_apps (k) : (s.dropCalls k).apps = s.apps := rfl

@[simp] theorem State.discardH2d_apps (n) : (s.discardH2d n).apps = s.apps :=
  foldl_apps _ (fun t m => by split <;> rfl) _ s

/-! ### The state and the exit status of every application -/

/-- The state and the exit status of each application. -/
def appEnds (apps : List (Nat × App)) (k : Nat) : AppState × BitVec 32 := ((mget {} apps k).state, (mget {} apps k).exit)

theorem setApp_appEnds {k : Nat} {a : App} (hs : a.state = (s.app k).state) (he : a.exit = (s.app k).exit) :
    appEnds (s.setApp k a).apps = appEnds s.apps := by
  funext j
  rw [appEnds, State.setApp, mget_mset]
  split
  · next e => rw [hs, he, e]; rfl
  · rfl

/-- A fold of operations that keep every application's end keeps it. -/
theorem foldl_appEnds {α : Type} (f : State → α → State) (hf : ∀ (s : State) (x : α), appEnds (f s x).apps = appEnds s.apps) :
    ∀ (xs : List α) (s : State), appEnds (xs.foldl f s).apps = appEnds s.apps
  | [], _ => rfl
  | x :: xs, s => (foldl_appEnds f hf xs (f s x)).trans (hf s x)

@[simp] theorem State.logApp_appEnds (app msg) : appEnds (s.logApp app msg).apps = appEnds s.apps := setApp_appEnds s rfl rfl

@[simp] theorem State.updLaunch_appEnds (app lid f) : appEnds (s.updLaunch app lid f).apps = appEnds s.apps :=
  setApp_appEnds s rfl rfl

@[simp] theorem State.dropBlock_appEnds (h) : appEnds (s.dropBlock h).apps = appEnds s.apps := by
  simp only [State.dropBlock, State.releaseMaps_apps]
  exact setApp_appEnds s rfl rfl

@[simp] theorem State.endLaunch_appEnds (app lid) : appEnds (s.endLaunch app lid).apps = appEnds s.apps := by
  unfold State.endLaunch
  dsimp only
  (repeat' split) <;> simp [State.writeFor]

@[simp] theorem State.postRec_appEnds (w hart q k r) : appEnds (s.postRec w hart q k r).apps = appEnds s.apps := by
  unfold State.postRec
  dsimp only
  (repeat' split) <;> simp [State.updHart, State.writeFor]

@[simp] theorem State.abortTransfers_appEnds (hart) : appEnds (s.abortTransfers hart).apps = appEnds s.apps := by
  refine foldl_appEnds _ (fun t x => ?_) _ s
  unfold State.postXfer
  split <;> simp

@[simp] theorem State.dropHart_appEnds (h) : appEnds (s.dropHart h).apps = appEnds s.apps := s.abortTransfers_appEnds h.id

/-! ### The crews placed and resumed on what an end frees -/

@[simp] theorem State.preload_appEnds (app core l) : appEnds (s.preload app core l).2.apps = appEnds s.apps := by
  unfold State.preload; split
  · rfl
  · dsimp only; split
    · rfl
    · dsimp only; split <;> simp

@[simp] theorem State.firstPlane_appEnds (app core l) : appEnds (s.firstPlane app core l).2.apps = appEnds s.apps := by
  unfold State.firstPlane; split <;> simp

@[simp] theorem State.reloadPlanes_appEnds (id) : appEnds (s.reloadPlanes id).apps = appEnds s.apps := by
  unfold State.reloadPlanes
  dsimp only
  (repeat' split) <;> simp [State.updHart]

@[simp] theorem State.resumeHarts_appEnds (cid) : ∀ (hs sls) (s : State), appEnds (s.resumeHarts cid hs sls).apps = appEnds s.apps
  | [], _, _ => by simp [State.resumeHarts]
  | _ :: _, [], _ => rfl
  | h :: hs, sl :: sls, s => by
    rw [State.resumeHarts, State.resumeHarts_appEnds cid hs sls]
    split <;> simp [State.updHart]

@[simp] theorem State.resumeCrew_appEnds (cid slots) : appEnds (s.resumeCrew cid slots).apps = appEnds s.apps := by
  simp [State.resumeCrew]

variable {s} in
theorem takeFrames_apps {t : State} {lo len size align pa : Nat} (e : s.takeFrames lo len size align = some (pa, t)) :
    t.apps = s.apps := by
  unfold State.takeFrames at e
  dsimp only at e
  split at e <;> cases e
  exact s.reap_apps

variable {s} in
theorem giveBlock_appEnds {t : State} {app k va n : Nat} (e : s.giveBlock app k = some (va, n, t)) :
    appEnds t.apps = appEnds s.apps := by
  unfold State.giveBlock at e
  dsimp only at e
  split at e
  · cases e
  · next pa s1 hs =>
    split at e <;> cases e
    rw [setApp_appEnds s1 (by rfl) (by rfl), takeFrames_apps hs]

theorem startHarts_appEnds {t : State} {app l cid unit} : ∀ {rank : Nat} (slots) {s : State},
    s.startHarts app l cid unit rank slots = some t → appEnds t.apps = appEnds s.apps
  | _, [], _, e => by cases e; rfl
  | _, sl :: sls, s, e => by
    unfold State.startHarts at e
    split at e
    · cases e
    · next va pages s1 hs => simpa [giveBlock_appEnds hs] using startHarts_appEnds sls e

@[simp] theorem State.placeCrew_appEnds (app lid slots) : appEnds (s.placeCrew app lid slots).apps = appEnds s.apps := by
  unfold State.placeCrew
  split
  · rfl
  · dsimp only
    split
    · rfl
    · next s1 hs => simpa [State.takeKept] using startHarts_appEnds slots hs

@[simp] theorem State.leaveRows_appEnds (app lid cores) : appEnds (s.leaveRows app lid cores).apps = appEnds s.apps := by
  have hk (xs : List Nat) : (xs.foldl (fun u c => u.setLease c { u.lease c with st := .free, lid := 0, app := 0 }) s).apps = s.apps :=
    foldl_apps _ (fun _ _ => State.setLease_apps _ _ _) xs s
  unfold State.leaveRows
  dsimp only
  split
  · rw [hk]
  split
  · simp [hk]
  split
  · simp [hk]
  split
  · rw [hk]
  · rw [foldl_apps _ State.giveRow_apps, hk]

/-! ### The ends of crews and applications -/

@[simp] theorem State.endCrew_appEnds (cid failed) : appEnds (s.endCrew cid failed).apps = appEnds s.apps := by
  unfold State.endCrew
  split
  · rfl
  · simp [foldl_appEnds _ State.dropBlock_appEnds]

@[simp] theorem State.killCrew_appEnds (cid) : appEnds (s.killCrew cid).apps = appEnds s.apps := by
  unfold State.killCrew
  split
  · rfl
  · simp [foldl_appEnds _ State.dropHart_appEnds]

/-- An application that ends is EXITED with its status and has no mapping. -/
theorem endApp_app (k : Nat) (status : BitVec 32) : ((s.endApp k status).app k).state = .exited ∧
    ((s.endApp k status).app k).exit = status ∧ ((s.endApp k status).app k).maps = [] := by
  unfold State.endApp
  extract_lets a s1 s2 s3 b s4
  have ends : appEnds s3.apps k = (.exited, status) := by
    rw [State.peerKill_apps, foldl_appEnds _ fun t (c : Crew) => t.killCrew_appEnds c.id]
    simp [appEnds, s1, State.setApp]
  have e : (((s4.dropCalls k).discardH2d k).kick.raiseMsix 0).apps = mset {} s3.apps k { b with
      kernels := [], maps := [], kvwin := 0, kv := [], wsWin := 0, wsOff := [], wsSize := [], launches := [], windows := [],
      colls := [], shdb := false, confine := none, breaks := [] } := by
    rw [State.raiseMsix_apps, State.kick_apps, State.discardH2d_apps, State.dropCalls_apps]
    exact State.releaseApp_apps _ b
  rw [State.app, e, mget_mset, if_pos rfl]
  exact ⟨congrArg Prod.fst ends, congrArg Prod.snd ends, rfl⟩

end Sys2Proof.Machine
end

section
/-! SUPPORT. The command block of BAR0 (R42, R43): the start of a command, its end, and what a read returns. -/

namespace Sys2Proof.Machine

variable {s : State}

/-! ### Writes of the command block -/

/-- A write within one register of BAR0. -/
theorem execMgmtRegisterWrite_bar0 {w : Nat} (hw : s.inp.win = .bar0) (ht : s.tripped = false) (hn : s.inp.n = 8 * w)
    (h0 : s.inp.data ≠ []) (h8 : s.inp.data.length ≤ 8) :
    execMgmtRegisterWrite s = .next (s.bar0Write w (List.zip (List.range s.inp.data.length) s.inp.data)) := by
  rw [execMgmtRegisterWrite, hn, splitWords_word w _ h0 h8, hw, List.foldl_cons, List.foldl_nil]
  dsimp only
  rw [ht]
  rfl

/-- A write of the whole command register with GO set. -/
theorem bar0Write_go {c b1 b2 b3 b4 b5 b6 b7 : Byte} (h7 : b7.getLsbD 7 = true) :
    s.bar0Write (0x1000 / 8) [(0, c), (1, b1), (2, b2), (3, b3), (4, b4), (5, b5), (6, b6), (7, b7)] =
      if s.cmdGo = true then s else ({ s with cmdCode := c } : State).startCmd := by
  rw [State.bar0Write, if_pos rfl]
  simp only [List.any_cons, List.any_nil, h7]
  rfl

/-- A write of an argument. -/
theorem bar0Write_arg {i : Nat} (hi : i < 6) (bs : List (Nat × Byte)) : s.bar0Write (0x201 + i) bs =
    { s with cmdArgs := mset 0 s.cmdArgs i (mergeBytes (mget 0 s.cmdArgs i) bs) } := by
  rw [State.bar0Write, if_neg (by omega), if_pos (by omega), show 0x201 + i - 0x1008 / 8 = i by omega]

/-! ### The ends of the commands (R45 to R49) -/

/-- What APPLOAD asks of its arguments (R46, R47). -/
def State.goodLoad (s : State) : Prop := s.cmdArg 2 ≤ 63 ∧ s.cmdArg 5 ≤ 65536 ∧ s.srcOk (s.cmdArg 0) (s.cmdArg 1) = true ∧
  s.srcOk (s.cmdArg 4) (s.cmdArg 5) = true

theorem not_goodLoad_iff : ¬ s.goodLoad ↔ 63 < s.cmdArg 2 ∨ 65536 < s.cmdArg 5 ∨ (!s.srcOk (s.cmdArg 0) (s.cmdArg 1)) = true ∨
    (!s.srcOk (s.cmdArg 4) (s.cmdArg 5)) = true := by
  simp only [State.goodLoad, not_and_or, Nat.not_le, Bool.not_eq_true, Bool.not_eq_true']

/-- What APPLOAD leaves at its application: the entry and the two arguments. -/
theorem startApp_app (s : State) (k entry va len : Nat) : ((s.startApp k entry va len).app k).ctlEntry = entry ∧
    ((s.startApp k entry va len).app k).ctlA0 = num va ∧ ((s.startApp k entry va len).app k).ctlA1 = num len := by
  simp [State.startApp, State.app, State.setApp, mget_mset]

/-! ### What a read of BAR0 returns (R42, R43) -/

/-- Distinct powers of 2 of a sum stand as its bits. -/
theorem testBit_sum_pow (p : Nat → Bool) (n : Nat) : ∀ m,
    (((List.range m).filter p).foldl (fun m n => m + 2 ^ n) 0).testBit n = (decide (n < m) && p n) ∧
      ((List.range m).filter p).foldl (fun m n => m + 2 ^ n) 0 < 2 ^ m
  | 0 => by simp
  | m + 1 => by
    obtain ⟨hb, hl⟩ := testBit_sum_pow p n m
    have hm : (((List.range m).filter p).foldl (fun m n => m + 2 ^ n) 0).testBit m = false := Nat.testBit_lt_two_pow hl
    rw [List.range_succ, List.filter_append, List.foldl_append]
    cases hp : p m with
    | false =>
      rw [List.filter_cons_of_neg (by simp [hp]), List.filter_nil, List.foldl_nil, hb]
      refine ⟨?_, hl.trans (Nat.pow_lt_pow_right (by omega) (Nat.lt_succ_self m))⟩
      rcases Nat.lt_trichotomy n m with h | rfl | h
      · simp [h, Nat.lt_succ_of_lt h]
      · simp [hp]
      · simp [Nat.not_lt.mpr (Nat.le_of_lt h), show ¬ n < m + 1 by omega]
    | true =>
      rw [List.filter_cons_of_pos hp, List.filter_nil, List.foldl_cons, List.foldl_nil, Nat.add_comm]
      have lt : 2 ^ m + ((List.range m).filter p).foldl (fun m n => m + 2 ^ n) 0 < 2 ^ (m + 1) := by
        rw [Nat.pow_succ]
        omega
      refine ⟨?_, lt⟩
      rcases Nat.lt_trichotomy n m with h | rfl | h
      · rw [Nat.testBit_two_pow_add_gt h, hb]
        simp [h, Nat.lt_succ_of_lt h]
      · rw [Nat.testBit_two_pow_add_eq, hm]
        simp [hp]
      · rw [Nat.testBit_lt_two_pow (lt.trans_le (Nat.pow_le_pow_right (by omega) (by omega)))]
        simp [show ¬ n < m + 1 by omega]

/-- The application map has a bit for each application. -/
theorem bar0Read_appMap {n : Nat} (hn : n < 64) : (s.bar0Read 3).getLsbD n = decide ((s.app n).state ≠ .unused) := by
  show (BitVec.ofNat 64 s.appMap).getLsbD n = _
  rw [BitVec.getLsbD_ofNat, State.appMap, (testBit_sum_pow (fun n => decide ((s.app n).state ≠ .unused)) n 64).1]
  simp [hn]

theorem bar0Read_status : (s.bar0Read 0).toNat = s.dstat.code + 16 * s.dcause.toNat := by
  show (BitVec.ofNat 64 (s.dstat.code + s.dcause.toNat * 2 ^ 4)).toNat = _
  have hc : s.dstat.code < 16 := by cases s.dstat <;> decide
  have := s.dcause.isLt
  rw [BitVec.toNat_ofNat]
  omega

theorem bar0Read_go : (s.bar0Read 0x200).getLsbD 63 = s.cmdGo := by
  show (BitVec.ofNat 64 (s.cmdCode.toNat + s.cmdGo.toNat * 2 ^ 63)).getLsbD 63 = _
  rw [BitVec.getLsbD_ofNat, Nat.add_comm, Nat.mul_comm, Nat.testBit_two_pow_mul_add _ (by have := s.cmdCode.isLt; omega)]
  cases s.cmdGo <;> rfl

theorem bar0Read_arg {i : Nat} (hi : i < 6) : s.bar0Read (0x201 + i) = mget 0 s.cmdArgs i := by
  rw [State.bar0Read, if_neg (by omega), if_neg (by omega), if_neg (by omega), if_neg (by omega), if_neg (by omega),
    if_pos (by omega), show 0x201 + i - 0x1008 / 8 = i by omega]

/-- Outside what the table of R42 lists a read gives zero. -/
theorem bar0Read_unlisted {w : Nat} (h4 : 4 ≤ w) (h : w < 0x200 ∨ (0x20A ≤ w ∧ w < 0x200000) ∨ 0x400000 ≤ w) : s.bar0Read w = 0 := by
  have hc : chanPlace w = none := if_pos (by omega)
  rw [State.bar0Read, hc, if_neg (by omega), if_neg (by omega), if_neg (by omega), if_neg (by omega), if_neg (by omega),
    if_neg (by omega), if_neg (by omega), if_neg (by omega), if_neg (by simp)]

end Sys2Proof.Machine
end

section
/-! SUPPORT. The commands (R45 to R49). -/

namespace Sys2Proof.Machine

variable {s : State}

/-- Without GO a command's event does nothing (log 5). -/
theorem exec_of_no_command (h : s.cmdGo = false) {i : Instr}
    (hi : i ∈ [Instr.appload, .appkill, .appstat, .powercap, .tenantset, .cmdReservedCode]) : exec i s = .next s := by
  simp only [List.mem_cons, List.not_mem_nil, or_false] at hi
  rcases hi with rfl | rfl | rfl | rfl | rfl | rfl
  · exact show execAppload s = _ from command_idle _ _ h
  · exact show execAppkill s = _ from command_idle _ _ h
  · exact show execAppstat s = _ from command_idle _ _ h
  · exact show execPowercap s = _ from command_idle _ _ h
  · exact show execTenantset s = _ from command_idle _ _ h
  · exact show execCmdReservedCode s = _ from command_idle _ _ h

/-- APPLOAD with arguments that do not fit. -/
theorem appload_refuses {v : State} (h : ¬ v.reap.goodLoad) : v.appload = v.reap.commandEnds eInval :=
  if_pos (not_goodLoad_iff.mp h)

/-- APPLOAD without a free slot. -/
theorem appload_full {v : State} (h : v.reap.goodLoad) (hk : v.reap.freeSlot = none) : v.appload = v.reap.commandEnds eBusy := by
  rw [State.appload]
  dsimp only
  rw [if_neg (mt not_goodLoad_iff.mpr (not_not_intro h)), hk]
  rfl

/-- The object that APPLOAD reads. -/
def State.loadObject (s : State) : Sco := ⟨s.cmdArg 1, fun i => if i < s.cmdArg 1 then s.srcByte (s.cmdArg 0 + i) else 0⟩

/-- What the loader plans for the object that APPLOAD reads. -/
def State.loadPlan (s : State) : Except LoadErr Plan :=
  s.loadObject.plan (featsWord &&& ~~~(s.tenantOf (s.cmdArg 2)).featmask) (s.cmdArg 3)

/-- The mappings that APPLOAD gives a plan in slot k. -/
def State.loadMaps (s : State) (k : Nat) (p : Plan) : Option (Nat × Nat × State) :=
  (s.setApp k (p.app s.loadObject (((s.app k).loads + 1) % 2 ^ 26) (s.cmdArg 2))).mapPlan k s.loadObject p
    ((List.range (s.cmdArg 5)).map fun i => s.srcByte (s.cmdArg 4 + i))

theorem exec_appkill (h : s.started 2) : exec .appkill s = .next (match s.slotOf (s.cmdArg 0) with
    | none => s.endCmd eNoent
    | some k => (if (s.app k).state = .running then s.endApp k (BitVec.ofNat 32 (s.cmdArg 1)) else s).endCmd 0) :=
  show execAppkill s = _ from command_started _ _ h rfl

theorem endCmd_app (r : Word) (k : Nat) : (s.endCmd r).app k = s.app k := rfl

/-- APPKILL of a running application ends it with the status of the command. -/
theorem exec_appkill_running {k : Nat} (h : s.started 2) (hk : s.slotOf (s.cmdArg 0) = some k) (hs : (s.app k).state = .running) :
    exec .appkill s = .next ((s.endApp k (BitVec.ofNat 32 (s.cmdArg 1))).endCmd 0) := by
  rw [exec_appkill h, hk]
  dsimp only
  rw [if_pos hs]

theorem exec_appstat (h : s.started 3) : exec .appstat s = .next (match s.slotOf (s.cmdArg 0) with
    | none => s.endCmd eNoent
    | some k =>
      if (s.app k).state = .running then s.endCmd 1
      else (s.setApp k { loads := (s.app k).loads }).endCmd (num (2 + (s.app k).exit.toNat * 2 ^ 32))) :=
  show execAppstat s = _ from command_started _ _ h rfl

theorem exec_powercap (h : s.started 4) :
    exec .powercap s = .next ((s.setCap (s.cmdArg 0)).endCmd (num (capOf (s.cmdArg 0)))) :=
  show execPowercap s = _ from command_started _ _ h rfl

theorem setCap_capPending (w : Nat) : (s.setCap w).capPending = some (capOf w) ∧ (s.setCap w).powerCap = s.powerCap ∧
    (.powerCapTakeEffect, {}) ∈ (s.setCap w).jobs :=
  ⟨State.later_capPending _ _ _, State.later_powerCap _ _ _, mem_later_jobs _ _ _⟩

/-- The state that TENANTSET leaves of its tenant. -/
def State.setFeats (s : State) (t : Nat) : State :=
  { s with tenants := mset {} s.tenants t { s.tenantOf t with featmask := BitVec.ofNat 64 (s.cmdArg 1 % 1024) } }

theorem exec_tenantset (h : s.started 5) : exec .tenantset s = .next (
    if 63 < s.cmdArg 0 then s.commandEnds eInval
    else if s.apps.any fun a => decide (a.2.state ≠ .unused) && decide (a.2.tenant = s.cmdArg 0) then s.commandEnds eBusy
    else (s.setFeats (s.cmdArg 0)).commandEnds 0) :=
  show execTenantset s = _ from command_started _ _ h rfl

theorem setFeats_tenantOf (t j : Nat) : (s.setFeats t).tenantOf j =
    if j = t then { s.tenantOf t with featmask := BitVec.ofNat 64 (s.cmdArg 1 % 1024) } else s.tenantOf j := mget_mset _ _ _ _ _

/-! ### APPLOAD (R46 to R48) -/

variable {v : State} {k : Nat} (h : v.reap.goodLoad) (hk : v.reap.freeSlot = some k)

include h hk

/-- What APPLOAD does with good arguments and a free slot. -/
theorem appload_slot : v.appload = match v.reap.loadPlan with
    | .error e => v.reap.failLoad e
    | .ok p => match v.reap.loadMaps k p with
      | none => v.reap.endCmd eNomem
      | some (entry, va, t) => ((t.freshChannel k).startApp k entry va (v.reap.cmdArg 5)).endCmd
          (num (k + ((v.reap.app k).loads + 1) % 2 ^ 26 * 64)) := by
  rw [State.appload]
  dsimp only
  rw [if_neg (mt not_goodLoad_iff.mpr (not_not_intro h)), hk]
  rfl

/-- An object that the loader refuses. -/
theorem appload_error {e : LoadErr} (he : v.reap.loadPlan = .error e) : v.appload = v.reap.failLoad e := by
  rw [appload_slot h hk, he]

/-- No memory for the object. -/
theorem appload_nomem {p : Plan} (hp : v.reap.loadPlan = .ok p) (hm : v.reap.loadMaps k p = none) :
    v.appload = v.reap.commandEnds eNomem := by
  rw [appload_slot h hk, hp]
  dsimp only
  rw [hm]
  rfl

/-- An application that is loaded. -/
theorem appload_loads {p : Plan} {entry va : Nat} {t : State} (hp : v.reap.loadPlan = .ok p)
    (hm : v.reap.loadMaps k p = some (entry, va, t)) : v.appload = ((t.freshChannel k).startApp k entry va (v.reap.cmdArg 5)).endCmd
      (num (k + ((v.reap.app k).loads + 1) % 2 ^ 26 * 64)) := by
  rw [appload_slot h hk, hp]
  dsimp only
  rw [hm]

end Sys2Proof.Machine
end

section
/-! The settled obligation. -/

namespace Sys2Proof.Machine

/-- Settles O52: each command's outcome is its own lemma; APPKILL rests on `endApp_app`, the application map on `testBit_sum_pow`. -/
theorem hostCommands : Obligations.HostCommands := by
  unfold Obligations.HostCommands
  refine ⟨fun s c b1 b2 b3 b4 b5 b6 b7 hw ht hn => ⟨fun h => ?code, fun h h7 hg => ?go, fun h h7 hg => ?busy⟩,
    fun s i hw ht hi hn h8 => ?arg, fun s h i hi => exec_of_no_command h hi, fun v hv => ?appload, fun s h => ?appkill,
    fun s h => ?appstat, fun s h => ?powercap, fun s h => ?tenantset, fun s hg hc => ?reserved,
    fun s => ⟨bar0Read_status, fun n hn => bar0Read_appMap hn, bar0Read_go, rfl, fun i hi => bar0Read_arg hi,
      fun w h4 h => bar0Read_unlisted h4 h⟩⟩
  case code => exact (execMgmtRegisterWrite_bar0 (w := 0x200) hw ht hn (by simp [h]) (by simp [h])).trans (by rw [h]; rfl)
  case go =>
    exact (execMgmtRegisterWrite_bar0 (w := 0x200) hw ht hn (by simp [h]) (by simp [h])).trans
      (by rw [h]; exact congrArg _ ((bar0Write_go h7).trans (if_neg (by simp [hg]))))
  case busy =>
    exact (execMgmtRegisterWrite_bar0 (w := 0x200) hw ht hn (by simp [h]) (by simp [h])).trans
      (by rw [h]; exact congrArg _ ((bar0Write_go h7).trans (if_pos hg)))
  case arg =>
    have h0 : s.inp.data ≠ [] := fun e => by simp [e] at h8
    refine ⟨_, (execMgmtRegisterWrite_bar0 (w := 0x201 + i) hw ht (by omega) h0 (by omega)).trans
      (congrArg _ (bar0Write_arg hi _)), ?_, rfl, fun j hj => ?_⟩ <;> dsimp only <;> rw [mget_mset]
    · rw [if_pos rfl, mergeBytes_eight _ _ h8]
    · rw [if_neg hj]
  case appload =>
    intro s o plan good
    have start : exec .appload v = .next v.appload := show execAppload v = _ from command_started _ _ hv rfl
    refine ⟨fun h => start.trans (congrArg _ (appload_refuses h)), fun h hk => start.trans (congrArg _ (appload_full h hk)),
      fun k h hk => ⟨fun e he => start.trans (congrArg _ (appload_error h hk he)), fun p hp => ?_⟩⟩
    intro loads
    split
    · next hm => exact start.trans (congrArg _ (appload_nomem h hk hp hm))
    · next entry va t hm =>
      exact ⟨_, start.trans (congrArg _ (appload_loads h hk hp hm)), rfl, rfl, startApp_app _ k entry va _⟩
  case appkill =>
    have start := exec_appkill h
    refine ⟨fun hk => start.trans (by rw [hk]; rfl), fun k hk => ⟨fun hs => start.trans ?_, fun hs =>
      ⟨_, exec_appkill_running h hk hs, rfl, rfl, by rw [endCmd_app]; exact endApp_app s k _⟩⟩⟩
    rw [hk]
    dsimp only
    rw [if_neg hs]
    rfl
  case appstat =>
    have start := exec_appstat h
    refine ⟨fun hk => start.trans (by rw [hk]; rfl), fun k hk => ⟨fun hs => start.trans ?_, fun hs => start.trans ?_⟩⟩ <;>
      rw [hk] <;> dsimp only
    · rw [if_pos hs]
      rfl
    · rw [if_neg hs]
      rfl
  case powercap =>
    intro cap
    obtain ⟨pending, power, job⟩ := setCap_capPending (s := s) (s.cmdArg 0)
    exact ⟨_, exec_powercap h, rfl, rfl, pending, power, job⟩
  case tenantset =>
    intro t
    have start := exec_tenantset h
    refine ⟨fun ht => start.trans (by rw [if_pos ht]), fun ht ⟨a, ha, hs, hk⟩ => start.trans ?_, fun ht hn => ?_⟩
    · rw [if_neg (Nat.not_lt.mpr ht), if_pos (List.any_eq_true.mpr ⟨a, ha, by simp [hs, hk, t]⟩)]
    · have none : ¬ (s.apps.any fun a => decide (a.2.state ≠ .unused) && decide (a.2.tenant = s.cmdArg 0)) = true := by
        simpa [or_iff_not_imp_left] using hn
      rw [if_neg (Nat.not_lt.mpr ht), if_neg none] at start
      exact ⟨_, start, congrArg Tenant.featmask ((setFeats_tenantOf t t).trans (if_pos rfl)),
        fun j hj => (setFeats_tenantOf t j).trans (if_neg hj), rfl⟩
  case reserved =>
    refine congrArg _ (if_pos ?_)
    rcases hc with hc | hc <;> simp [hg, hc]

end Sys2Proof.Machine
end

section
/-! SUPPORT. The correction of a flit (R24): which codewords a search within four symbols reaches, and what it finds. -/

namespace Sys2Proof.Machine

/-! ### Codewords by their symbols -/

/-- A number is known by its bytes. -/
theorem eq_of_bytes {n a b : Nat} (ha : a < 2 ^ (8 * n)) (hb : b < 2 ^ (8 * n))
    (h : ∀ i < n, bitsAt a (8 * i) 8 = bitsAt b (8 * i) 8) : a = b := by
  rw [← Nat.mod_eq_of_lt ha, ← Nat.mod_eq_of_lt hb, ← packW_bytes n a, ← packW_bytes n b]
  exact congrArg (packW 8) (List.map_congr_left fun i hi => h i (List.mem_range.mp hi))

theorem byte_lt (a i : Nat) : bitsAt a (8 * i) 8 < 256 := Nat.mod_lt _ (by decide)

theorem flitCodeword_lt (f c : Nat) : flitCodeword f c < 2 ^ (8 * 128) := by
  simpa [flitCodeword] using packW_lt ((List.range 128).map fun i => bitsAt f (8 * (2 * i + c)) 8)

/-- The symbols of a codeword of a flit. -/
theorem byte_flitCodeword (f c : Nat) {i : Nat} (h : i < 128) : bitsAt (flitCodeword f c) (8 * i) 8 = bitsAt f (8 * (2 * i + c)) 8 := by
  rw [flitCodeword, byte_packW]
  simp [h, Nat.mod_eq_of_lt (byte_lt f (2 * i + c))]

/-- A flit is its two codewords, interleaved. -/
theorem interleave_flitCodeword {f : Nat} (h : f < 2 ^ (8 * 256)) : interleave (flitCodeword f 0) (flitCodeword f 1) = f := by
  refine eq_of_bytes (n := 256) (interleave_lt _ _) h fun i hi => ?_
  obtain ⟨even, odd⟩ := byte_interleave (flitCodeword f 0) (flitCodeword f 1) (i / 2) (by omega)
  rcases Nat.mod_two_eq_zero_or_one i with e | e
  · rw [show i = 2 * (i / 2) by omega, even, byte_flitCodeword _ _ (by omega), Nat.add_zero]
  · rw [show i = 2 * (i / 2) + 1 by omega, odd, byte_flitCodeword _ _ (by omega)]

/-- Each codeword of two that are interleaved. -/
theorem flitCodeword_interleave_of_lt {a b : Nat} (ha : a < 2 ^ (8 * 128)) (hb : b < 2 ^ (8 * 128)) :
    flitCodeword (interleave a b) 0 = a ∧ flitCodeword (interleave a b) 1 = b := by
  obtain ⟨h0, h1⟩ := flitCodeword_interleave a b
  exact ⟨h0.trans (Nat.mod_eq_of_lt ha), h1.trans (Nat.mod_eq_of_lt hb)⟩

theorem setSymbol_lt (w i v : Nat) : setSymbol w i v < 2 ^ (8 * 128) := by
  simpa [setSymbol] using packW_lt ((List.range 128).map fun j => if j = i then v else bitsAt w (8 * j) 8)

/-- The symbols of a codeword with one replaced. -/
theorem byte_setSymbol (w v : Nat) {i j : Nat} (h : j < 128) :
    bitsAt (setSymbol w i v) (8 * j) 8 = if j = i then v % 256 else bitsAt w (8 * j) 8 := by
  rw [setSymbol, byte_packW, List.getD_eq_getElem _ _ (by simpa using h), List.getElem_map, List.getElem_range]
  split
  · rfl
  · exact Nat.mod_eq_of_lt (byte_lt _ _)

/-- Replacing a symbol of a replaced one gives the codeword back. -/
theorem setSymbol_setSymbol {w : Nat} (h : w < 2 ^ (8 * 128)) (i v : Nat) :
    setSymbol (setSymbol w i v) i (bitsAt w (8 * i) 8) = w := by
  refine eq_of_bytes (setSymbol_lt _ _ _) h fun j hj => ?_
  rw [byte_setSymbol _ _ hj, byte_setSymbol _ _ hj]
  split
  · next e => rw [e, Nat.mod_eq_of_lt (byte_lt w i)]
  · rfl

/-! ### Where two codewords differ -/

/-- The places of the symbols in which two codewords differ. -/
def symbolsApart (a b : Nat) : List Nat := (List.range 128).filter fun i => decide (bitsAt a (8 * i) 8 ≠ bitsAt b (8 * i) 8)

theorem mem_symbolsApart {a b i : Nat} : i ∈ symbolsApart a b ↔ i < 128 ∧ bitsAt a (8 * i) 8 ≠ bitsAt b (8 * i) 8 := by
  simp [symbolsApart]

theorem nodup_symbolsApart (a b : Nat) : (symbolsApart a b).Nodup := List.nodup_range.filter _

/-- No symbol apart: one codeword. -/
theorem eq_of_symbolDiffs_zero {a b : Nat} (ha : a < 2 ^ (8 * 128)) (hb : b < 2 ^ (8 * 128)) (h : symbolDiffs a b = 0) : a = b := by
  refine eq_of_bytes ha hb fun i hi => ?_
  have none : symbolsApart a b = [] := List.length_eq_zero_iff.mp h
  by_contra c
  exact List.not_mem_nil (none ▸ mem_symbolsApart.mpr ⟨hi, c⟩)

theorem symbolDiffs_self (a : Nat) : symbolDiffs a a = 0 := by simp [symbolDiffs]

/-- One replaced symbol takes a codeword at most one further away. -/
theorem symbolDiffs_setSymbol_le (w x i v : Nat) : symbolDiffs w (setSymbol x i v) ≤ symbolDiffs w x + 1 := by
  have sub : symbolsApart w (setSymbol x i v) ⊆ i :: symbolsApart w x := by
    intro j hj
    obtain ⟨hl, hn⟩ := mem_symbolsApart.mp hj
    rw [byte_setSymbol _ _ hl] at hn
    by_cases e : j = i
    · exact List.mem_cons.mpr (.inl e)
    · rw [if_neg e] at hn
      exact List.mem_cons_of_mem _ (mem_symbolsApart.mpr ⟨hl, hn⟩)
  exact ((nodup_symbolsApart _ _).subperm sub).length_le

/-- Restoring a symbol that differs takes a codeword one nearer. -/
theorem symbolDiffs_restore {w v i : Nat} (hi : i ∈ symbolsApart w v) :
    symbolDiffs w (setSymbol v i (bitsAt w (8 * i) 8)) + 1 ≤ symbolDiffs w v := by
  have sub : i :: symbolsApart w (setSymbol v i (bitsAt w (8 * i) 8)) ⊆ symbolsApart w v := by
    refine List.cons_subset.mpr ⟨hi, fun j hj => ?_⟩
    obtain ⟨hl, hn⟩ := mem_symbolsApart.mp hj
    rw [byte_setSymbol _ _ hl] at hn
    by_cases e : j = i
    · exact e ▸ hi
    · rw [if_neg e] at hn
      exact mem_symbolsApart.mpr ⟨hl, hn⟩
  have new : i ∉ symbolsApart w (setSymbol v i (bitsAt w (8 * i) 8)) := by
    intro h
    obtain ⟨hl, hn⟩ := mem_symbolsApart.mp h
    rw [byte_setSymbol _ _ hl, if_pos rfl, Nat.mod_eq_of_lt (byte_lt w i)] at hn
    exact hn rfl
  exact ((List.nodup_cons.mpr ⟨new, nodup_symbolsApart _ _⟩).subperm sub).length_le

/-- The search within n symbols reaches every codeword that differs in at most n. -/
theorem mem_symbolBall {w : Nat} (hw : w < 2 ^ (8 * 128)) : ∀ {n v : Nat}, v < 2 ^ (8 * 128) → symbolDiffs w v ≤ n → v ∈ symbolBall n w
  | 0, v, hv, h => List.mem_singleton.mpr (eq_of_symbolDiffs_zero hw hv (Nat.le_zero.mp h)).symm
  | n + 1, v, hv, h => by
    rw [symbolBall]
    cases ha : symbolsApart w v with
    | nil =>
      have same : symbolDiffs w v = 0 := congrArg List.length ha
      exact List.mem_append_left _ (mem_symbolBall hw hv (by omega))
    | cons i is =>
      have hi : i ∈ symbolsApart w v := ha ▸ List.mem_cons_self
      have near := symbolDiffs_restore hi
      refine List.mem_append_right _ (List.mem_flatMap.mpr ⟨_, mem_symbolBall hw (setSymbol_lt v i (bitsAt w (8 * i) 8)) (by omega),
        List.mem_flatMap.mpr ⟨i, List.mem_range.mpr (mem_symbolsApart.mp hi).1,
          List.mem_map.mpr ⟨bitsAt v (8 * i) 8, List.mem_range.mpr (byte_lt v i), setSymbol_setSymbol hv _ _⟩⟩⟩)

/-- What the search within n symbols reaches differs in at most n. -/
theorem symbolDiffs_le_of_mem_symbolBall {w : Nat} (hw : w < 2 ^ (8 * 128)) : ∀ {n x : Nat}, x ∈ symbolBall n w →
    symbolDiffs w x ≤ n ∧ x < 2 ^ (8 * 128)
  | 0, x, h => by
    obtain rfl := List.mem_singleton.mp h
    exact ⟨(symbolDiffs_self _).le, hw⟩
  | n + 1, x, h => by
    rw [symbolBall] at h
    rcases List.mem_append.mp h with h | h
    · obtain ⟨hd, hx⟩ := symbolDiffs_le_of_mem_symbolBall hw h
      exact ⟨Nat.le_succ_of_le hd, hx⟩
    · obtain ⟨y, hy, h⟩ := List.mem_flatMap.mp h
      obtain ⟨i, -, h⟩ := List.mem_flatMap.mp h
      obtain ⟨v, -, rfl⟩ := List.mem_map.mp h
      obtain ⟨hd, -⟩ := symbolDiffs_le_of_mem_symbolBall hw hy
      exact ⟨(symbolDiffs_setSymbol_le w y i v).trans (Nat.succ_le_succ hd), setSymbol_lt _ _ _⟩

/-! ### Codewords and flits corrected -/

/-- A codeword within four symbols of a valid one is corrected. -/
theorem rsCorrect_isSome {w v : Nat} (hw : w < 2 ^ (8 * 128)) (hv : v < 2 ^ (8 * 128)) (valid : rsValid v = true)
    (h : symbolDiffs w v ≤ 4) : (rsCorrect w).isSome = true := by
  unfold rsCorrect
  split
  · rfl
  · exact List.find?_isSome.mpr ⟨v, mem_symbolBall hw hv h, valid⟩

/-- A corrected codeword is valid and differs in at most four symbols. -/
theorem rsCorrect_spec {w a : Nat} (hw : w < 2 ^ (8 * 128)) (h : rsCorrect w = some a) :
    rsValid a = true ∧ symbolDiffs w a ≤ 4 ∧ a < 2 ^ (8 * 128) := by
  unfold rsCorrect at h
  split at h
  · next valid =>
    cases h
    exact ⟨valid, by rw [symbolDiffs_self]; omega, hw⟩
  · exact ⟨List.find?_some h, symbolDiffs_le_of_mem_symbolBall hw (List.mem_of_find?_eq_some h)⟩

theorem flitCorrect_eq_some {f : BitVec 2048} {g : Nat} : flitCorrect f = some g ↔ ∃ a b, rsCorrect (flitCodeword f.toNat 0) = some a ∧
    rsCorrect (flitCodeword f.toNat 1) = some b ∧ interleave a b = g := by
  unfold flitCorrect
  cases rsCorrect (flitCodeword f.toNat 0) <;> cases rsCorrect (flitCodeword f.toNat 1) <;> simp

/-- A flit without an error stands. -/
theorem flitCorrect_of_valid (f : BitVec 2048) (h0 : rsValid (flitCodeword f.toNat 0) = true)
    (h1 : rsValid (flitCodeword f.toNat 1) = true) : flitCorrect f = some f.toNat := by
  rw [flitCorrect_valid rfl rfl h0 h1, interleave_flitCodeword f.isLt]

/-- A flit each of whose halves is within four symbols of a valid codeword is corrected. -/
theorem flitCorrect_isSome {f : BitVec 2048}
    (h : ∀ c < 2, ∃ v < 2 ^ 1024, rsValid v = true ∧ symbolDiffs (flitCodeword f.toNat c) v ≤ 4) : (flitCorrect f).isSome = true := by
  have half : ∀ c < 2, ∃ a, rsCorrect (flitCodeword f.toNat c) = some a := fun c hc => by
    obtain ⟨v, hv, valid, hd⟩ := h c hc
    exact Option.isSome_iff_exists.mp (rsCorrect_isSome (flitCodeword_lt _ _) hv valid hd)
  obtain ⟨a, ha⟩ := half 0 (by omega)
  obtain ⟨b, hb⟩ := half 1 (by omega)
  rw [flitCorrect_eq_some.mpr ⟨a, b, ha, hb, rfl⟩]
  rfl

/-- A corrected flit is valid and differs in at most four symbols of each half. -/
theorem flitCorrect_spec {f : BitVec 2048} {g : Nat} (h : flitCorrect f = some g) {c : Nat} (hc : c < 2) :
    symbolDiffs (flitCodeword f.toNat c) (flitCodeword g c) ≤ 4 ∧ rsValid (flitCodeword g c) = true := by
  obtain ⟨a, b, ha, hb, rfl⟩ := flitCorrect_eq_some.mp h
  obtain ⟨va, da, la⟩ := rsCorrect_spec (flitCodeword_lt _ _) ha
  obtain ⟨vb, db, lb⟩ := rsCorrect_spec (flitCodeword_lt _ _) hb
  obtain ⟨e0, e1⟩ := flitCodeword_interleave_of_lt la lb
  obtain rfl | rfl : c = 0 ∨ c = 1 := by omega
  · rw [e0]
    exact ⟨da, va⟩
  · rw [e1]
    exact ⟨db, vb⟩

end Sys2Proof.Machine
end

section
/-! SUPPORT. Ports (R23 to R26): what an operation leaves of the port it is about, and that the other ports and memory stay. -/

namespace Sys2Proof.Machine

variable {s t u : State} {n : Nat} {q r : Port}

/-- Port n becomes q; every other port and memory stay. -/
def State.PortBecomes (s : State) (n : Nat) (q : Port) (u : State) : Prop :=
  u.port n = q ∧ (∀ k, k ≠ n → u.port k = s.port k) ∧ u.mem = s.mem

theorem port_setPort (n k : Nat) (q : Port) : (s.setPort n q).port k = if k = n then q else s.port k := mget_mset _ _ _ _ _

theorem portBecomes_setPort (n : Nat) (q : Port) : s.PortBecomes n q (s.setPort n q) :=
  ⟨(port_setPort n n q).trans (if_pos rfl), fun k hk => (port_setPort n k q).trans (if_neg hk), rfl⟩

theorem State.PortBecomes.trans (h : s.PortBecomes n q t) (h' : t.PortBecomes n r u) : s.PortBecomes n r u := by
  obtain ⟨-, others, mem⟩ := h
  obtain ⟨port, others', mem'⟩ := h'
  exact ⟨port, fun k hk => (others' k hk).trans (others k hk), mem'.trans mem⟩

/-- What touches neither ports nor memory does not matter. -/
theorem State.PortBecomes.of_same (h : s.PortBecomes n q t) (hp : u.ports = t.ports) (hm : u.mem = t.mem) : s.PortBecomes n q u := by
  have same : ∀ k, u.port k = t.port k := fun k => by rw [State.port, State.port, hp]
  obtain ⟨port, others, mem⟩ := h
  exact ⟨(same n).trans port, fun k hk => (same k).trans (others k hk), hm.trans mem⟩

/-- A port enters a state now. -/
theorem portBecomes_enterPort (n : Nat) (st : PortState) :
    s.PortBecomes n { s.port n with st := st, since := s.clk } (s.enterPort n st) := portBecomes_setPort n _

/-- A port that has been replaced enters a state now. -/
theorem portBecomes_setPort_enterPort (n : Nat) (q : Port) (st : PortState) :
    s.PortBecomes n { q with st := st, since := s.clk } ((s.setPort n q).enterPort n st) := by
  have h := portBecomes_enterPort (s := s.setPort n q) n st
  rw [port_setPort, if_pos rfl] at h
  exact (portBecomes_setPort n q).trans h

/-! ### What a port that goes DOWN drops -/

theorem dropCargo_ports (s : State) (c : Cargo) : (s.dropCargo c).ports = s.ports := by
  cases c <;> simp [State.dropCargo]

theorem foldl_dropCargo_ports : ∀ (cs : List Cargo) (s : State), (cs.foldl State.dropCargo s).ports = s.ports
  | [], _ => rfl
  | c :: cs, s => (foldl_dropCargo_ports cs (s.dropCargo c)).trans (dropCargo_ports s c)

/-- What a port held is dropped. -/
theorem State.PortBecomes.drop (h : s.PortBecomes n q t) (cs : List Cargo) : s.PortBecomes n { q with replay := [], naks := 0, credits := 0 }
    (cs.foldl State.dropCargo (t.setPort n { t.port n with replay := [], naks := 0, credits := 0 })) := by
  obtain ⟨rfl, -, -⟩ := id h
  exact h.trans ((portBecomes_setPort n _).of_same (foldl_dropCargo_ports cs _) (foldl_mem _ State.dropCargo_mem cs _))

/-- A port that goes DOWN holds nothing. -/
theorem portBecomes_portDown (n : Nat) :
    s.PortBecomes n { s.port n with st := .down, since := s.clk, replay := [], naks := 0, credits := 0 } (s.portDown n) :=
  ((portBecomes_enterPort n .down).of_same (u := (s.enterPort n .down).logDie (dieOfPort n) (Config.eventCode 2) n s.freeDetail)
    rfl rfl).drop _

/-- A port that has been replaced goes DOWN. -/
theorem portBecomes_setPort_portDown (n : Nat) (q : Port) :
    s.PortBecomes n { q with st := .down, since := s.clk, replay := [], naks := 0, credits := 0 } ((s.setPort n q).portDown n) := by
  have h := portBecomes_portDown (s := s.setPort n q) n
  rw [port_setPort, if_pos rfl] at h
  exact (portBecomes_setPort n q).trans h

/-! ### Nothing waits for a port -/

theorem pump_idle (h : s.unsent = []) : s.pump = s := by
  cases s
  cases h
  rfl

/-- An event takes place on its port: `P` holds after it, and every other port and memory stay. -/
def State.Moves (s : State) (i : Instr) (P : State → Prop) : Prop :=
  ∃ u, exec i s = .next u ∧ P u ∧ (∀ k, k ≠ s.inp.n → u.port k = s.port k) ∧ u.mem = s.mem

/-! ### The limits of the training states (Table 5) -/

section

variable {st : PortState} {lim : Nat} {f : State → State} (hl : st.limit = some lim) (h : (s.port s.inp.n).st = st)

include hl h

theorem expired_eq : (s.port s.inp.n).expired s.clk = decide ((s.port s.inp.n).since + lim ≤ s.clk) := by
  rw [Port.expired, h, hl]

theorem trained_in_time (ht : s.clk < (s.port s.inp.n).since + lim) : s.trained st f = .next (f s) := by
  rw [State.trained, expired_eq hl h, if_pos ⟨h, decide_eq_false (Nat.not_le.mpr ht)⟩]

theorem overdue_in_time (ht : s.clk < (s.port s.inp.n).since + lim) : s.overdue st f = .next s := by
  rw [State.overdue, expired_eq hl h, if_neg fun c => absurd (of_decide_eq_true c.2) (Nat.not_le.mpr ht)]

theorem overdue_late (ht : (s.port s.inp.n).since + lim ≤ s.clk) : s.overdue st f = .next (f s) := by
  rw [State.overdue, expired_eq hl h, if_pos ⟨h, decide_eq_true ht⟩]

theorem trained_late (ht : (s.port s.inp.n).since + lim ≤ s.clk) : s.trained st f = .next s := by
  rw [State.trained, expired_eq hl h, if_neg fun c => absurd c.2 (by simp [ht])]

variable {g : State → State} {done late : Instr}

/-- A training state whose limit is `lim`: the port leaves it within that time, and the limit's event takes it after that. -/
theorem passes_training (hd : exec done s = s.trained st f) (hg : exec late s = s.overdue st g) (bf : s.PortBecomes s.inp.n q (f s))
    (bg : s.PortBecomes s.inp.n r (g s)) :
    (s.clk < (s.port s.inp.n).since + lim → s.Moves done (fun u => u.port s.inp.n = q) ∧ exec late s = .next s) ∧
    ((s.port s.inp.n).since + lim ≤ s.clk → s.Moves late (fun u => u.port s.inp.n = r) ∧ exec done s = .next s) :=
  ⟨fun ht => ⟨⟨_, hd.trans (trained_in_time hl h ht), bf⟩, hg.trans (overdue_in_time hl h ht)⟩,
    fun ht => ⟨⟨_, hg.trans (overdue_late hl h ht), bg⟩, hd.trans (trained_late hl h ht)⟩⟩

end

/-! ### The NAK that has to go out -/

/-- The fields of the header of an idle flit that carries a NAK. -/
theorem header_idle (p : Port) (hn : p.nakDue = true) (pkg free : Nat) : p.header 0 pkg free / 2 ^ 52 % 4096 = p.txSeq % 4096 ∧
    p.header 0 pkg free / 2 ^ 39 % 2 = 1 ∧ p.header 0 pkg free / 2 ^ 24 % 16 = 0 := by
  simp only [Port.header, hn, Bool.toNat_true]
  omega

/-- What the sending of a due NAK leaves of a port: an idle flit in its replay buffer, while that has room. -/
def NakSent (q r : Port) : Prop :=
  if q.nakDue = true ∧ q.replay.length < 256 then
    ∃ (hdr : Nat) (pl : BitVec 1824), hdr / 2 ^ 52 % 4096 = q.txSeq % 4096 ∧ hdr / 2 ^ 39 % 2 = 1 ∧ hdr / 2 ^ 24 % 16 = 0 ∧
      r = { q with txSeq := (q.txSeq + 1) % 4096, nakDue := false, replay := q.replay ++ [⟨q.txSeq, flitOf hdr pl, .other⟩] }
  else r = { q with nakDue := false }

/-- Without a NAK that is due the port stays. -/
theorem NakSent.eq_of_none (h : NakSent q r) (hd : q.nakDue = false) : r = q := by
  rw [NakSent, if_neg (by simp [hd])] at h
  rw [h, ← hd]

theorem sendNak_unsent (s : State) (n : Nat) : (s.sendNak n).unsent = s.unsent := by
  unfold State.sendNak
  (repeat' split) <;> rfl

theorem sendNak_none (h : (s.port n).nakDue = false) : s.sendNak n = s := if_neg (by simp [h])

theorem portBecomes_sendNak (s : State) (n : Nat) : ∃ r, NakSent (s.port n) r ∧ s.PortBecomes n r (s.sendNak n) := by
  cases hd : (s.port n).nakDue with
  | false =>
    refine ⟨s.port n, ?_, ?_⟩
    · rw [NakSent, if_neg (by simp [hd]), ← hd]
    · rw [sendNak_none hd]
      exact ⟨rfl, fun _ _ => rfl, rfl⟩
  | true =>
    rw [State.sendNak, if_pos hd]
    by_cases room : (s.port n).replay.length < 256
    · rw [if_pos room]
      obtain ⟨seq, nak, typ⟩ := header_idle (s.port n) hd 0 (Config.flitRoute s.tick).toNat
      refine ⟨_, ?_, (portBecomes_setPort n _).of_same rfl rfl⟩
      rw [NakSent, if_pos ⟨hd, room⟩]
      exact ⟨_, Config.flitPayload s.tick, seq, nak, typ, rfl⟩
    · rw [if_neg room]
      refine ⟨_, ?_, portBecomes_setPort n _⟩
      rw [NakSent, if_neg fun c => room c.2]

/-! ### Flits received by an active port -/

theorem flitGood_iff {f : Nat} : flitGood f = true ↔ flitCrc f = bitsAt f 1888 32 ∧ f / 2 ^ 24 % 16 ≤ 5 := by
  rw [flitGood, Bool.and_eq_true, decide_eq_true_iff, decide_eq_true_iff]
  rfl

variable {mine : Nat → Bool} {f : Nat}

theorem receive_bad (p : Port) (h : ¬ flitGood f = true) :
    p.receive mine (some f) = { p with nakSent := true, nakDue := true } := if_pos (by simpa using h)

theorem receive_out_of_order (p : Port) (h : flitGood f = true) (hs : f / 2 ^ 52 % 4096 ≠ p.rxSeq) :
    p.receive mine (some f) = { p with nakSent := true, nakDue := p.nakDue || !p.nakSent } :=
  (if_neg (by simpa using h)).trans (if_neg hs)

theorem receive_in_order (p : Port) (h : flitGood f = true) (hs : f / 2 ^ 52 % 4096 = p.rxSeq) :
    p.receive mine (some f) = p.take (mine f) f := (if_neg (by simpa using h)).trans (if_pos hs)

theorem mem_unacked {ack : Nat} {rs : List SentFlit} {x : SentFlit} :
    x ∈ unacked ack rs ↔ x ∈ rs ∧ (x.seq + 4096 - ack - 1) % 4096 < 2048 := by
  rw [unacked, List.mem_filter, decide_eq_true_iff]

/-- As many flits left as there were: all of them. -/
theorem length_unacked_eq {ack : Nat} {rs : List SentFlit} : (unacked ack rs).length = rs.length ↔ unacked ack rs = rs := by
  rw [unacked, List.length_filter_eq_length_iff, List.filter_eq_self]

/-- The NAKs in a row after a flit in order: one more, or as many, where the flit acknowledges none. -/
theorem take_naks_stuck (p : Port) (mine : Bool) (h : unacked (f / 2 ^ 40 % 4096) p.replay = p.replay) :
    (p.take mine f).naks = if f / 2 ^ 39 % 2 = 1 then p.naks + 1 else p.naks := by
  have stuck : decide ((unacked (flitAck f) p.replay).length = p.replay.length) = true := decide_eq_true (length_unacked_eq.mpr h)
  simp only [Port.take, stuck, flitNak, decide_eq_true_iff, if_true]
  rfl

/-- They begin anew where the flit acknowledges some. -/
theorem take_naks_moved (p : Port) (mine : Bool) (h : unacked (f / 2 ^ 40 % 4096) p.replay ≠ p.replay) :
    (p.take mine f).naks = if f / 2 ^ 39 % 2 = 1 then 1 else 0 := by
  have moved : decide ((unacked (flitAck f) p.replay).length = p.replay.length) = false :=
    decide_eq_false fun c => h (length_unacked_eq.mp c)
  simp only [Port.take, moved, flitNak, decide_eq_true_iff, Bool.false_eq_true, if_false]
  rfl

/-- What a good flit in order leaves of a port but for its NAKs in a row. -/
theorem take_eq (p : Port) (mine : Bool) (f : Nat) : p.take mine f = { p with
    rxSeq := (p.rxSeq + 1) % 4096, nakSent := false, nakDue := false, replay := unacked (f / 2 ^ 40 % 4096) p.replay,
    naks := (p.take mine f).naks, credits := p.credits + f / 2 ^ 28 % 2 ^ 11,
    replayed := if f / 2 ^ 39 % 2 = 1 then p.replayed + (unacked (f / 2 ^ 40 % 4096) p.replay).length else p.replayed,
    taken := if mine = true ∧ f / 2 ^ 24 % 16 ≠ 0 then p.taken ++ [BitVec.ofNat 2048 f] else p.taken } := by
  have nak : (p.take mine f).replayed =
      if f / 2 ^ 39 % 2 = 1 then p.replayed + (unacked (f / 2 ^ 40 % 4096) p.replay).length else p.replayed := by
    simp only [Port.take, flitNak, decide_eq_true_iff]
    rfl
  have mine : (p.take mine f).taken = if mine = true ∧ f / 2 ^ 24 % 16 ≠ 0 then p.taken ++ [BitVec.ofNat 2048 f] else p.taken := by
    have type : decide (flitType f ≠ 0) = decide (f / 2 ^ 24 % 16 ≠ 0) := rfl
    simp only [Port.take, type, Bool.and_eq_true, decide_eq_true_iff]
  rw [← nak, ← mine]
  rfl

/-- A flit that an active port receives, while nothing waits for a port. -/
theorem flitReceive_active (hu : s.unsent = []) (h : (s.port s.inp.n).st = .active) :
    let q := (s.port s.inp.n).receive (s.isFor s.inp.n) (flitCorrect s.inp.flit)
    ∃ u, execFlitReceive s = .next u ∧ NakSent q (u.port s.inp.n) ∧
      ((∀ k, k ≠ s.inp.n → u.port k = s.port k) ∧ u.mem = s.mem) ∧
      (q.nakDue = false → 9 ≤ q.naks → u.events = (.replayLimit, { n := s.inp.n }) :: s.events) := by
  intro q
  have eq : execFlitReceive s = .next (if q.replayLimit = true then
      (((s.setPort s.inp.n q).sendNak s.inp.n).postFront .replayLimit { n := s.inp.n })
      else (s.setPort s.inp.n q).sendNak s.inp.n) := by
    rw [execFlitReceive]
    dsimp only
    rw [h]
    dsimp only
    rw [pump_idle (s := (s.setPort s.inp.n ((s.port s.inp.n).receive (s.isFor s.inp.n) (flitCorrect s.inp.flit))).sendNak s.inp.n)
      ((sendNak_unsent _ _).trans hu)]
  obtain ⟨r, nak, become⟩ := portBecomes_sendNak (s.setPort s.inp.n q) s.inp.n
  rw [port_setPort, if_pos rfl] at nak
  have become := (portBecomes_setPort s.inp.n q).trans become
  rw [eq]
  by_cases limit : q.replayLimit = true
  · obtain ⟨rfl, rest⟩ := become.of_same (u := ((s.setPort s.inp.n q).sendNak s.inp.n).postFront .replayLimit { n := s.inp.n }) rfl rfl
    refine ⟨_, congrArg _ (if_pos limit), nak, rest, fun hd _ => ?_⟩
    rw [sendNak_none (by rw [port_setPort, if_pos rfl, hd])]
    rfl
  · obtain ⟨rfl, rest⟩ := become
    exact ⟨_, congrArg _ (if_neg limit), nak, rest, fun _ h9 => absurd (decide_eq_true h9) limit⟩

/-! ### Grants and the limit of replays -/

theorem flitReceive_grant (h : (s.port s.inp.n).st = .credit ∨ (s.port s.inp.n).st = .retrain) :
    execFlitReceive s = .next (s.setPort s.inp.n ((s.port s.inp.n).grant (flitCorrect s.inp.flit))) := by
  rw [execFlitReceive]
  rcases h with h | h <;> dsimp only <;> rw [h]

theorem grant_good (p : Port) (h : flitGood f = true) : p.grant (some f) =
    if f / 2 ^ 24 % 16 = 4 then { p with credits := p.credits + f / 2 ^ 28 % 2 ^ 11 } else p := by
  have type : decide (flitType f = 4) = decide (f / 2 ^ 24 % 16 = 4) := rfl
  simp only [Port.grant, h, type, Bool.true_and, decide_eq_true_iff]
  rfl

theorem flitReceive_elsewhere (ha : (s.port s.inp.n).st ≠ .active) (hc : (s.port s.inp.n).st ≠ .credit)
    (hr : (s.port s.inp.n).st ≠ .retrain) : execFlitReceive s = .next s := by
  rw [execFlitReceive]
  dsimp only
  split
  · next h => exact absurd h ha
  · next h => exact absurd h hc
  · next h => exact absurd h hr
  · rfl

/-- A port at its limit, before it changes its state. -/
def Port.retrying (p : Port) (clk : Nat) : Port := { p with retrains := p.entries clk, naks := 0, credits := 0 }

/-- The ninth NAK ends in RETRAIN, the third time within a second in DOWN. -/
theorem replayLimit_active (h : (s.port s.inp.n).st = .active) (h9 : 9 ≤ (s.port s.inp.n).naks) : execReplayLimit s = .next (
    if 3 ≤ ((s.port s.inp.n).entries s.clk).length
    then (s.setPort s.inp.n ((s.port s.inp.n).retrying s.clk)).portDown s.inp.n
    else (s.setPort s.inp.n ((s.port s.inp.n).retrying s.clk)).enterPort s.inp.n .retrain) :=
  congrArg Host.Outcome.next (if_pos ⟨h, decide_eq_true h9⟩)

theorem portBecomes_limit (n : Nat) : s.PortBecomes n (
    if 3 ≤ ((s.port n).entries s.clk).length
    then { (s.port n).retrying s.clk with st := .down, since := s.clk, replay := [], naks := 0, credits := 0 }
    else { (s.port n).retrying s.clk with st := .retrain, since := s.clk }) (
    if 3 ≤ ((s.port n).entries s.clk).length then (s.setPort n ((s.port n).retrying s.clk)).portDown n
    else (s.setPort n ((s.port n).retrying s.clk)).enterPort n .retrain) := by
  split
  · exact portBecomes_setPort_portDown n _
  · exact portBecomes_setPort_enterPort n _ .retrain

theorem replayLimit_elsewhere (h : ¬ ((s.port s.inp.n).st = .active ∧ 9 ≤ (s.port s.inp.n).naks)) : execReplayLimit s = .next s :=
  congrArg Host.Outcome.next (if_neg fun c => h ⟨c.1, of_decide_eq_true c.2⟩)

end Sys2Proof.Machine
end

section
/-! The settled obligation. -/

namespace Sys2Proof.Machine

/-- Settles O58: the search of the FEC reaches what is within four symbols (`mem_symbolBall`) and no more; each event of a port is
a `PortBecomes`. -/
theorem ports : Obligations.Ports := by
  unfold Obligations.Ports
  refine ⟨fun f => ⟨fun h0 h1 => flitCorrect_of_valid f h0 h1, fun h => flitCorrect_isSome h, fun g hg c hc => flitCorrect_spec hg hc⟩,
    fun s hu => ?_⟩
  intro n p moves enters passes becomes
  have move : ∀ {i : Instr} {u : State} {q : Port}, exec i s = .next u → s.PortBecomes n q u → moves i fun u => u.port n = q :=
    fun e h => ⟨_, e, h⟩
  refine ⟨fun hn h => ?enable, fun h1 h2 => ?enabled, fun h => ?detect, fun h => ?polarity, fun h => ?deskew, fun h => ?fecLock,
    fun h => ?credit, fun h => ?retrain, fun h f hf hg => ?grant, fun h => ⟨fun h9 => ?limit, fun h9 => ?below, fun hf => ?lost,
    fun f hf => ⟨fun hg => ?bad, fun hg hs => ?gap, fun hg hs => ?good⟩⟩, fun ha hc hr => flitReceive_elsewhere ha hc hr,
    fun h => replayLimit_elsewhere fun c => h c.1⟩
  case enable => exact move (show execPortEnable s = _ from congrArg Host.Outcome.next (if_pos ⟨hn, h⟩)) (portBecomes_enterPort n .detect)
  case enabled => exact show execPortEnable s = _ from congrArg Host.Outcome.next (if_neg fun c => c.2.elim h1 h2)
  case detect =>
    exact passes_training rfl h (show execDetectDone s = _ from rfl) (show execDetectTimeout s = _ from rfl)
      (portBecomes_enterPort n .polarity) ((portBecomes_enterPort n .disabled).of_same rfl rfl)
  case polarity =>
    exact passes_training rfl h (show execPolarityDone s = _ from rfl) (show execPolarityTimeout s = _ from rfl)
      (portBecomes_enterPort n .deskew) (portBecomes_enterPort n .detect)
  case deskew =>
    exact passes_training rfl h (show execDeskewDone s = _ from rfl) (show execDeskewTimeout s = _ from rfl)
      (portBecomes_enterPort n .fecLock) (portBecomes_enterPort n .detect)
  case fecLock =>
    exact passes_training rfl h (show execFeclockDone s = _ from rfl) (show execFeclockTimeout s = _ from rfl)
      (portBecomes_setPort_enterPort n _ .credit) (portBecomes_enterPort n .detect)
  case credit =>
    obtain ⟨inTime, late⟩ := passes_training (done := .creditDone) (late := .creditTimeout) rfl h
      (show execCreditDone s = _ from rfl) (show execCreditTimeout s = _ from rfl)
      ((portBecomes_setPort n _).of_same (congrArg State.ports (pump_idle hu)) (congrArg State.mem (pump_idle hu)))
      (portBecomes_enterPort n .detect)
    exact ⟨fun ht => (inTime ht).1, fun ht => (late ht).1⟩
  case retrain =>
    obtain ⟨inTime, late⟩ := passes_training (done := .retrainDone) (late := .retrainTimeout) rfl h
      (show execRetrainDone s = _ from rfl) (show execRetrainTimeout s = _ from rfl)
      ((portBecomes_setPort n _).of_same (congrArg State.ports (pump_idle hu)) (congrArg State.mem (pump_idle hu)))
      (portBecomes_portDown n)
    exact ⟨fun ht => (inTime ht).1, fun ht => (late ht).1⟩
  case grant =>
    refine move (flitReceive_grant h) ?_
    rw [hf, grant_good _ hg]
    exact portBecomes_setPort n _
  case limit =>
    intro es
    exact ⟨_, replayLimit_active h h9, portBecomes_limit n⟩
  case below => exact replayLimit_elsewhere fun c => Nat.not_le.mpr h9 c.2
  case lost =>
    obtain ⟨u, e, nak, rest, -⟩ := flitReceive_active hu h
    rw [hf] at nak
    exact ⟨u, e, nak, rest⟩
  case bad =>
    obtain ⟨u, e, nak, rest, -⟩ := flitReceive_active hu h
    rw [hf, receive_bad _ (mt flitGood_iff.mp hg)] at nak
    exact ⟨u, e, nak, rest⟩
  case gap =>
    obtain ⟨u, e, nak, rest, -⟩ := flitReceive_active hu h
    rw [hf, receive_out_of_order _ (flitGood_iff.mpr hg) hs] at nak
    exact ⟨u, e, nak, rest⟩
  case good =>
    obtain ⟨u, e, nak, rest, limit⟩ := flitReceive_active hu h
    rw [hf, receive_in_order _ (flitGood_iff.mpr hg) hs] at nak limit
    refine ⟨u, e, ⟨unacked (f / 2 ^ 40 % 4096) p.replay, (p.take (s.isFor n f) f).naks, fun r => mem_unacked, List.filter_sublist,
      take_naks_stuck p _, take_naks_moved p _, ?_, limit rfl⟩, rest⟩
    exact (nak.eq_of_none rfl).trans (take_eq p (s.isFor n f) f)

end Sys2Proof.Machine
end

section
/-! SUPPORT. Calls of harts and the ends of harts (R54, R74, R280): what the return of a call and an EXIT make of the hart. -/

namespace Sys2Proof.Machine

variable {s : State}

/-! ### Calls (R54) -/

/-- ECALL where no STOREPEND is due and everything is drained. -/
theorem exec_ecall_calls (q : s.hart.quiet) (d : s.drained s.hart 3 = true) : exec .ecall s = .next
    (({ s with hart := { s.hart with links := [], inCall := true, wait := none } } : State).later
      (serviceEvent (s.rx 16).toNat (s.rx 17).toNat) s.hart.callInput) :=
  show execEcall s = _ by rw [execEcall, trigger_quiet _ q, waitDrained_ok d]; rfl

/-- A change of harts by a test that, of the contexts there are, the hart whose turn it is alone passes. -/
theorem mapHarts_turn {p : Hart → Bool} (f : Hart → Hart) (hr : s.hart.run ≠ .idle) (hp : p s.hart = true)
    (ho : ∀ g ∈ s.others, p g = false) : s.mapHarts p f = { s with hart := f s.hart } := by
  have others : (s.others.map fun h => if (decide (h.run ≠ .idle) && p h) = true then f h else h) = s.others :=
    (List.map_congr_left fun g hg => if_neg (by simp [ho g hg])).trans (List.map_id' _)
  have turn : (if (decide (s.hart.run ≠ .idle) && p s.hart) = true then f s.hart else s.hart) = f s.hart := if_pos (by simp [hr, hp])
  rw [State.mapHarts, others]
  dsimp only
  rw [turn]

/-- The saved context of the hart whose turn it is. -/
theorem resave_turn (hr : s.hart.run ≠ .idle) : s.resave s.hart.id =
    if s.hart.spilled then s.postFront .spillDone { n := s.hart.id, k := 1 } else s := by
  have found : s.hartOf s.hart.id = some s.hart := by simp [State.hartOf, State.harts, hr]
  rw [State.resave, found]

/-- The return of a call writes x16. -/
theorem callDone_rx (h : Hart) (r : Word) (n : Nat) : (h.callDone r).rx n = if n = 16 then r else h.rx n :=
  (Hart.rx_wx { h with inCall := false } 16 n r).trans (by simp; rfl)

/-- The return of the call of the hart whose turn it is. -/
theorem exec_ecallReturn_turn (hn : s.hart.id = s.inp.n) (hc : s.hart.inCall = true) (hr : s.hart.run ≠ .idle)
    (ho : ∀ g ∈ s.others, g.id ≠ s.inp.n) : exec .ecallReturn s = .next { s with
      hart := s.hart.callDone s.inp.a1,
      events := (if s.hart.spilled then [(.spillDone, { n := s.inp.n, k := 1 })] else []) ++ s.events } := by
  show execEcallReturn s = _
  rw [execEcallReturn, mapHarts_turn _ hr (by simp [hn, hc]) fun g hg => by simp [ho g hg]]
  have back := resave_turn (s := { s with hart := s.hart.callDone s.inp.a1 }) hr
  rw [show ({ s with hart := s.hart.callDone s.inp.a1 } : State).hart.id = s.inp.n from hn] at back
  rw [back, show ({ s with hart := s.hart.callDone s.inp.a1 } : State).hart.spilled = s.hart.spilled from rfl]
  cases s.hart.spilled <;> rfl

/-! ### EXIT (R74) -/

/-- The hart whose turn it is once it has executed EXIT. -/
def Hart.exit (h : Hart) : Hart := { h with run := .exited, ended := true, wait := none }

/-- Waking a crew touches the wake latches alone. -/
theorem wakeCrew_hart (s : State) (cid : Nat) : ∃ w, (s.wakeCrew cid).hart = { s.hart with wake := w } := by
  rw [State.wakeCrew, State.mapHarts]
  dsimp only
  split
  · exact ⟨true, rfl⟩
  · exact ⟨s.hart.wake, rfl⟩

/-- While another hart of the crew runs, an EXIT ends its own hart and neither the crew nor anything in memory. -/
theorem endHart_of_mate {g : Hart} (hg : g ∈ s.others) (hr : g.run ≠ .idle) (hc : g.crewid = s.hart.crewid) (he : g.ended = false) :
    (∃ w, s.endHart.hart = { s.hart.exit with wake := w }) ∧ s.endHart.mem = s.mem ∧ s.endHart.crews = s.crews := by
  have mate : g ∈ ({ s with hart := s.hart.exit } : State).crewHarts s.hart.crewid.toNat := by
    simp [State.crewHarts, State.harts, hg, hr, hc]
  have runs : ¬ (({ s with hart := s.hart.exit } : State).crewHarts s.hart.crewid.toNat).all Hart.ended = true := fun h => by
    simpa [he] using List.all_eq_true.mp h g mate
  rw [State.endHart]
  dsimp only
  rw [← Hart.exit, if_neg runs]
  split
  · exact ⟨wakeCrew_hart _ _, rfl, rfl⟩
  · exact ⟨⟨s.hart.wake, rfl⟩, rfl, rfl⟩

/-- EXIT inside a handler takes ILLEGAL. -/
theorem exec_exit_handler (h : s.hart.hact = true) : exec .exit s = .next (s.illegal .exit) := by
  show execExit s = _
  rw [execExit, h]
  simp [State.exitNow, h]

/-- EXIT outside a handler with nothing left to wait for. -/
theorem exec_exit_drained (h : s.hart.hact = false) (hq : s.hart.sfrq = []) (hd : s.drained s.hart 4 = true) :
    exec .exit s = .next s.endHart := by
  show execExit s = _
  rw [execExit, h, Hart.storepend_quiet (.inl hq)]
  simp [State.exitNow, h, State.waitStores, waitDrained_ok hd, trigger_quiet _ (.inl hq)]

end Sys2Proof.Machine
end

section
/-! The settled obligation. -/

namespace Sys2Proof.Machine

/-- Settles O18: the call and its return are the hart's alone (`exec_ecallReturn_turn`); so is an EXIT while a mate runs, wake latches
apart (`endHart_of_mate`). -/
theorem callsAndExit : Obligations.CallsAndExit := by
  unfold Obligations.CallsAndExit
  refine ⟨fun s => ⟨fun q d hj => ?call, fun hn hc hr ho => ?returns⟩, fun s => ⟨exec_exit_handler, fun h hq hd hr mate => ?exits⟩⟩
  case call =>
    rw [exec_ecall_calls q d, State.later]
    dsimp only
    rw [hj]
    rfl
  case returns =>
    refine ⟨_, exec_ecallReturn_turn hn hc hr ho, ?_, fun r hr => ?_, rfl, rfl, rfl, ?_⟩
    · exact callDone_rx _ _ _
    · exact (callDone_rx _ _ _).trans (if_neg fun e => hr (BitVec.eq_of_toNat_eq e))
    · rfl
  case exits =>
    obtain ⟨g, hg, hgr, hgc, hge⟩ := mate
    obtain ⟨⟨w, hart⟩, mem, crews⟩ := endHart_of_mate hg hgr hgc hge
    refine ⟨_, exec_exit_drained h hq hd, ?_⟩
    rw [hart]
    exact ⟨rfl, rfl, mem, rfl, rfl, crews, rfl⟩

end Sys2Proof.Machine
end

section
/-! SUPPORT. Collectives (R60, R429): what one of Riura's calls reaches of a collective, and the ends of memberships. -/

namespace Sys2Proof.Machine

variable {s : State} {k : Nat} {c : CollDesc}

/-! ### The calls -/

theorem gives_app (s : State) (k : Nat) (r : Word) : (s.gives k r).app k = { s.app k with ctlA0 := r, pend := none } :=
  (app_setApp _ _ _ _).trans (if_pos rfl)

theorem gives_coll (s : State) (k : Nat) (r : Word) (cid : Nat) : ((s.gives k r).app k).coll cid = (s.app k).coll cid := by
  rw [gives_app]
  rfl

theorem gives_windows (s : State) (k : Nat) (r : Word) : ((s.gives k r).app k).windows = (s.app k).windows := by rw [gives_app]

theorem ret_setApp {j : Nat} (a : App) (r : Word) (h : s.inp.caller = .ctl k) : (s.setApp j a).ret r = (s.setApp j a).gives k r :=
  ret_ctl r h

/-- A call whose descriptor names the operation: E_INVAL where a field that must be zero is not. -/
theorem collective_ctl (other : Bool) (f : State → Nat → CollDesc → State) (h : s.ctlCalls k)
    (hd : s.readDesc k s.inp.a1.toNat = some c) :
    s.collective c.op other f = .next (if c.clean then f s k c else s.gives k eInval) := by
  simp only [State.collective, h.1, hd, if_true, service_ctl _ _ h, ret_ctl _ h.1]

theorem collective_clean (other : Bool) (f : State → Nat → CollDesc → State) (h : s.ctlCalls k)
    (hd : s.readDesc k s.inp.a1.toNat = some c) (hc : c.clean = true) {op : Nat} (ho : c.op = op) :
    s.collective op other f = .next (f s k c) := by
  rw [← ho, collective_ctl other f h hd, if_pos hc]

/-- CREATE answers a descriptor with a reserved operation too. -/
theorem exec_collectiveCreate_reserved (h : s.ctlCalls k) (hd : s.readDesc k s.inp.a1.toNat = some c) (ho : 5 ≤ c.op) :
    exec .collectiveCreate s = .next (s.gives k eInval) := by
  show execCollectiveCreate s = _
  have other : c.op ≠ 0 := by omega
  simp only [execCollectiveCreate, State.collective, h.1, hd, other, ho, if_false, Bool.true_and, decide_true, if_true, service_ctl _ _ h,
    ret_ctl _ h.1]

/-- CREATE answers a descriptor that cannot be read. -/
theorem exec_collectiveCreate_unread (h : s.ctlCalls k) (hd : s.readDesc k s.inp.a1.toNat = none) :
    exec .collectiveCreate s = .next (s.gives k eInval) := by
  show execCollectiveCreate s = _
  simp only [execCollectiveCreate, State.collective, h.1, hd, if_true, service_ctl _ _ h, ret_ctl _ h.1]

theorem exec_collectiveCreate_unclean (h : s.ctlCalls k) (hd : s.readDesc k s.inp.a1.toNat = some c) (ho : c.op = 0) (hc : c.clean = false) :
    exec .collectiveCreate s = .next (s.gives k eInval) := by
  show execCollectiveCreate s = _
  rw [execCollectiveCreate, ← ho, collective_ctl _ _ h hd, if_neg (by simp [hc])]

/-- Notices put out for other packages. -/
def State.putOut (s : State) (out : List (Instr × Input)) : State := { s with outbox := s.outbox ++ out }

@[simp] theorem State.putOut_app (s : State) (out k) : (s.putOut out).app k = s.app k := rfl

@[simp] theorem State.putOut_inp (s : State) (out) : (s.putOut out).inp = s.inp := rfl

/-- The collective that CREATE makes. -/
def newColl (cid : Nat) (ms : List Nat) : Coll := { cid := cid, members := ms, ended := [], state := .active, bars := [] }

section
variable (h : s.ctlCalls k) (hd : s.readDesc k s.inp.a1.toNat = some c) (hc : c.clean = true)

include h hd hc

/-- CREATE of a list of packages of the domain, none twice, this one among them. -/
theorem exec_collectiveCreate {ms : List Nat} (ho : c.op = 0) (h1 : 1 ≤ c.nmem) (h2 : c.nmem ≤ 1024)
    (hm : s.readMembers k c.arg c.nmem = some ms) (range : ∀ p ∈ ms, p < 1024 ∧ s.domain.contains p = true)
    (once : (distinct ms []).length = ms.length) (own : ms.contains s.pkg = true) : exec .collectiveCreate s = .next (
    if ((s.app k).coll c.cid).isSome then s.gives k eBusy
    else if s.remoteMasked k then s.gives k ePerm
    else (s.setApp k { s.app k with colls := (s.app k).colls ++ [newColl c.cid ms] }).gives k (num c.cid)) := by
  show execCollectiveCreate s = _
  have size : ¬ (c.nmem = 0 ∨ 1024 < c.nmem) := by omega
  have listed : ¬ ((ms.any fun p => decide (1024 ≤ p)) = true ∨ (distinct ms []).length ≠ ms.length ∨ (!ms.contains s.pkg) = true) := by
    simp only [List.any_eq_true, decide_eq_true_eq, once, own]
    rintro (⟨p, hp, le⟩ | f | f)
    · exact Nat.not_le.mpr (range p hp).1 le
    · exact f rfl
    · cases f
  have known : ¬ (ms.any fun p => !s.domain.contains p) = true := by
    simp only [List.any_eq_true, not_exists, not_and]
    exact fun p hp => by rw [(range p hp).2]; decide
  rw [execCollectiveCreate, collective_clean _ _ h hd hc ho, if_neg size, hm]
  dsimp only
  rw [if_neg listed, if_neg known]
  simp only [ret_ctl _ h.1, ret_setApp _ _ h.1]
  rfl

/-- ADDWIN of a record that nothing refutes. -/
theorem exec_collectiveAddwin {w : Window} (ho : c.op = 1) (hw : s.readWindow k c.arg c.cid = some w) (other : (w.red && s.inp.flag) = false) :
    exec .collectiveAddwin s = .next (
    if (s.app k).windows.any fun x => decide (x.win = w.win) then s.gives k eBusy
    else match (s.app k).coll c.cid with
      | none => s.gives k eNoent
      | some q =>
        if s.remoteMasked k then s.gives k ePerm
        else if q.state = .done then s.gives k 0
        else (s.setApp k { s.app k with windows := (s.app k).windows ++ [w] }).gives k 0) := by
  show execCollectiveAddwin s = _
  rw [execCollectiveAddwin, collective_clean _ _ h hd hc ho, hw]
  dsimp only
  rw [if_neg (by simp [other])]
  simp only [ret_ctl _ h.1, ret_setApp _ _ h.1] <;> rfl

/-- ADDBAR of an object that can be read. -/
theorem exec_collectiveAddbar (ho : c.op = 2) (ha : c.arg % 16 = 0) (hr : s.readFor k ctlWho c.arg 16 ≠ none) : exec .collectiveAddbar s = .next (
    if ((s.app k).coll c.cid).isNone then s.gives k eNoent
    else if s.remoteMasked k then s.gives k ePerm
    else (s.updColl k c.cid fun q => { q with bars := q.bars ++ [c.arg] }).gives k 0) := by
  show execCollectiveAddbar s = _
  have fits : ¬ (c.arg % 16 ≠ 0 ∨ (s.readFor k ctlWho c.arg 16).isNone = true) := by simpa [ha] using hr
  rw [execCollectiveAddbar, collective_clean _ _ h hd hc ho, if_neg fits]
  simp only [ret_ctl _ h.1, State.updColl, ret_setApp _ _ h.1]

/-- WAIT, no call of the control program waiting. -/
theorem exec_collectiveWait (ho : c.op = 3) : exec .collectiveWait s = .next (match (s.app k).coll c.cid with
    | none => s.gives k eNoent
    | some q =>
      if s.remoteMasked k then s.gives k ePerm
      else match q.state.result with
        | some r => s.gives k r
        | none => s.block k (.collective c.cid) (BitVec.ofNat 64 c.timeout)) := by
  show execCollectiveWait s = _
  have idle : (s.app k).waitsForColl = none := by rw [App.waitsForColl, h.2.2]
  rw [execCollectiveWait, h.1]
  dsimp only
  rw [idle, collective_clean _ _ h hd hc ho]
  simp only [ret_ctl _ h.1] <;> rfl

/-- The notices of an END to the other members. -/
def endNotices (q : Coll) (pkg cid : Nat) : List (Instr × Input) := (q.members.filter fun p => decide (p ≠ pkg)).map fun p =>
  (.collectiveEnd, { n := p, m := pkg, k := cid, flag := true })

/-- END, called here. -/
theorem exec_collectiveEnd (ho : c.op = 4) (hf : s.inp.flag = false) : exec .collectiveEnd s = .next (match (s.app k).coll c.cid with
    | none => s.gives k eNoent
    | some q =>
      if s.remoteMasked k then s.gives k ePerm
      else ((s.endMember k c.cid s.pkg).putOut (endNotices q s.pkg c.cid)).ret 0) := by
  show execCollectiveEnd s = _
  rw [execCollectiveEnd, hf, if_neg (by decide), collective_clean _ _ h hd hc ho]
  simp only [ret_ctl _ h.1] <;> rfl

end

/-! ### The end of a membership -/

/-- A collective once a package has ended its membership. -/
def Coll.afterEnd (q : Coll) (pkg : Nat) : Coll :=
  let e := if q.ended.contains pkg then q.ended else q.ended ++ [pkg]
  { q with ended := e, state := if q.state = .active ∧ q.members.all e.contains then .done else q.state }

theorem mem_afterEnd_ended (q : Coll) (pkg p : Nat) : p ∈ (q.afterEnd pkg).ended ↔ p ∈ q.ended ∨ p = pkg := by
  simp only [Coll.afterEnd, List.contains_eq_mem, decide_eq_true_eq]
  split
  · next h => exact ⟨.inl, fun o => o.elim id fun e => e ▸ h⟩
  · simp

theorem afterEnd_all (q : Coll) (pkg : Nat) :
    q.members.all (q.afterEnd pkg).ended.contains = true ↔ ∀ p ∈ q.members, p ∈ q.ended ∨ p = pkg := by
  simp [List.all_eq_true, mem_afterEnd_ended]

/-- A collective in use is done once every member has ended. -/
theorem afterEnd_done {q : Coll} (pkg : Nat) (h : q.state = .active) :
    (q.afterEnd pkg).state = .done ↔ ∀ p ∈ q.members, p ∈ q.ended ∨ p = pkg := by
  rw [← afterEnd_all]
  show (if q.state = .active ∧ q.members.all (q.afterEnd pkg).ended.contains = true then _ else _) = _ ↔ _
  split
  · next c => exact iff_of_true rfl c.2
  · next c => exact iff_of_false (by simp [h]) fun a => c ⟨h, a⟩

/-- A membership ends once. -/
theorem afterEnd_afterEnd (q : Coll) (pkg : Nat) : (q.afterEnd pkg).afterEnd pkg = q.afterEnd pkg := by
  have ended : ((q.afterEnd pkg).afterEnd pkg).ended = (q.afterEnd pkg).ended :=
    if_pos (by simpa using (mem_afterEnd_ended q pkg pkg).mpr (.inr rfl))
  have state : ((q.afterEnd pkg).afterEnd pkg).state = (q.afterEnd pkg).state := by
    refine if_neg fun ⟨a, b⟩ => ?_
    change q.members.all ((q.afterEnd pkg).afterEnd pkg).ended.contains = true at b
    rw [ended, afterEnd_all] at b
    have active : q.state = .active := by
      by_contra n
      exact n ((if_neg fun c => n c.1).symm.trans a)
    exact CollState.noConfusion (((afterEnd_done pkg active).mpr b).symm.trans a)
  exact congrArg₂ (fun e st => ({ q with ended := e, state := st } : Coll)) ended state

/-- A change of the collectives of a number that keeps their number. -/
theorem coll_updColl (cid : Nat) (f : Coll → Coll) (hf : ∀ q, (f q).cid = q.cid) :
    ((s.updColl k cid f).app k).coll cid = ((s.app k).coll cid).map f := by
  have same : ((fun q => decide (q.cid = cid)) ∘ fun q : Coll => if q.cid = cid then f q else q) = fun q => decide (q.cid = cid) := by
    funext q
    dsimp only [Function.comp]
    split <;> simp [*]
  rw [State.updColl, app_setApp, if_pos rfl, App.coll, List.find?_map, same]
  show _ = (List.find? _ _).map f
  cases e : (s.app k).colls.find? fun q => decide (q.cid = cid) with
  | none => rfl
  | some q => exact congrArg some (if_pos (by simpa using List.find?_some e))

@[simp] theorem State.lookColl_apps (s : State) (k cid : Nat) : (s.lookColl k cid).apps = s.apps := by
  unfold State.lookColl
  (repeat' split) <;> simp

@[simp] theorem State.lookColl_outbox (s : State) (k cid : Nat) : (s.lookColl k cid).outbox = s.outbox := by
  unfold State.lookColl
  (repeat' split) <;> simp

@[simp] theorem State.lookColl_inp (s : State) (k cid : Nat) : (s.lookColl k cid).inp = s.inp := by
  unfold State.lookColl
  (repeat' split) <;> simp

/-- A package's membership of an application's collective of a number reckoned as ended. -/
def State.leave (s : State) (k cid pkg : Nat) : State := s.updColl k cid fun q => q.afterEnd pkg

/-- The windows of an application's collective of a number closed. -/
def State.closeWindows (s : State) (k cid : Nat) : State :=
  (s.setApp k { s.app k with windows := (s.app k).windows.filter fun w => decide (w.cid ≠ cid) }).lookColl k cid

theorem leave_coll (s : State) (k cid pkg : Nat) :
    ((s.leave k cid pkg).app k).coll cid = ((s.app k).coll cid).map fun q => q.afterEnd pkg := coll_updColl cid _ fun _ => rfl

theorem closeWindows_app (s : State) (k cid j : Nat) : (s.closeWindows k cid).app j =
    if j = k then { s.app k with windows := (s.app k).windows.filter fun w => decide (w.cid ≠ cid) } else s.app j := by
  rw [State.app, State.closeWindows, State.lookColl_apps]
  exact app_setApp _ _ _ _

theorem closeWindows_coll (s : State) (k cid : Nat) : ((s.closeWindows k cid).app k).coll cid = (s.app k).coll cid := by
  rw [closeWindows_app, if_pos rfl]
  rfl

theorem endMember_none {cid : Nat} (pkg : Nat) (h : (s.app k).coll cid = none) : s.endMember k cid pkg = s.leave k cid pkg := by
  have left := leave_coll s k cid pkg
  rw [h] at left
  show (match ((s.leave k cid pkg).app k).coll cid with | none => _ | some q => _) = _
  rw [left] <;> rfl

/-- The end of a membership: it is reckoned, and the windows close once every member has ended. -/
theorem endMember_some {cid : Nat} {q : Coll} (pkg : Nat) (h : (s.app k).coll cid = some q) : s.endMember k cid pkg =
    if q.members.all (q.afterEnd pkg).ended.contains then (s.leave k cid pkg).closeWindows k cid else s.leave k cid pkg := by
  have left := leave_coll s k cid pkg
  rw [h] at left
  show (match ((s.leave k cid pkg).app k).coll cid with | none => _ | some q => _) = _
  rw [left] <;> rfl

theorem endMember_coll (s : State) (k cid pkg : Nat) :
    ((s.endMember k cid pkg).app k).coll cid = ((s.app k).coll cid).map fun q => q.afterEnd pkg := by
  cases h : (s.app k).coll cid with
  | none => rw [endMember_none pkg h, leave_coll, h]
  | some q =>
    rw [endMember_some pkg h]
    split
    · rw [closeWindows_coll, leave_coll, h]
    · rw [leave_coll, h]

/-- The windows of a collective that all members have left are closed. -/
theorem endMember_windows {cid pkg : Nat} {q : Coll} (h : (s.app k).coll cid = some q)
    (all : ∀ p ∈ q.members, p ∈ q.ended ∨ p = pkg) : ∀ w ∈ ((s.endMember k cid pkg).app k).windows, w.cid ≠ cid := by
  rw [endMember_some pkg h, if_pos ((afterEnd_all q pkg).mpr all), closeWindows_app, if_pos rfl]
  exact fun w hw => of_decide_eq_true (List.mem_filter.mp hw).2

/-- The end of a membership touches no other application. -/
theorem endMember_app_ne {j : Nat} (cid pkg : Nat) (h : j ≠ k) : (s.endMember k cid pkg).app j = s.app j := by
  have left : (s.leave k cid pkg).app j = s.app j := (app_setApp _ _ _ _).trans (if_neg h)
  cases e : (s.app k).coll cid with
  | none => rw [endMember_none pkg e, left]
  | some q =>
    rw [endMember_some pkg e]
    split
    · rw [closeWindows_app, if_neg h, left]
    · exact left

theorem endMember_frame (s : State) (k cid pkg : Nat) : (s.endMember k cid pkg).outbox = s.outbox ∧ (s.endMember k cid pkg).inp = s.inp := by
  cases e : (s.app k).coll cid with
  | none => rw [endMember_none pkg e]; exact ⟨rfl, rfl⟩
  | some q =>
    rw [endMember_some pkg e]
    split
    · simp [State.closeWindows, State.leave, State.updColl]
    · exact ⟨rfl, rfl⟩

/-! ### The END of another package (R60) -/

/-- A membership ended in several applications. -/
theorem foldl_endMember_coll (cid pkg k : Nat) : ∀ (ks : List Nat) (s : State),
    ((ks.foldl (fun t j => t.endMember j cid pkg) s).app k).coll cid =
      if k ∈ ks then ((s.app k).coll cid).map fun q => q.afterEnd pkg else (s.app k).coll cid
  | [], s => by simp
  | j :: ks, s => by
    rw [List.foldl_cons, foldl_endMember_coll cid pkg k ks]
    by_cases h : k = j
    · subst h
      rw [endMember_coll, if_pos List.mem_cons_self, Option.map_map]
      split
      · exact congrFun (congrArg Option.map (funext fun q => afterEnd_afterEnd q pkg)) _
      · rfl
    · rw [endMember_app_ne _ _ h]
      simp [h]

theorem mem_keys_of_mget_ne {α : Type} {d : α} {a : Nat} : ∀ {m : List (Nat × α)}, mget d m a ≠ d → a ∈ m.map Prod.fst
  | [], h => absurd rfl h
  | (b, v) :: m, h => by
    rw [mget] at h
    split at h
    · next e => exact List.mem_cons.mpr (.inl e.symm)
    · exact List.mem_cons_of_mem _ (mem_keys_of_mget_ne h)

/-- Every application with a collective of the number that has the package as a member is a partner. -/
theorem mem_partners {pkg cid : Nat} {q : Coll} (h : (s.app k).coll cid = some q) (hm : pkg ∈ q.members) : k ∈ s.partners pkg cid := by
  refine List.mem_filter.mpr ⟨mem_keys_of_mget_ne (d := {}) fun e => ?_, by simp [h, hm]⟩
  rw [State.app, e] at h
  cases h

end Sys2Proof.Machine
end

section
/-! The settled obligation. -/

namespace Sys2Proof.Machine

/-- Settles O54: each operation's answer is its own lemma; an END, here or of another package, rests on `endMember_some`. -/
theorem collectives : Obligations.Collectives := by
  unfold Obligations.Collectives
  refine ⟨fun s k c h hd => ⟨fun hc ho => exec_collectiveCreate_unclean h hd ho hc, fun ho => exec_collectiveCreate_reserved h hd ho,
      fun hc ho ms h1 h2 hm range once own => ?create, fun hc ho w hw other => ?addwin, fun hc ho ha hr => ?addbar,
      fun hc ho => ?wait, fun hc ho => ⟨fun hf hn => ?endUnknown, fun q hf hq hr hs => ?endHere⟩⟩,
    fun s k h hd => exec_collectiveCreate_unread h hd, fun s hf => ?endThere, fun s k cid dl q hc hp hq => ?waiting⟩
  case create =>
    have run := exec_collectiveCreate h hd hc ho h1 h2 hm range once own
    exact ⟨fun q hq => by rw [run, hq]; rfl, fun hn hr => by rw [run, hn, hr]; rfl⟩
  case addwin =>
    have run := exec_collectiveAddwin h hd hc ho hw other
    refine ⟨fun ⟨x, hx, e⟩ => run.trans (congrArg _ (if_pos (List.any_eq_true.mpr ⟨x, hx, by simp [e]⟩))), fun hn => ?_⟩
    have free : ¬ ((s.app k).windows.any fun x => decide (x.win = w.win)) = true := by simpa using hn
    rw [if_neg free] at run
    exact ⟨fun hq => by rw [run, hq], fun q hq hr hs => by rw [run, hq]; dsimp only; rw [hr, if_neg (by decide), if_neg hs]⟩
  case addbar =>
    have run := exec_collectiveAddbar h hd hc ho ha hr
    exact ⟨fun hn => by rw [run, hn]; rfl, fun q hq hm => by rw [run, hq, hm]; rfl⟩
  case wait =>
    have run := exec_collectiveWait h hd hc ho
    refine ⟨fun hn => by rw [run, hn], fun q hq hr => ?_⟩
    rw [hq] at run
    dsimp only at run
    rw [hr, if_neg (by decide)] at run
    refine ⟨fun hs => by rw [run, hs]; rfl, fun hs => by rw [run, hs]; rfl, fun hs ht => ?_⟩
    rw [run, hs, ht]
    exact congrArg _ ((if_pos rfl).trans (ret_ctl _ h.1))
  case endUnknown => rw [exec_collectiveEnd h hd hc ho hf, hn]
  case endHere =>
    have run := exec_collectiveEnd h hd hc ho hf
    obtain ⟨outbox, inp⟩ := endMember_frame s k c.cid s.pkg
    have coll := endMember_coll s k c.cid s.pkg
    rw [hq] at run coll
    dsimp only at run
    rw [hr, if_neg (by decide), ret_ctl (k := k) _ (by rw [State.putOut_inp, inp, h.1])] at run
    refine ⟨_, q.afterEnd s.pkg, run, ?_, ?_, (mem_afterEnd_ended q s.pkg s.pkg).mpr (.inr rfl), afterEnd_done s.pkg hs, fun hd => ?_, ?_⟩
    · rw [gives_app]
    · rw [gives_coll, State.putOut_app, coll]
      rfl
    · rw [gives_windows, State.putOut_app]
      exact endMember_windows hq ((afterEnd_done s.pkg hs).mp hd)
    · rw [State.gives, State.setApp_outbox, State.putOut, outbox]
      rfl
  case endThere =>
    refine ⟨_, show execCollectiveEnd s = _ from if_pos hf, foldl_mem _ (fun t j => t.endMember_mem _ _ _) _ _, fun k q hq hs hm => ?_⟩
    refine ⟨q.afterEnd s.inp.m, ?_, (mem_afterEnd_ended _ _ _).mpr (.inr rfl), afterEnd_done _ hs⟩
    rw [foldl_endMember_coll, if_pos (mem_partners hq hm), hq]
    rfl
  case waiting =>
    have run : exec .collectiveWait s = .next (q.state.result.elim s (s.gives k)) := by
      show execCollectiveWait s = _
      rw [execCollectiveWait, hc]
      dsimp only
      rw [App.waitsForColl, hp]
      dsimp only
      rw [State.collAgain, hq, Option.bind_some]
      cases q.state.result <;> rfl
    exact ⟨fun hs => by rw [run, hs]; rfl, fun hs => by rw [run, hs]; rfl, fun hs => by rw [run, hs]; rfl⟩

end Sys2Proof.Machine
end

section
/-! SUPPORT. What the accesses of an application depend on (R59, R179 to R194): states that agree on it read and write alike; and the
bytes of numbers. -/

namespace Sys2Proof.Machine

/-- The states agree on all that an access of the application of slot k reads: its translations, memory and poison, the keys, the
headers of encoded pages and the pool links. -/
structure State.SameAccess (s t : State) (k : Nat) : Prop where
  lookup : ∀ w va, (t.app k).lookup w va = (s.app k).lookup w va
  mem : t.mem = s.mem
  poison : t.poison = s.poison
  locked : t.locked = s.locked
  zeroised : t.zeroised = s.zeroised
  segHdr : t.segHdr = s.segHdr
  hdrPoison : t.hdrPoison = s.hdrPoison
  poolADown : t.poolADown = s.poolADown
  poolBDown : t.poolBDown = s.poolBDown

namespace State.SameAccess

variable {s t : State} {k : Nat} (h : s.SameAccess t k)

include h

theorem linkDown (m : MemKind) : t.linkDown m = s.linkDown m := by
  simp only [State.linkDown, h.poolADown, h.poolBDown]

theorem forLoad (x : Option Xlat) : t.forLoad x = s.forLoad x := by
  simp only [State.forLoad, h.linkDown]

theorem forStore (x : Option Xlat) : t.forStore x = s.forStore x := by
  simp only [State.forStore, h.linkDown]

theorem poisoned (pa : Nat) : t.poisoned pa = s.poisoned pa := by
  simp only [State.poisoned, h.poison, h.locked, h.zeroised]

theorem segHeader (f : Fmt) (slot : Nat) : t.segHeader f slot = s.segHeader f slot := by
  rw [State.segHeader, State.segHeader, h.segHdr]

theorem segAt (f : Fmt) (pa : Nat) : t.segAt f pa = s.segAt f pa := by
  simp only [State.segAt, h.segHeader, h.poisoned, h.mem, h.hdrPoison]

theorem readImage (x : Xlat) (va n : Nat) : t.readImage x va n = s.readImage x va n := by
  simp only [State.readImage, h.segAt, h.poisoned, h.mem]

theorem readFor (w : Who) (n : Nat) : ∀ va, t.readFor k w va n = s.readFor k w va n := by
  induction n with
  | zero => exact fun _ => rfl
  | succ n ih => intro va; simp only [State.readFor, State.readByteFor, h.lookup, h.forLoad, h.readImage, ih]

theorem bufOk (w : Who) (va n : Nat) : t.bufOk k w va n = s.bufOk k w va n := by
  simp only [State.bufOk, State.mayWrite, h.lookup, h.forStore, h.poisoned]

theorem cellsFor (w : Who) : ∀ (bs : List Nat) (va : Nat), t.cellsFor k w va bs = s.cellsFor k w va bs
  | [], _ => rfl
  | b :: bs, va => by simp only [State.cellsFor, h.lookup, h.forStore, cellsFor w bs (va + 1)]

theorem writeFor_mem (w : Who) (va : Nat) (bs : List Nat) : (t.writeFor k w va bs).mem = (s.writeFor k w va bs).mem := by
  show putCells t.mem (t.cellsFor k w va bs) = putCells s.mem (s.cellsFor k w va bs)
  rw [h.mem, h.cellsFor]

end State.SameAccess

/-- The machine once no call of the control program of slot k waits. -/
def State.unpend (s : State) (k : Nat) : State := s.setApp k { s.app k with pend := none }

theorem unpend_app (s : State) (k : Nat) : (s.unpend k).app k = { s.app k with pend := none } := (app_setApp _ _ _ _).trans (if_pos rfl)

/-- That a call waits is nothing to the accesses of its application. -/
theorem sameAccess_unpend (s : State) (k : Nat) : s.SameAccess (s.unpend k) k :=
  ⟨fun w va => by rw [unpend_app]; rfl, rfl, rfl, rfl, rfl, rfl, rfl, rfl, rfl⟩

theorem readFor_length {s : State} {k : Nat} {w : Who} : ∀ {n va : Nat} {bs : List Nat}, s.readFor k w va n = some bs → bs.length = n
  | 0, _, _, e => by cases e; rfl
  | n + 1, va, bs, e => by
    rw [State.readFor] at e
    split at e
    · next hb => cases e; rw [List.length_cons, readFor_length hb]
    · cases e
    · cases e

/-! ### Bytes of numbers -/

theorem cellsLE_bytes : ∀ (n a v : Nat), (cellsLE a n v).map Prod.snd = (List.range n).map fun j => v / 256 ^ j % 256
  | 0, _, _ => rfl
  | n + 1, a, v => by
    rw [cellsLE, List.map_cons, cellsLE_bytes n, List.range_succ_eq_map, List.map_cons, List.map_map]
    simp [Function.comp_def, Nat.div_div_eq_div_mul, Nat.pow_succ']

theorem wordBytes_eq (w : Nat) : wordBytes w = (List.range 8).map fun j => bitsAt w (8 * j) 8 := by
  rw [wordBytes, cellsLE_bytes]
  refine List.map_congr_left fun j _ => ?_
  rw [bitsAt, Nat.pow_mul, show (2 : Nat) ^ 8 = 256 from rfl]

theorem wordsBytes_length : ∀ ws : List Nat, (ws.flatMap wordBytes).length = 8 * ws.length
  | [] => rfl
  | w :: ws => by
    rw [List.flatMap_cons, List.length_append, wordsBytes_length ws, wordBytes_eq, List.length_map, List.length_range, List.length_cons]
    omega

theorem leNat_eq_packW : ∀ bs : List Nat, leNat bs = packW 8 bs
  | [] => rfl
  | b :: bs => by rw [leNat, packW, leNat_eq_packW bs, Nat.mul_comm, show (2 : Nat) ^ 8 = 256 from rfl]

end Sys2Proof.Machine
end

section
/-! SUPPORT. Messages between a control program and the host (R50 to R53), and the time limits of calls that wait (R60, R81). -/

namespace Sys2Proof.Machine

variable {s : State} {k : Nat} {buf len limit : Word} {bs : List Nat}

/-! ### A message put into a slot (R50, R51) -/

/-- Words put into consecutive places. -/
theorem mget_putWords (b : Nat) (m : List (Nat × Word)) (i : Nat) (ws : List Nat) (h : i < ws.length) :
    mget 0 ((List.zip (List.range ws.length) ws).foldl (fun (c : List (Nat × Word)) x => mset 0 c (b + x.1) (BitVec.ofNat 64 x.2)) m)
      (b + i) = BitVec.ofNat 64 (ws.getD i 0) := by
  induction ws using List.reverseRecOn with
  | nil => cases h
  | append_singleton ws w ih =>
    rw [List.length_append, List.length_singleton, List.range_succ, List.zip_append (by simp), List.zip_cons_cons, List.zip_nil_right,
      List.foldl_append, List.foldl_cons, List.foldl_nil, mget_mset]
    by_cases e : i = ws.length
    · subst e
      simp
    · rw [List.length_append, List.length_singleton] at h
      rw [if_neg (by omega), ih (by omega), List.getD_append _ _ _ _ (by omega)]

/-- The machine once the message of the bytes `bs` (TAG and payload) stands in the next device-to-host slot of channel k. -/
def State.putMessage (s : State) (k : Nat) (bs : List Nat) : State :=
  { s with
    chan := (List.zip (List.range (slotWords bs).length) (slotWords bs)).foldl (fun c x =>
      mset 0 c (slotWord k true (s.nextSlot k true) + x.1) (BitVec.ofNat 64 x.2)) s.chan,
    d2hNext := mset 0 s.d2hNext k ((s.nextSlot k true + 1) % 64),
    msix := s.msix ++ [1 + k] }

theorem putMessage_nextSlot (s : State) (k : Nat) (bs : List Nat) :
    (s.putMessage k bs).nextSlot k true = (s.nextSlot k true + 1) % 64 := (mget_mset _ _ _ _ _).trans (if_pos rfl)

theorem putMessage_word {i : Nat} (h : i < (slotWords bs).length) :
    mget 0 (s.putMessage k bs).chan (slotWord k true (s.nextSlot k true) + i) = BitVec.ofNat 64 ((slotWords bs).getD i 0) := by
  rw [State.putMessage]
  exact mget_putWords _ _ _ _ h

/-- The header of a message: STATE is FULL, and LEN counts the payload. -/
theorem putMessage_slotHdr {m : Nat} (hm : s.nextSlot k true = m) (h8 : 8 ≤ bs.length) (hl : bs.length ≤ 2040) :
    (s.putMessage k bs).slotHdr k true m = 1 + (bs.length - 8) * 2 ^ 16 := by
  subst hm
  have word := putMessage_word (s := s) (k := k) (bs := bs) (i := 0) (by simp [slotWords])
  rw [Nat.add_zero, slotWords, List.getD_cons_zero] at word
  rw [State.slotHdr, word, BitVec.toNat_ofNat, Nat.mod_eq_of_lt (by omega)]

/-- The bytes after the header of a message. -/
theorem putMessage_slotByte {j : Nat} (hj : j < bs.length) :
    (s.putMessage k bs).slotByte k true (s.nextSlot k true) (8 + j) = bs.getD j 0 % 256 := by
  have inside : j / 8 < ceilDiv bs.length 8 := by unfold ceilDiv; omega
  have word := putMessage_word (s := s) (k := k) (bs := bs) (i := 1 + j / 8) (by simp [slotWords]; omega)
  have nth : (slotWords bs).getD (1 + j / 8) 0 = packW 8 ((bs.drop (8 * (j / 8))).take 8) := by
    rw [Nat.add_comm, slotWords, List.getD_cons_succ]
    simp [List.getD_eq_getElem?_getD, inside, leNat_eq_packW]
  have small : packW 8 ((bs.drop (8 * (j / 8))).take 8) < 2 ^ 64 :=
    (packW_lt _).trans_le (Nat.pow_le_pow_right (by decide) (by simp; omega))
  rw [State.slotByte, show (8 + j) / 8 = 1 + j / 8 by omega, word, nth, BitVec.toNat_ofNat, Nat.mod_eq_of_lt small, byte_packW]
  simp [List.getD_eq_getElem?_getD, List.getElem?_drop, Nat.div_add_mod, Nat.mod_lt]

/-! ### SEND -/

theorem send_long (h : 2032 < len.toNat) : s.send k buf len limit = s.gives k eInval := if_pos h

theorem send_unread (h : len.toNat ≤ 2032) (hr : s.readFor k ctlWho buf.toNat (8 + len.toNat) = none) :
    s.send k buf len limit = s.gives k eInval := by
  rw [State.send, if_neg (Nat.not_lt.mpr h), hr]
  rfl

section
variable (h : len.toNat ≤ 2032) (hr : s.readFor k ctlWho buf.toNat (8 + len.toNat) = some bs)

include h hr

theorem send_waits (hf : s.slotHdr k true (s.nextSlot k true) % 256 = 1) : s.send k buf len limit = s.block k (.send buf len) limit := by
  rw [State.send, if_neg (Nat.not_lt.mpr h), hr]
  exact if_pos hf

theorem send_sends (hf : s.slotHdr k true (s.nextSlot k true) % 256 ≠ 1) : s.send k buf len limit = (s.putMessage k bs).gives k len := by
  rw [State.send, if_neg (Nat.not_lt.mpr h), hr]
  exact if_neg hf

end

/-! ### RECV (R52, R53) -/

/-- Nothing is dropped before a message that is not too long. -/
theorem dropLong_fits (h : s.slotHdr k false (s.nextSlot k false) % 256 = 1 → slotLen (s.slotHdr k false (s.nextSlot k false)) ≤ 2032) :
    ∀ n, s.dropLong k n = s
  | 0 => rfl
  | _ + 1 => if_neg fun c => Nat.not_lt.mpr (h c.1) c.2

theorem recv_waits (h : s.slotHdr k false (s.nextSlot k false) % 256 ≠ 1) :
    s.recv k buf len limit = s.block k (.recv buf len) limit := by
  rw [State.recv, dropLong_fits fun c => absurd c h]
  exact if_pos h

/-- TAG and payload of the next host-to-device message of channel k. -/
def State.message (s : State) (k : Nat) : List Nat :=
  (List.range (8 + slotLen (s.slotHdr k false (s.nextSlot k false)))).map fun j => s.slotByte k false (s.nextSlot k false) (8 + j)

/-- RECV takes TAG as the word after the header, and the payload byte by byte. -/
theorem message_eq (s : State) (k : Nat) : s.message k = wordBytes (mget 0 s.chan (slotWord k false (s.nextSlot k false) + 1)).toNat ++
    (List.range (slotLen (s.slotHdr k false (s.nextSlot k false)))).map fun i => s.slotByte k false (s.nextSlot k false) (16 + i) := by
  rw [State.message, List.range_add, List.map_append, wordBytes_eq, List.map_map]
  refine congrArg₂ (· ++ ·) (List.map_congr_left fun j hj => ?_) (List.map_congr_left fun j _ => ?_)
  · have := List.mem_range.mp hj
    rw [State.slotByte, show (8 + j) / 8 = 1 by omega, show (8 + j) % 8 = j by omega]
  · rw [Function.comp, ← Nat.add_assoc]

theorem setSlotState_slotHdr (s : State) (k : Nat) (d2h : Bool) (m : Nat) : (s.setSlotState k d2h m 0).slotHdr k d2h m % 256 = 0 := by
  have word : mget 0 (s.setSlotState k d2h m 0).chan (slotWord k d2h m) = BitVec.ofNat 64 (s.slotHdr k d2h m / 256 * 256 + 0) :=
    (mget_mset _ _ _ _ _).trans (if_pos rfl)
  rw [State.slotHdr, word, BitVec.toNat_ofNat]
  omega

/-- The machine once the control program of slot k has received the next message into `buf`. -/
def State.received (s : State) (k : Nat) (buf : Word) : State :=
  (((s.writeFor k ctlWho buf.toNat (s.message k)).setSlotState k false (s.nextSlot k false) 0).passH2d k).gives k
    (num (slotLen (s.slotHdr k false (s.nextSlot k false))))

theorem received_nextSlot (s : State) (k : Nat) (buf : Word) : (s.received k buf).nextSlot k false = (s.nextSlot k false + 1) % 64 :=
  (mget_mset _ _ _ _ _).trans (if_pos rfl)

theorem received_slotHdr (s : State) (k : Nat) (buf : Word) : (s.received k buf).slotHdr k false (s.nextSlot k false) % 256 = 0 := by
  have chan : (s.received k buf).chan =
      ((s.writeFor k ctlWho buf.toNat (s.message k)).setSlotState k false (s.nextSlot k false) 0).chan := rfl
  rw [State.slotHdr, chan]
  exact setSlotState_slotHdr _ _ _ _

theorem recv_takes (h : s.slotHdr k false (s.nextSlot k false) % 256 = 1) (h1 : slotLen (s.slotHdr k false (s.nextSlot k false)) ≤ 2032)
    (h2 : 8 + slotLen (s.slotHdr k false (s.nextSlot k false)) ≤ len.toNat)
    (hb : s.bufOk k ctlWho buf.toNat (8 + slotLen (s.slotHdr k false (s.nextSlot k false))) = true) :
    s.recv k buf len limit = s.received k buf := by
  rw [State.recv, dropLong_fits fun _ => h1]
  dsimp only
  rw [if_neg (not_not_intro h), if_neg (Nat.not_lt.mpr h2), if_pos hb, ← message_eq]
  rfl

/-! ### Calls that wait (R53, R57) -/

theorem block_zero (p : PendKind) (hc : s.inp.caller = .ctl k) (h : limit = 0) : s.block k p limit = s.gives k eAgain :=
  (if_pos h).trans (ret_ctl _ hc)

theorem block_waits (p : PendKind) (h : limit ≠ 0) : s.block k p limit = s.setApp k { s.app k with
    pend := some ⟨p, if limit = forever then none else some (s.clk + limit.toNat * 1100)⟩ } := if_neg h

/-- The device-to-host slot that the host has released is free. -/
def State.freed (s : State) (k : Nat) : State := s.setSlotState k true (s.inp.m % 64) 0

/-- The state of a slot is nothing to the accesses of an application. -/
theorem sameAccess_freed (s : State) (k : Nat) : s.SameAccess (s.freed k) k :=
  ⟨fun _ _ => rfl, rfl, rfl, rfl, rfl, rfl, rfl, rfl, rfl⟩

theorem exec_d2hSlotRelease (hn : s.inp.n % 64 = k) : exec .d2hSlotRelease s = .next ((s.freed k).resumeMsg k) := by
  show execD2hSlotRelease s = _
  rw [execD2hSlotRelease, hn]
  rfl

theorem resumeMsg_idle (h : (s.app k).pend = none) : s.resumeMsg k = s := by
  rw [State.resumeMsg, h]

/-- A waiting SEND that is served. -/
theorem resumeMsg_send {l : Option Nat} (h : (s.app k).pend = some ⟨.send buf len, l⟩)
    (served : (((s.unpend k).send k buf len forever).app k).pend = none) :
    s.resumeMsg k = (s.unpend k).send k buf len forever := by
  rw [State.resumeMsg, h]
  exact if_neg (by rw [← State.unpend, served]; decide)

/-- A waiting RECV that is served. -/
theorem resumeMsg_recv {l : Option Nat} (h : (s.app k).pend = some ⟨.recv buf len, l⟩)
    (served : (((s.unpend k).recv k buf len forever).app k).pend = none) :
    s.resumeMsg k = (s.unpend k).recv k buf len forever := by
  rw [State.resumeMsg, h]
  exact if_neg (by rw [← State.unpend, served]; decide)

theorem gives_slotHdr (s : State) (k : Nat) (r : Word) (j : Nat) (d2h : Bool) (m : Nat) :
    (s.gives k r).slotHdr j d2h m = s.slotHdr j d2h m := rfl

theorem gives_pend (s : State) (k : Nat) (r : Word) : ((s.gives k r).app k).pend = none := by rw [gives_app]

theorem gives_ctlA0 (s : State) (k : Nat) (r : Word) : ((s.gives k r).app k).ctlA0 = r := by rw [gives_app]

/-! ### Time limits (R60, R81) -/

section
variable {q : PendKind} {d : Nat} (p : PendKind → Bool) (hc : s.inp.caller = .ctl k) (hp : (s.app k).pend = some ⟨q, some d⟩)

include hc hp

theorem timeOut_passed (hq : p q = true) (hd : d ≤ s.clk) : s.timeOut p = s.gives k ((s.app k).expiredA0 q) := by
  rw [State.timeOut, hc]
  dsimp only
  rw [hp]
  exact if_pos ⟨hq, hd⟩

theorem timeOut_early (hd : s.clk < d) : s.timeOut p = s := by
  rw [State.timeOut, hc]
  dsimp only
  rw [hp]
  exact if_neg fun c => Nat.not_le.mpr hd c.2

end

end Sys2Proof.Machine
end

section
/-! The settled obligation. -/

namespace Sys2Proof.Machine

/-- Settles O47: the slot of a message sent is read by the `putMessage_` lemmas, that of one taken by the `received_` lemmas; a
waiting call is looked at again by `resumeMsg_send` and `resumeMsg_recv`, and its time limit is `timeOut_passed`. -/
theorem hostMessages : Obligations.HostMessages := by
  unfold Obligations.HostMessages
  intro s k bs buf len m q n sends receives waits
  have waiting : ∀ {i : Instr} {p : PendKind}, s.inp.caller = .ctl k → exec i s = .next (s.block k p s.inp.a4) → waits i p :=
    fun hc run => ⟨fun h => run.trans (congrArg _ (block_zero _ hc h)), fun h => run.trans (congrArg _ (block_waits _ h))⟩
  refine ⟨fun h h1 h2 h3 => ?send, fun h h1 h2 h3 => ?recv, fun l hn hp => ?arrives, fun hn hp hl => ?unasked, fun hn hp => ?released,
    fun l hn hp hl hr hf => ?resumed, fun p d lid hc hp => ?limits⟩
  case send =>
    have run : exec .hostmsgSend s = .next (s.send k buf len s.inp.a4) := by
      show execHostmsgSend s = _
      rw [execHostmsgSend, service_ctl _ _ h, if_pos h1, h2, h3]
    refine ⟨fun hl hr hf => ?_, fun hl => run.trans (congrArg _ (send_long hl)), fun hl hr => run.trans (congrArg _ (send_unread hl hr)),
      fun hl hr hf => waiting h.1 (run.trans (congrArg _ (send_waits hl hr hf)))⟩
    have size := readFor_length hr
    have hdr := putMessage_slotHdr (s := s) (k := k) (bs := bs) rfl (by omega) (by omega)
    refine ⟨_, run.trans (congrArg _ (send_sends hl hr hf)), rfl, gives_ctlA0 _ _ _, gives_pend _ _ _, putMessage_nextSlot s k bs, ?_, ?_,
      fun j hj => putMessage_slotByte (size ▸ hj), rfl⟩
    · rw [gives_slotHdr, hdr]; omega
    · rw [gives_slotHdr, hdr, slotLen, bitsAt]; omega
  case recv =>
    have run : exec .hostmsgRecv s = .next (s.recv k buf len s.inp.a4) := by
      show execHostmsgRecv s = _
      rw [execHostmsgRecv, service_ctl _ _ h, if_pos h1, h2, h3]
    refine ⟨fun hs hl hb ho => ?_, fun hs => waiting h.1 (run.trans (congrArg _ (recv_waits hs)))⟩
    exact ⟨_, run.trans (congrArg _ (recv_takes hs hl hb ho)), gives_ctlA0 _ _ _, gives_pend _ _ _, received_nextSlot s k buf,
      received_slotHdr s k buf, rfl, rfl⟩
  case arrives =>
    intro hs hl hb ho
    have takes : (s.unpend k).recv k buf len forever = (s.unpend k).received k buf :=
      recv_takes hs hl hb (((sameAccess_unpend s k).bufOk _ _ _).trans ho)
    have run : exec .h2dMessage s = .next ((s.unpend k).received k buf) := by
      show execH2dMessage s = _
      rw [execH2dMessage, hn, dropLong_fits fun _ => hl, if_pos hs, resumeMsg_recv hp (by rw [takes]; exact gives_pend _ _ _), takes]
    exact ⟨_, run, gives_ctlA0 _ _ _, gives_pend _ _ _, received_nextSlot (s.unpend k) k buf, received_slotHdr (s.unpend k) k buf, rfl,
      (sameAccess_unpend s k).writeFor_mem _ _ _⟩
  case unasked =>
    show execH2dMessage s = _
    rw [execH2dMessage, hn, dropLong_fits hl, resumeMsg_idle hp, ite_self]
  case released =>
    exact (exec_d2hSlotRelease hn).trans (congrArg _ (resumeMsg_idle (s := s.freed k) hp))
  case resumed =>
    have readable : ((s.freed k).unpend k).readFor k ctlWho buf.toNat (8 + len.toNat) = some bs :=
      ((sameAccess_unpend _ k).readFor _ _ _).trans (((sameAccess_freed s k).readFor _ _ _).trans hr)
    have sends : ((s.freed k).unpend k).send k buf len forever = (((s.freed k).unpend k).putMessage k bs).gives k len :=
      send_sends hl readable hf
    have run : exec .d2hSlotRelease s = .next ((((s.freed k).unpend k).putMessage k bs).gives k len) := by
      rw [exec_d2hSlotRelease hn, resumeMsg_send (s := s.freed k) hp (by rw [sends]; exact gives_pend _ _ _), sends]
    have size := readFor_length hr
    refine ⟨_, run, gives_ctlA0 _ _ _, gives_pend _ _ _, rfl, ?_⟩
    rw [gives_slotHdr, putMessage_slotHdr (s := (s.freed k).unpend k) (m := m) rfl (by omega) (by omega)]
    omega
  case limits =>
    refine ⟨fun hd hq => ?_, fun hd hq => ?_, fun hd hq => ?_, fun hd => ⟨congrArg _ (timeOut_early _ hc hp hd),
      congrArg _ (timeOut_early _ hc hp hd), congrArg _ (timeOut_early _ hc hp hd)⟩⟩
    · rcases hq with rfl | rfl <;> exact congrArg _ (timeOut_passed _ hc hp rfl hd)
    · subst hq
      exact congrArg _ (timeOut_passed _ hc hp rfl hd)
    · subst hq
      have run : exec .collectiveWaitTimeout s = .next (s.gives k ((s.app k).expiredA0 (.collective lid))) :=
        congrArg _ (timeOut_passed _ hc hp rfl hd)
      have status : (s.app k).expiredA0 (.collective lid) = match ((s.app k).coll lid).map Coll.state with
        | some .done => 1
        | some .aborted => 5
        | some .active => eTimeout
        | none => eTimeout := rfl
      refine ⟨fun hn => by rw [run, status, hn]; rfl, fun c hq => ?_⟩
      rw [run, status, hq, Option.map_some]
      cases c.state <;> rfl

end Sys2Proof.Machine
end

section
/-! SUPPORT. The services that stand alone (R54 to R59, R436 to R438): results written to buffers, the accesses of a control program,
and services that a hart may not call. -/

namespace Sys2Proof.Machine

variable {s : State} {k : Nat}

/-! ### Results in buffers (R59) -/

/-- A call that writes words out fills its buffer with them. -/
theorem fillsBuffer_of_writeOut {i : Instr} {va len : Word} {ws : List Nat} (hc : s.inp.caller = .ctl k)
    (run : exec i s = .next (s.writeOut k ctlWho va.toNat len.toNat ws)) : s.fillsBuffer i k va len ws := by
  unfold State.writeOut at run
  dsimp only at run
  rw [wordsBytes_length] at run
  refine ⟨fun h => ?_, fun h hb => ?_, fun h hb => ?_⟩
  · rw [run, if_pos h, ret_ctl _ hc]
  · rw [run, if_neg (Nat.not_lt.mpr h), hb, ret_ctl _ hc]
    rfl
  · rw [run, if_neg (Nat.not_lt.mpr h), if_pos hb]
    exact congrArg _ (ret_ctl (s := s.writeFor k ctlWho va.toNat (ws.flatMap wordBytes)) _ hc)

theorem query_ctl {item : Word} (f : State → Nat → Who → State) (h : s.ctlCalls k) (hi : s.inp.a1 = item) :
    s.query item f = .next (f s k ctlWho) := (if_pos hi).trans (service_ctl _ _ h)

/-- QUERY of the item 0x01, or of none. -/
theorem exec_queryDeviceShape (h : s.ctlCalls k) (h2 : s.inp.a1 ≠ 2) (h3 : s.inp.a1 ≠ 3) (h10 : s.inp.a1 ≠ 0x10) :
    exec .queryDeviceShape s = .next (if s.inp.a1 = 1
      then s.writeOut k ctlWho s.inp.a2.toNat s.inp.a3.toNat [160 + 96 * 2 ^ 16 + 10 * 2 ^ 32 + 6 * 2 ^ 40 + 4 * 2 ^ 48, 7]
      else s.gives k eInval) := by
  show execQueryDeviceShape s = _
  rw [execQueryDeviceShape, if_neg (not_or.mpr ⟨h2, not_or.mpr ⟨h3, h10⟩⟩), service_ctl _ _ h, ret_ctl _ h.1]

theorem exec_queryWeightStore (h : s.ctlCalls k) (h2 : s.inp.a1 = 2) : exec .queryWeightStore s = .next
    (s.writeOut k ctlWho s.inp.a2.toNat s.inp.a3.toNat ((s.app k).wsWin :: (List.range 4).map fun d => mget 0 (s.app k).wsSize d)) := by
  show execQueryWeightStore s = _
  rw [execQueryWeightStore, query_ctl _ h h2]

theorem exec_queryKvwin (h : s.ctlCalls k) (h10 : s.inp.a1 = 0x10) : exec .queryKvwin s = .next
    (s.writeOut k ctlWho s.inp.a2.toNat s.inp.a3.toNat [(s.app k).kvwin]) := by
  show execQueryKvwin s = _
  rw [execQueryKvwin, query_ctl _ h h10]

/-- QUERY of an address: E_RANGE comes before the address is read. -/
theorem exec_queryAddress_short (h : s.ctlCalls k) (h3 : s.inp.a1 = 3) (hl : s.inp.a3.toNat < 16) :
    exec .queryAddress s = .next (s.gives k eRange) := by
  show execQueryAddress s = _
  rw [execQueryAddress, query_ctl _ h h3, if_pos hl, ret_ctl _ h.1]

section
variable {va : Nat} (h : s.ctlCalls k) (h3 : s.inp.a1 = 3) (hl : 16 ≤ s.inp.a3.toNat)
  (hr : s.readWordFor k ctlWho s.inp.a2.toNat = some va)

include h h3 hl hr

theorem exec_queryAddress_unmapped (hx : (s.app k).lookup ctlWho va = none) : exec .queryAddress s = .next (s.gives k eNoent) := by
  show execQueryAddress s = _
  rw [execQueryAddress, query_ctl _ h h3, if_neg (Nat.not_lt.mpr hl), hr]
  dsimp only
  rw [hx, ← ret_ctl _ h.1]

theorem exec_queryAddress_mapped {x : Xlat} (hx : (s.app k).lookup ctlWho va = some x) : exec .queryAddress s = .next
    (s.writeOut k ctlWho s.inp.a2.toNat s.inp.a3.toNat [x.attr.toNat, placeWordOf (s.app k) ctlWho x va]) := by
  show execQueryAddress s = _
  rw [execQueryAddress, query_ctl _ h h3, if_neg (Nat.not_lt.mpr hl), hr]
  dsimp only
  rw [hx]

end

/-! ### TENANT, TIME and unknown services -/

theorem exec_riuraTenant (h : s.ctlCalls k) : exec .riuraTenant s = .next (s.writeOut k ctlWho s.inp.a1.toNat 72
    ([(s.app k).tenant, (s.tenantOf (s.app k).tenant).featmask.toNat, (s.tenantOf (s.app k).tenant).coreSh] ++
      (List.range 4).map (fun d => mget 1 (s.tenantOf (s.app k).tenant).hbmSh d) ++
      [(s.tenantOf (s.app k).tenant).poolA, (s.tenantOf (s.app k).tenant).poolB])) := by
  show execRiuraTenant s = _
  rw [execRiuraTenant, service_ctl _ _ h]

theorem exec_riuraTime (s : State) : exec .riuraTime s = s.service true true fun s _ _ => s.ret (BitVec.ofNat 64 (s.clk * 10 / 11)) := rfl

theorem exec_riuraUnknownService (s : State) : exec .riuraUnknownService s = s.service true true fun s _ _ => s.ret eNosys := rfl

/-! ### LOG -/

theorem exec_riuraLog_long (h : s.ctlCalls k) (hl : 4096 < s.inp.a2.toNat) : exec .riuraLog s = .next (s.gives k eInval) := by
  show execRiuraLog s = _
  rw [execRiuraLog, service_ctl _ _ h, if_pos hl, ret_ctl _ h.1]

theorem exec_riuraLog {bs : List Nat} (h : s.ctlCalls k) (hl : s.inp.a2.toNat ≤ 4096)
    (hr : s.readFor k ctlWho s.inp.a1.toNat s.inp.a2.toNat = some bs) : exec .riuraLog s = .next (
    (s.setApp k { s.app k with logs := (s.app k).logs ++ [bs.map (BitVec.ofNat 8)] }).gives k 0) := by
  show execRiuraLog s = _
  rw [execRiuraLog, service_ctl _ _ h, if_neg (Nat.not_lt.mpr hl), hr]
  exact congrArg _ (ret_setApp _ _ h.1)

/-! ### The end of the application (R49) -/

theorem exec_riuraExit (h : s.ctlCalls k) : exec .riuraExit s = .next (s.endApp k (BitVec.ofNat 32 s.inp.a1.toNat)) := by
  show execRiuraExit s = _
  rw [execRiuraExit, service_ctl _ _ h]

/-- An application that ends keeps no launch. -/
theorem endApp_launches (s : State) (k : Nat) (status : BitVec 32) : ((s.endApp k status).app k).launches = [] := by
  unfold State.endApp
  extract_lets a s1 s2 s3 b s4
  have apps : (((s4.dropCalls k).discardH2d k).kick.raiseMsix 0).apps = (s3.setApp k { b with
      kernels := [], maps := [], kvwin := 0, kv := [], wsWin := 0, wsOff := [], wsSize := [], launches := [], windows := [],
      colls := [], shdb := false, confine := none, breaks := [] }).apps := by
    rw [State.raiseMsix_apps, State.kick_apps, State.discardH2d_apps, State.dropCalls_apps]
    exact State.releaseApp_apps _ b
  rw [State.app, apps, State.setApp, mget_mset, if_pos rfl]

/-! ### The accesses of a control program (R438) -/

theorem exec_controlProgramFault (h : s.ctlCalls k) : exec .controlProgramFault s = .next (
    if s.inp.m ≠ 0 then s.ctlAtomic k s.inp.n s.inp.k s.inp.m s.inp.a1
    else if s.inp.flag then s.ctlStore k s.inp.n ((cellsLE s.inp.n s.inp.k s.inp.a1.toNat).map Prod.snd)
    else s.ctlLoad k s.inp.n s.inp.k) := by
  show execControlProgramFault s = _
  rw [execControlProgramFault]
  dsimp only
  rw [h.1]
  dsimp only
  rw [if_neg (not_not_intro h.2.1), h.2.2]
  rfl

/-- An access whose first byte is unmapped faults. -/
theorem ctlFaults_unmapped {va n : Nat} {load store : Bool} (h : (s.app k).lookup ctlWho va = none) (hn : 1 ≤ n)
    (ha : (load || store) = true) : s.ctlFaults k va n load store = true := by
  refine List.any_eq_true.mpr ⟨0, List.mem_range.mpr hn, ?_⟩
  simpa [h, State.forLoad, State.forStore] using ha

/-- An access that faults ends the application. -/
theorem exec_controlProgramFault_unmapped (h : s.ctlCalls k) (hl : (s.app k).lookup ctlWho s.inp.n = none) (hk : 1 ≤ s.inp.k) :
    exec .controlProgramFault s = .next (s.endApp k 0xFFFFFFFF) := by
  refine (exec_controlProgramFault h).trans (congrArg _ ?_)
  split
  · exact if_pos (ctlFaults_unmapped hl hk rfl)
  split
  · refine if_pos (ctlFaults_unmapped hl ?_ rfl)
    rw [cellsLE_bytes, List.length_map, List.length_range]
    exact hk
  · exact if_pos (ctlFaults_unmapped hl hk rfl)

/-- A load that does not fault. -/
theorem ctlLoad_reads {va n : Nat} {bs : List Nat} (hf : s.ctlFaults k va n true false = false)
    (hr : s.readFor k ctlWho va n = some bs) : s.ctlLoad k va n = s.setApp k { s.app k with ctlRead := BitVec.ofNat 64 (leNat bs) } := by
  rw [State.ctlLoad, if_neg (by rw [hf]; decide), hr, Option.getD_some, num]

section
variable {va : Nat} {bs : List Nat} (hf : s.ctlFaults k va bs.length false true = false)

include hf

/-- A store to an open page. -/
theorem ctlStore_open (hc : s.ctlClosed k va bs.length = false) : s.ctlStore k va bs = (s.unpend k).ctlPut k va bs := by
  rw [State.ctlStore, if_neg (by rw [hf]; decide), if_neg (by rw [hc]; decide)]
  rfl

/-- A store to a page under migration. -/
theorem ctlStore_closed (hc : s.ctlClosed k va bs.length = true) :
    s.ctlStore k va bs = s.setApp k { s.app k with pend := some ⟨.store va bs, none⟩ } := by
  rw [State.ctlStore, if_neg (by rw [hf]; decide), if_pos hc]

end

/-! ### Services that are open to one side alone (R56) -/

theorem exec_riuraCrewexit (h : s.ctlCalls k) : exec .riuraCrewexit s = .next (s.gives k ePerm) := by
  show execRiuraCrewexit s = _
  rw [execRiuraCrewexit, service_ctl_perm _ _ h]

/-- The services of control programs. -/
def ctlServices : List Instr := [.riuraExit, .riuraLaunch, .riuraWait, .riuraCancel, .riuraMap, .riuraUnmap, .riuraProtect, .riuraMigrate,
  .riuraKvalloc, .riuraKvfree, .hostmsgSend, .hostmsgRecv, .riuraWsload, .riuraTenant, .collectiveCreate]

/-- Each of them, called by a hart, is a service that harts may not call. -/
theorem exec_ctlServices {i : Instr} {id : Nat} (hi : i ∈ ctlServices) (hc : s.inp.caller = .hart id) :
    ∃ f, exec i s = s.service true false f := by
  have wait : ∃ f, exec .riuraWait s = s.service true false f := by
    show ∃ f, execRiuraWait s = _
    rw [execRiuraWait, hc]
    exact ⟨_, rfl⟩
  have create : ∃ f, exec .collectiveCreate s = s.service true false f := by
    refine ⟨fun s _ _ => s, ?_⟩
    show execCollectiveCreate s = _
    simp only [execCollectiveCreate, State.collective, hc, if_true]
  simp only [ctlServices, List.mem_cons, List.not_mem_nil, or_false] at hi
  rcases hi with rfl | rfl | rfl | rfl | rfl | rfl | rfl | rfl | rfl | rfl | rfl | rfl | rfl | rfl | rfl
  case inr.inr.inl => exact wait
  case inr.inr.inr.inr.inr.inr.inr.inr.inr.inr.inr.inr.inr.inr => exact create
  · exact ⟨_, show execRiuraExit s = _ from rfl⟩
  · exact ⟨_, show execRiuraLaunch s = _ from rfl⟩
  · exact ⟨_, show execRiuraCancel s = _ from rfl⟩
  · exact ⟨_, show execRiuraMap s = _ from rfl⟩
  · exact ⟨_, show execRiuraUnmap s = _ from rfl⟩
  · exact ⟨_, show execRiuraProtect s = _ from rfl⟩
  · exact ⟨_, show execRiuraMigrate s = _ from rfl⟩
  · exact ⟨_, show execRiuraKvalloc s = _ from rfl⟩
  · exact ⟨_, show execRiuraKvfree s = _ from rfl⟩
  · exact ⟨_, show execHostmsgSend s = _ from rfl⟩
  · exact ⟨_, show execHostmsgRecv s = _ from rfl⟩
  · exact ⟨_, show execRiuraWsload s = _ from rfl⟩
  · exact ⟨_, show execRiuraTenant s = _ from rfl⟩

end Sys2Proof.Machine
end

section
/-! The settled obligation. -/

namespace Sys2Proof.Machine

/-- Settles O45: a result in a buffer is `fillsBuffer_of_writeOut`, the end of the application `endApp_app`, a store of the control
program `ctlStore_open` and `ctlStore_closed`. -/
theorem riuraServices : Obligations.RiuraServices := by
  unfold Obligations.RiuraServices
  refine ⟨fun s k h => ⟨?time, ?unknown, ?exit, fun hl => ?logLong, fun bs hl hr => ?log, ?tenant, fun h1 => ?shape, fun hn => ?noItem,
      fun h1 => ?weights, fun h1 hl => ?addressShort, fun va h1 hl hr => ?address, fun h1 => ?window, fun hl hk => ?faults,
      fun bs hm hg hf hr => ?loads, fun hm hg hf => ?stores, exec_riuraCrewexit h⟩, fun s h c => ⟨?hartTime, ?hartUnknown, fun i hi => ?hartPerm⟩⟩
  case time => rw [exec_riuraTime, service_ctl _ _ h, ret_ctl _ h.1]
  case unknown =>
    rw [exec_riuraUnknownService, service_ctl _ _ h, ret_ctl _ h.1]
    rfl
  case exit =>
    obtain ⟨state, exit, maps⟩ := endApp_app s k (BitVec.ofNat 32 s.inp.a1.toNat)
    refine ⟨_, exec_riuraExit h, state, exit.trans ?_, maps, endApp_launches s k _⟩
    rw [BitVec.ofNat_toNat]
  case logLong => exact exec_riuraLog_long h hl
  case log => exact exec_riuraLog h hl hr
  case tenant => exact fillsBuffer_of_writeOut h.1 (exec_riuraTenant h)
  case shape =>
    refine fillsBuffer_of_writeOut h.1 ((exec_queryDeviceShape h ?_ ?_ ?_).trans (congrArg _ (if_pos h1))) <;> rw [h1] <;> decide
  case noItem =>
    simp only [List.mem_cons, List.not_mem_nil, or_false, not_or] at hn
    obtain ⟨n1, n2, n3, n10⟩ := hn
    rw [exec_queryDeviceShape h n2 n3 n10, if_neg n1]
  case weights => exact fillsBuffer_of_writeOut h.1 (exec_queryWeightStore h h1)
  case addressShort => exact exec_queryAddress_short h h1 hl
  case address =>
    exact ⟨exec_queryAddress_unmapped h h1 hl hr, fun x hx => fillsBuffer_of_writeOut h.1 (exec_queryAddress_mapped h h1 hl hr hx)⟩
  case window => exact fillsBuffer_of_writeOut h.1 (exec_queryKvwin h h1)
  case faults =>
    obtain ⟨state, exit, -⟩ := endApp_app s k 0xFFFFFFFF
    exact ⟨_, exec_controlProgramFault_unmapped h hl hk, state, exit⟩
  case loads =>
    rw [exec_controlProgramFault h, if_neg (not_not_intro hm), hg, ctlLoad_reads hf hr]
    rfl
  case stores =>
    have run := exec_controlProgramFault h
    rw [if_neg (not_not_intro hm), if_pos hg, cellsLE_bytes] at run
    have size : ((List.range s.inp.k).map fun j => s.inp.a1.toNat / 256 ^ j % 256).length = s.inp.k := by simp
    refine ⟨fun hc => ?_, fun hc => ?_⟩
    · rw [ctlStore_open (by rw [size, hf]) (by rw [size, hc])] at run
      refine ⟨_, run, ?_, rfl, (sameAccess_unpend s k).writeFor_mem _ _ _⟩
      exact congrArg App.pend (unpend_app s k)
    · rw [ctlStore_closed (by rw [size, hf]) (by rw [size, hc])] at run
      exact ⟨_, _, run, rfl, congrArg App.pend ((app_setApp _ _ _ _).trans (if_pos rfl))⟩
  case hartTime => rw [exec_riuraTime, service_hart _ _ c, ret_hart _ c.1]
  case hartUnknown => rw [exec_riuraUnknownService, service_hart _ _ c, ret_hart _ c.1]
  case hartPerm =>
    obtain ⟨f, e⟩ := exec_ctlServices hi c.1
    exact e.trans (service_hart_perm _ f c)

end Sys2Proof.Machine
end

section
/-! SUPPORT. The vector length (R94, R112 to R114, R328): the configurations there are, the registers under a changed grant, and the
hart that a SETVL makes. -/

namespace Sys2Proof.Machine

/-! ### Configurations (R110, R117, R328) -/

variable {h : Hart} {cfg : BitVec 12}

theorem bitsAt_cfg_op (cfg : BitVec 12) : bitsAt cfg.toNat 10 2 = cfg.toNat / 1024 := by
  rw [bitsAt, Nat.mod_eq_of_lt] <;> omega

/-- A configuration that the tenant may use: a format with its features, EP not 3, and bit 11 zero. -/
theorem Hart.cfgOk_iff : h.cfgOk cfg = true ↔ ∃ f, Fmt.ofCode (cfg.toNat % 64) = some f ∧ cfg.toNat / 256 % 4 ≠ 3 ∧
    cfg.toNat / 1024 < 2 ∧ (f.isMx = true → h.feat 0 = true) ∧ (f = .dm8 → h.feat 1 = true) := by
  rw [Hart.cfgOk]
  cases hf : Fmt.ofCode (cfg.toNat % 64) with
  | none => simp
  | some f =>
    have ep : bitsAt cfg.toNat 8 2 = cfg.toNat / 256 % 4 := rfl
    simp only [ep, bitsAt_cfg_op, Hart.fmtOk, Option.some.injEq, exists_eq_left', Bool.and_eq_true, Bool.or_eq_true, decide_eq_true_eq,
      Bool.not_eq_true', imp_iff_not_or, Bool.not_eq_true, decide_eq_false_iff_not, and_assoc]

/-! ### The registers under a changed grant (R94) -/

/-- Register w under a grant that changes: its bytes beyond the shorter of the two lengths are zero. -/
theorem mget_regrant (hg : h.vlgrant ≠ h.newGrant) (w : Nat) : mget {} h.regrant w = { mget {} h.v w with
    data := BitVec.ofNat 2048 ((mget {} h.v w).data.toNat % 2 ^ (8 * min h.vlgrant h.newGrant)) } := by
  rw [Hart.regrant, if_neg hg]
  induction h.v with
  | nil =>
    have empty : ({} : VReg).data.toNat = 0 := BitVec.toNat_zero
    rw [List.foldr_nil, mget_nil, empty, Nat.zero_mod]
    exact rfl
  | cons r m ih =>
    rw [List.foldr_cons, mget_mset, ih, mget]
    by_cases e : w = r.1
    · rw [if_pos e, if_pos e.symm]
    · rw [if_neg e, if_neg (Ne.symm e)]

/-! ### The hart that a SETVL makes -/

/-- Bits [15:12] of VSTAT stay, and the configuration stands below them. -/
theorem vstat_append (v : BitVec 16) : BitVec.ofNat 16 (v.toNat / 2 ^ 12 * 2 ^ 12 + cfg.toNat) = v.extractLsb' 12 4 ++ cfg := by
  apply BitVec.eq_of_toNat_eq
  rw [BitVec.toNat_append, BitVec.extractLsb'_toNat, BitVec.toNat_ofNat, ← Nat.shiftLeft_add_eq_or_of_lt cfg.isLt, Nat.shiftLeft_eq,
    Nat.shiftRight_eq_div_pow]
  omega

/-- The length and the rest of the hart, for a configuration of format f (R112, R114). -/
theorem Hart.setVl_eq {f : Fmt} (hf : Fmt.ofCode (cfg.toNat % 64) = some f) (avl : Word) : h.setVl cfg avl =
    { h with vstat := h.vstat.extractLsb' 12 4 ++ cfg, vlgrant := h.newGrant, v := h.regrant, strip := h.strip + 1, samples := [],
             vl := min avl.toNat (h.newGrant * 2 ^ (cfg.toNat / 64 % 4) * 8 / f.bits) } := by
  have low : (h.vstat.extractLsb' 12 4 ++ cfg).toNat = h.vstat.toNat / 2 ^ 12 % 2 ^ 4 * 2 ^ 12 + cfg.toNat := by
    rw [BitVec.toNat_append, BitVec.extractLsb'_toNat, ← Nat.shiftLeft_add_eq_or_of_lt cfg.isLt, Nat.shiftLeft_eq,
      Nat.shiftRight_eq_div_pow]
  have fmt : (h.vstat.extractLsb' 12 4 ++ cfg).toNat % 64 = cfg.toNat % 64 := by omega
  have grp : (h.vstat.extractLsb' 12 4 ++ cfg).toNat / 64 % 4 = cfg.toNat / 64 % 4 := by omega
  simp only [Hart.setVl, Hart.openStrip, Hart.vlmax, vlmaxOf, Hart.g, Hart.fmt, vstat_append, fmt, grp, hf, Option.getD_some]

/-! ### SETVL and SETVLI -/

variable {s : State} {d a b : Reg}

theorem setvlWith_ok (i : Instr) (q : s.hart.quiet) (c : s.hart.cfgOk cfg = true) : s.setvlWith i d a cfg = .next (s.ended
    (({ s with hart := s.hart.setVl cfg (s.rx a) } : State).wx d (BitVec.ofNat 64 (s.hart.setVl cfg (s.rx a)).vl)) (s.hart.pc + 4)) := by
  rw [State.setvlWith, Hart.storepend_quiet q]
  dsimp only
  rw [if_pos c, complete_ok, Hart.wx_pc]
  rfl

theorem setvlWith_illegal (i : Instr) (q : s.hart.quiet) (c : s.hart.cfgOk cfg = false) :
    s.setvlWith i d a cfg = .next (s.illegal i) := by
  rw [State.setvlWith, Hart.storepend_quiet q]
  dsimp only
  rw [if_neg (by simp [c]), complete_error, stopped_illegal]

theorem exec_setvli : exec (.setvli d a cfg) s = s.setvlWith (.setvli d a cfg) d a cfg := rfl

theorem exec_setvl (e : (s.rx b).extractLsb' 0 12 = cfg) : exec (.setvl d a b) s = s.setvlWith (.setvl d a b) d a cfg := by
  have field : Word.field (s.rx b) 0 12 = cfg := by
    rw [Word.field, Nat.pow_zero, Nat.div_one, ← e]
    rfl
  rw [← field]
  rfl

end Sys2Proof.Machine
end

section
/-! The settled obligation. -/

namespace Sys2Proof.Machine

/-- Settles O13: the configurations are `Hart.cfgOk_iff`, the hart afterwards `Hart.setVl_eq`, its registers `mget_regrant`. -/
theorem setVectorLength : Obligations.SetVectorLength := by
  unfold Obligations.SetVectorLength
  refine fun s d a b cfg q => ⟨fun f hf hep hop hmx hdm => ?sets, fun bad => ?illegal⟩
  case sets =>
    have c : s.hart.cfgOk cfg = true := Hart.cfgOk_iff.mpr ⟨f, hf, hep, hop, hmx, hdm⟩
    refine ⟨s.hart.regrant, fun e => if_pos e, mget_regrant, ?_, fun e => ?_⟩
    · rw [exec_setvli, setvlWith_ok _ q c, Hart.setVl_eq hf]
    · rw [exec_setvl e, setvlWith_ok _ q c, Hart.setVl_eq hf]
  case illegal =>
    have c : s.hart.cfgOk cfg = false := by
      rw [Bool.eq_false_iff, ne_eq, Hart.cfgOk_iff]
      rintro ⟨f, hf, hep, hop, hmx, hdm⟩
      rcases bad with none | ep | op | ⟨g, hg, lacks⟩
      · simp [none] at hf
      · exact hep ep
      · omega
      · cases hf.symm.trans hg
        rcases lacks with ⟨mx, feat⟩ | ⟨dm, feat⟩
        · simp [hmx mx] at feat
        · simp [hdm dm] at feat
    exact ⟨setvlWith_illegal _ q c, fun e => (exec_setvl e).trans (setvlWith_illegal _ q c)⟩

end Sys2Proof.Machine
end

section
/-! SUPPORT. The scheduler's look for work (R84, R90): it changes lease rows, kept slices and the events that come about later, and
nothing else. -/

namespace Sys2Proof.Machine

/-- The states agree but for lease rows, kept slices and what comes about later. -/
def State.SameButRows (s t : State) : Prop :=
  ∃ ls rs js, t = { s with leases := ls, reserves := rs, jobs := js }

namespace State.SameButRows

variable {s t u : State}

theorem refl (s : State) : s.SameButRows s := ⟨_, _, _, rfl⟩

theorem trans (h : s.SameButRows t) (g : t.SameButRows u) : s.SameButRows u := by
  obtain ⟨_, _, _, rfl⟩ := h
  obtain ⟨_, _, _, rfl⟩ := g
  exact ⟨_, _, _, rfl⟩

/-- What no row, kept slice or later event decides is the same. -/
theorem proj {α : Type} (h : s.SameButRows t) (f : State → α)
    (hf : ∀ s ls rs js, f { s with leases := ls, reserves := rs, jobs := js } = f s) : f t = f s := by
  obtain ⟨_, _, _, rfl⟩ := h
  exact hf ..

theorem foldl {α : Type} {f : State → α → State} (hf : ∀ (s : State) (x : α), s.SameButRows (f s x)) :
    ∀ (xs : List α) (s : State), s.SameButRows (xs.foldl f s)
  | [], s => refl s
  | x :: xs, s => (hf s x).trans (foldl hf xs (f s x))

end State.SameButRows

theorem later_rows (s : State) (i : Instr) (p : Input) : s.SameButRows (s.later i p) := ⟨_, _, _, later_frame s i p⟩

theorem setLease_rows (s : State) (c : Nat) (l : Lease) : s.SameButRows (s.setLease c l) := ⟨_, _, _, rfl⟩

theorem fillRow_rows (s : State) (c app : Nat) (l : Launch) : s.SameButRows (s.fillRow c app l) :=
  (setLease_rows s _ _).trans (later_rows _ _ _)

theorem giveRow_rows (s : State) (c : Nat) : s.SameButRows (s.giveRow c) := by
  unfold State.giveRow
  split
  · exact fillRow_rows ..
  · exact setLease_rows ..

theorem refreshRow_rows (s : State) (c : Nat) : s.SameButRows (s.refreshRow c) := by
  unfold State.refreshRow
  dsimp only
  split
  · exact .refl s
  · split
    · exact .refl s
    · exact giveRow_rows ..
  · split
    · exact fillRow_rows ..
    · exact .refl s
  · split
    · exact setLease_rows ..
    · split
      · exact fillRow_rows ..
      · exact .refl s

theorem kick_rows (s : State) : s.SameButRows s.kick := by
  have drop : s.SameButRows s.dropReserve := ⟨_, _, _, rfl⟩
  have refresh : s.dropReserve.SameButRows s.dropReserve.refreshRows := .foldl refreshRow_rows _ _
  exact (((drop.trans refresh).trans (later_rows ..)).trans (later_rows ..)).trans (later_rows ..)

@[simp] theorem State.kick_nextAccept (s : State) : s.kick.nextAccept = s.nextAccept :=
  (kick_rows s).proj State.nextAccept fun _ _ _ _ => rfl

@[simp] theorem State.kick_inp (s : State) : s.kick.inp = s.inp := (kick_rows s).proj State.inp fun _ _ _ _ => rfl

end Sys2Proof.Machine
end

section
/-! SUPPORT. Launches (R75 to R82): one launch found and changed, its end, and the launches of every application, which most of
Riura's operations leave alone. -/

namespace Sys2Proof.Machine

/-! ### A launch found and changed -/

theorem App.launch_lid {a : App} {lid : Nat} {l : Launch} (h : a.launch lid = some l) : l.lid = lid := by
  have found := List.find?_some h
  exact of_decide_eq_true found

/-- A change of a launch that keeps its ID changes what its ID finds. -/
theorem find_map_launch {lid : Nat} {f : Launch → Launch} (hf : ∀ l, (f l).lid = l.lid) : ∀ ls : List Launch,
    (ls.map fun l => if l.lid = lid then f l else l).find? (fun l => decide (l.lid = lid)) =
      (ls.find? fun l => decide (l.lid = lid)).map f
  | [] => rfl
  | l :: ls => by
    by_cases e : l.lid = lid
    · simp [e, hf]
    · simp only [List.map_cons, if_neg e, List.find?_cons, decide_eq_false e]
      exact find_map_launch hf ls

theorem updLaunch_app (s : State) (k lid : Nat) (f : Launch → Launch) : (s.updLaunch k lid f).app k =
    { s.app k with launches := (s.app k).launches.map fun l => if l.lid = lid then f l else l } :=
  (app_setApp _ _ _ _).trans (if_pos rfl)

theorem updLaunch_launch (s : State) (k lid : Nat) {f : Launch → Launch} (hf : ∀ l, (f l).lid = l.lid) :
    ((s.updLaunch k lid f).app k).launch lid = ((s.app k).launch lid).map f := by
  rw [updLaunch_app]
  exact find_map_launch hf _

/-! ### The launches of every application -/

variable (s : State)

/-- The launches and the next ID of each application. -/
def launchTable (apps : List (Nat × App)) (k : Nat) : List Launch × Nat := ((mget {} apps k).launches, (mget {} apps k).nextLid)

theorem launch_of_table {s t : State} (h : launchTable t.apps = launchTable s.apps) (k lid : Nat) :
    (t.app k).launch lid = (s.app k).launch lid := by
  have ls : (t.app k).launches = (s.app k).launches := congrArg Prod.fst (congrFun h k)
  rw [App.launch, ls, App.launch]

theorem nextLid_of_table {s t : State} (h : launchTable t.apps = launchTable s.apps) (k : Nat) :
    (t.app k).nextLid = (s.app k).nextLid := congrArg Prod.snd (congrFun h k)

theorem setApp_launchTable {k : Nat} {a : App} (hl : a.launches = (s.app k).launches) (hn : a.nextLid = (s.app k).nextLid) :
    launchTable (s.setApp k a).apps = launchTable s.apps := by
  funext j
  rw [launchTable, State.setApp, mget_mset]
  split
  · next e => rw [hl, hn, e]; rfl
  · rfl

@[simp] theorem State.logApp_launchTable (app msg) : launchTable (s.logApp app msg).apps = launchTable s.apps :=
  setApp_launchTable s rfl rfl

theorem State.gives_launchTable (k r) : launchTable (s.gives k r).apps = launchTable s.apps := setApp_launchTable s rfl rfl

@[simp] theorem State.answer_launchTable (c r) : launchTable (s.answer c r).apps = launchTable s.apps := by
  unfold State.answer
  split
  · exact setApp_launchTable s rfl rfl
  · simp

/-! ### The end of a launch (R79, R81) -/

/-- A launch once Riura has looked whether all its work units have ended. -/
def Launch.closed (l : Launch) : Launch :=
  if l.ended.isSome ∨ l.issued < l.limit ∨ l.done < l.issued then l else { l with ended := some (complWord l) }

theorem Launch.closed_done (l : Launch) : l.closed.done = l.done := by unfold Launch.closed; split <;> rfl

theorem Launch.closed_nfail (l : Launch) : l.closed.nfail = l.nfail := by unfold Launch.closed; split <;> rfl

variable {s} {k lid : Nat} {l : Launch}

/-- A launch that has ended, or of which a work unit has not, stays. -/
theorem endLaunch_open (h : (s.app k).launch lid = some l) (c : l.ended.isSome ∨ l.issued < l.limit ∨ l.done < l.issued) :
    s.endLaunch k lid = s := by
  rw [State.endLaunch, h]
  exact if_pos c

/-- Of every application but for the launch that ends, the launches stay. -/
theorem endLaunch_launchTable (h : (s.app k).launch lid = some l)
    (c : ¬ (l.ended.isSome ∨ l.issued < l.limit ∨ l.done < l.issued)) : launchTable (s.endLaunch k lid).apps =
      launchTable (s.updLaunch k lid fun x => { x with ended := some (complWord l) }).apps := by
  rw [State.endLaunch, h]
  dsimp only
  rw [if_neg c]
  (repeat' split) <;> simp [State.writeFor]

theorem endLaunch_launch (h : (s.app k).launch lid = some l) : ((s.endLaunch k lid).app k).launch lid = some l.closed := by
  by_cases c : l.ended.isSome ∨ l.issued < l.limit ∨ l.done < l.issued
  · rw [endLaunch_open h c, h, Launch.closed, if_pos c]
  · rw [launch_of_table (endLaunch_launchTable h c), updLaunch_launch s k lid (f := fun x => { x with ended := some (complWord l) })
      fun _ => rfl, h, Launch.closed, if_neg c]
    rfl

theorem endLaunch_nextLid (h : (s.app k).launch lid = some l) : ((s.endLaunch k lid).app k).nextLid = (s.app k).nextLid := by
  by_cases c : l.ended.isSome ∨ l.issued < l.limit ∨ l.done < l.issued
  · rw [endLaunch_open h c]
  · rw [nextLid_of_table (endLaunch_launchTable h c), updLaunch_app]

end Sys2Proof.Machine
end

section
/-! SUPPORT. LAUNCH, WAIT and CANCEL (R75 to R82): what each answers, and what it makes of the launch. -/

namespace Sys2Proof.Machine

variable {s : State} {k : Nat} {ws : List Nat} {l : Launch}

/-! ### The checks of a launch block (R77) -/

theorem wordBits_units (ws : List Nat) : wordBits ws 1 0 32 = ws.getD 1 0 % 2 ^ 32 := by
  rw [wordBits, bitsAt, Nat.pow_zero, Nat.div_one]

theorem wordBits_tenant (ws : List Nat) : wordBits ws 2 24 8 = ws.getD 2 0 / 2 ^ 24 % 256 := by
  rw [wordBits, bitsAt, show (2 : Nat) ^ 8 = 256 from rfl]

theorem checkLaunch_reserved (s : State) (k : Nat) (h : blockReserved ws = false) : s.checkLaunch k ws = .error eInval := by
  rw [State.checkLaunch, h]
  rfl

theorem checkLaunch_range (s : State) (k : Nat) (h : blockReserved ws = true) (hu : 2 ^ 24 ≤ wordBits ws 1 0 32) :
    s.checkLaunch k ws = .error eRange := by
  rw [State.checkLaunch, h]
  exact if_pos hu

theorem checkLaunch_tenant (h : blockReserved ws = true) (hu : ¬ 2 ^ 24 ≤ wordBits ws 1 0 32) (ht : wordBits ws 2 24 8 < 64)
    (ne : wordBits ws 2 24 8 ≠ (s.app k).tenant) : s.checkLaunch k ws = .error ePerm := by
  have other : wordBits ws 2 24 8 ≠ 255 ∧ wordBits ws 2 24 8 ≠ (s.app k).tenant := ⟨by omega, ne⟩
  rw [State.checkLaunch, h]
  dsimp only
  rw [if_neg (by decide), if_neg hu, if_pos other, if_pos ht]

/-- A block that is accepted is that of a kernel under the next ID and the next number of acceptance. -/
theorem checkLaunch_ok (h : s.checkLaunch k ws = .ok l) : ∃ i, l = blockLaunch ws (s.app k).nextLid s.nextAccept i := by
  unfold State.checkLaunch at h
  dsimp only at h
  (repeat' split at h) <;> cases h
  exact ⟨_, rfl⟩

/-! ### LAUNCH (R75 to R78) -/

/-- LAUNCH of a block at an aligned address. -/
theorem exec_riuraLaunch (h : s.ctlCalls k) : exec .riuraLaunch s = .next (
    if s.inp.a1.toNat % 8 ≠ 0 then s.gives k eInval
    else match s.readFor k ctlWho s.inp.a1.toNat 128 with
      | none => s.gives k eInval
      | some bs =>
        match s.checkLaunch k (wordsOf bs) with
        | .error e => s.gives k e
        | .ok l => s.acceptLaunch k l) := by
  show execRiuraLaunch s = _
  rw [execRiuraLaunch, service_ctl _ _ h]
  simp only [ret_ctl _ h.1] <;> rfl

@[simp] theorem State.answer_nextAccept (s : State) (c : Caller) (r : Word) : (s.answer c r).nextAccept = s.nextAccept := by
  unfold State.answer
  split <;> simp

theorem endLaunch_nextAccept (s : State) (k lid : Nat) : (s.endLaunch k lid).nextAccept = s.nextAccept := by
  unfold State.endLaunch
  dsimp only
  (repeat' split) <;> simp [State.writeFor, State.updLaunch, State.logApp]

theorem endLaunch_inp (s : State) (k lid : Nat) : (s.endLaunch k lid).inp = s.inp := by
  unfold State.endLaunch
  dsimp only
  (repeat' split) <;> simp [State.writeFor, State.updLaunch, State.logApp]

/-- What acceptance leaves: the launch under the next ID, closed at once where it has no work units. -/
theorem acceptLaunch_app (hl : l.lid = (s.app k).nextLid) (fresh : ∀ x ∈ (s.app k).launches, x.lid < (s.app k).nextLid) :
    ((s.acceptLaunch k l).app k).ctlA0 = num l.lid ∧ ((s.acceptLaunch k l).app k).nextLid = (s.app k).nextLid + 1 ∧
    (s.acceptLaunch k l).nextAccept = s.nextAccept + 1 ∧ ((s.acceptLaunch k l).app k).launch l.lid = some l.closed := by
  unfold State.acceptLaunch
  extract_lets a t0 t
  have app : t.app k = { a with launches := a.launches ++ [l], nextLid := a.nextLid + 1 } := (app_setApp _ _ _ _).trans (if_pos rfl)
  have found : (t.app k).launch l.lid = some l := by
    have before : a.launches.find? (fun x => decide (x.lid = l.lid)) = none :=
      List.find?_eq_none.mpr fun x hx => by simp [hl, Nat.ne_of_lt (fresh x hx)]
    rw [app, App.launch, List.find?_append, before]
    simp
  have table : launchTable ((t.endLaunch k l.lid).kick.answer (.ctl k) (num l.lid)).apps = launchTable (t.endLaunch k l.lid).apps := by
    rw [State.answer_launchTable, State.kick_apps]
  refine ⟨?_, ?_, ?_, ?_⟩
  · exact congrArg App.ctlA0 ((app_setApp _ _ _ _).trans (if_pos rfl))
  · rw [nextLid_of_table table, endLaunch_nextLid found, app]
  · rw [State.answer_nextAccept, State.kick_nextAccept, endLaunch_nextAccept]
  · rw [launch_of_table table, endLaunch_launch found]

/-- The launch of a block, closed: it has ended where it has no work units (R79). -/
theorem blockLaunch_closed (ws : List Nat) (lid accept : Nat) (i : KInfo) : (blockLaunch ws lid accept i).closed =
    { blockLaunch ws lid accept i with ended :=
        if (blockLaunch ws lid accept i).units = 0 then some (BitVec.ofNat 64 (2 + 0xFFFFFF * 2 ^ 32)) else none } := by
  by_cases z : wordBits ws 1 0 32 = 0
  · simp [Launch.closed, complWord, blockLaunch, z]
  · simp [Launch.closed, blockLaunch, z, Nat.pos_of_ne_zero z]

/-! ### WAIT (R81) -/

theorem waitsFor_none {a : App} (h : a.pend = none) : a.waitsFor = none := by rw [App.waitsFor, h]

theorem exec_riuraWait (h : s.ctlCalls k) : exec .riuraWait s = .next (match (s.app k).retained s.inp.a1 with
    | none => s.gives k eNoent
    | some l => match l.ended with
      | some w => s.gives k w
      | none => s.block k (.wait l.lid) s.inp.a2) := by
  show execRiuraWait s = _
  rw [execRiuraWait, h.1]
  dsimp only
  rw [waitsFor_none h.2.2]
  dsimp only
  rw [service_ctl _ _ h, State.waitNow]
  simp only [ret_ctl _ h.1] <;> rfl

theorem exec_riuraWait_pending {lid : Nat} {dl : Option Nat} {w : Word} (hc : s.inp.caller = .ctl k)
    (hp : (s.app k).pend = some ⟨.wait lid, dl⟩) (hl : (s.app k).launch lid = some l) (he : l.ended = some w) :
    exec .riuraWait s = .next (s.gives k w) := by
  show execRiuraWait s = _
  rw [execRiuraWait, hc]
  dsimp only
  rw [App.waitsFor, hp]
  dsimp only
  rw [State.waitAgain, hl, Option.bind_some, he]
  rfl

/-! ### CANCEL (R82) -/

/-- The cancellation of a launch that has work units to place. -/
def Launch.cancel (l : Launch) : Launch := { l with limit := l.issued, cancelled := true }

/-- A launch cancelled, looked at and the scheduler kicked. -/
def State.cancelLaunch (s : State) (k lid : Nat) : State := ((s.updLaunch k lid Launch.cancel).endLaunch k lid).kick

theorem cancelLaunch_inp (s : State) (k lid : Nat) : (s.cancelLaunch k lid).inp = s.inp := by
  rw [State.cancelLaunch, State.kick_inp, endLaunch_inp]
  rfl

/-- The launch cancelled: closed at once where every work unit placed has ended. -/
theorem cancelLaunch_launch {lid : Nat} (h : (s.app k).launch lid = some l) :
    ((s.cancelLaunch k lid).app k).launch lid = some l.cancel.closed := by
  have found : ((s.updLaunch k lid Launch.cancel).app k).launch lid = some l.cancel := by
    rw [updLaunch_launch s k lid (f := Launch.cancel) fun _ => rfl, h]
    rfl
  have table : launchTable (s.cancelLaunch k lid).apps = launchTable ((s.updLaunch k lid Launch.cancel).endLaunch k lid).apps := by
    rw [State.cancelLaunch, State.kick_apps]
  rw [launch_of_table table, endLaunch_launch found]

theorem exec_riuraCancel (h : s.ctlCalls k) : exec .riuraCancel s = .next (match (s.app k).retained s.inp.a1 with
    | none => s.gives k eNoent
    | some l => if l.ended.isSome ∨ l.limit ≤ l.issued then s.gives k 0 else (s.cancelLaunch k l.lid).gives k 0) := by
  have ret : ∀ lid, (s.cancelLaunch k lid).ret 0 = (s.cancelLaunch k lid).gives k 0 := fun lid =>
    ret_ctl 0 ((congrArg Input.caller (cancelLaunch_inp s k lid)).trans h.1)
  show execRiuraCancel s = _
  rw [execRiuraCancel, service_ctl _ _ h]
  simp only [ret_ctl _ h.1, ← ret] <;> rfl

/-- A launch cancelled with work units under way has not ended. -/
theorem cancel_closed_open (h : l.done < l.issued) (he : l.ended = none) : l.cancel.closed.ended = none := by
  have c : l.cancel.ended.isSome ∨ l.cancel.issued < l.cancel.limit ∨ l.cancel.done < l.cancel.issued := .inr (.inr h)
  rw [Launch.closed, if_pos c]
  exact he

theorem Launch.closed_fields (l : Launch) :
    l.closed.cancelled = l.cancelled ∧ l.closed.limit = l.limit ∧ l.closed.issued = l.issued ∧ l.closed.done = l.done := by
  unfold Launch.closed
  split <;> exact ⟨rfl, rfl, rfl, rfl⟩

theorem retained_launch {a : App} {lid : Word} (h : a.retained lid = some l) : a.launch l.lid = some l := by
  have found : a.launch lid.toNat = some l := (Option.filter_eq_some_iff.mp h).1
  rw [App.launch_lid found, found]

end Sys2Proof.Machine
end

section
/-! The settled obligation. -/

namespace Sys2Proof.Machine

/-- Settles O50: LAUNCH accepts by `acceptLaunch_app` and the checks are `checkLaunch_`; WAIT and CANCEL answer as `exec_riuraWait` and
`exec_riuraCancel` say, a launch cancelled being `cancelLaunch_launch`. -/
theorem launches : Obligations.Launches := by
  unfold Obligations.Launches
  refine ⟨fun s k bs h => ⟨fun ha => ?misaligned, fun ha hr => ?unread,
      fun ha hr => ⟨fun e he => ?refused, fun l hl fresh => ?accepted⟩⟩,
    fun s k ws => ⟨checkLaunch_reserved s k, fun hb hu => ?range, fun hb hu ht ne => ?tenant⟩,
    fun s k h => ⟨fun hn => ⟨?waitNone, ?cancelNone⟩, fun l hl => ⟨fun w hw => ⟨?waitEnded, ?cancelEnded⟩,
      fun he => ⟨fun h0 => ?again, fun h0 => ?blocks⟩, fun he hi => ?issued, fun he hi => ?cancels⟩⟩,
    fun s k lid dl l w => exec_riuraWait_pending⟩
  case misaligned => rw [exec_riuraLaunch h, if_pos ha]
  case unread => rw [exec_riuraLaunch h, if_neg (not_not_intro ha), hr]
  case refused =>
    rw [exec_riuraLaunch h, if_neg (not_not_intro ha), hr]
    dsimp only
    rw [he]
  case accepted =>
    obtain ⟨i, rfl⟩ := checkLaunch_ok hl
    obtain ⟨a0, next, accept, launch⟩ := acceptLaunch_app (l := blockLaunch (wordsOf bs) (s.app k).nextLid s.nextAccept i) rfl fresh
    refine ⟨_, ?_, a0, next, accept, rfl, launch.trans (congrArg some (blockLaunch_closed ..))⟩
    rw [exec_riuraLaunch h, if_neg (not_not_intro ha), hr]
    dsimp only
    rw [hl]
  case range => exact checkLaunch_range s k hb (wordBits_units ws ▸ hu)
  case tenant =>
    rw [← wordBits_units, ← Nat.not_le] at hu
    rw [← wordBits_tenant] at ht ne
    exact checkLaunch_tenant hb hu ht ne
  case waitNone => rw [exec_riuraWait h, hn]
  case cancelNone => rw [exec_riuraCancel h, hn]
  case waitEnded =>
    rw [exec_riuraWait h, hl]
    dsimp only
    rw [hw]
  case cancelEnded =>
    rw [exec_riuraCancel h, hl]
    exact congrArg _ (if_pos (.inl (by rw [hw]; rfl)))
  case again =>
    rw [exec_riuraWait h, hl]
    dsimp only
    rw [he]
    dsimp only
    rw [State.block, if_pos h0, ret_ctl _ h.1]
  case blocks =>
    rw [exec_riuraWait h, hl]
    dsimp only
    rw [he]
    dsimp only
    rw [State.block, if_neg h0]
  case issued =>
    rw [exec_riuraCancel h, hl]
    exact congrArg _ (if_pos (.inr hi))
  case cancels =>
    obtain ⟨cancelled, limit, issued, done⟩ := l.cancel.closed_fields
    have launch := cancelLaunch_launch (retained_launch hl)
    have c : ¬ (l.ended.isSome ∨ l.limit ≤ l.issued) := by
      rw [he]
      simpa using hi
    have table : launchTable ((s.cancelLaunch k l.lid).gives k 0).apps = launchTable (s.cancelLaunch k l.lid).apps :=
      State.gives_launchTable _ _ _
    refine ⟨(s.cancelLaunch k l.lid).gives k 0, l.cancel.closed, ?_, ?_, (launch_of_table table _ _).trans launch, cancelled, limit,
      issued, done, fun hd => cancel_closed_open hd he⟩
    · rw [exec_riuraCancel h, hl]
      exact congrArg _ (if_neg c)
    · exact congrArg App.ctlA0 ((app_setApp _ _ _ _).trans (if_pos rfl))

end Sys2Proof.Machine
end

section
/-! SUPPORT. The roster of harts and crews (R74 to R97): what each of Riura's operations leaves of it, whom the end of a crew removes,
and who may come after. -/

namespace Sys2Proof.Machine

/-! ### The roster -/

/-- A context there is: its number, its crew's, and whether a migration holds a store of it back. -/
def Hart.key (h : Hart) : Option (Nat × BitVec 32 × Bool) := if h.run = .idle then none else some (h.id, h.crewid, h.parked)

/-- The contexts and the crews there are, and the numbers that the next ones bear. -/
structure Roster where
  harts : List (Nat × BitVec 32 × Bool)
  crews : List Nat
  nextHart : Nat
  nextCrew : Nat

/-- The roster of a state. -/
def State.roster (s : State) : Roster :=
  ⟨(s.hart :: s.others).filterMap Hart.key, s.crews.map Crew.id, s.nextHart, s.nextCrew⟩

theorem mem_roster_harts {s : State} {q : Nat × BitVec 32 × Bool} :
    q ∈ s.roster.harts ↔ ∃ h ∈ s.harts, q = (h.id, h.crewid, h.parked) := by
  simp only [State.roster, List.mem_filterMap, State.harts, List.mem_filter, Hart.key]
  refine exists_congr fun h => ?_
  by_cases e : h.run = .idle
  · simp [e]
  · simp [e, eq_comm]

theorem mem_roster_of_mem {s : State} {h : Hart} (m : h ∈ s.harts) : (h.id, h.crewid, h.parked) ∈ s.roster.harts :=
  mem_roster_harts.mpr ⟨h, m, rfl⟩

/-- A change of every hart that keeps its key keeps the roster. -/
theorem roster_map {s t : State} (f : Hart → Hart) (hf : ∀ h, (f h).key = h.key) (hh : t.hart = f s.hart)
    (ho : t.others = s.others.map f) (hc : t.crews = s.crews) (hn : t.nextHart = s.nextHart) (hm : t.nextCrew = s.nextCrew) :
    t.roster = s.roster := by
  have keys : (t.hart :: t.others).filterMap Hart.key = (s.hart :: s.others).filterMap Hart.key := by
    rw [hh, ho, ← List.map_cons, List.filterMap_map]
    exact congrArg (fun k => (s.hart :: s.others).filterMap k) (funext hf)
  rw [State.roster, keys, hc, hn, hm, State.roster]

/-- A fold of operations that keep the roster keeps it. -/
theorem foldl_roster {α : Type} (f : State → α → State) (hf : ∀ (s : State) (x : α), (f s x).roster = s.roster) :
    ∀ (xs : List α) (s : State), (xs.foldl f s).roster = s.roster
  | [], _ => rfl
  | x :: xs, s => (foldl_roster f hf xs (f s x)).trans (hf s x)

variable (s : State)

theorem roster_rows {s t : State} (h : s.SameButRows t) : t.roster = s.roster := h.proj State.roster fun _ _ _ _ => rfl

/-! ### What keeps it -/

@[simp] theorem State.setApp_roster (k a) : (s.setApp k a).roster = s.roster := rfl

@[simp] theorem State.setLease_roster (c l) : (s.setLease c l).roster = s.roster := rfl

@[simp] theorem State.logApp_roster (k m) : (s.logApp k m).roster = s.roster := rfl

@[simp] theorem State.updLaunch_roster (k lid f) : (s.updLaunch k lid f).roster = s.roster := rfl

@[simp] theorem State.later_roster (i p) : (s.later i p).roster = s.roster := roster_rows (later_rows s i p)

@[simp] theorem State.giveRow_roster (c) : (s.giveRow c).roster = s.roster := roster_rows (giveRow_rows s c)

@[simp] theorem State.kick_roster : s.kick.roster = s.roster := roster_rows (kick_rows s)

theorem mapHarts_roster {p : Hart → Bool} {f : Hart → Hart} (hf : ∀ h, h.run ≠ .idle → (f h).key = h.key) :
    (s.mapHarts p f).roster = s.roster := by
  refine roster_map (fun h => if decide (h.run ≠ .idle) && p h then f h else h) (fun h => ?_) rfl rfl rfl rfl rfl
  split
  · next c => exact hf h (of_decide_eq_true (Bool.and_eq_true_iff.mp c).1)
  · rfl

theorem updHart_roster {id : Nat} {f : Hart → Hart} (hf : ∀ h, h.run ≠ .idle → (f h).key = h.key) :
    (s.updHart id f).roster = s.roster := mapHarts_roster s hf

theorem Hart.cutLinks_key (h : Hart) (lo n : Nat) (other : Bool) : (h.cutLinks lo n other).key = h.key := by
  unfold Hart.cutLinks; split <;> rfl

theorem Hart.breakLinks_key (h : Hart) (other : Bool) (lines : List Nat) : (h.breakLinks other lines).key = h.key := by
  unfold Hart.breakLinks; split <;> rfl

@[simp] theorem State.scrub_roster (pa len) : (s.scrub pa len).roster = s.roster :=
  roster_map (·.cutLinks pa len true) (fun h => h.cutLinks_key pa len true) rfl rfl rfl rfl rfl

@[simp] theorem State.writePhys_roster (cells) : (s.writePhys false cells).roster = s.roster :=
  roster_map (·.breakLinks true (cells.map fun c => c.1 / 64)) (fun h => h.breakLinks_key _ _) rfl rfl rfl rfl rfl

@[simp] theorem State.writeFor_roster (k w va bs) : (s.writeFor k w va bs).roster = s.roster := s.writePhys_roster _

@[simp] theorem State.release_roster (r) : (s.release r).roster = s.roster := by
  unfold State.release
  split
  · rfl
  · exact s.scrub_roster _ _

@[simp] theorem State.releaseMaps_roster (tenant ms) : (s.releaseMaps tenant ms).roster = s.roster :=
  foldl_roster _ (fun t _ => t.release_roster _) _ s

@[simp] theorem State.reap_roster : s.reap.roster = s.roster := by
  refine foldl_roster _ (fun t r => ?_) _ s
  unfold State.reapOne
  split
  · rfl
  · exact t.scrub_roster _ _

@[simp] theorem State.dropBlock_roster (h) : (s.dropBlock h).roster = s.roster := by simp [State.dropBlock]

@[simp] theorem State.endLaunch_roster (k lid) : (s.endLaunch k lid).roster = s.roster := by
  unfold State.endLaunch
  dsimp only
  (repeat' split) <;> simp

@[simp] theorem State.peerKill_roster (app) : (s.peerKill app).roster = s.roster := by
  unfold State.peerKill
  refine foldl_roster _ (fun t c => ?_) _ s
  split
  · refine foldl_roster _ (fun u p => ?_) _ t
    split
    · exact u.later_roster _ _
    · rfl
  · rfl

theorem Hart.dropStale_key (h : Hart) (va : Nat) : (s.dropStale h va).key = h.key := by
  unfold State.dropStale
  (repeat' split) <;> rfl

@[simp] theorem State.postRec_roster (w hart q k r) : (s.postRec w hart q k r).roster = s.roster := by
  unfold State.postRec
  split
  · rfl
  · dsimp only
    split
    · exact updHart_roster s fun _ _ => rfl
    · split
      · rw [updHart_roster _ fun h _ => Hart.dropStale_key _ h _, State.writeFor_roster]
        exact updHart_roster s fun _ _ => rfl
      · exact (State.logApp_roster _ _ _).trans (updHart_roster s fun _ _ => rfl)

@[simp] theorem State.dropHart_roster (h) : (s.dropHart h).roster = s.roster := by
  have posted : (s.abortTransfers h.id).roster = s.roster := by
    refine foldl_roster _ (fun t x => ?_) _ s
    unfold State.postXfer
    split
    · rfl
    · exact t.postRec_roster _ _ _ _ _
  exact posted

@[simp] theorem State.preload_roster (app core l) : (s.preload app core l).2.roster = s.roster := by
  unfold State.preload
  split
  · rfl
  · dsimp only
    split
    · rfl
    · dsimp only
      split <;> simp

@[simp] theorem State.firstPlane_roster (app core l) : (s.firstPlane app core l).2.roster = s.roster := by
  unfold State.firstPlane
  split <;> simp

@[simp] theorem State.holdRow_roster (app lid sl) : (s.holdRow app lid sl).roster = s.roster := by
  unfold State.holdRow
  split <;> rfl

theorem giveBlock_roster {s t : State} {app k va n : Nat} (e : s.giveBlock app k = some (va, n, t)) : t.roster = s.roster := by
  unfold State.giveBlock at e
  dsimp only at e
  split at e
  · cases e
  · next pa s1 hs =>
    unfold State.takeFrames at hs
    dsimp only at hs
    split at hs
    · cases hs
    · cases hs
      split at e <;> cases e
      exact (State.scrub_roster _ _ _).trans s.reap_roster

@[simp] theorem State.reloadPlanes_roster (id) : (s.reloadPlanes id).roster = s.roster := by
  unfold State.reloadPlanes
  split
  · rfl
  · extract_lets a b s1 s2
    have s1_roster : s1.roster = s.roster := updHart_roster s fun _ _ => rfl
    have s2_roster : s2.roster = s1.roster := by
      unfold s2
      split <;> rfl
    rw [← s1_roster, ← s2_roster]
    split <;> rfl

theorem Hart.resumeOn_key (h : Hart) (sl : Nat × Nat × Nat) (fill busy : Bool) (hr : h.run ≠ .idle) :
    (h.resumeOn sl fill busy).key = h.key := by
  cases fill <;> simp [Hart.key, Hart.resumeOn, hr]

@[simp] theorem State.resumeRow_roster (h sl) : (s.resumeRow h sl).roster = s.roster := by
  unfold State.resumeRow
  split <;> rfl

/-- A hart of a suspended crew as it stands on its slice: running or, where its EXIT has been executed, exited at once on the slice that
it left, else being filled. -/
def Hart.resumed (g : Hart) (s : State) (sl : Nat × Nat × Nat) (same busy : Bool) : Hart :=
  let q := { g.resumeOn sl (!same) busy with out := if same then none else some ⟨g.core, g.slice, g.cut, g.strip, g.locks⟩ }
  let r := { q with locks := s.lockLines q (s.locksBeside sl.1 g.id) g.locks [] }
  if r.ended && r.run = .running then { r with run := .exited } else r

/-- One hart of a suspended crew resumes on a slice. -/
def State.resumeOne (s : State) (h : Hart) (sl : Nat × Nat × Nat) : State :=
  let same := decide (h.core = sl.1) && decide (h.slice = sl.2.1) && decide (h.cut = sl.2.2) && !h.spilled
  let t := (s.updHart h.id fun g => g.resumed s sl same (s.transfers.any fun t => decide (t.hart = h.id))).resumeRow h sl
  if same then t.reloadPlanes h.id else t.later .contextFillDone { n := h.id }

theorem resumeHarts_cons (cid : Nat) (h : Hart) (hs : List Hart) (sl : Nat × Nat × Nat) (sls : List (Nat × Nat × Nat)) :
    s.resumeHarts cid (h :: hs) (sl :: sls) = (s.resumeOne h sl).resumeHarts cid hs sls := rfl

theorem Hart.resumed_key (g : Hart) (sl : Nat × Nat × Nat) (same busy : Bool) (hr : g.run ≠ .idle) :
    (g.resumed s sl same busy).key = g.key := by
  rw [← g.resumeOn_key sl (!same) busy hr, Hart.resumed]
  dsimp only
  split
  · next e =>
    have run : (g.resumeOn sl (!same) busy).run = .running := of_decide_eq_true (Bool.and_eq_true_iff.mp e).2
    simp [Hart.key, run]
  · rfl

@[simp] theorem State.resumeOne_roster (h sl) : (s.resumeOne h sl).roster = s.roster := by
  unfold State.resumeOne
  extract_lets same t
  have moved : t.roster = s.roster :=
    (State.resumeRow_roster _ _ _).trans (updHart_roster s fun g hr => g.resumed_key s sl _ _ hr)
  rw [← moved]
  split <;> simp

@[simp] theorem State.resumeHarts_roster (cid) : ∀ (hs sls) (s : State), (s.resumeHarts cid hs sls).roster = s.roster
  | [], _, _ => by simp [State.resumeHarts]
  | _ :: _, [], _ => rfl
  | h :: hs, sl :: sls, s => by
    rw [resumeHarts_cons, State.resumeHarts_roster cid hs sls, State.resumeOne_roster]

theorem updCrew_roster (cid : Nat) {f : Crew → Crew} (hf : ∀ c, (f c).id = c.id) : (s.updCrew cid f).roster = s.roster := by
  have ids : (s.updCrew cid f).crews.map Crew.id = s.crews.map Crew.id := by
    rw [State.updCrew, List.map_map]
    refine List.map_congr_left fun c _ => ?_
    rw [Function.comp_apply]
    split
    · exact hf c
    · rfl
  rw [State.roster, ids]
  rfl

@[simp] theorem State.resumeCrew_roster (cid slots) : (s.resumeCrew cid slots).roster = s.roster := by
  unfold State.resumeCrew
  dsimp only
  rw [State.kick_roster]
  refine (updCrew_roster _ _ ?_).trans (State.resumeHarts_roster _ _ _ _)
  exact fun _ => rfl

/-! ### A crew placed -/

/-- The number of the next crew. -/
def State.freshCrew : Nat := (s.nextCrew + Config.crewIdBase.toNat) % 2 ^ 32

/-- Every context of `t` is one of `s` or one of a crew placed since then, and every crew of `t` one of `s` or that crew. -/
def State.OneMore (s t : State) : Prop :=
  (∀ q ∈ t.roster.harts, q ∈ s.roster.harts ∨ s.nextHart ≤ q.1 ∧ q.2.1 = BitVec.ofNat 32 s.freshCrew) ∧
  ∀ c ∈ t.roster.crews, c ∈ s.roster.crews ∨ c = s.freshCrew

variable {s}

theorem oneMore_of_roster {t : State} (h : t.roster = s.roster) : s.OneMore t := by
  rw [State.OneMore, h]
  exact ⟨fun _ => .inl, fun _ => .inl⟩

/-- What counts in the state before, and in the state after, is the roster. -/
theorem State.OneMore.congr {s' t t' : State} (h : s.OneMore t) (hs : s.roster = s'.roster) (ht : t'.roster = t.roster) :
    s'.OneMore t' := by
  have next : s.nextHart = s'.nextHart := congrArg Roster.nextHart hs
  have nextCrew : s.nextCrew = s'.nextCrew := congrArg Roster.nextCrew hs
  rw [State.OneMore, hs, next, State.freshCrew, nextCrew, ← ht] at h
  exact h

/-- A context is put among the harts and takes the next number. -/
def State.addNext (s : State) (h : Hart) : State := ({ s with nextHart := s.nextHart + 1 } : State).addHart h

theorem addNext_roster (s : State) (h : Hart) :
    (∀ q ∈ (s.addNext h).roster.harts, q ∈ s.roster.harts ∨ h.key = some q) ∧
    (s.addNext h).roster.crews = s.roster.crews ∧ (s.addNext h).nextHart = s.nextHart + 1 := by
  unfold State.addNext State.addHart
  split <;> refine ⟨fun q m => ?_, rfl, rfl⟩ <;>
    simp only [State.roster, List.mem_filterMap, List.mem_cons, List.mem_append, List.not_mem_nil, or_false] at m ⊢
  · obtain ⟨g, rfl | o, e⟩ := m
    · exact .inr e
    · exact .inl ⟨g, .inr o, e⟩
  · obtain ⟨g, t | o | rfl, e⟩ := m
    · exact .inl ⟨g, .inl t, e⟩
    · exact .inl ⟨g, .inr o, e⟩
    · exact .inr e

/-- A hart of a new crew starts on its slice once it has its thread block. -/
def State.startOne (s : State) (app : Nat) (l : Launch) (cid unit rank va pages : Nat) (sl : Nat × Nat × Nat) : State :=
  let pr := s.firstPlane app sl.1 l
  (pr.2.addNext (startHart pr.2 app l cid unit rank pr.2.nextHart va pr.1 pages sl)).holdRow app l.lid sl

theorem startHarts_given {s1 : State} {app : Nat} {l : Launch} {cid unit rank va pages : Nat} {sl : Nat × Nat × Nat}
    {sls : List (Nat × Nat × Nat)} (h : s.giveBlock app l.stack = some (va, pages, s1)) : s.startHarts app l cid unit rank (sl :: sls) =
      (s1.startOne app l cid unit rank va pages sl).startHarts app l cid unit (rank + 1) sls := by
  rw [State.startHarts, h] <;> rfl

theorem startHarts_starved {app : Nat} {l : Launch} {cid unit rank : Nat} {sl : Nat × Nat × Nat} {sls : List (Nat × Nat × Nat)}
    (h : s.giveBlock app l.stack = none) : s.startHarts app l cid unit rank (sl :: sls) = none := by
  rw [State.startHarts, h]

/-- The hart that starts bears the next number and its crew's. -/
theorem startOne_roster (s : State) (app : Nat) (l : Launch) (cid unit rank va pages : Nat) (sl : Nat × Nat × Nat) :
    (∀ q ∈ (s.startOne app l cid unit rank va pages sl).roster.harts,
      q ∈ s.roster.harts ∨ q.1 = s.nextHart ∧ q.2.1 = BitVec.ofNat 32 cid) ∧
    (s.startOne app l cid unit rank va pages sl).roster.crews = s.roster.crews ∧
    (s.startOne app l cid unit rank va pages sl).nextHart = s.nextHart + 1 := by
  unfold State.startOne
  extract_lets pr
  have first : pr.2.roster = s.roster := State.firstPlane_roster ..
  have next : pr.2.nextHart = s.nextHart := congrArg Roster.nextHart first
  obtain ⟨harts, crews, next2⟩ := addNext_roster pr.2 (startHart pr.2 app l cid unit rank pr.2.nextHart va pr.1 pages sl)
  rw [first] at harts crews
  have hold := State.holdRow_roster (pr.2.addNext (startHart pr.2 app l cid unit rank pr.2.nextHart va pr.1 pages sl)) app l.lid sl
  refine ⟨fun q hq => ?_, (congrArg Roster.crews hold).trans crews,
    (congrArg Roster.nextHart hold).trans (next2.trans (congrArg (· + 1) next))⟩
  rw [hold] at hq
  refine (harts q hq).imp_right fun new => ?_
  cases new
  exact ⟨next, rfl⟩

/-- The harts of a new crew bear later numbers and the crew's; no crew is listed yet. -/
theorem startHarts_roster {app : Nat} {l : Launch} {cid unit : Nat} : ∀ {slots : List (Nat × Nat × Nat)} {rank : Nat} {s t : State},
    s.startHarts app l cid unit rank slots = some t →
      (∀ q ∈ t.roster.harts, q ∈ s.roster.harts ∨ s.nextHart ≤ q.1 ∧ q.2.1 = BitVec.ofNat 32 cid) ∧
      t.roster.crews = s.roster.crews
  | [], _, s, t, e => by
    cases e
    exact ⟨fun _ => .inl, rfl⟩
  | sl :: sls, rank, s, t, e => by
    cases block : s.giveBlock app l.stack with
    | none =>
      rw [startHarts_starved block] at e
      cases e
    | some r =>
      obtain ⟨va, pages, s1⟩ := r
      rw [startHarts_given block] at e
      have given := giveBlock_roster block
      have next : s1.nextHart = s.nextHart := congrArg Roster.nextHart given
      obtain ⟨harts1, crews1, next1⟩ := startOne_roster s1 app l cid unit rank va pages sl
      obtain ⟨harts, crews⟩ := startHarts_roster e
      rw [given, next] at harts1
      rw [given] at crews1
      rw [next1, next] at harts
      refine ⟨fun q hq => ?_, crews.trans crews1⟩
      rcases harts q hq with old | ⟨later, crew⟩
      · exact (harts1 q old).imp_right fun ⟨number, crew⟩ => ⟨Nat.le_of_eq number.symm, crew⟩
      · exact .inr ⟨Nat.le_of_succ_le later, crew⟩

/-- A launch of which one more work unit is placed. -/
def Launch.issueOne (l : Launch) : Launch := { l with issued := l.issued + 1 }

/-- A crew whose harts have started: the crew is listed, its work unit counts as placed, and the scheduler looks for work. -/
theorem placeCrew_started {s1 : State} {app lid : Nat} {l : Launch} {slots : List (Nat × Nat × Nat)}
    (hl : (s.app app).launch lid = some l) (hs : s.startHarts app l s.freshCrew l.issued 0 slots = some s1) :
    ∃ t : State, s.placeCrew app lid slots = t.kick ∧ t.hart = s1.hart ∧ t.others = s1.others ∧
      t.roster.crews = s1.roster.crews ++ [s.freshCrew] ∧ t.apps = (s1.updLaunch app lid Launch.issueOne).apps := by
  rw [State.freshCrew] at hs
  rw [State.placeCrew, hl]
  dsimp only
  rw [hs]
  refine ⟨_, rfl, rfl, rfl, ?_, rfl⟩
  simp only [State.updLaunch_roster]
  exact List.map_append

theorem placeCrew_starved {app lid : Nat} {l : Launch} {slots : List (Nat × Nat × Nat)} (hl : (s.app app).launch lid = some l)
    (hs : s.startHarts app l s.freshCrew l.issued 0 slots = none) : s.placeCrew app lid slots = s := by
  rw [State.freshCrew] at hs
  rw [State.placeCrew, hl]
  dsimp only
  rw [hs]

theorem placeCrew_unknown {app lid : Nat} (slots : List (Nat × Nat × Nat)) (hl : (s.app app).launch lid = none) :
    s.placeCrew app lid slots = s := by
  rw [State.placeCrew, hl]

/-- A crew placed is one more. -/
theorem placeCrew_oneMore (s : State) (app lid : Nat) (slots : List (Nat × Nat × Nat)) : s.OneMore (s.placeCrew app lid slots) := by
  cases hl : (s.app app).launch lid with
  | none => exact oneMore_of_roster (congrArg State.roster (placeCrew_unknown slots hl))
  | some l =>
    cases hs : s.startHarts app l s.freshCrew l.issued 0 slots with
    | none => exact oneMore_of_roster (congrArg State.roster (placeCrew_starved hl hs))
    | some s1 =>
      obtain ⟨harts, crews⟩ := startHarts_roster hs
      obtain ⟨t, placed, hart, others, crewsT, -⟩ := placeCrew_started hl hs
      have same : t.roster.harts = s1.roster.harts := by rw [State.roster, hart, others, State.roster]
      rw [placed, State.OneMore, State.kick_roster, same, crewsT, crews]
      exact ⟨harts, fun q hq => by simpa using hq⟩

/-! ### The ends of crews (R74, R90) -/

/-- What becomes of the rows that a crew leaves: other crews resume there, and at most one is placed. -/
theorem leaveRows_oneMore (s : State) (app lid : Nat) (cores : List Nat) : s.OneMore (s.leaveRows app lid cores) := by
  unfold State.leaveRows
  extract_lets kept t rest
  have freed : t.roster = s.roster := foldl_roster _ (fun u c => u.setLease_roster c _) _ s
  split
  · exact oneMore_of_roster freed
  split
  · exact oneMore_of_roster ((t.resumeCrew_roster _ _).trans freed)
  split
  · exact (placeCrew_oneMore t app lid _).congr freed rfl
  split
  · exact oneMore_of_roster freed
  · exact oneMore_of_roster ((foldl_roster _ State.giveRow_roster _ t).trans freed)

/-- Whether a context stays when those of a crew are taken away. -/
def Hart.outlives (cid : Nat) (h : Hart) : Bool := decide (h.run = .idle) || decide (h.crewid.toNat ≠ cid)

theorem keys_outlives (cid : Nat) : ∀ hs : List Hart, (hs.filter (Hart.outlives cid)).filterMap Hart.key =
    (hs.filterMap Hart.key).filter fun q => decide (q.2.1.toNat ≠ cid)
  | [] => rfl
  | h :: hs => by
    have ih := keys_outlives cid hs
    by_cases idle : h.run = .idle
    · simpa [Hart.outlives, Hart.key, idle] using ih
    · by_cases crew : h.crewid.toNat = cid <;> simpa [Hart.outlives, Hart.key, idle, crew] using ih

/-- The contexts of a crew are taken away, and no others; the rest of the roster stays. -/
theorem removeHarts_roster (s : State) (cid : Nat) :
    (s.removeHarts cid).roster = { s.roster with harts := s.roster.harts.filter fun q => decide (q.2.1.toNat ≠ cid) } := by
  have kept (t : State) (h : (t.hart :: t.others).filterMap Hart.key = ((s.hart :: s.others).filter (Hart.outlives cid)).filterMap Hart.key)
      (hc : t.crews = s.crews) (hn : t.nextHart = s.nextHart) (hm : t.nextCrew = s.nextCrew) :
      t.roster = { s.roster with harts := s.roster.harts.filter fun q => decide (q.2.1.toNat ≠ cid) } := by
    rw [State.roster, h, hc, hn, hm, keys_outlives]
    rfl
  show (if s.hart.outlives cid then { s with others := s.others.filter (Hart.outlives cid) }
    else match s.others.filter (Hart.outlives cid) with
      | [] => { s with hart := {}, others := [] }
      | h :: hs => { s with hart := h, others := hs } : State).roster = _
  by_cases stays : s.hart.outlives cid = true
  · rw [if_pos stays]
    exact kept _ (by rw [List.filter_cons_of_pos stays]) rfl rfl rfl
  · rw [if_neg stays]
    split
    · next none => exact kept _ (by rw [List.filter_cons_of_neg stays, none]; rfl) rfl rfl rfl
    · next h hs some => exact kept _ (by rw [List.filter_cons_of_neg stays, some]) rfl rfl rfl

/-- The thread blocks of a crew, its contexts and the crew itself are gone. -/
def State.strikeCrew (s : State) (cid : Nat) : State :=
  let t := (s.crewHarts cid).foldl State.dropBlock s
  { t.removeHarts cid with crews := t.crews.filter fun k => decide (k.id ≠ cid) }

/-- A launch once one more of its work units has ended. -/
def Launch.countUnit (unit : Nat) (failed : Bool) (l : Launch) : Launch :=
  { l with done := l.done + 1,
           nfail := if failed then l.nfail + 1 else l.nfail,
           firstFail := if failed then (if l.nfail = 0 then unit else min l.firstFail unit) else l.firstFail }

/-- The launch of a crew that has ended has counted its work unit and been looked at. -/
def State.countCrew (s : State) (c : Crew) (failed : Bool) : State :=
  (s.updLaunch c.app c.lid (Launch.countUnit c.unit failed)).endLaunch c.app c.lid

/-- The end of a crew: it is struck, its work unit counted, and the cores that it leaves are given on. -/
theorem endCrew_stages (s : State) (cid : Nat) (failed : Bool) {c : Crew} (hc : s.crewOf cid = some c) : ∃ cores,
    s.endCrew cid failed = (((s.strikeCrew cid).countCrew c failed).leaveRows c.app c.lid cores).kick := by
  rw [State.endCrew, hc]
  exact ⟨_, rfl⟩

theorem strikeCrew_roster (s : State) (cid : Nat) : (s.strikeCrew cid).roster =
    { s.roster with harts := s.roster.harts.filter fun q => decide (q.2.1.toNat ≠ cid),
                    crews := s.roster.crews.filter fun k => decide (k ≠ cid) } := by
  have freed : ((s.crewHarts cid).foldl State.dropBlock s).roster = s.roster := foldl_roster _ State.dropBlock_roster _ s
  have crews : (s.strikeCrew cid).roster.crews = s.roster.crews.filter fun k => decide (k ≠ cid) := by
    rw [← freed, State.roster, State.roster, List.filter_map]
    rfl
  have removed := removeHarts_roster ((s.crewHarts cid).foldl State.dropBlock s) cid
  rw [freed] at removed
  have struck : (s.strikeCrew cid).roster =
      { (((s.crewHarts cid).foldl State.dropBlock s).removeHarts cid).roster with crews := (s.strikeCrew cid).roster.crews } := rfl
  rw [struck, removed, crews]

/-- The end of a crew leaves none of its contexts and, but for one placed since then, not the crew. -/
theorem endCrew_roster (s : State) (cid : Nat) (failed : Bool) {c : Crew} (hc : s.crewOf cid = some c) :
    (∀ q ∈ (s.endCrew cid failed).roster.harts,
      q ∈ s.roster.harts ∧ q.2.1.toNat ≠ cid ∨ s.nextHart ≤ q.1 ∧ q.2.1 = BitVec.ofNat 32 s.freshCrew) ∧
    ∀ k ∈ (s.endCrew cid failed).roster.crews, k ∈ s.roster.crews ∧ k ≠ cid ∨ k = s.freshCrew := by
  obtain ⟨cores, stages⟩ := endCrew_stages s cid failed hc
  have counted : ((s.strikeCrew cid).countCrew c failed).roster = (s.strikeCrew cid).roster := State.endLaunch_roster _ _ _
  have struck := strikeCrew_roster s cid
  have next : (s.strikeCrew cid).nextHart = s.nextHart := congrArg Roster.nextHart struck
  have fresh : (s.strikeCrew cid).freshCrew = s.freshCrew := by
    have nextCrew : (s.strikeCrew cid).nextCrew = s.nextCrew := congrArg Roster.nextCrew struck
    rw [State.freshCrew, nextCrew, State.freshCrew]
  obtain ⟨harts, crews⟩ := (leaveRows_oneMore _ c.app c.lid cores).congr counted (State.kick_roster _)
  rw [struck, next, fresh] at harts
  rw [struck, fresh] at crews
  rw [stages]
  exact ⟨fun q hq => by simpa using harts q hq, fun k hk => by simpa using crews k hk⟩

end Sys2Proof.Machine
end

section
/-! SUPPORT. Traps that go to Riura (R80, R188, R276): the end of the crew, the stores that hold it back, and the stop for shdb. -/

namespace Sys2Proof.Machine

variable {s : State}

/-! ### Harts changed by a test -/

/-- A context after a change of harts is one from before, changed if it passes the test. -/
theorem mem_mapHarts {p : Hart → Bool} {f : Hart → Hart} {g : Hart} (m : g ∈ (s.mapHarts p f).harts) :
    (∃ h ∈ s.harts, p h = true ∧ g = f h) ∨ g ∈ s.harts ∧ p g = false := by
  have all : (s.mapHarts p f).hart :: (s.mapHarts p f).others =
      (s.hart :: s.others).map fun h => if decide (h.run ≠ .idle) && p h then f h else h := rfl
  rw [State.harts, all, List.mem_filter, List.mem_map] at m
  obtain ⟨⟨h, hm, rfl⟩, run⟩ := m
  by_cases idle : h.run = .idle
  · simp [idle] at run
  · have here : h ∈ s.harts := List.mem_filter.mpr ⟨hm, by simpa using idle⟩
    cases hp : p h
    · rw [if_neg (by simp)]
      exact .inr ⟨here, hp⟩
    · exact .inl ⟨h, here, hp, if_pos (by simp [idle])⟩

theorem mem_mapHarts_of_mem {p : Hart → Bool} {f : Hart → Hart} {h : Hart} (m : h ∈ s.harts) (hp : p h = true)
    (run : (f h).run ≠ .idle) : f h ∈ (s.mapHarts p f).harts := by
  have all : (s.mapHarts p f).hart :: (s.mapHarts p f).others =
      (s.hart :: s.others).map fun h => if decide (h.run ≠ .idle) && p h then f h else h := rfl
  obtain ⟨here, there⟩ := List.mem_filter.mp m
  rw [State.harts, all, List.mem_filter, List.mem_map]
  exact ⟨⟨h, here, if_pos (Bool.and_eq_true_iff.mpr ⟨there, hp⟩)⟩, decide_eq_true run⟩

/-- The harts of a halted crew issue nothing more. -/
theorem haltCrew_halts {cid : Nat} {g : Hart} (m : g ∈ (s.haltCrew cid).harts) (hc : g.crewid.toNat = cid) :
    g.ended = true ∧ g.run ≠ .running := by
  rcases mem_mapHarts m with ⟨h, -, -, rfl⟩ | ⟨-, other⟩
  · refine ⟨rfl, ?_⟩
    dsimp only
    split
    · exact fun e => nomatch e
    · next run => exact run
  · exact absurd hc (of_decide_eq_false other)

/-! ### The end of the crew (R80, R188) -/

/-- What a crew has in flight is dropped, and the members of its collectives are told. -/
def State.dropCrew (s : State) (cid app : Nat) : State := ((s.crewHarts cid).foldl State.dropHart s).peerKill app

theorem dropCrew_roster (s : State) (cid app : Nat) : (s.dropCrew cid app).roster = s.roster :=
  (State.peerKill_roster _ _).trans (foldl_roster _ State.dropHart_roster _ s)

/-- A migration holds back a store of a crew. -/
def State.storeHeld (s : State) (cid : Nat) : Prop := ∃ q ∈ s.roster.harts, q.2.1.toNat = cid ∧ q.2.2 = true

theorem any_parked_iff (s : State) (cid : Nat) : (s.crewHarts cid).any Hart.parked = true ↔ s.storeHeld cid := by
  simp only [State.storeHeld, List.any_eq_true, State.crewHarts, List.mem_filter, decide_eq_true_eq, mem_roster_harts]
  constructor
  · rintro ⟨h, ⟨m, crew⟩, parked⟩
    exact ⟨_, ⟨h, m, rfl⟩, crew, parked⟩
  · rintro ⟨_, ⟨h, m, rfl⟩, crew, parked⟩
    exact ⟨h, ⟨m, crew⟩, parked⟩

theorem crewOf_id {cid : Nat} {k : Crew} (h : s.crewOf cid = some k) : k.id = cid := by
  have found := List.find?_some h
  exact of_decide_eq_true found

theorem crewOf_isSome_of_roster {s t : State} (h : t.roster = s.roster) {cid : Nat} {k : Crew} (hk : s.crewOf cid = some k) :
    ∃ k', t.crewOf cid = some k' := by
  have listed : cid ∈ t.roster.crews := by
    rw [h]
    exact List.mem_map.mpr ⟨k, List.mem_of_find?_eq_some hk, crewOf_id hk⟩
  obtain ⟨k', m, id⟩ := List.mem_map.mp listed
  exact Option.isSome_iff_exists.mp (List.find?_isSome.mpr ⟨k', m, decide_eq_true id⟩)

variable {k : Crew} {status : Nat} (hk : s.crewOf s.hart.crewid.toNat = some k)

include hk

theorem trapExit_ends (h : ¬ s.storeHeld s.hart.crewid.toNat) :
    s.trapExit status = (s.dropCrew s.hart.crewid.toNat k.app).endCrew s.hart.crewid.toNat true := by
  rw [State.storeHeld, ← dropCrew_roster s s.hart.crewid.toNat k.app, ← State.storeHeld, ← any_parked_iff] at h
  rw [State.trapExit]
  dsimp only
  rw [hk]
  exact if_neg h

theorem trapExit_waits (h : s.storeHeld s.hart.crewid.toNat) :
    s.trapExit status = (((s.dropCrew s.hart.crewid.toNat k.app).updHart s.hart.id fun h => { h with inCall := true }).haltCrew
      s.hart.crewid.toNat).later .riuraCrewexit { caller := .hart s.hart.id, a1 := BitVec.ofNat 64 status } := by
  rw [State.storeHeld, ← dropCrew_roster s s.hart.crewid.toNat k.app, ← State.storeHeld, ← any_parked_iff] at h
  rw [State.trapExit]
  dsimp only
  rw [hk]
  exact if_pos h

/-- With no store held back, the crew's harts are gone, but for those of crews placed since then. -/
theorem trapExit_gone (h : ¬ s.storeHeld s.hart.crewid.toNat) {g : Hart} (m : g ∈ (s.trapExit status).harts)
    (hc : g.crewid = s.hart.crewid) : s.nextHart ≤ g.id := by
  have same := dropCrew_roster s s.hart.crewid.toNat k.app
  obtain ⟨k', found⟩ := crewOf_isSome_of_roster same hk
  rw [trapExit_ends hk h] at m
  rcases (endCrew_roster _ _ true found).1 _ (mem_roster_of_mem m) with ⟨-, other⟩ | ⟨later, -⟩
  · exact absurd (congrArg BitVec.toNat hc) other
  · have next : (s.dropCrew s.hart.crewid.toNat k.app).nextHart = s.nextHart := congrArg Roster.nextHart same
    exact next ▸ later

omit hk

/-! ### Traps (R276) -/

/-- The machine once the trap registers of the hart whose turn it is are written. -/
def State.withTrap (s : State) (c : Cause) (tval : Word) (telem : Nat) : State := { s with hart := s.hart.trapRegs c tval telem }

variable {c : Cause} {tval : Word} {telem : Nat}

theorem takeTrap_exit (h : s.hart.toRiura = true) (hb : ¬ (c = .brk ∧ (s.app s.hart.app).shdb = true)) :
    s.takeTrap c tval telem = (s.withTrap c tval telem).trapExit (0xFFFFFF00 + c.code) := by
  rw [State.takeTrap, if_pos h]
  exact if_neg hb

theorem takeTrap_debug (h : s.hart.toRiura = true) (hb : c = .brk ∧ (s.app s.hart.app).shdb = true) :
    s.takeTrap c tval telem = ((s.withTrap c tval telem).mapHarts (fun h => decide (h.crewid = s.hart.crewid)) fun h =>
      { h with stopped := true }).updCrew s.hart.crewid.toNat fun k => { k with debugHeld := true } := by
  rw [State.takeTrap, if_pos h]
  exact if_pos hb

/-- A store held back is that of a crew-mate: the hart that traps waits for none. -/
theorem withTrap_storeHeld_iff : (s.withTrap c tval telem).storeHeld s.hart.crewid.toNat ↔
    ∃ g ∈ s.others, (g.run ≠ .idle ∧ g.crewid = s.hart.crewid) ∧ g.parked = true := by
  simp only [State.storeHeld, mem_roster_harts, State.harts, List.mem_filter, List.mem_cons, decide_eq_true_eq, ← BitVec.toNat_inj]
  constructor
  · rintro ⟨_, ⟨h, ⟨rfl | m, run⟩, rfl⟩, crew, parked⟩
    · cases parked
    · exact ⟨h, m, ⟨run, crew⟩, parked⟩
  · rintro ⟨g, m, ⟨run, crew⟩, parked⟩
    exact ⟨_, ⟨g, ⟨.inr m, run⟩, rfl⟩, crew, parked⟩

/-- A context as it stands once the trap registers are written: number, place and crew stay. -/
theorem mem_withTrap {g : Hart} (m : g ∈ s.harts) :
    ∃ q ∈ (s.withTrap c tval telem).harts, q.id = g.id ∧ q.pc = g.pc ∧ q.crewid = g.crewid ∧ q.run = g.run := by
  obtain ⟨here, run⟩ := List.mem_filter.mp m
  rcases List.mem_cons.mp here with rfl | other
  · exact ⟨s.hart.trapRegs c tval telem, List.mem_filter.mpr ⟨List.mem_cons_self .., run⟩, rfl, rfl, rfl, rfl⟩
  · exact ⟨g, List.mem_filter.mpr ⟨List.mem_cons_of_mem _ other, run⟩, rfl, rfl, rfl, rfl⟩

end Sys2Proof.Machine
end

section
/-! The settled obligation. -/

namespace Sys2Proof.Machine

/-- Settles O15: with no store held back the end of the crew is `trapExit_gone`, else the crew halts (`haltCrew_halts`). -/
theorem trapToRiura : Obligations.TrapToRiura := by
  unfold Obligations.TrapToRiura
  intro s c tval telem k u mate goes _ hk
  have riura : s.hart.toRiura = true := by simpa [Hart.toRiura] using goes
  refine ⟨fun hb => ⟨fun free g m hc => ?ends, fun held => ?waits⟩, fun hc hd g m hg => ?stops⟩
  case ends =>
    have none : ¬ (s.withTrap c tval telem).storeHeld s.hart.crewid.toNat := by
      rw [withTrap_storeHeld_iff]
      rintro ⟨g, m, hm, parked⟩
      exact Bool.false_ne_true ((free g m hm).symm.trans parked)
    rw [show u = _ from takeTrap_exit riura hb] at m
    exact trapExit_gone (s := s.withTrap c tval telem) hk none m hc
  case waits =>
    have stands : u = _ := (takeTrap_exit riura hb).trans
      (trapExit_waits (s := s.withTrap c tval telem) hk (withTrap_storeHeld_iff.mpr held))
    rw [stands]
    refine ⟨fun g m hg => ?_, _, mem_later_jobs _ _ _, rfl, rfl⟩
    rw [later_frame] at m
    exact haltCrew_halts m (congrArg BitVec.toNat hg.2)
  case stops =>
    rw [show u = _ from takeTrap_debug riura ⟨hc, hd⟩]
    obtain ⟨q, mq, id, pc, crew, run⟩ := mem_withTrap (c := c) (tval := tval) (telem := telem) m
    refine ⟨{ q with stopped := true }, ?_, id, rfl, pc⟩
    exact mem_mapHarts_of_mem (p := fun h => decide (h.crewid = s.hart.crewid)) (f := fun h => { h with stopped := true }) mq
      (decide_eq_true (crew.trans hg.2)) (run ▸ hg.1)

end Sys2Proof.Machine
end

section
/-! SUPPORT. Work units counted (R74, R79): what the end of a crew leaves of the launches. -/

namespace Sys2Proof.Machine

variable (s : State)

/-! ### What leaves the launches alone -/

/-- A fold of operations that leave the launches alone leaves them alone. -/
theorem foldl_launchTable {α : Type} (f : State → α → State)
    (hf : ∀ (s : State) (x : α), launchTable (f s x).apps = launchTable s.apps) :
    ∀ (xs : List α) (s : State), launchTable (xs.foldl f s).apps = launchTable s.apps
  | [], _ => rfl
  | x :: xs, s => (foldl_launchTable f hf xs (f s x)).trans (hf s x)

@[simp] theorem State.dropBlock_launchTable (h) : launchTable (s.dropBlock h).apps = launchTable s.apps := by
  rw [State.dropBlock, State.releaseMaps_apps]
  exact setApp_launchTable s rfl rfl

theorem strikeCrew_launchTable (cid : Nat) : launchTable (s.strikeCrew cid).apps = launchTable s.apps := by
  show launchTable (((s.crewHarts cid).foldl State.dropBlock s).removeHarts cid).apps = _
  rw [State.removeHarts_apps]
  exact foldl_launchTable _ State.dropBlock_launchTable _ s

@[simp] theorem State.preload_launchTable (app core l) : launchTable (s.preload app core l).2.apps = launchTable s.apps := by
  unfold State.preload
  split
  · rfl
  · dsimp only
    split
    · rfl
    · dsimp only
      split <;> simp

@[simp] theorem State.firstPlane_launchTable (app core l) : launchTable (s.firstPlane app core l).2.apps = launchTable s.apps := by
  unfold State.firstPlane
  split <;> simp

theorem giveBlock_launchTable {s t : State} {app k va n : Nat} (e : s.giveBlock app k = some (va, n, t)) :
    launchTable t.apps = launchTable s.apps := by
  unfold State.giveBlock at e
  dsimp only at e
  split at e
  · cases e
  · next pa s1 hs =>
    split at e <;> cases e
    rw [setApp_launchTable s1 (by rfl) (by rfl), takeFrames_apps hs]

theorem startOne_launchTable (app l cid unit rank va pages sl) :
    launchTable (s.startOne app l cid unit rank va pages sl).apps = launchTable s.apps := by
  rw [State.startOne, State.holdRow_apps, State.addNext, State.addHart_apps]
  exact State.firstPlane_launchTable s app sl.1 l

theorem startHarts_launchTable {app l cid unit} : ∀ {slots : List (Nat × Nat × Nat)} {rank : Nat} {s t : State},
    s.startHarts app l cid unit rank slots = some t → launchTable t.apps = launchTable s.apps
  | [], _, _, _, e => by cases e; rfl
  | sl :: sls, rank, s, t, e => by
    cases block : s.giveBlock app l.stack with
    | none =>
      rw [startHarts_starved block] at e
      cases e
    | some r =>
      obtain ⟨va, pages, s1⟩ := r
      rw [startHarts_given block] at e
      rw [startHarts_launchTable e, startOne_launchTable, giveBlock_launchTable block]

@[simp] theorem State.reloadPlanes_launchTable (id) : launchTable (s.reloadPlanes id).apps = launchTable s.apps := by
  unfold State.reloadPlanes
  dsimp only
  (repeat' split) <;> simp [State.updHart]

@[simp] theorem State.resumeOne_launchTable (h sl) : launchTable (s.resumeOne h sl).apps = launchTable s.apps := by
  unfold State.resumeOne
  dsimp only
  split <;> simp [State.updHart]

@[simp] theorem State.resumeHarts_launchTable (cid) : ∀ (hs sls) (s : State),
    launchTable (s.resumeHarts cid hs sls).apps = launchTable s.apps
  | [], _, _ => by simp [State.resumeHarts]
  | _ :: _, [], _ => rfl
  | h :: hs, sl :: sls, s => by
    rw [resumeHarts_cons, State.resumeHarts_launchTable cid hs sls, State.resumeOne_launchTable]

@[simp] theorem State.resumeCrew_launchTable (cid slots) : launchTable (s.resumeCrew cid slots).apps = launchTable s.apps := by
  simp [State.resumeCrew]

/-! ### The counts of work units ended -/

/-- How many work units of a launch have ended, and how many of them failed. -/
def State.unitCounts (k lid : Nat) : Option (Nat × Nat) := ((s.app k).launch lid).map fun l => (l.done, l.nfail)

theorem unitCounts_of_table {s t : State} (h : launchTable t.apps = launchTable s.apps) (k lid : Nat) :
    t.unitCounts k lid = s.unitCounts k lid := by
  rw [State.unitCounts, launch_of_table h, State.unitCounts]

/-- A change of a launch that keeps its ID and its counts keeps the counts of that ID. -/
theorem updLaunch_unitCounts (k lid : Nat) {f : Launch → Launch}
    (hf : ∀ l, (f l).lid = l.lid ∧ (f l).done = l.done ∧ (f l).nfail = l.nfail) :
    (s.updLaunch k lid f).unitCounts k lid = s.unitCounts k lid := by
  rw [State.unitCounts, updLaunch_launch s k lid fun l => (hf l).1, Option.map_map, State.unitCounts]
  exact congrArg (fun g => Option.map g _) (funext fun l => by simp [(hf l).2])

/-- The next crew of a launch counts no work unit. -/
theorem placeCrew_unitCounts (k lid : Nat) (slots : List (Nat × Nat × Nat)) :
    (s.placeCrew k lid slots).unitCounts k lid = s.unitCounts k lid := by
  cases hl : (s.app k).launch lid with
  | none => rw [placeCrew_unknown slots hl]
  | some l =>
    cases hs : s.startHarts k l s.freshCrew l.issued 0 slots with
    | none => rw [placeCrew_starved hl hs]
    | some s1 =>
      obtain ⟨t, placed, -, -, -, apps⟩ := placeCrew_started hl hs
      rw [placed, unitCounts_of_table (congrArg launchTable (t.kick_apps.trans apps)),
        updLaunch_unitCounts s1 k lid (f := Launch.issueOne) fun _ => ⟨rfl, rfl, rfl⟩]
      exact unitCounts_of_table (startHarts_launchTable hs) k lid

theorem leaveRows_unitCounts (k lid : Nat) (cores : List Nat) : (s.leaveRows k lid cores).unitCounts k lid = s.unitCounts k lid := by
  unfold State.leaveRows
  extract_lets kept t rest
  have freed : t.apps = s.apps := foldl_apps _ (fun _ _ => State.setLease_apps _ _ _) _ s
  have same : t.unitCounts k lid = s.unitCounts k lid := unitCounts_of_table (congrArg launchTable freed) k lid
  split
  · exact same
  split
  · exact (unitCounts_of_table (t.resumeCrew_launchTable _ _) k lid).trans same
  split
  · exact (placeCrew_unitCounts t k lid _).trans same
  split
  · exact same
  · exact (unitCounts_of_table (congrArg launchTable (foldl_apps _ State.giveRow_apps _ t)) k lid).trans same

/-- The end of a crew counts its work unit. -/
theorem endCrew_launch (cid : Nat) (failed : Bool) {c : Crew} {l : Launch} (hc : s.crewOf cid = some c)
    (hl : (s.app c.app).launch c.lid = some l) : ∃ l', ((s.endCrew cid failed).app c.app).launch c.lid = some l' ∧
      l'.done = l.done + 1 ∧ l'.nfail = if failed then l.nfail + 1 else l.nfail := by
  obtain ⟨cores, stages⟩ := endCrew_stages s cid failed hc
  have struck : ((s.strikeCrew cid).app c.app).launch c.lid = some l := (launch_of_table (strikeCrew_launchTable s cid) _ _).trans hl
  have unit : (((s.strikeCrew cid).updLaunch c.app c.lid (Launch.countUnit c.unit failed)).app c.app).launch c.lid =
      some (l.countUnit c.unit failed) := by
    rw [updLaunch_launch _ _ _ (f := Launch.countUnit c.unit failed) fun _ => rfl, struck]
    rfl
  have counted : ((s.strikeCrew cid).countCrew c failed).unitCounts c.app c.lid =
      some (l.done + 1, if failed then l.nfail + 1 else l.nfail) := by
    rw [State.unitCounts, State.countCrew, endLaunch_launch unit, Option.map_some, Launch.closed_done, Launch.closed_nfail]
    rfl
  have counts : (s.endCrew cid failed).unitCounts c.app c.lid = some (l.done + 1, if failed then l.nfail + 1 else l.nfail) := by
    rw [stages, unitCounts_of_table (congrArg launchTable (State.kick_apps _)), leaveRows_unitCounts, counted]
  obtain ⟨l', found, e⟩ := Option.map_eq_some_iff.mp counts
  exact ⟨l', found, congrArg Prod.fst e, congrArg Prod.snd e⟩

end Sys2Proof.Machine
end

section
/-! SUPPORT. CREWEXIT of a hart (R74, R80) and WSLOAD (R174). -/

namespace Sys2Proof.Machine

variable {s : State}

/-! ### CREWEXIT -/

theorem exec_riuraCrewexit_hart {h : Hart} (c : s.hartCalls h) : exec .riuraCrewexit s = .next (
    match s.crewTransfers h.crewid.toNat with
    | t :: _ => (s.postFront .riuraCrewexit s.inp).postFront .transferRetire { n := t }
    | [] =>
      if s.crewBusy h.crewid.toNat then (s.haltCrew h.crewid.toNat).later .riuraCrewexit s.inp
      else s.endCrew h.crewid.toNat (decide (s.inp.a1.toNat % 2 ^ 32 ≠ 0))) := by
  obtain ⟨caller, here, -⟩ := id c
  show execRiuraCrewexit s = _
  rw [execRiuraCrewexit, service_hart _ _ c, caller]
  dsimp only
  rw [here] <;> rfl

/-- No transfer of a crew is in flight where none is one of its harts. -/
theorem crewTransfers_nil {cid : BitVec 32} (h : ∀ t ∈ s.transfers, ∀ g ∈ s.harts, g.crewid = cid → g.id ≠ t.hart) :
    s.crewTransfers cid.toNat = [] := by
  rw [State.crewTransfers, List.map_eq_nil_iff, List.filter_eq_nil_iff]
  intro t ht
  have none : ((s.crewHarts cid.toNat).any fun g => decide (g.id = t.hart)) = false := by
    rw [List.any_eq_false]
    intro g hg
    obtain ⟨m, crew⟩ := List.mem_filter.mp hg
    simpa using h t ht g m (BitVec.eq_of_toNat_eq (of_decide_eq_true crew))
  simp [none]

/-- Where the next crew bears another number, the end of a crew leaves neither harts of it nor the crew. -/
theorem endCrew_gone {c : Crew} {cid : BitVec 32} (failed : Bool) (hc : s.crewOf cid.toNat = some c) (fresh : s.freshCrew ≠ c.id) :
    (∀ g ∈ (s.endCrew cid.toNat failed).harts, g.crewid ≠ cid) ∧ ∀ k ∈ (s.endCrew cid.toNat failed).crews, k.id ≠ c.id := by
  obtain ⟨harts, crews⟩ := endCrew_roster s cid.toNat failed hc
  have id := crewOf_id hc
  have small : s.freshCrew < 2 ^ 32 := Nat.mod_lt _ (by decide)
  refine ⟨fun g m same => ?_, fun k m same => ?_⟩
  · rcases harts _ (mem_roster_of_mem m) with ⟨-, other⟩ | ⟨-, new⟩
    · exact other (congrArg BitVec.toNat same)
    · have number : cid.toNat = s.freshCrew := by
        rw [← same, show g.crewid = _ from new, BitVec.toNat_ofNat, Nat.mod_eq_of_lt small]
      exact fresh (number.symm.trans id.symm)
  · rcases crews _ (List.mem_map.mpr ⟨k, m, rfl⟩) with ⟨-, other⟩ | new
    · exact other (same.trans id)
    · exact fresh (new.symm.trans same)

/-! ### WSLOAD -/

variable {k : Nat}

theorem exec_riuraWsload (h : s.ctlCalls k) : exec .riuraWsload s = .next (
    if !s.wsOk k then s.gives k eInval
    else if (s.app k).launches.any fun l => l.ended.isNone then s.gives k eBusy
    else if (s.wsBytes k s.inp.a1.toNat s.inp.a3.toNat).isNone then s.gives k eInval
    else (s.setApp k { s.app k with pend := some ⟨.wsload, none⟩ }).later .wsloadReturn s.inp) := by
  show execRiuraWsload s = _
  rw [execRiuraWsload, service_ctl _ _ h]
  simp only [ret_ctl _ h.1]

theorem diesOf_one {d : Nat} (h : d < 4) : diesOf (BitVec.ofNat 64 (2 ^ d)).toNat = [d] := by
  revert d
  decide

/-- The cells of a run of bytes without poison, from a base up. -/
theorem wsCells (base : Nat) (vs : List Nat) :
    (List.zip (List.range (vs.map some).length) (vs.map some)).map (fun x => (base + x.1, x.2.getD 0)) =
      (List.range vs.length).flatMap fun i => (some (vs.getD (base + i - base) 0)).toList.map fun v => (base + i, v) := by
  have each : (List.range vs.length).flatMap (fun i => (some (vs.getD (base + i - base) 0)).toList.map fun v => (base + i, v)) =
      (List.range vs.length).map fun i => (base + i, vs.getD i 0) := by
    rw [List.map_eq_flatMap]
    simp
  rw [each]
  refine List.ext_getElem (by simp) fun i h1 h2 => ?_
  simp at h1
  simp [h1]

/-- No granule becomes poison where no byte is. -/
theorem foldl_setPoison_none (base : Nat) : ∀ (cells : List (Nat × Option Nat)) (t : State), (∀ x ∈ cells, x.2.isNone = false) →
    cells.foldl (fun u x => if x.2.isNone then u.setPoison ((base + x.1) / 64) true else u) t = t
  | [], _, _ => rfl
  | x :: cells, t, h => by
    rw [List.foldl_cons, h x (List.mem_cons_self ..), if_neg Bool.false_ne_true]
    exact foldl_setPoison_none base cells t fun y hy => h y (List.mem_cons_of_mem _ hy)

/-- Bytes without poison are written to a die's share as they are. -/
theorem wsWrite_plain (s : State) (k off d : Nat) (vs : List Nat) : s.wsWrite k off (vs.map some) d =
    s.writePhys false ((List.range vs.length).flatMap fun i =>
      (some (vs.getD (weightBase d + mget 0 (s.app k).wsOff d + off + i - (weightBase d + mget 0 (s.app k).wsOff d + off)) 0)).toList.map
        fun v => (weightBase d + mget 0 (s.app k).wsOff d + off + i, v)) := by
  rw [← wsCells, State.wsWrite]
  refine foldl_setPoison_none _ _ _ fun x hx => ?_
  obtain ⟨v, -, e⟩ := List.mem_map.mp (List.of_mem_zip hx).2
  rw [← e]
  rfl

theorem mget_wsWrite (s : State) (k off d p : Nat) (vs : List Nat) :
    mget unlistedByte (s.wsWrite k off (vs.map some) d).mem p =
      if weightBase d + mget 0 (s.app k).wsOff d + off ≤ p ∧ p < weightBase d + mget 0 (s.app k).wsOff d + off + vs.length then
        BitVec.ofNat 8 (vs.getD (p - (weightBase d + mget 0 (s.app k).wsOff d + off)) 0)
      else mget unlistedByte s.mem p := by
  rw [wsWrite_plain]
  exact mget_putCells_range (fun q => some (vs.getD (q - (weightBase d + mget 0 (s.app k).wsOff d + off)) 0)) s.mem _ p vs.length

/-- WSLOAD returns with the share of the one die that it names filled (R174). -/
theorem exec_wsloadReturn {d : Nat} {vs : List Nat} (hc : s.inp.caller = .ctl k)
    (hp : (s.app k).pend = some ⟨.wsload, none⟩) (hd : d < 4) (h4 : s.inp.a4 = BitVec.ofNat 64 (2 ^ d)) (hb : s.wsBytes k s.inp.a1.toNat s.inp.a3.toNat = some (vs.map some)) :
    exec .wsloadReturn s = .next ((s.wsWrite k s.inp.a2.toNat (vs.map some) d).gives k 0) := by
  have ret : (s.wsWrite k s.inp.a2.toNat (vs.map some) d).ret 0 = (s.wsWrite k s.inp.a2.toNat (vs.map some) d).gives k 0 := by
    refine ret_ctl 0 ?_
    rw [wsWrite_plain]
    exact hc
  show execWsloadReturn s = _
  rw [execWsloadReturn, hc]
  dsimp only
  rw [if_pos hp, hb]
  dsimp only
  rw [h4, diesOf_one hd, List.foldl_cons, List.foldl_nil, ret]

end Sys2Proof.Machine
end

section
/-! The settled obligation. -/

namespace Sys2Proof.Machine

/-- Settles O46: the end of the crew by `endCrew_gone` and `endCrew_launch`; the shares that WSLOAD fills by `mget_wsWrite`. -/
theorem crewExitAndWeights : Obligations.CrewExitAndWeights := by
  unfold Obligations.CrewExitAndWeights
  refine ⟨fun s h c l hh hc hl hx hb fresh => ?ends, fun s h t ts hh hx => ?transfers, fun s h hh hx hb => ?busy,
    fun s k hk => ⟨fun hw => ?badArgs, fun hw live => ?live, fun hw live hn => ?unread, fun hw live hn => ?starts⟩,
    fun s k d vs hc hp hd h4 hb => ?returns⟩
  case ends =>
    obtain ⟨harts, crews⟩ := endCrew_gone (decide (s.inp.a1.toNat % 2 ^ 32 ≠ 0)) hc fresh
    obtain ⟨l', found, done, nfail⟩ := endCrew_launch s h.crewid.toNat (decide (s.inp.a1.toNat % 2 ^ 32 ≠ 0)) hc hl
    refine ⟨_, l', ?_, harts, crews, found, done, nfail.trans ?_⟩
    · rw [exec_riuraCrewexit_hart hh, crewTransfers_nil hx]
      exact congrArg _ (if_neg (by simp [hb]))
    · simp
  case transfers =>
    rw [exec_riuraCrewexit_hart hh, hx]
    rfl
  case busy =>
    rw [exec_riuraCrewexit_hart hh, hx]
    exact congrArg _ (if_pos hb)
  case badArgs =>
    rw [exec_riuraWsload hk, hw]
    rfl
  case live =>
    rw [exec_riuraWsload hk, hw]
    exact congrArg _ (if_pos live)
  case unread =>
    rw [exec_riuraWsload hk, hw, hn]
    exact congrArg _ (if_neg (ne_true_of_eq_false live))
  case starts =>
    have some : ¬ (s.wsBytes k s.inp.a1.toNat s.inp.a3.toNat).isNone = true := fun none => hn (Option.isNone_iff_eq_none.mp none)
    rw [exec_riuraWsload hk, hw]
    exact congrArg _ ((if_neg (ne_true_of_eq_false live)).trans (if_neg some))
  case returns =>
    have app : ∀ t : State, (t.gives k 0).app k = { t.app k with ctlA0 := 0, pend := none } := fun t =>
      (app_setApp _ _ _ _).trans (if_pos rfl)
    exact ⟨_, exec_wsloadReturn hc hp hd h4 hb, congrArg App.ctlA0 (app _), congrArg App.pend (app _),
      fun p => mget_wsWrite s k s.inp.a2.toNat d p vs⟩

end Sys2Proof.Machine
end

section
/-! SUPPORT. A crew placed reaps the frames that have left their applications (R29, R185): the links to them are gone (R216). -/

namespace Sys2Proof.Machine

/-! ### No hart holds a link -/

/-- No hart holds a link. -/
def State.unlinked (s : State) : Prop := ∀ h ∈ s.hart :: s.others, h.links = []

theorem unlinked_congr {s t : State} (hs : s.unlinked) (hh : t.hart = s.hart) (ho : t.others = s.others) : t.unlinked := by
  rw [State.unlinked, hh, ho]
  exact hs

theorem unlinked_rows {s t : State} (hs : s.unlinked) (h : s.SameButRows t) : t.unlinked :=
  unlinked_congr hs (h.proj State.hart fun _ _ _ _ => rfl) (h.proj State.others fun _ _ _ _ => rfl)

theorem scrub_unlinked {s : State} (hs : s.unlinked) (pa len : Nat) : (s.scrub pa len).unlinked := by
  have cut (h : Hart) (e : h.links = []) : (h.cutLinks pa len true).links = [] := by simp [Hart.cutLinks, e]
  intro h m
  rcases List.mem_cons.mp m with rfl | m
  · exact cut _ (hs _ (List.mem_cons_self ..))
  · obtain ⟨g, mg, rfl⟩ := List.mem_map.mp m
    exact cut _ (hs g (List.mem_cons_of_mem _ mg))

theorem addHart_unlinked {s : State} (hs : s.unlinked) {h : Hart} (e : h.links = []) : (s.addHart h).unlinked := by
  unfold State.addHart
  split <;> intro g m
  · rcases List.mem_cons.mp m with rfl | m
    · exact e
    · exact hs g (List.mem_cons_of_mem _ m)
  · rw [← List.cons_append, List.mem_append, List.mem_singleton] at m
    rcases m with m | rfl
    · exact hs g m
    · exact e

/-! ### What a placement does to the links -/

variable {s t : State} {app : Nat} {l : Launch}

/-- A thread block is taken from reaped frames. -/
theorem giveBlock_unlinked {k va n : Nat} (hs : s.reap.unlinked) (e : s.giveBlock app k = some (va, n, t)) : t.unlinked := by
  unfold State.giveBlock at e
  dsimp only at e
  split at e
  · cases e
  · next pa s1 taken =>
    unfold State.takeFrames at taken
    dsimp only at taken
    split at taken
    · cases taken
    · cases taken
      split at e <;> cases e
      exact scrub_unlinked hs _ _

theorem firstPlane_unlinked (hs : s.unlinked) (core : Nat) : (s.firstPlane app core l).2.unlinked := by
  have preload : (s.preload app core l).2.unlinked := by
    unfold State.preload
    split
    · exact hs
    · dsimp only
      split
      · exact hs
      · dsimp only
        split <;> exact hs
  unfold State.firstPlane
  split
  · exact hs
  · exact preload

theorem holdRow_unlinked (hs : s.unlinked) (lid : Nat) (sl : Nat × Nat × Nat) : (s.holdRow app lid sl).unlinked := by
  unfold State.holdRow
  split <;> exact hs

theorem startOne_unlinked (hs : s.unlinked) (cid unit rank va pages : Nat) (sl : Nat × Nat × Nat) :
    (s.startOne app l cid unit rank va pages sl).unlinked :=
  holdRow_unlinked (addHart_unlinked (s := { (s.firstPlane app sl.1 l).2 with nextHart := (s.firstPlane app sl.1 l).2.nextHart + 1 })
    (firstPlane_unlinked hs sl.1) rfl) l.lid sl

/-- A crew of one hart whose thread block finds room is placed, and no hart holds a link where reaping leaves none. -/
theorem placeCrew_one {lid : Nat} {sl : Nat × Nat × Nat} (hl : (s.app app).launch lid = some l) (hs : s.reap.unlinked)
    (room : (s.giveBlock app l.stack).isSome = true) : (s.placeCrew app lid [sl]).unlinked := by
  obtain ⟨⟨va, pages, s1⟩, given⟩ := Option.isSome_iff_exists.mp room
  have started : s.startHarts app l s.freshCrew l.issued 0 [sl] = some (s1.startOne app l s.freshCrew l.issued 0 va pages sl) :=
    (startHarts_given given).trans rfl
  obtain ⟨t, placed, hart, others, -, -⟩ := placeCrew_started hl started
  rw [placed]
  exact unlinked_rows (unlinked_congr (startOne_unlinked (giveBlock_unlinked hs given) _ _ _ _ _ _) hart others) (kick_rows t)

/-! ### A placement that breaks a link -/

/-- A launch of two crews of one hart, of which one is placed. -/
def twoCrews : Launch :=
  { lid := 1, kernel := {}, units := 2, crew := 1, vlgmin := 0, prio := 0, cluster := 0, quad := false, deps := [], stack := 0,
    args := 0, const := 0, compl := 0, plane := 0, plfmt := 0, plk := 0, issued := 1, limit := 2, cancelled := false, done := 0,
    nfail := 0, firstFail := 0, ended := none, accept := 0 }

/-- Its first crew runs on slice 0 of core 0, and holds a link to a line of a frame that has left the application and that no sample
covers any more (R29, R185, R216). The second crew can be placed beside it. -/
def linkToLeft : State :=
  { hart := { id := 1, run := .running, cut := 4, vlgrant := 64, newGrant := 64, crewid := 1, launchid := 1, unitn := 2,
              links := [0x240] },
    leaving := [⟨0x9000, 4096, 0⟩],
    apps := [(0, { state := .running, nextLid := 2, launches := [twoCrews] })],
    crews := [{ id := 1, app := 0, lid := 1, unit := 0, size := 1, cls := 0, quad := false, grant := 64, cluster := 0, kernel := {},
                share := none, placed := 0, suspended := false, debugHeld := false }],
    leases := [(0, { st := .held, cut := 4, lid := 1, app := 0 })],
    nextCrew := 2, nextHart := 2, nextPlaced := 1, nextAccept := 1 }

theorem linkToLeft_reap_unlinked : linkToLeft.reap.unlinked := by
  intro h m
  cases List.mem_singleton.mp m
  rfl

/-- No launch is held up where every work unit's blocks find room. -/
theorem blocked_nil {s : State} (h : ∀ a ∈ s.apps, ∀ l ∈ a.2.launches, s.blocksFor a.1 l = true) : s.blocked = [] := by
  refine List.flatMap_eq_nil_iff.mpr fun a ha => List.map_eq_nil_iff.mpr (List.filter_eq_nil_iff.mpr fun l hl => ?_)
  simp [h a ha l hl]

/-- Where nothing is in use, the first place is found at the bottom, wherever the search begins. -/
theorem firstFit_unused {lo hi size align start : Nat} (aligned : roundUp lo align = lo) (room : lo + size ≤ hi) :
    ∃ x, firstFit lo hi size align start [] = some x := by
  refine Option.isSome_iff_exists.mp (List.find?_isSome.mpr ⟨lo, ?_, ?_⟩)
  · exact List.mem_map.mpr ⟨lo, by simp, aligned⟩
  · simpa using room

/-- The thread block of the second crew finds room on die 2, which is the roomiest. -/
theorem linkToLeft_block : (linkToLeft.giveBlock 0 0).isSome = true := by
  have die : linkToLeft.roomiestDie = 2 := by decide +kernel
  obtain ⟨pa, frame⟩ := firstFit_unused (lo := hbmBase 2) (hi := hbmBase 2 + hbmSize 2) (size := 4096) (align := 4096)
    (start := Config.frameHint linkToLeft.reap.tick % (hbmSize 2 / 2 + 1) / 4096 * 4096) (by decide) (by decide)
  obtain ⟨va, range⟩ := firstFit_unused (lo := 2 ^ 21) (hi := 2 ^ 56) (size := 4096) (align := 4096)
    (start := Config.vaHint (linkToLeft.reap.tick + 1) % 2 ^ 50 / 4096 * 4096) (by decide) (by decide)
  have taken : linkToLeft.takeFrames (hbmBase 2) (hbmSize 2) 4096 4096 =
      some (pa, { linkToLeft.reap.scrub pa 4096 with tick := linkToLeft.reap.tick + 1 }) := by
    rw [State.takeFrames]
    dsimp only
    rw [show linkToLeft.reap.usedFrames = [] from rfl, frame]
  have picked : State.pickVa { linkToLeft.reap.scrub pa 4096 with tick := linkToLeft.reap.tick + 1 } 0 4096 4096 = some va := range
  rw [State.giveBlock]
  dsimp only
  rw [die, show ceilDiv (64 + 0 * 1024) 4096 * 4096 = 4096 from rfl, taken]
  dsimp only
  rw [picked]
  rfl

/-- The scheduler places the second crew. -/
theorem linkToLeft_pick : linkToLeft.pick = some (.place 0 1 [(0, 1, 4)]) := by
  have blocks : linkToLeft.blocksFor 0 twoCrews = true := by
    obtain ⟨r, given⟩ := Option.isSome_iff_exists.mp linkToLeft_block
    show (linkToLeft.giveBlocks 0 0 1).isSome = true
    rw [State.giveBlocks, given]
    rfl
  have free : linkToLeft.blocked = [] := by
    refine blocked_nil fun a ha l hl => ?_
    cases List.mem_singleton.mp ha
    cases List.mem_singleton.mp hl
    exact blocks
  rw [State.pick, free]
  decide +kernel

/-- Placing the second crew breaks the link of the first one's hart: no hart holds one afterwards. -/
theorem linkToLeft_breaks : ∃ u, exec .schedulerPlaceCrew linkToLeft = .next u ∧ u.unlinked := by
  refine ⟨linkToLeft.placeCrew 0 1 [(0, 1, 4)], ?_, placeCrew_one (l := twoCrews) rfl linkToLeft_reap_unlinked linkToLeft_block⟩
  show execSchedulerPlaceCrew linkToLeft = _
  rw [execSchedulerPlaceCrew, linkToLeft_pick]

end Sys2Proof.Machine
end

section
/-! The settled obligation. -/

namespace Sys2Proof.Machine

/-- Refutes O51: that a crew placed leaves every other hart as it was fails where a hart holds a link to a line of a frame that has left
its application, which the taking of frames for the thread block reaps: the link is broken (R29, R185, R216; `linkToLeft`). -/
theorem not_scheduling : ¬ Obligations.Scheduling := by
  unfold Obligations.Scheduling
  rintro ⟨places, -⟩
  obtain ⟨u, hu, kept, -⟩ := places linkToLeft 0 1 _ twoCrews linkToLeft_pick rfl
  obtain ⟨v, hv, unlinked⟩ := linkToLeft_breaks
  have same : u = v := Host.Outcome.next.inj (hu.symm.trans hv)
  have here : linkToLeft.hart ∈ u.harts := kept linkToLeft.hart (List.mem_filter.mpr ⟨List.mem_cons_self .., rfl⟩)
  have broken : linkToLeft.hart.links = [] := unlinked linkToLeft.hart (same ▸ (List.mem_filter.mp here).1)
  cases broken

end Sys2Proof.Machine
end

section
/-! SUPPORT. The state registers (R115, R116, R325): what an SRD of a number yields, and how the fields of a register lie in its word. -/

namespace Sys2Proof.Machine

variable {s : State}

/-- An SRD that waits for no counter yields the register's value. -/
theorem srd_yields {n : BitVec 12} {d : Reg} {v : Word} (free : s.countsBusy n.toNat = false) (hv : s.sr n.toNat = v) :
    s.yieldsX (.srd d n) d v := by
  have runs : exec (.srd d n) s = .next { s.wx d v with hart := (s.wx d v).hart.retire s.hart.sfrq.length (s.hart.pc + 4) } := by
    show complete _ s (if s.countsBusy n.toNat then _ else _) = _
    rw [free, hv, if_neg Bool.false_ne_true, complete_ok]
    simp only [State.wx, Hart.wx_pc]
  refine ⟨_, runs, fun r => rx_wx s d r v, ?_⟩
  simp only [State.ended, State.wx, Hart.retire_x]
  rw [← Hart.wx_frame]

/-- No counter that a transfer may still add to is read or written (R119, R259). -/
theorem countsBusy_free (n : Nat) (h : ∀ t ∈ s.transfers, t.hart ≠ s.hart.id) : s.countsBusy n = false := by
  have none : s.transfers.any (fun t => decide (t.hart = s.hart.id)) = false :=
    List.any_eq_false.mpr fun t m => by simpa using h t m
  rw [State.countsBusy, none, Bool.and_false]

theorem countsBusy_other {n : Nat} (h5 : n ≠ 5) (h8 : n ≠ 8) (h9 : n ≠ 9) : s.countsBusy n = false := by
  simp [State.countsBusy, h5, h8, h9]

/-- The numbers of the map of R116. -/
def srNumbers : List Nat := [0x000, 0x001, 0x002, 0x003, 0x004, 0x005, 0x006, 0x007, 0x008, 0x009, 0x00A, 0x010, 0x011,
  0x012, 0x013, 0x014, 0x018, 0x019, 0x01A, 0x020, 0x021, 0x030, 0x031, 0x032, 0x033, 0x034, 0x035, 0x036, 0x037, 0x038,
  0x039, 0x03A, 0x040, 0x041, 0x042, 0x043, 0x044, 0x045, 0x048, 0x050, 0x051, 0x052]

/-- A number outside the map reads zero (R115). -/
theorem sr_unmapped {n : Nat} : n ∉ srNumbers → s.sr n = 0 := by
  unfold State.sr
  split
  all_goals simp [srNumbers]

/-! ### Registers of several fields -/

/-- A word of two fields: the lower one below 2^w, the other above it. -/
theorem toNat_append_eq {u w : Nat} (x : BitVec u) (y : BitVec w) : (x ++ y).toNat = x.toNat * 2 ^ w + y.toNat := by
  rw [BitVec.toNat_append, ← Nat.shiftLeft_add_eq_or_of_lt y.isLt, Nat.shiftLeft_eq]

theorem sr_fstat : s.sr 0x013 = (0 : BitVec 45) ++ s.hart.fstatOpf ++ (0 : BitVec 1) ++ s.hart.fstatCol ++ (0 : BitVec 6) ++
    s.hart.fstatCode := by
  apply BitVec.eq_of_toNat_eq
  simp only [State.sr, toNat_append_eq, BitVec.toNat_ofNat, BitVec.ofNat_eq_ofNat]
  omega

theorem sr_xctl : s.sr 0x020 = (0 : BitVec 61) ++ BitVec.ofBool s.hart.xperm ++ s.hart.xrm := by
  apply BitVec.eq_of_toNat_eq
  simp only [State.sr, toNat_append_eq, BitVec.toNat_ofNat, BitVec.ofNat_eq_ofNat, BitVec.toNat_ofBool]
  have := s.hart.xperm.toNat_le
  omega

/-- A field whose low bits read zero. -/
theorem ofNat_mul_two_pow {u : Nat} (x : BitVec u) (w : Nat) : BitVec.ofNat (u + w) (x.toNat * 2 ^ w) = x ++ (0 : BitVec w) := by
  apply BitVec.eq_of_toNat_eq
  rw [toNat_append_eq, BitVec.toNat_ofNat, Nat.mod_eq_of_lt]
  · rfl
  · rw [Nat.pow_add]
    exact Nat.mul_lt_mul_of_pos_right x.isLt (Nat.two_pow_pos w)

/-- The tiles along K by the format in force (R116). -/
theorem mtileK_eq (f : Fmt) :
    (f = .i4 ∨ f = .mxf4 → mtileK f = 512) ∧
    (f = .i8 ∨ f = .e4m3 ∨ f = .e5m2 ∨ f = .dm8 ∨ f = .mxf8 ∨ f = .mxi8 → mtileK f = 256) ∧
    (f = .bf16 ∨ f = .f16 → mtileK f = 128) ∧ (f = .f32 → mtileK f = 64) ∧
    (f ∈ [.i16, .i32, .i64, .n8, .n16, .n32, .n64, .f64] → mtileK f = 0) := by
  cases f <;> decide

/-- Where a core lies in its die, by its number (R116, R183). -/
theorem polderInDie_eq (c : Nat) : polderInDie c =
    (c - (if c < 80 then 0 else if c < 160 then 80 else if c < 208 then 160 else 208)) / 8 := by
  rw [polderInDie, polderOfCore, dieOfCore]
  split
  · rfl
  split
  · simp only [firstPolder]; omega
  split
  · simp only [firstPolder]; omega
  · simp only [firstPolder]; omega

theorem dieOfCore_eq (c : Nat) :
    dieOfCore c = (if 80 ≤ c then 1 else 0) + (if 160 ≤ c then 1 else 0) + (if 208 ≤ c then 1 else 0) := by
  rw [dieOfCore]
  repeat' split
  all_goals omega

/-- A field of a word that a number below 2^64 makes. -/
theorem toNat_extract_ofNat {x : Nat} (lo n : Nat) (h : x < 2 ^ 64) : ((BitVec.ofNat 64 x).extractLsb' lo n).toNat = x / 2 ^ lo % 2 ^ n := by
  rw [BitVec.extractLsb'_toNat, BitVec.toNat_ofNat, Nat.mod_eq_of_lt h, Nat.shiftRight_eq_div_pow]

/-- A field between the bits below it and those above it. -/
theorem field_eq {x a b r lo n : Nat} (hx : x = a + (b + r * 2 ^ n) * 2 ^ lo) (ha : a < 2 ^ lo) (hb : b < 2 ^ n) :
    x / 2 ^ lo % 2 ^ n = b := by
  rw [hx, Nat.add_mul_div_right _ _ (Nat.two_pow_pos lo), Nat.div_eq_of_lt ha, Nat.zero_add, Nat.add_mul_mod_self_right,
    Nat.mod_eq_of_lt hb]

theorem polderInDie_lt {c : Nat} (hc : c < 256) : polderInDie c < 16 := by
  rw [polderInDie_eq]
  split
  · omega
  split
  · omega
  split <;> omega

theorem dieOfCore_lt (c : Nat) : dieOfCore c < 4 := by
  rw [dieOfCore]
  split
  · omega
  split
  · omega
  split <;> omega

/-- The fields of COREID (R116): the polder, the die and the side of a core have their own bits. -/
theorem coreId_fields {c : Nat} (hc : c < 256) : ((BitVec.ofNat 64 (coreId c)).extractLsb' 0 8).toNat = c ∧
    ((BitVec.ofNat 64 (coreId c)).extractLsb' 8 3).toNat = c % 8 ∧ ((BitVec.ofNat 64 (coreId c)).extractLsb' 11 4).toNat = polderInDie c ∧
    ((BitVec.ofNat 64 (coreId c)).extractLsb' 15 2).toNat = dieOfCore c ∧
    ((BitVec.ofNat 64 (coreId c)).extractLsb' 17 1).toNat = (if c < 160 then 0 else 1) ∧
    (BitVec.ofNat 64 (coreId c)).extractLsb' 18 46 = 0 := by
  obtain ⟨p, hp⟩ : ∃ p, polderInDie c = p := ⟨_, rfl⟩
  obtain ⟨d, hd⟩ : ∃ d, dieOfCore c = d := ⟨_, rfl⟩
  obtain ⟨q, hq⟩ : ∃ q, (if c < 160 then 0 else 1) = q := ⟨_, rfl⟩
  have polder : p < 16 := hp ▸ polderInDie_lt hc
  have die : d < 4 := hd ▸ dieOfCore_lt c
  have side : q < 2 := by
    rw [← hq]
    split <;> omega
  have word : coreId c = c + c % 8 * 2 ^ 8 + p * 2 ^ 11 + d * 2 ^ 15 + q * 2 ^ 17 := by
    rw [coreId, hp, hd, ← hq]
    split <;> rfl
  have small : coreId c < 2 ^ 64 := by omega
  rw [hp, hd, hq]
  refine ⟨?_, ?_, ?_, ?_, ?_, BitVec.eq_of_toNat_eq ?_⟩
  all_goals rw [toNat_extract_ofNat _ _ small]
  · exact field_eq (a := 0) (r := c % 8 + p * 2 ^ 3 + d * 2 ^ 7 + q * 2 ^ 9) (by omega) (by omega) (by omega)
  · exact field_eq (a := c) (r := p + d * 2 ^ 4 + q * 2 ^ 6) (by omega) (by omega) (by omega)
  · exact field_eq (a := c + c % 8 * 2 ^ 8) (r := d + q * 2 ^ 2) (by omega) (by omega) (by omega)
  · exact field_eq (a := c + c % 8 * 2 ^ 8 + p * 2 ^ 11) (r := q) (by omega) (by omega) (by omega)
  · exact field_eq (a := c + c % 8 * 2 ^ 8 + p * 2 ^ 11 + d * 2 ^ 15) (r := 0) (by omega) (by omega) (by omega)
  · exact field_eq (b := 0) (a := coreId c) (r := 0) (by omega) (by omega) (by omega)

/-- The weight store's calendar in a refresh window, and between two (R175). -/
theorem wscal_open {c : Nat} (h : c % 70400 % 2200 < 550) : wscal c = c % 70400 / 2200 + 2 ^ 5 := by
  have inside : c % 70400 - c % 70400 / 2200 * 2200 < 550 := by omega
  simp only [wscal, inside, if_true]

theorem wscal_shut {c : Nat} (h : 550 ≤ c % 70400 % 2200) :
    wscal c = (c % 70400 / 2200 + 1) % 32 + (2200 - c % 70400 % 2200) * 2 ^ 16 := by
  have outside : ¬ c % 70400 - c % 70400 / 2200 * 2200 < 550 := by omega
  simp only [wscal, outside, if_false]
  omega

theorem getLsbD_ofNat_five {x : Nat} : (BitVec.ofNat 64 x).getLsbD 5 = decide (x / 32 % 2 = 1) := by
  rw [BitVec.getLsbD_ofNat, Nat.testBit_eq_decide_div_mod_eq]
  rfl

/-- The fields of WSCAL (R116, R175). -/
theorem wscal_fields (c : Nat) : (BitVec.ofNat 64 (wscal c)).extractLsb' 6 10 = 0 ∧ (BitVec.ofNat 64 (wscal c)).extractLsb' 28 36 = 0 ∧
    (c % 70400 % 2200 < 550 → ((BitVec.ofNat 64 (wscal c)).extractLsb' 0 5).toNat = c % 70400 / 2200 ∧
      (BitVec.ofNat 64 (wscal c)).getLsbD 5 = true ∧ (BitVec.ofNat 64 (wscal c)).extractLsb' 16 12 = 0) ∧
    (550 ≤ c % 70400 % 2200 → ((BitVec.ofNat 64 (wscal c)).extractLsb' 0 5).toNat = (c % 70400 / 2200 + 1) % 32 ∧
      (BitVec.ofNat 64 (wscal c)).getLsbD 5 = false ∧ ((BitVec.ofNat 64 (wscal c)).extractLsb' 16 12).toNat = 2200 - c % 70400 % 2200) := by
  obtain ⟨b, hb⟩ : ∃ b, c % 70400 / 2200 = b := ⟨_, rfl⟩
  obtain ⟨left, hl⟩ : ∃ left, 2200 - c % 70400 % 2200 = left := ⟨_, rfl⟩
  have bank : b < 32 := by omega
  have small : wscal c < 2 ^ 64 := by
    rcases Nat.lt_or_ge (c % 70400 % 2200) 550 with inside | outside
    · rw [wscal_open inside]; omega
    · rw [wscal_shut outside]; omega
  simp only [← BitVec.toNat_inj, toNat_extract_ofNat _ _ small, getLsbD_ofNat_five, hb, hl]
  rcases Nat.lt_or_ge (c % 70400 % 2200) 550 with inside | outside
  · have word : wscal c = b + 2 ^ 5 := by rw [wscal_open inside, hb]
    refine ⟨field_eq (b := 0) (a := wscal c) (r := 0) (by omega) (by omega) (by omega),
      field_eq (b := 0) (a := wscal c) (r := 0) (by omega) (by omega) (by omega),
      fun _ => ⟨field_eq (a := 0) (r := 1) (by omega) (by omega) (by omega), decide_eq_true (by omega),
        field_eq (b := 0) (a := wscal c) (r := 0) (by omega) (by omega) (by omega)⟩, fun h => absurd inside (by omega)⟩
  · have word : wscal c = (b + 1) % 32 + left * 2 ^ 16 := by rw [wscal_shut outside, hb, hl]
    refine ⟨field_eq (b := 0) (a := (b + 1) % 32) (r := left) (by omega) (by omega) (by omega),
      field_eq (b := 0) (a := wscal c) (r := 0) (by omega) (by omega) (by omega), fun h => absurd outside (by omega),
      fun _ => ⟨field_eq (a := 0) (r := left * 2 ^ 11) (by omega) (by omega) (by omega), decide_eq_false (by omega),
        field_eq (a := (b + 1) % 32) (r := 0) (by omega) (by omega) (by omega)⟩⟩

end Sys2Proof.Machine
end

section
/-! The settled obligation. -/

namespace Sys2Proof.Machine

/-- Settles O11: an SRD yields `State.sr` (`srd_yields`); registers of several fields by their numbers. -/
theorem stateRegisterReads : Obligations.StateRegisterReads := by
  unfold Obligations.StateRegisterReads
  intro s d
  have yields {n : BitVec 12} {v : Word} (free : s.countsBusy n.toNat = false) (hv : s.sr n.toNat = v) := srd_yields (d := d) free hv
  refine ⟨yields rfl rfl, yields rfl rfl, yields rfl rfl, yields rfl rfl, fun free => ?counters, yields rfl rfl, yields rfl rfl,
    yields rfl rfl, yields rfl rfl, yields rfl rfl, yields rfl rfl, yields rfl rfl, yields rfl rfl, yields rfl rfl, yields rfl rfl,
    yields rfl rfl, yields rfl rfl, yields rfl rfl, yields rfl rfl, yields rfl rfl, yields rfl rfl, yields rfl rfl, yields rfl rfl,
    yields rfl rfl, yields rfl rfl, yields rfl rfl, yields rfl rfl, yields rfl rfl, yields rfl rfl, yields rfl rfl, yields rfl sr_fstat,
    yields rfl (ofNat_mul_two_pow s.hart.xcqBase 12), yields rfl rfl, yields rfl (ofNat_mul_two_pow s.hart.tvec 2),
    yields rfl (ofNat_mul_two_pow s.hart.tpc 2), yields rfl rfl, ?tiles, yields rfl sr_xctl, ?core, ?calendar, ?others⟩
  case counters =>
    have quiet (n : Nat) := countsBusy_free n free
    exact ⟨yields (quiet _) rfl, yields (quiet _) rfl, yields (quiet _) rfl⟩
  case tiles =>
    obtain ⟨h512, h256, h128, h64, h0⟩ := mtileK_eq s.hart.fmt
    have reads {k : Nat} (e : mtileK s.hart.fmt = k) : s.yieldsX (.srd d 0x010) d (BitVec.ofNat 64 k) :=
      yields rfl (congrArg (BitVec.ofNat 64) e)
    exact ⟨fun h => reads (h512 h), fun h => reads (h256 h), fun h => reads (h128 h), fun h => reads (h64 h), fun h => reads (h0 h)⟩
  case core =>
    intro c die first hc
    have fields := coreId_fields hc
    rw [polderInDie_eq, dieOfCore_eq] at fields
    exact ⟨_, yields rfl rfl, fields⟩
  case calendar => exact ⟨_, yields rfl rfl, wscal_fields s.clk⟩
  case others =>
    intro n hn
    have apart : ∀ k ∈ srNumbers, n.toNat ≠ k := fun k hk e => hn (e ▸ hk)
    exact yields (countsBusy_other (apart 5 (by decide)) (apart 8 (by decide)) (apart 9 (by decide))) (sr_unmapped hn)

end Sys2Proof.Machine
end

section
/-! SUPPORT. Writes of the state registers (R115 to R117, R325) and of the window base (R104, R326). -/

namespace Sys2Proof.Machine

variable {s : State} {a : Reg}

/-! ### SWR and WINB -/

/-- An SWR that waits for no counter leaves the hart that `Hart.swr` makes. -/
theorem exec_swr_some {n : BitVec 12} {g : Hart} (free : s.countsBusy n.toNat = false) (hg : s.hart.swr n.toNat (s.rx a) = some g)
    (pc : g.pc = s.hart.pc) : exec (.swr a n) s = .next (s.ended { s with hart := g } (s.hart.pc + 4)) := by
  show complete _ s (if s.countsBusy n.toNat then _ else _) = _
  rw [free, hg, if_neg Bool.false_ne_true, complete_ok, pc]
  rfl

theorem exec_swr_none {n : BitVec 12} (free : s.countsBusy n.toNat = false) (hg : s.hart.swr n.toNat (s.rx a) = none) :
    exec (.swr a n) s = .next (s.illegal (.swr a n)) := by
  show complete _ s (if s.countsBusy n.toNat then _ else _) = _
  rw [free, hg, if_neg Bool.false_ne_true, complete_error, stopped_illegal]

/-- R104. -/
theorem Hart.wbOk_iff {h : Hart} {w : Nat} : h.wbOk w = true ↔ w % 16 = 0 ∧ w ≤ 1152 ∧ w + 128 ≤ h.wspan := by
  simp only [Hart.wbOk, Bool.and_eq_true, decide_eq_true_eq, and_assoc]

theorem exec_winb_ok {imm : BitVec 12} {w : Nat} (hw : ((s.rx a).toNat : Int) + imm.toInt = (w : Int)) (ok : s.hart.wbOk w = true) :
    exec (.winb a imm) s = .next (s.ended { s with hart := { s.hart with wb := BitVec.ofNat 11 w } } (s.hart.pc + 4)) := by
  have fits : 0 ≤ ((s.rx a).toNat : Int) + imm.toInt ∧ s.hart.wbOk (((s.rx a).toNat : Int) + imm.toInt).toNat = true := by
    rw [hw]
    exact ⟨Int.natCast_nonneg w, ok⟩
  show complete _ s (if _ then _ else _) = _
  rw [if_pos fits, complete_ok, hw]
  rfl

theorem exec_winb_bad {imm : BitVec 12}
    (bad : ¬ (0 ≤ ((s.rx a).toNat : Int) + imm.toInt ∧ s.hart.wbOk (((s.rx a).toNat : Int) + imm.toInt).toNat = true)) :
    exec (.winb a imm) s = .next (s.illegal (.winb a imm)) := by
  show complete _ s (if _ then _ else _) = _
  rw [if_neg bad, complete_error, stopped_illegal]

/-! ### Fields -/

@[simp] theorem Word.field_eq_extractLsb' (v : Word) (lo w : Nat) : Word.field v lo w = v.extractLsb' lo w := by
  rw [Word.field, ← Nat.shiftRight_eq_div_pow]
  rfl

@[simp] theorem bitsAt_toNat (v : Word) (lo w : Nat) : bitsAt v.toNat lo w = (v.extractLsb' lo w).toNat := by
  rw [BitVec.extractLsb'_toNat, Nat.shiftRight_eq_div_pow]
  rfl

/-- An SWR of VSTAT leaves the configuration below bit 12 (R116). -/
theorem vstat_swr (old : BitVec 16) (v : Word) :
    BitVec.ofNat 16 (old.toNat % 2 ^ 12 + (v.extractLsb' 12 4).toNat * 2 ^ 12) = v.extractLsb' 12 4 ++ old.extractLsb' 0 12 := by
  apply BitVec.eq_of_toNat_eq
  rw [BitVec.toNat_ofNat, toNat_append_eq, old.extractLsb'_toNat, Nat.shiftRight_eq_div_pow]
  omega

/-! ### The registers with values that are refused (R117, R325) -/

variable (h : Hart) (v : Word)

theorem swr_vstat : h.swr 0x001 v =
    if (v.extractLsb' 12 3).toNat = 7 ∨ ((v.extractLsb' 12 3).toNat = 5 ∧ h.feat 8 = false) then none
    else some { h with vstat := v.extractLsb' 12 4 ++ h.vstat.extractLsb' 0 12 } := by
  simp only [Hart.swr, vstat_swr, bitsAt_toNat]

theorem swr_wb : h.swr 0x004 v =
    if h.wbOk (v.extractLsb' 0 11).toNat = true then some { h with wb := v.extractLsb' 0 11 } else none := by
  have low : v.toNat % 2 ^ 11 = (v.extractLsb' 0 11).toNat := by rw [BitVec.extractLsb'_toNat, Nat.shiftRight_zero]
  simp only [Hart.swr, low, Word.field_eq_extractLsb']

theorem swr_mkbind : h.swr 0x00A v =
    if (v.extractLsb' 0 7).toNat < 96 ∧ (v.extractLsb' 7 7).toNat < 96 ∧ (v.extractLsb' 14 7).toNat < 96 then
      some { h with mkbind := v.extractLsb' 0 21 }
    else none := by
  simp only [Hart.swr, bitsAt_toNat, Word.field_eq_extractLsb']

theorem swr_fstep : h.swr 0x012 v =
    if (v.extractLsb' 0 7).toNat ≤ 96 then some { h with fstep := v.extractLsb' 0 7 } else none := by
  simp only [Hart.swr, bitsAt_toNat, Word.field_eq_extractLsb']

theorem swr_fstat : h.swr 0x013 v =
    if (v.extractLsb' 0 2).toNat = 3 then none
    else some { h with fstatCode := v.extractLsb' 0 2, fstatCol := v.extractLsb' 8 7, fstatOpf := v.extractLsb' 16 3 } := by
  simp only [Hart.swr, bitsAt_toNat, Word.field_eq_extractLsb']

theorem swr_headd : h.swr 0x01A v =
    if (v.extractLsb' 0 9).toNat ≤ 256 then some { h with headd := v.extractLsb' 0 9 } else none := by
  simp only [Hart.swr, bitsAt_toNat, Word.field_eq_extractLsb']

theorem swr_xctl : h.swr 0x020 v =
    if (v.extractLsb' 0 2).toNat = 3 ∧ h.feat 8 = false then none
    else some { h with xrm := v.extractLsb' 0 2, xperm := v.getLsbD 2 } := by
  simp only [Hart.swr, bitsAt_toNat, Word.field_eq_extractLsb']

/-- The numbers of R116 of which some field may be written. -/
def swrNumbers : List Nat := [0x001, 0x004, 0x005, 0x006, 0x007, 0x008, 0x009, 0x00A, 0x012, 0x013, 0x014, 0x018, 0x019,
  0x01A, 0x020, 0x021, 0x040, 0x041, 0x042, 0x043, 0x044, 0x045]

/-- A number outside the map or wholly read-only is not written (R117, R325). -/
theorem swr_unlisted {n : Nat} : n ∉ swrNumbers → h.swr n v = none := by
  unfold Hart.swr
  split
  all_goals simp [swrNumbers]

end Sys2Proof.Machine
end

section
/-! The settled obligation. -/

namespace Sys2Proof.Machine

/-- Settles O12: an SWR writes what `Hart.swr` gives (`exec_swr_some`), field by field, or takes ILLEGAL (`exec_swr_none`). -/
theorem stateRegisterWrites : Obligations.StateRegisterWrites := by
  unfold Obligations.StateRegisterWrites
  refine ⟨fun s a => ?writes, fun s a imm w hw h16 hle hspan => exec_winb_ok hw (Hart.wbOk_iff.mpr ⟨h16, hle, hspan⟩), fun s a imm => ?bad⟩
  case writes =>
    intro v h sets free
    have writes {n : BitVec 12} {g : Hart} (quiet : s.countsBusy n.toNat = false) (hg : h.swr n.toNat v = some g) (pc : g.pc = h.pc) :
      sets n g := exec_swr_some quiet hg pc
    have plain {n : BitVec 12} (lo w : Nat) (g : BitVec w → Hart) (quiet : s.countsBusy n.toNat = false)
        (hg : h.swr n.toNat v = some (g (Word.field v lo w))) (pc : ∀ x, (g x).pc = h.pc) : sets n (g (v.extractLsb' lo w)) :=
      writes quiet (Word.field_eq_extractLsb' v lo w ▸ hg) (pc _)
    refine ⟨fun h7 h5 => writes rfl ((swr_vstat h v).trans (if_neg ?_)) rfl,
      fun h16 hle hspan => writes rfl ((swr_wb h v).trans (if_pos (Hart.wbOk_iff.mpr ⟨h16, hle, hspan⟩))) rfl, fun hf => ?counters,
      writes rfl rfl rfl, writes rfl rfl rfl, fun h0 h1 h2 => writes rfl ((swr_mkbind h v).trans (if_pos ⟨h0, h1, h2⟩)) rfl,
      fun h96 => writes rfl ((swr_fstep h v).trans (if_pos h96)) rfl, fun h3 => writes rfl ((swr_fstat h v).trans (if_neg h3)) rfl,
      plain 0 32 (fun x => { h with fgrow := x }) rfl rfl fun _ => rfl, plain 0 32 (fun x => { h with wfloor := x }) rfl rfl fun _ => rfl,
      plain 0 32 (fun x => { h with wtmo := x }) rfl rfl fun _ => rfl,
      fun h256 => writes rfl ((swr_headd h v).trans (if_pos h256)) rfl, fun h8 => writes rfl ((swr_xctl h v).trans (if_neg ?_)) rfl,
      plain 12 52 (fun x => { h with xcqBase := x }) rfl rfl fun _ => rfl, plain 2 62 (fun x => { h with tvec := x }) rfl rfl fun _ => rfl,
      plain 0 8 (fun x => { h with tcause := x }) rfl rfl fun _ => rfl, plain 2 62 (fun x => { h with tpc := x }) rfl rfl fun _ => rfl,
      writes rfl rfl rfl, plain 0 16 (fun x => { h with telem := x }) rfl rfl fun _ => rfl, writes rfl rfl rfl⟩
    case counters =>
      have quiet (n : Nat) := countsBusy_free n hf
      exact ⟨plain 0 6 (fun x => { h with vflags := x }) (quiet _) rfl fun _ => rfl, writes (quiet _) rfl rfl, writes (quiet _) rfl rfl⟩
    · rintro (e | ⟨e, masked⟩)
      · exact h7 e
      · exact Bool.false_ne_true (masked.symm.trans (h5 e))
    · rintro ⟨e, masked⟩
      exact Bool.false_ne_true (masked.symm.trans (h8 e))
  case bad =>
    intro v bad
    have takes {n : BitVec 12} (quiet : s.countsBusy n.toNat = false) (hg : s.hart.swr n.toNat v = none) : bad n :=
      exec_swr_none quiet hg
    refine ⟨fun n hn => ?others, fun h7 => takes rfl ((swr_vstat _ v).trans (if_pos (.inl h7))),
      fun h5 hf => takes rfl ((swr_vstat _ v).trans (if_pos (.inr ⟨h5, hf⟩))), fun h => takes rfl ((swr_fstep _ v).trans (if_neg (by omega))),
      fun h3 => takes rfl ((swr_fstat _ v).trans (if_pos h3)), fun h => takes rfl ((swr_headd _ v).trans (if_neg (by omega))),
      fun ⟨k, hk, hp⟩ => takes rfl ((swr_mkbind _ v).trans (if_neg ?mask)),
      fun h3 hf => takes rfl ((swr_xctl _ v).trans (if_pos ⟨h3, hf⟩)), fun h => takes rfl ((swr_wb _ v).trans (if_neg ?base)),
      fun h => exec_winb_bad ?window⟩
    case others =>
      have apart : ∀ k ∈ swrNumbers, n.toNat ≠ k := fun k hk e => hn (e ▸ hk)
      exact takes (countsBusy_other (apart 5 (by decide)) (apart 8 (by decide)) (apart 9 (by decide))) (swr_unlisted _ v hn)
    case mask =>
      rintro ⟨h0, h1, h2⟩
      match k, hk, hp with
      | 0, _, hp => exact absurd h0 (Nat.not_lt.mpr hp)
      | 1, _, hp => exact absurd h1 (Nat.not_lt.mpr hp)
      | 2, _, hp => exact absurd h2 (Nat.not_lt.mpr hp)
    case base =>
      rw [Hart.wbOk_iff]
      omega
    case window =>
      rw [Hart.wbOk_iff]
      simp only [v] at h
      omega

end Sys2Proof.Machine
end

section
/-! SUPPORT. Lists of the elements below VL: a list of that length by its elements, cut and filled lists, and merges under a mask (R108,
R137). -/

namespace Sys2Proof.Machine

/-- A list by its elements. -/
theorem eq_map_getD {l : List Nat} {n : Nat} (h : l.length = n) : l = (List.range n).map fun i => l.getD i 0 := by
  subst h
  apply List.ext_getElem
  · simp
  · intro i hi _
    simp [hi]

@[simp] theorem fitLen_length (n : Nat) (l : List Nat) : (fitLen n l).length = n := by
  rw [fitLen, List.length_append, List.length_take, List.length_replicate]
  omega

/-- An element of a list cut or filled with zeros (R137). -/
theorem getD_fitLen {n i : Nat} (l : List Nat) (h : i < n) : (fitLen n l).getD i 0 = l.getD i 0 := by
  rw [fitLen, List.getD_eq_getElem?_getD, List.getD_eq_getElem?_getD]
  rcases Nat.lt_or_ge i l.length with inside | beyond
  · rw [List.getElem?_append_left (by rw [List.length_take]; omega), List.getElem?_take, if_pos h]
  · rw [List.getElem?_append_right (by rw [List.length_take]; omega), List.getElem?_eq_none beyond, List.getElem?_replicate]
    split <;> rfl

theorem fitLen_eq_map (n : Nat) (l : List Nat) : fitLen n l = (List.range n).map fun i => l.getD i 0 := by
  rw [eq_map_getD (fitLen_length n l)]
  exact List.map_congr_left fun i hi => getD_fitLen l (List.mem_range.mp hi)

variable {α : Type}

theorem mergeMp_map (mz : Bool) (a : α → Bool) (p o : α → Nat) : ∀ r : List α,
    mergeMp mz (r.map a) (r.map p) (r.map o) = r.map fun i => if a i then p i else if mz then 0 else o i
  | [] => rfl
  | _ :: r => congrArg (_ :: ·) (mergeMp_map mz a p o r)

theorem ewRows_map (a : α → Bool) (p q o : α → Nat) : ∀ r : List α,
    ewRows (r.map a) (r.map p) (r.map q) (r.map o) = r.map fun i => (a i, p i, q i, o i)
  | [] => rfl
  | _ :: r => congrArg (_ :: ·) (ewRows_map a p q o r)

/-- What a merge by the mask makes of elements below VL. -/
theorem mergeMp_merged (h : Hart) (m : Nat) (p : Nat → Nat) {old : List Nat} (ho : old.length = h.vl) :
    mergeMp h.mz (h.act m) ((List.range h.vl).map p) old = h.merged m p fun i => old.getD i 0 := by
  conv_lhs => rw [eq_map_getD ho]
  exact mergeMp_map _ _ _ _ _

/-- Packed elements are those of the selected indices in order. -/
theorem pickActive_map (a : α → Bool) (p : α → Nat) : ∀ r : List α, pickActive (r.map a) (r.map p) = (r.filter a).map p
  | [] => rfl
  | i :: r => by
    rw [List.map_cons, List.map_cons, pickActive, pickActive_map a p r, List.filter_cons]
    split <;> rfl

end Sys2Proof.Machine
end

section
/-! SUPPORT. Moves of elements (R355 to R362): what the pops leave of the hart, and the vector that each move writes. -/

namespace Sys2Proof.Machine

variable {s t : State}

/-! ### Pops -/

/-- Pops change registers, streams and flags of the hart, and nothing of its configuration (R249). -/
theorem pop_frame (s : State) (q : Nat) (st : Stream) : ∃ v ss fl,
    (s.pop q st).1.hart = { s.hart with v := v, streams := ss, vflags := fl } := by
  have written (h : Hart) (c : Bool) : ∃ fl, (if c then h.raise { nv := true } else h) = { h with vflags := fl } := by
    cases c <;> exact ⟨_, rfl⟩
  obtain ⟨fl, e⟩ := written (s.hart.writeGroup st.reg (2 ^ st.g) (plainVec st.fmt ((goodElems ((List.range (s.popCount st)).map
    (s.streamElem st))).map FetchElem.val) (if st.fmt.isMx then blockScales (goodElems ((List.range (s.popCount st)).map
    (s.streamElem st))) else []))) ((goodElems ((List.range (s.popCount st)).map (s.streamElem st))).any
    fun e => st.fmt.isMx && decide (e.scale = 0xFF))
  unfold State.pop
  dsimp only
  split
  · exact ⟨_, _, fl, by rw [e]; rfl⟩
  · exact ⟨_, _, fl, by rw [State.later_hart, e]; rfl⟩

theorem popAll_frame (s : State) (reads : List VRun) : ∃ v ss fl,
    (s.popAll reads).1.hart = { s.hart with v := v, streams := ss, vflags := fl } := by
  refine List.foldlRecOn (motive := fun a : State × Option Stop => ∃ v ss fl, a.1.hart = { s.hart with v := v, streams := ss, vflags := fl })
    _ _ ⟨_, _, _, rfl⟩ fun a ⟨v, ss, fl, ha⟩ x _ => ?_
  dsimp only
  split
  · exact ⟨v, ss, fl, ha⟩
  split
  · next st _ _ =>
    obtain ⟨v', ss', fl', e⟩ := pop_frame a.1 x.1 st
    exact ⟨v', ss', fl', by rw [e, ha]⟩
  · exact ⟨v, ss, fl, ha⟩

/-- What the pops of an instruction that issues leave of its hart. -/
theorem issues_frame {reads writes : List VRun} {m : Nat} (iss : s.issues reads writes m t) : ∃ v ss fl,
    t.hart = { s.hart with v := v, streams := ss, vflags := fl } := by
  obtain ⟨_, _, pops⟩ := iss
  have left := popAll_frame s reads
  rwa [pops] at left

/-! ### Operands -/

theorem asOpd_length {v : Vec} {f : Fmt} {n : Nat} {o : Opd} (h : v.asOpd f n = .ok o) : o.elems.length = n := by
  rw [Vec.asOpd] at h
  split at h
  · cases h
    exact fitLen_length _ _
  split at h
  · cases h
    rw [List.length_map, fitLen_length]
  · cases h

/-- An operand has an element for each index below VL (R337). -/
theorem operand_length {h : Hart} {n : Nat} {o : Opd} (read : h.operand n = .ok o) : o.elems.length = h.vl := by
  rw [Hart.operand] at read
  split at read
  · cases read
  · exact asOpd_length read

theorem zeroOpd_length (h : Hart) : h.zeroOpd.elems.length = h.vl := List.length_replicate

theorem old_length {g : Hart} {useOld : Bool} {d : Nat} {o : Opd}
    (read : if useOld then g.operand d = .ok o else o = g.zeroOpd) : o.elems.length = g.vl := by
  cases useOld
  · rw [show o = g.zeroOpd from read, zeroOpd_length]
  · exact operand_length read

/-- The old destination as an instruction reads it. -/
theorem old_read {g : Hart} {useOld : Bool} {d : Nat} {o : Opd} (read : if useOld then g.operand d = .ok o else o = g.zeroOpd) :
    (if useOld then g.operand d else .ok g.zeroOpd) = .ok o := by
  cases useOld
  · exact congrArg Except.ok (show o = g.zeroOpd from read).symm
  · exact read

/-- A good end of an instruction as the obligations state it. -/
theorem endsWith_of {i : Instr} {r : Except Stop State} {g : Hart} (runs : exec i s = complete i s r)
    (ends : r = .ok { t with hart := g }) : s.endsWith i t g := by
  rw [State.endsWith, runs, ends]
  rfl

/-! ### Slides, the permutation and packing (R355 to R357) -/

theorem moveElems_ok {useOld : Bool} {more : List VRun} {k : Hart → List Nat → List Nat → Except Stop (List Nat)} {d a : Reg}
    {m : BitVec 2} {x r : List Nat} {o : Opd} (cls : s.hart.fmt.isMove = true)
    (iss : s.issues (s.hart.opRun a.toNat :: more ++ (if useOld then [s.hart.opRun d.toNat] else [])) [s.hart.gRun d.toNat] m.toNat t)
    (hx : t.hart.rawAt a.toNat = .ok x) (ho : if useOld then t.hart.operand d.toNat = .ok o else o = t.hart.zeroOpd)
    (hk : k t.hart x o.elems = .ok r) :
    s.moveElems useOld more k d a m = .ok { t with hart := t.hart.writeVec d.toNat (plainVec t.hart.fmt r) } := by
  have ready := iss.1
  rw [State.moveElems]
  simp only [cls, ready, Bool.not_true, Bool.false_eq_true, if_false]
  refine issues_ok iss ?_
  simp only [hx, old_read ho, hk]

/-- A move that computes its elements from those of v(a) and of the old destination. -/
theorem moves_of {i : Instr} {useOld : Bool} {k : Hart → List Nat → List Nat → Except Stop (List Nat)} {d a : Reg} {m : BitVec 2}
    {f : Hart → (Nat → Nat) → (Nat → Nat) → Nat → Nat} (runs : exec i s = complete i s (s.moveElems useOld [] k d a m))
    (computes : ∀ (g : Hart) (x o : List Nat), o.length = g.vl →
      k g x o = .ok ((List.range g.vl).map (f g (fun j => x.getD j 0) fun j => o.getD j 0))) :
    s.moves i useOld d a m f := by
  refine ⟨fun cls => ?_, fun cls t x o iss hx ho => endsWith_of runs (moveElems_ok cls iss hx ho (computes _ _ _ (old_length ho)))⟩
  rw [runs, State.moveElems, cls]
  rfl

/-- Packed elements, and zeros after them (R357). -/
theorem fitLen_pickActive (h : Hart) (m : Nat) (x : List Nat) : fitLen h.vl (pickActive (h.act m) (fitLen h.vl x)) =
    (List.range h.vl).map fun k => match (h.chosen m h.vl)[k]? with
      | some j => x.getD j 0
      | none => 0 := by
  rw [fitLen_eq_map h.vl x, Hart.act, pickActive_map, fitLen_eq_map]
  refine List.map_congr_left fun k _ => ?_
  rw [List.getD_eq_getElem?_getD, List.getElem?_map, Hart.chosen]
  cases ((List.range h.vl).filter (h.sel m))[k]? <;> rfl

/-! ### Results of the element-wise driver that copy elements (R338) -/

theorem ewLoop_same (f : Fmt) (keep : Bool) : ∀ (rows : List (Bool × Nat × Nat × Nat)) (x : Side2),
    ewLoop (sameFn f .rne) .rne keep rows x = (rows.map fun r => if r.1 then r.2.1 else if keep then r.2.2.2 else 0, x)
  | [], _ => rfl
  | (true, p, q, c) :: rest, x => by
    have quiet : ({ x with flags := x.flags.or {}, seed := (drawIf .rne x.seed).2 } : Side2) = x := by
      simp [Flags.or, drawIf]
    rw [ewLoop, if_pos rfl]
    simp only [sameFn]
    rw [quiet, ewLoop_same f keep rest x]
    rfl
  | (false, p, q, c) :: rest, x => by
    rw [ewLoop, if_neg Bool.false_ne_true]
    simp only
    rw [ewLoop_same f keep rest x]
    rfl

theorem holdAdd_zero (c : Word) : holdAdd c 0 = c := by
  have small : c.toNat ≤ 2 ^ 64 - 1 := by omega
  rw [holdAdd, Nat.add_zero, Nat.min_eq_left small, BitVec.ofNat_toNat, BitVec.setWidth_eq]

theorem settle_side (g h : Hart) (seed : g.srseed = h.srseed) : g.settle h.side = g := by
  have none : g.vflags ||| ({} : Flags).bits = g.vflags := BitVec.or_zero
  simp only [Hart.settle, Hart.side, Hart.raise, none, holdAdd_zero, ← seed, BitVec.ofNat_toNat, BitVec.setWidth_eq]

/-- An element-wise instruction that copies the elements of its first operand. -/
theorem ewResult_same (g : Hart) (m : Nat) (ops : List Opd) {p c : List Nat} (d : Nat) (hp : p.length = g.vl) (hc : c.length = g.vl) :
    g.ewResult m false sameFn ops p p c d = g.writeVec d (resultVec g.ep g.fmt ops (g.maskBits m)
      (g.merged m (fun k => p.getD k 0) fun k => c.getD k 0)) := by
  have rows : (ewRows (g.act m) p p c).map (fun r => if r.1 then r.2.1 else if !g.mz then r.2.2.2 else 0) =
      g.merged m (fun k => p.getD k 0) fun k => c.getD k 0 := by
    conv_lhs => rw [eq_map_getD hp, eq_map_getD hc, Hart.act, ewRows_map]
    rw [List.map_map, Hart.merged]
    refine List.map_congr_left fun i _ => ?_
    cases g.mz <;> rfl
  rw [Hart.ewResult]
  simp only [Bool.false_eq_true, if_false, false_and, ewLoop_same, rows]
  exact settle_side _ _ rfl

/-- An instruction whose source is no register (R359, R362). -/
theorem vec0_ok {cls : Fmt → Bool} {src o : Opd} {d : Reg} {m : BitVec 2} (legal : cls s.hart.fmt = true)
    (len : src.elems.length = s.hart.vl) (reads : s.readsNone t d m o) :
    s.vec0 cls src d m = .ok { t with hart := t.hart.writeVec d.toNat (resultVec t.hart.ep t.hart.fmt (src :: t.hart.maskOpd m.toNat o)
      (t.hart.maskBits m.toNat) (t.hart.merged m.toNat src.el o.el)) } := by
  obtain ⟨iss, ho⟩ := reads
  obtain ⟨_, _, _, frame⟩ := issues_frame iss
  have ready := iss.1
  have keeps : t.hart.keeps m = s.hart.keeps m := by rw [frame]; rfl
  have vl : s.hart.vl = t.hart.vl := by rw [frame]
  rw [State.oldOf, Bool.false_or] at ho
  rw [State.vec0]
  simp only [legal, ready, Bool.not_true, Bool.false_eq_true, if_false]
  refine issues_ok iss ?_
  rw [keeps, old_read ho]
  simp only
  rw [ewResult_same _ _ _ _ (len.trans vl) (old_length ho)]
  rfl

theorem vec0_illegal {cls : Fmt → Bool} {i : Instr} {src : Opd} {d : Reg} {m : BitVec 2}
    (runs : exec i s = complete i s (s.vec0 cls src d m)) (bad : cls s.hart.fmt = false) : exec i s = .next (s.illegal i) := by
  rw [runs, State.vec0, bad]
  rfl

/-- VMV under a mask (R358). -/
theorem vec1_same_ok {cls : Fmt → Bool} {d a : Reg} {m : BitVec 2} {x o : Opd} (legal : cls s.hart.fmt = true)
    (reads : s.readsOne t d a m x o) :
    s.vec1 cls false sameFn d a m = .ok { t with hart := t.hart.writeVec d.toNat (resultVec t.hart.ep t.hart.fmt
      ([x, t.hart.zeroOpd] ++ t.hart.maskOpd m.toNat o) (t.hart.maskBits m.toNat) (t.hart.merged m.toNat x.el o.el)) } := by
  obtain ⟨iss, hx, ho⟩ := reads
  have ready : s.vecReady (s.hart.opRun a.toNat :: (if decide (m ≠ 0) && !s.hart.mz then [s.hart.opRun d.toNat] else []))
    [s.hart.gRun d.toNat] m.toNat = .ok () := iss.1
  rw [State.oldOf, Bool.false_or] at ho
  have old := old_read ho
  rw [State.vec1]
  simp only [legal, ready, Bool.not_true, Bool.false_eq_true, if_false]
  refine issues_ok iss ?_
  rw [hx, show (if decide (m ≠ 0) && !s.hart.mz then t.hart.operand d.toNat else .ok t.hart.zeroOpd) = .ok o from old]
  simp only
  rw [ewResult_same _ _ _ _ (operand_length hx) (old_length ho)]
  rfl

/-! ### Groups read at their own tags (R105, R406) -/

/-- A group that reads is typed. -/
theorem readRun_typed {h : Hart} {r : VRun} {v : Vec} (read : h.readRun r = .ok v) :
    (h.vreg (h.wb.toNat + r.1)).desc.untyped = false := by
  rw [Hart.readRun, Hart.readGroup] at read
  cases e : (h.vreg (h.wb.toNat + r.1)).desc.untyped
  · rfl
  · simp [e] at read

theorem readAny_of_readRun {h : Hart} {r : VRun} {v : Vec} (read : h.readRun r = .ok v) : h.readAny r = .ok (v, false) := by
  rw [Hart.readAny]
  simp only [readRun_typed read, Bool.false_eq_true, if_false, read]

/-- An unmasked VMV (R358). -/
theorem copyReg_ok {d a : Reg} {v : Vec} {u : Bool} (iss : s.issues [s.hart.ownRun a.toNat] [s.hart.likeRun d a] 0 t)
    (read : t.hart.readAny (t.hart.ownRun a.toNat) = .ok (v, u)) :
    let g := t.hart
    let c := copyVec v.enc v.fmt v.wid v.elems v.scales g.vl
    let w := if g.ep = 2 then plainVec c.fmt c.elems c.scales else c
    s.copyReg d a = .ok { t with hart := if u then (g.writeVec d.toNat w).flipTyped (g.wb.toNat + d.toNat) g.g else g.writeOwn d.toNat w } := by
  intro g c w
  have ready := iss.1
  rw [State.copyReg]
  simp only [ready]
  refine issues_ok iss ?_
  simp only [read]
  rfl

/-- A copy of a PLAIN vector is PLAIN at the same tag, with the elements below VL. -/
theorem copyVec_plain (f : Fmt) (wid : Nat) (els scales : List Nat) (vl : Nat) : ∃ e sc,
    copyVec .plain f wid els scales vl = plainVec f e sc ∧ ∀ k < vl, e.getD k 0 = els.getD k 0 := by
  rw [copyVec]
  split
  · refine ⟨els.take vl, scales.take (ceilDiv vl 32), ?_, fun k hk => ?_⟩
    · rw [cutVec]
      split <;> rfl
    · rw [List.getD_eq_getElem?_getD, List.getElem?_take, if_pos hk, List.getD_eq_getElem?_getD]
  · split
    · exact ⟨_, _, rfl, fun k hk => getD_fitLen els hk⟩
    · exact ⟨_, [], rfl, fun k hk => getD_fitLen els hk⟩

/-- A PLAIN vector of a tag no wider than FMT takes the registers of an ordinary result. -/
theorem writeOwn_plain (h : Hart) (d : Nat) {f : Fmt} (narrow : f.bits ≤ h.fmt.bits) (e sc : List Nat) :
    h.writeOwn d (plainVec f e sc) = h.writeVec d (plainVec f e sc) := by
  have few : h.g ≤ 8 := by
    have : h.vstat.toNat / 64 % 4 ≤ 3 := by omega
    exact Nat.pow_le_pow_right (by decide) this
  have one : 1 ≤ h.g := Nat.one_le_two_pow
  have span : h.gt f.bits ≤ h.g := by
    rw [Hart.gt]
    split
    · exact one
    · exact Nat.div_le_of_le_mul ((Nat.mul_comm _ _).le.trans (Nat.mul_le_mul_right _ narrow))
  have run : (h.outRun d f).2 = h.g := by
    simp only [Hart.outRun, Nat.max_eq_left span]
    exact if_neg (by omega)
  have own : h.writeOwn d (plainVec f e sc) = h.writeGroup (h.wb.toNat + d) (h.outRun d f).2 (plainVec f e sc) := by
    rw [Hart.writeOwn]
    exact if_neg fun c => c.1 rfl
  rw [own, run]
  rfl

/-! ### Untyped destinations -/

theorem memberOf_typed (v : Vec) (grant g j : Nat) : (memberOf v grant g j).desc.untyped = false := by
  rw [memberOf]
  split
  · rfl
  · dsimp only
    split <;> rfl

/-- Registers written from w on, one after another. -/
theorem mget_foldl_mset (w : Nat) (f : List (Nat × VReg) → Nat → VReg) (v : List (Nat × VReg)) : ∀ n, 0 < n →
    mget {} ((List.range n).foldl (fun m j => mset {} m (w + j) (f m j)) v) w = f v 0 := by
  intro n
  induction n with
  | zero => intro h; omega
  | succ n ih =>
    intro _
    rw [List.range_succ, List.foldl_append, List.foldl_cons, List.foldl_nil, mget_mset]
    rcases Nat.eq_zero_or_pos n with rfl | hn
    · exact if_pos rfl
    · rw [if_neg (by omega), ih hn]

/-- VMV turns the mark of the bytes it has written over to untyped. -/
theorem flipTyped_writeVec (h : Hart) (d : Nat) (v : Vec) :
    (((h.writeVec d v).flipTyped (h.wb.toNat + d) h.g).vreg (h.wb.toNat + d)).desc.untyped = true := by
  have one : 0 < h.g := Nat.two_pow_pos _
  have written : mget {} (h.writeVec d v).v (h.wb.toNat + d) = memberOf v.fit h.vlgrant h.g 0 :=
    mget_foldl_mset _ (fun _ j => memberOf v.fit h.vlgrant h.g j) h.v h.g one
  have turned := mget_foldl_mset (h.wb.toNat + d) (fun m j =>
    let r := mget {} m (h.wb.toNat + d + j)
    { r with desc := { r.desc with untyped := !r.desc.untyped } }) (h.writeVec d v).v h.g one
  refine (congrArg (fun r : VReg => r.desc.untyped) turned).trans ?_
  show (!(mget {} (h.writeVec d v).v (h.wb.toNat + d)).desc.untyped) = true
  rw [written, memberOf_typed]
  rfl

/-! ### Single elements and index vectors (R360 to R362) -/

theorem sgn_eq_toInt (b x : Nat) : sgn b x = (BitVec.ofNat b x).toInt := by
  rw [sgn, BitVec.toInt_eq_toNat_cond, BitVec.toNat_ofNat]
  rcases Nat.eq_zero_or_pos b with rfl | hb
  · simp
  · have double : 2 ^ b = 2 * 2 ^ (b - 1) := by
      rw [← Nat.pow_succ', Nat.succ_eq_add_one, Nat.sub_add_cancel hb]
    split <;> split <;> omega

theorem patInt_eq_toNat (b : Nat) (i : Int) : patInt b i = (BitVec.ofInt b i).toNat := (BitVec.toNat_ofInt i).symm

theorem extract_eq (f : Fmt) (x : Nat) : f.extract x =
    if f.isI ∨ f = .i4 ∨ f = .mxi8 then BitVec.ofInt 64 (BitVec.ofNat f.bits x).toInt else BitVec.ofNat 64 x := by
  rw [Fmt.extract, sgn_eq_toInt]
  simp only [Bool.or_eq_true, decide_eq_true_eq, or_assoc]

/-- The model's source of VIDX casts the list of the indices. -/
theorem vidx_runs (s : State) (d ia ib : BitVec 7) (m : BitVec 2) : exec (.vidx d ia ib m) s = complete (.vidx d ia ib m) s
    (s.vec0 Fmt.isInt ⟨(List.range s.hart.vl).map fun (i : Nat) => patInt s.hart.fmt.bits (ia.toInt + i * ib.toInt), .plain, .plain⟩
      d m) := by
  have casts (l : List Nat) : (l >>= fun i => pure (i : Int)) = l.map Nat.cast := bind_pure_comp _ _
  show complete _ s (s.vec0 _ ⟨List.map _ (List.range s.hart.vl >>= fun i => pure (i : Int)), _, _⟩ d m) = _
  rw [casts, List.map_map]
  rfl

theorem vextr_ok {d a b : Reg} {m : BitVec 2} {v : Vec} {u : Bool} (iss : s.issues [s.hart.ownRun a.toNat] [] m.toNat t)
    (read : t.hart.readAny (s.hart.ownRun a.toNat) = .ok (v, u)) : s.endsWith (.vextr d a b m) t (t.hart.wx d.toNat
      (if (s.rx b).toNat < t.hart.vl ∧ t.hart.sel m.toNat (s.rx b).toNat = true ∧ (s.rx b).toNat < v.elems.length
       then (if u then .n8 else v.fmt : Fmt).extract (v.elems.getD (s.rx b).toNat 0) else 0)) := by
  have ready := iss.1
  refine endsWith_of rfl ?_
  simp only [ready]
  refine issues_ok iss ?_
  simp only [read, State.wx]

/-- VINS merges a splat into the old destination at one element (R361). -/
theorem vins_ok {d a b : Reg} {m : BitVec 2} {o : Opd} (cls : s.hart.fmt.isMove = true)
    (iss : s.issues [s.hart.opRun d.toNat] [s.hart.gRun d.toNat] m.toNat t) (read : t.hart.operand d.toNat = .ok o) :
    ∃ sh act, s.endsWith (.vins d a b m) t (t.hart.writeVec d.toNat (resultVec t.hart.ep t.hart.fmt [o, sh] act
      ((List.range t.hart.vl).map fun j => if j = (s.rx b).toNat ∧ t.hart.sel m.toNat (s.rx b).toNat = true
        then (s.rx a).toNat % 2 ^ t.hart.fmt.bits else o.el j))) := by
  have ready := iss.1
  refine ⟨Opd.ofScalar t.hart.fmt t.hart.vl (s.rx a).toNat,
    some ((List.range t.hart.vl).map fun i => decide (i = (s.rx b).toNat) && t.hart.sel m.toNat i), endsWith_of rfl ?_⟩
  have merged : mergeMp false ((List.range t.hart.vl).map fun i => decide (i = (s.rx b).toNat) && t.hart.sel m.toNat i)
      (Opd.ofScalar t.hart.fmt t.hart.vl (s.rx a).toNat).elems o.elems =
      (List.range t.hart.vl).map fun j => if j = (s.rx b).toNat ∧ t.hart.sel m.toNat (s.rx b).toNat = true
        then (s.rx a).toNat % 2 ^ t.hart.fmt.bits else o.el j := by
    rw [show (Opd.ofScalar t.hart.fmt t.hart.vl (s.rx a).toNat).elems =
      (List.range t.hart.vl).map fun _ => (s.rx a).toNat % 2 ^ t.hart.fmt.bits by simp [Opd.ofScalar]]
    conv_lhs => rw [eq_map_getD (operand_length read), mergeMp_map]
    refine List.map_congr_left fun j _ => ?_
    by_cases here : j = (s.rx b).toNat
    · simp [here, Opd.el]
    · simp [here, Opd.el]
  simp only [cls, ready, Bool.not_true, Bool.false_eq_true, if_false]
  refine issues_ok iss ?_
  simp only [read, merged]

end Sys2Proof.Machine
end

section
/-! The settled obligation. -/

namespace Sys2Proof.Machine

/-- Settles O24: slides and packing as moves of elements (`moves_of`), copies by the element-wise driver (`ewResult_same`), and groups
read at their own tags (`readAny_of_readRun`). -/
theorem elementMoves : Obligations.ElementMoves := by
  unfold Obligations.ElementMoves
  constructor
  case left =>
    intro s d a b m n
    refine ⟨moves_of rfl fun g x o _ => rfl, moves_of rfl fun g x o ho => ?down, moves_of rfl fun g x o _ => ?packed, ?permuted⟩
    case down => exact congrArg Except.ok (mergeMp_merged g m.toNat _ ho)
    case packed => exact congrArg Except.ok (fitLen_pickActive g m.toNat x)
    case permuted =>
      intro cls t x ix o iss hx hix ho
      refine endsWith_of rfl (moveElems_ok cls iss hx ho ?_)
      have picked : ((fitLen t.hart.vl ix.elems).map fun j => x.getD j 0) =
          (List.range t.hart.vl).map fun k => x.getD (ix.elems.getD k 0) 0 := by
        rw [fitLen_eq_map, List.map_map]
        rfl
      simp only [hix, picked, mergeMp_merged t.hart m.toNat _ (old_length ho)]
      rfl
  case right =>
    intro s d a b ia ib m f none_
    have computed {cls : Fmt → Bool} {i : Instr} {src : Opd} (runs : exec i s = complete i s (s.vec0 cls src d m))
        (len : src.elems.length = s.hart.vl) : none_ (cls f) i src :=
      ⟨vec0_illegal runs, fun legal t o reads => endsWith_of runs (vec0_ok legal len reads)⟩
    refine ⟨?copied, ?bytes, ?masked, computed rfl List.length_replicate, ?index, ?stairs, ?elem, ?byte, fun cls t o => vins_ok cls⟩
    case copied =>
      rintro rfl t v iss read c w
      refine ⟨endsWith_of rfl (copyReg_ok iss (readAny_of_readRun read)), fun plain narrow => ?_, fun plain => ?_⟩
      · obtain ⟨e, sc, hc, _⟩ := copyVec_plain v.fmt v.wid v.elems v.scales t.hart.vl
        have hw : w = plainVec v.fmt e sc := by
          simp only [w, c, plain, hc]
          split <;> rfl
        rw [hw]
        exact writeOwn_plain _ _ narrow _ _
      · obtain ⟨e, sc, hc, els⟩ := copyVec_plain v.fmt v.wid v.elems v.scales t.hart.vl
        simp only [c, plain, hc]
        exact ⟨rfl, els⟩
    case bytes =>
      rintro rfl t v iss read
      exact ⟨_, endsWith_of rfl (copyReg_ok iss read), rfl, flipTyped_writeVec _ _ _⟩
    case masked =>
      intro hm cls t x o reads
      refine endsWith_of ?_ (vec1_same_ok cls reads)
      show complete _ s (if m = 0 then _ else _) = _
      rw [if_neg hm]
    case index =>
      refine computed ?_ (by rw [List.length_map, List.length_range])
      rw [vidx_runs]
      simp only [← patInt_eq_toNat]
      rfl
    case stairs =>
      intro pos
      refine ⟨(stairs f s.hart.vl ib.toInt.toNat ia.toInt).shape, .runs, computed ?_ (by rw [List.length_map, List.length_range])⟩
      simp only [← patInt_eq_toNat]
      show complete _ s (if ib.toInt ≤ 0 then _ else _) = _
      rw [if_neg (by omega)]
      rfl
    case elem =>
      intro t v iss read k
      rw [← extract_eq]
      exact vextr_ok iss (readAny_of_readRun read)
    case byte =>
      intro t v iss read k
      exact vextr_ok iss read

end Sys2Proof.Machine
end

section
/-! SUPPORT. What an event does to every hart alike, and to the rest of the machine: the parts that a transfer may change before it
retires (R254 to R259). -/

namespace Sys2Proof.Machine

variable {s u x : State} {i j : Nat} {w w' : Hart → Hart}

/-! ### Harts changed alike -/

/-- The harts of `u` are those of `s`, each changed by `w`. -/
def State.hartsBy (s u : State) (w : Hart → Hart) : Prop := u.hart = w s.hart ∧ u.others = s.others.map w

theorem State.hartsBy.trans (a : s.hartsBy u w) (b : u.hartsBy x w') : s.hartsBy x (w' ∘ w) := by
  obtain ⟨ha, oa⟩ := a
  obtain ⟨hb, ob⟩ := b
  exact ⟨by rw [hb, ha]; rfl, by rw [ob, oa, List.map_map]⟩

/-- The hart of a number is the one that it was, changed. -/
theorem hartOf_by (by_ : s.hartsBy u w) (keep : ∀ h, (w h).id = h.id ∧ (w h).run = h.run) (j : Nat) :
    u.hartOf j = (s.hartOf j).map w := by
  obtain ⟨hu, ou⟩ := by_
  have all : u.hart :: u.others = (s.hart :: s.others).map w := by rw [hu, ou, List.map_cons]
  have runs : (fun h : Hart => decide (h.run ≠ .idle)) ∘ w = fun h => decide (h.run ≠ .idle) := funext fun h => by
    simp [(keep h).2]
  have ids : (fun h : Hart => decide (h.id = j)) ∘ w = fun h => decide (h.id = j) := funext fun h => by simp [(keep h).1]
  rw [State.hartOf, State.harts, all, List.filter_map, runs, List.find?_map, ids]
  rfl

theorem hartOf_id {h : Hart} (found : s.hartOf i = some h) : h.id = i := by simpa using List.find?_some found

theorem hartOf_mem {h : Hart} (found : s.hartOf i = some h) : h ∈ s.harts := List.mem_of_find?_eq_some found

theorem hartOf_run {h : Hart} (found : s.hartOf i = some h) : h.run ≠ .idle := by
  simpa using (List.mem_filter.mp (hartOf_mem found)).2

/-! ### What may differ of a hart -/

/-- Hart `g` is `h` but for registers, links and a wake latch that may be set, and for the samples of hart i. -/
structure Hart.Near (i : Nat) (h g : Hart) : Prop where
  eq : g = { h with v := g.v, links := g.links, wake := g.wake, samples := g.samples }
  samples : h.id ≠ i → g.samples = h.samples
  wake : h.wake = true → g.wake = true

theorem Hart.Near.refl (i : Nat) (h : Hart) : h.Near i h := ⟨rfl, fun _ => rfl, fun w => w⟩

theorem Hart.Near.id_eq {h g : Hart} (n : h.Near i g) : g.id = h.id := by rw [n.eq]

theorem Hart.Near.run_eq {h g : Hart} (n : h.Near i g) : g.run = h.run := by rw [n.eq]

theorem Hart.Near.trans {h g k : Hart} (a : h.Near i g) (b : g.Near i k) : h.Near i k := by
  refine ⟨b.eq.trans ?_, fun other => (b.samples (a.id_eq ▸ other)).trans (a.samples other), fun w => b.wake (a.wake w)⟩
  exact congrArg (fun y : Hart => { y with v := k.v, links := k.links, wake := k.wake, samples := k.samples }) a.eq

theorem breakLinks_near (i : Nat) (h : Hart) (other : Bool) (lines : List Nat) : h.Near i (h.breakLinks other lines) := by
  unfold Hart.breakLinks
  split
  · exact ⟨rfl, fun _ => rfl, fun w => Bool.or_eq_true_iff.mpr (.inl w)⟩
  · exact .refl i h

theorem breakLinks_v (h : Hart) (other : Bool) (lines : List Nat) : (h.breakLinks other lines).v = h.v := by
  unfold Hart.breakLinks
  split <;> rfl

theorem cutLinks_near (i : Nat) (h : Hart) (lo n : Nat) (other : Bool) : h.Near i (h.cutLinks lo n other) := by
  unfold Hart.cutLinks
  split
  · exact ⟨rfl, fun _ => rfl, fun w => Bool.or_eq_true_iff.mpr (.inl w)⟩
  · exact .refl i h

theorem cutLinks_v (h : Hart) (lo n : Nat) (other : Bool) : (h.cutLinks lo n other).v = h.v := by
  unfold Hart.cutLinks
  split <;> rfl

theorem dropStale_eq (s : State) (h : Hart) (va : Nat) : s.dropStale h va = { h with samples := (s.dropStale h va).samples } := by
  unfold State.dropStale
  (repeat' split) <;> rfl

theorem foldl_dropStale_eq (s : State) : ∀ (vas : List Nat) (h : Hart),
    vas.foldl s.dropStale h = { h with samples := (vas.foldl s.dropStale h).samples }
  | [], _ => rfl
  | va :: vas, h => by
    rw [List.foldl_cons]
    refine (foldl_dropStale_eq s vas _).trans ?_
    exact congrArg (fun y : Hart => { y with samples := (vas.foldl s.dropStale (s.dropStale h va)).samples }) (dropStale_eq s h va)

/-! ### What may differ of the machine -/

/-- `s` with what a transfer may change taken from `u`. -/
def State.reworked (s u : State) : State :=
  { s with hart := u.hart, others := u.others, apps := u.apps, mem := u.mem, poison := u.poison, segHdr := u.segHdr,
           hdrPoison := u.hdrPoison, leaving := u.leaving, tick := u.tick }

/-- A transfer of hart i has made `u` of `s`; where `regs` holds it has written no register. -/
structure State.Works (i : Nat) (regs : Prop) (s u : State) : Prop where
  harts : ∃ w, s.hartsBy u w ∧ ∀ h, h.Near i (w h) ∧ (regs → (w h).v = h.v)
  frame : u = s.reworked u

/-- The same of one that maps nothing and takes no frame. -/
structure State.Writes (i : Nat) (regs : Prop) (s u : State) : Prop extends State.Works i regs s u where
  apps : u.apps = s.apps
  tick : u.tick = s.tick
  leaving : u.leaving = s.leaving

variable {regs : Prop}

theorem State.Works.refl (i : Nat) (regs : Prop) (s : State) : s.Works i regs s :=
  ⟨⟨id, ⟨rfl, (List.map_id _).symm⟩, fun h => ⟨.refl i h, fun _ => rfl⟩⟩, rfl⟩

theorem State.Works.trans (a : s.Works i regs u) (b : u.Works i regs x) : s.Works i regs x := by
  obtain ⟨⟨wa, ha, na⟩, fa⟩ := a
  obtain ⟨⟨wb, hb, nb⟩, fb⟩ := b
  refine ⟨⟨wb ∘ wa, ha.trans hb, fun h => ⟨(na h).1.trans (nb (wa h)).1, fun r => ((nb (wa h)).2 r).trans ((na h).2 r)⟩⟩, fb.trans ?_⟩
  show u.reworked x = (s.reworked u).reworked x
  rw [← fa]

theorem State.Works.hartOf (a : s.Works i regs u) {h : Hart} (found : s.hartOf j = some h) :
    ∃ g, u.hartOf j = some g ∧ h.Near i g ∧ (regs → g.v = h.v) := by
  obtain ⟨⟨w, hw, n⟩, _⟩ := a
  refine ⟨w h, ?_, n h⟩
  rw [hartOf_by hw fun h => ⟨(n h).1.id_eq, (n h).1.run_eq⟩, found]
  rfl

theorem State.Works.hartOf_none (a : s.Works i regs u) (absent : s.hartOf j = none) : u.hartOf j = none := by
  obtain ⟨⟨w, hw, n⟩, _⟩ := a
  rw [hartOf_by hw fun h => ⟨(n h).1.id_eq, (n h).1.run_eq⟩, absent]
  rfl

theorem State.Works.spilled (a : s.Works i regs u) (none : ∀ h ∈ s.harts, h.spilled = false) {h : Hart} (m : h ∈ u.harts) :
    h.spilled = false := by
  obtain ⟨⟨w, ⟨hw, ow⟩, n⟩, _⟩ := a
  have all : u.hart :: u.others = (s.hart :: s.others).map w := by rw [hw, ow, List.map_cons]
  obtain ⟨here, run⟩ := List.mem_filter.mp m
  rw [all, List.mem_map] at here
  obtain ⟨g, hg, rfl⟩ := here
  have same := (n g).1
  rw [show (w g).spilled = g.spilled by rw [same.eq]]
  exact none g (List.mem_filter.mpr ⟨hg, by rwa [same.run_eq] at run⟩)

theorem State.Writes.refl (i : Nat) (s : State) : s.Writes i regs s := ⟨.refl i regs s, rfl, rfl, rfl⟩

theorem State.Writes.trans (a : s.Writes i regs u) (b : u.Writes i regs x) : s.Writes i regs x :=
  ⟨a.toWorks.trans b.toWorks, b.apps.trans a.apps, b.tick.trans a.tick, b.leaving.trans a.leaving⟩

/-- What accesses read of the machine apart from its memory is as it was. -/
theorem State.Writes.app (a : s.Writes i regs u) (k : Nat) : u.app k = s.app k := by rw [State.app, a.apps, State.app]

theorem State.Works.linkDown (a : s.Works i regs u) (k : MemKind) : u.linkDown k = s.linkDown k := by
  rw [a.frame]
  rfl

theorem State.Works.forStore (a : s.Works i regs u) (y : Option Xlat) : u.forStore y = s.forStore y := by
  rw [a.frame]
  rfl

theorem State.Writes.xferAt (a : s.Writes i regs u) (t : Transfer) (va : Nat) : u.xferAt t va = s.xferAt t va := by
  rw [State.xferAt, a.app, State.xferAt]

theorem State.Writes.xferPhys (a : s.Writes i regs u) (t : Transfer) (va : Nat) : u.xferPhys t va = s.xferPhys t va := by
  rw [State.xferPhys, a.xferAt, State.xferPhys]

theorem State.Writes.dstEncoded (a : s.Writes i regs u) (t : Transfer) (k : Nat) : u.dstEncoded t k = s.dstEncoded t k := by
  rw [State.dstEncoded, a.xferAt, State.dstEncoded]

/-! ### The steps of a transfer's effect -/

theorem writePhys_writes (i : Nat) (s : State) (cells : List (Nat × Nat)) : s.Writes i True (s.writePhys false cells) :=
  ⟨⟨⟨fun h => h.breakLinks true (cells.map fun c => c.1 / 64), ⟨rfl, rfl⟩,
    fun h => ⟨breakLinks_near i h _ _, fun _ => breakLinks_v h _ _⟩⟩, rfl⟩, rfl, rfl, rfl⟩

theorem setPoison_writes (i : Nat) (s : State) (g : Nat) (b : Bool) : s.Writes i True (s.setPoison g b) :=
  ⟨⟨⟨id, ⟨rfl, (List.map_id _).symm⟩, fun h => ⟨.refl i h, fun _ => rfl⟩⟩, rfl⟩, rfl, rfl, rfl⟩

theorem segHdr_writes (i : Nat) (s : State) (m : List (Nat × Option Word)) : s.Writes i True { s with segHdr := m } :=
  ⟨⟨⟨id, ⟨rfl, (List.map_id _).symm⟩, fun h => ⟨.refl i h, fun _ => rfl⟩⟩, rfl⟩, rfl, rfl, rfl⟩

/-- A change of the samples of hart i. -/
theorem updHart_samples_writes (s : State) (f : Hart → Hart) (hf : ∀ h, f h = { h with samples := (f h).samples }) :
    s.Writes i True (s.updHart i f) := by
  refine ⟨⟨⟨_, ⟨rfl, rfl⟩, fun h => ?_⟩, rfl⟩, rfl, rfl, rfl⟩
  dsimp only
  split
  · next c =>
    obtain ⟨_, same⟩ : h.run ≠ .idle ∧ h.id = i := by simpa using c
    refine ⟨⟨?_, fun other => absurd same other, ?_⟩, fun _ => ?_⟩ <;> rw [hf h]
    exact fun w => w
  · exact ⟨.refl i h, fun _ => rfl⟩

theorem foldl_writes {α : Type} {f : State → α → State} (hf : ∀ (s : State) (a : α), s.Writes i True (f s a)) :
    ∀ (l : List α) (s : State), s.Writes i True (l.foldl f s)
  | [], s => .refl i s
  | a :: l, s => (hf s a).trans (foldl_writes hf l (f s a))

/-- A change of registers alone. -/
theorem mapHarts_v_works (i : Nat) (s : State) (p : Hart → Bool) (f : Hart → Hart) (hf : ∀ h, f h = { h with v := (f h).v }) :
    s.Works i False (s.mapHarts p f) := by
  refine ⟨⟨_, ⟨rfl, rfl⟩, fun h => ?_⟩, rfl⟩
  split
  · exact ⟨⟨by rw [hf h], fun _ => by rw [hf h], fun w => by rw [hf h]; exact w⟩, False.elim⟩
  · exact ⟨.refl i h, False.elim⟩

/-! ### Harts changed by a number -/

theorem hartOf_updHart (s : State) (f : Hart → Hart) (keep : ∀ h, (f h).id = h.id ∧ (f h).run = h.run) (j : Nat) :
    (s.updHart i f).hartOf j = (s.hartOf j).map fun h => if h.id = i then f h else h := by
  have by_ : s.hartsBy (s.updHart i f) (fun h => if decide (h.run ≠ .idle) && decide (h.id = i) then f h else h) := ⟨rfl, rfl⟩
  rw [hartOf_by by_ fun h => by split; exacts [keep h, ⟨rfl, rfl⟩]]
  cases found : s.hartOf j with
  | none => rfl
  | some h =>
    have run := hartOf_run found
    simp [run]

theorem hartOf_updHart_same (f : Hart → Hart) (keep : ∀ h, (f h).id = h.id ∧ (f h).run = h.run) {h : Hart}
    (found : s.hartOf i = some h) : (s.updHart i f).hartOf i = some (f h) := by
  rw [hartOf_updHart s f keep, found, Option.map_some, if_pos (hartOf_id found)]

theorem hartOf_updHart_other (f : Hart → Hart) (keep : ∀ h, (f h).id = h.id ∧ (f h).run = h.run) {h : Hart} (other : j ≠ i)
    (found : s.hartOf j = some h) : (s.updHart i f).hartOf j = some h := by
  rw [hartOf_updHart s f keep, found, Option.map_some, if_neg fun e => other ((hartOf_id found).symm.trans e)]

end Sys2Proof.Machine
end

section
/-! SUPPORT. The end of a transfer (R259 to R261): the record that it posts, in the queue and at XCQ.BASE, and what else changes then. -/

namespace Sys2Proof.Machine

variable {s u : State} {i j : Nat} {t : Transfer} {e : Ending}

/-! ### Cells for the bytes of a virtual range -/

/-- A page that a store may use is a mapped one. -/
theorem forStore_some {o : Option Xlat} {x : Xlat} (h : s.forStore o = .ok x) : o = some x := by
  cases o with
  | none => cases h
  | some y =>
    rw [State.forStore] at h
    split at h
    · cases h
    split at h
    · cases h
    split at h
    · cases h
    · rw [Except.ok.inj h]

/-- Where the byte of a cell lies. -/
theorem mem_cellsFor {app : Nat} {w : Who} {c : Nat × Nat} : ∀ {bs : List Nat} {va : Nat}, c ∈ s.cellsFor app w va bs →
    ∃ j < bs.length, ∃ x, (s.app app).lookup w (va + j) = some x ∧ c.1 = x.addr (va + j)
  | [], _, m => absurd m List.not_mem_nil
  | b :: bs, va, m => by
    have later (m : c ∈ s.cellsFor app w (va + 1) bs) : ∃ j < (b :: bs).length, ∃ x,
        (s.app app).lookup w (va + j) = some x ∧ c.1 = x.addr (va + j) := by
      obtain ⟨j, hj, x, hx, hc⟩ := mem_cellsFor m
      rw [Nat.add_assoc, Nat.add_comm 1 j] at hx hc
      exact ⟨j + 1, Nat.succ_lt_succ hj, x, hx, hc⟩
    rw [State.cellsFor] at m
    split at m
    · exact later m
    · next y hy =>
      rcases List.mem_cons.mp m with rfl | m
      · exact ⟨0, Nat.succ_pos _, y, forStore_some hy, rfl⟩
      · exact later m

/-- The last write of a byte stands. -/
theorem mget_putCells_last {p b : Nat} {before after : List (Nat × Nat)} (m : List Host.Cell) (fin : ∀ c ∈ after, c.1 ≠ p) :
    mget unlistedByte (putCells m (before ++ (p, b) :: after)) p = BitVec.ofNat 8 b := by
  rw [putCells_append, putCells, mget_putCells_of_not_mem p after _ fin, mget_mset, if_pos rfl]

/-- The cell of byte j among those of a range, before and after which lie those of the bytes below and above. -/
theorem cellsFor_split {app : Nat} {w : Who} {x : Xlat} : ∀ {bs : List Nat} {va j : Nat} (hj : j < bs.length),
    s.forStore ((s.app app).lookup w (va + j)) = .ok x →
    ∃ before after, s.cellsFor app w va bs = before ++ (x.addr (va + j), bs[j]) :: after ∧
      ∀ c ∈ after, ∃ k, j < k ∧ k < bs.length ∧ ∃ y, (s.app app).lookup w (va + k) = some y ∧ c.1 = y.addr (va + k)
  | b :: bs, va, 0, _, hx => by
    refine ⟨[], s.cellsFor app w (va + 1) bs, ?_, fun c hc => ?_⟩
    · rw [State.cellsFor]
      simp only [Nat.add_zero] at hx ⊢
      rw [hx]
      rfl
    · obtain ⟨k, hk, y, hy, e⟩ := mem_cellsFor hc
      rw [Nat.add_assoc, Nat.add_comm 1 k] at hy e
      exact ⟨k + 1, Nat.succ_pos k, Nat.succ_lt_succ hk, y, hy, e⟩
  | b :: bs, va, j + 1, hj, hx => by
    rw [← Nat.add_assoc, Nat.add_right_comm] at hx
    obtain ⟨before, after, split_, rest⟩ := cellsFor_split (Nat.lt_of_succ_lt_succ hj) hx
    have shift (k : Nat) : va + 1 + k = va + (k + 1) := by omega
    have above : ∀ c ∈ after, ∃ k, j + 1 < k ∧ k < (b :: bs).length ∧ ∃ y, (s.app app).lookup w (va + k) = some y ∧ c.1 = y.addr (va + k) :=
      fun c hc => by
        obtain ⟨k, lo, hi, y, hy, e⟩ := rest c hc
        rw [shift] at hy e
        exact ⟨k + 1, Nat.succ_lt_succ lo, Nat.succ_lt_succ hi, y, hy, e⟩
    rw [State.cellsFor, split_, shift]
    split
    · exact ⟨before, after, rfl, above⟩
    · exact ⟨_ :: before, after, rfl, above⟩

/-! ### A record posted -/

/-- Queue q once record k of it has posted. -/
def CQueue.withRec (c : CQueue) (k : Nat) (r : ComplRec) : CQueue := { c with posted := c.posted + 1, recs := mset none c.recs k (some r) }

/-- The bytes of a record in memory. -/
def ComplRec.bytes (r : ComplRec) : List Nat := (cellsLE 0 8 r.w0.toNat).map Prod.snd ++ (cellsLE 0 8 r.w1.toNat).map Prod.snd

theorem ComplRec.bytes_length (r : ComplRec) : r.bytes.length = 16 := by simp [ComplRec.bytes, cellsLE_bytes]

theorem ComplRec.getElem_bytes (r : ComplRec) {j : Nat} (hj : j < r.bytes.length) :
    BitVec.ofNat 8 r.bytes[j] = BitVec.ofNat 8 ((r.w0.toNat + r.w1.toNat * 2 ^ 64) / 256 ^ j) := by
  have low := r.w0.isLt
  rw [r.bytes_length] at hj
  apply BitVec.eq_of_toNat_eq
  simp only [ComplRec.bytes, cellsLE_bytes, BitVec.toNat_ofNat]
  rcases Nat.lt_or_ge j 8 with h | h
  · rw [List.getElem_append_left (by simpa using h)]
    simp only [List.getElem_map, List.getElem_range]
    interval_cases j <;> omega
  · rw [List.getElem_append_right (by simpa using h)]
    simp only [List.getElem_map, List.getElem_range, List.length_map, List.length_range]
    interval_cases j <;> omega

/-- A hart that finds record k in its queue q. -/
def Hart.gotRec (q k : Nat) (c : CQueue) (r : ComplRec) (g : Hart) : Hart := { g.setQueue q (c.withRec k r) with wake := true }

/-- A record posted in the queue of its hart. -/
def State.recPosted (s : State) (i q k : Nat) (c : CQueue) (r : ComplRec) : State := s.updHart i (Hart.gotRec q k c r)

variable {w : Who} {q k : Nat} {r : ComplRec} {h : Hart} {regs : Prop}

/-- A record is posted in the queue, and in memory where XCQ.BASE is set and its place may be written. -/
theorem postRec_cases (w : Who) (q k : Nat) (r : ComplRec) (found : s.hartOf i = some h) :
    (h.recAddr q k = none ∧ s.postRec w i q k r = s.recPosted i q k (h.queue q) r) ∨
    (∃ a, h.recAddr q k = some a ∧ s.mayWrite h.app w a 16 = true ∧ s.postRec w i q k r =
      ((s.recPosted i q k (h.queue q) r).writeFor h.app w a r.bytes).updHart i fun g =>
        ((s.recPosted i q k (h.queue q) r).writeFor h.app w a r.bytes).dropStale g a) ∨
    (∃ a, h.recAddr q k = some a ∧ s.mayWrite h.app w a 16 = false ∧
      s.postRec w i q k r = (s.recPosted i q k (h.queue q) r).logApp h.app [2]) := by
  rw [State.postRec, found]
  dsimp only
  cases addr : h.recAddr q k with
  | none => exact .inl ⟨rfl, rfl⟩
  | some a =>
    dsimp only
    split
    · next may => exact .inr (.inl ⟨a, rfl, may, rfl⟩)
    · next may => exact .inr (.inr ⟨a, rfl, Bool.eq_false_iff.mpr may, rfl⟩)

theorem recPosted_hartOf {c : CQueue} (found : s.hartOf i = some h) :
    (s.recPosted i q k c r).hartOf i = some (h.gotRec q k c r) :=
  hartOf_updHart_same (Hart.gotRec q k c r) (fun _ => ⟨rfl, rfl⟩) found

theorem recPosted_hartOf_other {c : CQueue} (other : j ≠ i) (found : s.hartOf j = some h) :
    (s.recPosted i q k c r).hartOf j = some h :=
  hartOf_updHart_other (Hart.gotRec q k c r) (fun _ => ⟨rfl, rfl⟩) other found

/-- The store of a record, and the samples that go with it. -/
theorem recStore_writes (s : State) (app : Nat) (w : Who) (a : Nat) (bs : List Nat) :
    s.Writes i True ((s.writeFor app w a bs).updHart i fun g => (s.writeFor app w a bs).dropStale g a) :=
  (writePhys_writes i s _).trans (updHart_samples_writes _ _ fun _ => dropStale_eq _ _ _)

/-- Once a record has posted: the state of the queue and the wake latch, and what the store of the record and its loss have done. -/
theorem postRec_posted (w : Who) (q k : Nat) (r : ComplRec) (found : s.hartOf i = some h) :
    ∃ u, (s.recPosted i q k (h.queue q) r).Writes i True u ∧
      (s.postRec w i q k r = u ∨ ∃ app, s.postRec w i q k r = u.logApp app [2]) := by
  rcases postRec_cases w q k r found with ⟨-, e⟩ | ⟨a, -, -, e⟩ | ⟨a, -, -, e⟩
  · exact ⟨_, .refl i _, .inl e⟩
  · exact ⟨_, recStore_writes _ _ _ _ _, .inl e⟩
  · exact ⟨_, .refl i _, .inr ⟨_, e⟩⟩

/-- Memory once a record has posted, apart from the record. -/
theorem mget_postRec_of_not {p : Nat} (found : s.hartOf i = some h)
    (out : ∀ a, h.recAddr q k = some a → ∀ j < 16, ∀ x, (s.app h.app).lookup w (a + j) = some x → p ≠ x.addr (a + j)) :
    mget unlistedByte (s.postRec w i q k r).mem p = mget unlistedByte s.mem p := by
  rcases postRec_cases w q k r found with ⟨-, e⟩ | ⟨a, ha, -, e⟩ | ⟨a, -, -, e⟩
  · rw [e]; rfl
  · rw [e]
    refine mget_putCells_of_not_mem p _ _ fun c hc same => ?_
    obtain ⟨j, hj, x, hx, hp⟩ := mem_cellsFor hc
    exact out a ha j (r.bytes_length ▸ hj) x hx (same.symm.trans hp)
  · rw [e]; rfl

/-- The bytes of the record at its place. -/
theorem mget_postRec {a : Nat} {x : Xlat} (found : s.hartOf i = some h) (ha : h.recAddr q k = some a)
    (may : s.mayWrite h.app w a 16 = true) (hj : j < 16) (hx : (s.app h.app).lookup w (a + j) = some x)
    (fin : ∀ j' x', j < j' → j' < 16 → (s.app h.app).lookup w (a + j') = some x' → x'.addr (a + j') ≠ x.addr (a + j)) :
    mget unlistedByte (s.postRec w i q k r).mem (x.addr (a + j)) =
      BitVec.ofNat 8 ((r.w0.toNat + r.w1.toNat * 2 ^ 64) / 256 ^ j) := by
  have store : s.forStore ((s.app h.app).lookup w (a + j)) = .ok x := by
    have one := List.all_eq_true.mp may j (List.mem_range.mpr hj)
    split at one
    · cases one
    · next y hy => rw [hy, Option.some.inj (hx.symm.trans (forStore_some hy))]
  have hj' : j < r.bytes.length := by rwa [r.bytes_length]
  obtain ⟨before, after, cells, rest⟩ := cellsFor_split hj' store
  rcases postRec_cases w q k r found with ⟨none, -⟩ | ⟨b, hb, -, e⟩ | ⟨b, hb, no, -⟩
  · rw [ha] at none; cases none
  · cases Option.some.inj (ha.symm.trans hb)
    rw [e, ← r.getElem_bytes hj']
    show mget unlistedByte (putCells s.mem (s.cellsFor h.app w a r.bytes)) _ = _
    rw [cells]
    refine mget_putCells_last _ fun c hc => ?_
    obtain ⟨m, lo, hi, y, hy, hp⟩ := rest c hc
    exact hp ▸ fin m y lo (r.bytes_length ▸ hi) hy
  · cases Option.some.inj (ha.symm.trans hb)
    rw [may] at no; cases no

/-! ### The end (R259) -/

/-- A hart with the flags and counts of a transfer. -/
def Hart.withCounts (e : Ending) (h : Hart) : Hart :=
  { h.raise e.flags with clipc := holdAdd h.clipc e.clipped, elemc := holdAdd h.elemc e.examined }

/-- A machine without a transfer. -/
def State.without (s : State) (t : Transfer) : State := { s with transfers := s.transfers.filter fun u => decide (u.id ≠ t.id) }

/-- A transfer taken from the engine, its flags and counts with its hart. -/
def State.counted (s : State) (t : Transfer) (e : Ending) : State := (s.without t).updHart t.hart (Hart.withCounts e)

/-- Its record. -/
def Transfer.record (t : Transfer) (e : Ending) : ComplRec :=
  recWords t.recno e.status t.op e.fcode (bitsAt t.ctl.toNat 32 16) e.done e.foff e.poff

theorem finish_eq (s : State) (t : Transfer) (e : Ending) : s.finish t e =
    (if t.ctl.getLsbD 19 then s.counted t e
     else (s.counted t e).postRec t.who t.hart (ctlQueue t.ctl) t.recno (t.record e)).resave t.hart := rfl

theorem resave_eq (s : State) (i : Nat) : s.resave i = s ∨ ∃ x, s.resave i = s.postFront .spillDone x := by
  rw [State.resave]
  split
  · exact .inl rfl
  split
  · exact .inr ⟨_, rfl⟩
  · exact .inl rfl

theorem counted_hartOf (found : s.hartOf t.hart = some h) : (s.counted t e).hartOf t.hart = some (h.withCounts e) :=
  hartOf_updHart_same (s := s.without t) (Hart.withCounts e) (fun _ => ⟨rfl, rfl⟩) found

theorem counted_hartOf_other (other : j ≠ t.hart) (found : s.hartOf j = some h) : (s.counted t e).hartOf j = some h :=
  hartOf_updHart_other (s := s.without t) (Hart.withCounts e) (fun _ => ⟨rfl, rfl⟩) other found

/-- A transfer's end before the saved context of its hart is written again. -/
def State.told (s : State) (t : Transfer) (e : Ending) : State :=
  if t.ctl.getLsbD 19 then s.counted t e
  else (s.counted t e).postRec t.who t.hart (ctlQueue t.ctl) t.recno (t.record e)

theorem finish_told (s : State) (t : Transfer) (e : Ending) :
    s.finish t e = s.told t e ∨ ∃ x, s.finish t e = (s.told t e).postFront .spillDone x := resave_eq _ _

theorem finish_hartOf (s : State) (t : Transfer) (e : Ending) (j : Nat) : (s.finish t e).hartOf j = (s.told t e).hartOf j := by
  rcases finish_told s t e with h | ⟨x, h⟩ <;> rw [h]
  rfl

theorem finish_apps (s : State) (t : Transfer) (e : Ending) : (s.finish t e).apps = (s.told t e).apps := by
  rcases finish_told s t e with h | ⟨x, h⟩ <;> rw [h]
  rfl

theorem finish_mem (s : State) (t : Transfer) (e : Ending) : (s.finish t e).mem = (s.told t e).mem := by
  rcases finish_told s t e with h | ⟨x, h⟩ <;> rw [h]
  rfl

/-- What the end of a transfer leaves of the machine, in the terms of a transfer's effect. -/
theorem told_stages (s : State) (t : Transfer) (e : Ending) :
    s.told t e = s.counted t e ∨ ∃ h, (s.counted t e).hartOf t.hart = some h ∧ t.ctl.getLsbD 19 = false ∧
      ∃ u, ((s.counted t e).recPosted t.hart (ctlQueue t.ctl) t.recno (h.queue (ctlQueue t.ctl)) (t.record e)).Writes t.hart True u ∧
        (s.told t e = u ∨ ∃ app, s.told t e = u.logApp app [2]) := by
  rw [State.told]
  split
  · exact .inl rfl
  · next rec_ =>
    cases found : (s.counted t e).hartOf t.hart with
    | none => exact .inl (by rw [State.postRec, found])
    | some h => exact .inr ⟨h, rfl, Bool.eq_false_iff.mpr rec_, postRec_posted _ _ _ _ found⟩

theorem told_frame (s : State) (t : Transfer) (e : Ending) :
    s.told t e = (s.without t).reworked (s.told t e) ∧ (s.told t e).tick = s.tick ∧ (s.told t e).leaving = s.leaving := by
  rcases told_stages s t e with h | ⟨h, -, -, u, ⟨⟨-, f⟩, -, tick, leaving⟩, h | ⟨app, h⟩⟩
  · rw [h]
    exact ⟨rfl, rfl, rfl⟩
  · rw [h]
    exact ⟨f, tick, leaving⟩
  · rw [h]
    exact ⟨congrArg (fun y : State => y.logApp app [2]) f, tick, leaving⟩

/-- An application keeps all but its error log. -/
theorem told_app (s : State) (t : Transfer) (e : Ending) (j : Nat) : { (s.told t e).app j with errlog := [] } = { s.app j with errlog := [] } := by
  rcases told_stages s t e with h | ⟨h, -, -, u, works, h | ⟨app, h⟩⟩
  · rw [h]; rfl
  · rw [h, works.app]; rfl
  · have same := works.app j
    rw [h, State.logApp, app_setApp]
    split
    · next eq => subst eq; rw [same]; rfl
    · rw [same]; rfl

theorem told_hartOf_other (other : j ≠ t.hart) (found : s.hartOf j = some h) :
    ∃ g, (s.told t e).hartOf j = some g ∧ h.Near t.hart g ∧ g.v = h.v := by
  have counted := counted_hartOf_other (e := e) other found
  rcases told_stages s t e with h' | ⟨k, -, -, u, works, eq⟩
  · exact ⟨h, by rw [h', counted], .refl _ h, rfl⟩
  · obtain ⟨g, hg, near, regs⟩ := works.toWorks.hartOf (recPosted_hartOf_other other counted)
    rcases eq with eq | ⟨app, eq⟩ <;> exact ⟨g, by rw [eq]; exact hg, near, regs trivial⟩

theorem told_hartOf (found : s.hartOf t.hart = some h) : ∃ g, (s.told t e).hartOf t.hart = some g ∧
    (t.ctl.getLsbD 19 = false → g.wake = true) ∧
    g = { h.withRecord t e with v := h.v, links := g.links, wake := g.wake, samples := g.samples } := by
  have counted := counted_hartOf (e := e) found
  cases rec_ : t.ctl.getLsbD 19
  case true =>
    refine ⟨h.withCounts e, by rw [State.told, if_pos rec_, counted], nofun, ?_⟩
    rw [Hart.withRecord, if_pos rec_]
    rfl
  case false =>
    obtain ⟨u, works, eq⟩ := postRec_posted t.who (ctlQueue t.ctl) t.recno (t.record e) counted
    obtain ⟨g, hg, near, regs⟩ := works.toWorks.hartOf (recPosted_hartOf counted)
    have told : (s.told t e).hartOf t.hart = u.hartOf t.hart := by
      rw [State.told, rec_, if_neg Bool.false_ne_true]
      rcases eq with eq | ⟨app, eq⟩ <;> rw [eq]
      rfl
    refine ⟨g, told.trans hg, fun _ => near.wake rfl, near.eq.trans ?_⟩
    rw [regs trivial, Hart.withRecord, rec_]
    rfl

theorem told_hartOf_none (absent : s.hartOf t.hart = none) : (s.told t e).hartOf t.hart = none := by
  have gone : (s.counted t e).hartOf t.hart = none := by
    have eq := hartOf_updHart (i := t.hart) (s.without t) (Hart.withCounts e) (fun _ => ⟨rfl, rfl⟩) t.hart
    rwa [show (s.without t).hartOf t.hart = none from absent] at eq
  rcases told_stages s t e with eq | ⟨h, found, -⟩
  · rw [eq, gone]
  · rw [gone] at found
    cases found

/-- A record is posted in whatever state the registers, links and samples of its hart are. -/
theorem withRecord_apart (h : Hart) (v : List (Nat × VReg)) (ls : List Nat) (wk : Bool) (ss : List Sample) :
    ({ h with v := v, links := ls, wake := wk, samples := ss } : Hart).withRecord t e =
      { h.withRecord t e with v := v, links := ls, wake := wk, samples := ss } := by
  cases rec_ : t.ctl.getLsbD 19 <;> rw [Hart.withRecord, Hart.withRecord, rec_] <;> rfl

/-- No event is added where the context of the transfer's hart is not saved. -/
theorem finish_events (unsaved : ∀ h, s.hartOf t.hart = some h → h.spilled = false) : (s.finish t e).events = s.events := by
  have events : (s.told t e).events = s.events := by rw [(told_frame s t e).1]; rfl
  have eq : s.finish t e = (s.told t e).resave t.hart := rfl
  rw [eq, State.resave]
  cases found : s.hartOf t.hart with
  | none =>
    rw [told_hartOf_none found]
    exact events
  | some h =>
    obtain ⟨g, hg, -, same⟩ := told_hartOf (e := e) found
    have spilled : g.spilled = false := by
      rw [same, Hart.withRecord]
      have := unsaved h found
      split <;> exact this
    rw [hg]
    dsimp only
    rw [spilled, if_neg Bool.false_ne_true]
    exact events

/-- Once a transfer has retired whose effect has changed the machine as `Works` says (R259). -/
theorem retired_finish (works : s.Works t.hart regs u) : s.Retired (u.finish t e) t e := by
  have all : u.told t e = (s.without t).reworked (u.told t e) := by
    have rest : u.without t = (s.without t).reworked u := by
      show u.without t = (s.reworked u).without t
      rw [← works.frame]
    refine (told_frame u t e).1.trans ?_
    rw [rest]
    rfl
  have gone : (u.told t e).transfers = s.transfers.filter fun x => decide (x.id ≠ t.id) := by rw [all]; rfl
  refine ⟨?gone, ?hart, ?others, ?events, ?frame⟩
  case gone =>
    rcases finish_told u t e with h | ⟨x, h⟩ <;> rw [h] <;> exact gone
  case hart =>
    intro h found
    obtain ⟨g, hg, near, -⟩ := works.hartOf found
    obtain ⟨k, hk, wake, same⟩ := told_hartOf (e := e) hg
    refine ⟨k, (finish_hartOf u t e _).trans hk, wake, ?_⟩
    rw [near.eq, withRecord_apart] at same
    exact same.trans (by rw [same])
  case others =>
    intro j h other found
    obtain ⟨g, hg, near, -⟩ := works.hartOf found
    obtain ⟨k, hk, near', -⟩ := told_hartOf_other (e := e) other hg
    refine ⟨k, (finish_hartOf u t e _).trans hk, ?_⟩
    have both := near.trans near'
    have samples := both.samples (fun e => other ((hartOf_id found).symm.trans e))
    exact both.eq.trans (by rw [samples])
  case events =>
    intro unsaved
    have kept : u.events = s.events := by rw [works.frame]; rfl
    exact (finish_events fun h found => works.spilled unsaved (hartOf_mem found)).trans kept
  case frame =>
    have events : (u.told t e).events = s.events := by rw [all]; rfl
    have told : u.told t e = { s with
        transfers := (u.told t e).transfers, hart := (u.told t e).hart, others := (u.told t e).others, apps := (u.told t e).apps,
        mem := (u.told t e).mem, poison := (u.told t e).poison, segHdr := (u.told t e).segHdr, hdrPoison := (u.told t e).hdrPoison,
        leaving := (u.told t e).leaving, events := (u.told t e).events, tick := (u.told t e).tick } := by
      rw [gone, events]
      exact all
    rcases finish_told u t e with h | ⟨x, h⟩ <;> rw [h]
    · exact told
    · exact congrArg (fun y : State => y.postFront .spillDone x) told

/-- Without a record, memory is as the transfer's effect has left it. -/
theorem finish_mem_norec (s : State) (norec : t.ctl.getLsbD 19 = true) : (s.finish t e).mem = s.mem := by
  rw [finish_mem, State.told, if_pos norec]
  rfl

theorem finish_sameRegs (works : s.Works t.hart True u) : s.sameRegs (u.finish t e) := by
  intro j h g found hg
  obtain ⟨k, hk, -, regs⟩ := works.hartOf found
  rw [finish_hartOf] at hg
  by_cases own : j = t.hart
  · subst own
    obtain ⟨l, hl, -, same⟩ := told_hartOf (e := e) hk
    rw [Option.some.inj (hg.symm.trans hl), same]
    exact regs trivial
  · obtain ⟨l, hl, -, same⟩ := told_hartOf_other (e := e) own hk
    rw [Option.some.inj (hg.symm.trans hl), same, regs trivial]

/-- The application, the queues and XCQ.BASE of the hart to whose record a transfer comes. -/
theorem counted_found (writes : s.Writes t.hart regs u) (found : s.hartOf t.hart = some h) :
    ∃ g, (u.counted t e).hartOf t.hart = some g ∧ g.app = h.app ∧ g.xcqBase = h.xcqBase := by
  obtain ⟨g, hg, near, -⟩ := writes.toWorks.hartOf found
  exact ⟨_, counted_hartOf hg, by rw [near.eq]; rfl, by rw [near.eq]; rfl⟩

/-- A transfer's end changes no byte of memory but those of its record. -/
theorem mget_finish (writes : s.Writes t.hart regs u) {p : Nat} (out : ¬ s.recByte t p) :
    mget unlistedByte (u.finish t e).mem p = mget unlistedByte u.mem p := by
  rw [finish_mem, State.told]
  cases rec_ : t.ctl.getLsbD 19
  case true => rfl
  case false =>
    cases found : s.hartOf t.hart with
    | none =>
      have gone : (u.counted t e).hartOf t.hart = none := by
        have eq := hartOf_updHart (i := t.hart) (u.without t) (Hart.withCounts e) (fun _ => ⟨rfl, rfl⟩) t.hart
        rwa [show (u.without t).hartOf t.hart = none from writes.toWorks.hartOf_none found] at eq
      rw [if_neg Bool.false_ne_true, State.postRec, gone]
      rfl
    | some h =>
      obtain ⟨g, hg, app, base⟩ := counted_found (e := e) writes found
      rw [if_neg Bool.false_ne_true]
      refine (mget_postRec_of_not hg fun a ha j hj x hx same => out ⟨rec_, h, a, found, ?_, j, hj, x, ?_, same⟩).trans rfl
      · rw [← ha, Hart.recAddr, Hart.recAddr, base]
      · rw [← hx, app, ← writes.app]
        rfl

theorem mget_finish_record (writes : s.Writes t.hart regs u) {a : Nat} {x : Xlat} (rec_ : t.ctl.getLsbD 19 = false)
    (found : s.hartOf t.hart = some h) (ha : h.recAddr (ctlQueue t.ctl) t.recno = some a)
    (may : s.mayWrite h.app t.who a 16 = true) (hj : j < 16) (hx : (s.app h.app).lookup t.who (a + j) = some x)
    (fin : ∀ j' x', j < j' → j' < 16 → (s.app h.app).lookup t.who (a + j') = some x' → x'.addr (a + j') ≠ x.addr (a + j)) :
    mget unlistedByte (u.finish t e).mem (x.addr (a + j)) =
      BitVec.ofNat 8 (((t.record e).w0.toNat + (t.record e).w1.toNat * 2 ^ 64) / 256 ^ j) := by
  obtain ⟨g, hg, app, base⟩ := counted_found (e := e) writes found
  have same : (u.counted t e).app g.app = s.app h.app := (writes.app g.app).trans (by rw [app])
  rw [finish_mem, State.told, rec_, if_neg Bool.false_ne_true]
  refine mget_postRec hg (by rw [← ha, Hart.recAddr, Hart.recAddr, base]) ?_ hj (by rw [same, hx]) fun j' x' lo hi hx' => ?_
  · have stores (y : Option Xlat) : (u.counted t e).forStore y = s.forStore y := writes.toWorks.forStore y
    rw [← may]
    simp only [State.mayWrite, same, stores]
  · exact fin j' x' lo hi (by rw [← same, hx'])

theorem finish_app (writes : s.Writes t.hart regs u) (j : Nat) : { (u.finish t e).app j with errlog := [] } = { s.app j with errlog := [] } := by
  rw [State.app, finish_apps]
  refine (told_app u t e j).trans ?_
  rw [writes.app]

theorem finish_tick (writes : s.Writes t.hart regs u) : (u.finish t e).tick = s.tick ∧ (u.finish t e).leaving = s.leaving := by
  obtain ⟨-, tick, leaving⟩ := told_frame u t e
  rcases finish_told u t e with h | ⟨x, h⟩ <;> rw [h] <;> exact ⟨tick.trans writes.tick, leaving.trans writes.leaving⟩

end Sys2Proof.Machine
end

section
/-! SUPPORT. What a transfer to memory writes (R144, R254, R257): the cells of its destination, in order, and no other byte. -/

namespace Sys2Proof.Machine

variable {s u : State} {i j n p : Nat} {t : Transfer} {c : Conv}

/-! ### The parts of a destination -/

/-- Destination elements on plain pages, of the first `k`. -/
def State.dstPlain (s : State) (t : Transfer) (k : Nat) : List Nat := (List.range k).filter fun i => !s.dstEncoded t i

/-- First elements of the segments that a transfer writes whole. -/
def State.dstSlots (s : State) (t : Transfer) (k : Nat) : List Nat :=
  (List.range k).filter fun i => s.dstEncoded t i && decide (runAddr (ctlElem t.ctl 6) t.dst.toNat i % slotBytes (ctlElem t.ctl 6) = 0) &&
    decide (i + 256 ≤ k)

/-- The cells of 4-bit elements, newest first. -/
def State.nibbles (s : State) (t : Transfer) (c : Conv) (is : List Nat) : List (Nat × Nat) :=
  is.foldl (fun cs i => s.putNibble cs (s.xferPhys t (runAddr (ctlElem t.ctl 6) t.dst.toNat i)) (decide (i % 2 = 1)) (c.pats.getD i 0)) []

/-- The cells of element i of a format of whole bytes. -/
def State.elemBytes (s : State) (t : Transfer) (c : Conv) (i : Nat) : List (Nat × Nat) :=
  s.cellsFor t.app t.who (runAddr (ctlElem t.ctl 6) t.dst.toNat i)
    ((cellsLE 0 (ctlElem t.ctl 6).bytes (c.pats.getD i 0)).map Prod.snd)

/-- The cells of the elements. -/
def State.dstCells (s : State) (t : Transfer) (c : Conv) (k : Nat) : List (Nat × Nat) :=
  if (ctlElem t.ctl 6).bits = 4 then (s.nibbles t c (s.dstPlain t k)).reverse else (s.dstPlain t k).flatMap (s.elemBytes t c)

/-- The cell of the scale of the block that element i begins. -/
def State.scaleCell (s : State) (t : Transfer) (c : Conv) (i : Nat) : Nat × Nat :=
  (s.xferPhys t (blkScale (ctlElem t.ctl 6) (runAddr (ctlElem t.ctl 6) t.dst.toNat i)), c.scales.getD (i / 32) 0)

/-- The cells of the scales. -/
def State.dstScales (s : State) (t : Transfer) (c : Conv) (k : Nat) : List (Nat × Nat) :=
  if (ctlElem t.ctl 6).isMx then ((s.dstPlain t k).filter fun i => decide (i % 32 = 0)).map (s.scaleCell t c) else []

theorem putDst_state (s : State) (t : Transfer) (c : Conv) (es : List XElem) (k : Nat) : (s.putDst t c es k).1 =
    ((s.writePhys false (s.dstCells t c k ++ s.dstScales t c k)).putSlots t (ctlElem t.ctl 6) c.pats (s.dstSlots t k)).spreadPoison t
      (ctlElem t.ctl 6) (es.take k) := rfl

/-! ### What they leave of the machine -/

/-- One segment written whole, with its header. -/
def State.putSlot (s : State) (t : Transfer) (f : Fmt) (pats : List Nat) (k : Nat) : State :=
  let slot := s.xferPhys t (runAddr f t.dst.toNat k)
  let v := segBest f ((pats.drop k).take 256)
  let s1 := s.writePhys false (cellsLE slot (slotBytes f) v.arr)
  { s1 with segHdr := mset none s1.segHdr slot (some (BitVec.ofNat 64 (segHdrOf v))) }

theorem putSlots_cons (s : State) (t : Transfer) (f : Fmt) (pats : List Nat) (k : Nat) (ks : List Nat) :
    s.putSlots t f pats (k :: ks) = (s.putSlot t f pats k).putSlots t f pats ks := rfl

theorem putSlot_writes (i : Nat) (s : State) (t : Transfer) (f : Fmt) (pats : List Nat) (k : Nat) : s.Writes i True (s.putSlot t f pats k) :=
  (writePhys_writes i s _).trans (segHdr_writes i _ _)

theorem putSlots_writes (i : Nat) (t : Transfer) (f : Fmt) (pats : List Nat) : ∀ (ks : List Nat) (s : State),
    s.Writes i True (s.putSlots t f pats ks)
  | [], s => .refl i s
  | k :: ks, s => (putSlot_writes i s t f pats k).trans (putSlots_writes i t f pats ks _)

theorem spreadPoison_writes (i : Nat) (s : State) (t : Transfer) (f : Fmt) (es : List XElem) : s.Writes i True (s.spreadPoison t f es) := by
  have scales (s : State) : s.Writes i True (s.spreadScales t f es) := by
    rw [State.spreadScales]
    split
    · exact foldl_writes (fun s x => setPoison_writes i s _ _) _ s
    · exact .refl i s
  refine (foldl_writes (fun s x => ?_) _ s).trans (scales _)
  dsimp only
  split
  · exact setPoison_writes i s _ _
  · exact (setPoison_writes i s _ _).trans (setPoison_writes i _ _ _)

theorem putDst_writes (i : Nat) (s : State) (t : Transfer) (c : Conv) (es : List XElem) (k : Nat) : s.Writes i True (s.putDst t c es k).1 := by
  rw [putDst_state]
  exact ((writePhys_writes i s _).trans (putSlots_writes i t _ _ _ _)).trans (spreadPoison_writes i _ _ _ _)

theorem dropWritten_writes (s : State) (t : Transfer) (k : Nat) : s.Writes t.hart True (s.dropWritten t k) :=
  updHart_samples_writes s _ fun h => foldl_dropStale_eq s _ h

theorem foldWord_writes (s : State) (t : Transfer) (m : Nat) : s.Writes t.hart True (s.foldWord t m).1 := by
  rw [State.foldWord]
  split
  · exact .refl _ s
  · exact .refl _ s
  dsimp only
  split
  · exact .refl _ s
  · exact (writePhys_writes _ s _).trans (updHart_samples_writes _ _ fun h => dropStale_eq _ h _)

/-! ### Which bytes they write -/

theorem mem_putNibbles {is : List Nat} : ∀ {cs : List (Nat × Nat)} {x : Nat × Nat}, x ∈ is.foldl (fun cs i => s.putNibble cs
      (s.xferPhys t (runAddr (ctlElem t.ctl 6) t.dst.toNat i)) (decide (i % 2 = 1)) (c.pats.getD i 0)) cs →
    x ∈ cs ∨ ∃ i ∈ is, x.1 = s.xferPhys t (runAddr (ctlElem t.ctl 6) t.dst.toNat i) := by
  induction is with
  | nil => exact fun m => .inl m
  | cons i is ih =>
    intro cs x m
    rcases ih m with m | ⟨k, hk, e⟩
    · rcases List.mem_cons.mp m with rfl | m
      · exact .inr ⟨i, List.mem_cons_self .., rfl⟩
      · exact .inl m
    · exact .inr ⟨k, List.mem_cons_of_mem _ hk, e⟩

theorem mem_dstPlain {k : Nat} (m : i ∈ s.dstPlain t k) : i < k := List.mem_range.mp (List.mem_filter.mp m).1

theorem mem_elemBytes {x : Nat × Nat} (m : x ∈ s.elemBytes t c i) : ∃ j < (ctlElem t.ctl 6).bytes, ∃ y,
    (s.app t.app).lookup t.who (runAddr (ctlElem t.ctl 6) t.dst.toNat i + j) = some y ∧
      x.1 = y.addr (runAddr (ctlElem t.ctl 6) t.dst.toNat i + j) := by
  obtain ⟨j, hj, y, hy, e⟩ := mem_cellsFor m
  rw [cellsLE_bytes, List.length_map, List.length_range] at hj
  exact ⟨j, hj, y, hy, e⟩

theorem mem_dstScales {k : Nat} {x : Nat × Nat} (m : x ∈ s.dstScales t c k) : (ctlElem t.ctl 6).isMx = true ∧ ∃ i < k,
    x.1 = s.xferPhys t (blkScale (ctlElem t.ctl 6) (runAddr (ctlElem t.ctl 6) t.dst.toNat i)) := by
  rw [State.dstScales] at m
  split at m
  · next mx =>
    obtain ⟨i, hi, rfl⟩ := List.mem_map.mp m
    exact ⟨mx, i, mem_dstPlain (List.mem_filter.mp hi).1, rfl⟩
  · cases m

theorem dstByte_dstCells {k : Nat} (le : k ≤ n) {x : Nat × Nat} (m : x ∈ s.dstCells t c k) : s.dstByte t n x.1 := by
  rw [State.dstCells] at m
  split at m
  · rcases mem_putNibbles (List.mem_reverse.mp m) with m | ⟨i, hi, e⟩
    · cases m
    · exact ⟨i, (mem_dstPlain hi).trans_le le, .inr (.inl e)⟩
  · obtain ⟨i, hi, m⟩ := List.mem_flatMap.mp m
    exact ⟨i, (mem_dstPlain hi).trans_le le, .inl (mem_elemBytes m)⟩

theorem dstByte_dstScales {k : Nat} (le : k ≤ n) {x : Nat × Nat} (m : x ∈ s.dstScales t c k) : s.dstByte t n x.1 := by
  obtain ⟨mx, i, hi, e⟩ := mem_dstScales m
  exact ⟨i, hi.trans_le le, .inr (.inr (.inl ⟨mx, e⟩))⟩

/-- Whole segments change no byte but theirs. -/
theorem mget_putSlots {f : Fmt} {pats : List Nat} : ∀ {ks : List Nat} {s : State},
    (∀ k ∈ ks, ¬ (s.xferPhys t (runAddr f t.dst.toNat k) ≤ p ∧ p < s.xferPhys t (runAddr f t.dst.toNat k) + slotBytes f)) →
    mget unlistedByte (s.putSlots t f pats ks).mem p = mget unlistedByte s.mem p
  | [], _, _ => rfl
  | k :: ks, s, out => by
    rw [putSlots_cons, mget_putSlots fun k' hk' => by
      rw [(putSlot_writes 0 s t f pats k).xferPhys]
      exact out k' (List.mem_cons_of_mem _ hk')]
    exact (mget_putCells_cellsLE p _ _ _ _).trans (if_neg (out k (List.mem_cons_self ..)))

/-- Bytes that are no part of a destination are left as they are. -/
theorem mget_putDst {es : List XElem} {k : Nat} (le : k ≤ n) (out : ¬ s.dstByte t n p) :
    mget unlistedByte (s.putDst t c es k).1.mem p = mget unlistedByte s.mem p := by
  rw [putDst_state, State.spreadPoison_mem]
  refine (mget_putSlots fun i hi inside => out ?_).trans (mget_putCells_of_not_mem p _ _ fun x hx e => out ?_)
  · obtain ⟨hi, slot⟩ := List.mem_filter.mp hi
    obtain ⟨⟨enc, _⟩, _⟩ := by simpa only [Bool.and_eq_true] using slot
    exact ⟨i, (List.mem_range.mp hi).trans_le le, .inr (.inr (.inr ⟨enc, inside⟩))⟩
  · rw [← e]
    rcases List.mem_append.mp hx with m | m
    · exact dstByte_dstCells le m
    · exact dstByte_dstScales le m

/-! ### What they write of plain pages -/

/-- The elements below one, that one, and those above it. -/
theorem range_split {n i : Nat} (h : i < n) : ∃ rest, List.range n = List.range i ++ i :: rest ∧ ∀ j ∈ rest, i < j ∧ j < n := by
  refine ⟨(List.range (n - (i + 1))).map (i + 1 + ·), ?_, fun j hj => ?_⟩
  · have parts := List.range_add (n := i + 1) (m := n - (i + 1))
    rwa [Nat.add_sub_cancel' h, List.range_succ, List.append_assoc, List.singleton_append] at parts
  · obtain ⟨k, hk, rfl⟩ := List.mem_map.mp hj
    rw [List.mem_range] at hk
    omega

section
variable {k : Nat} {es : List XElem} (plain : ∀ j < k, s.dstEncoded t j = false)
include plain

theorem dstPlain_eq : s.dstPlain t k = List.range k :=
  List.filter_eq_self.mpr fun i hi => by rw [plain i (List.mem_range.mp hi)]; rfl

theorem dstSlots_eq : s.dstSlots t k = [] :=
  List.filter_eq_nil_iff.mpr fun i hi => by rw [plain i (List.mem_range.mp hi)]; exact Bool.false_ne_true

theorem putDst_mem : (s.putDst t c es k).1.mem = putCells s.mem (s.dstCells t c k ++ s.dstScales t c k) := by
  rw [putDst_state, State.spreadPoison_mem, dstSlots_eq plain]
  rfl

/-- A byte that no scale lies in is what the elements' cells make of it. -/
theorem mget_putDst_noScale (noScale : (ctlElem t.ctl 6).isMx = true → ∀ i < k,
      p ≠ s.xferPhys t (blkScale (ctlElem t.ctl 6) (runAddr (ctlElem t.ctl 6) t.dst.toNat i))) :
    mget unlistedByte (s.putDst t c es k).1.mem p = mget unlistedByte (putCells s.mem (s.dstCells t c k)) p := by
  rw [putDst_mem plain, putCells_append]
  refine mget_putCells_of_not_mem p _ _ fun x hx e => ?_
  obtain ⟨mx, i, hi, eq⟩ := mem_dstScales hx
  exact noScale mx i hi (e.symm.trans eq)

/-- A byte of an element that nothing later covers (R254). -/
theorem mget_putDst_byte {x : Xlat} (whole : (ctlElem t.ctl 6).bits ≠ 4) (hi : i < k) (hj : j < (ctlElem t.ctl 6).bytes)
    (hx : s.forStore ((s.app t.app).lookup t.who (runAddr (ctlElem t.ctl 6) t.dst.toNat i + j)) = .ok x)
    (fin : ∀ i' j' y, i < i' ∨ (i = i' ∧ j < j') → i' < k → j' < (ctlElem t.ctl 6).bytes →
      (s.app t.app).lookup t.who (runAddr (ctlElem t.ctl 6) t.dst.toNat i' + j') = some y →
      y.addr (runAddr (ctlElem t.ctl 6) t.dst.toNat i' + j') ≠ x.addr (runAddr (ctlElem t.ctl 6) t.dst.toNat i + j)) :
    mget unlistedByte (putCells s.mem (s.dstCells t c k)) (x.addr (runAddr (ctlElem t.ctl 6) t.dst.toNat i + j)) =
      BitVec.ofNat 8 (c.pats.getD i 0 / 256 ^ j) := by
  obtain ⟨rest, range, above⟩ := range_split hi
  have len : ((cellsLE 0 (ctlElem t.ctl 6).bytes (c.pats.getD i 0)).map Prod.snd).length = (ctlElem t.ctl 6).bytes := by
    rw [cellsLE_bytes, List.length_map, List.length_range]
  obtain ⟨before, after, cells, later⟩ := cellsFor_split (len.symm ▸ hj) hx
  have own : s.elemBytes t c i = _ := cells
  rw [State.dstCells, if_neg whole, dstPlain_eq plain, range, List.flatMap_append, List.flatMap_cons, own, List.append_assoc,
    List.cons_append, ← List.append_assoc, mget_putCells_last _ ?later]
  case later =>
    intro z hz
    rcases List.mem_append.mp hz with m | m
    · obtain ⟨j', lo, hi', y, hy, e⟩ := later z m
      exact e ▸ fin i j' y (.inr ⟨rfl, lo⟩) hi (len ▸ hi') hy
    · obtain ⟨i', hi', m⟩ := List.mem_flatMap.mp m
      obtain ⟨j', hj', y, hy, e⟩ := mem_elemBytes m
      exact e ▸ fin i' j' y (.inl (above i' hi').1) (above i' hi').2 hj' hy
  simp only [cellsLE_bytes, List.getElem_map, List.getElem_range]
  apply BitVec.eq_of_toNat_eq
  simp

/-- The scale of a block that no later block's lies over. -/
theorem mget_putDst_scale {b : Nat} (mx : (ctlElem t.ctl 6).isMx = true) (hb : 32 * b < k)
    (fin : ∀ b', b < b' → 32 * b' < k → s.xferPhys t (blkScale (ctlElem t.ctl 6) (runAddr (ctlElem t.ctl 6) t.dst.toNat (32 * b'))) ≠
      s.xferPhys t (blkScale (ctlElem t.ctl 6) (runAddr (ctlElem t.ctl 6) t.dst.toNat (32 * b)))) :
    mget unlistedByte (s.putDst t c es k).1.mem
        (s.xferPhys t (blkScale (ctlElem t.ctl 6) (runAddr (ctlElem t.ctl 6) t.dst.toNat (32 * b)))) =
      BitVec.ofNat 8 (c.scales.getD b 0) := by
  obtain ⟨rest, range, above⟩ := range_split hb
  have first : decide (32 * b % 32 = 0) = true := by simp
  have own : s.scaleCell t c (32 * b) =
      (s.xferPhys t (blkScale (ctlElem t.ctl 6) (runAddr (ctlElem t.ctl 6) t.dst.toNat (32 * b))), c.scales.getD b 0) := by
    rw [State.scaleCell, Nat.mul_div_cancel_left b (by decide)]
  rw [putDst_mem plain, State.dstScales, if_pos mx, dstPlain_eq plain, range, List.filter_append,
    List.filter_cons_of_pos (p := fun i => decide (i % 32 = 0)) first, List.map_append, List.map_cons, own, ← List.append_assoc, mget_putCells_last]
  intro z hz
  obtain ⟨i', hi', rfl⟩ := List.mem_map.mp hz
  obtain ⟨m, start⟩ := List.mem_filter.mp hi'
  obtain ⟨lo, hi⟩ := above i' m
  obtain ⟨b', rfl⟩ : 32 ∣ i' := Nat.dvd_of_mod_eq_zero (by simpa using start)
  exact fin b' (by omega) hi

end

/-! ### Elements of 4 bits -/

/-- What a byte is once the cells, newest first, are written. -/
def byteUnder (m : List Host.Cell) (cs : List (Nat × Nat)) (p : Nat) : Nat :=
  match cs.find? fun c => decide (c.1 = p) with
  | some c => c.2
  | none => (mget unlistedByte m p).toNat

theorem byteUnder_cons (m : List Host.Cell) (a b p : Nat) (cs : List (Nat × Nat)) :
    byteUnder m ((a, b) :: cs) p = if a = p then b else byteUnder m cs p := by
  rw [byteUnder, List.find?_cons]
  by_cases h : a = p
  · simp [h]
  · simp [h, byteUnder]

theorem mget_putCells_newest (m : List Host.Cell) (p : Nat) : ∀ cs : List (Nat × Nat),
    (mget unlistedByte (putCells m cs.reverse) p).toNat = byteUnder m cs p % 256
  | [] => (Nat.mod_eq_of_lt (mget unlistedByte m p).isLt).symm
  | (a, b) :: cs => by
    rw [List.reverse_cons, putCells_append, putCells, putCells, mget_mset, byteUnder_cons]
    by_cases h : p = a
    · rw [if_pos h, if_pos h.symm, BitVec.toNat_ofNat]
    · rw [if_neg h, if_neg (Ne.symm h), mget_putCells_newest m p cs]

/-- A nibble written, and the other one kept. -/
theorem nibble_cases (old v a b : Nat) : (if decide (a % 2 = 1) then old % 16 + v % 16 * 16 else old / 16 * 16 + v % 16) / 16 ^ (b % 2) % 16 =
    if a % 2 = b % 2 then v % 16 else old / 16 ^ (b % 2) % 16 := by
  rcases Nat.mod_two_eq_zero_or_one a with ha | ha <;> rcases Nat.mod_two_eq_zero_or_one b with hb | hb <;> simp [ha, hb] <;> omega

/-- A 4-bit element stands where no later one of the same half of its byte is written. -/
theorem nibbles_last (s : State) (t : Transfer) (c : Conv) {i : Nat} : ∀ {n : Nat}, i < n →
    (∀ i' < n, i < i' → i' % 2 = i % 2 → s.xferPhys t (runAddr (ctlElem t.ctl 6) t.dst.toNat i') ≠
      s.xferPhys t (runAddr (ctlElem t.ctl 6) t.dst.toNat i)) →
    byteUnder s.mem (s.nibbles t c (List.range n)) (s.xferPhys t (runAddr (ctlElem t.ctl 6) t.dst.toNat i)) / 16 ^ (i % 2) % 16 =
      c.pats.getD i 0 % 16
  | n + 1, lt, fin => by
    have step : s.nibbles t c (List.range (n + 1)) = s.putNibble (s.nibbles t c (List.range n))
        (s.xferPhys t (runAddr (ctlElem t.ctl 6) t.dst.toNat n)) (decide (n % 2 = 1)) (c.pats.getD n 0) := by
      rw [State.nibbles, List.range_succ, List.foldl_append]
      rfl
    rw [step, State.putNibble, byteUnder_cons]
    rcases Nat.lt_or_ge i n with lt' | ge
    · have before := nibbles_last s t c lt' fun i' hi' => fin i' (hi'.trans (Nat.lt_succ_self n))
      split
      · next same =>
        have other : n % 2 ≠ i % 2 := fun e => fin n (Nat.lt_succ_self n) lt' e same
        rw [nibble_cases, if_neg other, ← before, same]
        rfl
      · exact before
    · obtain rfl : i = n := by omega
      rw [if_pos rfl, nibble_cases, if_pos rfl]

theorem mget_putDst_nibble {k : Nat} (plain : ∀ j < k, s.dstEncoded t j = false) (small : (ctlElem t.ctl 6).bits = 4) (hi : i < k)
    (fin : ∀ i' < k, i < i' → i' % 2 = i % 2 → s.xferPhys t (runAddr (ctlElem t.ctl 6) t.dst.toNat i') ≠
      s.xferPhys t (runAddr (ctlElem t.ctl 6) t.dst.toNat i)) :
    (mget unlistedByte (putCells s.mem (s.dstCells t c k)) (s.xferPhys t (runAddr (ctlElem t.ctl 6) t.dst.toNat i))).toNat /
      16 ^ (i % 2) % 16 = c.pats.getD i 0 % 16 := by
  rw [State.dstCells, if_pos small, dstPlain_eq plain, mget_putCells_newest, ← nibbles_last s t c hi fin]
  rcases Nat.mod_two_eq_zero_or_one i with h | h <;> rw [h] <;> omega

end Sys2Proof.Machine
end

section
/-! SUPPORT. The end of a transfer to memory (R254, R257, R261): what its record says, and what memory holds then. -/

namespace Sys2Proof.Machine

variable {s u : State} {i j k n p : Nat} {t : Transfer} {es : List XElem} {flt : Option (Nat × Nat)}

/-! ### The ending in its parts -/

/-- The codes of XFERQ's elements. -/
def Transfer.codes (t : Transfer) (es : List XElem) : List (Nat × Flags × Bool) :=
  if t.op = 6 then es.map (quantise (ctlElem t.ctl 0) (ctlElem t.ctl 6) (RM.ofXrm t.xrm.toNat) (f32Val t.scale.toNat)) else []

/-- The first destination element that faults, and why. -/
def State.dstBad (s : State) (t : Transfer) (n : Nat) (es : List XElem) : Option (Nat × Nat) :=
  (List.range es.length).findSome? fun k => (s.dstFault t n k).map fun f => (f, k)

/-- The elements that are written. -/
def State.dstCount (s : State) (t : Transfer) (n : Nat) (es : List XElem) : Nat := ((s.dstBad t n es).map Prod.snd).getD es.length

/-- The fault that ends the transfer: one of its destination, or one of its source behind it. -/
def State.memFault (s : State) (t : Transfer) (n : Nat) (es : List XElem) (flt : Option (Nat × Nat)) : Option (Nat × Nat) :=
  match s.dstBad t n es with
  | some b => some b
  | none => flt

/-- The first element that poison fed. -/
def firstBad (es : List XElem) : Option Nat := ((List.zip (List.range es.length) es).find? fun x => x.2.poison).map Prod.fst

/-- The machine with the elements written. -/
def State.wrote (s : State) (t : Transfer) (n : Nat) (es : List XElem) : State :=
  (s.putDst t (t.made es) es (s.dstCount t n es)).1.dropWritten t (s.dstCount t n es)

/-- The end, the maximum of XFERQ apart. -/
def State.memEnd (s : State) (t : Transfer) (n : Nat) (es : List XElem) (flt : Option (Nat × Nat)) : Ending :=
  { fcode := ((s.memFault t n es flt).map Prod.fst).getD 0,
    done := (s.putDst t (t.made es) es (s.dstCount t n es)).2 * (ctlElem t.ctl 0).bits / 8,
    foff := match s.memFault t n es flt with
      | none => 0xFFFFFFFF
      | some f => f.2 * (ctlElem t.ctl 0).bits / 8,
    poff := match firstBad es with
      | none => 0xFFFFFFFF
      | some p => if t.op = 4 then p * (ctlElem t.ctl 0).bits / 8 else s.poisonOff t (ctlElem t.ctl 0) p,
    flags := (t.made es).flags, clipped := ((t.codes es).filter fun q => q.2.2).length,
    examined := if t.op = 6 then es.length else 0 }

/-- The maximum that XFERQ folds. -/
def State.memFold (s : State) (t : Transfer) (n : Nat) (es : List XElem) (flt : Option (Nat × Nat)) : Option Nat :=
  if t.op = 6 ∧ s.memFault t n es flt = none then foldMax (ctlElem t.ctl 0) es else none

/-- The machine before the record, and the end. -/
def State.memDone (s : State) (t : Transfer) (n : Nat) (es : List XElem) (flt : Option (Nat × Nat)) : State × Ending :=
  match s.memFold t n es flt with
  | none => (s.wrote t n es, s.memEnd t n es flt)
  | some m =>
    let f := (s.wrote t n es).foldWord t m
    (f.1, if f.2 = 0 then s.memEnd t n es flt else { s.memEnd t n es flt with fcode := f.2, done := t.len, foff := t.len })

theorem retireMem_eq (s : State) (t : Transfer) (n : Nat) (es : List XElem) (flt : Option (Nat × Nat)) :
    s.retireMem t n (es, flt) = (s.memDone t n es flt).1.finish t (s.memDone t n es flt).2 := by
  have conv : (if t.op = 6 then ({ pats := (t.codes es).map Prod.fst, flags := (t.codes es).foldl (fun f q => f.or q.2.1) {} } : Conv)
      else convert (ctlElem t.ctl 0) (ctlElem t.ctl 6) (RM.ofXrm t.xrm.toNat) es) = t.made es := by
    rw [Transfer.made]
    split
    · next h => rw [Transfer.codes, if_pos h]
    · rfl
  have end_ : s.retireMem t n (es, flt) = match s.memFold t n es flt with
      | none => (s.wrote t n es).finish t (s.memEnd t n es flt)
      | some m => ((s.wrote t n es).foldWord t m).1.finish t (if ((s.wrote t n es).foldWord t m).2 = 0 then s.memEnd t n es flt
          else { s.memEnd t n es flt with fcode := ((s.wrote t n es).foldWord t m).2, done := t.len, foff := t.len }) := by
    simp only [State.wrote, State.memEnd, ← conv]
    rfl
  rw [end_, State.memDone]
  cases s.memFold t n es flt <;> rfl

/-! ### Faults and poison (R194, R259) -/

theorem dstBad_none (ok : ∀ j < es.length, s.dstFault t n j = none) : s.dstBad t n es = none :=
  List.findSome?_eq_none_iff.mpr fun j hj => by rw [ok j (List.mem_range.mp hj)]; rfl

theorem dstBad_some {f : Nat} (hk : k < es.length) (before : ∀ j < k, s.dstFault t n j = none) (at_ : s.dstFault t n k = some f) :
    s.dstBad t n es = some (f, k) := by
  obtain ⟨rest, range, -⟩ := range_split hk
  have none : (List.range k).findSome? (fun k => (s.dstFault t n k).map fun f => (f, k)) = none :=
    List.findSome?_eq_none_iff.mpr fun j hj => by rw [before j (List.mem_range.mp hj)]; rfl
  rw [State.dstBad, range, List.findSome?_append, none, List.findSome?_cons, at_]
  rfl

theorem dstCount_le (s : State) (t : Transfer) (n : Nat) (es : List XElem) : s.dstCount t n es ≤ es.length := by
  rw [State.dstCount]
  cases bad : s.dstBad t n es with
  | none => exact Nat.le_refl _
  | some b =>
    obtain ⟨k, hk, eq⟩ := List.exists_of_findSome?_eq_some bad
    obtain ⟨f, -, rfl⟩ := Option.map_eq_some_iff.mp eq
    exact (List.mem_range.mp hk).le

theorem firstBad_none (good : ∀ x ∈ es, x.poison = false) : firstBad es = none := by
  rw [firstBad, List.find?_eq_none.mpr fun x hx => ?_]
  · rfl
  · rw [good x.2 (List.of_mem_zip hx).2]
    exact Bool.false_ne_true

theorem firstBad_some {x : XElem} (at_ : es[k]? = some x) (bad : x.poison = true)
    (before : ∀ j y, j < k → es[j]? = some y → y.poison = false) : firstBad es = some k := by
  obtain ⟨hk, eq⟩ := List.getElem?_eq_some_iff.mp at_
  have len : (List.zip (List.range es.length) es).length = es.length := by simp
  have found : (List.zip (List.range es.length) es).find? (fun x => x.2.poison) = some (k, x) := by
    refine List.find?_eq_some_iff_getElem.mpr ⟨bad, k, by rw [len]; exact hk, by simp [eq], fun j hj => ?_⟩
    have := before j es[j] hj (List.getElem?_eq_getElem (hj.trans hk))
    simp [this]
  rw [firstBad, found]
  rfl

/-! ### How it ends -/

theorem memEnd_flags (s : State) (t : Transfer) (n : Nat) (es : List XElem) (flt : Option (Nat × Nat)) :
    (s.memDone t n es flt).2.flags = (t.made es).flags ∧ (s.memDone t n es flt).2.examined = (if t.op = 6 then es.length else 0) ∧
    (t.op ≠ 6 → (s.memDone t n es flt).2.clipped = 0) ∧ (s.memDone t n es flt).2.poff = match firstBad es with
      | none => 0xFFFFFFFF
      | some p => if t.op = 4 then p * (ctlElem t.ctl 0).bits / 8 else s.poisonOff t (ctlElem t.ctl 0) p := by
  have clipped (h : t.op ≠ 6) : (s.memEnd t n es flt).clipped = 0 := by rw [State.memEnd, Transfer.codes, if_neg h]; rfl
  rw [State.memDone]
  split
  · exact ⟨rfl, rfl, clipped, rfl⟩
  dsimp only
  split <;> exact ⟨rfl, rfl, clipped, rfl⟩

/-- How many elements count as written on plain pages. -/
theorem putDst_count {c : Conv} (plain : ∀ j < k, s.dstEncoded t j = false) : (s.putDst t c es k).2 = k := by
  refine if_neg fun ⟨pos, enc⟩ => ?_
  rw [plain (k - 1) (by omega)] at enc
  exact Bool.false_ne_true enc

theorem memDone_fault {f : Nat × Nat} (fault : s.memFault t n es flt = some f) :
    s.memDone t n es flt = (s.wrote t n es, s.memEnd t n es flt) := by
  have none : s.memFold t n es flt = none := if_neg fun h => by rw [fault] at h; cases h.2
  rw [State.memDone, none]

theorem memDone_noFold (none : s.memFold t n es flt = none) : s.memDone t n es flt = (s.wrote t n es, s.memEnd t n es flt) := by
  rw [State.memDone, none]

/-- A fault of the destination (R259). -/
theorem memEnd_dstFault {f : Nat} (hk : k < es.length) (before : ∀ j < k, s.dstFault t n j = none) (at_ : s.dstFault t n k = some f) :
    (s.memDone t n es flt).2.fcode = f ∧ (s.memDone t n es flt).2.foff = k * (ctlElem t.ctl 0).bits / 8 ∧
    ((∀ j < k, s.dstEncoded t j = false) → (s.memDone t n es flt).2.done = k * (ctlElem t.ctl 0).bits / 8) := by
  have bad := dstBad_some hk before at_
  have fault : s.memFault t n es flt = some (f, k) := by rw [State.memFault, bad]
  have count : s.dstCount t n es = k := by rw [State.dstCount, bad]; rfl
  rw [memDone_fault fault]
  refine ⟨by rw [State.memEnd, fault]; rfl, by rw [State.memEnd, fault], fun plain => ?_⟩
  rw [State.memEnd, count, putDst_count plain]

section
variable (ok : ∀ j < es.length, s.dstFault t n j = none)
include ok

theorem dstCount_all : s.dstCount t n es = es.length := by rw [State.dstCount, dstBad_none ok]; rfl

theorem memFault_src : s.memFault t n es flt = flt := by rw [State.memFault, dstBad_none ok]

/-- A fault of the source alone. -/
theorem memEnd_srcFault {f : Nat × Nat} (fault : flt = some f) :
    (s.memDone t n es flt).2.fcode = f.1 ∧ (s.memDone t n es flt).2.foff = f.2 * (ctlElem t.ctl 0).bits / 8 := by
  have both := (memFault_src ok).trans fault
  rw [memDone_fault both]
  exact ⟨by rw [State.memEnd, both]; rfl, by rw [State.memEnd, both]⟩

theorem memEnd_clean (clean : flt = none) : (s.memEnd t n es flt).fcode = 0 ∧ (s.memEnd t n es flt).foff = 0xFFFFFFFF := by
  have both := (memFault_src ok).trans clean
  exact ⟨by rw [State.memEnd, both]; rfl, by rw [State.memEnd, both]⟩

/-- Where no maximum is folded. -/
theorem memFold_none (no : t.op ≠ 6 ∨ flt ≠ none ∨ foldMax (ctlElem t.ctl 0) es = none) : s.memFold t n es flt = none := by
  rw [State.memFold, memFault_src ok]
  split
  · next h => exact no.elim (absurd h.1) fun no => no.elim (absurd h.2) fun none => none
  · rfl

theorem memEnd_done (plain : ∀ j < es.length, s.dstEncoded t j = false) :
    (s.memEnd t n es flt).done = es.length * (ctlElem t.ctl 0).bits / 8 := by
  rw [State.memEnd, dstCount_all ok, putDst_count plain]

end

/-! ### The maximum word (R257) -/

theorem wrote_writes (s : State) (t : Transfer) (n : Nat) (es : List XElem) : s.Writes t.hart True (s.wrote t n es) :=
  (putDst_writes _ s _ _ _ _).trans (dropWritten_writes _ _ _)

theorem memDone_writes (s : State) (t : Transfer) (n : Nat) (es : List XElem) (flt : Option (Nat × Nat)) :
    s.Writes t.hart True (s.memDone t n es flt).1 := by
  rw [State.memDone]
  split
  · exact wrote_writes s t n es
  · exact (wrote_writes s t n es).trans (foldWord_writes _ _ _)

theorem wrote_mem (s : State) (t : Transfer) (n : Nat) (es : List XElem) :
    (s.wrote t n es).mem = (s.putDst t (t.made es) es (s.dstCount t n es)).1.mem := rfl

theorem mget_foldWord {m : Nat} (out : ¬ s.maxByte t p) : mget unlistedByte (s.foldWord t m).1.mem p = mget unlistedByte s.mem p := by
  rw [State.foldWord]
  split
  · rfl
  · rfl
  next x hx =>
  dsimp only
  split
  · rfl
  · refine (mget_putCells_cellsLE p _ _ _ _).trans (if_neg fun inside => out ?_)
    have place : s.xferPhys t t.maxw.toNat = x.addr t.maxw.toNat := by
      rw [State.xferPhys, forStore_some hx, Nat.mod_eq_of_lt t.maxw.isLt]
      rfl
    rw [State.maxByte, place]
    exact inside

/-- Bytes of memory that are no part of the destination nor of the maximum word. -/
theorem mget_memDone (out : t.op = 6 → ¬ s.maxByte t p) :
    mget unlistedByte (s.memDone t n es flt).1.mem p = mget unlistedByte (s.wrote t n es).mem p := by
  rw [State.memDone]
  split
  · rfl
  · next m fold =>
    have six : t.op = 6 := by
      rw [State.memFold] at fold
      split at fold
      · next h => exact h.1
      · cases fold
    refine mget_foldWord fun inside => out six ?_
    rwa [State.maxByte, (wrote_writes s t n es).xferPhys] at inside

theorem mget_wrote (le : es.length ≤ n) (out : ¬ s.dstByte t n p) :
    mget unlistedByte (s.wrote t n es).mem p = mget unlistedByte s.mem p :=
  mget_putDst ((dstCount_le s t n es).trans le) out

/-! ### The maximum word read -/

theorem readLE_congr {m m' : List Host.Cell} : ∀ {n pa : Nat}, (∀ i < n, mget unlistedByte m (pa + i) = mget unlistedByte m' (pa + i)) →
    readLE m pa n = readLE m' pa n
  | 0, _, _ => rfl
  | n + 1, pa, same => by
    have first : mget unlistedByte m pa = mget unlistedByte m' pa := same 0 (Nat.succ_pos n)
    have rest : readLE m (pa + 1) n = readLE m' (pa + 1) n := readLE_congr fun i hi => by
      rw [Nat.add_assoc, Nat.add_comm 1 i]
      exact same (i + 1) (Nat.succ_lt_succ hi)
    rw [readLE, readLE, first, rest]

theorem readLE_putCells (m : List Host.Cell) : ∀ (n pa v : Nat), readLE (putCells m (cellsLE pa n v)) pa n = v % 256 ^ n
  | 0, _, v => by rw [readLE, Nat.pow_zero, Nat.mod_one]
  | n + 1, pa, v => by
    have first : (mget unlistedByte (putCells m (cellsLE pa (n + 1) v)) pa).toNat = v % 256 := by
      rw [mget_putCells_cellsLE, if_pos (by omega), Nat.sub_self, Nat.pow_zero, Nat.div_one]
      rfl
    have rest := readLE_putCells (mset unlistedByte m pa (BitVec.ofNat 8 (v % 256))) n (pa + 1) (v / 256)
    rw [readLE, first, cellsLE, putCells, rest, Nat.pow_succ', Nat.mod_mul]

/-- The fold of the maximum word, by what a store to its page would meet. -/
theorem foldWord_link {m : Nat} (h : s.forStore (s.xferAt t t.maxw.toNat) = .error .link) : s.foldWord t m = (s, 0x10) := by
  rw [State.foldWord, h]

theorem foldWord_bad {m : Nat} {f : MemFault} (h : s.forStore (s.xferAt t t.maxw.toNat) = .error f) (other : f ≠ .link) :
    s.foldWord t m = (s, 5) := by
  rw [State.foldWord, h]
  cases f with
  | link => exact absurd rfl other
  | _ => rfl

theorem foldWord_ok {m : Nat} {x : Xlat} (h : s.forStore (s.xferAt t t.maxw.toNat) = .ok x) (plain : x.encoded = false) :
    (s.foldWord t m).2 = 0 ∧ (s.foldWord t m).1.mem =
      putCells s.mem (cellsLE (x.addr t.maxw.toNat) 4 (max m (readLE s.mem (x.addr t.maxw.toNat) 4))) := by
  rw [State.foldWord, h]
  dsimp only
  rw [plain, if_neg Bool.false_ne_true]
  exact ⟨rfl, rfl⟩

section
variable {m : Nat} (fold : s.memFold t n es flt = some m)
include fold

theorem memDone_link (h : s.forStore (s.xferAt t t.maxw.toNat) = .error .link) :
    (s.memDone t n es flt).2 = { s.memEnd t n es flt with fcode := 0x10, done := t.len, foff := t.len } := by
  have writes := wrote_writes s t n es
  have h' : (s.wrote t n es).forStore ((s.wrote t n es).xferAt t t.maxw.toNat) = .error .link := by
    rw [writes.toWorks.forStore, writes.xferAt, h]
  rw [State.memDone, fold]
  dsimp only
  rw [foldWord_link h']
  rfl

theorem memDone_lost {f : MemFault} (h : s.forStore (s.xferAt t t.maxw.toNat) = .error f) (other : f ≠ .link) :
    (s.memDone t n es flt).2 = { s.memEnd t n es flt with fcode := 5, done := t.len, foff := t.len } := by
  have writes := wrote_writes s t n es
  have h' : (s.wrote t n es).forStore ((s.wrote t n es).xferAt t t.maxw.toNat) = .error f := by
    rw [writes.toWorks.forStore, writes.xferAt, h]
  rw [State.memDone, fold]
  dsimp only
  rw [foldWord_bad h' other]
  rfl

theorem memDone_folds {x : Xlat} (h : s.forStore (s.xferAt t t.maxw.toNat) = .ok x) (plain : x.encoded = false) :
    (s.memDone t n es flt).2 = s.memEnd t n es flt ∧ (s.memDone t n es flt).1.mem =
      putCells (s.wrote t n es).mem (cellsLE (x.addr t.maxw.toNat) 4 (max m (readLE (s.wrote t n es).mem (x.addr t.maxw.toNat) 4))) := by
  have writes := wrote_writes s t n es
  have h' : (s.wrote t n es).forStore ((s.wrote t n es).xferAt t t.maxw.toNat) = .ok x := by
    rw [writes.toWorks.forStore, writes.xferAt, h]
  obtain ⟨good, mem⟩ := foldWord_ok (m := m) h' plain
  rw [State.memDone, fold]
  exact ⟨if_pos good, mem⟩

end

/-- The maximum word once XFERQ has ended (R257). -/
theorem readLE_maximum {m : Nat} {x : Xlat} {e : Ending} (fold : s.memFold t n es flt = some m) (le : es.length ≤ n)
    (h : s.forStore (s.xferAt t t.maxw.toNat) = .ok x) (plain : x.encoded = false)
    (apart : ∀ p, s.maxByte t p → ¬ s.dstByte t n p ∧ ¬ s.recByte t p) :
    readLE ((s.memDone t n es flt).1.finish t e).mem (x.addr t.maxw.toNat) 4 =
      max m (readLE s.mem (x.addr t.maxw.toNat) 4) % 2 ^ 32 := by
  have place : s.xferPhys t t.maxw.toNat = x.addr t.maxw.toNat := by
    rw [State.xferPhys, forStore_some h, Nat.mod_eq_of_lt t.maxw.isLt]
    rfl
  have inside {i : Nat} (hi : i < 4) : s.maxByte t (x.addr t.maxw.toNat + i) := by
    rw [State.maxByte, place]
    omega
  have told := readLE_congr (n := 4) (pa := x.addr t.maxw.toNat) fun i hi =>
    mget_finish (e := e) (memDone_writes s t n es flt) (apart _ (inside hi)).2
  have before := readLE_congr (n := 4) (pa := x.addr t.maxw.toNat) fun i hi => mget_wrote (s := s) (t := t) le (apart _ (inside hi)).1
  rw [told, (memDone_folds fold h plain).2, readLE_putCells, before, show 256 ^ 4 = 2 ^ 32 from rfl]

/-! ### The elements written (R254) -/

/-- What a transfer to plain pages has written, as the obligations say it. -/
theorem memDone_wrote {e : Ending} (ok : ∀ j < es.length, s.dstFault t n j = none)
    (plain : ∀ j < es.length, s.dstEncoded t j = false) : s.xferWrote ((s.memDone t n es flt).1.finish t e) t es := by
  have count := dstCount_all ok
  have rest {p : Nat} (clear : (t.op = 6 → ¬ s.maxByte t p) ∧ ¬ s.recByte t p) :
      mget unlistedByte ((s.memDone t n es flt).1.finish t e).mem p =
        mget unlistedByte (s.putDst t (t.made es) es es.length).1.mem p := by
    rw [mget_finish (memDone_writes s t n es flt) clear.2, mget_memDone clear.1, wrote_mem, count]
  rw [State.xferWrote]
  dsimp only
  refine ⟨fun whole k hk j hj x hx fin noScale clear => ?_, fun small k hk fin noScale clear => ?_, fun mx b hb fin clear => ?_⟩
  · rw [rest clear, mget_putDst_noScale plain noScale]
    exact mget_putDst_byte plain whole hk hj hx fin
  · rw [rest clear, mget_putDst_noScale plain noScale]
    exact mget_putDst_nibble plain small hk fin
  · rw [rest clear]
    exact mget_putDst_scale plain mx hb fin

end Sys2Proof.Machine
end

section
/-! SUPPORT. Transfers to registers (R120, R255, R256): what arrives, at once or in element groups, and how they retire. -/

namespace Sys2Proof.Machine

variable {s u : State} {i j k : Nat} {t : Transfer} {h : Hart}

/-! ### Registers alone change -/

/-- `u` is `s` but for registers of harts. -/
structure State.Fills (s u : State) : Prop where
  works : ∀ i, s.Works i False u
  frame : u = { s with hart := u.hart, others := u.others }

theorem fills_refl (s : State) : s.Fills s := ⟨fun i => .refl i False s, rfl⟩

theorem State.Fills.writes (a : s.Fills u) (i : Nat) : s.Writes i False u :=
  ⟨a.works i, by rw [a.frame], by rw [a.frame], by rw [a.frame]⟩

theorem updHart_fills (s : State) (i : Nat) (f : Hart → Hart) (hf : ∀ h, f h = { h with v := (f h).v }) : s.Fills (s.updHart i f) :=
  ⟨fun _ => mapHarts_v_works _ s _ f hf, rfl⟩

theorem bringIn_fills (s : State) (t : Transfer) (a : Arrival) : s.Fills (s.bringIn t a) := by
  rw [State.bringIn]
  split
  · exact fills_refl s
  · exact updHart_fills s _ _ fun _ => rfl

theorem markRaw_v (h : Hart) (raw : Bool) (w g : Nat) : h.markRaw raw w g = { h with v := (h.markRaw raw w g).v } := by
  rw [Hart.markRaw]
  split <;> rfl

/-- The fields of XFERV, one after another, fill registers alone. -/
theorem foldl_fields_v {α : Type} (f : Hart → α → Hart) (hf : ∀ h a, f h a = { h with v := (f h a).v }) : ∀ (l : List α) (h : Hart),
    l.foldl f h = { h with v := (l.foldl f h).v }
  | [], _ => rfl
  | a :: l, h => by
    rw [List.foldl_cons]
    refine (foldl_fields_v f hf l (f h a)).trans ?_
    exact congrArg (fun y : Hart => { y with v := (l.foldl f (f h a)).v }) (hf h a)

/-- Registers of a field of XFERV. -/
def Transfer.fieldRegs (t : Transfer) : Nat := if ctlFields t.ctl = 1 then ctlGroup t.ctl else 1

/-- The records that XFERV reads, in the order of the source. -/
def State.xfervReads (s : State) (t : Transfer) : List (Nat × List XElem) × Option (Nat × Nat) :=
  let nf := ctlFields t.ctl
  let total := t.len * 8 / (nf * (ctlElem t.ctl 0).bits)
  s.srcRecords t (ctlElem t.ctl 0) nf (t.draws (total * nf)) ((sortBy (fun a b => decide (a ≤ b))
    (distinct (t.recordsOf (t.grant * t.fieldRegs * 8 / (ctlElem t.ctl 6).bits) total) [])).filter fun r => decide (r < total))

/-- The vectors of XFERV's fields. -/
def State.xfervFields (s : State) (t : Transfer) : List (Vec × Flags) :=
  let nf := ctlFields t.ctl
  let total := t.len * 8 / (nf * (ctlElem t.ctl 0).bits)
  (List.range nf).map fun f => s.fieldVec t (fieldElems (s.xfervReads t).1 total f
      (t.recordsOf (t.grant * t.fieldRegs * 8 / (ctlElem t.ctl 6).bits) total))
    (((s.hartOf t.hart).map fun h => h.groupArr (t.reg + f * t.fieldRegs) t.fieldRegs).getD 0)
    (decide (nf = 1) && !t.xperm && (ctlFmt t.ctl 0).isSome && decide (ctlElem t.ctl 0 = ctlElem t.ctl 6) && !(ctlElem t.ctl 0).isMx)

/-- A field written to its registers. -/
def Hart.putField (t : Transfer) (h : Hart) (v : Nat × Vec × Flags) : Hart :=
  (h.writeGroup (t.reg + v.1 * t.fieldRegs) t.fieldRegs v.2.1).markRaw (ctlFmt t.ctl 6).isNone (t.reg + v.1 * t.fieldRegs) t.fieldRegs

/-- The fields written. -/
def Hart.putFields (t : Transfer) (vs : List (Vec × Flags)) (h : Hart) : Hart :=
  (List.zip (List.range (ctlFields t.ctl)) vs).foldl (Hart.putField t) h

theorem landXferv_state (s : State) (t : Transfer) : (s.landXferv t).1 = s.updHart t.hart (Hart.putFields t (s.xfervFields t)) := rfl

theorem putFields_v (t : Transfer) (vs : List (Vec × Flags)) (h : Hart) : h.putFields t vs = { h with v := (h.putFields t vs).v } :=
  foldl_fields_v (Hart.putField t) (fun _ _ => markRaw_v _ _ _ _) _ h

theorem landXferv_fills (s : State) (t : Transfer) : s.Fills (s.landXferv t).1 := by
  rw [landXferv_state]
  exact updHart_fills s _ _ (putFields_v t _)

/-- The target of XFERC with its registers. -/
def Hart.putRegs (t : Transfer) (h : Hart) : Hart :=
  { h with v := (List.zip (List.range t.regs.length) t.regs).foldl (fun m r => mset {} m (t.reg + r.1) r.2) h.v }

theorem landXferc_arrives (found : s.hartOf t.target = some h) (early : t.early = 0) (runs : h.ended = false) :
    s.landXferc t = (s.updHart t.target (Hart.putRegs t),
      { done := t.regs.length * t.grant, flags := { nv := t.regs.any VReg.nanScale } }) := by
  rw [State.landXferc, found]
  simp only [early, runs]
  rfl

theorem landXferc_gone (gone : t.early ≠ 0 ∨ s.hartOf t.target = none ∨ ∃ h, s.hartOf t.target = some h ∧ h.ended = true) :
    s.landXferc t = (s, { fcode := 0x12, foff := 0 }) := by
  have bad : (match s.hartOf t.target with
      | none => false
      | some h => decide (t.early = 0) && !h.ended) = false := by
    rcases gone with early | absent | ⟨h, found, ended⟩
    · cases s.hartOf t.target <;> simp [early]
    · rw [absent]
    · rw [found]
      simp [ended]
  exact if_neg fun c => Bool.false_ne_true (bad.symm.trans c)

theorem landXferc_fills (s : State) (t : Transfer) : s.Fills (s.landXferc t).1 := by
  by_cases gone : t.early ≠ 0 ∨ s.hartOf t.target = none ∨ ∃ h, s.hartOf t.target = some h ∧ h.ended = true
  · rw [landXferc_gone gone]
    exact fills_refl s
  · simp only [not_or, not_exists, not_and, Bool.not_eq_true, ne_eq, not_not] at gone
    obtain ⟨early, present, runs⟩ := gone
    obtain ⟨h, found⟩ := Option.ne_none_iff_exists'.mp present
    rw [landXferc_arrives found early (runs h found)]
    exact updHart_fills s _ _ fun _ => rfl

theorem landAll_fills (s : State) (t : Transfer) : s.Fills (s.landAll t).1 := by
  rw [State.landAll]
  split
  · exact bringIn_fills s t _
  · rw [State.land]
    split
    · exact landXferv_fills s t
    · exact landXferc_fills s t

/-! ### Events of a transfer (R120) -/

theorem toRegs_iff : t.toRegs = true ↔ t.op = 3 ∨ t.op = 5 := by simp [Transfer.toRegs]

section
variable (found : s.transfers.find? (fun u => decide (u.id = s.inp.n)) = some t)
include found

theorem exec_retire : exec .transferRetire s = .next (if s.inp.k = 1 then s.landNow t else if s.inp.k = 2 then s.arriveNow t else s.retireOne t) := by
  show execTransferRetire s = _
  rw [execTransferRetire, State.xferOf, found]

theorem exec_retire_land (one : s.inp.k = 1) : exec .transferRetire s = .next (s.landNow t) := by
  rw [exec_retire found, if_pos one]

theorem exec_retire_arrive (two : s.inp.k = 2) : exec .transferRetire s = .next (s.arriveNow t) := by
  rw [exec_retire found, if_neg (by omega), if_pos two]

theorem exec_retire_one (h1 : s.inp.k ≠ 1) (h2 : s.inp.k ≠ 2) : exec .transferRetire s = .next (s.retireOne t) := by
  rw [exec_retire found, if_neg h1, if_neg h2]

end

theorem exec_retire_none (none : ∀ t ∈ s.transfers, t.id ≠ s.inp.n) : exec .transferRetire s = .next s := by
  show execTransferRetire s = _
  have absent : s.transfers.find? (fun u => decide (u.id = s.inp.n)) = Option.none :=
    List.find?_eq_none.mpr fun t m => by simpa using none t m
  rw [execTransferRetire, State.xferOf, absent]

theorem landNow_idle (idle : (t.op ≠ 3 ∧ t.op ≠ 5) ∨ t.landed ≠ none) : s.landNow t = s := by
  refine if_neg fun ⟨regs, out⟩ => idle.elim (fun no => ?_) fun landed => landed out
  exact (toRegs_iff.mp regs).elim no.1 no.2

theorem arriveNow_idle (idle : (t.op ≠ 3 ∧ t.op ≠ 5) ∨ t.landed ≠ none) : s.arriveNow t = s := by
  refine if_neg fun ⟨regs, out⟩ => idle.elim (fun no => ?_) fun landed => landed out
  exact (toRegs_iff.mp regs).elim no.1 no.2

/-- The last element group has arrived, and the transfer remembers how it will end. -/
def State.landedWith (s : State) (t : Transfer) (e : Ending) (u : State) : Prop :=
  u = { s with hart := u.hart, others := u.others,
               transfers := s.transfers.map fun x => if x.id = t.id then { x with landed := some e } else x }

theorem landNow_eq (regs : t.op = 3 ∨ t.op = 5) (none : t.landed = none) : s.landNow t = { (s.landAll t).1 with
    transfers := s.transfers.map fun x => if x.id = t.id then { x with landed := some (s.landAll t).2 } else x } := by
  have same : (s.landAll t).1.transfers = s.transfers := by rw [(landAll_fills s t).frame]
  rw [← same]
  exact if_pos ⟨toRegs_iff.mpr regs, none⟩

theorem landNow_landed (regs : t.op = 3 ∨ t.op = 5) (none : t.landed = none) : s.landedWith t (s.landAll t).2 (s.landNow t) := by
  rw [State.landedWith, landNow_eq regs none]
  exact congrArg (fun y : State => { y with
    transfers := s.transfers.map fun x : Transfer => if x.id = t.id then { x with landed := some (s.landAll t).2 } else x }) (landAll_fills s t).frame

/-! ### Element groups -/

/-- Registers written one after another from w on, each from what it holds. -/
theorem mget_fill (w : Nat) (f : Nat → VReg → VReg) (v : List (Nat × VReg)) (n r : Nat) :
    mget {} ((List.range n).foldl (fun m j => mset {} m (w + j) (f j (mget {} m (w + j)))) v) r =
      if w ≤ r ∧ r < w + n then f (r - w) (mget {} v r) else mget {} v r := by
  induction n with
  | zero => rw [if_neg (by omega)]; rfl
  | succ n ih =>
    rw [List.range_succ, List.foldl_append, List.foldl_cons, List.foldl_nil, mget_mset]
    by_cases own : r = w + n
    · subst own
      rw [if_pos rfl, if_pos (by omega), ih, if_neg (by omega), Nat.add_sub_cancel_left]
    · rw [if_neg own, ih]
      by_cases inside : w ≤ r ∧ r < w + n
      · rw [if_pos inside, if_pos (by omega)]
      · rw [if_neg inside, if_neg (by omega)]

theorem foldl_zip_range {α β : Type} (f : β → Nat → α → β) (d : α) : ∀ (l : List α) (b : β),
    (List.zip (List.range l.length) l).foldl (fun b x => f b x.1 x.2) b = (List.range l.length).foldl (fun b j => f b j (l.getD j d)) b := by
  intro l b
  have pairs : List.zip (List.range l.length) l = (List.range l.length).map fun j => (j, l.getD j d) := by
    apply List.ext_getElem
    · simp
    · intro j h1 h2
      simp only [List.length_zip, List.length_range, Nat.min_self] at h1
      simp [h1]
  rw [pairs, List.foldl_map]

/-- The registers of a hart that element groups fill. -/
def Hart.filled (h : Hart) (w grant : Nat) (regs : List VReg) (upTo : Nat → Nat) : List (Nat × VReg) :=
  (List.zip (List.range regs.length) regs).foldl (fun m x => mset {} m (w + x.1) ((mget {} m (w + x.1)).upTo x.2 grant (upTo x.1))) h.v

theorem mget_filled (h : Hart) (w grant : Nat) (regs : List VReg) (upTo : Nat → Nat) (r : Nat) :
    mget {} (h.filled w grant regs upTo) r =
      if w ≤ r ∧ r < w + regs.length then (h.vreg r).upTo (regs.getD (r - w) {}) grant (upTo (r - w)) else h.vreg r := by
  rw [Hart.filled, foldl_zip_range (fun m j q => mset ({} : VReg) m (w + j) ((mget ({} : VReg) m (w + j)).upTo q grant (upTo j)))
    ({} : VReg)]
  exact mget_fill w (fun j q => q.upTo (regs.getD j {}) grant (upTo j)) h.v regs.length r

theorem bringIn_hartOf {a : Arrival} {f : Nat × Nat × Nat} (fills : t.fills = some f) (found : s.hartOf f.1 = some h) :
    (s.bringIn t a).hartOf f.1 = some { h with v := h.filled f.2.1 t.grant a.regs fun j => a.got - t.fieldOff j } := by
  rw [State.bringIn, fills]
  exact hartOf_updHart_same (fun h => { h with v := h.filled f.2.1 t.grant a.regs fun j => a.got - t.fieldOff j })
    (fun _ => ⟨rfl, rfl⟩) found

/-- The next element groups of an arrival. -/
def Arrival.more (a : Arrival) (tick : Nat) : Arrival := { a with got := a.got + 64 * (1 + Config.moreGroups tick) }

theorem arriveNow_eq {a : Arrival} (regs : t.op = 3 ∨ t.op = 5) (out : t.landed = none) 
    (next : t.came = some a ∨ (t.came = none ∧ s.arrival t = some a)) :
    s.arriveNow t = { s.bringIn t (a.more s.tick) with
      transfers := s.transfers.map fun x => if x.id = t.id then { x with came := some (a.more s.tick) } else x } := by
  have same : (s.bringIn t (a.more s.tick)).transfers = s.transfers := by rw [(bringIn_fills s t _).frame]
  rw [← same]
  refine (if_pos ⟨toRegs_iff.mpr regs, out⟩).trans ?_
  rcases next with came | ⟨came, begins⟩
  · rw [came]
    rfl
  · rw [came, begins]
    rfl

/-! ### Retirement -/

theorem retireOne_regs (regs : t.op = 3 ∨ t.op = 5) (open_ : s.parks t (t.len * 8 / (ctlElem t.ctl 0).bits) = false) :
    s.retireOne t = s.retireRegs t := by
  rw [State.retireOne, open_, if_neg Bool.false_ne_true]
  rcases regs with h | h <;> rw [h] <;> rfl

theorem retireRegs_all (out : t.landed = none) : s.retireRegs t = (s.landAll t).1.finish t (s.landAll t).2 := by
  rw [State.retireRegs, out]

end Sys2Proof.Machine
end

section
/-! SUPPORT. One field of XFERV whose elements all read (R255): the records in order, and the vector that the field becomes. -/

namespace Sys2Proof.Machine

variable {s u : State} {t : Transfer} {h : Hart} {es : List XElem} {n : Nat}

/-! ### Lists in order -/

theorem sortBy_of_pairwise : ∀ {l : List Nat}, l.Pairwise (· ≤ ·) → sortBy (fun a b => decide (a ≤ b)) l = l
  | [], _ => rfl
  | [_], _ => rfl
  | x :: y :: l, sorted => by
    obtain ⟨head, tail⟩ := List.pairwise_cons.mp sorted
    rw [sortBy, sortBy_of_pairwise tail, insertBy, if_pos (decide_eq_true (head y (List.mem_cons_self ..)))]

theorem distinct_of_nodup : ∀ {l seen : List Nat}, (seen ++ l).Nodup → distinct l seen = seen ++ l
  | [], seen, _ => (List.append_nil seen).symm
  | x :: l, seen, nodup => by
    have new : seen.contains x = false := by
      have apart := (List.nodup_append.mp nodup).2.2
      simpa using fun m => apart x m x (List.mem_cons_self ..) rfl
    have nodup' : (seen ++ [x] ++ l).Nodup := by rwa [List.append_assoc, List.singleton_append]
    rw [distinct, new, if_neg Bool.false_ne_true, distinct_of_nodup nodup', List.append_assoc, List.singleton_append]

/-- The records of a transfer without a permutation, each once. -/
theorem records_range {cap total : Nat} : ((sortBy (fun a b => decide (a ≤ b)) (distinct (List.range (min total cap)) [])).filter
    fun r => decide (r < total)) = List.range (min total cap) := by
  rw [distinct_of_nodup (by rw [List.nil_append]; exact List.nodup_range), List.nil_append,
    sortBy_of_pairwise (List.pairwise_lt_range.imp Nat.le_of_lt)]
  refine List.filter_eq_self.mpr fun r hr => decide_eq_true ?_
  have := List.mem_range.mp hr
  omega

/-! ### Records read -/

/-- Records of one field, each of which reads. -/
theorem srcRecords_ok {f : Fmt} {us : List Nat} : ∀ {rs : List Nat}, (∀ r ∈ rs, s.srcElem t f r (us.getD r 0) = .ok (es.getD r {})) →
    s.srcRecords t f 1 us rs = (rs.map fun r => (r, [es.getD r {}]), none)
  | [], _ => rfl
  | r :: rs, ok => by
    have one : s.srcElems t f ((List.range 1).map fun k => (r * 1 + k, us.getD (r * 1 + k) 0)) = ([es.getD r {}], none) := by
      show s.srcElems t f [(r * 1 + 0, us.getD (r * 1 + 0) 0)] = _
      rw [State.srcElems, Nat.mul_one, Nat.add_zero, ok r (List.mem_cons_self ..)]
      rfl
    rw [State.srcRecords, one]
    dsimp only
    rw [srcRecords_ok fun q hq => ok q (List.mem_cons_of_mem _ hq)]
    rfl

theorem mget_map_self {α : Type} (d : α) (g : Nat → α) {r : Nat} : ∀ {rs : List Nat}, r ∈ rs →
    mget d (rs.map fun r => (r, g r)) r = g r
  | q :: rs, m => by
    rw [List.map_cons, mget]
    split
    · next e => rw [e]
    · next ne => exact mget_map_self d g ((List.mem_cons.mp m).resolve_left fun e => ne e.symm)

/-- What one field receives where every record reads. -/
theorem fieldElems_ok {total : Nat} (le : es.length ≤ total) :
    fieldElems ((List.range es.length).map fun r => (r, [es.getD r {}])) total 0 (List.range es.length) = es.map some := by
  have got : (List.range es.length).map (fun r => if total ≤ r then some {} else
      (mget [] ((List.range es.length).map fun r => (r, [es.getD r {}])) r)[0]?) = es.map some := by
    apply List.ext_getElem
    · simp
    · intro r h1 h2
      have hr : r < es.length := by simpa using h2
      rw [List.getElem_map, List.getElem_range, if_neg (by omega), mget_map_self [] _ (List.mem_range.mpr hr)]
      simp [hr]
  rw [fieldElems, got]
  have stays : (es.map some).reverse.dropWhile Option.isNone = (es.map some).reverse := by
    cases e : (es.map some).reverse with
    | nil => rfl
    | cons x l =>
      obtain ⟨y, -, rfl⟩ : ∃ y ∈ es, some y = x := by
        have m : x ∈ (es.map some).reverse := e ▸ List.mem_cons_self ..
        simpa using m
      rfl
  rw [stays, List.reverse_reverse]

/-! ### The vector of a field -/

theorem encodeAs_elems {e : Enc} {f : Fmt} {els : List Nat} {v : Vec} (enc : encodeAs e f els = some v) : v.fmt = f ∧ v.elems = els := by
  have keep {w : Vec} (hw : w.fmt = f ∧ w.elems = els) (h : (if w.fit.enc = e then some w else none) = some v) :
      v.fmt = f ∧ v.elems = els := by
    split at h
    · exact Option.some.inj h ▸ hw
    · cases h
  cases e with
  | plain => exact Option.some.inj enc ▸ ⟨rfl, rfl⟩
  | runs => exact keep ⟨rfl, rfl⟩ enc
  | dict =>
    cases dict : dictVec f els with
    | none => simp [encodeAs, dict] at enc
    | some w =>
      simp only [encodeAs, dict] at enc
      refine keep ?_ enc
      rw [dictVec] at dict
      dsimp only at dict
      split at dict
      · cases dict
      · exact Option.some.inj dict ▸ ⟨rfl, rfl⟩
  | delta =>
    cases delta : deltaVec f els with
    | none => simp [encodeAs, delta] at enc
    | some w =>
      simp only [encodeAs, delta] at enc
      refine keep ?_ enc
      have width {wid : Nat} (h : some (deltaVecAt f els wid) = some w) : w.fmt = f ∧ w.elems = els := Option.some.inj h ▸ ⟨rfl, rfl⟩
      rw [deltaVec] at delta
      split at delta
      · cases delta
      split at delta
      · exact width delta
      split at delta
      · exact width delta
      split at delta
      · exact width delta
      · cases delta

theorem joinSegs_elems (ep : Nat) (f : Fmt) (encs : List Enc) (els : List Nat) :
    (joinSegs ep f encs els).fmt = f ∧ (joinSegs ep f encs els).elems = els := by
  rw [joinSegs]
  cases enc : encodeAs (joinEnc ep encs) f els with
  | none => exact ⟨rfl, rfl⟩
  | some v => exact encodeAs_elems enc

theorem mxSource_length (f : Fmt) (act : List Bool) (vs : List Val) : (mxSource f act vs).length = vs.length := by
  rw [mxSource]
  split
  · simp
  · rfl

theorem convert_length (sf df : Fmt) (rm : RM) (es : List XElem) : (convert sf df rm es).pats.length = es.length := by
  rw [convert]
  split
  · simp
  · simp [mxSource_length]

theorem zeroGroups_good (bits : Nat) (good : ∀ x ∈ es, x.poison = false) (pats : List Nat) : zeroGroups bits es pats = pats := by
  have none : (List.zip (List.range es.length) es).filter (fun x => x.2.poison) = [] :=
    List.filter_eq_nil_iff.mpr fun x hx => by
      rw [good x.2 (List.of_mem_zip hx).2]
      exact Bool.false_ne_true
  rw [zeroGroups, none]
  apply List.ext_getElem
  · simp
  · intro i h1 h2
    simp

/-- A field that every element reaches, none of them fed by poison. -/
theorem fieldVec_ok (s : State) (t : Transfer) (old : Nat) (joins : Bool) (good : ∀ x ∈ es, x.poison = false) :
    (s.fieldVec t (es.map some) old joins).1.fmt = ctlElem t.ctl 6 ∧ (s.fieldVec t (es.map some) old joins).1.elems =
      (convert (ctlElem t.ctl 0) (ctlElem t.ctl 6) (RM.ofXrm t.xrm.toNat) es).pats := by
  have back : ((es.map some).map fun x => x.getD {}) = es := by simp [Function.comp_def]
  have pats : ((List.zip (List.range (es.map some).length) (List.zip (es.map some)
      (convert (ctlElem t.ctl 0) (ctlElem t.ctl 6) (RM.ofXrm t.xrm.toNat) es).pats)).map fun y =>
        if y.2.1.isSome then y.2.2 else bitsAt old (y.1 * (ctlElem t.ctl 6).bits) (ctlElem t.ctl 6).bits) =
      (convert (ctlElem t.ctl 0) (ctlElem t.ctl 6) (RM.ofXrm t.xrm.toNat) es).pats := by
    have len := convert_length (ctlElem t.ctl 0) (ctlElem t.ctl 6) (RM.ofXrm t.xrm.toNat) es
    apply List.ext_getElem
    · simp [len]
    · intro i h1 h2
      simp
  rw [State.fieldVec]
  simp only [back, zeroGroups_good _ good, pats]
  split
  · exact joinSegs_elems _ _ _ _
  · exact ⟨rfl, rfl⟩

/-! ### The whole of it -/

/-- XFERV's end from what it has read and its fields. -/
theorem landXferv_end (s : State) (t : Transfer) : (s.landXferv t).2 = {
    fcode := ((s.xfervReads t).2.map Prod.fst).getD 0,
    done := ((s.xfervReads t).1.map fun x => x.2.length).sum * (ctlElem t.ctl 0).bits / 8,
    foff := match (s.xfervReads t).2 with
      | none => 0xFFFFFFFF
      | some f => f.2 * (ctlElem t.ctl 0).bits / 8,
    poff := match ((s.xfervReads t).1.flatMap fun x => (List.zip (List.range (ctlFields t.ctl)) x.2).map fun y =>
        (x.1 * ctlFields t.ctl + y.1, y.2)).find? fun x => x.2.poison with
      | none => 0xFFFFFFFF
      | some p => s.poisonOff t (ctlElem t.ctl 0) p.1,
    flags := (s.xfervFields t).foldl (fun f v => f.or v.2) {} } := rfl

section
variable (one : ctlFields t.ctl = 1) (inOrder : t.xperm = false) (len : es.length = min (t.len * 8 / (ctlElem t.ctl 0).bits)
    (t.grant * ctlGroup t.ctl * 8 / (ctlElem t.ctl 6).bits))
  (reads : ∀ k < es.length, s.srcElem t (ctlElem t.ctl 0) k ((t.draws (t.len * 8 / (ctlElem t.ctl 0).bits)).getD k 0) = .ok (es.getD k {}))
include one inOrder len

theorem recordsOf_eq : t.recordsOf (t.grant * t.fieldRegs * 8 / (ctlElem t.ctl 6).bits)
    (t.len * 8 / (ctlFields t.ctl * (ctlElem t.ctl 0).bits)) = List.range es.length := by
  rw [Transfer.recordsOf, inOrder, if_neg Bool.false_ne_true, Transfer.fieldRegs, if_pos one, one, Nat.one_mul, len]

include reads

theorem xfervReads_ok : s.xfervReads t = ((List.range es.length).map fun r => (r, [es.getD r {}]), none) := by
  have order := recordsOf_eq one inOrder len
  rw [State.xfervReads, order, one, Nat.one_mul, Nat.mul_one, len, records_range, ← len]
  exact srcRecords_ok fun r hr => reads r (List.mem_range.mp hr)

/-- Where XFERV of one field reads all its elements, it fills its registers with them converted, and ends well. -/
theorem landXferv_ok (typed : (ctlFmt t.ctl 6).isSome = true) (good : ∀ x ∈ es, x.poison = false) (found : s.hartOf t.hart = some h) :
    ∃ v : Vec, v.fmt = ctlElem t.ctl 6 ∧ v.elems = (convert (ctlElem t.ctl 0) (ctlElem t.ctl 6) (RM.ofXrm t.xrm.toNat) es).pats ∧
      (s.landXferv t).2.fcode = 0 ∧ (s.landXferv t).2.done = es.length * (ctlElem t.ctl 0).bits / 8 ∧
      (s.landXferv t).2.foff = 0xFFFFFFFF ∧ (s.landXferv t).2.poff = 0xFFFFFFFF ∧
      ∃ q, (s.landXferv t).1.hartOf t.hart = some q ∧ q.v = (h.writeGroup t.reg (ctlGroup t.ctl) v).v := by
  have read := xfervReads_ok one inOrder len reads
  have order := recordsOf_eq one inOrder len
  have le : es.length ≤ t.len * 8 / (ctlFields t.ctl * (ctlElem t.ctl 0).bits) := by rw [one, Nat.one_mul, len]; exact Nat.min_le_left _ _
  have single (f : Nat → Vec × Flags) : (List.range (ctlFields t.ctl)).map f = [f 0] := by rw [one]; rfl
  obtain ⟨old, joins, field⟩ : ∃ old joins, s.xfervFields t = [s.fieldVec t (es.map some) old joins] := by
    rw [State.xfervFields, read, order, single]
    dsimp only
    rw [fieldElems_ok le]
    exact ⟨_, _, rfl⟩
  obtain ⟨fmt, elems⟩ := fieldVec_ok s t old joins good
  have clean : (((List.range es.length).map fun r => (r, [es.getD r {}])).flatMap fun x =>
      (List.zip (List.range (ctlFields t.ctl)) x.2).map fun y => (x.1 * ctlFields t.ctl + y.1, y.2)).find? (fun x => x.2.poison) = none := by
    refine List.find?_eq_none.mpr fun x hx => ?_
    obtain ⟨_, hrec, hel⟩ := List.mem_flatMap.mp hx
    obtain ⟨r, hr, rfl⟩ := List.mem_map.mp hrec
    obtain ⟨y, hy, rfl⟩ := List.mem_map.mp hel
    have own := List.mem_singleton.mp (List.of_mem_zip hy).2
    have there : es.getD r {} ∈ es := by
      rw [List.getD_eq_getElem es {} (List.mem_range.mp hr)]
      exact List.getElem_mem _
    rw [show y.2 = es.getD r {} from own, good _ there]
    exact Bool.false_ne_true
  refine ⟨_, fmt, elems, ?_, ?_, ?_, ?_, ?_⟩
  · rw [landXferv_end, read]
    rfl
  · rw [landXferv_end, read]
    simp [Function.comp_def]
  · rw [landXferv_end, read]
  · rw [landXferv_end, read, clean]
  · refine ⟨h.putFields t (s.xfervFields t), ?_, ?_⟩
    · rw [landXferv_state]
      exact hartOf_updHart_same _ (fun h => by rw [putFields_v]; exact ⟨rfl, rfl⟩) found
    · have raw : (ctlFmt t.ctl 6).isNone = false := by rw [← Option.not_isSome, typed]; rfl
      rw [field, Hart.putFields, one]
      show (h.putField t (0, _)).v = _
      rw [Hart.putField, raw, Hart.markRaw, if_neg Bool.false_ne_true, Nat.zero_mul, Nat.add_zero, Transfer.fieldRegs, if_pos one]

end

end Sys2Proof.Machine
end

section
/-! SUPPORT. XTIER (R187, R258): what a move of regions leaves of the machine, a range that already lies in its tier, and one page or
range that moves. -/

namespace Sys2Proof.Machine

variable {s u : State} {i k n : Nat} {t : Transfer} {regs : Prop}

/-! ### What a move leaves of the machine -/

/-- Where no hart changes. -/
theorem works_of_harts (frame : u = s.reworked u) (hart : u.hart = s.hart) (others : u.others = s.others) : s.Works i regs u :=
  ⟨⟨id, ⟨hart, others.trans (List.map_id _).symm⟩, fun h => ⟨.refl i h, fun _ => rfl⟩⟩, frame⟩

theorem setApp_works (s : State) (k : Nat) (a : App) : s.Works i regs (s.setApp k a) := works_of_harts rfl rfl rfl

theorem leaving_works (s : State) (l : List OldFrame) : s.Works i regs { s with leaving := l } := works_of_harts rfl rfl rfl

theorem tick_works (s : State) (n : Nat) : s.Works i regs { s with tick := n } := works_of_harts rfl rfl rfl

theorem scrub_works (s : State) (pa len : Nat) : s.Works i regs (s.scrub pa len) :=
  ⟨⟨fun h => h.cutLinks pa len true, ⟨rfl, rfl⟩, fun h => ⟨cutLinks_near i h _ _ _, fun _ => cutLinks_v h _ _ _⟩⟩, rfl⟩

theorem breakFrame_works (s : State) (pa len : Nat) : s.Works i regs (s.breakFrame pa len) :=
  ⟨⟨fun h => h.breakFrame pa len, ⟨rfl, rfl⟩, fun h => ⟨breakLinks_near i h _ _, fun _ => breakLinks_v h _ _⟩⟩, rfl⟩

theorem copyFrames_works (s : State) (src dst len : Nat) : s.Works i regs (s.copyFrames src dst len) := works_of_harts rfl rfl rfl

theorem release_works (s : State) (r : OldFrame) : s.Works i regs (s.release r) := by
  rw [State.release]
  split
  · exact leaving_works s _
  · exact scrub_works s _ _

theorem reapOne_works (s : State) (r : OldFrame) : s.Works i regs (s.reapOne r) := by
  rw [State.reapOne]
  split
  · exact .refl i regs s
  · exact (scrub_works s _ _).trans (leaving_works _ _)

theorem foldl_works {α : Type} {f : State → α → State} (hf : ∀ (s : State) (a : α), s.Works i regs (f s a)) : ∀ (l : List α) (s : State),
    s.Works i regs (l.foldl f s)
  | [], s => .refl i regs s
  | a :: l, s => (hf s a).trans (foldl_works hf l (f s a))

theorem takeFrames_works {lo len size align pa : Nat} (h : s.takeFrames lo len size align = some (pa, u)) : s.Works i regs u := by
  rw [State.takeFrames] at h
  split at h
  · cases h
  · cases h
    exact (foldl_works reapOne_works _ s).trans ((scrub_works _ _ _).trans (tick_works _ _))

theorem allocTier_works {code size align pa : Nat} {kind : MemKind} (h : s.allocTier code size align = some (pa, kind, u)) :
    s.Works i regs u := by
  rw [State.allocTier] at h
  split at h
  · cases h
  split at h
  · next r taken =>
    cases h
    exact takeFrames_works taken
  split at h
  · obtain ⟨r, taken, e⟩ := Option.map_eq_some_iff.mp h
    cases e
    exact takeFrames_works taken
  all_goals cases h

theorem moveRegion_works {app code : Nat} {m : Mapping} (h : s.moveRegion app m code = some u) : s.Works i regs u := by
  rw [State.moveRegion] at h
  split at h
  · cases h
  next pa kind v alloc =>
  split at h
  · cases h
  · cases h
    exact (allocTier_works alloc).trans ((copyFrames_works _ _ _ _).trans ((breakFrame_works _ _ _).trans
      ((setApp_works _ _ _).trans (release_works _ _))))

theorem tierWalk_works (t : Transfer) (code hi : Nat) : ∀ (n va : Nat) (s : State), s.Works i regs (s.tierWalk t code hi n va).1
  | 0, _, s => .refl i regs s
  | n + 1, va, s => by
    rw [State.tierWalk]
    split
    · exact .refl i regs s
    split
    · exact .refl i regs s
    dsimp only
    split
    · exact tierWalk_works t code hi n _ s
    split
    · exact .refl i regs s
    split
    · exact .refl i regs s
    split
    · exact .refl i regs s
    next moved => exact (setApp_works s _ _).trans ((moveRegion_works moved).trans (tierWalk_works t code hi n _ _))

/-! ### The ending -/

/-- The machine before XTIER's record, and its end. -/
def State.tierDone (s : State) (t : Transfer) : State × Ending :=
  let lo := t.src.toNat
  if t.len = 0 then (s, {})
  else match partRange (s.app t.app).maps lo (lo + t.len) with
  | some m => (s, { fcode := 0x13, foff := max m.va lo - lo })
  | none =>
    let r := s.tierWalk t (s.tierCode (t.ctl.toNat % 256)) (lo + t.len) (t.len / 4096) lo
    let p := r.2.2.getD 0xFFFFFFFF
    (r.1, match r.2.1 with
      | none => { done := t.len, poff := p }
      | some e => { fcode := e.1, done := e.2, foff := e.2, poff := p })

theorem retireXtier_eq (s : State) (t : Transfer) : s.retireXtier t = (s.tierDone t).1.finish t (s.tierDone t).2 := by
  rw [State.retireXtier, State.tierDone]
  split
  · rfl
  cases partRange (s.app t.app).maps t.src.toNat (t.src.toNat + t.len) with
  | some m => rfl
  | none =>
    dsimp only
    cases (s.tierWalk t (s.tierCode (t.ctl.toNat % 256)) (t.src.toNat + t.len) (t.len / 4096) t.src.toNat).2.1 <;> rfl

theorem tierDone_works (s : State) (t : Transfer) : s.Works i regs (s.tierDone t).1 := by
  rw [State.tierDone]
  split
  · exact .refl i regs s
  split
  · exact .refl i regs s
  · exact tierWalk_works t _ _ _ _ s

theorem tierDone_empty (none : t.len = 0) : s.tierDone t = (s, {}) := if_pos none

theorem tierDone_part {m : Mapping} (len : t.len ≠ 0) (part : partRange (s.app t.app).maps t.src.toNat (t.src.toNat + t.len) = some m) :
    s.tierDone t = (s, { fcode := 0x13, foff := max m.va t.src.toNat - t.src.toNat }) := by
  rw [State.tierDone, if_neg len, part]

section
variable (len : t.len ≠ 0) (whole : partRange (s.app t.app).maps t.src.toNat (t.src.toNat + t.len) = none)
include len whole

theorem tierDone_walk {r : State × Option (Nat × Nat) × Option Nat}
    (walk : s.tierWalk t (s.tierCode (t.ctl.toNat % 256)) (t.src.toNat + t.len) (t.len / 4096) t.src.toNat = r) :
    s.tierDone t = (r.1, match r.2.1 with
      | none => { done := t.len, poff := r.2.2.getD 0xFFFFFFFF }
      | some e => { fcode := e.1, done := e.2, foff := e.2, poff := r.2.2.getD 0xFFFFFFFF }) := by
  rw [State.tierDone, if_neg len, whole, ← walk]

theorem tierDone_hole (hole : findMap (s.app t.app).maps t.src.toNat = none) (page : 4096 ≤ t.len) :
    s.tierDone t = (s, { fcode := 4, foff := 0 }) := by
  obtain ⟨n, steps⟩ : ∃ n, t.len / 4096 = n + 1 := ⟨t.len / 4096 - 1, by omega⟩
  have walk : s.tierWalk t (s.tierCode (t.ctl.toNat % 256)) (t.src.toNat + t.len) (t.len / 4096) t.src.toNat = (s, some (4, 0), none) := by
    rw [steps, State.tierWalk, if_neg (by omega), hole, Nat.sub_self]
  exact (tierDone_walk len whole walk)

end

/-! ### A range in its tier -/

theorem findMap_some {ms : List Mapping} {va : Nat} {m : Mapping} (h : findMap ms va = some m) : m ∈ ms ∧ m.va ≤ va ∧ va < m.top := by
  have inside := List.find?_some h
  simp only [Bool.and_eq_true, decide_eq_true_eq] at inside
  exact ⟨List.mem_of_find?_eq_some h, inside⟩

/-- The unit that moves at an address ends above it. -/
theorem lt_unit_top {m : Mapping} {va : Nat} (h : va < m.top) : va < (m.unit va).2 := by
  rw [Mapping.unit]
  split
  · exact h
  · exact Nat.lt_min.mpr ⟨h, Nat.lt_div_mul_add (Nat.two_pow_pos _)⟩

theorem tierWalk_inTier {code lo hi : Nat} (inTier : ∀ a, lo ≤ a → a < hi → ∃ m, findMap (s.app t.app).maps a = some m ∧ m.inTier code = true) :
    ∀ (n va : Nat), lo ≤ va → s.tierWalk t code hi n va = (s, none, none)
  | 0, _, _ => rfl
  | n + 1, va, le => by
    rw [State.tierWalk]
    split
    · rfl
    next lt =>
    obtain ⟨m, found, here⟩ := inTier va le (by omega)
    have above := lt_unit_top (findMap_some found).2.2
    rw [found]
    dsimp only
    rw [here, if_pos rfl]
    exact tierWalk_inTier inTier n _ (by omega)

/-! ### Room for a region (R183) -/

theorem le_roundUp (x : Nat) {a : Nat} (pos : 0 < a) : x ≤ roundUp x a := by
  have := Nat.div_add_mod (x + a - 1) a
  have := Nat.mod_lt (x + a - 1) pos
  rw [roundUp, ceilDiv, Nat.mul_comm]
  omega

theorem roundUp_le {c x a : Nat} (pos : 0 < a) (le : c ≤ x) (aligned : x % a = 0) : roundUp c a ≤ x := by
  obtain ⟨q, rfl⟩ := Nat.dvd_of_mod_eq_zero aligned
  have few : (c + a - 1) / a ≤ q := Nat.le_of_lt_succ ((Nat.div_lt_iff_lt_mul pos).mpr (by rw [Nat.succ_mul, Nat.mul_comm]; omega))
  rw [roundUp, ceilDiv, Nat.mul_comm a q]
  exact Nat.mul_le_mul_right a few

/-- A place found lies in its bounds, clear of what is in use. -/
theorem firstFit_clear {lo hi size align start y : Nat} {used : List (Nat × Nat)} (h : firstFit lo hi size align start used = some y) :
    lo ≤ y ∧ y + size ≤ hi ∧ ∀ r ∈ used, y + size ≤ r.1 ∨ r.2 ≤ y := by
  have fits := List.find?_some h
  simp only [Bool.and_eq_true, decide_eq_true_eq, List.all_eq_true, Bool.or_eq_true] at fits
  exact ⟨fits.1.1, fits.1.2, fits.2⟩

/-- Where an aligned place is free, one is found: the greatest end of a range below it, or the bottom, is a place too. -/
theorem firstFit_finds {lo hi size align start x : Nat} {used : List (Nat × Nat)} (pos : 0 < align) (aligned : x % align = 0)
    (above : lo ≤ x) (below : x + size ≤ hi) (free : ∀ r ∈ used, x + size ≤ r.1 ∨ r.2 ≤ x) :
    ∃ y, firstFit lo hi size align start used = some y := by
  obtain ⟨c, hc, most⟩ := ((lo :: used.map Prod.snd).filter fun c => decide (c ≤ x)).toFinset.exists_max_image id
    ⟨lo, by simp [above]⟩
  simp only [List.mem_toFinset, List.mem_filter, decide_eq_true_eq, id] at hc most
  obtain ⟨cand, le⟩ := hc
  have low := le_roundUp c pos
  have high := roundUp_le pos le aligned
  refine Option.isSome_iff_exists.mp (List.find?_isSome.mpr ⟨roundUp c align, ?_, ?_⟩)
  · exact List.mem_map.mpr ⟨c, List.mem_cons_of_mem _ cand, rfl⟩
  · have bottom : lo ≤ roundUp c align := (most lo ⟨List.mem_cons_self .., above⟩).trans low
    simp only [Bool.and_eq_true, decide_eq_true_eq, List.all_eq_true, Bool.or_eq_true]
    refine ⟨⟨bottom, by omega⟩, fun r hr => ?_⟩
    rcases free r hr with right | left
    · exact .inl (by omega)
    · exact .inr ((most r.2 ⟨List.mem_cons_of_mem _ (List.mem_map_of_mem hr), left⟩).trans low)

/-! ### Tables -/

section
variable {α : Type}

theorem mem_of_mget_ne {d : α} {a : Nat} : ∀ {m : List (Nat × α)}, mget d m a ≠ d → (a, mget d m a) ∈ m
  | [], h => absurd rfl h
  | (b, v) :: m, h => by
    rw [mget] at h ⊢
    split at h
    · next e => rw [if_pos e, e]; exact List.mem_cons_self ..
    · next e => rw [if_neg e]; exact List.mem_cons_of_mem _ (mem_of_mget_ne h)

theorem mem_mdel {a : Nat} {p : Nat × α} : ∀ {m : List (Nat × α)}, p ∈ mdel m a → p ∈ m
  | (b, v) :: m, h => by
    rw [mdel] at h
    split at h
    · exact List.mem_cons_of_mem _ (mem_mdel h)
    · exact (List.mem_cons.mp h).elim (fun e => e ▸ List.mem_cons_self ..) fun h => List.mem_cons_of_mem _ (mem_mdel h)

theorem mem_mput {a : Nat} {v : α} {p : Nat × α} : ∀ {m : List (Nat × α)}, p ∈ mput m a v → p = (a, v) ∨ p ∈ m
  | [], h => .inl (List.mem_singleton.mp h)
  | (b, w) :: m, h => by
    rw [mput] at h
    split at h
    · exact List.mem_cons.mp h
    split at h
    · exact (List.mem_cons.mp h).imp_right (List.mem_cons_of_mem _)
    · rcases List.mem_cons.mp h with rfl | h
      · exact .inr (List.mem_cons_self ..)
      · exact (mem_mput h).imp_right (List.mem_cons_of_mem _)

/-- An entry written with what it reads as is one that was there. -/
theorem mem_mset_mget [DecidableEq α] {d : α} {a : Nat} {p : Nat × α} {m : List (Nat × α)} (h : p ∈ mset d m a (mget d m a)) : p ∈ m := by
  rw [mset] at h
  split at h
  · exact mem_mdel h
  · next ne => exact (mem_mput h).elim (fun e => e ▸ mem_of_mget_ne ne) id

theorem mget_filter_key [DecidableEq α] (d : α) (f : Nat → Bool) {a : Nat} (keep : f a = true) : ∀ m : List (Nat × α),
    mget d (m.filter fun c => f c.1) a = mget d m a
  | [] => rfl
  | (b, v) :: m => by
    rw [List.filter_cons]
    split
    · rw [mget, mget, mget_filter_key d f keep m]
    · next drop =>
      have other : b ≠ a := fun e => drop (e ▸ keep)
      rw [mget_filter_key d f keep m, mget, if_neg other]

/-- Entries copied from one place to another, of a table in canonical form. -/
theorem mget_shift [DecidableEq α] (d : α) {src dst i : Nat} : ∀ {l m : List (Nat × α)}, mwf d l = true → (∀ c ∈ l, src ≤ c.1) →
    mget d (l.foldl (fun m c => mset d m (c.1 - src + dst) c.2) m) (dst + i) =
      if mget d l (src + i) = d then mget d m (dst + i) else mget d l (src + i)
  | [], m, _, _ => (if_pos rfl).symm
  | (k, v) :: l, m, wf, above => by
    simp only [mwf, Bool.and_eq_true, decide_eq_true_eq] at wf
    obtain ⟨⟨full, rising⟩, wf⟩ := wf
    have low := above (k, v) (List.mem_cons_self ..)
    rw [List.foldl_cons, mget_shift d wf fun c hc => above c (List.mem_cons_of_mem _ hc), mget_mset, mget]
    by_cases own : k = src + i
    · subst own
      rw [mget_lt_of_keysAbove (Nat.le_refl _) rising, if_pos rfl, if_pos (by omega), if_pos rfl, if_neg full]
    · rw [if_neg own, if_neg (show dst + i ≠ k - src + dst by dsimp only at low; omega)]

end

/-! ### Frames -/

theorem reapOne_leaving {r q : OldFrame} (h : q ∈ (s.reapOne r).leaving) : q ∈ s.leaving := by
  rw [State.reapOne] at h
  split at h
  · exact h
  · exact (List.mem_filter.mp h).1

theorem reap_leaving {q : OldFrame} (h : q ∈ s.reap.leaving) : q ∈ s.leaving := by
  have all : ∀ (l : List OldFrame) (s : State), q ∈ (l.foldl State.reapOne s).leaving → q ∈ s.leaving := by
    intro l
    induction l with
    | nil => exact fun _ h => h
    | cons r l ih => exact fun s h => reapOne_leaving (ih _ h)
  exact all _ s h

/-- Frames that have left are erased, and no other byte. -/
theorem mget_reap {p : Nat} (out : ∀ r ∈ s.leaving, p < r.pa ∨ r.pa + r.len ≤ p) :
    mget unlistedByte s.reap.mem p = mget unlistedByte s.mem p := by
  have all : ∀ (l : List OldFrame) (s : State), (∀ r ∈ l, p < r.pa ∨ r.pa + r.len ≤ p) →
      mget unlistedByte (l.foldl State.reapOne s).mem p = mget unlistedByte s.mem p := by
    intro l
    induction l with
    | nil => exact fun _ _ => rfl
    | cons r l ih =>
      intro s out
      rw [List.foldl_cons, ih _ fun r hr => out r (List.mem_cons_of_mem _ hr), State.reapOne]
      split
      · rfl
      · refine (mget_scrub s r.pa r.len p).trans (if_neg fun inside => ?_)
        have := out r (List.mem_cons_self ..)
        omega
  exact all _ s out

/-- What frames hold once others have been copied to them, which were empty. -/
theorem mget_copyFrames {src dst len : Nat} (ok : s.memOk) (hi : i < len) (empty : mget unlistedByte s.mem (dst + i) = unlistedByte) :
    mget unlistedByte (s.copyFrames src dst len).mem (dst + i) = mget unlistedByte s.mem (src + i) := by
  have copy := mget_shift unlistedByte (src := src) (dst := dst) (i := i) (m := s.mem)
    (mwf_filter (fun c : Host.Cell => decide (src ≤ c.1) && decide (c.1 < src + len)) ok) fun c hc => by
      have inside := (List.mem_filter.mp hc).2
      simp only [Bool.and_eq_true, decide_eq_true_eq] at inside
      exact inside.1
  have kept := mget_filter_key unlistedByte (fun a => decide (src ≤ a) && decide (a < src + len)) (a := src + i)
    (by simp; omega) s.mem
  refine copy.trans ?_
  rw [kept, empty]
  split
  · next e => exact e.symm
  · rfl

/-! ### One region that moves to a die -/

theorem dieOfHbm_eq {d pa len : Nat} (hd : d < 4) (pos : 0 < len) (above : hbmBase d ≤ pa) (below : pa + len ≤ hbmBase d + hbmSize d) :
    dieOfHbm pa = d := by
  rw [dieOfHbm]
  interval_cases d <;> simp only [hbmBase, hbmSize] at * <;> norm_num at * <;> (repeat' split) <;> omega

theorem tierRange_die {d : Nat} (hd : d < 4) : s.tierRange (0x10 + d) = some (hbmBase d, hbmSize d, .tier1, 30) := by
  have code : s.tierCode (0x10 + d) = 0x10 + d := if_neg (by omega)
  rw [State.tierRange, code, if_neg (by omega), if_pos (by omega), Nat.add_sub_cancel_left]

theorem keyedFrames_reap {r : OldFrame} (h : r ∈ s.reap.keyedFrames) : r ∈ s.keyedFrames := by
  rw [State.keyedFrames, State.reap_apps] at h
  exact (List.mem_append.mp h).elim (fun h => List.mem_append.mpr (.inl h)) fun h => List.mem_append.mpr (.inr (reap_leaving h))

/-- The frames of a mapping are under its tenant's key. -/
theorem keyedFrames_map {m : Mapping} (h : m ∈ (s.app k).maps) : ⟨m.pa, m.pages * 4096, (s.app k).tenant⟩ ∈ s.keyedFrames := by
  have listed : s.app k ≠ {} := fun e => by
    rw [e] at h
    cases h
  refine List.mem_append.mpr (.inl (List.mem_flatMap.mpr ⟨_, mem_of_mget_ne listed, List.mem_append.mpr (.inl ?_)⟩))
  exact List.mem_map.mpr ⟨m, h, rfl⟩

/-- A region on new frames. -/
def Mapping.moved (m : Mapping) (pa : Nat) (kind : MemKind) : Mapping :=
  { m with pa := pa, kind := kind, migr := none, pageLog := if kind = .polder then min m.pageLog 16 else m.pageLog }

/-- The machine with the contents of a region copied and the region mapped to its new frames, the old ones still to be given back. -/
def State.remapped (v : State) (app : Nat) (m : Mapping) (pa : Nat) (kind : MemKind) : State :=
  let c := (v.copyFrames m.pa pa (m.pages * 4096)).breakFrame m.pa (m.pages * 4096)
  c.setApp app { c.app app with maps := (c.app app).maps.map fun q => if q = m then q.moved pa kind else q }

theorem moveRegion_eq {app code pa : Nat} {m : Mapping} {kind : MemKind} {v : State}
    (alloc : s.allocTier code (m.pages * 4096) (2 ^ m.pageLog) = some (pa, kind, v)) (up : v.linkDown kind = false) :
    s.moveRegion app m code = some ((v.remapped app m pa kind).release ⟨m.pa, m.pages * 4096, (v.app app).tenant⟩) := by
  rw [State.moveRegion, alloc]
  dsimp only
  rw [up, if_neg Bool.false_ne_true]
  rfl

theorem remapped_app (v : State) (app : Nat) (m : Mapping) (pa : Nat) (kind : MemKind) :
    ((v.remapped app m pa kind).app app).maps = (v.app app).maps.map fun q => if q = m then q.moved pa kind else q := by
  rw [State.remapped, app_setApp, if_pos rfl]
  rfl

/-- Frames given back lose their contents, and no others do. -/
theorem mget_release {r : OldFrame} {p : Nat} (out : p < r.pa ∨ r.pa + r.len ≤ p) :
    mget unlistedByte (s.release r).mem p = mget unlistedByte s.mem p := by
  rw [State.release]
  split
  · rfl
  · exact (mget_scrub s _ _ p).trans (if_neg (by omega))

section
variable {app d x : Nat} {m : Mapping} (hd : d < 4) (sized : 0 < m.pages) (above : hbmBase d ≤ x)
  (below : x + m.pages * 4096 ≤ hbmBase d + hbmSize d) (aligned : x % 2 ^ m.pageLog = 0)
  (free : ∀ r ∈ s.keyedFrames, x + m.pages * 4096 ≤ r.pa ∨ r.pa + r.len ≤ x)
include hd sized above below aligned free

/-- Where an aligned place on the die is free, frames are found for a region. -/
theorem allocTier_die : ∃ pa, s.allocTier (0x10 + d) (m.pages * 4096) (2 ^ m.pageLog) =
      some (pa, .tier1, { s.reap.scrub pa (m.pages * 4096) with tick := s.reap.tick + 1 }) ∧
    dieOfHbm pa = d ∧ ∀ r ∈ s.reap.keyedFrames, pa + m.pages * 4096 ≤ r.pa ∨ r.pa + r.len ≤ pa := by
  have room := fun start => firstFit_finds (start := start) (used := s.reap.usedFrames) (Nat.two_pow_pos m.pageLog) aligned above below
    fun r hr => by
      obtain ⟨q, hq, rfl⟩ := List.mem_map.mp hr
      exact free q (keyedFrames_reap hq)
  obtain ⟨pa, found⟩ := room (Config.frameHint s.reap.tick % (hbmSize d / 2 + 1) / 2 ^ m.pageLog * 2 ^ m.pageLog)
  obtain ⟨lo, hi, clear⟩ := firstFit_clear found
  refine ⟨pa, ?_, dieOfHbm_eq hd (by omega) lo hi, fun r hr => clear _ (List.mem_map_of_mem hr)⟩
  rw [State.allocTier, tierRange_die hd]
  dsimp only
  rw [State.takeFrames]
  dsimp only
  rw [found]

/-- A region moves to new frames of the die with its contents (R187). -/
theorem moveRegion_die (ok : s.memOk) (mapped : m ∈ (s.app app).maps)
    (left : ∀ r ∈ s.leaving, r.pa + r.len ≤ m.pa ∨ m.pa + m.pages * 4096 ≤ r.pa) :
    ∃ u q, s.moveRegion app m (0x10 + d) = some u ∧ q ∈ (u.app app).maps ∧ q.va = m.va ∧ q.pages = m.pages ∧ q.attr = m.attr ∧
      q.inTier (0x10 + d) = true ∧ ∀ i < m.pages * 4096, mget unlistedByte u.mem (q.pa + i) = mget unlistedByte s.mem (m.pa + i) := by
  obtain ⟨pa, alloc, die, clear⟩ := allocTier_die hd sized above below aligned free
  have apart : pa + m.pages * 4096 ≤ m.pa ∨ m.pa + m.pages * 4096 ≤ pa := by
    have reaped : m ∈ (s.reap.app app).maps := by rwa [State.app, State.reap_apps]
    exact clear _ (keyedFrames_map reaped)
  refine ⟨_, m.moved pa .tier1, moveRegion_eq alloc rfl, ?_, rfl, rfl, rfl, decide_eq_true ?_, fun i hi => ?_⟩
  · have same : ({ s.reap.scrub pa (m.pages * 4096) with tick := s.reap.tick + 1 } : State).app app = s.app app := by
      show mget {} s.reap.apps app = _
      rw [State.reap_apps]
      rfl
    rw [State.app, State.release_apps]
    show m.moved pa .tier1 ∈ ((State.remapped _ app m pa .tier1).app app).maps
    rw [remapped_app, same]
    exact List.mem_map.mpr ⟨m, mapped, if_pos rfl⟩
  · rw [show (m.moved pa .tier1).pa = pa from rfl, die]
  · show mget unlistedByte (State.release _ _).mem (pa + i) = _
    rw [mget_release (by dsimp only; omega)]
    have empty : mget unlistedByte (s.reap.scrub pa (m.pages * 4096)).mem (pa + i) = unlistedByte :=
      (mget_scrub _ _ _ _).trans (if_pos (by omega))
    have kept : mget unlistedByte (s.reap.scrub pa (m.pages * 4096)).mem (m.pa + i) = mget unlistedByte s.mem (m.pa + i) := by
      rw [mget_scrub, if_neg (by omega), mget_reap fun r hr => by have := left r hr; omega]
    exact (mget_copyFrames (s := { s.reap.scrub pa (m.pages * 4096) with tick := s.reap.tick + 1 })
      (scrub_memOk _ _ (reap_memOk ok)) hi empty).trans kept

end

/-! ### XTIER of one region -/

theorem keyedFrames_setApp {r : OldFrame} (h : r ∈ (s.setApp k (s.app k)).keyedFrames) : r ∈ s.keyedFrames := by
  rcases List.mem_append.mp h with h | h
  · obtain ⟨p, hp, hr⟩ := List.mem_flatMap.mp h
    exact List.mem_append.mpr (.inl (List.mem_flatMap.mpr ⟨p, mem_mset_mget hp, hr⟩))
  · exact List.mem_append.mpr (.inr h)

/-- The walk over one region that a free place of the die takes in. -/
theorem tierWalk_one {lo hi d x : Nat} {m : Mapping} (ok : s.memOk) (hd : d < 4) (some_ : lo < hi) (src : t.src.toNat = lo)
    (carved : carve (s.app t.app).maps lo hi = (s.app t.app).maps) (found : findMap (s.app t.app).maps lo = some m)
    (from_ : m.va = lo) (to_ : m.top = hi) (unit : m.unit lo = (lo, hi)) (away : m.inTier (0x10 + d) = false) (up : s.linkDown m.kind = false)
    (left : ∀ r ∈ s.leaving, r.pa + r.len ≤ m.pa ∨ m.pa + m.pages * 4096 ≤ r.pa) (above : hbmBase d ≤ x)
    (below : x + m.pages * 4096 ≤ hbmBase d + hbmSize d) (aligned : x % 2 ^ m.pageLog = 0)
    (free : ∀ r ∈ s.keyedFrames, x + m.pages * 4096 ≤ r.pa ∨ r.pa + r.len ≤ x) (n : Nat) :
    ∃ u q, s.tierWalk t (0x10 + d) hi (n + 1) lo = (u, none, s.firstPoison m.pa (m.pages * 4096)) ∧ q ∈ (u.app t.app).maps ∧
      q.va = m.va ∧ q.pages = m.pages ∧ q.attr = m.attr ∧ q.inTier (0x10 + d) = true ∧
      ∀ i < m.pages * 4096, mget unlistedByte u.mem (q.pa + i) = mget unlistedByte s.mem (m.pa + i) := by
  have sized : 0 < m.pages := by
    rw [Mapping.top, from_] at to_
    omega
  have same : (s.setApp t.app (s.app t.app)).app t.app = s.app t.app := (app_setApp ..).trans (if_pos rfl)
  obtain ⟨u, q, moved, rest⟩ := moveRegion_die (s := s.setApp t.app (s.app t.app)) (app := t.app) hd sized above below aligned
    (fun r hr => free r (keyedFrames_setApp hr)) ok (by rw [same]; exact (findMap_some found).1) left
  refine ⟨u, q, ?_, rest⟩
  have ended : u.tierWalk t (0x10 + d) hi n hi = (u, none, none) := by
    cases n with
    | zero => rfl
    | succ n => rw [State.tierWalk, if_pos (Nat.le_refl hi)]
  rw [State.tierWalk, if_neg (by omega), found]
  dsimp only
  rw [away, if_neg Bool.false_ne_true, up, if_neg Bool.false_ne_true, unit]
  dsimp only
  rw [Nat.max_self, Nat.min_self, carved, show ({ s.app t.app with maps := (s.app t.app).maps } : App) = s.app t.app from rfl, same, found]
  dsimp only
  rw [moved]
  dsimp only
  rw [ended, src, Nat.sub_self]
  cases s.firstPoison m.pa (m.pages * 4096) <;> simp

end Sys2Proof.Machine
end

section
/-! SUPPORT. The fields of a record (R261), what XWAIT and XPOLL take of a queue (R262), and XFERC of a hart to itself (R155, R256). -/

namespace Sys2Proof.Machine

variable {s u : State} {t : Transfer} {h : Hart}

/-! ### A record's fields (R261) -/

section
variable {k status op fcode tag done foff poff : Nat} (hs : status < 8) (ho : op < 16) (hf : fcode < 256) (ht : tag < 2 ^ 16)
  (hd : done < 2 ^ 32)

include hs ho hf ht hd in
theorem recWords_w0 : (recWords k status op fcode tag done foff poff).w0.toNat =
    (1 - k / 64 % 2) + status * 2 + op * 16 + fcode * 2 ^ 8 + tag * 2 ^ 16 + done * 2 ^ 32 := by
  rw [recWords, BitVec.toNat_ofNat, Nat.mod_eq_of_lt hd]
  omega

include hs ho hf ht hd in
theorem recWords_low : (recWords k status op fcode tag done foff poff).w0.getLsbD 0 = decide (k / 64 % 2 = 0) ∧
    bitsAt (recWords k status op fcode tag done foff poff).w0.toNat 1 3 = status ∧
    bitsAt (recWords k status op fcode tag done foff poff).w0.toNat 4 4 = op ∧
    bitsAt (recWords k status op fcode tag done foff poff).w0.toNat 8 8 = fcode ∧
    bitsAt (recWords k status op fcode tag done foff poff).w0.toNat 16 16 = tag ∧
    bitsAt (recWords k status op fcode tag done foff poff).w0.toNat 32 32 = done := by
  have word := recWords_w0 (k := k) (foff := foff) (poff := poff) hs ho hf ht hd
  refine ⟨?_, ?_, ?_, ?_, ?_, ?_⟩
  · rw [BitVec.getLsbD, word, Nat.testBit_zero]
    rcases Nat.mod_two_eq_zero_or_one (k / 64) with phase | phase <;> rw [phase] <;> simp <;> omega
  all_goals
    rw [bitsAt, word]
    omega

theorem recWords_high (hf : foff < 2 ^ 32) (hp : poff < 2 ^ 32) :
    bitsAt (recWords k status op fcode tag done foff poff).w1.toNat 0 32 = foff ∧
    bitsAt (recWords k status op fcode tag done foff poff).w1.toNat 32 32 = poff := by
  have word : (recWords k status op fcode tag done foff poff).w1.toNat = foff + poff * 2 ^ 32 := by
    rw [recWords, BitVec.toNat_ofNat, Nat.mod_eq_of_lt hf, Nat.mod_eq_of_lt hp]
    omega
  rw [word, bitsAt, bitsAt]
  omega

end

/-! ### The records of a queue (R262) -/

section
variable {d a : Reg}

theorem nextRec_posted {r : ComplRec} (out : (h.queue a.toNat).taken < (h.queue a.toNat).reserved)
    (posted : mget none (h.queue a.toNat).recs (h.queue a.toNat).taken = some r) : h.nextRec a.toNat = some (r,
      h.setQueue a.toNat { h.queue a.toNat with taken := (h.queue a.toNat).taken + 1,
                                                recs := mset none (h.queue a.toNat).recs (h.queue a.toNat).taken none }) := by
  rw [Hart.nextRec, if_neg (by omega), posted]

theorem nextRec_empty (none_ : (h.queue a.toNat).reserved ≤ (h.queue a.toNat).taken) : h.nextRec a.toNat = some (⟨0, 0⟩, h) := by
  rw [Hart.nextRec]
  exact if_pos none_

theorem nextRec_open (out : (h.queue a.toNat).taken < (h.queue a.toNat).reserved)
    (open_ : mget none (h.queue a.toNat).recs (h.queue a.toNat).taken = none) : h.nextRec a.toNat = none := by
  rw [Hart.nextRec, if_neg (by omega), open_]

theorem xwait_takes {r : ComplRec × Hart} (next : s.hart.nextRec a.toNat = some r) :
    s.endsWith (.xwait d a) s ((r.2.wx d.toNat r.1.w0).wx (d.toNat + 1) r.1.w1) := by
  refine endsWith_of rfl ?_
  rw [next]
  rfl

theorem xwait_waits (next : s.hart.nextRec a.toNat = none) : exec (.xwait d a) s = .next (s.waitsOn (.xwait d a)) := by
  show complete _ s _ = _
  rw [next]
  rfl

theorem xpoll_takes {r : ComplRec × Hart} (next : (s.hart.nextRec a.toNat).getD (⟨0, 0⟩, s.hart) = r) :
    s.endsWith (.xpoll d a) s ((r.2.wx d.toNat r.1.w0).wx (d.toNat + 1) r.1.w1) := by
  refine endsWith_of (r := .ok (s.takeRec d ((s.hart.nextRec a.toNat).getD (⟨0, 0⟩, s.hart)))) rfl ?_
  rw [next]
  rfl

end

/-! ### XFERC without a record, to the hart itself -/

theorem updHart_turn {i : Nat} (f : Hart → Hart) (run : s.hart.run ≠ .idle) (own : s.hart.id = i) (others : ∀ g ∈ s.others, g.id ≠ i) :
    s.updHart i f = { s with hart := f s.hart } :=
  mapHarts_turn f run (decide_eq_true own) fun g hg => decide_eq_false (others g hg)

theorem mget_putRegs (t : Transfer) (h : Hart) (r : Nat) : mget {} (h.putRegs t).v r =
    if t.reg ≤ r ∧ r < t.reg + t.regs.length then t.regs.getD (r - t.reg) {} else h.vreg r := by
  have fill := mget_fill t.reg (fun j _ => t.regs.getD j {}) h.v t.regs.length r
  refine Eq.trans ?_ fill
  exact congrArg (fun m => mget ({} : VReg) m r)
    (foldl_zip_range (fun m j q => mset ({} : VReg) m (t.reg + j) q) ({} : VReg) t.regs h.v)

/-- The hart whose turn it is once a transfer without a record to it has ended. -/
theorem finish_turn {e : Ending} (norec : t.ctl.getLsbD 19 = true) (own : t.hart = s.hart.id) (run : s.hart.run ≠ .idle)
    (unsaved : s.hart.spilled = false) (others : ∀ g ∈ s.others, g.id ≠ s.hart.id) :
    s.finish t e = { s with hart := s.hart.withCounts e, transfers := s.transfers.filter fun u => decide (u.id ≠ t.id) } := by
  have counted : s.counted t e = { s.without t with hart := s.hart.withCounts e } := by
    rw [State.counted, own]
    exact updHart_turn (s := s.without t) _ run rfl others
  rw [finish_eq, if_pos norec, counted, own]
  have same : ({ s.without t with hart := s.hart.withCounts e } : State).hart.id = s.hart.id := rfl
  rw [← same, resave_turn (s := { s.without t with hart := s.hart.withCounts e }) run]
  exact if_neg (by rw [show ({ s.without t with hart := s.hart.withCounts e } : State).hart.spilled = false from unsaved]; exact Bool.false_ne_true)

theorem withCounts_nv (h : Hart) (done : Nat) (b : Bool) : h.withCounts { done := done, flags := { nv := b } } =
    { h with vflags := h.vflags ||| (if b then 16 else 0) } := by
  rw [Hart.withCounts, holdAdd_zero, holdAdd_zero]
  cases b <;> rfl

/-- XFERC of a hart to itself, as the obligations state it. -/
theorem retireOne_xferc (op : t.op = 5) (out : t.landed = none) (all : t.came = none) (early : t.early = 0)
    (found : s.hartOf t.target = some h) (runs : h.ended = false) (turn : s.hart = h) (own : t.hart = h.id)
    (norec : t.ctl.getLsbD 19 = true) (others : ∀ g ∈ s.others, g.id ≠ h.id) (run : h.run ≠ .idle) (unsaved : h.spilled = false) :
    s.retireOne t = { s with
      hart := { h with v := (h.putRegs t).v, vflags := h.vflags ||| (if t.regs.any VReg.nanScale then 16 else 0) },
      transfers := s.transfers.filter fun u => decide (u.id ≠ t.id) } := by
  subst turn
  have target : s.hart.id = t.target := hartOf_id found
  have parks : s.parks t (t.len * 8 / (ctlElem t.ctl 0).bits) = false := by
    simp [State.parks, op, norec]
  have land : s.landAll t = ({ s with hart := s.hart.putRegs t },
      { done := t.regs.length * t.grant, flags := { nv := t.regs.any VReg.nanScale } }) := by
    rw [State.landAll, all]
    dsimp only
    rw [State.land, if_neg (by omega), landXferc_arrives found early runs, ← target, updHart_turn _ run rfl others]
  rw [retireOne_regs (.inr op) parks, retireRegs_all out, land]
  dsimp only
  rw [finish_turn (s := { s with hart := s.hart.putRegs t }) norec own run unsaved others]
  dsimp only
  rw [withCounts_nv]
  rfl

end Sys2Proof.Machine
end

section
/-! SUPPORT. How each transfer retires (R259): the machine before its record, and its end. -/

namespace Sys2Proof.Machine

variable {s u : State} {t : Transfer} {p : Nat}

/-- The elements of a transfer. -/
def Transfer.count (t : Transfer) : Nat := t.len * 8 / (ctlElem t.ctl 0).bits

/-- The elements that XFERVS takes from its registers. -/
def Transfer.regElems (t : Transfer) : List XElem := (List.range t.count).map fun k =>
  let r := k / ctlFields t.ctl
  { (t.columns.getD (k % ctlFields t.ctl) fun _ => {}) (if t.xperm then t.perm.getD r 0 else r) with u := (t.draws t.count).getD k 0 }

/-- What a transfer to memory reads, and the fault of its source. -/
def State.memEls (s : State) (t : Transfer) : List XElem × Option (Nat × Nat) :=
  if t.op = 4 then (t.regElems, none) else s.srcElems t (ctlElem t.ctl 0) (List.zip (List.range t.count) (t.draws t.count))

theorem srcElems_length (f : Fmt) : ∀ l : List (Nat × Nat), (s.srcElems t f l).1.length ≤ l.length
  | [] => Nat.le_refl 0
  | (e, v) :: l => by
    rw [State.srcElems]
    split
    · exact Nat.zero_le _
    · exact Nat.succ_le_succ (srcElems_length f l)

theorem memEls_length (s : State) (t : Transfer) : (s.memEls t).1.length ≤ t.count := by
  rw [State.memEls]
  split
  · simp [Transfer.regElems]
  · refine (srcElems_length _ _).trans ?_
    simp

section
variable (open_ : s.parks t t.count = false) (h3 : t.op ≠ 3) (h5 : t.op ≠ 5)
include open_ h3 h5

theorem retireOne_mem (h9 : t.op ≠ 9) (reads : t.op = 4 ∨ t.early = 0) : s.retireOne t =
    (s.memDone t t.count (s.memEls t).1 (s.memEls t).2).1.finish t (s.memDone t t.count (s.memEls t).1 (s.memEls t).2).2 := by
  rw [← retireMem_eq, State.retireOne]
  refine (if_neg fun c => Bool.false_ne_true (open_.symm.trans c)).trans ?_
  rw [State.memEls]
  split
  · contradiction
  · next h4 => rw [if_pos h4]; rfl
  · contradiction
  · contradiction
  · next h4 _ _ =>
    rw [if_neg h4, State.retireXfer]
    exact if_neg fun c => c (reads.resolve_left h4)

theorem retireOne_early (h4 : t.op ≠ 4) (h9 : t.op ≠ 9) (early : t.early ≠ 0) :
    s.retireOne t = s.finish t { fcode := t.early, foff := 0 } := by
  rw [State.retireOne]
  refine (if_neg fun c => Bool.false_ne_true (open_.symm.trans c)).trans ?_
  split
  · contradiction
  · contradiction
  · contradiction
  · contradiction
  · rw [State.retireXfer]
    exact if_pos early

end

theorem retireOne_tier (open_ : s.parks t t.count = false) (h9 : t.op = 9) :
    s.retireOne t = (s.tierDone t).1.finish t (s.tierDone t).2 := by
  rw [← retireXtier_eq, State.retireOne]
  refine (if_neg fun c => Bool.false_ne_true (open_.symm.trans c)).trans ?_
  rw [h9]
  rfl

/-- The machine before the record of a transfer to registers, and its end. -/
def State.regsDone (s : State) (t : Transfer) : State × Ending :=
  match t.landed with
  | some e => (s, e)
  | none => s.landAll t

theorem retireOne_regsDone (open_ : s.parks t t.count = false) (regs : t.op = 3 ∨ t.op = 5) :
    s.retireOne t = (s.regsDone t).1.finish t (s.regsDone t).2 := by
  rw [retireOne_regs regs open_, State.retireRegs, State.regsDone]
  cases t.landed <;> rfl

theorem regsDone_fills (s : State) (t : Transfer) : s.Fills (s.regsDone t).1 := by
  rw [State.regsDone]
  split
  · exact fills_refl s
  · exact landAll_fills s t

theorem regsDone_landed {z : Ending} (landed : t.landed = some z) : s.regsDone t = (s, z) := by rw [State.regsDone, landed]

theorem regsDone_came {a : Arrival} (out : t.landed = none) (came : t.came = some a) : (s.regsDone t).2 = a.ending := by
  rw [State.regsDone, out]
  dsimp only
  rw [State.landAll, came]

/-- What a retired transfer has not written reads as before: it has written memory through `Writes` where `kept` says so. -/
theorem retire_quiet {regs : Prop} {e : Ending} (writes : s.Writes t.hart regs u)
    (kept : ∀ p, ¬ s.xferByte t t.count p → mget unlistedByte u.mem p = mget unlistedByte s.mem p) :
    (∀ p, ¬ s.xferByte t t.count p → mget unlistedByte (u.finish t e).mem p = mget unlistedByte s.mem p) ∧
    (∀ j, { (u.finish t e).app j with errlog := [] } = { s.app j with errlog := [] }) ∧ (u.finish t e).tick = s.tick ∧
    (u.finish t e).leaving = s.leaving ∧
    (∀ h a, t.ctl.getLsbD 19 = false → s.hartOf t.hart = some h → h.recAddr (ctlQueue t.ctl) t.recno = some a →
      s.mayWrite h.app t.who a 16 = true → ∀ j < 16, ∀ x, (s.app h.app).lookup t.who (a + j) = some x →
      (∀ j' x', j < j' → j' < 16 → (s.app h.app).lookup t.who (a + j') = some x' → x'.addr (a + j') ≠ x.addr (a + j)) →
      mget unlistedByte (u.finish t e).mem (x.addr (a + j)) =
        BitVec.ofNat 8 (((t.record e).w0.toNat + (t.record e).w1.toNat * 2 ^ 64) / 256 ^ j)) := by
  obtain ⟨tick, leaving⟩ := finish_tick (e := e) writes
  refine ⟨fun p out => ?_, finish_app writes, tick, leaving, fun h a rec_ found ha may j hj x hx fin =>
    mget_finish_record writes rec_ found ha may hj hx fin⟩
  rw [mget_finish writes fun inside => out (.inr (.inr inside)), kept p out]

theorem memDone_kept (h3 : t.op ≠ 3) (h5 : t.op ≠ 5) {es : List XElem} {flt : Option (Nat × Nat)} (le : es.length ≤ t.count)
    (out : ¬ s.xferByte t t.count p) : mget unlistedByte (s.memDone t t.count es flt).1.mem p = mget unlistedByte s.mem p := by
  rw [mget_memDone fun six inside => out (.inr (.inl ⟨six, inside⟩)), mget_wrote le fun inside => out (.inl ⟨h3, h5, inside⟩)]

/-- How a transfer to memory ends, and what it has written, from the elements it has read (R254, R257, R259, R261). -/
theorem memDone_clauses {es : List XElem} {flt : Option (Nat × Nat)} (le : es.length ≤ t.count) :
    let e := (s.memDone t t.count es flt).2
    let u := (s.memDone t t.count es flt).1.finish t e
    let sf := ctlElem t.ctl 0
    e.flags = (t.made es).flags ∧ e.examined = (if t.op = 6 then es.length else 0) ∧ (t.op ≠ 6 → e.clipped = 0) ∧
    ((∀ x ∈ es, x.poison = false) → e.poff = 0xFFFFFFFF) ∧
    (∀ k x, es[k]? = some x → x.poison = true → (∀ j y, j < k → es[j]? = some y → y.poison = false) →
      e.poff = if t.op = 4 then k * sf.bits / 8 else s.poisonOff t sf k) ∧
    (∀ k f, k < es.length → (∀ j < k, s.dstFault t t.count j = none) → s.dstFault t t.count k = some f →
      e.fcode = f ∧ e.foff = k * sf.bits / 8 ∧ ((∀ j < k, s.dstEncoded t j = false) → e.done = k * sf.bits / 8)) ∧
    ((∀ j < es.length, s.dstFault t t.count j = none) →
      (∀ f, flt = some f → e.fcode = f.1 ∧ e.foff = f.2 * sf.bits / 8) ∧
      (flt = none → t.op ≠ 6 ∨ foldMax sf es = none → e.fcode = 0 ∧ e.foff = 0xFFFFFFFF) ∧
      ((∀ j < es.length, s.dstEncoded t j = false) →
        (t.op ≠ 6 ∨ flt ≠ none ∨ foldMax sf es = none → e.done = es.length * sf.bits / 8) ∧ s.xferWrote u t es) ∧
      (∀ m, t.op = 6 → flt = none → foldMax sf es = some m →
        (s.forStore (s.xferAt t t.maxw.toNat) = .error .link → e.fcode = 0x10 ∧ e.foff = t.len ∧ e.done = t.len) ∧
        (s.forStore (s.xferAt t t.maxw.toNat) = .error .unmapped ∨ s.forStore (s.xferAt t t.maxw.toNat) = .error .perm →
          e.fcode = 5 ∧ e.foff = t.len ∧ e.done = t.len) ∧
        (∀ x, s.forStore (s.xferAt t t.maxw.toNat) = .ok x → x.encoded = false → e.fcode = 0 ∧ e.foff = 0xFFFFFFFF ∧
          ((∀ p, s.maxByte t p → ¬ s.dstByte t t.count p ∧ ¬ s.recByte t p) →
            readLE u.mem (x.addr t.maxw.toNat) 4 = max m (readLE s.mem (x.addr t.maxw.toNat) 4) % 2 ^ 32)))) := by
  intro e u sf
  obtain ⟨flags, examined, clipped, poff⟩ := memEnd_flags s t t.count es flt
  refine ⟨flags, examined, clipped, fun good => by rw [poff, firstBad_none good],
    fun k x at_ bad before => by rw [poff, firstBad_some at_ bad before], fun k f hk before at_ => memEnd_dstFault hk before at_, fun ok => ?_⟩
  refine ⟨fun f fault => memEnd_srcFault ok fault, fun clean no => ?_, fun plain => ⟨fun no => ?_, memDone_wrote ok plain⟩,
    fun m six clean fold => ?_⟩
  · have end_ : e = s.memEnd t t.count es flt := congrArg Prod.snd (memDone_noFold (memFold_none ok (no.imp_right .inr)))
    rw [end_]
    exact memEnd_clean ok clean
  · have end_ : e = s.memEnd t t.count es flt := congrArg Prod.snd (memDone_noFold (memFold_none ok no))
    rw [end_]
    exact memEnd_done ok plain
  · have folds : s.memFold t t.count es flt = some m := by rw [State.memFold, memFault_src ok, if_pos ⟨six, clean⟩, fold]
    refine ⟨fun down => ?_, fun lost => ?_, fun x store plain => ?_⟩
    · rw [show e = _ from memDone_link folds down]
      exact ⟨rfl, rfl, rfl⟩
    · have end_ : e = { s.memEnd t t.count es flt with fcode := 5, done := t.len, foff := t.len } :=
        lost.elim (fun h => memDone_lost folds h nofun) fun h => memDone_lost folds h nofun
      rw [end_]
      exact ⟨rfl, rfl, rfl⟩
    · obtain ⟨same, -⟩ := memDone_folds folds store plain
      obtain ⟨fcode, foff⟩ := memEnd_clean ok clean
      exact ⟨(congrArg Ending.fcode same).trans fcode, (congrArg Ending.foff same).trans foff, readLE_maximum folds le store plain⟩

theorem finish_maps {regs : Prop} {u : State} {e : Ending} (writes : s.Writes t.hart regs u) (j : Nat) :
    ((u.finish t e).app j).maps = (s.app j).maps := by
  have same := congrArg App.maps (finish_app (e := e) writes j)
  exact same

/-- Where the walk over the range meets no fault. -/
theorem tierDone_whole {v : State} {o : Option Nat} (len : t.len ≠ 0)
    (whole : partRange (s.app t.app).maps t.src.toNat (t.src.toNat + t.len) = none)
    (walk : s.tierWalk t (s.tierCode (t.ctl.toNat % 256)) (t.src.toNat + t.len) (t.len / 4096) t.src.toNat = (v, none, o)) :
    s.tierDone t = (v, { done := t.len, poff := o.getD 0xFFFFFFFF }) := tierDone_walk len whole walk

/-- XTIER's end, and what has moved (R187, R258). -/
theorem tierDone_clauses (s : State) (t : Transfer) :
    let e := (s.tierDone t).2
    let u := (s.tierDone t).1.finish t e
    let ms := (s.app t.app).maps
    let lo := t.src.toNat
    let hi := lo + t.len
    let code := s.tierCode (t.ctl.toNat % 256)
    (t.len = 0 → e = {}) ∧
    (∀ m, t.len ≠ 0 → partRange ms lo hi = some m → e = { fcode := 0x13, foff := max m.va lo - lo }) ∧
    (t.len ≠ 0 → partRange ms lo hi = none → findMap ms lo = none → 4096 ≤ t.len → e = { fcode := 4, foff := 0 }) ∧
    (partRange ms lo hi = none → (∀ a, lo ≤ a → a < hi → ∃ m, findMap ms a = some m ∧ m.inTier code = true) →
      (t.len ≠ 0 → e = { done := t.len }) ∧ (∀ j, (u.app j).maps = (s.app j).maps) ∧
      ∀ p, ¬ s.recByte t p → mget unlistedByte u.mem p = mget unlistedByte s.mem p) ∧
    (∀ m x d, s.memOk → d < 4 → code = 0x10 + d → 4096 ≤ t.len → t.len % 4096 = 0 → partRange ms lo hi = none → carve ms lo hi = ms →
      findMap ms lo = some m → m.va = lo → m.top = hi → m.unit lo = (lo, hi) → m.inTier code = false → s.linkDown m.kind = false →
      (∀ r ∈ s.leaving, r.pa + r.len ≤ m.pa ∨ m.pa + t.len ≤ r.pa) →
      hbmBase d ≤ x → x + t.len ≤ hbmBase d + hbmSize d → x % 2 ^ m.pageLog = 0 →
      (∀ r ∈ s.keyedFrames, x + t.len ≤ r.pa ∨ r.pa + r.len ≤ x) →
      e.fcode = 0 ∧ e.done = t.len ∧ e.foff = 0xFFFFFFFF ∧
      (s.firstPoison m.pa t.len = none → e.poff = 0xFFFFFFFF) ∧
      ∃ q ∈ (u.app t.app).maps, q.va = lo ∧ q.pages = m.pages ∧ q.attr = m.attr ∧ q.inTier code = true ∧
        (t.ctl.getLsbD 19 = true → ∀ i < t.len, mget unlistedByte u.mem (q.pa + i) = mget unlistedByte s.mem (m.pa + i))) := by
  intro e u ms lo hi code
  refine ⟨fun none_ => congrArg Prod.snd (tierDone_empty none_), fun m len part => congrArg Prod.snd (tierDone_part len part),
    fun len whole hole page => congrArg Prod.snd (tierDone_hole len whole hole page), fun whole inTier => ?_, ?moves⟩
  · have done : (t.len ≠ 0 → e = { done := t.len }) ∧ (s.tierDone t).1 = s := by
      by_cases len : t.len = 0
      · exact ⟨fun no => absurd len no, congrArg Prod.fst (tierDone_empty len)⟩
      · have done := tierDone_walk len whole (tierWalk_inTier inTier _ _ (Nat.le_refl _))
        exact ⟨fun _ => congrArg Prod.snd done, congrArg Prod.fst done⟩
    obtain ⟨end_, same⟩ := done
    have finished : u = s.finish t e := congrArg (fun y : State => y.finish t e) same
    have writes := State.Writes.refl (regs := True) t.hart s
    rw [finished]
    exact ⟨end_, finish_maps writes, fun p => mget_finish writes⟩
  case moves =>
    intro m x d ok hd tier page whole4 whole carved found from_ to_ unit away up left above below aligned free
    have size : m.pages * 4096 = t.len := by
      rw [Mapping.top, from_] at to_
      omega
    obtain ⟨n, steps⟩ : ∃ n, t.len / 4096 = n + 1 := ⟨t.len / 4096 - 1, by omega⟩
    rw [← size] at left below free
    obtain ⟨v, q, walk, hq, va, pages, attr, inTier, bytes⟩ := tierWalk_one (t := t) (hi := hi) ok hd (show lo < hi by omega) rfl carved found
      from_ to_ unit (by rw [← tier]; exact away) up left above below aligned free n
    have walk' : s.tierWalk t (s.tierCode (t.ctl.toNat % 256)) (t.src.toNat + t.len) (t.len / 4096) t.src.toNat =
        (v, none, s.firstPoison m.pa (m.pages * 4096)) := by
      rw [steps, show s.tierCode (t.ctl.toNat % 256) = 0x10 + d from tier]
      exact walk
    have done := tierDone_whole (by omega) whole walk'
    have end_ : e = { done := t.len, poff := (s.firstPoison m.pa (m.pages * 4096)).getD 0xFFFFFFFF } := congrArg Prod.snd done
    have first : (s.tierDone t).1 = v := congrArg Prod.fst done
    have finished : u = v.finish t e := congrArg (fun y : State => y.finish t e) first
    rw [end_]
    refine ⟨rfl, rfl, rfl, fun clean => ?_, q, ?_, va.trans from_, pages, attr, ?_, fun norec i hi => ?_⟩
    · rw [size, clean]
      rfl
    · have maps : ((v.finish t e).app t.app).maps = (v.app t.app).maps := finish_maps (.refl (regs := True) t.hart v) t.app
      rw [finished, maps]
      exact hq
    · rw [tier]
      exact inTier
    · rw [finished, finish_mem_norec v norec]
      exact bytes i (size.symm ▸ hi)

end Sys2Proof.Machine
end

section
/-! The settled obligation. -/

namespace Sys2Proof.Machine

/-- Settles O38: a transfer's effect (`memDone`, `regsDone`, `tierDone`) changes the machine as `Works` says, and its end posts the record
(`retired_finish`, `retire_quiet`); arrivals by `landNow_eq` and `arriveNow_eq`, queues by `nextRec`. -/
theorem transferRecords : Obligations.TransferRecords := by
  unfold Obligations.TransferRecords
  refine ⟨?retires, ?fields, ?lands, ?arrives, fun s none => exec_retire_none none, ?parks, ?xferc, ?noTarget, ?words, ?queues⟩
  case retires =>
    intro s t found h1 h2 sf n open_
    have runs := exec_retire_one found h1 h2
    by_cases regs : t.op = 3 ∨ t.op = 5
    · have fills := regsDone_fills s t
      have quiet := retire_quiet (e := (s.regsDone t).2) (fills.writes t.hart) fun p _ => by rw [fills.frame]
      refine ⟨_, (s.regsDone t).2, by rw [runs, retireOne_regsDone open_ regs], retired_finish (fills.works t.hart), fun _ => quiet,
        by omega, by omega, ?reads, ?landed, ?came, by omega⟩
      case reads =>
        rintro es flt (⟨op, -⟩ | ⟨op, -⟩) <;> omega
      case landed =>
        intro z _ landed
        rw [regsDone_landed landed]
        exact ⟨rfl, finish_sameRegs (.refl t.hart True s)⟩
      case came => exact fun a _ out came => regsDone_came out came
    have h3 : t.op ≠ 3 := fun h => regs (.inl h)
    have h5 : t.op ≠ 5 := fun h => regs (.inr h)
    by_cases h9 : t.op = 9
    · have works := tierDone_works (i := t.hart) (regs := True) s t
      refine ⟨_, (s.tierDone t).2, by rw [runs, retireOne_tier open_ h9], retired_finish works, fun no => absurd h9 no,
        fun _ _ => finish_sameRegs works, by omega, ?reads, by omega, by omega, fun _ => tierDone_clauses s t⟩
      case reads =>
        rintro es flt (⟨op, -⟩ | ⟨op, -⟩) <;> omega
    by_cases reads : t.op = 4 ∨ t.early = 0
    · have writes := memDone_writes s t t.count (s.memEls t).1 (s.memEls t).2
      have quiet := retire_quiet (e := (s.memDone t t.count (s.memEls t).1 (s.memEls t).2).2) writes fun p out =>
        memDone_kept h3 h5 (memEls_length s t) out
      refine ⟨_, _, by rw [runs, retireOne_mem open_ h3 h5 h9 reads], retired_finish writes.toWorks, fun _ => quiet,
        fun _ _ => finish_sameRegs writes.toWorks, by omega, ?reads, by omega, by omega, by omega⟩
      case reads =>
        intro es flt read
        have els : s.memEls t = (es, flt) := by
          rw [State.memEls]
          rcases read with ⟨op, -, read⟩ | ⟨op, rfl, rfl⟩
          · rw [if_neg (by omega)]
            exact read
          · exact if_pos op
        have le : es.length ≤ t.count := by
          have := memEls_length s t
          rwa [els] at this
        rw [els]
        exact memDone_clauses le
    · have writes := State.Writes.refl (regs := True) t.hart s
      have h4 : t.op ≠ 4 := fun h => reads (.inl h)
      have early : t.early ≠ 0 := fun h => reads (.inr h)
      refine ⟨_, { fcode := t.early, foff := 0 }, by rw [runs, retireOne_early open_ h3 h5 h4 h9 early], retired_finish writes.toWorks,
        fun _ => retire_quiet writes fun _ _ => rfl, fun _ _ => finish_sameRegs writes.toWorks, fun _ _ => ⟨rfl, fun p => mget_finish writes⟩,
        ?reads, by omega, by omega, by omega⟩
      case reads =>
        rintro es flt (⟨-, zero, -⟩ | ⟨op, -⟩)
        · exact absurd zero early
        · exact absurd op h4
  case fields =>
    intro s t h es found op out all foundHart one inOrder typed sf df n g event len reads good c
    obtain ⟨v, fmt, elems, fcode, done, foff, poff, q, hq, regs⟩ := landXferv_ok one inOrder len reads typed good foundHart
    have land : s.landAll t = s.landXferv t := by
      rw [State.landAll, all]
      exact if_pos op
    by_cases first : s.inp.k = 1
    · refine ⟨v, _, _, fmt, elems, fcode, done, foff, poff, exec_retire_land found first, ⟨q, ?_, regs⟩, fun _ => ?_,
        fun no => absurd first no⟩
      · rw [landNow_eq (.inl op) out, land]
        exact hq
      · have landed := landNow_landed (s := s) (.inl op) out
        rwa [land] at landed
    · obtain ⟨h2, open_⟩ := event.resolve_left first
      have regsDone : s.regsDone t = s.landXferv t := by rw [State.regsDone, out]; exact land
      have runs := retireOne_regsDone open_ (.inl op)
      rw [regsDone] at runs
      obtain ⟨g', hg', -, same⟩ := told_hartOf (e := (s.landXferv t).2) hq
      refine ⟨v, (s.landXferv t).2, (s.landXferv t).1.finish t (s.landXferv t).2, fmt, elems, fcode, done, foff, poff,
        by rw [exec_retire_one found first h2, runs], ⟨g', (finish_hartOf ..).trans hg', ?_⟩, fun yes => absurd yes first, fun _ => ?_⟩
      · rw [same]
        exact regs
      · exact retired_finish ((landXferv_fills s t).works t.hart)
  case lands =>
    intro s t found one
    refine ⟨fun idle => by rw [exec_retire_land found one, landNow_idle idle],
      fun regs out => ⟨_, (s.landAll t).2, exec_retire_land found one, ?_⟩⟩
    exact landNow_landed regs out
  case arrives =>
    intro s t a f found two
    refine ⟨fun idle => by rw [exec_retire_arrive found two, arriveNow_idle idle], fun regs out fills next => ?_⟩
    have eq := arriveNow_eq regs out next
    have frame := (bringIn_fills s t (a.more s.tick)).frame
    have more : (a.more s.tick).got = a.got + 64 * (1 + Config.moreGroups s.tick) := rfl
    refine ⟨_, a.more s.tick, exec_retire_arrive found two, rfl, by omega, by omega, ?frame, fun h hf => ?_⟩
    case frame =>
      rw [eq]
      exact congrArg (fun y : State => { y with
        transfers := s.transfers.map fun x : Transfer => if x.id = t.id then { x with came := some (a.more s.tick) } else x }) frame
    have filled (w : Nat) := mget_filled h f.2.1 t.grant a.regs (fun j => (a.more s.tick).got - t.fieldOff j) w
    refine ⟨{ h with v := h.filled f.2.1 t.grant a.regs fun j => (a.more s.tick).got - t.fieldOff j },
      by rw [eq]; exact bringIn_hartOf fills hf, rfl, fun w hw => (filled w).trans (if_neg (by omega)), fun j hj => ?_⟩
    refine (filled _).trans ((if_pos (by omega)).trans ?_)
    rw [Nat.add_sub_cancel_left]
    rfl
  case parks =>
    intro s t found h1 h2 parks
    rw [exec_retire_one found h1 h2, State.retireOne]
    exact congrArg _ (if_pos parks)
  case xferc =>
    intro s t h found op h1 h2 out all early target runs turn own norec others run unsaved
    refine ⟨(h.putRegs t).v, ?_, fun k hk => ?_, fun w hw => ?_⟩
    · rw [exec_retire_one found h1 h2, retireOne_xferc op out all early target runs turn own norec others run unsaved]
    · rw [mget_putRegs, if_pos (by omega), Nat.add_sub_cancel_left]
    · rw [mget_putRegs, if_neg (by omega)]
  case noTarget =>
    intro s t found op h1 h2 open_ out all gone
    have done : s.regsDone t = (s, { fcode := 0x12, foff := 0 }) := by
      rw [State.regsDone, out]
      dsimp only
      rw [State.landAll, all]
      dsimp only
      rw [State.land, if_neg (by omega), landXferc_gone gone]
    have runs := retireOne_regsDone open_ (.inr op)
    rw [done] at runs
    exact ⟨_, by rw [exec_retire_one found h1 h2, runs], retired_finish (.refl t.hart True s), finish_sameRegs (.refl t.hart True s)⟩
  case words =>
    intro k status op fcode tag done foff poff hs ho hf ht hd hfo hp
    obtain ⟨phase, st, o, f, tg, d⟩ := recWords_low (k := k) (foff := foff) (poff := poff) hs ho hf ht hd
    obtain ⟨fo, po⟩ := recWords_high (k := k) (status := status) (op := op) (fcode := fcode) (tag := tag) (done := done) hfo hp
    exact ⟨phase, st, o, f, tg, d, fo, po⟩
  case queues =>
    intro s d a r q gets took
    refine ⟨fun out posted => ?_, fun none_ => ?_, fun out open_ => ?_⟩
    · have next := nextRec_posted out posted
      exact ⟨xwait_takes next, xpoll_takes (by rw [next])⟩
    · have next := nextRec_empty none_
      exact ⟨xwait_takes next, xpoll_takes (by rw [next])⟩
    · have next := nextRec_open out open_
      exact ⟨xwait_waits next, xpoll_takes (by rw [next])⟩

end Sys2Proof.Machine
end

section
/-! SUPPORT. Vectors expanded and encoded again (R375 to R378): the encoding chosen, the word of a descriptor, and the indices at which
neighbouring elements differ. -/

namespace Sys2Proof.Machine

variable {s t : State}

/-! ### The encoding chosen (R376) -/

/-- A DICT and a DELTA carry their encodings, with the tag and the elements given. -/
theorem dictVec_some {f : Fmt} {els : List Nat} {v : Vec} (h : dictVec f els = some v) :
    v.enc = .dict ∧ v.elems = els ∧ v.fmt = f := by
  obtain ⟨-, e⟩ := Option.ite_none_left_eq_some.mp h
  cases e
  exact ⟨rfl, rfl, rfl⟩

theorem deltaVec_some {f : Fmt} {els : List Nat} {v : Vec} (h : deltaVec f els = some v) :
    v.enc = .delta ∧ v.elems = els ∧ v.fmt = f := by
  obtain ⟨wid, rfl⟩ : ∃ wid, v = deltaVecAt f els wid := by
    rw [deltaVec] at h
    split at h
    · cases h
    split at h
    · exact ⟨0, (Option.some.inj h).symm⟩
    split at h
    · exact ⟨1, (Option.some.inj h).symm⟩
    split at h
    · exact ⟨2, (Option.some.inj h).symm⟩
    · cases h
  exact ⟨rfl, rfl, rfl⟩

/-- A vector in a named encoding carries it, with the tag and the elements given. -/
theorem encodeAs_some {e : Enc} {f : Fmt} {els : List Nat} {w : Vec} (h : encodeAs e f els = some w) :
    w.enc = e ∧ w.elems = els ∧ w.fmt = f := by
  have kept {v : Vec} (h : (if v.fit.enc = e then some v else none) = some w) : v = w :=
    Option.some.inj (Option.ite_none_right_eq_some.mp h).2
  cases e with
  | plain => cases h; exact ⟨rfl, rfl, rfl⟩
  | runs => cases kept h; exact ⟨rfl, rfl, rfl⟩
  | dict =>
    rw [encodeAs] at h
    split at h
    · next v made => cases kept h; exact dictVec_some made
    · cases h
  | delta =>
    rw [encodeAs] at h
    split at h
    · next v made => cases kept h; exact deltaVec_some made
    · cases h

/-- What VENC makes of a plain vector: itself, or the encoding asked for. -/
theorem venc_result (e : Enc) (f : Fmt) (els : List Nat) {p : Vec} (elems : p.elems = els) (fmt : p.fmt = f) :
    let w := ((encodeAs e f els).filter fun w => decide (w.enc ≠ .plain)).getD p
    (w = p ∨ (w.enc = e ∧ w.enc ≠ .plain)) ∧ w.elems = els ∧ w.fmt = f := by
  intro w
  cases made : (encodeAs e f els).filter fun w => decide (w.enc ≠ .plain) with
  | none =>
    have same : w = p := by simp only [w, made, Option.getD_none]
    rw [same]
    exact ⟨.inl rfl, elems, fmt⟩
  | some u =>
    have same : w = u := by simp only [w, made, Option.getD_some]
    obtain ⟨hu, coded⟩ := Option.filter_eq_some_iff.mp made
    obtain ⟨enc, elems, fmt⟩ := encodeAs_some hu
    rw [same]
    exact ⟨.inr ⟨enc, of_decide_eq_true coded⟩, elems, fmt⟩

/-! ### A vector read, expanded and written (R375, R376, R378) -/

theorem reencode_ok {out : VRun} {k : Hart → Vec → Vec × Nat} {d a : Reg} {v : Vec}
    (iss : s.issues [s.hart.ownRun a.toNat] [out] 0 t) (read : t.hart.readRun (t.hart.ownRun a.toNat) = .ok v) :
    s.reencode out k d a =
      .ok { t with hart := { t.hart.writeOwn d.toNat (k t.hart v).1 with vl := (k t.hart v).2 } } := by
  have ready := iss.1
  rw [State.reencode]
  simp only [ready]
  refine issues_ok iss ?_
  simp only [read]

/-- A vector written leaves VL. -/
theorem writeOwn_vl (h : Hart) (d : Nat) (v : Vec) : { h.writeOwn d v with vl := h.vl } = h.writeOwn d v := by
  unfold Hart.writeOwn
  dsimp only
  split <;> rfl

/-! ### Boundaries (R378) -/

/-- The changes of a list are the indices whose element differs from the one before. -/
theorem changes_eq (pos : Nat) : ∀ l : List Nat, changes l pos =
    ((List.range (l.length - 1)).filter fun k => decide (l.getD (k + 1) 0 ≠ l.getD k 0)).map (· + 1 + pos)
  | [] => rfl
  | [_] => rfl
  | x :: y :: xs => by
    have rest := changes_eq (pos + 1) (y :: xs)
    have shift : (fun k => decide ((x :: y :: xs).getD (k + 1) 0 ≠ (x :: y :: xs).getD k 0)) ∘ Nat.succ =
        fun k => decide ((y :: xs).getD (k + 1) 0 ≠ (y :: xs).getD k 0) := rfl
    have moved : (fun k => k + 1 + pos) ∘ Nat.succ = fun k => k + 1 + (pos + 1) := funext fun k => by
      simp only [Function.comp_apply]
      omega
    rw [changes, rest, show (x :: y :: xs).length - 1 = (y :: xs).length - 1 + 1 from rfl, List.range_succ_eq_map,
      List.filter_cons, List.filter_map, shift]
    have first : decide ((x :: y :: xs).getD (0 + 1) 0 ≠ (x :: y :: xs).getD 0 0) = decide (y ≠ x) := rfl
    rw [first]
    by_cases same : x = y
    · rw [if_pos same, if_neg (by simp [same]), List.map_map, moved]
    · rw [if_neg same, if_pos (by simp [Ne.symm same]), List.map_cons, List.map_map, moved, Nat.zero_add, Nat.add_comm pos 1]

/-- The same of a list cut or filled to `n` elements. -/
theorem changes_fitLen (n : Nat) (l : List Nat) : changes (fitLen n l) 0 =
    (List.range n).filter fun k => decide (0 < k) && decide (l.getD k 0 ≠ l.getD (k - 1) 0) := by
  rw [changes_eq, fitLen_length]
  cases n with
  | zero => rfl
  | succ n =>
    rw [List.range_succ_eq_map, List.filter_cons_of_neg (by simp), List.filter_map, Nat.add_sub_cancel]
    refine congrArg (List.map _) (List.filter_congr fun k hk => ?_)
    have below := List.mem_range.mp hk
    rw [getD_fitLen l (by omega), getD_fitLen l (by omega)]
    simp

/-! ### The word of a descriptor (R123) -/

theorem Fmt.code_lt (f : Fmt) : f.code < 2 ^ 6 := by cases f <;> decide

theorem Enc.code_lt (e : Enc) : e.code < 4 := by cases e <;> decide

/-- The fields of a word packed from bit 0 up. -/
theorem desc_fields {c f l n w g b : Nat} (hc : c < 4) (hf : f < 2 ^ 6) (hl : l < 2 ^ 13) (hn : n < 2 ^ 13) (hw : w < 4) (hg : g < 4)
    (hb : b < 2) :
    let x := c + f * 2 ^ 2 + l * 2 ^ 8 + n * 2 ^ 21 + w * 2 ^ 34 + g * 2 ^ 36 + b * 2 ^ 38
    x < 2 ^ 39 ∧ x % 4 = c ∧ bitsAt x 2 6 = f ∧ bitsAt x 8 13 = l ∧ bitsAt x 21 13 = n ∧ bitsAt x 34 2 = w ∧ bitsAt x 36 2 = g ∧
      x / 2 ^ 38 % 2 = b := by
  simp only [bitsAt]
  omega

/-- An instruction that gives a register a value and does nothing else. -/
theorem yieldsX_of {i : Instr} {d : Reg} {v : Word} (runs : exec i s = complete i s (.ok (s.wx d v))) : s.yieldsX i d v := by
  refine ⟨_, runs, fun r => rx_wx s d r v, ?_⟩
  simp only [State.ended, State.wx, Hart.retire_x, Hart.wx_pc]
  rw [← Hart.wx_frame]

end Sys2Proof.Machine
end

section
/-! The settled obligation. -/

namespace Sys2Proof.Machine

/-- Settles O26: each result is that of `reencode_ok`, VENC's by `venc_result`, VRUNEND's list by `changes_fitLen`; a descriptor's word is
the sum of its fields (`desc_fields`). -/
theorem encodings : Obligations.Encodings := by
  unfold Obligations.Encodings
  constructor
  case left =>
    intro s t d a b v read h exp
    refine ⟨fun iss => ⟨?decoded, fun narrow => writeOwn_plain h _ narrow _ _, ?encoded⟩, ?runEnds⟩
    case decoded =>
      refine endsWith_of rfl ((reencode_ok iss read).trans ?_)
      exact congrArg (fun g : Hart => Except.ok { t with hart := g }) (writeOwn_vl h _ _)
    case encoded =>
      obtain ⟨which, elems, fmt⟩ := venc_result (p := exp) (Enc.ofCode ((s.rx b).toNat % 4)) v.fmt exp.elems rfl rfl
      refine ⟨_, endsWith_of rfl ((reencode_ok iss read).trans ?_), which, elems, fmt⟩
      exact congrArg (fun g : Hart => Except.ok { t with hart := g }) (writeOwn_vl h _ _)
    case runEnds =>
      intro iss legal fmt plain el ends ix
      have found : v.boundaries h.vl = ends := by
        rw [Vec.boundaries]
        by_cases none_ : h.vl = 0
        · simp [ends, none_]
        · rcases plain with e | e <;> simp only [e, none_, if_false, changes_fitLen, ends, el]
      refine endsWith_of rfl ?_
      rw [legal, Bool.not_true, if_neg Bool.false_ne_true, reencode_ok iss read]
      show Except.ok { t with hart := { h.writeOwn d.toNat (plainVec h.fmt ((v.boundaries h.vl).take _)) with
        vl := ((v.boundaries h.vl).take _).length } } = _
      rw [found, writeOwn_plain h _ le_rfl]
  case right =>
    intro s d a e ready
    refine ⟨yieldsX_of ?_, fun len cnt wid grec => ?_⟩
    · show complete _ s (match s.vecReady [(a.toNat, 1)] [] 0 with | .error e => .error e | .ok _ => _) = _
      rw [ready]
    · have tag : (if e.untyped then 0x3F else e.fmt.code) < 2 ^ 6 := by
        split
        · decide
        · exact Fmt.code_lt _
      obtain ⟨small, fields⟩ := desc_fields (Enc.code_lt e.enc) tag len cnt wid grec (Bool.toNat_lt e.cont)
      have word := (BitVec.toNat_ofNat _ 64).trans (Nat.mod_eq_of_lt (small.trans (by decide)))
      have whole : e.word.toNat = _ := word
      rw [whole]
      obtain ⟨enc, fmt, len, cnt, wid, grec, cont⟩ := fields
      refine ⟨enc, fmt, len, cnt, wid, grec, ?_, small⟩
      rw [bitAt, cont]
      cases e.cont <;> rfl

end Sys2Proof.Machine
end

section
/-! SUPPORT. Vector stores (R279, R388, R389): the request of each form, what memory holds after the elements are written, and what else
a store may change. -/

namespace Sys2Proof.Machine

variable {s t u : State} {f : Fmt} {sc : List Nat} {es : List SElem}

/-! ### The instructions -/

/-- The offsets of a strided access; the model's list of indices is cast. -/
theorem strideOffs_eq (vl : Nat) (r : Word) : strideOffs vl r = (List.range vl).map fun (k : Nat) => (k : Int) * r.toInt := by
  have casts (l : List Nat) : (l >>= fun i => pure (i : Int)) = l.map Nat.cast := bind_pure_comp _ _
  show List.map _ (List.range vl >>= fun i => pure (i : Int)) = _
  rw [casts, List.map_map]
  rfl

theorem storeWith_ok {more : List VRun} {d : Reg} {m : BitVec 2} {mk : State → Except Stop StoreReq}
    {k : State → StoreReq → Vec → Except Stop State} {q : StoreReq} {v : Vec}
    (iss : s.issues (s.hart.ownRun d.toNat :: more) [] m.toNat t) (read : t.hart.readRun (t.hart.ownRun d.toNat) = .ok v)
    (asked : mk t = .ok q) (goes : k t q v = .ok u) : s.storeWith more d m mk k = .ok u := by
  have ready := iss.1
  rw [State.storeWith]
  simp only [ready]
  refine issues_ok iss ?_
  simp only [read, asked, goes]

theorem indices_tagged {h : Hart} {n : Nat} {ix : Vec} (read : h.tagged n Fmt.isIndex = .ok ix) :
    h.indices n = .ok ((fitLen h.vl ix.elems).map ix.fmt.toInt) := by
  rw [Hart.indices, read]

/-- The request of a store at offsets from a base (R369). -/
def atOffs (base : Word) (offs : List Int) : StoreReq := ⟨false, base, offs.map (plusOff base)⟩

theorem indexReq_ok {a b : Reg} {ix : Vec} (read : t.hart.tagged b.toNat Fmt.isIndex = .ok ix) :
    t.indexReq a b = .ok (atOffs (t.rx a) ((fitLen t.hart.vl ix.elems).map ix.fmt.toInt)) := by
  rw [State.indexReq, indices_tagged read]
  rfl

theorem storeGo_ok {q : StoreReq} {v : Vec} {m : BitVec 2} (check : t.storeCheck q v m = .ok es) :
    ∃ u, t.storesAs u v.fmt v.scales es ∧ t.storeGo q v m = .ok u := by
  refine ⟨_, rfl, ?_⟩
  rw [State.storeGo, check]

/-- A store that passes its checks writes its elements and goes on (R388). -/
theorem store_ends {i : Instr} {more : List VRun} {d : Reg} {m : BitVec 2} {mk : State → Except Stop StoreReq}
    {k : State → StoreReq → Vec → Except Stop State} {q r : StoreReq} {v : Vec}
    (runs : exec i s = complete i s (s.storeWith more d m mk k))
    (iss : s.issues (s.hart.ownRun d.toNat :: more) [] m.toNat t) (read : t.hart.readRun (t.hart.ownRun d.toNat) = .ok v)
    (asked : mk t = .ok q) (goes : k t q v = t.storeGo r v m) (check : t.storeCheck r v m = .ok es) :
    ∃ u, t.storesAs u v.fmt v.scales es ∧ exec i s = .next (s.ended u (u.hart.pc + 4)) := by
  obtain ⟨u, stored, hu⟩ := storeGo_ok check
  refine ⟨u, stored, ?_⟩
  rw [runs, storeWith_ok iss read asked (goes.trans hu)]
  rfl

/-- VSC writes the elements that succeed, and p0 says which (R389). -/
theorem vsc_ends {d a b : Reg} {m : BitVec 2} {v ix : Vec} (iss : s.issues [s.hart.ownRun d.toNat, s.hart.tagRun b.toNat] [] m.toNat t)
    (read : t.hart.readRun (t.hart.ownRun d.toNat) = .ok v) (indexed : t.hart.tagged b.toNat Fmt.isIndex = .ok ix)
    (check : t.storeCheck (atOffs (t.rx a) ((fitLen t.hart.vl ix.elems).map ix.fmt.toInt)) v m = .ok es) :
    let wins := es.filter fun e => (t.storeFault v.fmt.bytes e.va).isNone && t.scWins es e
    let bad := es.filter fun e => (t.storeFault v.fmt.bytes e.va).isSome
    let u := (t.putElems v.fmt v.scales wins).addFaults 0 (bad.map fun e => (e.idx, e.va, Cause.storefault.code))
    s.endsWith (.vsc d a b m) u (u.hart.setPred 0 ((wins.map fun e => 2 ^ e.idx).sum)) := by
  intro wins bad u
  refine endsWith_of rfl (storeWith_ok iss read (indexReq_ok indexed) ?_)
  rw [State.scGo, check]

/-- An element of a VSC succeeds where its line is linked and no earlier element names its address (R216, R389). -/
theorem scWins_iff (t : State) (es : List SElem) (e : SElem) : t.scWins es e = true ↔
    t.storeFault 1 e.va = none ∧ t.physOf e.va / 64 ∈ t.hart.links ∧ ∀ g ∈ es, g.idx < e.idx → g.va ≠ e.va := by
  simp [State.scWins, and_assoc]

/-! ### Where the cells lie -/

theorem mem_cellsLE {c : Nat × Nat} : ∀ {n pa v : Nat}, c ∈ cellsLE pa n v → pa ≤ c.1 ∧ c.1 < pa + n
  | n + 1, pa, v, m => by
    rcases List.mem_cons.mp m with rfl | m
    · exact ⟨le_rfl, by simp⟩
    · obtain ⟨lo, hi⟩ := mem_cellsLE m
      omega

/-- Each cell of a run of 4-bit elements lies at one of them. -/
theorem mem_nibbleCells {c : Nat × Nat} : ∀ {es : List SElem} {cs : List (Nat × Nat)},
    c ∈ es.foldl (fun c e => t.putNibble c (t.physOf e.va) (decide (e.idx % 2 = 1)) e.val) cs → c ∈ cs ∨ ∃ e ∈ es, c.1 = t.physOf e.va
  | [], _, m => .inl m
  | e :: es, cs, m => by
    rcases mem_nibbleCells (es := es) m with m | ⟨g, hg, at_⟩
    · rcases List.mem_cons.mp m with rfl | m
      · exact .inr ⟨e, List.mem_cons_self .., rfl⟩
      · exact .inl m
    · exact .inr ⟨g, List.mem_cons_of_mem _ hg, at_⟩

/-- Each cell of a plain store lies in one of its elements. -/
theorem mem_elemCells {c : Nat × Nat} (m : c ∈ t.elemCells f es) :
    ∃ e ∈ es, t.physOf e.va ≤ c.1 ∧ c.1 < t.physOf e.va + f.bytes := by
  have some_ : 1 ≤ f.bytes := Nat.le_max_left ..
  rw [State.elemCells] at m
  split at m
  · rcases mem_nibbleCells (List.mem_reverse.mp m) with m | ⟨e, he, at_⟩
    · exact absurd m List.not_mem_nil
    · exact ⟨e, he, by omega⟩
  · obtain ⟨e, he, m⟩ := List.mem_flatMap.mp m
    exact ⟨e, he, mem_cellsLE m⟩

/-- Each scale byte is that of an element's block (R170). -/
theorem mem_scaleCells {c : Nat × Nat} : ∀ {es : List SElem} {last : Option Nat}, c ∈ t.scaleCells f sc es last →
    ∃ e ∈ es, c.1 = t.physOf (blkScale f e.va)
  | [], _, m => absurd m List.not_mem_nil
  | e :: es, last, m => by
    have later {last : Option Nat} (m : c ∈ t.scaleCells f sc es last) : ∃ g ∈ e :: es, c.1 = t.physOf (blkScale f g.va) := by
      obtain ⟨g, hg, at_⟩ := mem_scaleCells m
      exact ⟨g, List.mem_cons_of_mem _ hg, at_⟩
    rw [State.scaleCells] at m
    split at m
    · exact later m
    · rcases List.mem_cons.mp m with rfl | m
      · exact ⟨e, List.mem_cons_self .., rfl⟩
      · exact later m

/-! ### What a store to plain pages leaves -/

/-- The cells that a store of elements on plain pages writes. -/
def State.storeCells (t : State) (f : Fmt) (sc : List Nat) (es : List SElem) : List (Nat × Nat) :=
  t.elemCells f es ++ (if f.isMx then t.scaleCells f sc es none else [])

theorem putElems_plain (plain : ∀ e ∈ es, t.onEncoded e = false) :
    t.putElems f sc es = (t.writePhys true (t.storeCells f sc es)).dropOld (es.map SElem.va) := by
  have none_ : es.filter t.onEncoded = [] := List.filter_eq_nil_iff.mpr fun e he => by simp [plain e he]
  have all : es.filter (fun e => !t.onEncoded e) = es := List.filter_eq_self.mpr fun e he => by simp [plain e he]
  rw [State.putElems]
  simp only [none_, all]
  rfl

/-- Hart `g` is `h` but for records, links and samples. -/
def Hart.StoreOf (h g : Hart) : Prop := g = { h with sfrq := g.sfrq, links := g.links, samples := g.samples }

theorem Hart.StoreOf.trans {h g k : Hart} (a : h.StoreOf g) (b : g.StoreOf k) : h.StoreOf k :=
  Eq.trans b (congrArg (fun y : Hart => { y with sfrq := k.sfrq, links := k.links, samples := k.samples }) a)

theorem breakLinks_storeOf (h : Hart) (lines : List Nat) : h.StoreOf (h.breakLinks false lines) := by
  unfold Hart.breakLinks Hart.StoreOf
  split
  · simp only [Bool.or_false]
  · rfl

theorem dropStale_storeOf (s : State) (vas : List Nat) (h : Hart) : h.StoreOf (vas.foldl s.dropStale h) := by
  rw [Hart.StoreOf, foldl_dropStale_eq]

theorem addRec_storeOf : ∀ (rs : List SfrqRec) (h : Hart), h.StoreOf (rs.foldl Hart.addRec h)
  | [], _ => rfl
  | r :: rs, h => by
    have one : h.StoreOf (h.addRec r) := by
      unfold Hart.addRec
      split <;> rfl
    exact one.trans (addRec_storeOf rs _)

section
variable (stored : t.storesAs u f sc es) (plain : ∀ e ∈ es, t.onEncoded e = false)
include stored plain

/-- The elements that do not fault, as one write, the samples it drops, and the records of the others (R279). -/
theorem storesAs_plain : u = ((t.writePhys true (t.storeCells f sc (es.filter fun e => (t.storeFault f.bytes e.va).isNone))).dropOld
    ((es.filter fun e => (t.storeFault f.bytes e.va).isNone).map SElem.va)).addFaults 0
      ((es.filter fun e => (t.storeFault f.bytes e.va).isSome).map fun e => (e.idx, e.va, Cause.storefault.code)) := by
  rw [← putElems_plain fun e he => plain e (List.mem_filter.mp he).1]
  exact stored

theorem storesAs_mem : u.mem = putCells t.mem (t.storeCells f sc (es.filter fun e => (t.storeFault f.bytes e.va).isNone)) := by
  rw [storesAs_plain stored plain]
  rfl

theorem storesAs_restKept : t.restKept u f es := by
  intro p out
  rw [storesAs_mem stored plain]
  refine mget_putCells_of_not_mem p _ _ fun c hc at_ => ?_
  rcases List.mem_append.mp hc with m | m
  · obtain ⟨e, he, within⟩ := mem_elemCells m
    exact (out e (List.mem_filter.mp he).1).1 (at_ ▸ within)
  · split at m
    · next mx =>
      obtain ⟨e, he, scale⟩ := mem_scaleCells m
      exact (out e (List.mem_filter.mp he).1).2 mx (at_.symm.trans scale)
    · exact absurd m List.not_mem_nil

theorem storesAs_frame : u = { t with mem := u.mem, poison := u.poison, others := u.others,
                                      hart := { t.hart with sfrq := u.hart.sfrq, links := u.hart.links, samples := u.hart.samples } } := by
  have e := storesAs_plain stored plain
  have hart : t.hart.StoreOf u.hart := by
    rw [e]
    exact ((breakLinks_storeOf t.hart _).trans (dropStale_storeOf _ _ _)).trans (addRec_storeOf _ _)
  have rest : u = { t with mem := u.mem, poison := u.poison, others := u.others, hart := u.hart } := by
    rw [e]
    rfl
  exact rest.trans (congrArg (fun y : Hart => { t with mem := u.mem, poison := u.poison, others := u.others, hart := y }) hart)

theorem storesAs_sfrq (fits : ∀ e ∈ es, t.storeFault f.bytes e.va = none) : u.hart.sfrq = t.hart.sfrq := by
  have none_ : (es.filter fun e => (t.storeFault f.bytes e.va).isSome) = [] :=
    List.filter_eq_nil_iff.mpr fun e he => by simp [fits e he]
  rw [storesAs_plain stored plain, none_]
  show (List.foldl _ (t.hart.breakLinks false _) _).sfrq = _
  rw [foldl_dropStale_eq, Hart.breakLinks]
  split <;> rfl

/-- An element that no later one overlaps reads back. -/
theorem storesAs_reads (mx : f.isMx = false) (whole : f.bits ≠ 4) {l r : List SElem} {e : SElem} (split_ : es = l ++ e :: r)
    (fits : t.storeFault f.bytes e.va = none)
    (apart : ∀ g ∈ r, t.physOf g.va + f.bytes ≤ t.physOf e.va ∨ t.physOf e.va + f.bytes ≤ t.physOf g.va) {k : Nat} (hk : k < f.bytes) :
    mget unlistedByte u.mem (t.physOf e.va + k) = BitVec.ofNat 8 (e.val / 256 ^ k) := by
  have cells : t.storeCells f sc (es.filter fun e => (t.storeFault f.bytes e.va).isNone) =
      (l.filter fun e => (t.storeFault f.bytes e.va).isNone).flatMap (fun e => cellsLE (t.physOf e.va) f.bytes e.val) ++
        (cellsLE (t.physOf e.va) f.bytes e.val ++
          (r.filter fun e => (t.storeFault f.bytes e.va).isNone).flatMap fun e => cellsLE (t.physOf e.va) f.bytes e.val) := by
    rw [State.storeCells, State.elemCells, if_neg whole, mx, if_neg Bool.false_ne_true, List.append_nil, split_, List.filter_append,
      List.filter_cons_of_pos (by simp [fits]), List.flatMap_append, List.flatMap_cons]
  rw [storesAs_mem stored plain, cells, putCells_append, putCells_append, mget_putCells_of_not_mem, mget_putCells_cellsLE,
    if_pos (by omega), Nat.add_sub_cancel_left]
  intro c hc at_
  obtain ⟨g, hg, m⟩ := List.mem_flatMap.mp hc
  have within := mem_cellsLE m
  have far := apart g (List.mem_filter.mp hg).1
  omega

end

end Sys2Proof.Machine
end

section
/-! The settled obligation. -/

namespace Sys2Proof.Machine

/-- Settles O29: a store that passes its checks ends as `store_ends` and `vsc_ends` say; on plain pages it is one write of cells
(`storesAs_mem`), which lie in its elements and their scales (`mem_elemCells`, `mem_scaleCells`). -/
theorem vectorStores : Obligations.VectorStores := by
  unfold Obligations.VectorStores
  refine ⟨?instructions, fun t u f sc es stored plain => ⟨storesAs_restKept stored plain, storesAs_frame stored plain,
    storesAs_sfrq stored plain, fun mx whole l r e split_ fits apart k hk => storesAs_reads stored plain mx whole split_ fits apart hk⟩,
    scWins_iff⟩
  intro s t d a b m v es h base at_ unit stores read
  refine ⟨fun iss => ⟨fun check => store_ends rfl iss read rfl rfl check, fun check => store_ends rfl iss read rfl rfl ?strided⟩, ?indexed⟩
  case strided =>
    rw [strideOffs_eq]
    exact check
  case indexed =>
    intro ix iss read' q
    exact ⟨fun check => store_ends rfl iss read (indexReq_ok read') rfl check, fun check => vsc_ends iss read read' check⟩

end Sys2Proof.Machine
end

section
/-! SUPPORT. A state in which the pops of a prefetch change the tag at which its index register is read. -/

namespace Sys2Proof.Machine

/-- The state after its pops is that in which an instruction that issues goes on. -/
theorem issues_popAll {s : State} {reads writes : List VRun} {m : Nat} (ready : s.vecReady reads writes m = .ok ())
    (free : (s.hart.popped reads).any s.popHeld = false) (faultless : (s.popAll reads).2.isNone = true) :
    s.issues reads writes m (s.popAll reads).1 := ⟨ready, free, Prod.ext rfl (Option.isNone_iff_eq_none.mp faultless)⟩

theorem ended_retired (s t : State) (pc : Word) : (s.ended t pc).hart.retired = t.hart.retired + 1 := rfl

/-- A hart whose list of streams has two entries under number 0, both with nothing left to pop: over w0 and w1 at I16, and over w0 at
I8. The second pop puts its own stream in the place of the first entry (R249). -/
def twiceBound : State :=
  { hart := { tvec := 1,
              streams := [(0, some { base := 0, stride := 0, count := 0, consumed := 0, fmt := .i16, reg := 0, g := 1 }),
                          (0, some { base := 0, stride := 0, count := 0, consumed := 0, fmt := .i8, reg := 0, g := 0 })] } }

/-- The state after the pops of a VPREF by v0. -/
def twicePopped : State := (twiceBound.popAll [twiceBound.hart.tagRun 0]).1

theorem twiceBound_issues : twiceBound.issues [twiceBound.hart.tagRun 0] [] 0 twicePopped :=
  issues_popAll rfl (by decide) (by decide +kernel)

/-- After the pops v0 reads at I8, over one register. -/
theorem twicePopped_reads : ∃ v, twicePopped.hart.readRun (twicePopped.hart.tagRun 0) = .ok v := by
  have good : (twicePopped.hart.readRun (twicePopped.hart.tagRun 0)).isOk = true := by decide +kernel
  revert good
  cases twicePopped.hart.readRun (twicePopped.hart.tagRun 0) with
  | error => exact fun bad => absurd bad Bool.false_ne_true
  | ok v => exact fun _ => ⟨v, rfl⟩

/-- The instruction reads w0 and w1, the run that it named at issue, whose tags now differ: it takes OPFMT and does not retire (R106). -/
theorem vpref_twiceBound {u : State} (runs : exec (.vpref 0 0 0) twiceBound = .next u) : u.hart.tcause = 2 ∧ u.hart.retired = 0 := by
  have traps : (match exec (.vpref 0 0 0) twiceBound with
      | .next u => decide (u.hart.tcause = 2 ∧ u.hart.retired = 0)
      | _ => false) = true := by decide +kernel
  rw [runs] at traps
  exact of_decide_eq_true traps

end Sys2Proof.Machine
end

section
/-! The settled obligation. -/

namespace Sys2Proof.Machine

/-- Refutes O28: that a VPREF ends well wherever its index register reads after the pops at the tag that it then has fails where the
list of streams has two entries under one number (`twiceBound`), since the run to read is fixed before the pops. -/
theorem not_vectorLoads : ¬ Obligations.VectorLoads := by
  unfold Obligations.VectorLoads
  rintro ⟨-, -, prefetch⟩
  obtain ⟨v, read⟩ := twicePopped_reads
  obtain ⟨w, ends⟩ := (prefetch twiceBound twicePopped 0 0 0 v).2 (by decide) twiceBound_issues read
  obtain ⟨-, retired⟩ := vpref_twiceBound ends
  rw [ended_retired] at retired
  exact Nat.succ_ne_zero _ retired

end Sys2Proof.Machine
end

section
/-! SUPPORT. Division and bit counts of the scalar instructions (R148, R321). -/

namespace Sys2Proof.Machine

/-! ### Quotients and remainders (R148) -/

/-- DIV: every bit set for a divisor of zero. -/
theorem udiv64_eq (a b : Word) : udiv64 a b = if b = 0 then BitVec.ofNat 64 (2 ^ 64 - 1) else BitVec.ofNat 64 (a.toNat / b.toNat) := by
  rw [udiv64, ← BitVec.toNat_udiv, BitVec.ofNat_toNat, BitVec.setWidth_eq]
  rfl

/-- REM: the dividend for a divisor of zero. -/
theorem urem64_eq (a b : Word) : urem64 a b = if b = 0 then a else BitVec.ofNat 64 (a.toNat % b.toNat) := by
  rw [urem64, ← BitVec.toNat_umod, BitVec.ofNat_toNat, BitVec.setWidth_eq]

/-- DIVN: −1 for a divisor of zero. -/
theorem sdiv64_eq (a b : Word) : sdiv64 a b = if b = 0 then BitVec.ofInt 64 (-1) else BitVec.ofInt 64 (a.toInt.tdiv b.toInt) := rfl

/-! ### Bit counts -/

/-- A bit of a register, counted in its number. -/
theorem bitAt_toNat_word (v : Word) (k : Nat) : bitAt v.toNat k = v.getLsbD k := by
  rw [bitAt, BitVec.getLsbD, Nat.testBit_eq_decide_div_mod_eq]

theorem clzN_le (x : Nat) : ∀ n, clzN n x ≤ n
  | 0 => Nat.le_refl 0
  | n + 1 => by
    rw [clzN]
    split
    · exact Nat.zero_le _
    · exact Nat.succ_le_succ (clzN_le x n)

/-- The bits above the highest set one are zero. -/
theorem bitAt_above_clzN (x : Nat) : ∀ n k, k < clzN n x → bitAt x (n - 1 - k) = false
  | 0, k, h => absurd h (Nat.not_lt_zero k)
  | n + 1, k, h => by
    rw [clzN] at h
    split at h
    · exact absurd h (Nat.not_lt_zero k)
    · next top =>
      cases k with
      | zero => exact Bool.eq_false_of_not_eq_true top
      | succ k =>
        rw [show n + 1 - 1 - (k + 1) = n - 1 - k by omega]
        exact bitAt_above_clzN x n k (Nat.lt_of_succ_lt_succ h)

/-- The bit at the count is set, where there is one. -/
theorem bitAt_clzN (x : Nat) : ∀ n, clzN n x < n → bitAt x (n - 1 - clzN n x) = true
  | 0, h => absurd h (Nat.not_lt_zero _)
  | n + 1, h => by
    rw [clzN] at h ⊢
    split
    · next top => exact top
    · next top =>
      rw [if_neg top] at h
      rw [show n + 1 - 1 - (clzN n x + 1) = n - 1 - clzN n x by omega]
      exact bitAt_clzN x n (Nat.lt_of_succ_lt_succ h)

theorem ctzN_le (x : Nat) : ∀ n j, ctzN n j x ≤ n
  | 0, _ => Nat.le_refl 0
  | n + 1, j => by
    rw [ctzN]
    split
    · exact Nat.zero_le _
    · exact Nat.succ_le_succ (ctzN_le x n (j + 1))

/-- The bits from j on below the lowest set one are zero. -/
theorem bitAt_below_ctzN (x : Nat) : ∀ n j k, k < ctzN n j x → bitAt x (j + k) = false
  | 0, _, k, h => absurd h (Nat.not_lt_zero k)
  | n + 1, j, k, h => by
    rw [ctzN] at h
    split at h
    · exact absurd h (Nat.not_lt_zero k)
    · next low =>
      cases k with
      | zero => exact Bool.eq_false_of_not_eq_true low
      | succ k =>
        rw [show j + (k + 1) = j + 1 + k by omega]
        exact bitAt_below_ctzN x n (j + 1) k (Nat.lt_of_succ_lt_succ h)

/-- The bit at the count is set, where there is one. -/
theorem bitAt_ctzN (x : Nat) : ∀ n j, ctzN n j x < n → bitAt x (j + ctzN n j x) = true
  | 0, _, h => absurd h (Nat.not_lt_zero _)
  | n + 1, j, h => by
    rw [ctzN] at h ⊢
    split
    · next low => exact low
    · next low =>
      rw [if_neg low] at h
      rw [show j + (ctzN n (j + 1) x + 1) = j + 1 + ctzN n (j + 1) x by omega]
      exact bitAt_ctzN x n (j + 1) (Nat.lt_of_succ_lt_succ h)

theorem popN_eq_length (x : Nat) : ∀ n, popN n x = ((List.range n).filter (bitAt x)).length
  | 0 => rfl
  | n + 1 => by
    rw [popN, popN_eq_length x n, List.range_succ, List.filter_append, List.length_append, Nat.add_comm]
    cases e : bitAt x n <;> simp [e]

end Sys2Proof.Machine
end

section
/-! The settled obligation. -/

namespace Sys2Proof.Machine

/-- Settles O6: each instruction writes one value (`yieldsX_of`); quotients and remainders by R148's cases (`udiv64_eq`), and the counts by
where the set bits stand (`bitAt_above_clzN`, `bitAt_below_ctzN`, `popN_eq_length`). -/
theorem scalarMultiplyDivide : Obligations.ScalarMultiplyDivide := by
  unfold Obligations.ScalarMultiplyDivide
  intro s d a b
  have gives {i : Instr} {v w : Word} (runs : exec i s = complete i s (.ok (s.wx d v))) (e : v = w) : s.yieldsX i d w :=
    e ▸ yieldsX_of runs
  refine ⟨gives rfl ?product, gives rfl rfl, gives rfl rfl, gives rfl (udiv64_eq _ _), gives rfl (sdiv64_eq _ _),
    gives rfl (urem64_eq _ _), gives rfl rfl, ?leading, ?trailing, gives rfl ?count⟩
  case product => exact BitVec.eq_of_toNat_eq (by rw [BitVec.toNat_mul, BitVec.toNat_ofNat])
  case leading =>
    refine ⟨_, clzN_le (s.rx a).toNat 64, gives rfl rfl, fun k hk => ?_, fun found => ?_⟩
    · rw [← bitAt_toNat_word]
      exact bitAt_above_clzN _ 64 k hk
    · rw [← bitAt_toNat_word]
      exact bitAt_clzN _ 64 found
  case trailing =>
    refine ⟨_, ctzN_le (s.rx a).toNat 64 0, gives rfl rfl, fun k hk => ?_, fun found => ?_⟩
    · rw [← bitAt_toNat_word, ← Nat.zero_add k]
      exact bitAt_below_ctzN _ 64 0 k hk
    · rw [← bitAt_toNat_word, ← Nat.zero_add (ctzN _ _ _)]
      exact bitAt_ctzN _ 64 0 found
  case count =>
    rw [popN_eq_length]
    simp only [← bitAt_toNat_word]

end Sys2Proof.Machine
end

section
/-! SUPPORT. The element-wise driver as a whole: what it makes of each element, the flags and the draws (R160, R338). -/

namespace Sys2Proof.Machine

variable {s t : State}

/-! ### Draws (R160) -/

/-- The random bits of an element before which `n` elements have drawn: 0 where the mode is not STO. -/
def drawAfter (rm : RM) (seed n : Nat) : Nat := if rm = .sto then (draw (skipDraws n seed)).2 else 0

/-- The generator once `n` elements have drawn. -/
def seedAfter (rm : RM) (seed n : Nat) : Nat := if rm = .sto then skipDraws n seed else seed

theorem skipDraws_succ : ∀ n seed : Nat, skipDraws (n + 1) seed = (draw (skipDraws n seed)).1
  | 0, _ => rfl
  | n + 1, seed => skipDraws_succ n (draw seed).1

@[simp] theorem seedAfter_zero (rm : RM) (seed : Nat) : seedAfter rm seed 0 = seed := ite_self _

/-- One more element draws. -/
theorem drawIf_seedAfter (rm : RM) (seed n : Nat) : drawIf rm (seedAfter rm seed n) = (drawAfter rm seed n, seedAfter rm seed (n + 1)) := by
  by_cases sto : rm = .sto
  · simp only [drawIf, seedAfter, drawAfter, if_pos sto, skipDraws_succ]
  · simp only [drawIf, seedAfter, drawAfter, if_neg sto]

theorem seedAfter_quiet {rm : RM} (quiet : rm ≠ .sto) (seed n : Nat) : seedAfter rm seed n = seed := if_neg quiet

/-! ### The driver's loop -/

theorem ewLoop_append (fn : Nat → Nat → Nat → Nat → Nat × Flags) (rm : RM) (keep : Bool) (later : List (Bool × Nat × Nat × Nat)) :
    ∀ (rows : List (Bool × Nat × Nat × Nat)) (x : Side2), ewLoop fn rm keep (rows ++ later) x =
      ((ewLoop fn rm keep rows x).1 ++ (ewLoop fn rm keep later (ewLoop fn rm keep rows x).2).1,
        (ewLoop fn rm keep later (ewLoop fn rm keep rows x).2).2)
  | [], _ => rfl
  | (true, p, q, c) :: rows, x => by
    simp only [List.cons_append, ewLoop, if_true]
    rw [ewLoop_append fn rm keep later rows]
  | (false, p, q, c) :: rows, x => by
    simp only [List.cons_append, ewLoop, Bool.false_eq_true, if_false]
    rw [ewLoop_append fn rm keep later rows]

/-- The loop over the first `n` elements: each selected one by the function and its own draw, the others kept or zero, the flags of the
selected ones together, and one draw for each of them. -/
theorem ewLoop_range (fn : Nat → Nat → Nat → Nat → Nat × Flags) (rm : RM) (keep : Bool) (a : Nat → Bool) (p q c : Nat → Nat)
    (x : Side2) (n : Nat) :
    let r : Nat → Nat × Flags := fun k => fn (drawAfter rm x.seed ((List.range k).filter a).length) (p k) (q k) (c k)
    ewLoop fn rm keep ((List.range n).map fun k => (a k, p k, q k, c k)) x =
      ((List.range n).map fun k => if a k then (r k).1 else if keep then c k else 0,
        { x with flags := (((List.range n).filter a).map fun k => (r k).2).foldl Flags.or x.flags,
                 seed := seedAfter rm x.seed ((List.range n).filter a).length }) := by
  intro r
  induction n with
  | zero => simp [ewLoop]
  | succ n ih =>
    rw [List.range_succ, List.map_append, ewLoop_append, ih, List.filter_append, List.map_append, List.map_append, List.foldl_append]
    cases sel : a n
    · simp [ewLoop, sel]
    · simp only [List.map_cons, List.map_nil, ewLoop, if_true, sel, drawIf_seedAfter, List.filter_cons_of_pos, List.filter_nil,
        List.length_append, List.length_cons, List.length_nil, List.foldl_cons, List.foldl_nil]
      rfl

/-! ### Its result -/

/-- What an element-wise instruction leaves beside its vector: flags, and the generator. -/
theorem settle_flags_seed (g : Hart) (fl : Flags) (seed : Nat) :
    g.settle { flags := fl, seed := seed } = { g.raise fl with srseed := BitVec.ofNat 64 seed } := by
  simp only [Hart.settle, holdAdd_zero]
  rfl

theorem settle_flags (g : Hart) (fl : Flags) : g.settle { flags := fl, seed := g.srseed.toNat } = g.raise fl := by
  rw [settle_flags_seed, BitVec.ofNat_toNat, BitVec.setWidth_eq]
  rfl

/-- The elements, flags and draws of the driver over the elements below VL. -/
theorem ewLoop_act (h : Hart) (m : Nat) (fn : Nat → Nat → Nat → Nat → Nat × Flags) (rm : RM) {p q c : List Nat} (hp : p.length = h.vl)
    (hq : q.length = h.vl) (hc : c.length = h.vl) :
    let r : Nat → Nat × Flags := fun k =>
      fn (drawAfter rm h.srseed.toNat (h.chosen m k).length) (p.getD k 0) (q.getD k 0) (c.getD k 0)
    ewLoop fn rm (!h.mz) (ewRows (h.act m) p q c) h.side = (h.merged m (fun k => (r k).1) fun k => c.getD k 0,
      { flags := h.flagsOf m fun k => (r k).2, seed := seedAfter rm h.srseed.toNat (h.chosen m h.vl).length }) := by
  intro r
  conv_lhs => rw [eq_map_getD hp, eq_map_getD hq, eq_map_getD hc, Hart.act, ewRows_map, ewLoop_range]
  refine congrArg₂ Prod.mk (List.map_congr_left fun k _ => ?_) rfl
  cases h.mz <;> rfl

/-- The vector, flags and draws of an instruction that rounds. -/
theorem settle_rounding (h : Hart) (m : Nat) (d : Reg) (v : Vec) (f : Nat → Flags) :
    (h.writeVec d.toNat v).settle { flags := h.flagsOf m f, seed := seedAfter h.rm h.srseed.toNat (h.chosen m h.vl).length } =
      h.afterRounding m d v f := by
  rw [Hart.afterRounding]
  by_cases sto : h.rm = .sto
  · rw [settle_flags_seed, seedAfter, if_pos sto, if_pos sto]
  · rw [seedAfter_quiet sto, if_neg sto]
    exact settle_flags _ _

/-- An element-wise instruction that rounds by VSTAT.RM (R132, R338). -/
theorem ewResult_rounds (h : Hart) (m : Nat) (fn : ElemFn) (ops : List Opd) {p q c : List Nat} (d : Reg) (hp : p.length = h.vl)
    (hq : q.length = h.vl) (hc : c.length = h.vl) :
    let r : Nat → Nat × Flags := fun k => fn h.fmt h.rm (h.drawAt m k) (p.getD k 0) (q.getD k 0) (c.getD k 0)
    let els := h.merged m (fun k => (r k).1) fun k => c.getD k 0
    h.ewResult m true fn ops p q c d.toNat = h.afterRounding m d
      (if h.rm = .sto ∨ h.rm = .efb then plainVec h.fmt els else resultVec h.ep h.fmt ops (h.maskBits m) els) fun k => (r k).2 := by
  intro r els
  rw [Hart.ewResult]
  simp only [if_true, true_and, ewLoop_act h m _ h.rm hp hq hc]
  exact settle_rounding h m d _ _

/-- An element-wise instruction that does not. -/
theorem ewResult_exact (h : Hart) (m : Nat) (fn : ElemFn) (ops : List Opd) {p q c : List Nat} (d : Nat) (hp : p.length = h.vl)
    (hq : q.length = h.vl) (hc : c.length = h.vl) :
    let r : Nat → Nat × Flags := fun k => fn h.fmt .rne 0 (p.getD k 0) (q.getD k 0) (c.getD k 0)
    h.ewResult m false fn ops p q c d = (h.writeVec d (resultVec h.ep h.fmt ops (h.maskBits m)
      (h.merged m (fun k => (r k).1) fun k => c.getD k 0))).raise (h.flagsOf m fun k => (r k).2) := by
  intro r
  rw [Hart.ewResult]
  simp only [Bool.false_eq_true, if_false, false_and, ewLoop_act h m _ .rne hp hq hc]
  exact settle_flags _ _

/-- No element raises a flag. -/
theorem flagsOf_none (h : Hart) (m : Nat) : h.flagsOf m (fun _ => {}) = {} := by
  rw [Hart.flagsOf, List.map_const']
  generalize (h.chosen m h.vl).length = n
  induction n with
  | zero => rfl
  | succ n ih => exact ih

theorem raise_none (h : Hart) : h.raise {} = h := by
  rw [Hart.raise, show h.vflags ||| ({} : Flags).bits = h.vflags from BitVec.or_zero]

/-! ### Instructions of two operands and of one (R336, R338) -/

theorem vec2_illegal {cls : Fmt → Bool} {rounds fused : Bool} {fn : ElemFn} {i : Instr} {d a b : Reg} {m : BitVec 2}
    (runs : exec i s = complete i s (s.vec2 cls rounds fused fn d a b m)) (bad : cls s.hart.fmt = false) :
    exec i s = .next (s.illegal i) := by
  rw [runs, State.vec2, bad]
  rfl

theorem vec1_illegal {cls : Fmt → Bool} {rounds : Bool} {fn : ElemFn} {i : Instr} {d a : Reg} {m : BitVec 2}
    (runs : exec i s = complete i s (s.vec1 cls rounds fn d a m)) (bad : cls s.hart.fmt = false) : exec i s = .next (s.illegal i) := by
  rw [runs, State.vec1, bad]
  rfl

theorem vec2_ok {cls : Fmt → Bool} {rounds fused : Bool} {fn : ElemFn} {d a b : Reg} {m : BitVec 2} {x y o : Opd}
    (legal : cls s.hart.fmt = true) (reads : s.readsTwo t fused d a b m x y o) :
    s.vec2 cls rounds fused fn d a b m = .ok { t with hart := (t.hart.ewResult m.toNat rounds fn
      ([x, y] ++ (if fused then [o] else []) ++ t.hart.maskOpd m.toNat o) x.elems y.elems o.elems d.toNat) } := by
  obtain ⟨iss, hx, hy, ho⟩ := reads
  have ready := iss.1
  have old := old_read ho
  rw [Hart.keeps] at iss ready old
  rw [State.vec2]
  simp only [legal, ready, Bool.not_true, Bool.false_eq_true, if_false]
  refine issues_ok iss ?_
  simp only [hx, hy, old]

theorem vec1_ok {cls : Fmt → Bool} {rounds : Bool} {fn : ElemFn} {d a : Reg} {m : BitVec 2} {x o : Opd}
    (legal : cls s.hart.fmt = true) (reads : s.readsOne t d a m x o) :
    s.vec1 cls rounds fn d a m = .ok { t with hart := (t.hart.ewResult m.toNat rounds fn
      ([x, t.hart.zeroOpd] ++ t.hart.maskOpd m.toNat o) x.elems x.elems o.elems d.toNat) } := by
  obtain ⟨iss, hx, ho⟩ := reads
  have ready := iss.1
  have old := old_read ho
  rw [Bool.false_or, Hart.keeps] at old
  rw [Hart.keeps] at iss ready
  rw [State.vec1]
  simp only [legal, ready, Bool.not_true, Bool.false_eq_true, if_false]
  refine issues_ok iss ?_
  simp only [hx, old]

/-- The format stays that of the instruction's issue while its streams pop. -/
theorem issues_fmt {reads writes : List VRun} {m : Nat} (iss : s.issues reads writes m t) : t.hart.fmt = s.hart.fmt := by
  obtain ⟨_, _, _, frame⟩ := issues_frame iss
  rw [frame]
  rfl

/-- A two-operand instruction whose function rounds nothing and raises nothing. -/
theorem elementwise_of {cls : Fmt → Bool} {fn : ElemFn} {i : Instr} {d a b : Reg} {m : BitVec 2} {f : Nat → Nat → Nat}
    (runs : exec i s = complete i s (s.vec2 cls false false fn d a b m))
    (computes : ∀ p q c, fn s.hart.fmt .rne 0 p q c = (f p q, {})) : s.elementwise (cls s.hart.fmt) i d a b m f := by
  refine ⟨vec2_illegal runs, fun legal t x y o reads => endsWith_of runs ((vec2_ok legal reads).trans ?_)⟩
  obtain ⟨iss, hx, hy, ho⟩ := reads
  rw [ewResult_exact t.hart _ _ _ _ (operand_length hx) (operand_length hy) (old_length ho), issues_fmt iss]
  simp only [computes, flagsOf_none, raise_none]
  rfl

/-- A floating instruction that rounds the exact outcome `g` of its decoded operands (R344). -/
theorem roundsTo_of {fused : Bool} {g : RM → Val → Val → Val → Exact} {i : Instr} {d a b : Reg} {m : BitVec 2}
    (runs : exec i s = complete i s (s.vec2 Fmt.isFlt true fused (fltFn g) d a b m)) : s.roundsTo i fused d a b m g := by
  refine ⟨vec2_illegal runs, fun legal t x y o reads => endsWith_of runs ((vec2_ok legal reads).trans ?_)⟩
  obtain ⟨-, hx, hy, ho⟩ := reads
  rw [ewResult_rounds t.hart _ _ _ _ (operand_length hx) (operand_length hy) (old_length ho)]
  rfl

end Sys2Proof.Machine
end

section
/-! SUPPORT. A magnitude rounded to a whole number (R158), and the choice of VFMIN and VFMAX (R345). -/

namespace Sys2Proof.Machine

/-- The midpoint of the neighbours of n / d lies where twice the remainder says. -/
theorem halfCmp_floor (n d : Nat) : halfCmp ⟨n, d, 1⟩ (n / d, 1) (n / d + 1, 1) = compare (2 * (n % d)) d := by
  have parts : d * (n / d) + n % d = n := Nat.div_add_mod n d
  have mid : (n / d * 1 + (n / d + 1) * 1) ^ 1 * d = 2 * (d * (n / d)) + d := by ring
  have above : n * (2 * (1 * 1)) ^ 1 = 2 * n := by ring
  rw [halfCmp]
  simp only [Mag.gt, Mag.ge, mid, above, decide_eq_true_eq]
  rcases Nat.lt_trichotomy (2 * (n % d)) d with below | tie | beyond
  · rw [if_neg (by omega), if_neg (by omega), Nat.compare_eq_lt.mpr below]
  · rw [if_neg (by omega), if_pos (by omega), Nat.compare_eq_eq.mpr tie]
  · rw [if_pos (by omega), Nat.compare_eq_gt.mpr beyond]

variable (rm : RM) (u : Nat) (neg : Bool) {n d : Nat}

/-- A whole quotient is its own rounding. -/
theorem roundNat_whole (whole : n % d = 0) : roundNat rm u neg n d = (n / d, false) := if_pos whole

/-- Another rounds to a neighbour that the mode picks by the remainder. -/
theorem roundNat_inexact (part : n % d ≠ 0) : roundNat rm u neg n d =
    (if pickHi rm neg (compare (2 * (n % d)) d) (decide ((n / d + 1) % 2 = 1))
        (stoTakesHi ⟨n, d, 1⟩ (n / d, 1) (n / d + 1, 1) u) then n / d + 1 else n / d, true) := by
  rw [roundNat, if_neg part]
  simp only [halfCmp_floor]

theorem roundNat_neighbour : (roundNat rm u neg n d).1 = n / d ∨ (roundNat rm u neg n d).1 = n / d + 1 := by
  rw [roundNat]
  split
  · exact .inl rfl
  · dsimp only
    split
    · exact .inr rfl
    · exact .inl rfl

theorem roundNat_nx : (roundNat rm u neg n d).2 = true ↔ n % d ≠ 0 := by
  rw [roundNat]
  split <;> simp [*]

/-- To nearest: within one half, and even at a tie. -/
theorem roundNat_nearest (hd : 0 < d) : 2 * n ≤ 2 * (roundNat .rne u neg n d).1 * d + d ∧
    2 * (roundNat .rne u neg n d).1 * d ≤ 2 * n + d ∧ (2 * (n % d) = d → (roundNat .rne u neg n d).1 % 2 = 0) := by
  have parts : d * (n / d) + n % d = n := Nat.div_add_mod n d
  have floor : 2 * (n / d) * d = 2 * (d * (n / d)) := by ring
  have ceiling : 2 * (n / d + 1) * d = 2 * (d * (n / d)) + 2 * d := by ring
  have rest := Nat.mod_lt n hd
  by_cases whole : n % d = 0
  · rw [roundNat_whole _ _ _ whole, floor]
    omega
  rw [roundNat_inexact _ _ _ whole]
  rcases Nat.lt_trichotomy (2 * (n % d)) d with below | tie | beyond
  · rw [Nat.compare_eq_lt.mpr below]
    simp only [pickHi, Bool.false_eq_true, if_false, floor]
    omega
  · rw [Nat.compare_eq_eq.mpr tie]
    simp only [pickHi, Bool.not_eq_true', decide_eq_false_iff_not]
    split
    · rw [ceiling]
      omega
    · rw [floor]
      omega
  · rw [Nat.compare_eq_gt.mpr beyond]
    simp only [pickHi, if_true, ceiling]
    omega

theorem roundNat_toward_zero : (roundNat .rtz u neg n d).1 = n / d := by
  by_cases whole : n % d = 0
  · rw [roundNat_whole _ _ _ whole]
  · rw [roundNat_inexact _ _ _ whole]
    rfl

theorem roundNat_up (part : n % d ≠ 0) : (roundNat .rup u neg n d).1 = if neg then n / d else n / d + 1 := by
  rw [roundNat_inexact _ _ _ part]
  cases neg <;> rfl

theorem roundNat_down (part : n % d ≠ 0) : (roundNat .rdn u neg n d).1 = if neg then n / d + 1 else n / d := by
  rw [roundNat_inexact _ _ _ part]
  cases neg <;> rfl

/-- A NaN yields to the other operand, and two give the canonical NaN. -/
theorem fminmax_eq (f : Fmt) (mx : Bool) (p q : Nat) :
    let x := decodeVal f p
    let y := decodeVal f q
    fminmax f mx p q = if x.isNan ∧ y.isNan then f.ladder.nan else if x.isNan then q else if y.isNan then p
      else if (if mx then x.below y else y.below x) then q else p := by
  intro x y
  show (if x.isNan then (if y.isNan then f.ladder.nan else q) else if y.isNan then p
    else if mx then (if x.below y then q else p) else (if y.below x then q else p)) = _
  cases x.isNan with
  | true => cases y.isNan <;> rfl
  | false =>
    cases y.isNan with
    | true => rfl
    | false => cases mx <;> rfl

end Sys2Proof.Machine
end

section
/-! The settled obligation. -/

namespace Sys2Proof.Machine

/-- Settles O21: the driver rounds each selected element once (`roundsTo_of`, `ewResult_rounds`), VFMIN and VFMAX choose patterns
(`elementwise_of`, `fminmax_eq`), and a whole number is rounded by its remainder (`roundNat_inexact`). -/
theorem vectorFloating : Obligations.VectorFloating := by
  unfold Obligations.VectorFloating
  constructor
  case left =>
    intro s d a b m f fma
    refine ⟨roundsTo_of rfl, roundsTo_of rfl, roundsTo_of rfl, roundsTo_of rfl, roundsTo_of rfl, roundsTo_of rfl, roundsTo_of rfl,
      roundsTo_of rfl, ?choice, ?single⟩
    case choice =>
      exact ⟨elementwise_of rfl fun p q _ => congrArg (fun r => (r, ({} : Flags))) (fminmax_eq f false p q),
        elementwise_of rfl fun p q _ => congrArg (fun r => (r, ({} : Flags))) (fminmax_eq f true p q)⟩
    case single =>
      intro one
      refine ⟨⟨vec1_illegal rfl, fun legal t x o reads => endsWith_of rfl ((vec1_ok legal reads).trans ?root)⟩,
        ⟨vec1_illegal (cls := Fmt.isExp) rfl, fun legal t x o reads =>
          endsWith_of rfl ((vec1_ok (cls := Fmt.isExp) legal reads).trans ?exponential)⟩⟩
      case root =>
        obtain ⟨iss, hx, ho⟩ := reads
        rw [ewResult_rounds t.hart _ _ _ _ (operand_length hx) (operand_length hx) (old_length ho)]
        simp only [issues_fmt iss]
        rfl
      case exponential =>
        obtain ⟨iss, hx, ho⟩ := reads
        have fmt : t.hart.fmt = f := issues_fmt iss
        by_cases single : f = .f32
        · rw [show decide (s.hart.fmt ≠ .f32) = false from decide_eq_false (not_not_intro single),
            ewResult_exact t.hart _ _ _ _ (operand_length hx) (operand_length hx) (old_length ho)]
          simp only [fmt, single, expFn, if_true]
          rfl
        · rw [show decide (s.hart.fmt ≠ .f32) = true from decide_eq_true single,
            ewResult_rounds t.hart _ _ _ _ (operand_length hx) (operand_length hx) (old_length ho)]
          simp only [fmt, single, expFn, if_false]
          rfl
  case right =>
    intro rm u n d neg hd r
    exact ⟨roundNat_neighbour rm u neg, roundNat_nx rm u neg, fun whole => congrArg Prod.fst (roundNat_whole rm u neg whole),
      fun e => by subst e; exact roundNat_nearest u neg hd, fun e => by subst e; exact roundNat_toward_zero u neg,
      fun e part => by subst e; exact roundNat_up u neg part, fun e part => by subst e; exact roundNat_down u neg part⟩

end Sys2Proof.Machine
end

section
/-! SUPPORT. Conversions of registers at their own tags, and whole numbers held to the range of a quantised format (R158, R164, R165). -/

namespace Sys2Proof.Machine

/-! ### VCVT's loop (R371) -/

/-- Outside the MX formats no element lies under a NaN scale. -/
theorem valAt_clean {v : Vec} (plain : v.fmt.isMx = false) (k : Nat) : (v.valAt k).2 = false := by
  rw [Vec.valAt, plain]
  split <;> rfl

theorem mxSource_plain {f : Fmt} (plain : f.isMx = false) (act : List Bool) (vs : List Val) : mxSource f act vs = vs := by
  rw [mxSource, plain]
  rfl

theorem toTarget_plain {f : Fmt} (plain : f.isMx = false) (sc : Nat) (rm : RM) (u : Nat) (y : Val) :
    toTarget f sc rm u y = ((roundVal f rm u y).1, (roundVal f rm u y).2, decodeVal f (roundVal f rm u y).1) := by
  rw [toTarget, plain]
  rfl

theorem Flags.or_none (f : Flags) : f.or {} = f := by simp [Flags.or]

theorem cvtRows_range (a : Nat → Bool) (w : Nat → Val × Bool) (scs : List Nat) (c : Nat → Nat) (n : Nat) :
    cvtRows ((List.range n).map a) ((List.range n).map w) scs ((List.range n).map c) =
      (List.range n).map fun k => (a k, w k, scs.getD (k / 32) 127, c k) := by
  simp only [cvtRows, List.length_map, List.length_range, List.zip_map']

/-- Where nothing is drawn and nothing is fed back, the loop rounds each selected element's value once. -/
theorem cvtLoop_once {f : Fmt} {rm : RM} (plain : f.isMx = false) (quiet : rm ≠ .sto) (a : Nat → Bool) {w : Nat → Val × Bool}
    (clean : ∀ k, (w k).2 = false) (sc c : Nat → Nat) (z : Val) : ∀ (l : List Nat) (x : Side2),
    cvtLoop f rm false (l.map fun k => (a k, w k, sc k, c k)) x z =
      (l.map fun k => if a k then (roundVal f rm 0 (w k).1).1 else c k,
        { x with flags := ((l.filter a).map fun k => (roundVal f rm 0 (w k).1).2).foldl Flags.or x.flags }, z)
  | [], _ => rfl
  | k :: l, x => by
    have still : drawIf rm x.seed = (0, x.seed) := if_neg quiet
    have unmarked : ({ nv := (w k).2 } : Flags) = {} := by rw [clean k]
    rw [List.map_cons, cvtLoop]
    cases sel : a k
    · simp only [Bool.false_eq_true, if_false, cvtLoop_once plain quiet a clean sc c z l, List.map_cons, sel,
        List.filter_cons_of_neg, not_false_eq_true]
    · simp only [if_true, still, fed, residual, Bool.false_eq_true, if_false, Bool.not_false, toTarget_plain plain, unmarked,
        Flags.or_none, cvtLoop_once plain quiet a clean sc c z l, List.map_cons, sel, List.filter_cons_of_pos, List.foldl_cons]

/-- VCVT between two formats without scales, by a mode that neither draws nor feeds back: each element's value rounded once. -/
theorem cvt_once {h : Hart} (d : Reg) (m : BitVec 2) {v : Vec} {o : Opd} (target : h.fmt.isMx = false) (source : v.fmt.isMx = false)
    (other : v.fmt ≠ h.fmt) (sto : h.rm ≠ .sto) (efb : h.rm ≠ .efb) (len : o.elems.length = h.vl) :
    let r : Nat → Nat × Flags := fun k => roundVal h.fmt h.rm 0 (v.valAt k).1
    h.cvt d m v o = (h.writeVec d.toNat (resultVec h.ep h.fmt (v.selfOpd h.vl :: h.maskOpd m.toNat o) (h.maskBits m.toNat)
      (h.merged m.toNat (fun k => (r k).1) o.el))).raise (h.flagsOf m.toNat fun k => (r k).2) := by
  intro r
  have kept : (o.elems.map fun e => if h.mz then 0 else e) = (List.range h.vl).map fun k => if h.mz then 0 else o.el k := by
    conv_lhs => rw [eq_map_getD len, List.map_map]
    rfl
  have values : List.zip ((v.vals h.vl).map Prod.fst) ((v.vals h.vl).map Prod.snd) = (List.range h.vl).map v.valAt := by
    rw [List.zip_map']
    exact List.map_id _
  have rounded := cvtLoop_once target sto (h.sel m.toNat) (valAt_clean source) (fun k => ([] : List Nat).getD (k / 32) 127)
    (fun k => if h.mz then 0 else o.el k) (decodeVal .f64 h.efr.toNat) (List.range h.vl) h.side
  rw [Hart.cvt]
  simp only [if_neg other, target, Bool.false_eq_true, if_false, efb, sto, decide_false, Bool.false_and, Bool.or_false, List.map_nil,
    List.any_nil, mxSource_plain target, values, kept]
  rw [Hart.act, cvtRows_range]
  show (((h.writeConv _ _ _ _ _ _ (cvtLoop _ _ _ _ h.side _).1).settle (cvtLoop _ _ _ _ h.side _).2.1).setEfr _ _ _) = _
  rw [rounded]
  exact settle_flags _ _

/-! ### Quantisation to an integer format (R164, R165) -/

theorem clampInt_inside {lo hi i : Int} (inside : lo ≤ i ∧ i ≤ hi) : clampInt lo hi i = (i, false) := by
  rw [clampInt, if_neg (Int.not_lt.mpr inside.1), if_neg (Int.not_lt.mpr inside.2)]

theorem clampInt_outside {lo hi i : Int} (outside : ¬ (lo ≤ i ∧ i ≤ hi)) : clampInt lo hi i = (if i < lo then lo else hi, true) := by
  rw [clampInt]
  by_cases below : i < lo
  · rw [if_pos below, if_pos below]
  · rw [if_neg below, if_neg below, if_pos (by omega)]

theorem hasEscape_int {f : Fmt} (int : f.isInt = true) : f.hasEscape = decide (f = .i8) := by
  have storage : f ≠ .i4 := by
    rintro rfl
    cases int
  rw [Fmt.hasEscape, decide_eq_false storage, Bool.or_false]

/-- The range of an integer format: of I8 the escape code is free under OUTL = 0. -/
theorem quantRange_int {f : Fmt} (int : f.isInt = true) (outl : Bool) :
    quantRange f outl = (if f = .i8 ∧ outl = false then -127 else f.intMin, f.intMax) := by
  rw [quantRange, hasEscape_int int]
  by_cases byte : f = .i8
  · subst byte
    cases outl <;> rfl
  · simp [byte]

section
variable {f : Fmt} {outl : Bool} {sc : Nat} {rm : RM} {u : Nat} {neg : Bool} {n d : Nat} {i : Int}
  (value : (if neg then -((roundNat rm u neg n d).1 : Int) else ((roundNat rm u neg n d).1 : Int)) = i)
include value

/-- A number that rounds into the range is its rounding. -/
theorem quantElem_inside (int : f.isInt = true) (room : Bool) (inside : (quantRange f outl).1 ≤ i ∧ i ≤ (quantRange f outl).2) :
    quantElem f outl room sc rm u (.fin neg n d) =
      { code := patInt f.bits i, flags := { nx := (roundNat rm u neg n d).2 }, val := .ofInt i } := by
  rw [quantElem]
  simp only [int, Bool.true_or, if_true, value, clampInt_inside inside, Bool.not_false]

/-- One that does not escapes where its format has a code and the side list has room for it, and is clipped elsewhere. -/
theorem quantElem_outside (int : f.isInt = true) (room : Bool) (outside : ¬ ((quantRange f outl).1 ≤ i ∧ i ≤ (quantRange f outl).2)) :
    quantElem f outl room sc rm u (.fin neg n d) =
      if f.hasEscape && !outl && room then { code := f.escape, flags := { nx := (roundNat rm u neg n d).2 }, escaped := true }
      else { code := patInt f.bits (if i < (quantRange f outl).1 then (quantRange f outl).1 else (quantRange f outl).2),
             flags := { of := true, nx := true }, clipped := true } := by
  rw [quantElem]
  simp only [int, Bool.true_or, if_true, value, clampInt_outside outside, Bool.not_true, Bool.false_eq_true, if_false]

end

end Sys2Proof.Machine
end

section
/-! The settled obligation. -/

namespace Sys2Proof.Machine

/-- Settles O25: the conversions complete once their operands are read (`issues_ok`), VCVT's loop rounds each selected value once
(`cvt_once`), and a whole number is held to the range, escapes or is clipped (`quantElem_inside`, `quantElem_outside`). -/
theorem conversions : Obligations.Conversions := by
  unfold Obligations.Conversions
  refine ⟨?completes, ?rounds, ?quantises⟩
  case completes =>
    intro s t d a b m v o h read old
    refine ⟨fun iss => endsWith_of rfl ?convert, fun legal iss => endsWith_of rfl ?quantise,
      fun w target source extra iss => endsWith_of rfl ?dequantise⟩
    case convert =>
      have ready := iss.1
      simp only [h] at ready
      simp only [ready]
      exact issues_ok iss (by simp only [read, old])
    case quantise =>
      have ready := iss.1
      simp only [h] at ready legal
      simp only [ready, legal, Bool.not_true, Bool.false_eq_true, if_false]
      exact issues_ok iss (by simp only [read, old])
    case dequantise =>
      have ready := iss.1
      have legal : s.hart.fmt.isDequant = true := by simpa [Fmt.isDequant, or_assoc] using target
      simp only [h] at ready
      simp only [ready, legal, Bool.not_true, Bool.false_eq_true, if_false]
      exact issues_ok iss (by simp only [read, old, extra, source, if_true])
  case rounds =>
    intro h d m v o target source other sto efb len r
    have value : r = fun k => roundVal h.fmt h.rm 0 (v.valAt k).1 := by
      funext k
      refine congrArg (roundVal h.fmt h.rm 0) ?_
      rw [Vec.valAt, source]
      cases v.elems[k]? <;> rfl
    rw [value]
    exact cvt_once d m target source other sto efb len
  case quantises =>
    intro f outl room sc u n d rm neg _ int i lo e
    have value : (if neg then -((roundNat rm u neg n d).1 : Int) else ((roundNat rm u neg n d).1 : Int)) = i := by
      cases neg
      · exact (one_mul _).symm
      · exact (neg_one_mul _).symm
    have range : quantRange f outl = (lo, f.intMax) := quantRange_int int outl
    have inside := quantElem_inside (outl := outl) (sc := sc) value int room
    have outside := quantElem_outside (outl := outl) (sc := sc) value int room
    simp only [range, hasEscape_int int, patInt_eq_toNat] at inside outside
    refine ⟨fun fits => ?_, fun past byte free list => ?_, fun past full => ?_⟩
    · simp only [e, inside fits, and_self]
    · subst byte free list
      simp only [e, outside past]
      exact ⟨rfl, rfl, rfl⟩
    · have stays : (decide (f = .i8) && !outl && room) = false := by
        rcases full with other | wide | spent
        · rw [decide_eq_false other]
          rfl
        · rw [wide, Bool.not_true, Bool.and_false]
          rfl
        · rw [spent, Bool.and_false]
      simp only [e, outside past, stays, Bool.false_eq_true, if_false, and_self]

end Sys2Proof.Machine
end

section
/-! SUPPORT. Waiting instructions (R210, R225, R262, R279, R314, R331, R398, R431): the event that completes one runs it again, and how
each ends once its condition holds. -/

namespace Sys2Proof.Machine

variable {s t : State} {w : Wait} {x : Xlat} {v : Vec} {a b d : Reg} {sc : BitVec 3}

/-! ### The event (R226, R314) -/

/-- The event that completes an instruction of the hart whose turn it is runs that instruction again. -/
theorem event_runs {e i : Instr} {f : State → Instr → Option (Outcome State Fault Refusal)} {o : Outcome State Fault Refusal}
    (event : State → Outcome State Fault Refusal) (hn : s.hart.id = s.inp.n) (hr : s.hart.run = .running) (hw : s.hart.wait = some w)
    (arm : exec e s = event s) (runs : event s = s.onWait f) (it : w.instr = i) (again : f s i = some o) : exec e s = o := by
  rw [arm, runs, onWait_here f hn hr hw, it, again]
  rfl

/-- A completing event does nothing where its hart does not wait. -/
theorem onWait_idle (f : State → Instr → Option (Outcome State Fault Refusal))
    (idle : ∀ h ∈ s.hart :: s.others, h.id = s.inp.n → h.run = .running → h.wait = none) : s.onWait f = .next s := by
  have turn : (s.focus s.inp.n).hart ∈ s.hart :: s.others := by
    rw [State.focus]
    split
    · exact List.mem_cons_self ..
    · split
      · exact List.mem_cons_self ..
      · next found => exact List.mem_cons_of_mem _ (List.mem_of_find?_eq_some found)
  rw [State.onWait]
  split
  · rfl
  · next there =>
    obtain ⟨hn, hr⟩ := not_or.mp there
    rw [idle _ turn (not_not.mp hn) (not_not.mp hr)]

/-- An instruction that leaves the PC to its end goes on at the next word. -/
theorem complete_ended {i : Instr} {r : Except Stop State} (ok : r = .ok t) (pc : t.hart.pc = s.hart.pc) :
    complete i s r = .next (s.ended t (s.hart.pc + 4)) := by
  rw [ok, complete_ok, pc]
  rfl

theorem dropStale_pc (s : State) (h : Hart) (va : Nat) : (s.dropStale h va).pc = h.pc := by rw [dropStale_eq]

/-! ### Flags, barriers and the other waits of a scalar instruction -/

/-- FLAGACQ of a word that is at least x(d) writes x(d) (R400). -/
theorem flagacqAt_satisfied {n : Nat} (fits : s.loadFits (s.rx a).toNat 8 x n) (enough : (s.rx d).toNat ≤ n) :
    s.flagacqAt d a sc = .next (s.ended
      (({ s with hart := s.dropStale s.hart (s.rx a).toNat } : State).wx d (BitVec.ofNat 64 n)) (s.hart.pc + 4)) := by
  refine complete_ended ?_ ((Hart.wx_pc ..).trans (dropStale_pc ..))
  simp only [loadScalar_fits fits, if_pos enough]

theorem barwaitAt_done {id : BitVec 4} (done : s.phaseDone id.toNat = true) :
    s.barwaitAt id = .next (s.ended s (s.hart.pc + 4)) := complete_ended (if_pos done) rfl

/-- The status of a barrier object by its number (R223). -/
theorem BarObj.status_ofNat (n : Nat) : (BarObj.ofNat n).status = n / 2 ^ 124 % 16 := by
  show n / 2 ^ 64 % 2 ^ 64 / 2 ^ 60 % 2 ^ 4 = _
  omega

/-- BCWAIT of an object that is no longer PENDING writes its second word (R402). -/
theorem bcwaitAt_done {n : Nat} (fits : s.loadFits (s.rx a).toNat 16 x n) (decided : n / 2 ^ 124 % 16 ≠ 0) :
    s.bcwaitAt d a sc = .next (s.ended
      (({ s with hart := s.dropStale s.hart (s.rx a).toNat } : State).wx d (BitVec.ofNat 64 (n / 2 ^ 64))) (s.hart.pc + 4)) := by
  refine complete_ended ?_ ((Hart.wx_pc ..).trans (dropStale_pc ..))
  have second : BitVec.ofNat 64 (BarObj.ofNat n).w1 = BitVec.ofNat 64 (n / 2 ^ 64) :=
    BitVec.eq_of_toNat_eq (by simp [BarObj.ofNat])
  simp only [loadScalar_fits fits, BarObj.status_ofNat, if_neg decided, second]

section
variable (able : s.hart.feat 5 = true) (accepted : s.contributing (s.rx a) = false)
include able accepted

/-- FREDWAIT where no round of the hart's latest contribution is known (R431). -/
theorem fredwaitAt_none (gone : ∀ r ∈ s.rounds, r.num ≠ mget 0 s.hart.fredRounds (s.rx a).toNat) :
    s.fredwaitAt d a = .next (s.ended (s.wx d 0) (s.hart.pc + 4)) := by
  have none_ : s.rounds.find? (fun r => decide (r.num = mget 0 s.hart.fredRounds (s.rx a).toNat)) = none :=
    List.find?_eq_none.mpr fun r hr => by simpa using gone r hr
  refine complete_ended ?_ (Hart.wx_pc ..)
  simp only [able, accepted, none_, Bool.not_true, Bool.false_eq_true, if_false]

/-- FREDWAIT of a round that has performed or been aborted. -/
theorem fredwaitAt_round {r : Round} (found : s.rounds.find? (fun r => decide (r.num = mget 0 s.hart.fredRounds (s.rx a).toNat)) = some r)
    (past : r.status = 1 ∨ r.status = 5) :
    s.fredwaitAt d a = .next (s.ended (s.wx d (BitVec.ofNat 64 r.status)) (s.hart.pc + 4)) := by
  have done : r.underWay = false := by rcases past with e | e <;> simp [Round.underWay, e]
  refine complete_ended ?_ (Hart.wx_pc ..)
  simp only [able, accepted, found, done, Bool.not_true, Bool.false_eq_true, if_false]

end

/-- XWAIT takes what its queue gives (R262). -/
theorem xwaitAt_takes {r : ComplRec × Hart} (next : s.hart.nextRec a.toNat = some r) (pc : r.2.pc = s.hart.pc) :
    s.xwaitAt d a = .next (s.ended (s.takeRec d r) (s.hart.pc + 4)) := by
  have ends : s.xwaitAt d a = _ := xwait_takes next
  rw [ends, Hart.wx_pc, Hart.wx_pc, pc]
  rfl

theorem wfe_woken (woken : s.hart.wake = true) :
    s.wfe d a false = .next (s.ended (({ s with hart := { s.hart with wake := false } } : State).wx d 1) (s.hart.pc + 4)) :=
  complete_ended (if_pos woken) (Hart.wx_pc ..)

theorem wfe_late (asleep : s.hart.wake = false) : s.wfe d a true = .next (s.ended (s.wx d 0) (s.hart.pc + 4)) := by
  refine complete_ended ?_ (Hart.wx_pc ..)
  simp only [asleep, Bool.false_eq_true, if_false, if_true]

section
variable (quiet : s.hart.quiet)
include quiet

theorem fenceAt_done (done : s.drained s.hart sc.toNat = true) : s.fenceAt sc = .next (s.ended s (s.hart.pc + 4)) :=
  complete_ended (by rw [trigger_quiet _ quiet, waitDrained_ok done]) rfl

theorem vfenceAt_done (done : s.drained s.hart sc.toNat = true) : s.vfenceAt 0 sc = .next (s.ended s (s.hart.pc + 4)) :=
  complete_ended (by rw [trigger_quiet _ quiet, waitDrained_ok done]; rfl) rfl

theorem drainstNow_done (done : s.drained s.hart 4 = true) : s.drainstNow = .next (s.ended s (s.hart.pc + 4)) := by
  refine complete_ended ?_ rfl
  rw [State.waitStores, waitDrained_ok done]
  exact trigger_quiet _ quiet

end

/-- EXIT outside a handler, no record held and every store performed, ends the hart (R333). -/
theorem exitNow_done (idle : s.hart.hact = false) (held : s.hart.sfrq = []) (done : s.drained s.hart 4 = true) :
    s.exitNow = .next s.endHart := by
  rw [State.exitNow, State.waitStores, waitDrained_ok done]
  simp only [idle, trigger_quiet _ (Or.inl held), Bool.false_eq_true, if_false, completeAs_ok]

/-! ### Releases (R210) -/

/-- A line is one of those written where a byte of the range lies in it. -/
theorem cellsLE_lines (l : Nat) : ∀ (n lo v : Nat), 0 < n →
    ((cellsLE lo n v).map fun c => c.1 / 64).contains l = touches lo n l
  | 1, lo, v, _ => by
    simp only [cellsLE, touches, List.map_cons, List.map_nil, List.contains_cons, List.contains_nil, Bool.or_false, beq_eq_decide,
      ← Bool.decide_and]
    exact decide_eq_decide.mpr (by omega)
  | n + 2, lo, v, _ => by
    have rest := cellsLE_lines l (n + 1) (lo + 1) (v / 256) (Nat.succ_pos n)
    rw [cellsLE, List.map_cons, List.contains_cons, rest]
    simp only [touches, beq_eq_decide, ← Bool.decide_and, ← Bool.decide_or]
    exact decide_eq_decide.mpr (by omega)

theorem breakLinks_cellsLE (h : Hart) (other : Bool) {lo n v : Nat} (pos : 0 < n) :
    h.breakLinks other ((cellsLE lo n v).map fun c => c.1 / 64) = h.cutLinks lo n other := by
  rw [Hart.breakLinks, Hart.cutLinks]
  simp only [cellsLE_lines _ n lo v pos]

/-- A write shorter than a granule writes none whole, so poison stays (R194). -/
theorem wholeGranules_short {lo n v : Nat} (short : n < 64) (ps : List (Nat × Bool)) : wholeGranules (cellsLE lo n v) ps = [] := by
  refine List.filter_eq_nil_iff.mpr fun g _ all => ?_
  have at_ (i : Nat) (hi : i < 64) : lo ≤ g * 64 + i ∧ g * 64 + i < lo + n := by
    obtain ⟨c, hc, e⟩ := List.any_eq_true.mp (List.all_eq_true.mp all i (List.mem_range.mpr hi))
    rw [← of_decide_eq_true e]
    exact mem_cellsLE hc
  have first := at_ 0 (by omega)
  have last := at_ 63 (by omega)
  omega

/-- Which samples an access drops depends on the samples and on the translations now (R182, R207). -/
theorem dropStale_samples {h g : Hart} {va : Nat} (same : g.samples = h.samples) (now : t.xlat g va = s.xlat h va) :
    (t.dropStale g va).samples = (s.dropStale h va).samples := by
  simp only [State.dropStale, Hart.sampleOf, Hart.dropSamples, same, now]
  split
  · exact same
  · split
    · exact same
    · rfl

/-- A scalar store writes its bytes, cuts the links on their lines and drops a stale sample (R194, R207, R216). -/
theorem putAt_stored (s : State) (x : Xlat) (va v : Nat) {n : Nat} (pos : 0 < n) (short : n < 64) :
    s.Stored (s.putAt x va n v) va (x.addr va) n v := by
  refine ⟨fun p => mget_putCells_cellsLE p n (x.addr va) v s.mem, ?_⟩
  have hart : (s.putAt x va n v).hart =
      { s.hart.cutLinks (x.addr va) n false with samples := (s.dropStale s.hart va).samples } := by
    show (s.writePhys true _).dropStale (s.hart.breakLinks false _) va = _
    rw [breakLinks_cellsLE _ _ pos, dropStale_eq]
    refine congrArg (fun y => { s.hart.cutLinks (x.addr va) n false with samples := y }) (dropStale_samples ?_ ?_)
    all_goals
      unfold Hart.cutLinks
      split <;> rfl
  have others : (s.putAt x va n v).others = s.others.map fun h => h.cutLinks (x.addr va) n true :=
    List.map_congr_left fun h _ => breakLinks_cellsLE h true pos
  have poison : (s.putAt x va n v).poison = s.poison := by
    show List.foldl _ _ (wholeGranules _ _) = _
    rw [wholeGranules_short short]
    rfl
  rw [← hart, ← others]
  exact congrArg (fun y => { s.putAt x va n v with poison := y }) poison

theorem State.Stored.pc {va lo n v : Nat} (st : s.Stored t va lo n v) : t.hart.pc = s.hart.pc := by
  rw [st.frame]
  show (s.hart.cutLinks lo n false).pc = _
  unfold Hart.cutLinks
  split <;> rfl

/-- A scalar write of n bytes depends on the n low bytes of its value. -/
theorem State.Stored.low {va lo n v : Nat} (st : s.Stored t va lo n (v % 256 ^ n)) : s.Stored t va lo n v := by
  refine ⟨fun p => ?_, st.frame⟩
  rw [st.bytes p]
  split
  · next inside =>
    have split_ : 256 ^ n = 256 ^ (p - lo) * 256 ^ (lo + n - p) := by rw [← Nat.pow_add, show p - lo + (lo + n - p) = n by omega]
    have byte : 256 ∣ 256 ^ (lo + n - p) := dvd_pow_self 256 (by omega)
    refine BitVec.eq_of_toNat_eq ?_
    rw [BitVec.toNat_ofNat, BitVec.toNat_ofNat, split_, Nat.mod_mul_right_div_self]
    exact Nat.mod_mod_of_dvd _ byte
  · rfl

theorem signalWake_pc (t : State) (target : Word) : (t.signalWake target).hart.pc = t.hart.pc := by
  unfold State.signalWake State.mapHarts
  dsimp only
  split <;> rfl

section
variable (drained : s.drained s.hart sc.toNat = true)
include drained

/-- FLAGREL stores x(d) (R400). -/
theorem flagrelAt_stores (fits : s.storeFits (s.rx a).toNat 8 x) :
    ∃ t, s.Stored t (s.rx a).toNat (x.addr (s.rx a).toNat) 8 (s.rx d).toNat ∧
      s.flagrelAt d a sc = .next (s.ended t (s.hart.pc + 4)) := by
  have st := putAt_stored s x (s.rx a).toNat (s.rx d).toNat (n := 8) (by decide) (by decide)
  refine ⟨_, st, complete_ended ?_ st.pc⟩
  simp only [waitDrained_ok drained, storeScalar_fits _ fits]

/-- SIGNAL without a word sets latches alone (R401). -/
theorem signalAt_wakes (none_ : s.rx a = 0) : s.signalAt d a sc = .next (s.ended (s.signalWake (s.rx d)) (s.hart.pc + 4)) := by
  refine complete_ended ?_ (signalWake_pc ..)
  simp only [waitDrained_ok drained, none_, if_true]

/-- SIGNAL of a word adds 1 to it (R401). -/
theorem signalAt_counts (some_ : s.rx a ≠ 0) (fits : s.storeFits (s.rx a).toNat 8 x)
    (sound : s.poisoned (x.addr (s.rx a).toNat) = false) :
    ∃ t, s.Stored t (s.rx a).toNat (x.addr (s.rx a).toNat) 8 (readLE s.mem (x.addr (s.rx a).toNat) 8 + 1) ∧
      s.signalAt d a sc = .next (s.ended (t.signalWake (s.rx d)) (s.hart.pc + 4)) := by
  have st := putAt_stored s x (s.rx a).toNat ((readLE s.mem (x.addr (s.rx a).toNat) 8 + 1) % 2 ^ 64) (n := 8) (by decide) (by decide)
  refine ⟨_, st.low, complete_ended ?_ ((signalWake_pc ..).trans st.pc)⟩
  simp only [waitDrained_ok drained, if_neg some_, amo8_fits _ fits sound]

/-- BCPOST and BCARRIVE update their object in one write (R402). -/
theorem barUpdate_stores (fits : s.storeFits (s.rx a).toNat 16 x) (f : BarObj → BarObj) :
    ∃ t, s.Stored t (s.rx a).toNat (x.addr (s.rx a).toNat) 16
        (f (BarObj.ofNat (readLE s.mem (x.addr (s.rx a).toNat) 16))).toNat ∧
      ∀ i, complete i s (s.barUpdate a sc f) = .next (s.ended t (s.hart.pc + 4)) := by
  have st := putAt_stored s x (s.rx a).toNat (f (BarObj.ofNat (readLE s.mem (x.addr (s.rx a).toNat) 16))).toNat (n := 16)
    (by decide) (by decide)
  refine ⟨_, st, fun i => complete_ended ?_ st.pc⟩
  simp only [State.barUpdate, waitDrained_ok drained, storePage_fits fits]

end

/-! ### HANDOFF (R219, R270) -/

theorem handOver_pc (s : State) (x : Xlat) (flag value list : Word) (ps : List Nat) :
    (s.handOver x flag value list ps).hart.pc = s.hart.pc := by
  refine (putAt_stored _ x flag.toNat value.toNat (n := 8) (by decide) (by decide)).pc.trans ?_
  show (List.foldl s.dropStale s.hart _).pc = _
  rw [foldl_dropStale_eq]

theorem handoffAt_done {ps : List Nat} (quiet : s.hart.quiet) (able : s.hart.feat 7 = true) (clear : s.transfers = [])
    (open_ : x.closed = false) (checks : s.handChecks (s.rx a) (s.rx b) = .ok (x, ps)) :
    s.handoffAt d a b = .next (s.ended (s.handOver x (s.rx a) (s.rx d) (s.rx b) ps) (s.hart.pc + 4)) := by
  have free : s.ritHit s.hart (s.rx a).toNat ((s.rx a).toNat + 8) = false := by rw [State.ritHit, clear]; rfl
  have drained : s.drained s.hart 3 = true := by rw [State.drained, clear]; rfl
  refine complete_ended ?_ (handOver_pc ..)
  simp only [trigger_quiet _ quiet, able, checks, open_, free, waitDrained_ok drained, Bool.not_true, Bool.or_self,
    Bool.false_eq_true, if_false]

/-! ### VWAIT (R225, R398) -/

theorem bitAt_bitsNat : ∀ (l : List Bool) (k : Nat), bitAt (bitsNat l) k = l.getD k false
  | [], k => by simp [bitsNat, bitAt]
  | b :: l, 0 => by cases b <;> simp [bitsNat, bitAt]
  | b :: l, k + 1 => by
    rw [List.getD_cons_succ, ← bitAt_bitsNat l k, bitAt, bitAt, bitsNat, Nat.pow_succ', ← Nat.div_div_eq_div_mul]
    have half : (b.toNat + 2 * bitsNat l) / 2 = bitsNat l := by
      have small := b.toNat_lt
      omega
    rw [half]

theorem bitsNat_zero : ∀ {l : List Bool}, (∀ b ∈ l, b = false) → bitsNat l = 0
  | [], _ => rfl
  | b :: l, none_ => by
    rw [bitsNat, none_ b (List.mem_cons_self ..), bitsNat_zero fun c hc => none_ c (List.mem_cons_of_mem _ hc)]
    rfl

theorem bitAt_ofNat {n k : Nat} (x : Nat) (h : k < n) : bitAt (BitVec.ofNat n x).toNat k = bitAt x k := by
  simp only [bitAt, ← Nat.testBit_eq_decide_div_mod_eq, BitVec.toNat_ofNat, Nat.testBit_mod_two_pow, h, decide_true, Bool.true_and]

theorem takeSamples_eq (s : State) : ∀ (vas : List Nat) (h : Hart),
    s.takeSamples h vas = { h with samples := (s.takeSamples h vas).samples }
  | [], _ => rfl
  | va :: vas, h => by
    have one : s.takeSample h va = { h with samples := (s.takeSample h va).samples } := by
      unfold State.takeSample
      split <;> rfl
    refine (takeSamples_eq s vas (s.takeSample h va)).trans ?_
    exact congrArg (fun y : Hart => { y with samples := (s.takeSamples (s.takeSample h va) vas).samples }) one

/-- Element k has been found satisfied, or is so now (R398). -/
def State.waitDone (s : State) (b : Reg) (v : Vec) (k : Nat) : Bool :=
  s.hart.met.contains k || s.waitMet (s.rx b).toNat (v.elems.getD k 0)

/-- The elements that a VWAIT has yet to find satisfied, each with its index. -/
def Hart.openElems (h : Hart) (v : Vec) : List (Nat × Nat) :=
  (List.zip (List.range (fitLen h.vl v.elems).length) (fitLen h.vl v.elems)).filter fun e => !h.met.contains e.1

theorem mem_openElems {h : Hart} {e : Nat × Nat} : e ∈ h.openElems v ↔ e.1 < h.vl ∧ e.1 ∉ h.met ∧ e.2 = v.elems.getD e.1 0 := by
  have pairs : List.zip (List.range (fitLen h.vl v.elems).length) (fitLen h.vl v.elems) =
      (List.range h.vl).map fun i => (i, v.elems.getD i 0) := by
    rw [fitLen_length, fitLen_eq_map, List.map_prod_left_eq_zip]
  rw [Hart.openElems, pairs, List.mem_filter, List.mem_map]
  constructor
  · rintro ⟨⟨i, hi, rfl⟩, new⟩
    exact ⟨List.mem_range.mp hi, by simpa using new, rfl⟩
  · rintro ⟨hi, new, at_⟩
    exact ⟨⟨e.1, List.mem_range.mpr hi, by rw [← at_]⟩, by simpa using new⟩

/-- What VWAIT has found after a look: what it had found, and the open elements whose words are at least x(b). -/
theorem waitDone_contains (s : State) (b : Reg) (v : Vec) {k : Nat} (hk : k < s.hart.vl) :
    (s.hart.met ++ ((s.hart.openElems v).filter fun e => s.waitMet (s.rx b).toNat e.2).map Prod.fst).contains k = s.waitDone b v k := by
  rw [Bool.eq_iff_iff, List.contains_iff_mem, State.waitDone, Bool.or_eq_true, List.contains_iff_mem, List.mem_append, List.mem_map]
  constructor
  · rintro (old | ⟨e, he, rfl⟩)
    · exact .inl old
    · obtain ⟨m, now⟩ := List.mem_filter.mp he
      obtain ⟨-, -, at_⟩ := mem_openElems.mp m
      exact .inr (at_ ▸ now)
  · intro found
    by_cases old : k ∈ s.hart.met
    · exact .inl old
    · refine .inr ⟨(k, v.elems.getD k 0), List.mem_filter.mpr ⟨mem_openElems.mpr ⟨hk, old, rfl⟩, found.resolve_left old⟩, rfl⟩

/-- The hart once its VWAIT ends: p0 names the elements that are not satisfied. -/
def State.afterVwait (s : State) (b : Reg) (v : Vec) : Hart :=
  ({ s.takeSamples s.hart (((s.hart.openElems v).map Prod.snd).filter fun va => canonicalVa va) with met := [] } : Hart).setPred 0
    (bitsNat ((List.range s.hart.vl).map fun k => !s.waitDone b v k))

section
variable (hw : s.hart.wait = some w) (it : w.instr = .vwait a b sc) (iss : s.issues [s.hart.tagRun a.toNat] [] 0 s)
  (read : s.hart.tagged a.toNat (fun f => decide (f = .n64)) = .ok v)
  (clear : ∀ k < s.hart.vl, k ∉ s.hart.met → s.ritHit s.hart (v.elems.getD k 0) (v.elems.getD k 0 + 8) = false)
include hw it iss read clear

/-- A waiting VWAIT ends once every element is satisfied, and once WTMO clk have passed (R225). -/
theorem vwaitAt_ends {late : Bool} (finished : (∀ k < s.hart.vl, s.waitDone b v k = true) ∨ late = true ∧ w.issued = true) :
    s.vwaitAt a b sc late = .next (s.ended { s with hart := s.afterVwait b v } ((s.afterVwait b v).pc + 4)) := by
  have ready := iss.1
  have known : s.hart.metOf (.vwait a b sc) = s.hart.met := by rw [Hart.metOf, hw]; exact if_pos it
  have free : ((s.hart.openElems v).any fun e => s.ritHit s.hart e.2 (e.2 + 8)) = false := by
    refine List.any_eq_false.mpr fun e he => ?_
    obtain ⟨hk, new, at_⟩ := mem_openElems.mp he
    rw [at_, clear _ hk new]
    exact Bool.false_ne_true
  have found : (List.range (fitLen s.hart.vl v.elems).length).map (fun k =>
      !(s.hart.met ++ ((s.hart.openElems v).filter fun e => s.waitMet (s.rx b).toNat e.2).map Prod.fst).contains k) =
        (List.range s.hart.vl).map fun k => !s.waitDone b v k := by
    rw [fitLen_length]
    exact List.map_congr_left fun k hk => congrArg not (waitDone_contains s b v (List.mem_range.mp hk))
  have ends : (((List.range s.hart.vl).map fun k => !s.waitDone b v k).any (fun x => x) &&
      !(late && decide (s.hart.wait = some (s.hart.issuedWait (.vwait a b sc) s.clk)))) = false := by
    rcases finished with all | ⟨rfl, issued⟩
    · rw [Bool.and_eq_false_iff]
      refine .inl (List.any_eq_false.mpr fun x hx => ?_)
      obtain ⟨k, hk, rfl⟩ := List.mem_map.mp hx
      rw [all k (List.mem_range.mp hk)]
      exact Bool.false_ne_true
    · have same : s.hart.issuedWait (.vwait a b sc) s.clk = w := by rw [Hart.issuedWait, hw]; exact if_pos ⟨it, issued⟩
      rw [same, hw, decide_eq_true rfl, Bool.true_and, Bool.not_true, Bool.and_false]
  rw [State.vwaitAt]
  simp only [ready]
  rw [issues_ok iss]
  · exact complete_ok ..
  · simp only [read, known]
    rw [← Hart.openElems, free, found, ends]
    rfl

end

theorem afterVwait_eq (s : State) (b : Reg) (v : Vec) : s.afterVwait b v =
    { s.hart with p := (s.afterVwait b v).p, samples := (s.afterVwait b v).samples, met := [] } := by
  rw [State.afterVwait, takeSamples_eq]
  rfl

theorem afterVwait_pred0 (s : State) (b : Reg) (v : Vec) {k : Nat} (hk : k < 2048) :
    bitAt ((s.afterVwait b v).pred 0) k = (decide (k < s.hart.vl) && !s.waitDone b v k) := by
  rw [State.afterVwait, Hart.pred_setPred, if_pos rfl, bitAt_ofNat _ hk, bitAt_bitsNat]
  by_cases inside : k < s.hart.vl <;> simp [inside]

theorem afterVwait_pred (s : State) (b : Reg) (v : Vec) {k : Nat} (hk : k ≠ 0) : (s.afterVwait b v).pred k = s.hart.pred k := by
  rw [State.afterVwait, Hart.pred_setPred, if_neg hk, takeSamples_eq]
  rfl

/-- Every element satisfied: p0 is empty. -/
theorem afterVwait_all (s : State) (b : Reg) (v : Vec) (all : ∀ k < s.hart.vl, s.waitDone b v k = true) :
    (s.afterVwait b v).pred 0 = 0 := by
  have none_ : bitsNat ((List.range s.hart.vl).map fun k => !s.waitDone b v k) = 0 := by
    refine bitsNat_zero fun c hc => ?_
    obtain ⟨k, hk, rfl⟩ := List.mem_map.mp hc
    rw [all k (List.mem_range.mp hk), Bool.not_true]
  rw [State.afterVwait, Hart.pred_setPred, if_pos rfl, none_]
  exact BitVec.toNat_zero

end Sys2Proof.Machine
end

section
/-! The settled obligation. -/

namespace Sys2Proof.Machine

/-- Settles O34: the event runs the waiting instruction again (`event_runs`), which ends as its own rule says once the condition holds;
where the hart that the event names does not wait, it does nothing (`onWait_idle`). -/
theorem waitsComplete : Obligations.WaitsComplete := by
  unfold Obligations.WaitsComplete
  refine ⟨?waiting, ?idle⟩
  case idle =>
    intro s idle i hi
    simp only [List.mem_cons, List.not_mem_nil, or_false] at hi
    rcases hi with rfl | rfl | rfl | rfl | rfl | rfl | rfl | rfl | rfl | rfl | rfl | rfl | rfl | rfl | rfl | rfl <;>
      (dsimp only [exec]; exact onWait_idle _ idle)
  case waiting =>
    intro s w x n d a b sc id m hn hr hw
    refine ⟨?flagacq, ?barwait, ?bcwait, ?fredwait, ?xwait, ?wfe, ?fence, ?drainst, ?flagrel, ?signal, ?barrier, ?handoff, ?exit, ?vst,
      ?vwait⟩
    case flagacq =>
      exact fun it fits enough => (event_runs execFlagacqSatisfied hn hr hw rfl rfl it rfl).trans (flagacqAt_satisfied fits enough)
    case barwait => exact fun it done => (event_runs execBarwaitDone hn hr hw rfl rfl it rfl).trans (barwaitAt_done done)
    case bcwait => exact fun it fits decided => (event_runs execBcwaitDone hn hr hw rfl rfl it rfl).trans (bcwaitAt_done fits decided)
    case fredwait =>
      intro it able accepted
      have again := event_runs (e := .fredwaitDone) execFredwaitDone hn hr hw rfl rfl it rfl
      exact ⟨fun gone => again.trans (fredwaitAt_none able accepted gone),
        fun r found past => again.trans (fredwaitAt_round able accepted found past)⟩
    case xwait =>
      intro it q
      have again := event_runs (e := .xwaitDone) execXwaitDone hn hr hw rfl rfl it rfl
      exact ⟨fun none_ => again.trans (xwaitAt_takes (nextRec_empty none_) rfl),
        fun r some_ posted => again.trans (xwaitAt_takes (nextRec_posted some_ posted) rfl)⟩
    case wfe =>
      intro it
      exact ⟨fun woken => (event_runs execWfeWake hn hr hw rfl rfl it rfl).trans (wfe_woken woken),
        fun asleep _ _ => (event_runs execWfeTimeout hn hr hw rfl rfl it rfl).trans (wfe_late asleep)⟩
    case fence =>
      rintro (it | it) quiet done
      · exact (event_runs execFenceComplete hn hr hw rfl rfl it rfl).trans (fenceAt_done quiet done)
      · exact (event_runs execFenceComplete hn hr hw rfl rfl it rfl).trans (vfenceAt_done quiet done)
    case drainst => exact fun it quiet done => (event_runs execDrainstComplete hn hr hw rfl rfl it rfl).trans (drainstNow_done quiet done)
    case flagrel =>
      intro it drained fits
      obtain ⟨t, st, ends⟩ := flagrelAt_stores (d := d) drained fits
      exact ⟨t, st, (event_runs execReleasePerform hn hr hw rfl rfl it rfl).trans ends⟩
    case signal =>
      intro it drained
      have again := event_runs (e := .releasePerform) execReleasePerform hn hr hw rfl rfl it rfl
      refine ⟨fun none_ => again.trans (signalAt_wakes drained none_), fun some_ fits sound => ?_⟩
      obtain ⟨t, st, ends⟩ := signalAt_counts (d := d) drained some_ fits sound
      exact ⟨t, st, again.trans ends⟩
    case barrier =>
      intro drained fits _ k o
      refine ⟨fun it => ?_, fun it => ?_⟩
      · obtain ⟨t, st, ends⟩ := barUpdate_stores drained fits fun o => o.post k
        exact ⟨t, st, (event_runs execReleasePerform hn hr hw rfl rfl it rfl).trans (ends _)⟩
      · obtain ⟨t, st, ends⟩ := barUpdate_stores drained fits fun o => o.arrive k
        exact ⟨t, st, (event_runs execReleasePerform hn hr hw rfl rfl it rfl).trans (ends _)⟩
    case handoff =>
      exact fun it quiet able clear open_ ps checks =>
        (event_runs execHandoffEvent hn hr hw rfl rfl it rfl).trans (handoffAt_done quiet able clear open_ checks)
    case exit => exact fun it idle held done => (event_runs execExitWaitDone hn hr hw rfl rfl it rfl).trans (exitNow_done idle held done)
    case vst =>
      intro t v es iss read it check
      obtain ⟨q, st, ends⟩ := store_ends (i := .vst d a m) rfl iss read rfl rfl check
      exact ⟨q, st, (event_runs execVectorStorePerform hn hr hw rfl rfl it rfl).trans ends⟩
    case vwait =>
      intro v it iss read clear met
      refine ⟨fun issued _ => ⟨s.afterVwait b v, ?_, afterVwait_eq s b v, fun k hk => afterVwait_pred s b v hk,
          fun k hk => afterVwait_pred0 s b v hk⟩,
        fun all => ⟨s.afterVwait b v, ?_, afterVwait_all s b v all, fun k hk => afterVwait_pred s b v hk, afterVwait_eq s b v⟩⟩
      · exact (event_runs execVwaitTimeout hn hr hw rfl rfl it rfl).trans (vwaitAt_ends hw it iss read clear (.inr ⟨rfl, issued⟩))
      · exact (event_runs execVwaitSatisfied hn hr hw rfl rfl it rfl).trans (vwaitAt_ends hw it iss read clear (.inl all))

end Sys2Proof.Machine
end

section
/-! SUPPORT. KVFREE (R269) under a link (R216): the erasing at once of a frame that nothing samples breaks it. -/

namespace Sys2Proof.Machine

/-- A state in which the control program of slot 0 frees its one KV page, by the list at 0x200000, while a hart holds a link to the
first line of the page's frame. -/
def linkedKvfree : State :=
  { inp := { caller := .ctl 0, a1 := 0x200000, a2 := 1 },
    hart := { run := .running, links := [0] },
    mem := [(0x200000, 1)],
    apps := [(0, { state := .running, kv := [(0, ⟨1, 0⟩)],
                   maps := [{ va := 0x200000, pages := 1, pa := 0x200000, attr := attrOf 0x3F true false false, kind := .tier1,
                              range := false, pageLog := 12, migr := none }] })] }

theorem linkedKvfree_count : linkedKvfree.readWordFor 0 ctlWho 0x200000 = some 1 := by decide +kernel

theorem linkedKvfree_list : linkedKvfree.kvEntries 0 0x200000 1 = some [0] := by decide +kernel

/-- KVFREE erases the page's frame, which breaks the link: the hart is not what it was. -/
theorem linkedKvfree_breaksLink {u : State} (runs : exec .riuraKvfree linkedKvfree = .next u) : u.hart.links = [] := by
  have broken : (match exec .riuraKvfree linkedKvfree with
      | .next u => u.hart.links
      | _ => [0]) = [] := by decide +kernel
  rwa [runs] at broken

end Sys2Proof.Machine
end

section
/-! The settled obligation. -/

namespace Sys2Proof.Machine

/-- Refutes O49: that KVFREE changes nothing but the application, memory, headers and poison fails where a hart holds a link to a line
of a listed page's frame, which the erasing at once of an unsampled frame breaks, setting the hart's wake latch (R216; `linkedKvfree`). -/
theorem not_migrationAndKv : ¬ Obligations.MigrationAndKv := by
  unfold Obligations.MigrationAndKv
  rintro ⟨-, -, calls⟩
  obtain ⟨-, -, frees, -⟩ := calls linkedKvfree 0 ⟨rfl, rfl, rfl⟩
  obtain ⟨u, runs, -, frame, -⟩ := frees [0] linkedKvfree_count (by decide) linkedKvfree_list (by decide) (by decide)
  have kept : u.hart.links = [0] := congrArg (fun t : State => t.hart.links) frame
  rw [linkedKvfree_breaksLink runs] at kept
  cases kept

end Sys2Proof.Machine
end

section
/-! SUPPORT. Flags and signals (R210, R400, R401): an acquire that waits on, and the latches that a SIGNAL sets. -/

namespace Sys2Proof.Machine

variable {s : State} {d a : Reg} {sc : BitVec 3} {x : Xlat}

/-- A context after a change of harts is one from before, changed where it is one in use that passes the test. -/
theorem mapHarts_mem {p : Hart → Bool} {f : Hart → Hart} {h : Hart} (here : h ∈ s.hart :: s.others) :
    (if decide (h.run ≠ .idle) && p h then f h else h) ∈ (s.mapHarts p f).hart :: (s.mapHarts p f).others :=
  List.mem_map_of_mem (f := fun h => if decide (h.run ≠ .idle) && p h then f h else h) here

/-- SIGNAL's target names the crew's harts that have not executed EXIT: all of them, or the one of a rank (R401). -/
theorem signalWake_mem {h : Hart} (here : h ∈ s.hart :: s.others) (w : Word) :
    (if h.run ≠ .idle ∧ h.crewid = s.hart.crewid ∧ h.ended = false ∧ (w.getLsbD 63 = true ∨ h.crewrank.toNat = w.toNat % 32)
      then { h with wake := true } else h) ∈ (s.signalWake w).hart :: (s.signalWake w).others := by
  have mapped := mapHarts_mem (p := fun h => decide (h.crewid = s.hart.crewid) && !h.ended &&
    (w.getLsbD 63 || decide (h.crewrank.toNat = w.toNat % 32))) (f := fun h => { h with wake := true }) here
  simp only [Bool.and_eq_true, Bool.or_eq_true, Bool.not_eq_true', decide_eq_true_eq, and_assoc] at mapped
  exact mapped

/-- FLAGACQ of a word below x(d) waits, its stale sample dropped (R400). -/
theorem flagacqAt_waits {n : Nat} (fits : s.loadFits (s.rx a).toNat 8 x n) (below : n < (s.rx d).toNat) :
    s.flagacqAt d a sc =
      .next { s with hart := (s.dropStale s.hart (s.rx a).toNat).waitOn (.flagacq d a sc) s.clk } := by
  rw [State.flagacqAt]
  simp only [loadScalar_fits fits, if_neg (Nat.not_le.mpr below), complete_error, stopped_wait]

end Sys2Proof.Machine
end

section
/-! The settled obligation. -/

namespace Sys2Proof.Machine

/-- Settles O32: a release and a SIGNAL end as they do when they have waited (`flagrelAt_stores`, `signalAt_counts`), an acquire by the
word it reads, and the latches are those of the harts that the target names. -/
theorem flagsAndSignals : Obligations.FlagsAndSignals := by
  unfold Obligations.FlagsAndSignals
  intro s d a sc x v va pc
  refine ⟨fun drained fits => ⟨?release, ?count⟩, ?signal, ?acquire, fun h here w => signalWake_mem here w⟩
  case release => exact flagrelAt_stores drained fits
  case count => exact fun some_ sound => signalAt_counts drained some_ fits sound
  case signal => exact signalAt_wakes
  case acquire => exact fun fits => ⟨flagacqAt_satisfied fits, flagacqAt_waits fits⟩

end Sys2Proof.Machine
end

section
/-! SUPPORT. Barriers: what posting and arriving do to a barrier object (R223, R224), the update of one and the look at one that is
PENDING (R402), and the arrivals and phases of crew barriers (R217, R218). -/

namespace Sys2Proof.Machine

variable {s : State} {d a : Reg} {sc : BitVec 3} {x : Xlat} {o : BarObj} {n : Nat}

/-! ### Barrier objects (R223, R224) -/

theorem BarObj.sound_iff (o : BarObj) : o.sound = true ↔ bitsAt o.w0 48 15 = 0 ∧ bitsAt o.w1 48 12 = 0 ∧ o.status < 4 := by
  simp [BarObj.sound, and_assoc]

/-- The fields of a second word put together. -/
theorem BarObj.arrived_barWord (w c st : Nat) : (⟨w, barWord c st⟩ : BarObj).arrived = c % 2 ^ 48 := by
  show (c % 2 ^ 48 + st * 2 ^ 60) % 2 ^ 48 = _
  omega

theorem BarObj.status_barWord (w c : Nat) {st : Nat} (small : st < 16) : (⟨w, barWord c st⟩ : BarObj).status = st := by
  show (c % 2 ^ 48 + st * 2 ^ 60) / 2 ^ 60 % 2 ^ 4 = _
  omega

theorem BarObj.arrived_lt (o : BarObj) : o.arrived < 2 ^ 48 := Nat.mod_lt _ (by decide)

/-- The status rule changes STATUS alone. -/
@[simp] theorem BarObj.judge_w0 (o : BarObj) : o.judge.w0 = o.w0 := by
  unfold BarObj.judge
  split <;> rfl

@[simp] theorem BarObj.judge_arrived (o : BarObj) : o.judge.arrived = o.arrived := by
  unfold BarObj.judge
  split
  · rw [BarObj.arrived_barWord, Nat.mod_eq_of_lt o.arrived_lt]
  · rfl

/-- A posted object that is PENDING is decided once ARRIVED reaches EXPECT. -/
theorem BarObj.judge_status (o : BarObj) : o.judge.status =
    if o.status ≠ 0 ∨ o.posted = false then o.status
    else if o.arrived < o.expect then 0 else if o.arrived = o.expect then 1 else 2 := by
  unfold BarObj.judge
  cases hp : o.posted
  · simp
  · by_cases hs : o.status = 0
    · by_cases reached : o.expect ≤ o.arrived
      · have decided : (if o.arrived = o.expect then 1 else 2) < 16 := by split <;> omega
        simp [hs, reached, BarObj.status_barWord _ _ decided, Nat.not_lt.mpr reached]
      · simp [hs, reached, Nat.not_le.mp reached]
    · simp [hs]

/-- The first word that a post of n bytes gives: EXPECT is n, and POSTED is set. -/
theorem BarObj.posted_word (small : n < 2 ^ 48) : ∃ w, n % 2 ^ 48 + 2 ^ 63 = w ∧ w % 2 ^ 48 = n ∧ bitAt w 63 = true :=
  ⟨_, rfl, by omega, decide_eq_true (by omega)⟩

/-- BCPOST of an object that is not yet posted sets its first word, and the status rule follows (R223). -/
theorem BarObj.post_word {w : Nat} (sound : o.sound = true) (new : o.posted = false) (word : n % 2 ^ 48 + 2 ^ 63 = w) :
    o.post n = (⟨w, o.w1⟩ : BarObj).judge := by
  rw [BarObj.post, word]
  exact if_pos (by rw [sound, new]; rfl)

theorem BarObj.post_new (sound : o.sound = true) (small : n < 2 ^ 48) (new : o.posted = false) :
    (o.post n).expect = n ∧ (o.post n).posted = true ∧ (o.post n).arrived = o.arrived ∧
      (o.post n).status = if o.status ≠ 0 then o.status else if o.arrived < n then 0 else if o.arrived = n then 1 else 2 := by
  obtain ⟨w, word, expect, posted⟩ := BarObj.posted_word small
  have fields : (⟨w, o.w1⟩ : BarObj).expect = n ∧ (⟨w, o.w1⟩ : BarObj).posted = true := ⟨expect, posted⟩
  have kept : (⟨w, o.w1⟩ : BarObj).arrived = o.arrived ∧ (⟨w, o.w1⟩ : BarObj).status = o.status := ⟨rfl, rfl⟩
  rw [BarObj.post_word sound new word]
  refine ⟨?_, ?_, (BarObj.judge_arrived _).trans kept.1, ?_⟩
  · rw [BarObj.expect, BarObj.judge_w0, expect]
  · rw [BarObj.posted, BarObj.judge_w0, posted]
  · rw [BarObj.judge_status, fields.1, fields.2, kept.1, kept.2]
    simp only [Bool.true_eq_false, or_false]

theorem BarObj.post_again (posted : o.posted = true) : o.post n = o := by simp [BarObj.post, posted]

/-- BCARRIVE of an object of no reserved field: the count held at its greatest value, and the status rule; a COMPLETE object goes over
(R224). -/
theorem BarObj.arrive_word {c : Nat} (sound : o.sound = true) (count : min (o.arrived + n) (2 ^ 48 - 1) = c) :
    o.arrive n = (⟨o.w0, barWord c (if o.status = 1 then 2 else o.status)⟩ : BarObj).judge := by
  rw [BarObj.arrive, count]
  exact if_pos sound

theorem BarObj.arrive_sound (sound : o.sound = true) :
    (o.arrive n).arrived = min (o.arrived + n) (2 ^ 48 - 1) ∧ (o.arrive n).w0 = o.w0 ∧
      (o.arrive n).status = (if o.status = 1 then 2 else if o.status ≠ 0 ∨ o.posted = false then o.status
        else if (o.arrive n).arrived < o.expect then 0 else if (o.arrive n).arrived = o.expect then 1 else 2) := by
  obtain ⟨-, -, few⟩ := o.sound_iff.mp sound
  obtain ⟨c, count⟩ : ∃ c, min (o.arrived + n) (2 ^ 48 - 1) = c := ⟨_, rfl⟩
  have held : c % 2 ^ 48 = c := Nat.mod_eq_of_lt (by omega)
  have small : (if o.status = 1 then 2 else o.status) < 16 := by split <;> omega
  have kept (w : Nat) : (⟨o.w0, w⟩ : BarObj).posted = o.posted ∧ (⟨o.w0, w⟩ : BarObj).expect = o.expect := ⟨rfl, rfl⟩
  have arrived : (o.arrive n).arrived = c := by
    rw [BarObj.arrive_word sound count, BarObj.judge_arrived, BarObj.arrived_barWord, held]
  rw [arrived, count]
  refine ⟨rfl, by rw [BarObj.arrive_word sound count, BarObj.judge_w0], ?_⟩
  rw [BarObj.arrive_word sound count, BarObj.judge_status, BarObj.status_barWord _ _ small, BarObj.arrived_barWord, held,
    (kept _).1, (kept _).2]
  by_cases full : o.status = 1
  · simp [full]
  · simp only [full, if_false]

theorem BarObj.unsound_stays (bad : o.sound = false) : o.post n = o ∧ o.arrive n = o := by
  simp [BarObj.post, BarObj.arrive, bad]

/-- BCWAIT of an object that is PENDING waits, its stale sample dropped (R402). -/
theorem bcwaitAt_waits {v : Nat} (fits : s.loadFits (s.rx a).toNat 16 x v) (pending : v / 2 ^ 124 % 16 = 0) :
    s.bcwaitAt d a sc =
      .next { s with hart := (s.dropStale s.hart (s.rx a).toNat).waitOn (.bcwait d a sc) s.clk } := by
  rw [State.bcwaitAt]
  simp only [loadScalar_fits fits, BarObj.status_ofNat, if_pos pending, complete_error, stopped_wait]

/-! ### Crew barriers (R217, R218) -/

/-- A latch set in a crew changes latches alone. -/
theorem wakeCrew_frame (t : State) (cid : Nat) :
    (t.wakeCrew cid).hart = { t.hart with wake := (t.wakeCrew cid).hart.wake } ∧
      (t.wakeCrew cid).others.map (fun h => { h with wake := false }) = t.others.map fun h => { h with wake := false } := by
  have one (h : Hart) (c : Bool) : (if c then ({ h with wake := true } : Hart) else h) =
      { h with wake := (if c then ({ h with wake := true } : Hart) else h).wake } := by cases c <;> rfl
  refine ⟨one _ _, ?_⟩
  refine List.map_map.trans (List.map_congr_left fun h _ => ?_)
  show ({ (if _ then ({ h with wake := true } : Hart) else h) with wake := false } : Hart) = _
  rw [one]

/-- An arrival changes the arrivals of the hart and, at the end of a phase, latches of its crew (R217, R331). -/
theorem arrive_frame (s : State) (b : Nat) :
    (s.arrive b).hart.arrivals = mset 0 s.hart.arrivals b (s.hart.arrived b + 1) ∧
      (s.arrive b).hart = { s.hart with arrivals := (s.arrive b).hart.arrivals, wake := (s.arrive b).hart.wake } ∧
      s.arrive b = { s with hart := (s.arrive b).hart, others := (s.arrive b).others } ∧
      (s.arrive b).others.map (fun h => { h with wake := false }) = s.others.map fun h => { h with wake := false } := by
  unfold State.arrive
  dsimp only
  split
  · obtain ⟨hart, others⟩ := wakeCrew_frame
      { s with hart := { s.hart with arrivals := mset 0 s.hart.arrivals b (s.hart.arrived b + 1) } } s.hart.crewid.toNat
    refine ⟨by rw [hart], ?_, rfl, others⟩
    rw [hart]
  · exact ⟨rfl, rfl, rfl, rfl⟩

theorem arrive_arrived (s : State) (b k : Nat) :
    (s.arrive b).hart.arrived k = if k = b then s.hart.arrived b + 1 else s.hart.arrived k := by
  rw [Hart.arrived, (arrive_frame s b).1, mget_mset]
  rfl

section
variable {id : BitVec 4} (quiet : s.hart.quiet) (drained : s.drained s.hart sc.toNat = true) (named : id ≠ 0)
include quiet drained named

/-- VFENCE with an ID arrives once the phase of the hart's last arrival has completed (R217). -/
theorem vfenceAt_arrives (done : s.phaseDone id.toNat = true) :
    s.vfenceAt id sc = .next (s.ended (s.arrive id.toNat) (s.hart.pc + 4)) := by
  refine complete_ended ?_ (by rw [(arrive_frame s id.toNat).2.1])
  rw [trigger_quiet _ quiet, waitDrained_ok drained]
  simp only [if_neg named, if_pos done]

theorem vfenceAt_waits (ahead : s.phaseDone id.toNat = false) : s.vfenceAt id sc = .next (s.waitsOn (.vfence id sc)) := by
  rw [State.vfenceAt, trigger_quiet _ quiet, waitDrained_ok drained]
  simp only [if_neg named, ahead, Bool.false_eq_true, if_false, complete_error, stopped_wait]
  rfl

end

theorem barwaitAt_waits {id : BitVec 4} (ahead : s.phaseDone id.toNat = false) :
    s.barwaitAt id = .next (s.waitsOn (.barwait id)) := by
  rw [State.barwaitAt, ahead]
  rfl

/-- The least of a list is reached by no more than each of its members. -/
theorem le_foldl_min {m : Nat} : ∀ {l : List Nat} {k : Nat}, m ≤ l.foldl min k ↔ m ≤ k ∧ ∀ i ∈ l, m ≤ i
  | [], k => by simp
  | i :: l, k => by
    rw [List.foldl_cons, le_foldl_min, Nat.le_min, List.forall_mem_cons, and_assoc]

/-- A crew's completed phases are no more than what each of its harts that go on has arrived, and the most that is (R217), where there is
one. -/
theorem le_phases_iff {cid b m : Nat} (some_ : ∃ h ∈ s.harts, h.crewid.toNat = cid ∧ h.ended = false) :
    m ≤ s.phases cid b ↔ ∀ h ∈ s.harts, h.crewid.toNat = cid → h.ended = false → m ≤ h.arrived b := by
  have counted (k : Nat) : k ∈ ((s.crewHarts cid).filter fun h => !h.ended).map (fun h => h.arrived b) ↔
      ∃ h ∈ s.harts, h.ended = false ∧ h.crewid.toNat = cid ∧ h.arrived b = k := by
    simp [State.crewHarts, and_assoc]
  have each : (∀ h ∈ s.harts, h.crewid.toNat = cid → h.ended = false → m ≤ h.arrived b) ↔
      ∀ k ∈ ((s.crewHarts cid).filter fun h => !h.ended).map (fun h => h.arrived b), m ≤ k := by
    constructor
    · intro all k hk
      obtain ⟨h, here, goes, crew, rfl⟩ := (counted k).mp hk
      exact all h here crew goes
    · exact fun all h here crew goes => all _ ((counted _).mpr ⟨h, here, goes, crew, rfl⟩)
  rw [each, State.phases]
  split
  · next none_ =>
    obtain ⟨h, here, crew, goes⟩ := some_
    exact absurd (none_ ▸ (counted _).mpr ⟨h, here, goes, crew, rfl⟩) List.not_mem_nil
  · next n ns list =>
    rw [list, le_foldl_min, List.forall_mem_cons]

theorem phaseDone_iff {b : Nat} (some_ : ∃ h ∈ s.harts, h.crewid.toNat = s.hart.crewid.toNat ∧ h.ended = false) :
    s.phaseDone b = true ↔ ∀ h ∈ s.harts, h.crewid.toNat = s.hart.crewid.toNat → h.ended = false →
      s.hart.arrived b ≤ h.arrived b := by
  rw [State.phaseDone, decide_eq_true_iff, le_phases_iff some_]

end Sys2Proof.Machine
end

section
/-! The settled obligation. -/

namespace Sys2Proof.Machine

/-- Settles O33: releases of a barrier object by the write that all releases make (`barUpdate_stores`), the object by its status rule
(`BarObj.judge_status`), and crew barriers by the frame of an arrival; a phase has completed once every hart that goes on has arrived as
often, and where none goes on the last case of the statement holds. -/
theorem barriers : Obligations.Barriers := by
  unfold Obligations.Barriers
  refine ⟨⟨?objects, ?sound, fun o n bad => BarObj.unsound_stays bad⟩, ?crews⟩
  case objects =>
    intro s d a sc x v va n o
    refine ⟨fun drained fits => ⟨?_, ?_⟩, fun fits => ⟨bcwaitAt_done fits, bcwaitAt_waits fits⟩⟩
    · obtain ⟨u, st, ends⟩ := barUpdate_stores drained fits fun o => o.post n
      exact ⟨u, st, ends _⟩
    · obtain ⟨u, st, ends⟩ := barUpdate_stores drained fits fun o => o.arrive n
      exact ⟨u, st, ends _⟩
  case sound =>
    exact fun o n sound small => ⟨BarObj.post_new sound small, BarObj.post_again, BarObj.arrive_sound sound⟩
  case crews =>
    intro s id sc b
    have named (h : b ≠ 0) : id ≠ 0 := fun e => h (congrArg BitVec.toNat e)
    by_cases some_ : ∃ h ∈ s.harts, h.crewid.toNat = s.hart.crewid.toNat ∧ h.ended = false
    · refine .inl ⟨fun quiet drained => ⟨?fence, ?arrives, fun h => vfenceAt_waits quiet drained (named h)⟩, barwaitAt_done,
        barwaitAt_waits, phaseDone_iff some_⟩
      case fence =>
        intro none_
        rw [show id = 0 from BitVec.eq_of_toNat_eq none_]
        exact vfenceAt_done quiet drained
      case arrives =>
        intro some_ done
        obtain ⟨-, hart, rest, latches⟩ := arrive_frame s b
        exact ⟨s.arrive b, vfenceAt_arrives quiet drained (named some_) done, (arrive_arrived s b b).trans (if_pos rfl),
          fun k other => (arrive_arrived s b k).trans (if_neg other), hart, rest, latches⟩
    · refine .inr fun h here crew => ?_
      by_contra goes
      exact some_ ⟨h, here, crew, Bool.eq_false_iff.mpr goes⟩

end Sys2Proof.Machine
end

section
/-! SUPPORT. System instructions: the instruction-cache locks that ICLOCK adds (R287, R327), and the record that SFRPOP takes (R281). -/

namespace Sys2Proof.Machine

variable {s : State} {d a : Reg}

/-! ### Waits and ends -/

theorem drainstNow_waits (inFlight : s.drained s.hart 4 = false) : s.drainstNow = .next (s.waitsOn .drainst) := by
  rw [State.drainstNow, State.waitStores, waitDrained_wait inFlight]
  rfl

theorem wfe_waits (asleep : s.hart.wake = false) : s.wfe d a false = .next (s.waitsOn (.wfe d a)) := by
  rw [State.wfe, asleep]
  rfl

/-- YIELD issues nothing for 16 clk (R334). -/
theorem execYield_ends (quiet : s.hart.quiet) : execYield s = .next (s.ended { s with clk := s.clk + 16 } (s.hart.pc + 4)) :=
  complete_ended (trigger_quiet _ quiet) rfl

/-! ### Instruction-cache locks (R287, R327) -/

/-- One more line makes at most one more distinct line. -/
theorem distinct_snoc_length (l : Nat) : ∀ (xs seen : List Nat), (distinct (xs ++ [l]) seen).length ≤ (distinct xs seen).length + 1
  | [], seen => by
    rw [List.nil_append, distinct, distinct]
    split <;> simp [distinct]
  | x :: xs, seen => by
    rw [List.cons_append, distinct, distinct]
    split
    · exact distinct_snoc_length l xs seen
    · exact distinct_snoc_length l xs (seen ++ [x])

/-- Whether the core could lock a line: another hart holds it locked, or its fetch would succeed. -/
def State.lockable (s : State) (h : Hart) (beside : List Nat) (l : Nat) : Bool := beside.contains l || s.lineFetchable h l

/-- How many lines a core holds locked for a hart with the locks `own`. -/
def coreLocks (beside own : List Nat) : Nat := (distinct (beside ++ own) []).length

theorem coreLocks_snoc (beside own : List Nat) (l : Nat) : coreLocks beside (own ++ [l]) ≤ coreLocks beside own + 1 := by
  rw [coreLocks, ← List.append_assoc]
  exact distinct_snoc_length ..

section
variable (s) (h : Hart) (beside : List Nat)

/-- A line that is not yet locked: none is added to a full core, and only a lockable one. -/
theorem lockLines_cons (l : Nat) (ls own : List Nat) : s.lockLines h beside (l :: ls) own =
    if 64 ≤ coreLocks beside own then own
    else s.lockLines h beside ls (if l ∉ own ∧ s.lockable h beside l = true then own ++ [l] else own) := by
  show (if 64 ≤ coreLocks beside own then own else if own.contains l = true then s.lockLines h beside ls own
    else if s.lockable h beside l = true then s.lockLines h beside ls (own ++ [l]) else s.lockLines h beside ls own) = _
  by_cases has : l ∈ own
  · simp [has]
  · by_cases ok : s.lockable h beside l = true <;> simp [has, ok]

/-- What ICLOCK makes of the hart's locks: they stay, lockable lines of the range join them, as many as the core's 64 allow, and a
lockable line is left out of a full core alone. -/
structure State.Locked (ls own new : List Nat) : Prop where
  kept : own <+: new
  added : ∀ l ∈ new, l ∈ own ∨ s.lockable h beside l = true ∧ l ∈ ls
  fits : coreLocks beside own ≤ 64 → coreLocks beside new ≤ 64
  full : ∀ l ∈ ls, s.lockable h beside l = true → l ∉ new → 64 ≤ coreLocks beside new

theorem lockLines_locked : ∀ ls own : List Nat, s.Locked h beside ls own (s.lockLines h beside ls own)
  | [], own => ⟨List.prefix_rfl, fun _ m => .inl m, fun e => e, fun _ m => absurd m List.not_mem_nil⟩
  | l :: ls, own => by
    rw [lockLines_cons]
    split
    · next full => exact ⟨List.prefix_rfl, fun _ m => .inl m, fun e => e, fun _ _ _ _ => full⟩
    · next room =>
      have rest := lockLines_locked ls (if l ∉ own ∧ s.lockable h beside l = true then own ++ [l] else own)
      obtain ⟨kept, added, fits, full⟩ := rest
      by_cases joins : l ∉ own ∧ s.lockable h beside l = true
      · rw [if_pos joins] at kept added fits full ⊢
        have mem : l ∈ s.lockLines h beside ls (own ++ [l]) := kept.subset (by simp)
        refine ⟨(List.prefix_append ..).trans kept, fun k hk => ?_, fun _ => fits ?_, fun k hk ok out => ?_⟩
        · rcases added k hk with old | ⟨ok, later⟩
          · rcases List.mem_append.mp old with old | new
            · exact .inl old
            · rw [List.mem_singleton.mp new]
              exact .inr ⟨joins.2, List.mem_cons_self ..⟩
          · exact .inr ⟨ok, List.mem_cons_of_mem _ later⟩
        · have := coreLocks_snoc beside own l
          omega
        · rcases List.mem_cons.mp hk with rfl | later
          · exact absurd mem out
          · exact full k later ok out
      · rw [if_neg joins] at kept added fits full ⊢
        refine ⟨kept, fun k hk => (added k hk).imp_right fun ⟨ok, later⟩ => ⟨ok, List.mem_cons_of_mem _ later⟩, fits,
          fun k hk ok out => ?_⟩
        rcases List.mem_cons.mp hk with rfl | later
        · exact absurd (kept.subset (not_not.mp fun new => joins ⟨new, ok⟩)) out
        · exact full k later ok out

end

/-- The lines of an ICLOCK: n from that of x(a) on. -/
def State.lockRange (s : State) (a : Reg) (n : BitVec 12) : List Nat :=
  (List.range n.toNat).map fun i => ((s.rx a).toNat / 512 + i) % 2 ^ 55

theorem mem_lockRange {n : BitVec 12} {l : Nat} :
    l ∈ s.lockRange a n ↔ ∃ i < n.toNat, l = ((s.rx a).toNat / 512 + i) % 2 ^ 55 := by
  simp [State.lockRange, eq_comm]

/-- ICLOCK leaves the hart those locks, and counts the lines of its range that are locked. -/
theorem execIclock_ends (s : State) (d a : Reg) (n : BitVec 12) :
    let beside := s.locksBeside s.hart.core s.hart.id
    let own := s.lockLines s.hart beside (s.lockRange a n) s.hart.locks
    execIclock d a n s = .next (s.ended (({ s with hart := { s.hart with locks := own } } : State).wx d (BitVec.ofNat 64
      ((List.range n.toNat).filter fun i => own.contains (((s.rx a).toNat / 512 + i) % 2 ^ 55) ||
        beside.contains (((s.rx a).toNat / 512 + i) % 2 ^ 55)).length)) (s.hart.pc + 4)) := by
  intro beside own
  have counted (p : Nat → Bool) : ((s.lockRange a n).filter p).length =
      ((List.range n.toNat).filter fun i => p (((s.rx a).toNat / 512 + i) % 2 ^ 55)).length := by
    rw [State.lockRange, List.filter_map, List.length_map]
    rfl
  rw [← counted fun l => own.contains l || beside.contains l]
  exact complete_ended (i := .iclock d a n) rfl (Hart.wx_pc ..)

/-! ### SFRPOP (R281) -/

/-- The third word of a record: the strip above the kind, the cause and the element. -/
theorem recWord_append (strip : BitVec 32) (kind : BitVec 3) (cause : BitVec 8) (elem : BitVec 16) :
    BitVec.ofNat 64 (elem.toNat + cause.toNat * 2 ^ 16 + kind.toNat * 2 ^ 24 + strip.toNat * 2 ^ 32) =
      (strip ++ (0 : BitVec 5) ++ kind ++ cause ++ elem : BitVec 64) := by
  apply BitVec.eq_of_toNat_eq
  have := strip.isLt
  have := kind.isLt
  have := cause.isLt
  have := elem.isLt
  have gap : (0 : BitVec 5).toNat = 0 := rfl
  simp only [BitVec.toNat_append, BitVec.toNat_ofNat, gap]
  rw [← Nat.shiftLeft_add_eq_or_of_lt, ← Nat.shiftLeft_add_eq_or_of_lt, ← Nat.shiftLeft_add_eq_or_of_lt, ← Nat.shiftLeft_add_eq_or_of_lt]
  · simp only [Nat.shiftLeft_eq]
    omega
  all_goals omega

/-- The four words that SFRPOP writes: those of the oldest record, or zeros. -/
def Hart.popWords (h : Hart) : Word × Word × Word × Word :=
  match h.sfrq with
  | [] => (0, 0, 0, 0)
  | r :: _ => r.words

theorem Hart.sfrpop_eq (h : Hart) (d : Nat) : h.sfrpop d =
    ((({ h with sfrq := h.sfrq.tail }.wx d h.popWords.1).wx (d + 1) h.popWords.2.1).wx (d + 2) h.popWords.2.2.1).wx (d + 3)
      h.popWords.2.2.2 := by
  cases e : h.sfrq <;> simp only [Hart.sfrpop, Hart.popWords, e]

/-- x(r) after an SFRPOP. -/
theorem Hart.rx_sfrpop (h : Hart) (d r : Nat) : (h.sfrpop d).rx r =
    if r = d + 3 then h.popWords.2.2.2 else if r = d + 2 then h.popWords.2.2.1 else if r = d + 1 then h.popWords.2.1
    else if r = d ∧ d ≠ 0 then h.popWords.1 else h.rx r := by
  rw [Hart.sfrpop_eq]
  simp only [Hart.rx_wx, ne_eq, Nat.add_eq_zero_iff, OfNat.ofNat_ne_zero, one_ne_zero, and_false, not_false_eq_true, and_true]
  rfl

/-- SFRPOP changes x registers, and the record is gone. -/
theorem Hart.sfrpop_frame (h : Hart) (d : Nat) : h.sfrpop d = { h with x := (h.sfrpop d).x, sfrq := h.sfrq.tail } := by
  have again {g k : Hart} (e : g = { h with x := g.x, sfrq := h.sfrq.tail }) (f : k = { g with x := k.x }) :
      k = { h with x := k.x, sfrq := h.sfrq.tail } := f.trans (congrArg (fun y : Hart => { y with x := k.x }) e)
  rw [Hart.sfrpop_eq]
  exact again (again (again (again rfl (Hart.wx_frame ..)) (Hart.wx_frame ..)) (Hart.wx_frame ..)) (Hart.wx_frame ..)

/-- SFRPOP ends at the next word, each record left one retired instruction older. -/
theorem execSfrpop_ends (s : State) (d : Reg) : ∃ t, execSfrpop d s = .next t ∧ (∀ r : Reg, t.rx r = (s.hart.sfrpop d.toNat).rx r.toNat) ∧
    t = { s with hart := { s.hart with x := t.hart.x, pc := s.hart.pc + 4, wait := none, parked := false,
                                       retired := s.hart.retired + 1, sfrq := s.hart.sfrq.tail.map fun r => { r with age := r.age + 1 } } } := by
  refine ⟨_, rfl, fun r => rfl, ?_⟩
  have retired : (s.hart.sfrpop d.toNat).retire (s.hart.sfrpop d.toNat).sfrq.length ((s.hart.sfrpop d.toNat).pc + 4) =
      { s.hart with x := (s.hart.sfrpop d.toNat).x, pc := s.hart.pc + 4, wait := none, parked := false, retired := s.hart.retired + 1,
                    sfrq := s.hart.sfrq.tail.map fun r => { r with age := r.age + 1 } } := by
    rw [Hart.retire, ageFirst_all, Hart.sfrpop_frame]
  exact congrArg (fun h : Hart => { s with hart := h }) retired

end Sys2Proof.Machine
end

section
/-! The settled obligation. -/

namespace Sys2Proof.Machine

/-- Settles O19: ICLOCK by what a lock of lines in order can do (`lockLines_locked`), SFRPOP by the registers that its four writes leave
(`Hart.rx_sfrpop`), the others as they end with nothing to wait for. -/
theorem systemInstructions : Obligations.SystemInstructions := by
  unfold Obligations.SystemInstructions
  refine ⟨fun s d a sc n => ⟨fenceAt_done, drainstNow_done, drainstNow_waits, execYield_ends, wfe_woken, wfe_waits,
    complete_ended (i := .icunlock) rfl rfl, ?iclock⟩, ?sfrpop⟩
  case iclock =>
    intro line beside fits
    obtain ⟨kept, added, few, full⟩ := lockLines_locked s s.hart beside (s.lockRange a n) s.hart.locks
    refine ⟨_, execIclock_ends s d a n, kept, fun l hl => (added l hl).imp_right fun ⟨ok, inside⟩ => ⟨ok, mem_lockRange.mp inside⟩, few,
      fun i hi => full _ (mem_lockRange.mpr ⟨i, hi, rfl⟩)⟩
  case sfrpop =>
    intro s d small
    obtain ⟨t, ends, reads, frame⟩ := execSfrpop_ends s d
    have next (k : Nat) (hk : k ≤ 3) : t.rx (d + BitVec.ofNat 7 k) = (s.hart.sfrpop d.toNat).rx (d.toNat + k) := by
      rw [reads, BitVec.toNat_add, BitVec.toNat_ofNat]
      congr 1
      omega
    have first : d ≠ 0 → t.rx d = s.hart.popWords.1 := by
      intro named
      have pos : d.toNat ≠ 0 := fun e => named (BitVec.eq_of_toNat_eq e)
      rw [reads, Hart.rx_sfrpop]
      simp [pos]
    have second : t.rx (d + 1) = s.hart.popWords.2.1 := by simpa [Hart.rx_sfrpop] using next 1 (by decide)
    have third : t.rx (d + 2) = s.hart.popWords.2.2.1 := by simpa [Hart.rx_sfrpop] using next 2 (by decide)
    have fourth : t.rx (d + 3) = s.hart.popWords.2.2.2 := by simpa [Hart.rx_sfrpop] using next 3 (by decide)
    refine ⟨t, ends, fun r other => ?_, ?_, frame⟩
    · rw [reads, Hart.rx_sfrpop, if_neg (by omega), if_neg (by omega), if_neg (by omega), if_neg (by omega)]
      rfl
    · cases held : s.hart.sfrq with
      | nil =>
        simp only [Hart.popWords, held] at first second third fourth
        exact ⟨first, second, third, fourth⟩
      | cons r rs =>
        simp only [Hart.popWords, held, SfrqRec.words, recWord_append] at first second third fourth
        exact ⟨first, second, third, fourth⟩

end Sys2Proof.Machine
end

section
/-! SUPPORT. Tokens and hand-over: VTRANS and VTRANSFF of positions that lie in mapped blocks (R271, R272, R394), VWAIT at issue (R225,
R398), and the checks and the event of HANDOFF (R219, R270). -/

namespace Sys2Proof.Machine

variable {s t u : State} {a b d : Reg} {m : BitVec 2} {sc : BitVec 3} {v : Vec} {x : Xlat}

/-! ### The machine after the pops -/

theorem popAll_transfers (s : State) (reads : List VRun) : (s.popAll reads).1.transfers = s.transfers := by
  refine List.foldlRecOn (motive := fun a : State × Option Stop => a.1.transfers = s.transfers) _ _ rfl fun a same x _ => ?_
  dsimp only
  split
  · exact same
  split
  · refine Eq.trans ?_ same
    unfold State.pop
    dsimp only
    split
    · rfl
    · rw [State.later_transfers]
  · exact same

theorem issues_transfers {reads writes : List VRun} {n : Nat} (iss : s.issues reads writes n t) : t.transfers = s.transfers := by
  obtain ⟨_, _, pops⟩ := iss
  have left := popAll_transfers s reads
  rwa [pops] at left

/-- Without transfers no range is held (R121). -/
theorem ritHit_free (clear : s.transfers = []) (h : Hart) (lo hi : Nat) : s.ritHit h lo hi = false := by
  rw [State.ritHit, clear]
  rfl

/-! ### Positions (R272) -/

theorem posRows_map {α : Type} (c : α → Bool) (p o : α → Nat) : ∀ l : List α,
    posRows (l.map c) (l.map p) (l.map o) = l.map fun i => (c i, p i, o i)
  | [] => rfl
  | _ :: l => congrArg (_ :: ·) (posRows_map c p o l)

theorem bitsNat_ones {α : Type} : ∀ l : List α, bitsNat (l.map fun _ => true) = 2 ^ l.length - 1
  | [] => rfl
  | _ :: l => by
    rw [List.map_cons, bitsNat, bitsNat_ones l, List.length_cons, Nat.pow_succ]
    have := Nat.one_le_two_pow (n := l.length)
    show 1 + 2 * _ = _
    omega

/-- A header with NBLK and a ROWB that is allowed (R271). -/
theorem tableHeader_ok {nblk rowb : Nat} (few : nblk < 2 ^ 32) (least : 64 ≤ rowb) (most : rowb ≤ 4096) (whole : rowb % 64 = 0) :
    tableHeader (nblk + rowb * 2 ^ 32) = some (nblk, rowb) := by
  have row : bitsAt (nblk + rowb * 2 ^ 32) 32 13 = rowb := by
    unfold bitsAt
    omega
  rw [tableHeader, row, if_neg (by omega), show (nblk + rowb * 2 ^ 32) % 2 ^ 32 = nblk by omega]

/-- A position at or above the floor whose entry reads and names a page in use (R272). -/
theorem position_mapped {tab nblk rowb tk p : Nat} (above : s.hart.wfloor.toNat ≤ tk) (inside : tk / 16 < nblk)
    (read : s.readField ((tab + 16 + 4 * (tk / 16)) % 2 ^ 64) 4 = .ok p) (named : p ≠ 0xFFFFFFFF)
    (used : (mget {} (s.app s.hart.app).kv p).owner ≠ 0) :
    s.position tab nblk rowb tk = .at (((s.app s.hart.app).kvwin + p * 65536 + tk % 16 * rowb) % 2 ^ 64) := by
  rw [State.position]
  simp only [entryAddr, read, if_neg (Nat.not_lt.mpr above), if_neg (Nat.not_le.mpr inside), named, used, or_self, if_false]

/-- Active positions that all come to an address give those addresses and set bits. -/
theorem positions_mapped {ff : Bool} {tab nblk rowb : Nat} {tk o addr : Nat → Nat} : ∀ (l : List Nat) (i : Nat),
    (∀ k ∈ l, s.position tab nblk rowb (tk k) = .at (addr k)) →
      s.positions ff tab nblk rowb (l.map fun k => (true, tk k, o k)) i = .ok (l.map addr, l.map fun _ => true)
  | [], _, _ => rfl
  | k :: l, i, all => by
    rw [List.map_cons, State.positions, all k (List.mem_cons_self ..),
      positions_mapped l (i + 1) fun j hj => all j (List.mem_cons_of_mem _ hj)]
    rfl

/-- The header of the table at x(b) and the entry of every position read, and each position lies in a mapped block: `ps` are the pages. -/
structure State.Mapped (s : State) (b : Reg) (v : Vec) (nblk rowb : Nat) (ps : List Nat) : Prop where
  header : ∃ w, s.readField (s.rx b).toNat 16 = .ok w ∧ tableHeader w = some (nblk, rowb)
  blocks : ∀ k < s.hart.vl, s.hart.wfloor.toNat ≤ v.elems.getD k 0 ∧ v.elems.getD k 0 / 16 < nblk ∧
    s.readField (((s.rx b).toNat + 16 + 4 * (v.elems.getD k 0 / 16)) % 2 ^ 64) 4 = .ok (ps.getD k 0) ∧
    ps.getD k 0 ≠ 0xFFFFFFFF ∧ (mget {} (s.app s.hart.app).kv (ps.getD k 0)).owner ≠ 0

/-- The rows of an unmasked translation: every element is active. -/
theorem posRows_unmasked {h : Hart} {old : List Nat} (long : old.length = h.vl) :
    posRows (h.act (0 : BitVec 2).toNat) (fitLen h.vl v.elems) old =
      (List.range h.vl).map fun k => (true, v.elems.getD k 0, old.getD k 0) := by
  rw [fitLen_eq_map]
  conv_lhs => rw [eq_map_getD long]
  exact posRows_map _ _ _ _

/-- The address of token k of a row of ROWB bytes in its page. -/
def State.tokenAddr (s : State) (v : Vec) (rowb : Nat) (ps : List Nat) (k : Nat) : Nat :=
  ((s.app s.hart.app).kvwin + ps.getD k 0 * 65536 + v.elems.getD k 0 % 16 * rowb) % 2 ^ 64

/-- The hart once an unmasked translation has written every address and set the bits below VL. -/
def State.translated (s : State) (d : Reg) (v : Vec) (rowb : Nat) (ps : List Nat) : Hart :=
  (s.hart.writeVec d.toNat (plainVec .n64 ((List.range s.hart.vl).map (s.tokenAddr v rowb ps)))).setPred 0 (2 ^ s.hart.vl - 1)

theorem translated_vl (s : State) (d : Reg) (v : Vec) (rowb : Nat) (ps : List Nat) : (s.translated d v rowb ps).vl = s.hart.vl :=
  (Hart.setPred_vl ..).trans (Hart.writeGroup_vl ..)

/-- Samples taken by a hart whose VL stays. -/
theorem takeSamples_vl (s : State) {g : Hart} {n : Nat} (stays : g.vl = n) (vas : List Nat) :
    ({ s.takeSamples g vas with vl := n } : Hart) = { g with samples := (s.takeSamples g vas).samples } := by
  subst stays
  rw [takeSamples_eq]

/-- The addresses of which an unmasked translation takes samples: those of the header and of the entries that it reads. -/
def State.tableReads (s : State) (b : Reg) (v : Vec) (nblk : Nat) : List Nat :=
  (s.rx b).toNat :: ((s.rx b).toNat + 15) % 2 ^ 64 :: ((pickActive (s.hart.act (0 : BitVec 2).toNat) (fitLen s.hart.vl v.elems)).filter
    (readsEntry s.hart nblk)).map (entryAddr (s.rx b).toNat)

/-- Both translations of positions in mapped blocks, unmasked, write every address, set the bits below VL, and take samples. -/
theorem transGo_mapped {nblk rowb : Nat} {ps : List Nat} (clear : s.transfers = []) (map : s.Mapped b v nblk rowb ps) (ff : Bool)
    {old : List Nat} (long : old.length = s.hart.vl) : s.transGo ff d b 0 v old = .ok { s with hart := { s.translated d v rowb ps with
      samples := (s.takeSamples (s.translated d v rowb ps) (s.tableReads b v nblk)).samples } } := by
  have kept : (if s.hart.mz then List.replicate s.hart.vl 0 else old).length = s.hart.vl := by split <;> simp [long]
  have found := positions_mapped (s := s) (ff := ff) (tab := (s.rx b).toNat) (nblk := nblk) (rowb := rowb)
    (tk := fun k => v.elems.getD k 0) (o := fun k => (if s.hart.mz then List.replicate s.hart.vl 0 else old).getD k 0)
    (addr := s.tokenAddr v rowb ps) (List.range s.hart.vl) 0 fun k hk => by
      obtain ⟨above, inside, read, named, used⟩ := map.blocks k (List.mem_range.mp hk)
      rw [State.tokenAddr]
      exact position_mapped above inside read named used
  have free : ((((pickActive (s.hart.act (0 : BitVec 2).toNat) (fitLen s.hart.vl v.elems)).filter (readsEntry s.hart nblk)).map
      (entryAddr (s.rx b).toNat)).any fun e => s.ritHit s.hart e (e + 4)) = false :=
    List.any_eq_false.mpr fun e _ => by rw [ritHit_free clear]; exact Bool.false_ne_true
  obtain ⟨w, header, fields⟩ := map.header
  rw [State.transGo]
  simp only [ritHit_free clear s.hart (s.rx b).toNat, header, fields, posRows_unmasked kept, found, free, Bool.false_eq_true, if_false,
    bitsNat_ones, List.length_map, List.length_range, -Nat.reducePow]
  exact congrArg (fun h : Hart => Except.ok { s with hart := h }) (takeSamples_vl s (translated_vl s d v rowb ps) (s.tableReads b v nblk))

/-! ### VTRANS and VTRANSFF (R394) -/

/-- What the mask keeps of the old destination is the same after the pops. -/
theorem issues_keeps {reads writes : List VRun} {n : Nat} (iss : s.issues reads writes n t) (m : BitVec 2) :
    t.hart.keeps m = s.hart.keeps m := by
  obtain ⟨_, _, _, frame⟩ := issues_frame iss
  rw [frame]
  rfl

/-- A translation that issues at N64 with SLUICE ends as its positions say. -/
theorem trans_ok {i : Instr} {ff : Bool} {o : Opd} (able : s.hart.feat 7 = true) (fmt : s.hart.fmt = .n64)
    (iss : s.issues (s.hart.tagRun a.toNat :: (if s.hart.keeps m then [s.hart.opRun d.toNat] else [])) [s.hart.gRun d.toNat] m.toNat t)
    (read : t.hart.tagged a.toNat (fun f => decide (f = .n32)) = .ok v) (old : s.oldOf t false d m o)
    (goes : t.transGo ff d b m v o.elems = .ok u) : s.trans i ff d a b m = .next (s.ended u (u.hart.pc + 4)) := by
  have ready := iss.1
  rw [State.oldOf, Bool.false_or] at old
  have kept := old_read old
  rw [← issues_keeps iss] at kept
  rw [State.trans]
  simp only [able, fmt, ready, ne_eq, not_true_eq_false, decide_false, Bool.not_true, Bool.or_self, Bool.false_eq_true, if_false]
  rw [issues_ok iss]
  · exact complete_ok ..
  · simp only [read, kept, goes]

theorem Hart.keeps_unmasked (h : Hart) : h.keeps 0 = false := by simp [Hart.keeps]

/-- Unmasked, the old destination is not read. -/
theorem oldOf_unmasked (s t : State) (d : Reg) : s.oldOf t false d 0 t.hart.zeroOpd := by
  rw [State.oldOf, s.hart.keeps_unmasked]
  rfl

/-! ### VWAIT at issue (R225, R398) -/

/-- The machine after the pops, whose hart remembers what its waiting VWAIT has found satisfied. -/
def State.remembering (t : State) (known : List Nat) : State := { t with hart := { t.hart with met := known } }

/-- Samples are taken without regard to what the hart remembers. -/
theorem remembering_takeSamples (t : State) (known : List Nat) : ∀ (vas : List Nat) (h : Hart),
    (t.remembering known).takeSamples { h with met := known } vas = { t.takeSamples h vas with met := known }
  | [], _ => rfl
  | va :: vas, h => by
    have one : (t.remembering known).takeSample { h with met := known } va = { t.takeSample h va with met := known } := by
      unfold State.takeSample
      show (match h.sampleOf va with | some _ => _ | none => _) = _
      cases h.sampleOf va <;> rfl
    show (t.remembering known).takeSamples ((t.remembering known).takeSample { h with met := known } va) vas = _
    rw [one]
    exact remembering_takeSamples t known vas (t.takeSample h va)

section
variable (iss : s.issues [s.hart.tagRun a.toNat] [] 0 t) (read : t.hart.tagged a.toNat (fun f => decide (f = .n64)) = .ok v)
  (clear : ∀ k < t.hart.vl, k ∉ s.hart.metOf (.vwait a b sc) → t.ritHit t.hart (v.elems.getD k 0) (v.elems.getD k 0 + 8) = false)
include iss read clear

/-- VWAIT ends at issue with WTMO 0, which checks once, and where every element is satisfied (R225). -/
theorem vwaitAt_issues (finished : s.hart.wtmo = 0 ∨
      ∀ k < t.hart.vl, (t.remembering (s.hart.metOf (.vwait a b sc))).waitDone b v k = true) :
    s.vwaitAt a b sc false = .next (s.ended
      { t with hart := (t.remembering (s.hart.metOf (.vwait a b sc))).afterVwait b v } (t.hart.pc + 4)) := by
  have ready := iss.1
  obtain ⟨_, _, _, frame⟩ := issues_frame iss
  have vl : s.hart.vl = t.hart.vl := by rw [frame]
  have same : t.ritHit s.hart = t.ritHit t.hart := by rw [frame]; rfl
  generalize hu : t.remembering (s.hart.metOf (.vwait a b sc)) = u at finished ⊢
  have left : (List.zip (List.range (fitLen t.hart.vl v.elems).length) (fitLen t.hart.vl v.elems)).filter
      (fun e => !(s.hart.metOf (.vwait a b sc)).contains e.1) = u.hart.openElems v := by rw [← hu]; rfl
  have free : ((u.hart.openElems v).any fun e => t.ritHit t.hart e.2 (e.2 + 8)) = false := by
    refine List.any_eq_false.mpr fun e he => ?_
    obtain ⟨hk, new, at_⟩ := mem_openElems.mp he
    rw [← hu] at hk new
    rw [at_, clear _ hk new]
    exact Bool.false_ne_true
  have found : (List.range (fitLen t.hart.vl v.elems).length).map (fun k => !(s.hart.metOf (.vwait a b sc) ++
      ((u.hart.openElems v).filter fun e => t.waitMet (t.rx b).toNat e.2).map Prod.fst).contains k) =
        (List.range t.hart.vl).map fun k => !u.waitDone b v k := by
    rw [fitLen_length, ← hu]
    exact List.map_congr_left fun k hk => congrArg not (waitDone_contains (t.remembering _) b v (List.mem_range.mp hk))
  have ends : (((List.range t.hart.vl).map fun k => !u.waitDone b v k).any (fun x => x) && decide (s.hart.wtmo ≠ 0)) = false := by
    rcases finished with none_ | all
    · rw [none_, decide_eq_false (by simp), Bool.and_false]
    · rw [Bool.and_eq_false_iff]
      refine .inl (List.any_eq_false.mpr fun x hx => ?_)
      obtain ⟨k, hk, rfl⟩ := List.mem_map.mp hx
      rw [all k (List.mem_range.mp hk)]
      exact Bool.false_ne_true
  rw [State.vwaitAt]
  simp only [ready]
  rw [issues_ok iss (u := { t with hart := u.afterVwait b v })]
  · have pc : (u.afterVwait b v).pc = t.hart.pc := by rw [afterVwait_eq, ← hu]; rfl
    rw [complete_ok, pc]
    rfl
  · simp only [read, vl, same, left, free, found, Bool.false_and, Bool.not_false, Bool.and_true, ends, Bool.false_eq_true, if_false]
    rw [← hu, State.afterVwait, show (t.remembering _).hart = { t.hart with met := s.hart.metOf (.vwait a b sc) } from rfl,
      remembering_takeSamples]

end

/-! ### HANDOFF (R219, R270) -/

/-- The entries of a page list, each of a page that the prompt side owns (R270, check 6). -/
theorem handPages_ok : ∀ (n va : Nat) (ps : List Nat), ps.length = n →
    (∀ k < n, s.readNow ((va + 4 * k) % 2 ^ 64) 4 = .ok (ps.getD k 0) ∧
      (mget {} (s.app s.hart.app).kv (ps.getD k 0)).owner = 1) → s.handPages (va % 2 ^ 64) n = .ok ps
  | 0, _, ps, len, _ => by rw [List.length_eq_zero_iff.mp len]; rfl
  | n + 1, va, p :: ps, len, all => by
    obtain ⟨read, owned⟩ : s.readNow (va % 2 ^ 64) 4 = .ok p ∧ (mget {} (s.app s.hart.app).kv p).owner = 1 := all 0 (Nat.succ_pos n)
    have rest := handPages_ok n (va + 4) ps (Nat.succ.inj len) fun k hk => by
      have next := all (k + 1) (Nat.succ_lt_succ hk)
      rwa [show va + 4 * (k + 1) = va + 4 + 4 * k by omega, List.getD_cons_succ] at next
    rw [State.handPages, read]
    dsimp only
    rw [if_neg (not_not.mpr owned), Nat.mod_add_mod, rest]

/-- What HANDOFF checks of the flag, the list and the owners (R270). -/
theorem handChecks_ok {flag list : Word} {ps : List Nat} (clear : s.transfers = []) (aligned : flag.toNat % 8 = 0) (side : s.hart.core < 160)
    (page : s.forStore (s.xlat s.hart flag.toNat) = .ok x) (plain : x.encoded = false) (count : s.readNow list.toNat 8 = .ok ps.length)
    (few : ps.length ≤ 256) (entries : ∀ k < ps.length, s.readNow ((list.toNat + 8 + 4 * k) % 2 ^ 64) 4 = .ok (ps.getD k 0) ∧
      (mget {} (s.app s.hart.app).kv (ps.getD k 0)).owner = 1) : s.handChecks flag list = .ok (x, ps) := by
  rw [State.handChecks]
  simp only [aligned, Nat.not_le.mpr side, page, plain, ritHit_free clear, count, Nat.not_lt.mpr few,
    handPages_ok ps.length _ ps rfl entries, ne_eq, not_true_eq_false, Bool.false_eq_true, if_false, -Nat.reducePow]

/-- The owners of an application's pages once those of a list have been given to the generating side, and their frames. -/
theorem givePages_kv (q : Nat) : ∀ (ps : List Nat) (kv : List (Nat × KvPage)),
    (mget {} (ps.foldl (fun m p => mset {} m p { mget {} m p with owner := 2 }) kv) q).owner = (if q ∈ ps then 2 else (mget {} kv q).owner) ∧
      (mget {} (ps.foldl (fun m p => mset {} m p { mget {} m p with owner := 2 }) kv) q).pa = (mget {} kv q).pa
  | [], kv => ⟨rfl, rfl⟩
  | p :: ps, kv => by
    obtain ⟨owner, pa⟩ := givePages_kv q ps (mset {} kv p { mget {} kv p with owner := 2 })
    rw [List.foldl_cons, owner, pa, mget_mset]
    by_cases same : q = p
    · subst same
      simp
    · simp [same]

/-- The event of R219: pages given, and the flag written. -/
theorem handOver_app (s : State) (x : Xlat) (flag value list : Word) (ps : List Nat) (q : Nat) :
    (mget {} ((s.handOver x flag value list ps).app s.hart.app).kv q).owner =
        (if q ∈ ps then 2 else (mget {} (s.app s.hart.app).kv q).owner) ∧
      (mget {} ((s.handOver x flag value list ps).app s.hart.app).kv q).pa = (mget {} (s.app s.hart.app).kv q).pa := by
  have kv : ((s.handOver x flag value list ps).app s.hart.app).kv =
      ps.foldl (fun m p => mset {} m p { mget {} m p with owner := 2 }) (s.app s.hart.app).kv := by
    show (State.app (s.setApp s.hart.app _) s.hart.app).kv = _
    rw [app_setApp, if_pos rfl]
  rw [kv]
  exact givePages_kv q ps _

theorem handOver_mem (s : State) (x : Xlat) (flag value list : Word) (ps : List Nat) (p : Nat) :
    mget unlistedByte (s.handOver x flag value list ps).mem p = if x.addr flag.toNat ≤ p ∧ p < x.addr flag.toNat + 8
      then BitVec.ofNat 8 (value.toNat / 256 ^ (p - x.addr flag.toNat)) else mget unlistedByte s.mem p :=
  mget_putCells_cellsLE p 8 (x.addr flag.toNat) value.toNat s.mem

end Sys2Proof.Machine
end

section
/-! The settled obligation. -/

namespace Sys2Proof.Machine

/-- Settles O35: the translations by their positions (`transGo_mapped`), VWAIT by what it finds at issue (`vwaitAt_issues`), HANDOFF by its
checks and the event in which the pages change hands and the flag is written. -/
theorem tokensAndHandoff : Obligations.TokensAndHandoff := by
  unfold Obligations.TokensAndHandoff
  refine ⟨?trans, ?unmasked, ?positions, ?vwait, ?handoff⟩
  case trans =>
    intro s t u d a b m v o h reads able fmt iss read old
    exact ⟨trans_ok able fmt iss read old, trans_ok able fmt iss read old⟩
  case unmasked =>
    intro s t d a b v nblk rowb ps tab h able fmt iss clear read header few least most whole _ blocks
    have map : t.Mapped b v nblk rowb ps := ⟨⟨_, header, tableHeader_ok few least most whole⟩, blocks⟩
    have none_ : (if s.hart.keeps 0 then [s.hart.opRun d.toNat] else []) = [] := if_neg (by rw [s.hart.keeps_unmasked]; exact Bool.false_ne_true)
    have goes (ff : Bool) := transGo_mapped (d := d) ((issues_transfers iss).trans clear) map ff (zeroOpd_length t.hart)
    have ends {i : Instr} (ff : Bool) := trans_ok (i := i) (m := 0) able fmt (by rw [none_]; exact iss) read (oldOf_unmasked s t d) (goes ff)
    refine ⟨(t.takeSamples (t.translated d v rowb ps) (t.tableReads b v nblk)).samples, fun i hi => ?_⟩
    rcases List.mem_cons.mp hi with rfl | hi
    · exact ends false
    · rw [List.mem_singleton.mp hi]
      exact ends true
  case positions =>
    intro s d b v old nblk rowb ps tab h clear header few least most whole long _ blocks
    exact ⟨_, transGo_mapped clear ⟨⟨_, header, tableHeader_ok few least most whole⟩, blocks⟩ false long⟩
  case vwait =>
    intro s t a b sc v iss read known met free finished
    refine ⟨(t.remembering known).afterVwait b v, ?_, afterVwait_eq _ b v, fun k hk => afterVwait_pred _ b v hk,
      fun k hk => afterVwait_pred0 _ b v hk⟩
    have ends := vwaitAt_issues iss read free finished
    have pc : ((t.remembering known).afterVwait b v).pc = t.hart.pc := by rw [afterVwait_eq]; rfl
    rw [State.endsWith, pc]
    exact ends
  case handoff =>
    intro s d a b x ps quiet able clear aligned side page plain open_ count few entries
    exact ⟨s.handOver x (s.rx a) (s.rx d) (s.rx b) ps,
      handoffAt_done quiet able clear open_ (handChecks_ok clear aligned side page plain count few entries),
      handOver_app s x _ _ _ ps, handOver_mem s x _ _ _ ps⟩

end Sys2Proof.Machine
end

section
/-! SUPPORT. Trains at their destination (R221, R391): what a train may change of the machine, the bytes that its elements and its tail
write, and the indices that fault. -/

namespace Sys2Proof.Machine

variable {s t u x : State} {own : Bool} {w : Who} {app : Nat} {bar : Word} {es : List TrainElem}

/-! ### What a train may change -/

/-- `u` is `s` after writes to memory: bytes, poison, links and latches may differ. -/
def State.Performs (s u : State) : Prop :=
  u = { s with mem := u.mem, poison := u.poison, hart := { s.hart with links := u.hart.links, wake := u.hart.wake }, others := u.others }

theorem State.Performs.refl (s : State) : s.Performs s := rfl

theorem State.Performs.trans (a : s.Performs u) (b : u.Performs x) : s.Performs x :=
  Eq.trans b (congrArg (fun y : State =>
    { y with mem := x.mem, poison := x.poison, hart := { y.hart with links := x.hart.links, wake := x.hart.wake }, others := x.others }) a)

theorem breakLinks_eq (h : Hart) (other : Bool) (lines : List Nat) : h.breakLinks other lines =
    { h with links := (h.breakLinks other lines).links, wake := (h.breakLinks other lines).wake } := by
  unfold Hart.breakLinks
  split <;> rfl

theorem writePhys_performs (s : State) (own : Bool) (cells : List (Nat × Nat)) : s.Performs (s.writePhys own cells) :=
  congrArg (fun h : Hart => ({ s.writePhys own cells with hart := h } : State)) (breakLinks_eq s.hart (!own) (cells.map fun c => c.1 / 64))

/-- Where elements and tails go does not depend on what trains write. -/
theorem State.Performs.trainAddr (a : s.Performs u) (w : Who) (app : Nat) (e : TrainElem) : u.trainAddr w app e = s.trainAddr w app e := by
  rw [a]
  rfl

theorem State.Performs.tailAddr (a : s.Performs u) (w : Who) (app : Nat) (bar : Word) : u.tailAddr w app bar = s.tailAddr w app bar := by
  rw [a]
  rfl

/-! ### Bytes -/

/-- Bytes written in a row. -/
theorem mget_putBytes (pa p : Nat) (m : List Host.Cell) (bs : List Byte) :
    mget unlistedByte (putCells m ((List.zip (List.range bs.length) bs).map fun b => (pa + b.1, b.2.toNat))) p =
      if pa ≤ p ∧ p < pa + bs.length then bs.getD (p - pa) 0 else mget unlistedByte m p := by
  induction bs using List.reverseRecOn with
  | nil => exact (if_neg fun inside => by simp at inside; omega).symm
  | append_singleton bs b ih =>
    rw [List.length_append, List.length_singleton, List.range_succ, List.zip_append (by simp), List.zip_cons_cons, List.zip_nil_right,
      List.map_append, putCells_append, List.map_singleton, putCells, putCells, mget_mset]
    by_cases last : p = pa + bs.length
    · subst last
      rw [if_pos rfl, if_pos (by omega), Nat.add_sub_cancel_left, List.getD_append_right _ _ _ _ (Nat.le_refl _), Nat.sub_self]
      exact BitVec.eq_of_toNat_eq (by simp)
    · rw [if_neg last, ih]
      by_cases inside : pa ≤ p ∧ p < pa + bs.length
      · rw [if_pos inside, if_pos (by omega), List.getD_append _ _ _ _ (by omega)]
      · rw [if_neg inside, if_neg (by omega)]

/-- The bytes of a number read back. -/
theorem readLE_bytes {m : List Host.Cell} : ∀ {n pa v : Nat},
    (∀ p, pa ≤ p → p < pa + n → mget unlistedByte m p = BitVec.ofNat 8 (v / 256 ^ (p - pa))) → readLE m pa n = v % 256 ^ n
  | 0, _, _, _ => (Nat.mod_one _).symm
  | n + 1, pa, v, bytes => by
    have rest : readLE m (pa + 1) n = v / 256 % 256 ^ n := readLE_bytes fun p lo hi => by
      rw [bytes p (by omega) (by omega), Nat.div_div_eq_div_mul, ← Nat.pow_succ', show (p - (pa + 1)).succ = p - pa by omega]
    have low : v % 256 ^ (n + 1) = v % 256 + 256 * (v / 256 % 256 ^ n) := by rw [Nat.pow_succ', Nat.mod_mul]
    rw [readLE, rest, bytes pa (Nat.le_refl _) (by omega), Nat.sub_self, Nat.pow_zero, Nat.div_one, BitVec.toNat_ofNat, low]

theorem readLE_putCells_cellsLE (m : List Host.Cell) (pa n v : Nat) : readLE (putCells m (cellsLE pa n v)) pa n = v % 256 ^ n :=
  readLE_bytes fun p lo hi => by rw [mget_putCells_cellsLE, if_pos ⟨lo, hi⟩]

/-! ### The elements -/

/-- Byte p is one of element e at its place. -/
def State.covers (s : State) (w : Who) (app : Nat) (e : TrainElem) (p : Nat) : Prop :=
  ∃ va x, s.trainAddr w app e = some (va, x) ∧ x.addr va ≤ p ∧ p < x.addr va + e.bytes.length

/-- The cells that an element of a train writes: none where it faults. -/
def State.trainCells (s : State) (w : Who) (app : Nat) (e : TrainElem) : List (Nat × Nat) :=
  match s.trainAddr w app e with
  | none => []
  | some (va, x) => (List.zip (List.range e.bytes.length) e.bytes).map fun b => (x.addr va + b.1, b.2.toNat)

/-- The bytes that the elements of a train write which have a place. -/
def State.trainBytes (s : State) (w : Who) (app : Nat) (es : List TrainElem) : Nat :=
  ((es.filter fun e => (s.trainAddr w app e).isSome).map fun e => e.bytes.length).sum

theorem trainCells_covers {e : TrainElem} {c : Nat × Nat} (m : c ∈ s.trainCells w app e) : s.covers w app e c.1 := by
  rw [State.trainCells] at m
  split at m
  · exact absurd m List.not_mem_nil
  · next va x placed =>
    obtain ⟨b, hb, rfl⟩ := List.mem_map.mp m
    have below := List.mem_range.mp (List.of_mem_zip hb).1
    exact ⟨va, x, placed, Nat.le_add_right .., Nat.add_lt_add_left below _⟩

/-- The elements of a train performed one after another: what they write, which fault, and how many bytes have performed. -/
theorem foldl_trainElem (s : State) (own : Bool) (w : Who) (app : Nat) : ∀ (es : List TrainElem) (r : State × List Nat × Nat),
    s.Performs r.1 → ∃ u, s.Performs u ∧ u.mem = putCells r.1.mem (es.flatMap (s.trainCells w app)) ∧
      es.foldl (State.trainElem own w app) r =
        (u, r.2.1 ++ (es.filter fun e => (s.trainAddr w app e).isNone).map TrainElem.index, r.2.2 + s.trainBytes w app es)
  | [], r, a => ⟨r.1, a, rfl, by simp [State.trainBytes]⟩
  | e :: es, r, a => by
    rw [List.foldl_cons, State.trainElem, a.trainAddr, List.flatMap_cons, putCells_append]
    cases placed : s.trainAddr w app e with
    | none =>
      obtain ⟨u, b, mem, ends⟩ := foldl_trainElem s own w app es (r.1, r.2.1 ++ [e.index], r.2.2) a
      refine ⟨u, b, ?_, ?_⟩
      · rw [mem, State.trainCells, placed]
        rfl
      · dsimp only
        rw [ends]
        simp [State.trainBytes, placed]
    | some q =>
      obtain ⟨va, x⟩ := q
      obtain ⟨u, b, mem, ends⟩ := foldl_trainElem s own w app es
        (r.1.writePhys own ((List.zip (List.range e.bytes.length) e.bytes).map fun b => (x.addr va + b.1, b.2.toNat)), r.2.1,
          r.2.2 + e.bytes.length) (a.trans (writePhys_performs ..))
      refine ⟨u, b, ?_, ?_⟩
      · rw [mem, State.trainCells, placed]
        rfl
      · dsimp only
        rw [ends]
        simp [State.trainBytes, placed, Nat.add_assoc]

theorem elems_outside {p : Nat} (m : List Host.Cell) (out : ∀ e ∈ es, ¬ s.covers w app e p) :
    mget unlistedByte (putCells m (es.flatMap (s.trainCells w app))) p = mget unlistedByte m p := by
  refine mget_putCells_of_not_mem p _ _ fun c hc at_ => ?_
  obtain ⟨e, he, m⟩ := List.mem_flatMap.mp hc
  exact out e he (at_ ▸ trainCells_covers m)

/-- A byte of an element that no later element writes. -/
theorem elems_byte {l r : List TrainElem} {e : TrainElem} {va j : Nat} {y : Xlat} (m : List Host.Cell)
    (placed : s.trainAddr w app e = some (va, y)) (inside : j < e.bytes.length) (last : ∀ q ∈ r, ¬ s.covers w app q (y.addr va + j)) :
    mget unlistedByte (putCells m ((l ++ e :: r).flatMap (s.trainCells w app))) (y.addr va + j) = e.bytes.getD j 0 := by
  rw [List.flatMap_append, List.flatMap_cons, putCells_append, putCells_append, elems_outside _ last]
  have cells : s.trainCells w app e = (List.zip (List.range e.bytes.length) e.bytes).map fun b => (y.addr va + b.1, b.2.toNat) := by
    rw [State.trainCells, placed]
  rw [cells, mget_putBytes, if_pos ⟨by omega, by omega⟩, Nat.add_sub_cancel_left]

/-! ### The tail -/

theorem BarObj.ofNat_lt (n : Nat) : (BarObj.ofNat n).w0 < 2 ^ 64 ∧ (BarObj.ofNat n).w1 < 2 ^ 64 :=
  ⟨Nat.mod_lt _ (by decide), Nat.mod_lt _ (by decide)⟩

theorem barWord_lt (c : Nat) {st : Nat} (small : st < 4) : barWord c st < 2 ^ 64 := by
  unfold barWord
  omega

/-- The status rule leaves two words of 64 bits. -/
theorem BarObj.judge_lt {o : BarObj} (words : o.w0 < 2 ^ 64 ∧ o.w1 < 2 ^ 64) : o.judge.w0 < 2 ^ 64 ∧ o.judge.w1 < 2 ^ 64 := by
  rw [BarObj.judge_w0]
  refine ⟨words.1, ?_⟩
  unfold BarObj.judge
  split
  · exact barWord_lt _ (by split <;> decide)
  · exact words.2

/-- So does an arrival. -/
theorem BarObj.arrive_lt {o : BarObj} (n : Nat) (words : o.w0 < 2 ^ 64 ∧ o.w1 < 2 ^ 64) :
    (o.arrive n).w0 < 2 ^ 64 ∧ (o.arrive n).w1 < 2 ^ 64 := by
  by_cases sound : o.sound = true
  · obtain ⟨-, -, few⟩ := o.sound_iff.mp sound
    rw [BarObj.arrive_word sound rfl]
    exact BarObj.judge_lt ⟨words.1, barWord_lt _ (by split <;> omega)⟩
  · rw [(BarObj.unsound_stays (Bool.eq_false_iff.mpr sound)).2]
    exact words

/-- The 16 bytes of an object hold it. -/
theorem BarObj.toNat_mod {o : BarObj} (words : o.w0 < 2 ^ 64 ∧ o.w1 < 2 ^ 64) : o.toNat % 256 ^ 16 = o.toNat := by
  obtain ⟨w0, w1⟩ := o
  have lo : w0 < 2 ^ 64 := words.1
  have hi : w1 < 2 ^ 64 := words.2
  refine Nat.mod_eq_of_lt ?_
  show w0 + w1 * 2 ^ 64 < 256 ^ 16
  omega

/-- The place of the object that a train's tail names, where it has a tail that can be updated. -/
def State.tailPlace (s : State) (w : Who) (app : Nat) (bar : Word) : Option Nat :=
  if bar = 0 then none else (s.tailAddr w app bar).map fun p => p.2.addr p.1

/-- Byte p is one of that object. -/
def State.inTail (s : State) (w : Who) (app : Nat) (bar : Word) (p : Nat) : Prop :=
  bar ≠ 0 ∧ ∃ va x, s.tailAddr w app bar = some (va, x) ∧ x.addr va ≤ p ∧ p < x.addr va + 16

theorem tailPlace_some {pa : Nat} : s.tailPlace w app bar = some pa ↔
    bar ≠ 0 ∧ ∃ va x, s.tailAddr w app bar = some (va, x) ∧ x.addr va = pa := by
  unfold State.tailPlace
  by_cases none_ : bar = 0
  · rw [if_pos none_]
    exact iff_of_false (fun e => nomatch e) fun e => e.1 none_
  · rw [if_neg none_, Option.map_eq_some_iff]
    exact ⟨fun ⟨⟨va, x⟩, found, at_⟩ => ⟨none_, va, x, found, at_⟩, fun ⟨_, va, x, found, at_⟩ => ⟨(va, x), found, at_⟩⟩

/-- Memory after the elements and the tail of a train. -/
def State.trainMem (s : State) (w : Who) (app : Nat) (bar : Word) (es : List TrainElem) : List Host.Cell :=
  let m := putCells s.mem (es.flatMap (s.trainCells w app))
  match s.tailPlace w app bar with
  | none => m
  | some pa => putCells m (cellsLE pa 16 ((BarObj.ofNat (readLE m pa 16)).arrive (s.trainBytes w app es)).toNat)

/-- A train performed: what it may change, memory, and the indices that fault (R221). -/
theorem runTrain_spec (s : State) (own : Bool) (w : Who) (app : Nat) (bar : Word) (es : List TrainElem) :
    s.Performs (s.runTrain own w app bar es).1 ∧ (s.runTrain own w app bar es).1.mem = s.trainMem w app bar es ∧
      (s.runTrain own w app bar es).2 = (es.filter fun e => (s.trainAddr w app e).isNone).map TrainElem.index := by
  obtain ⟨u, a, mem, ends⟩ := foldl_trainElem s own w app es (s, [], 0) (.refl s)
  rw [State.runTrain, ends, State.trainMem, State.tailPlace, ← mem]
  dsimp only
  by_cases none_ : bar = 0
  · rw [if_pos none_, if_pos none_]
    exact ⟨a, rfl, rfl⟩
  · rw [if_neg none_, if_neg none_, a.tailAddr, Nat.zero_add]
    cases s.tailAddr w app bar with
    | none => exact ⟨a, rfl, rfl⟩
    | some p => exact ⟨a.trans (writePhys_performs ..), rfl, rfl⟩

/-- What the elements and the tail have written is what a train writes (R221, R391). -/
theorem trainWrote_of_mem (mem : u.mem = s.trainMem w app bar es) : s.trainWrote u w app bar es := by
  have tail {p : Nat} (out : ¬ s.inTail w app bar p) : mget unlistedByte u.mem p =
      mget unlistedByte (putCells s.mem (es.flatMap (s.trainCells w app))) p := by
    rw [mem, State.trainMem]
    split
    · rfl
    · next pa place =>
      obtain ⟨some_, va, y, found, rfl⟩ := tailPlace_some.mp place
      rw [mget_putCells_cellsLE, if_neg fun inside => out ⟨some_, va, y, found, inside⟩]
  refine ⟨fun p out noTail => (tail noTail).trans (elems_outside _ out), ?_, ?_⟩
  · intro l e r va y j list placed inside last noTail
    rw [tail noTail, list]
    exact elems_byte _ placed inside last
  · intro va y some_ found apart
    have place : s.tailPlace w app bar = some (y.addr va) := tailPlace_some.mpr ⟨some_, va, y, found, rfl⟩
    have same : readLE (putCells s.mem (es.flatMap (s.trainCells w app))) (y.addr va) 16 = readLE s.mem (y.addr va) 16 :=
      readLE_congr fun i hi => elems_outside _ fun e he => apart _ ⟨some_, va, y, found, Nat.le_add_right .., Nat.add_lt_add_left hi _⟩ e he
    rw [mem, State.trainMem, place]
    dsimp only
    rw [same, readLE_putCells_cellsLE, BarObj.toNat_mod (BarObj.arrive_lt _ (BarObj.ofNat_lt _))]
    rfl

/-- The event of a train that comes from another package and meets no page under migration (R221). -/
theorem execTrainArrive_performs (other : s.inp.k ≠ s.pkg) {w : Who} (from_ : w = ⟨0, if s.inp.a3 = 1 then .g else .p⟩)
    (clear : s.trainHeld w s.inp.m s.inp.a1 s.inp.elems = []) :
    ∃ (u : State) (bad : List Nat), execTrainArrive s = .next { u with
        outbox := s.outbox ++ [(.trainAck, { n := s.inp.n, a2 := BitVec.ofNat 64 s.inp.k, flag := true, nums := some bad })] } ∧
      s.Performs u ∧ s.trainWrote u w s.inp.m s.inp.a1 s.inp.elems ∧
      ∀ e ∈ s.inp.elems, e.index ∈ bad ↔ ∃ f ∈ s.inp.elems, f.index = e.index ∧ s.trainAddr w s.inp.m f = none := by
  subst from_
  obtain ⟨a, mem, faults⟩ := runTrain_spec s false ⟨0, if s.inp.a3 = 1 then .g else .p⟩ s.inp.m s.inp.a1 s.inp.elems
  generalize hr : s.runTrain false ⟨0, if s.inp.a3 = 1 then .g else .p⟩ s.inp.m s.inp.a1 s.inp.elems = r at a mem faults
  have same : r.1.outbox = s.outbox := by rw [a]
  refine ⟨r.1, r.2, ?_, a, trainWrote_of_mem mem, fun e _ => ?_⟩
  · rw [execTrainArrive]
    simp only [other, clear, hr, same, ne_eq, not_true_eq_false, if_false]
  · rw [faults]
    simp only [List.mem_map, List.mem_filter, Option.isNone_iff_eq_none, and_assoc]
    exact exists_congr fun f => and_congr_right fun _ => and_comm

theorem execTrainArrive_held (other : s.inp.k ≠ s.pkg)
    (held : s.trainHeld ⟨0, if s.inp.a3 = 1 then .g else .p⟩ s.inp.m s.inp.a1 s.inp.elems ≠ []) :
    execTrainArrive s = .next (s.later .trainArrive { s.inp with flag := true }) := by
  rw [execTrainArrive]
  simp only [other, held, ne_eq, not_false_eq_true, if_true, if_false]

end Sys2Proof.Machine
end

section
/-! SUPPORT. VSTXR (R390): trains sent to the packages that their elements name, what of the machine the sending may change, what the
train to the own package writes, and the acknowledgement (R281, R391). -/

namespace Sys2Proof.Machine

variable {s t u x : State} {f : Fmt} {bar : Word} {es : List SElem} {p : Nat} {ps : List Nat}

/-! ### Sending (R23, R25) -/

theorem sendOn_frame (s : State) (n : Nat) (w : Unsent) :
    s.sendOn n w = { s with ports := (s.sendOn n w).ports, tick := (s.sendOn n w).tick } := rfl

/-- A flit put out changes ports, what waits for one, and the count of steps. -/
theorem putFlit_frame (s : State) (die typ pkg : Nat) (c : Cargo) : s.putFlit die typ pkg c =
    { s with unsent := (s.putFlit die typ pkg c).unsent, ports := (s.putFlit die typ pkg c).ports, tick := (s.putFlit die typ pkg c).tick } := by
  have one (s : State) (w : Unsent) : s.sendOne w =
      { s with unsent := (s.sendOne w).unsent, ports := (s.sendOne w).ports, tick := (s.sendOne w).tick } := by
    unfold State.sendOne
    dsimp only
    split <;> rfl
  have all : ∀ (ws : List Unsent) (s : State), ws.foldl State.sendOne s =
      { s with unsent := (ws.foldl State.sendOne s).unsent, ports := (ws.foldl State.sendOne s).ports,
               tick := (ws.foldl State.sendOne s).tick } := by
    intro ws
    induction ws with
    | nil => exact fun _ => rfl
    | cons w ws ih =>
      intro s
      rw [List.foldl_cons]
      refine (ih _).trans ?_
      exact congrArg (fun y : State => { y with unsent := (ws.foldl State.sendOne (s.sendOne w)).unsent,
                                                ports := (ws.foldl State.sendOne (s.sendOne w)).ports,
                                                tick := (ws.foldl State.sendOne (s.sendOne w)).tick }) (one s w)
  exact all _ _

/-- `u` is `s` after trains have been sent. -/
def State.Sends (s u : State) : Prop :=
  u = { s with trains := u.trains, nextTrain := u.nextTrain, outbox := u.outbox, jobs := u.jobs, unsent := u.unsent,
               ports := u.ports, tick := u.tick, mem := u.mem, poison := u.poison, others := u.others,
               hart := { s.hart with links := u.hart.links, wake := u.hart.wake, samples := u.hart.samples } }

theorem State.Sends.refl (s : State) : s.Sends s := rfl

theorem State.Sends.trans (a : s.Sends u) (b : u.Sends x) : s.Sends x :=
  Eq.trans b (congrArg (fun y : State =>
    { y with trains := x.trains, nextTrain := x.nextTrain, outbox := x.outbox, jobs := x.jobs, unsent := x.unsent,
             ports := x.ports, tick := x.tick, mem := x.mem, poison := x.poison, others := x.others,
             hart := { y.hart with links := x.hart.links, wake := x.hart.wake, samples := x.hart.samples } }) a)

theorem State.Performs.sends (a : s.Performs u) : s.Sends u := by
  rw [State.Sends, a]

theorem later_sends (s : State) (i : Instr) (q : Input) : s.Sends (s.later i q) := by
  unfold State.later
  split <;> rfl

theorem putFlit_sends (s : State) (die typ pkg : Nat) (c : Cargo) : s.Sends (s.putFlit die typ pkg c) := by
  have frame := putFlit_frame s die typ pkg c
  generalize s.putFlit die typ pkg c = u at frame ⊢
  rw [frame]
  rfl

theorem dropOld_sends (s : State) (vas : List Nat) : s.Sends (s.dropOld vas) := by
  have frame : s.dropOld vas = { s with hart := { s.hart with samples := (vas.foldl s.dropStale s.hart).samples } } :=
    congrArg (fun h : Hart => ({ s with hart := h } : State)) (foldl_dropStale_eq s vas s.hart)
  rw [frame]
  rfl

theorem State.Sends.trainAddr (a : s.Sends u) (w : Who) (app : Nat) (e : TrainElem) : u.trainAddr w app e = s.trainAddr w app e := by
  rw [a]
  rfl

theorem State.Sends.tailAddr (a : s.Sends u) (w : Who) (app : Nat) (bar : Word) : u.tailAddr w app bar = s.tailAddr w app bar := by
  rw [a]
  rfl

theorem State.Sends.place (a : s.Sends u) : u.pkg = s.pkg ∧ u.hart.who = s.hart.who ∧ u.hart.app = s.hart.app := by
  rw [a]
  exact ⟨rfl, rfl, rfl⟩

/-- What a train has written is the same of a machine that has sent others. -/
theorem State.Sends.wrote (a : s.Sends t) (mem : t.mem = s.mem) {w : Who} {app : Nat} {el : List TrainElem}
    (wrote : t.trainWrote u w app bar el) : s.trainWrote u w app bar el := by
  simpa only [State.trainWrote, a.trainAddr, a.tailAddr, mem] using wrote

/-! ### One train -/

/-- The elements of a package's train. -/
def trainTo (f : Fmt) (es : List SElem) (p : Nat) : List TrainElem := trainElems f (es.filter fun e => decide (remPkg e.va = p))

/-- The train of the hart whose turn it is to a package. -/
def State.newTrain (s : State) (f : Fmt) (bar : Word) (es : List SElem) (p : Nat) : Train :=
  { id := s.nextTrain, hart := s.hart.id, app := s.hart.app, pkg := p, bar := bar, elems := trainTo f es p, pc := s.hart.pc,
    strip := s.hart.strip, at_ := s.hart.retired }

/-- A train joins those in flight. -/
def State.withTrain (s : State) (f : Fmt) (bar : Word) (es : List SElem) (p : Nat) : State :=
  { s with trains := s.trains ++ [s.newTrain f bar es p], nextTrain := s.nextTrain + 1 }

/-- A train to the own package performs, one to another package leaves through a port, and one to no package faults. -/
theorem sendTrain_cases (s : State) (f : Fmt) (bar : Word) (es : List SElem) (p : Nat) :
    (p = s.pkg ∧ ∃ vas q, s.sendTrain f bar es p =
      (((s.withTrain f bar es p).runTrain true s.hart.who s.hart.app bar (trainTo f es p)).1.dropOld vas).later .trainAck q) ∨
    (p ≠ s.pkg ∧ ∃ o die c, s.sendTrain f bar es p = ({ s.withTrain f bar es p with outbox := o } : State).putFlit die 4 p c) ∨
    (p ≠ s.pkg ∧ ∃ q, s.sendTrain f bar es p = (s.withTrain f bar es p).later .trainAck q) := by
  by_cases here : p = s.pkg
  · exact .inl ⟨here, _, _, if_pos here⟩
  · by_cases domain : s.domain.contains p = true
    · exact .inr (.inl ⟨here, _, _, _, (if_neg here).trans (if_pos domain)⟩)
    · exact .inr (.inr ⟨here, _, (if_neg here).trans (if_neg domain)⟩)

theorem sendTrain_sends (s : State) (f : Fmt) (bar : Word) (es : List SElem) (p : Nat) : s.Sends (s.sendTrain f bar es p) := by
  have joins : s.Sends (s.withTrain f bar es p) := rfl
  rcases sendTrain_cases s f bar es p with ⟨-, vas, q, e⟩ | ⟨-, o, die, c, e⟩ | ⟨-, q, e⟩ <;> rw [e]
  · have performs := (runTrain_spec (s.withTrain f bar es p) true s.hart.who s.hart.app bar (trainTo f es p)).1
    exact ((joins.trans performs.sends).trans (dropOld_sends _ vas)).trans (later_sends ..)
  · have put : s.Sends { s.withTrain f bar es p with outbox := o } := rfl
    exact put.trans (putFlit_sends ..)
  · exact joins.trans (later_sends ..)

theorem sendTrain_trains (s : State) (f : Fmt) (bar : Word) (es : List SElem) (p : Nat) :
    (s.sendTrain f bar es p).trains = s.trains ++ [s.newTrain f bar es p] := by
  rcases sendTrain_cases s f bar es p with ⟨-, vas, q, e⟩ | ⟨-, o, die, c, e⟩ | ⟨-, q, e⟩ <;> rw [e]
  · have performs := (runTrain_spec (s.withTrain f bar es p) true s.hart.who s.hart.app bar (trainTo f es p)).1
    rw [State.later_trains]
    show State.trains (State.runTrain ..).1 = _
    rw [performs]
    rfl
  · rw [putFlit_frame]
    rfl
  · rw [State.later_trains]
    rfl

/-- A train to another package writes nothing here. -/
theorem sendTrain_away (away : p ≠ s.pkg) : (s.sendTrain f bar es p).mem = s.mem ∧ (s.sendTrain f bar es p).poison = s.poison ∧
    (s.sendTrain f bar es p).hart = s.hart ∧ (s.sendTrain f bar es p).others = s.others := by
  rcases sendTrain_cases s f bar es p with ⟨here, -⟩ | ⟨-, o, die, c, e⟩ | ⟨-, q, e⟩
  · exact absurd here away
  · rw [e, putFlit_frame]
    exact ⟨rfl, rfl, rfl, rfl⟩
  · rw [e, later_frame]
    exact ⟨rfl, rfl, rfl, rfl⟩

/-- A train to the own package performs at once (R391). -/
theorem sendTrain_here (s : State) (f : Fmt) (bar : Word) (es : List SElem) :
    (s.sendTrain f bar es s.pkg).mem = s.trainMem s.hart.who s.hart.app bar (trainTo f es s.pkg) := by
  rcases sendTrain_cases s f bar es s.pkg with ⟨-, vas, q, e⟩ | ⟨away, -⟩ | ⟨away, -⟩
  · rw [e, State.later_mem]
    exact (runTrain_spec (s.withTrain f bar es s.pkg) true s.hart.who s.hart.app bar (trainTo f es s.pkg)).2.1
  · exact absurd rfl away
  · exact absurd rfl away

/-! ### The trains of a VSTXR -/

/-- Trains sent to several packages. -/
def State.sendAll (s : State) (f : Fmt) (bar : Word) (es : List SElem) (ps : List Nat) : State := ps.foldl (State.sendTrain · f bar es) s

theorem sendAll_sends (f : Fmt) (bar : Word) (es : List SElem) : ∀ (ps : List Nat) (s : State), s.Sends (s.sendAll f bar es ps)
  | [], s => .refl s
  | p :: ps, s => (sendTrain_sends s f bar es p).trans (sendAll_sends f bar es ps _)

/-- Trains to other packages write nothing here. -/
theorem sendAll_away (f : Fmt) (bar : Word) (es : List SElem) : ∀ (ps : List Nat) (s : State), s.pkg ∉ ps →
    (s.sendAll f bar es ps).mem = s.mem ∧ (s.sendAll f bar es ps).poison = s.poison ∧ (s.sendAll f bar es ps).hart = s.hart ∧
      (s.sendAll f bar es ps).others = s.others
  | [], _, _ => ⟨rfl, rfl, rfl, rfl⟩
  | p :: ps, s, away => by
    have first : s.pkg ≠ p := fun e => away (e ▸ List.mem_cons_self ..)
    have rest : s.pkg ∉ ps := fun m => away (List.mem_cons_of_mem _ m)
    obtain ⟨mem, poison, hart, others⟩ := sendTrain_away (f := f) (bar := bar) (es := es) (Ne.symm first)
    have pkg := (sendTrain_sends s f bar es p).place.1
    obtain ⟨mem', poison', hart', others'⟩ := sendAll_away f bar es ps (s.sendTrain f bar es p) (by rwa [pkg])
    exact ⟨mem'.trans mem, poison'.trans poison, hart'.trans hart, others'.trans others⟩

/-- Of trains to different packages the one to the own package writes here (R391). -/
theorem sendAll_here (once : ps.Nodup) (here : s.pkg ∈ ps) :
    s.trainWrote (s.sendAll f bar es ps) s.hart.who s.hart.app bar (trainTo f es s.pkg) := by
  obtain ⟨l, r, rfl⟩ := List.append_of_mem here
  obtain ⟨-, more, apart⟩ := List.nodup_append.mp once
  have before : s.pkg ∉ l := fun m => apart _ m _ (List.mem_cons_self ..) rfl
  have after : s.pkg ∉ r := (List.nodup_cons.mp more).1
  have sent := sendAll_sends f bar es l s
  obtain ⟨pkg, who, app⟩ := sent.place
  obtain ⟨mem, -⟩ := sendAll_away f bar es l s before
  generalize ht : s.sendAll f bar es l = t at sent pkg who app mem
  have all : s.sendAll f bar es (l ++ s.pkg :: r) = (t.sendTrain f bar es t.pkg).sendAll f bar es r := by
    show (l ++ s.pkg :: r).foldl (State.sendTrain · f bar es) s = _
    rw [List.foldl_append, show l.foldl (State.sendTrain · f bar es) s = t from ht, pkg]
    rfl
  obtain ⟨mem', -⟩ := sendAll_away f bar es r (t.sendTrain f bar es t.pkg) (by rwa [(sendTrain_sends ..).place.1, pkg])
  rw [all, ← pkg, ← who, ← app]
  exact sent.wrote mem (trainWrote_of_mem (mem'.trans (sendTrain_here t f bar es)))

/-- The trains in flight after them: one more for each package. -/
theorem sendAll_trains (f : Fmt) (bar : Word) (es : List SElem) : ∀ (ps : List Nat) (s : State), ∃ ts : List Train,
    (s.sendAll f bar es ps).trains = s.trains ++ ts ∧ ts.map (fun q => q.elems.length) = ps.map fun p => (trainTo f es p).length
  | [], s => ⟨[], by simp [State.sendAll], rfl⟩
  | p :: ps, s => by
    obtain ⟨ts, trains, lengths⟩ := sendAll_trains f bar es ps (s.sendTrain f bar es p)
    refine ⟨s.newTrain f bar es p :: ts, ?_, congrArg (_ :: ·) lengths⟩
    rw [State.sendAll, List.foldl_cons, ← State.sendAll, trains, sendTrain_trains, List.append_assoc]
    rfl

/-! ### The packages -/

theorem mem_distinct {k : Nat} : ∀ {l seen : List Nat}, k ∈ distinct l seen ↔ k ∈ l ∨ k ∈ seen
  | [], seen => by simp [distinct]
  | i :: l, seen => by
    rw [distinct]
    split
    · next has =>
      rw [mem_distinct, List.mem_cons]
      have := List.contains_iff_mem.mp has
      grind
    · rw [mem_distinct]
      simp only [List.mem_append, List.mem_cons]
      grind

theorem distinct_nodup : ∀ {l seen : List Nat}, seen.Nodup → (distinct l seen).Nodup
  | [], _, h => h
  | i :: l, seen, h => by
    rw [distinct]
    split
    · exact distinct_nodup h
    · next new =>
      refine distinct_nodup (List.nodup_append.mpr ⟨h, List.nodup_singleton i, fun a ha b hb e => new ?_⟩)
      rw [List.mem_singleton.mp hb] at e
      exact List.contains_iff_mem.mpr (e ▸ ha)

/-- The elements of the trains to all the packages named are those of the store. -/
theorem trainTo_lengths (f : Fmt) (es : List SElem) :
    ((distinct (es.map fun e => remPkg e.va) []).map fun p => (trainTo f es p).length).sum = es.length := by
  have each (p : Nat) : (trainTo f es p).length = (es.map fun e => remPkg e.va).count p := by
    rw [trainTo, trainElems, List.length_map, List.count, List.countP_map, List.countP_eq_length_filter]
    rfl
  have same : (distinct (es.map fun e => remPkg e.va) []).Perm (es.map fun e => remPkg e.va).dedup :=
    (List.perm_ext_iff_of_nodup (distinct_nodup List.nodup_nil) (List.nodup_dedup _)).mpr fun p => by simp [mem_distinct]
  simp only [each]
  rw [(same.map _).sum_eq, List.sum_map_count_dedup_eq_length, List.length_map]

/-! ### VSTXR and FRED -/

/-- The active elements of a store. -/
theorem activeElems_map (c : Nat → Bool) (va val : Nat → Nat) : ∀ n i : Nat,
    activeElems ((List.range' i n).map c) i ((List.range' i n).map va) ((List.range' i n).map val) =
      ((List.range' i n).filter c).map fun k => ⟨k, va k, val k⟩
  | 0, _ => rfl
  | n + 1, i => by
    rw [List.range'_succ, List.map_cons, List.map_cons, List.map_cons, activeElems, activeElems_map c va val n (i + 1), List.filter_cons]
    split <;> rfl

theorem activeElems_chosen (h : Hart) (m : Nat) (vas vals : List Nat) :
    activeElems (h.act m) 0 (fitLen h.vl vas) (fitLen h.vl vals) =
      (h.chosen m h.vl).map fun k => ⟨k, vas.getD k 0, vals.getD k 0⟩ := by
  rw [fitLen_eq_map, fitLen_eq_map, Hart.act, Hart.chosen, List.range_eq_range']
  exact activeElems_map _ _ _ _ _

/-- An element as a contribution of the hart whose turn it is (R430). -/
def State.contribOf (t : State) (op : Nat) (f : Fmt) (e : SElem) : Contrib :=
  { fred := t.nextTrain, pc := t.hart.pc, strip := t.hart.strip, at_ := t.hart.retired, hart := t.hart.id, app := t.hart.app,
    index := e.idx, addr := BitVec.ofNat 64 e.va, op := op, tag := f, val := e.val }

/-- The contributions of a FRED on their way, in one flit: none where no element is selected. -/
def State.contribute (t : State) (op : Nat) (f : Fmt) (es : List SElem) : State :=
  match es with
  | [] => t
  | e :: _ =>
    (({ t with contribs := t.contribs ++ es.map (t.contribOf op f), nextTrain := t.nextTrain + 1 } : State).putFlit t.hart.who.die 3
      (remPkg e.va) (.fred t.nextTrain)).later .fredAccept { n := t.nextTrain }

theorem contribute_frame (t : State) (op : Nat) (f : Fmt) (es : List SElem) :
    t.contribute op f es = { t with contribs := (t.contribute op f es).contribs, nextTrain := (t.contribute op f es).nextTrain,
                                    jobs := (t.contribute op f es).jobs, unsent := (t.contribute op f es).unsent,
                                    ports := (t.contribute op f es).ports, tick := (t.contribute op f es).tick } := by
  cases es with
  | nil => rfl
  | cons e rest =>
    rw [State.contribute, later_frame, putFlit_frame]

theorem contribute_contribs (t : State) (op : Nat) (f : Fmt) (es : List SElem) :
    (t.contribute op f es).contribs = t.contribs ++ es.map (t.contribOf op f) := by
  cases es with
  | nil => exact (List.append_nil _).symm
  | cons e rest =>
    rw [State.contribute, State.later_contribs, putFlit_frame]

section
variable {d a b : Reg} {m : BitVec 2} {v w : Vec}
  (iss : s.issues [s.hart.ownRun d.toNat, s.hart.tagRun b.toNat] [] m.toNat t) (read : t.hart.readRun (t.hart.ownRun d.toNat) = .ok v)
  (named : t.hart.tagged b.toNat (fun f => decide (f = .n64)) = .ok w) (able : s.hart.feat 5 = true)
include iss read named able

/-- VSTXR sends a train to each package that its elements name, unless the one to the own package waits (R390). -/
theorem vstxr_sends (tag : t.hart.storeTagOk v.fmt false false = true) (aligned : (t.rx a).toNat % 16 = 0) {es : List SElem}
    (chosen : es = (t.hart.chosen m.toNat t.hart.vl).map fun k => ⟨k, w.elems.getD k 0, v.elems.getD k 0⟩)
    (free : trainTo v.fmt es t.pkg = [] ∨ (t.trainHeld t.hart.who t.hart.app (t.rx a) (trainTo v.fmt es t.pkg) = [] ∧
      t.trainInFlight (t.rx a) (trainTo v.fmt es t.pkg) = false)) :
    exec (.vstxr d a b m) s = .next (s.ended (t.sendAll v.fmt (t.rx a) es (distinct (es.map fun e => remPkg e.va) []))
      ((t.sendAll v.fmt (t.rx a) es (distinct (es.map fun e => remPkg e.va) [])).hart.pc + 4)) := by
  have offset : remOff (t.rx a).toNat % 16 = 0 := by
    unfold remOff
    omega
  have mine : (es.filter fun e => decide (remPkg e.va = t.pkg)) = [] ∨
      (t.trainHeld t.hart.who t.hart.app (t.rx a) (trainTo v.fmt es t.pkg) = [] ∧
        t.trainInFlight (t.rx a) (trainTo v.fmt es t.pkg) = false) := free.imp_left List.map_eq_nil_iff.mp
  show execVstxr d a b m s = _
  rw [execVstxr]
  simp only [able, Bool.not_true, Bool.false_eq_true, if_false]
  rw [storeWith_ok iss read rfl]
  · exact complete_ok ..
  · simp only [named, tag, offset, activeElems_chosen, ← chosen, ne_eq, not_true_eq_false, and_false, Bool.not_true, Bool.false_eq_true,
      if_false]
    rw [← trainTo]
    rcases mine with none_ | ⟨held, flight⟩
    · simp only [none_, not_true_eq_false, false_and, if_false]
      rfl
    · simp only [held, flight, not_true_eq_false, and_false, Bool.false_eq_true, if_false]
      rfl

/-- FRED puts its contributions among those on their way (R430). -/
theorem fred_sends (op : (s.rx a).toNat ≤ 4) (same : t.rx a = s.rx a) (tag : fredTag (s.rx a).toNat v.fmt = true) {es : List SElem}
    (chosen : es = (t.hart.chosen m.toNat t.hart.vl).map fun k => ⟨k, w.elems.getD k 0, v.elems.getD k 0⟩) :
    exec (.fred d a b m) s = .next (s.ended (t.contribute (s.rx a).toNat v.fmt es)
      ((t.contribute (s.rx a).toNat v.fmt es).hart.pc + 4)) := by
  show execFred d a b m s = _
  rw [execFred]
  simp only [able, Nat.not_lt.mpr op, decide_false, Bool.not_true, Bool.or_self, Bool.false_eq_true, if_false]
  rw [storeWith_ok iss read rfl]
  · exact complete_ok ..
  · simp only [named, same, tag, activeElems_chosen, ← chosen, Bool.not_true, Bool.false_eq_true, if_false]
    cases es <;> rfl

end

end Sys2Proof.Machine
end

section
/-! SUPPORT. The acknowledgement of a train and its record (R281, R391), contributions at their switch (R430), the delivery of a full
round (R222, R431), and notices of a kill (R289, R290). -/

namespace Sys2Proof.Machine

variable {s u : State}

/-! ### Records (R281) -/

/-- A record takes its place behind those that are at least as old. -/
theorem putRec_split (r : SfrqRec) : ∀ rs : List SfrqRec, ∃ l q, rs = l ++ q ∧ putRec r rs = l ++ r :: q ∧
    (∀ e ∈ l, r.age ≤ e.age) ∧ ∀ e, q.head? = some e → e.age < r.age
  | [] => ⟨[], [], rfl, rfl, fun _ m => absurd m List.not_mem_nil, fun _ e => nomatch e⟩
  | e :: rs => by
    rw [putRec]
    by_cases younger : e.age < r.age
    · rw [if_pos younger]
      exact ⟨[], e :: rs, rfl, rfl, fun _ m => absurd m List.not_mem_nil, fun _ head => Option.some.inj head ▸ younger⟩
    · obtain ⟨l, q, split_, put, older, next⟩ := putRec_split r rs
      rw [if_neg younger, put]
      exact ⟨e :: l, q, congrArg (e :: ·) split_, rfl, List.forall_mem_cons.mpr ⟨Nat.not_lt.mp younger, older⟩, next⟩

theorem addRec_split {h : Hart} {r : SfrqRec} (room : h.sfrq.length < 16) : ∃ l q, h.sfrq = l ++ q ∧ (h.addRec r).sfrq = l ++ r :: q ∧
    (∀ e ∈ l, r.age ≤ e.age) ∧ ∀ e, q.head? = some e → e.age < r.age := by
  rw [Hart.addRec, if_pos room]
  exact putRec_split r h.sfrq

/-! ### Acknowledgements (R391) -/

/-- The elements of a train that an acknowledgement reports: all where its port went DOWN. -/
def Train.reported (t : Train) (nums : Option (List Nat)) : List TrainElem :=
  match nums with
  | none => t.elems
  | some ns => t.elems.filter fun e => ns.contains e.index

theorem find_sent {α : Type} {p q : α → Bool} {l : List α} {a : α} (found : l.find? p = some a) (sent : q a = true) :
    l.find? (fun x => p x && q x) = some a := by
  obtain ⟨hp, as, bs, rfl, before⟩ := List.find?_eq_some_iff_append.mp found
  exact List.find?_eq_some_iff_append.mpr ⟨by rw [hp, sent]; rfl, as, bs, rfl, fun x hx => by
    have := before x hx
    simp_all⟩

section
variable {t : Train} (found : s.trains.find? (fun q => decide (q.id = s.inp.n)) = some t) (sent : s.waitsToSend (.train t.id) = false)
include found sent

theorem execTrainAck_eq : execTrainAck s = match t.reported s.inp.nums with
    | [] => .next { s with trains := s.trains.filter fun q => decide (q.id ≠ t.id) }
    | e :: _ => .next (({ s with trains := s.trains.filter fun q => decide (q.id ≠ t.id) } : State).updHart t.hart fun h =>
        h.addRemote t.pc t.strip (remAddr t.pkg e.win e.off) e.index t.at_) := by
  have seen := find_sent (q := fun q : Train => !s.waitsToSend (.train q.id)) found (by rw [sent]; rfl)
  rw [execTrainAck]
  simp only [seen]
  rfl

/-- A train all of whose elements have performed is gone. -/
theorem execTrainAck_clean (none_ : t.reported s.inp.nums = []) :
    execTrainAck s = .next { s with trains := s.trains.filter fun q => decide (q.id ≠ t.id) } := by
  rw [execTrainAck_eq found sent, none_]

/-- One of whose elements fault leaves a record of the first (R281). -/
theorem execTrainAck_faults {e : TrainElem} {rest : List TrainElem} (some_ : t.reported s.inp.nums = e :: rest)
    (id : s.hart.id = t.hart) (run : s.hart.run ≠ .idle) (others : ∀ g ∈ s.others, g.id ≠ t.hart) :
    execTrainAck s = .next { s with
      trains := s.trains.filter (fun q => decide (q.id ≠ t.id)),
      hart := s.hart.addRemote t.pc t.strip (remAddr t.pkg e.win e.off) e.index t.at_ } := by
  rw [execTrainAck_eq found sent, some_]
  exact congrArg Host.Outcome.next (updHart_turn (s := { s with trains := s.trains.filter fun q => decide (q.id ≠ t.id) }) _ run id others)

end

/-! ### FREDWAIT (R431) -/

theorem fredwaitAt_contributing {d a : Reg} (able : s.hart.feat 5 = true) (on : s.contributing (s.rx a) = true) :
    s.fredwaitAt d a = .next (s.waitsOn (.fredwait d a)) := by
  rw [State.fredwaitAt]
  simp only [able, on, Bool.not_true, Bool.false_eq_true, if_false, if_true]
  rfl

theorem fredwaitAt_underWay {d a : Reg} {r : Round} (able : s.hart.feat 5 = true) (accepted : s.contributing (s.rx a) = false)
    (found : s.rounds.find? (fun r => decide (r.num = mget 0 s.hart.fredRounds (s.rx a).toNat)) = some r)
    (open_ : r.status = 0 ∨ r.status = 2) : s.fredwaitAt d a = .next (s.waitsOn (.fredwait d a)) := by
  have way : r.underWay = true := by rcases open_ with e | e <;> simp [Round.underWay, e]
  rw [State.fredwaitAt]
  simp only [able, accepted, found, way, Bool.not_true, Bool.false_eq_true, if_false, if_true]
  rfl

theorem fredwait_settled {d a : Reg} {r : Round} (able : s.hart.feat 5 = true) (accepted : s.contributing (s.rx a) = false)
    (found : s.rounds.find? (fun r => decide (r.num = mget 0 s.hart.fredRounds (s.rx a).toNat)) = some r)
    (past : r.status ≠ 0 ∧ r.status ≠ 2) : s.yieldsX (.fredwait d a) d (BitVec.ofNat 64 r.status) := by
  have done : r.underWay = false := by simp [Round.underWay, past]
  refine yieldsX_of (congrArg (complete _ s) ?_)
  simp only [able, accepted, found, done, Bool.not_true, Bool.false_eq_true, if_false]

theorem fredwait_gone {d a : Reg} (able : s.hart.feat 5 = true) (accepted : s.contributing (s.rx a) = false)
    (gone : ∀ r ∈ s.rounds, r.num ≠ mget 0 s.hart.fredRounds (s.rx a).toNat) : s.yieldsX (.fredwait d a) d 0 := by
  have none_ : s.rounds.find? (fun r => decide (r.num = mget 0 s.hart.fredRounds (s.rx a).toNat)) = none :=
    List.find?_eq_none.mpr fun r hr => by simpa using gone r hr
  refine yieldsX_of (congrArg (complete _ s) ?_)
  simp only [able, accepted, none_, Bool.not_true, Bool.false_eq_true, if_false]

/-! ### Contributions at their switch (R430) -/

/-- Round r is replaced by q, and delivered where q holds all its packages. -/
def State.joined (s : State) (npart : Nat) (r q : Round) : State :=
  let s1 : State := { s with rounds := (s.rounds.filter fun x => decide (x.num ≠ r.num)) ++ [q] }
  if q.pkgs.length = npart then s1.later .fredRoundDeliver { n := r.num } else s1

theorem joined_frame (npart : Nat) (r q : Round) : s.joined npart r q = { s with
    rounds := (s.rounds.filter fun x => decide (x.num ≠ r.num)) ++ [q], jobs := (s.joined npart r q).jobs } := by
  unfold State.joined
  dsimp only
  split
  · exact later_frame ..
  · rfl

theorem joined_delivers {npart : Nat} {r q : Round} (full : q.pkgs.length = npart) :
    (Instr.fredRoundDeliver, ({ n := r.num } : Input)) ∈ (s.joined npart r q).jobs := by
  rw [State.joined, if_pos full]
  exact mem_later_jobs ..

section
variable {pkg : Nat} {c : Contrib} {w : Window}

theorem accept_noWindow (none_ : (s.app c.app).window (remWin c.addr.toNat) true = none) : s.accept pkg c = none := by
  rw [State.accept]
  simp only [none_]

theorem addr_isNone {off n : Nat} : (w.addr off n).isNone = true ↔ off % n ≠ 0 ∨ w.length < off + n := by
  rw [Window.addr]
  split
  next fits => exact ⟨fun h => absurd h (by simp), by omega⟩
  next not => exact ⟨fun _ => by omega, fun _ => rfl⟩

variable (found : (s.app c.app).window (remWin c.addr.toNat) true = some w)
include found

theorem accept_outside (out : remPkg c.addr.toNat ≠ w.home ∨ remOff c.addr.toNat % c.tag.bytes ≠ 0 ∨
    w.length < remOff c.addr.toNat + c.tag.bytes) : s.accept pkg c = none := by
  rw [State.accept]
  simp only [found, addr_isNone, out, if_true]

variable (home : remPkg c.addr.toNat = w.home) (fits : remOff c.addr.toNat % c.tag.bytes = 0)
  (short : remOff c.addr.toNat + c.tag.bytes ≤ w.length)
include home fits short

theorem accept_eq : s.accept pkg c = match s.openRound c.app (remWin c.addr.toNat) (remOff c.addr.toNat) w.npart with
    | some r => if r.pkgs.contains pkg || decide (r.op ≠ c.op) || decide (r.tag ≠ c.tag) then none
        else some (r.num, s.joined w.npart r { r with vals := r.vals ++ [c.val], pkgs := r.pkgs ++ [pkg] })
    | none =>
        let r : Round := { num := s.nextRound, app := c.app, win := remWin c.addr.toNat, off := remOff c.addr.toNat, op := c.op,
                           tag := c.tag, vals := [], pkgs := [], status := 0 }
        some (r.num, { s.joined w.npart r { r with vals := [c.val], pkgs := [pkg] } with nextRound := s.nextRound + 1 }) := by
  have inside : ¬ (remPkg c.addr.toNat ≠ w.home ∨ (w.addr (remOff c.addr.toNat) c.tag.bytes).isNone = true) := by
    rw [addr_isNone]
    omega
  rw [State.accept]
  simp only [found, inside, if_false]
  rfl

end

section
variable {c : Contrib}

/-- What a contribution that its switch accepts into round r leaves: the round is then q. -/
def State.Joins (s : State) (c : Contrib) (w : Window) (r q : Round) : Prop :=
  ∃ u, exec .fredAccept s = .next u ∧ q ∈ u.rounds ∧ q.num = r.num ∧ q.vals = r.vals ++ [c.val] ∧ q.pkgs = r.pkgs ++ [s.pkg] ∧
    (∀ z ∈ s.rounds, z.num ≠ r.num → z ∈ u.rounds) ∧ (∀ z ∈ u.rounds, z = q ∨ z ∈ s.rounds) ∧
    (q.pkgs.length = w.npart → (Instr.fredRoundDeliver, ({ n := r.num } : Input)) ∈ u.jobs) ∧
    (∀ h, s.hartOf c.hart = some h → u.hartOf c.hart = some { h with fredRounds := mset 0 h.fredRounds c.addr.toNat r.num }) ∧
    u = { s with contribs := s.contribs.filter (fun z => decide (z.fred ≠ s.inp.n)), rounds := u.rounds, nextRound := u.nextRound,
                 jobs := u.jobs, hart := u.hart, others := u.others }

/-- The contributions of the FRED that this event brings have left. -/
def State.uncontributed (s : State) : State := { s with contribs := s.contribs.filter fun c => decide (c.fred ≠ s.inp.n) }

variable (own : s.inp.flag = false) (sent : s.waitsToSend (.fred s.inp.n) = false) (up : s.inp.k ≠ 1)
  (single : s.contribs.filter (fun q => decide (q.fred = s.inp.n)) = [c])
include own sent up single

theorem execFredAccept_eq : execFredAccept s = match s.uncontributed.accept s.pkg c with
    | none => .next (s.uncontributed.updHart c.hart fun h => h.addRemote c.pc c.strip c.addr c.index c.at_)
    | some (n, u) => .next (u.updHart c.hart fun h => { h with fredRounds := mset 0 h.fredRounds c.addr.toNat n }) := by
  rw [execFredAccept]
  simp only [own, sent, up, single, acceptAll, List.contains_nil, Bool.or_self, Bool.false_eq_true, decide_false, if_false]
  rw [State.uncontributed]
  cases ({ s with contribs := s.contribs.filter fun c => decide (c.fred ≠ s.inp.n) } : State).accept s.pkg c with
  | none => rfl
  | some p => rfl

/-- What no switch accepts faults, with a record (R281). -/
theorem execFredAccept_faults (refused : s.uncontributed.accept s.pkg c = none) (id : s.hart.id = c.hart) (run : s.hart.run ≠ .idle)
    (others : ∀ g ∈ s.others, g.id ≠ c.hart) : execFredAccept s = .next { s.uncontributed with
      hart := s.hart.addRemote c.pc c.strip c.addr c.index c.at_ } := by
  rw [execFredAccept_eq own sent up single, refused]
  exact congrArg Host.Outcome.next (updHart_turn (s := s.uncontributed) _ run id others)

theorem fredAccept_joins {w : Window} {r q : Round} {next : Nat} (num : q.num = r.num) (vals : q.vals = r.vals ++ [c.val])
    (pkgs : q.pkgs = r.pkgs ++ [s.pkg])
    (accepted : s.uncontributed.accept s.pkg c = some (r.num, { s.uncontributed.joined w.npart r q with nextRound := next })) :
    s.Joins c w r q := by
  have frame := joined_frame (s := s.uncontributed) w.npart r q
  have rounds : (s.uncontributed.joined w.npart r q).rounds = (s.rounds.filter fun x => decide (x.num ≠ r.num)) ++ [q] :=
    congrArg State.rounds frame
  have run : exec .fredAccept s = .next _ := (execFredAccept_eq own sent up single).trans (by rw [accepted])
  refine ⟨_, run, ?_, num, vals, pkgs, fun z hz other => ?_, fun z hz => ?_, joined_delivers, fun h found => ?_, ?_⟩
  · show q ∈ (s.uncontributed.joined w.npart r q).rounds
    rw [rounds]
    exact List.mem_append_right _ (List.mem_singleton.mpr rfl)
  · show z ∈ (s.uncontributed.joined w.npart r q).rounds
    rw [rounds]
    exact List.mem_append_left _ (List.mem_filter.mpr ⟨hz, decide_eq_true other⟩)
  · have hz : z ∈ (s.uncontributed.joined w.npart r q).rounds := hz
    rw [rounds, List.mem_append, List.mem_singleton] at hz
    exact hz.symm.imp id fun old => (List.mem_filter.mp old).1
  · refine hartOf_updHart_same (fun g => { g with fredRounds := mset 0 g.fredRounds c.addr.toNat r.num }) (fun _ => ⟨rfl, rfl⟩)
      (.trans ?_ found)
    rw [frame]
    rfl
  · rw [frame]
    rfl

end

/-! ### The delivery of a round (R222, R431) -/

theorem setRound_status {n k : Nat} {q : Round} (mem : q ∈ (s.setRound n k).rounds) (num : q.num = n) : q.status = k := by
  obtain ⟨x, -, rfl⟩ := List.mem_map.mp mem
  split at num
  next same => rw [if_pos same]
  next other => exact absurd num other

/-- The merged value of integer sums (R222). -/
theorem Round.merged_sum {r : Round} (add : r.op = 0) : r.merged = r.vals.sum % 2 ^ r.tag.bits := by
  rw [Round.merged, List.sum_eq_foldl]
  cases r.vals with
  | nil => exact (Nat.zero_mod _).symm
  | cons v vs => simp only [add]

section
variable {app va v : Nat} {f : Fmt} {x : Xlat} (ok : s.forStore ((s.app app).lookup ctlWho va) = .ok x)
include ok

theorem putMerged_closed (closed : x.closed = true) : s.putMerged app va f v = (s, true) := by
  rw [State.putMerged, ok]
  exact if_pos closed

theorem putMerged_open (open_ : x.closed = false) :
    s.putMerged app va f v = (s.writePhys false (cellsLE (x.addr va) f.bytes v), false) := by
  rw [State.putMerged, ok]
  simp only [open_, Bool.false_eq_true, if_false]

end

section
variable {r : Round} {w : Window} (value : s.inp.flag = false) (full : s.inp.nums = none)
  (found : s.rounds.find? (fun q => decide (q.num = s.inp.n) && decide (q.status = 0)) = some r)
  (win : (s.app r.app).window r.win true = some w)
include value full found win

theorem execFredRoundDeliver_eq : execFredRoundDeliver s = .next (s.deliver r w) := by
  rw [execFredRoundDeliver]
  simp only [value, full, found, win, Bool.false_eq_true, if_false]

end

/-- The report of a home: the round has performed where this package's value of it was on its way. -/
theorem execFredRoundDeliver_report (report : s.inp.flag = true) : execFredRoundDeliver s =
    .next (if ∃ r ∈ s.rounds, r.num = s.inp.n ∧ r.status = 2 then s.setRound s.inp.n 1 else s) := by
  rw [execFredRoundDeliver]
  simp only [report, if_true, List.any_eq_true, Bool.and_eq_true, decide_eq_true_eq]

theorem execFredRoundDeliver_in {tag pkg : Nat} (value : s.inp.flag = false) (nums : s.inp.nums = some [tag, pkg]) :
    execFredRoundDeliver s = .next (s.deliverIn s.inp tag pkg) := by
  rw [execFredRoundDeliver]
  simp only [value, nums, Bool.false_eq_true, if_false]

theorem deliver_here {r : Round} {w : Window} (all : r.pkgs.length = w.npart) (home : w.home = s.pkg) : s.deliver r w =
    (let p := s.putMerged r.app (w.base + r.off) r.tag r.merged
     if p.2 then s.later .fredRoundDeliver { n := r.num, k := 1 } else p.1.setRound r.num 1) := by
  rw [State.deliver, if_neg (by omega), if_neg (not_not.mpr home)]

theorem deliver_away {r : Round} {w : Window} (all : r.pkgs.length = w.npart) (away : w.home ≠ s.pkg) : s.deliver r w =
    { s.setRound r.num 2 with outbox := s.outbox ++ [(.fredRoundDeliver, {
        n := w.home, m := r.app, k := r.tag.code, a1 := remAddr w.home r.win r.off, a2 := BitVec.ofNat 64 r.merged,
        a3 := BitVec.ofNat 64 r.num })] } := by
  rw [State.deliver, if_neg (by omega), if_pos away]
  rfl

theorem deliverIn_open {i : Input} {tag pkg : Nat} {f : Fmt} {w : Window} {x : Xlat} (code : Fmt.ofCode tag = some f)
    (win : (s.app i.m).window (remWin i.a1.toNat) true = some w)
    (ok : s.forStore ((s.app i.m).lookup ctlWho (w.base + remOff i.a1.toNat)) = .ok x) (open_ : x.closed = false) :
    s.deliverIn i tag pkg = { s.writePhys false (cellsLE (x.addr (w.base + remOff i.a1.toNat)) f.bytes i.a2.toNat) with
      outbox := s.outbox ++ [(.fredRoundDeliver, { n := i.n, a2 := BitVec.ofNat 64 pkg, flag := true })] } := by
  rw [State.deliverIn]
  simp only [code, win, putMerged_open ok open_, Bool.false_eq_true, if_false]
  rfl

/-! ### Notices of a kill (R289, R290) -/

/-- A collective that a notice of its ID aborts. -/
def Coll.abortedBy (cid : Nat) (q : Coll) : Coll := if q.cid = cid then { q with state := .aborted } else q

theorem Coll.abortedBy_cid (cid : Nat) (q : Coll) : (q.abortedBy cid).cid = q.cid := by
  unfold Coll.abortedBy
  split <;> rfl

theorem Coll.abortedBy_state {cid : Nat} {q : Coll} (same : (q.abortedBy cid).cid = cid) : (q.abortedBy cid).state = .aborted := by
  rw [Coll.abortedBy, if_pos ((Coll.abortedBy_cid cid q).symm.trans same)]

theorem Coll.abortedBy_bars (cid : Nat) (q : Coll) : (q.abortedBy cid).bars = q.bars := by
  unfold Coll.abortedBy
  split <;> rfl

theorem Coll.abortedBy_matches (cid pkg n : Nat) (q : Coll) : (q.abortedBy cid).matches pkg n = q.matches pkg n := by
  unfold Coll.abortedBy
  split <;> rfl

theorem Coll.abortedBy_twice (cid : Nat) (q : Coll) : (q.abortedBy cid).abortedBy cid = q.abortedBy cid := by
  by_cases same : q.cid = cid <;> simp [Coll.abortedBy, same]

theorem find_abortedBy (pkg cid : Nat) (qs : List Coll) : (qs.map (Coll.abortedBy cid)).find? (fun c => c.matches pkg cid) =
    (qs.find? fun c => c.matches pkg cid).map (Coll.abortedBy cid) := by
  rw [List.find?_map]
  exact congrArg (fun p => (qs.find? p).map (Coll.abortedBy cid)) (funext fun q => Coll.abortedBy_matches cid pkg cid q)

theorem lookColl_frame (k cid : Nat) : s.lookColl k cid = { s with jobs := (s.lookColl k cid).jobs } := by
  unfold State.lookColl
  cases (s.app k).pend with
  | none => rfl
  | some p =>
    dsimp only
    split
    · exact later_frame ..
    · rfl

/-- What a notice changes of the applications `done`, whose collectives have no bars: the collectives of its ID are aborted. -/
structure State.Noticed (s u : State) (pkg cid : Nat) (done : List Nat) : Prop where
  mem : u.mem = s.mem
  hart : u.hart = s.hart
  others : u.others = s.others
  untouched : ∀ j, j ∉ done → u.app j = s.app j
  colls : ∀ j, (u.app j).colls = (s.app j).colls ∨ (u.app j).colls = (s.app j).colls.map (Coll.abortedBy cid)
  aborted : ∀ j c, j ∈ done → (s.app j).colls.find? (fun c => c.matches pkg cid) = some c → c.state = .active →
    (u.app j).colls = (s.app j).colls.map (Coll.abortedBy cid)

theorem noticed_refl (pkg cid : Nat) : s.Noticed s pkg cid [] :=
  ⟨rfl, rfl, rfl, fun _ _ => rfl, fun _ => .inl rfl, fun _ _ mem => absurd mem List.not_mem_nil⟩

/-- What the abort of collective cid, which has no bars, leaves of application k and of the rounds in its windows. -/
def State.aborting (s : State) (k cid : Nat) : State :=
  let a := s.app k
  let wins := (a.windows.filter fun w => decide (w.cid = cid)).map Window.win
  { s.setApp k { a with colls := a.colls.map (Coll.abortedBy cid) } with
    rounds := s.rounds.map fun r => if r.underWay ∧ r.app = k ∧ wins.contains r.win then { r with status := 5 } else r }

theorem aborting_app (k cid j : Nat) : (s.aborting k cid).app j =
    if j = k then { s.app k with colls := (s.app k).colls.map (Coll.abortedBy cid) } else s.app j :=
  app_setApp s k j { s.app k with colls := (s.app k).colls.map (Coll.abortedBy cid) }

section
variable {k pkg cid : Nat}

theorem abortColl_none (none_ : (s.app k).colls.find? (fun c => c.matches pkg cid) = none) : s.abortColl k pkg cid = s := by
  rw [State.abortColl]
  simp only [none_]

theorem abortColl_ended {c : Coll} (found : (s.app k).colls.find? (fun c => c.matches pkg cid) = some c) (ended : c.state ≠ .active) :
    s.abortColl k pkg cid = s.logApp k [4] := by
  rw [State.abortColl]
  simp only [found]
  exact if_pos ended

theorem abortColl_active {c : Coll} (found : (s.app k).colls.find? (fun c => c.matches pkg cid) = some c) (active : c.state = .active)
    (bars : c.bars = []) : s.abortColl k pkg cid = (s.aborting k cid).lookColl k cid := by
  rw [State.abortColl]
  simp only [found, active, bars]
  rfl

/-- One application notices: no collective of the ID, one that has ended, or an active one. -/
theorem abortColl_noticed (bars : ∀ c, (s.app k).colls.find? (fun c => c.matches pkg cid) = some c → c.bars = []) :
    s.Noticed (s.abortColl k pkg cid) pkg cid [k] := by
  cases found : (s.app k).colls.find? (fun c => c.matches pkg cid) with
  | none =>
    rw [abortColl_none found]
    refine ⟨rfl, rfl, rfl, fun _ _ => rfl, fun _ => .inl rfl, fun j c mem some_ => ?_⟩
    rw [List.mem_singleton.mp mem, found] at some_
    exact nomatch some_
  | some c =>
    by_cases active : c.state = .active
    · rw [abortColl_active found active (bars c found), lookColl_frame]
      have same : ((s.aborting k cid).app k).colls = (s.app k).colls.map (Coll.abortedBy cid) := by rw [aborting_app, if_pos rfl]
      have other : ∀ j, j ≠ k → (s.aborting k cid).app j = s.app j := fun j ne => by rw [aborting_app, if_neg ne]
      refine ⟨rfl, rfl, rfl, fun j ne => other j fun e => ne (List.mem_singleton.mpr e), fun j => ?_, fun j _ mem _ _ => ?_⟩
      · by_cases e : j = k
        · exact .inr (e ▸ same)
        · exact .inl (congrArg App.colls (other j e))
      · exact List.mem_singleton.mp mem ▸ same
    · rw [abortColl_ended found active, State.logApp]
      refine ⟨rfl, rfl, rfl, fun j ne => ?_, fun j => .inl ?_, fun j d mem some_ on => ?_⟩
      · rw [app_setApp, if_neg fun e => ne (List.mem_singleton.mpr e)]
      · rw [app_setApp]
        split
        next e => rw [e]
        next => rfl
      · rw [List.mem_singleton.mp mem, found] at some_
        exact absurd (Option.some.inj some_ ▸ on) active

end

theorem State.Noticed.bars {t : State} {k pkg cid : Nat} {done : List Nat} (so : s.Noticed t pkg cid done)
    (bars : ∀ c, (s.app k).colls.find? (fun c => c.matches pkg cid) = some c → c.bars = []) {c : Coll}
    (found : (t.app k).colls.find? (fun c => c.matches pkg cid) = some c) : c.bars = [] := by
  rcases so.colls k with same | aborted
  · exact bars c (same ▸ found)
  · rw [aborted, find_abortedBy] at found
    obtain ⟨d, was, rfl⟩ := Option.map_eq_some_iff.mp found
    rw [Coll.abortedBy_bars, bars d was]

theorem map_abortedBy_twice (cid : Nat) (qs : List Coll) :
    (qs.map (Coll.abortedBy cid)).map (Coll.abortedBy cid) = qs.map (Coll.abortedBy cid) := by
  rw [List.map_map]
  exact List.map_congr_left fun q _ => Coll.abortedBy_twice cid q

theorem State.Noticed.cons {t u : State} {k pkg cid : Nat} {done : List Nat} (so : s.Noticed t pkg cid done)
    (next : t.Noticed u pkg cid [k]) : s.Noticed u pkg cid (k :: done) where
  mem := next.mem.trans so.mem
  hart := next.hart.trans so.hart
  others := next.others.trans so.others
  untouched j new := (next.untouched j fun m => new (List.mem_cons.mpr (.inl (List.mem_singleton.mp m)))).trans
    (so.untouched j fun m => new (List.mem_cons_of_mem _ m))
  colls j := by
    rcases next.colls j with e | e <;> rcases so.colls j with e' | e' <;> rw [e, e']
    · exact .inl rfl
    · exact .inr rfl
    · exact .inr rfl
    · exact .inr (map_abortedBy_twice ..)
  aborted j c mem found active := by
    have after : (t.app j).colls = (s.app j).colls.map (Coll.abortedBy cid) →
        (u.app j).colls = (s.app j).colls.map (Coll.abortedBy cid) := fun already => by
      rcases next.colls j with e | e <;> rw [e, already]
      exact map_abortedBy_twice ..
    rcases so.colls j with same | already
    · rcases List.mem_cons.mp mem with rfl | before
      · rw [← same] at found ⊢
        exact next.aborted j c (List.mem_singleton.mpr rfl) found active
      · exact after (so.aborted j c before found active)
    · exact after already

theorem foldl_abortColl_noticed {pkg cid : Nat}
    (bars : ∀ j c, (s.app j).colls.find? (fun c => c.matches pkg cid) = some c → c.bars = []) :
    ∀ (apps : List Nat) {t : State} {done : List Nat}, s.Noticed t pkg cid done →
      s.Noticed (apps.foldl (fun t k => t.abortColl k pkg cid) t) pkg cid (apps.reverse ++ done)
  | [], _, _, so => so
  | k :: apps, t, done, so => by
    have next := foldl_abortColl_noticed bars apps (so.cons (abortColl_noticed fun c => so.bars (bars k)))
    rwa [List.reverse_cons, List.append_assoc]

theorem mem_notified {j : Nat} : j ∈ s.notified s.inp ↔
    j ∈ s.apps.map Prod.fst ∧ (s.inp.m = s.pkg → s.appId j = s.inp.a1.toNat) := by
  rw [State.notified, List.mem_filter]
  refine and_congr_right fun _ => ?_
  rw [Bool.or_eq_true, decide_eq_true_iff, decide_eq_true_iff]
  exact imp_iff_not_or.symm

theorem execPeerKillNotice_noticed (bars : ∀ j c, (s.app j).colls.find? (fun c => c.matches s.inp.m s.inp.k) = some c → c.bars = []) :
    ∃ u, execPeerKillNotice s = .next u ∧ s.Noticed u s.inp.m s.inp.k (s.notified s.inp).reverse :=
  ⟨_, rfl, by simpa using foldl_abortColl_noticed bars (s.notified s.inp) (noticed_refl s.inp.m s.inp.k)⟩

end Sys2Proof.Machine
end

section
/-! The settled obligation. -/

namespace Sys2Proof.Machine

variable {s t : State} {f : Fmt} {bar : Word} {es : List SElem}

/-- What the trains of a VSTXR leave: those to the own package have written, and each package named has its train. -/
theorem sendAll_stores {u : State} (sent : u = t.sendAll f bar es (distinct (es.map fun e => remPkg e.va) [])) :
    t.Sends u ∧
    (trainTo f es t.pkg = [] → u.mem = t.mem ∧ u.poison = t.poison ∧ u.hart = t.hart ∧ u.others = t.others) ∧
    (trainTo f es t.pkg ≠ [] → t.trainWrote u t.hart.who t.hart.app bar (trainTo f es t.pkg)) ∧
    t.trains <+: u.trains ∧ ((u.trains.drop t.trains.length).map fun x => x.elems.length).sum = es.length := by
  have named : t.pkg ∈ distinct (es.map fun e => remPkg e.va) [] ↔ trainTo f es t.pkg ≠ [] := by
    rw [mem_distinct, trainTo, trainElems, Ne, List.map_eq_nil_iff, List.filter_eq_nil_iff]
    simp
  obtain ⟨ts, trains, lengths⟩ := sendAll_trains f bar es (distinct (es.map fun e => remPkg e.va) []) t
  rw [← sent] at trains
  refine ⟨sent ▸ sendAll_sends .., fun none_ => ?_, fun some_ => ?_, ⟨ts, trains.symm⟩, ?_⟩
  · exact sent ▸ sendAll_away f bar es _ t fun m => named.mp m none_
  · exact sent ▸ sendAll_here (distinct_nodup List.nodup_nil) (named.mpr some_)
  · rw [trains, List.drop_left, lengths, trainTo_lengths]

/-- One that repeats its package, or whose operation or tag is not the round's. -/
theorem accept_mixed {c : Contrib} {w : Window} {r : Round} (found : (s.app c.app).window (remWin c.addr.toNat) true = some w)
    (home : remPkg c.addr.toNat = w.home) (fits : remOff c.addr.toNat % c.tag.bytes = 0)
    (short : remOff c.addr.toNat + c.tag.bytes ≤ w.length)
    (open_ : s.openRound c.app (remWin c.addr.toNat) (remOff c.addr.toNat) w.npart = some r)
    (mixed : s.pkg ∈ r.pkgs ∨ r.op ≠ c.op ∨ r.tag ≠ c.tag) : s.uncontributed.accept s.pkg c = none := by
  have open_ : s.uncontributed.openRound c.app (remWin c.addr.toNat) (remOff c.addr.toNat) w.npart = some r := open_
  rw [accept_eq (s := s.uncontributed) found home fits short, open_]
  exact if_pos (by simpa [or_assoc] using mixed)

section
variable {c : Contrib} (own : s.inp.flag = false) (sent : s.waitsToSend (.fred s.inp.n) = false) (up : s.inp.k ≠ 1)
  (single : s.contribs.filter (fun q => decide (q.fred = s.inp.n)) = [c])
include own sent up single

/-- A contribution that reaches the round of its word. -/
theorem fredAccept_open {w : Window} {r : Round} (found : (s.app c.app).window (remWin c.addr.toNat) true = some w)
    (home : remPkg c.addr.toNat = w.home) (fits : remOff c.addr.toNat % c.tag.bytes = 0)
    (short : remOff c.addr.toNat + c.tag.bytes ≤ w.length)
    (open_ : s.openRound c.app (remWin c.addr.toNat) (remOff c.addr.toNat) w.npart = some r) (first : s.pkg ∉ r.pkgs)
    (op : r.op = c.op) (tag : r.tag = c.tag) :
    s.Joins c w r { r with vals := r.vals ++ [c.val], pkgs := r.pkgs ++ [s.pkg] } := by
  refine fredAccept_joins own sent up single rfl rfl rfl
    (next := (s.uncontributed.joined w.npart r { r with vals := r.vals ++ [c.val], pkgs := r.pkgs ++ [s.pkg] }).nextRound) ?_
  have open_ : s.uncontributed.openRound c.app (remWin c.addr.toNat) (remOff c.addr.toNat) w.npart = some r := open_
  rw [accept_eq (s := s.uncontributed) found home fits short, open_]
  exact if_neg (by simp [first, op, tag])

/-- The first contribution of a round. -/
theorem fredAccept_new {w : Window} (found : (s.app c.app).window (remWin c.addr.toNat) true = some w)
    (home : remPkg c.addr.toNat = w.home) (fits : remOff c.addr.toNat % c.tag.bytes = 0)
    (short : remOff c.addr.toNat + c.tag.bytes ≤ w.length)
    (new : s.openRound c.app (remWin c.addr.toNat) (remOff c.addr.toNat) w.npart = none) {r : Round}
    (fresh : r = { num := s.nextRound, app := c.app, win := remWin c.addr.toNat, off := remOff c.addr.toNat, op := c.op, tag := c.tag,
                   vals := [], pkgs := [], status := 0 }) :
    s.Joins c w r { r with vals := [c.val], pkgs := [s.pkg] } := by
  subst fresh
  refine fredAccept_joins own sent up single rfl rfl rfl (next := s.nextRound + 1) ?_
  have new : s.uncontributed.openRound c.app (remWin c.addr.toNat) (remOff c.addr.toNat) w.npart = none := new
  rw [accept_eq (s := s.uncontributed) found home fits short, new]
  rfl

end

/-- Settles O44: VSTXR and FRED by `vstxr_sends` and `fred_sends`; a train at its destination by `execTrainArrive_performs`, its
acknowledgement by `execTrainAck_eq`; a contribution at its switch by `execFredAccept_eq` and `accept_eq`; the delivery of a round by
`putMerged_open`; a notice by `execPeerKillNotice_noticed`. -/
theorem remoteAccesses : Obligations.RemoteAccesses := by
  unfold Obligations.RemoteAccesses
  refine ⟨?issue, ?wait, ?own, ?arrive, ?ack, ?accept, fun h r => addRec_split, ?deliver, ?performed, ?arrives, ?notice⟩
  case issue =>
    intro s t d a b m v w h iss read named able es mine
    refine ⟨fun tag aligned free => ?_, fun op same tag => ?_⟩
    · obtain ⟨sends, none_, some_, trains, lengths⟩ := sendAll_stores (f := v.fmt) (bar := t.rx a) (es := es) (t := t) rfl
      exact ⟨_, vstxr_sends iss read named able tag aligned rfl free, sends, none_, some_, trains, lengths⟩
    · exact ⟨_, fred_sends iss read named able op same tag rfl, contribute_frame .., contribute_contribs ..⟩
  case wait =>
    intro s d a able
    refine ⟨fredwaitAt_contributing able, fun accepted => ⟨fun r found => ⟨fun start set_out => ?_, ?_⟩, ?_⟩⟩
    · exact fredwait_settled able accepted found ⟨start, set_out⟩
    · exact fredwaitAt_underWay able accepted found
    · exact fredwait_gone able accepted
  case own => exact fun s own => if_pos own
  case arrive =>
    exact fun s other => ⟨execTrainArrive_held other, execTrainArrive_performs other rfl⟩
  case ack =>
    exact fun s t found sent => ⟨execTrainAck_clean found sent, fun e rest some_ id run others =>
      execTrainAck_faults found sent some_ id run others⟩
  case accept =>
    intro s c own sent up single win off faults joins
    have refused (none_ : s.uncontributed.accept s.pkg c = none) : faults := fun id run others =>
      execFredAccept_faults own sent up single none_ id run others
    refine ⟨fun none_ => refused (accept_noWindow none_), fun w found => ⟨fun out => refused (accept_outside found out),
      fun home fits short => ⟨fun r open_ => ⟨fun mixed => ?_, fun first op tag => ?_⟩, fun new => ?_⟩⟩⟩
    · exact refused (accept_mixed found home fits short open_ mixed)
    · exact fredAccept_open own sent up single found home fits short open_ first op tag
    · exact fredAccept_new own sent up single found home fits short new rfl
  case deliver =>
    intro s r w x value full found win all
    have runs : exec .fredRoundDeliver s = .next (s.deliver r w) := execFredRoundDeliver_eq value full found win
    refine ⟨fun home ok => ⟨fun open_ => ?_, fun closed => ?_⟩, fun away => ?_, Round.merged_sum⟩
    · rw [deliver_here all home, putMerged_open ok open_] at runs
      exact ⟨_, runs, fun q => setRound_status, fun p => mget_putCells_cellsLE p ..⟩
    · rw [deliver_here all home, putMerged_closed ok closed] at runs
      exact runs
    · rw [deliver_away all away] at runs
      exact ⟨_, _, runs, rfl, rfl, rfl, rfl, fun q => setRound_status⟩
  case performed =>
    intro s report
    have runs : exec .fredRoundDeliver s = _ := execFredRoundDeliver_report report
    refine ⟨fun way => ?_, fun none_ => ?_⟩
    · rw [if_pos way] at runs
      exact ⟨_, runs, rfl, fun q => setRound_status⟩
    · rwa [if_neg fun ⟨r, mem, num, two⟩ => none_ r mem num two] at runs
  case arrives =>
    intro s tag pkg f w x value nums code win va ok open_
    have runs : exec .fredRoundDeliver s = _ := execFredRoundDeliver_in value nums
    rw [deliverIn_open code win ok open_] at runs
    exact ⟨_, runs, rfl, fun p => mget_putCells_cellsLE p ..⟩
  case notice =>
    intro s bars about
    obtain ⟨u, runs, noticed⟩ := execPeerKillNotice_noticed bars
    have told : ∀ j, j ∈ (s.notified s.inp).reverse ↔ about j := fun j => List.mem_reverse.trans mem_notified
    refine ⟨u, runs, noticed.mem, noticed.hart, noticed.others, fun j c named found active q mem same => ?_, fun j other =>
      noticed.untouched j fun m => other ((told j).mp m)⟩
    rw [noticed.aborted j c ((told j).mpr named) found active] at mem
    obtain ⟨x, -, rfl⟩ := List.mem_map.mp mem
    exact Coll.abortedBy_state same

end Sys2Proof.Machine
end
